-- ==== Sys2Proof/Word.lean ====
section
/-!
DEFINITION. The word types of the Plehild 6 (R2, R38): 32-bit register words, bytes, and 64-bit pairs.
-/
namespace Sys2Proof

/-- A 32-bit register word of one lane (R38). -/
abbrev Word := BitVec 32
/-- A byte of a store (R66). -/
abbrev Byte := BitVec 8
/-- A 64-bit value: a register pair, a generic address, a count word (R10, R87, R214). -/
abbrev DWord := BitVec 64

end Sys2Proof
end

