-- ==== Sys2Proof/Syntax.lean ====
section
/-!
DEFINITION. The instructions of the Plehild 6, one constructor per row of spec/opcode_table.json: 172 instruction words
(R232, R233) and 108 steps of the machine that no word encodes (spec/95_what_each_step_holds.md). The operands of a word are its decoded
fields; the operands of a step name which instance of it is taken and the choice it makes (R7).
-/
namespace Sys2Proof

/-! ### Register operands -/

/-- A 7-bit source field: a vector register v0–v119 or a latch L0–L7 (R213). -/
inductive Src where
  | v (n : Nat)
  | lat (k : Nat)
deriving DecidableEq, Repr

/-- A destination field together with the bit n (R222): a register code, or no register with n = 1. -/
inductive Dst where
  | v (n : Nat)
  | nw
deriving DecidableEq, Repr

/-! ### Selectors -/

/-- Saturation slot (R225, slot 3). -/
inductive Sat where
  | wrap | ssat | usat
deriving DecidableEq, Repr

/-- Signedness (R237). -/
inductive Sgn where
  | s | u
deriving DecidableEq, Repr

/-- Signed relations of ICMP (R242). -/
inductive CmpS where
  | eq | ne | lt | le
deriving DecidableEq, Repr

/-- Unsigned relations of ICMPU (R242). -/
inductive CmpU where
  | lt | le
deriving DecidableEq, Repr

/-- Type slot of the floating-point instructions (R245). -/
inductive FType where
  | f32 | f16x2 | bf16x2
deriving DecidableEq, Repr

/-- Element type of DOT2 (R246). -/
inductive DotType where
  | f16x2 | bf16x2
deriving DecidableEq, Repr

/-- Rounding modes (R190, R225). -/
inductive RMode where
  | rne | rz | rd | ru
deriving DecidableEq, Repr

/-- Relations of FCMP (R250). -/
inductive FCmpOp where
  | eq | lt | le | un
deriving DecidableEq, Repr

/-- Operations of FSIGN (R251). -/
inductive SignOp where
  | abs | neg | copysign | nabs
deriving DecidableEq, Repr

/-- Shift selectors of SHIFTI (R244). -/
inductive ShiftOp where
  | shl | shr | sar | rol
deriving DecidableEq, Repr

/-- Selectors of MOV (R243). -/
inductive MovSel where
  | mov | fromc | toc
deriving DecidableEq, Repr

/-- Selectors of FXTR (R254). -/
inductive XtrSel where
  | exp | mant
deriving DecidableEq, Repr

/-- Selectors of PACK (R256). -/
inductive PackSel where
  | f16 | bf16 | b16
deriving DecidableEq, Repr

/-- Selectors of UNPK (R256). -/
inductive UnpkSel where
  | f16 | bf16 | s16 | u16
deriving DecidableEq, Repr

/-- Modes of SHFL (R260). -/
inductive ShflMode where
  | idx | up | down | xor
deriving DecidableEq, Repr

/-- Selectors of VOTE (R261). -/
inductive VoteOp where
  | any | all | ballot | eq
deriving DecidableEq, Repr

/-- Selectors of SREDI (R262). -/
inductive RedI where
  | add | min | max | umax
deriving DecidableEq, Repr

/-- Selectors of SREDF (R262). -/
inductive RedF where
  | add | min | max
deriving DecidableEq, Repr

/-- Selectors of SSCAN (R263). -/
inductive ScanType where
  | i32 | f32
deriving DecidableEq, Repr

/-- Selectors of MATCH (R265). -/
inductive MatchSel where
  | any | all
deriving DecidableEq, Repr

/-- Entry modifiers of TMENT and TMACC (R267). -/
inductive EntryMod where
  | normal | clamp | zeropass
deriving DecidableEq, Repr

/-- Access sizes of format VM (R211). -/
inductive Size where
  | w | d | q | b
deriving DecidableEq, Repr

/-- Scope codes of a memory access (R67). -/
inductive Scope where
  | plain | grp | core | clu | dev | sys | rmt
deriving DecidableEq, Repr

/-- Atomic operations (R275). -/
inductive AtomOp where
  | add | sub | min | max | umin | umax | and | or | xor | xchg | cas | inc | dec
  | faddF32 | faddBf16x2 | fminF32 | fmaxF32
deriving DecidableEq, Repr

/-- Selectors of JMSET (R291). -/
inductive MaskOp where
  | ld | or | andn | fib
deriving DecidableEq, Repr

/-- Scopes of CWAIT and CWAITT (R295). -/
inductive CwScope where
  | core | clu | dev | sys
deriving DecidableEq, Repr

/-- Scopes of CINC (R295). -/
inductive CiScope where
  | plain | core | clu | dev
deriving DecidableEq, Repr

/-- Forms of CWB (R302, R98). -/
inductive CwbForm where
  | wb | inv | wbinv
deriving DecidableEq, Repr

/-- The engine contexts of a team, with the code TSTAT gives them (R303). -/
inductive EngCtx where
  | copy | matrix | exch | dcmp
deriving DecidableEq, Repr

/-- Flags of DRAIN (R315). -/
structure DrainFlags where
  all : Bool
  sm : Bool
  z : Bool
deriving DecidableEq, Repr

/-- Flags of TCOPY (R321). -/
structure CopyFlags where
  all : Bool
  ver : Bool
  cr : Bool
  arr : Bool
deriving DecidableEq, Repr

/-! ### Names used by the steps of the machine -/

/-- A fibre: its team, its group in the team, and its number in the group. -/
structure FRef where
  t : Nat
  g : Nat
  f : Nat
deriving DecidableEq, Repr

/-- The die agents (R65). -/
inductive DieAgent where
  | spindle | batten | heddle | queue
deriving DecidableEq, Repr

/-- The points of the ordering machine (R68). -/
inductive Point where
  | group (t g : Nat)
  | eng (t : Nat) (k : EngCtx)
  | core (t : Nat)
  | clu (c : Nat)
  | die (d : Nat) (a : DieAgent)
  | host
  | dev
  | sys
deriving DecidableEq, Repr

/-- The stores a location may lie in (R66, R68): the allocation of a team, package memory and weight store, host memory,
or the windows that another device has for a partition, reached through the system point (R32, R69). -/
inductive Space where
  | scr (t : Nat)
  | pkg
  | host
  | fab (device part : Nat)
deriving DecidableEq, Repr

/-- One access of a fabric request (R33): a read, a write of bytes, or an atomic on an operand (and a comparand). -/
inductive FabAcc where
  | read (size : Nat)
  | write (data : List Byte)
  | atom (op : AtomOp) (dbl : Bool) (cmp opnd : DWord)
  | cinc (inc : Nat)
deriving DecidableEq, Repr

/-- What a fabric request asks its target for: to perform its accesses; where one instruction's atomics go to several homes, only to check them (R19, R23), to perform some
that have been checked, or to forget them. -/
inductive FabPhase where
  | whole
  | check
  | commit
  | drop
deriving DecidableEq, Repr

/-- A fabric request on its way to its target (R33, R34): the issuing device and its transaction, the partition, and the accesses one instruction
makes there in lane order: each one's number in the transaction, its offset into the target's windows, and what it does; what it asks for, and whether its writes are
synchronising ones of core scope (R80). -/
structure FabReq where
  src : Nat
  target : Nat
  xid : Nat
  part : Nat
  accs : List (Nat × Nat × FabAcc)
  phase : FabPhase
  sync : Bool
deriving DecidableEq, Repr

/-- What a target answers to an access (R33, R34). -/
inductive FabRes where
  | ok (data : List Byte)
  | refused (cause sub : Nat)
  | stale
deriving DecidableEq, Repr

/-- An answer on its way to the issuer (R34), by the numbers of the accesses. -/
structure FabAns where
  xid : Nat
  res : List (Nat × FabRes)
deriving DecidableEq, Repr

/-- What the network brings a rank of a collective (R343, R345): the records of the group's other ranks, each with its number under its tag, once all have
accepted, and whether switch slots were granted; their contributions; the acknowledgement of this rank's own; a chunk asked for again; or nothing. -/
inductive CollMsg where
  | start (slots : Bool) (recs : List (Nat × List Byte))
  | data (inputs : List (List Byte))
  | acked
  | again (dev chunk : Nat)
  | quiet
deriving DecidableEq, Repr

/-- A request for granted bytes of a bulk transfer (R337, R338): the sender and its transfer, the fabric offset of the
destination's first byte, the message length, the first byte asked for and the end of what is asked for, priority. `get` marks the request
of an XGET: `off` is then the fabric offset of its source. `drift` marks the request of a drift message (R117): receiving die, TAG and sending
island. -/
structure XferReq where
  src : Nat
  xid : Nat
  part : Nat
  off : Nat
  len : Nat
  sent : Nat
  upto : Nat
  prio : Nat
  get : Bool
  drift : Option (Nat × Nat × Nat)
deriving DecidableEq, Repr

/-- How a message of the island transport is sealed (R366): its counter and its tag. -/
structure Seal where
  counter : Nat
  tag : BitVec 128
deriving DecidableEq, Repr

/-- A bulk data packet (R337): the offset in the message, the data, the arrival counter's fabric offset, the token it travels under
(none for the prefix), and the end mark; of a drift message the data are ciphertext and the seal is the message's (R366). -/
structure Packet where
  src : Nat
  xid : Nat
  part : Nat
  base : Nat
  pos : Nat
  len : Nat
  data : List Byte
  actr : Option Nat
  token : Option Nat
  pfxLen : Nat
  last : Bool
  get : Bool
  sealed : Option Seal
deriving DecidableEq, Repr

/-- The statuses of R164. -/
inductive Status where
  | ok | fault | seal | stale | orphan | revoked | broken | noslot
deriving DecidableEq, Repr

/-- An acknowledgement of a transfer's packet (its offset, and the bytes delivered) or, with `packet` false, the answer of a request refused
or orphaned (R337, R339). -/
structure XferAck where
  xid : Nat
  packet : Bool
  pos : Nat
  bytes : Nat
  status : Status
  sub : Nat
deriving DecidableEq, Repr

/-- A grant on its way to a sender (R337): a token for `len` bytes at `pos` of the transfer. -/
structure Grant where
  xid : Nat
  token : Nat
  pos : Nat
  len : Nat
deriving DecidableEq, Repr

/-- A handle's fields (R347). -/
structure Handle where
  home : Nat
  index : Nat
  gen : Nat
deriving DecidableEq, Repr

/-- An invocation on its way to a device (R349, R350, R351). `parent` is the handle an RINVH names. -/
structure Invocation where
  handle : Handle
  part : Nat
  issuer : Nat
  team : Nat
  func : Nat
  args : List Byte
  parent : Option Handle
  input : List Byte
deriving DecidableEq, Repr

/-- What a handle has become, as a home or a result device reports it (R347, R350, R353). -/
inductive HState where
  | pending
  | placed (device entry : Nat)
  | done (result : List Byte)
  | broken (cause depth : Nat)
deriving DecidableEq, Repr

/-- The 32-byte drift message header and payload of R116, decoded. -/
structure Drift where
  tag : Nat
  round : Nat
  frag : Nat
  island : Nat
  m : Nat
  nsq : Nat
  count : Nat
  exps : List Byte
  mants : List Byte
deriving DecidableEq, Repr

/-- An origin of a rectangle of cores: die, row and column (R143). -/
structure Origin where
  die : Nat
  row : Nat
  col : Nat
deriving DecidableEq, Repr

/-- What a soft error strikes (R378). -/
inductive SoftErr where
  | corrected (die : Nat)
  | poisonPkg (unit : Nat)
  | poisonScr (t unit : Nat)
  | register (t g reg lane : Nat)
  | latch (t g k lane : Nat)
  | accumulator (t tile i j : Nat)
  | scale (t off : Nat)
  | owner (t : Nat)
  | keyStore
deriving DecidableEq, Repr

/-- A memory-encryption key (R30): the 64 bytes of an AES-256-XTS key. -/
abbrev Key := List Byte

/-- What a link key is for (R364–R366, R374): a port's outgoing direction; its incoming direction, from a port of another device; or the messages this
island sends to another, or receives from it, at its transport address, with the two islands' indices. -/
inductive KeyUse where
  | out (port : Nat)
  | inn (port : Nat) (device peer : Nat)
  | island (address : Nat) (outgoing : Bool) (src dst : Nat)
deriving DecidableEq, Repr

/-- How an access to package memory or the weight store is encrypted (R30, R31): the key, the partition and its 64-byte unit; `pol` is the
package-cache policy of the access (R13, R55). -/
structure KTag where
  key : Key
  p : Nat
  unit : Nat
  pol : Nat
deriving DecidableEq, Repr

/-- The instructions and steps of the machine: one constructor per row of spec/opcode_table.json. -/
inductive Instr where
  /- V-set, integer (R237–R244) -/
  | iadd (m : Sat) (d : Dst) (a b : Src)
  | isub (m : Sat) (d : Dst) (a b : Src)
  | imul (m : Sat) (d : Dst) (a b : Src)
  | imulh (m : Sgn) (d : Dst) (a b : Src)
  | imad (m : Sat) (d : Dst) (a b : Src)
  | imin (m : Sgn) (d : Dst) (a b : Src)
  | imax (m : Sgn) (d : Dst) (a b : Src)
  | isad (m : Sgn) (d : Dst) (a b : Src)
  | and (d : Dst) (a b : Src)
  | or (d : Dst) (a b : Src)
  | xor (d : Dst) (a b : Src)
  | andn (d : Dst) (a b : Src)
  | shl (d : Dst) (a b : Src)
  | shr (d : Dst) (a b : Src)
  | sar (d : Dst) (a b : Src)
  | rol (d : Dst) (a b : Src)
  | popc (d : Dst) (a : Src)
  | clz (d : Dst) (a : Src)
  | brev (d : Dst) (a : Src)
  | bfx (m : Sgn) (d : Dst) (a b : Src)
  | bfi (d : Dst) (a b : Src)
  | icmp (op : CmpS) (c : Dst) (a b : Src)
  | icmpu (op : CmpU) (c : Dst) (a b : Src)
  | sel (c : Nat) (d : Dst) (a b : Src)
  | iaddi (d : Dst) (a : Src) (k : Int)
  | andi (d : Dst) (a : Src) (k : Int)
  | ori (d : Dst) (a : Src) (k : Int)
  | xori (d : Dst) (a : Src) (k : Int)
  | shifti (op : ShiftOp) (d : Dst) (a : Src) (n : Nat)
  | mov (sel : MovSel) (d : Dst) (a : Src)
  | iadd64 (d : Dst) (a b : Nat)
  /- V-set, floating point (R245–R257) -/
  | fadd (ty : FType) (d : Dst) (a b : Src)
  | fsub (ty : FType) (d : Dst) (a b : Src)
  | fmul (ty : FType) (d : Dst) (a b : Src)
  | ffma (ty : FType) (d : Dst) (a b : Src)
  | ffms (ty : FType) (d : Dst) (a b : Src)
  | fnma (ty : FType) (d : Dst) (a b : Src)
  | fmin (ty : FType) (d : Dst) (a b : Src)
  | fmax (ty : FType) (d : Dst) (a b : Src)
  | fcmp (op : FCmpOp) (c : Dst) (a b : Src)
  | fsign (op : SignOp) (d : Dst) (a b : Src)
  | cvt (rm : RMode) (d : Dst) (a : Src) (code : Nat)
  | cvts (rm : RMode) (d : Dst) (a : Src) (code : Nat)
  | frnd (rm : RMode) (d : Dst) (a : Src)
  | rcp (d : Dst) (a : Src)
  | rsq (d : Dst) (a : Src)
  | sqrt (d : Dst) (a : Src)
  | ex2 (d : Dst) (a : Src)
  | lg2 (d : Dst) (a : Src)
  | sin (d : Dst) (a : Src)
  | cos (d : Dst) (a : Src)
  | tanh (d : Dst) (a : Src)
  | fscale (d : Dst) (a b : Src)
  | fxtr (sel : XtrSel) (d : Dst) (a : Src)
  | pack (sel : PackSel) (d : Dst) (a b : Src)
  | unpk (sel : UnpkSel) (d : Dst) (a : Src) (h : Nat)
  | cbq (d : Dst) (a : Src) (nib : Nat)
  | cbx (d : Dst) (a : Src) (nib : Nat)
  | dot2 (ty : DotType) (d : Dst) (a b : Src)
  /- V-set, sections and transformed means (R259–R270) -/
  | shfl (mode : ShflMode) (d : Dst) (a b : Src)
  | vote (op : VoteOp) (d : Dst) (c : Nat)
  | sredi (op : RedI) (d : Dst) (a : Src)
  | sredf (op : RedF) (d : Dst) (a : Src)
  | sscan (ty : ScanType) (excl : Bool) (d : Dst) (a : Src)
  | prmt (d : Dst) (a b : Src)
  | matchS (sel : MatchSel) (d : Dst) (a : Src)
  | firstl (d : Dst) (c : Nat)
  | tment (md : EntryMod) (d : Dst) (a : Src)
  | tmacc (md : EntryMod) (d : Dst) (a : Src)
  | tmmrg (d : Dst) (a b : Nat)
  | tmsred (d : Dst) (a : Nat)
  | tmexit (d : Dst) (a : Nat)
  /- V-set, memory (R271–R277) -/
  | ld (sz : Size) (sc : Scope) (d a : Nat) (off : Int)
  | st (sz : Size) (sc : Scope) (d : Src) (a : Nat) (off : Int)
  | lds (sz : Size) (sc : Scope) (d : Nat) (a : Src) (off : Int)
  | sts (sz : Size) (sc : Scope) (d a : Src) (off : Int)
  | ldfe (sz : Size) (sc : Scope) (d : Nat) (a : Src) (off : Int)
  | ldfet (sz : Size) (sc : Scope) (d : Nat) (a : Src) (off : Int)
  | stfe (sz : Size) (sc : Scope) (d a : Src) (off : Int)
  | atom (op : AtomOp) (sc : Scope) (dbl : Bool) (d a : Nat)
  | atoms (op : AtomOp) (sc : Scope) (dbl : Bool) (d : Nat) (a : Src)
  | pref (xlate : Bool) (a : Nat) (off : Int)
  /- V-set, control (R285–R291) -/
  | br (c : Nat) (sense : Bool) (off : Int)
  | brx (a tag : Nat)
  | callx (d a tag : Nat)
  | retx (a : Nat)
  | join (j : Nat)
  | lpad (tag : Nat)
  | fork (c a : Nat) (b : Src)
  | fend
  | jmset (op : MaskOp) (j : Nat) (a : Src)
  | limm (d : Dst) (lit : Word)
  /- U-set, scalar (R279) -/
  | uadd (m : Sat) (d : Dst) (a b : Src)
  | usub (m : Sat) (d : Dst) (a b : Src)
  | umul (m : Sat) (d : Dst) (a b : Src)
  | umulh (m : Sgn) (d : Dst) (a b : Src)
  | umad (m : Sat) (d : Dst) (a b : Src)
  | umin (m : Sgn) (d : Dst) (a b : Src)
  | umax (m : Sgn) (d : Dst) (a b : Src)
  | uand (d : Dst) (a b : Src)
  | uor (d : Dst) (a b : Src)
  | uxor (d : Dst) (a b : Src)
  | ushl (d : Dst) (a b : Src)
  | ushr (d : Dst) (a b : Src)
  | usar (d : Dst) (a b : Src)
  | upopc (d : Dst) (a : Src)
  | uclz (d : Dst) (a : Src)
  | ucmp (op : CmpS) (c : Dst) (a b : Src)
  | ucmpu (op : CmpU) (c : Dst) (a b : Src)
  | usel (c : Nat) (d : Dst) (a b : Src)
  | uaddi (d : Dst) (a : Src) (k : Int)
  | uandi (d : Dst) (a : Src) (k : Int)
  | uori (d : Dst) (a : Src) (k : Int)
  | ushifti (op : ShiftOp) (d : Dst) (a : Src) (n : Nat)
  | umov (sel : MovSel) (d : Dst) (a : Src)
  | uadd64 (d : Dst) (a b : Nat)
  /- U-set, control and system (R280–R284, R292–R303) -/
  | ubr (c : Nat) (sense chk : Bool) (off : Int)
  | ujmp (off : Int)
  | ucall (off : Int)
  | uret (a : Nat)
  | udbnz (d : Dst) (off : Int)
  | trl (all : Bool) (regs : List Nat)
  | nop
  | yield
  | halt
  | trap (code : Nat)
  | eret
  | barinit (b : Nat) (a : Src)
  | bararr (d : Dst) (b : Nat)
  | barwait (b : Nat) (a : Src)
  | bararw (d : Dst) (b : Nat)
  | cwait (sc : CwScope) (d : Dst) (a b : Nat)
  | cwaitt (sc : CwScope) (d : Dst) (a b : Nat)
  | cinc (sc : CiScope) (d : Dst) (a : Nat) (b : Src)
  | fence (sc : Scope) (tok : Nat)
  | fwait (tok : Nat)
  | clubar (all : Bool)
  | srd (d : Dst) (num : Nat)
  | swr (num : Nat) (a : Src)
  | cbld (a : Nat)
  | tmshp (code : Nat)
  | tmtab (a slot : Nat)
  | ipf (a : Nat) (b : Src)
  | ipin (d : Dst) (a : Nat) (b : Src)
  | iunpin (a : Nat) (b : Src)
  | cwb (form : CwbForm) (sc : Scope) (a : Nat) (b : Src)
  | tstat (d : Nat) (ctx : EngCtx)
  /- U-set, engines (R304–R333) -/
  | mma (zs : Bool) (a : Src) (b slot : Nat)
  | accz (mask : Nat)
  | drain (col : Bool) (fl : DrainFlags) (a : Src) (slot : Nat)
  | tcopy (pack : Bool) (fl : CopyFlags) (a : Src)
  | tcopyColl (a : Src)
  | dcjob (arr : Bool) (a : Src)
  | rrot (bwd : Bool) (a b : Src)
  | xsort (a : Src)
  | prolog (k : Nat)
  /- U-set, fabric, invocation, plane pairs (R335–R358) -/
  | xput (a b : Nat)
  | xget (a b : Nat)
  | xarm (a : Src) (b : Nat)
  | xdisarm (b : Src)
  | rinv (d : Dst) (a : Src)
  | rinvh (d : Dst) (a : Src) (b : Nat)
  | hwait (trap : Bool) (d : Dst) (a b : Nat)
  | hstat (d : Dst) (a : Nat)
  | hfree (a : Nat)
  | iwait (d : Dst) (a b : Src)
  | idone (fail : Bool) (a b : Src)
  | wopen (k : Nat)
  | wclose (k : Nat)
  | pmerge (d : Dst) (k : Nat)
  | pstat (d : Dst) (a : Src) (k : Nat)
  | ptrick (d : Dst) (a : Src) (k : Nat)
  | dchk (d : Dst) (k : Nat)
  | ulimm (d : Dst) (lit : Word)
  /- A word whose opcode is reserved in its set (R234) -/
  | reservedOpcode (w : Word)
  /- Two steps of the machine's own: BIND of a plane region, which goes on unit by unit, and an engine's FETIMEOUT -/
  | bind (q : Nat)
  | engineFeTimeout (t : Nat)
  /- Steps of the ordering machine, translation and issue -/
  | propagate (wid : Nat)
  | refresh (pt : Point) (sp : Space) (unit : Nat) (tag : Option KTag) (away : List Byte) (drop : Bool)
  | missQueueEnter (w : FRef)
  | pageWalk (core idx : Nat)
  | longLatencyComplete (id : Nat)
  | portSchedule (core quad pick : Nat)
  | groupActivate (core quad : Nat)
  | asyncTrap (w : FRef)
  | fetimeout (w : FRef)
  | fullEmptyTake (w : FRef)
  | cwaitComplete (w : FRef)
  | cwaittBound (w : FRef)
  | fwaitComplete (w : FRef)
  | wopenProceed (w : FRef)
  | hwaitComplete (w : FRef)
  | iwaitTake (w : FRef)
  /- Steps of the engine contexts -/
  | engineCommandEnter (w : FRef)
  | mmaOperation (t work : Nat)
  | acczOperation (t : Nat)
  | drainOperation (t work : Nat)
  | tcopyOperation (t work : Nat)
  | packOperation (t work : Nat)
  | prologOperation (t work : Nat)
  | dcmpJob (t work : Nat)
  | ringRotation (clu work : Nat)
  | xputOperation (t : Nat)
  | xgetOperation (t : Nat)
  | collective (t work : Nat) (w : CollMsg)
  | xsortOperation (t work : Nat)
  | triggeredSend (t n : Nat)
  | engineRetire (t : Nat) (k : EngCtx)
  /- Launches and pre-emption -/
  | prologue (t : Nat)
  | groupStart (clu : Nat)
  | launchAdmit (l : Nat) (place : List (List Origin))
  | clusterStart (l : Nat) (place : List Origin)
  | allocationRelease (clu : Nat)
  | noticeExpiry (clu : Nat)
  | teamSave (clu : Nat)
  | teamRestore (clu : Nat) (place : List (List Origin))
  /- Fabric -/
  | fabricAccessArrival (r : FabReq)
  | fabricAnswer (a : FabAns)
  | requestArrival (r : XferReq)
  | packetArrival (p : Packet)
  | tokenGrant (die part : Nat)
  | tokenExpiry (token : Nat)
  | transferAck (a : XferAck)
  /- Plane pairs -/
  | spindleSend (rgn die n : Nat)
  | driftMessageArrival (src xid : Nat)
  | battenFold (rgn frag : Nat)
  | mergePass (rgn : Nat)
  | islandSilent (rgn frag island : Nat)
  /- Handles -/
  | invocationArrival (i : Invocation)
  | invocationPlace (part idx : Nat)
  | rinvhForward (part idx : Nat)
  /- Stores, links, monitors -/
  | refreshStart (die : Nat)
  | refreshEnd (die : Nat)
  | throttleCheck (die : Nat)
  | scrub (unit : Nat)
  | flitSend (port : Nat) (payload : List Byte)
  | flitReceive (port : Nat) (phase : Bool) (counter : Nat) (cipher : List Byte) (tag : BitVec 64)
  | keyInstall (use : KeyUse) (session : Option (List Byte))
  | alarmDetect (bits : BitVec 4)
  | coldReset (failed : Nat) (alpol : Bool) (device : BitVec 13) (links : BitVec 2) (offs phases : List Nat) (boot firmware fuses : List Byte)
  | pcieLinkChange (link : Nat) (up : Bool)
  /- Management core requests (R372) -/
  /- The attestation service: `ch` is the channel of the requester: 0 and 1 are the mailboxes of the PCI Express functions, 2 + n the management channel
  of Fexel port n (R359, R372). -/
  | getVersion (ch : Nat)
  | getCapabilities (ch : Nat)
  | negotiateAlgorithms (ch : Nat)
  | getDigests (ch : Nat)
  | getCertificate (ch : Nat) (slot : Nat)
  | challenge (ch : Nat) (slot : Nat)
  | getMeasurements (ch : Nat) (index : Nat) (signed : Bool)
  | keyExchange (ch : Nat) (slot : Nat)
  | finish (ch : Nat) (verified : Bool)
  | endSession (ch : Nat)
  | measExtend (ch : Nat) (k : Nat) (digest : List Byte)
  | unsupportedRequest (ch : Nat) (code : Nat)
  /- Host writes and queue commands -/
  | queueEnable (q : Nat)
  | queueDisable (q : Nat)
  | tail (q : Nat) (v : BitVec 16)
  | chead (q : Nat) (v : BitVec 16)
  | alarmClear (bits : BitVec 4)
  | registerWrite (off : Nat) (v : DWord)
  | queueFetch (q : Nat)
  | launch (q : Nat)
  | wait (q : Nat)
  | queueWaitComplete (q : Nat)
  | queueWaitTimeout (q : Nat)
  | signal (q : Nat)
  | copy (q : Nat)
  | queueCopyComplete (q work : Nat)
  | xlinv (q : Nat)
  | partcfg (q : Nat)
  | ctxcfg (q : Nat)
  | preempt (q : Nat)
  | unbind (q : Nat)
  | member (q : Nat)
  | pause (q : Nat)
  | resume (q : Nat)
  | setthr (q : Nat)
  | completionPost (q : Nat)
  | softError (e : SoftErr)
  | throttleCondition (die : Nat) (thermal power : Bool)
  | keySlotLoad (slot part : Nat) (key : Key)
deriving DecidableEq, Repr

end Sys2Proof
end

