-- ==== Sys2Proof/WellFormed.lean ====
section
/-!
DEFINITION. Which terms of `Instr` are instructions the spec admits: register codes, pairs and quads in range (R213, R214), selectors with
their fields (R212), immediates in range (R217), and for a step of the machine the ranges of its operands.
-/
namespace Sys2Proof

/-- A source field names v0–v119 or L0–L7 (R213). -/
def Src.ok : Src → Bool
  | .v n => decide (n < 120)
  | .lat k => decide (k < 8)

/-- A vector destination: v0–v119, or none with n = 1 (R213, R222). -/
def Dst.ok : Dst → Bool
  | .v n => decide (n < 120)
  | .nw => true

/-- A condition-register destination: c0–c7, or none with n = 1 (R213, R222). -/
def Dst.condOk : Dst → Bool
  | .v n => decide (n < 8)
  | .nw => true

/-- A pair code: even, 0 to 118 (R214). -/
def pairOk (n : Nat) : Bool := decide (n ≤ 118) && decide (n % 2 = 0)

/-- A quad code: a multiple of 4, 0 to 116 (R214). The same codes name triples (R266). -/
def quadOk (n : Nat) : Bool := decide (n ≤ 116) && decide (n % 4 = 0)

/-- A pair destination that may be suppressed (R214, R222). -/
def Dst.pairOk : Dst → Bool
  | .v n => Sys2Proof.pairOk n
  | .nw => true

/-- A quad or triple destination that may be suppressed (R214, R222, R266). -/
def Dst.quadOk : Dst → Bool
  | .v n => Sys2Proof.quadOk n
  | .nw => true

/-- A vector register code (R213). -/
def regOk (n : Nat) : Bool := decide (n < 120)

/-- An integer that fits `bits` bits in two's complement (R217). -/
def fits (bits : Nat) (k : Int) : Bool := decide (-(2 ^ (bits - 1) : Int) ≤ k) && decide (k < 2 ^ (bits - 1))

/-- The destination of a load fits its size (R271). -/
def loadDstOk (sz : Size) (d : Nat) : Bool :=
  match sz with
  | .w | .b => regOk d
  | .d => pairOk d
  | .q => quadOk d

/-- The data source of a store fits its size; only sizes w and b may name a latch (R271). -/
def storeSrcOk (sz : Size) (d : Src) : Bool :=
  match sz, d with
  | .w, d => d.ok
  | .b, d => d.ok
  | .d, .v n => pairOk n
  | .q, .v n => quadOk n
  | _, .lat _ => false

/-- The operand register of an atomic fits its case (R275). -/
def atomDstOk (op : AtomOp) (dbl : Bool) (d : Nat) : Bool :=
  match op, dbl with
  | .cas, false => pairOk d
  | .cas, true => quadOk d
  | _, false => regOk d
  | _, true => pairOk d

/-- A float atomic has size W only (R275). -/
def atomSizeOk (op : AtomOp) (dbl : Bool) : Bool :=
  match op with
  | .faddF32 | .faddBf16x2 | .fminF32 | .fmaxF32 => !dbl
  | _ => true

/-- The register of a 32-bit operand that latches may supply only for size W (R275). -/
def atomsAddrOk (dbl : Bool) (a : Src) : Bool :=
  match a with
  | .v n => regOk n
  | .lat k => decide (k < 8) && !dbl

/-- Scope codes 1–5 of FENCE and CWB (R296, R302). -/
def fenceScopeOk : Scope → Bool
  | .plain | .rmt => false
  | _ => true

/-- The special registers SRD may read (R297). -/
def srReadable (n : Nat) : Bool := decide (n ≤ 0x12) || (decide (0x80 ≤ n) && decide (n < 0xB8))

/-- The special registers SWR may write: SECT, FPSTAT, TMSHAPE, TMPAIR, DNTHRLO.k, DNTHRHI.k (R297). -/
def srWritable (n : Nat) : Bool :=
  n == 0x8 || n == 0xB || n == 0xC || n == 0xD || (decide (0x98 ≤ n) && decide (n < 0xA8))

/-- The destination of SRD: TRAPADDR takes a pair (R297). -/
def srdDstOk (d : Dst) (n : Nat) : Bool := srReadable n && (if n == 0x12 then d.pairOk else d.ok)

/-- Conversion codes that are not reserved (R193). -/
def cvtCodeOk (c : Nat) : Bool :=
  (decide (1 ≤ c) && decide (c ≤ 0x16)) || (decide (0x18 ≤ c) && decide (c ≤ 0x1E)) || (decide (0x40 ≤ c) && decide (c ≤ 0x4F))

/-- MOV's fields by selector (R243). -/
def movOk (sel : MovSel) (d : Dst) (a : Src) : Bool :=
  match sel with
  | .mov => d.ok && a.ok
  | .fromc => d.ok && (match a with | .v n => decide (n < 8) | .lat _ => false)
  | .toc => d.condOk && a.ok

/-- The port of a link key. -/
def KeyUse.ok : KeyUse → Bool
  | .out p => decide (p < 36)
  | .inn p d k => decide (p < 36) && decide (d < 2 ^ 13) && decide (k < 36)
  | .island _ _ a b => decide (a < 64) && decide (b < 64)

/-- Well-formed instructions and steps. -/
def Instr.wf : Instr → Bool
  | .iadd _ d a b | .isub _ d a b | .imul _ d a b | .imad _ d a b => d.ok && a.ok && b.ok
  | .imulh _ d a b | .imin _ d a b | .imax _ d a b | .isad _ d a b => d.ok && a.ok && b.ok
  | .and d a b | .or d a b | .xor d a b | .andn d a b => d.ok && a.ok && b.ok
  | .shl d a b | .shr d a b | .sar d a b | .rol d a b => d.ok && a.ok && b.ok
  | .popc d a | .clz d a | .brev d a => d.ok && a.ok
  | .bfx _ d a b | .bfi d a b => d.ok && a.ok && b.ok
  | .icmp _ c a b => c.condOk && a.ok && b.ok
  | .icmpu _ c a b => c.condOk && a.ok && b.ok
  | .sel c d a b => decide (c < 4) && d.ok && a.ok && b.ok
  | .iaddi d a k | .andi d a k | .ori d a k | .xori d a k => d.ok && a.ok && fits 9 k
  | .shifti _ d a n => d.ok && a.ok && decide (n < 32)
  | .mov sl d a => movOk sl d a
  | .iadd64 d a b => d.pairOk && pairOk a && pairOk b
  | .fadd _ d a b | .fsub _ d a b | .fmul _ d a b => d.ok && a.ok && b.ok
  | .ffma _ d a b | .ffms _ d a b | .fnma _ d a b => d.ok && a.ok && b.ok
  | .fmin _ d a b | .fmax _ d a b => d.ok && a.ok && b.ok
  | .fcmp _ c a b => c.condOk && a.ok && b.ok
  | .fsign op d a b => d.ok && a.ok && b.ok && (op == .copysign || b == .v 0)
  | .cvt _ d a c | .cvts _ d a c => d.ok && a.ok && cvtCodeOk c
  | .frnd _ d a => d.ok && a.ok
  | .rcp d a | .rsq d a | .sqrt d a | .ex2 d a | .lg2 d a | .sin d a | .cos d a | .tanh d a => d.ok && a.ok
  | .fscale d a b => d.ok && a.ok && b.ok
  | .fxtr _ d a => d.ok && a.ok
  | .pack _ d a b => d.ok && a.ok && b.ok
  | .unpk _ d a h => d.ok && a.ok && decide (h < 2)
  | .cbq d a n | .cbx d a n => d.ok && a.ok && decide (n < 8)
  | .dot2 _ d a b => d.ok && a.ok && b.ok
  | .shfl _ d a b => d.ok && a.ok && b.ok
  | .vote op d c => (if op == .ballot then d.ok else d.condOk) && decide (c < 8)
  | .sredi _ d a => d.ok && a.ok
  | .sredf _ d a => d.ok && a.ok
  | .sscan _ _ d a => d.ok && a.ok
  | .prmt d a b => d.ok && a.ok && b.ok
  | .matchS _ d a => d.ok && a.ok
  | .firstl d c => d.ok && decide (c < 8)
  | .tment _ d a | .tmacc _ d a => d.quadOk && a.ok
  | .tmmrg d a b => d.quadOk && quadOk a && quadOk b
  | .tmsred d a => d.quadOk && quadOk a
  | .tmexit d a => d.ok && quadOk a
  | .ld sz _ d a off => loadDstOk sz d && pairOk a && fits 5 off
  | .st sz _ d a off => storeSrcOk sz d && pairOk a && fits 5 off
  | .lds sz _ d a off | .ldfe sz _ d a off | .ldfet sz _ d a off => loadDstOk sz d && a.ok && fits 5 off
  | .sts sz _ d a off | .stfe sz _ d a off => storeSrcOk sz d && a.ok && fits 5 off
  | .atom op _ dbl d a => atomSizeOk op dbl && atomDstOk op dbl d && pairOk a
  | .atoms op _ dbl d a => atomSizeOk op dbl && atomDstOk op dbl d && atomsAddrOk dbl a
  | .pref _ a off => pairOk a && fits 5 off
  | .br c _ off => decide (c < 8) && fits 19 off
  | .brx a tag => pairOk a && decide (tag < 512)
  | .callx d a tag => pairOk d && pairOk a && decide (tag < 512)
  | .retx a => pairOk a
  | .join j => decide (j < 16)
  | .lpad tag => decide (tag < 512)
  | .fork c a b => decide (c < 8) && pairOk a && b.ok
  | .jmset op j a => decide (j < 16) && a.ok && (op != .fib || a == .v 0)
  | .limm d _ => d.ok
  | .uadd _ d a b | .usub _ d a b | .umul _ d a b | .umad _ d a b => d.ok && a.ok && b.ok
  | .umulh _ d a b | .umin _ d a b | .umax _ d a b => d.ok && a.ok && b.ok
  | .uand d a b | .uor d a b | .uxor d a b | .ushl d a b | .ushr d a b | .usar d a b => d.ok && a.ok && b.ok
  | .upopc d a | .uclz d a => d.ok && a.ok
  | .ucmp _ c a b => c.condOk && a.ok && b.ok
  | .ucmpu _ c a b => c.condOk && a.ok && b.ok
  | .usel c d a b => decide (c < 4) && d.ok && a.ok && b.ok
  | .uaddi d a k | .uandi d a k | .uori d a k => d.ok && a.ok && fits 9 k
  | .ushifti _ d a n => d.ok && a.ok && decide (n < 32)
  | .umov sl d a => movOk sl d a
  | .uadd64 d a b => d.pairOk && pairOk a && pairOk b
  | .ubr c _ _ off => decide (c < 8) && fits 19 off
  | .ujmp off | .ucall off => fits 24 off
  | .uret a => pairOk a
  | .udbnz d off => d.ok && fits 9 off
  | .trl all regs => decide (regs.length ≤ 3) && regs.all regOk && (!all || regs.isEmpty)
  | .trap c => decide (c < 256)
  | .barinit b a | .barwait b a => decide (b < 16) && a.ok
  | .bararr d b | .bararw d b => d.ok && decide (b < 16)
  | .cwait _ d a b => d.pairOk && pairOk a && pairOk b
  | .cwaitt _ d a b => d.pairOk && pairOk a && quadOk b
  | .cinc _ d a b => d.pairOk && pairOk a && b.ok
  | .fence sc t => fenceScopeOk sc && decide (t < 4)
  | .fwait t => decide (t < 4)
  | .srd d n => srdDstOk d n
  | .swr n a => srWritable n && a.ok
  | .cbld a => pairOk a
  | .tmshp c => decide (c < 256)
  | .tmtab a s => pairOk a && decide (1 ≤ s) && decide (s ≤ 7)
  | .ipf a b | .iunpin a b => pairOk a && b.ok
  | .ipin d a b => d.ok && pairOk a && b.ok
  | .cwb _ sc a b => fenceScopeOk sc && pairOk a && b.ok
  | .tstat d _ => quadOk d
  | .mma _ a b s => a.ok && regOk b && decide (s < 8)
  | .accz m => decide (1 ≤ m) && decide (m < 16)
  | .drain _ _ a s => a.ok && decide (s < 8)
  | .tcopy _ _ a | .tcopyColl a | .dcjob _ a | .xsort a => a.ok
  | .rrot _ a b => a.ok && b.ok
  | .prolog k => decide (k < 4)
  | .xput a b | .xget a b => quadOk a && quadOk b
  | .xarm a b => a.ok && quadOk b
  | .xdisarm b => b.ok
  | .rinv d a => d.pairOk && a.ok
  | .rinvh d a b => d.pairOk && a.ok && pairOk b
  | .hwait _ d a b => d.pairOk && pairOk a && pairOk b
  | .hstat d a => d.pairOk && pairOk a
  | .hfree a => pairOk a
  | .iwait d a b => d.pairOk && a.ok && b.ok
  | .idone fail a b => a.ok && b.ok && (!fail || b == .v 0)
  | .wopen k | .wclose k => decide (k < 8)
  | .pmerge d k => d.ok && decide (k < 8)
  | .pstat d a k => d.quadOk && a.ok && decide (k < 8)
  | .ptrick d a k => d.ok && a.ok && decide (k < 8)
  | .dchk d k => d.pairOk && decide (k < 8)
  | .ulimm d _ => d.ok
  | .fend | .nop | .yield | .halt | .eret | .clubar _ => true
  | .reservedOpcode w => decide (w.toNat / 2 ^ 24 ∈ [0x1D, 0x3C, 0x3D, 0x3E, 0x3F, 0x41, 0x49, 0x4A, 0x4B, 0x4C, 0x4D, 0x4E, 0x4F,
      0x55, 0x56, 0x57, 0x61, 0x62, 0x64, 0x65, 0x66, 0x67, 0x68, 0x69, 0x6A, 0x6B, 0x6C, 0x6D, 0x6E, 0x6F, 0x79, 0x7A, 0x7B, 0x7C,
      0x7D, 0x7E, 0x98, 0x99, 0x9A, 0x9B, 0x9C, 0x9D, 0x9E, 0x9F, 0xAB, 0xAC, 0xAD, 0xAE, 0xAF, 0xBA, 0xBB, 0xBC, 0xBD, 0xBE, 0xBF,
      0xCA, 0xCB, 0xCC, 0xCD, 0xCE, 0xCF, 0xD8, 0xD9, 0xDA, 0xDB, 0xDC, 0xDD, 0xDE, 0xDF, 0xEB, 0xEC, 0xED, 0xEE, 0xEF,
      0xF6, 0xF7, 0xF8, 0xF9, 0xFA, 0xFB, 0xFC, 0xFD, 0xFE])
  | .portSchedule c q _ | .groupActivate c q => decide (c < 768) && decide (q < 4)
  | .pageWalk c _ => decide (c < 768)
  | .tokenGrant d p => decide (d < 4) && decide (p < 16)
  | .spindleSend _ d _ | .refreshStart d | .refreshEnd d | .throttleCheck d => decide (d < 4)
  | .throttleCondition d _ _ => decide (d < 4)
  | .flitSend p _ | .flitReceive p _ _ _ _ => decide (p < 36)
  | .keyInstall u _ => u.ok
  | .pcieLinkChange l _ => decide (l < 2)
  | .getVersion c | .getCapabilities c | .negotiateAlgorithms c | .getDigests c | .getCertificate c _ | .challenge c _ | .getMeasurements c _ _
  | .keyExchange c _ | .finish c _ | .endSession c | .measExtend c _ _ | .unsupportedRequest c _ => decide (c < 38)
  | .keySlotLoad s p _ => decide (s < 128) && decide (p < 16)
  | .queueEnable q | .queueDisable q | .tail q _ | .chead q _ | .queueFetch q | .launch q | .wait q | .queueWaitComplete q
  | .queueWaitTimeout q | .signal q | .copy q | .queueCopyComplete q _ | .xlinv q | .partcfg q | .ctxcfg q | .preempt q
  | .bind q | .unbind q | .member q | .pause q | .resume q | .setthr q | .completionPost q => decide (q < 1024)
  | .propagate _ | .refresh _ _ _ _ _ _ | .missQueueEnter _ | .longLatencyComplete _ | .asyncTrap _ | .fetimeout _ | .fullEmptyTake _
  | .cwaitComplete _ | .cwaittBound _ | .fwaitComplete _ | .wopenProceed _ | .hwaitComplete _ | .iwaitTake _
  | .engineCommandEnter _ | .mmaOperation _ _ | .acczOperation _ | .drainOperation _ _ | .tcopyOperation _ _ | .packOperation _ _
  | .prologOperation _ _ | .dcmpJob _ _ | .ringRotation _ _ | .xputOperation _ | .xgetOperation _ | .collective _ _ _
  | .xsortOperation _ _ | .triggeredSend _ _ | .engineRetire _ _ | .prologue _ | .groupStart _ | .launchAdmit _ _
  | .clusterStart _ _ | .allocationRelease _ | .noticeExpiry _ | .teamSave _ | .teamRestore _ _ | .fabricAccessArrival _
  | .fabricAnswer _ | .requestArrival _ | .packetArrival _ | .tokenExpiry _ | .transferAck _ | .driftMessageArrival _ _ | .battenFold _ _ | .mergePass _
  | .islandSilent _ _ _ | .invocationArrival _ | .invocationPlace _ _ | .rinvhForward _ _ | .scrub _ | .alarmDetect _
  | .coldReset _ _ _ _ _ _ _ _ _
  | .alarmClear _ | .registerWrite _ _ | .softError _ | .engineFeTimeout _ => true

end Sys2Proof
end

