-- ==== Sys2Proof/Decode.lean ====
section
/-!
DEFINITION. Decoding of instruction words (R211–R223, R232, R233 and the encoding table of each instruction's entry), total on any bytes
and rejecting by name, and the encoder. A word is a natural number below 2^32; its fields are taken by division and remainder.
-/
namespace Sys2Proof

/-- Why a word is no instruction (R212, R213, R214, R222). All of them raise ILLEGAL. -/
inductive DecodeErr where
  /-- Fewer bytes than the instruction has. -/
  | truncated
  /-- A field holds a value its instruction marks reserved (R212). -/
  | reservedValue
  /-- A field the instruction does not use, or a reserved bit, is nonzero (R212). -/
  | unusedField
  /-- A destination names a latch (R213). -/
  | latchDestination
  /-- A code names no register, pair, quad, condition register, mask, barrier or token (R213, R214). -/
  | badRegister
  /-- n = 1 with D not zero (R222). -/
  | suppressedD
deriving DecidableEq, Repr

/-- The result of reading a field or a word. -/
abbrev Dec (α : Type) := Except DecodeErr α

/-! ### Fields -/

/-- Bits hi down to lo of w (R231). -/
def fld (w hi lo : Nat) : Nat := w / 2 ^ lo % 2 ^ (hi - lo + 1)

/-- A `bits`-bit field read in two's complement (R211, R217). -/
def sextN (bits x : Nat) : Int := if x < 2 ^ (bits - 1) then (x : Int) else (x : Int) - 2 ^ bits

/-- The `bits`-bit two's complement field of an integer. -/
def fieldOfInt (bits : Nat) (k : Int) : Nat := (k % 2 ^ bits).toNat

/-- A field that must be zero (R212). -/
def zero (x : Nat) : Dec Unit := if x = 0 then .ok () else .error .unusedField

/-- A 7-bit source (R213). -/
def rSrc (x : Nat) : Src := if x < 120 then .v x else .lat (x - 120)

/-- A destination register with n (R213, R222). -/
def rDst (n x : Nat) : Dec Dst :=
  if n = 1 then (if x = 0 then .ok .nw else .error .suppressedD)
  else if x < 120 then .ok (.v x) else .error .latchDestination

/-- A register code that no n accompanies (R213). -/
def rReg (x : Nat) : Dec Nat := if x < 120 then .ok x else .error .latchDestination

/-- A condition-register destination with n (R213, R222). -/
def rCond (n x : Nat) : Dec Dst :=
  if n = 1 then (if x = 0 then .ok .nw else .error .suppressedD)
  else if x < 8 then .ok (.v x) else .error .badRegister

/-- A code that must lie below a bound: a condition register, join mask, barrier, nibble, half, slot (R213). -/
def rBelow (bound x : Nat) : Dec Nat := if x < bound then .ok x else .error .badRegister

/-- A pair code (R214). -/
def rPair (x : Nat) : Dec Nat := if pairOk x then .ok x else .error .badRegister

/-- A quad code (R214). -/
def rQuad (x : Nat) : Dec Nat := if quadOk x then .ok x else .error .badRegister

/-- A pair destination with n (R214, R222). -/
def rDstPair (n x : Nat) : Dec Dst :=
  if n = 1 then (if x = 0 then .ok .nw else .error .suppressedD)
  else if pairOk x then .ok (.v x) else .error .badRegister

/-- A quad or triple destination with n (R214, R222, R266). -/
def rDstQuad (n x : Nat) : Dec Dst :=
  if n = 1 then (if x = 0 then .ok .nw else .error .suppressedD)
  else if quadOk x then .ok (.v x) else .error .badRegister

/-! ### Selectors -/

/-- A selector from its code. -/
def rCode {α : Type} (table : List α) (x : Nat) : Dec α :=
  match table[x]? with
  | some a => .ok a
  | none => .error .reservedValue

/-- The saturation codes (R225). -/
def satTable : List Sat := [.wrap, .ssat, .usat]
/-- The signedness codes (R237). -/
def sgnTable : List Sgn := [.s, .u]
/-- The signed relations (R242). -/
def cmpSTable : List CmpS := [.eq, .ne, .lt, .le]
/-- The unsigned relations (R242). -/
def cmpUTable : List CmpU := [.lt, .le]
/-- The float types (R225). -/
def ftypeTable : List FType := [.f32, .f16x2, .bf16x2]
/-- The rounding modes (R225). -/
def rmTable : List RMode := [.rne, .rz, .rd, .ru]
/-- FCMP's relations (R250). -/
def fcmpTable : List FCmpOp := [.eq, .lt, .le, .un]
/-- FSIGN's operations (R251). -/
def signTable : List SignOp := [.abs, .neg, .copysign, .nabs]
/-- SHIFTI's operations (R244). -/
def shiftTable : List ShiftOp := [.shl, .shr, .sar, .rol]
/-- FXTR's selectors (R254). -/
def xtrTable : List XtrSel := [.exp, .mant]
/-- PACK's selectors (R256). -/
def packTable : List PackSel := [.f16, .bf16, .b16]
/-- UNPK's selectors (R256). -/
def unpkTable : List UnpkSel := [.f16, .bf16, .s16, .u16]
/-- SHFL's modes (R260). -/
def shflTable : List ShflMode := [.idx, .up, .down, .xor]
/-- SREDI's selectors (R262). -/
def redITable : List RedI := [.add, .min, .max, .umax]
/-- SREDF's selectors (R262). -/
def redFTable : List RedF := [.add, .min, .max]
/-- SSCAN's selectors (R263). -/
def scanTable : List ScanType := [.i32, .f32]
/-- MATCH's selectors (R265). -/
def matchTable : List MatchSel := [.any, .all]
/-- The entry modifiers (R267). -/
def entryTable : List EntryMod := [.normal, .clamp, .zeropass]
/-- The access sizes of VM (R211). -/
def sizeTable : List Size := [.w, .d, .q, .b]
/-- The scope codes (R67). -/
def scopeTable : List Scope := [.plain, .grp, .core, .clu, .dev, .sys, .rmt]
/-- The atomic operations (R275). -/
def atomTable : List AtomOp :=
  [.add, .sub, .min, .max, .umin, .umax, .and, .or, .xor, .xchg, .cas, .inc, .dec, .faddF32, .faddBf16x2, .fminF32, .fmaxF32]
/-- JMSET's selectors (R285). -/
def maskTable : List MaskOp := [.ld, .or, .andn, .fib]
/-- The scopes of CWAIT and CWAITT (R295). -/
def cwScopeTable : List CwScope := [.core, .clu, .dev, .sys]
/-- The scopes of CINC (R295). -/
def ciScopeTable : List CiScope := [.plain, .core, .clu, .dev]
/-- CWB's forms (R302). -/
def cwbTable : List CwbForm := [.wb, .inv, .wbinv]
/-- TSTAT's contexts (R303). -/
def ctxTable : List EngCtx := [.copy, .matrix, .exch, .dcmp]

/-- The scopes of FENCE and CWB: codes 1–5 (R296, R302). -/
def rFenceScope (x : Nat) : Dec Scope := do
  let sc ← rCode scopeTable x
  if fenceScopeOk sc then .ok sc else .error .reservedValue

/-! ### Formats VR and UR -/

/-- m of VR and UR. -/
def vrM (w : Nat) : Nat := fld w 23 22
/-- n of VR and UR. -/
def vrN (w : Nat) : Nat := fld w 21 21
/-- D of VR and UR. -/
def vrD (w : Nat) : Nat := fld w 20 14
/-- A of VR and UR. -/
def vrA (w : Nat) : Nat := fld w 13 7
/-- B of VR and UR. -/
def vrB (w : Nat) : Nat := fld w 6 0

/-- m from a table, D, A, B (R237, R245). -/
def vrTab {α : Type} (table : List α) (mk : α → Dst → Src → Src → Instr) (w : Nat) : Dec Instr := do
  let m ← rCode table (vrM w)
  let d ← rDst (vrN w) (vrD w)
  .ok (mk m d (rSrc (vrA w)) (rSrc (vrB w)))

/-- m = 0, D, A, B (R240). -/
def vrBin (mk : Dst → Src → Src → Instr) (w : Nat) : Dec Instr := do
  let _ ← zero (vrM w)
  let d ← rDst (vrN w) (vrD w)
  .ok (mk d (rSrc (vrA w)) (rSrc (vrB w)))

/-- m = 0, D, A, B = 0 (R240, R255). -/
def vrUn (mk : Dst → Src → Instr) (w : Nat) : Dec Instr := do
  let _ ← zero (vrM w)
  let _ ← zero (vrB w)
  let d ← rDst (vrN w) (vrD w)
  .ok (mk d (rSrc (vrA w)))

/-- m from a table, D, A, B = 0. -/
def vrTabUn {α : Type} (table : List α) (mk : α → Dst → Src → Instr) (w : Nat) : Dec Instr := do
  let m ← rCode table (vrM w)
  let _ ← zero (vrB w)
  let d ← rDst (vrN w) (vrD w)
  .ok (mk m d (rSrc (vrA w)))

/-- m from a table, a condition register D, A, B (R242, R250). -/
def vrCmp {α : Type} (table : List α) (mk : α → Dst → Src → Src → Instr) (w : Nat) : Dec Instr := do
  let m ← rCode table (vrM w)
  let d ← rCond (vrN w) (vrD w)
  .ok (mk m d (rSrc (vrA w)) (rSrc (vrB w)))

/-- m a condition register 0–3 (R243). -/
def vrSel (mk : Nat → Dst → Src → Src → Instr) (w : Nat) : Dec Instr := do
  let d ← rDst (vrN w) (vrD w)
  .ok (mk (vrM w) d (rSrc (vrA w)) (rSrc (vrB w)))

/-- MOV and UMOV (R243). -/
def vrMov (mk : MovSel → Dst → Src → Instr) (w : Nat) : Dec Instr := do
  let _ ← zero (vrB w)
  match vrM w with
  | 0 => do let d ← rDst (vrN w) (vrD w); .ok (mk .mov d (rSrc (vrA w)))
  | 1 => do
    let a ← rBelow 8 (vrA w)
    let d ← rDst (vrN w) (vrD w)
    .ok (mk .fromc d (.v a))
  | 2 => do let d ← rCond (vrN w) (vrD w); .ok (mk .toc d (rSrc (vrA w)))
  | _ => .error .reservedValue

/-- m = 0, pairs D, A, B (R239). -/
def vrPairs (mk : Dst → Nat → Nat → Instr) (w : Nat) : Dec Instr := do
  let _ ← zero (vrM w)
  let d ← rDstPair (vrN w) (vrD w)
  let a ← rPair (vrA w)
  let b ← rPair (vrB w)
  .ok (mk d a b)

/-- FSIGN: B is used by .copysign only (R251). -/
def vrSign (w : Nat) : Dec Instr := do
  let m ← rCode signTable (vrM w)
  let d ← rDst (vrN w) (vrD w)
  let _ ← (if m = .copysign then .ok () else zero (vrB w) : Dec Unit)
  .ok (.fsign m d (rSrc (vrA w)) (rSrc (vrB w)))

/-- CVT and CVTS: m a rounding mode, B a conversion code (R252, R193). -/
def vrCvt (mk : RMode → Dst → Src → Nat → Instr) (w : Nat) : Dec Instr := do
  let m ← rCode rmTable (vrM w)
  let d ← rDst (vrN w) (vrD w)
  if cvtCodeOk (vrB w) then .ok (mk m d (rSrc (vrA w)) (vrB w)) else .error .reservedValue

/-- UNPK: B a half index (R256). -/
def vrUnpk (w : Nat) : Dec Instr := do
  let m ← rCode unpkTable (vrM w)
  let d ← rDst (vrN w) (vrD w)
  let h ← rBelow 2 (vrB w)
  .ok (.unpk m d (rSrc (vrA w)) h)

/-- CBQ and CBX: B a nibble index (R257). -/
def vrNib (mk : Dst → Src → Nat → Instr) (w : Nat) : Dec Instr := do
  let _ ← zero (vrM w)
  let d ← rDst (vrN w) (vrD w)
  let h ← rBelow 8 (vrB w)
  .ok (mk d (rSrc (vrA w)) h)

/-- DOT2: m 1 or 2 (R246). -/
def vrDot (w : Nat) : Dec Instr := do
  let d ← rDst (vrN w) (vrD w)
  match vrM w with
  | 1 => .ok (.dot2 .f16x2 d (rSrc (vrA w)) (rSrc (vrB w)))
  | 2 => .ok (.dot2 .bf16x2 d (rSrc (vrA w)) (rSrc (vrB w)))
  | _ => .error .reservedValue

/-- VOTE (R261). -/
def vrVote (w : Nat) : Dec Instr := do
  let _ ← zero (vrB w)
  let a ← rBelow 8 (vrA w)
  match vrM w with
  | 0 => do let d ← rCond (vrN w) (vrD w); .ok (.vote .any d a)
  | 1 => do let d ← rCond (vrN w) (vrD w); .ok (.vote .all d a)
  | 2 => do let d ← rDst (vrN w) (vrD w); .ok (.vote .ballot d a)
  | _ => do let d ← rCond (vrN w) (vrD w); .ok (.vote .eq d a)

/-- SSCAN: B is the flag .excl (R263). -/
def vrScan (w : Nat) : Dec Instr := do
  let m ← rCode scanTable (vrM w)
  let d ← rDst (vrN w) (vrD w)
  match vrB w with
  | 0 => .ok (.sscan m false d (rSrc (vrA w)))
  | 1 => .ok (.sscan m true d (rSrc (vrA w)))
  | _ => .error .reservedValue

/-- FIRSTL (R265). -/
def vrFirstl (w : Nat) : Dec Instr := do
  let _ ← zero (vrM w)
  let _ ← zero (vrB w)
  let a ← rBelow 8 (vrA w)
  let d ← rDst (vrN w) (vrD w)
  .ok (.firstl d a)

/-- TMENT and TMACC (R267). -/
def vrEntry (mk : EntryMod → Dst → Src → Instr) (w : Nat) : Dec Instr := do
  let m ← rCode entryTable (vrM w)
  let _ ← zero (vrB w)
  let d ← rDstQuad (vrN w) (vrD w)
  .ok (mk m d (rSrc (vrA w)))

/-- TMMRG (R268). -/
def vrMrg (w : Nat) : Dec Instr := do
  let _ ← zero (vrM w)
  let d ← rDstQuad (vrN w) (vrD w)
  let a ← rQuad (vrA w)
  let b ← rQuad (vrB w)
  .ok (.tmmrg d a b)

/-- TMSRED (R268). -/
def vrTsred (w : Nat) : Dec Instr := do
  let _ ← zero (vrM w)
  let _ ← zero (vrB w)
  let d ← rDstQuad (vrN w) (vrD w)
  let a ← rQuad (vrA w)
  .ok (.tmsred d a)

/-- TMEXIT (R269). -/
def vrTexit (w : Nat) : Dec Instr := do
  let _ ← zero (vrM w)
  let _ ← zero (vrB w)
  let d ← rDst (vrN w) (vrD w)
  let a ← rQuad (vrA w)
  .ok (.tmexit d a)

/-- A instruction whose only field is a pair A (R285, R280, R299, R345). -/
def vrOnlyPair (mk : Nat → Instr) (w : Nat) : Dec Instr := do
  let _ ← zero (vrM w)
  let _ ← zero (vrN w)
  let _ ← zero (vrD w)
  let _ ← zero (vrB w)
  let a ← rPair (vrA w)
  .ok (mk a)

/-- JOIN (R285). -/
def vrJoin (w : Nat) : Dec Instr := do
  let _ ← zero (vrM w)
  let _ ← zero (vrN w)
  let _ ← zero (vrA w)
  let _ ← zero (vrB w)
  let j ← rBelow 16 (vrD w)
  .ok (.join j)

/-- FORK (R285). -/
def vrFork (w : Nat) : Dec Instr := do
  let _ ← zero (vrM w)
  let _ ← zero (vrN w)
  let c ← rBelow 8 (vrD w)
  let a ← rPair (vrA w)
  .ok (.fork c a (rSrc (vrB w)))

/-- JMSET: A is used by the forms other than .fib (R285). -/
def vrJmset (w : Nat) : Dec Instr := do
  let m ← rCode maskTable (vrM w)
  let _ ← zero (vrN w)
  let _ ← zero (vrB w)
  let j ← rBelow 16 (vrD w)
  let _ ← (if m = .fib then zero (vrA w) else .ok () : Dec Unit)
  .ok (.jmset m j (rSrc (vrA w)))

/-- A word with no field (R280, R285): bits 23:0 are zero. -/
def noFields (i : Instr) (w : Nat) : Dec Instr := do
  let _ ← zero (fld w 23 0)
  .ok i

/-- CWAIT (R295). -/
def vrCwait (w : Nat) : Dec Instr := do
  let m ← rCode cwScopeTable (vrM w)
  let d ← rDstPair (vrN w) (vrD w)
  let a ← rPair (vrA w)
  let b ← rPair (vrB w)
  .ok (.cwait m d a b)

/-- CWAITT (R295). -/
def vrCwaitt (w : Nat) : Dec Instr := do
  let m ← rCode cwScopeTable (vrM w)
  let d ← rDstPair (vrN w) (vrD w)
  let a ← rPair (vrA w)
  let b ← rQuad (vrB w)
  .ok (.cwaitt m d a b)

/-- CINC (R295). -/
def vrCinc (w : Nat) : Dec Instr := do
  let m ← rCode ciScopeTable (vrM w)
  let d ← rDstPair (vrN w) (vrD w)
  let a ← rPair (vrA w)
  .ok (.cinc m d a (rSrc (vrB w)))

/-- TMTAB (R300). -/
def vrTmtab (w : Nat) : Dec Instr := do
  let _ ← zero (vrM w)
  let _ ← zero (vrN w)
  let _ ← zero (vrD w)
  let a ← rPair (vrA w)
  if 1 ≤ vrB w ∧ vrB w ≤ 7 then .ok (.tmtab a (vrB w)) else .error .reservedValue

/-- IPF and IUNPIN (R301). -/
def vrRange (mk : Nat → Src → Instr) (w : Nat) : Dec Instr := do
  let _ ← zero (vrM w)
  let _ ← zero (vrN w)
  let _ ← zero (vrD w)
  let a ← rPair (vrA w)
  .ok (mk a (rSrc (vrB w)))

/-- IPIN (R301). -/
def vrIpin (w : Nat) : Dec Instr := do
  let _ ← zero (vrM w)
  let d ← rDst (vrN w) (vrD w)
  let a ← rPair (vrA w)
  .ok (.ipin d a (rSrc (vrB w)))

/-- CWB: D holds the scope (R302). -/
def vrCwb (w : Nat) : Dec Instr := do
  let m ← rCode cwbTable (vrM w)
  let _ ← zero (vrN w)
  let sc ← rFenceScope (vrD w)
  let a ← rPair (vrA w)
  .ok (.cwb m sc a (rSrc (vrB w)))

/-- TSTAT: B names the context (R303). -/
def vrTstat (w : Nat) : Dec Instr := do
  let _ ← zero (vrM w)
  let _ ← zero (vrN w)
  let _ ← zero (vrA w)
  let d ← rQuad (vrD w)
  let k ← rCode ctxTable (vrB w)
  .ok (.tstat d k)

/-- RINV (R349). -/
def vrRinv (w : Nat) : Dec Instr := do
  let _ ← zero (vrM w)
  let _ ← zero (vrB w)
  let d ← rDstPair (vrN w) (vrD w)
  .ok (.rinv d (rSrc (vrA w)))

/-- RINVH (R351). -/
def vrRinvh (w : Nat) : Dec Instr := do
  let _ ← zero (vrM w)
  let d ← rDstPair (vrN w) (vrD w)
  let b ← rPair (vrB w)
  .ok (.rinvh d (rSrc (vrA w)) b)

/-- HWAIT: m 0 or 1, the form .trap (R354). -/
def vrHwait (w : Nat) : Dec Instr := do
  let tr ← rCode [false, true] (vrM w)
  let d ← rDstPair (vrN w) (vrD w)
  let a ← rPair (vrA w)
  let b ← rPair (vrB w)
  .ok (.hwait tr d a b)

/-- HSTAT (R354). -/
def vrHstat (w : Nat) : Dec Instr := do
  let _ ← zero (vrM w)
  let _ ← zero (vrB w)
  let d ← rDstPair (vrN w) (vrD w)
  let a ← rPair (vrA w)
  .ok (.hstat d a)

/-- IWAIT (R352). -/
def vrIwait (w : Nat) : Dec Instr := do
  let _ ← zero (vrM w)
  let d ← rDstPair (vrN w) (vrD w)
  .ok (.iwait d (rSrc (vrA w)) (rSrc (vrB w)))

/-- IDONE: m 0 or 1, the form .fail, with B = 0 (R353). -/
def vrIdone (w : Nat) : Dec Instr := do
  let f ← rCode [false, true] (vrM w)
  let _ ← zero (vrN w)
  let _ ← zero (vrD w)
  let _ ← (if f then zero (vrB w) else .ok () : Dec Unit)
  .ok (.idone f (rSrc (vrA w)) (rSrc (vrB w)))

/-! ### Formats VI and UI -/

/-- n of VI, UI, VL and UL. -/
def viN (w : Nat) : Nat := fld w 23 23
/-- D of VI, UI, VL and UL. -/
def viD (w : Nat) : Nat := fld w 22 16
/-- A of VI and UI. -/
def viA (w : Nat) : Nat := fld w 15 9
/-- imm9 of VI and UI. -/
def viI (w : Nat) : Nat := fld w 8 0

/-- D, A and a signed immediate (R244). -/
def viImm (mk : Dst → Src → Int → Instr) (w : Nat) : Dec Instr := do
  let d ← rDst (viN w) (viD w)
  .ok (mk d (rSrc (viA w)) (sextN 9 (viI w)))

/-- SHIFTI and USHIFTI (R244). -/
def viShift (mk : ShiftOp → Dst → Src → Nat → Instr) (w : Nat) : Dec Instr := do
  let e ← rCode shiftTable (fld w 8 7)
  let _ ← zero (fld w 6 5)
  let d ← rDst (viN w) (viD w)
  .ok (mk e d (rSrc (viA w)) (fld w 4 0))

/-- BRX (R285). -/
def viBrx (w : Nat) : Dec Instr := do
  let _ ← zero (viN w)
  let _ ← zero (viD w)
  let a ← rPair (viA w)
  .ok (.brx a (viI w))

/-- CALLX (R285). -/
def viCallx (w : Nat) : Dec Instr := do
  let _ ← zero (viN w)
  let d ← rPair (viD w)
  let a ← rPair (viA w)
  .ok (.callx d a (viI w))

/-- LPAD (R285). -/
def viLpad (w : Nat) : Dec Instr := do
  let _ ← zero (viN w)
  let _ ← zero (viD w)
  let _ ← zero (viA w)
  .ok (.lpad (viI w))

/-- UDBNZ (R280). -/
def viUdbnz (w : Nat) : Dec Instr := do
  let _ ← zero (viA w)
  let d ← rDst (viN w) (viD w)
  .ok (.udbnz d (sextN 9 (viI w)))

/-- An instruction whose only field is an unsigned immediate below a bound (R280, R296, R298, R356). -/
def viOnly (bound : Nat) (mk : Nat → Instr) (w : Nat) : Dec Instr := do
  let _ ← zero (viN w)
  let _ ← zero (viD w)
  let _ ← zero (viA w)
  if viI w < bound then .ok (mk (viI w)) else .error .unusedField

/-- BARINIT and BARWAIT (R292). -/
def viBarA (mk : Nat → Src → Instr) (w : Nat) : Dec Instr := do
  let _ ← zero (viN w)
  let _ ← zero (viD w)
  let b ← rBelow 16 (viI w)
  .ok (mk b (rSrc (viA w)))

/-- BARARR and BARARW (R292). -/
def viBarD (mk : Dst → Nat → Instr) (w : Nat) : Dec Instr := do
  let _ ← zero (viA w)
  let d ← rDst (viN w) (viD w)
  let b ← rBelow 16 (viI w)
  .ok (mk d b)

/-- FENCE (R296). -/
def viFence (w : Nat) : Dec Instr := do
  let _ ← zero (viN w)
  let _ ← zero (viD w)
  let _ ← zero (viA w)
  let _ ← zero (fld w 8 6)
  let _ ← zero (fld w 2 2)
  let sc ← rFenceScope (fld w 5 3)
  .ok (.fence sc (fld w 1 0))

/-- CLUBAR (R294). -/
def viClubar (w : Nat) : Dec Instr := do
  let _ ← zero (fld w 23 1)
  .ok (.clubar (fld w 0 0 == 1))

/-- SRD: TRAPADDR takes a pair (R297). -/
def viSrd (w : Nat) : Dec Instr := do
  let _ ← zero (viA w)
  if srReadable (viI w) then do
    let d ← (if viI w = 0x12 then rDstPair (viN w) (viD w) else rDst (viN w) (viD w) : Dec Dst)
    .ok (.srd d (viI w))
  else .error .reservedValue

/-- SWR (R297). -/
def viSwr (w : Nat) : Dec Instr := do
  let _ ← zero (viN w)
  let _ ← zero (viD w)
  if srWritable (viI w) then .ok (.swr (viI w) (rSrc (viA w))) else .error .reservedValue

/-- PMERGE: a register D and a region (R356). -/
def viRgnD (mk : Dst → Nat → Instr) (w : Nat) : Dec Instr := do
  let _ ← zero (viA w)
  let d ← rDst (viN w) (viD w)
  let k ← rBelow 8 (viI w)
  .ok (mk d k)

/-- PTRICK: a register D, a fragment register A, and a region (R356). -/
def viRgnDA (mk : Dst → Src → Nat → Instr) (w : Nat) : Dec Instr := do
  let d ← rDst (viN w) (viD w)
  let k ← rBelow 8 (viI w)
  .ok (mk d (rSrc (viA w)) k)

/-- PSTAT: a quad D, a fragment register A, and a region (R356). -/
def viPstat (w : Nat) : Dec Instr := do
  let d ← rDstQuad (viN w) (viD w)
  let k ← rBelow 8 (viI w)
  .ok (.pstat d (rSrc (viA w)) k)

/-- DCHK: a pair D and a region (R356). -/
def viDchk (w : Nat) : Dec Instr := do
  let _ ← zero (viA w)
  let d ← rDstPair (viN w) (viD w)
  let k ← rBelow 8 (viI w)
  .ok (.dchk d k)

/-! ### Formats VM and VA -/

/-- The size of VM. -/
def vmS (w : Nat) : Nat := fld w 23 22
/-- The scope of VM. -/
def vmC (w : Nat) : Nat := fld w 21 19
/-- D of VM. -/
def vmD (w : Nat) : Nat := fld w 18 12
/-- A of VM. -/
def vmA (w : Nat) : Nat := fld w 11 5
/-- off5 of VM. -/
def vmO (w : Nat) : Nat := fld w 4 0

/-- A load destination (R271). -/
def rLoadDst (sz : Size) (x : Nat) : Dec Nat := if loadDstOk sz x then .ok x else .error .badRegister

/-- A store's data source (R271). -/
def rStoreSrc (sz : Size) (x : Nat) : Dec Src := if storeSrcOk sz (rSrc x) then .ok (rSrc x) else .error .badRegister

/-- LD (R272). -/
def vmLd (w : Nat) : Dec Instr := do
  let sz ← rCode sizeTable (vmS w)
  let sc ← rCode scopeTable (vmC w)
  let d ← rLoadDst sz (vmD w)
  let a ← rPair (vmA w)
  .ok (.ld sz sc d a (sextN 5 (vmO w)))

/-- ST (R272). -/
def vmSt (w : Nat) : Dec Instr := do
  let sz ← rCode sizeTable (vmS w)
  let sc ← rCode scopeTable (vmC w)
  let d ← rStoreSrc sz (vmD w)
  let a ← rPair (vmA w)
  .ok (.st sz sc d a (sextN 5 (vmO w)))

/-- LDS, LDFE and LDFET (R272). -/
def vmLds (mk : Size → Scope → Nat → Src → Int → Instr) (w : Nat) : Dec Instr := do
  let sz ← rCode sizeTable (vmS w)
  let sc ← rCode scopeTable (vmC w)
  let d ← rLoadDst sz (vmD w)
  .ok (mk sz sc d (rSrc (vmA w)) (sextN 5 (vmO w)))

/-- STS and STFE (R272). -/
def vmSts (mk : Size → Scope → Src → Src → Int → Instr) (w : Nat) : Dec Instr := do
  let sz ← rCode sizeTable (vmS w)
  let sc ← rCode scopeTable (vmC w)
  let d ← rStoreSrc sz (vmD w)
  .ok (mk sz sc d (rSrc (vmA w)) (sextN 5 (vmO w)))

/-- PREF (R277). -/
def vmPref (w : Nat) : Dec Instr := do
  let x ← rCode [false, true] (vmS w)
  let _ ← zero (vmC w)
  let _ ← zero (vmD w)
  let a ← rPair (vmA w)
  .ok (.pref x a (sextN 5 (vmO w)))

/-- ATOM and ATOMS (R275). -/
def vaAtom (w : Nat) : Dec Instr := do
  let op ← rCode atomTable (fld w 23 19)
  let sc ← rCode scopeTable (fld w 18 16)
  let dbl ← rCode [false, true] (fld w 1 0)
  if atomSizeOk op dbl then
    if atomDstOk op dbl (fld w 15 9) then do
      let a ← rPair (fld w 8 2)
      .ok (.atom op sc dbl (fld w 15 9) a)
    else .error .badRegister
  else .error .reservedValue

/-- ATOMS: A is a register, or for size W a latch (R275). -/
def vaAtoms (w : Nat) : Dec Instr := do
  let op ← rCode atomTable (fld w 23 19)
  let sc ← rCode scopeTable (fld w 18 16)
  let dbl ← rCode [false, true] (fld w 1 0)
  if atomSizeOk op dbl then
    if atomDstOk op dbl (fld w 15 9) && atomsAddrOk dbl (rSrc (fld w 8 2)) then
      .ok (.atoms op sc dbl (fld w 15 9) (rSrc (fld w 8 2)))
    else .error .badRegister
  else .error .reservedValue

/-! ### Formats VB, UB, UJ and UT -/

/-- BR: chk must be zero (R285). -/
def vbBr (w : Nat) : Dec Instr := do
  let _ ← zero (fld w 19 19)
  .ok (.br (fld w 23 21) (fld w 20 20 == 1) (sextN 19 (fld w 18 0)))

/-- UBR (R280). -/
def ubUbr (w : Nat) : Dec Instr :=
  .ok (.ubr (fld w 23 21) (fld w 20 20 == 1) (fld w 19 19 == 1) (sextN 19 (fld w 18 0)))

/-- UJMP and UCALL (R280). -/
def ujOff (mk : Int → Instr) (w : Nat) : Dec Instr := .ok (mk (sextN 24 (fld w 23 0)))

/-- TRL (R223). -/
def utTrl (w : Nat) : Dec Instr :=
  if fld w 21 21 = 1 then do
    let _ ← zero (fld w 23 22)
    let _ ← zero (fld w 20 0)
    .ok (.trl true [])
  else match fld w 23 22 with
  | 0 => do let _ ← zero (fld w 20 0); .ok (.trl false [])
  | 1 => do
    let _ ← zero (fld w 13 0)
    let x ← rReg (fld w 20 14)
    .ok (.trl false [x])
  | 2 => do
    let _ ← zero (fld w 6 0)
    let x ← rReg (fld w 20 14)
    let y ← rReg (fld w 13 7)
    .ok (.trl false [x, y])
  | _ => do
    let x ← rReg (fld w 20 14)
    let y ← rReg (fld w 13 7)
    let z ← rReg (fld w 6 0)
    .ok (.trl false [x, y, z])

/-! ### Format UE -/

/-- The sub-op of UE. -/
def ueS (w : Nat) : Nat := fld w 23 21
/-- A of UE. -/
def ueA (w : Nat) : Nat := fld w 20 14
/-- B of UE. -/
def ueB (w : Nat) : Nat := fld w 13 7
/-- The format slot of UE. -/
def ueF (w : Nat) : Nat := fld w 6 4
/-- The flags of UE. -/
def ueG (w : Nat) : Nat := fld w 3 0

/-- MMA: flag 0 is .zs; B is a vector register (R308). -/
def ueMma (w : Nat) : Dec Instr := do
  let _ ← zero (ueS w)
  let _ ← zero (fld w 3 1)
  let b ← rReg (ueB w)
  .ok (.mma (fld w 0 0 == 1) (rSrc (ueA w)) b (ueF w))

/-- ACCZ: the flags are the tile mask, not zero (R314). -/
def ueAccz (w : Nat) : Dec Instr := do
  let _ ← zero (fld w 23 4)
  if ueG w = 0 then .error .reservedValue else .ok (.accz (ueG w))

/-- DRAIN: sub-op 0 `.row` or 1 `.col`; flags 0 .all, 1 .sm, 2 .z (R315). -/
def ueDrain (w : Nat) : Dec Instr := do
  let col ← rCode [false, true] (ueS w)
  let _ ← zero (ueB w)
  let _ ← zero (fld w 3 3)
  .ok (.drain col ⟨fld w 0 0 == 1, fld w 1 1 == 1, fld w 2 2 == 1⟩ (rSrc (ueA w)) (ueF w))

/-- TCOPY: sub-ops 0 copy, 1 pack, 2 collective; flags 0 .all, 1 .ver, 2 .cr, 3 .arr (R321, R326, R342). -/
def ueTcopy (w : Nat) : Dec Instr := do
  let _ ← zero (ueB w)
  let _ ← zero (ueF w)
  match ueS w with
  | 0 => .ok (.tcopy false ⟨fld w 0 0 == 1, fld w 1 1 == 1, fld w 2 2 == 1, fld w 3 3 == 1⟩ (rSrc (ueA w)))
  | 1 => .ok (.tcopy true ⟨fld w 0 0 == 1, fld w 1 1 == 1, fld w 2 2 == 1, fld w 3 3 == 1⟩ (rSrc (ueA w)))
  | 2 => do let _ ← zero (ueG w); .ok (.tcopyColl (rSrc (ueA w)))
  | _ => .error .reservedValue

/-- DCJOB: flag 0 .arr (R328). -/
def ueDcjob (w : Nat) : Dec Instr := do
  let _ ← zero (ueS w)
  let _ ← zero (ueB w)
  let _ ← zero (ueF w)
  let _ ← zero (fld w 3 1)
  .ok (.dcjob (fld w 0 0 == 1) (rSrc (ueA w)))

/-- RROT: sub-op 0 forward, 1 backward (R332). -/
def ueRrot (w : Nat) : Dec Instr := do
  let bwd ← rCode [false, true] (ueS w)
  let _ ← zero (fld w 6 0)
  .ok (.rrot bwd (rSrc (ueA w)) (rSrc (ueB w)))

/-- XSORT (R344). -/
def ueXsort (w : Nat) : Dec Instr := do
  let _ ← zero (ueS w)
  let _ ← zero (fld w 13 0)
  .ok (.xsort (rSrc (ueA w)))

/-- PROLOG: the flags name binding 0–3 (R327). -/
def ueProlog (w : Nat) : Dec Instr := do
  let _ ← zero (fld w 23 2)
  .ok (.prolog (fld w 1 0))

/-- XPUT and XGET: quads A and B (R335). -/
def ueXfer (mk : Nat → Nat → Instr) (w : Nat) : Dec Instr := do
  let _ ← zero (ueS w)
  let _ ← zero (fld w 6 0)
  let a ← rQuad (ueA w)
  let b ← rQuad (ueB w)
  .ok (mk a b)

/-- XARM (R335). -/
def ueXarm (w : Nat) : Dec Instr := do
  let _ ← zero (ueS w)
  let _ ← zero (fld w 6 0)
  let b ← rQuad (ueB w)
  .ok (.xarm (rSrc (ueA w)) b)

/-- XDISARM (R335). -/
def ueXdisarm (w : Nat) : Dec Instr := do
  let _ ← zero (fld w 23 14)
  let _ ← zero (fld w 6 0)
  .ok (.xdisarm (rSrc (ueB w)))

/-! ### Formats VL and UL -/

/-- LIMM and ULIMM (R218). -/
def vlLimm (mk : Dst → Word → Instr) (lit : Nat) (w : Nat) : Dec Instr := do
  let _ ← zero (fld w 15 0)
  let d ← rDst (viN w) (viD w)
  .ok (mk d (BitVec.ofNat 32 lit))

/-- Whether the instruction that begins with this word takes the next word as a literal (R218). -/
def hasLiteral (w : Nat) : Bool := w / 2 ^ 24 % 128 == 0x7F

/-! ### Words -/

/-- V-set opcodes 0x00–0x1F (R232). -/
def decodeV0 (op w : Nat) : Dec Instr :=
  match op with
  | 0x00 => vrTab satTable .iadd w
  | 0x01 => vrTab satTable .isub w
  | 0x02 => vrTab satTable .imul w
  | 0x03 => vrTab sgnTable .imulh w
  | 0x04 => vrTab satTable .imad w
  | 0x05 => vrTab sgnTable .imin w
  | 0x06 => vrTab sgnTable .imax w
  | 0x07 => vrTab sgnTable .isad w
  | 0x08 => vrBin .and w
  | 0x09 => vrBin .or w
  | 0x0A => vrBin .xor w
  | 0x0B => vrBin .andn w
  | 0x0C => vrBin .shl w
  | 0x0D => vrBin .shr w
  | 0x0E => vrBin .sar w
  | 0x0F => vrBin .rol w
  | 0x10 => vrUn .popc w
  | 0x11 => vrUn .clz w
  | 0x12 => vrUn .brev w
  | 0x13 => vrTab sgnTable .bfx w
  | 0x14 => vrBin .bfi w
  | 0x15 => vrCmp cmpSTable .icmp w
  | 0x16 => vrCmp cmpUTable .icmpu w
  | 0x17 => vrSel .sel w
  | 0x18 => viImm .iaddi w
  | 0x19 => viImm .andi w
  | 0x1A => viImm .ori w
  | 0x1B => viImm .xori w
  | 0x1C => viShift .shifti w
  | 0x1E => vrMov .mov w
  | 0x1F => vrPairs .iadd64 w
  | _ => .ok (.reservedOpcode (BitVec.ofNat 32 w))

/-- V-set opcodes 0x20–0x3F (R232). -/
def decodeV1 (op w : Nat) : Dec Instr :=
  match op with
  | 0x20 => vrTab ftypeTable .fadd w
  | 0x21 => vrTab ftypeTable .fsub w
  | 0x22 => vrTab ftypeTable .fmul w
  | 0x23 => vrTab ftypeTable .ffma w
  | 0x24 => vrTab ftypeTable .ffms w
  | 0x25 => vrTab ftypeTable .fnma w
  | 0x26 => vrTab ftypeTable .fmin w
  | 0x27 => vrTab ftypeTable .fmax w
  | 0x28 => vrCmp fcmpTable .fcmp w
  | 0x29 => vrSign w
  | 0x2A => vrCvt .cvt w
  | 0x2B => vrCvt .cvts w
  | 0x2C => vrTabUn rmTable .frnd w
  | 0x2D => vrUn .rcp w
  | 0x2E => vrUn .rsq w
  | 0x2F => vrUn .sqrt w
  | 0x30 => vrUn .ex2 w
  | 0x31 => vrUn .lg2 w
  | 0x32 => vrUn .sin w
  | 0x33 => vrUn .cos w
  | 0x34 => vrUn .tanh w
  | 0x35 => vrBin .fscale w
  | 0x36 => vrTabUn xtrTable .fxtr w
  | 0x37 => vrTab packTable .pack w
  | 0x38 => vrUnpk w
  | 0x39 => vrNib .cbq w
  | 0x3A => vrNib .cbx w
  | 0x3B => vrDot w
  | _ => .ok (.reservedOpcode (BitVec.ofNat 32 w))

/-- V-set opcodes 0x40–0x5F (R232). -/
def decodeV2 (op w : Nat) : Dec Instr :=
  match op with
  | 0x40 => vrTab shflTable .shfl w
  | 0x42 => vrVote w
  | 0x43 => vrTabUn redITable .sredi w
  | 0x44 => vrTabUn redFTable .sredf w
  | 0x45 => vrScan w
  | 0x46 => vrBin .prmt w
  | 0x47 => vrTabUn matchTable .matchS w
  | 0x48 => vrFirstl w
  | 0x50 => vrEntry .tment w
  | 0x51 => vrEntry .tmacc w
  | 0x52 => vrMrg w
  | 0x53 => vrTsred w
  | 0x54 => vrTexit w
  | 0x58 => vmLd w
  | 0x59 => vmSt w
  | 0x5A => vmLds .lds w
  | 0x5B => vmSts .sts w
  | 0x5C => vmLds .ldfe w
  | 0x5D => vmLds .ldfet w
  | 0x5E => vmSts .stfe w
  | 0x5F => vaAtom w
  | _ => .ok (.reservedOpcode (BitVec.ofNat 32 w))

/-- V-set opcodes 0x60–0x7F (R232). -/
def decodeV3 (op lit w : Nat) : Dec Instr :=
  match op with
  | 0x60 => vaAtoms w
  | 0x63 => vmPref w
  | 0x70 => vbBr w
  | 0x71 => viBrx w
  | 0x72 => viCallx w
  | 0x73 => vrOnlyPair .retx w
  | 0x74 => vrJoin w
  | 0x75 => viLpad w
  | 0x76 => vrFork w
  | 0x77 => noFields .fend w
  | 0x78 => vrJmset w
  | 0x7F => vlLimm .limm lit w
  | _ => .ok (.reservedOpcode (BitVec.ofNat 32 w))

/-- U-set opcodes 0x00–0x1F (R233). -/
def decodeU0 (op w : Nat) : Dec Instr :=
  match op with
  | 0x80 => vrTab satTable .uadd w
  | 0x81 => vrTab satTable .usub w
  | 0x82 => vrTab satTable .umul w
  | 0x83 => vrTab sgnTable .umulh w
  | 0x84 => vrTab satTable .umad w
  | 0x85 => vrTab sgnTable .umin w
  | 0x86 => vrTab sgnTable .umax w
  | 0x87 => vrBin .uand w
  | 0x88 => vrBin .uor w
  | 0x89 => vrBin .uxor w
  | 0x8A => vrBin .ushl w
  | 0x8B => vrBin .ushr w
  | 0x8C => vrBin .usar w
  | 0x8D => vrUn .upopc w
  | 0x8E => vrUn .uclz w
  | 0x8F => vrCmp cmpSTable .ucmp w
  | 0x90 => vrCmp cmpUTable .ucmpu w
  | 0x91 => vrSel .usel w
  | 0x92 => viImm .uaddi w
  | 0x93 => viImm .uandi w
  | 0x94 => viImm .uori w
  | 0x95 => viShift .ushifti w
  | 0x96 => vrMov .umov w
  | 0x97 => vrPairs .uadd64 w
  | _ => .ok (.reservedOpcode (BitVec.ofNat 32 w))

/-- U-set opcodes 0x20–0x3F (R233). -/
def decodeU1 (op w : Nat) : Dec Instr :=
  match op with
  | 0xA0 => ubUbr w
  | 0xA1 => ujOff .ujmp w
  | 0xA2 => ujOff .ucall w
  | 0xA3 => vrOnlyPair .uret w
  | 0xA4 => viUdbnz w
  | 0xA5 => utTrl w
  | 0xA6 => noFields .nop w
  | 0xA7 => noFields .yield w
  | 0xA8 => noFields .halt w
  | 0xA9 => viOnly 256 .trap w
  | 0xAA => noFields .eret w
  | 0xB0 => viBarA .barinit w
  | 0xB1 => viBarD .bararr w
  | 0xB2 => viBarA .barwait w
  | 0xB3 => viBarD .bararw w
  | 0xB4 => vrCwait w
  | 0xB5 => vrCwaitt w
  | 0xB6 => vrCinc w
  | 0xB7 => viFence w
  | 0xB8 => viOnly 4 .fwait w
  | 0xB9 => viClubar w
  | _ => .ok (.reservedOpcode (BitVec.ofNat 32 w))

/-- U-set opcodes 0x40–0x5F (R233). -/
def decodeU2 (op w : Nat) : Dec Instr :=
  match op with
  | 0xC0 => viSrd w
  | 0xC1 => viSwr w
  | 0xC2 => vrOnlyPair .cbld w
  | 0xC3 => viOnly 256 .tmshp w
  | 0xC4 => vrTmtab w
  | 0xC5 => vrRange .ipf w
  | 0xC6 => vrIpin w
  | 0xC7 => vrRange .iunpin w
  | 0xC8 => vrCwb w
  | 0xC9 => vrTstat w
  | 0xD0 => ueMma w
  | 0xD1 => ueAccz w
  | 0xD2 => ueDrain w
  | 0xD3 => ueTcopy w
  | 0xD4 => ueDcjob w
  | 0xD5 => ueRrot w
  | 0xD6 => ueXsort w
  | 0xD7 => ueProlog w
  | _ => .ok (.reservedOpcode (BitVec.ofNat 32 w))

/-- U-set opcodes 0x60–0x7F (R233). -/
def decodeU3 (op lit w : Nat) : Dec Instr :=
  match op with
  | 0xE0 => ueXfer .xput w
  | 0xE1 => ueXfer .xget w
  | 0xE2 => ueXarm w
  | 0xE3 => ueXdisarm w
  | 0xE4 => vrRinv w
  | 0xE5 => vrRinvh w
  | 0xE6 => vrHwait w
  | 0xE7 => vrHstat w
  | 0xE8 => vrOnlyPair .hfree w
  | 0xE9 => vrIwait w
  | 0xEA => vrIdone w
  | 0xF0 => viOnly 8 .wopen w
  | 0xF1 => viOnly 8 .wclose w
  | 0xF2 => viRgnD .pmerge w
  | 0xF3 => viPstat w
  | 0xF4 => viRgnDA .ptrick w
  | 0xF5 => viDchk w
  | 0xFF => vlLimm .ulimm lit w
  | _ => .ok (.reservedOpcode (BitVec.ofNat 32 w))

/-- The instruction of a word below 2^32 and of the word that follows it (R211, R212, R218). A reserved opcode is a row of its own (R234). -/
def decodeWord (w lit : Nat) : Dec Instr :=
  let op := w / 2 ^ 24
  match op / 32 with
  | 0 => decodeV0 op w
  | 1 => decodeV1 op w
  | 2 => decodeV2 op w
  | 3 => decodeV3 op lit w
  | 4 => decodeU0 op w
  | 5 => decodeU1 op w
  | 6 => decodeU2 op w
  | _ => decodeU3 op lit w

/-- A little-endian word of four bytes. -/
def wordOfBytes (b0 b1 b2 b3 : Byte) : Nat := b0.toNat + b1.toNat * 2 ^ 8 + b2.toNat * 2 ^ 16 + b3.toNat * 2 ^ 24

/-- The four bytes of a word, lowest address first. -/
def bytesOfWord (w : Nat) : List Byte :=
  [BitVec.ofNat 8 w, BitVec.ofNat 8 (w / 2 ^ 8), BitVec.ofNat 8 (w / 2 ^ 16), BitVec.ofNat 8 (w / 2 ^ 24)]

/-- The first instruction of a byte string and the bytes after it. -/
def decode (bs : List Byte) : Dec (Instr × List Byte) :=
  match bs with
  | b0 :: b1 :: b2 :: b3 :: rest =>
    let w := wordOfBytes b0 b1 b2 b3
    if hasLiteral w then
      match rest with
      | c0 :: c1 :: c2 :: c3 :: rest => do
        let i ← decodeWord w (wordOfBytes c0 c1 c2 c3)
        .ok (i, rest)
      | _ => .error .truncated
    else do
      let i ← decodeWord w 0
      .ok (i, rest)
  | _ => .error .truncated

/-- The instruction of a table word: `nbits` bits of `w`, every further bit zero, laid out little-endian (R211, R218). -/
def decodeTableWord (nbits w : Nat) : Option Instr :=
  match decode (bytesOfWord (w % 2 ^ nbits % 2 ^ 32) ++ bytesOfWord (w % 2 ^ nbits / 2 ^ 32)) with
  | .ok (i, _) => some i
  | .error _ => none

/-! ### The encoder -/

/-- The code of a source field (R213). -/
def Src.code : Src → Nat
  | .v n => n
  | .lat k => 120 + k

/-- The register code of a destination; zero when none is written (R222). -/
def Dst.code : Dst → Nat
  | .v n => n
  | .nw => 0

/-- The bit n of a destination (R222). -/
def Dst.nBit : Dst → Nat
  | .v _ => 0
  | .nw => 1

/-- The bit of a flag. -/
def bitOf (b : Bool) : Nat := if b then 1 else 0

/-- A VR or UR word (R236). -/
def encVR (op m n d a b : Nat) : Nat := op * 2 ^ 24 + m * 2 ^ 22 + n * 2 ^ 21 + d * 2 ^ 14 + a * 2 ^ 7 + b

/-- A VI or UI word (R236). -/
def encVI (op n d a i : Nat) : Nat := op * 2 ^ 24 + n * 2 ^ 23 + d * 2 ^ 16 + a * 2 ^ 9 + i

/-- A VM word (R211). -/
def encVM (op s c d a o : Nat) : Nat := op * 2 ^ 24 + s * 2 ^ 22 + c * 2 ^ 19 + d * 2 ^ 12 + a * 2 ^ 5 + o

/-- A VA word (R211). -/
def encVA (op p c d a s : Nat) : Nat := op * 2 ^ 24 + p * 2 ^ 19 + c * 2 ^ 16 + d * 2 ^ 9 + a * 2 ^ 2 + s

/-- A VB or UB word (R211). -/
def encVB (op c e k o : Nat) : Nat := op * 2 ^ 24 + c * 2 ^ 21 + e * 2 ^ 20 + k * 2 ^ 19 + o

/-- A UJ word (R211). -/
def encUJ (op o : Nat) : Nat := op * 2 ^ 24 + o

/-- A UE word (R211). -/
def encUE (op s a b f g : Nat) : Nat := op * 2 ^ 24 + s * 2 ^ 21 + a * 2 ^ 14 + b * 2 ^ 7 + f * 2 ^ 4 + g

/-- The code of a selector in its table. -/
def codeIn {α : Type} [DecidableEq α] (table : List α) (a : α) : Nat := table.findIdx (fun b => b == a)

/-- The words of an instruction, first word first; none for a step of the machine, which no word encodes. -/
def encode (i : Instr) : List Nat :=
  let vr3 (op m : Nat) (d : Dst) (a b : Src) : List Nat := [encVR op m d.nBit d.code a.code b.code]
  let vr2 (op m : Nat) (d : Dst) (a : Src) (b : Nat) : List Nat := [encVR op m d.nBit d.code a.code b]
  let imm (op : Nat) (d : Dst) (a : Src) (k : Int) : List Nat := [encVI op d.nBit d.code a.code (fieldOfInt 9 k)]
  let sh (op : Nat) (e : ShiftOp) (d : Dst) (a : Src) (n : Nat) : List Nat :=
    [encVI op d.nBit d.code a.code (codeIn shiftTable e * 2 ^ 7 + n)]
  let vm (op : Nat) (sz : Size) (sc : Scope) (d a : Nat) (off : Int) : List Nat :=
    [encVM op (codeIn sizeTable sz) (codeIn scopeTable sc) d a (fieldOfInt 5 off)]
  match i with
  | .iadd m d a b => vr3 0x00 (codeIn satTable m) d a b
  | .isub m d a b => vr3 0x01 (codeIn satTable m) d a b
  | .imul m d a b => vr3 0x02 (codeIn satTable m) d a b
  | .imulh m d a b => vr3 0x03 (codeIn sgnTable m) d a b
  | .imad m d a b => vr3 0x04 (codeIn satTable m) d a b
  | .imin m d a b => vr3 0x05 (codeIn sgnTable m) d a b
  | .imax m d a b => vr3 0x06 (codeIn sgnTable m) d a b
  | .isad m d a b => vr3 0x07 (codeIn sgnTable m) d a b
  | .and d a b => vr3 0x08 0 d a b
  | .or d a b => vr3 0x09 0 d a b
  | .xor d a b => vr3 0x0A 0 d a b
  | .andn d a b => vr3 0x0B 0 d a b
  | .shl d a b => vr3 0x0C 0 d a b
  | .shr d a b => vr3 0x0D 0 d a b
  | .sar d a b => vr3 0x0E 0 d a b
  | .rol d a b => vr3 0x0F 0 d a b
  | .popc d a => vr2 0x10 0 d a 0
  | .clz d a => vr2 0x11 0 d a 0
  | .brev d a => vr2 0x12 0 d a 0
  | .bfx m d a b => vr3 0x13 (codeIn sgnTable m) d a b
  | .bfi d a b => vr3 0x14 0 d a b
  | .icmp m d a b => vr3 0x15 (codeIn cmpSTable m) d a b
  | .icmpu m d a b => vr3 0x16 (codeIn cmpUTable m) d a b
  | .sel c d a b => vr3 0x17 c d a b
  | .iaddi d a k => imm 0x18 d a k
  | .andi d a k => imm 0x19 d a k
  | .ori d a k => imm 0x1A d a k
  | .xori d a k => imm 0x1B d a k
  | .shifti e d a n => sh 0x1C e d a n
  | .mov m d a => vr2 0x1E (codeIn [MovSel.mov, .fromc, .toc] m) d a 0
  | .iadd64 d a b => [encVR 0x1F 0 d.nBit d.code a b]
  | .fadd m d a b => vr3 0x20 (codeIn ftypeTable m) d a b
  | .fsub m d a b => vr3 0x21 (codeIn ftypeTable m) d a b
  | .fmul m d a b => vr3 0x22 (codeIn ftypeTable m) d a b
  | .ffma m d a b => vr3 0x23 (codeIn ftypeTable m) d a b
  | .ffms m d a b => vr3 0x24 (codeIn ftypeTable m) d a b
  | .fnma m d a b => vr3 0x25 (codeIn ftypeTable m) d a b
  | .fmin m d a b => vr3 0x26 (codeIn ftypeTable m) d a b
  | .fmax m d a b => vr3 0x27 (codeIn ftypeTable m) d a b
  | .fcmp m d a b => vr3 0x28 (codeIn fcmpTable m) d a b
  | .fsign m d a b => vr3 0x29 (codeIn signTable m) d a b
  | .cvt m d a c => vr2 0x2A (codeIn rmTable m) d a c
  | .cvts m d a c => vr2 0x2B (codeIn rmTable m) d a c
  | .frnd m d a => vr2 0x2C (codeIn rmTable m) d a 0
  | .rcp d a => vr2 0x2D 0 d a 0
  | .rsq d a => vr2 0x2E 0 d a 0
  | .sqrt d a => vr2 0x2F 0 d a 0
  | .ex2 d a => vr2 0x30 0 d a 0
  | .lg2 d a => vr2 0x31 0 d a 0
  | .sin d a => vr2 0x32 0 d a 0
  | .cos d a => vr2 0x33 0 d a 0
  | .tanh d a => vr2 0x34 0 d a 0
  | .fscale d a b => vr3 0x35 0 d a b
  | .fxtr m d a => vr2 0x36 (codeIn xtrTable m) d a 0
  | .pack m d a b => vr3 0x37 (codeIn packTable m) d a b
  | .unpk m d a h => vr2 0x38 (codeIn unpkTable m) d a h
  | .cbq d a n => vr2 0x39 0 d a n
  | .cbx d a n => vr2 0x3A 0 d a n
  | .dot2 ty d a b => vr3 0x3B (match ty with | .f16x2 => 1 | .bf16x2 => 2) d a b
  | .shfl m d a b => vr3 0x40 (codeIn shflTable m) d a b
  | .vote m d c => [encVR 0x42 (codeIn [VoteOp.any, .all, .ballot, .eq] m) d.nBit d.code c 0]
  | .sredi m d a => vr2 0x43 (codeIn redITable m) d a 0
  | .sredf m d a => vr2 0x44 (codeIn redFTable m) d a 0
  | .sscan m x d a => vr2 0x45 (codeIn scanTable m) d a (bitOf x)
  | .prmt d a b => vr3 0x46 0 d a b
  | .matchS m d a => vr2 0x47 (codeIn matchTable m) d a 0
  | .firstl d c => [encVR 0x48 0 d.nBit d.code c 0]
  | .tment m d a => vr2 0x50 (codeIn entryTable m) d a 0
  | .tmacc m d a => vr2 0x51 (codeIn entryTable m) d a 0
  | .tmmrg d a b => [encVR 0x52 0 d.nBit d.code a b]
  | .tmsred d a => [encVR 0x53 0 d.nBit d.code a 0]
  | .tmexit d a => [encVR 0x54 0 d.nBit d.code a 0]
  | .ld sz sc d a off => vm 0x58 sz sc d a off
  | .st sz sc d a off => vm 0x59 sz sc d.code a off
  | .lds sz sc d a off => vm 0x5A sz sc d a.code off
  | .sts sz sc d a off => vm 0x5B sz sc d.code a.code off
  | .ldfe sz sc d a off => vm 0x5C sz sc d a.code off
  | .ldfet sz sc d a off => vm 0x5D sz sc d a.code off
  | .stfe sz sc d a off => vm 0x5E sz sc d.code a.code off
  | .atom op sc dbl d a => [encVA 0x5F (codeIn atomTable op) (codeIn scopeTable sc) d a (bitOf dbl)]
  | .atoms op sc dbl d a => [encVA 0x60 (codeIn atomTable op) (codeIn scopeTable sc) d a.code (bitOf dbl)]
  | .pref x a off => [encVM 0x63 (bitOf x) 0 0 a (fieldOfInt 5 off)]
  | .br c e off => [encVB 0x70 c (bitOf e) 0 (fieldOfInt 19 off)]
  | .brx a tag => [encVI 0x71 0 0 a tag]
  | .callx d a tag => [encVI 0x72 0 d a tag]
  | .retx a => [encVR 0x73 0 0 0 a 0]
  | .join j => [encVR 0x74 0 0 j 0 0]
  | .lpad tag => [encVI 0x75 0 0 0 tag]
  | .fork c a b => [encVR 0x76 0 0 c a b.code]
  | .fend => [encUJ 0x77 0]
  | .jmset m j a => [encVR 0x78 (codeIn maskTable m) 0 j a.code 0]
  | .limm d lit => [encVI 0x7F d.nBit d.code 0 0, lit.toNat]
  | .uadd m d a b => vr3 0x80 (codeIn satTable m) d a b
  | .usub m d a b => vr3 0x81 (codeIn satTable m) d a b
  | .umul m d a b => vr3 0x82 (codeIn satTable m) d a b
  | .umulh m d a b => vr3 0x83 (codeIn sgnTable m) d a b
  | .umad m d a b => vr3 0x84 (codeIn satTable m) d a b
  | .umin m d a b => vr3 0x85 (codeIn sgnTable m) d a b
  | .umax m d a b => vr3 0x86 (codeIn sgnTable m) d a b
  | .uand d a b => vr3 0x87 0 d a b
  | .uor d a b => vr3 0x88 0 d a b
  | .uxor d a b => vr3 0x89 0 d a b
  | .ushl d a b => vr3 0x8A 0 d a b
  | .ushr d a b => vr3 0x8B 0 d a b
  | .usar d a b => vr3 0x8C 0 d a b
  | .upopc d a => vr2 0x8D 0 d a 0
  | .uclz d a => vr2 0x8E 0 d a 0
  | .ucmp m d a b => vr3 0x8F (codeIn cmpSTable m) d a b
  | .ucmpu m d a b => vr3 0x90 (codeIn cmpUTable m) d a b
  | .usel c d a b => vr3 0x91 c d a b
  | .uaddi d a k => imm 0x92 d a k
  | .uandi d a k => imm 0x93 d a k
  | .uori d a k => imm 0x94 d a k
  | .ushifti e d a n => sh 0x95 e d a n
  | .umov m d a => vr2 0x96 (codeIn [MovSel.mov, .fromc, .toc] m) d a 0
  | .uadd64 d a b => [encVR 0x97 0 d.nBit d.code a b]
  | .ubr c e k off => [encVB 0xA0 c (bitOf e) (bitOf k) (fieldOfInt 19 off)]
  | .ujmp off => [encUJ 0xA1 (fieldOfInt 24 off)]
  | .ucall off => [encUJ 0xA2 (fieldOfInt 24 off)]
  | .uret a => [encVR 0xA3 0 0 0 a 0]
  | .udbnz d off => [encVI 0xA4 d.nBit d.code 0 (fieldOfInt 9 off)]
  | .trl all regs =>
    match all, regs with
    | true, _ => [encVR 0xA5 0 1 0 0 0]
    | false, [] => [encVR 0xA5 0 0 0 0 0]
    | false, [x] => [encVR 0xA5 1 0 x 0 0]
    | false, [x, y] => [encVR 0xA5 2 0 x y 0]
    | false, x :: y :: z :: _ => [encVR 0xA5 3 0 x y z]
  | .nop => [encUJ 0xA6 0]
  | .yield => [encUJ 0xA7 0]
  | .halt => [encUJ 0xA8 0]
  | .trap c => [encVI 0xA9 0 0 0 c]
  | .eret => [encUJ 0xAA 0]
  | .barinit b a => [encVI 0xB0 0 0 a.code b]
  | .bararr d b => [encVI 0xB1 d.nBit d.code 0 b]
  | .barwait b a => [encVI 0xB2 0 0 a.code b]
  | .bararw d b => [encVI 0xB3 d.nBit d.code 0 b]
  | .cwait m d a b => [encVR 0xB4 (codeIn cwScopeTable m) d.nBit d.code a b]
  | .cwaitt m d a b => [encVR 0xB5 (codeIn cwScopeTable m) d.nBit d.code a b]
  | .cinc m d a b => [encVR 0xB6 (codeIn ciScopeTable m) d.nBit d.code a b.code]
  | .fence sc t => [encVI 0xB7 0 0 0 (codeIn scopeTable sc * 2 ^ 3 + t)]
  | .fwait t => [encVI 0xB8 0 0 0 t]
  | .clubar x => [encVI 0xB9 0 0 0 (bitOf x)]
  | .srd d n => [encVI 0xC0 d.nBit d.code 0 n]
  | .swr n a => [encVI 0xC1 0 0 a.code n]
  | .cbld a => [encVR 0xC2 0 0 0 a 0]
  | .tmshp c => [encVI 0xC3 0 0 0 c]
  | .tmtab a sl => [encVR 0xC4 0 0 0 a sl]
  | .ipf a b => [encVR 0xC5 0 0 0 a b.code]
  | .ipin d a b => [encVR 0xC6 0 d.nBit d.code a b.code]
  | .iunpin a b => [encVR 0xC7 0 0 0 a b.code]
  | .cwb m sc a b => [encVR 0xC8 (codeIn cwbTable m) 0 (codeIn scopeTable sc) a b.code]
  | .tstat d k => [encVR 0xC9 0 0 d 0 (codeIn ctxTable k)]
  | .mma zs a b sl => [encUE 0xD0 0 a.code b sl (bitOf zs)]
  | .accz m => [encUE 0xD1 0 0 0 0 m]
  | .drain col fl a sl =>
    [encUE 0xD2 (bitOf col) a.code 0 sl (bitOf fl.all + bitOf fl.sm * 2 + bitOf fl.z * 4)]
  | .tcopy pk fl a =>
    [encUE 0xD3 (bitOf pk) a.code 0 0 (bitOf fl.all + bitOf fl.ver * 2 + bitOf fl.cr * 4 + bitOf fl.arr * 8)]
  | .tcopyColl a => [encUE 0xD3 2 a.code 0 0 0]
  | .dcjob arr a => [encUE 0xD4 0 a.code 0 0 (bitOf arr)]
  | .rrot bwd a b => [encUE 0xD5 (bitOf bwd) a.code b.code 0 0]
  | .xsort a => [encUE 0xD6 0 a.code 0 0 0]
  | .prolog k => [encUE 0xD7 0 0 0 0 k]
  | .xput a b => [encUE 0xE0 0 a b 0 0]
  | .xget a b => [encUE 0xE1 0 a b 0 0]
  | .xarm a b => [encUE 0xE2 0 a.code b 0 0]
  | .xdisarm b => [encUE 0xE3 0 0 b.code 0 0]
  | .rinv d a => [encVR 0xE4 0 d.nBit d.code a.code 0]
  | .rinvh d a b => [encVR 0xE5 0 d.nBit d.code a.code b]
  | .hwait tr d a b => [encVR 0xE6 (bitOf tr) d.nBit d.code a b]
  | .hstat d a => [encVR 0xE7 0 d.nBit d.code a 0]
  | .hfree a => [encVR 0xE8 0 0 0 a 0]
  | .iwait d a b => [encVR 0xE9 0 d.nBit d.code a.code b.code]
  | .idone f a b => [encVR 0xEA (bitOf f) 0 0 a.code b.code]
  | .wopen k => [encVI 0xF0 0 0 0 k]
  | .wclose k => [encVI 0xF1 0 0 0 k]
  | .pmerge d k => [encVI 0xF2 d.nBit d.code 0 k]
  | .pstat d a k => [encVI 0xF3 d.nBit d.code a.code k]
  | .ptrick d a k => [encVI 0xF4 d.nBit d.code a.code k]
  | .dchk d k => [encVI 0xF5 d.nBit d.code 0 k]
  | .ulimm d lit => [encVI 0xFF d.nBit d.code 0 0, lit.toNat]
  | .reservedOpcode w => [w.toNat]
  | .propagate _ | .refresh _ _ _ _ _ _ | .missQueueEnter _ | .pageWalk _ _ | .longLatencyComplete _ | .portSchedule _ _ _
  | .groupActivate _ _ | .asyncTrap _ | .fetimeout _ | .fullEmptyTake _ | .cwaitComplete _ | .cwaittBound _ | .fwaitComplete _
  | .wopenProceed _ | .hwaitComplete _ | .iwaitTake _ | .engineCommandEnter _ | .mmaOperation _ _ | .acczOperation _
  | .drainOperation _ _ | .tcopyOperation _ _ | .packOperation _ _ | .prologOperation _ _ | .dcmpJob _ _ | .ringRotation _ _
  | .xputOperation _ | .xgetOperation _ | .collective _ _ _ | .xsortOperation _ _ | .triggeredSend _ _ | .engineRetire _ _
  | .prologue _ | .groupStart _ | .launchAdmit _ _ | .clusterStart _ _ | .allocationRelease _ | .noticeExpiry _ | .teamSave _
  | .teamRestore _ _ | .fabricAccessArrival _ | .fabricAnswer _ | .requestArrival _ | .packetArrival _ | .tokenGrant _ _
  | .tokenExpiry _ | .transferAck _ | .spindleSend _ _ _ | .driftMessageArrival _ _ | .battenFold _ _ | .mergePass _
  | .islandSilent _ _ _ | .invocationArrival _ | .invocationPlace _ _ | .rinvhForward _ _ | .refreshStart _ | .refreshEnd _
  | .throttleCheck _ | .scrub _ | .flitSend _ _ | .flitReceive _ _ _ _ _ | .keyInstall _ _ | .alarmDetect _
  | .coldReset _ _ _ _ _ _ _ _ _ | .pcieLinkChange _ _ | .getVersion _ | .getCapabilities _ | .negotiateAlgorithms _ | .getDigests _
  | .getCertificate _ _ | .challenge _ _ | .getMeasurements _ _ _ | .keyExchange _ _ | .finish _ _ | .endSession _ | .measExtend _ _ _
  | .unsupportedRequest _ _ | .queueEnable _ | .queueDisable _ | .tail _ _ | .chead _ _ | .alarmClear _ | .registerWrite _ _
  | .queueFetch _ | .launch _ | .wait _ | .queueWaitComplete _ | .queueWaitTimeout _ | .signal _ | .copy _
  | .queueCopyComplete _ _ | .xlinv _ | .partcfg _ | .ctxcfg _ | .preempt _ | .bind _ | .unbind _ | .member _ | .pause _
  | .resume _ | .setthr _ | .completionPost _ | .softError _ | .throttleCondition _ _ _ | .keySlotLoad _ _ _
  | .engineFeTimeout _ => []

/-- The bytes of an instruction, lowest address first. -/
def encodeBytes (i : Instr) : List Byte := (encode i).flatMap bytesOfWord

end Sys2Proof
end

