-- ==== Sys2Proof/Config.lean ====
section
/-!
DEFINITION. What the spec names and does not give, as constants without a body: the ciphers, hashes and signatures of R30, R362, R366, R369,
R371 and R372 (log entry 8). Nothing can be proved of their values but that equal inputs give equal outputs.
-/
namespace Sys2Proof.Config

/-- The AES-256-XTS ciphertext of a 64-byte unit under a key, a partition and the unit's number (R30). -/
opaque xtsEnc : List Byte → Nat → Nat → List Byte → List Byte

/-- The AES-256-XTS decryption of 64 bytes under a key, a partition and a unit's number (R30). -/
opaque xtsDec : List Byte → Nat → Nat → List Byte → List Byte

/-- AES-256-GCM under a key and nonce: byte i of the stream that the text is combined with (R362, R366). -/
opaque gcmStream : List Byte → Nat → Nat → Byte

/-- AES-256-GCM under a key and nonce: the 128-bit tag of a ciphertext (R362, R366). -/
opaque gcmTag : List Byte → Nat → List Byte → BitVec 128

/-- SHA3-384 (R369). -/
opaque sha3Bits : List Byte → BitVec 384

/-- The 256-bit key derived from a session's key schedule with a label and an identity (R374). -/
opaque derive : List Byte → List Byte → Nat → BitVec 256

/-- The device's ML-DSA-87 signature of a transcript (R371, R372). -/
opaque sign : List Byte → List Byte

/-- The device's ML-KEM-1024 key-exchange reply to a transcript (R372). -/
opaque kem : List Byte → List Byte

/-- The bytes of an SPDM 1.3 reply with some response code and content (R372); the spec gives the content and not the layout. -/
opaque spdmReply : Nat → List Byte → List Byte

/-- The identifier of a named algorithm in SPDM's extended algorithm fields (R372). -/
opaque extAlg : String → List Byte

/-- The bytes an agent meets where the spec gives none: a poisoned unit the Batten or the queue agent reads (R379), or a page of a bound region
that system software has since unmapped (log entry 5). -/
opaque freeByte : Nat → Byte

/-- The device's certificate chain, held in slot 0 (R371). -/
opaque chain : List Byte

end Sys2Proof.Config
end

