-- ==== Sys2Proof/Machine/SMap.lean ====
section
/-!
DEFINITION. Sparse maps from numbers, in one canonical form: keys strictly rising, and no entry equal to what an unlisted key reads as. All
stores of the machine (registers, scratchpads, memory, tiles) are such maps, so that equal stores are equal data.
-/
namespace Sys2Proof.Machine

/-- A sparse map: (key, value) pairs. -/
abbrev SMap (α : Type) := List (Nat × α)

/-- The value at a key; `d` is what an unlisted key reads as. -/
def smGet {α : Type} (d : α) : SMap α → Nat → α
  | [], _ => d
  | (k', v) :: r, k => if k' = k then v else if k < k' then d else smGet d r k

/-- Writing a key; writing `d` removes the entry. -/
def smSet {α : Type} [DecidableEq α] (d : α) : SMap α → Nat → α → SMap α
  | [], k, v => if v = d then [] else [(k, v)]
  | (k', v') :: r, k, v =>
    if k < k' then (if v = d then (k', v') :: r else (k, v) :: (k', v') :: r)
    else if k = k' then (if v = d then r else (k, v) :: r)
    else (k', v') :: smSet d r k v

/-- Every key is above `lo`, keys rise strictly, and no value is `d`. -/
def smWfFrom {α : Type} [DecidableEq α] (d : α) : Nat → SMap α → Bool
  | _, [] => true
  | lo, (k, v) :: r => decide (lo ≤ k) && decide (v ≠ d) && smWfFrom d (k + 1) r

/-- The canonical form. -/
def smWf {α : Type} [DecidableEq α] (d : α) (m : SMap α) : Bool := smWfFrom d 0 m

/-- Writing a run of keys from `k`. -/
def smSetRun {α : Type} [DecidableEq α] (d : α) : SMap α → Nat → List α → SMap α
  | m, _, [] => m
  | m, k, v :: vs => smSetRun d (smSet d m k v) (k + 1) vs

/-- Reading `n` keys from `k`. -/
def smGetRun {α : Type} (d : α) (m : SMap α) (k n : Nat) : List α := (List.range n).map (fun i => smGet d m (k + i))

/-- Writing a list of pairs in order. -/
def smSetAll {α : Type} [DecidableEq α] (d : α) (m : SMap α) (ps : List (Nat × α)) : SMap α :=
  ps.foldl (fun m p => smSet d m p.1 p.2) m

/-- Dropping every key from `lo` to `hi - 1`. -/
def smDrop {α : Type} (m : SMap α) (lo hi : Nat) : SMap α := m.filter (fun p => decide (p.1 < lo) || decide (hi ≤ p.1))

end Sys2Proof.Machine
end

