-- ==== Sys2Proof/Machine/State.lean ====
section
/-!
DEFINITION. The state of one Plehild 6 as plain data: everything the spec gives the machine (INVENTORY.md, State, names the rule of each
piece), the faults and refusals of the model, and the state after reset. Stores are sparse maps (SMap); teams, groups and fibres are lists of
records found by name.
-/
namespace Sys2Proof.Machine

/-- Why the machine stops. -/
inductive Fault where
  /-- Raised by `step` when the ERASE policy has halted the device (R368) and nothing is on the agenda: only a cold reset goes on. Safe: the
  hardware does nothing there either. -/
  | halted
deriving DecidableEq, Repr

/-- Why an instruction has no meaning. -/
inductive Refusal where
  /-- Raised by an arm of `exec` whose instruction has no meaning in the model. Safe: nothing is claimed of it. -/
  | notModelled (mnemonic : String)
deriving DecidableEq, Repr

/-! ### Configuration of the device -/

/-- One partition's configuration (R161). Masks are numbers whose bit i names core, channel, weight-store bank or key slot i. -/
structure Part where
  p : Nat
  cores : Nat
  chans : Nat
  wsu : Nat
  ways : List Nat
  tent : List Nat
  twalk : List Nat
  keys : Nat
  hwbase : Nat
  hwlen : Nat
  igran : Nat
  vlanes : Nat
  fwtab : Nat
deriving DecidableEq, Repr

/-- One context record (R162). -/
structure CtxRec where
  p : Nat
  x : Nat
  root : DWord
  tvec : DWord
  tfoff : Nat
  weight : Nat
  savebase : Nat
  savelen : Nat
deriving DecidableEq, Repr

/-- A loaded memory-key slot (R30). -/
structure KeySlot where
  slot : Nat
  p : Nat
  key : Key
deriving DecidableEq, Repr

/-- What the device is configured as: its number (R149), its partitions, contexts and memory keys. -/
structure Conf where
  device : BitVec 13
  parts : List Part
  ctxs : List CtxRec
  keys : List KeySlot
deriving DecidableEq, Repr

/-! ### Ordering machine (R68–R80) -/

/-- How a write changes the full/empty state of its granules when it is delivered (R43). -/
inductive WKind where
  /-- A fibre write: F and M unchanged. -/
  | plain
  /-- STFE: full, M = 0xFFFF. -/
  | stfe
  /-- An engine write or a fabric arrival: M gains the bytes, full when M is complete. -/
  | engine
deriving DecidableEq, Repr

/-- What the stores hold in a 64-byte unit of package memory, weight store or host memory (R30, R31): bytes no key has been used on (`open_`), bytes
an agent without a key wrote to host memory (`bare`), or the ciphertext that a key produced, kept as its plaintext (`under`). -/
inductive Sealed where
  | open_
  | bare
  | under (k : KTag)
deriving DecidableEq, Repr

/-- A write on its way (R70): its identity, its location, its bytes, its kind, its encryption, whether it is synchronising at core scope (R80), and
for a write to fabric space the store it belongs to, its number there and this device. -/
structure Write where
  wid : Nat
  sp : Space
  addr : Nat
  bytes : List Byte
  kind : WKind
  tag : Option KTag
  sync : Bool
  xid : Nat
  num : Nat
  src : Nat
deriving DecidableEq, Repr

/-- How far a write to another device is at the device point (R34, R71, R106): it rests there, it is to leave as soon as the older writes to its
bytes have, or it has left and its answer is awaited. Its answer is its delivery. Other writes rest until they move. -/
inductive Going where
  | rests
  | leaves
  | away
deriving DecidableEq, Repr

/-- A write in the buffer of a point. -/
structure BufEnt where
  pt : Point
  w : Write
  go : Going
deriving DecidableEq, Repr

/-- A copy of a 16-byte unit at a point, read under a key; a byte that has been taken away is none (R70, R71). -/
structure Copy where
  pt : Point
  sp : Space
  unit : Nat
  tag : Option KTag
  bytes : List (Option Byte)
deriving DecidableEq, Repr

/-- Where the 528 bytes of a compressed block's slot lie, in pieces that cross no 16-byte unit: the place of each, none outside the partition's map, its
length, and the partition-physical unit it is encrypted in (R63). -/
abbrev SlotParts := List (Option (Space × Nat) × Nat × Nat)

/-- The copies at a point of the units of one compressed block's slot, which are read, refreshed and removed together (R64): the slot's tag and
partition-physical address, where its bytes lie in order, and its 528 bytes. -/
structure Block where
  pt : Point
  tag : KTag
  slot : Nat
  parts : SlotParts
  bytes : List Byte
deriving DecidableEq, Repr

/-- A write delivered at its home: an element of the modification order of each of its bytes (R70). -/
structure Deliv where
  wid : Nat
  sp : Space
  addr : Nat
  bytes : List Byte
deriving DecidableEq, Repr

/-- A core-scope synchronising write at a core point (R80). -/
structure Mark where
  t : Nat
  sp : Space
  addr : Nat
  len : Nat
deriving DecidableEq, Repr

/-! ### Translation (R13–R21) -/

/-- A translation: the leaf entry, its address, the page size exponent and the leaf's key. -/
structure Leaf where
  e : DWord
  at_ : Nat
  log : Nat
deriving DecidableEq, Repr

/-- The result of a walk: a leaf, or a cause and sub-cause (R14, R16). -/
inductive Xl where
  | ok (l : Leaf)
  | bad (cause sub : Nat)
deriving DecidableEq, Repr

/-- The caches of translations: of a core, of an engine context, of a die agent (R18, R20). -/
inductive TlbOwner where
  | core (c : Nat)
  | die (d : Nat)
  | eng (t : Nat) (k : EngCtx)
  | agent (d : Nat) (a : DieAgent)
deriving DecidableEq, Repr

/-- A cached translation of the page that covers a 64 KiB virtual block. -/
structure TlbEnt where
  own : TlbOwner
  p : Nat
  x : Nat
  vpn : Nat
  leaf : Leaf
deriving DecidableEq, Repr

/-- An entry of a core's miss queue (R18). -/
structure Miss where
  core : Nat
  p : Nat
  x : Nat
  vpn : Nat
deriving DecidableEq, Repr

/-- A line of package memory that the cache of its die holds, in the ways of a partition, with the key it was filled under (R54, R55, R161). -/
structure PLine where
  part : Nat
  line : Nat
  key : Key
deriving DecidableEq, Repr

/-- A translated access: its location, its encryption, and the leaf that gave it. -/
structure Acc where
  sp : Space
  addr : Nat
  tag : Option KTag
  ppa : Nat
  cmp : Bool
  leaf : Option Leaf
deriving DecidableEq, Repr

/-- One access of an instruction: lane, address, bytes, and the address a trap reports. -/
structure Req where
  lane : Nat
  addr : Nat
  n : Nat
  rep : Nat
deriving DecidableEq, Repr

/-- Where a checked access goes. -/
inductive Place where
  | here (a : Acc) (va : Nat)
  | fab (dev off : Nat)
deriving DecidableEq, Repr

/-- A line of an instruction cache (R53): its virtual line, the place it was filled from, and the launches that pin it (R301). -/
structure ILine where
  core : Nat
  p : Nat
  x : Nat
  line : Nat
  sp : Space
  addr : Nat
  tag : Option KTag
  bytes : List Byte
  pin : List Nat
deriving DecidableEq, Repr

/-! ### Execution (R136–R180) -/

/-- A transform binding (R138). -/
structure Binding where
  kind : Nat
  pair : Nat
  cflags : Nat
  bar : Nat
  fe : Bool
  addr : DWord
deriving DecidableEq, Repr

/-- A launch record (R136). -/
structure LRec where
  entry : DWord
  nclu : Nat
  clw : Nat
  clh : Nat
  rects : Nat
  span : Bool
  lat : Nat
  persist : Bool
  ngrp : Nat
  regs : Nat
  sect0 : Nat
  fek : Nat
  scr : Nat
  ieoff : Nat
  ielen : Nat
  tmask : Nat
  scu : Nat
  regmask : Nat
  pairmask : Nat
  roles : Nat
  fwe : Nat
  fwen : Bool
  fwperm : Nat
  fwob : Nat
  fmts : List Nat
  binds : List Binding
  args : List Byte
deriving DecidableEq, Repr

/-- Why a launch stops (R163, R172): cause, the stopping group, its team's core and its cluster's number in the launch. -/
structure Stop where
  cause : Nat
  group : Nat
  core : Nat
  clu : Nat
deriving DecidableEq, Repr

/-- A launch that a queue has begun: its record is read at admission. -/
structure Launch where
  l : Nat
  q : Nat
  index : Nat
  utag : Word
  cpl : Bool
  irq : Bool
  evict : Bool
  p : Nat
  x : Nat
  prio : Nat
  rec_ : Option LRec
  recAddr : DWord
  admitted : Bool
  order : Nat
  nextClu : Nat
  stop : Option Stop
  prolFail : Option (Nat × Nat × Nat)
deriving DecidableEq, Repr

/-- One core of a cluster: core number, rectangle, row and column in it (R143, R149). -/
structure CluCore where
  core : Nat
  rect : Nat
  row : Nat
  col : Nat
deriving DecidableEq, Repr

/-- Where a cluster stands in pre-emption (R175). -/
inductive PreSt where
  | running
  | notice (deadline : Nat)
  | stopping
  | saved
deriving DecidableEq, Repr

/-- The phase of a cluster barrier level (R294): the groups that have arrived. -/
structure CluBar where
  arrived : List (Nat × Nat)
  phase : Nat
deriving DecidableEq, Repr

/-- A resident or saved cluster (R143–R145). `preq` names the launch that evicted it, by queue and ring index (R174). -/
structure Cluster where
  c : Nat
  l : Nat
  num : Nat
  cores : List CluCore
  started : Bool
  pre : PreSt
  preq : Option (Nat × Nat)
  barDie : List CluBar
  barAll : CluBar
deriving DecidableEq, Repr

/-- A named barrier (R293). -/
structure Bar where
  count : Nat
  arr : Nat
  parity : Bool
  deferred : Option Nat
deriving DecidableEq, Repr

/-- An engine report (R303). -/
structure Report where
  valid : Bool
  status : Nat
  sub : Nat
  n : Nat
  addr : DWord
deriving DecidableEq, Repr

/-- A team (R141): its place, its allocation and what it owns. `prol` is the prologue's next binding, 4 when all are done, 5 once one has failed
(R139). `rots` are the rotations its COPY context has accepted: direction, offset and length (R333). -/
structure Team where
  t : Nat
  c : Nat
  l : Nat
  idx : Nat
  core : Nat
  base : Nat
  len : Nat
  gen : Word
  inbound : Nat
  regBase : List Nat
  prol : Nat
  prolDone : Bool
  bars : List Bar
  nops : List Nat
  rots : List (Bool × Nat × Nat)
  reports : List Report
deriving DecidableEq, Repr

/-- A pending asynchronous trap (R34, R172, R175). -/
structure PendTrap where
  cause : Nat
  sub : Nat
  addr : DWord
  fail : Option Word
  restart : Bool
deriving DecidableEq, Repr

/-- A group (R150, R154, R155, R169–R172). -/
structure Group where
  t : Nat
  g : Nat
  role : Nat
  sect : Nat
  fpstat : Word
  tmshape : Nat
  tmpair : Nat
  codebook : List (BitVec 16)
  joins : List Word
  conds : List Word
  handler : Bool
  handlerKind : Nat
  trapCause : Word
  trapAddr : DWord
  pend : List PendTrap
  feKept : Option Nat
  lpadKept : Option Nat
  preDone : Bool
  ended : Bool
  active : Bool
  ready : Nat
  since : Nat
  slot : Nat
  held : Option Nat
  rdSnap : Nat
deriving DecidableEq, Repr

/-- A fence token (R95). -/
structure Tok where
  pend : Bool
  wids : List Nat
  sc : Nat
deriving DecidableEq, Repr

/-- A command as accepted, with the bytes read at issue. -/
inductive Cmd where
  | mma (zs : Bool) (blk : List Byte) (b slot base : Nat) (codebook : List (BitVec 16))
  | accz (mask : Nat)
  | drain (col : Bool) (fl : DrainFlags) (blk : List Byte) (slot : Nat)
  | tcopy (pack : Bool) (fl : CopyFlags) (blk srec drec : List Byte)
  | coll (blk crec drec : List Byte)
  | dcjob (arr : Bool) (blk : List Byte)
  | rrot (bwd : Bool) (off len : Word)
  | prolog (k : Nat)
  | xput (desc : List Byte)
  | xget (desc : List Byte)
  | xarm (desc : List Byte) (cw thr : DWord)
  | xdisarm (n : Nat)
  | xsort (blk : List Byte)
deriving DecidableEq, Repr

/-- What a fibre waits for. -/
inductive Why where
  /-- Room in the core miss queue (R18). -/
  | missRoom (blocks : List Nat)
  /-- Walks of its blocks (R18, R21). -/
  | xlate (blocks : List Nat)
  /-- Room in an engine context, with the command as read at issue (R305). -/
  | engine (k : EngCtx) (cmd : Cmd) (blk : DWord)
  /-- A register an MMA holds (R312). -/
  | heldReg
  /-- An outstanding long-latency write of a register or latch it names: the run has yielded (R168). -/
  | yield
  /-- The answers of fabric accesses (R34). -/
  | fabric (xid : Nat)
  /-- Writes to other devices that must have left the points below the system point first (R75–R77): the instruction is then issued again, or, with
  `again` false, is over. -/
  | drain (wids : List Nat) (again : Bool)
  /-- A weight-store bank's refresh (R58). -/
  | bank (die bank : Nat)
  /-- LDFE or LDFET (R44). -/
  | granule
  /-- JOIN (R153). -/
  | join (j : Nat)
  /-- A barrier whose parity was this (R293). -/
  | barrier (b : Nat) (parity : Bool)
  /-- A cluster barrier's phase (R294). -/
  | clubar (all : Bool) (phase : Nat)
  /-- A count wait, bounded or not, with the translation it was checked under (R295). -/
  | count (bound : Option Nat) (leaf : Option Leaf)
  /-- A pending token (R96). -/
  | token (k : Nat)
  /-- A region's merge (R123). -/
  | window (rgn : Nat)
  /-- A handle (R354). -/
  | handle
  /-- An invocation of a service (R352). -/
  | service (s : Nat)
  /-- Registers an MMA holds, with the result that is to be written there and its latch's (R312). -/
  | kept (ws : List (Nat × Nat × Word)) (lat : List (Nat × Word))
deriving DecidableEq, Repr

/-- A wait: the instruction held, why, and the cycle from which its limit counts. -/
structure Wait where
  i : Instr
  why : Why
  since : Nat
deriving DecidableEq, Repr

/-- A fibre (R150). `fe` keeps the time a re-issued instruction has waited (R46); `drained` that its drain is done (R76); `asked` that its instruction is a command, or a
load of the group's codebook or of a table pair, that has waited and not completed its issue (R299, R300, R304). -/
structure Fibre where
  ref : FRef
  pc : DWord
  pred : Word
  base : Nat
  toks : List Tok
  depths : List Nat
  run : Bool
  pos : Nat
  wait : Option Wait
  susp : Bool
  trl : Option (List Nat)
  lpad : Option Nat
  xl : List (Nat × Xl)
  fe : Option Nat
  drained : Bool
  asked : Bool
deriving DecidableEq, Repr

/-- An outstanding long-latency result (R168, R221): register writes (physical register, lane, value) and the latch that awaits it. -/
structure Outst where
  id : Nat
  ref : FRef
  regs : List (Nat × Nat × Word)
  latch : Option (Nat × List (Nat × Word))
deriving DecidableEq, Repr

/-- The run a quadrant port holds, and the positions issued since it started or resumed (R166). -/
structure PortRun where
  ref : FRef
  n : Nat
deriving DecidableEq, Repr

/-- A quadrant port (R166): deficit counters of the resident contexts, LAST, the run in progress. -/
structure Port where
  core : Nat
  quad : Nat
  dc : List (Nat × Int)
  last : Nat
  run : Option PortRun
deriving DecidableEq, Repr

/-- A table pair (R206): the raw 536-byte image. A saved team t keeps its pairs under core number 768 + t. -/
structure PairSlot where
  core : Nat
  slot : Nat
  img : List Byte
deriving DecidableEq, Repr

/-! ### Engines (R304–R346) -/

/-- A transfer in progress (R337). -/
structure Xfer where
  xid : Nat
  sent : Nat
  acked : Nat
  outstanding : Nat
  bad : Option (Nat × Nat)
  grants : List Grant
deriving DecidableEq, Repr

/-- What an operation does in the step in which it retires (R103, R317, R325, R327): writes delivered at their homes, bytes of scale memory, a tile that
reads zero, a version word that becomes even, and the codebook of every group. -/
structure Due where
  writes : List (Acc × List Byte)
  scale : List (Nat × List Byte)
  zero : Option Nat
  ver : Option Acc
  book : Option (List Byte)
deriving DecidableEq, Repr

/-- An operation of an engine context (R305); n = 0 marks an operation of the prologue (R139). `stage` says which part of its entry is
performed, `prog` and `pos` how far it is, `buf` holds the bytes the engine keeps inside. `await` are the writes to other devices its retirement waits for,
`watch` is where the count word of an armed send lies, and `met` that the word has reached the threshold (R93, R340). -/
structure Op where
  t : Nat
  k : EngCtx
  n : Nat
  cmd : Cmd
  blkAddr : DWord
  g : Nat
  begun : Bool
  stage : Nat
  prog : Nat
  pos : Nat
  buf : List Byte
  tries : Nat
  v1 : DWord
  feSince : Option Nat
  xfer : Option Xfer
  fired : Bool
  ins : List (List Byte)
  due : Due
  await : Option (List Nat)
  watch : Option Acc
  met : Bool
  fin : Option (Nat × Nat × DWord)
deriving DecidableEq, Repr

/-- A rotation of a cluster's ring in progress (R333): the granule moves done, and the granules of the offset on their way. -/
structure Ring where
  c : Nat
  done : Nat
  held : List (List Byte × Bool × BitVec 16)
deriving DecidableEq, Repr

/-! ### Fabric (R33, R34, R337–R339) -/

/-- Messages that leave the device. -/
inductive NetMsg where
  | access (r : FabReq)
  | answer (dst : Nat) (a : FabAns)
  | request (dst : Nat) (r : XferReq)
  | withdraw (dst xid : Nat)
  | packet (dst : Nat) (p : Packet)
  | grant (dst : Nat) (get : Bool) (g : Grant)
  | revoke (dst token : Nat)
  | ack (dst : Nat) (a : XferAck)
  | invoke (dst : Nat) (i : Invocation)
  | forward (dst : Nat) (i : Invocation)
  | handle (dst part : Nat) (h : Handle) (s : HState)
  | query (dst part xid : Nat) (h : Handle) (free : Bool)
  | queried (dst xid : Nat) (s : Option HState)
  | freed (dst part entry : Nat)
  | contribution (dst tag k chunk : Nat) (bytes : List Byte)
  | collAck (dst tag k : Nat)
  | slotRequest (tag k : Nat)
  /- The attestation service's answer on a channel (R359, R372), and what the management core is told (R364–R367, R379). -/
  | spdm (ch : Nat) (bytes : List Byte)
  | keyRequest (use : KeyUse)
  | keyExhausted (use : KeyUse)
  | alarmed (bits : BitVec 4)
  | agentPoison (who : DieAgent) (which addr : Nat)
  /- What a host read of BAR0 returns (R360). -/
  | hostRead (off v : Nat)
  | msix (vector : Nat)
  | flit (port : Nat) (phase : Bool) (counter : Nat) (bytes : List Byte) (tag : BitVec 64)
  | replay (port counter : Nat)
  | locked (port : Nat)
deriving DecidableEq, Repr

/-- Fabric accesses in progress (R34): of a fibre's instruction, or of an engine's operation. The accesses in lane order with their places, those
on this device among them; the answers by number; the points of the path at which a plain read may still leave copies (R73). `blk` holds the
parameter block of a command whose records are asked for. `atom` is what they do where they are atomics at several homes: `phase` is what the requests
have asked for last, `awaits` the accesses being performed that are to be answered (R19, R276). `stale` says that a write of this device has since been delivered to a unit a read has asked for (R66, R81). -/
structure FabPend where
  xid : Nat
  ref : FRef
  op : Option (Nat × EngCtx × Nat)
  store : Bool
  asks : List (Req × Place)
  answers : List (Nat × FabRes)
  inst : List Point
  blk : List Byte
  atom : Option (AtomOp × Scope × Bool)
  phase : FabPhase
  awaits : List Nat
  stale : Bool
deriving DecidableEq, Repr

/-- Accesses of another device's instruction that this device has checked and will perform when it is told to (R19, R23): whose they are, their partition, and each one's
number, what it does, its location and its virtual address. -/
structure Vow where
  src : Nat
  xid : Nat
  part : Nat
  accs : List (Nat × FabAcc × Acc × Nat)
deriving DecidableEq, Repr

/-- A request at a granting Heddle (R338, R339): ranges not granted yet are `regrant` and everything from `next`; `team` is the allocation
its bytes go to, `slot` the receive slot of a drift message (R117), `cipher` and `sealed` what has arrived of it (R366). -/
structure HReq where
  die : Nat
  r : XferReq
  next : Nat
  regrant : List (Nat × Nat)
  order : Nat
  expiries : Nat
  team : Option Nat
  slot : Option Nat
  held : Bool
  cipher : List (Nat × List Byte)
  sealed : Option Seal
deriving DecidableEq, Repr

/-- A pull token (R338) for `len` bytes of request `req` (its order) from `pos`; `got` are the ranges that have arrived; `ended` after the end mark. -/
structure Token where
  id : Nat
  die : Nat
  part : Nat
  req : Nat
  pos : Nat
  len : Nat
  got : List (Nat × Nat)
  ended : Bool
  at_ : Nat
  team : Option Nat
deriving DecidableEq, Repr

/-- An inbound message's prefix, counted in INBOUND from its first packet (R50). -/
structure Prefixed where
  src : Nat
  xid : Nat
  team : Nat
  left : Nat
deriving DecidableEq, Repr

/-- How far a message has been delivered (R337): every byte before `next` has been. `closed` when no byte before those that have arrived is to come: its request is gone. -/
structure Inbound where
  src : Nat
  xid : Nat
  get : Bool
  next : Nat
  closed : Bool
deriving DecidableEq, Repr

/-- An XGET that another device asks of this one (R337): the tokens granted, and the bytes read of the next packet. -/
structure Serve where
  r : XferReq
  grants : List Grant
  prog : Nat
  buf : List Byte
deriving DecidableEq, Repr

/-- A drift message that an island has not acknowledged whole (R116–R118): the transport numbers of where it goes and of this island, this island's index, its bytes as
staged, and, once a key has sealed it, its seal and ciphertext. -/
structure DSend where
  xid : Nat
  peer : Nat
  own : Nat
  self : Nat
  part : Nat
  die : Nat
  prio : Nat
  m : Drift
  sealed : Option Seal
  cipher : List Byte
  tokens : List Nat
  acked : Nat
deriving DecidableEq, Repr

/-! ### Handles (R347–R354) -/

/-- An entry of a handle resolution table (R347). A result entry serves an invocation; a home entry keeps the device and service it was sent to
(R350) and, once placed, its result device and entry. -/
structure HEnt where
  part : Nat
  idx : Nat
  gen : Nat
  st : HState
  owner : Nat
  launch : Nat
  result : Bool
  freeing : Bool
  handle : Handle
  sent : Option (Nat × Nat)
  place : Option (Nat × Nat)
deriving DecidableEq, Repr

/-- A queued or waiting invocation at this device. `entry` is its result entry once placed; `running` once a group holds it. -/
structure InvQ where
  inv : Invocation
  entry : Option Nat
  queued : Bool
  running : Bool
  order : Nat
  parentEntry : Option Nat
deriving DecidableEq, Repr

/-! ### Plane pairs (R108–R135) -/

/-- A received or own contribution to a fragment's round. -/
structure Contrib where
  island : Nat
  frag : Nat
  round : Nat
  m : Drift
  slot : Option Nat
deriving DecidableEq, Repr

/-- The state of one fragment (R111, R112); the header in the staging area holds the same. -/
structure Frag where
  f : Nat
  st : Nat
  poison : Bool
  round : Nat
  sentOnce : Bool
  nsq : Nat
  dmax : Word
  merges : Nat
  sentAt : Nat
  folded : Nat
deriving DecidableEq, Repr

/-- A membership record in force from a round (R132, R133). -/
structure Member where
  reff : Nat
  count : Nat
  self : Nat
  islands : List (List Byte)
deriving DecidableEq, Repr

/-- A fragment that a die's Spindle is at (R113, R114): when it began, the drifts of the weights read so far, the words read of the next; once D_sent is formed, what is
still to be written of it. -/
structure Spin where
  die : Nat
  f : Nat
  since : Nat
  ds : List Nat
  got : List Nat
  formed : Bool
  out : List (Nat × List Byte)
deriving DecidableEq, Repr

/-- Work of a Batten weight by weight, one access at a time (R66): the weight, the words read for it, and the writes of it still to make. -/
structure Stride where
  w : Nat
  got : List Nat
  out : List (Nat × List Byte)
deriving DecidableEq, Repr

/-- A fold in progress (R120): the bytes of the round's messages read so far, by `pos` accesses; once it is judged, the islands' clip factors and D_sent values. -/
structure Fold where
  f : Nat
  pos : Nat
  slots : List Byte
  judged : Bool
  cs : List Nat
  vals : List (List Nat)
  run : Stride
deriving DecidableEq, Repr

/-- How far a merge pass has come (R124): its stage, the fragment of the pass it is at, and where within that. -/
structure PassAt where
  stage : Nat
  idx : Nat
  run : Stride
deriving DecidableEq, Repr

/-- How far a bind has come (R135): the areas zeroed by `pos` accesses, then the planes set. -/
structure InitAt where
  islands : Nat
  inita : Bool
  pos : Nat
  run : Stride
deriving DecidableEq, Repr

/-- A bound region (R108–R135), or, while `init` says so, one that is being bound. `left` are bindings removed while others stay: windows opened through them are still
open (R127). -/
structure Region where
  r : Nat
  p : Nat
  x : Nat
  desc : List Byte
  descAt : Nat
  pair : List Byte
  binds : List (Nat × Nat)
  frags : List Frag
  members : List Member
  thr : Nat
  thrLoHeld : List (Nat × Nat)
  cnt : Nat
  passing : List Nat
  ancver : Nat
  spinper : Nat
  lastStart : List (Nat × Nat)
  spin : List Spin
  norm : Bool
  silent : List (Nat × Nat)
  silentSeen : List Nat
  paused : Bool
  left : List (Nat × Nat)
  contribs : List Contrib
  folds : List Fold
  passAt : PassAt
  init : Option InitAt
deriving DecidableEq, Repr

/-- DNSQHI's snapshot of a context and region (R119). -/
structure Snap where
  p : Nat
  x : Nat
  k : Nat
  v : Nat
deriving DecidableEq, Repr

/-! ### Queues (R157–R163) -/

/-- A ring entry in progress (R158). `await` are the writes to other devices that its drain waits for; `fin` is how it ends once they have left (R76, R160). -/
structure Entry where
  bytes : List Byte
  index : Nat
  begun : Bool
  done : Bool
  at_ : Nat
  work : Nat
  l : Nat
  await : List Nat
  fin : Option (Nat × DWord × DWord)
deriving DecidableEq, Repr

/-- A completion to be posted (R163). -/
structure Compl where
  utag : Word
  op : Nat
  status : Nat
  detail : DWord
  detail2 : DWord
  index : Nat
  irq : Bool
  part : Option Nat
deriving DecidableEq, Repr

/-- A queue register block and what the device keeps for it (R157). -/
structure Queue where
  q : Nat
  rbase : Nat
  rlog : Nat
  prio : Nat
  part : Nat
  ctx : Nat
  priv : Bool
  en : Bool
  cbase : Nat
  clog : Nat
  msix : Nat
  tail : Nat
  chead : Nat
  head : Nat
  ctail : Nat
  halted : Bool
  phase : Bool
  cur : Option Entry
  past : List Entry
  held : List Compl
deriving DecidableEq, Repr

/-! ### Device registers, security, links, monitors -/

/-- A flit a direction has sent and its peer has not acknowledged (R362–R364): its counter and phase, its text, its ciphertext and its tag. -/
structure Flit where
  counter : Nat
  phase : Bool
  text : List Byte
  cipher : List Byte
  tag : BitVec 64
deriving DecidableEq, Repr

/-- A flit that waits behind one whose replay is awaited (R363): phase, counter, ciphertext, tag. -/
structure RFlit where
  phase : Bool
  counter : Nat
  cipher : List Byte
  tag : BitVec 64
deriving DecidableEq, Repr

/-- One direction of a Fexel port (R362–R365). `ident` is the sending port's identity. An outgoing direction's `newPhase` is a key installed for its next flit; an
incoming one's, a key whose first flit has not arrived. `retry` is the flit whose replay an incoming direction awaits, `behind` the flits behind it, and `got` the
texts it has accepted. -/
structure Dir where
  ident : Nat
  counter : Nat
  phase : Bool
  key0 : Option Key
  key1 : Option Key
  newPhase : Bool
  hold : List (List Byte)
  unacked : List Flit
  asked : Bool
  retry : Option Nat
  behind : List RFlit
  got : List (List Byte)
deriving DecidableEq, Repr

/-- A Fexel port (R362–R364). -/
structure FPort where
  n : Nat
  locked : Bool
  out : Dir
  inn : Dir
deriving DecidableEq, Repr

/-- An event counter (R376). -/
structure Ctr where
  n : Nat
  src : Nat
  part : Nat
  pen : Bool
  en : Bool
  ovf : Bool
  count : Nat
deriving DecidableEq, Repr

/-- The throttle of a die (R382): its duty, the conditions present now, whether one has been since the last check, and the next check. -/
structure Thr where
  duty : Nat
  thermal : Bool
  power : Bool
  seen : Bool
  next : Nat
deriving DecidableEq, Repr

/-- The keys between this island and another, at its transport address (R366, R374): the outgoing key with the two indices and its counter, the incoming one with the
counters it has accepted. -/
structure IslandKey where
  peer : Nat
  out : Option Key
  counter : Nat
  inn : Option Key
  seen : List Nat
deriving DecidableEq, Repr

/-- The state of the attestation service on a channel (R372). -/
structure Spdm where
  ch : Nat
  version : Bool
  caps : Bool
  algs : Bool
  keyex : Bool
  session : Bool
  script : List Byte
deriving DecidableEq, Repr

/-- Device registers, boot and security (R359–R382). -/
structure Dev where
  alarm : BitVec 4
  erased : Bool
  alpol : Bool
  bootstg : Nat
  linkup : BitVec 2
  keyhold : BitVec 4
  plim : Nat
  amsix : Nat
  thr : List Thr
  ctrs : List Ctr
  msixTab : SMap Byte
  msixPend : SMap Byte
  meas : List (List Byte)
  measPend : List (Nat × List Byte)
  spdm : List Spdm
  ports : List FPort
  islands : List IslandKey
  fuses : List Byte
deriving DecidableEq, Repr

/-! ### The agenda -/

/-- What happens next (R7): a step of the machine, time, another port looked at, a host write, a cache dropping what it
holds, or another device's word on a handle. -/
inductive Agenda where
  | ev (i : Instr)
  | elapse (n : Nat)
  | focus (core quad : Nat)
  | hostWrite (addr : Nat) (data : List Byte) (tag : Option KTag)
  | evictLine (core line : Nat)
  | evictXlate (own : TlbOwner) (vpn : Nat)
  /- Another device reports what a handle of this home has become, or frees a result entry here (R347, R350, R353). -/
  | report (part : Nat) (h : Handle) (s : HState)
  | freed (part entry : Nat)
  /- A grant or a revocation reaches a sender on this device, or a sender withdraws its request (R337); `dev` is the device it comes from. -/
  | granted (dev : Nat) (get : Bool) (g : Grant)
  | revoked (dev token : Nat)
  | withdrawn (dev xid : Nat)
  /- Another device asks for the state of a handle of this home, or answers such a question (R354); none stands for a stale handle. -/
  | handleQuery (dev part xid : Nat) (h : Handle) (free : Bool)
  | handleAnswer (xid : Nat) (s : Option HState)
  /- A piece of what another device's XGET asks of this one is read and sent (R337). -/
  | serve (dev xid : Nat)
  /- The host reads a 64-bit word of BAR0 (R360). -/
  | hostRead (off : Nat)
  /- A boot that stands after one of its stages goes on (R370). -/
  | bootOn (good : Bool) (links : BitVec 2) (firmware : List Byte)
  /- The peer of a Fexel port acknowledges a flit, asks for its replay, or reports the port locked (R363, R364). -/
  | flitAcked (port counter : Nat)
  | replayAsked (port counter : Nat)
  | portLocked (port : Nat)
deriving DecidableEq, Repr

/-- Everything of the machine but its configuration. -/
structure Mach where
  /- time and schedule -/
  cyc : Nat
  dieOff : List Nat
  wsPhase : List Nat
  agenda : List Agenda
  focus : Option (Nat × Nat)
  free : Nat
  fresh : Nat
  round : Nat
  /- stores -/
  mem : SMap Byte
  tags : SMap Sealed
  scr : SMap Byte
  gran : SMap (Bool × BitVec 16)
  regs : SMap Word
  lats : SMap Word
  acc : SMap Word
  scale : SMap Byte
  gens : SMap Word
  hgens : SMap Nat
  poison : List (Space × Nat)
  /- Uncorrectable errors (R378), by the keys of the stores they lie in. -/
  regErr : List Nat
  latErr : List Nat
  accErr : List Nat
  scaleErr : List Nat
  /- ordering machine -/
  bufs : List BufEnt
  copies : List Copy
  blocks : List Block
  marks : List Mark
  /- Every write delivered, the youngest first (R70); and the units of other devices' homes that the answer at hand has brought. -/
  hist : List Deliv
  away : List (Space × Nat × List Byte)
  /- translation and fetch -/
  tlb : List TlbEnt
  missq : List Miss
  icache : List ILine
  /- The package caches, highest retention first, and the ways of the partitions on each die (R54, R55). -/
  pcache : List PLine
  ways : List (Nat × List Nat)
  /- The engines and agents, each with what of it, whose access waits for a refreshing bank and has been counted (R58, R377). -/
  delayed : List (TlbOwner × Nat)
  /- execution -/
  launches : List Launch
  clusters : List Cluster
  teams : List Team
  groups : List Group
  fibres : List Fibre
  outst : List Outst
  ports : List Port
  pairs : List PairSlot
  lastq : List (Nat × Nat)
  /- engines -/
  ops : List Op
  rings : List Ring
  /- How many collectives of each tag a partition's teams have accepted (R343). -/
  colls : List (Nat × Nat × Nat)
  /- fabric -/
  net : List NetMsg
  fabPend : List FabPend
  vows : List Vow
  hreqs : List HReq
  tokens : List Token
  prefixed : List Prefixed
  late : List Packet
  inb : List Inbound
  serves : List Serve
  parked : List FabReq
  /- handles -/
  hents : List HEnt
  invq : List InvQ
  /- plane pairs -/
  regions : List Region
  driftSent : List DSend
  snaps : List Snap
  cycSnap : List Snap
  /- queues and device -/
  queues : List Queue
  dev : Dev
deriving DecidableEq, Repr

/-- The machine. -/
structure State where
  cfg : Conf
  m : Mach
deriving DecidableEq, Repr

/-! ### Reset -/

/-- A direction of a port after reset: no key, counter 0 (R362, R365). -/
def Dir.reset : Dir := ⟨0, 0, false, none, none, false, [], [], false, none, [], []⟩

/-- The device registers after reset (R361, R369, R376, R382). LINKUP, ALPOL and the duty are choices of the model (log entry 4). -/
def Dev.reset : Dev :=
  { alarm := 0, erased := false, alpol := false, bootstg := 0, linkup := 0, keyhold := 0, plim := 3000, amsix := 0
    thr := List.replicate 4 ⟨8, false, false, false, 0⟩
    ctrs := []
    msixTab := [], msixPend := []
    meas := List.replicate 16 (List.replicate 48 0), measPend := []
    spdm := []
    ports := (List.range 36).map (fun n => ⟨n, false, Dir.reset, Dir.reset⟩)
    islands := [], fuses := [] }

/-- Everything but the configuration after reset: nothing resident, every store with nothing listed. -/
def Mach.reset : Mach :=
  { cyc := 0, dieOff := [0, 0, 0, 0], wsPhase := [0, 0, 0, 0], agenda := [], focus := none, free := 0, fresh := 1, round := 0
    mem := [], tags := [], scr := [], gran := [], regs := [], lats := [], acc := [], scale := [], gens := [], hgens := []
    poison := [], regErr := [], latErr := [], accErr := [], scaleErr := []
    bufs := [], copies := [], blocks := [], marks := [], hist := [], away := []
    tlb := [], missq := [], icache := [], pcache := [], ways := [], delayed := []
    launches := [], clusters := [], teams := [], groups := [], fibres := [], outst := [], ports := [], pairs := []
    lastq := []
    ops := [], rings := [], colls := []
    net := [], fabPend := [], vows := [], hreqs := [], tokens := [], prefixed := [], late := [], inb := [], serves := [], parked := []
    hents := [], invq := []
    regions := [], driftSent := [], snaps := [], cycSnap := []
    queues := [], dev := Dev.reset }

/-- The machine right after reset (R157, R361, R370): no partition or context configured, no key loaded, device number 0 (log entry 4). -/
def State.reset : State :=
  { cfg := { device := 0, parts := [], ctxs := [], keys := [] }, m := Mach.reset }

end Sys2Proof.Machine
end

