-- ==== Sys2Proof/Machine/Access.lean ====
section
/-!
DEFINITION. Finding and changing the records of the state by name, and the numbers under which the sparse stores hold what the spec places in
them.
-/
namespace Sys2Proof.Machine

/-! ### Small helpers -/

/-- The lanes of a mask, ascending (R5, R231). -/
def lanesOf (p : Word) : List Nat := (List.range 32).filter (fun i => p.getLsbD i)

/-- The mask of a list of lanes. -/
def maskOf (ls : List Nat) : Word := ls.foldl (fun w i => w ||| BitVec.ofNat 32 (2 ^ i)) 0

/-- The lowest lane of a mask (R231); 0 for an empty one. -/
def leaderOf (p : Word) : Nat := (lanesOf p).headD 0

/-- A bit of a number. -/
def nbit (x k : Nat) : Bool := x / 2 ^ k % 2 == 1

/-- Bits hi down to lo of a number. -/
def nbits (x hi lo : Nat) : Nat := x / 2 ^ lo % 2 ^ (hi + 1 - lo)

/-- A little-endian number of bytes. -/
def leNat : List Byte → Nat
  | [] => 0
  | b :: bs => b.toNat + 256 * leNat bs

/-- The n bytes of a number, little-endian. -/
def leBytes : Nat → Nat → List Byte
  | 0, _ => []
  | n + 1, x => BitVec.ofNat 8 x :: leBytes n (x / 256)

/-- n bytes of a byte string from an offset, zero beyond its end. -/
def bytesAt (bs : List Byte) (off n : Nat) : List Byte := (List.range n).map (fun i => bs.getD (off + i) 0)

/-- The little-endian number of n bytes at an offset. -/
def natAt (bs : List Byte) (off n : Nat) : Nat := leNat (bytesAt bs off n)

/-- Replacing bytes from an offset. -/
def putAt (bs : List Byte) (off : Nat) (xs : List Byte) : List Byte := bs.take off ++ xs ++ bs.drop (off + xs.length)

/-- Whether every byte is zero. -/
def allZero (bs : List Byte) : Bool := bs.all (fun b => b == 0)

/-- Changing the element of a list at an index. -/
def modAt {α : Type} (l : List α) (i : Nat) (f : α → α) : List α := l.modify i f

/-- Whether byte ranges [a, a+n) and [b, b+k) meet. -/
def overlaps (a n b k : Nat) : Bool := decide (a < b + k) && decide (b < a + n)

/-! ### Keys of the sparse stores -/

/-- A register of a lane: the physical register of the group's allocation (R38, R39). -/
def regKey (t g r lane : Nat) : Nat := ((t * 64 + g) * 256 + r) * 32 + lane
/-- A latch of a lane (R221). -/
def latKey (t g k lane : Nat) : Nat := ((t * 64 + g) * 8 + k) * 32 + lane
/-- A byte of a team's allocation (R40). -/
def scrKey (t off : Nat) : Nat := t * 2 ^ 20 + off
/-- A granule of a team's allocation (R43). -/
def granKey (t gr : Nat) : Nat := t * 65536 + gr
/-- An element of an accumulator tile (R51). -/
def accKey (t tile i j : Nat) : Nat := ((t * 4 + tile) * 128 + i) * 128 + j
/-- A byte of scale memory, counted from the team's first unit (R52; log entry 10). -/
def scaleKey (t off : Nat) : Nat := t * 32768 + off

/-- A byte of a channel of package memory (R61). -/
def chanFlat (chan off : Nat) : Nat := chan * (384 * 2 ^ 20) + off
/-- A byte of a weight-store bank (R56). -/
def wsFlat (die bank off : Nat) : Nat := 2 ^ 40 + die * 2 ^ 30 + bank * 2 ^ 26 + off
/-- A byte of host memory (R12): host memory lies above package memory and weight store in the model's one byte map. -/
def hostFlat (bus : Nat) : Nat := 2 ^ 64 + bus

/-- The die that holds a location of the package (R61, R338). -/
def dieOfFlat (addr : Nat) : Nat := if 2 ^ 40 ≤ addr then (addr - 2 ^ 40) / 2 ^ 30 else addr / (384 * 2 ^ 20) / 384

/-! ### Lists of records -/

/-- The partition's configuration. -/
def Conf.part? (cf : Conf) (p : Nat) : Option Part := cf.parts.find? (fun x => x.p == p)
/-- The context's record. -/
def Conf.ctx? (cf : Conf) (p x : Nat) : Option CtxRec := cf.ctxs.find? (fun c => c.p == p && c.x == x)
/-- The key slot, where it is loaded and owned by the partition: assigned to it by the management core and by PARTCFG (R22 check 6, R30). -/
def Conf.key? (cf : Conf) (p slot : Nat) : Option Key :=
  match cf.part? p, cf.keys.find? (fun k => k.slot == slot && k.p == p) with
  | some pt, some k => if nbit pt.keys slot then some k.key else none
  | _, _ => none

/-- A launch. -/
def Mach.launch? (m : Mach) (l : Nat) : Option Launch := m.launches.find? (fun x => x.l == l)
/-- Changing a launch. -/
def Mach.updLaunch (m : Mach) (l : Nat) (f : Launch → Launch) : Mach :=
  { m with launches := m.launches.map (fun x => if x.l = l then f x else x) }
/-- A cluster. -/
def Mach.cluster? (m : Mach) (c : Nat) : Option Cluster := m.clusters.find? (fun x => x.c == c)
/-- Changing a cluster. -/
def Mach.updCluster (m : Mach) (c : Nat) (f : Cluster → Cluster) : Mach :=
  { m with clusters := m.clusters.map (fun x => if x.c = c then f x else x) }
/-- A team. -/
def Mach.team? (m : Mach) (t : Nat) : Option Team := m.teams.find? (fun x => x.t == t)
/-- Changing a team. -/
def Mach.updTeam (m : Mach) (t : Nat) (f : Team → Team) : Mach :=
  { m with teams := m.teams.map (fun x => if x.t = t then f x else x) }
/-- A group. -/
def Mach.group? (m : Mach) (t g : Nat) : Option Group := m.groups.find? (fun x => x.t == t && x.g == g)
/-- Changing a group. -/
def Mach.updGroup (m : Mach) (t g : Nat) (f : Group → Group) : Mach :=
  { m with groups := m.groups.map (fun x => if x.t = t ∧ x.g = g then f x else x) }
/-- A fibre. -/
def Mach.fibre? (m : Mach) (r : FRef) : Option Fibre := m.fibres.find? (fun x => x.ref == r)
/-- Changing a fibre. -/
def Mach.updFibre (m : Mach) (r : FRef) (f : Fibre → Fibre) : Mach :=
  { m with fibres := m.fibres.map (fun x => if x.ref = r then f x else x) }
/-- The live fibres of a group. -/
def Mach.fibresOf (m : Mach) (t g : Nat) : List Fibre := m.fibres.filter (fun x => x.ref.t == t && x.ref.g == g)
/-- The groups of a team. -/
def Mach.groupsOf (m : Mach) (t : Nat) : List Group := m.groups.filter (fun x => x.t == t)
/-- The teams of a cluster, in ring order (R143). -/
def Mach.teamsOf (m : Mach) (c : Nat) : List Team := m.teams.filter (fun x => x.c == c)
/-- The team on a cluster's core (R11). -/
def Mach.peer? (m : Mach) (c idx : Nat) : Option Team := m.teams.find? (fun x => x.c == c && x.idx == idx)
/-- A region. -/
def Mach.region? (m : Mach) (r : Nat) : Option Region := m.regions.find? (fun x => x.r == r)
/-- The region bound under index k of a context (R135); one still being bound is not yet. Bindings are kept as (context, index). -/
def Mach.regionOf (m : Mach) (p x k : Nat) : Option Region :=
  m.regions.find? (fun rg => rg.p == p && rg.init.isNone && rg.binds.any (fun b => b == (x, k)))
/-- Changing a region. -/
def Mach.updRegion (m : Mach) (r : Nat) (f : Region → Region) : Mach :=
  { m with regions := m.regions.map (fun x => if x.r = r then f x else x) }
/-- A queue's block; one never written reads as reset (R157). -/
def Mach.queue (m : Mach) (q : Nat) : Queue :=
  (m.queues.find? (fun x => x.q == q)).getD
    ⟨q, 0, 0, 0, 0, 0, false, false, 0, 0, 0, 0, 0, 0, 0, false, true, none, [], []⟩
/-- Changing a queue's block. -/
def Mach.setQueue (m : Mach) (qu : Queue) : Mach :=
  { m with queues := qu :: m.queues.filter (fun x => x.q != qu.q) }
/-- A quadrant port; LAST is 3 at reset (R166). -/
def Mach.port (m : Mach) (core quad : Nat) : Port :=
  (m.ports.find? (fun x => x.core == core && x.quad == quad)).getD ⟨core, quad, [], 3, none⟩
/-- Changing a quadrant port. -/
def Mach.setPort (m : Mach) (po : Port) : Mach :=
  { m with ports := po :: m.ports.filter (fun x => !(x.core == po.core && x.quad == po.quad)) }
/-- Changing the operation with a number in an engine context. -/
def Mach.updOp (m : Mach) (t : Nat) (k : EngCtx) (n : Nat) (f : Op → Op) : Mach :=
  { m with ops := m.ops.map (fun o => if o.t = t ∧ o.k = k ∧ o.n = n then f o else o) }
/-- The operations an engine context holds, in order (R305). -/
def Mach.opsOf (m : Mach) (t : Nat) (k : EngCtx) : List Op := m.ops.filter (fun o => o.t == t && o.k == k)
/-- The number of a context in the team's lists: the code of TSTAT (R303). -/
def ctxNum : EngCtx → Nat
  | .copy => 0
  | .matrix => 1
  | .exch => 2
  | .dcmp => 3

/-- The die of a core (R142). -/
def dieOfCore (core : Nat) : Nat := core / 192
/-- The quadrant of a group (R141). -/
def quadOf (g : Nat) : Nat := g % 4
/-- A die's local cycle counter (R375). -/
def Mach.dieCyc (m : Mach) (d : Nat) : Nat := (m.cyc + m.dieOff.getD d 0) % 2 ^ 64
/-- A die's weight-store refresh phase (R57). -/
def Mach.wsPhi (m : Mach) (d : Nat) : Nat := (m.wsPhase.getD d 0 + m.cyc) % 56000
/-- The bank of a die that is refreshing (R57). -/
def Mach.refreshing (m : Mach) (d : Nat) : Option Nat :=
  if m.wsPhi d % 3500 < 1400 then some (m.wsPhi d / 3500) else none

/-- The ways a partition has in a die's package cache (R54). -/
def Mach.waysOf (m : Mach) (p die : Nat) : Nat := (((m.ways.find? (fun w => w.1 == p)).map Prod.snd).getD []).getD die 0

/-! ### The issuing fibre -/

/-- Everything a fibre's instruction acts on: fibre, group, team, cluster, launch and its record, partition and context. -/
structure Ctx where
  f : Fibre
  g : Group
  tm : Team
  cl : Cluster
  la : Launch
  rc : LRec
deriving DecidableEq, Repr

/-- The context of a fibre, when it is live. -/
def ctxOf (m : Mach) (r : FRef) : Option Ctx :=
  match m.fibre? r, m.group? r.t r.g, m.team? r.t with
  | some f, some g, some tm =>
    match m.cluster? tm.c, m.launch? tm.l with
    | some cl, some la =>
      match la.rec_ with
      | some rc => some ⟨f, g, tm, cl, la, rc⟩
      | none => none
    | _, _ => none
  | _, _, _ => none

/-- The fibre whose run the port in focus holds. -/
def Mach.current (m : Mach) : Option FRef :=
  match m.focus with
  | some (core, quad) => (m.port core quad).run.map PortRun.ref
  | none => none

/-- The predicate word (R231). -/
def Ctx.P (c : Ctx) : Word := c.f.pred
/-- The lanes of P, ascending. -/
def Ctx.lanes (c : Ctx) : List Nat := lanesOf c.f.pred
/-- The leader lane (R231). -/
def Ctx.leader (c : Ctx) : Nat := leaderOf c.f.pred
/-- The group's leaf point (R68). -/
def Ctx.leaf (c : Ctx) : Point := .group c.f.ref.t c.f.ref.g

/-- V(n, i): physical register WINBASE + n (R39, R231). -/
def Mach.v (m : Mach) (c : Ctx) (n i : Nat) : Word := smGet 0 m.regs (regKey c.f.ref.t c.f.ref.g (c.f.base + n) i)
/-- V64(n, i) (R231). -/
def Mach.v64 (m : Mach) (c : Ctx) (n i : Nat) : DWord := m.v c (n + 1) i ++ m.v c n i
/-- Src(f, i): a register, or a latch; a latch reads zero in lanes outside P (R222, R231, R260). -/
def Mach.src (m : Mach) (c : Ctx) (s : Src) (i : Nat) : Word :=
  match s with
  | .v n => m.v c n i
  | .lat k => if c.f.pred.getLsbD i then smGet 0 m.lats (latKey c.f.ref.t c.f.ref.g k i) else 0
/-- C(k, i) (R231). -/
def Ctx.cond (c : Ctx) (k i : Nat) : Bool := (c.g.conds.getD k 0).getLsbD i
/-- Src(A, Leader) (R231). -/
def Mach.srcL (m : Mach) (c : Ctx) (s : Src) : Word := m.src c s c.leader

/-- Writing values of a sparse store at keys that may hold an error: the errors there are gone (R378). -/
def mended (es ks : List Nat) : List Nat := es.filter (fun e => !ks.contains e)

/-- Writing register values: (register code, lane, value) (R39). -/
def Mach.wrRegs (m : Mach) (c : Ctx) (ws : List (Nat × Nat × Word)) : Mach :=
  { m with
    regs := ws.foldl (fun r w => smSet 0 r (regKey c.f.ref.t c.f.ref.g (c.f.base + w.1) w.2.1) w.2.2) m.regs
    regErr := mended m.regErr (ws.map (fun w => regKey c.f.ref.t c.f.ref.g (c.f.base + w.1) w.2.1)) }

/-- Writing a condition register in some lanes (R221, R242). -/
def Mach.wrCond (m : Mach) (c : Ctx) (k : Nat) (ws : List (Nat × Bool)) : Mach :=
  m.updGroup c.f.ref.t c.f.ref.g (fun g => { g with
    conds := modAt g.conds k (fun w => ws.foldl (fun w p =>
      if p.2 then w ||| BitVec.ofNat 32 (2 ^ p.1) else w &&& ~~~ BitVec.ofNat 32 (2 ^ p.1)) w) })

/-- A counter counts on (R376). -/
def Ctr.add (c : Ctr) (n : Nat) : Ctr := { c with count := (c.count + n) % 2 ^ 64, ovf := c.ovf || decide (2 ^ 64 ≤ c.count + n) }

/-- Counting an event on a die's counters (R376, R377): `part` for an attributed event. -/
def Mach.count (m : Mach) (die src : Nat) (part : Option Nat) (n : Nat) : Mach :=
  { m with dev := { m.dev with ctrs := m.dev.ctrs.map (fun c =>
      if c.n / 16 = die ∧ c.src = src ∧ c.en ∧ (c.pen → part = some c.part) then c.add n else c) } }

/-! ### Time and throttling (R375, R382) -/

/-- The duty after a check (R382). -/
def Thr.step (t : Thr) : Nat :=
  if t.thermal || t.power then max 4 (t.duty - 1) else if t.seen then t.duty else min 8 (t.duty + 1)

/-- A check of a die's throttle. -/
def Thr.check (t : Thr) : Thr := { t with duty := t.step, seen := t.thermal || t.power, next := t.next + 1 }

/-- The cycles below one of a die's counter that a duty withholds: the last of every 8 (R382; log entry 78). -/
def withheld (duty c : Nat) : Nat := c / 8 * (8 - duty) + (c % 8 - duty)

/-- A die's cycles `now` to `upto` pass: its throttle is checked at every multiple of 4,096 that they leave behind; the issue cycles withheld are counted. -/
def Thr.pass (t : Thr) (now upto : Nat) : Thr × Nat :=
  let rec go : Nat → Thr → Nat → Nat → Thr × Nat
    | 0, t, now, n => (t, n + (withheld t.duty upto - withheld t.duty now))
    | k + 1, t, now, n =>
      let b := max now (4096 * t.next)
      if b < upto then go k t.check b (n + (withheld t.duty b - withheld t.duty now))
      else (t, n + (withheld t.duty upto - withheld t.duty now))
  go ((upto - now) / 4096 + 1) t now 0

/-- Passing time: the counters of cycles and of withheld issue cycles count it, and the throttles are checked (R375–R377, R382). -/
def Mach.tick (m : Mach) (n : Nat) : Mach :=
  let r := (m.dev.thr.zip (List.range 4)).map (fun x => let now := m.cyc + m.dieOff.getD x.2 0; x.1.pass now (now + n))
  { m with
    cyc := m.cyc + n
    dev := { m.dev with
      thr := r.map Prod.fst
      ctrs := m.dev.ctrs.map (fun c =>
        if !c.en || c.pen then c
        else if c.src = 1 then c.add n
        else if c.src = 0x13 then c.add ((r.map Prod.snd).getD (c.n / 16) 0)
        else c) } }

/-! ### Interrupts (R163, R360) -/

/-- A byte of the MSI-X table: the mask bit of an entry that has not been written is 1, as PCI Express has it (log entry 4). -/
def Dev.msixByte (d : Dev) (off : Nat) : Byte := smGet 0 d.msixTab off ^^^ (if off % 16 = 12 then 1 else 0)

/-- Raising an MSI-X vector: a masked one stays pending (R163, R360). -/
def Mach.raise (m : Mach) (v : Nat) : Mach :=
  if (m.dev.msixByte (16 * v + 12)).getLsbD 0 then
    { m with dev := { m.dev with msixPend := smSet 0 m.dev.msixPend (v / 8) (smGet 0 m.dev.msixPend (v / 8) ||| BitVec.ofNat 8 (2 ^ (v % 8))) } }
  else { m with net := m.net ++ [.msix v] }

/-! ### Named functions (R30, R362, R366, R369, R374) -/

/-- AES-256-GCM under a key and nonce: a text combined with the stream, which gives the ciphertext of a text and the text of a ciphertext. `off` is where in the message
the bytes stand. -/
def gcmCrypt (key : Key) (nonce off : Nat) (bs : List Byte) : List Byte := bs.mapIdx (fun i b => b ^^^ Config.gcmStream key nonce (off + i))

/-- The tag of a flit: the first 64 bits (R362). -/
def flitTag (key : Key) (nonce : Nat) (cipher : List Byte) : BitVec 64 := (Config.gcmTag key nonce cipher).extractLsb' 64 64

/-- SHA3-384 as 48 bytes (R369). -/
def sha3 (bs : List Byte) : List Byte := leBytes 48 (Config.sha3Bits bs).toNat

/-- A link key derived from a session (R374). -/
def deriveKey (session label : List Byte) (identity : Nat) : Key := leBytes 32 (Config.derive session label identity).toNat

end Sys2Proof.Machine
end

