-- ==== Sys2Proof/Machine/Order.lean ====
section
/-!
DEFINITION. The ordering machine (R65–R80): points and paths, delivery at the homes with full/empty state and encryption, Propagate and
Refresh, plain, acquire, release, atomic and remote accesses, drains and invalidates.
-/
namespace Sys2Proof.Machine

/-! ### Points (R68, R69) -/

/-- The level of a point: leaf 0, core 1, cluster 2, device 3, system 4. -/
def Point.level : Point → Nat
  | .group _ _ => 0
  | .eng _ _ => 0
  | .die _ _ => 0
  | .host => 0
  | .core _ => 1
  | .clu _ => 2
  | .dev => 3
  | .sys => 4

/-- The parent of a point (R68). -/
def Mach.parent (m : Mach) : Point → Point
  | .group t _ => .core t
  | .eng t _ => .core t
  | .core t => match m.team? t with
    | some tm => .clu tm.c
    | none => .dev
  | .clu _ => .dev
  | .die _ _ => .dev
  | .host => .sys
  | .dev => .sys
  | .sys => .sys

/-- The chain of a leaf point: itself and its ancestors (R69). -/
def Mach.chain (m : Mach) (p : Point) : List Point :=
  let rec go : Nat → Point → List Point
    | 0, p => [p]
    | n + 1, p => if p = .sys then [p] else p :: go n (m.parent p)
  go 4 p

/-- Whether a point has the home of a location in its subtree (R68, R69). -/
def Mach.holds (m : Mach) (p : Point) (sp : Space) : Bool :=
  match sp with
  | .scr t =>
    match p with
    | .core t' => t' == t
    | .clu c => (m.team? t).any (fun tm => tm.c == c)
    | .dev => true
    | .sys => true
    | _ => false
  | .pkg => p == .dev || p == .sys
  | .host => p == .sys
  | .fab _ _ => p == .sys

/-- The path points of an agent for a location: those of its chain below the meeting point (R69). -/
def Mach.path (m : Mach) (leaf : Point) (sp : Space) : List Point := (m.chain leaf).takeWhile (fun p => !m.holds p sp)

/-- P(s) (R75): the lowest point of the chain at or above level s. -/
def Mach.scopePoint (m : Mach) (leaf : Point) (s : Nat) : Point :=
  ((m.chain leaf).find? (fun p => decide (s ≤ Point.level p))).getD .sys

/-- The points of the chain strictly below P(s) (R76). -/
def Mach.below (m : Mach) (leaf : Point) (s : Nat) : List Point := (m.chain leaf).takeWhile (fun p => decide (Point.level p < s))

/-- The level a scope code names; `.rmt` acts at device scope (R67, R82). -/
def scopeLevel : Scope → Nat
  | .plain => 0
  | .grp => 0
  | .core => 1
  | .clu => 2
  | .dev => 3
  | .sys => 4
  | .rmt => 3

/-! ### Homes: stores behind the points, encryption, full/empty state (R30, R31, R43) -/

/-- The number of a byte of package memory, weight store or host memory in the byte map. -/
def flatOf (sp : Space) (addr : Nat) : Nat :=
  match sp with
  | .host => hostFlat addr
  | _ => addr

/-- Whether two accesses are under one key, partition and unit; the policy of the package cache does not count. -/
def sameKey (a b : KTag) : Bool := a.key == b.key && a.p == b.p && a.unit == b.unit

/-- The 64 bytes of a unit as an access under a tag meets them, from what the stores hold (R30, R31). Without a tag it meets the ciphertext in host
memory and, in the package, where the device's own tables are read, the bytes as last written (log entry 15). -/
def recode (host : Bool) (k : Sealed) (tag : Option KTag) (raw : List Byte) : List Byte :=
  match k, tag with
  | .under a, some b => if sameKey a b then raw else Config.xtsDec b.key b.p b.unit (Config.xtsEnc a.key a.p a.unit raw)
  | .under a, none => if host then Config.xtsEnc a.key a.p a.unit raw else raw
  | .bare, some b => Config.xtsDec b.key b.p b.unit raw
  | _, _ => raw

/-- Whether an access under a tag meets a unit's bytes as the stores hold them. -/
def plainly (host : Bool) (k : Sealed) (tag : Option KTag) : Bool :=
  match k, tag with
  | .under a, some b => sameKey a b
  | .under _, none => !host
  | .bare, some _ => false
  | _, _ => true

/-- Whether a byte of the byte map is host memory. -/
def isHost (f : Nat) : Bool := decide (2 ^ 64 ≤ f)

/-- The bytes of a 64-byte unit as a read under a tag returns them (R31). -/
def Mach.unitUnder (m : Mach) (unit : Nat) (tag : Option KTag) : List Byte :=
  recode (isHost (unit * 64)) (smGet .open_ m.tags unit) tag (smGetRun 0 m.mem (unit * 64) 64)

/-- A byte at its home (R70, R73). Another device's home is not this device's: a byte of it is known while its answer is at hand. -/
def Mach.homeByte (m : Mach) (sp : Space) (addr : Nat) (tag : Option KTag) : Byte :=
  match sp with
  | .scr t => smGet 0 m.scr (scrKey t addr)
  | .fab d p => ((m.away.find? (fun u => u.1 == .fab d p && u.2.1 == addr / 16)).map (fun u => u.2.2.getD (addr % 16) 0)).getD 0
  | _ =>
    let f := flatOf sp addr
    if plainly (isHost f) (smGet .open_ m.tags (f / 64)) tag then smGet 0 m.mem f else (m.unitUnder (f / 64) tag).getD (f % 64) 0

/-- Bytes at their home. -/
def Mach.homeBytes (m : Mach) (sp : Space) (addr n : Nat) (tag : Option KTag) : List Byte :=
  (List.range n).map (fun i => m.homeByte sp (addr + i) tag)

/-- How a unit is held once bytes have been written to it under a tag; a write without one to host memory leaves it bare. -/
def sealAfter (host : Bool) (k : Sealed) (tag : Option KTag) : Sealed :=
  match tag with
  | some b => .under { b with pol := 0 }
  | none => if host then .bare else k

/-- Writing bytes of one unit of package memory, weight store or host memory: its other bytes keep the value a read under the new key returns. -/
def Mach.writeFlat (m : Mach) (f : Nat) (bs : List Byte) (tag : Option KTag) : Mach :=
  let k := smGet .open_ m.tags (f / 64)
  { m with
    mem := smSetRun 0 (if plainly (isHost f) k tag then m.mem else smSetRun 0 m.mem (f / 64 * 64) (m.unitUnder (f / 64) tag)) f bs
    tags := smSet .open_ m.tags (f / 64) (sealAfter (isHost f) k tag) }

/-- Writing bytes of package memory, weight store or host memory, unit by unit. -/
def Mach.writeFlats (m : Mach) (f : Nat) (bs : List Byte) (tag : Option KTag) : Mach :=
  if f % 64 + bs.length ≤ 64 then m.writeFlat f bs tag
  else
    let k := 64 - f % 64
    let rec go : Nat → Mach → Nat → List Byte → Option KTag → Mach
      | 0, m, _, _, _ => m
      | n + 1, m, f, bs, tag =>
        if bs.isEmpty then m
        else
          let tag := tag.map (fun t => { t with unit := t.unit + 1 })
          go n (m.writeFlat f (bs.take 64) tag) (f + 64) (bs.drop 64) tag
    go (bs.length / 64 + 1) (m.writeFlat f (bs.take k) tag) (f + k) (bs.drop k) tag

/-- The full/empty state of a granule; unlisted granules are full (R40, R43). -/
def Mach.granule (m : Mach) (t gr : Nat) : Bool × BitVec 16 := smGet (true, 0xFFFF) m.gran (granKey t gr)

/-- Setting the full/empty state of a granule. -/
def Mach.setGranule (m : Mach) (t gr : Nat) (x : Bool × BitVec 16) : Mach :=
  { m with gran := smSet (true, 0xFFFF) m.gran (granKey t gr) x }

/-- The bits of bytes [addr, addr+n) in granule gr. -/
def granMask (gr addr n : Nat) : BitVec 16 :=
  (List.range 16).foldl (fun w i => if gr * 16 + i < addr + n ∧ addr ≤ gr * 16 + i then w ||| BitVec.ofNat 16 (2 ^ i) else w) 0

/-- The granules that bytes [addr, addr+n) meet. -/
def granulesOf (addr n : Nat) : List Nat :=
  if n = 0 then [] else (List.range ((addr + n - 1) / 16 - addr / 16 + 1)).map (fun i => addr / 16 + i)

/-- The full/empty change of a delivered write (R43, R101). -/
def Mach.fillGranules (m : Mach) (t addr n : Nat) (k : WKind) : Mach :=
  match k with
  | .plain => m
  | .stfe => (granulesOf addr n).foldl (fun m gr => m.setGranule t gr (true, 0xFFFF)) m
  | .engine => (granulesOf addr n).foldl (fun m gr =>
      let x := m.granule t gr
      let w := x.2 ||| granMask gr addr n
      m.setGranule t gr (x.1 || w == 0xFFFF, w)) m

/-- A write that covers every byte of a poisoned unit clears the poison (R379). -/
def Mach.clearPoison (m : Mach) (sp : Space) (addr n : Nat) : Mach :=
  { m with poison := m.poison.filter (fun u => !(u.1 == sp && decide (addr ≤ u.2 * 16) && decide (u.2 * 16 + 16 ≤ addr + n))) }

/-- A line that is not held is met by an access of a partition under a policy (R55): a miss, and a fill by the policy, over the partition's line of lowest retention where
its ways of the set are full. The set of a line is its number modulo 16,384 (log entry 67). -/
def Mach.fillLine (m : Mach) (part line pol : Nat) (key : Key) : Mach :=
  let die := dieOfFlat (line * 128)
  let m := m.count die 0x0A (some part) 1
  let mine := m.pcache.filter (fun l => l.part == part && dieOfFlat (l.line * 128) == die && l.line % 16384 == line % 16384)
  if pol = 2 ∨ m.waysOf part die = 0 then m
  else
    let kept := if m.waysOf part die ≤ mine.length then m.pcache.filter (fun l => mine.getLast? != some l) else m.pcache
    { m with pcache := if pol = 1 then kept ++ [⟨part, line, key⟩] else ⟨part, line, key⟩ :: kept }

/-- The package-cache line at a number in the byte map, met by an access of a partition under a policy (R55): promoted when it is held under the access's key and the policy
is to allocate. One held under another key is written back first, and the line is filled anew (R31). -/
def Mach.touchLine (m : Mach) (part line pol : Nat) (key : Key) : Mach :=
  if m.pcache.any (fun l => l.line == line && l.key == key) then
    if pol = 0 then { m with pcache := m.pcache.filter (fun l => l.line == line) ++ m.pcache.filter (fun l => l.line != line) } else m
  else ({ m with pcache := m.pcache.filter (fun l => l.line != line) } : Mach).fillLine part line pol key

/-- The package cache meets an access at the home: one line for each 128 bytes of package memory; the weight store and host memory have no lines
(R54). An access of the device's own to its tables, which has no tag, is not counted. -/
def Mach.touch (m : Mach) (sp : Space) (addr n : Nat) (tag : Option KTag) : Mach :=
  match sp, tag with
  | .pkg, some k =>
    if addr < 2 ^ 40 then
      (List.range ((addr + n + 127) / 128 - addr / 128)).foldl (fun m i => m.touchLine k.p (addr / 128 + i) k.pol k.key) m
    else m
  | _, _ => m

/-- A core-scope synchronising write at a core point is noted there (R80). -/
def Mach.mark (m : Mach) (t : Nat) (w : Write) : Mach := { m with marks := ⟨t, w.sp, w.addr, w.bytes.length⟩ :: m.marks }

/-- A write joins the modification orders of its bytes (R70). -/
def Mach.record (m : Mach) (w : Write) : Mach := { m with hist := ⟨w.wid, w.sp, w.addr, w.bytes⟩ :: m.hist }

/-- The modification order of a byte since its store was created: the initial write, then the writes delivered to it, oldest first (R70). A store begins with zeros (log
entry 3); what another device's home began with is not known here, and stands as zero. -/
def Mach.mo (m : Mach) (sp : Space) (a : Nat) : List Byte :=
  0 :: (m.hist.reverse.filter (fun d => d.sp == sp && decide (d.addr ≤ a) && decide (a < d.addr + d.bytes.length))).map (fun d => d.bytes.getD (a - d.addr) 0)

/-- An armed send whose count word has reached its threshold is noted (R93, R340): the word is looked at as every write to it is delivered. -/
def Mach.armsMet (m : Mach) (sp : Space) (addr n : Nat) : Mach :=
  { m with ops := m.ops.map (fun o => match o.watch, o.cmd with
      | some a, .xarm _ _ thr =>
        if a.sp = sp ∧ overlaps a.addr 8 addr n ∧ thr.toNat % 2 ^ 63 ≤ leNat (m.homeBytes a.sp a.addr 8 a.tag) % 2 ^ 63 then { o with met := true } else o
      | _, _ => o) }

/-- The reads in progress that have asked another device for units that a write of this device, delivered there meanwhile, meets: their answers may be older than the write
(R66, R81). -/
def Mach.outdate (m : Mach) (sp : Space) (addr n : Nat) : Mach :=
  { m with fabPend := m.fabPend.map (fun p => if p.asks.any (fun q => match q.2, sp with
      | .fab d off, .fab e _ => d == e && overlaps (off / 16 * 16) 16 addr n
      | _, _ => false) then { p with stale := true } else p) }

/-- Delivering a write at its home on this device (R70, R71, R101): a core-scope synchronising one is noted at a core point that holds the home
(R80). A write to another device is delivered there; its answer says so (R34, R106). -/
def Mach.deliver (m : Mach) (w : Write) : Mach :=
  match w.sp with
  | .scr t =>
    let m := (({ m with scr := smSetRun 0 m.scr (scrKey t w.addr) w.bytes } : Mach).fillGranules t w.addr w.bytes.length w.kind).clearPoison
      w.sp w.addr w.bytes.length
    ((if w.sync then m.mark t w else m).record w).armsMet w.sp w.addr w.bytes.length
  | .fab _ _ => (m.record w).outdate w.sp w.addr w.bytes.length
  | _ => ((((m.writeFlats (flatOf w.sp w.addr) w.bytes w.tag).clearPoison w.sp w.addr w.bytes.length).touch w.sp w.addr w.bytes.length w.tag).record w).armsMet
      w.sp w.addr w.bytes.length

/-! ### Copies and buffers -/

/-- The pieces of a slot that lie in a store. -/
def partsIn (q : SlotParts) : List (Space × Nat × Nat) := q.filterMap (fun x => x.1.map (fun l => (l.1, l.2, x.2.1)))

/-- Whether the bytes of a block's slot meet a range. -/
def Block.meets (b : Block) (sp : Space) (addr n : Nat) : Bool := (partsIn b.parts).any (fun q => q.1 == sp && overlaps q.2.1 q.2.2 addr n)

/-- Whether a location is another device's (R69). -/
def isFab : Space → Bool
  | .fab _ _ => true
  | _ => false

/-- A read of another device in progress leaves no copy at some points, as if one had been removed at once (R71, R73). -/
def Mach.bar (m : Mach) (ps : List Point) : Mach :=
  { m with fabPend := m.fabPend.map (fun p => { p with inst := p.inst.filter (fun q => !ps.contains q) }) }

/-- Removing bytes from the copies at a point (R71, R74). The copies of a compressed block go together (R64). -/
def Mach.uncopy (m : Mach) (p : Point) (sp : Space) (addr n : Nat) : Mach :=
  ({ m with
    copies := m.copies.map (fun c =>
      if c.pt = p ∧ c.sp = sp ∧ overlaps (c.unit * 16) 16 addr n then
        { c with bytes := c.bytes.mapIdx (fun i b => if addr ≤ c.unit * 16 + i ∧ c.unit * 16 + i < addr + n then none else b) }
      else c)
    blocks := m.blocks.filter (fun b => !(b.pt == p && b.meets sp addr n)) } : Mach).bar (if isFab sp then [p] else [])

/-- Removing every copy at the points of a list (R77 step 3). -/
def Mach.dropCopies (m : Mach) (ps : List Point) : Mach :=
  ({ m with copies := m.copies.filter (fun c => !ps.contains c.pt), blocks := m.blocks.filter (fun b => !ps.contains b.pt) } : Mach).bar ps

/-- Removing the copies of units that meet a range at the points of a list (R79). -/
def Mach.dropRange (m : Mach) (ps : List Point) (sp : Space) (addr n : Nat) : Mach :=
  ({ m with
    copies := m.copies.filter (fun c => !(ps.contains c.pt && c.sp == sp && overlaps (c.unit * 16) 16 addr n))
    blocks := m.blocks.filter (fun b => !(ps.contains b.pt && b.meets sp addr n)) } : Mach).bar (if isFab sp then ps else [])

/-- Whether a write touches bytes [addr, addr+n) of a store. -/
def Write.hits (w : Write) (sp : Space) (addr n : Nat) : Bool := w.sp == sp && overlaps w.addr w.bytes.length addr n

/-- Whether an older write to a byte of a write is in the buffer of its point. -/
def Mach.hasOlder (m : Mach) (e : BufEnt) : Bool :=
  (m.bufs.takeWhile (fun x => x != e)).any (fun x => x.pt == e.pt && x.w.hits e.w.sp e.w.addr e.w.bytes.length)

/-- Whether no port is left that reaches another device: the fat tree of the island joins every port to every device (R364; log entry 54). -/
def Mach.cutOff (m : Mach) : Bool := m.dev.ports.all (fun p => p.locked)

/-- The cause and sub-cause of a refusal; none for an access that was performed (R25, R33). -/
def resBad : FabRes → Option (Nat × Nat)
  | .ok _ => none
  | .refused c s => some (c, s)
  | .stale => some (4, 5)

/-- The answers of an access in request order; one that has not come refuses nothing. -/
def FabPend.results (p : FabPend) : List (Req × FabRes) :=
  (p.asks.zip (List.range p.asks.length)).map (fun l => (l.1.1, ((p.answers.find? (fun a => a.1 == l.2)).map Prod.snd).getD (.ok [])))

/-- The refused requests of an access: lane, address, cause and sub-cause. -/
def FabPend.refusals (p : FabPend) : List (Nat × DWord × Nat × Nat) :=
  p.results.filterMap (fun r => (resBad r.2).map (fun b => (r.1.lane, BitVec.ofNat 64 r.1.rep, b.1, b.2)))

/-- An answer joins an access in progress. -/
def Mach.noteAnswer (m : Mach) (xid num : Nat) (res : FabRes) : Mach :=
  { m with fabPend := m.fabPend.map (fun p =>
      if p.xid = xid ∧ num < p.asks.length ∧ !p.answers.any (fun a => a.1 == num) then { p with answers := p.answers ++ [(num, res)] } else p) }

/-- A write of an engine's operation that another device has refused (R34): the operation ends with FAULT, or STALE, unless it has ended badly; where it has
retired, bit 63 of the context's counter is set at its home and the report follows (log entry 90). -/
def Mach.opRefused (m : Mach) (t : Nat) (k : EngCtx) (n : Nat) (sub : Nat) (addr : DWord) : Mach :=
  let st := if sub = 5 then 3 else 1
  if m.ops.any (fun o => o.t == t && o.k == k && o.n == n) then
    { m with ops := m.ops.map (fun o => if o.t = t ∧ o.k = k ∧ o.n = n ∧ o.fin.all (fun e => e.1 == 0) then
        { o with fin := some (st, sub, addr), due := ⟨[], [], none, none, none⟩ } else o) }
  else
    let ctr := leNat (m.homeBytes (.scr t) (8 * ctxNum k) 8 none)
    if (m.team? t).isNone then m
    else (m.deliver ⟨0, .scr t, 8 * ctxNum k, leBytes 8 (ctr % 2 ^ 63 + 2 ^ 63), .plain, none, false, 0, 0, 0⟩).updTeam t (fun tm => { tm with
      reports := modAt tm.reports (ctxNum k) (fun _ => ⟨true, st, sub, n, addr⟩) })

/-- Posted stores whose every answer is there (R34): refusals give one asynchronous trap for each instruction of a fibre, and the end of an engine's operation; the
writes an operation makes as it retires are made. -/
def Mach.storesAnswered (m : Mach) : Mach :=
  let full (p : FabPend) : Bool := p.store && p.answers.length == p.asks.length
  let m' := (m.fabPend.filter full).foldl (fun m p => match p.refusals, p.op with
    | [], none => m
    | [], some (t, k, n) => m.updOp t k n (fun o => { o with due := { o.due with writes := o.due.writes.filter (fun w => !isFab w.1.sp) } })
    | (_, a, _, sub) :: _, some (t, k, n) => m.opRefused t k n sub a
    | (_, a, cause, sub) :: _, none => m.updGroup p.ref.t p.ref.g (fun g => { g with
        pend := g.pend ++ [⟨cause, sub, a, some (maskOf (p.refusals.map Prod.fst)), false⟩] })) m
  { m' with fabPend := m.fabPend.filter (fun p => !full p) }

/-- A write at the device point leaves for another device, once the older writes to its bytes have been answered (R34, R71, R106); it is refused there
and then where no port is left (R364). It stays in the buffer until its own answer, which is its delivery. -/
def Mach.sendAway (m : Mach) (e : BufEnt) : Mach :=
  let set (g : Going) : Mach := { m with bufs := m.bufs.map (fun x => if x = e then { x with go := g } else x) }
  match e.go, e.w.sp with
  | .away, _ => m
  | _, .fab d p =>
    if m.hasOlder e then set .leaves
    else if m.cutOff then (({ m with bufs := m.bufs.erase e } : Mach).noteAnswer e.w.xid e.w.num (.refused 4 4)).storesAnswered
    else { set .away with net := m.net ++ [.access ⟨e.w.src, d, e.w.xid, p, [(e.w.num, e.w.addr, .write e.w.bytes)], .whole, e.w.sync⟩] }
  | _, _ => m

/-- The writes that are to leave do so, oldest first. -/
def Mach.sendWaiting (m : Mach) : Mach := (m.bufs.filter (fun e => e.go == .leaves)).foldl Mach.sendAway m

/-- One write leaves its point: Propagate of R71 without its condition. -/
def Mach.moveUp (m : Mach) (e : BufEnt) : Mach :=
  let up := m.parent e.pt
  match m.holds up e.w.sp, e.w.sp with
  | true, .fab _ _ => m.sendAway e
  | true, _ => (({ m with bufs := m.bufs.erase e } : Mach).uncopy e.pt e.w.sp e.w.addr e.w.bytes.length).deliver e.w
  | false, _ =>
    let m := ({ m with bufs := m.bufs.erase e } : Mach).uncopy e.pt e.w.sp e.w.addr e.w.bytes.length
    { m with bufs := m.bufs ++ [{ e with pt := up }] }

/-- The answer to a write on its way: it leaves the device point, delivered or discarded (R34, R71). -/
def Mach.answered (m : Mach) (xid num : Nat) (res : FabRes) : Mach :=
  match m.bufs.find? (fun e => e.go == .away && e.w.xid == xid && e.w.num == num) with
  | none => m
  | some e =>
    let m := { m with bufs := m.bufs.erase e }
    let m := if (resBad res).isNone then (m.uncopy e.pt e.w.sp e.w.addr e.w.bytes.length).deliver e.w else m
    ((m.noteAnswer xid num res).storesAnswered).sendWaiting

/-- The entries at a point that must leave when the chosen ones do: the chosen, and older writes to their bytes (R71). -/
def needed (sel : Nat → Bool) : List BufEnt → List BufEnt
  | [] => []
  | e :: es =>
    let r := needed sel es
    if sel e.w.wid || r.any (fun x => x.w.hits e.w.sp e.w.addr e.w.bytes.length) then e :: r else r

/-- Propagating the chosen writes out of a list of points, leaf first (R76, R77, R96). -/
def Mach.push (m : Mach) (ps : List Point) (sel : Nat → Bool) : Mach :=
  ps.foldl (fun m p => (needed sel (m.bufs.filter (fun e => e.pt == p))).foldl Mach.moveUp m) m

/-- The identities of the writes in the buffers of some points. -/
def Mach.widsAt (m : Mach) (ps : List Point) : List Nat := (m.bufs.filter (fun e => ps.contains e.pt)).map (fun e => e.w.wid)

/-- The identities of the writes to some bytes in the buffers of some points. -/
def Mach.widsTo (m : Mach) (ps : List Point) (sp : Space) (addr n : Nat) : List Nat :=
  (m.bufs.filter (fun e => ps.contains e.pt && e.w.hits sp addr n)).map (fun e => e.w.wid)

/-- Propagate (R71): the write with an identity moves to the parent of its point, or is delivered. Not enabled: no change. -/
def Mach.propagate (m : Mach) (wid : Nat) : Mach :=
  match m.bufs.find? (fun e => e.w.wid == wid) with
  | none => m
  | some e =>
    if m.hasOlder e then m else m.moveUp e

/-- The drain for release (R76 step 1). -/
def Mach.drain (m : Mach) (leaf : Point) (s : Nat) : Mach :=
  let ps := m.below leaf s
  let ws := m.widsAt ps
  m.push ps (fun w => ws.contains w)

/-- The range drain (R79). -/
def Mach.drainRange (m : Mach) (leaf : Point) (s : Nat) (sp : Space) (addr n : Nat) : Mach :=
  let ps := m.below leaf s
  let ws := m.widsTo ps sp addr n
  m.push ps (fun w => ws.contains w)

/-- The invalidate for acquire (R77 step 3). -/
def Mach.invalidate (m : Mach) (leaf : Point) (s : Nat) : Mach := m.dropCopies (m.below leaf s)

/-- The fence of R79. -/
def Mach.fenceAt (m : Mach) (leaf : Point) (s : Nat) : Mach := (m.drain leaf s).invalidate leaf s

/-! ### Reads (R73, R77, R80) -/

/-- Whether a copy read under one tag serves a read under another: lines are tagged with their key (R30). -/
def sameTag (a b : Option KTag) : Bool :=
  match a, b with
  | some x, some y => sameKey x y
  | none, none => true
  | _, _ => false

/-- A byte of a buffered write as a read under a tag meets it. Under another key it is the decryption of what the write's key will have produced: of
the unit at its home with the buffered writes of that key in it (R31; log entry 13). -/
def Mach.writeByte (m : Mach) (w : Write) (a : Nat) (tag : Option KTag) : Byte :=
  let f := flatOf w.sp a
  let k : Sealed := match w.tag with
    | some t => .under t
    | none => if isHost f then .bare else .open_
  if plainly (isHost f) k tag then w.bytes.getD (a - w.addr) 0
  else
    let base := a / 64 * 64
    let unit := (m.bufs.filter (fun e => sameTag e.w.tag w.tag && e.w.hits w.sp base 64)).foldl (fun u e =>
      (List.range 64).map (fun i => if e.w.addr ≤ base + i ∧ base + i < e.w.addr + e.w.bytes.length then e.w.bytes.getD (base + i - e.w.addr) 0
        else u.getD i 0)) (m.homeBytes w.sp base 64 w.tag)
    (recode (isHost f) k tag unit).getD (a % 64) 0

/-- What a point gives for a byte: the youngest buffered write, else its copy (R73). -/
def Mach.pointByte (m : Mach) (p : Point) (sp : Space) (a : Nat) (tag : Option KTag) : Option Byte :=
  match (m.bufs.reverse.find? (fun e => e.pt == p && e.w.hits sp a 1)) with
  | some e => some (m.writeByte e.w a tag)
  | none =>
    m.copies.findSome? (fun c => if c.pt == p && c.sp == sp && c.unit == a / 16 && sameTag c.tag tag then c.bytes.getD (a % 16) none else none)

/-- The scan of R73 over some points, then the home: the byte and how many points were passed. -/
def Mach.scan (m : Mach) (sp : Space) (a : Nat) (tag : Option KTag) : List Point → Byte × Nat
  | [] => (m.homeByte sp a tag, 0)
  | p :: ps =>
    match m.pointByte p sp a tag with
    | some b => (b, 0)
    | none => let r := m.scan sp a tag ps; (r.1, r.2 + 1)

/-- The copies a read of a unit installs at the first `n` of some points (R73). -/
def Mach.installs (m : Mach) (sp : Space) (unit : Nat) (tag : Option KTag) (ps : List Point) (n : Nat) : List Copy :=
  (List.range n).filterMap (fun i =>
    (ps[i]?).map (fun p => ⟨p, sp, unit, tag.map (fun t => { t with pol := 0 }), (List.range 16).map (fun b => some (m.scan sp (unit * 16 + b) tag (ps.drop i)).1)⟩))

/-- How many points of a scan each byte of a range passes without a value. -/
def Mach.passes (m : Mach) (ps : List Point) (sp : Space) (addr n : Nat) (tag : Option KTag) : List Nat :=
  (List.range n).map (fun i => (m.scan sp (addr + i) tag ps).2)

/-- How many points the bytes of a range that lie in a unit pass, the most of them: where they pass different points, copies of the unit are installed
at every point that any of them passed (R73; log entry 84). -/
def passedIn (k : List Nat) (addr unit : Nat) : Nat :=
  ((List.range k.length).filter (fun i => (addr + i) / 16 == unit)).foldl (fun b i => max b (k.getD i 0)) 0

/-- Copies take the places of those of the same points, units and keys. -/
def Mach.install (m : Mach) (new : List Copy) : Mach :=
  { m with copies := m.copies.filter (fun c => !new.any (fun d => d.pt == c.pt && d.sp == c.sp && d.unit == c.unit && sameTag d.tag c.tag)) ++ new }

/-- A read of bytes by the scan over some points, with the copies it installs (R73); the package cache meets what is read at the home. -/
def Mach.readOver (m : Mach) (ps : List Point) (sp : Space) (addr n : Nat) (tag : Option KTag) (install : Bool) : List Byte × Mach :=
  let bytes := (List.range n).map (fun i => (m.scan sp (addr + i) tag ps).1)
  let k := m.passes ps sp addr n tag
  let new := (granulesOf addr n).flatMap (fun u => m.installs sp u tag ps (passedIn k addr u))
  let m := if install && !ps.isEmpty then m.install new else m
  (bytes, if k.contains ps.length then m.touch sp addr n tag else m)

/-- Whether a read over some points needs nothing of the home of another device: every byte is found at a point, and so is every byte of the copies the
read installs. -/
def Mach.knows (m : Mach) (ps : List Point) (sp : Space) (addr n : Nat) : Bool :=
  let k := m.passes ps sp addr n none
  !k.contains ps.length &&
    (granulesOf addr n).all (fun u => passedIn k addr u == 0 || !(m.passes ps sp (u * 16) 16 none).contains ps.length)

/-- A plain read (R73). -/
def Mach.readPlain (m : Mach) (leaf : Point) (sp : Space) (addr n : Nat) (tag : Option KTag) : List Byte × Mach :=
  m.readOver (m.path leaf sp) sp addr n tag true

/-- The points an acquire read of scope s scans: those of the path from P(s) up (R77 step 2). -/
def Mach.acqPath (m : Mach) (leaf : Point) (s : Nat) (sp : Space) : List Point :=
  (m.path leaf sp).filter (fun p => decide (s ≤ Point.level p))

/-- Steps 1 and 2 of an acquire read (R77). -/
def Mach.readAcq (m : Mach) (leaf : Point) (s : Nat) (sp : Space) (addr n : Nat) (tag : Option KTag) (install : Bool) : List Byte × Mach :=
  let ps := m.below leaf s
  let ws := m.widsTo ps sp addr n
  let m := m.push ps (fun w => ws.contains w)
  m.readOver (m.acqPath leaf s sp) sp addr n tag install

/-- A read at the home itself (R90, R101): writes to the bytes in the path points leave first, and the path keeps no older copy of them, so that a
later read of the agent returns nothing older (R81). -/
def Mach.readHome (m : Mach) (leaf : Point) (sp : Space) (addr n : Nat) (tag : Option KTag) : List Byte × Mach :=
  let ps := m.path leaf sp
  let ws := m.widsTo ps sp addr n
  let m := m.push ps (fun w => ws.contains w)
  let m := ps.foldl (fun m p => m.uncopy p sp addr n) m
  (m.homeBytes sp addr n tag, m.touch sp addr n tag)

/-- The promote of a remote acquire (R80 step 1). -/
def Mach.promote (m : Mach) (sp : Space) (addr n : Nat) : Mach :=
  let ts := (m.marks.filter (fun k => k.sp == sp && overlaps k.addr k.len addr n)).map Mark.t
  ts.eraseDups.foldl (fun m t =>
    let kids := ((m.bufs.map BufEnt.pt).filter (fun p => m.parent p == .core t)).eraseDups
    let ws := m.widsAt (.core t :: kids)
    m.push (kids ++ [.core t, m.parent (.core t)]) (fun w => ws.contains w)) m

/-! ### Writes and atomics (R74–R76, R78) -/

/-- A fresh identity. -/
def Mach.newId (m : Mach) : Nat × Mach := (m.fresh, { m with fresh := m.fresh + 1 })

/-- A write placed at a point of a chain: delivered at once when the point is at or above the meeting point, else buffered there (R74, R76). One to
another device leaves at once then, and its answer is its delivery. -/
def Mach.place (m : Mach) (p : Point) (w : Write) : Mach :=
  if m.holds p w.sp then
    match w.sp with
    | .fab _ _ => ({ m with bufs := m.bufs ++ [⟨.dev, w, .rests⟩] } : Mach).sendAway ⟨.dev, w, .rests⟩
    | _ => m.deliver w
  else { m with bufs := m.bufs ++ [⟨p, w, .rests⟩] }

/-- A plain write (R74). -/
def Mach.writePlain (m : Mach) (leaf : Point) (w : Write) : Mach :=
  let m := { m with fresh := m.fresh + 1 }
  (m.uncopy leaf w.sp w.addr w.bytes.length).place leaf { w with wid := m.fresh }

/-- A core-scope synchronising write is noted at its core point (R80). -/
def Mach.markCore (m : Mach) (leaf : Point) (s : Nat) (w : Write) : Mach :=
  if s = 1 then
    match m.scopePoint leaf 1 with
    | .core t => m.mark t w
    | _ => m
  else m

/-- Steps 2 and 3 of a release write of scope s (R76); the drain is taken once for the instruction (R273). -/
def Mach.writeRel (m : Mach) (leaf : Point) (s : Nat) (w : Write) : Mach :=
  let m := (m.below leaf s).foldl (fun m p => m.uncopy p w.sp w.addr w.bytes.length) m
  let m := { m with fresh := m.fresh + 1 }
  let w := { w with wid := m.fresh, sync := decide (s = 1) }
  (m.place (m.scopePoint leaf s) w).markCore leaf s w

/-- A plain atomic (R75): what the operation makes of the old bytes, none when it does not write. Returns the old bytes. -/
def Mach.atomic (m : Mach) (leaf : Point) (sp : Space) (addr n : Nat) (tag : Option KTag) (sync : Bool) (f : List Byte → Option (List Byte)) :
    List Byte × Mach :=
  let ps := m.path leaf sp
  let ws := m.widsTo ps sp addr n
  let m := m.push ps (fun w => ws.contains w)
  let old := m.homeBytes sp addr n tag
  let m := match f old with
    | some new => m.deliver ⟨0, sp, addr, new, .plain, tag, sync, 0, 0, 0⟩
    | none => m
  (old, (ps.foldl (fun m p => m.uncopy p sp addr n) m).touch sp addr n tag)

/-- A write by a die agent or an engine that is delivered at its home in one step, older writes of the path first (R92, R103). -/
def Mach.writeHome (m : Mach) (leaf : Point) (w : Write) : Mach :=
  let ps := m.path leaf w.sp
  let ws := m.widsTo ps w.sp w.addr w.bytes.length
  let m := m.push ps (fun x => ws.contains x)
  (ps.foldl (fun m p => m.uncopy p w.sp w.addr w.bytes.length) m).deliver w

/-- The counted addition of R87: the count modulo 2^63, bit 63 kept, and set by a carry; `fault` sets it as well (R88). -/
def countAdd (old inc : Nat) (fault : Bool) : Nat :=
  let c := old % 2 ^ 63 + inc
  let b := nbit old 63 || decide (2 ^ 63 ≤ c) || fault
  (if b then 2 ^ 63 else 0) + c % 2 ^ 63

/-! ### Compressed blocks (R63, R64) -/

/-- The bytes of a slot at their homes; those outside the partition's map read as zero (log entry 85). -/
def Mach.slotHome (m : Mach) (tag : KTag) (q : SlotParts) : List Byte :=
  q.flatMap (fun x => match x.1 with
    | some (sp, a) => m.homeBytes sp a x.2.1 (some { tag with unit := x.2.2 })
    | none => List.replicate x.2.1 0)

/-- The bytes of a slot with the buffered writes of a point in them (R73). -/
def Mach.slotOver (m : Mach) (p : Point) (tag : KTag) (q : SlotParts) (bs : List Byte) : List Byte :=
  (q.foldl (fun (r : Nat × List Byte) x =>
    (r.1 + x.2.1, match x.1 with
      | some (sp, a) => if m.bufs.any (fun e => e.pt == p && e.w.hits sp a x.2.1) then
          r.2 ++ (List.range x.2.1).map (fun i =>
            match (m.bufs.reverse.find? (fun e => e.pt == p && e.w.hits sp (a + i) 1)) with
            | some e => m.writeByte e.w (a + i) (some { tag with unit := x.2.2 })
            | none => bs.getD (r.1 + i) 0)
        else r.2 ++ bytesAt bs r.1 x.2.1
      | none => r.2 ++ bytesAt bs r.1 x.2.1)) (0, [])).2

/-- The scan of R73 for a slot: the whole block of the lowest point that has its copies, else of the home, and how many points it passed; buffered
writes below stand over it. -/
def Mach.slotScan (m : Mach) (tag : KTag) (slot : Nat) (q : SlotParts) : List Point → List Byte × Nat
  | [] => (m.slotHome tag q, 0)
  | p :: ps =>
    match m.blocks.find? (fun b => b.pt == p && b.slot == slot && b.tag.key == tag.key && b.tag.p == tag.p) with
    | some b => (m.slotOver p tag q b.bytes, 0)
    | none => let r := m.slotScan tag slot q ps; (m.slotOver p tag q r.1, r.2 + 1)

/-- A read of a slot over some points, with the copies it installs, all units of the block together (R64, R73). -/
def Mach.readSlotOver (m : Mach) (ps : List Point) (tag : KTag) (slot : Nat) (q : SlotParts) (install : Bool) : List Byte × Mach :=
  let r := m.slotScan tag slot q ps
  let new := if install then (List.range r.2).filterMap (fun i =>
      (ps[i]?).map (fun p => (⟨p, tag, slot, q, (m.slotScan tag slot q (ps.drop i)).1⟩ : Block))) else []
  let m := { m with blocks := m.blocks.filter (fun b => !new.any (fun d => d.pt == b.pt && d.slot == b.slot && d.tag == b.tag)) ++ new }
  (r.1, if r.2 = ps.length then (partsIn q).foldl (fun m x => m.touch x.1 x.2.1 x.2.2 (some tag)) m else m)

/-! ### Ways of reading -/

/-- How an agent reads bytes: plainly (R73); by steps 1 and 2 of an acquire of a scope (R77); at the home with its own path clear (R90, R101); or at the
home as it stands. -/
inductive Way where
  | plain (leaf : Point)
  | acq (leaf : Point) (s : Nat) (install : Bool)
  | home (leaf : Point)
  | direct
deriving DecidableEq, Repr

/-- A read of bytes of one unit of a store. -/
def Mach.readBy (m : Mach) (w : Way) (sp : Space) (addr n : Nat) (tag : Option KTag) : List Byte × Mach :=
  match w with
  | .plain leaf => m.readPlain leaf sp addr n tag
  | .acq leaf s install => m.readAcq leaf s sp addr n tag install
  | .home leaf => m.readHome leaf sp addr n tag
  | .direct => (m.homeBytes sp addr n tag, m.touch sp addr n tag)

/-- The writes to a slot in the buffers of some points leave them. -/
def Mach.pushSlot (m : Mach) (ps : List Point) (q : SlotParts) : Mach :=
  (partsIn q).foldl (fun m x => let ws := m.widsTo ps x.1 x.2.1 x.2.2; m.push ps (fun w => ws.contains w)) m

/-- A read of a compressed block's slot, each of the ways. -/
def Mach.readSlot (m : Mach) (w : Way) (tag : KTag) (slot : Nat) (q : SlotParts) : List Byte × Mach :=
  match w with
  | .plain leaf => m.readSlotOver (m.path leaf .pkg) tag slot q true
  | .acq leaf s install => (m.pushSlot (m.below leaf s) q).readSlotOver (m.acqPath leaf s .pkg) tag slot q install
  | .home leaf =>
    let ps := m.path leaf .pkg
    let m := (partsIn q).foldl (fun m x => ps.foldl (fun m p => m.uncopy p x.1 x.2.1 x.2.2) m) (m.pushSlot ps q)
    m.readSlotOver [] tag slot q false
  | .direct => m.readSlotOver [] tag slot q false

/-! ### Refresh (R71) -/

/-- The points above a point on the way to a store. -/
def Mach.pathAbove (m : Mach) (p : Point) (sp : Space) : List Point := (m.chain (m.parent p)).takeWhile (fun q => !m.holds q sp)

/-- Refresh of R71: the copy of a unit under a key is replaced by what a plain read from the parent, under that same key, would return now, or removed; a
read of another device in progress then leaves no copy there (R81). The copies of a compressed block's units go together (R64). What another device's home holds is `away`. Not enabled: no change. -/
def Mach.refreshCopy (m : Mach) (p : Point) (sp : Space) (unit : Nat) (tag : Option KTag) (away : List Byte) (drop : Bool) : Mach :=
  let mine (c : Copy) : Bool := c.pt == p && c.sp == sp && c.unit == unit && sameTag c.tag tag
  let block (b : Block) : Bool := b.pt == p && b.meets sp (unit * 16) 16 && tag.any (fun t => t.key == b.tag.key && t.p == b.tag.p)
  if drop then ({ m with copies := m.copies.filter (fun c => !mine c), blocks := m.blocks.filter (fun b => !block b) } : Mach).bar (if isFab sp then [p] else [])
  else
    let ps := m.pathAbove p sp
    let v := { m with away := [(sp, unit, away)] }
    { m with
      copies := m.copies.map (fun c =>
        if mine c then { c with bytes := (List.range 16).map (fun b => some (v.scan sp (unit * 16 + b) tag ps).1) } else c)
      blocks := m.blocks.map (fun b => if block b then { b with bytes := (v.slotScan b.tag b.slot b.parts ps).1 } else b) }

end Sys2Proof.Machine
end

