-- ==== Sys2Proof/Machine/Xlate.lean ====
section
/-!
DEFINITION. Address spaces and translation (R10–R35): decoding of generic and scratch addresses, the partition-physical map, the four-level
walk, translation caches, and the checks of R22 in their order.
-/
namespace Sys2Proof.Machine

/-! ### Partition-physical addresses (R12, R61, R62) -/

/-- The numbers of the set bits below a bound, ascending. -/
def bitsOf (mask bound : Nat) : List Nat := (List.range bound).filter (fun i => nbit mask i)

/-- The interleave granule of a partition (R62). -/
def granOf (pt : Part) : Nat := [256, 4096, 65536].getD pt.igran 256

/-- The location of a partition-physical address; none when it is out of range (R12, R62). -/
def physOf (pt : Part) (a : Nat) : Option (Space × Nat) :=
  if a < 2 ^ 40 then
    let chans := bitsOf pt.chans 1536
    let n := chans.length
    let g := granOf pt
    if n = 0 then none
    else
      let row := a / (g * n)
      if 384 * 2 ^ 20 ≤ row * g then none
      else some (.pkg, chanFlat (chans.getD (a / g % n) 0) (row * g + a % g))
  else if a < 2 ^ 51 then
    let units := bitsOf pt.wsu 64
    let u := (a - 2 ^ 40) / 2 ^ 26
    if u < units.length then
      let b := units.getD u 0
      some (.pkg, wsFlat (b / 16) (b % 16) ((a - 2 ^ 40) % 2 ^ 26))
    else none
  else if a - 2 ^ 51 < pt.hwlen then some (.host, (pt.hwbase + (a - 2 ^ 51)) % 2 ^ 64)
  else none

/-- Whether a partition-physical address lies in the partition's package-memory range (R16). -/
def inPkg (pt : Part) (a : Nat) : Bool := decide (a < 2 ^ 40) && (physOf pt a).isSome

/-- Whether a partition-physical address lies in the partition's weight-store range (R14). -/
def inWs (pt : Part) (a : Nat) : Bool := decide (2 ^ 40 ≤ a) && decide (a < 2 ^ 51) && (physOf pt a).isSome

/-- The die and bank of a location in the weight store (R56). -/
def wsBankOf (sp : Space) (addr : Nat) : Option (Nat × Nat) :=
  if sp = .pkg ∧ 2 ^ 40 ≤ addr then some ((addr - 2 ^ 40) / 2 ^ 30, (addr - 2 ^ 40) / 2 ^ 26 % 16) else none

/-! ### Page-table entries (R13, R14) -/

/-- A bit of a page-table entry. -/
def pbit (e : DWord) (k : Nat) : Bool := e.getLsbD k
/-- The frame or table address of an entry. -/
def pAddr (e : DWord) : Nat := nbits e.toNat 51 12 * 4096
/-- The key index of an entry. -/
def pKey (e : DWord) : Nat := nbits e.toNat 58 52

/-- Whether an entry with V = 1 read at a level (4 to 1) breaks a rule of R13 or R14; `g2` is G of the L2 pointer that led to an L1 table. -/
def malformed (pt : Part) (level : Nat) (g2 : Bool) (e : DWord) : Bool :=
  let t := pbit e 1
  let log := if level = 2 then 30 else if g2 then 21 else 16
  nbits e.toNat 63 61 != 0 || pbit e 11
  || (!t && (level == 4 || level == 3)) || (t && level == 1)
  || (pbit e 10 && !(t && level == 2))
  || (t && (nbits e.toNat 9 2 != 0 || pKey e != 0))
  || (t && level == 2 && !pbit e 10 && nbits e.toNat 16 12 != 0)
  || (!t && (pAddr e % 2 ^ log != 0
      || (pbit e 7 && pbit e 8)
      || nbits e.toNat 60 59 == 3
      || (pbit e 8 != inWs pt (pAddr e))))

/-! ### The walk (R15–R17) -/

/-- The tag under which a partition's unit is stored with a key, for an access under a policy (R30, R55). -/
def tagOf (p ppa : Nat) (key : Key) (pol : Nat := 0) : KTag := ⟨key, p, ppa / 64, pol⟩

/-- A 64-bit word of package memory at its home, by partition-physical address: an entry as a walker reads it (R16). A write to an entry that
is still in the buffer of some point is not seen (DESIGN CHOICE, log entry 86). -/
def Mach.physWord (m : Mach) (pt : Part) (ppa : Nat) (key : Key) : DWord :=
  match physOf pt ppa with
  | some (sp, a) => BitVec.ofNat 64 (leNat (m.homeBytes sp a 8 (some (tagOf pt.p ppa key))))
  | none => 0

/-- Sub-causes and causes of R25, R170. -/
def xNotValid : Xl := .bad 4 1
/-- A malformed entry (R14). -/
def xMalformed : Xl := .bad 4 2
/-- A table or frame out of range (R16). -/
def xRange : Xl := .bad 4 3
/-- An unusable TKEY (R16). -/
def xKey : Xl := .bad 5 0x16

/-- One level of the walk from a table at `base` (R16). -/
def walkLevel (m : Mach) (pt : Part) (key : Key) (va : Nat) : Nat → Nat → Bool → Xl
  | 0, _, _ => xMalformed
  | level + 1, base, g2 =>
    let idx := match level + 1 with
      | 4 => nbits va 56 48
      | 3 => nbits va 47 39
      | 2 => nbits va 38 30
      | _ => if g2 then nbits va 29 21 else nbits va 29 16
    let a := base + idx * 8
    if !inPkg pt a then xRange
    else
      let e := m.physWord pt a key
      if !pbit e 0 then xNotValid
      else if malformed pt (level + 1) g2 e then xMalformed
      else if pbit e 1 then walkLevel m pt key va level (pAddr e) (pbit e 10)
      else if (physOf pt (pAddr e)).isNone then xRange
      else .ok ⟨e, a, if level + 1 = 2 then 30 else if g2 then 21 else 16⟩

/-- The walk of a virtual address through a context's tables (R15, R16). -/
def walk (cf : Conf) (m : Mach) (p x va : Nat) : Xl :=
  match cf.part? p, cf.ctx? p x with
  | some pt, some cr =>
    if !pbit cr.root 0 then xNotValid
    else
      match cf.key? p (pKey cr.root) with
      | none => xKey
      | some key => walkLevel m pt key va 4 (pAddr cr.root) false
  | _, _ => xNotValid

/-- The entries a walk reads from a table at `base`, by partition-physical address: down to the first that ends it (R16). -/
def levelTrail (m : Mach) (pt : Part) (key : Key) (va : Nat) : Nat → Nat → Bool → List Nat
  | 0, _, _ => []
  | level + 1, base, g2 =>
    let a := base + 8 * (match level + 1 with
      | 4 => nbits va 56 48
      | 3 => nbits va 47 39
      | 2 => nbits va 38 30
      | _ => if g2 then nbits va 29 21 else nbits va 29 16)
    if !inPkg pt a then []
    else
      let e := m.physWord pt a key
      a :: (if pbit e 0 && !malformed pt (level + 1) g2 e && pbit e 1 then levelTrail m pt key va level (pAddr e) (pbit e 10) else [])

/-- A walker's reads of a virtual address's entries meet the package cache, under policy allocate (R16, R55). -/
def Mach.touchWalk (m : Mach) (cf : Conf) (p x va : Nat) : Mach :=
  match cf.part? p, cf.ctx? p x with
  | some pt, some cr =>
    match cf.key? p (pKey cr.root) with
    | some key =>
      if !pbit cr.root 0 then m
      else (levelTrail m pt key va 4 (pAddr cr.root) false).foldl (fun m a => match physOf pt a with
        | some (sp, la) => m.touch sp la 8 (some (tagOf p a key))
        | none => m) m
    | none => m
  | _, _ => m

/-- Writing a page-table entry by the compare-and-swap of R17: a write delivered at the entry's home. -/
def Mach.setEntry (m : Mach) (cf : Conf) (p x : Nat) (a : Nat) (e : DWord) : Mach :=
  match cf.part? p, cf.ctx? p x with
  | some pt, some cr =>
    match physOf pt a, cf.key? p (pKey cr.root) with
    | some (sp, la), some key => m.deliver ⟨0, sp, la, leBytes 8 e.toNat, .plain, some (tagOf p a key), false, 0, 0, 0⟩
    | _, _ => m
  | _, _ => m

/-- A walk that sets A, and D for a write, in the entry it ends at (R17). -/
def walkSet (cf : Conf) (m : Mach) (p x va : Nat) (dirty : Bool) : Xl × Mach :=
  let w := walk cf m p x va
  let m := m.touchWalk cf p x va
  match w with
  | .bad c s => (.bad c s, m)
  | .ok l =>
    let e := l.e ||| (if dirty then 0x30 else 0x10)
    (.ok { l with e := e }, if e = l.e then m else m.setEntry cf p x l.at_ e)

/-! ### Translation caches (R18, R20) -/

/-- Whether a cached page covers a 64 KiB block. -/
def TlbEnt.covers (e : TlbEnt) (own : TlbOwner) (p x block : Nat) : Bool :=
  e.own == own && e.p == p && e.x == x && block / 2 ^ (e.leaf.log - 16) == e.vpn / 2 ^ (e.leaf.log - 16)

/-- The cached translation of a block. -/
def Mach.tlbGet (m : Mach) (own : TlbOwner) (p x block : Nat) : Option Leaf :=
  (m.tlb.find? (fun e => e.covers own p x block)).map TlbEnt.leaf

/-- The entries a cache of translations has (R18, R20): of a core 256, of an engine or an agent 64. A die's shared cache has what its partition's share
allows. -/
def TlbOwner.size : TlbOwner → Nat
  | .core _ => 256
  | _ => 64

/-- Installing a translation in a cache of some size: over the partition's oldest where it is full. -/
def Mach.tlbPutIn (m : Mach) (own : TlbOwner) (p x block : Nat) (l : Leaf) (size : Nat) : Mach :=
  let kept := m.tlb.filter (fun e => !e.covers own p x block)
  let mine := kept.filter (fun e => e.own == own && e.p == p)
  let kept := if size ≤ mine.length then kept.filter (fun e => mine.getLast? != some e) else kept
  if size = 0 then m else { m with tlb := ⟨own, p, x, block, l⟩ :: kept }

/-- Installing a translation. -/
def Mach.tlbPut (m : Mach) (own : TlbOwner) (p x block : Nat) (l : Leaf) : Mach := m.tlbPutIn own p x block l own.size

/-- The die whose shared cache and walkers serve a cache of translations (R20). -/
def Mach.dieOfOwner (m : Mach) : TlbOwner → Nat
  | .core c => dieOfCore c
  | .die d => d
  | .agent d _ => d
  | .eng t _ => ((m.team? t).map (fun tm => dieOfCore tm.core)).getD 0

/-- The walkers of a partition on a die (R20). -/
def walkersOf (cf : Conf) (p die : Nat) : Nat := 8 * (((cf.part? p).map Part.twalk).getD []).getD die 0

/-- A translation installed in the shared cache of a die, in the partition's own entries (R20). -/
def Mach.sharedPut (m : Mach) (cf : Conf) (die p x block : Nat) (l : Leaf) : Mach :=
  m.tlbPutIn (.die die) p x block l (256 * (((cf.part? p).map Part.tent).getD []).getD die 0)

/-- A walk by a walker of a die: counted, and installed in the shared cache (R16, R17, R20). -/
def walkAt (cf : Conf) (m : Mach) (die p x va : Nat) : Xl × Mach :=
  match walkSet cf (m.count die 5 (some p) 1) p x va false with
  | (.ok l, m) => (.ok l, m.sharedPut cf die p x (va / 65536) l)
  | r => r

/-- A translation through one of the caches, then the die's shared cache, then at once a walk (engines, agents, fetch). -/
def xlateNow (cf : Conf) (m : Mach) (own : TlbOwner) (p x va : Nat) : Xl × Mach :=
  match m.tlbGet own p x (va / 65536) with
  | some l => (.ok l, m)
  | none =>
    let die := m.dieOfOwner own
    let m := match own with
      | .core _ => m.count die 4 (some p) 1
      | _ => m
    match m.tlbGet (.die die) p x (va / 65536) with
    | some l => (.ok l, m.tlbPut own p x (va / 65536) l)
    | none =>
      match walkAt cf m die p x va with
      | (.ok l, m) => (.ok l, m.tlbPut own p x (va / 65536) l)
      | r => r

/-- Whether a translation must wait for a walker and the partition has none on the die: no cache has it, or, for a write, only with D clear (R17, R20). -/
def Mach.unserved (cf : Conf) (m : Mach) (own : TlbOwner) (p x va : Nat) (write : Bool := false) : Bool :=
  walkersOf cf p (m.dieOfOwner own) == 0 &&
    match (m.tlbGet own p x (va / 65536)).or (m.tlbGet (.die (m.dieOfOwner own)) p x (va / 65536)) with
    | none => true
    | some l => write && !pbit l.e 5

/-! ### Decoding addresses (R10, R11) -/

/-- Where a decoded address lies, before translation. -/
inductive Target where
  | va (a : Nat)
  | scr (t off : Nat)
  | fab (dev off : Nat)
  | bad (cause sub : Nat)
deriving DecidableEq, Repr

/-- A 32-bit scratch address of a team, for an access of n bytes; a write may not touch the header (R11, R41). -/
def decodeScr (m : Mach) (tm : Team) (a n : Nat) (write : Bool) : Target :=
  let off := a % 2 ^ 20
  if nbit a 31 then
    if nbits a 30 27 != 0 then .bad 5 0x11
    else match m.peer? tm.c (nbits a 26 20) with
      | some pe => if off + n ≤ pe.len ∧ !(write && decide (off < 64)) then .scr pe.t off else .bad 5 0x11
      | none => .bad 5 0x11
  else if nbits a 30 20 != 0 then .bad 5 0x11
  else if off + n ≤ tm.len ∧ !(write && decide (off < 64)) then .scr tm.t off
  else .bad 5 0x11

/-- A 64-bit generic address of a team (R10). -/
def decodeGen (m : Mach) (tm : Team) (a n : Nat) (write : Bool) : Target :=
  match nbits a 63 62 with
  | 0 => if nbits a 61 57 != 0 then .bad 4 3 else .va (a % 2 ^ 57)
  | 1 => if nbits a 61 32 != 0 then .bad 5 0x10 else decodeScr m tm (a % 2 ^ 32) n write
  | 2 => .bad 5 0x10
  | _ => .fab (nbits a 61 49) (a % 2 ^ 49)

/-! ### Checks 4 to 7 of R22 -/

/-- Who accesses, and how. -/
inductive Cls where
  | read
  | write
  | atomic
  | fetch
  /-- A pack copy's write (R28, R326). -/
  | pack
  /-- A queue copy's write, which may reach the weight store (R27); the plane rule holds for it too (R126; log entry 87). -/
  | agent
  /-- A write of a Spindle or a Batten: its ranges were checked at the bind, and an anchor page needs no W (R27, R110). -/
  | batten
deriving DecidableEq, Repr

/-- Whether the access writes. -/
def Cls.writes : Cls → Bool
  | .read => false
  | .fetch => false
  | _ => true

/-- The bytes of a region's local plane (R109, R110). -/
def Region.planeLen (rg : Region) : Nat := natAt rg.desc 0x28 4 * (if nbit (natAt rg.desc 0x28 8) 50 then 2 else 4)

/-- Whether a partition-physical address lies in a region's local plane, through the tables of the region's context (R108). -/
def planeHas (cf : Conf) (m : Mach) (rg : Region) (ppa : Nat) : Bool :=
  let lb := natAt rg.desc 0 8 % 2 ^ 57
  let n := rg.planeLen
  (List.range ((lb + n - 1) / 65536 - lb / 65536 + 1)).any (fun i =>
    let blk := lb / 65536 + i
    match walk cf m rg.p rg.x (blk * 65536) with
    | .ok l =>
      let base := pAddr l.e + blk * 65536 % 2 ^ l.log
      decide (base ≤ ppa) && decide (ppa < base + 65536) &&
        decide (lb ≤ blk * 65536 + (ppa - base)) && decide (blk * 65536 + (ppa - base) < lb + n)
    | .bad _ _ => false)

/-- The plane-local rule (R26): the write meets a bound region with an open window. -/
def planeOk (cf : Conf) (m : Mach) (p x ppa : Nat) : Bool :=
  m.regions.any (fun rg => rg.p == p && rg.binds.any (fun b => b.1 == x) && rg.cnt != 0 && planeHas cf m rg ppa)

/-- Checks 4 to 7 of R22 on a leaf, for an access of partition p, context x to virtual address va. A leaf is in range by its frame's first byte; a byte of
its page that runs past the range's end fails as XLATE RANGE, after checks 4 to 7 (DESIGN CHOICE, log entry 88). -/
def checkLeaf (cf : Conf) (m : Mach) (p x va : Nat) (cls : Cls) (l : Leaf) : Except (Nat × Nat) Acc :=
  let ppa := pAddr l.e + va % 2 ^ l.log
  let cmp := pbit l.e 9
  if cls.writes && cls != .batten && !pbit l.e 2 then .error (5, 0x12)
  else if cls = .fetch ∧ (!pbit l.e 3 || cmp) then .error (5, 0x13)
  else if cls.writes && cls != .agent && cls != .batten && pbit l.e 8 then .error (5, 0x14)
  else if cls.writes && cls != .pack && cmp then .error (5, 0x15)
  else
    match cf.key? p (pKey l.e), cf.part? p with
    | some key, some pt =>
      if (cls = .write ∨ cls = .atomic ∨ cls = .pack ∨ cls = .agent) ∧ pbit l.e 7 ∧ !planeOk cf m p x ppa then .error (0x0F, 0)
      else match physOf pt ppa with
        | some (sp, a) => .ok ⟨sp, a, some (tagOf p ppa key (nbits l.e.toNat 60 59)), ppa, cmp, some l⟩
        | none => .error (4, 3)
    | _, _ => .error (5, 0x16)

/-- The leaf that serves an access of an engine or agent now, walking at once; a write through a clear D bit takes what memory holds (R17). -/
def leafNow (cf : Conf) (m : Mach) (own : TlbOwner) (p x va : Nat) (write : Bool) : Xl × Mach :=
  match xlateNow cf m own p x va with
  | (.bad c s, m) => (.bad c s, m)
  | (.ok l, m) => if write && !pbit l.e 5 then (walk cf m p x va, m.touchWalk cf p x va) else (.ok l, m)

/-- D is set in the entry of a page that is written, and in the leaf that the cache holds (R17). -/
def Mach.setLeafDirty (m : Mach) (cf : Conf) (own : TlbOwner) (p x va : Nat) (l : Leaf) : Mach :=
  let l' := { l with e := l.e ||| 0x30 }
  let m := if l' = l then m else m.setEntry cf p x l.at_ l'.e
  if m.tlbGet own p x (va / 65536) = some l' then m else m.tlbPut own p x (va / 65536) l'

/-- A translated access of an engine or agent, walking at once, D set for a write (R17, R22, R24). -/
def accessNow (cf : Conf) (m : Mach) (own : TlbOwner) (p x va : Nat) (cls : Cls) : Except (Nat × Nat) Acc × Mach :=
  match leafNow cf m own p x va cls.writes with
  | (.bad c s, m) => (.error (c, s), m)
  | (.ok l, m) =>
    match checkLeaf cf m p x va cls l with
    | .error e => (.error e, m)
    | .ok a => (.ok a, if cls.writes then m.setLeafDirty cf own p x va l else m)

/-- What an access of an agent gives: its location, the check that fails, or a wait for a walker (R20). -/
inductive Reach where
  | ok (a : Acc)
  | bad (cause sub : Nat)
  | wait
deriving DecidableEq, Repr

/-- A translated access of an agent, which waits where no walker serves it (R20). -/
def reach (cf : Conf) (m : Mach) (own : TlbOwner) (p x va : Nat) (cls : Cls) : Reach × Mach :=
  if m.unserved cf own p x va cls.writes then (.wait, m)
  else match accessNow cf m own p x va cls with
    | (.ok a, m) => (.ok a, m)
    | (.error (c, s), m) => (.bad c s, m)

/-- A decoded and checked access of a team's engine context or prologue by generic address. One in fabric space is checked at its target. -/
def engAccess (cf : Conf) (m : Mach) (tm : Team) (p x : Nat) (k : EngCtx) (a n : Nat) (cls : Cls) : Except (Nat × Nat) Acc × Mach :=
  match decodeGen m tm a n cls.writes with
  | .bad c s => (.error (c, s), m)
  | .scr t off => (.ok ⟨.scr t, off, none, 0, false, none⟩, m)
  | .fab d off => (.ok ⟨.fab d p, off, none, 0, false, none⟩, m)
  | .va va => accessNow cf m (.eng tm.t k) p x va cls

/-! ### Reading and writing translated accesses -/

/-- The store of a compressed page's logical address: the slot of its block (R63). -/
def slotPpa (l : Leaf) (va : Nat) : Nat := pAddr l.e + 528 * (va % 2 ^ l.log / 512)

/-- Where the slot at a partition-physical address lies, in pieces of at most 16 bytes. Bytes that lie past the end of the partition's ranges are nowhere: they
read as zero, and a pack copy's writes to them are dropped (DESIGN CHOICE, log entry 85). -/
def slotParts (pt : Part) (slot : Nat) : SlotParts :=
  (List.range 33).map (fun i => let a := slot + 16 * i; (physOf pt a, 16, a / 64))

/-- The 512 logical bytes of a block from its slot (R63, R64). -/
def expandSlot (slot : List Byte) : List Byte :=
  let mask := leNat (slot.take 16)
  let rec go : Nat → Nat → List Byte → List Byte
    | 0, _, _ => []
    | n + 1, i, ws =>
      if nbit mask i then bytesAt ws 0 4 ++ go n (i + 1) (ws.drop 4) else [0, 0, 0, 0] ++ go n (i + 1) ws
  go 128 0 (slot.drop 16)

/-- A read of n bytes at a translated access within one 64-byte unit, of a compressed page through its slot (R64, R73). -/
def readAcc (w : Way) (m : Mach) (pt? : Option Part) (a : Acc) (va n : Nat) : List Byte × Mach :=
  match a.cmp, a.leaf, a.tag, pt? with
  | true, some l, some tag, some pt =>
    let r := m.readSlot w tag (slotPpa l va) (slotParts pt (slotPpa l va))
    (bytesAt (expandSlot r.1) (va % 512) n, r.2)
  | _, _, _, _ => m.readBy w a.sp a.addr n a.tag

/-- Whether any byte of an access lies in a poisoned unit (R379). -/
def Mach.poisoned (m : Mach) (sp : Space) (addr n : Nat) : Bool :=
  m.poison.any (fun u => u.1 == sp && overlaps (u.2 * 16) 16 addr n)

/-- The parts of a slot that a read of its block reads: its mask and words, rounded up to 32 bytes (R64). -/
def Mach.readParts (m : Mach) (pt : Part) (tag : KTag) (slot : Nat) : SlotParts :=
  let q := slotParts pt slot
  let mask := leNat ((m.slotHome tag q).take 16)
  let p := ((List.range 128).filter (fun i => nbit mask i)).length
  q.take ((16 + 4 * p + 31) / 32 * 2)

/-- Whether a read of n bytes at a translated access meets a poisoned unit: of a compressed page, one of the bytes of its slot that hold the block (R64,
R379). -/
def poisonedAcc (m : Mach) (pt? : Option Part) (a : Acc) (va n : Nat) : Bool :=
  match a.cmp, a.leaf, a.tag, pt? with
  | true, some l, some tag, some pt => (partsIn (m.readParts pt tag (slotPpa l va))).any (fun x => m.poisoned x.1 x.2.1 x.2.2)
  | _, _, _, _ => m.poisoned a.sp a.addr n

/-! ### Refreshing banks (R58) -/

/-- The bank among some that refreshes. -/
def Mach.busyOf (m : Mach) (bs : List (Nat × Nat)) : Option (Nat × Nat) := bs.find? (fun b => m.refreshing b.1 == some b.2)

/-- The refreshing bank that an access waits for (R58): of a compressed page, one that holds its slot (R63). -/
def Mach.busyBank (m : Mach) (pt? : Option Part) (a : Acc) : Option (Nat × Nat) :=
  match a.cmp, a.leaf, a.tag, pt? with
  | true, some l, some tag, some pt =>
    m.busyOf ((partsIn (m.readParts pt tag (pAddr l.e + 528 * ((a.ppa - pAddr l.e) / 512)))).filterMap (fun x => wsBankOf x.1 x.2.1))
  | _, _, _, _ => m.busyOf (wsBankOf a.sp a.addr).toList

/-- Whether an access meets one. -/
def Mach.bankBusy (m : Mach) (pt? : Option Part) (a : Acc) : Bool := (m.busyBank pt? a).isSome

/-- An access of an engine or an agent is delayed by a refresh: it is counted once (R377). -/
def Mach.delay (m : Mach) (own : TlbOwner) (n : Nat) (pt? : Option Part) (a : Acc) : Mach :=
  match m.busyBank pt? a with
  | some (d, _) => if m.delayed.contains (own, n) then m else { (m.count d 0x07 (pt?.map Part.p) 1) with delayed := (own, n) :: m.delayed }
  | none => m

/-- It has been made. -/
def Mach.undelay (m : Mach) (own : TlbOwner) (n : Nat) : Mach := { m with delayed := m.delayed.filter (fun x => x != (own, n)) }

end Sys2Proof.Machine
end

