-- ==== Sys2Proof/Machine/Fetch.lean ====
section
/-!
DEFINITION. Instruction fetch (R29, R53): the fetch address, its translation through the core cache, and the instruction cache.
-/
namespace Sys2Proof.Machine

/-- What a fetch gives. `wait` is a fetch whose translation no walker serves (R20), or whose line fills from a bank that refreshes (R58). -/
inductive Fetched where
  | word (w : Nat)
  | fault (cause sub : Nat)
  | poison
  | wait
deriving DecidableEq, Repr

/-- A line of the instruction cache, by its core, partition, context and virtual line. -/
def Mach.iline (m : Mach) (core p x line : Nat) : Option ILine :=
  m.icache.find? (fun l => l.core == core && l.p == p && l.x == x && l.line == line)

/-- The location of a fetched line's first byte, or the fetch fault (R29). -/
def fetchAcc (cf : Conf) (m : Mach) (core p x a : Nat) : Except (Nat × Nat) Acc × Mach :=
  if a / 2 ^ 62 ≠ 0 then (.error (5, 0x13), m)
  else if nbits a 61 57 ≠ 0 then (.error (4, 3), m)
  else accessNow cf m (.core core) p x a .fetch

/-- The bytes of a line that is filled now: those at its home with every write to them that is still on its way, so that no fill holds a part of a store
(R53). Writes on their way follow each other by age. -/
def Mach.lineBytes (m : Mach) (sp : Space) (base : Nat) (tag : Option KTag) : List Byte :=
  let ws := m.bufs.filter (fun e => e.w.hits sp base 128)
  (List.range 128).map (fun i =>
    let t := tag.map (fun t => { t with unit := t.unit + i / 64 })
    let young := (ws.filter (fun e => e.w.hits sp (base + i) 1)).foldl (fun (b : Option BufEnt) e => match b with
      | none => some e
      | some x => if x.w.wid ≤ e.w.wid then some e else some x) none
    match young with
    | some e => m.writeByte e.w (base + i) t
    | none => m.homeByte sp (base + i) t)

/-- A line enters a core's instruction cache of 64 KiB, 512 lines (R36): over the core's oldest line that no launch pins, where it is full; with every line
pinned it does not enter. -/
def Mach.ilinePut (m : Mach) (l : ILine) : Mach :=
  let kept := m.icache.filter (fun e => !(e.core == l.core && e.p == l.p && e.x == l.x && e.line == l.line))
  let mine := kept.filter (fun e => e.core == l.core)
  if mine.length < 512 then { m with icache := l :: kept }
  else
    match (mine.filter (fun e => e.pin.isEmpty)).getLast? with
    | some v => { m with icache := l :: kept.filter (fun e => e != v) }
    | none => { m with icache := kept }

/-- Fetching the 32-bit word at an address: from the line the core holds of that place, else the line is filled (R53). A line held of another place, through a
translation since changed, does not serve (R35). -/
def fetchWord (cf : Conf) (m : Mach) (core p x a : Nat) : Fetched × Mach :=
  if a / 2 ^ 57 = 0 ∧ m.unserved cf (.core core) p x a then (.wait, m)
  else
    match fetchAcc cf m core p x a with
    | (.error (c, s), m) => (.fault c s, m)
    | (.ok ac, m) =>
      let base := ac.addr - a % 128
      let tag := ac.tag.map (fun t => { t with unit := t.unit - a % 128 / 64 })
      match (m.iline core p x (a / 128)).filter (fun l => l.sp == ac.sp && l.addr == base && l.tag == tag) with
      | some l => (.word (natAt l.bytes (a % 128) 4), m)
      | none =>
        let busy : Acc := { ac with addr := base, cmp := false }
        if m.bankBusy (cf.part? p) busy then (.wait, m.delay (.core core) a (cf.part? p) busy)
        else if m.poisoned ac.sp base 128 then (.poison, m)
        else
          let m := m.undelay (.core core) a
          let line := m.lineBytes ac.sp base tag
          (.word (natAt line (a % 128) 4), (m.ilinePut ⟨core, p, x, a / 128, ac.sp, base, tag, line, []⟩).touch ac.sp base 128 tag)

/-- Fetching an instruction: its word, and the fetch of its literal where it has one (R218, R219). -/
def fetchInstr (cf : Conf) (m : Mach) (core p x a : Nat) : Fetched × Fetched × Mach :=
  match fetchWord cf m core p x a with
  | (.word w, m) =>
    if hasLiteral w then
      let r := fetchWord cf m core p x ((a + 4) % 2 ^ 64)
      (.word w, r.1, r.2)
    else (.word w, .word 0, m)
  | (r, m) => (r, .word 0, m)

end Sys2Proof.Machine
end

