-- ==== Sys2Proof/Machine/Window.lean ====
section
/-!
DEFINITION. Reads and writes of die agents and engines over byte ranges, fragment headers in the staging area (R111), and the open-window
count of a region with the start of a merge pass (R119, R123, R124, R127).
-/
namespace Sys2Proof.Machine

/-! ### Ranges by generic or virtual address, in aligned accesses of 1, 4, 8 and 16 bytes (R66, R42) -/

/-- The widest access of R66 at an address that stays within n bytes. -/
def accessLen (a n : Nat) : Nat :=
  if a % 16 = 0 ∧ 16 ≤ n then 16 else if a % 8 = 0 ∧ 8 ≤ n then 8 else if a % 4 = 0 ∧ 4 ≤ n then 4 else 1

/-- The accesses [a, a+w) that make up a range. -/
def pieces (a n : Nat) : List (Nat × Nat) :=
  let rec go : Nat → Nat → Nat → List (Nat × Nat)
    | 0, _, _ => []
    | k + 1, a, n => if n = 0 then [] else let w := accessLen a n; (a, w) :: go k (a + w) (n - w)
  go (n / 16 + 16) a n

/-- How an agent reads: a plain read, or steps 1 and 2 of an acquire at device scope without copies (R77, R114), or at the home. -/
inductive ReadMode where
  | plain
  | spindle
  | home
deriving DecidableEq, Repr

/-- The way of reading of an agent's leaf point. -/
def ReadMode.way (md : ReadMode) (leafPt : Point) : Way :=
  match md with
  | .plain => .plain leafPt
  | .spindle => .acq leafPt 3 false
  | .home => .home leafPt

/-- What an agent's access to a range gives: its bytes; the first failing address with its cause and sub-cause (R24); the partition-physical address of a poisoned
unit (R379); or a wait, for a walker (R20) or a refreshing bank (R58). -/
inductive AgentR where
  | ok (bs : List Byte)
  | bad (addr cause sub : Nat)
  | poison (ppa : Nat)
  | wait
deriving DecidableEq, Repr

/-- One access of an agent's read of a range. -/
def agentRead1 (cf : Conf) (m : Mach) (leafPt : Point) (own : TlbOwner) (p x : Nat) (md : ReadMode) (a n : Nat) : AgentR × Mach :=
  if nbits a 63 57 != 0 then (.bad a 4 3, m)
  else
    match reach cf m own p x a .read with
    | (.bad c s, m) => (.bad a c s, m)
    | (.wait, m) => (.wait, m)
    | (.ok ac, m) =>
      if m.bankBusy (cf.part? p) ac then (.wait, m.delay own a (cf.part? p) ac)
      else if poisonedAcc m (cf.part? p) ac a n then (.poison ac.ppa, m)
      else
        let q := readAcc (md.way leafPt) (m.undelay own a) (cf.part? p) ac a n
        (.ok q.1, q.2)

/-- A virtual range read by an agent. -/
def agentRead (cf : Conf) (m : Mach) (leafPt : Point) (own : TlbOwner) (p x : Nat) (md : ReadMode) (a n : Nat) : AgentR × Mach :=
  (pieces a n).foldl (fun r pc =>
    match r with
    | (.ok bs, m) => match agentRead1 cf m leafPt own p x md pc.1 pc.2 with
      | (.ok b, m) => (.ok (bs ++ b), m)
      | r => r
    | r => r) (.ok [], m)

/-- One access of an agent's write of a range, delivered at once when `home`, else a plain write. -/
def agentWrite1 (cf : Conf) (m : Mach) (leafPt : Point) (own : TlbOwner) (p x : Nat) (cls : Cls) (home : Bool) (a : Nat) (bs : List Byte) :
    AgentR × Mach :=
  if nbits a 63 57 != 0 then (.bad a 4 3, m)
  else
    match reach cf m own p x a cls with
    | (.bad c s, m) => (.bad a c s, m)
    | (.wait, m) => (.wait, m)
    | (.ok ac, m) =>
      if m.bankBusy (cf.part? p) ac then (.wait, m.delay own a (cf.part? p) ac)
      else
        let w : Write := ⟨0, ac.sp, ac.addr, bs, .engine, ac.tag, false, 0, 0, 0⟩
        let m := m.undelay own a
        (.ok [], if home then m.writeHome leafPt w else m.writePlain leafPt w)

/-- A virtual range written by an agent; it stops at the first address that fails, or must wait. -/
def agentWrite (cf : Conf) (m : Mach) (leafPt : Point) (own : TlbOwner) (p x : Nat) (cls : Cls) (home : Bool) (a : Nat) (bs : List Byte) :
    AgentR × Mach :=
  (pieces a bs.length).foldl (fun r pc =>
    match r with
    | (.ok _, m) => agentWrite1 cf m leafPt own p x cls home pc.1 (bytesAt bs (pc.1 - a) pc.2)
    | r => r) (.ok [], m)

/-! ### Fragment headers (R111) -/

/-- The fragment size F (R108). -/
def Region.F (rg : Region) : Nat := 2 ^ nbits (natAt rg.desc 0x28 8) 36 32
/-- The number of weights NW (R108). -/
def Region.nw (rg : Region) : Nat := natAt rg.desc 0x28 4
/-- The number of fragments (R109). -/
def Region.nf (rg : Region) : Nat := (rg.nw + rg.F - 1) / rg.F
/-- The count of a fragment (R109). -/
def Region.count (rg : Region) (f : Nat) : Nat := min rg.F (rg.nw - f * rg.F)
/-- The staging entry of a fragment (R111). -/
def Region.staging (rg : Region) (f : Nat) : Nat := natAt rg.desc 0x18 8 % 2 ^ 57 + f * (64 + 12 * rg.F)
/-- The serving dies, ascending (R108). -/
def Region.dies (rg : Region) : List Nat := bitsOf (nbits (natAt rg.desc 0x28 8) 43 40) 4
/-- The die that serves a fragment (R109). -/
def Region.dieOf (rg : Region) (f : Nat) : Nat := rg.dies.getD (f % max 1 rg.dies.length) 0

/-- The 64 header bytes of a fragment (R111). -/
def Frag.header (fr : Frag) : List Byte :=
  leBytes 4 (fr.st + (if fr.poison then 8 else 0)) ++ leBytes 4 fr.round ++ leBytes 8 fr.nsq ++ leBytes 4 fr.dmax.toNat
    ++ leBytes 4 fr.merges ++ leBytes 8 fr.sentAt ++ List.replicate 32 0

/-- A fragment. -/
def Region.frag (rg : Region) (f : Nat) : Frag :=
  (rg.frags.find? (fun x => x.f == f)).getD ⟨f, 0, false, 0, false, 0, 0, 0, 0, 0⟩

/-- One write by a Spindle or a Batten, delivered at its home; or it waits. To a page that is mapped no longer it does nothing. -/
def dieWrite (cf : Conf) (m : Mach) (rg : Region) (die : Nat) (g : DieAgent) (a : Nat) (bs : List Byte) : Bool × Mach :=
  match agentWrite1 cf m (.die die g) (.agent die g) rg.p rg.x .batten true a bs with
  | (.wait, m) => (false, m)
  | (_, m) => (true, m)

/-- Changing a fragment, its header in the staging area with it, unless that write must wait: whichever of the header's first two 16-byte units differs is written, and no
change of one fragment is made in both at once (R66, R111). -/
def Mach.setFrag (m : Mach) (cf : Conf) (rg : Region) (fr : Frag) : Bool × Mach :=
  let k := if fr.header.take 16 = (rg.frag fr.f).header.take 16 then 16 else 0
  match dieWrite cf m rg (rg.dieOf fr.f) .batten (rg.staging fr.f + k) (bytesAt fr.header k 16) with
  | (false, m) => (false, m)
  | (true, m) => (true, m.updRegion rg.r (fun r => { r with frags := r.frags.map (fun x => if x.f = fr.f then fr else x) }))

/-- STG of WINCNT (R119). -/
def Region.stg (rg : Region) : Bool := rg.frags.any (fun f => f.st == 2)
/-- PASS of WINCNT (R119). -/
def Region.pass (rg : Region) : Bool := !rg.passing.isEmpty

/-- A pass begins when CNT is zero with STG set and no pass running: the STAGED fragments of that step are those it
will apply (R124 steps 1 and 2). -/
def Mach.startPass (m : Mach) (r : Nat) : Mach :=
  match m.region? r with
  | none => m
  | some rg =>
    if rg.cnt = 0 ∧ rg.stg ∧ !rg.pass then
      m.updRegion r (fun rg => { rg with passing := (rg.frags.filter (fun f => f.st == 2)).map Frag.f, passAt := ⟨0, 0, ⟨0, [], []⟩⟩ })
    else m

/-- Closing d windows of a region (R124 step 3, R127). -/
def Mach.closeWindows (m : Mach) (leafPt : Point) (r d : Nat) : Mach :=
  let m := m.drain leafPt 3
  (m.updRegion r (fun rg => { rg with cnt := rg.cnt - d })).startPass r

/-- Closing every window a fibre holds (R127). -/
def Mach.closeAll (m : Mach) (p x : Nat) (f : Fibre) : Mach :=
  (List.range 8).foldl (fun m k =>
    let d := f.depths.getD k 0
    if d = 0 then m
    else match (match m.regionOf p x k with
        | some rg => some rg
        | none => m.regions.find? (fun rg => rg.p == p && rg.left.any (fun b => b == (x, k)))) with
      | some rg => m.closeWindows (.group f.ref.t f.ref.g) rg.r d
      | none => m) m

end Sys2Proof.Machine
end

