-- ==== Sys2Proof/Machine/HandleTable.lean ====
section
/-!
DEFINITION. The handle resolution table (R347): entries and generations, a handle becoming DONE or BROKEN, entries freed (R350, R353, R354).
-/
namespace Sys2Proof.Machine

/-- An entry of a partition's table. -/
def Mach.hent? (m : Mach) (p idx : Nat) : Option HEnt := m.hents.find? (fun e => e.part == p && e.idx == idx)
/-- Changing an entry. -/
def Mach.updHent (m : Mach) (p idx : Nat) (f : HEnt → HEnt) : Mach :=
  { m with hents := m.hents.map (fun e => if e.part = p ∧ e.idx = idx then f e else e) }
/-- The generation an entry's next allocation takes (R347, R354); 29 bits. -/
def Mach.hgen (m : Mach) (p idx : Nat) : Nat := smGet 0 m.hgens (p * 16384 + idx)
/-- The lowest free entry (R349). -/
def Mach.freeEntry (m : Mach) (p : Nat) : Option Nat := (List.range 16384).find? (fun i => (m.hent? p i).isNone)

/-- Freeing an entry: its generation advances (R354). -/
def Mach.freeHent (m : Mach) (p idx : Nat) : Mach :=
  match m.hent? p idx with
  | none => m
  | some _ => { m with
    hents := m.hents.filter (fun e => !(e.part == p && e.idx == idx))
    hgens := smSet 0 m.hgens (p * 16384 + idx) ((m.hgen p idx + 1) % 2 ^ 29) }

/-- The 64-bit value of a handle (R347). -/
def handleWord (h : Handle) : DWord := BitVec.ofNat 64 (h.home * 2 ^ 51 + h.index * 2 ^ 37 + h.gen * 2 ^ 8 + 1)
/-- The handle of a 64-bit value, none when V is 0 (R347). -/
def handleOf (w : Nat) : Option Handle := if nbit w 0 then some ⟨nbits w 63 51, nbits w 50 37, nbits w 36 8⟩ else none

/-- Whether a state is final. -/
def isFinal : HState → Bool
  | .done _ => true
  | .broken _ _ => true
  | _ => false

/-- A result entry of this device is freed, once its invocation has ended (R354). -/
def Mach.freeResult (m : Mach) (p idx : Nat) : Mach :=
  match m.hent? p idx with
  | some e => if isFinal e.st then m.freeHent p idx else m.updHent p idx (fun e => { e with freeing := true })
  | none => m

/-- A home entry is freed with its result entry, here or at its result device (R354). -/
def Mach.freeHome (m : Mach) (dev p : Nat) (e : HEnt) : Mach :=
  let m := m.freeHent p e.idx
  match e.place with
  | some (d, r) => if d = dev then m.freeResult p r else { m with net := m.net ++ [.freed d p r] }
  | none => m

/-- The home entry of a handle takes a state; a free that waited happens once the state is final (R347, R353, R354). -/
def Mach.homeState (m : Mach) (dev p : Nat) (h : Handle) (st : HState) : Mach :=
  match m.hent? p h.index with
  | none => m
  | some e =>
    if e.gen = h.gen ∧ !e.result ∧ !isFinal e.st then
      let e := { e with st := st, place := match st with
        | .placed d r => some (d, r)
        | _ => e.place }
      let m := m.updHent p h.index (fun _ => e)
      if isFinal st && e.freeing then m.freeHome dev p e else m
    else m

/-- A state reaches the handle's home: at once on this device, else by a message. -/
def Mach.tellHome (m : Mach) (dev p : Nat) (h : Handle) (st : HState) : Mach :=
  if h.home = dev then m.homeState dev p h st else { m with net := m.net ++ [.handle h.home p h st] }

/-- The invocation of a result entry ends with a state: the entry keeps it, the home is told, the invocation is over (R353). -/
def Mach.endInvocation (m : Mach) (dev p entry : Nat) (st : HState) : Mach :=
  match m.hent? p entry with
  | none => m
  | some e =>
    let m := m.updHent p entry (fun e => { e with st := st })
    let m := { m with invq := m.invq.filter (fun q => !(q.inv.part == p && q.entry == some entry)) }
    let m := m.tellHome dev p e.handle st
    if e.freeing then m.freeHent p entry else m

/-- The entries of a launch are freed when it completes, each once its invocation has finished (R347). -/
def Mach.freeLaunch (m : Mach) (dev p l : Nat) : Mach :=
  (m.hents.filter (fun e => e.part == p && !e.result && e.launch == l)).foldl (fun m e =>
    if isFinal e.st then m.freeHome dev p e else m.updHent p e.idx (fun e => { e with freeing := true })) m

end Sys2Proof.Machine
end

