-- ==== Sys2Proof/Machine/Operands.lean ====
section
/-!
DEFINITION. What an instruction names and how it issues: the registers it reads and writes (R39, R168, R213, R214), the latches it reads (R222),
whether it is effectful (R151), whether it ends its run (R220), the commands that roles restrict (R155), and the values its operands give
per lane (R231).
-/
namespace Sys2Proof.Machine

/-! ### Registers an instruction names -/

/-- The registers of a source field. -/
def srcRegs : Src → List Nat
  | .v n => [n]
  | .lat _ => []
/-- The latches of a source field. -/
def srcLats : Src → List Nat
  | .v _ => []
  | .lat k => [k]
/-- The register of a destination field. -/
def dstRegs : Dst → List Nat
  | .v n => [n]
  | .nw => []
/-- The register an accumulating instruction reads through D: v0 with n = 1 (R236). -/
def accReg : Dst → Nat
  | .v n => n
  | .nw => 0
/-- A pair (R214). -/
def pairRegs (n : Nat) : List Nat := [n, n + 1]
/-- A quad (R214). -/
def quadRegs (n : Nat) : List Nat := [n, n + 1, n + 2, n + 3]
/-- A triple (R266). -/
def tripRegs (n : Nat) : List Nat := [n, n + 1, n + 2]
/-- A pair destination. -/
def dstPair : Dst → List Nat
  | .v n => pairRegs n
  | .nw => []
/-- A quad destination. -/
def dstQuad : Dst → List Nat
  | .v n => quadRegs n
  | .nw => []
/-- A triple destination. -/
def dstTrip : Dst → List Nat
  | .v n => tripRegs n
  | .nw => []
/-- The registers of a memory operand of a size (R271). -/
def sizeRegs (sz : Size) (n : Nat) : List Nat :=
  match sz with
  | .w | .b => [n]
  | .d => pairRegs n
  | .q => quadRegs n
/-- The registers of a store's data (R271). -/
def dataRegs (sz : Size) : Src → List Nat
  | .v n => sizeRegs sz n
  | .lat _ => []
/-- The registers an atomic reads through D (R275). -/
def atomIn (op : AtomOp) (dbl : Bool) (d : Nat) : List Nat :=
  match op, dbl with
  | .cas, false => pairRegs d
  | .cas, true => quadRegs d
  | _, false => [d]
  | _, true => pairRegs d
/-- The registers an atomic writes (R275). -/
def atomOut (dbl : Bool) (d : Nat) : List Nat := if dbl then pairRegs d else [d]

/-- Registers read, registers written, latches read. -/
structure Use where
  rd : List Nat
  wr : List Nat
  lats : List Nat
deriving DecidableEq, Repr

/-- Reading two source fields and writing a destination. -/
def use2 (d : List Nat) (a b : Src) : Use := ⟨srcRegs a ++ srcRegs b, d, srcLats a ++ srcLats b⟩
/-- Reading one source field and writing a destination. -/
def use1 (d : List Nat) (a : Src) : Use := ⟨srcRegs a, d, srcLats a⟩
/-- An accumulating instruction of two source fields: it also reads D. -/
def use2acc (d : Dst) (a b : Src) : Use := ⟨srcRegs a ++ srcRegs b ++ [accReg d], dstRegs d, srcLats a ++ srcLats b⟩
/-- Registers only. -/
def useRegs (rd wr : List Nat) : Use := ⟨rd, wr, []⟩

/-- What the V-set lane instructions of R237–R257 name. -/
def useLane : Instr → Use
  | .iadd _ d a b | .isub _ d a b | .imul _ d a b => use2 (dstRegs d) a b
  | .imad _ d a b => use2acc d a b
  | .imulh _ d a b | .imin _ d a b | .imax _ d a b => use2 (dstRegs d) a b
  | .isad _ d a b => use2acc d a b
  | .and d a b | .or d a b | .xor d a b | .andn d a b | .shl d a b | .shr d a b | .sar d a b | .rol d a b => use2 (dstRegs d) a b
  | .popc d a | .clz d a | .brev d a => use1 (dstRegs d) a
  | .bfx _ d a b => use2 (dstRegs d) a b
  | .bfi d a b => use2acc d a b
  | .icmp _ _ a b | .icmpu _ _ a b | .fcmp _ _ a b => use2 [] a b
  | .sel _ d a b => use2 (dstRegs d) a b
  | .iaddi d a _ | .andi d a _ | .ori d a _ | .xori d a _ | .shifti _ d a _ => use1 (dstRegs d) a
  | .mov .mov d a => use1 (dstRegs d) a
  | .mov .fromc d _ => useRegs [] (dstRegs d)
  | .mov .toc _ a => use1 [] a
  | .iadd64 d a b => useRegs (pairRegs a ++ pairRegs b) (dstPair d)
  | .fadd _ d a b | .fsub _ d a b | .fmul _ d a b | .fmin _ d a b | .fmax _ d a b => use2 (dstRegs d) a b
  | .ffma _ d a b | .ffms _ d a b | .fnma _ d a b | .dot2 _ d a b => use2acc d a b
  | .fsign .copysign d a b => use2 (dstRegs d) a b
  | .fsign _ d a _ => use1 (dstRegs d) a
  | .cvt _ d a _ | .cvts _ d a _ | .frnd _ d a => use1 (dstRegs d) a
  | .rcp d a | .rsq d a | .sqrt d a | .ex2 d a | .lg2 d a | .sin d a | .cos d a | .tanh d a => use1 (dstRegs d) a
  | .fscale d a b | .pack _ d a b => use2 (dstRegs d) a b
  | .fxtr _ d a | .unpk _ d a _ | .cbx d a _ => use1 (dstRegs d) a
  | .cbq d a _ => ⟨srcRegs a ++ [accReg d], dstRegs d, srcLats a⟩
  | .shfl _ d a b => use2 (dstRegs d) a b
  | .vote .ballot d _ => useRegs [] (dstRegs d)
  | .vote _ _ _ => useRegs [] []
  | .sredi _ d a | .sredf _ d a | .sscan _ _ d a | .matchS _ d a => use1 (dstRegs d) a
  | .prmt d a b => use2acc d a b
  | .firstl d _ => useRegs [] (dstRegs d)
  | .tment _ d a => use1 (dstTrip d) a
  | .tmacc _ d a => ⟨srcRegs a ++ tripRegs (accReg d), dstTrip d, srcLats a⟩
  | .tmmrg d a b => useRegs (tripRegs a ++ tripRegs b) (dstTrip d)
  | .tmsred d a => useRegs (tripRegs a) (dstTrip d)
  | .tmexit d a => useRegs (tripRegs a) (dstRegs d)
  | _ => useRegs [] []

/-- What the V-set memory and control instructions name (R271, R275, R285). -/
def useMem : Instr → Use
  | .ld sz _ d a _ => useRegs (pairRegs a) (sizeRegs sz d)
  | .st sz _ d a _ => ⟨pairRegs a ++ dataRegs sz d, [], srcLats d⟩
  | .lds sz _ d a _ | .ldfe sz _ d a _ | .ldfet sz _ d a _ => use1 (sizeRegs sz d) a
  | .sts sz _ d a _ | .stfe sz _ d a _ => ⟨srcRegs a ++ dataRegs sz d, [], srcLats a ++ srcLats d⟩
  | .atom op _ dbl d a => useRegs (pairRegs a ++ atomIn op dbl d) (atomOut dbl d)
  | .atoms op _ dbl d a => ⟨srcRegs a ++ atomIn op dbl d, atomOut dbl d, srcLats a⟩
  | .pref _ a _ => useRegs (pairRegs a) []
  | .brx a _ | .retx a => useRegs (pairRegs a) []
  | .callx d a _ => useRegs (pairRegs a) (pairRegs d)
  | .fork _ a b => ⟨pairRegs a ++ srcRegs b, [], srcLats b⟩
  | .jmset .fib _ _ => useRegs [] []
  | .jmset _ _ a => use1 [] a
  | .limm d _ => useRegs [] (dstRegs d)
  | _ => useRegs [] []

/-- What the U-set scalar, control, synchronisation and system instructions name (R279–R303). -/
def useU : Instr → Use
  | .uadd _ d a b | .usub _ d a b | .umul _ d a b => use2 (dstRegs d) a b
  | .umad _ d a b => use2acc d a b
  | .umulh _ d a b | .umin _ d a b | .umax _ d a b => use2 (dstRegs d) a b
  | .uand d a b | .uor d a b | .uxor d a b | .ushl d a b | .ushr d a b | .usar d a b => use2 (dstRegs d) a b
  | .upopc d a | .uclz d a => use1 (dstRegs d) a
  | .ucmp _ _ a b | .ucmpu _ _ a b => use2 [] a b
  | .usel _ d a b => use2 (dstRegs d) a b
  | .uaddi d a _ | .uandi d a _ | .uori d a _ | .ushifti _ d a _ => use1 (dstRegs d) a
  | .umov .mov d a => use1 (dstRegs d) a
  | .umov .fromc d _ => useRegs [] (dstRegs d)
  | .umov .toc _ a => use1 [] a
  | .uadd64 d a b => useRegs (pairRegs a ++ pairRegs b) (dstPair d)
  | .ucall _ => useRegs [] (pairRegs 2)
  | .uret a => useRegs (pairRegs a) []
  | .udbnz d _ => useRegs [accReg d] (dstRegs d)
  | .barinit _ a | .barwait _ a | .swr _ a => use1 [] a
  | .bararr d _ | .bararw d _ => useRegs [] (dstRegs d)
  | .cwait _ d a b => useRegs (pairRegs a ++ pairRegs b) (dstPair d)
  | .cwaitt _ d a b => useRegs (pairRegs a ++ quadRegs b) (dstPair d)
  | .cinc _ d a b => ⟨pairRegs a ++ srcRegs b, dstPair d, srcLats b⟩
  | .srd d n => useRegs [] (if n = 0x12 then dstPair d else dstRegs d)
  | .cbld a | .tmtab a _ => useRegs (pairRegs a) []
  | .ipf a b | .iunpin a b => ⟨pairRegs a ++ srcRegs b, [], srcLats b⟩
  | .ipin d a b => ⟨pairRegs a ++ srcRegs b, dstRegs d, srcLats b⟩
  | .cwb _ _ a b => ⟨pairRegs a ++ srcRegs b, [], srcLats b⟩
  | .tstat d _ => useRegs [] (quadRegs d)
  | .ulimm d _ => useRegs [] (dstRegs d)
  | _ => useRegs [] []

/-- What the U-set engine, fabric, invocation and plane-pair instructions name (R304–R358). The registers an MMA's B operand names are not
checked at issue (R308). -/
def useCmd : Instr → Use
  | .mma _ a _ _ => use1 [] a
  | .drain _ _ a _ | .tcopy _ _ a | .tcopyColl a | .dcjob _ a | .xsort a => use1 [] a
  | .rrot _ a b => use2 [] a b
  | .xput a b | .xget a b => useRegs (quadRegs a ++ quadRegs b) []
  | .xarm a b => ⟨srcRegs a ++ quadRegs b, [], srcLats a⟩
  | .xdisarm b => use1 [] b
  | .rinv d a => use1 (dstPair d) a
  | .rinvh d a b => ⟨srcRegs a ++ pairRegs b, dstPair d, srcLats a⟩
  | .hwait _ d a b => useRegs (pairRegs a ++ pairRegs b) (dstPair d)
  | .hstat d a => useRegs (pairRegs a) (dstPair d)
  | .hfree a => useRegs (pairRegs a) []
  | .iwait d a b => use2 (dstPair d) a b
  | .idone fail a b => if fail then use1 [] a else use2 [] a b
  | .pmerge d _ => useRegs [] (dstRegs d)
  | .pstat d a _ => use1 (dstQuad d) a
  | .ptrick d a _ => use1 (dstRegs d) a
  | .dchk d _ => useRegs [] (dstPair d)
  | _ => useRegs [] []

/-- Everything an instruction names: the four tables are of disjoint instructions. -/
def instrUse (i : Instr) : Use :=
  let a := useLane i
  let b := useMem i
  let c := useU i
  let d := useCmd i
  ⟨a.rd ++ b.rd ++ c.rd ++ d.rd, a.wr ++ b.wr ++ c.wr ++ d.wr, a.lats ++ b.lats ++ c.lats ++ d.lats⟩

/-- The registers WINDOW is checked for: those named, and those a trailer names (R39, R223). -/
def windowRegs (i : Instr) : List Nat :=
  match i with
  | .trl _ rs => rs
  | i => (instrUse i).rd ++ (instrUse i).wr

/-! ### How an instruction issues -/

/-- The effectful instructions (R151). -/
def effectful : Instr → Bool
  | .halt => true
  | .barinit _ _ | .bararr _ _ | .barwait _ _ | .bararw _ _ | .cwait _ _ _ _ | .cwaitt _ _ _ _ | .cinc _ _ _ _ | .fence _ _ | .fwait _
  | .clubar _ => true
  | .swr _ _ | .cbld _ | .tmshp _ | .tmtab _ _ | .ipf _ _ | .ipin _ _ _ | .iunpin _ _ | .cwb _ _ _ _ => true
  | .mma _ _ _ _ | .accz _ | .drain _ _ _ _ | .tcopy _ _ _ | .tcopyColl _ | .dcjob _ _ | .rrot _ _ _ | .xsort _ | .prolog _ => true
  | .xput _ _ | .xget _ _ | .xarm _ _ | .xdisarm _ | .rinv _ _ | .rinvh _ _ _ | .hwait _ _ _ _ | .hstat _ _ | .hfree _ | .iwait _ _ _
  | .idone _ _ _ => true
  | .wopen _ | .wclose _ | .pmerge _ _ | .pstat _ _ _ | .ptrick _ _ _ | .dchk _ _ => true
  | _ => false

/-- The instructions that end their run for every lane (R220). -/
def endsRun : Instr → Bool
  | .trl _ _ | .ujmp _ | .ucall _ | .uret _ | .brx _ _ | .callx _ _ _ | .retx _ | .fork _ _ _ | .fend | .join _ | .yield | .halt | .trap _
  | .eret => true
  | _ => false

/-- The bytes an instruction takes in memory (R218). -/
def instrLen : Instr → Nat
  | .limm _ _ | .ulimm _ _ => 8
  | _ => 4

/-- The role class of a command (R155). -/
inductive RoleClass where
  | any | copy | dcmp | exch | matrix
deriving DecidableEq, Repr

/-- The role class of an instruction (R155, R307, R336). -/
def roleClass : Instr → RoleClass
  | .tcopy _ _ _ | .prolog _ | .rrot _ _ _ => .copy
  | .dcjob _ _ => .dcmp
  | .xput _ _ | .xget _ _ | .xarm _ _ | .xdisarm _ | .xsort _ | .tcopyColl _ => .exch
  | .mma _ _ _ _ | .accz _ | .drain _ _ _ _ => .matrix
  | _ => .any

/-- Whether a role may issue a class of commands: MIXED 0, COPY 1, MATRIX 2, VECTOR 3 (R155). -/
def roleMay (role : Nat) (k : RoleClass) : Bool :=
  match k with
  | .any => true
  | .matrix => role == 0 || role == 2
  | _ => role == 0 || role == 1

/-! ### Values per lane -/

/-- The value an accumulating instruction reads through D (R236). -/
def Mach.addend (m : Mach) (c : Ctx) (d : Dst) (i : Nat) : Word := m.v c (accReg d) i

/-- Writes of one value per lane to a destination, none with n = 1 (R222, R231). -/
def dstWrites (d : Dst) (vals : List (Nat × Word)) : List (Nat × Nat × Word) :=
  match d with
  | .v n => vals.map (fun p => (n, p.1, p.2))
  | .nw => []

/-- The low word of 64 bits. -/
def lo32 (x : DWord) : Word := x.setWidth 32
/-- The high word of 64 bits. -/
def hi32 (x : DWord) : Word := (x >>> 32).setWidth 32

/-- Writes of 64 bits per lane to a pair destination. -/
def pairWrites (d : Dst) (vals : List (Nat × DWord)) : List (Nat × Nat × Word) :=
  match d with
  | .v n => vals.flatMap (fun p => [(n, p.1, lo32 p.2), (n + 1, p.1, hi32 p.2)])
  | .nw => []

/-- The same value in every lane of P. -/
def Ctx.each {α : Type} (c : Ctx) (x : α) : List (Nat × α) := c.lanes.map (fun i => (i, x))

/-- The section set S(i) (R154, R259). -/
def Ctx.sect (c : Ctx) (i : Nat) : List Nat := c.lanes.filter (fun j => decide (j / 2 ^ c.g.sect = i / 2 ^ c.g.sect))

/-- Whether a value is one of a list of registers made physical (R39). -/
def Ctx.phys (c : Ctx) (rs : List Nat) : List Nat := rs.map (fun r => c.f.base + r)

end Sys2Proof.Machine
end

