-- ==== Sys2Proof/Machine/Ops.lean ====
section
/-!
DEFINITION. The shared operations of issue: runs and latches (R220–R222), waits, outstanding results (R168), the end of a group and of a launch
(R172, R283), taking a trap (R170–R172) and returning from one (R173), and the order of faults at issue (R216).
-/
namespace Sys2Proof.Machine

/-! ### Ports and runs -/

/-- The deficit counter of a context at a port; one it does not keep is 0 (R166). -/
def Port.deficit (po : Port) (x : Nat) : Int := ((po.dc.find? (fun p => p.1 == x)).map Prod.snd).getD 0
/-- Setting a deficit counter. -/
def Port.setDeficit (po : Port) (x : Nat) (v : Int) : Port := { po with dc := (x, v) :: po.dc.filter (fun p => p.1 != x) }

/-- The core and quadrant of a group. -/
def Mach.seat (m : Mach) (t g : Nat) : Nat × Nat := (((m.team? t).map Team.core).getD 0, quadOf g)

/-- The context number of a team. -/
def Mach.teamCtx (m : Mach) (t : Nat) : Nat := (((m.team? t).bind (fun tm => m.launch? tm.l)).map Launch.x).getD 0

/-- The partition of a team. -/
def Mach.teamPart (m : Mach) (t : Nat) : Option Nat := ((m.team? t).bind (fun tm => m.launch? tm.l)).map Launch.p

/-- A run ends or yields: its port is free and its tenant is charged the positions issued, `k` of them now (R166). -/
def Mach.leavePort (m : Mach) (r : FRef) (k : Nat) : Mach :=
  let se := m.seat r.t r.g
  let po := m.port se.1 se.2
  match po.run with
  | some pr =>
    if pr.ref = r then
      let x := m.teamCtx r.t
      ((m.setPort { (po.setDeficit x (po.deficit x - (pr.n + k : Nat))) with run := none }).updGroup r.t r.g (fun g =>
        { g with ready := m.cyc })).count (dieOfCore se.1) 2 (m.teamPart r.t) k
    else m
  | none => m

/-- One more position issued by the run a port holds. -/
def Mach.bumpPort (m : Mach) (r : FRef) : Mach :=
  let se := m.seat r.t r.g
  let po := m.port se.1 se.2
  match po.run with
  | some pr =>
    if pr.ref = r then (m.setPort { po with run := some { pr with n := pr.n + 1 } }).count (dieOfCore se.1) 2 (m.teamPart r.t) 1 else m
  | none => m

/-- The groups resident in a quadrant of a core that have not ended. -/
def Mach.quadGroups (m : Mach) (core quad : Nat) : List Group :=
  m.groups.filter (fun g => !g.ended && quadOf g.g == quad &&
    (m.team? g.t).any (fun tm => tm.core == core && (m.cluster? tm.c).any (fun cl => cl.pre != .saved)))

/-- A port drops the counters of contexts it holds no group of (R166). -/
def Mach.dropCounters (m : Mach) (core quad : Nat) : Mach :=
  let po := m.port core quad
  let res := (m.quadGroups core quad).map (fun g => m.teamCtx g.t)
  m.setPort { po with dc := po.dc.filter (fun d => res.contains d.1) }

/-- A group moves to the pending set, when more than 8 groups are resident in its quadrant (R169). -/
def Mach.toPending (m : Mach) (t g : Nat) : Mach :=
  let se := m.seat t g
  if 8 < (m.quadGroups se.1 se.2).length then (m.updGroup t g (fun x => { x with active := false })).count (dieOfCore se.1) 3 (m.teamPart t) 1 else m

/-! ### Latches (R221, R222) -/

/-- Setting a latch in the lanes of a predicate: the given values, zero in its other lanes. A result still outstanding for it is
discarded for the latch. -/
def Mach.setLatch (m : Mach) (r : FRef) (k : Nat) (p : Word) (vals : List (Nat × Word)) : Mach :=
  { m with
    lats := (lanesOf p).foldl (fun l i =>
      smSet 0 l (latKey r.t r.g k i) (((vals.find? (fun v => v.1 == i)).map Prod.snd).getD 0)) m.lats
    latErr := mended m.latErr ((lanesOf p).map (latKey r.t r.g k))
    outst := m.outst.map (fun o =>
      if o.ref = r ∧ o.latch.any (fun l => l.1 == k) then { o with latch := none } else o) }

/-- All latches of the lanes of a predicate read zero; outstanding results no longer reach them (R222). -/
def Mach.clearLatches (m : Mach) (r : FRef) (p : Word) : Mach :=
  { m with
    lats := (List.range 8).foldl (fun l k => (lanesOf p).foldl (fun l i => smSet 0 l (latKey r.t r.g k i) 0) l) m.lats
    latErr := mended m.latErr ((List.range 8).flatMap (fun k => (lanesOf p).map (latKey r.t r.g k)))
    outst := m.outst.map (fun o => if o.ref = r then { o with latch := none } else o) }

/-- A long-latency result (R168): register writes by code, and the value its latch will take. -/
def Mach.addOutst (m : Mach) (c : Ctx) (ws : List (Nat × Nat × Word)) (lat : List (Nat × Word)) : Mach :=
  let k := c.f.pos % 8
  { m with
    fresh := m.fresh + 1
    outst := m.outst.map (fun o => if o.ref = c.f.ref ∧ o.latch.any (fun l => l.1 == k) then { o with latch := none } else o)
      ++ [⟨m.fresh, c.f.ref, ws.map (fun w => (c.f.base + w.1, w.2.1, w.2.2)), some (k, lat)⟩] }

/-- An outstanding result is written: its registers, and its latch in the lanes that still await it (R168, R221). -/
def Mach.deliverOutst (m : Mach) (o : Outst) : Mach :=
  { m with
    outst := m.outst.filter (fun x => x.id != o.id)
    regs := o.regs.foldl (fun r w => smSet 0 r (regKey o.ref.t o.ref.g w.1 w.2.1) w.2.2) m.regs
    regErr := mended m.regErr (o.regs.map (fun w => regKey o.ref.t o.ref.g w.1 w.2.1))
    lats := match o.latch with
      | some (k, vs) => vs.foldl (fun l v => smSet 0 l (latKey o.ref.t o.ref.g k v.1) v.2) m.lats
      | none => m.lats }

/-! ### Hazards (R168, R312) -/

/-- Whether an outstanding result is to one of some physical registers of a group. -/
def Mach.regBusy (m : Mach) (t g : Nat) (rs : List Nat) : Bool :=
  m.outst.any (fun o => o.ref.t == t && o.ref.g == g && o.regs.any (fun w => rs.contains w.1))

/-- Whether one of some latches of a fibre awaits a result. -/
def Mach.latBusy (m : Mach) (r : FRef) (ks : List Nat) : Bool :=
  m.outst.any (fun o => o.ref == r && o.latch.any (fun l => ks.contains l.1))

/-- Whether an instruction of a fibre must yield (R168, R222). -/
def Mach.hazard (m : Mach) (f : Fibre) (i : Instr) : Bool :=
  let u := instrUse i
  m.regBusy f.ref.t f.ref.g ((u.rd ++ u.wr).map (fun r => f.base + r)) || m.latBusy f.ref u.lats

/-- The element width of a format slot's format, in bits (R189). -/
def fmtBits (slot : Nat) : Nat :=
  match nbits slot 7 0 with
  | 1 => 32
  | 2 => 16
  | 3 => 16
  | 8 => 6
  | 9 => 6
  | 0x0A => 4
  | 0x0D => 4
  | 0x0E => 4
  | 0x0F => nbits slot 11 8
  | _ => 8

/-- Whether a format may be an MMA operand (R189). -/
def fmtMma (slot : Nat) : Bool := decide (2 ≤ nbits slot 7 0) && decide (nbits slot 7 0 ≤ 0x0F)

/-- The physical registers an accepted MMA holds, of the groups of its quad (R310, R312): first register and count. -/
def heldRange (rc : LRec) (blk : List Byte) (b base : Nat) : Nat × Nat :=
  (base + b, nbits (natAt blk 8 4) 4 0 * fmtBits (rc.fmts.getD (nbits (natAt blk 8 4) 14 12) 0))

/-- Whether an accepted MMA of a team holds one of some physical registers of a group (R312). -/
def Mach.heldIn (m : Mach) (rc : LRec) (t g : Nat) (rs : List Nat) : Bool :=
  m.ops.any (fun o =>
    o.t == t &&
    match o.cmd with
    | .mma _ blk b _ base _ =>
      let h := heldRange rc blk b base
      g / 4 == nbits (natAt blk 8 4) 11 8 && rs.any (fun r => decide (h.1 ≤ r) && decide (r < h.1 + h.2))
    | _ => false)

/-- The same of the issuing group's registers. -/
def Mach.heldReg (m : Mach) (c : Ctx) (rs : List Nat) : Bool := m.heldIn c.rc c.tm.t c.g.g rs

/-- Whether an outstanding result is to a register that an MMA holds: an instruction that waited when the MMA was accepted has completed since (R312). -/
def Mach.outstHeld (m : Mach) (o : Outst) : Bool :=
  match ((m.team? o.ref.t).bind (fun tm => m.launch? tm.l)).bind Launch.rec_ with
  | some rc => m.heldIn rc o.ref.t o.ref.g (o.regs.map Prod.fst)
  | none => false

/-- Delivering every outstanding result a fibre's latches await; one whose registers an MMA holds reaches its latch alone. -/
def Mach.settleLatches (m : Mach) (r : FRef) : Mach :=
  (m.outst.filter (fun o => o.ref == r && o.latch.isSome)).foldl (fun m o =>
    if m.outstHeld o then
      let m' := m.deliverOutst { o with regs := [] }
      { m' with outst := m.outst.map (fun x => if x.id = o.id then { x with latch := none } else x) }
    else m.deliverOutst o) m

/-! ### Readiness -/

/-- Whether the writes a trailer awaits have completed (R223). -/
def Mach.awaitDone (m : Mach) (f : Fibre) : Bool :=
  match f.trl with
  | none => true
  | some rs => !m.outst.any (fun o => o.ref == f.ref && o.regs.any (fun w => rs.contains w.1))

/-- Whether an instruction is a command to an engine, or a load of the group's codebook or of a table pair: until it has completed its issue the group
issues nothing further (R299, R300, R304). -/
def isCommand (i : Instr) : Bool :=
  match i with
  | .mma _ _ _ _ | .accz _ | .drain _ _ _ _ | .tcopy _ _ _ | .tcopyColl _ | .dcjob _ _ | .rrot _ _ _ | .prolog _ | .xput _ _ | .xget _ _ | .xarm _ _ | .xdisarm _
  | .xsort _ | .cbld _ | .tmtab _ _ => true
  | _ => false

/-- Whether a wait holds its whole group (R18, R299, R300, R304, R305, R312); a run that yields before its instruction issues does not (R168). -/
def Wait.holds (w : Wait) : Bool :=
  match w.why with
  | .missRoom _ | .engine _ _ _ | .heldReg => true
  | .yield => false
  | _ => isCommand w.i

/-- Whether a fibre keeps its group from issuing anything else: by what it waits for, or with a command that has waited and goes on (R299, R300, R304). -/
def Fibre.holds (f : Fibre) : Bool := !f.susp && (f.asked || f.wait.any Wait.holds)

/-- Whether a fibre of a group keeps the group from issuing. -/
def Mach.groupHeld (m : Mach) (t g : Nat) : Bool := (m.fibresOf t g).any Fibre.holds

/-- Whether another fibre of its group keeps a fibre from issuing, or a handler suspends it: a trap of its own is not taken then. -/
def Mach.barred (m : Mach) (f : Fibre) : Bool := f.susp || (m.fibresOf f.ref.t f.ref.g).any (fun x => x.ref != f.ref && x.holds)

/-- Whether an instruction of a group waits on translation, or has its walks' results and not been issued again (R21). -/
def Mach.onWalk (m : Mach) (t g : Nat) : Bool :=
  (m.fibresOf t g).any (fun f => !f.susp && (!f.xl.isEmpty || f.wait.any (fun w => match w.why with
    | .missRoom _ | .xlate _ => true
    | _ => false)))

/-- Whether a fibre may begin or resume a run (R168, R172, R176): in a cluster being saved, or a launch that has stopped, only a run in progress
goes on. -/
def Mach.fibreReady (m : Mach) (f : Fibre) : Bool :=
  match ctxOf m f.ref with
  | none => false
  | some c =>
    f.wait.isNone && !f.susp && !c.g.ended && c.cl.started && c.cl.pre != .saved &&
      (f.run || (m.awaitDone f && c.cl.pre != .stopping && c.la.stop.isNone))

/-- The ready fibres of a group; while one of its fibres keeps it from issuing, at most that one. -/
def Mach.readyFibres (m : Mach) (t g : Nat) : List Fibre := (m.fibresOf t g).filter (fun f => m.fibreReady f && (f.asked || !m.groupHeld t g))

/-- A group that had no ready fibre before a change counts as ready from now (R167, R169). -/
def Mach.woken (m m0 : Mach) (t g : Nat) : Mach :=
  if (m0.readyFibres t g).isEmpty then m.updGroup t g (fun x => { x with ready := m.cyc }) else m

/-! ### Moving on, waiting -/

/-- The run's position is done: its latch has its value; the fibre goes on at `pc'`, or its run ends there (R220). -/
def Mach.advance (m : Mach) (r : FRef) (pc' : DWord) (ends : Bool) : Mach :=
  match m.fibre? r with
  | none => m
  | some f =>
    if ends || f.pos == 23 then
      ((m.updFibre r (fun f => { f with pc := pc', run := false, pos := 0, wait := none, lpad := none, xl := [], fe := none, drained := false, asked := false })).bumpPort r).leavePort r 0
    else
      (m.updFibre r (fun f => { f with pc := pc', pos := f.pos + 1, wait := none, lpad := none, xl := [], fe := none, drained := false, asked := false })).bumpPort r

/-- Whether a wait ends with the instruction issued again, so that its position is not yet issued (R166). -/
def Why.reissues : Why → Bool
  | .missRoom _ | .xlate _ | .heldReg | .yield | .bank _ _ => true
  | .drain _ again => again
  | _ => false

/-- Whether a wait of an instruction counts towards its limit of time (R45, R90). -/
def Why.counts (i : Instr) : Why → Bool
  | .granule | .count _ _ => true
  | .fabric _ | .drain _ _ => match i with
    | .cwaitt _ _ _ _ => true
    | _ => false
  | _ => false

/-- The fibre waits at an instruction; its port is free (R156, R168). A command that waits holds its group until it has entered (R304). The time it has waited, where kept, counts on in a wait with a limit and is kept through any
other (R46). -/
def Mach.waitAt (m : Mach) (r : FRef) (i : Instr) (why : Why) : Mach :=
  let again := why.reissues || (m.fibre? r).any (fun f => f.fe.isSome)
  (m.updFibre r (fun f =>
    let f := { f with asked := f.asked || (isCommand i && why != Why.yield) }
    if why.counts i then { f with wait := some ⟨i, why, m.cyc - f.fe.getD 0⟩, fe := none } else { f with wait := some ⟨i, why, m.cyc⟩ })).leavePort r
      (if again then 0 else 1)

/-- A waiting instruction is over: the fibre is at the next position. -/
def Mach.passWait (m : Mach) (r : FRef) : Mach :=
  match m.fibre? r with
  | none => m
  | some f =>
    match f.wait with
    | none => m
    | some w => (m.advance r (f.pc + BitVec.ofNat 64 (instrLen w.i)) (endsRun w.i)).woken m r.t r.g

/-- A waiting instruction completes: register writes by code, its latch, the next position. While an MMA holds one of the registers, it waits with its result (R312). -/
def Mach.completeWait (m : Mach) (r : FRef) (ws : List (Nat × Nat × Word)) (lat : List (Nat × Word)) : Mach :=
  match ctxOf m r with
  | none => m
  | some c =>
    match c.f.wait with
    | none => m
    | some w =>
      if m.heldReg c (c.phys (ws.map Prod.fst)) then m.updFibre r (fun f => { f with wait := some { w with why := .kept ws lat } })
      else ((m.wrRegs c ws).setLatch r (c.f.pos % 8) c.f.pred lat).passWait r

/-- A wait that re-issues its instruction ends. -/
def Mach.endWait (m : Mach) (r : FRef) : Mach :=
  (m.updFibre r (fun f => { f with wait := none })).woken m r.t r.g

/-- A wait ends with the instruction issued again; the time it has waited towards a limit counts on (R46). -/
def Mach.askAgain (m : Mach) (r : FRef) : Mach :=
  (m.endWait r).updFibre r (fun f => { f with fe := ((m.fibre? r).bind Fibre.wait).bind (fun w => if w.why.counts w.i then some (m.cyc - w.since) else f.fe) })

/-- The runs of a team that yielded for writes now complete may resume (R168); an MMA may have yielded for another group's (R310). -/
def Mach.endYields (m : Mach) (t : Nat) : Mach :=
  let woke (f : Fibre) : Bool := match f.wait with
    | some ⟨i, .yield, _⟩ => f.ref.t == t && !m.hazard f i
    | _ => false
  let m' := { m with fibres := m.fibres.map (fun f => if woke f then { f with wait := none } else f) }
  ((m.fibres.filter woke).map (fun f => f.ref.g)).eraseDups.foldl (fun n g => n.woken m t g) m'

/-- A fibre that waits, with what it waits for: its cluster is resident and no handler suspends it. -/
def Mach.waiting (m : Mach) (r : FRef) : Option (Ctx × Wait) :=
  match ctxOf m r with
  | none => none
  | some c => if c.f.susp || c.cl.pre == .saved then none else c.f.wait.map (fun w => (c, w))

/-! ### Cluster barriers (R294) -/

/-- The groups a CLUBAR level awaits: (team, group) of the cluster's teams, on one die for `.die`. -/
def Mach.clubarGroups (m : Mach) (c : Nat) (die : Option Nat) : List (Nat × Nat) :=
  (m.teamsOf c).flatMap (fun tm =>
    if die.all (fun d => dieOfCore tm.core == d) then ((m.groupsOf tm.t).filter (fun g => !g.ended)).map (fun g => (g.t, g.g)) else [])

/-- A level's phase completes when every awaited group has arrived: every waiter departs with an acquire of cluster scope. -/
def Mach.clubarLevel (m : Mach) (c : Nat) (die : Option Nat) : Mach :=
  match m.cluster? c with
  | none => m
  | some cl =>
    let b := match die with
      | none => cl.barAll
      | some d => cl.barDie.getD d ⟨[], 0⟩
    if b.arrived.isEmpty || (m.clubarGroups c die).any (fun g => !b.arrived.contains g) then m
    else
      let b' : CluBar := ⟨[], b.phase + 1⟩
      let m := m.updCluster c (fun cl => match die with
        | none => { cl with barAll := b' }
        | some d => { cl with barDie := modAt cl.barDie d (fun _ => b') })
      let ws := m.fibres.filter (fun f =>
        f.wait.any (fun w => w.why == .clubar die.isNone b.phase) &&
        (m.team? f.ref.t).any (fun tm => tm.c == c && die.all (fun d => dieOfCore tm.core == d)))
      ws.foldl (fun m f => (m.invalidate (.group f.ref.t f.ref.g) 2).completeWait f.ref [] []) m

/-- Both levels of a cluster. -/
def Mach.clubarCheck (m : Mach) (c : Nat) : Mach :=
  (m.clubarLevel c none) |> fun m => (List.range 4).foldl (fun m d => m.clubarLevel c (some d)) m

/-! ### Notice of pre-emption (R175) -/

/-- Whether every group of a cluster has returned from its PREEMPT handler or has ended (R175). -/
def Mach.noticed (m : Mach) (c : Nat) : Bool := (m.teamsOf c).all (fun tm => (m.groupsOf tm.t).all (fun g => g.ended || g.preDone))

/-- The clusters that change pre-emption state with one: all of a persistent grid (R175). -/
def Mach.preSet (m : Mach) (l c : Nat) : List Nat :=
  match (m.launch? l).bind Launch.rec_ with
  | some rc => if rc.persist then (m.clusters.filter (fun cl => cl.l == l)).map Cluster.c else [c]
  | none => [c]

/-- The notice ends once every group has returned (R175). -/
def Mach.noticeCheck (m : Mach) (l c : Nat) : Mach :=
  let cs := m.preSet l c
  if cs.all m.noticed then
    cs.foldl (fun m c => m.updCluster c (fun cl => match cl.pre with
      | .notice _ => { cl with pre := .stopping }
      | _ => cl)) m
  else m

/-! ### The end of a group, the stop of a launch (R127, R172, R283) -/

/-- The held invocation of a group breaks (R353). -/
def Mach.breakHeld (m : Mach) (cf : Conf) (t g cause : Nat) : Mach :=
  match m.group? t g, (m.team? t).bind (fun tm => m.launch? tm.l) with
  | some gr, some la =>
    match gr.held with
    | some e => (m.endInvocation cf.device.toNat la.p e (.broken cause 0)).updGroup t g (fun x => { x with held := none })
    | none => m
  | _, _ => m

/-- What a device has checked for an instruction, or holds to check, is forgotten (R19). -/
def Mach.forget (m : Mach) (src xid : Nat) : Mach :=
  { m with
    vows := m.vows.filter (fun v => !(v.src == src && v.xid == xid))
    parked := m.parked.filter (fun r => !(r.src == src && r.xid == xid && r.phase != .whole)) }

/-- An instruction performs nothing of what its targets have checked: they are told (R19, R23). -/
def Mach.dropChecks (m : Mach) (dev : Nat) (p : FabPend) : Mach :=
  if p.phase = .whole then m
  else
    let devs := (p.asks.filterMap (fun q => match q.2 with
      | .fab d _ => some d
      | .here _ _ => none)).eraseDups
    { (m.forget dev p.xid) with
      net := m.net ++ (devs.filter (fun d => d != dev)).map (fun d => .access ⟨dev, d, p.xid, (m.teamPart p.ref.t).getD 0, [], .drop, false⟩) }

/-- What a group has asked of other devices is given up; atomics that every target has accepted are still performed, all of them (R19). -/
def Mach.endAsks (m : Mach) (dev t g : Nat) : Mach :=
  let mine (p : FabPend) : Bool := p.op.isNone && p.ref.t == t && p.ref.g == g && p.phase != .commit
  { (m.fabPend.filter mine).foldl (fun m p => m.dropChecks dev p) m with fabPend := m.fabPend.filter (fun p => !mine p) }

/-- A group ends: windows close, fibres end, tokens and outstanding results are dropped (R127, R283). -/
def Mach.endGroup (m : Mach) (cf : Conf) (t g : Nat) : Mach :=
  match m.team? t with
  | none => m
  | some tm =>
    match m.launch? tm.l with
    | none => m
    | some la =>
      let fs := m.fibresOf t g
      let m := fs.foldl (fun m f => m.closeAll la.p la.x f) m
      let m := m.breakHeld cf t g 0x12
      let m := fs.foldl (fun m f => m.leavePort f.ref 1) m
      let m := { m with
        fibres := m.fibres.filter (fun f => !(f.ref.t == t && f.ref.g == g))
        outst := m.outst.filter (fun o => !(o.ref.t == t && o.ref.g == g)) }
      let m := (m.endAsks cf.device.toNat t g).updGroup t g (fun x => { x with
        ended := true, active := false, handler := false, joins := List.replicate 16 0, pend := [], feKept := none, lpadKept := none })
      ((m.dropCounters tm.core (quadOf g)).clubarCheck tm.c).noticeCheck tm.l tm.c

/-- The launch stops: cause, stopping group, its core; the group ends (R172). Other groups end at their next run boundary. -/
def Mach.stopLaunch (m : Mach) (cf : Conf) (t g cause : Nat) : Mach :=
  match m.team? t with
  | none => m
  | some tm =>
    (m.updLaunch tm.l (fun la => { la with stop := some (la.stop.getD ⟨cause, g, tm.core, ((m.cluster? tm.c).map Cluster.num).getD 0⟩) })).endGroup cf t g

/-! ### Taking a trap (R170–R172) -/

/-- What a trap reports. -/
structure Trap where
  cause : Nat
  sub : Nat
  addr : DWord
  fail : Word
  async : Bool
  restart : Bool
deriving DecidableEq, Repr

/-- The scratch offset of a group's trap frame (R171). -/
def frameOff (cr : CtxRec) (g : Nat) : Nat := cr.tfoff + 1280 * g

/-- TRAPCAUSE (R170). -/
def Trap.word (x : Trap) : Word :=
  BitVec.ofNat 32 (x.cause + x.sub * 2 ^ 8 + (if x.async then 2 ^ 16 else 0) + (if x.restart then 2 ^ 17 else 0))

/-- The 1,280 bytes of a trap frame (R171). -/
def trapFrame (m : Mach) (c : Ctx) (x : Trap) : List Byte :=
  leBytes 8 c.f.pc.toNat
    ++ leBytes 4 c.f.pred.toNat
    ++ leBytes 4 (c.f.base + c.f.pos * 2 ^ 8 + (if x.async then 2 ^ 13 else 0) + (if x.restart then 2 ^ 14 else 0)
        + (if x.cause = 0x13 then 2 ^ 18 else 0))
    ++ leBytes 8 (x.cause + x.sub * 2 ^ 8)
    ++ leBytes 8 x.addr.toNat
    ++ leBytes 8 x.fail.toNat
    ++ leBytes 8 0
    ++ leBytes 8 (c.g.fpstat.toNat + c.g.tmshape * 2 ^ 32 + c.g.tmpair * 2 ^ 40)
    ++ (List.range 8).flatMap (fun k => leBytes 4 (c.g.conds.getD k 0).toNat)
    ++ leBytes 8 (m.dieCyc (dieOfCore c.tm.core) % 2 ^ 32)
    ++ List.replicate 160 0
    ++ (List.range 8).flatMap (fun k => (List.range 32).flatMap (fun j =>
        leBytes 4 (if c.f.pred.getLsbD j then (smGet 0 m.lats (latKey c.f.ref.t c.f.ref.g k j)).toNat else 0)))

/-- Whether a trap cannot be taken (R172). -/
def noTrap (cf : Conf) (c : Ctx) (async : Bool) : Bool :=
  match cf.ctx? c.la.p c.la.x with
  | some cr => cr.tvec == 0 || decide (c.tm.len < frameOff cr c.g.g + 1280) || (c.g.handler && !async)
  | none => true

/-- Plain writes of bytes in 16-byte units, full granules, by a group (R171). -/
def Mach.writeFrame (m : Mach) (leaf : Point) (t off : Nat) (bs : List Byte) : Mach :=
  (List.range (bs.length / 16)).foldl (fun m i =>
    m.writePlain leaf ⟨0, .scr t, off + 16 * i, bytesAt bs (16 * i) 16, .stfe, none, false, 0, 0, 0⟩) m

/-- Taking a trap by a fibre (R172): the frame, TRAPCAUSE and TRAPADDR, handler mode, the other fibres suspended, so that none of them keeps a port, a new run at TVEC; or
the launch stops. -/
def Mach.takeTrap (m : Mach) (cf : Conf) (c : Ctx) (x : Trap) : Mach :=
  let r := c.f.ref
  if noTrap cf c x.async then m.stopLaunch cf r.t r.g x.cause
  else
    match cf.ctx? c.la.p c.la.x with
    | none => m
    | some cr =>
      let m := if c.f.run then (m.settleLatches r).endYields r.t else m.clearLatches r c.f.pred
      let m := if !x.async && x.cause != 0x13 then m.breakHeld cf r.t r.g x.cause else m
      let m := (m.writeFrame c.leaf r.t (frameOff cr c.g.g) (trapFrame m c x)).drain c.leaf 1
      let waited := c.f.wait.bind (fun w => if w.why = .granule then some (m.cyc - w.since) else none)
      let m := m.updGroup r.t r.g (fun g => { g with
        handler := true, handlerKind := x.cause, trapCause := x.word, trapAddr := x.addr
        feKept := if x.async then waited else none
        lpadKept := if x.cause = 9 then none else c.f.lpad, ready := m.cyc })
      let m := { m with fibres := m.fibres.map (fun (f : Fibre) =>
        if f.ref = r then
          { f with pc := cr.tvec, run := false, pos := 0, wait := none, lpad := none, xl := [], trl := none, fe := none, drained := false, asked := false }
        else if f.ref.t = r.t ∧ f.ref.g = r.g then { f with susp := true } else f) }
      let m := ((m.fibresOf r.t r.g).filter (fun f => f.ref != r)).foldl (fun m f => m.leavePort f.ref 0) m
      (m.leavePort r 1).clearLatches r c.f.pred

/-! ### Order of faults at issue (R216) -/

/-- Whether a word is illegal where it stands: an unused format slot named by a conversion (R137, R193), ERET outside a handler (R173), a
reserved opcode (R234). -/
def illegalHere (c : Ctx) (i : Instr) : Bool :=
  match i with
  | .cvt _ _ _ k | .cvts _ _ _ k => decide (0x40 ≤ k) && decide (k < 0x50) && nbits (c.rc.fmts.getD (k % 8) 0) 7 0 == 0
  | .eret => !c.g.handler
  | .reservedOpcode _ => true
  | _ => false

/-- Whether SWR would write nonzero reserved bits or a value its register does not take (R154, R191, R204, R297). -/
def swrBad (m : Mach) (c : Ctx) (i : Instr) : Bool :=
  match i with
  | .swr n a =>
    let v := (m.srcL c a).toNat
    if n = 8 then !(decide (1 ≤ v) && decide (v ≤ 5))
    else if n = 0xB then decide (v ≥ 512) || nbits v 7 5 != 0
    else if n = 0xC then decide (v ≥ 256)
    else if n = 0xD then decide (v ≥ 8)
    else false
  | _ => false

/-- Whether a fibre is converged (R151, R172). -/
def Mach.converged (m : Mach) (c : Ctx) : Bool :=
  c.g.handler || (m.fibresOf c.f.ref.t c.f.ref.g).all (fun f => f.ref == c.f.ref || f.base != c.f.base)

/-- Whether an instruction is the landing pad of a tag (R287). -/
def isPad (i : Instr) (tag : Nat) : Bool :=
  match i with
  | .lpad t => t == tag
  | _ => false

/-- What stands before an instruction's own entry. -/
inductive Gate where
  | pass
  | trap (cause : Nat)
  | stop
  | yield
  | held
deriving DecidableEq, Repr

/-- Whether a read of some registers and latches of a fibre's lanes meets an error (R379). -/
def Mach.readsErr (m : Mach) (c : Ctx) (rs ls : List Nat) : Bool :=
  (!m.regErr.isEmpty && rs.any (fun r => c.lanes.any (fun i => m.regErr.contains (regKey c.f.ref.t c.f.ref.g (c.f.base + r) i))))
    || (!m.latErr.isEmpty && ls.any (fun k => c.lanes.any (fun i => m.latErr.contains (latKey c.f.ref.t c.f.ref.g k i))))

/-- The checks before an instruction's own entry, in the order of R216; LPAD first (R287), register errors (R379), outstanding results (R168,
R222) and held registers (R312) where its operands are read. -/
def gate (m : Mach) (c : Ctx) (i : Instr) : Gate :=
  if c.f.lpad.any (fun tag => !isPad i tag) then .trap 9
  else if illegalHere c i then .trap 1
  else if (windowRegs i).any (fun r => decide (c.rc.regs ≤ c.f.base + r)) then .trap 2
  else if m.readsErr c (instrUse i).rd (instrUse i).lats then .stop
  else if m.hazard c.f i then .yield
  else if m.heldReg c (c.phys (instrUse i).wr) then .held
  else if swrBad m c i then .trap 1
  else if !roleMay c.g.role (roleClass i) then .trap 6
  else if effectful i && !m.converged c then .trap 7
  else .pass

/-- Where a fibre goes after an instruction. -/
inductive Go where
  | seq
  | goto (pc : DWord)
deriving DecidableEq, Repr

/-- What an instruction's own entry does. -/
inductive Res where
  /-- Performed; the values its latch takes (R221). -/
  | done (m : Mach) (lat : List (Nat × Word)) (go : Go)
  /-- Performed; its latch awaits a long-latency result (R168). -/
  | late (m : Mach) (go : Go)
  /-- A precise trap (R23, R231). -/
  | trap (m : Mach) (cause sub : Nat) (addr : DWord) (fail : Word)
  /-- It waits; the group stays active (R18, R58, R305). -/
  | hold (m : Mach) (why : Why)
  /-- A waiting instruction waits; the group moves to pending (R156, R169). -/
  | pend (m : Mach) (why : Why)
  /-- The launch stops (R172, R379). -/
  | stop (m : Mach) (cause : Nat)
  /-- The entry has done everything. -/
  | gone (m : Mach)

/-- A 32-bit register result and its latch: long-latency when there is a register (R168, R221). -/
def resultLate (m : Mach) (c : Ctx) (d : Dst) (vals : List (Nat × Word)) : Res :=
  match d with
  | .v n => .late (m.addOutst c (vals.map (fun v => (n, v.1, v.2))) vals) .seq
  | .nw => .done m vals .seq

/-- A 64-bit register result and its latch. -/
def pairLate (m : Mach) (c : Ctx) (d : Dst) (vals : List (Nat × DWord)) : Res :=
  let lat := vals.map (fun v => (v.1, lo32 v.2))
  match d with
  | .v _ => .late (m.addOutst c (pairWrites d vals) lat) .seq
  | .nw => .done m lat .seq

/-- The pc after an instruction (R220). -/
def Go.pc (go : Go) (c : Ctx) (i : Instr) : DWord :=
  match go with
  | .seq => c.f.pc + BitVec.ofNat 64 (instrLen i)
  | .goto pc => pc

/-- Whether the run ends after an instruction (R220). -/
def Go.ends (go : Go) (i : Instr) : Bool :=
  match go with
  | .seq => endsRun i
  | .goto _ => true

/-- The cycles an instruction's issue takes (R168; log entry 9). -/
def issueCost (i : Instr) : Nat := instrLen i / 4

/-- The device acts on what the entry answers. -/
def Mach.settle (cf : Conf) (c : Ctx) (i : Instr) : Res → Mach
  | .done m lat go => ((m.setLatch c.f.ref (c.f.pos % 8) (((m.fibre? c.f.ref).map Fibre.pred).getD 0) lat).tick (issueCost i)).advance c.f.ref
      (go.pc c i) (go.ends i)
  | .late m go => (m.tick (issueCost i)).advance c.f.ref (go.pc c i) (go.ends i)
  | .trap m cause sub addr fail => (m.tick 1).takeTrap cf c ⟨cause, sub, addr, fail, false, true⟩
  | .hold m why => (m.tick 1).waitAt c.f.ref i why
  | .pend m why => ((m.tick 1).waitAt c.f.ref i why).toPending c.f.ref.t c.f.ref.g
  | .stop m cause => (m.tick 1).stopLaunch cf c.f.ref.t c.f.ref.g cause
  | .gone m => m.tick 1

/-- What a waiting instruction's entry answers when its wait has ended. -/
def Mach.resolve (cf : Conf) (c : Ctx) : Res → Mach
  | .done m lat _ => m.completeWait c.f.ref [] lat
  | .late m _ => m.passWait c.f.ref
  | .trap m cause sub addr fail => m.takeTrap cf c ⟨cause, sub, addr, fail, false, true⟩
  | .hold m why => m.updFibre c.f.ref (fun f => { f with wait := f.wait.map (fun w => { w with why := why }) })
  | .pend m why => m.updFibre c.f.ref (fun f => { f with wait := f.wait.map (fun w => { w with why := why }) })
  | .stop m cause => m.stopLaunch cf c.f.ref.t c.f.ref.g cause
  | .gone m => m

/-- The fibre that issues now. -/
def Mach.issuer (m : Mach) : Option Ctx := m.current.bind (ctxOf m)

/-- Issuing an instruction by the fibre whose run the port in focus holds: the checks of R216, then its own entry. -/
def Mach.issue (cf : Conf) (m : Mach) (i : Instr) (body : Conf → Mach → Ctx → Res) : Mach :=
  match m.issuer with
  | none => m
  | some c =>
    match gate m c i with
    | .pass => Mach.settle cf c i (body cf m c)
    | .trap k => (m.tick 1).takeTrap cf c ⟨k, 0, 0, c.f.pred, false, true⟩
    | .stop => (m.tick 1).stopLaunch cf c.f.ref.t c.f.ref.g 0
    | .yield => m.waitAt c.f.ref i .yield
    | .held => m.waitAt c.f.ref i .heldReg

/-- Issuing, as a step of the machine. -/
def issue (s : State) (i : Instr) (body : Conf → Mach → Ctx → Res) : Host.Outcome State Fault Refusal :=
  .next { s with m := Mach.issue s.cfg s.m i body }

/-- A step that changes everything but the configuration. -/
def onMach (s : State) (f : Conf → Mach → Mach) : Host.Outcome State Fault Refusal := .next { s with m := f s.cfg s.m }

/-! ### Return from a trap (R173) -/

/-- The length of the instruction at an address, as its word says it; none while the word cannot be fetched yet (R20, R58). -/
def lengthAt (cf : Conf) (m : Mach) (c : Ctx) (a : Nat) : Option Nat :=
  match (fetchWord cf m c.tm.core c.la.p c.la.x a).1 with
  | .word w => some (if hasLiteral w then 8 else 4)
  | .wait => none
  | _ => some 4

/-- What a frame restores, the pc and whether its run goes on (R173, R175). -/
def Mach.restoreFrame (m : Mach) (c : Ctx) (fr : List Byte) (pc : Nat) (midrun : Bool) : Mach :=
  let r := c.f.ref
  let flags := natAt fr 0xC 4
  let resume := nbits flags 19 18
  let pos := nbits flags 12 8
  let m := m.leavePort r 1
  let m := m.updGroup r.t r.g (fun g => { g with
    fpstat := BitVec.ofNat 32 (natAt fr 0x30 4) &&& 0x11F
    tmshape := natAt fr 0x34 1, tmpair := natAt fr 0x35 1 % 8
    conds := (List.range 8).map (fun k => BitVec.ofNat 32 (natAt fr (0x38 + 4 * k) 4))
    handler := false, preDone := g.preDone || g.handlerKind == 0x14
    feKept := none, lpadKept := none, ready := m.cyc })
  let m := { m with fibres := m.fibres.map (fun (f : Fibre) =>
    if f.ref = r then { f with
      pc := BitVec.ofNat 64 pc, run := midrun, pos := if midrun then (if resume = 0 then pos else pos + 1) else 0, wait := none
      lpad := if resume = 0 then c.g.lpadKept else none, xl := [], trl := none, drained := false, asked := false
      fe := if resume = 0 then c.g.feKept else none }
    else if f.ref.t = r.t ∧ f.ref.g = r.g then { f with susp := false } else f) }
  let m := m.clearLatches r c.f.pred
  if midrun then { m with
      lats := (List.range 8).foldl (fun l k => c.lanes.foldl (fun l j =>
        smSet 0 l (latKey r.t r.g k j) (BitVec.ofNat 32 (natAt fr (0x100 + 128 * k + 4 * j) 4))) l) m.lats }
    else m

/-- ERET: the frame is read at its home after the invalidate, what it holds is restored, handler mode ends (R173, R175). A poisoned unit of the frame stops the launch
(R379). -/
def eretBody (cf : Conf) (m : Mach) (c : Ctx) : Res :=
  match cf.ctx? c.la.p c.la.x with
  | none => .stop m 1
  | some cr =>
    let r := c.f.ref
    let m := m.invalidate c.leaf 1
    if m.poisoned (.scr r.t) (frameOff cr c.g.g) 1280 then .stop m 0
    else
      let rd := m.readHome c.leaf (.scr r.t) (frameOff cr c.g.g) 1280 none
      let fr := rd.1
      let m := rd.2
      let flags := natAt fr 0xC 4
      let resume := nbits flags 19 18
      let pos := nbits flags 12 8
      if natAt fr 8 4 ≠ c.f.pred.toNat ∨ nbits flags 7 0 ≠ c.f.base ∨ resume = 3 then .stop m 1
      else
        match (if resume = 1 then lengthAt cf m c (natAt fr 0 8) else some 4) with
        | none => .gone m
        | some len =>
          let pc := if resume = 0 then natAt fr 0 8 else if resume = 1 then (natAt fr 0 8 + len) % 2 ^ 64 else natAt fr 0x28 8
          if pc % 4 ≠ 0 then .trap m 3 0 0 c.f.pred
          else .gone ((m.restoreFrame c fr pc (decide (resume = 0 ∨ (resume = 1 ∧ pos < 23)))).noticeCheck c.la.l c.cl.c)

end Sys2Proof.Machine
end

