-- ==== Sys2Proof/Machine/Regions.lean ====
section
/-!
DEFINITION. A region's registers, threshold and divergence conditions (R119, R128–R131), and the completions a region sends to a queue (R131,
R163).
-/
namespace Sys2Proof.Machine

/-! ### Completions -/

/-- A completion is held for a queue until it is posted (R163). -/
def Mach.post (m : Mach) (q : Nat) (k : Compl) : Mach := let qu := m.queue q; m.setQueue { qu with held := qu.held ++ [k] }

/-- The TAG of a region (R108). -/
def Region.tag (rg : Region) : Nat := natAt rg.desc 0x68 4
/-- The NOTIFYQ of a region (R108). -/
def Region.notifyq (rg : Region) : Nat := nbits (natAt rg.desc 0x58 8) 41 32

/-- A region event goes to NOTIFYQ; it is posted there only while that queue belongs to the region's partition (R131, R379). -/
def Mach.notify (m : Mach) (rg : Region) (status sub addr : Nat) : Mach :=
  m.post rg.notifyq ⟨0, 0x80, status, BitVec.ofNat 64 (rg.tag + sub * 2 ^ 32), BitVec.ofNat 64 addr, 0, false, some rg.p⟩

/-! ### Drift -/

/-- DNSQ (R119). -/
def Region.dnsq (rg : Region) : Nat := (rg.frags.map Frag.nsq).sum
/-- DNSQ as the registers give it, saturated (R119). -/
def Region.dnsqSat (rg : Region) : Nat := min rg.dnsq (2 ^ 64 - 1)
/-- DNMAX (R119): magnitudes compare as their codes. -/
def Region.dnmax (rg : Region) : Nat := (rg.frags.map (fun f => f.dmax.toNat)).foldl max 0

/-- NORM latches when the exact sum exceeds the threshold and it is not latched (R128); the notice is posted once (R131). -/
def Mach.normCheck (m : Mach) (r : Nat) : Mach :=
  match m.region? r with
  | none => m
  | some rg => if !rg.norm && decide (rg.thr < rg.dnsq) then (m.updRegion r (fun x => { x with norm := true })).notify rg 0 1 0 else m

/-- The value TRAPADDR takes for a divergence condition (R130). -/
def divergeAddr (frag island k : Nat) : Nat := k + island * 2 ^ 8 + frag * 2 ^ 16

/-- The latched condition delivered next: sub-cause and TRAPADDR, NORM first, and the state with the latch cleared (R130). -/
def Mach.diverge (m : Mach) (rg : Region) (k : Nat) : Option (Nat × Nat × Mach) :=
  if rg.norm then some (1, divergeAddr 0 0 k, m.updRegion rg.r (fun x => { x with norm := false }))
  else match rg.silent with
    | (i, f) :: rest => some (2, divergeAddr f i k, m.updRegion rg.r (fun x => { x with silent := rest }))
    | [] => none

/-! ### Special registers of a region (R119) -/

/-- A snapshot of a context. -/
def snapGet (l : List Snap) (p x k : Nat) : Nat := ((l.find? (fun s => s.p == p && s.x == x && s.k == k)).map Snap.v).getD 0
/-- Taking a snapshot. -/
def snapPut (l : List Snap) (p x k v : Nat) : List Snap := ⟨p, x, k, v⟩ :: l.filter (fun s => !(s.p == p && s.x == x && s.k == k))

/-- Reading register j of region index k. -/
def Mach.readRegionReg (m : Mach) (p x j k : Nat) : Nat × Mach :=
  match m.regionOf p x k with
  | none => (0, m)
  | some rg =>
    match j with
    | 0 => (rg.dnsqSat % 2 ^ 32, { m with snaps := snapPut m.snaps p x k (rg.dnsqSat / 2 ^ 32) })
    | 1 => (snapGet m.snaps p x k, m)
    | 2 => (rg.dnmax, m)
    | 3 => (rg.thr % 2 ^ 32, m)
    | 4 => (rg.thr / 2 ^ 32 % 2 ^ 32, m)
    | 5 => (rg.ancver, m)
    | _ => (min rg.cnt 0xFFFF + (if rg.stg then 2 ^ 16 else 0) + (if rg.pass then 2 ^ 17 else 0), m)

/-- Writing DNTHRLO.k or DNTHRHI.k (R119): the low half is held for the context's next write of the high half. -/
def Mach.writeThr (m : Mach) (p x k : Nat) (hi : Bool) (v : Nat) : Mach :=
  match m.regionOf p x k with
  | none => m
  | some rg =>
    let key := x * 8 + k
    let rest := rg.thrLoHeld.filter (fun h => h.1 != key)
    if hi then
      let lo := ((rg.thrLoHeld.find? (fun h => h.1 == key)).map Prod.snd).getD (rg.thr % 2 ^ 32)
      (m.updRegion rg.r (fun g => { g with thr := v * 2 ^ 32 + lo, thrLoHeld := rest })).normCheck rg.r
    else m.updRegion rg.r (fun g => { g with thrLoHeld := (key, v) :: rest })

end Sys2Proof.Machine
end

