-- ==== Sys2Proof/Machine/FabWin.lean ====
section
/-!
DEFINITION. The fabric windows of this device (R32, R33): the device's tables by partition-physical address, the window entries, and where an
access through them goes.
-/
namespace Sys2Proof.Machine

/-! ### Device tables by partition-physical address (R32, R347) -/

/-- Bytes at a partition-physical address as last written; none when one lies outside the partition's map. -/
def Mach.physBytes (m : Mach) (pt : Part) (a n : Nat) : Option (List Byte) :=
  (List.range n).foldr (fun i r => match physOf pt (a + i), r with
    | some (sp, la), some bs => some (m.homeByte sp la none :: bs)
    | _, _ => none) (some [])

/-- Writing bytes at a partition-physical address: writes delivered at their homes (R70). -/
def Mach.putPhys (m : Mach) (pt : Part) (a : Nat) (bs : List Byte) : Mach :=
  (bs.zip (List.range bs.length)).foldl (fun m b => match physOf pt (a + b.2) with
    | some (sp, la) => m.deliver ⟨0, sp, la, [b.1], .plain, none, false, 0, 0, 0⟩
    | none => m) m

/-! ### Window entries (R32) -/

/-- A window entry. -/
structure WinEnt where
  vm : Bool
  rd : Bool
  wr : Bool
  atm : Bool
  obase : Nat
  len : Nat
  tbase : Nat
  ctx : Nat
  core : Nat
  gen : Nat
deriving DecidableEq, Repr

/-- The entry of 32 bytes; none for one that serves nothing. -/
def winOf (b : List Byte) : Option WinEnt :=
  let w0 := natAt b 0 8
  let w3 := natAt b 24 8
  let e : WinEnt := ⟨nbits w0 2 1 == 0, nbit w0 3, nbit w0 4, nbit w0 5, nbits w0 48 16 * 65536, natAt b 8 8, natAt b 16 8, nbits w3 9 8,
    nbits w3 19 10, w3 / 2 ^ 32⟩
  let bad := !nbit w0 0 || decide (2 ≤ nbits w0 2 1) || nbits w0 15 6 != 0 || nbits w0 63 49 != 0 || nbits w3 7 0 != 0 || nbits w3 31 20 != 0
    || e.len == 0 || decide (768 ≤ e.core)
    || (if e.vm then e.len % 65536 != 0 || e.tbase % 65536 != 0 || e.gen != 0 || e.core != 0
        else e.len % 16 != 0 || decide (2 ^ 20 < e.len) || e.tbase % 16 != 0 || decide (2 ^ 20 ≤ e.tbase))
  if bad then none else some e

/-- The lowest-numbered valid entry that covers an access (R33 step 1). -/
def winFind (m : Mach) (pt : Part) (off n : Nat) : Option WinEnt :=
  (List.range 64).findSome? (fun i =>
    match (m.physBytes pt (pt.fwtab + 32 * i) 32).bind winOf with
    | some e => if e.obase ≤ off ∧ off + n ≤ e.obase + e.len then some e else none
    | none => none)

/-- What the target makes of an access (R33, R179); `busy` while no walker serves its window's translation (R20). -/
inductive WinR where
  | here (a : Acc) (va : Nat) (t : Option Nat)
  | saved (t : Nat)
  | refused (cause sub : Nat)
  | stale
  | busy
deriving DecidableEq, Repr

/-- Whether an entry permits a class (R33 step 2). -/
def WinEnt.permits (e : WinEnt) : Cls → Bool
  | .read => e.rd
  | .write => e.wr
  | .atomic => e.atm
  | _ => false

/-- Whether a team is saved. -/
def Mach.isSaved (m : Mach) (tm : Team) : Bool := (m.cluster? tm.c).any (fun cl => cl.pre == .saved)

/-- An access through an SCR entry (R33 steps 4 and 5, R25). -/
def winScr (m : Mach) (e : WinEnt) (off n : Nat) : WinR :=
  let so := e.tbase + (off - e.obase)
  let at_ (saved : Bool) := m.teams.find? (fun tm =>
    tm.core == e.core && decide (tm.base ≤ so) && decide (so < tm.base + tm.len) && m.isSaved tm == saved && (!saved || tm.gen.toNat == e.gen))
  match at_ false, at_ true with
  | some tm, sv =>
    if tm.gen.toNat = e.gen then
      if so - tm.base < 64 ∨ tm.base + tm.len < so + n then .refused 5 0x17 else .here ⟨.scr tm.t, so - tm.base, none, 0, false, none⟩ 0 (some tm.t)
    else match sv with
      | some s => .saved s.t
      | none => .stale
  | none, some s => .saved s.t
  | none, none => .stale

/-- An access through a VM entry (R33 step 3): the walk, FW of the leaf it ends at, and checks 4 to 7. A target address of 2^57 or more is refused as a walk that fails: the
spec names no case for it (a choice of the model: log entry 108). -/
def winVm (cf : Conf) (m : Mach) (p : Nat) (e : WinEnt) (va : Nat) (cls : Cls) : WinR × Mach :=
  let own : TlbOwner := .agent 0 .heddle
  if 2 ^ 57 ≤ va then (.refused 4 4, m)
  else if m.unserved cf own p e.ctx va cls.writes then (.busy, m)
  else
    match leafNow cf m own p e.ctx va cls.writes with
    | (.bad _ _, m) => (.refused 4 4, m)
    | (.ok l, m) =>
      if !pbit l.e 6 then (.refused 5 0x17, m)
      else
        match checkLeaf cf m p e.ctx va cls l with
        | .ok a => (.here a va none, if cls.writes then m.setLeafDirty cf own p e.ctx va l else m)
        | .error (4, _) => (.refused 4 4, m)
        | .error _ => (.refused 5 0x17, m)

/-- An access of n bytes at a fabric offset of a partition (R33). -/
def winAccess (cf : Conf) (m : Mach) (p off n : Nat) (cls : Cls) : WinR × Mach :=
  match cf.part? p with
  | none => (.refused 4 4, m)
  | some pt =>
    match winFind m pt off n with
    | none => (.refused 4 4, m)
    | some e =>
      if !e.permits cls then (.refused 5 0x17, m)
      else if !e.vm then (winScr m e off n, m)
      else winVm cf m p e (e.tbase + (off - e.obase)) cls

end Sys2Proof.Machine
end

