-- ==== Sys2Proof/Machine/Flags.lean ====
section
/-!
DEFINITION. The flags: those of FPSTAT (R191) and how an instruction ORs them in, and the bounds at which integer results saturate (R238).
-/
namespace Sys2Proof.Machine

/-- No flag. -/
def fNone : Word := 0
/-- INV (R191). -/
def fInv : Word := 1
/-- OVF. -/
def fOvf : Word := 2
/-- UNF. -/
def fUnf : Word := 4
/-- INX. -/
def fInx : Word := 8
/-- DOM. -/
def fDom : Word := 16

/-- A flag when a condition holds. -/
def flagIf (b : Bool) (f : Word) : Word := if b then f else 0

/-- The flags of all lanes are ORed into FPSTAT once (R235, R259). -/
def Mach.orFlags (m : Mach) (c : Ctx) (f : Word) : Mach :=
  m.updGroup c.f.ref.t c.f.ref.g (fun g => { g with fpstat := g.fpstat ||| f })

/-- The flags of a list of per-lane results. -/
def allFlags {α : Type} (rs : List (α × Word)) : Word := rs.foldl (fun w r => w ||| r.2) 0

/-- An exact integer result under a saturation mode (R238). -/
def satResult (m : Sat) (x : Int) : Word :=
  match m with
  | .wrap => BitVec.ofInt 32 x
  | .ssat => BitVec.ofInt 32 (min (max x (-2 ^ 31)) (2 ^ 31 - 1))
  | .usat => BitVec.ofInt 32 (min (max x 0) (2 ^ 32 - 1))

/-- A register word as the integer a saturation mode reads (R238). -/
def satRead (m : Sat) (x : Word) : Int :=
  match m with
  | .usat => x.toNat
  | _ => x.toInt

/-- A register word as the integer a signedness reads (R239). -/
def sgnRead (sg : Sgn) (x : Word) : Int :=
  match sg with
  | .s => x.toInt
  | .u => x.toNat

end Sys2Proof.Machine
end

