-- ==== Sys2Proof/Machine/Num.lean ====
section
/-!
DEFINITION. Number formats and rounding (R181–R196): exact values, decoding, the one rounding of R190, and the special functions as fixed-point
values with a sticky bit (log entry 7).
-/
namespace Sys2Proof.Machine

/-! ### Exact values -/

/-- A finite value: (−1)^neg × mant × 2^exp; a zero keeps its sign. -/
structure Dy where
  neg : Bool
  mant : Nat
  exp : Int
deriving DecidableEq, Repr

/-- What a code holds (R181–R183). -/
inductive FV where
  | nan (sig : Bool)
  | inf (neg : Bool)
  | fin (d : Dy)
deriving DecidableEq, Repr

/-- floor(log2 n) for n > 0. -/
def nlog2 (n : Nat) : Nat := n.log2

/-- Multiplying a number by 2^k, exactly for k ≥ 0, else with the floor. -/
def shiftN (n : Nat) (k : Int) : Nat := if 0 ≤ k then n * 2 ^ k.toNat else n / 2 ^ (-k).toNat

/-- The product. -/
def Dy.mul (a b : Dy) : Dy := ⟨a.neg != b.neg, a.mant * b.mant, a.exp + b.exp⟩
/-- The value with its sign inverted. -/
def Dy.opp (a : Dy) : Dy := { a with neg := !a.neg }
/-- The value as an integer multiple of 2^e, for e at or below its exponent. -/
def Dy.scaled (a : Dy) (e : Int) : Int := (if a.neg then -1 else 1) * (a.mant * 2 ^ (a.exp - e).toNat : Nat)

/-- The least exponent of some values. -/
def minExp (ds : List Dy) : Int :=
  match ds with
  | [] => 0
  | d :: ds => ds.foldl (fun e d => min e d.exp) d.exp

/-- The exact sum; an exact zero is −0 only when every term is −0 (R190, R247, R262). -/
def dySum (ds : List Dy) : Dy :=
  let e := minExp ds
  let sum : Int := ds.foldl (fun a d => a + d.scaled e) 0
  if sum = 0 then ⟨!ds.isEmpty && ds.all (fun d => d.neg && d.mant == 0), 0, 0⟩ else ⟨decide (sum < 0), sum.natAbs, e⟩

/-- Comparing values: a < b. -/
def Dy.lt (a b : Dy) : Bool := let e := min a.exp b.exp; decide (a.scaled e < b.scaled e)
/-- Comparing values: a = b. -/
def Dy.same (a b : Dy) : Bool := let e := min a.exp b.exp; decide (a.scaled e = b.scaled e)

/-! ### Formats (R182) -/

/-- A floating-point format: width, mantissa width, bias, the magnitude code of its largest finite value, whether it has infinities, NaNs. -/
structure Fmt where
  width : Nat
  wf : Nat
  bias : Int
  maxCode : Nat
  hasInf : Bool
  hasNan : Bool
deriving DecidableEq, Repr

/-- binary32. -/
def fp32 : Fmt := ⟨32, 23, 127, 0x7F7FFFFF, true, true⟩
/-- binary16. -/
def fp16 : Fmt := ⟨16, 10, 15, 0x7BFF, true, true⟩
/-- BF16. -/
def bf16 : Fmt := ⟨16, 7, 127, 0x7F7F, true, true⟩
/-- FP8 E4M3. -/
def e4m3 : Fmt := ⟨8, 3, 7, 0x7E, false, true⟩
/-- FP8 E5M2. -/
def e5m2 : Fmt := ⟨8, 2, 15, 0x7B, true, true⟩
/-- FP6 E3M2. -/
def e3m2 : Fmt := ⟨6, 2, 3, 31, false, false⟩
/-- FP6 E2M3. -/
def e2m3 : Fmt := ⟨6, 3, 1, 31, false, false⟩
/-- FP4 E2M1. -/
def e2m1 : Fmt := ⟨4, 1, 1, 7, false, false⟩

/-- The canonical NaN of a format that has NaNs (R183). -/
def Fmt.qnan (f : Fmt) : Nat := if f.hasInf then f.maxCode + 1 + 2 ^ (f.wf - 1) else f.maxCode + 1

/-- The sign bit of a code. -/
def Fmt.signBit (f : Fmt) (neg : Bool) : Nat := if neg then 2 ^ (f.width - 1) else 0

/-- Dec(f, c): the value of a code (R181–R183). -/
def Fmt.dec (f : Fmt) (c : Nat) : FV :=
  let mag := c % 2 ^ (f.width - 1)
  let neg := nbit c (f.width - 1)
  if mag ≤ f.maxCode then
    let e := mag / 2 ^ f.wf
    let fr := mag % 2 ^ f.wf
    if e = 0 then .fin ⟨neg, fr, 1 - f.bias - f.wf⟩ else .fin ⟨neg, 2 ^ f.wf + fr, e - f.bias - f.wf⟩
  else if f.hasInf && mag == f.maxCode + 1 then .inf neg
  else .nan (f.hasInf && !nbit mag (f.wf - 1))

/-! ### Rounding (R190) -/

/-- Whether rounding of a magnitude moves up: `n` the kept part, `rem` of `den` the part cut. -/
def roundUp (rm : RMode) (neg : Bool) (n rem den : Nat) : Bool :=
  match rm with
  | .rne => decide (den < 2 * rem) || (decide (2 * rem = den) && n % 2 == 1)
  | .rz => false
  | .rd => neg && rem != 0
  | .ru => !neg && rem != 0

/-- A magnitude rounded to a multiple of 2^q: the multiple, and whether it is inexact. -/
def roundAt (rm : RMode) (neg : Bool) (mant : Nat) (exp q : Int) : Nat × Bool :=
  if q ≤ exp then (mant * 2 ^ (exp - q).toNat, false)
  else
    let den := 2 ^ (q - exp).toNat
    let n := mant / den
    let rem := mant % den
    (if roundUp rm neg n rem den then n + 1 else n, rem != 0)

/-- Step 1 of R190: the magnitude code with unbounded exponent range, and whether it is inexact. -/
def Fmt.magCode (f : Fmt) (rm : RMode) (neg : Bool) (mant : Nat) (exp : Int) : Nat × Bool :=
  if mant = 0 then (0, false)
  else
    let emin := 1 - f.bias
    let e := max ((nlog2 mant : Int) + exp) emin
    let r := roundAt rm neg mant exp (e - f.wf)
    ((e - emin).toNat * 2 ^ f.wf + r.1, r.2)

/-- Round(x, f, rm): the code and its flags (R190). -/
def Fmt.round (f : Fmt) (rm : RMode) (d : Dy) : Nat × Word :=
  let r := f.magCode rm d.neg d.mant d.exp
  let sb := f.signBit d.neg
  if f.maxCode < r.1 then
    let up := match rm with
      | .rne => true
      | .rz => false
      | .rd => d.neg
      | .ru => !d.neg
    (sb + (if up && f.hasInf then f.maxCode + 1 else f.maxCode), fOvf ||| fInx)
  else (sb + r.1, flagIf r.2 fInx ||| flagIf (r.2 && decide (r.1 < 2 ^ f.wf)) fUnf)

/-- A rounded FP32 word. -/
def round32 (d : Dy) : Word × Word := let r := fp32.round .rne d; (BitVec.ofNat 32 r.1, r.2)

/-- A value rounded to an integer under a mode, and whether it is inexact. -/
def roundInt (rm : RMode) (d : Dy) : Int × Bool :=
  let r := roundAt rm d.neg d.mant d.exp 0
  ((if d.neg then -1 else 1) * (r.1 : Int), r.2)

/-- RQ(x): x rounded to a multiple of 2^−22, as that multiple (R192). -/
def rq (d : Dy) : Int := (roundInt .rne { d with exp := d.exp + 22 }).1

/-- An integer as a value. -/
def dyInt (n : Int) : Dy := ⟨decide (n < 0), n.natAbs, 0⟩
/-- An integer multiple of 2^e as a value. -/
def dyQ (n : Int) (e : Int) : Dy := ⟨decide (n < 0), n.natAbs, e⟩

/-! ### Quotients and roots with a sticky bit -/

/-- a ÷ b to more than 64 bits, the lowest bit sticky. -/
def dyDiv (a b : Dy) : Dy :=
  if a.mant = 0 ∨ b.mant = 0 then ⟨a.neg != b.neg, 0, 0⟩
  else
    let k := 66 + nlog2 b.mant
    let n := a.mant * 2 ^ k
    let q := n / b.mant
    ⟨a.neg != b.neg, 2 * q + (if n % b.mant = 0 then 0 else 1), a.exp - b.exp - k - 1⟩

/-- The integer square root, bit by bit from bit k. -/
def isqrtGo (n : Nat) : Nat → Nat → Nat
  | 0, r => r
  | k + 1, r => let t := r + 2 ^ k; isqrtGo n k (if t * t ≤ n then t else r)

/-- floor(√n). -/
def isqrt (n : Nat) : Nat := isqrtGo n (nlog2 n / 2 + 1) 0

/-- √d for d ≥ 0, to more than 64 bits, the lowest bit sticky. -/
def dySqrt (d : Dy) : Dy :=
  let e := if d.exp % 2 = 0 then d.exp else d.exp - 1
  let n := (if d.exp % 2 = 0 then d.mant else 2 * d.mant) * 2 ^ 160
  let r := isqrt n
  ⟨false, 2 * r + (if r * r = n then 0 else 1), e / 2 - 80 - 1⟩

/-! ### Fixed point of 420 fraction bits -/

/-- The fraction bits. -/
def pb : Nat := 420
/-- One. -/
def fxOne : Nat := 2 ^ pb

/-- Σ z^(2k+1) ÷ (2k+1), `t` being z^(2k+1). -/
def atanhGo (z2 : Nat) : Nat → Nat → Nat → Nat
  | 0, _, _ => 0
  | n + 1, k, t => t / (2 * k + 1) + atanhGo z2 n (k + 1) (t * z2 / fxOne)

/-- artanh z for z up to 1/3. -/
def atanhFx (z : Nat) : Nat := atanhGo (z * z / fxOne) 140 0 z

/-- ln 2. -/
def ln2Fx : Nat := 2 * atanhFx (fxOne / 3)

/-- log2 x for x in [1, 2). -/
def log2Fx (x : Nat) : Nat := 2 * atanhFx ((x - fxOne) * fxOne / (x + fxOne)) * fxOne / ln2Fx

/-- Σ y^k ÷ k!, `t` being y^k ÷ k!. -/
def expGo (y : Nat) : Nat → Nat → Nat → Nat
  | 0, _, _ => 0
  | n + 1, k, t => t + expGo y n (k + 1) (t * y / fxOne / (k + 1))

/-- e^y for y in [0, 1]. -/
def expFx (y : Nat) : Nat := expGo y 110 0 fxOne

/-- 2^r for r in [0, 1). -/
def exp2Fx (r : Nat) : Nat := expFx (r * ln2Fx / fxOne)

/-- arctan(1/n): alternating terms, `t` being 1 ÷ n^(2k+1). -/
def atanGo (n2 : Nat) : Nat → Nat → Nat → Int
  | 0, _, _ => 0
  | f + 1, k, t => (if k % 2 = 0 then (1 : Int) else -1) * (t / (2 * k + 1) : Nat) + atanGo n2 f (k + 1) (t / n2)

/-- π. -/
def piFx : Nat := (16 * atanGo 25 100 0 (fxOne / 5) - 4 * atanGo (239 * 239) 30 0 (fxOne / 239)).toNat

/-- Alternating Taylor terms of sine (from k = 1) or cosine (from k = 0). -/
def trigGo (y2 : Nat) : Nat → Nat → Nat → Int
  | 0, _, _ => 0
  | f + 1, k, t => (t : Int) - trigGo y2 f (k + 2) (t * y2 / fxOne / ((k + 1) * (k + 2)))

/-- sin y for y in [0, π/2]. -/
def sinFx (y : Nat) : Nat := (trigGo (y * y / fxOne) 60 1 y).toNat
/-- cos y for y in [0, π/2]. -/
def cosFx (y : Nat) : Nat := (trigGo (y * y / fxOne) 60 0 fxOne).toNat

/-- An inexact fixed-point result: the sticky bit is set. -/
def fxDy (neg : Bool) (x : Nat) (e : Int) : Dy := ⟨neg, 2 * x + 1, e - pb - 1⟩

/-- log2 of a positive value a ÷ b, exact for powers of two. -/
def log2Ratio (a b : Dy) : Dy :=
  let k := 420 + nlog2 b.mant
  let n := a.mant * 2 ^ k
  let q := n / b.mant
  let l := nlog2 q
  let e : Int := a.exp - b.exp - k + l
  if n % b.mant = 0 ∧ q = 2 ^ l then dyInt e
  else
    let f := log2Fx (if pb ≤ l then q / 2 ^ (l - pb) else q * 2 ^ (pb - l))
    let x : Int := e * fxOne + f
    fxDy (decide (x < 0)) (if x < 0 then (-x).toNat - 1 else x.toNat) 0

/-- 2^d. -/
def dyExp2 (d : Dy) : Dy :=
  let n : Int := (if d.neg then -1 else 1) * d.mant
  if 0 ≤ d.exp then ⟨false, 1, max (min (n * 2 ^ (min d.exp 40).toNat) 100000) (-100000)⟩
  else
    let den : Int := 2 ^ (-d.exp).toNat
    let fl := n / den
    let r := (n % den).toNat
    if r = 0 then ⟨false, 1, max (min fl 100000) (-100000)⟩
    else
      let fx := if (-d.exp).toNat ≤ pb then r * 2 ^ (pb - (-d.exp).toNat) else r / 2 ^ ((-d.exp).toNat - pb)
      fxDy false (exp2Fx fx) (max (min fl 100000) (-100000))

/-- sin 2πx or cos 2πx of a nonzero value, and whether it is a multiple of a quarter turn (R196). -/
def dyTrig (cosine : Bool) (d : Dy) : Dy :=
  let zero : Dy := ⟨if cosine then false else d.neg, 0, 0⟩
  let one (neg : Bool) : Dy := ⟨neg, 1, 0⟩
  let flip := !cosine && d.neg
  let den := 2 ^ (max 0 (-d.exp)).toNat
  let r4 := (if 0 ≤ d.exp then 0 else d.mant % den) * 4
  let q := r4 / den + (if cosine then 1 else 0)
  let t := r4 % den
  if t = 0 then
    match q % 4 with
    | 0 => zero
    | 1 => one flip
    | 2 => zero
    | _ => one (!flip)
  else
    let y := t * fxOne / den * (piFx / 2) / fxOne
    match q % 4 with
    | 0 => fxDy flip (sinFx y) 0
    | 1 => fxDy flip (cosFx y) 0
    | 2 => fxDy (!flip) (sinFx y) 0
    | _ => fxDy (!flip) (cosFx y) 0

/-- tanh of a nonzero value. -/
def dyTanh (d : Dy) : Dy :=
  let l : Int := (nlog2 d.mant : Int) + d.exp
  if l < -60 then ⟨d.neg, d.mant * 2 ^ 100 - 1, d.exp - 100⟩
  else if 8 ≤ l then ⟨d.neg, 2 ^ 100 - 1, -100⟩
  else
    let x := if 0 ≤ d.exp then d.mant * 2 ^ d.exp.toNat * fxOne else d.mant * fxOne / 2 ^ (-d.exp).toNat
    let y := 2 * x * fxOne / ln2Fx
    let e := exp2Fx (y % fxOne) * 2 ^ (y / fxOne)
    fxDy d.neg ((e - fxOne) * fxOne / (e + fxOne)) 0

end Sys2Proof.Machine
end

