-- ==== Sys2Proof/Machine/Lane.lean ====
section
/-!
DEFINITION. Integer, logic, shift, comparison, selection and move instructions of the V-set (R235–R244), and the functions of one lane that the
U-set shares with them (R279).
-/
namespace Sys2Proof.Machine

/-! ### Writing lanes -/

/-- One word per lane of P to D, and to the latch (R215, R221, R231). -/
def laneWord (m : Mach) (c : Ctx) (d : Dst) (f : Nat → Word) : Res :=
  let vals := c.lanes.map (fun i => (i, f i))
  .done (m.wrRegs c (dstWrites d vals)) vals .seq

/-- 64 bits per lane of P to a pair; the latch takes the low word (R239). -/
def lanePair (m : Mach) (c : Ctx) (d : Dst) (f : Nat → DWord) : Res :=
  let vals := c.lanes.map (fun i => (i, f i))
  .done (m.wrRegs c (pairWrites d vals)) (vals.map (fun p => (p.1, lo32 p.2))) .seq

/-- Condition bits, none with n = 1. -/
def Mach.wrDstCond (m : Mach) (c : Ctx) (d : Dst) (vals : List (Nat × Bool)) : Mach :=
  match d with
  | .v k => m.wrCond c k vals
  | .nw => m

/-- One condition bit per lane of P; the latch takes 1 or 0 (R221, R242). -/
def laneCond (m : Mach) (c : Ctx) (d : Dst) (f : Nat → Bool) : Res :=
  let vals := c.lanes.map (fun i => (i, f i))
  .done (m.wrDstCond c d vals) (vals.map (fun p => (p.1, if p.2 then 1 else 0))) .seq

/-- One word with flags per lane of P; the flags are ORed once, after the writes (R235). -/
def laneFlags (m : Mach) (c : Ctx) (d : Dst) (f : Nat → Word × Word) : Res :=
  let rs := c.lanes.map (fun i => (i, f i))
  let vals := rs.map (fun p => (p.1, p.2.1))
  .done ((m.wrRegs c (dstWrites d vals)).orFlags c (allFlags (rs.map Prod.snd))) vals .seq

/-! ### One lane -/

/-- IADD (R238). -/
def opAdd (md : Sat) (a b : Word) : Word := satResult md (satRead md a + satRead md b)
/-- ISUB (R238). -/
def opSub (md : Sat) (a b : Word) : Word := satResult md (satRead md a - satRead md b)
/-- IMUL (R238). -/
def opMul (md : Sat) (a b : Word) : Word := satResult md (satRead md a * satRead md b)
/-- IMAD (R238). -/
def opMad (md : Sat) (a b d : Word) : Word := satResult md (satRead md a * satRead md b + satRead md d)
/-- IMULH (R239): bits 63:32 of the exact product. -/
def opMulh (sg : Sgn) (a b : Word) : Word := hi32 (BitVec.ofInt 64 (sgnRead sg a * sgnRead sg b))
/-- IMIN (R239). -/
def opMin (sg : Sgn) (a b : Word) : Word := if sgnRead sg a ≤ sgnRead sg b then a else b
/-- IMAX (R239). -/
def opMax (sg : Sgn) (a b : Word) : Word := if sgnRead sg a ≤ sgnRead sg b then b else a
/-- ISAD (R239). -/
def opSad (sg : Sgn) (a b d : Word) : Word := d + BitVec.ofNat 32 (sgnRead sg a - sgnRead sg b).natAbs
/-- SHL, SHR, SAR, ROL (R240). -/
def opShift (op : ShiftOp) (a : Word) (n : Nat) : Word :=
  match op with
  | .shl => if n < 32 then a <<< n else 0
  | .shr => if n < 32 then a >>> n else 0
  | .sar => a.sshiftRight (min n 31)
  | .rol => a.rotateLeft (n % 32)
/-- POPC (R240). -/
def opPopc (a : Word) : Word := BitVec.ofNat 32 ((List.range 32).filter (fun k => a.getLsbD k)).length
/-- CLZ (R240). -/
def opClz (a : Word) : Word := if a = 0 then 32 else BitVec.ofNat 32 (31 - nlog2 a.toNat)
/-- BREV (R240). -/
def opBrev (a : Word) : Word := maskOf ((List.range 32).filter (fun k => a.getLsbD (31 - k)))

/-- The position of a field descriptor (R241). -/
def fieldPos (b : Word) : Nat := nbits b.toNat 4 0
/-- The length of a field descriptor, cut at bit 31 (R241). -/
def fieldLen (b : Word) : Nat := min (nbits b.toNat 13 8) (32 - fieldPos b)
/-- The field as a number. -/
def fieldOf (a b : Word) : Nat := a.toNat / 2 ^ fieldPos b % 2 ^ fieldLen b

/-- BFX (R241). -/
def opBfx (sg : Sgn) (a b : Word) : Word :=
  let f := fieldOf a b
  let len := fieldLen b
  match sg with
  | .u => BitVec.ofNat 32 f
  | .s => if len ≠ 0 ∧ nbit f (len - 1) then BitVec.ofInt 32 ((f : Int) - 2 ^ len) else BitVec.ofNat 32 f

/-- BFI (R241). -/
def opBfi (a b d : Word) : Word :=
  let mask : Word := BitVec.ofNat 32 ((2 ^ fieldLen b - 1) * 2 ^ fieldPos b)
  (d &&& ~~~ mask) ||| ((a <<< fieldPos b) &&& mask)

/-- ICMP (R242). -/
def opCmp (op : CmpS) (a b : Word) : Bool :=
  match op with
  | .eq => a == b
  | .ne => a != b
  | .lt => decide (a.toInt < b.toInt)
  | .le => decide (a.toInt ≤ b.toInt)

/-- ICMPU (R242). -/
def opCmpu (op : CmpU) (a b : Word) : Bool :=
  match op with
  | .lt => decide (a.toNat < b.toNat)
  | .le => decide (a.toNat ≤ b.toNat)

/-- The immediate k as a word (R244). -/
def immWord (k : Int) : Word := BitVec.ofInt 32 k

/-- A condition bit as a word. -/
def bitWord (b : Bool) : Word := if b then 1 else 0

/-- The condition-register code that MOV.fromc names in A (R243). -/
def condCode : Src → Nat
  | .v n => n
  | .lat _ => 0

/-! ### Two sources, one source -/

/-- An instruction of two source fields. -/
def bin (d : Dst) (a b : Src) (f : Word → Word → Word) (_ : Conf) (m : Mach) (c : Ctx) : Res :=
  laneWord m c d (fun i => f (m.src c a i) (m.src c b i))
/-- An accumulating instruction of two source fields (R236). -/
def tri (d : Dst) (a b : Src) (f : Word → Word → Word → Word) (_ : Conf) (m : Mach) (c : Ctx) : Res :=
  laneWord m c d (fun i => f (m.src c a i) (m.src c b i) (m.addend c d i))
/-- An instruction of one source field. -/
def una (d : Dst) (a : Src) (f : Word → Word) (_ : Conf) (m : Mach) (c : Ctx) : Res := laneWord m c d (fun i => f (m.src c a i))
/-- A comparison into a condition register. -/
def cmp (d : Dst) (a b : Src) (f : Word → Word → Bool) (_ : Conf) (m : Mach) (c : Ctx) : Res :=
  laneCond m c d (fun i => f (m.src c a i) (m.src c b i))

/-! ### The instructions -/

/-- IADD (R238). -/
def execIadd (md : Sat) (d : Dst) (a b : Src) (s : State) := issue s (.iadd md d a b) (bin d a b (opAdd md))
/-- ISUB (R238). -/
def execIsub (md : Sat) (d : Dst) (a b : Src) (s : State) := issue s (.isub md d a b) (bin d a b (opSub md))
/-- IMUL (R238). -/
def execImul (md : Sat) (d : Dst) (a b : Src) (s : State) := issue s (.imul md d a b) (bin d a b (opMul md))
/-- IMULH (R239). -/
def execImulh (md : Sgn) (d : Dst) (a b : Src) (s : State) := issue s (.imulh md d a b) (bin d a b (opMulh md))
/-- IMAD (R238): D is also the addend. -/
def execImad (md : Sat) (d : Dst) (a b : Src) (s : State) := issue s (.imad md d a b) (tri d a b (opMad md))
/-- IMIN (R239). -/
def execImin (md : Sgn) (d : Dst) (a b : Src) (s : State) := issue s (.imin md d a b) (bin d a b (opMin md))
/-- IMAX (R239). -/
def execImax (md : Sgn) (d : Dst) (a b : Src) (s : State) := issue s (.imax md d a b) (bin d a b (opMax md))
/-- ISAD (R239): D is also the addend. -/
def execIsad (md : Sgn) (d : Dst) (a b : Src) (s : State) := issue s (.isad md d a b) (tri d a b (opSad md))
/-- AND (R240). -/
def execAnd (d : Dst) (a b : Src) (s : State) := issue s (.and d a b) (bin d a b (fun x y => x &&& y))
/-- OR (R240). -/
def execOr (d : Dst) (a b : Src) (s : State) := issue s (.or d a b) (bin d a b (fun x y => x ||| y))
/-- XOR (R240). -/
def execXor (d : Dst) (a b : Src) (s : State) := issue s (.xor d a b) (bin d a b (fun x y => x ^^^ y))
/-- ANDN (R240). -/
def execAndn (d : Dst) (a b : Src) (s : State) := issue s (.andn d a b) (bin d a b (fun x y => x &&& ~~~ y))
/-- SHL (R240). -/
def execShl (d : Dst) (a b : Src) (s : State) := issue s (.shl d a b) (bin d a b (fun x y => opShift .shl x y.toNat))
/-- SHR (R240). -/
def execShr (d : Dst) (a b : Src) (s : State) := issue s (.shr d a b) (bin d a b (fun x y => opShift .shr x y.toNat))
/-- SAR (R240). -/
def execSar (d : Dst) (a b : Src) (s : State) := issue s (.sar d a b) (bin d a b (fun x y => opShift .sar x y.toNat))
/-- ROL (R240). -/
def execRol (d : Dst) (a b : Src) (s : State) := issue s (.rol d a b) (bin d a b (fun x y => opShift .rol x y.toNat))
/-- POPC (R240). -/
def execPopc (d : Dst) (a : Src) (s : State) := issue s (.popc d a) (una d a opPopc)
/-- CLZ (R240). -/
def execClz (d : Dst) (a : Src) (s : State) := issue s (.clz d a) (una d a opClz)
/-- BREV (R240). -/
def execBrev (d : Dst) (a : Src) (s : State) := issue s (.brev d a) (una d a opBrev)
/-- BFX (R241). -/
def execBfx (md : Sgn) (d : Dst) (a b : Src) (s : State) := issue s (.bfx md d a b) (bin d a b (opBfx md))
/-- BFI (R241): D is read first, as a source. -/
def execBfi (d : Dst) (a b : Src) (s : State) := issue s (.bfi d a b) (tri d a b opBfi)
/-- ICMP (R242). -/
def execIcmp (op : CmpS) (k : Dst) (a b : Src) (s : State) := issue s (.icmp op k a b) (cmp k a b (opCmp op))
/-- ICMPU (R242). -/
def execIcmpu (op : CmpU) (k : Dst) (a b : Src) (s : State) := issue s (.icmpu op k a b) (cmp k a b (opCmpu op))
/-- SEL (R243). -/
def execSel (k : Nat) (d : Dst) (a b : Src) (s : State) :=
  issue s (.sel k d a b) (fun _ m c => laneWord m c d (fun i => if c.cond k i then m.src c a i else m.src c b i))
/-- IADDI (R244). -/
def execIaddi (d : Dst) (a : Src) (k : Int) (s : State) := issue s (.iaddi d a k) (una d a (fun x => x + immWord k))
/-- ANDI (R244). -/
def execAndi (d : Dst) (a : Src) (k : Int) (s : State) := issue s (.andi d a k) (una d a (fun x => x &&& immWord k))
/-- ORI (R244). -/
def execOri (d : Dst) (a : Src) (k : Int) (s : State) := issue s (.ori d a k) (una d a (fun x => x ||| immWord k))
/-- XORI (R244). -/
def execXori (d : Dst) (a : Src) (k : Int) (s : State) := issue s (.xori d a k) (una d a (fun x => x ^^^ immWord k))
/-- SHIFTI (R244). -/
def execShifti (op : ShiftOp) (d : Dst) (a : Src) (n : Nat) (s : State) := issue s (.shifti op d a n) (una d a (fun x => opShift op x n))
/-- MOV, MOV.fromc, MOV.toc (R243). -/
def execMov (sl : MovSel) (d : Dst) (a : Src) (s : State) :=
  issue s (.mov sl d a) (fun _ m c => match sl with
    | .mov => laneWord m c d (fun i => m.src c a i)
    | .fromc => laneWord m c d (fun i => bitWord (c.cond (condCode a) i))
    | .toc => laneCond m c d (fun i => m.src c a i != 0))
/-- IADD64 (R239). -/
def execIadd64 (d : Dst) (a b : Nat) (s : State) :=
  issue s (.iadd64 d a b) (fun _ m c => lanePair m c d (fun i => m.v64 c a i + m.v64 c b i))

end Sys2Proof.Machine
end

