-- ==== Sys2Proof/Machine/Float.lean ====
section
/-!
DEFINITION. Floating-point arithmetic, comparison, conversion and packing of the V-set (R245–R254, R256, R257).
-/
namespace Sys2Proof.Machine

/-! ### Values (R192, R247) -/

/-- Whether a value is a NaN. -/
def FV.isNan : FV → Bool
  | .nan _ => true
  | _ => false
/-- INV of the inputs: an input is a signalling NaN (R192). -/
def sigFlag (vs : List FV) : Word := flagIf (vs.any (fun v => v == .nan true)) fInv

/-- The value with its sign inverted. -/
def FV.opp : FV → FV
  | .nan q => .nan q
  | .inf n => .inf (!n)
  | .fin d => .fin d.opp

/-- The product, and INV for 0 × ∞ (R192, R247). -/
def FV.mul (a b : FV) : FV × Word :=
  match a, b with
  | .nan _, _ => (.nan false, 0)
  | _, .nan _ => (.nan false, 0)
  | .inf n, .inf k => (.inf (n != k), 0)
  | .inf n, .fin d => if d.mant = 0 then (.nan false, fInv) else (.inf (n != d.neg), 0)
  | .fin d, .inf n => if d.mant = 0 then (.nan false, fInv) else (.inf (n != d.neg), 0)
  | .fin d, .fin e => (.fin (d.mul e), 0)

/-- The finite values of a list. -/
def fins (vs : List FV) : List Dy := vs.filterMap (fun v => match v with
  | .fin d => some d
  | _ => none)

/-- The exact sum, and INV for opposite infinities (R192, R247, R262). -/
def fvSum (vs : List FV) : FV × Word :=
  let p := vs.any (fun v => v == .inf false)
  let n := vs.any (fun v => v == .inf true)
  if vs.any FV.isNan || (p && n) then (.nan false, if p && n then fInv else 0)
  else if p then (.inf false, 0)
  else if n then (.inf true, 0)
  else (.fin (dySum (fins vs)), 0)

/-- The code of an exact result in a format (R190, R192). -/
def Fmt.ofFV (f : Fmt) (rm : RMode) (v : FV) : Nat × Word :=
  match v with
  | .nan _ => (f.qnan, 0)
  | .inf n => (f.signBit n + (f.maxCode + 1), 0)
  | .fin d => f.round rm d

/-- A sum of terms rounded once by RNE, the inputs' and the operation's flags with it. -/
def sumOf (f : Fmt) (ins : List FV) (ts : List (FV × Word)) : Nat × Word :=
  let r := fvSum (ts.map Prod.fst)
  let c := f.ofFV .rne r.1
  (c.1, sigFlag ins ||| allFlags ts ||| r.2 ||| c.2)

/-- FADD, FSUB of one element (R247). -/
def elAdd (f : Fmt) (sub : Bool) (a b : Nat) : Nat × Word :=
  let x := f.dec a
  let y := f.dec b
  sumOf f [x, y] [(x, 0), (if sub then y.opp else y, 0)]

/-- FMUL of one element (R247). -/
def elMul (f : Fmt) (a b : Nat) : Nat × Word :=
  let x := f.dec a
  let y := f.dec b
  let p := x.mul y
  let c := f.ofFV .rne p.1
  (c.1, sigFlag [x, y] ||| p.2 ||| c.2)

/-- ±(a × b) ± d of one element: FFMA, FFMS, FNMA (R247). -/
def elFma (f : Fmt) (negP negD : Bool) (a b d : Nat) : Nat × Word :=
  let x := f.dec a
  let y := f.dec b
  let z := f.dec d
  let p := x.mul y
  sumOf f [x, y, z] [(if negP then p.1.opp else p.1, p.2), (if negD then z.opp else z, 0)]

/-- Order of values for FMIN and FMAX: −0 below +0 (R248). -/
def FV.below (a b : FV) : Bool :=
  match a, b with
  | .inf n, .inf k => n && !k
  | .inf n, _ => n
  | _, .inf n => !n
  | .fin d, .fin e => d.lt e || (d.mant == 0 && e.mant == 0 && d.neg && !e.neg)
  | _, _ => false

/-- FMIN, FMAX of one element (R248). -/
def elMinMax (f : Fmt) (isMax : Bool) (a b : Nat) : Nat × Word :=
  let x := f.dec a
  let y := f.dec b
  let fl := sigFlag [x, y]
  if x.isNan && y.isNan then (f.qnan, fl)
  else if x.isNan then (b, fl)
  else if y.isNan then (a, fl)
  else (if (if isMax then y.below x else x.below y) then a else if (if isMax then x.below y else y.below x) then b else a, fl)

/-- The element format of a type (R245). -/
def ftypeFmt : FType → Fmt
  | .f32 => fp32
  | .f16x2 => fp16
  | .bf16x2 => bf16

/-- An operation on one FP32 value, or on both 16-bit elements; the flags of both are ORed (R245). -/
def elements (ty : FType) (op : Fmt → Nat → Nat → Nat → Nat × Word) (a b d : Word) : Word × Word :=
  match ty with
  | .f32 => let r := op fp32 a.toNat b.toNat d.toNat; (BitVec.ofNat 32 r.1, r.2)
  | ty =>
    let f := ftypeFmt ty
    let lo := op f (a.toNat % 2 ^ 16) (b.toNat % 2 ^ 16) (d.toNat % 2 ^ 16)
    let hi := op f (a.toNat / 2 ^ 16) (b.toNat / 2 ^ 16) (d.toNat / 2 ^ 16)
    (BitVec.ofNat 32 (lo.1 % 2 ^ 16 + hi.1 % 2 ^ 16 * 2 ^ 16), lo.2 ||| hi.2)

/-- DOT2 of one lane (R249). -/
def opDot2 (ty : DotType) (a b d : Word) : Word × Word :=
  let f := match ty with
    | .f16x2 => fp16
    | .bf16x2 => bf16
  let a0 := f.dec (a.toNat % 2 ^ 16)
  let a1 := f.dec (a.toNat / 2 ^ 16)
  let b0 := f.dec (b.toNat % 2 ^ 16)
  let b1 := f.dec (b.toNat / 2 ^ 16)
  let z := fp32.dec d.toNat
  let r := sumOf fp32 [a0, a1, b0, b1, z] [(z, 0), a0.mul b0, a1.mul b1]
  (BitVec.ofNat 32 r.1, r.2)

/-- FCMP of one lane (R250): the relation, and its flags. -/
def opFcmp (op : FCmpOp) (a b : Word) : Bool × Word :=
  let x := fp32.dec a.toNat
  let y := fp32.dec b.toNat
  let nan := x.isNan || y.isNan
  let eq := match x, y with
    | .inf n, .inf k => n == k
    | .fin d, .fin e => d.same e
    | _, _ => false
  let lt := match x, y with
    | .inf n, .inf k => n && !k
    | .inf n, .fin _ => n
    | .fin _, .inf n => !n
    | .fin d, .fin e => d.lt e
    | _, _ => false
  match op with
  | .eq => (!nan && eq, sigFlag [x, y])
  | .lt => (!nan && lt, flagIf nan fInv)
  | .le => (!nan && (lt || eq), flagIf nan fInv)
  | .un => (nan, sigFlag [x, y])

/-- FSIGN (R251). -/
def opFsign (op : SignOp) (a b : Word) : Word :=
  match op with
  | .abs => a &&& 0x7FFFFFFF
  | .neg => a ^^^ 0x80000000
  | .copysign => (a &&& 0x7FFFFFFF) ||| (b &&& 0x80000000)
  | .nabs => a ||| 0x80000000

/-! ### Conversions (R193–R195) -/

/-- Zero-extension of a code. -/
def codeWord (r : Nat × Word) : Word × Word := (BitVec.ofNat 32 r.1, r.2)

/-- FP32 to a float format (R194); `sat` for CVTS. -/
def cvtFloat (f : Fmt) (sat : Bool) (rm : RMode) (x : FV) : Nat × Word :=
  match x with
  | .nan q => if f.hasNan then (f.qnan, flagIf q fInv) else (0, fInv)
  | .inf n =>
    if f.hasInf then (f.signBit n + (f.maxCode + 1), 0)
    else (f.signBit n + (if f.hasNan && !sat then f.maxCode + 1 else f.maxCode), fInv)
  | .fin d =>
    let r := f.round rm d
    if f.maxCode < (f.magCode rm d.neg d.mant d.exp).1 then
      (if sat then f.signBit d.neg + f.maxCode
        else if f.hasInf then r.1
        else if f.hasNan then f.signBit d.neg + (f.maxCode + 1)
        else f.signBit d.neg + f.maxCode, fOvf ||| fInx)
    else r

/-- FP32 to an integer of `bits` bits (R194). -/
def cvtInt (bits : Nat) (signed sat : Bool) (rm : RMode) (x : FV) : Word × Word :=
  let lo : Int := if signed then -(2 ^ (bits - 1)) else 0
  let hi : Int := if signed then 2 ^ (bits - 1) - 1 else 2 ^ bits - 1
  let bad : Int := if signed then lo else hi
  match x with
  | .nan _ => (BitVec.ofInt 32 (if sat then 0 else bad), fInv)
  | .inf n => (BitVec.ofInt 32 (if sat then (if n then lo else hi) else bad), fInv)
  | .fin d =>
    let r := roundInt rm d
    if r.1 < lo then (BitVec.ofInt 32 (if sat then lo else bad), fInv)
    else if hi < r.1 then (BitVec.ofInt 32 (if sat then hi else bad), fInv)
    else (BitVec.ofInt 32 r.1, flagIf r.2 fInx)

/-- FP32 to a clamped integer multiple of 2^−sh: MXINT8 and BFP-m (R195). -/
def cvtClamp (sh : Int) (lim : Int) (rm : RMode) (x : FV) : Word × Word :=
  match x with
  | .nan _ => (0, fInv)
  | .inf n => (BitVec.ofInt 32 (if n then -lim else lim), fInv)
  | .fin d =>
    let r := roundInt rm { d with exp := d.exp + sh }
    if lim < r.1 then (BitVec.ofInt 32 lim, fOvf ||| fInx)
    else if r.1 < -lim then (BitVec.ofInt 32 (-lim), fOvf ||| fInx)
    else (BitVec.ofInt 32 r.1, flagIf r.2 fInx)

/-- A narrower float widened exactly to FP32 (R193). -/
def widen (f : Fmt) (c : Nat) : Word × Word :=
  let v := f.dec (c % 2 ^ f.width)
  let r := fp32.ofFV .rne v
  (BitVec.ofNat 32 r.1, sigFlag [v])

/-- The low bits of a word as a two's-complement integer. -/
def lowInt (bits : Nat) (x : Word) : Int :=
  let n := x.toNat % 2 ^ bits
  if n < 2 ^ (bits - 1) then n else (n : Int) - 2 ^ bits

/-- An integer to FP32 under a mode (R193). -/
def ofInt32 (rm : RMode) (n : Int) : Word × Word := codeWord (fp32.round rm (dyInt n))

/-- The codebook index of a value by the CBQ rule (R187, R257): the index and INV. -/
def cbIndex (cb : List (BitVec 16)) (x : FV) : Nat × Word :=
  let es := cb.map (fun e => bf16.dec e.toNat)
  match x with
  | .nan q =>
    match (List.range 16).find? (fun k => (es.getD k (.nan false)).isNan && decide (k < es.length)) with
    | some k => (k, flagIf q fInv)
    | none => (0, fInv)
  | x =>
    let dist (e : FV) : Option Nat :=
      match x, e with
      | _, .nan _ => none
      | .inf n, .inf k => if n = k then some 0 else some (fp32.maxCode + 1)
      | .inf _, _ => some (fp32.maxCode + 1)
      | _, .inf _ => some (fp32.maxCode + 1)
      | .fin d, .fin e => if d.same e then some 0 else some ((fp32.round .rne (dySum [d, e.opp])).1 % 2 ^ 31)
      | _, _ => none
    let best := (List.range es.length).foldl (fun b k =>
      match dist (es.getD k (.nan false)), b with
      | none, b => b
      | some n, none => some (n, k)
      | some n, some (n', k') => if n < n' then some (n, k) else some (n', k')) (none : Option (Nat × Nat))
    match best with
    | some (_, k) => (k, 0)
    | none => (0, fInv)

/-- A codebook entry widened exactly to FP32 (R257). -/
def cbEntry (cb : List (BitVec 16)) (k : Nat) : Word × Word := widen bf16 (cb.getD k 0).toNat

/-- FP32 to the element format of a slot (R195). -/
def toSlot (slot : Nat) (cb : List (BitVec 16)) (sat : Bool) (rm : RMode) (x : Word) : Word × Word :=
  let v := fp32.dec x.toNat
  match nbits slot 7 0 with
  | 1 => (if v.isNan then BitVec.ofNat 32 fp32.qnan else x, sigFlag [v])
  | 2 => codeWord (cvtFloat fp16 sat rm v)
  | 3 => codeWord (cvtFloat bf16 sat rm v)
  | 4 => codeWord (cvtFloat e4m3 sat rm v)
  | 5 => codeWord (cvtFloat e5m2 sat rm v)
  | 6 => codeWord (cvtFloat e4m3 sat rm v)
  | 7 => codeWord (cvtFloat e5m2 sat rm v)
  | 8 => codeWord (cvtFloat e3m2 sat rm v)
  | 9 => codeWord (cvtFloat e2m3 sat rm v)
  | 0x0A => codeWord (cvtFloat e2m1 sat rm v)
  | 0x0B => cvtClamp 6 127 rm v
  | 0x0C => cvtInt 8 true sat rm v
  | 0x0D => cvtInt 4 true sat rm v
  | 0x0E => let r := cbIndex cb v; (BitVec.ofNat 32 r.1, r.2)
  | _ => cvtClamp 0 (2 ^ (nbits slot 11 8 - 1) - 1) rm v

/-- The element format of a slot to FP32, exact (R195). -/
def ofSlot (slot : Nat) (cb : List (BitVec 16)) (x : Word) : Word × Word :=
  match nbits slot 7 0 with
  | 1 => (x, sigFlag [fp32.dec x.toNat])
  | 2 => widen fp16 x.toNat
  | 3 => widen bf16 x.toNat
  | 4 => widen e4m3 x.toNat
  | 5 => widen e5m2 x.toNat
  | 6 => widen e4m3 x.toNat
  | 7 => widen e5m2 x.toNat
  | 8 => widen e3m2 x.toNat
  | 9 => widen e2m3 x.toNat
  | 0x0A => widen e2m1 x.toNat
  | 0x0B => codeWord (fp32.round .rne (dyQ (lowInt 8 x) (-6)))
  | 0x0C => ofInt32 .rne (lowInt 8 x)
  | 0x0D => ofInt32 .rne (lowInt 4 x)
  | 0x0E => cbEntry cb (x.toNat % 16)
  | _ => ofInt32 .rne (lowInt (nbits slot 11 8) x)

/-- CVT and CVTS of one lane (R193–R195, R252). -/
def opCvt (fmts : List Nat) (cb : List (BitVec 16)) (sat : Bool) (rm : RMode) (code : Nat) (x : Word) : Word × Word :=
  let v := fp32.dec x.toNat
  match code with
  | 0x01 => codeWord (cvtFloat fp16 sat rm v)
  | 0x02 => codeWord (cvtFloat bf16 sat rm v)
  | 0x03 => codeWord (cvtFloat e4m3 sat rm v)
  | 0x04 => codeWord (cvtFloat e5m2 sat rm v)
  | 0x05 => codeWord (cvtFloat e3m2 sat rm v)
  | 0x06 => codeWord (cvtFloat e2m3 sat rm v)
  | 0x07 => codeWord (cvtFloat e2m1 sat rm v)
  | 0x08 => widen fp16 x.toNat
  | 0x09 => widen bf16 x.toNat
  | 0x0A => widen e4m3 x.toNat
  | 0x0B => widen e5m2 x.toNat
  | 0x0C => widen e3m2 x.toNat
  | 0x0D => widen e2m3 x.toNat
  | 0x0E => widen e2m1 x.toNat
  | 0x0F => if x.toNat % 256 = 255 then (BitVec.ofNat 32 fp32.qnan, 0) else codeWord (fp32.round .rne ⟨false, 1, (x.toNat % 256 : Nat) - 127⟩)
  | 0x10 => cvtInt 32 true sat rm v
  | 0x11 => cvtInt 32 false sat rm v
  | 0x12 => cvtInt 16 true sat rm v
  | 0x13 => cvtInt 16 false sat rm v
  | 0x14 => cvtInt 8 true sat rm v
  | 0x15 => cvtInt 8 false sat rm v
  | 0x16 => cvtInt 4 true sat rm v
  | 0x18 => ofInt32 rm x.toInt
  | 0x19 => ofInt32 rm x.toNat
  | 0x1A => ofInt32 rm (lowInt 16 x)
  | 0x1B => ofInt32 rm (x.toNat % 2 ^ 16 : Nat)
  | 0x1C => ofInt32 rm (lowInt 8 x)
  | 0x1D => ofInt32 rm (x.toNat % 256 : Nat)
  | 0x1E => ofInt32 rm (lowInt 4 x)
  | k => if k < 0x48 then toSlot (fmts.getD (k - 0x40) 0) cb sat rm x else ofSlot (fmts.getD (k - 0x48) 0) cb x

/-- FRND of one lane (R253). A nonzero value that rounds to zero sets INX, as R253 has it, and not UNF too, as R190 step 3 would (a choice of the model: log entry 121). -/
def opFrnd (rm : RMode) (x : Word) : Word × Word :=
  match fp32.dec x.toNat with
  | .nan q => (BitVec.ofNat 32 fp32.qnan, flagIf q fInv)
  | .inf _ => (x, 0)
  | .fin d =>
    let r := roundAt rm d.neg d.mant d.exp 0
    if r.2 then (BitVec.ofNat 32 (fp32.round .rne ⟨d.neg, r.1, 0⟩).1, fInx) else (x, 0)

/-- FSCALE of one lane (R254). -/
def opFscale (x b : Word) : Word × Word :=
  match fp32.dec x.toNat with
  | .nan q => (BitVec.ofNat 32 fp32.qnan, flagIf q fInv)
  | .inf _ => (x, 0)
  | .fin d => if d.mant = 0 then (x, 0) else round32 { d with exp := d.exp + max (-1000) (min 1000 b.toInt) }

/-- FXTR of one lane (R254). -/
def opFxtr (sl : XtrSel) (x : Word) : Word × Word :=
  match sl, fp32.dec x.toNat with
  | .exp, .nan _ => (0x80000000, fInv)
  | .mant, .nan q => (BitVec.ofNat 32 fp32.qnan, flagIf q fInv)
  | .exp, .inf _ => (0x7FFFFFFF, 0)
  | .mant, .inf _ => (x, 0)
  | .exp, .fin d => (if d.mant = 0 then 0x80000000 else BitVec.ofInt 32 ((nlog2 d.mant : Int) + d.exp), 0)
  | .mant, .fin d => if d.mant = 0 then (x, 0) else round32 { d with exp := -(nlog2 d.mant : Int) }

/-- PACK of one lane (R256). -/
def opPack (sl : PackSel) (a b : Word) : Word × Word :=
  let two (f : Fmt) : Word × Word :=
    let x := cvtFloat f false .rne (fp32.dec a.toNat)
    let y := cvtFloat f false .rne (fp32.dec b.toNat)
    (BitVec.ofNat 32 (x.1 + y.1 * 2 ^ 16), x.2 ||| y.2)
  match sl with
  | .f16 => two fp16
  | .bf16 => two bf16
  | .b16 => (BitVec.ofNat 32 (a.toNat % 2 ^ 16 + b.toNat % 2 ^ 16 * 2 ^ 16), 0)

/-- UNPK of one lane (R256). -/
def opUnpk (sl : UnpkSel) (h : Nat) (a : Word) : Word × Word :=
  let n := nbits a.toNat (16 * h + 15) (16 * h)
  match sl with
  | .f16 => widen fp16 n
  | .bf16 => widen bf16 n
  | .s16 => (BitVec.ofInt 32 (lowInt 16 (BitVec.ofNat 32 n)), 0)
  | .u16 => (BitVec.ofNat 32 n, 0)

/-- CBQ of one lane (R257). -/
def opCbq (cb : List (BitVec 16)) (nib : Nat) (a d : Word) : Word × Word :=
  let v := fp32.dec a.toNat
  let r := cbIndex cb v
  ((d &&& ~~~ BitVec.ofNat 32 (15 * 2 ^ (4 * nib))) ||| BitVec.ofNat 32 (r.1 * 2 ^ (4 * nib)), r.2 ||| sigFlag [v])

/-- CBX of one lane (R257). -/
def opCbx (cb : List (BitVec 16)) (nib : Nat) (a : Word) : Word × Word := cbEntry cb (nbits a.toNat (4 * nib + 3) (4 * nib))

/-! ### The instructions -/

/-- A floating-point instruction of two source fields by type (R245). -/
def binF (ty : FType) (d : Dst) (a b : Src) (op : Fmt → Nat → Nat → Nat × Word) (_ : Conf) (m : Mach) (c : Ctx) : Res :=
  laneFlags m c d (fun i => elements ty (fun f x y _ => op f x y) (m.src c a i) (m.src c b i) 0)
/-- An accumulating floating-point instruction by type (R245, R247). -/
def triF (ty : FType) (d : Dst) (a b : Src) (op : Fmt → Nat → Nat → Nat → Nat × Word) (_ : Conf) (m : Mach) (c : Ctx) : Res :=
  laneFlags m c d (fun i => elements ty op (m.src c a i) (m.src c b i) (m.addend c d i))
/-- A floating-point instruction of one source field. -/
def unaF (d : Dst) (a : Src) (op : Word → Word × Word) (_ : Conf) (m : Mach) (c : Ctx) : Res := laneFlags m c d (fun i => op (m.src c a i))

/-- FADD (R247). -/
def execFadd (ty : FType) (d : Dst) (a b : Src) (s : State) := issue s (.fadd ty d a b) (binF ty d a b (fun f => elAdd f false))
/-- FSUB (R247). -/
def execFsub (ty : FType) (d : Dst) (a b : Src) (s : State) := issue s (.fsub ty d a b) (binF ty d a b (fun f => elAdd f true))
/-- FMUL (R247). -/
def execFmul (ty : FType) (d : Dst) (a b : Src) (s : State) := issue s (.fmul ty d a b) (binF ty d a b elMul)
/-- FFMA (R247). -/
def execFfma (ty : FType) (d : Dst) (a b : Src) (s : State) := issue s (.ffma ty d a b) (triF ty d a b (fun f => elFma f false false))
/-- FFMS (R247). -/
def execFfms (ty : FType) (d : Dst) (a b : Src) (s : State) := issue s (.ffms ty d a b) (triF ty d a b (fun f => elFma f false true))
/-- FNMA (R247). -/
def execFnma (ty : FType) (d : Dst) (a b : Src) (s : State) := issue s (.fnma ty d a b) (triF ty d a b (fun f => elFma f true false))
/-- FMIN (R248). -/
def execFmin (ty : FType) (d : Dst) (a b : Src) (s : State) := issue s (.fmin ty d a b) (binF ty d a b (fun f => elMinMax f false))
/-- FMAX (R248). -/
def execFmax (ty : FType) (d : Dst) (a b : Src) (s : State) := issue s (.fmax ty d a b) (binF ty d a b (fun f => elMinMax f true))
/-- DOT2 (R249). -/
def execDot2 (ty : DotType) (d : Dst) (a b : Src) (s : State) :=
  issue s (.dot2 ty d a b) (fun _ m c => laneFlags m c d (fun i => opDot2 ty (m.src c a i) (m.src c b i) (m.addend c d i)))
/-- FCMP (R250). -/
def execFcmp (op : FCmpOp) (k : Dst) (a b : Src) (s : State) :=
  issue s (.fcmp op k a b) (fun _ m c =>
    let rs := c.lanes.map (fun i => (i, opFcmp op (m.src c a i) (m.src c b i)))
    .done ((m.wrDstCond c k (rs.map (fun p => (p.1, p.2.1)))).orFlags c (allFlags (rs.map Prod.snd)))
      (rs.map (fun p => (p.1, bitWord p.2.1))) .seq)
/-- FSIGN (R251). -/
def execFsign (op : SignOp) (d : Dst) (a b : Src) (s : State) := issue s (.fsign op d a b) (bin d a b (opFsign op))
/-- CVT (R252). -/
def execCvt (rm : RMode) (d : Dst) (a : Src) (code : Nat) (s : State) :=
  issue s (.cvt rm d a code) (fun _ m c => laneFlags m c d (fun i => opCvt c.rc.fmts c.g.codebook false rm code (m.src c a i)))
/-- CVTS (R252). -/
def execCvts (rm : RMode) (d : Dst) (a : Src) (code : Nat) (s : State) :=
  issue s (.cvts rm d a code) (fun _ m c => laneFlags m c d (fun i => opCvt c.rc.fmts c.g.codebook true rm code (m.src c a i)))
/-- FRND (R253). -/
def execFrnd (rm : RMode) (d : Dst) (a : Src) (s : State) := issue s (.frnd rm d a) (unaF d a (opFrnd rm))
/-- FSCALE (R254). -/
def execFscale (d : Dst) (a b : Src) (s : State) :=
  issue s (.fscale d a b) (fun _ m c => laneFlags m c d (fun i => opFscale (m.src c a i) (m.src c b i)))
/-- FXTR (R254). -/
def execFxtr (sl : XtrSel) (d : Dst) (a : Src) (s : State) := issue s (.fxtr sl d a) (unaF d a (opFxtr sl))
/-- PACK (R256). -/
def execPack (sl : PackSel) (d : Dst) (a b : Src) (s : State) :=
  issue s (.pack sl d a b) (fun _ m c => laneFlags m c d (fun i => opPack sl (m.src c a i) (m.src c b i)))
/-- UNPK (R256). -/
def execUnpk (sl : UnpkSel) (d : Dst) (a : Src) (h : Nat) (s : State) := issue s (.unpk sl d a h) (unaF d a (opUnpk sl h))
/-- CBQ (R257): D is read first. -/
def execCbq (d : Dst) (a : Src) (nib : Nat) (s : State) :=
  issue s (.cbq d a nib) (fun _ m c => laneFlags m c d (fun i => opCbq c.g.codebook nib (m.src c a i) (m.addend c d i)))
/-- CBX (R257). -/
def execCbx (d : Dst) (a : Src) (nib : Nat) (s : State) :=
  issue s (.cbx d a nib) (fun _ m c => laneFlags m c d (fun i => opCbx c.g.codebook nib (m.src c a i)))

end Sys2Proof.Machine
end

