-- ==== Sys2Proof/Machine/Special.lean ====
section
/-!
DEFINITION. The special functions RCP, RSQ, SQRT, EX2, LG2, SIN, COS and TANH (R196, R255; log entry 7).
-/
namespace Sys2Proof.Machine

/-- ±∞ as FP32. -/
def inf32 (neg : Bool) : Word := if neg then 0xFF800000 else 0x7F800000
/-- ±0 as FP32. -/
def zero32 (neg : Bool) : Word := if neg then 0x80000000 else 0
/-- ±1.0 as FP32. -/
def one32 (neg : Bool) : Word := if neg then 0xBF800000 else 0x3F800000
/-- The canonical NaN as FP32. -/
def nan32 : Word := 0x7FC00000

/-- A special function of one lane: what it gives for a NaN, an infinity, a zero, and any other value (R196). -/
def special (onInf : Bool → Word × Word) (onZero : Bool → Word × Word) (onFin : Dy → Word × Word) (x : Word) : Word × Word :=
  match fp32.dec x.toNat with
  | .nan q => (nan32, flagIf q fInv)
  | .inf n => onInf n
  | .fin d => if d.mant = 0 then onZero d.neg else onFin d

/-- No real result (R192). -/
def noResult : Word × Word := (nan32, fInv)

/-- 1/x. -/
def opRcp : Word → Word × Word :=
  special (fun n => (zero32 n, 0)) (fun n => (inf32 n, 0)) (fun d => round32 (dyDiv ⟨false, 1, 0⟩ d))
/-- 1/√x. -/
def opRsq : Word → Word × Word :=
  special (fun n => if n then noResult else (0, 0)) (fun n => (inf32 n, 0))
    (fun d => if d.neg then noResult else round32 (dyDiv ⟨false, 1, 0⟩ (dySqrt d)))
/-- √x. -/
def opSqrt : Word → Word × Word :=
  special (fun n => if n then noResult else (inf32 false, 0)) (fun n => (zero32 n, 0))
    (fun d => if d.neg then noResult else round32 (dySqrt d))
/-- 2^x. -/
def opEx2 : Word → Word × Word :=
  special (fun n => if n then (0, 0) else (inf32 false, 0)) (fun _ => (one32 false, 0)) (fun d => round32 (dyExp2 d))
/-- log2 x. -/
def opLg2 : Word → Word × Word :=
  special (fun n => if n then noResult else (inf32 false, 0)) (fun _ => (inf32 true, 0))
    (fun d => if d.neg then noResult else round32 (log2Ratio d ⟨false, 1, 0⟩))
/-- sin 2πx. -/
def opSin : Word → Word × Word := special (fun _ => noResult) (fun n => (zero32 n, 0)) (fun d => round32 (dyTrig false d))
/-- cos 2πx. -/
def opCos : Word → Word × Word := special (fun _ => noResult) (fun _ => (one32 false, 0)) (fun d => round32 (dyTrig true d))
/-- tanh x. -/
def opTanh : Word → Word × Word := special (fun n => (one32 n, 0)) (fun n => (zero32 n, 0)) (fun d => round32 (dyTanh d))

/-- RCP (R255). -/
def execRcp (d : Dst) (a : Src) (s : State) := issue s (.rcp d a) (unaF d a opRcp)
/-- RSQ (R255). -/
def execRsq (d : Dst) (a : Src) (s : State) := issue s (.rsq d a) (unaF d a opRsq)
/-- SQRT (R255). -/
def execSqrt (d : Dst) (a : Src) (s : State) := issue s (.sqrt d a) (unaF d a opSqrt)
/-- EX2 (R255). -/
def execEx2 (d : Dst) (a : Src) (s : State) := issue s (.ex2 d a) (unaF d a opEx2)
/-- LG2 (R255). -/
def execLg2 (d : Dst) (a : Src) (s : State) := issue s (.lg2 d a) (unaF d a opLg2)
/-- SIN (R255). -/
def execSin (d : Dst) (a : Src) (s : State) := issue s (.sin d a) (unaF d a opSin)
/-- COS (R255). -/
def execCos (d : Dst) (a : Src) (s : State) := issue s (.cos d a) (unaF d a opCos)
/-- TANH (R255). -/
def execTanh (d : Dst) (a : Src) (s : State) := issue s (.tanh d a) (unaF d a opTanh)

end Sys2Proof.Machine
end

