-- ==== Sys2Proof/Machine/Cross.lean ====
section
/-!
DEFINITION. The lane-cross instructions (R259–R265): shuffles, votes, reductions, scans, permutes and matches within sections.
-/
namespace Sys2Proof.Machine

/-- The section width w (R154). -/
def Ctx.width (c : Ctx) : Nat := 2 ^ c.g.sect

/-- The source lane of a shuffle (R260). -/
def shflLane (mode : ShflMode) (w i b : Nat) : Nat :=
  let r := i % w
  let sb := i - r
  match mode with
  | .idx => sb + b % w
  | .up => if b ≤ r then i - b else i
  | .down => if r + b < w then i + b else i
  | .xor => sb + (r ^^^ b) % w

/-- SHFL (R260): the value as register or latch hold it in the source lane. -/
def execShfl (mode : ShflMode) (d : Dst) (a b : Src) (s : State) :=
  issue s (.shfl mode d a b) (fun _ m c => laneWord m c d (fun i => m.src c a (shflLane mode c.width i (m.src c b i).toNat)))

/-- The bits of a condition register over a section. -/
def Ctx.votes (c : Ctx) (k i : Nat) : List Bool := (c.sect i).map (c.cond k)

/-- VOTE (R261). -/
def execVote (op : VoteOp) (d : Dst) (k : Nat) (s : State) :=
  issue s (.vote op d k) (fun _ m c => match op with
    | .any => laneCond m c d (fun i => (c.votes k i).any id)
    | .all => laneCond m c d (fun i => (c.votes k i).all id)
    | .eq => laneCond m c d (fun i => (c.votes k i).all id || !(c.votes k i).any id)
    | .ballot => laneWord m c d (fun i => maskOf ((c.sect i).filter (c.cond k))))

/-- An integer reduction (R262). -/
def redInt (op : RedI) (xs : List Word) : Word :=
  match op with
  | .add => xs.foldl (· + ·) 0
  | .min => xs.foldl (opMin .s) 0x7FFFFFFF
  | .max => xs.foldl (opMax .s) 0x80000000
  | .umax => xs.foldl (opMax .u) 0

/-- The exact FP32 sum rounded once, +0.0 for no term (R262, R263). -/
def sumFloat (xs : List Word) : Word × Word :=
  if xs.isEmpty then (0, 0)
  else
    let vs := xs.map (fun x => fp32.dec x.toNat)
    codeWord (sumOf fp32 vs (vs.map (fun v => (v, 0))))

/-- FMIN or FMAX over some terms (R248, R262). -/
def minMaxFloat (isMax : Bool) : List Word → Word × Word
  | [] => (0, 0)
  | x :: xs =>
    let r := xs.foldl (fun acc y => let e := elMinMax fp32 isMax acc.1 y.toNat; (e.1, acc.2 ||| e.2)) (x.toNat, (0 : Word))
    let v := fp32.dec r.1
    (if v.isNan then nan32 else BitVec.ofNat 32 r.1, r.2 ||| sigFlag [fp32.dec x.toNat])

/-- SREDI (R262). -/
def execSredi (op : RedI) (d : Dst) (a : Src) (s : State) :=
  issue s (.sredi op d a) (fun _ m c => laneWord m c d (fun i => redInt op ((c.sect i).map (m.src c a))))

/-- SREDF (R262). -/
def execSredf (op : RedF) (d : Dst) (a : Src) (s : State) :=
  issue s (.sredf op d a) (fun _ m c => laneFlags m c d (fun i =>
    let xs := (c.sect i).map (m.src c a)
    match op with
    | .add => sumFloat xs
    | .min => minMaxFloat false xs
    | .max => minMaxFloat true xs))

/-- The lanes a scan sums for lane i (R263). -/
def Ctx.scanLanes (c : Ctx) (excl : Bool) (i : Nat) : List Nat := (c.sect i).filter (fun j => if excl then decide (j < i) else decide (j ≤ i))

/-- SSCAN (R263). -/
def execSscan (ty : ScanType) (excl : Bool) (d : Dst) (a : Src) (s : State) :=
  issue s (.sscan ty excl d a) (fun _ m c => match ty with
    | .i32 => laneWord m c d (fun i => redInt .add ((c.scanLanes excl i).map (m.src c a)))
    | .f32 => laneFlags m c d (fun i => sumFloat ((c.scanLanes excl i).map (m.src c a))))

/-- PRMT of one lane (R264): selector s. -/
def opPrmt (a b sl : Word) : Word :=
  let xs := leBytes 4 a.toNat ++ leBytes 4 b.toNat
  BitVec.ofNat 32 (leNat ((List.range 4).map (fun k =>
    let n := nbits sl.toNat (4 * k + 3) (4 * k)
    let x := xs.getD (n % 8) 0
    if n < 8 then x else if x.getLsbD 7 then 0xFF else 0)))

/-- PRMT (R264): D is read first as the selector. -/
def execPrmt (d : Dst) (a b : Src) (s : State) := issue s (.prmt d a b) (tri d a b opPrmt)

/-- MATCH (R265). -/
def execMatchS (sl : MatchSel) (d : Dst) (a : Src) (s : State) :=
  issue s (.matchS sl d a) (fun _ m c => laneWord m c d (fun i =>
    let same := (c.sect i).filter (fun j => m.src c a j == m.src c a i)
    match sl with
    | .any => maskOf same
    | .all => if same.length = (c.sect i).length then maskOf same else 0))

/-- FIRSTL (R265). -/
def execFirstl (d : Dst) (k : Nat) (s : State) :=
  issue s (.firstl d k) (fun _ m c => laneWord m c d (fun i =>
    match (c.sect i).find? (c.cond k) with
    | some j => BitVec.ofNat 32 j
    | none => 0xFFFFFFFF))

end Sys2Proof.Machine
end

