-- ==== Sys2Proof/Machine/TMean.lean ====
section
/-!
DEFINITION. Transformed means (R204–R210, R266–R270): table pairs, entry, merge and exit, with the domain violations of R208.
-/
namespace Sys2Proof.Machine

/-! ### Table pairs (R206) -/

/-- A signed 32-bit field of an image. -/
def sAt (img : List Byte) (off : Nat) : Int := (BitVec.ofNat 32 (natAt img off 4)).toInt

/-- Whether some numbers rise strictly (or fall strictly). -/
def monotone (up : Bool) : List Int → Bool
  | a :: b :: xs => (if up then decide (a < b) else decide (b < a)) && monotone up (b :: xs)
  | _ => true

/-- The 65 breakpoints at an offset. -/
def points (img : List Byte) (off : Nat) : List Int := (List.range 65).map (fun i => sAt img (off + 4 * i))

/-- The check of a table-pair image (R206). -/
def pairOkImg (img : List Byte) : Bool :=
  let rng (o : Nat) := decide (-512 ≤ sAt img o) && decide (sAt img o ≤ 511)
  let g := points img 0x10
  let h := points img 0x114
  rng 0 && rng 4 && rng 8 && rng 12 && decide (sAt img 0 < sAt img 4) && decide (sAt img 8 < sAt img 12)
    && ((monotone true g && monotone true h) || (monotone false g && monotone false h))

/-- A quotient rounded to the nearest integer, ties to even. -/
def rneDiv (n : Int) (d : Nat) : Int :=
  let q := n / (d : Int)
  let r := (n % (d : Int)).toNat
  if d < 2 * r ∨ (2 * r = d ∧ q % 2 ≠ 0) then q + 1 else q

/-- Interp(tab, z) in units of 2^−22 (R206). -/
def interp (ys : List Int) (lo hi : Int) (z : Int) : Int :=
  let n := (z - lo * 2 ^ 22) * 64
  let d : Nat := ((hi - lo) * 2 ^ 22).toNat
  let k := (min (n / (d : Int)) 63).toNat
  let fr := n - (k : Int) * d
  rneDiv (ys.getD k 0 * d + (ys.getD (k + 1) 0 - ys.getD k 0) * fr) d

/-- The selected pair: none for the identity, or an image (R204). -/
abbrev Pair := Option (List Byte)

/-- The pair TMPAIR selects; none when its slot is not claimed or not loaded: TABLE (R204, R270). -/
def Mach.tmPair (m : Mach) (c : Ctx) : Option Pair :=
  if c.g.tmpair = 0 then some none
  else if nbit c.rc.pairmask (c.g.tmpair - 1) then
    (m.pairs.find? (fun p => p.core == c.tm.core && p.slot == c.g.tmpair)).map (fun p => some p.img)
  else none

/-! ### Triples (R205) -/

/-- A triple (E, S, N). -/
structure Triple where
  e : Word
  sm : Word
  n : Word
deriving DecidableEq, Repr

/-- E of an empty triple under a code (R205). -/
def emptyE (code : Nat) : Word := if code = 16 then 0 else 0x80000000
/-- E:S as a signed 64-bit value. -/
def Triple.es (t : Triple) : Int := (t.e ++ t.sm : DWord).toInt
/-- COUNT. -/
def Triple.count (t : Triple) : Nat := t.n.toNat % 2 ^ 30
/-- X. -/
def Triple.x (t : Triple) : Bool := t.n.getLsbD 31
/-- Z. -/
def Triple.z (t : Triple) : Bool := t.n.getLsbD 30
/-- N of its parts. -/
def mkN (x z : Bool) (count : Nat) : Word := BitVec.ofNat 32 ((if x then 2 ^ 31 else 0) + (if z then 2 ^ 30 else 0) + count)
/-- A triple of a signed 64-bit E:S. -/
def ofEs (v : Int) (n : Word) : Triple := let w : DWord := BitVec.ofInt 64 v; ⟨hi32 w, lo32 w, n⟩

/-- S as a value, none when it is invalid (R205). -/
def sValue (sm : Word) : Option Dy :=
  match fp32.dec sm.toNat with
  | .fin d => if d.mant = 0 then some ⟨false, 0, 0⟩ else if d.neg then none else some d
  | _ => none

/-- Whether a triple's S is invalid under a code (R205). -/
def Triple.bad (t : Triple) (code : Nat) : Bool := code != 16 && code != 255 && (sValue t.sm).isNone

/-- The exact 2^e of e ÷ 2^26 rounded to FP32: the term of R207. -/
def termOf (e : Int) : Word := (round32 (dyExp2 (dyQ e (-26)))).1

/-- Entry (R207): the triple, or none for a domain violation. -/
def entry (md : EntryMod) (code : Nat) (pr : Pair) (x : Word) : Option Triple :=
  let glo := match pr with
    | none => -512
    | some img => sAt img 0
  let ghi := match pr with
    | none => 511
    | some img => sAt img 4
  let fin (t : Int) : Triple :=
    let u := match pr with
      | none => t
      | some img => interp (points img 0x10) glo ghi t
    if code = 255 ∨ code = 16 then ofEs u 1
    else
      let e := ((code : Int) - 16) * u
      let fl := e / 2 ^ 26
      ⟨BitVec.ofInt 32 fl, termOf (e - fl * 2 ^ 26), 1⟩
  match fp32.dec x.toNat, md with
  | .fin d, md =>
    if d.mant = 0 then
      match md with
      | .normal => none
      | .clamp => some (fin (glo * 2 ^ 22))
      | .zeropass => some ⟨emptyE code, 0, 0x40000001⟩
    else if d.neg then none
    else
      let t := rq (log2Ratio d ⟨false, 1, 0⟩)
      if t < glo * 2 ^ 22 then (if md = .clamp then some (fin (glo * 2 ^ 22)) else none)
      else if ghi * 2 ^ 22 < t then (if md = .clamp then some (fin (ghi * 2 ^ 22)) else none)
      else some (fin t)
  | .inf false, .clamp => some (fin (ghi * 2 ^ 22))
  | _, _ => none

/-- What a violated entry gives with DTE = 0 (R208). -/
def badEntry (code : Nat) : Triple := ⟨emptyE code, 0, 0x80000000⟩

/-- Merge (R209), and whether it is a domain violation (R208). -/
def merge (code : Nat) (a b : Triple) : Triple × Bool :=
  let total := a.count + b.count
  let ov := decide (2 ^ 30 - 1 < total)
  let cnt := min total (2 ^ 30 - 1)
  let z := a.z || b.z
  let n := mkN (a.x || b.x || ov) z cnt
  if code = 255 then (ofEs (max a.es b.es) n, ov)
  else if code = 16 then (ofEs (a.es + b.es) n, ov)
  else
    match sValue a.sm, sValue b.sm with
    | some sa, some sb =>
      if a.e = 0x80000000 ∧ b.e = 0x80000000 then (⟨0x80000000, 0, n⟩, ov)
      else
        let ea := a.e.toInt
        let eb := b.e.toInt
        let e := max ea eb
        let part (sv : Dy) (ev : Int) : Dy := if ev = -2 ^ 31 then ⟨false, 0, 0⟩ else { sv with exp := sv.exp + max (-400) (ev - e) }
        (⟨BitVec.ofInt 32 e, (round32 (dySum [part sa ea, part sb eb])).1, n⟩, ov)
    | _, _ => (⟨0x80000000, 0, mkN true z cnt⟩, true)

/-- The merges of a list of triples in order, and whether any is a violation (R268). -/
def mergeAll (code : Nat) : List Triple → Triple × Bool
  | [] => (⟨emptyE code, 0, 0⟩, false)
  | [t] => (if t.bad code then ⟨emptyE code, 0, mkN true t.z t.count⟩ else t, t.bad code)
  | t :: ts => ts.foldl (fun acc u => let r := merge code acc.1 u; (r.1, acc.2 || r.2)) (t, false)

/-- Exit (R210): the mean, its flags, and whether it is a domain violation. With Z = 1 and COUNT = 0 under a code above 16 R210's order holds, a violation, and not the
table of R208 (a choice of the model: log entry 120). -/
def exitMean (code : Nat) (pr : Pair) (t : Triple) : Word × Word × Bool :=
  let viol : Word × Word × Bool := (nan32, fDom, true)
  if t.x then (nan32, fDom, false)
  else if t.bad code then viol
  else if t.z ∧ (code ≤ 16 ∨ (code = 255 ∧ t.e = 0x80000000 ∧ t.sm = 0)) then (0, 0, false)
  else if t.count = 0 then viol
  else
    let fin (v : Int) : Word × Word × Bool :=
      match pr with
      | none => let r := round32 (dyExp2 (dyQ v (-22))); (r.1, r.2, false)
      | some img =>
        let hlo := sAt img 8
        let hhi := sAt img 12
        if v < hlo * 2 ^ 22 ∨ hhi * 2 ^ 22 < v then viol
        else
          let r := round32 (dyExp2 (dyQ (interp (points img 0x114) hlo hhi v) (-22)))
          (r.1, r.2, false)
    if code = 255 then fin t.es
    else if code = 16 then fin (rneDiv t.es t.count)
    else
      match sValue t.sm with
      | none => viol
      | some sv =>
        if sv.mant = 0 then (0, 0, false)
        else
          let v := rq (log2Ratio sv ⟨false, t.count, 0⟩) + t.e.toInt * 2 ^ 22
          let p : Int := (code : Int) - 16
          fin (rneDiv (v * 16 * (if p < 0 then -1 else 1)) p.natAbs)

/-! ### The instructions -/

/-- The triple a register code names in a lane (R266). -/
def Mach.triple (m : Mach) (c : Ctx) (n i : Nat) : Triple := ⟨m.v c n i, m.v c (n + 1) i, m.v c (n + 2) i⟩

/-- Triples per lane with their violations: DOMAIN with DTE = 1, else the writes and DOM (R208, R270). -/
def laneTriple (m : Mach) (c : Ctx) (d : Dst) (f : Nat → Triple × Bool) : Res :=
  let rs := c.lanes.map (fun i => (i, f i))
  let bad := (rs.filter (fun r => r.2.2)).map Prod.fst
  if !bad.isEmpty && c.g.fpstat.getLsbD 8 then .trap m 0x0D 0 0 (maskOf bad)
  else
    let ws := match d with
      | .v n => rs.flatMap (fun r => [(n, r.1, r.2.1.e), (n + 1, r.1, r.2.1.sm), (n + 2, r.1, r.2.1.n)])
      | .nw => []
    .done ((m.wrRegs c ws).orFlags c (flagIf (!bad.isEmpty) fDom)) (rs.map (fun r => (r.1, r.2.1.e))) .seq

/-- The entry of a lane with what a violation gives. -/
def entryOr (md : EntryMod) (code : Nat) (pr : Pair) (x : Word) : Triple × Bool :=
  match entry md code pr x with
  | some t => (t, false)
  | none => (badEntry code, true)

/-- TMENT (R267). -/
def execTment (md : EntryMod) (d : Dst) (a : Src) (s : State) :=
  issue s (.tment md d a) (fun _ m c => match m.tmPair c with
    | none => .trap m 0x0E 0 0 c.P
    | some pr => laneTriple m c d (fun i => entryOr md c.g.tmshape pr (m.src c a i)))

/-- TMACC (R267): D as read is the first operand. -/
def execTmacc (md : EntryMod) (d : Dst) (a : Src) (s : State) :=
  issue s (.tmacc md d a) (fun _ m c => match m.tmPair c with
    | none => .trap m 0x0E 0 0 c.P
    | some pr => laneTriple m c d (fun i =>
        let t := entryOr md c.g.tmshape pr (m.src c a i)
        let r := merge c.g.tmshape (m.triple c (accReg d) i) t.1
        (r.1, t.2 || r.2)))

/-- TMMRG (R268). -/
def execTmmrg (d : Dst) (a b : Nat) (s : State) :=
  issue s (.tmmrg d a b) (fun _ m c => laneTriple m c d (fun i => merge c.g.tmshape (m.triple c a i) (m.triple c b i)))

/-- TMSRED (R268). -/
def execTmsred (d : Dst) (a : Nat) (s : State) :=
  issue s (.tmsred d a) (fun _ m c => laneTriple m c d (fun i => mergeAll c.g.tmshape ((c.sect i).map (m.triple c a))))

/-- TMEXIT (R269, R270). -/
def execTmexit (d : Dst) (a : Nat) (s : State) :=
  issue s (.tmexit d a) (fun _ m c => match m.tmPair c with
    | none => .trap m 0x0E 0 0 c.P
    | some pr =>
      let rs := c.lanes.map (fun i => (i, exitMean c.g.tmshape pr (m.triple c a i)))
      let bad := (rs.filter (fun r => r.2.2.2)).map Prod.fst
      if !bad.isEmpty && c.g.fpstat.getLsbD 8 then .trap m 0x0D 0 0 (maskOf bad)
      else laneFlags m c d (fun i => let r := exitMean c.g.tmshape pr (m.triple c a i); (r.1, r.2.1)))

end Sys2Proof.Machine
end

