-- ==== Sys2Proof/Machine/Memory.lean ====
section
/-!
DEFINITION. The memory instructions (R271–R277): addresses and checks of all lanes before any access (R18, R19, R22, R23), loads, stores,
full/empty accesses (R44, R101), atomics (R275, R276), accesses to other devices (R34, R106) and prefetches.
-/
namespace Sys2Proof.Machine

/-! ### Requests and their places -/

/-- Checks 1 and 2 of R22. -/
def reqTarget (m : Mach) (tm : Team) (scr : Bool) (write : Bool) (q : Req) : Target :=
  if q.addr % q.n ≠ 0 then .bad 3 0
  else if scr then decodeScr m tm q.addr q.n write
  else decodeGen m tm q.addr q.n write

/-- The translation a fibre has for a 64 KiB block: a walk's result it waited for, or the core cache's. -/
def Mach.blockXl (m : Mach) (c : Ctx) (blk : Nat) : Option Xl :=
  match (c.f.xl.find? (fun e => e.1 == blk)).map Prod.snd with
  | some x => some x
  | none => (m.tlbGet (.core c.tm.core) c.la.p c.la.x blk).map Xl.ok

/-- The distinct blocks of some requests without a translation (R18). -/
def Mach.misses (m : Mach) (c : Ctx) (ts : List Target) : List Nat :=
  ((ts.filterMap (fun t => match t with
    | .va a => if (m.blockXl c (a / 65536)).isNone then some (a / 65536) else none
    | _ => none))).eraseDups

/-- The page-table leaf that serves an access; a write through a clear D bit takes what memory holds now (R17). -/
def leafFor (cf : Conf) (m : Mach) (c : Ctx) (va : Nat) (write : Bool) : Xl :=
  match m.blockXl c (va / 65536) with
  | some (.ok l) => if write && !pbit l.e 5 then walk cf m c.la.p c.la.x va else .ok l
  | some x => x
  | none => xNotValid

/-- The outcome of checks 1 to 7 for one request. -/
def checkReq (cf : Conf) (m : Mach) (c : Ctx) (cls : Cls) (t : Target) : Except (Nat × Nat) Place :=
  match t with
  | .bad k s => .error (k, s)
  | .scr t off => .ok (.here ⟨.scr t, off, none, 0, false, none⟩ 0)
  | .fab d off => .ok (.fab d off)
  | .va va =>
    match leafFor cf m c va cls.writes with
    | .bad k s => .error (k, s)
    | .ok l => (checkLeaf cf m c.la.p c.la.x va cls l).map (fun a => .here a va)

/-- D is set in the entries of the written pages, once every check has passed (R17). -/
def Mach.setDirty (cf : Conf) (m : Mach) (c : Ctx) (ps : List Place) : Mach :=
  ps.foldl (fun m p => match p with
    | .here a va =>
      match a.leaf with
      | some l =>
        if pbit l.e 5 then m
        else
          let e := l.e ||| 0x30
          let m := if (m.tlbGet (.core c.tm.core) c.la.p c.la.x (va / 65536)).isSome then m.touchWalk cf c.la.p c.la.x va else m
          (m.setEntry cf c.la.p c.la.x l.at_ e).tlbPut (.core c.tm.core) c.la.p c.la.x (va / 65536) { l with e := e }
      | none => m
    | .fab _ _ => m) m

/-- Misses enter the core miss queue together; none when they do not fit (R18). -/
def Mach.enterMisses (m : Mach) (core p x : Nat) (blks : List Nat) : Option Mach :=
  let new := (blks.filter (fun b => !m.missq.any (fun q => q.core == core && q.p == p && q.x == x && q.vpn == b))).map (fun b => ⟨core, p, x, b⟩)
  if (m.missq.filter (fun q => q.core == core)).length + new.length ≤ 32 then some { m with missq := m.missq ++ new } else none

/-- The bank a place waits for while it refreshes (R58). -/
def Mach.refreshWait (m : Mach) (pt? : Option Part) (ps : List Place) : Option (Nat × Nat) :=
  ps.findSome? (fun p => match p with
    | .here a _ => m.busyBank pt? a
    | .fab _ _ => none)

/-- Whether a read of some requests meets a poisoned unit (R379). -/
def readsPoison (m : Mach) (pt : Option Part) (qs : List (Req × Place)) : Bool :=
  qs.any (fun q => match q.2 with
    | .here a va => poisonedAcc m pt a va q.1.n
    | .fab _ _ => false)

/-- Where an access that names this device through the fabric goes: through its own windows to a location here, whose path it takes (R33, R69, R106); one for a
saved allocation stays a fabric access, which is held (R179), and so does one whose translation no walker serves (R20). -/
def ownPlace (cf : Conf) (m : Mach) (part n : Nat) (cls : Cls) (p : Place) : Except (Nat × Nat) Place × Mach :=
  match p with
  | .fab d off =>
    if d = cf.device.toNat then
      match winAccess cf m part off n cls with
      | (.here a va _, m) => (.ok (.here { a with leaf := a.leaf.map (fun l => { l with e := l.e ||| 0x30 }) } va), m)
      | (.saved _, m) | (.busy, m) => (.ok (.fab d off), m)
      | (.refused k s, m) => (.error (k, s), m)
      | (.stale, m) => (.error (4, 5), m)
    else (.ok p, m)
  | p => (.ok p, m)

/-- The same of all accesses, in lane order. -/
def ownPlaces (cf : Conf) (m : Mach) (part : Nat) (cls : Cls) (ps : List (Req × Place)) : List (Req × Except (Nat × Nat) Place) × Mach :=
  ps.foldl (fun r q => let x := ownPlace cf r.2 part q.1.n cls q.2; (r.1 ++ [(q.1, x.1)], x.2)) ([], m)

/-- The failed ones of some checks. -/
def failures {α : Type} (rs : List (Req × Except (Nat × Nat) α)) : List (Req × Nat × Nat) :=
  rs.filterMap (fun r => match r.2 with
    | .error e => some (r.1, e)
    | .ok _ => none)

/-- The others. -/
def passing {α : Type} (rs : List (Req × Except (Nat × Nat) α)) : List (Req × α) :=
  rs.filterMap (fun r => match r.2 with
    | .ok p => some (r.1, p)
    | .error _ => none)

/-- The precise trap of the lowest failing lane (R23). -/
def failTrap (m : Mach) (bad : List (Req × Nat × Nat)) : Res :=
  match bad with
  | b :: _ => .trap m b.2.1 b.2.2 (BitVec.ofNat 64 b.1.rep) (maskOf (bad.map (fun x => x.1.lane)))
  | [] => .gone m

/-- Every request decoded, translated and checked before any access (R19): a wait, the trap of the lowest failing lane (R23), or the places. A refusal by this
device's own windows is a check of a load or an atomic; a store's are told afterwards (R34). -/
def withPlaces (cf : Conf) (m : Mach) (c : Ctx) (scr : Bool) (cls : Cls) (reads : Bool) (qs : List Req)
    (go : List (Req × Place) → Mach → Res) : Res :=
  let ts := qs.map (reqTarget m c.tm scr cls.writes)
  let miss := m.misses c ts
  if !miss.isEmpty then
    match m.enterMisses c.tm.core c.la.p c.la.x miss with
    | some m => .hold (m.count (dieOfCore c.tm.core) 4 (some c.la.p) miss.length) (.xlate miss)
    | none => .hold (m.count (dieOfCore c.tm.core) 4 (some c.la.p) miss.length) (.missRoom miss)
  else
    let rs := (qs.zip ts).map (fun q => (q.1, checkReq cf m c cls q.2))
    if !(failures rs).isEmpty then failTrap m (failures rs)
    else
      let own := if reads then ownPlaces cf m c.la.p cls (passing rs) else ((passing rs).map (fun q => (q.1, .ok q.2)), m)
      if !(failures own.1).isEmpty then failTrap own.2 (failures own.1)
      else
        let ps := passing own.1
        match own.2.refreshWait (cf.part? c.la.p) (ps.map Prod.snd) with
        | some (d, b) => .hold (own.2.count d 7 (some c.la.p) 1) (.bank d b)
        | none =>
          if reads && readsPoison own.2 (cf.part? c.la.p) ps then .stop own.2 0
          else go ps (if cls.writes then own.2.setDirty cf c (ps.map Prod.snd) else own.2)

/-! ### Access classes (R67) -/

/-- Whether a scope code makes the access synchronising. -/
def synch : Scope → Bool
  | .plain => false
  | _ => true

/-- How a load of a scope reads (R67, R273). -/
def loadWay (leaf : Point) (sc : Scope) : Way := if synch sc then .acq leaf (scopeLevel sc) true else .plain leaf

/-- What comes before the lanes of an access: the promote of a remote acquire, the drain of a release (R80, R76, R273). -/
def Mach.before (m : Mach) (leaf : Point) (part : Nat) (sc : Scope) (rd wr : Bool) (ps : List (Req × Place)) : Mach :=
  let m := if sc = .rmt ∧ rd then ps.foldl (fun m q => match q.2 with
    | .here a _ => m.promote a.sp a.addr q.1.n
    | .fab d off => m.promote (.fab d part) off q.1.n) m else m
  if wr && synch sc then m.drain leaf (scopeLevel sc) else m

/-- What comes after them: the invalidate of an acquire (R77, R273). -/
def Mach.after (m : Mach) (leaf : Point) (sc : Scope) (rd : Bool) : Mach :=
  if rd && synch sc then m.invalidate leaf (scopeLevel sc) else m

/-! ### Accesses to other devices (R34, R106) -/

/-- Whether some place is on another device. -/
def anyFab (qs : List (Req × Place)) : Bool := qs.any (fun q => match q.2 with
  | .fab _ _ => true
  | .here _ _ => false)

/-- The writes to other devices in the buffers of an agent's chain below the system point: those that a drain of system scope waits for (R76). -/
def Mach.fabWids (m : Mach) (leaf : Point) : List Nat :=
  (m.bufs.filter (fun e => isFab e.w.sp && (m.below leaf 4).contains e.pt)).map (fun e => e.w.wid)

/-- The writes to other devices that must have been answered before an access to their bytes: for an atomic, a count word or an acquire of system scope every one in
the path (R75, R77); for another read those on their way (R81). -/
def Mach.fabBefore (m : Mach) (leaf : Point) (part : Nat) (all : Bool) (ps : List (Req × Place)) : List Nat :=
  ps.flatMap (fun q => match q.2 with
    | .fab d off => ((m.bufs.filter (fun e => (m.path leaf (.fab d part)).contains e.pt && e.w.hits (.fab d part) off q.1.n && (all || e.go != .rests))).map
        (fun e => e.w.wid))
    | .here _ _ => [])

/-- An instruction goes on once some writes to other devices have been answered; until then they leave, and it waits to be issued again. -/
def afterWrites (m : Mach) (c : Ctx) (ws : List Nat) (go : Mach → Res) : Res :=
  if ws.isEmpty then go m else .hold (m.push (m.below c.leaf 4) (fun w => ws.contains w)) (.drain ws true)

/-- The drain of a release is over for other devices' writes, or this is what it waits for. -/
def Mach.drainWids (m : Mach) (c : Ctx) (sc : Scope) : List Nat := if sc = .sys ∧ !c.f.drained then m.fabWids c.leaf else []

/-- The requests for some of an instruction's accesses: one for each device, with its accesses there in lane order. `asked` says which of the accesses, `acc` what
each does, and where. -/
def fabReqs (cf : Conf) (c : Ctx) (id : Nat) (ps : List (Req × Place)) (asked : Req × Place → Bool) (acc : Req → Nat → Nat × FabAcc) (phase : FabPhase)
    (sync : Bool) : List FabReq :=
  let devs := (ps.filterMap (fun q => match q.2 with
    | .fab d _ => if asked q then some d else none
    | .here _ _ => none)).eraseDups
  devs.map (fun d => ⟨cf.device.toNat, d, id, c.la.p, (ps.zip (List.range ps.length)).filterMap (fun q => match q.1.2 with
    | .fab e off => if e = d ∧ asked q.1 then let x := acc q.1.1 off; some (q.2, x.1, x.2) else none
    | .here _ _ => none), phase, sync⟩)

/-- The accesses that another device must answer. -/
def farAsks (cf : Conf) (ps : List (Req × Place)) (asked : Req × Place → Bool) : List (Req × Place) :=
  ps.filter (fun q => asked q && (match q.2 with
    | .fab d _ => d != cf.device.toNat
    | .here _ _ => false))

/-- Asking other devices; a request for a saved allocation of this device is held here (R179). With no port left they are refused (R364). -/
def fabAsk (cf : Conf) (m : Mach) (c : Ctx) (ps : List (Req × Place)) (asked : Req × Place → Bool) (acc : Req → Nat → Nat × FabAcc) (inst : List Point)
    (blk : List Byte) (atom : Option (AtomOp × Scope × Bool)) (phase : FabPhase) (sync : Bool) : Res :=
  let id := m.newId
  let far := farAsks cf ps asked
  if m.cutOff && !far.isEmpty then failTrap m (far.map (fun q => (q.1, 4, 4)))
  else
    let rs := fabReqs cf c id.1 ps asked acc phase sync
    .hold { id.2 with
      net := id.2.net ++ (rs.filter (fun r => r.target != cf.device.toNat)).map .access
      parked := id.2.parked ++ rs.filter (fun r => r.target == cf.device.toNat)
      fabPend := id.2.fabPend ++ [⟨id.1, c.f.ref, none, false, ps,
        (ps.zip (List.range ps.length)).filterMap (fun q => if asked q.1 then none else some (q.2, .ok [])), inst, blk, atom, phase, [], false⟩] }
      (.fabric id.1)

/-- The points a read scans for a store (R73, R77). -/
def Mach.scanPath (m : Mach) (w : Way) (sp : Space) : List Point :=
  match w with
  | .plain leaf => m.path leaf sp
  | .acq leaf s _ => m.acqPath leaf s sp
  | _ => []

/-- Whether a read is an acquire of system scope. -/
def Way.system : Way → Bool
  | .acq _ s _ => decide (s = 4)
  | _ => false

/-- Whether a read of a place must ask another device. -/
def Mach.mustAsk (m : Mach) (w : Way) (part : Nat) (q : Req × Place) : Bool :=
  match q.2 with
  | .fab d off => !m.knows (m.scanPath w (.fab d part)) (.fab d part) off q.1.n
  | .here _ _ => false

/-- Step 1 of an acquire for the places on other devices (R77). -/
def Mach.acqPush (m : Mach) (w : Way) (part : Nat) (ps : List (Req × Place)) : Mach :=
  match w with
  | .acq leaf s _ => ps.foldl (fun m q => match q.2 with
    | .fab d off => let ws := m.widsTo (m.below leaf s) (.fab d part) off q.1.n; m.push (m.below leaf s) (fun x => ws.contains x)
    | .here _ _ => m) m
  | _ => m

/-! ### Loads -/

/-- The bytes of an access size (R271). -/
def sizeBytes : Size → Nat
  | .w => 4
  | .d => 8
  | .q => 16
  | .b => 1

/-- The register writes of loaded bytes: lowest word in the lowest register (R271). -/
def loadWrites (sz : Size) (d : Nat) (vals : List (Nat × List Byte)) : List (Nat × Nat × Word) :=
  vals.flatMap (fun v => (List.range (max 1 (sizeBytes sz / 4))).map (fun k => (d + k, v.1, BitVec.ofNat 32 (natAt v.2 (4 * k) 4))))

/-- The low words of loaded bytes, for the latch (R221). -/
def lowWords (vals : List (Nat × List Byte)) : List (Nat × Word) := vals.map (fun v => (v.1, BitVec.ofNat 32 (natAt v.2 0 4)))

/-- A load's results, long-latency (R168). -/
def loaded (m : Mach) (c : Ctx) (sz : Size) (d : Nat) (vals : List (Nat × List Byte)) : Res :=
  .late (m.addOutst c (loadWrites sz d vals) (lowWords vals)) .seq

/-- The reads of all lanes in one step (R66, R273). -/
def readLanes (cf : Conf) (m : Mach) (w : Way) (p : Nat) (qs : List (Req × Place)) : List (Nat × List Byte) × Mach :=
  qs.foldl (fun r q =>
    let x := match q.2 with
      | .here a va => readAcc w r.2 (cf.part? p) a va q.1.n
      | .fab d off => r.2.readBy w (.fab d p) off q.1.n none
    (r.1 ++ [(q.1.lane, x.1)], x.2)) ([], m)

/-- Reads of all lanes, and what follows with their bytes: in one step where the points of the path know what is read on other devices; else every unit there is asked
for, and the step is that of the last answer (R66, R73, R106; log entry 26). -/
def readPlaces (cf : Conf) (m : Mach) (c : Ctx) (w : Way) (blk : List Byte) (ps : List (Req × Place))
    (go : Mach → List (Nat × List Byte) → Res) : Res :=
  afterWrites m c (m.fabBefore c.leaf c.la.p w.system ps) (fun m =>
    let m := m.acqPush w c.la.p ps
    if ps.any (m.mustAsk w c.la.p) then
      fabAsk cf m c ps (fun q => anyFab [q]) (fun _ off => (off / 16 * 16, .read 16)) (m.scanPath w (.fab 0 0)) blk none .whole false
    else
      let r := readLanes cf m w c.la.p ps
      go r.2 r.1)

/-- A load of all lanes (R272, R273). -/
def loadBody (cf : Conf) (m : Mach) (c : Ctx) (scr : Bool) (sz : Size) (sc : Scope) (d : Nat) (qs : List Req) : Res :=
  withPlaces cf m c scr .read true qs (fun ps m =>
    readPlaces cf (m.before c.leaf c.la.p sc true false ps) c (loadWay c.leaf sc) [] ps (fun m vals =>
      loaded (m.after c.leaf sc true) c sz d vals))

/-- The offset of a memory operand in bytes (R271). -/
def offBytes (off : Int) (sz : Nat) : Int := off * sz

/-- Requests at generic addresses (R271). -/
def genReqs (m : Mach) (c : Ctx) (a : Nat) (off : Int) (n : Nat) : List Req :=
  c.lanes.map (fun i => let x := (m.v64 c a i + BitVec.ofInt 64 (offBytes off n)).toNat; ⟨i, x, n, x⟩)
/-- Requests at scratch addresses (R271). -/
def scrReqs (m : Mach) (c : Ctx) (a : Src) (off : Int) (n : Nat) : List Req :=
  c.lanes.map (fun i => let x := (m.src c a i + BitVec.ofInt 32 (offBytes off n)).toNat; ⟨i, x, n, x⟩)

/-- LD (R272). -/
def execLd (sz : Size) (sc : Scope) (d a : Nat) (off : Int) (s : State) :=
  issue s (.ld sz sc d a off) (fun cf m c => loadBody cf m c false sz sc d (genReqs m c a off (sizeBytes sz)))
/-- LDS (R272). -/
def execLds (sz : Size) (sc : Scope) (d : Nat) (a : Src) (off : Int) (s : State) :=
  issue s (.lds sz sc d a off) (fun cf m c => loadBody cf m c true sz sc d (scrReqs m c a off (sizeBytes sz)))

/-! ### Stores -/

/-- The bytes a store writes from its data source (R271). -/
def storeBytes (m : Mach) (c : Ctx) (sz : Size) (d : Src) (i : Nat) : List Byte :=
  match sz, d with
  | .w, d => leBytes 4 (m.src c d i).toNat
  | .b, d => leBytes 1 (m.src c d i).toNat
  | .d, .v n => leBytes 4 (m.v c n i).toNat ++ leBytes 4 (m.v c (n + 1) i).toNat
  | .q, .v n => (List.range 4).flatMap (fun k => leBytes 4 (m.v c (n + k) i).toNat)
  | _, .lat _ => []

/-- The write of one lane. -/
def writeOf (cf : Conf) (c : Ctx) (kind : WKind) (xid num : Nat) (bs : List Byte) (p : Place) : Write :=
  match p with
  | .here a _ => ⟨0, a.sp, a.addr, bs, kind, a.tag, false, 0, 0, 0⟩
  | .fab d off => ⟨0, .fab d c.la.p, off, bs, kind, none, false, xid, num, cf.device.toNat⟩

/-- The answers that are there when stores are posted: of the lanes on this device, and the refusals of its own windows (R33, R34). -/
def postedAnswers (rs : List (Req × Except (Nat × Nat) Place)) : List (Nat × FabRes) :=
  (rs.zip (List.range rs.length)).filterMap (fun q => match q.1.2 with
    | .error e => some (q.2, .refused e.1 e.2)
    | .ok (.here _ _) => some (q.2, .ok [])
    | .ok (.fab _ _) => none)

/-- The stores of a saved allocation of this device are held (R179). -/
def Mach.parkStores (m : Mach) (cf : Conf) (c : Ctx) (xid : Nat) (sync : Bool) (data : Req → List Byte) (rs : List (Req × Except (Nat × Nat) Place)) : Mach :=
  { m with parked := m.parked ++ (rs.zip (List.range rs.length)).filterMap (fun q => match q.1.2 with
    | .ok (.fab d off) =>
      if d = cf.device.toNat then some ⟨d, d, xid, c.la.p, [(q.2, off, .write (data q.1.1))], .whole, sync⟩ else none
    | _ => none) }

/-- The writes of all lanes enter in one step, ascending, the drain of a release first (R66, R273). Stores through the fabric are posted: each lane's is checked at its
target by itself (R34). No instruction and no window names several targets: a multicast store is its lanes' separate stores (R107; log entry 89). -/
def storeLanes (cf : Conf) (m : Mach) (c : Ctx) (sc : Scope) (kind : WKind) (data : Req → List Byte) (ps : List (Req × Place)) : Mach :=
  let id := m.newId
  let own := ownPlaces cf id.2 c.la.p .write ps
  let m := if anyFab ps then
      ({ own.2 with fabPend := own.2.fabPend ++ [⟨id.1, c.f.ref, none, true, ps, postedAnswers own.1, [], [], none, .whole, [], false⟩] } : Mach).parkStores cf c id.1
        (sc == .core) data own.1
    else m
  let m := m.before c.leaf c.la.p sc false true ps
  ((own.1.zip (List.range ps.length)).foldl (fun m q =>
    match q.1.2 with
    | .error _ => m
    | .ok p =>
      let w := writeOf cf c kind id.1 q.2 (data q.1.1) p
      if w.sp = .fab cf.device.toNat c.la.p then m
      else if synch sc then m.writeRel c.leaf (scopeLevel sc) w else m.writePlain c.leaf w) m).storesAnswered

/-- The writes to other devices that a store of system scope has sent: it is over when they have been delivered (R76). -/
def Mach.sentBy (m m0 : Mach) (c : Ctx) (sc : Scope) : List Nat :=
  if sc = .sys then (m.fabWids c.leaf).filter (fun w => decide (m0.fresh ≤ w)) else []

/-- A store of all lanes (R272, R273). -/
def storeBody (cf : Conf) (m : Mach) (c : Ctx) (scr : Bool) (sc : Scope) (kind : WKind) (data : Nat → List Byte) (qs : List Req) : Res :=
  withPlaces cf m c scr .write false qs (fun ps m =>
    afterWrites m c (m.drainWids c sc) (fun m =>
      let m' := storeLanes cf m c sc kind (fun q => data q.lane) ps
      let ws := m'.sentBy m c sc
      if ws.isEmpty then .done m' [] .seq else .hold m' (.drain ws false)))

/-- ST (R272). -/
def execSt (sz : Size) (sc : Scope) (d : Src) (a : Nat) (off : Int) (s : State) :=
  issue s (.st sz sc d a off) (fun cf m c =>
    storeBody cf m c false sc .plain (storeBytes m c sz d) (genReqs m c a off (sizeBytes sz)))
/-- STS (R272). -/
def execSts (sz : Size) (sc : Scope) (d a : Src) (off : Int) (s : State) :=
  issue s (.sts sz sc d a off) (fun cf m c =>
    storeBody cf m c true sc .plain (storeBytes m c sz d) (scrReqs m c a off (sizeBytes sz)))
/-- STFE (R274): its granules become full when its writes are delivered (R43, R101). -/
def execStfe (sz : Size) (sc : Scope) (d a : Src) (off : Int) (s : State) :=
  issue s (.stfe sz sc d a off) (fun cf m c =>
    storeBody cf m c true sc .stfe (storeBytes m c sz d) (scrReqs m c a off (sizeBytes sz)))

/-! ### Full/empty accesses (R44–R46, R101) -/

/-- The team and granule of a place. -/
def granOfPlace (p : Place) : Option (Nat × Nat) :=
  match p with
  | .here a _ => match a.sp with
    | .scr t => some (t, a.addr / 16)
    | _ => none
  | .fab _ _ => none

/-- The granules of some places. -/
def granules (ps : List (Req × Place)) : List (Nat × Nat) := (ps.filterMap (fun q => granOfPlace q.2)).eraseDups

/-- Step 1 of R101: writes to bytes of the granules leave the buffers of the path. -/
def Mach.pushGranules (m : Mach) (leaf : Point) (gs : List (Nat × Nat)) : Mach :=
  gs.foldl (fun m g =>
    let ps := m.path leaf (.scr g.1)
    let ws := m.widsTo ps (.scr g.1) (g.2 * 16) 16
    m.push ps (fun w => ws.contains w)) m

/-- Whether every granule is full (R44). -/
def Mach.allFull (m : Mach) (gs : List (Nat × Nat)) : Bool := gs.all (fun g => (m.granule g.1 g.2).1)

/-- The take: every lane's data read at the home, in one step, the granules emptied by an LDFET, the acquire of a scope (R44, R101); the path keeps no older copy
of what was read (R81). The promote of a remote acquire comes before it (R80). -/
def takeGranules (m : Mach) (c : Ctx) (sc : Scope) (empty : Bool) (ps : List (Req × Place)) : List (Nat × List Byte) × Mach :=
  let m := m.before c.leaf c.la.p sc true false ps
  let vals := ps.filterMap (fun q => match q.2 with
    | .here a _ => some (q.1.lane, m.homeBytes a.sp a.addr q.1.n a.tag)
    | .fab _ _ => none)
  let m := ps.foldl (fun m q => match q.2 with
    | .here a _ => (m.path c.leaf a.sp).foldl (fun m p => m.uncopy p a.sp a.addr q.1.n) m
    | .fab _ _ => m) m
  let m := if empty then (granules ps).foldl (fun m g => m.setGranule g.1 g.2 (false, 0)) m else m
  (vals, m.after c.leaf sc true)

/-- LDFE and LDFET: the take at once when every granule is full, else a wait (R44). -/
def feBody (cf : Conf) (m : Mach) (c : Ctx) (sz : Size) (sc : Scope) (d : Nat) (empty : Bool) (qs : List Req) : Res :=
  withPlaces cf m c true (if empty then .write else .read) true qs (fun ps m =>
    let m := (m.before c.leaf c.la.p sc true false ps).pushGranules c.leaf (granules ps)
    if m.allFull (granules ps) then
      let r := takeGranules m c sc empty ps
      loaded r.2 c sz d r.1
    else .pend m .granule)

/-- LDFE (R274). -/
def execLdfe (sz : Size) (sc : Scope) (d : Nat) (a : Src) (off : Int) (s : State) :=
  issue s (.ldfe sz sc d a off) (fun cf m c => feBody cf m c sz sc d false (scrReqs m c a off (sizeBytes sz)))
/-- LDFET (R274). -/
def execLdfet (sz : Size) (sc : Scope) (d : Nat) (a : Src) (off : Int) (s : State) :=
  issue s (.ldfet sz sc d a off) (fun cf m c => feBody cf m c sz sc d true (scrReqs m c a off (sizeBytes sz)))

/-- What a fibre waiting in LDFE or LDFET waits for: size, scope, destination, whether it empties, its requests with their places. -/
def waitedGranules (m : Mach) (c : Ctx) : Option (Size × Scope × Nat × Bool × List (Req × Place)) :=
  let places (qs : List Req) (empty : Bool) : List (Req × Place) := qs.filterMap (fun q =>
    match reqTarget m c.tm true empty q with
    | .scr t off => some (q, .here ⟨.scr t, off, none, 0, false, none⟩ 0)
    | _ => none)
  match c.f.wait.map Wait.i with
  | some (.ldfe sz sc d a off) => some (sz, sc, d, false, places (scrReqs m c a off (sizeBytes sz)) false)
  | some (.ldfet sz sc d a off) => some (sz, sc, d, true, places (scrReqs m c a off (sizeBytes sz)) true)
  | _ => none

/-- FULL_EMPTY_TAKE (R44): a waiting LDFE or LDFET finds all its granules full. -/
def fullEmptyTake (cf : Conf) (m : Mach) (r : FRef) : Mach :=
  match m.waiting r with
  | some (c, ⟨_, .granule, since⟩) =>
    match waitedGranules m c with
    | some (sz, sc, d, empty, ps) =>
      if m.allFull (granules ps) then
        let m := m.pushGranules c.leaf (granules ps)
        let t := takeGranules m c sc empty ps
        if readsPoison m none ps then m.stopLaunch cf r.t r.g 0
        else (t.2.count (dieOfCore c.tm.core) 8 (some c.la.p) (m.cyc - since)).completeWait r (loadWrites sz d t.1) (lowWords t.1)
      else m
    | none => m
  | _ => m

/-- FETIMEOUT (R45): the wait has reached the launch's limit. -/
def feTimeout (cf : Conf) (m : Mach) (r : FRef) : Mach :=
  match m.waiting r with
  | some (c, ⟨_, .granule, since⟩) =>
    match waitedGranules m c with
    | some (_, _, _, _, ps) =>
      if 2 ^ c.rc.fek ≤ m.cyc - since ∧ m.barred c.f = false then
        let empty := ps.filter (fun q => (granOfPlace q.2).any (fun g => !(m.granule g.1 g.2).1))
        match empty with
        | q :: _ => (m.count (dieOfCore c.tm.core) 8 (some c.la.p) (m.cyc - since)).takeTrap cf c ⟨0x11, 0, BitVec.ofNat 64 q.1.rep, maskOf (empty.map (fun q => q.1.lane)), false, true⟩
        | [] => m
      else m
    | none => m
  | _ => m

/-! ### Atomics (R275, R276) -/

/-- The operands of an atomic in a lane: comparand and operand (R275). -/
def atomOpnds (m : Mach) (c : Ctx) (op : AtomOp) (dbl : Bool) (d i : Nat) : DWord × DWord :=
  match op, dbl with
  | .cas, false => ((m.v c d i).setWidth 64, (m.v c (d + 1) i).setWidth 64)
  | .cas, true => (m.v64 c d i, m.v64 c (d + 2) i)
  | _, false => (0, (m.v c d i).setWidth 64)
  | _, true => (0, m.v64 c d i)

/-- The new value an atomic writes, none where it reads without writing (R275, R276). `w` is the width in bits. -/
def atomNew (op : AtomOp) (w : Nat) (cmp b : Nat) (o : Nat) : Option Nat :=
  let sg (x : Nat) : Int := if x < 2 ^ (w - 1) then x else (x : Int) - 2 ^ w
  let unlessSame (x : Nat) : Option Nat := if x = o then none else some x
  match op with
  | .add => some ((o + b) % 2 ^ w)
  | .sub => some ((o + 2 ^ w - b) % 2 ^ w)
  | .min => unlessSame (if sg o ≤ sg b then o else b)
  | .max => unlessSame (if sg b ≤ sg o then o else b)
  | .umin => unlessSame (min o b)
  | .umax => unlessSame (max o b)
  | .and => some (o &&& b)
  | .or => some (o ||| b)
  | .xor => some (o ^^^ b)
  | .xchg => some b
  | .cas => if o = cmp then some b else none
  | .inc => some (if b ≤ o then 0 else o + 1)
  | .dec => some (if o = 0 ∨ b < o then b else o - 1)
  | .faddF32 => some (elAdd fp32 false o b).1
  | .faddBf16x2 =>
    some ((elAdd bf16 false (o % 2 ^ 16) (b % 2 ^ 16)).1 + (elAdd bf16 false (o / 2 ^ 16) (b / 2 ^ 16)).1 * 2 ^ 16)
  | .fminF32 => unlessSame (elMinMax fp32 false o b).1
  | .fmaxF32 => unlessSame (elMinMax fp32 true o b).1

/-- An atomic's function of the old bytes. -/
def atomBytes (op : AtomOp) (dbl : Bool) (cmp b : DWord) (old : List Byte) : Option (List Byte) :=
  let n := if dbl then 8 else 4
  (atomNew op (8 * n) (cmp.toNat % 2 ^ (8 * n)) (b.toNat % 2 ^ (8 * n)) (leNat old)).map (leBytes n)

/-- The atomic of one place at its home (R75, R276); a core-scope one is noted at its core point (R80). -/
def Mach.atomHere (m : Mach) (leaf : Point) (sc : Scope) (a : Acc) (n : Nat) (f : List Byte → Option (List Byte)) : List Byte × Mach :=
  let r := m.atomic leaf a.sp a.addr n a.tag (sc == .core) f
  (r.1, r.2.markCore leaf (if synch sc then scopeLevel sc else 0) ⟨0, a.sp, a.addr, List.replicate n 0, .plain, none, false, 0, 0, 0⟩)

/-- An atomic's operands as bytes. -/
def opndBytes (o : DWord × DWord) : List Byte := leBytes 8 o.1.toNat ++ leBytes 8 o.2.toNat
/-- The operands of access i. -/
def opndAt (bs : List Byte) (i : Nat) : DWord × DWord := (BitVec.ofNat 64 (natAt bs (16 * i) 8), BitVec.ofNat 64 (natAt bs (16 * i + 8) 8))

/-- The atomic of one lane on its operands (R275). -/
def atomLane (leaf : Point) (op : AtomOp) (sc : Scope) (dbl : Bool) (o : DWord × DWord) (m : Mach) (q : Req) (a : Acc) : List Byte × Mach :=
  m.atomHere leaf sc a q.n (atomBytes op dbl o.1 o.2)

/-- The atomics of all lanes, on the operands the registers of `m0` hold, in ascending lane order (R275, R276). -/
def atomLanes (m0 : Mach) (c : Ctx) (op : AtomOp) (sc : Scope) (dbl : Bool) (d : Nat) (m : Mach) (ps : List (Req × Place)) :
    List (Nat × List Byte) × Mach :=
  ps.foldl (fun r q => match q.2 with
    | .here a _ => let x := atomLane c.leaf op sc dbl (atomOpnds m0 c op dbl d q.1.lane) r.2 q.1 a; (r.1 ++ [(q.1.lane, x.1)], x.2)
    | .fab _ _ => r) ([], m)

/-- Whether all of an instruction's places are on one other device. -/
def oneFar (ps : List (Req × Place)) : Bool :=
  match ps with
  | (_, .fab d _) :: qs => qs.all (fun q => match q.2 with
    | .fab e _ => e == d
    | .here _ _ => false)
  | _ => false

/-- An atomic of all lanes (R275, R276). One other device that holds all of its places performs it whole or refuses it whole; where it has several homes, every target
checks its lanes before any is performed (R19, R23; log entry 26). -/
def atomBody (cf : Conf) (m : Mach) (c : Ctx) (scr : Bool) (op : AtomOp) (sc : Scope) (dbl : Bool) (d : Nat) (qs : List Req) : Res :=
  withPlaces cf m c scr .atomic true qs (fun ps m1 =>
    afterWrites m1 c (m1.drainWids c sc ++ m1.fabBefore c.leaf c.la.p true ps) (fun m1 =>
      let m1 := m1.before c.leaf c.la.p sc true true ps
      if anyFab ps then
        fabAsk cf m1 c ps (fun q => anyFab [q]) (fun q off => (off, let o := atomOpnds m c op dbl d q.lane; .atom op dbl o.1 o.2)) []
          (ps.flatMap (fun q => opndBytes (atomOpnds m c op dbl d q.1.lane))) (some (op, sc, dbl)) (if oneFar ps then .whole else .check) (sc == .core)
      else
        let r := atomLanes m c op sc dbl d m1 ps
        loaded (r.2.after c.leaf sc true) c (if dbl then .d else .w) d r.1))

/-- ATOM (R275). -/
def execAtom (op : AtomOp) (sc : Scope) (dbl : Bool) (d a : Nat) (s : State) :=
  issue s (.atom op sc dbl d a) (fun cf m c => atomBody cf m c false op sc dbl d (genReqs m c a 0 (if dbl then 8 else 4)))
/-- ATOMS (R275). -/
def execAtoms (op : AtomOp) (sc : Scope) (dbl : Bool) (d : Nat) (a : Src) (s : State) :=
  issue s (.atoms op sc dbl d a) (fun cf m c => atomBody cf m c true op sc dbl d (scrReqs m c a 0 (if dbl then 8 else 4)))

/-! ### Prefetch (R277) -/

/-- The package-cache lines that a prefetch of an access brings: that of its address, or those of the named slot of a compressed page; a bypass
leaf brings nothing (R277). -/
def Mach.prefLines (m : Mach) (cf : Conf) (p : Nat) (a : Acc) (va : Nat) : Mach :=
  if a.tag.any (fun t => t.pol == 2) then m
  else
    match a.cmp, a.leaf, a.tag, cf.part? p with
    | true, some l, some tag, some pt =>
      let q := (partsIn (slotParts pt (slotPpa l va))).filter (fun x => x.1 == .pkg && decide (x.2.1 < 2 ^ 40))
      ((q.map (fun x => x.2.1 / 128)).eraseDups).foldl (fun m line => m.touchLine tag.p line tag.pol tag.key) m
    | _, _, _, _ => m.touch a.sp (a.addr / 128 * 128) 128 a.tag

/-- A prefetch of one lane: its translation is installed and, unless it asks for that alone, its line is brought; a lane whose address is not virtual, or that fails a
check, does nothing. -/
def prefLane (cf : Conf) (m : Mach) (c : Ctx) (xlate : Bool) (q : Req) : Mach :=
  match reqTarget m c.tm false false q with
  | .va va =>
    if m.unserved cf (.core c.tm.core) c.la.p c.la.x va then m
    else
      match xlateNow cf m (.core c.tm.core) c.la.p c.la.x va with
      | (.ok l, m') => match checkLeaf cf m c.la.p c.la.x va .read l with
        | .ok a => if xlate then m' else m'.prefLines cf c.la.p a va
        | .error _ => m
      | (.bad _ _, _) => m
  | _ => m

/-- PREF: no register, latch or memory changes. -/
def execPref (xlate : Bool) (a : Nat) (off : Int) (s : State) :=
  issue s (.pref xlate a off) (fun cf m c => .late ((genReqs m c a off 4).foldl (fun m q => prefLane cf m c xlate q) m) .seq)

/-! ### Walks and miss queue (R16–R21) -/

/-- MISS_QUEUE_ENTER (R18): the misses of a waiting instruction enter once they fit. -/
def missQueueEnter (_ : Conf) (m : Mach) (r : FRef) : Mach :=
  match ctxOf m r with
  | none => m
  | some c =>
    match c.f.wait with
    | some ⟨i, .missRoom blks, t⟩ =>
      match m.enterMisses c.tm.core c.la.p c.la.x blks with
      | some m => (m.updFibre r (fun f => { f with wait := some ⟨i, .xlate blks, t⟩ })).count (dieOfCore c.tm.core) 6 (some c.la.p) (m.cyc - t)
      | none => m
    | _ => m

/-- Whether a page that covers a block covers another. -/
def samePage (log a b : Nat) : Bool := a / 2 ^ (log - 16) == b / 2 ^ (log - 16)

/-- A walk's result reaches the waiting fibres of its core, partition and context (R18); a fibre none of whose blocks waits re-issues. -/
def Mach.deliverWalk (m : Mach) (core p x : Nat) (done : List (Nat × Xl)) : Mach :=
  let got (f : Fibre) : Option Fibre :=
    match f.wait with
    | some ⟨_, .xlate blks, _⟩ =>
      match ctxOf m f.ref with
      | some c =>
        if c.tm.core = core ∧ c.la.p = p ∧ c.la.x = x then
          let f := { f with xl := (done.filter (fun e => blks.contains e.1)) ++ f.xl }
          some (if blks.any (fun b => m.missq.any (fun q => q.core == core && q.p == p && q.x == x && q.vpn == b)) then f else { f with wait := none })
        else none
      | none => none
    | _ => none
  let m' := { m with fibres := m.fibres.map (fun f => (got f).getD f) }
  ((m.fibres.filter (fun f => (got f).isSome)).map (fun f => (f.ref.t, f.ref.g))).eraseDups.foldl (fun n g => n.woken m g.1 g.2) m'

/-- PAGE_WALK (R16–R18, R20): an entry of a core's miss queue is served, from the shared cache of its die or by one of the partition's walkers there; without a walker it
waits. The leaf's A bit is set as it is installed (R17); entries that the page covers are dropped with it. -/
def pageWalk (cf : Conf) (m : Mach) (core idx : Nat) : Mach :=
  match (m.missq.filter (fun q => q.core == core))[idx]? with
  | none => m
  | some q =>
    let die := dieOfCore core
    match (match m.tlbGet (.die die) q.p q.x q.vpn with
      | some l => some (Xl.ok l, m)
      | none => if walkersOf cf q.p die = 0 then none else some (walkAt cf m die q.p q.x (q.vpn * 65536))) with
    | none => m
    | some (.ok l, m) =>
      let sat := m.missq.filter (fun e => e.core == core && e.p == q.p && e.x == q.x && samePage l.log e.vpn q.vpn)
      let m := { m with missq := m.missq.filter (fun e => !sat.contains e) }
      (m.tlbPut (.core core) q.p q.x q.vpn l).deliverWalk core q.p q.x (sat.map (fun e => (e.vpn, .ok l)))
    | some (.bad k s, m) =>
      ({ m with missq := m.missq.filter (fun e => e != q) }).deliverWalk core q.p q.x [(q.vpn, .bad k s)]

/-! ### Long-latency results (R168) -/

/-- Whether a team's cluster is on its way to being saved: no yielded run resumes and no new run starts (R175, R176). -/
def Mach.stoppingTeam (m : Mach) (t : Nat) : Bool :=
  ((m.team? t).bind (fun tm => m.cluster? tm.c)).any (fun cl => cl.pre == .stopping || cl.pre == .saved)

/-- LONG_LATENCY_COMPLETE: a result is written, but none to a register that an MMA holds (R312); runs that yielded for it may resume, unless their team is being saved (R176), and a group that awaited it has become
ready (R169). -/
def longLatencyComplete (_ : Conf) (m : Mach) (id : Nat) : Mach :=
  match m.outst.find? (fun o => o.id == id) with
  | none => m
  | some o =>
    if m.outstHeld o then m
    else
      let m' := (m.deliverOutst o).woken m o.ref.t o.ref.g
      if m.stoppingTeam o.ref.t then m' else m'.endYields o.ref.t

/-! ### Writes to other devices answered (R34, R76) -/

/-- The fibres that waited for writes to other devices, none of them left, go on. -/
def Mach.endDrains (m : Mach) : Mach :=
  m.fibres.foldl (fun m f => match f.wait with
    | some ⟨i, .drain ws again, since⟩ =>
      if m.bufs.any (fun e => ws.contains e.w.wid) then m
      else if again then (m.endWait f.ref).updFibre f.ref (fun f => { f with
        drained := true, fe := if (Why.drain ws again).counts i then some (m.cyc - since) else f.fe })
      else m.completeWait f.ref [] []
    | _ => m) m

/-! ### The events -/

/-- PROPAGATE (R71). -/
def execPropagate (wid : Nat) (s : State) := onMach s (fun _ m => (m.propagate wid).endDrains)
/-- REFRESH (R71). -/
def execRefresh (pt : Point) (sp : Space) (unit : Nat) (tag : Option KTag) (away : List Byte) (drop : Bool) (s : State) :=
  onMach s (fun _ m => m.refreshCopy pt sp unit tag away drop)
/-- MISS_QUEUE_ENTER (R18). -/
def execMissQueueEnter (w : FRef) (s : State) := onMach s (fun cf m => missQueueEnter cf m w)
/-- PAGE_WALK (R16). -/
def execPageWalk (core idx : Nat) (s : State) := onMach s (fun cf m => pageWalk cf m core idx)
/-- LONG_LATENCY_COMPLETE (R168). -/
def execLongLatencyComplete (id : Nat) (s : State) := onMach s (fun cf m => longLatencyComplete cf m id)
/-- FETIMEOUT (R45). -/
def execFetimeout (w : FRef) (s : State) := onMach s (fun cf m => feTimeout cf m w)
/-- FULL_EMPTY_TAKE (R44). -/
def execFullEmptyTake (w : FRef) (s : State) := onMach s (fun cf m => fullEmptyTake cf m w)

end Sys2Proof.Machine
end

