-- ==== Sys2Proof/Machine/Sync.lean ====
section
/-!
DEFINITION. Synchronising instructions: named barriers (R99, R292, R293), cluster barriers (R100, R294), count words (R87, R90, R91, R295) and
fences (R95–R97, R296).
-/
namespace Sys2Proof.Machine

/-! ### Named barriers -/

/-- One barrier of a team. -/
def Team.bar (tm : Team) (b : Nat) : Bar := tm.bars.getD b ⟨0, 0, false, none⟩
/-- Changing a barrier. -/
def Mach.setBar (m : Mach) (t b : Nat) (x : Bar) : Mach := m.updTeam t (fun tm => { tm with bars := modAt tm.bars b (fun _ => x) })

/-- BARINIT of one barrier (R293): the count's low ten bits, 0 standing for 1,024. -/
def barSet (x : Bar) (a : Word) : Bar :=
  let n := nbits a.toNat 9 0
  let n := if n = 0 then 1024 else n
  if x.arr = 0 then { x with count := n } else { x with deferred := some n }

/-- A waiter of a completed phase departs with the acquire of core scope (R99). -/
def Mach.releaseBar (m : Mach) (f : Fibre) : Mach :=
  let m := m.invalidate (.group f.ref.t f.ref.g) 1
  match f.wait with
  | some ⟨.bararw d _, .barrier _ x, _⟩ =>
    let vals := (lanesOf f.pred).map (fun i => (i, (if x then 1 else 0 : Word)))
    m.completeWait f.ref (dstWrites d vals) vals
  | _ => m.completeWait f.ref [] []

/-- An arrival at a barrier (R293): the parity before it; a complete phase releases its waiters. -/
def Mach.arriveBar (m : Mach) (t b : Nat) : Bool × Mach :=
  match m.team? t with
  | none => (false, m)
  | some tm =>
    let x := tm.bar b
    if x.arr + 1 = x.count then
      let m := m.setBar t b ⟨x.deferred.getD x.count, 0, !x.parity, none⟩
      let ws := m.fibres.filter (fun f => f.ref.t == t && f.wait.any (fun w => match w.why with
        | .barrier b' _ => b' == b
        | _ => false))
      (x.parity, ws.foldl Mach.releaseBar m)
    else (x.parity, m.setBar t b { x with arr := x.arr + 1 })

/-- A parity as a word. -/
def parWord (b : Bool) : Word := if b then 1 else 0

/-- BARINIT (R293). -/
def execBarinit (b : Nat) (a : Src) (s : State) :=
  issue s (.barinit b a) (fun _ m c => .done (m.setBar c.tm.t b (barSet (c.tm.bar b) (m.srcL c a))) [] .seq)

/-- BARARR (R293): a release of core scope, then one arrival (R99). -/
def execBararr (d : Dst) (b : Nat) (s : State) :=
  issue s (.bararr d b) (fun _ m c =>
    let r := (m.drain c.leaf 1).arriveBar c.tm.t b
    resultLate r.2 c d (c.each (parWord r.1)))

/-- BARWAIT (R293). -/
def execBarwait (b : Nat) (a : Src) (s : State) :=
  issue s (.barwait b a) (fun _ m c =>
    let x := (m.srcL c a).getLsbD 0
    if (c.tm.bar b).parity != x then .done (m.invalidate c.leaf 1) [] .seq else .pend m (.barrier b x))

/-- BARARW (R293): an arrival, then the wait for its phase. -/
def execBararw (d : Dst) (b : Nat) (s : State) :=
  issue s (.bararw d b) (fun _ m c =>
    let r := (m.drain c.leaf 1).arriveBar c.tm.t b
    match r.2.team? c.tm.t with
    | none => .gone r.2
    | some tm =>
      if (tm.bar b).parity != r.1 then resultLate (r.2.invalidate c.leaf 1) c d (c.each (parWord r.1))
      else .pend r.2 (.barrier b r.1))

/-! ### Cluster barriers -/

/-- CLUBAR (R294): the group's first arrival in the phase is a release of cluster scope (R100); the fibre waits for the phase. -/
def execClubar (all : Bool) (s : State) :=
  issue s (.clubar all) (fun _ m c =>
    let r := c.f.ref
    let die := dieOfCore c.tm.core
    let b := if all then c.cl.barAll else c.cl.barDie.getD die ⟨[], 0⟩
    let arr (b : CluBar) : CluBar := { b with arrived := (r.t, r.g) :: b.arrived }
    let m := if b.arrived.contains (r.t, r.g) then m
      else (m.drain c.leaf 2).updCluster c.cl.c (fun cl =>
        if all then { cl with barAll := arr cl.barAll } else { cl with barDie := modAt cl.barDie die arr })
    .gone (((m.waitAt r (.clubar all) (.clubar all b.phase)).toPending r.t r.g).clubarLevel c.cl.c (if all then none else some die)))

/-! ### Count words -/

/-- The request of a count word: the pair's address in the leader lane (R295). -/
def countReq (m : Mach) (c : Ctx) (a : Nat) : List Req := let x := (m.v64 c a c.leader).toNat; [⟨c.leader, x, 8, x⟩]

/-- The scope of a count wait as an access scope. -/
def cwScope : CwScope → Scope
  | .core => .core
  | .clu => .clu
  | .dev => .dev
  | .sys => .sys
/-- The scope of a CINC as an access scope. -/
def ciScope : CiScope → Scope
  | .plain => .plain
  | .core => .core
  | .clu => .clu
  | .dev => .dev

/-- The count field of a count word (R87). -/
def countField (v : Nat) : Nat := v % 2 ^ 63

/-- What a count wait is after: scope, destination, address pair, target, bound. -/
structure CwArgs where
  sc : Scope
  d : Dst
  a : Nat
  target : Nat
  bound : Option Nat
deriving DecidableEq, Repr

/-- The arguments of CWAIT and CWAITT from the leader lane (R295). -/
def cwArgs (m : Mach) (c : Ctx) (i : Instr) : Option CwArgs :=
  match i with
  | .cwait sc d a b => some ⟨cwScope sc, d, a, countField (m.v64 c b c.leader).toNat, none⟩
  | .cwaitt sc d a b => some ⟨cwScope sc, d, a, countField (m.v64 c b c.leader).toNat, some (m.v c (b + 2) c.leader).toNat⟩
  | _ => none

/-- The completing read of a count wait is an acquire of its scope (R90). -/
def Mach.cwDone (m : Mach) (leaf : Point) (sc : Scope) (sp : Space) (addr : Nat) : Mach :=
  let ps := m.below leaf (scopeLevel sc)
  let ws := m.widsTo ps sp addr 8
  (m.push ps (fun w => ws.contains w)).invalidate leaf (scopeLevel sc)

/-- A read of a count word at its home (R90). -/
def cwRead (cf : Conf) (m : Mach) (c : Ctx) (a : Acc) (va : Nat) : Nat × Mach :=
  let r := readAcc (.home c.leaf) m (cf.part? c.la.p) a va 8
  (leNat r.1, r.2)

/-- Asking another device for a count word (R90, R106): writes to it in the path leave first; the fibre is in a waiting instruction (R156). -/
def cwAsk (cf : Conf) (m : Mach) (c : Ctx) (ps : List (Req × Place)) : Res :=
  match afterWrites m c (m.fabBefore c.leaf c.la.p true ps) (fun m => fabAsk cf m c ps (fun q => anyFab [q]) (fun q off => (off, .read q.n)) [] [] none .whole false) with
  | .hold m why => .pend m why
  | r => r

/-- CWAIT and CWAITT (R90, R295): the wait ends at once when the count is there or the bound allows one read. -/
def cwBody (cf : Conf) (m : Mach) (c : Ctx) (i : Instr) : Res :=
  match cwArgs m c i with
  | none => .gone m
  | some q =>
    withPlaces cf m c false .read true (countReq m c q.a) (fun ps m =>
      match ps with
      | (_, .here a va) :: _ =>
        let r := cwRead cf m c a va
        if q.target ≤ countField r.1 then pairLate (r.2.cwDone c.leaf q.sc a.sp a.addr) c q.d (c.each (BitVec.ofNat 64 r.1))
        else if q.bound.any (fun b => decide (b ≤ c.f.fe.getD 0)) then pairLate r.2 c q.d (c.each (BitVec.ofNat 64 r.1))
        else .pend r.2 (.count q.bound a.leaf)
      | ps => cwAsk cf m c ps)

/-- CWAIT (R295). -/
def execCwait (sc : CwScope) (d : Dst) (a b : Nat) (s : State) := issue s (.cwait sc d a b) (fun cf m c => cwBody cf m c (.cwait sc d a b))
/-- CWAITT (R295). -/
def execCwaitt (sc : CwScope) (d : Dst) (a b : Nat) (s : State) := issue s (.cwaitt sc d a b) (fun cf m c => cwBody cf m c (.cwaitt sc d a b))

/-- Where a waiting count word lies: under the translation it was checked with, or, named through the fabric, through this device's own windows as they are now (R33);
the check it fails there; or nowhere yet. -/
def cwAcc (cf : Conf) (m : Mach) (c : Ctx) (a : Nat) (leaf : Option Leaf) : Option (Except (Nat × Nat) (Acc × Nat)) × Mach :=
  match decodeGen m c.tm (m.v64 c a c.leader).toNat 8 false, leaf with
  | .scr t off, _ => (some (.ok (⟨.scr t, off, none, 0, false, none⟩, 0)), m)
  | .va va, some l => (match checkLeaf cf m c.la.p c.la.x va .read l with
    | .ok ac => some (.ok (ac, va))
    | .error _ => none, m)
  | .fab d off, _ => match ownPlace cf m c.la.p 8 .read (.fab d off) with
    | (.ok (.here ac va), m) => (some (.ok (ac, va)), m)
    | (.error e, m) => (some (.error e), m)
    | (_, m) => (none, m)
  | _, _ => (none, m)

/-- A count wait completes with a value: its pair and its latch. -/
def Mach.cwComplete (m : Mach) (c : Ctx) (d : Dst) (v : Nat) : Mach :=
  m.completeWait c.f.ref (pairWrites d (c.each (BitVec.ofNat 64 v))) (c.each (BitVec.ofNat 32 v))

/-- A waiting count wait reads its word at the home, once no bank there refreshes (R58): complete with the count there, or with whatever value where `last`; a poisoned
unit stops the launch (R379). A word that its window refuses is the precise trap of the waiting instruction (R33, R34). -/
def cwLook (cf : Conf) (m : Mach) (c : Ctx) (i : Instr) (leaf : Option Leaf) (last : Bool) : Mach :=
  match cwArgs m c i with
  | none => m
  | some q =>
    let who : TlbOwner × Nat := (.core c.tm.core, 2 ^ 64 + c.f.ref.t * 2048 + c.f.ref.g * 32 + c.leader)
    match cwAcc cf m c q.a leaf with
    | (none, m) => m
    | (some (.error (k, sub)), m) =>
      if m.barred c.f then m else m.takeTrap cf c ⟨k, sub, m.v64 c q.a c.leader, maskOf [c.leader], false, true⟩
    | (some (.ok (a, va)), m) =>
      if m.bankBusy (cf.part? c.la.p) a then m.delay who.1 who.2 (cf.part? c.la.p) a
      else if poisonedAcc m (cf.part? c.la.p) a va 8 then m.stopLaunch cf c.f.ref.t c.f.ref.g 0
      else
        let x := cwRead cf (m.undelay who.1 who.2) c a va
        if q.target ≤ countField x.1 then (x.2.cwDone c.leaf q.sc a.sp a.addr).cwComplete c q.d x.1
        else if last then x.2.cwComplete c q.d x.1
        else x.2

/-- CWAIT_COMPLETE (R90): a read at the home finds the count at or above the target. -/
def cwaitComplete (cf : Conf) (m : Mach) (r : FRef) : Mach :=
  match m.waiting r with
  | some (c, ⟨i, .count _ leaf, _⟩) => cwLook cf m c i leaf false
  | _ => m

/-- CWAITT_BOUND (R90, R295): the bound has passed; the destination takes the last value read. -/
def cwaittBound (cf : Conf) (m : Mach) (r : FRef) : Mach :=
  match m.waiting r with
  | some (c, ⟨i, .count (some bound) leaf, since⟩) => if bound ≤ m.cyc - since then cwLook cf m c i leaf true else m
  | _ => m

/-- The answer of another device's count word (R90, R106): complete, with no older copy left in the path (R81); or the word is asked for again, the time counting
on. -/
def cwAnswer (cf : Conf) (m : Mach) (c : Ctx) (w : Wait) (ps : List (Req × Place)) (v : Nat) : Mach :=
  match cwArgs m c w.i with
  | some q =>
    let m := ps.foldl (fun m x => match x.2 with
      | .fab d off => (m.path c.leaf (.fab d c.la.p)).foldl (fun m p => m.uncopy p (.fab d c.la.p) off x.1.n) m
      | .here _ _ => m) m
    if q.target ≤ countField v then (m.invalidate c.leaf (scopeLevel q.sc)).cwComplete c q.d v
    else if q.bound.any (fun b => decide (b ≤ m.cyc - w.since)) then m.cwComplete c q.d v
    else Mach.resolve cf c (cwAsk cf m c ps)
  | none => m

/-- CINC (R91, R295). -/
def execCinc (sc : CiScope) (d : Dst) (a : Nat) (b : Src) (s : State) :=
  issue s (.cinc sc d a b) (fun cf m c =>
    let inc := (m.srcL c b).toNat
    withPlaces cf m c false .atomic true (countReq m c a) (fun ps m =>
      afterWrites m c (m.fabBefore c.leaf c.la.p true ps) (fun m =>
        let m := m.before c.leaf c.la.p (ciScope sc) true true ps
        match ps with
        | (q, .here ac _) :: _ =>
          let r := m.atomHere c.leaf (ciScope sc) ac q.n (fun old => some (leBytes 8 (countAdd (leNat old) inc false)))
          pairLate (r.2.after c.leaf (ciScope sc) true) c d (c.each (BitVec.ofNat 64 (leNat r.1)))
        | ps => fabAsk cf m c ps (fun q => anyFab [q]) (fun _ off => (off, .cinc inc)) [] [] (some (.add, ciScope sc, true)) .whole
          (sc == .core))))

/-! ### Fences -/

/-- A FENCE on a token (R95). -/
def fenceTok (t : Tok) (ws : List Nat) (sc : Nat) : Tok := if t.pend then ⟨true, t.wids ++ ws, max t.sc sc⟩ else ⟨true, ws, sc⟩

/-- FENCE (R95, R296). -/
def execFence (sc : Scope) (tok : Nat) (s : State) :=
  issue s (.fence sc tok) (fun _ m c =>
    let ws := m.widsAt (m.below c.leaf (scopeLevel sc))
    .done (m.updFibre c.f.ref (fun f => { f with toks := modAt f.toks tok (fun t => fenceTok t ws (scopeLevel sc)) })) [] .seq)

/-- Whether every write of a token has left the buffers below its scope point (R96). -/
def Mach.tokGone (m : Mach) (leaf : Point) (t : Tok) : Bool :=
  !(m.widsAt (m.below leaf t.sc)).any (fun w => t.wids.contains w)

/-- A token becomes idle, with the invalidate of its scope (R96). -/
def Mach.tokIdle (m : Mach) (c : Ctx) (k : Nat) (t : Tok) : Mach :=
  (m.invalidate c.leaf t.sc).updFibre c.f.ref (fun f => { f with toks := modAt f.toks k (fun _ => ⟨false, [], 0⟩) })

/-- FWAIT (R96, R296). -/
def execFwait (tok : Nat) (s : State) :=
  issue s (.fwait tok) (fun _ m c =>
    let t := c.f.toks.getD tok ⟨false, [], 0⟩
    if !t.pend then .done m [] .seq
    else if m.tokGone c.leaf t then .done (m.tokIdle c tok t) [] .seq
    else .pend m (.token tok))

/-- FWAIT_COMPLETE (R96). -/
def fwaitComplete (_ : Conf) (m : Mach) (r : FRef) : Mach :=
  match m.waiting r with
  | some (c, ⟨_, .token k, _⟩) =>
    let t := c.f.toks.getD k ⟨false, [], 0⟩
    if m.tokGone c.leaf t then (m.tokIdle c k t).completeWait r [] [] else m
  | _ => m

/-! ### The events -/

/-- CWAIT_COMPLETE (R90). -/
def execCwaitComplete (w : FRef) (s : State) := onMach s (fun cf m => cwaitComplete cf m w)
/-- CWAITT_BOUND (R90). -/
def execCwaittBound (w : FRef) (s : State) := onMach s (fun cf m => cwaittBound cf m w)
/-- FWAIT_COMPLETE (R96). -/
def execFwaitComplete (w : FRef) (s : State) := onMach s (fun cf m => fwaitComplete cf m w)

end Sys2Proof.Machine
end

