-- ==== Sys2Proof/Machine/System.lean ====
section
/-!
DEFINITION. System instructions (R297–R303): special registers, codebooks and table pairs, instruction prefetch and pinning, cache write-back
and the engine report.
-/
namespace Sys2Proof.Machine

/-! ### Special registers (R297) -/

/-- CLUPOS (R149). -/
def clupos (c : Ctx) : Nat :=
  let k := c.cl.cores.getD c.tm.idx ⟨0, 0, 0, 0⟩
  c.tm.idx + k.col * 2 ^ 7 + k.row * 2 ^ 11 + k.rect * 2 ^ 15 + c.cl.cores.length * 2 ^ 17

/-- WSPHASE of a die (R59). -/
def Mach.wsphase (m : Mach) (d : Nat) : Nat :=
  let phi := m.wsPhi d
  let bank := phi / 3500
  (3500 * (bank + 1) - phi) % 56000 + (bank + 1) % 16 * 2 ^ 12 + bank * 2 ^ 16 + (if (m.refreshing d).isSome then 2 ^ 31 else 0)

/-- The value of a special register but LANEID and TRAPADDR, and what the read changes: the snapshots of CYCLEHI and DNSQHI (R119, R297). -/
def readSpecial (cf : Conf) (m : Mach) (c : Ctx) (n : Nat) : Nat × Mach :=
  let die := dieOfCore c.tm.core
  match n with
  | 0x01 => (c.g.g, m)
  | 0x02 => (c.cl.num, m)
  | 0x03 => (clupos c, m)
  | 0x04 => (c.tm.core, m)
  | 0x05 => (die, m)
  | 0x06 => (cf.device.toNat, m)
  | 0x07 => (c.la.p, m)
  | 0x08 => (c.g.sect, m)
  | 0x09 => (c.f.base, m)
  | 0x0A => (c.f.pred.toNat, m)
  | 0x0B => (c.g.fpstat.toNat, m)
  | 0x0C => (c.g.tmshape, m)
  | 0x0D => (c.g.tmpair, m)
  | 0x0E => (m.wsphase die, m)
  | 0x0F => (m.dieCyc die % 2 ^ 32, { m with cycSnap := snapPut m.cycSnap c.la.p c.la.x 0 (m.dieCyc die / 2 ^ 32 % 2 ^ 32) })
  | 0x10 => (snapGet m.cycSnap c.la.p c.la.x 0, m)
  | 0x11 => (c.g.trapCause.toNat, m)
  | _ => if 0x80 ≤ n then m.readRegionReg c.la.p c.la.x ((n - 0x80) / 8) (n % 8) else (0, m)

/-- SRD (R297). -/
def execSrd (d : Dst) (n : Nat) (s : State) :=
  issue s (.srd d n) (fun cf m c =>
    if n = 0 then laneWord m c d (fun i => BitVec.ofNat 32 i)
    else if n = 0x12 then lanePair m c d (fun _ => c.g.trapAddr)
    else
      let r := readSpecial cf m c n
      laneWord r.2 c d (fun _ => BitVec.ofNat 32 r.1))

/-- Writing a special register (R154, R191, R204, R119). -/
def writeSpecial (m : Mach) (c : Ctx) (n : Nat) (v : Word) : Mach :=
  let upd (f : Group → Group) : Mach := m.updGroup c.f.ref.t c.f.ref.g f
  match n with
  | 0x08 => upd (fun g => { g with sect := v.toNat })
  | 0x0B => upd (fun g => { g with fpstat := v })
  | 0x0C => upd (fun g => { g with tmshape := v.toNat })
  | 0x0D => upd (fun g => { g with tmpair := v.toNat })
  | _ =>
    if (n - 0x80) / 8 = 3 then m.writeThr c.la.p c.la.x (n % 8) false v.toNat
    else if (n - 0x80) / 8 = 4 then m.writeThr c.la.p c.la.x (n % 8) true v.toNat
    else m

/-- SWR (R297): values its register does not take have raised ILLEGAL. -/
def execSwr (n : Nat) (a : Src) (s : State) :=
  issue s (.swr n a) (fun _ m c => .done (writeSpecial m c n (m.srcL c a)) [] .seq)

/-- TMSHP (R298). -/
def execTmshp (code : Nat) (s : State) :=
  issue s (.tmshp code) (fun _ m c => .done (writeSpecial m c 0x0C (BitVec.ofNat 32 code)) [] .seq)

/-! ### Codebooks and table pairs (R299, R300) -/

/-- The requests of a block of n bytes at the pair A of the leader lane, in pieces of w bytes, reported by the block's address. -/
def blockReqs (m : Mach) (c : Ctx) (a n w : Nat) : List Req :=
  let x := (m.v64 c a c.leader).toNat
  (List.range (n / w)).map (fun i => ⟨c.leader, (x + w * i) % 2 ^ 64, w, x⟩)

/-- The sixteen entries of a codebook's 32 bytes (R299). -/
def codebookOf (bs : List Byte) : List (BitVec 16) := (List.range 16).map (fun k => BitVec.ofNat 16 (natAt bs (2 * k) 2))

/-- A block is read by plain reads in one step, wherever it lies, and used; a part on another device is asked for over the fabric. -/
def blockBody (cf : Conf) (m : Mach) (c : Ctx) (a n w align : Nat) (use : Mach → List Byte → Res) : Res :=
  let x := m.v64 c a c.leader
  if x.toNat % align ≠ 0 then .trap m 3 0 x (maskOf [c.leader])
  else
    withPlaces cf m c false .read true (blockReqs m c a n w) (fun ps m =>
      readPlaces cf m c (.plain c.leaf) [] ps (fun m vals => use m (vals.flatMap Prod.snd)))

/-- The group's codebook is replaced (R299). -/
def Mach.setCodebook (m : Mach) (t g : Nat) (bs : List Byte) : Mach := m.updGroup t g (fun gr => { gr with codebook := codebookOf bs })

/-- CBLD (R299). -/
def execCbld (a : Nat) (s : State) :=
  issue s (.cbld a) (fun cf m c =>
    blockBody cf m c a 32 16 32 (fun m bs => .done (m.setCodebook c.f.ref.t c.f.ref.g bs) [] .seq))

/-- A core's table-pair slot is replaced (R300). -/
def Mach.setPair (m : Mach) (core slot : Nat) (img : List Byte) : Mach :=
  { m with pairs := ⟨core, slot, img⟩ :: m.pairs.filter (fun p => !(p.core == core && p.slot == slot)) }

/-- TMTAB (R300). -/
def execTmtab (a slot : Nat) (s : State) :=
  issue s (.tmtab a slot) (fun cf m c =>
    if !nbit c.rc.pairmask (slot - 1) then .trap m 0x0E 0 0 c.f.pred
    else
      blockBody cf m c a 536 8 8 (fun m img =>
        if pairOkImg img then .done (m.setPair c.tm.core slot img) [] .seq else .trap m 0x0E 0 0 c.f.pred))

/-! ### Instruction prefetch and pinning (R53, R301) -/

/-- The lines of a range, ascending. -/
def linesOf (a n : Nat) : List Nat :=
  if n = 0 then [] else (List.range ((a % 128 + n - 1) / 128 + 1)).map (fun i => (a / 128 + i) % 2 ^ 57)

/-- A line is filled; whether the core now holds it. A line whose translation or X check fails is skipped. -/
def fillLine (cf : Conf) (m : Mach) (c : Ctx) (line : Nat) : Bool × Mach :=
  match fetchWord cf m c.tm.core c.la.p c.la.x (line * 128) with
  | (.word _, m) => ((m.iline c.tm.core c.la.p c.la.x line).isSome, m)
  | (_, m) => (false, m)

/-- The lines a launch pins in a core. -/
def Mach.pinned (m : Mach) (core l : Nat) : Nat := (m.icache.filter (fun e => e.core == core && e.pin.contains l)).length

/-- Changing a line of a core's instruction cache. -/
def Mach.updLine (m : Mach) (c : Ctx) (line : Nat) (f : ILine → ILine) : Mach :=
  { m with icache := m.icache.map (fun e =>
      if e.core = c.tm.core ∧ e.p = c.la.p ∧ e.x = c.la.x ∧ e.line = line then f e else e) }

/-- Pinning a line for a launch while fewer than 128 are pinned; whether it stands pinned. -/
def pinLine (m : Mach) (c : Ctx) (line : Nat) : Bool × Mach :=
  if (m.iline c.tm.core c.la.p c.la.x line).any (fun e => e.pin.contains c.la.l) then (true, m)
  else if m.pinned c.tm.core c.la.l < 128 then (true, m.updLine c line (fun e => { e with pin := c.la.l :: e.pin }))
  else (false, m)

/-- The lines an instruction names: pair A and length B of the leader lane. -/
def namedLines (m : Mach) (c : Ctx) (a : Nat) (b : Src) : List Nat := linesOf (m.v64 c a c.leader).toNat (m.srcL c b).toNat

/-- IPF (R301). -/
def execIpf (a : Nat) (b : Src) (s : State) :=
  issue s (.ipf a b) (fun cf m c => .done ((namedLines m c a b).foldl (fun m l => (fillLine cf m c l).2) m) [] .seq)

/-- IPIN (R301). -/
def execIpin (d : Dst) (a : Nat) (b : Src) (s : State) :=
  issue s (.ipin d a b) (fun cf m c =>
    let r := (namedLines m c a b).foldl (fun (r : Nat × Mach) l =>
      let x := fillLine cf r.2 c l
      if x.1 then
        let y := pinLine x.2 c l
        (if y.1 then r.1 + 1 else r.1, y.2)
      else (r.1, x.2)) (0, m)
    laneWord r.2 c d (fun _ => BitVec.ofNat 32 r.1))

/-- IUNPIN (R301). -/
def execIunpin (a : Nat) (b : Src) (s : State) :=
  issue s (.iunpin a b) (fun _ m c =>
    .done ((namedLines m c a b).foldl (fun m l => m.updLine c l (fun e => { e with pin := e.pin.filter (fun x => x != c.la.l) })) m) [] .seq)

/-! ### Cache write-back (R98, R302) -/

/-- The pieces of a range of generic addresses, none crossing 256 bytes. -/
def cwbPieces (a n : Nat) : List (Nat × Nat) :=
  let rec go : Nat → Nat → Nat → List (Nat × Nat)
    | 0, _, _ => []
    | k + 1, a, n =>
      if n = 0 then []
      else
        let w := min n (256 - a % 256)
        (a % 2 ^ 64, w) :: go k (a + w) (n - w)
  go (n / 256 + 2) a n

/-- The locations of a piece, without any check: of a compressed page, the bytes of the slots that hold its blocks (R63, R64); none where it lies in no memory
or scratchpad of the partition. -/
def cwbPlaces (cf : Conf) (m : Mach) (c : Ctx) (a n : Nat) : List (Space × Nat × Nat) :=
  match decodeGen m c.tm a 1 false with
  | .scr t off => [(.scr t, off, n)]
  | .va va =>
    let x := match m.tlbGet (.core c.tm.core) c.la.p c.la.x (va / 65536) with
      | some l => Xl.ok l
      | none => walk cf m c.la.p c.la.x va
    match x, cf.part? c.la.p with
    | .ok l, some pt =>
      if pbit l.e 9 then partsIn (slotParts pt (slotPpa l va))
      else ((physOf pt (pAddr l.e + va % 2 ^ l.log)).map (fun x => (x.1, x.2, n))).toList
    | _, _ => []
  | _ => []

/-- CWB of one piece. -/
def cwbPiece (m : Mach) (c : Ctx) (form : CwbForm) (s : Nat) (sp : Space) (addr n : Nat) : Mach :=
  match form with
  | .wb => m.drainRange c.leaf s sp addr n
  | .inv => m.dropRange (m.below c.leaf s) sp addr n
  | .wbinv => (m.drainRange c.leaf s sp addr n).dropRange (m.below c.leaf s) sp addr n

/-- CWB (R302). -/
def execCwb (form : CwbForm) (sc : Scope) (a : Nat) (b : Src) (s : State) :=
  issue s (.cwb form sc a b) (fun cf m c =>
    .done ((cwbPieces (m.v64 c a c.leader).toNat (m.srcL c b).toNat).foldl (fun m pc =>
      (cwbPlaces cf m c pc.1 pc.2).foldl (fun m x => cwbPiece m c form (scopeLevel sc) x.1 x.2.1 x.2.2) m) m) [] .seq)

/-! ### Engine status (R303) -/

/-- The four words of a report. -/
def reportWords (r : Report) : List Word :=
  [BitVec.ofNat 32 (r.status + r.sub * 2 ^ 8 + (if r.valid then 2 ^ 31 else 0)), BitVec.ofNat 32 r.n, lo32 r.addr, hi32 r.addr]

/-- TSTAT (R303). -/
def execTstat (d : Nat) (k : EngCtx) (s : State) :=
  issue s (.tstat d k) (fun _ m c =>
    let ws := reportWords (c.tm.reports.getD (ctxNum k) ⟨false, 0, 0, 0, 0⟩)
    .done (m.wrRegs c (c.lanes.flatMap (fun i => (List.range 4).map (fun k => (d + k, i, ws.getD k 0))))) (c.each (ws.getD 0 0)) .seq)

end Sys2Proof.Machine
end

