-- ==== Sys2Proof/Machine/Engine.lean ====
section
/-!
DEFINITION. Engine contexts (R24, R88, R89, R94, R304–R307): issue and acceptance of commands, the operation a context works on, its reads and
writes, how an operation ends and retires.
-/
namespace Sys2Proof.Machine

/-! ### Operations of a context -/

/-- An operation with its team, launch and launch record. -/
structure OpCtx where
  o : Op
  tm : Team
  la : Launch
  rc : LRec
  cl : Cluster
deriving DecidableEq, Repr

/-- The context of an operation. -/
def opCtx (m : Mach) (o : Op) : Option OpCtx :=
  match m.team? o.t with
  | none => none
  | some tm =>
    match m.launch? tm.l, m.cluster? tm.c with
    | some la, some cl => la.rec_.map (fun rc => ⟨o, tm, la, rc, cl⟩)
    | _, _ => none

/-- The leaf point of an operation's context. -/
def Op.leaf (o : Op) : Point := .eng o.t o.k

/-- Whether an operation is an armed send (R340). -/
def Op.isArm (o : Op) : Bool :=
  match o.cmd with
  | .xarm _ _ _ => true
  | _ => false

/-- Whether an operation that has ended still has something to do as it retires: later operations of its context begin after that (R94). -/
def Op.owes (o : Op) : Bool := o.due != ⟨[], [], none, none, none⟩

/-- The operation a context works on: the first that is not finished, armed sends standing aside (R94). -/
def Mach.curOp (m : Mach) (t : Nat) (k : EngCtx) : Option Op :=
  match (m.opsOf t k).find? (fun o => !o.isArm && (o.fin.isNone || o.owes)) with
  | some o => if o.fin.isNone then some o else none
  | none => none

/-- Whether pre-emption lets an operation in progress complete (R177). -/
def Op.completes (o : Op) : Bool :=
  match o.cmd with
  | .mma _ _ _ _ _ _ | .accz _ | .drain _ _ _ _ => true
  | .tcopy _ fl _ _ _ => fl.all || fl.ver || fl.cr
  | _ => false

/-- Whether a context may work on an operation now (R175, R177). -/
def OpCtx.mayWork (oc : OpCtx) : Bool :=
  match oc.cl.pre with
  | .running | .notice _ => true
  | .stopping => oc.o.begun && oc.o.completes
  | .saved => false

/-- Replacing an operation. -/
def Mach.setOp (m : Mach) (o : Op) : Mach := m.updOp o.t o.k o.n (fun _ => o)

/-- An operation begins: every copy at the context's leaf point is removed (R94). -/
def Mach.beginOp (m : Mach) (o : Op) : Mach := if o.begun then m else (m.dropCopies [o.leaf]).setOp { o with begun := true }

/-- An operation ends with a status, a sub-cause and a failing address (R164, R306). -/
def Mach.finish (m : Mach) (o : Op) (status sub : Nat) (addr : DWord) : Mach :=
  m.updOp o.t o.k o.n (fun x => { x with fin := some (status, sub, addr) })

/-- It ends at an access that failed: with FAULT, or STALE where its target's allocation has gone (R24, R33). -/
def Mach.finishBad (m : Mach) (o : Op) (sub : Nat) (addr : DWord) : Mach := m.finish o (if sub = 5 then 3 else 1) sub addr

/-- It ends well. -/
def Mach.finishOk (m : Mach) (o : Op) : Mach := m.finish o 0 0 0
/-- A parameter breaks a rule of its entry (R306). -/
def Mach.finishParam (m : Mach) (o : Op) : Mach := m.finish o 1 0 o.blkAddr

/-! ### Accesses of an operation -/

/-- What an access of an engine gives: a value, a failed check, or a wait: for a refreshing bank (R58), a walker (R20), a saved allocation (R179) or another
device's answer (R34). -/
inductive EngR (α : Type) where
  | ok (x : α)
  | bad (sub : Nat) (addr : DWord)
  | wait
deriving DecidableEq, Repr

/-- The pieces of a range of generic addresses, each one access of R66 (R42). -/
def engPieces (a n : Nat) : List (Nat × Nat) := (pieces a n).map (fun p => (p.1 % 2 ^ 64, p.2))

/-- The length of the first piece of a range. -/
def pieceLen (a n : Nat) : Nat := accessLen a n

/-- Where a checked access of an operation lies, and its virtual address; one that names this device through the fabric is resolved by its own windows (R33, R106). -/
def engPlace (cf : Conf) (m : Mach) (oc : OpCtx) (a n : Nat) (cls : Cls) : EngR (Acc × Nat) × Mach :=
  let own : TlbOwner := .eng oc.tm.t oc.o.k
  let waits := match decodeGen m oc.tm a n cls.writes with
    | .va va => m.unserved cf own oc.la.p oc.la.x va cls.writes
    | _ => false
  if waits then (.wait, m)
  else
    match engAccess cf m oc.tm oc.la.p oc.la.x oc.o.k a n cls with
    | (.error (_, s), m) => (.bad s (BitVec.ofNat 64 a), m)
    | (.ok ac, m) =>
      if ac.sp = .fab cf.device.toNat oc.la.p then
        match winAccess cf m oc.la.p ac.addr n cls with
        | (.here b va _, m) => (.ok (b, va), m)
        | (.saved _, m) | (.busy, m) => (.wait, m)
        | (.refused _ s, m) => (.bad s (BitVec.ofNat 64 a), m)
        | (.stale, m) => (.bad 5 (BitVec.ofNat 64 a), m)
      else (.ok (ac, a % 2 ^ 57), m)

/-- Whether no port is left by which a device is reached (R364). -/
def cutFrom (cf : Conf) (m : Mach) (dev : Nat) : Bool := m.cutOff && dev != cf.device.toNat

/-- Accesses of an operation to other devices, in progress. -/
def engPend (xid : Nat) (o : Op) (store : Bool) (asks : List (Req × Place)) (inst : List Point) : FabPend :=
  ⟨xid, ⟨o.t, o.g, 0⟩, some (o.t, o.k, o.n), store, asks, [], inst, [], none, .whole, [], false⟩

/-- Accesses of an operation to other devices are asked for, one request for each device (R34); with no port left the first is refused (R364). -/
def engAsk (cf : Conf) (m : Mach) (oc : OpCtx) (qs : List (Req × Place)) : EngR (List Byte) × Mach :=
  let nums := qs.zip (List.range qs.length)
  let devs := (qs.filterMap (fun q => match q.2 with
    | .fab d _ => some d
    | .here _ _ => none)).eraseDups
  if m.cutOff then (.bad 4 (BitVec.ofNat 64 ((qs.map (fun q => q.1.addr)).headD 0)), m)
  else if !(m.fabBefore oc.o.leaf oc.la.p false qs).isEmpty then (.wait, m)
  else
    let id := m.newId
    (.wait, { id.2 with
      net := id.2.net ++ devs.map (fun d => .access ⟨cf.device.toNat, d, id.1, oc.la.p, nums.filterMap (fun q => match q.1.2 with
        | .fab e off => if e = d then some (q.2, off / 16 * 16, .read 16) else none
        | .here _ _ => none), .whole, false⟩)
      fabPend := id.2.fabPend ++ [engPend id.1 oc.o false qs (m.path oc.o.leaf (.fab 0 oc.la.p))] })

/-- Whether an operation awaits another device's answer to a read. -/
def Mach.asks (m : Mach) (o : Op) : Bool := m.fabPend.any (fun p => !p.store && p.op == some (o.t, o.k, o.n))

/-- Whether the answer at hand has brought a unit of another device. -/
def Mach.hasAway (m : Mach) (sp : Space) (unit : Nat) : Bool := m.away.any (fun u => u.1 == sp && u.2.1 == unit)

/-- The places of some pieces, in order. -/
def engPlaces (cf : Conf) (m : Mach) (oc : OpCtx) (pcs : List (Nat × Nat)) (cls : Cls) : EngR (List (Req × Acc × Nat)) × Mach :=
  pcs.foldl (fun r pc =>
    match r with
    | (.ok xs, m) =>
      match engPlace cf m oc pc.1 pc.2 cls with
      | (.ok x, m) => (.ok (xs ++ [(⟨0, pc.1, pc.2, pc.1⟩, x)]), m)
      | (.bad s e, m) => (.bad s e, m)
      | (.wait, m) => (.wait, m)
    | r => r) (.ok [], m)

/-- Plain reads of some pieces in one step (R24, R73, R379); where one on another device is known at no point of the path, all on other devices are asked for first,
together. -/
def engReadAll (cf : Conf) (m : Mach) (oc : OpCtx) (pcs : List (Nat × Nat)) : EngR (List Byte) × Mach :=
  match engPlaces cf m oc pcs .read with
  | (.bad s e, m) => (.bad s e, m)
  | (.wait, m) => (.wait, m)
  | (.ok xs, m) =>
    let far := xs.filterMap (fun x => match x.2.1.sp with
      | .fab d _ => some (x.1, Place.fab d x.2.1.addr)
      | _ => none)
    let ask := if xs.any (fun x => isFab x.2.1.sp && !m.hasAway x.2.1.sp (x.2.1.addr / 16)
        && !m.knows (m.path oc.o.leaf x.2.1.sp) x.2.1.sp x.2.1.addr x.1.n) then far else []
    match xs.find? (fun x => m.bankBusy (cf.part? oc.la.p) x.2.1) with
    | some x => (.wait, m.delay (.eng oc.tm.t oc.o.k) oc.o.n (cf.part? oc.la.p) x.2.1)
    | none =>
      let m := m.undelay (.eng oc.tm.t oc.o.k) oc.o.n
      match xs.find? (fun x => poisonedAcc m (cf.part? oc.la.p) x.2.1 x.2.2 x.1.n) with
      | some x => (.bad 0 (BitVec.ofNat 64 (x.1.addr / 16 * 16)), m)
      | none =>
        if ask.isEmpty then
          let r := xs.foldl (fun (r : List Byte × Mach) x =>
            let y := readAcc (.plain oc.o.leaf) r.2 (cf.part? oc.la.p) x.2.1 x.2.2 x.1.n
            (r.1 ++ y.1, y.2)) ([], m)
          (.ok r.1, r.2)
        else if m.asks oc.o then (.wait, m)
        else engAsk cf m oc ask

/-- A plain read of one piece. -/
def engRead1 (cf : Conf) (m : Mach) (oc : OpCtx) (a n : Nat) : EngR (List Byte) × Mach := engReadAll cf m oc [(a, n)]

/-- Plain reads of a whole range in one step: of what the spec has an engine read whole. -/
def engRead (cf : Conf) (m : Mach) (oc : OpCtx) (a n : Nat) : EngR (List Byte) × Mach := engReadAll cf m oc (engPieces a n)

/-- A plain write of one piece (R24, R43, R74). One to another device is posted: its answer tells a refusal (R34). -/
def engWrite1 (cf : Conf) (m : Mach) (oc : OpCtx) (a : Nat) (bs : List Byte) : EngR Unit × Mach :=
  match engPlace cf m oc a bs.length .write with
  | (.bad s e, m) => (.bad s e, m)
  | (.wait, m) => (.wait, m)
  | (.ok (ac, _), m) =>
    match ac.sp with
    | .fab d _ =>
      let id := m.newId
      let m := { id.2 with fabPend := id.2.fabPend ++ [engPend id.1 oc.o true [(⟨0, a, bs.length, a⟩, .fab d ac.addr)] []] }
      (.ok (), m.writePlain oc.o.leaf ⟨0, ac.sp, ac.addr, bs, .plain, none, false, id.1, 0, cf.device.toNat⟩)
    | _ => (.ok (), m.writePlain oc.o.leaf ⟨0, ac.sp, ac.addr, bs, .engine, ac.tag, false, 0, 0, 0⟩)

/-- The pieces of bytes at a generic address, as writes. -/
def writePieces (a : Nat) (bs : List Byte) : List (Nat × List Byte) :=
  (pieces a bs.length).map (fun p => (p.1 % 2 ^ 64, bytesAt bs (p.1 - a) p.2))

/-- Some writes of generic addresses checked, none made: the accesses, or the first failing address (R103). -/
def engResolve (cf : Conf) (m : Mach) (oc : OpCtx) (ws : List (Nat × List Byte)) : EngR (List (Acc × List Byte)) × Mach :=
  match engPlaces cf m oc (ws.map (fun w => (w.1, w.2.length))) .write with
  | (.bad s e, m) => (.bad s e, m)
  | (.wait, m) => (.wait, m)
  | (.ok xs, m) => (.ok ((xs.zip ws).map (fun x => (x.1.2.1, x.2.2))), m)

/-- Writes delivered at their home in one step (R103). -/
def Mach.deliverAll (m : Mach) (leaf : Point) (ws : List (Acc × List Byte)) : Mach :=
  ws.foldl (fun m w => m.writeHome leaf ⟨0, w.1.sp, w.1.addr, w.2, .engine, w.1.tag, false, 0, 0, 0⟩) m

/-- Whether some accesses lie within one home (R103). -/
def oneHome (as : List (Acc × List Byte)) : Bool :=
  match as with
  | [] => true
  | a :: as => as.all (fun b => b.1.sp == a.1.sp)

/-- A 64-bit word read at its home, and where it lies (R104, R379). -/
def engWord (cf : Conf) (m : Mach) (oc : OpCtx) (a : Nat) (cls : Cls) : EngR (Nat × Acc) × Mach :=
  if a % 8 ≠ 0 then (.bad 0 (BitVec.ofNat 64 a), m)
  else
    match engPlace cf m oc a 8 cls with
    | (.bad s e, m) => (.bad s e, m)
    | (.wait, m) => (.wait, m)
    | (.ok (ac, va), m) =>
      if m.bankBusy (cf.part? oc.la.p) ac then (.wait, m.delay (.eng oc.tm.t oc.o.k) oc.o.n (cf.part? oc.la.p) ac)
      else if poisonedAcc m (cf.part? oc.la.p) ac va 8 then (.bad 0 (BitVec.ofNat 64 (a / 16 * 16)), m)
      else
        let r := readAcc (.home oc.o.leaf) (m.undelay (.eng oc.tm.t oc.o.k) oc.o.n) (cf.part? oc.la.p) ac va 8
        (.ok (leNat r.1, ac), r.2)

/-- Adding to a 64-bit word at its home, as an atomic (R104). -/
def Mach.engAdd (m : Mach) (leaf : Point) (ac : Acc) (n : Nat) : Mach :=
  (m.atomic leaf ac.sp ac.addr 8 ac.tag false (fun old => some (leBytes 8 ((leNat old + n) % 2 ^ 64)))).2

/-! ### Scale memory (R52) -/

/-- Whether bytes [off, off+n) of scale memory lie in the team's units. -/
def OpCtx.scaleOk (oc : OpCtx) (off n : Nat) : Bool := decide (off + n ≤ 1024 * oc.rc.scu)

/-- A byte of scale memory. -/
def Mach.scaleByte (m : Mach) (t off : Nat) : Byte := smGet 0 m.scale (scaleKey t off)

/-- Writing bytes of scale memory. -/
def Mach.setScale (m : Mach) (t off : Nat) (bs : List Byte) : Mach :=
  { m with scale := smSetRun 0 m.scale (scaleKey t off) bs, scaleErr := mended m.scaleErr ((List.range bs.length).map (fun i => scaleKey t off + i)) }

/-- Whether a read of scale memory meets an error (R379). -/
def Mach.scaleBad (m : Mach) (t off n : Nat) : Bool := m.scaleErr.any (fun e => decide (scaleKey t off ≤ e) && decide (e < scaleKey t off + n))

/-- An engine's read of an accumulator, scale or register error stops the launch (R379). -/
def Mach.engStop (m : Mach) (cf : Conf) (o : Op) : Mach := m.stopLaunch cf o.t o.g 0

/-! ### Tiles (R51) -/

/-- An element of a tile. -/
def Mach.accAt (m : Mach) (t tile i j : Nat) : Word := smGet 0 m.acc (accKey t tile i j)

/-- Writing every element of a tile. -/
def Mach.setTile (m : Mach) (t tile : Nat) (f : Nat → Nat → Word) : Mach :=
  let lo := accKey t tile 0 0
  let new := ((List.range (128 * 128)).map (fun x => (lo + x, f (x / 128) (x % 128)))).filter (fun p => p.2 != 0)
  { m with
    acc := m.acc.filter (fun p => decide (p.1 < lo)) ++ new ++ m.acc.filter (fun p => decide (lo + 128 * 128 ≤ p.1))
    accErr := m.accErr.filter (fun e => e / (128 * 128) != lo / (128 * 128)) }

/-- Whether a read of a tile meets an accumulator error (R379). -/
def Mach.tileErr (m : Mach) (t tile : Nat) : Bool := m.accErr.any (fun e => e / (128 * 128) == accKey t tile 0 0 / (128 * 128))

/-! ### Acceptance (R304, R305) -/

/-- The number of operations a context has accepted. -/
def Team.nop (tm : Team) (k : EngCtx) : Nat := tm.nops.getD (ctxNum k) 0

/-- A transfer descriptor (R335). -/
structure XDesc where
  dst : Nat
  src : Nat
  len : Nat
  pfx : Nat
  prio : Nat
  reserved : Bool
  actr : Nat
deriving DecidableEq, Repr

/-- Reading a descriptor. -/
def descOf (b : List Byte) : XDesc :=
  let w := natAt b 0x14 4
  ⟨natAt b 0 8, natAt b 8 8, natAt b 0x10 4, nbits w 7 0, nbits w 10 8, nbits w 31 11 != 0, natAt b 0x18 8⟩

/-- Whether a generic address lies in fabric space (R10). -/
def fabAddr (a : Nat) : Bool := nbits a 63 62 == 3

/-- Whether a descriptor of a send, or of an XGET, breaks R335. -/
def XDesc.bad (d : XDesc) (get : Bool) : Bool :=
  d.reserved || decide (2 ^ 31 < d.len) ||
    (if get then fabAddr d.dst || !fabAddr d.src || d.pfx != 0 || (d.actr != 0 && (d.actr % 8 != 0 || fabAddr d.actr))
    else !fabAddr d.dst || fabAddr d.src || (decide (64 < d.pfx) && d.pfx != 0xFF)
      || (d.actr != 0 && (d.actr % 8 != 0 || !fabAddr d.actr || nbits d.actr 61 49 != nbits d.dst 61 49)))

/-- Whether an arm is refused at its acceptance (R336). -/
def armBad (m : Mach) (tm : Team) (desc : List Byte) (cw : Nat) : Bool :=
  (descOf desc).bad false || cw % 8 != 0 ||
    match decodeGen m tm cw 8 false with
    | .va _ | .scr _ _ => false
    | _ => true

/-- A new operation (R305). -/
def newOp (t : Nat) (k : EngCtx) (n : Nat) (cmd : Cmd) (blk : DWord) (g : Nat) : Op :=
  { t := t, k := k, n := n, cmd := cmd, blkAddr := blk, g := g, begun := false, stage := 0, prog := 0, pos := 0, buf := [], tries := 0, v1 := 0
    feSince := none, xfer := none, fired := false, ins := [], due := ⟨[], [], none, none, none⟩, await := none, watch := none, met := false, fin := none }

/-- An arm looks at its count word (R93, R340): it fires, with the acquire of the firing, where the word has reached its threshold or holds a count at or above
it; else it watches the word. A word that fails a check ends the arm. -/
def armFire (cf : Conf) (m : Mach) (oc : OpCtx) (cw thr : DWord) : Mach :=
  match engWord cf m oc cw.toNat .read with
  | (.bad s e, m) => m.finishBad oc.o s e
  | (.wait, m) => m
  | (.ok (v, ac), m) =>
    if oc.o.met || decide (thr.toNat % 2 ^ 63 ≤ v % 2 ^ 63) then (m.invalidate oc.o.leaf 3).setOp { oc.o with fired := true, watch := none }
    else m.setOp { oc.o with watch := some ac }

/-- What comes with the acceptance of an arm, which begins then, is checked then and fires at once where its threshold is met (R93, R94, R336, R340); and of an
XDISARM, which cancels the arm it names while that has neither fired nor seen its threshold reached; an XDISARM moves nothing, so only its
retirement is left (R89, R341). A rotation is noted by its number in the team (R333), a collective by its number under
its tag in the partition (R343). -/
def Mach.atAccept (cf : Conf) (m : Mach) (tm : Team) (n : Nat) (cmd : Cmd) : Mach :=
  match cmd with
  | .xarm desc cw thr =>
    match (m.opsOf tm.t .exch).find? (fun o => o.n == n) with
    | none => m
    | some o =>
      let m := m.beginOp o
      let o := { o with begun := true }
      if armBad m tm desc cw.toNat then m.finishParam o
      else match opCtx m o with
        | some oc => armFire cf m oc cw thr
        | none => m
  | .xdisarm k =>
    (m.updOp tm.t .exch k (fun o => if o.isArm && !o.fired && !o.met && o.fin.isNone then { o with fin := some (5, 0, 0) } else o)).updOp tm.t .exch n
      (fun o => { o with fin := some (0, 0, 0) })
  | .rrot bwd off len =>
    (m.updTeam tm.t (fun x => { x with rots := x.rots ++ [(bwd, off.toNat, len.toNat)] })).updOp tm.t .copy n (fun o => { o with prog := tm.rots.length })
  | .coll _ crec _ =>
    let p := ((m.launch? tm.l).map Launch.p).getD 0
    let tag := natAt crec 0x9C 4
    let k := ((m.colls.find? (fun e => e.1 == p && e.2.1 == tag)).map (fun e => e.2.2)).getD 0
    ({ m with colls := (p, tag, k + 1) :: m.colls.filter (fun e => !(e.1 == p && e.2.1 == tag)) } : Mach).updOp tm.t .exch n (fun o => { o with v1 := BitVec.ofNat 64 k })
  | _ => m

/-- A command enters its context (R305). -/
def Mach.accept (cf : Conf) (m : Mach) (t g : Nat) (k : EngCtx) (cmd : Cmd) (blk : DWord) : Mach :=
  match m.team? t with
  | none => m
  | some tm =>
    let n := tm.nop k + 1
    Mach.atAccept cf { (m.updTeam t (fun tm => { tm with nops := modAt tm.nops (ctxNum k) (fun _ => n) })) with ops := m.ops ++ [newOp t k n cmd blk g] }
      tm n cmd

/-- Whether a context has room for a command (R305). -/
def Mach.room (m : Mach) (t : Nat) (k : EngCtx) : Bool := decide ((m.opsOf t k).length < 32)

/-- Step 4 of R304: the command enters, or waits for room. -/
def enterCmd (cf : Conf) (m : Mach) (c : Ctx) (k : EngCtx) (cmd : Cmd) (blk : DWord) : Res :=
  if m.room c.tm.t k then .done (Mach.accept cf m c.tm.t c.g.g k cmd blk) [] .seq else .hold m (.engine k cmd blk)

/-- The requests of a parameter block of n bytes at the scratch address in A of the leader lane (R304). -/
def cmdReqs (m : Mach) (c : Ctx) (a : Src) (n : Nat) : List Req :=
  let x := (m.srcL c a).toNat
  (List.range (n / 16)).map (fun i => ⟨c.leader, (x + 16 * i) % 2 ^ 32, 16, x⟩)

/-- Steps 2 and 3 of R304: the issue release, and the block read by plain reads of the leader lane. -/
def withBlock (cf : Conf) (m : Mach) (c : Ctx) (a : Src) (n : Nat) (go : Mach → List Byte → Res) : Res :=
  let x := m.srcL c a
  let m := m.drain c.leaf 1
  if x.toNat % n ≠ 0 then .trap m 3 0 (x.setWidth 64) (maskOf [c.leader])
  else
    withPlaces cf m c true .read true (cmdReqs m c a n) (fun ps m =>
      let r := readLanes cf m (.plain c.leaf) c.la.p ps
      go r.2 (r.1.flatMap Prod.snd))

/-- The requests of a record of n bytes at a generic address, aligned to 8 bytes, reported by its address (R323). -/
def recReqs (c : Ctx) (a n : Nat) : List Req := (List.range (n / 8)).map (fun i => ⟨c.leader, (a + 8 * i) % 2 ^ 64, 8, a⟩)

/-- Records at generic addresses read by plain reads of the leader lane; a record on another device is asked for over the fabric. -/
def withRecords (cf : Conf) (m : Mach) (c : Ctx) (blk : List Byte) (qs : List Req) (go : Mach → List Byte → Res) : Res :=
  withPlaces cf m c false .read true qs (fun ps m =>
    readPlaces cf m c (.plain c.leaf) blk ps (fun m vals => go m (vals.flatMap Prod.snd)))

/-- ENGINE_COMMAND_ENTER (R305): a command that waits for room enters its context. -/
def engineCommandEnter (cf : Conf) (m : Mach) (r : FRef) : Mach :=
  match m.waiting r with
  | some (c, ⟨_, .engine k cmd blk, _⟩) =>
    if m.room c.tm.t k then (Mach.accept cf m c.tm.t c.g.g k cmd blk).completeWait r [] [] else m
  | _ => m

/-! ### Retirement (R88, R89) -/

/-- The scope of a context's retirement drain (R88). -/
def drainLevel : EngCtx → Nat
  | .exch => 4
  | _ => 3

/-- The header offset of a context's counter (R41). -/
def counterOff (k : EngCtx) : Nat := 8 * ctxNum k

/-- The barrier an operation arrives at (R325, R330). -/
def arrivesAt (cmd : Cmd) : Option Nat :=
  match cmd with
  | .tcopy _ fl blk _ _ => if fl.arr then some (nbits (natAt blk 0x10 8) 3 0) else none
  | .dcjob arr blk => if arr then some (nbits (natAt blk 0x20 8) 3 0) else none
  | _ => none

/-- A fibre that waits for registers goes on when no MMA holds them any longer: its instruction issues, or its result is written (R312). -/
def Mach.releaseFibre (m : Mach) (f : Fibre) : Mach :=
  match ctxOf m f.ref, f.wait with
  | some c, some w => match w.why with
    | .heldReg => if m.heldReg c (c.phys (instrUse w.i).wr) then m else m.endWait f.ref
    | .kept ws lat => m.completeWait f.ref ws lat
    | _ => m
  | _, _ => m

/-- The fibres of a team that wait for registers are looked at. -/
def Mach.releaseHeld (m : Mach) (t : Nat) : Mach := (m.fibres.filter (fun f => f.ref.t == t)).foldl Mach.releaseFibre m

/-- What an operation does on this device in the step in which it retires (R103, R317, R325, R327). -/
def Mach.applyDue (m : Mach) (o : Op) : Mach :=
  let m := m.deliverAll o.leaf (o.due.writes.filter (fun w => !isFab w.1.sp))
  let m := o.due.scale.foldl (fun m w => m.setScale o.t w.1 w.2) m
  let m := match o.due.zero with
    | some tile => m.setTile o.t tile (fun _ _ => 0)
    | none => m
  let m := match o.due.book with
    | some bs => { m with groups := m.groups.map (fun (g : Group) => if g.t = o.t then { g with codebook := codebookOf bs } else g) }
    | none => m
  match o.due.ver with
  | some ac => (m.drain o.leaf 3).engAdd o.leaf ac 1
  | none => m

/-- The generic address of an offset into another device's windows (R10). -/
def fabGen (d off : Nat) : Nat := 3 * 2 ^ 62 + d * 2 ^ 49 + off

/-- The writes an operation makes as it retires that go to another device (R103): one request asks for them all, once older writes to their bytes have left; until its
answer the operation has not retired. None where there are none left. -/
def retireFar (cf : Conf) (m : Mach) (o : Op) : Option Mach :=
  let ws := o.due.writes.filter (fun w => isFab w.1.sp)
  match (ws.map (fun w => w.1.sp) : List Space) with
  | .fab d p :: _ =>
    let ps := m.path o.leaf (.fab d p)
    let older := (m.bufs.filter (fun e => ps.contains e.pt && ws.any (fun w => e.w.hits w.1.sp w.1.addr w.2.length))).map (fun e => e.w.wid)
    if m.fabPend.any (fun q => q.store && q.op == some (o.t, o.k, o.n)) then some m
    else if !older.isEmpty then some (m.push ps (fun x => older.contains x))
    else if m.cutOff then some (m.opRefused o.t o.k o.n 4 (BitVec.ofNat 64 (fabGen d ((ws.map (fun w => w.1.addr)).headD 0))))
    else
      let id := m.newId
      let m := ws.foldl (fun m x => ps.foldl (fun m q => m.uncopy q x.1.sp x.1.addr x.2.length) m) id.2
      some { m with
        net := m.net ++ [.access ⟨cf.device.toNat, d, id.1, p, (ws.zip (List.range ws.length)).map (fun x => (x.2, x.1.1.addr, .write x.1.2)), .whole, false⟩]
        fabPend := m.fabPend ++ [engPend id.1 o true
          (ws.map (fun x => (⟨0, x.1.addr, x.2.length, fabGen d x.1.addr⟩, .fab d x.1.addr))) []] }
  | _ => none

/-- The steps of R88 after the drain: the count, the report; then the arrival at a barrier (R325), and runs that waited for the MMA's registers go on (R312). -/
def Mach.retireNow (m : Mach) (o : Op) (status sub : Nat) (addr : DWord) : Mach :=
  let m := (m.atomic o.leaf (.scr o.t) (counterOff o.k) 8 none false (fun old => some (leBytes 8 (countAdd (leNat old) 1 (status != 0))))).2
  let m := if status = 0 then m else m.updTeam o.t (fun tm => { tm with
    reports := modAt tm.reports (ctxNum o.k) (fun _ => ⟨true, status, sub, o.n, addr⟩) })
  let m := { m with ops := m.ops.filter (fun x => !(x.t == o.t && x.k == o.k && x.n == o.n)) }
  let m := match arrivesAt o.cmd with
    | some b => (m.arriveBar o.t b).2
    | none => m
  if o.k = .matrix then m.releaseHeld o.t else m

/-- ENGINE_RETIRE (R88, R306): the context's first operation, finished, retires: what it owes (R103), its drain, its count, its report, its arrival. A drain of system
scope is over when its writes to other devices have been answered (R76). -/
def engineRetire (cf : Conf) (m : Mach) (t : Nat) (k : EngCtx) : Mach :=
  match m.opsOf t k with
  | [] => m
  | o :: _ =>
    match o.fin, opCtx m o with
    | some (status, sub, addr), some oc =>
      if o.n = 0 || oc.cl.pre == .saved then m
      else
        match retireFar cf m o, o.await with
        | some m, _ => m
        | none, none =>
          let m := (m.applyDue o).drain o.leaf (drainLevel k)
          let ws := if k = .exch then m.fabWids o.leaf else []
          if ws.isEmpty then m.retireNow o status sub addr
          else m.updOp t k o.n (fun o => { o with due := ⟨[], [], none, none, none⟩, await := some ws })
        | none, some ws => if m.bufs.any (fun e => ws.contains e.w.wid) then m else m.retireNow o status sub addr
    | _, _ => m

/-! ### Units of work -/

/-- A context works on its current operation for some units, as long as it is the one the step names and may work. -/
def Mach.work (cf : Conf) (t : Nat) (k : EngCtx) (unit : Conf → Mach → OpCtx → Option Mach) : Nat → Mach → Mach
  | 0, m => m
  | n + 1, m =>
    match m.curOp t k with
    | none => m
    | some o =>
      match opCtx m o with
      | none => m
      | some oc =>
        if oc.mayWork then
          let m' := m.beginOp o
          match unit cf m' { oc with o := { o with begun := true } } with
          | some m' => Mach.work cf t k unit n m'
          | none => m
        else m

/-- ENGINE_COMMAND_ENTER (R305). -/
def execEngineCommandEnter (w : FRef) (s : State) := onMach s (fun cf m => engineCommandEnter cf m w)
/-- ENGINE_RETIRE (R88). -/
def execEngineRetire (t : Nat) (k : EngCtx) (s : State) := onMach s (fun cf m => engineRetire cf m t k)

end Sys2Proof.Machine
end

