-- ==== Sys2Proof/Machine/Matrix.lean ====
section
/-!
DEFINITION. The matrix engine: MMA, ACCZ and DRAIN with their operations (R308–R318), and the arithmetic of accumulation and requantisation
(R188, R197–R203).
-/
namespace Sys2Proof.Machine

/-! ### Elements (R182–R188) -/

/-- Element k of a bit string of elements of w bits (R188). -/
def elemAt (n w k : Nat) : Nat := n / 2 ^ (k * w) % 2 ^ w

/-- The value of an element code under a slot, without its scale (R183–R187). -/
def elemVal (slot : Nat) (cb : List (BitVec 16)) (x : Nat) : FV :=
  match nbits slot 7 0 with
  | 1 => fp32.dec x
  | 2 => fp16.dec x
  | 3 => bf16.dec x
  | 4 => e4m3.dec x
  | 5 => e5m2.dec x
  | 6 => e4m3.dec x
  | 7 => e5m2.dec x
  | 8 => e3m2.dec x
  | 9 => e2m3.dec x
  | 0x0A => e2m1.dec x
  | 0x0B => .fin (dyQ (lowInt 8 (BitVec.ofNat 32 x)) (-6))
  | 0x0C => .fin (dyInt (lowInt 8 (BitVec.ofNat 32 x)))
  | 0x0D => .fin (dyInt (lowInt 4 (BitVec.ofNat 32 x)))
  | 0x0E => bf16.dec (cb.getD x 0).toNat
  | _ => let mb := nbits slot 11 8; .fin (dyQ (lowInt mb (BitVec.ofNat 32 x)) (1 - (mb : Int)))

/-- The kind of scale of a slot (R137). -/
def scaleKind (slot : Nat) : Nat := nbits slot 15 12

/-- A value under its scale or shared exponent (R185, R186). -/
def scaled (slot : Nat) (e : Byte) (v : FV) : FV :=
  if scaleKind slot = 0 then v
  else if e = 0xFF then .nan false
  else match v with
    | .fin d => .fin { d with exp := d.exp + e.toNat - 127 }
    | v => v

/-! ### Accumulation (R197–R200) -/

/-- One product truncated to a multiple of 2^q (R198). -/
def truncAt (q : Int) (p : Dy) : Dy := ⟨p.neg, shiftN p.mant (p.exp - q), q⟩

/-- An accumulator element after one block of products (R198, R200). -/
def accBlock (c : Word) (ps : List FV) : Word :=
  let nan : Word := BitVec.ofNat 32 fp32.qnan
  let cv := fp32.dec c.toNat
  let pos := ps.any (fun p => p == .inf false)
  let neg := ps.any (fun p => p == .inf true)
  if ps.any FV.isNan || (pos && neg) then nan
  else if pos || neg then
    match cv with
    | .fin _ => if neg then 0xFF800000 else 0x7F800000
    | .inf n => if n = neg then c else nan
    | .nan _ => nan
  else
    match (fins ps).filter (fun p => p.mant != 0) with
    | [] => c
    | p :: rest =>
      match cv with
      | .fin d =>
        let lg (p : Dy) : Int := (nlog2 p.mant : Int) + p.exp
        let emax := rest.foldl (fun e p => max e (lg p)) (lg p)
        let sum := dySum (d :: (p :: rest).map (truncAt (emax - 60)))
        if sum.mant = 0 then 0 else (round32 sum).1
      | .inf _ => c
      | .nan _ => nan

/-- An accumulator element after an MMA: the blocks in ascending order (R197, R311). -/
def accDot (c : Word) (as bs : List FV) : Nat → Word
  | 0 => c
  | n + 1 =>
    let c := accDot c as bs n
    accBlock c ((List.range 32).map (fun k => ((as.getD (32 * n + k) (.fin ⟨false, 0, 0⟩)).mul (bs.getD (32 * n + k) (.fin ⟨false, 0, 0⟩))).1))

/-! ### MMA (R308–R313) -/

/-- The fields of an MMA block (R309). -/
structure MmaBlk where
  aaddr : Nat
  astride : Nat
  kb : Nat
  tile : Nat
  quad : Nat
  bslot : Nat
  asoff : Nat
  bsoff : Nat
  reserved : Bool
deriving DecidableEq, Repr

/-- Reading the block (R309). -/
def mmaBlk (b : List Byte) : MmaBlk :=
  let x := natAt b 8 4
  let y := natAt b 12 4
  ⟨natAt b 0 4, natAt b 4 4, nbits x 4 0, nbits x 7 6, nbits x 11 8, nbits x 14 12, nbits y 14 0, nbits y 30 16,
    nbit x 5 || nbits x 31 15 != 0 || nbit y 15 || nbit y 31 || !allZero (bytesAt b 0x10 48)⟩

/-- The format slot of an index. -/
def LRec.slot (rc : LRec) (k : Nat) : Nat := rc.fmts.getD k 0

/-- The registers of B (R310): none when KB, QUAD or BSLOT has a fault of R313. -/
def mmaRegs (rc : LRec) (blk : MmaBlk) (b : Nat) : Option (List Nat) :=
  if 1 ≤ blk.kb ∧ blk.kb ≤ 16 ∧ blk.quad * 4 + 3 < rc.ngrp ∧ fmtMma (rc.slot blk.bslot) then
    some ((List.range (blk.kb * fmtBits (rc.slot blk.bslot))).map (fun i => b + i))
  else none

/-- MMA (R304, R308, R310). -/
def execMma (zs : Bool) (a : Src) (b slot : Nat) (s : State) :=
  issue s (.mma zs a b slot) (fun cf m c =>
    withBlock cf m c a 64 (fun m bs =>
      let blk := mmaBlk bs
      let go := enterCmd cf m c .matrix (.mma zs bs b slot c.f.base c.g.codebook) ((m.srcL c a).setWidth 64)
      match mmaRegs c.rc blk b with
      | none => go
      | some rs =>
        if rs.any (fun r => decide (119 < r) || decide (c.rc.regs ≤ c.f.base + r)) then .trap m 2 0 0 c.f.pred
        else if (List.range 4).any (fun q => m.regBusy c.tm.t (4 * blk.quad + q) (c.phys rs)) then .hold m .yield
        else go))

/-- The rules of R313 that need no address. -/
def mmaBad (oc : OpCtx) (blk : MmaBlk) (slot : Nat) : Bool :=
  let fa := oc.rc.slot slot
  let fb := oc.rc.slot blk.bslot
  !nbit oc.rc.tmask blk.tile || decide (blk.kb = 0) || decide (16 < blk.kb) || blk.reserved || decide (oc.rc.ngrp ≤ blk.quad * 4 + 3)
    || !fmtMma fa || !fmtMma fb || nbits fa 7 0 != nbits fb 7 0
    || blk.aaddr % 16 != 0 || blk.astride % 16 != 0
    || (scaleKind fa != 0 && !oc.scaleOk blk.asoff (128 * blk.kb)) || (scaleKind fb != 0 && !oc.scaleOk blk.bsoff (128 * blk.kb))

/-- The scratch address of row i of A (R309). -/
def mmaAddr (blk : MmaBlk) (i : Nat) : Nat := (blk.aaddr + i * blk.astride) % 2 ^ 32

/-- A plain read of n bytes, k bytes into the row that begins at a scratch address: the row up to them lies in the allocation that its address names (R313). -/
def engReadScr (m : Mach) (oc : OpCtx) (row k n : Nat) : EngR (List Byte) × Mach :=
  match decodeScr m oc.tm row (k + n) false with
  | .scr t off =>
    if m.poisoned (.scr t) (off + k) n then (.bad 0 (BitVec.ofNat 64 ((row + k) / 16 * 16)), m)
    else let r := m.readPlain oc.o.leaf (.scr t) (off + k) n none; (.ok r.1, r.2)
  | .bad _ s => (.bad s (BitVec.ofNat 64 (row + k)), m)
  | _ => (.bad 0 (BitVec.ofNat 64 (row + k)), m)

/-- Row i of A as values: K elements of a slot, block n under scale byte ASOFF + i·KB + n (R310). -/
def mmaRow (m : Mach) (oc : OpCtx) (blk : MmaBlk) (slot : Nat) (cb : List (BitVec 16)) (w i : Nat) : List FV :=
  let f := oc.rc.slot slot
  let row := leNat (bytesAt oc.o.buf (i * w) w)
  (List.range (32 * blk.kb)).map (fun k =>
    scaled f (m.scaleByte oc.tm.t (blk.asoff + i * blk.kb + k / 32)) (elemVal f cb (elemAt row (fmtBits f) k)))

/-- Column j of B as values, from the registers of its group and lane (R310). -/
def mmaCol (m : Mach) (oc : OpCtx) (blk : MmaBlk) (cb : List (BitVec 16)) (b base j : Nat) : List FV :=
  let f := oc.rc.slot blk.bslot
  let regs := (List.range (blk.kb * fmtBits f)).map (fun r =>
    smGet 0 m.regs (regKey oc.tm.t (4 * blk.quad + j / 32) (base + b + r) (j % 32)))
  let col := leNat (regs.flatMap (fun w => leBytes 4 w.toNat))
  (List.range (32 * blk.kb)).map (fun k =>
    scaled f (m.scaleByte oc.tm.t (blk.bsoff + j * blk.kb + k / 32)) (elemVal f cb (elemAt col (fmtBits f) k)))

/-- Whether the MMA reads a register that holds an error (R379). -/
def mmaRegErr (m : Mach) (oc : OpCtx) (blk : MmaBlk) (b base : Nat) : Bool :=
  let n := blk.kb * fmtBits (oc.rc.slot blk.bslot)
  !m.regErr.isEmpty && (List.range 128).any (fun j => (List.range n).any (fun r =>
    m.regErr.contains (regKey oc.tm.t (4 * blk.quad + j / 32) (base + b + r) (j % 32))))

/-- Whether the MMA reads a scale byte that holds an error (R379). -/
def mmaScaleErr (m : Mach) (oc : OpCtx) (blk : MmaBlk) (slot : Nat) : Bool :=
  (scaleKind (oc.rc.slot slot) != 0 && m.scaleBad oc.tm.t blk.asoff (128 * blk.kb))
    || (scaleKind (oc.rc.slot blk.bslot) != 0 && m.scaleBad oc.tm.t blk.bsoff (128 * blk.kb))

/-- The blocks of A that `.zs` skips (R201): all zero under a scale that is not NaN, and no B element of the block is NaN or infinite. -/
def zsSkips (rows cols : List (List FV)) (kb : Nat) : Nat :=
  let part (r : List FV) (n : Nat) := (r.drop (32 * n)).take 32
  let fin (v : FV) : Bool := match v with
    | .fin _ => true
    | _ => false
  let zero (v : FV) : Bool := match v with
    | .fin d => d.mant == 0
    | _ => false
  ((List.range kb).map (fun n =>
    if cols.all (fun c => (part c n).all fin) then (rows.filter (fun r => (part r n).all zero)).length else 0)).sum

/-- One unit of an MMA: its parameters are checked, a piece of A is read, or the tile takes its new values (R311). -/
def mmaUnit (cf : Conf) (m : Mach) (oc : OpCtx) : Option Mach :=
  match oc.o.cmd with
  | .mma zs bs b slot base cb =>
    let blk := mmaBlk bs
    let w := blk.kb * fmtBits (oc.rc.slot slot) * 4
    if oc.o.stage = 0 then
      if mmaBad oc blk slot then some (m.finishParam oc.o) else some (m.setOp { oc.o with stage := 1 })
    else if oc.o.buf.length < 128 * w then
      let x := oc.o.buf.length
      let row := mmaAddr blk (x / w)
      match engReadScr m oc row (x % w) (pieceLen (row + x % w) (w - x % w)) with
      | (.ok r, m) => some (m.setOp { oc.o with buf := oc.o.buf ++ r })
      | (.bad s e, m) => some (m.finishBad oc.o s e)
      | (.wait, m) => some m
    else if m.tileErr oc.tm.t blk.tile || mmaRegErr m oc blk b base || mmaScaleErr m oc blk slot then some ((m.finish oc.o 1 0 0).engStop cf oc.o)
    else
      let rows := (List.range 128).map (mmaRow m oc blk slot cb w)
      let cols := (List.range 128).map (mmaCol m oc blk cb b base)
      let m := if zs then m.count (dieOfCore oc.tm.core) 9 (some oc.la.p) (zsSkips rows cols blk.kb) else m
      some ((m.setTile oc.tm.t blk.tile (fun i j => accDot (m.accAt oc.tm.t blk.tile i j) (rows.getD i []) (cols.getD j []) blk.kb)).finishOk
        { oc.o with buf := [] })
  | _ => none

/-! ### ACCZ (R314) -/

/-- ACCZ (R314). -/
def execAccz (mask : Nat) (s : State) :=
  issue s (.accz mask) (fun cf m c => enterCmd cf (m.drain c.leaf 1) c .matrix (.accz mask) 0)

/-- The operation of ACCZ. -/
def acczUnit (_ : Conf) (m : Mach) (oc : OpCtx) : Option Mach :=
  match oc.o.cmd with
  | .accz mask =>
    let tiles := bitsOf mask 4
    if tiles.any (fun t => !nbit oc.rc.tmask t) then some (m.finishParam oc.o)
    else some ((tiles.foldl (fun m t => m.setTile oc.tm.t t (fun _ _ => 0)) m).finishOk oc.o)
  | _ => none

/-! ### DRAIN (R202, R203, R315–R318) -/

/-- Whether a format may be a DRAIN destination (R189). -/
def fmtDrain (slot : Nat) : Bool := [1, 3, 4, 5, 6, 7, 8, 9, 0x0A, 0x0B].contains (nbits slot 7 0)

/-- An element without scale in the destination format (R202). -/
def drainElem (slot : Nat) (x : Word) : Nat :=
  let v := fp32.dec x.toNat
  match nbits slot 7 0 with
  | 1 => x.toNat
  | 3 => (cvtFloat bf16 true .rne v).1
  | 4 => (cvtFloat e4m3 true .rne v).1
  | _ => (cvtFloat e5m2 true .rne v).1

/-- The element format of an MX slot and the exponent of its largest normal (R203); none for MXINT8. -/
def mxFmt (slot : Nat) : Option Fmt × Int :=
  match nbits slot 7 0 with
  | 6 => (some e4m3, 8)
  | 7 => (some e5m2, 15)
  | 8 => (some e3m2, 4)
  | 9 => (some e2m3, 2)
  | 0x0A => (some e2m1, 2)
  | _ => (none, 0)

/-- The scale and element codes of a block of 32 (R203). -/
def mxBlock (slot : Nat) (xs : List Word) : Byte × List Nat :=
  let vs := xs.map (fun x => fp32.dec x.toNat)
  let f := mxFmt slot
  if vs.any (fun v => match v with
    | .fin _ => false
    | _ => true) then (0xFF, xs.map (fun _ => 0))
  else
    let ds := fins vs
    let nz := ds.filter (fun d => d.mant != 0)
    match nz with
    | [] => (0, ds.map (fun d => match f.1 with
        | some fm => fm.signBit d.neg
        | none => 0))
    | p :: rest =>
      let lg (p : Dy) : Int := (nlog2 p.mant : Int) + p.exp
      let e := min 254 (max 0 (rest.foldl (fun e p => max e (lg p)) (lg p) - f.2 + 127))
      (BitVec.ofInt 8 e, ds.map (fun d =>
        let v : FV := .fin { d with exp := d.exp + 127 - e }
        match f.1 with
        | some fm => (cvtFloat fm true .rne v).1
        | none => (cvtClamp 6 127 .rne v).1.toNat % 256))

/-- The block (i, j) lies in, as tile positions: along its row, or down its column (R317). -/
def drainBlock (col : Bool) (i j : Nat) : List (Nat × Nat) :=
  if col then (List.range 32).map (fun r => (i / 32 * 32 + r, j)) else (List.range 32).map (fun r => (i, j / 32 * 32 + r))

/-- The code of element (i, j) (R317). -/
def drainCode (m : Mach) (t tile slot : Nat) (col : Bool) (i j : Nat) : Nat :=
  if scaleKind slot = 0 then drainElem slot (m.accAt t tile i j)
  else (mxBlock slot ((drainBlock col i j).map (fun p => m.accAt t tile p.1 p.2))).2.getD (if col then i % 32 else j % 32) 0

/-- The bytes of row i (R188). -/
def drainRow (m : Mach) (t tile slot : Nat) (col : Bool) (i : Nat) : List Byte :=
  let w := fmtBits slot
  leBytes (16 * w) ((List.range 128).foldl (fun n j => n + drainCode m t tile slot col i j * 2 ^ (j * w)) 0)

/-- The fields of a DRAIN block (R316). -/
structure DrainBlk where
  daddr : Nat
  dstride : Nat
  tile : Nat
  saddr : Nat
  sstride : Nat
  reserved : Bool
deriving DecidableEq, Repr

/-- Reading the block (R316). -/
def drainBlk (b : List Byte) : DrainBlk :=
  let x := natAt b 8 8
  ⟨natAt b 0 8, nbits x 31 0, nbits x 33 32, natAt b 0x10 8, natAt b 0x18 4,
    nbits x 63 34 != 0 || natAt b 0x1C 4 != 0 || !allZero (bytesAt b 0x20 32)⟩

/-- Scale s of the tile in block order: its offset from SADDR and the position of its block (R317). -/
def drainScale (blk : DrainBlk) (col : Bool) (s : Nat) : Nat × Nat × Nat :=
  if col then (s / 128 * blk.sstride + s % 128, s / 128 * 32, s % 128) else (s / 4 * blk.sstride + s % 4, s / 4, s % 4 * 32)

/-- The scale byte of a block. -/
def drainScaleByte (m : Mach) (t tile slot : Nat) (col : Bool) (i j : Nat) : Byte :=
  (mxBlock slot ((drainBlock col i j).map (fun p => m.accAt t tile p.1 p.2))).1

/-- DRAIN (R315). -/
def execDrain (col : Bool) (fl : DrainFlags) (a : Src) (slot : Nat) (s : State) :=
  issue s (.drain col fl a slot) (fun cf m c =>
    withBlock cf m c a 64 (fun m bs => enterCmd cf m c .matrix (.drain col fl bs slot) ((m.srcL c a).setWidth 64)))

/-- The rules of R318 that need no check of an address. -/
def drainBad (oc : OpCtx) (blk : DrainBlk) (col : Bool) (fl : DrainFlags) (slot : Nat) : Bool :=
  let f := oc.rc.slot slot
  !fmtDrain f || !nbit oc.rc.tmask blk.tile || blk.reserved || blk.daddr % 16 != 0 || blk.dstride % 16 != 0
    || (scaleKind f != 0 && fl.sm &&
        (blk.saddr / 2 ^ 15 != 0 || (List.range 512).any (fun s => !oc.scaleOk (blk.saddr + (drainScale blk col s).1) 1)))

/-- The element writes of a DRAIN, row by row. -/
def drainWrites (m : Mach) (oc : OpCtx) (blk : DrainBlk) (col : Bool) (f : Nat) : List (Nat × List Byte) :=
  (List.range 128).flatMap (fun i => writePieces ((blk.daddr + i * blk.dstride) % 2 ^ 64) (drainRow m oc.tm.t blk.tile f col i))

/-- A scale put before those at its offset and beyond. -/
def scaleIns (x : Nat × Nat × Nat) : List (Nat × Nat × Nat) → List (Nat × Nat × Nat)
  | [] => [x]
  | y :: ys => if x.1 ≤ y.1 then x :: y :: ys else y :: scaleIns x ys

/-- The scales of a tile in ascending address, those of one address in block order (R317). -/
def drainScales (blk : DrainBlk) (col : Bool) : List (Nat × Nat × Nat) := ((List.range 512).map (drainScale blk col)).foldr scaleIns []

/-- The scale writes of a DRAIN to memory. -/
def drainScaleWrites (m : Mach) (oc : OpCtx) (blk : DrainBlk) (col : Bool) (f : Nat) : List (Nat × List Byte) :=
  (drainScales blk col).map (fun x => ((blk.saddr + x.1) % 2 ^ 64, [drainScaleByte m oc.tm.t blk.tile f col x.2.1 x.2.2]))

/-- The bytes a DRAIN writes to scale memory. -/
def drainToScale (m : Mach) (oc : OpCtx) (blk : DrainBlk) (col : Bool) (f : Nat) : List (Nat × List Byte) :=
  (drainScales blk col).map (fun x => (blk.saddr + x.1, [drainScaleByte m oc.tm.t blk.tile f col x.2.1 x.2.2]))

/-- A DRAIN ends. What is left for its retirement: under `.all` its writes, the scales of scale memory with them (R103, R317); under `.z` the tile that reads
zero then. -/
def drainDone (m : Mach) (oc : OpCtx) (blk : DrainBlk) (fl : DrainFlags) (ws : List (Acc × List Byte)) (sc : List (Nat × List Byte)) : Mach :=
  (m.setOp { oc.o with due := ⟨ws, sc, if fl.z then some blk.tile else none, none, none⟩ }).finishOk oc.o

/-- One unit of a DRAIN: its parameters are checked, one write is made, rows first, then scales; or all of them are checked, under `.all`, and made as it retires
(R103, R317). -/
def drainUnit (cf : Conf) (m : Mach) (oc : OpCtx) : Option Mach :=
  match oc.o.cmd with
  | .drain col fl bs slot =>
    let blk := drainBlk bs
    let f := oc.rc.slot slot
    let mx := scaleKind f != 0
    if oc.o.stage = 0 then
      if drainBad oc blk col fl slot then some (m.finishParam oc.o)
      else if m.tileErr oc.tm.t blk.tile then some ((m.finish oc.o 1 0 0).engStop cf oc.o)
      else some (m.setOp { oc.o with stage := 1 })
    else
      let els := drainWrites m oc blk col f
      let ws := els ++ (if mx && !fl.sm then drainScaleWrites m oc blk col f else [])
      let sc := if mx && fl.sm then drainToScale m oc blk col f else []
      if fl.all then
        match engResolve cf m oc ws with
        | (.bad s e, m) => some (m.finishBad oc.o s e)
        | (.wait, m) => some m
        | (.ok as, m) =>
          if oneHome as && decide ((ws.map (fun w => w.2.length)).sum + sc.length ≤ 65536) then some (drainDone m oc blk fl as sc)
          else some (m.finishParam oc.o)
      else
        match ws[oc.o.prog]?, sc[oc.o.prog - ws.length]? with
        | some w, _ =>
          match engWrite1 cf m oc w.1 w.2 with
          | (.bad s e, m) => some (m.finishBad oc.o s e)
          | (.wait, m) => some m
          | (.ok _, m) => some (m.setOp { oc.o with prog := oc.o.prog + 1 })
        | none, some w => some ((m.setScale oc.tm.t w.1 w.2).setOp { oc.o with prog := oc.o.prog + 1 })
        | none, none => some (drainDone m oc blk fl [] [])
  | _ => none

/-! ### The events -/

/-- MMA_OPERATION (R311). -/
def execMmaOperation (t n : Nat) (s : State) := onMach s (fun cf m => Mach.work cf t .matrix mmaUnit n m)
/-- ACCZ_OPERATION (R314). -/
def execAcczOperation (t : Nat) (s : State) := onMach s (fun cf m => Mach.work cf t .matrix acczUnit 1 m)
/-- DRAIN_OPERATION (R317). -/
def execDrainOperation (t n : Nat) (s : State) := onMach s (fun cf m => Mach.work cf t .matrix drainUnit n m)

end Sys2Proof.Machine
end

