-- ==== Sys2Proof/Machine/Copy.lean ====
section
/-!
DEFINITION. The copy engine: layout records (R319, R320), TCOPY and its operation (R103–R105, R321–R326), PROLOG and the prologue (R138, R139,
R327), and the ring rotation (R48, R332, R333).
-/
namespace Sys2Proof.Machine

/-! ### CRC-32C (R319) -/

/-- One bit of the reflected CRC-32C. -/
def crcBit (c : Nat) : Nat := if c % 2 = 1 then (c / 2) ^^^ 0x82F63B78 else c / 2
/-- One byte. -/
def crcByte (c : Nat) (b : Byte) : Nat := (List.range 8).foldl (fun c _ => crcBit c) (c ^^^ b.toNat)
/-- CRC-32C with initial value and final XOR of ones. -/
def crc32c (bs : List Byte) : Nat := bs.foldl crcByte 0xFFFFFFFF ^^^ 0xFFFFFFFF

/-! ### Layout records -/

/-- A layout record (R319). -/
structure Lay where
  ew : Nat
  scl : Bool
  vw : Bool
  base : Nat
  cols : Nat
  rows : Nat
  rstride : Nat
  planes : Nat
  pstride : Nat
  sbase : Nat
  srstride : Nat
  spstride : Nat
  smem : Bool
  vaddr : Nat
  reserved : Bool
deriving DecidableEq, Repr

/-- Reading a record (R319). -/
def layOf (b : List Byte) : Lay :=
  let f := natAt b 4 4
  ⟨nbits f 2 0, nbit f 3, nbit f 4, natAt b 8 8, natAt b 0x10 4, natAt b 0x14 4, natAt b 0x18 8, natAt b 0x20 4, natAt b 0x28 8,
    natAt b 0x30 8, natAt b 0x38 4, natAt b 0x3C 4, nbit (natAt b 0x40 8) 0, natAt b 0x48 8,
    nbits f 31 5 != 0 || natAt b 0x24 4 != 0 || natAt b 0x40 8 / 2 != 0 || !allZero (bytesAt b 0x50 0x2C)⟩

/-- Whether a record is sealed (R319). -/
def isSealed (b : List Byte) : Bool := natAt b 0 4 == 1 && natAt b 0x7C 4 == crc32c (bytesAt b 0 0x7C)

/-- The element width in bits (R319). -/
def Lay.bits (l : Lay) : Nat := [4, 6, 8, 16, 32].getD l.ew 8
/-- The bytes of a row. -/
def Lay.rowBytes (l : Lay) : Nat := l.cols * l.bits / 8
/-- The scale bytes of a row. -/
def Lay.sclBytes (l : Lay) : Nat := if l.scl then l.cols / 32 else 0
/-- Both. -/
def Lay.rowTotal (l : Lay) : Nat := l.rowBytes + l.sclBytes
/-- The rows of all planes. -/
def Lay.nrows (l : Lay) : Nat := l.planes * l.rows

/-- Whether a record is refused (R320). -/
def Lay.refused (l : Lay) : Bool :=
  let rng (x : Nat) := decide (1 ≤ x) && decide (x ≤ 65536)
  decide (4 < l.ew) || l.reserved || !rng l.cols || !rng l.rows || !rng l.planes
    || l.cols * l.bits % 8 != 0 || (l.scl && l.cols % 32 != 0)

/-- Where a byte of a tile lies. -/
inductive Loc where
  | mem (a : Nat)
  | scale (off : Nat)
deriving DecidableEq, Repr

/-- Where row q begins (R320). -/
def Lay.rowAddr (l : Lay) (q : Nat) : Nat := (l.base + q / l.rows * l.pstride + q % l.rows * l.rstride) % 2 ^ 64
/-- Where its scales begin (R320). -/
def Lay.sclAddr (l : Lay) (q : Nat) : Nat :=
  ((if l.smem then l.sbase % 2 ^ 15 else l.sbase) + q / l.rows * l.spstride + q % l.rows * l.srstride) % 2 ^ 64

/-- Where byte s of the tile lies, rows in order, each with its scales after it (R320, R324). -/
def Lay.loc (l : Lay) (s : Nat) : Loc :=
  let q := s / l.rowTotal
  let o := s % l.rowTotal
  if o < l.rowBytes then .mem ((l.rowAddr q + o) % 2 ^ 64)
  else if l.smem then .scale (l.sclAddr q + (o - l.rowBytes))
  else .mem ((l.sclAddr q + (o - l.rowBytes)) % 2 ^ 64)

/-- The bytes left in the row, or in its scales, from byte s. -/
def Lay.left (l : Lay) (s : Nat) : Nat :=
  let o := s % l.rowTotal
  if o < l.rowBytes then l.rowBytes - o else l.rowTotal - o

/-- The length of the piece at byte s. -/
def Lay.piece (l : Lay) (s : Nat) : Nat :=
  match l.loc s with
  | .mem a => pieceLen a (l.left s)
  | .scale _ => min 16 (l.left s)

/-- The last scale byte a record names in scale memory lies in the team's units (R324). -/
def Lay.smemOk (l : Lay) (oc : OpCtx) : Bool :=
  !(l.scl && l.smem) ||
    oc.scaleOk (l.sbase % 2 ^ 15 + (l.planes - 1) * l.spstride + (l.rows - 1) * l.srstride) (l.cols / 32)

/-- Whether an address of a record lies in fabric space, those of its rows and scales among them (R324). -/
def Lay.inFab (l : Lay) : Bool :=
  (l.vw && fabAddr l.vaddr) || (List.range l.nrows).any (fun q =>
    fabAddr (l.rowAddr q) || fabAddr ((l.rowAddr q + l.rowBytes - 1) % 2 ^ 64)
      || (l.scl && !l.smem && (fabAddr (l.sclAddr q) || fabAddr ((l.sclAddr q + l.sclBytes - 1) % 2 ^ 64))))

/-! ### TCOPY (R321–R325) -/

/-- Step 4 of R304 for TCOPY: a record that is not sealed raises SEAL (R323). -/
def tcopyEnter (cf : Conf) (m : Mach) (c : Ctx) (pack : Bool) (fl : CopyFlags) (a : Src) (blk recs : List Byte) : Res :=
  let srec := bytesAt recs 0 128
  let drec := bytesAt recs 128 128
  if isSealed srec && isSealed drec then enterCmd cf m c .copy (.tcopy pack fl blk srec drec) ((m.srcL c a).setWidth 64)
  else .trap m 0x0C 0 0 c.f.pred

/-- TCOPY (R304, R321–R323). -/
def execTcopy (pack : Bool) (fl : CopyFlags) (a : Src) (s : State) :=
  issue s (.tcopy pack fl a) (fun cf m c =>
    withBlock cf m c a 64 (fun m blk =>
      withRecords cf m c blk (recReqs c (natAt blk 0 8) 128 ++ recReqs c (natAt blk 8 8) 128) (fun m recs =>
        tcopyEnter cf m c pack fl a blk recs)))

/-- The parts of a TCOPY operation. -/
structure Tc where
  pack : Bool
  fl : CopyFlags
  blk : List Byte
  src : Lay
  dst : Lay
deriving DecidableEq, Repr

/-- FE (R322). -/
def Tc.fe (c : Tc) : Bool := nbit (natAt c.blk 0x10 8) 4
/-- Whether the source is read whole before the destination is written. -/
def Tc.buffered (c : Tc) : Bool := c.fl.all || c.fl.cr
/-- The bytes of the tile. -/
def Tc.total (c : Tc) : Nat := c.src.nrows * c.src.rowTotal

/-- The checks of R324 and R326 that need no access. -/
def tcBad (oc : OpCtx) (c : Tc) : Bool :=
  let s := c.src
  let d := c.dst
  s.refused || d.refused || natAt c.blk 0x10 8 / 32 != 0 || !allZero (bytesAt c.blk 0x18 0x28)
    || s.ew != d.ew || s.cols != d.cols || s.rows != d.rows || s.planes != d.planes || s.scl != d.scl
    || s.inFab || d.inFab || !s.smemOk oc || !d.smemOk oc
    || (c.fl.ver && !d.vw) || (c.fl.cr && !s.vw)
    || (c.fe && (s.rowBytes % 16 != 0 || (List.range s.nrows).any (fun q => nbits (s.rowAddr q) 63 62 != 1 || s.rowAddr q % 16 != 0)))
    || (c.pack && (d.scl || d.rowBytes % 512 != 0 ||
        (List.range d.nrows).any (fun q => nbits (d.rowAddr q) 63 57 != 0 || d.rowAddr q % 512 != 0)))

/-- Whether the pages a packing copy touches are compressed (R326); a failed walk gives its address. -/
def packPages (cf : Conf) (m : Mach) (oc : OpCtx) (c : Tc) : EngR Bool × Mach :=
  let d := c.dst
  let own : TlbOwner := .eng oc.o.t oc.o.k
  ((List.range d.nrows).flatMap (fun q => (List.range (d.rowBytes / 512)).map (fun b => d.rowAddr q + 512 * b))).foldl (fun r a =>
    match r with
    | (.ok true, m) =>
      if m.unserved cf own oc.la.p oc.la.x (a % 2 ^ 57) then (.wait, m)
      else
        match xlateNow cf m own oc.la.p oc.la.x (a % 2 ^ 57) with
        | (.ok l, m) => (.ok (pbit l.e 9), m)
        | (.bad _ s, m) => (.bad s (BitVec.ofNat 64 a), m)
    | r => r) (.ok true, m)

/-- The slot of a 512-byte block (R63, R326). -/
def packSlot (b : List Byte) : List Byte :=
  let ws := (List.range 128).map (fun i => bytesAt b (4 * i) 4)
  let mask := (List.range 128).foldl (fun n i => if allZero (ws.getD i []) then n else n + 2 ^ i) 0
  let body := leBytes 16 mask ++ (ws.filter (fun w => !allZero w)).flatten
  bytesAt body 0 528

/-- The accesses of a slot's write (R63). -/
def packAcc (cf : Conf) (m : Mach) (oc : OpCtx) (a : Nat) (b : List Byte) : EngR (List (Acc × List Byte)) × Mach :=
  let own : TlbOwner := .eng oc.o.t oc.o.k
  if m.unserved cf own oc.la.p oc.la.x (a % 2 ^ 57) then (.wait, m)
  else
    match accessNow cf m own oc.la.p oc.la.x (a % 2 ^ 57) .pack with
    | (.error (_, s), m) => (.bad s (BitVec.ofNat 64 a), m)
    | (.ok ac, m) =>
      match ac.leaf, ac.tag, cf.part? oc.la.p with
      | some l, some tag, some pt =>
        let base := slotPpa l (a % 2 ^ 57)
        (.ok (((slotParts pt base).zip (List.range 33)).filterMap (fun q =>
          q.1.1.map (fun x => (⟨x.1, x.2, some { tag with unit := q.1.2.2 }, base + 16 * q.2, true, none⟩, bytesAt (packSlot b) (16 * q.2) 16)))), m)
      | _, _, _ => (.bad 0 (BitVec.ofNat 64 a), m)

/-- A granule read and emptied in one step, as an LDFET does (R43, R44, R101), with no older copy of it left in the path (R81); a wait where it is not full. -/
def engTake (m : Mach) (oc : OpCtx) (a : Nat) : EngR (List Byte) × Mach :=
  match decodeGen m oc.tm a 16 true with
  | .scr t off =>
    let m := m.pushGranules oc.o.leaf [(t, off / 16)]
    if m.poisoned (.scr t) off 16 then (.bad 0 (BitVec.ofNat 64 a), m)
    else if (m.granule t (off / 16)).1 then
      let r := m.readHome oc.o.leaf (.scr t) off 16 none
      (.ok r.1, r.2.setGranule t (off / 16) (false, 0))
    else (.wait, m)
  | .bad _ s => (.bad s (BitVec.ofNat 64 a), m)
  | _ => (.bad 0 (BitVec.ofNat 64 a), m)

/-- The address of byte s of the source where the copy reads it with its granule, and that granule is still empty (R324). -/
def tcAwaits (m : Mach) (oc : OpCtx) (c : Tc) (s : Nat) : Option Nat :=
  match c.src.loc s with
  | .mem a =>
    if c.fe && decide (s % c.src.rowTotal < c.src.rowBytes) then
      match decodeGen m oc.tm a 16 true with
      | .scr t off => if (m.granule t (off / 16)).1 then none else some a
      | _ => none
    else none
  | .scale _ => none

/-- The first granule of a source with FE = 1 that lies in an allocation's header: the operation empties nothing (R41). -/
def feHeader (m : Mach) (oc : OpCtx) (c : Tc) : Option Nat :=
  if c.fe then
    (List.range c.src.nrows).findSome? (fun q => ((List.range (c.src.rowBytes / 16)).map (fun i => (c.src.rowAddr q + 16 * i) % 2 ^ 64)).find? (fun a =>
      match decodeGen m oc.tm a 16 false, decodeGen m oc.tm a 16 true with
      | .scr _ _, .bad _ _ => true
      | _, _ => false))
  else none

/-- Whether the destination's version word is held odd by this operation (R104). -/
def tcLocked (c : Tc) (stage : Nat) : Bool := c.fl.ver && (stage == 5 || (stage == 3 && !c.fl.cr))

/-- The release add that makes the version word even again (R104). -/
def tcUnlock (cf : Conf) (m : Mach) (oc : OpCtx) (c : Tc) : EngR Unit × Mach :=
  match engWord cf (m.drain oc.o.leaf 3) oc c.dst.vaddr .atomic with
  | (.bad s e, m) => (.bad s e, m)
  | (.wait, m) => (.wait, m)
  | (.ok (_, ac), m) => (.ok (), m.engAdd oc.o.leaf ac 1)

/-- The operation fails: the version word is made even first (R325). -/
def tcFail (cf : Conf) (m : Mach) (oc : OpCtx) (c : Tc) (sub : Nat) (addr : DWord) : Mach :=
  if tcLocked c oc.o.stage then
    match tcUnlock cf m oc c with
    | (.wait, m) => m
    | (_, m) => m.finishBad oc.o sub addr
  else m.finishBad oc.o sub addr

/-- The part after a part: 1 a consistent read's first look, 2 the version lock, 3 rows, 4 its second look, 5 the buffered writes, 6 the end. -/
def tcNext (c : Tc) (stage : Nat) : Nat :=
  match stage with
  | 0 => if c.fl.cr then 1 else if c.fl.ver then 2 else 3
  | 1 => 3
  | 2 => if c.fl.cr then 5 else 3
  | 3 => if c.fl.cr then 4 else if c.fl.all then 5 else 6
  | 4 => if c.fl.ver then 2 else 5
  | _ => 6

/-- One piece of the source is read (R324). -/
def tcRead (cf : Conf) (m : Mach) (oc : OpCtx) (c : Tc) (s : Nat) : EngR (List Byte) × Mach :=
  match c.src.loc s with
  | .scale off => (.ok ((List.range (c.src.piece s)).map (fun i => m.scaleByte oc.tm.t (off + i))), m)
  | .mem a =>
    if c.fe && decide (s % c.src.rowTotal < c.src.rowBytes) then engTake m oc a
    else engRead1 cf m oc a (c.src.piece s)

/-- One piece of the destination is written: byte s of the tile, from bytes held. Answers how many bytes. -/
def tcWrite (cf : Conf) (m : Mach) (oc : OpCtx) (c : Tc) (s : Nat) (held : List Byte) (at_ : Nat) : EngR Nat × Mach :=
  match c.dst.loc s with
  | .scale off => (.ok (c.dst.piece s), m.setScale oc.tm.t off (bytesAt held at_ (c.dst.piece s)))
  | .mem a =>
    if c.pack then
      match packAcc cf m oc a (bytesAt held at_ 512) with
      | (.ok as, m) => (.ok 512, m.deliverAll oc.o.leaf as)
      | (.bad s e, m) => (.bad s e, m)
      | (.wait, m) => (.wait, m)
    else
      match engWrite1 cf m oc a (bytesAt held at_ (c.dst.piece s)) with
      | (.ok _, m) => (.ok (c.dst.piece s), m)
      | (.bad s e, m) => (.bad s e, m)
      | (.wait, m) => (.wait, m)

/-- The slots a packing copy writes of a row, checked. -/
def packRow (cf : Conf) (m : Mach) (oc : OpCtx) (a : Nat) (row : List Byte) : EngR (List (Acc × List Byte)) × Mach :=
  (List.range (row.length / 512)).foldl (fun r b =>
    match r with
    | (.ok xs, m) => match packAcc cf m oc (a + 512 * b) (bytesAt row (512 * b) 512) with
      | (.ok ys, m) => (.ok (xs ++ ys), m)
      | r => r
    | r => r) (.ok [], m)

/-- The writes of an all-or-nothing copy to memory, checked (R103). -/
def tcAll (cf : Conf) (m : Mach) (oc : OpCtx) (c : Tc) : EngR (List (Acc × List Byte)) × Mach :=
  let d := c.dst
  (List.range d.nrows).foldl (fun r q =>
    match r with
    | (.ok as, m) =>
      let row := bytesAt oc.o.buf (q * d.rowTotal) d.rowBytes
      let scl := bytesAt oc.o.buf (q * d.rowTotal + d.rowBytes) d.sclBytes
      match (if c.pack then packRow cf m oc (d.rowAddr q) row
        else engResolve cf m oc (writePieces (d.rowAddr q) row ++ (if d.smem then [] else writePieces (d.sclAddr q) scl))) with
      | (.ok xs, m) => (.ok (as ++ xs), m)
      | r => r
    | r => r) (.ok [], m)

/-- Its bytes of scale memory. -/
def tcScales (c : Tc) (buf : List Byte) : List (Nat × List Byte) :=
  let d := c.dst
  if d.smem && d.scl then (List.range d.nrows).map (fun q => (d.sclAddr q, bytesAt buf (q * d.rowTotal + d.rowBytes) d.sclBytes)) else []

/-- The acquire read of the source's version word (R104). -/
def tcLook (cf : Conf) (m : Mach) (oc : OpCtx) (a : Nat) : EngR Nat × Mach :=
  if a % 8 ≠ 0 then (.bad 0 (BitVec.ofNat 64 a), m)
  else
    match engPlace cf m oc a 8 .read with
    | (.bad s e, m) => (.bad s e, m)
    | (.wait, m) => (.wait, m)
    | (.ok (ac, va), m) =>
      if m.bankBusy (cf.part? oc.la.p) ac then (.wait, m.delay (.eng oc.tm.t oc.o.k) oc.o.n (cf.part? oc.la.p) ac)
      else if poisonedAcc m (cf.part? oc.la.p) ac va 8 then (.bad 0 (BitVec.ofNat 64 (a / 16 * 16)), m)
      else
        let r := readAcc (.acq oc.o.leaf 3 true) (m.undelay (.eng oc.tm.t oc.o.k) oc.o.n) (cf.part? oc.la.p) ac va 8
        (.ok (leNat r.1), r.2.invalidate oc.o.leaf 3)

/-- One unit of rows (R324): a piece is read, or written once its row is held. -/
def tcRows (cf : Conf) (m : Mach) (oc : OpCtx) (c : Tc) : Option Mach :=
  let o := oc.o
  let want := if c.buffered then c.total else c.src.rowTotal
  if o.buf.length < want then
    let s := (if c.buffered then 0 else o.pos) + o.buf.length
    if (match c.src.loc s with
      | .scale off => m.scaleBad oc.tm.t off (c.src.piece s)
      | .mem _ => false) then some ((tcFail cf m oc c 0 0).engStop cf oc.o)
    else
    match tcRead cf m oc c s with
    | (.ok r, m) => some (m.setOp { o with buf := o.buf ++ r, feSince := none })
    | (.bad sub e, m) => some (tcFail cf m oc c sub e)
    | (.wait, m') => some (m'.setOp { o with feSince := if (tcAwaits m' oc c s).isSome then some (o.feSince.getD m.cyc) else none })
  else if c.buffered then some (m.setOp { o with stage := tcNext c 3 })
  else
    let at_ := o.pos % c.src.rowTotal
    match tcWrite cf m oc c o.pos o.buf at_ with
    | (.bad s e, m) => some (tcFail cf m oc c s e)
    | (.wait, m) => some m
    | (.ok n, m) =>
      let o := { o with pos := o.pos + n }
      let o := if o.pos % c.src.rowTotal = 0 then { o with buf := [] } else o
      some (m.setOp (if o.pos = c.total then { o with stage := tcNext c 3 } else o))

/-- An all-or-nothing copy whose writes have been checked ends: they, the bytes of scale memory and the version word are left for its retirement (R103, R104). -/
def tcAllDone (cf : Conf) (m : Mach) (oc : OpCtx) (c : Tc) (as : List (Acc × List Byte)) : Mach :=
  let done (m : Mach) (ver : Option Acc) : Mach := (m.setOp { oc.o with due := ⟨as, tcScales c oc.o.buf, none, ver, none⟩ }).finishOk oc.o
  if c.fl.ver then
    match engWord cf m oc c.dst.vaddr .atomic with
    | (.bad s e, m) => tcFail cf m oc c s e
    | (.wait, m) => m
    | (.ok (_, ac), m) => done m (some ac)
  else done m none

/-- The buffered writes (R103, R104). -/
def tcBuffered (cf : Conf) (m : Mach) (oc : OpCtx) (c : Tc) : Mach :=
  let o := oc.o
  if c.fl.all then
    match tcAll cf m oc c with
    | (.bad s e, m) => tcFail cf m oc c s e
    | (.wait, m) => m
    | (.ok as, m) => if oneHome as && decide (c.total ≤ 65536) then tcAllDone cf m oc c as else tcFail cf m oc c 0 o.blkAddr
  else if o.pos < c.total then
    match tcWrite cf m oc c o.pos o.buf o.pos with
    | (.bad s e, m) => tcFail cf m oc c s e
    | (.wait, m) => m
    | (.ok n, m) => m.setOp { o with pos := o.pos + n }
  else m.setOp { o with stage := tcNext c 5 }

/-- The start of a TCOPY: the checks of its records (R324, R326), and of a header it would empty (R41). -/
def tcStart (cf : Conf) (m : Mach) (oc : OpCtx) (c : Tc) : Mach :=
  let o := oc.o
  if tcBad oc c then m.finishParam o
  else
    match feHeader m oc c with
    | some a => m.finish o 1 0x11 (BitVec.ofNat 64 a)
    | none =>
      if c.pack then
        match packPages cf m oc c with
        | (.ok true, m) => m.setOp { o with stage := tcNext c 0 }
        | (.ok false, m) => m.finishParam o
        | (.bad s e, m) => m.finishBad o s e
        | (.wait, m) => m
      else m.setOp { o with stage := tcNext c 0 }

/-- One unit of a TCOPY (R104, R324). -/
def tcopyUnit (cf : Conf) (m : Mach) (oc : OpCtx) : Option Mach :=
  match oc.o.cmd with
  | .tcopy pack fl blk srec drec =>
    let c : Tc := ⟨pack, fl, blk, layOf srec, layOf drec⟩
    let o := oc.o
    match o.stage with
    | 0 => some (tcStart cf m oc c)
    | 1 =>
      if 1024 ≤ o.tries then some (m.finish o 1 0 (BitVec.ofNat 64 c.src.vaddr))
      else
        match tcLook cf m oc c.src.vaddr with
        | (.bad s e, m) => some (m.finishBad o s e)
        | (.wait, m) => some m
        | (.ok v, m) =>
          let o := { o with tries := o.tries + 1 }
          some (m.setOp (if v % 2 = 1 then o else { o with v1 := BitVec.ofNat 64 v, buf := [], pos := 0, stage := tcNext c 1 }))
    | 2 =>
      match engWord cf m oc c.dst.vaddr .atomic with
      | (.bad s e, m) => some (m.finishBad o s e)
      | (.wait, m) => some m
      | (.ok (v, ac), m) =>
        if v % 2 = 1 then none
        else some ((((m.drain o.leaf 3).engAdd o.leaf ac 1).invalidate o.leaf 3).setOp { o with stage := tcNext c 2 })
    | 3 => tcRows cf m oc c
    | 4 =>
      match engWord cf m oc c.src.vaddr .read with
      | (.bad s e, m) => some (m.finishBad o s e)
      | (.wait, m) => some m
      | (.ok (v, _), m) =>
        some (m.setOp (if v = o.v1.toNat then { o with stage := tcNext c 4 } else { o with buf := [], pos := 0, stage := 1 }))
    | 5 => some (tcBuffered cf m oc c)
    | _ =>
      if fl.ver then
        match tcUnlock cf m oc c with
        | (.bad s e, m) => some (m.finishBad o s e)
        | (.wait, m) => some m
        | (.ok _, m) => some (m.finishOk o)
      else some (m.finishOk o)
  | _ => none

/-- ENGINE_FE_TIMEOUT (R324): a wait for one granule, which is still empty, has lasted the launch's full/empty limit. -/
def engineFeTimeout (cf : Conf) (m : Mach) (t : Nat) : Mach :=
  match m.curOp t .copy with
  | none => m
  | some o =>
    match opCtx m o, o.feSince, o.cmd with
    | some oc, some since, .tcopy pack fl blk srec drec =>
      let c : Tc := ⟨pack, fl, blk, layOf srec, layOf drec⟩
      if oc.mayWork && decide (2 ^ oc.rc.fek ≤ m.cyc - since) then
        match tcAwaits m oc c ((if c.buffered then 0 else o.pos) + o.buf.length) with
        | some a => tcFail cf m oc c 0 (BitVec.ofNat 64 a)
        | none => m
      else m
    | _, _, _ => m

/-! ### PROLOG (R138, R327) -/

/-- PROLOG (R327). -/
def execProlog (k : Nat) (s : State) :=
  issue s (.prolog k) (fun cf m c => enterCmd cf (m.drain c.leaf 1) c .copy (.prolog k) 0)

/-- The flags of a tile-copy binding (R138). -/
def bindFlags (b : Binding) : CopyFlags := ⟨nbit b.cflags 0, nbit b.cflags 1, nbit b.cflags 2, nbit b.cflags 3⟩

/-- The parameter block a tile-copy binding stands for (R139, R322). -/
def bindBlk (b : Binding) : List Byte :=
  leBytes 8 b.addr.toNat ++ leBytes 8 ((b.addr.toNat + 128) % 2 ^ 64) ++ leBytes 8 (b.bar + (if b.fe then 16 else 0)) ++ List.replicate 40 0

/-- One unit of a binding (R327): nothing, the start of its copy, a codebook for every group as it retires, or a table pair. A failing seal has status SEAL
in the prologue only (R306). A copy whose records fail has read nothing and changes nothing; one with `.arr` still arrives at its barrier as it retires, whatever the
status (R325; DEDUCED, log entry 91). -/
def prologUnit (cf : Conf) (m : Mach) (oc : OpCtx) : Option Mach :=
  match oc.o.cmd with
  | .prolog k =>
    let o := oc.o
    let b := oc.rc.binds.getD k ⟨0, 0, 0, 0, false, 0⟩
    match b.kind with
    | 0 => some (m.finishOk o)
    | 1 =>
      let copy (bs : List Byte) : Op := { o with cmd := .tcopy false (bindFlags b) (bindBlk b) (bytesAt bs 0 128) (bytesAt bs 128 128), stage := 0 }
      match engRead cf m oc b.addr.toNat 256 with
      | (.ok bs, m) =>
        if isSealed (bytesAt bs 0 128) && isSealed (bytesAt bs 128 128) then some (m.setOp (copy bs))
        else some ((m.setOp (copy [])).finish o (if o.n = 0 then 2 else 1) 0 o.blkAddr)
      | (.bad s e, m) => some ((m.setOp (copy [])).finishBad o s e)
      | (.wait, m) => some m
    | 2 =>
      match engRead cf m oc b.addr.toNat 32 with
      | (.ok bs, m) => some ((m.setOp { o with due := ⟨[], [], none, none, some bs⟩ }).finishOk o)
      | (.bad s e, m) => some (m.finishBad o s e)
      | (.wait, m) => some m
    | _ =>
      match engRead cf m oc b.addr.toNat 536 with
      | (.ok bs, m) => if pairOkImg bs then some ((m.setPair oc.tm.core b.pair bs).finishOk o) else some (m.finish o 1 0 o.blkAddr)
      | (.bad s e, m) => some (m.finishBad o s e)
      | (.wait, m) => some m
  | _ => none

/-! ### The prologue (R139) -/

/-- An operation of the prologue. -/
def prologOp (t k : Nat) : Op := newOp t .copy 0 (.prolog k) 0 0

/-- The launch's lowest cluster with a failed prologue: its number, the binding, the status (R139). Of several teams of that cluster the one
that failed first counts (a choice of the model: log entry 114). -/
def Mach.failProlog (m : Mach) (l num k status : Nat) : Mach :=
  m.updLaunch l (fun la => { la with prolFail := match la.prolFail with
    | some (n, i, s) => if num < n then some (num, k, status) else some (n, i, s)
    | none => some (num, k, status) })

/-- PROLOGUE (R139): the argument block, then bindings 0 to 3 in order, then the drain. -/
def prologue (cf : Conf) (m : Mach) (t : Nat) : Mach :=
  match m.team? t with
  | none => m
  | some tm =>
    match m.cluster? tm.c, m.launch? tm.l with
    | some cl, some la =>
      match la.rec_ with
      | none => m
      | some rc =>
        if tm.prolDone || cl.started || tm.prol == 5 || cl.pre == .saved || cl.pre == .stopping then m
        else
          match (m.opsOf t .copy).find? (fun o => o.n == 0) with
          | some o =>
            match o.fin with
            | none => Mach.work cf t .copy prologUnit 1 m
            | some (0, _, _) =>
              let m := { m.applyDue o with ops := (m.applyDue o).ops.filter (fun x => !(x.t == t && decide (x.k = EngCtx.copy) && x.n == 0)) }
              let m := match arrivesAt o.cmd with
                | some b => (m.arriveBar t b).2
                | none => m
              m.updTeam t (fun tm => { tm with prol := tm.prol + 1 })
            | some (status, _, _) =>
              (({ m with ops := m.ops.erase o } : Mach).failProlog tm.l cl.num tm.prol status).updTeam t (fun tm => { tm with prol := 5 })
          | none =>
            let m := if tm.prol = 0 then
                (writePieces 0x40 rc.args).foldl (fun m w => m.writePlain (.eng t .copy) ⟨0, .scr t, w.1, w.2, .engine, none, false, 0, 0, 0⟩) m
              else m
            if tm.prol < 4 then { m with ops := m.ops ++ [prologOp t tm.prol] }
            else (m.drain (.eng t .copy) 1).updTeam t (fun tm => { tm with prolDone := true })
    | _, _ => m

/-! ### RROT (R48, R332, R333) -/

/-- RROT (R332). -/
def execRrot (bwd : Bool) (a b : Src) (s : State) :=
  issue s (.rrot bwd a b) (fun cf m c => enterCmd cf (m.drain c.leaf 1) c .copy (.rrot bwd (m.srcL c a) (m.srcL c b)) 0)

/-- The direction, offset and length of a rotation command. -/
def rrotOf (o : Op) : Option (Bool × Nat × Nat) :=
  match o.cmd with
  | .rrot bwd off len => some (bwd, off.toNat, len.toNat)
  | _ => none

/-- The current rotation of a team's COPY context. -/
def Mach.curRrot (m : Mach) (t : Nat) : Option Op := (m.curOp t .copy).bind (fun o => if (rrotOf o).isSome then some o else none)

/-- The rotations of a cluster with a number that have not ended (R333). -/
def Mach.rotsAt (m : Mach) (tms : List Team) (k : Nat) : List Op :=
  m.ops.filter (fun o => tms.any (fun tm => tm.t == o.t) && (rrotOf o).isSome && o.prog == k && o.fin.isNone)

/-- Whether a rotation breaks R332. -/
def rrotBad (scr off len : Nat) : Bool := off % 16 != 0 || len % 16 != 0 || decide (off < 64) || decide (scr < off + len)

/-- The granule that leaves team i at an offset, with its state. -/
def Mach.ringGranule (m : Mach) (tm : Team) (off : Nat) : (List Byte × Bool × BitVec 16) × Mach :=
  let r := m.readHome (.eng tm.t .copy) (.scr tm.t) off 16 none
  let g := r.2.granule tm.t (off / 16)
  ((r.1, g.1, g.2), r.2)

/-- One move of a rotation: the granules of an offset are taken together, then each is delivered at its new home (R333). -/
def ringUnit (m : Mach) (c : Nat) (tms : List Team) (bwd : Bool) (off len : Nat) : Mach :=
  let n := tms.length
  let rg := (m.rings.find? (fun r => r.c == c)).getD ⟨c, 0, []⟩
  let rest := m.rings.filter (fun r => r.c != c)
  if len / 16 * n ≤ rg.done then
    { (tms.foldl (fun m tm => match m.curRrot tm.t with
      | some o => m.finishOk o
      | none => m) m) with rings := rest }
  else
    let at_ := off + 16 * (rg.done / n)
    let i := rg.done % n
    let taken := if i = 0 then
        tms.foldl (fun (r : List (List Byte × Bool × BitVec 16) × Mach) tm => let x := r.2.ringGranule tm at_; (r.1 ++ [x.1], x.2)) ([], m)
      else (rg.held, m)
    let held := taken.1
    let m := taken.2
    match tms[if bwd then (i + n - 1) % n else (i + 1) % n]?, held[i]? with
    | some nx, some (bs, f, w) =>
      let m := m.writeHome (.eng nx.t .copy) ⟨0, .scr nx.t, at_, bs, .plain, none, false, 0, 0, 0⟩
      { (m.setGranule nx.t (at_ / 16) (f, w)) with rings := ⟨c, rg.done + 1, held⟩ :: rest }
    | _, _ => m

/-- Repeating a unit. -/
def repeatN {α : Type} (f : α → α) : Nat → α → α
  | 0, x => x
  | n + 1, x => repeatN f n (f x)

/-- The rotation with a number, of a cluster one of whose teams has reached its own (R333). A rotation of nothing, or of a cluster of one core, retires at once (R89). The
rotations with one number fail together: where they differ, where one breaks R332, or where a team has ended with fewer. Else they move once every team's
context has reached its own. -/
def ringStep (m : Mach) (c : Nat) (tms : List Team) (scr work : Nat) (o : Op) (r : Bool × Nat × Nat) : Mach :=
  let k := o.prog
  let bad (r : Bool × Nat × Nat) : Bool := rrotBad scr r.2.1 r.2.2
  let all := tms.map (fun tm => tm.rots[k]?)
  let gone := tms.any (fun tm => (tm.rots[k]?).isNone && (m.groupsOf tm.t).all Group.ended && !(m.groupsOf tm.t).isEmpty)
  if gone || all.any (fun x => x.any (fun y => y != r || bad y)) then (m.rotsAt tms k).foldl (fun m o => m.finishParam o) m
  else if r.2.2 = 0 ∨ tms.length = 1 then (m.beginOp o).finishOk o
  else if all.any Option.isNone then m
  else
    let cur := tms.filterMap (fun tm => m.curRrot tm.t)
    if cur.length < tms.length ∨ cur.any (fun o => o.prog != k) then m
    else
      let m := cur.foldl (fun m o => m.beginOp o) m
      repeatN (fun m => if (tms.filterMap (fun tm => (m.curRrot tm.t).filter (fun o => o.prog == k))).length = tms.length then
        ringUnit m c tms r.1 r.2.1 r.2.2 else m) work m

/-- RING_ROTATION (R333): the lowest-numbered rotation that a team of the cluster has reached. -/
def ringRotation (m : Mach) (c work : Nat) : Mach :=
  match m.cluster? c with
  | none => m
  | some cl =>
    let tms := m.teamsOf c
    let scr := ((m.launch? cl.l).bind Launch.rec_).map LRec.scr |>.getD 0
    if cl.pre == .stopping || cl.pre == .saved then m
    else
      let cur := tms.filterMap (fun tm => m.curRrot tm.t)
      match cur.find? (fun o => cur.all (fun x => decide (o.prog ≤ x.prog))) with
      | none => m
      | some o => match rrotOf o with
        | some r => ringStep m c tms scr work o r
        | none => m

/-! ### The events -/

/-- TCOPY_OPERATION (R324). -/
def execTcopyOperation (t n : Nat) (s : State) := onMach s (fun cf m => Mach.work cf t .copy tcopyUnit n m)
/-- PACK_OPERATION (R326). -/
def execPackOperation (t n : Nat) (s : State) :=
  onMach s (fun cf m => Mach.work cf t .copy (fun cf m oc => match oc.o.cmd with
    | .tcopy true _ _ _ _ => tcopyUnit cf m oc
    | _ => none) n m)
/-- PROLOG_OPERATION (R327). -/
def execPrologOperation (t n : Nat) (s : State) := onMach s (fun cf m => Mach.work cf t .copy prologUnit n m)
/-- PROLOGUE (R139). -/
def execPrologue (t : Nat) (s : State) := onMach s (fun cf m => prologue cf m t)
/-- RING_ROTATION (R333). -/
def execRingRotation (clu n : Nat) (s : State) := onMach s (fun _ m => ringRotation m clu n)
/-- ENGINE_FE_TIMEOUT (R324). -/
def execEngineFeTimeout (t : Nat) (s : State) := onMach s (fun cf m => engineFeTimeout cf m t)

end Sys2Proof.Machine
end

