-- ==== Sys2Proof/Machine/Dcmp.lean ====
section
/-!
DEFINITION. The decompression engine: DCJOB and its job (R328–R331).
-/
namespace Sys2Proof.Machine

/-- DCJOB (R304, R328). -/
def execDcjob (arr : Bool) (a : Src) (s : State) :=
  issue s (.dcjob arr a) (fun cf m c =>
    withBlock cf m c a 64 (fun m blk => enterCmd cf m c .dcmp (.dcjob arr blk) ((m.srcL c a).setWidth 64)))

/-- A job card (R328). -/
structure Card where
  src : Nat
  srclen : Nat
  dst : Nat
  cap : Nat
  reserved : Bool
deriving DecidableEq, Repr

/-- Reading a card. -/
def cardOf (b : List Byte) : Card :=
  ⟨natAt b 0 8, natAt b 8 4, natAt b 0x10 8, natAt b 0x18 4,
    natAt b 0xC 4 != 0 || natAt b 0x1C 4 != 0 || natAt b 0x20 8 / 16 != 0 || !allZero (bytesAt b 0x30 16)⟩

/-- The generic address of a scratch address (R10). -/
def genOfScr (a : DWord) : Nat := 2 ^ 62 + a.toNat % 2 ^ 32

/-- The job stops (R330): PRODUCED and RCODE are written to the card, then it ends; a card that cannot be written ends it with FAULT, with the sub-cause of the
failed check and the card's address. -/
def dcStop (cf : Conf) (m : Mach) (oc : OpCtx) (n rcode sub : Nat) (addr : DWord) : Mach :=
  match engWrite1 cf m oc (genOfScr oc.o.blkAddr + 0x28) (leBytes 4 n ++ leBytes 4 rcode) with
  | (.bad s _, m) => m.finish oc.o 1 s oc.o.blkAddr
  | (.wait, m) => m
  | (.ok _, m) => if rcode = 0 then m.finishOk oc.o else m.finish oc.o 1 sub addr

/-- The bytes a match repeats, one at a time, from the output before it (R330). -/
def matchBytes (hist : List Byte) (o : Nat) : Nat → List Byte
  | 0 => []
  | n + 1 =>
    let b := hist.getD (hist.length - o) 0
    b :: matchBytes (hist ++ [b]) o n

/-- What is to be done with the bytes of a token read so far (R329, R330). -/
inductive DcNext where
  /-- More bytes of the token are read, to this length. -/
  | more (n : Nat)
  /-- The decode stops with an RCODE. -/
  | stop (rcode : Nat)
  /-- The token is whole: these bytes are written. -/
  | out (bs : List Byte)
deriving DecidableEq, Repr

/-- The token whose first bytes are `inp`, at s, after n bytes of output with history `hist`. -/
def dcNext (cd : Card) (s n : Nat) (hist inp : List Byte) : DcNext :=
  match inp with
  | [] => .more 1
  | t :: rest =>
    let t := t.toNat
    if t < 128 then
      let len := t + 1
      if cd.srclen < s + 1 + len then .stop 1
      else if cd.cap < n + len then .stop 3
      else if rest.length < len then .more (1 + len)
      else .out rest
    else
      let k := if t < 192 then 1 else 2
      let len := t % 64 + 3
      if cd.srclen < s + 1 + k then .stop 1
      else if rest.length < k then .more (1 + k)
      else
        let off := leNat rest + 1
        if n < off then .stop 2
        else if cd.cap < n + len then .stop 3
        else .out (matchBytes hist off len)

/-- One piece of output is written; the job stops at an address that fails (R24, R330, R331). `ins` holds the output of a token that is not written yet. -/
def dcPut (cf : Conf) (m : Mach) (oc : OpCtx) (cd : Card) (bs : List Byte) : Mach :=
  let o := oc.o
  let a := (cd.dst + o.prog) % 2 ^ 64
  if fabAddr a then dcStop cf m oc o.prog 4 0 (BitVec.ofNat 64 a)
  else
    let w := pieceLen a bs.length
    match engWrite1 cf m oc a (bs.take w) with
    | (.bad s e, m) => dcStop cf m oc o.prog 4 s e
    | (.wait, m) => m
    | (.ok _, m) =>
      let h := o.buf ++ bs.take w
      m.setOp { o with prog := o.prog + w, buf := h.drop (h.length - 65536), ins := [[], bs.drop w] }

/-- One unit of a job: an access of its next token, or its end (R329, R330). `pos` is s, `prog` is n, `buf` the last 65,536 bytes of output, `ins` the
bytes of the token read so far and the output still to be written. -/
def dcUnit (cf : Conf) (m : Mach) (oc : OpCtx) : Option Mach :=
  match oc.o.cmd with
  | .dcjob _ blk =>
    let o := oc.o
    let cd := cardOf blk
    let s := o.pos
    let inp := o.ins.getD 0 []
    let out := o.ins.getD 1 []
    if cd.reserved || decide (2 ^ 31 < cd.srclen) then some (m.finishParam o)
    else if !out.isEmpty then some (dcPut cf m oc cd out)
    else if cd.srclen ≤ s then some (dcStop cf m oc o.prog 0 0 0)
    else
      match dcNext cd s o.prog o.buf inp with
      | .stop rcode => some (dcStop cf m oc o.prog rcode 0 (BitVec.ofNat 64 (cd.src + s)))
      | .out bs => some (m.setOp { o with pos := s + inp.length, ins := [[], bs] })
      | .more k =>
        let a := (cd.src + s + inp.length) % 2 ^ 64
        match engRead1 cf m oc a (pieceLen a (k - inp.length)) with
        | (.bad sub e, m) => some (dcStop cf m oc o.prog 4 sub e)
        | (.wait, m) => some m
        | (.ok bs, m) => some (m.setOp { o with ins := [inp ++ bs, []] })
  | _ => none

/-- DCMP_JOB (R330). -/
def execDcmpJob (t n : Nat) (s : State) := onMach s (fun cf m => Mach.work cf t .dcmp dcUnit n m)

end Sys2Proof.Machine
end

