-- ==== Sys2Proof/Machine/Collective.lean ====
section
/-!
DEFINITION. Collectives (R342–R345) and XSORT (R346).
-/
namespace Sys2Proof.Machine

/-! ### Collective records (R342) -/

/-- A collective record's second half. -/
structure Coll where
  cop : Nat
  rop : Nat
  rtype : Nat
  nosw : Bool
  swonly : Bool
  repmask : Nat
  tms : Nat
  tmp : Nat
  gx : Nat
  gy : Nat
  gz : Nat
  rtab : Nat
  rank : Nat
  root : Nat
  tag : Nat
  reserved : Bool
deriving DecidableEq, Repr

/-- Reading a record of 256 bytes. ROP is ignored for BCAST and ALLGATH (R342): it reads 0 there. -/
def collOf (b : List Byte) : Coll :=
  let f := natAt b 0x84 4
  let g := natAt b 0x88 8
  ⟨nbits f 3 0, if nbits f 3 0 = 0 ∨ nbits f 3 0 = 3 then 0 else nbits f 7 4, nbits f 9 8, nbit f 10, nbit f 11, nbits f 14 12, nbits f 23 16, nbits f 26 24, nbits g 15 0, nbits g 31 16,
    nbits g 47 32, natAt b 0x90 8, natAt b 0x98 2, natAt b 0x9A 2, natAt b 0x9C 4,
    nbit f 15 || nbits f 31 27 != 0 || nbits g 63 48 != 0 || !allZero (bytesAt b 0xA0 0x5C)⟩

/-- Whether both halves are sealed (R342). -/
def collSealed (b : List Byte) : Bool := isSealed (bytesAt b 0 128) && natAt b 0x80 4 == 1 && natAt b 0xFC 4 == crc32c (bytesAt b 0x80 0x7C)

/-- Step 4 of R304 for TCOPY.coll: a record that is not sealed raises SEAL (R342). -/
def collEnter (cf : Conf) (m : Mach) (c : Ctx) (a : Src) (blk recs : List Byte) : Res :=
  let crec := bytesAt recs 0 256
  let drec := bytesAt recs 256 128
  if collSealed crec && isSealed drec then enterCmd cf m c .exch (.coll blk crec drec) ((m.srcL c a).setWidth 64) else .trap m 0x0C 0 0 c.f.pred

/-- TCOPY.coll (R304, R336, R342). -/
def execTcopyColl (a : Src) (s : State) :=
  issue s (.tcopyColl a) (fun cf m c =>
    withBlock cf m c a 64 (fun m blk =>
      withRecords cf m c blk (recReqs c (natAt blk 0 8) 256 ++ recReqs c (natAt blk 8 8) 128) (fun m recs => collEnter cf m c a blk recs)))

/-! ### Groups of ranks (R343) -/

/-- The coordinates of a rank. -/
def Coll.coord (k : Coll) (r d : Nat) : Nat := if d = 0 then r % k.gx else if d = 1 then r / k.gx % k.gy else r / (k.gx * k.gy)

/-- The ranks of the group of this rank, ascending. -/
def Coll.group (k : Coll) : List Nat :=
  (List.range (k.gx * k.gy * k.gz)).filter (fun r => (List.range 3).all (fun d => !nbit k.repmask d || k.coord r d == k.coord k.rank d))

/-- Whether a record breaks R342. -/
def Coll.bad (k : Coll) : Bool :=
  k.reserved || decide (4 < k.cop) || decide (3 < k.rop) || k.gx == 0 || k.gy == 0 || k.gz == 0 || decide (8192 < k.gx * k.gy * k.gz)
    || decide (k.gx * k.gy * k.gz ≤ k.rank) || ((k.cop == 0 || k.cop == 1) && decide (k.group.length ≤ k.root))

/-- The bits of an element of RTYPE. -/
def Coll.width (k : Coll) : Nat := if k.rtype = 1 then 16 else 32

/-- What must be equal on every rank of a collective (R343). -/
def Coll.key (k : Coll) (n : Nat) : List Nat := [k.cop, k.rop, k.rtype, k.repmask, k.gx, k.gy, k.gz, k.root, k.tms, k.tmp, n]

/-- The elements a record names. -/
def Lay.elems (l : Lay) : Nat := l.cols * l.rows * l.planes

/-- The elements of the destination (R343); none where the rank writes nothing. -/
def Coll.destElems (k : Coll) (g size n : Nat) : Option Nat :=
  match k.cop with
  | 1 => if g = k.root then some n else none
  | 3 => some (n * size)
  | 4 => some (n / size)
  | _ => some n

/-- Whether this rank's own conditions fail (R343). -/
def collBad (m : Mach) (oc : OpCtx) (k : Coll) (blk : List Byte) (src dst : Lay) : Bool :=
  let size := k.group.length
  let n := src.elems
  let g := (k.group.filter (fun r => decide (r < k.rank))).length
  k.bad || !allZero (bytesAt blk 0x10 0x30) || src.refused || src.inFab || dst.inFab || fabAddr k.rtab || (k.swonly && k.nosw)
    || (k.swonly && k.rop == 3) || (k.rop == 3 && k.rtype != 0) || src.bits != k.width
    || (k.cop == 4 && n % size != 0)
    || (match k.destElems g size n with
      | some e => dst.refused || dst.bits != k.width || dst.elems != e
      | none => false)
    || ((k.cop == 1 || k.cop == 2 || k.cop == 4) && k.rop == 3 && k.tmp != 0 &&
      !(nbit oc.rc.pairmask (k.tmp - 1) && m.pairs.any (fun p => p.core == oc.tm.core && p.slot == k.tmp)))

/-! ### Reductions (R344) -/

/-- MIN or MAX of floating-point codes (R248). -/
def foldMinMax (f : Fmt) (isMax : Bool) : List Nat → Nat
  | [] => 0
  | x :: xs =>
    let r := xs.foldl (fun a y => (elMinMax f isMax a y).1) x
    if (f.dec r).isNan then f.qnan else r

/-- A partial of each position merged as R344 states. -/
def mergeTree (code : Nat) : Nat → List Triple → Triple
  | 0, ts => ts.headD ⟨emptyE code, 0, 0⟩
  | n + 1, ts =>
    let rec pairUp : List Triple → List Triple
      | a :: b :: r => (merge code a b).1 :: pairUp r
      | r => r
    match ts with
    | [t] => t
    | ts => mergeTree code n (pairUp ts)

/-- The 12 bytes of a triple. -/
def tripleBytes (t : Triple) : List Byte := leBytes 4 t.e.toNat ++ leBytes 4 t.sm.toNat ++ leBytes 4 t.n.toNat

/-- A triple from bytes. -/
def tripleAt (b : List Byte) (off : Nat) : Triple :=
  ⟨BitVec.ofNat 32 (natAt b off 4), BitVec.ofNat 32 (natAt b (off + 4) 4), BitVec.ofNat 32 (natAt b (off + 8) 4)⟩

/-- What a rank gives to the reduction: its elements, or for a transformed mean their triples, entered under this device's pair (R344). -/
def Coll.given (k : Coll) (pr : Pair) (n : Nat) (src : List Byte) : List Byte :=
  if k.rop = 3 ∧ k.cop ≠ 0 ∧ k.cop ≠ 3 then
    (List.range n).flatMap (fun e => tripleBytes ((entry .normal k.tms pr (BitVec.ofNat 32 (natAt src (4 * e) 4))).getD (badEntry k.tms)))
  else src

/-- One element reduced over the group, from what its ranks have given (R344). -/
def Coll.reduce (k : Coll) (pr : Pair) (srcs : List (List Byte)) (e : Nat) : Nat :=
  let f := if k.rtype = 1 then bf16 else fp32
  let w := k.width / 8
  let xs := srcs.map (fun s => natAt s (w * e) w)
  match k.rop with
  | 0 =>
    if k.rtype ≤ 1 then
      let vs := xs.map f.dec
      (sumOf f vs (vs.map (fun v => (v, 0)))).1
    else xs.sum % 2 ^ 32
  | 3 => (exitMean k.tms pr (mergeTree k.tms 14 (srcs.map (fun s => tripleAt s (12 * e))))).1.toNat
  | r =>
    if k.rtype ≤ 1 then foldMinMax f (r == 2) xs
    else
      let sg : Sgn := if k.rtype = 2 then .s else .u
      let ws := xs.map (BitVec.ofNat 32)
      (ws.tail.foldl (if r = 2 then opMax sg else opMin sg) (ws.headD 0)).toNat

/-- What a rank's destination takes, from what the ranks have given in group-position order (R343, R344). -/
def Coll.result (k : Coll) (pr : Pair) (g n : Nat) (srcs : List (List Byte)) : List Byte :=
  let w := k.width / 8
  let red (lo cnt : Nat) : List Byte :=
    (List.range cnt).flatMap (fun e => leBytes w (k.reduce pr srcs (lo + e)))
  match k.cop with
  | 0 => bytesAt (srcs.getD k.root []) 0 (w * n)
  | 3 => srcs.flatMap (fun s => bytesAt s 0 (w * n))
  | 4 => let q := n / srcs.length; red (g * q) q
  | _ => red 0 n

/-! ### The operation -/

/-- A record's elements without their scales. -/
def Lay.plain (l : Lay) : Lay := { l with scl := false }

/-- The other ranks of the group, ascending. -/
def Coll.peers (k : Coll) : List Nat := k.group.filter (fun r => r != k.rank)

/-- This rank's group position (R343). -/
def Coll.pos (k : Coll) : Nat := (k.group.filter (fun r => decide (r < k.rank))).length

/-- The ranks that this rank's contribution goes to: of a BCAST the root's to all, of a REDUCE all others' to the root. -/
def Coll.receivers (k : Coll) : List Nat :=
  match k.cop with
  | 0 => if k.pos = k.root then k.peers else []
  | 1 => if k.pos = k.root then [] else (k.group[k.root]?).toList
  | _ => k.peers

/-- Whether this rank needs the contribution of a group position. -/
def Coll.needs (k : Coll) (g : Nat) : Bool :=
  match k.cop with
  | 0 => g == k.root && k.pos != k.root
  | 1 => k.pos == k.root
  | _ => true

/-- The bytes of a contribution of n elements. -/
def Coll.givenLen (k : Coll) (n : Nat) : Nat := if k.rop = 3 ∧ k.cop ≠ 0 ∧ k.cop ≠ 3 then 12 * n else k.width / 8 * n

/-- The table pair a rank enters and leaves by (R342). -/
def Coll.pair (k : Coll) (m : Mach) (core : Nat) : Pair :=
  if k.tmp = 0 then none else (m.pairs.find? (fun p => p.core == core && p.slot == k.tmp)).map PairSlot.img

/-- The parts of a collective's operation. -/
structure CollOp where
  k : Coll
  blk : List Byte
  crec : List Byte
  src : Lay
  dst : Lay
  drec : List Byte
deriving DecidableEq, Repr

/-- A contribution leaves in chunks of 65,536 bytes (R345). -/
def sendChunks (m : Mach) (tag n dev : Nat) (bytes : List Byte) (which : Nat → Bool) : Mach :=
  { m with net := m.net ++ ((List.range ((bytes.length + 65535) / 65536)).filter which).map (fun i =>
      .contribution dev tag n i (bytesAt bytes (65536 * i) (min 65536 (bytes.length - 65536 * i)))) }

/-- The start of a collective, once every rank of its group has accepted it (R343, R345): switch slots are asked for by position 0; ranks that differ, or a rank
whose own conditions fail, complete with FAULT. -/
def collStart (m : Mach) (oc : OpCtx) (q : CollOp) (slots : Bool) (recs : List (Nat × List Byte)) : Mach :=
  let o := oc.o
  let k := q.k
  if recs.length ≠ k.peers.length ∨ recs.any (fun r => (collOf r.2).tag != k.tag || r.1 != o.v1.toNat) then m
  else if recs.any (fun r => (collOf r.2).key (layOf (bytesAt r.2 0 128)).elems != k.key q.src.elems) then m.finishParam o
  else if collBad m oc k q.blk q.src q.dst then m.finishParam o
  else
    let m : Mach := if !k.nosw && k.rop != 3 && k.pos == 0 then { m with net := m.net ++ [.slotRequest k.tag o.v1.toNat] } else m
    if k.swonly && !slots then m.finish o 7 0 0 else m.setOp { o with stage := 1, ins := [[]], buf := [] }

/-- A piece of the table of ranks is read (R342). -/
def collRanks (cf : Conf) (m : Mach) (oc : OpCtx) (q : CollOp) : Mach :=
  let o := oc.o
  let devs := o.ins.getD 0 []
  match q.k.peers[devs.length / 2]? with
  | none => m.setOp { o with stage := 2, buf := [] }
  | some rank =>
    match engRead cf m oc ((q.k.rtab + 2 * rank) % 2 ^ 64) 2 with
    | (.bad s a, m) => m.finishBad o s a
    | (.wait, m) => m
    | (.ok bs, m) => m.setOp { o with ins := [devs ++ bs] }

/-- The device of a rank, from the table as read. -/
def Coll.devOf (k : Coll) (devs : List Byte) (rank : Nat) : Nat := natAt devs (2 * (k.peers.filter (fun r => decide (r < rank))).length) 2

/-- A piece of the source is read; when it is whole, what this rank gives leaves for its receivers (R344, R345). `ins` holds the table of ranks, the chunks asked for
again (device and chunk, 8 bytes each), what has been read for the first of these, and, once it has come, the acknowledgement. -/
def collSource (cf : Conf) (m : Mach) (oc : OpCtx) (q : CollOp) : Mach :=
  let o := oc.o
  let lay := q.src.plain
  let devs := o.ins.getD 0 []
  if o.buf.length < lay.nrows * lay.rowTotal then
    match lay.loc o.buf.length with
    | .scale _ => m
    | .mem a =>
      match engRead1 cf m oc a (lay.piece o.buf.length) with
      | (.ok bs, m) => m.setOp { o with buf := o.buf ++ bs }
      | (.bad s a, m) => m.finishBad o s a
      | (.wait, m) => m
  else
    let bytes := q.k.given (q.k.pair m oc.tm.core) q.src.elems o.buf
    let m := q.k.receivers.foldl (fun m r => sendChunks m q.k.tag o.v1.toNat (q.k.devOf devs r) bytes (fun _ => true)) m
    m.setOp { o with stage := 3, buf := bytes }

/-- The chunks a rank has been asked for again. -/
def Op.again (o : Op) : List Byte := o.ins.getD 1 []

/-- Part k of what an operation holds is replaced. -/
def Op.putIns (o : Op) (k : Nat) (bs : List Byte) : Op := { o with ins := (List.range (max o.ins.length (k + 1))).map (fun i => if i = k then bs else o.ins.getD i []) }

/-- A piece of the source is read again; when it is whole, the chunk leaves again (R345). -/
def collResend (cf : Conf) (m : Mach) (oc : OpCtx) (q : CollOp) : Mach :=
  let o := oc.o
  let lay := q.src.plain
  let got := o.ins.getD 2 []
  if got.length < lay.nrows * lay.rowTotal then
    match lay.loc got.length with
    | .scale _ => m
    | .mem a =>
      match engRead1 cf m oc a (lay.piece got.length) with
      | (.ok bs, m) => m.setOp (o.putIns 2 (got ++ bs))
      | (.bad s a, m) => m.finishBad o s a
      | (.wait, m) => m
  else
    let bytes := q.k.given (q.k.pair m oc.tm.core) q.src.elems got
    (sendChunks m q.k.tag o.v1.toNat (natAt o.again 0 4) bytes (fun i => i == natAt o.again 4 4)).setOp ((o.putIns 2 []).putIns 1 (o.again.drop 8))

/-- The contributions a rank needs are here: its result is formed (R344). -/
def collData (m : Mach) (oc : OpCtx) (q : CollOp) (inputs : List (List Byte)) : Mach :=
  let o := oc.o
  let k := q.k
  let n := q.src.elems
  let g := k.pos
  let all := inputs.take g ++ [o.buf] ++ inputs.drop g
  match k.destElems g k.group.length n with
  | none => m.setOp { o with stage := 5, buf := [] }
  | some _ =>
    if all.length = k.group.length ∧ (List.range all.length).all (fun i => !k.needs i || (all.getD i []).length == k.givenLen n) then
      m.setOp { o with stage := 4, pos := 0, buf := k.result (k.pair m oc.tm.core) g n all }
    else m

/-- A piece of the destination is written; when it is whole the contributions received are acknowledged (R345). -/
def collWrite (cf : Conf) (m : Mach) (oc : OpCtx) (q : CollOp) : Mach :=
  let o := oc.o
  let devs := o.ins.getD 0 []
  if o.buf.length ≤ o.pos then
    let from_ := (q.k.group.zip (List.range q.k.group.length)).filter (fun r => r.1 != q.k.rank && q.k.needs r.2)
    { m.setOp { o with stage := 5, buf := [] } with net := m.net ++ from_.map (fun r => .collAck (q.k.devOf devs r.1) q.k.tag o.v1.toNat) }
  else
    match q.dst.plain.loc o.pos with
    | .scale _ => m
    | .mem a =>
      let w := q.dst.plain.piece o.pos
      match engWrite1 cf m oc a (bytesAt o.buf o.pos w) with
      | (.bad s e, m) => m.finishBad o s e
      | (.wait, m) => m
      | (.ok _, m) => m.setOp { o with pos := o.pos + w }

/-- Whether no port is left by which the devices of a group are reached, as the table of ranks names them (R364). -/
def collCut (cf : Conf) (m : Mach) (o : Op) (k : Coll) : Bool :=
  decide (2 ≤ o.stage) && k.peers.any (fun r => cutFrom cf m (k.devOf (o.ins.getD 0 []) r))

/-- A collective that has read its source goes on: its contributions come, its destination is written, and what it gave is acknowledged; meanwhile it sends again what it
is asked for (R345). -/
def collGoOn (w : CollMsg) (cf : Conf) (m : Mach) (oc : OpCtx) (q : CollOp) : Option Mach :=
  let o := oc.o
  let isOver (o : Op) : Bool := q.k.receivers.isEmpty || !(o.ins.getD 3 []).isEmpty
  match w with
  | .again dev chunk =>
    let e := leBytes 4 dev ++ leBytes 4 chunk
    if q.k.receivers.isEmpty then none else some (m.setOp (o.putIns 1 (o.again ++ e)))
  | .acked => if 5 ≤ o.stage then some (m.finishOk o) else some (m.setOp (o.putIns 3 [1]))
  | .data inputs => if o.stage = 3 then some (collData m oc q inputs) else none
  | _ =>
    if !o.again.isEmpty then some (collResend cf m oc q)
    else match o.stage with
      | 3 => if (q.k.destElems q.k.pos q.k.group.length q.src.elems).isNone then some (collData m oc q []) else none
      | 4 => some (collWrite cf m oc q)
      | _ => if isOver o then some (m.finishOk o) else none

/-- One unit of a collective (R343–R345): its start, the table of ranks, its source, the contributions, its destination, and the wait for the acknowledgement of what it
gave. A group of one copies its source to its destination. It fails once no port is left (R364). -/
def collUnit (w : CollMsg) (cf : Conf) (m : Mach) (oc : OpCtx) : Option Mach :=
  let o := oc.o
  match o.cmd with
  | .coll blk crec drec =>
    let q : CollOp := ⟨collOf crec, blk, crec, layOf (bytesAt crec 0 128), layOf drec, drec⟩
    if collCut cf m o q.k then some (m.finishBad o 4 0)
    else match o.stage with
    | 0 =>
      if q.k.bad then some (m.finishParam o)
      else if q.k.group.length = 1 then
        if collBad m oc q.k blk q.src q.dst then some (m.finishParam o)
        else if q.src = q.dst then some (m.finishOk o)
        else some (m.setOp { o with cmd := .tcopy false ⟨false, false, false, false⟩ blk (bytesAt crec 0 128) drec })
      else match w with
        | .start slots recs => some (collStart m oc q slots recs)
        | _ => none
    | 1 => some (collRanks cf m oc q)
    | 2 => some (collSource cf m oc q)
    | _ => collGoOn w cf m oc q
  | .tcopy _ _ _ _ _ => tcopyUnit cf m oc
  | _ => none

/-- COLLECTIVE (R343): a word of the network, and units of work. -/
def execCollective (t n : Nat) (w : CollMsg) (s : State) :=
  onMach s (fun cf m => Mach.work cf t .exch (collUnit .quiet) (n - 1) (Mach.work cf t .exch (collUnit w) (min n 1) m))

/-! ### XSORT (R346) -/

/-- XSORT (R304, R346). -/
def execXsort (a : Src) (s : State) :=
  issue s (.xsort a) (fun cf m c =>
    withBlock cf m c a 64 (fun m blk => enterCmd cf m c .exch (.xsort blk) ((m.srcL c a).setWidth 64)))

/-- The parameters of a sort. -/
structure SortBlk where
  src : Nat
  dst : Nat
  nrec : Nat
  rsz : Nat
  keyoff : Nat
  nseg : Nat
  seg : Nat
  reserved : Bool
deriving DecidableEq, Repr

/-- Reading the block. -/
def sortOf (b : List Byte) : SortBlk :=
  let w := natAt b 0x10 8
  ⟨natAt b 0 8, natAt b 8 8, nbits w 31 0, nbits w 39 32, nbits w 47 40, natAt b 0x18 8 % 2 ^ 17, natAt b 0x20 8,
    nbits w 63 48 != 0 || natAt b 0x18 8 / 2 ^ 17 != 0 || !allZero (bytesAt b 0x28 0x18)⟩

/-- Whether a block breaks its table (R346). -/
def SortBlk.bad (q : SortBlk) : Bool :=
  let bytes := 4 * q.rsz * q.nrec
  q.reserved || fabAddr q.src || fabAddr q.dst || fabAddr q.seg || q.src % 4 != 0 || q.dst % 4 != 0 || q.seg % 4 != 0
    || decide (2 ^ 24 < q.nrec) || q.rsz == 0 || decide (64 < q.rsz) || q.keyoff % 2 != 0 || decide (4 * q.rsz < q.keyoff + 2)
    || q.nseg == 0 || decide (65536 < q.nseg) || (decide (0 < bytes) && overlaps q.src bytes q.dst bytes)

/-- The key of record n, of those the first pass has read. -/
def keyAt (keys : List Byte) (n : Nat) : Nat := natAt keys (2 * n) 2
/-- The records before n whose key meets a test. -/
def keysWhere (keys : List Byte) (n : Nat) (f : Nat → Bool) : Nat := ((List.range n).filter (fun i => f (keyAt keys i))).length

/-- A piece of record n of the source is read; `ins` holds what has been read of it. -/
def sortRead (cf : Conf) (m : Mach) (oc : OpCtx) (q : SortBlk) (n : Nat) : Mach :=
  let o := oc.o
  let have_ := o.ins.getD 0 []
  let a := (q.src + 4 * q.rsz * n + have_.length) % 2 ^ 64
  match engRead1 cf m oc a (pieceLen a (4 * q.rsz - have_.length)) with
  | (.bad s a, m) => m.finishBad o s a
  | (.wait, m) => m
  | (.ok bs, m) => m.setOp { o with ins := [have_ ++ bs] }

/-- One unit of a sort (R346): an access of the first pass, which reads every record; the check of its keys; a word of SEG; an access of the second pass. -/
def sortUnit (cf : Conf) (m : Mach) (oc : OpCtx) : Option Mach :=
  let o := oc.o
  match o.cmd with
  | .xsort blk =>
    let q := sortOf blk
    let size := 4 * q.rsz
    let rec_ := o.ins.getD 0 []
    match o.stage with
    | 0 => if q.bad then some (m.finishParam o) else some (m.setOp { o with stage := 1 })
    | 1 =>
      if o.prog < q.nrec then
        if rec_.length < size then some (sortRead cf m oc q o.prog)
        else some (m.setOp { o with prog := o.prog + 1, buf := o.buf ++ bytesAt rec_ q.keyoff 2, ins := [] })
      else if (List.range q.nrec).any (fun n => decide (q.nseg ≤ keyAt o.buf n)) then some (m.finishParam o)
      else some (m.setOp { o with stage := 2, prog := 0 })
    | 2 =>
      if q.nseg < o.prog then some (m.setOp { o with stage := 3, pos := 0, tries := 0 })
      else
        match engWrite1 cf m oc ((q.seg + 4 * o.prog) % 2 ^ 64) (leBytes 4 (keysWhere o.buf q.nrec (fun k => decide (k < o.prog)))) with
        | (.bad s e, m) => some (m.finishBad o s e)
        | (.wait, m) => some m
        | (.ok _, m) => some (m.setOp { o with prog := o.prog + 1 })
    | _ =>
      if q.nrec ≤ o.pos then some (m.finishOk o)
      else if rec_.length < size then some (sortRead cf m oc q o.pos)
      else
        let k := keyAt o.buf o.pos
        let slot := keysWhere o.buf q.nrec (fun x => decide (x < k)) + keysWhere o.buf o.pos (fun x => x == k)
        let a := (q.dst + size * slot + o.tries) % 2 ^ 64
        let w := pieceLen a (size - o.tries)
        match engWrite1 cf m oc a (bytesAt rec_ o.tries w) with
        | (.bad s e, m) => some (m.finishBad o s e)
        | (.wait, m) => some m
        | (.ok _, m) => some (m.setOp (if size ≤ o.tries + w then { o with pos := o.pos + 1, ins := [], tries := 0 } else { o with tries := o.tries + w }))
  | _ => none

/-- XSORT_OPERATION (R346). -/
def execXsortOperation (t n : Nat) (s : State) := onMach s (fun cf m => Mach.work cf t .exch sortUnit n m)

end Sys2Proof.Machine
end

