-- ==== Sys2Proof/Machine/Control.lean ====
section
/-!
DEFINITION. Control flow: the transfers of R280–R291, fibres that split, join, fork and end (R150, R153), the trailer (R223), literals
(R218), the software trap and the return (R284, R173).
-/
namespace Sys2Proof.Machine

/-! ### Fibres (R150, R153) -/

/-- Idle tokens (R150). -/
def idleToks : List Tok := List.replicate 4 ⟨false, [], 0⟩
/-- Window depths of a new fibre (R150). -/
def noDepths : List Nat := List.replicate 8 0

/-- The latches of some lanes read zero; outstanding results of the fibre no longer reach them (R220, R222). -/
def Mach.dropLatchLanes (m : Mach) (r : FRef) (p : Word) : Mach :=
  { m with
    lats := (List.range 8).foldl (fun l k => (lanesOf p).foldl (fun l i => smSet 0 l (latKey r.t r.g k i) 0) l) m.lats
    latErr := mended m.latErr ((List.range 8).flatMap (fun k => (lanesOf p).map (latKey r.t r.g k)))
    outst := m.outst.map (fun (o : Outst) =>
      if o.ref = r then { o with latch := o.latch.map (fun l => (l.1, l.2.filter (fun v => !p.getLsbD v.1))) } else o) }

/-- Some lanes of a fibre leave it for a new fibre, which begins a new run. `keep` moves the tokens and depths with them. -/
def Mach.splitOff (m : Mach) (f : Fibre) (lanes : Word) (pc : DWord) (base : Nat) (keep : Bool) (lpad : Option Nat) : Mach :=
  let new : Fibre := { ref := ⟨f.ref.t, f.ref.g, m.fresh⟩, pc := pc, pred := lanes, base := base
                       toks := if keep then f.toks else idleToks, depths := if keep then f.depths else noDepths
                       run := false, pos := 0, wait := none, susp := false, trl := none, lpad := lpad, xl := [], fe := none, drained := false, asked := false }
  let m := m.dropLatchLanes f.ref lanes
  { m with
    fresh := m.fresh + 1
    fibres := m.fibres.map (fun (x : Fibre) => if x.ref = f.ref then
        { x with pred := x.pred &&& ~~~ lanes, toks := if keep then idleToks else x.toks, depths := if keep then noDepths else x.depths }
      else x) ++ [new] }

/-- A per-lane split (R150): the child that holds the leader lane keeps the tokens and depths. -/
def Mach.split (m : Mach) (c : Ctx) (lanes : Word) (pc : DWord) (lpad : Option Nat) : Mach :=
  m.splitOff c.f lanes pc c.f.base (lanes.getLsbD c.leader) lpad

/-- The fibres that wait at one JOIN instruction: mask, address and window base. -/
def Mach.atJoin (m : Mach) (t g j : Nat) (pc : DWord) (base : Nat) : List Fibre :=
  (m.fibresOf t g).filter (fun f => f.pc == pc && f.base == base && f.wait.any (fun w => w.why == .join j))

/-- Whether every live lane of a mask waits there (R153). -/
def Mach.joinDone (m : Mach) (t g j : Nat) (pc : DWord) (base : Nat) : Bool :=
  let ws := m.atJoin t g j pc base
  match m.group? t g with
  | some gr => (m.fibresOf t g).all (fun f => f.pred &&& gr.joins.getD j 0 == 0 || ws.any (fun w => w.ref == f.ref))
  | none => false

/-- One token of the merged fibre (R153). -/
def mergeTok (a b : Tok) : Tok := if a.pend && b.pend then ⟨true, a.wids ++ b.wids, max a.sc b.sc⟩ else if a.pend then a else b

/-- Waiting fibres become one (R153). -/
def Mach.merge (m : Mach) (ws : List Fibre) : Mach :=
  match ws with
  | [] => m
  | w :: rest =>
    let all := w :: rest
    let pred := all.foldl (fun p (f : Fibre) => p ||| f.pred) 0
    let one : Fibre := { w with
      pc := w.pc + 4, pred := pred
      toks := rest.foldl (fun ts (f : Fibre) => (ts.zip f.toks).map (fun p => mergeTok p.1 p.2)) w.toks
      depths := rest.foldl (fun ds (f : Fibre) => (ds.zip f.depths).map (fun p => p.1 + p.2)) w.depths
      run := false, pos := 0, wait := none, trl := none, lpad := none, xl := [], fe := none, drained := false, asked := false }
    ({ m with
      fibres := (m.fibres.filter (fun (f : Fibre) => !rest.any (fun x => x.ref == f.ref))).map (fun (f : Fibre) => if f.ref = w.ref then one else f)
      outst := m.outst.map (fun (o : Outst) => if rest.any (fun x => x.ref == o.ref) then { o with ref := w.ref } else o) }).updGroup w.ref.t w.ref.g
      (fun g => { g with ready := m.cyc })

/-- Every JOIN of a group on a mask that is complete now completes (R153, R290, R291). -/
def Mach.joinCheck (m : Mach) (t g : Nat) : Mach :=
  (m.fibresOf t g).foldl (fun m f =>
    match f.wait with
    | some ⟨_, .join j, _⟩ =>
      if (m.atJoin t g j f.pc f.base).any (fun x => x.ref == f.ref) && m.joinDone t g j f.pc f.base then m.merge (m.atJoin t g j f.pc f.base)
      else m
    | _ => m) m

/-- A fibre ends (R150, R290): its lanes leave every join mask, its windows close; the last one ends the group. -/
def Mach.endFibre (m : Mach) (cf : Conf) (c : Ctx) : Mach :=
  let r := c.f.ref
  let m := m.closeAll c.la.p c.la.x c.f
  let m := m.leavePort r 1
  let m := { m with
    fibres := m.fibres.filter (fun f => f.ref != r)
    outst := m.outst.map (fun (o : Outst) => if o.ref = r then { o with latch := none } else o) }
  let m := m.updGroup r.t r.g (fun g => { g with joins := g.joins.map (fun w => w &&& ~~~ c.f.pred) })
  if (m.fibresOf r.t r.g).isEmpty then m.endGroup cf r.t r.g else m.joinCheck r.t r.g

/-! ### Relative transfers -/

/-- The target of a word offset (R217). -/
def relTarget (c : Ctx) (off : Int) : DWord := c.f.pc + BitVec.ofInt 64 (4 * off)

/-- UBR (R281). -/
def execUbr (k : Nat) (sense chk : Bool) (off : Int) (s : State) :=
  issue s (.ubr k sense chk off) (fun _ m c =>
    if chk && c.lanes.any (fun i => c.cond k i != c.cond k c.leader) then .trap m 8 0 0 c.f.pred
    else .done m [] (if xor (c.cond k c.leader) sense then .goto (relTarget c off) else .seq))

/-- UJMP (R281). -/
def execUjmp (off : Int) (s : State) := issue s (.ujmp off) (fun _ m c => .done m [] (.goto (relTarget c off)))

/-- UCALL (R281): the link pair is v2:3. -/
def execUcall (off : Int) (s : State) :=
  issue s (.ucall off) (fun _ m c =>
    .done (m.wrRegs c (pairWrites (.v 2) (c.each (c.f.pc + 4)))) (c.each (lo32 (c.f.pc + 4))) (.goto (relTarget c off)))

/-- URET (R281): a target off a word raises ALIGN (R217). -/
def execUret (a : Nat) (s : State) :=
  issue s (.uret a) (fun _ m c =>
    let t := m.v64 c a c.leader
    if t.toNat % 4 ≠ 0 then .trap m 3 0 0 c.f.pred else .done m [] (.goto t))

/-- UDBNZ (R281). -/
def execUdbnz (d : Dst) (off : Int) (s : State) :=
  issue s (.udbnz d off) (fun _ m c =>
    let r := m.addend c d c.leader - 1
    .done (m.wrRegs c (dstWrites d (c.each r))) (c.each r) (if r ≠ 0 then .goto (relTarget c off) else .seq))

/-- BR (R286). -/
def execBr (k : Nat) (sense : Bool) (off : Int) (s : State) :=
  issue s (.br k sense off) (fun _ m c =>
    let t := maskOf (c.lanes.filter (fun i => xor (c.cond k i) sense))
    if t = 0 then .done m [] .seq
    else if t = c.f.pred then .done m [] (.goto (relTarget c off))
    else .done (m.split c t (relTarget c off) none) [] .seq)

/-! ### Register transfers (R287) -/

/-- The distinct targets of some lanes with their lanes. -/
def targetGroups (m : Mach) (c : Ctx) (a : Nat) : List (DWord × Word) :=
  ((c.lanes.map (m.v64 c a)).eraseDups).map (fun t => (t, maskOf (c.lanes.filter (fun i => m.v64 c a i == t))))

/-- BRX, CALLX, RETX: one fibre per distinct target; the landing-pad tag each must meet. -/
def laneTransfer (m : Mach) (c : Ctx) (a : Nat) (link : Option Nat) (tag : Option Nat) : Res :=
  let ts := targetGroups m c a
  if ts.any (fun t => t.1.toNat % 4 != 0) then .trap m 3 0 0 c.f.pred
  else
    let m := match link with
      | some d => m.wrRegs c (pairWrites (.v d) (c.each (c.f.pc + 4)))
      | none => m
    let m := (ts.drop 1).foldl (fun m t => m.split c t.2 t.1 tag) m
    match ts with
    | [] => .done m [] .seq
    | t :: _ => .gone ((m.advance c.f.ref t.1 true).updFibre c.f.ref (fun f => { f with lpad := tag }))

/-- BRX (R287). -/
def execBrx (a tag : Nat) (s : State) := issue s (.brx a tag) (fun _ m c => laneTransfer m c a none (some tag))
/-- CALLX (R287): the return address goes to the link pair first. -/
def execCallx (d a tag : Nat) (s : State) := issue s (.callx d a tag) (fun _ m c => laneTransfer m c a (some d) (some tag))
/-- RETX (R287): no landing pad is asked for. -/
def execRetx (a : Nat) (s : State) := issue s (.retx a) (fun _ m c => laneTransfer m c a none none)

/-- LPAD (R288). -/
def execLpad (tag : Nat) (s : State) := issue s (.lpad tag) (fun _ m _ => .done m [] .seq)

/-! ### Joining, forking, ending (R289–R291) -/

/-- JOIN (R153). -/
def execJoin (j : Nat) (s : State) :=
  issue s (.join j) (fun _ m c =>
    let mask := c.g.joins.getD j 0
    if (m.fibresOf c.f.ref.t c.f.ref.g).any (fun f => f.base != c.f.base && f.pred &&& mask != 0) then .trap m 0x0A 0 0 c.f.pred
    else if c.f.pred &&& mask = 0 then .done m [] .seq
    else .gone (((m.waitAt c.f.ref (.join j) (.join j)).toPending c.f.ref.t c.f.ref.g).joinCheck c.f.ref.t c.f.ref.g))

/-- FORK (R289). -/
def execFork (k a : Nat) (b : Src) (s : State) :=
  issue s (.fork k a b) (fun cf m c =>
    let ls := c.lanes.filter (c.cond k)
    if c.g.handler then .stop m 1
    else
      match ls with
      | [] => .done m [] .seq
      | l :: _ =>
        let t := m.v64 c a l
        if t.toNat % 4 ≠ 0 then .trap m 3 0 0 c.f.pred
        else
          let base := nbits (m.src c b l).toNat 7 0
          if maskOf ls = c.f.pred then .gone ((m.splitOff c.f c.f.pred t base false none).endFibre cf c)
          else .done (m.splitOff c.f (maskOf ls) t base false none) [] .seq)

/-- FEND (R150, R290); in handler mode it stops the launch (R172). -/
def execFend (s : State) :=
  issue s .fend (fun cf m c => if c.g.handler then .stop m 1 else .gone (m.endFibre cf c))

/-- The new mask of JMSET (R291). -/
def newMask (op : MaskOp) (old a p : Word) : Word :=
  match op with
  | .ld => a
  | .or => old ||| a
  | .andn => old &&& ~~~ a
  | .fib => old ||| p

/-- JMSET (R291). -/
def execJmset (op : MaskOp) (j : Nat) (a : Src) (s : State) :=
  issue s (.jmset op j a) (fun _ m c =>
    let v := newMask op (c.g.joins.getD j 0) (m.srcL c a) c.f.pred
    .done ((m.updGroup c.f.ref.t c.f.ref.g (fun g => { g with joins := modAt g.joins j (fun _ => v) })).joinCheck c.f.ref.t c.f.ref.g)
      (c.each v) .seq)

/-- LIMM (R218). -/
def execLimm (d : Dst) (lit : Word) (s : State) := issue s (.limm d lit) (fun _ m c => laneWord m c d (fun _ => lit))

/-! ### Runs, traps, the end of a group -/

/-- TRL (R223): the next run of the fibre awaits the named registers; the group moves to pending while one is outstanding (R169). -/
def execTrl (all : Bool) (regs : List Nat) (s : State) :=
  issue s (.trl all regs) (fun _ m c =>
    let rs := if all then List.range 256 else c.phys regs
    let m := m.updFibre c.f.ref (fun f => { f with trl := some rs })
    .done (if m.outst.any (fun o => o.ref == c.f.ref && o.regs.any (fun w => rs.contains w.1)) then m.toPending c.f.ref.t c.f.ref.g else m)
      [] .seq)

/-- NOP (R282). -/
def execNop (s : State) := issue s .nop (fun _ m _ => .done m [] .seq)
/-- YIELD (R282): the run ends. -/
def execYield (s : State) := issue s .yield (fun _ m _ => .done m [] .seq)
/-- HALT (R283): the group ends. -/
def execHalt (s : State) := issue s .halt (fun cf m c => .gone (m.endGroup cf c.f.ref.t c.f.ref.g))
/-- TRAP (R284); its code is read by the handler from the word. -/
def execTrap (code : Nat) (s : State) := issue s (.trap code) (fun _ m c => .trap m 0x13 0 0 c.f.pred)
/-- ERET (R173). -/
def execEret (s : State) := issue s .eret eretBody
/-- A word whose opcode is reserved raises ILLEGAL (R234): the checks before the entry raise it. -/
def execReservedOpcode (w : Word) (s : State) := issue s (.reservedOpcode w) (fun _ m c => .trap m 1 0 0 c.f.pred)

end Sys2Proof.Machine
end

