-- ==== Sys2Proof/Machine/Heddle.lean ====
section
/-!
DEFINITION. The Heddle (R50, R338): the count of expected bytes, requests, their order, the pools of pull tokens, receive slots, and what returns a
token.
-/
namespace Sys2Proof.Machine

/-! ### INBOUND (R41, R50) -/

/-- The inbound count changes, in the allocation's header too. -/
def Mach.addInbound (m : Mach) (t : Option Nat) (d : Int) : Mach :=
  match t.bind m.team? with
  | some tm =>
    let n := ((tm.inbound : Int) + d).toNat
    (m.updTeam tm.t (fun x => { x with inbound := n })).deliver ⟨0, .scr tm.t, 0x28, leBytes 8 n, .plain, none, false, 0, 0, 0⟩
  | none => m

/-! ### Requests (R338) -/

/-- The bytes of a request not granted yet. -/
def HReq.ungranted (h : HReq) : Nat := (h.regrant.map Prod.snd).sum + (h.r.upto - h.next)

/-- The size of a partition's pool on a die (R338). -/
def poolSize (cf : Conf) (die part : Nat) : Nat :=
  16 + 4096 * (match cf.part? part with
    | some pt => ((List.range 192).filter (fun i => nbit pt.cores (192 * die + i))).length
    | none => 0) / 192

/-- The tokens a request has outstanding. -/
def Mach.tokensOf (m : Mach) (order : Nat) : List Token := m.tokens.filter (fun k => k.req == order)

/-- The RXDEPTH of a region (R108). -/
def Region.rxdepth (rg : Region) : Nat := nbits (natAt rg.desc 0x28 8) 55 52

/-- The bound region a TAG names in a partition. -/
def Mach.tagRegion (m : Mach) (p tag : Nat) : Option Region := m.regions.find? (fun rg => rg.p == p && rg.init.isNone && rg.tag == tag)

/-- The lowest free receive slot of an island (R117). -/
def Mach.freeSlot (m : Mach) (rg : Region) (island : Nat) : Option Nat :=
  (List.range rg.rxdepth).find? (fun j =>
    !(rg.contribs.any (fun k => k.island == island && k.slot == some j)) &&
    !(m.hreqs.any (fun h => h.slot == some j && h.r.part == rg.p && h.r.drift.any (fun d => d.2.1 == rg.tag && d.2.2 == island))))

/-- The slot a grant to a request would have reserved: none when a drift message must wait for one (R117, R338). -/
def Mach.slotFor (m : Mach) (h : HReq) : Option (Option Nat) :=
  match h.r.drift, h.slot with
  | none, _ => some none
  | some _, some j => some (some j)
  | some d, none =>
    match m.tagRegion h.r.part d.2.1 with
    | none => some none
    | some rg => (m.freeSlot rg d.2.2).map some

/-- Whether a request is eligible (R338). -/
def Mach.eligible (m : Mach) (h : HReq) : Bool :=
  !h.held && decide (0 < h.ungranted) && decide ((m.tokensOf h.order).length < 4) && (m.slotFor h).isSome

/-- Whether request a is granted before request b (R338). -/
def HReq.before (a b : HReq) : Bool :=
  decide (a.r.prio < b.r.prio) || (a.r.prio == b.r.prio &&
    (decide (a.ungranted < b.ungranted) || (a.ungranted == b.ungranted && decide (a.order ≤ b.order))))

/-- The ranges of a request that are not granted. -/
def HReq.open_ (h : HReq) : List (Nat × Nat) := (h.regrant ++ [(h.next, h.r.upto - h.next)]).filter (fun r => r.2 != 0)

/-- Where the ungranted bytes that begin at an offset end. -/
def runEnd (rs : List (Nat × Nat)) : Nat → Nat → Nat
  | 0, e => e
  | k + 1, e => match rs.find? (fun r => decide (r.1 ≤ e) && decide (e < r.1 + r.2)) with
    | some r => runEnd rs k (r.1 + r.2)
    | none => e

/-- The next bytes of a request in ascending offset, at most 4,096, and the request without them (R337, R338). A token is for one run of bytes: it ends before bytes that
another token has granted (log entry 110). -/
def HReq.take (h : HReq) : (Nat × Nat) × HReq :=
  let rs := h.open_
  let lo := (rs.map Prod.fst).foldl (fun a b => min a b) (max h.next h.r.upto)
  let e := min (runEnd rs rs.length lo) (lo + 4096)
  ((lo, e - lo), { h with
    next := if lo ≤ h.next then max h.next e else h.next
    regrant := h.regrant.filterMap (fun r =>
      if r.1 + r.2 ≤ lo ∨ e ≤ r.1 then some r else if r.1 + r.2 ≤ e then none else some (e, r.1 + r.2 - e)) })

/-- Changing a request. -/
def Mach.updReq (m : Mach) (order : Nat) (f : HReq → HReq) : Mach :=
  { m with hreqs := m.hreqs.map (fun h => if h.order = order then f h else h) }

/-- A request enters a Heddle. -/
def Mach.addReq (m : Mach) (die : Nat) (r : XferReq) (team : Option Nat) (held : Bool) : Mach :=
  { m with fresh := m.fresh + 1, hreqs := m.hreqs ++ [⟨die, r, r.sent, [], m.fresh, 0, team, none, held, [], none⟩] }

/-- The die of a destination (R338). -/
def Mach.destDie (m : Mach) (a : Acc) : Nat :=
  match a.sp with
  | .scr t => ((m.team? t).map (fun tm => dieOfCore tm.core)).getD 0
  | .pkg => dieOfFlat a.addr
  | _ => 0

/-- The team of a scratch destination. -/
def Acc.team (a : Acc) : Option Nat :=
  match a.sp with
  | .scr t => some t
  | _ => none

/-! ### Tokens (R338) -/

/-- The request a pool grants to first; none is eligible. -/
def Mach.firstReq (m : Mach) (die part : Nat) : Option HReq :=
  (m.hreqs.filter (fun h => h.die == die && h.r.part == part && m.eligible h)).foldl (fun (b : Option HReq) h => match b with
    | none => some h
    | some x => if x.before h then some x else some h) none

/-- TOKEN_GRANT (R338): a token for the first eligible request of a pool that holds one. -/
def tokenGrant (cf : Conf) (m : Mach) (die part : Nat) : Mach :=
  if poolSize cf die part ≤ (m.tokens.filter (fun k => k.die == die && k.part == part)).length then m
  else
    match m.firstReq die part with
    | none => m
    | some h =>
      let x := h.take
      let h' := { x.2 with slot := (m.slotFor h).getD none }
      let m := ((m.updReq h.order (fun _ => h')).addInbound h.team 4096).count die 0x0B (some part) 1
      { m with
        fresh := m.fresh + 1
        tokens := m.tokens ++ [⟨m.fresh, die, part, h.order, x.1.1, x.1.2, [], false, m.cyc, h.team⟩]
        net := m.net ++ [.grant h.r.src h.r.get ⟨h.r.xid, m.fresh, x.1.1, x.1.2⟩] }

/-- The bytes a token has received. -/
def Token.received (k : Token) : Nat := (k.got.map Prod.snd).sum

/-- A token returns to its pool; INBOUND falls by what it still holds there (R50). -/
def Mach.dropToken (m : Mach) (k : Token) : Mach :=
  ({ m with tokens := m.tokens.filter (fun x => x.id != k.id) } : Mach).addInbound k.team
    (-((4096 - k.received - (if k.ended then 4096 - k.len else 0) : Nat) : Int))

/-- The ranges of a token that have not arrived. -/
def Token.missing (k : Token) : List (Nat × Nat) :=
  let has (i : Nat) := k.got.any (fun r => decide (r.1 ≤ k.pos + i) && decide (k.pos + i < r.1 + r.2))
  ((List.range k.len).filter (fun i => !has i)).foldr (fun i rs => match rs with
    | (a, n) :: rest => if a = k.pos + i + 1 then (k.pos + i, n + 1) :: rest else (k.pos + i, 1) :: (a, n) :: rest
    | [] => [(k.pos + i, 1)]) []

/-- A token expires or is revoked: its missing bytes go back to its request (R338). -/
def Mach.returnToken (m : Mach) (k : Token) : Mach :=
  (m.dropToken k).updReq k.req (fun h => { h with regrant := h.regrant ++ k.missing })

/-- A request is dropped with its tokens. -/
def Mach.dropReq (m : Mach) (order : Nat) : Mach :=
  let m := (m.tokensOf order).foldl Mach.dropToken m
  { m with hreqs := m.hreqs.filter (fun h => h.order != order) }

/-- Requests whose every byte has arrived, none of it still to be delivered, are done; a drift message's stays until it has been judged (R117). -/
def Mach.tidyReqs (m : Mach) : Mach :=
  { m with hreqs := m.hreqs.filter (fun h => h.r.drift.isSome || h.ungranted != 0 || !(m.tokensOf h.order).isEmpty
      || m.late.any (fun p => p.src == h.r.src && p.xid == h.r.xid && p.get == h.r.get)) }

/-- The accounts of a packet under a token (R50, R338). -/
def Mach.tokenGot (m : Mach) (k : Token) (p : Packet) : Mach :=
  let n := p.data.length
  let ends := p.last && !k.ended
  let k' := { k with got := k.got ++ [(p.pos, n)], ended := k.ended || p.last }
  let m := ({ m with tokens := m.tokens.map (fun x => if x.id = k.id then k' else x) } : Mach).addInbound k.team
    (-((n + (if ends then 4096 - k.len else 0) : Nat) : Int))
  let m := m.updReq k.req (fun h => { h with expiries := 0 })
  if k.len ≤ k'.received then m.dropToken k' else m

/-- The accounts of a packet of the prefix (R50). -/
def Mach.prefixGot (m : Mach) (p : Packet) (t : Option Nat) : Mach :=
  match t with
  | none => m
  | some t =>
    let n := p.data.length
    match m.prefixed.find? (fun x => x.src == p.src && x.xid == p.xid) with
    | some x =>
      let d := min n x.left
      let m := m.addInbound (some x.team) (-(d : Int))
      { m with prefixed := if x.left ≠ 0 ∧ x.left = d then m.prefixed.filter (fun y => y != x)
          else m.prefixed.map (fun y => if y = x then { x with left := x.left - d } else y) }
    | none =>
      let left := p.pfxLen - n
      let m := m.addInbound (some t) left
      if left = 0 then m else { m with prefixed := m.prefixed ++ [⟨p.src, p.xid, t, left⟩] }

/-- The token of a packet, while it is outstanding and the packet's bytes are its own (R338). -/
def Mach.tokenOf (m : Mach) (p : Packet) (id : Nat) : Option Token :=
  match m.tokens.find? (fun k => k.id == id) with
  | none => none
  | some k =>
    let own := m.hreqs.any (fun h => h.order == k.req && h.r.src == p.src && h.r.xid == p.xid && h.r.get == p.get)
    let fits := decide (k.pos ≤ p.pos) && decide (p.pos + p.data.length ≤ k.pos + k.len) &&
      !(k.got.any (fun r => overlaps r.1 r.2 p.pos p.data.length))
    if own && fits then some k else none

/-- TOKEN_GRANT (R338). -/
def execTokenGrant (die part : Nat) (s : State) := onMach s (fun cf m => tokenGrant cf m die part)

end Sys2Proof.Machine
end

