-- ==== Sys2Proof/Machine/Drift.lean ====
section
/-!
DEFINITION. Drift messages between islands (R116–R118, R366): their bytes, how they are sealed, sent under tokens and sent again, and how they
arrive in a receive slot and are judged.
-/
namespace Sys2Proof.Machine

/-! ### Fields of a region (R108) and its message (R116) -/

/-- BFPM. -/
def Region.bfpm (rg : Region) : Nat := nbits (natAt rg.desc 0x28 8) 47 44
/-- PRIO of drift messages. -/
def Region.driftPrio (rg : Region) : Nat := nbits (natAt rg.desc 0x28 8) 58 56
/-- A base address at an offset: LBASE 0, ABASE 8, MBASE 16, SBASE 24, RBASE 32. -/
def Region.base (rg : Region) (off : Nat) : Nat := natAt rg.desc off 8 % 2 ^ 57
/-- The number of 32-weight blocks of a count. -/
def blocksOf (count : Nat) : Nat := (count + 31) / 32
/-- The bytes of a message (R116). -/
def msgLen (m count : Nat) : Nat := 32 + blocksOf count * (1 + 4 * m)
/-- The bytes of a receive slot (R116): those of a message of a full fragment, for every slot (a choice of the model: log entry 113). -/
def Region.slotLen (rg : Region) : Nat := (msgLen rg.bfpm rg.F + 255) / 256 * 256
/-- The address of slot j of island i (R117). -/
def Region.slotAt (rg : Region) (i j : Nat) : Nat := rg.base 32 + (i * rg.rxdepth + j) * rg.slotLen
/-- The membership in force for a round (R133). -/
def Region.member (rg : Region) (r : Nat) : Member := (rg.members.reverse.find? (fun k => decide (k.reff ≤ r))).getD ⟨0, 0, 0, []⟩

/-- A message's bytes (R116). -/
def driftBytes (d : Drift) : List Byte :=
  leBytes 4 d.tag ++ leBytes 4 d.round ++ leBytes 4 d.frag ++ leBytes 1 d.island ++ leBytes 1 d.m ++ [0, 0] ++ leBytes 8 d.nsq
    ++ leBytes 4 d.count ++ [0, 0, 0, 0] ++ d.exps ++ d.mants

/-- The message of some bytes (R116). -/
def driftOfBytes (bs : List Byte) : Drift :=
  let n := blocksOf (natAt bs 0x18 4)
  ⟨natAt bs 0 4, natAt bs 4 4, natAt bs 8 4, natAt bs 0xC 1, natAt bs 0xD 1, natAt bs 0x10 8, natAt bs 0x18 4, (bs.drop 0x20).take n, (bs.drop 0x20).drop n⟩

/-! ### The island transport (R366) -/

/-- The number of an island on the transport, from its address and port (R132): above every device number. -/
def islandNo (addr port : Nat) : Nat := 2 ^ 13 + addr * 2 ^ 16 + port

/-- The transport number of a member island (R132). -/
def Member.islandNo (k : Member) (i : Nat) : Nat :=
  let e := k.islands.getD i []
  Sys2Proof.Machine.islandNo (natAt e 0 16) (natAt e 16 2)

/-- The nonce of a message: its counter, then the sending island's index (R366). -/
def islandNonce (counter self : Nat) : Nat := counter * 2 ^ 32 + self

/-- The keys shared with an island. -/
def Mach.islandKey (m : Mach) (peer : Nat) : IslandKey := (m.dev.islands.find? (fun k => k.peer == peer)).getD ⟨peer, none, 0, none, []⟩
/-- Replacing them. -/
def Mach.setIslandKey (m : Mach) (k : IslandKey) : Mach :=
  { m with dev := { m.dev with islands := k :: m.dev.islands.filter (fun x => x.peer != k.peer) } }

/-! ### Sending (R116–R118, R366) -/

/-- The request of a message, for all its bytes: no prefix (R117). -/
def DSend.request (s : DSend) : NetMsg :=
  .request s.peer ⟨s.own, s.xid, s.part, 0, s.cipher.length, 0, s.cipher.length, s.prio, false, some (s.die, s.m.tag, s.self)⟩

/-- Whether a key can seal one more message: no counter takes the value 2^64 − 1 (R366). -/
def IslandKey.maySend (k : IslandKey) : Bool := k.out.isSome && decide (k.counter < 2 ^ 64 - 1)

/-- KEYHOLD shows the dies of which an outgoing direction holds: of a Fexel port, or of the island transport for want of counters (R361, R365, R366). -/
def Mach.showHold (m : Mach) : Mach :=
  let holds (d : Nat) : Bool := m.dev.ports.any (fun x => x.n / 9 == d && !x.locked && !x.out.hold.isEmpty)
    || m.driftSent.any (fun s => s.die == d && s.sealed.isNone && (m.islandKey s.peer).out.isSome)
  { m with dev := { m.dev with keyhold := BitVec.ofNat 4 ((List.range 4).map (fun d => if holds d then 2 ^ d else 0)).sum } }

/-- A message is sealed under the next counter of its key and its bytes are asked for; without a key that can, it is held, and the first held for want of counters raises
KEY-EXHAUSTED and AMSIX (R361, R365, R366). -/
def Mach.startDrift (m : Mach) (s : DSend) : Mach :=
  let k := m.islandKey s.peer
  if k.maySend then
    let nonce := islandNonce k.counter s.self
    let cipher := gcmCrypt (k.out.getD []) nonce 0 (driftBytes s.m)
    let s := { s with xid := m.fresh, cipher := cipher, sealed := some ⟨k.counter, Config.gcmTag (k.out.getD []) nonce cipher⟩, tokens := [], acked := 0 }
    (({ m with fresh := m.fresh + 1, net := m.net ++ [s.request], driftSent := m.driftSent ++ [s] } : Mach).setIslandKey { k with counter := k.counter + 1 }).showHold
  else
    let first := k.out.isSome && !m.driftSent.any (fun x => x.peer == s.peer && x.sealed.isNone)
    let m := ({ m with driftSent := m.driftSent ++ [{ s with cipher := [], sealed := none, tokens := [], acked := 0 }] } : Mach).showHold
    if first then ({ m with net := m.net ++ [.keyExhausted (.island s.peer true s.self 0)] } : Mach).raise m.dev.amsix else m

/-- A drift message leaves for a member island (R116). -/
def Mach.sendDrift (m : Mach) (rg : Region) (island : Nat) (d : Drift) : Mach :=
  let mb := rg.member d.round
  m.startDrift ⟨0, mb.islandNo island, mb.islandNo mb.self, mb.self, rg.p, rg.dieOf d.frag, rg.driftPrio, d, none, [], [], 0⟩

/-- A message is no longer being sent. -/
def Mach.dropDrift (m : Mach) (s : DSend) : Mach := { m with driftSent := m.driftSent.erase s }

/-- SPINDLE_RESEND (R118): the same bytes go again, under a fresh counter. -/
def Mach.resendDrift (m : Mach) (s : DSend) : Mach := (m.dropDrift s).startDrift s

/-- The messages held for an island go out, in order, once it has a key (R365, R366). -/
def Mach.sendHeldDrift (m : Mach) (peer : Nat) : Mach :=
  (m.driftSent.filter (fun s => s.peer == peer && s.sealed.isNone)).foldl (fun m s => if (m.islandKey peer).maySend then m.resendDrift s else m) m

/-- The message of this device that a transfer is. -/
def Mach.driftOf (m : Mach) (xid : Nat) : Option DSend := m.driftSent.find? (fun s => s.sealed.isSome && s.xid == xid)

/-- The packets of a granted range leave (R117, R337). -/
def Mach.grantDrift (m : Mach) (s : DSend) (g : Grant) : Mach :=
  { m with
    driftSent := m.driftSent.map (fun x => if x = s then { s with tokens := s.tokens ++ [g.token] } else x)
    net := m.net ++ (List.range ((g.len + 1023) / 1024)).map (fun i =>
      let n := min 1024 (g.len - 1024 * i)
      let pos := g.pos + 1024 * i
      .packet s.peer ⟨s.own, s.xid, s.part, 0, pos, s.cipher.length, bytesAt s.cipher pos n, none, some g.token, 0, decide (s.cipher.length ≤ pos + n),
        false, s.sealed⟩) }

/-- An answer to a drift message: its bytes have landed; it is whole at the other island; or, orphaned or with a token revoked, it goes again (R118). -/
def driftAck (m : Mach) (a : XferAck) : Mach :=
  match m.driftOf a.xid with
  | none => m
  | some s =>
    match a.status, a.packet with
    | .ok, true => { m with driftSent := m.driftSent.map (fun x => if x = s then { s with acked := s.acked + a.bytes } else x) }
    | .orphan, _ | .revoked, _ => m.resendDrift s
    | _, _ => m.dropDrift s

/-- A token under which a message was sent is revoked: its request is withdrawn and it goes again (R118). -/
def driftRevoked (m : Mach) (dev token : Nat) : Mach :=
  (m.driftSent.filter (fun s => s.peer == dev && s.tokens.contains token)).foldl (fun m s =>
    ({ m with net := m.net ++ [.withdraw s.peer s.xid] } : Mach).resendDrift s) m

/-! ### Arriving (R117) -/

/-- The answer to a packet. -/
def Mach.ackPacket (m : Mach) (p : Packet) (pos n : Nat) (st : Status) (sub : Nat) : Mach :=
  { m with net := m.net ++ [.ack p.src ⟨p.xid, true, pos, n, st, sub⟩] }

/-- The bytes of a packet of a drift message land in the slot reserved for it, and there only (R117); or they must wait. -/
def driftLand (cf : Conf) (m : Mach) (p : Packet) (h : HReq) : AgentR × Mach :=
  match h.r.drift, h.slot, (m.islandKey p.src).inn, p.sealed with
  | some (die, tag, island), some j, some key, some s =>
    match m.tagRegion h.r.part tag with
    | some rg =>
      if rg.members.any (fun k => decide (island < k.count)) then
        agentWrite cf m (.die die .batten) (.agent die .batten) rg.p rg.x .batten true (rg.slotAt island j + p.pos)
          ((gcmCrypt key (islandNonce s.counter island) p.pos p.data).take (rg.slotLen - p.pos))
      else (.ok [], m)
    | none => (.ok [], m)
  | _, _, _, _ => (.ok [], m)

/-- A packet of a drift message lands and is accounted for, and what has come is kept for its tag (R117, R366); while its bytes must wait it has not arrived. -/
def driftPacket (cf : Conf) (m : Mach) (p : Packet) (k : Token) (h : HReq) : Mach :=
  match driftLand cf m p h with
  | (.wait, _) => m
  | (_, n) =>
    ((n.tokenGot k p).updReq h.order (fun h => { h with
      cipher := h.cipher ++ [(p.pos, p.data)], sealed := match p.sealed with
        | some s => some s
        | none => h.sealed })).ackPacket p p.pos p.data.length .ok 0

/-- Whether a message at a die contributes (R117, R133); a second copy of a contribution does not, nor one that bears this island's number.
The sender is the island its message names; where the message came from is not compared with the record (a choice of the model: log entry 112). -/
def driftGood (rg : Region) (die : Nat) (d : Drift) : Bool :=
  let mb := rg.member d.round
  let fr := rg.frag d.frag
  decide (d.frag < rg.nf) && rg.dieOf d.frag == die && decide (d.island < mb.count) && d.island != mb.self && decide (fr.folded ≤ d.round)
    && d.m == rg.bfpm && d.count == rg.count d.frag && d.exps.length == blocksOf d.count && d.mants.length == 4 * d.m * blocksOf d.count
    && !(rg.contribs.any (fun k => k.island == d.island && k.frag == d.frag && k.round == d.round))

/-- A piece takes its place among pieces in ascending offset. -/
def insertPiece (x : Nat × List Byte) : List (Nat × List Byte) → List (Nat × List Byte)
  | [] => [x]
  | y :: ys => if x.1 ≤ y.1 then x :: y :: ys else y :: insertPiece x ys

/-- The bytes of a message from its pieces. -/
def joinPieces (ps : List (Nat × List Byte)) : List Byte := (ps.foldr insertPiece []).flatMap Prod.snd

/-- The plaintext of a message that has arrived, and its counter: its tag is right and its counter new (R366). -/
def Mach.openDrift (m : Mach) (h : HReq) (island : Nat) : Option (Nat × List Byte) :=
  let k := m.islandKey h.r.src
  match k.inn, h.sealed with
  | some key, some s =>
    let cipher := joinPieces h.cipher
    let nonce := islandNonce s.counter island
    if Config.gcmTag key nonce cipher = s.tag ∧ !k.seen.contains s.counter then some (s.counter, gcmCrypt key nonce 0 cipher) else none
  | _, _ => none

/-- A message that bears a contribution keeps its slot and is noted; any other is discarded and counted, which frees the slot (R117). -/
def Mach.keepDrift (m : Mach) (h : HReq) (die tag island : Nat) (d : Drift) : Mach :=
  match m.tagRegion h.r.part tag, h.slot with
  | some rg, some j =>
    if d.tag = tag ∧ d.island = island ∧ driftGood rg die d then
      m.updRegion rg.r (fun g => { g with
        contribs := g.contribs ++ [⟨d.island, d.frag, d.round, d, some j⟩]
        silentSeen := g.silentSeen.filter (fun i => i != d.island) })
    else m.count die 0x0E (some h.r.part) 1
  | _, _ => m.count die 0x0E (some h.r.part) 1

/-- DRIFT_MESSAGE_ARRIVAL (R117, R366): a message whose every byte has arrived is judged. One whose tag fails, or whose counter has been accepted, is counted, and its
bytes are granted again. -/
def driftMessageArrival (m : Mach) (src xid : Nat) : Mach :=
  match m.hreqs.find? (fun h => h.r.src == src && h.r.xid == xid && h.r.drift.isSome && h.ungranted == 0 && (m.tokensOf h.order).isEmpty) with
  | none => m
  | some h =>
    match h.r.drift with
    | none => m
    | some (die, tag, island) =>
      match m.openDrift h island with
      | none => (m.updReq h.order (fun h => { h with regrant := [(0, h.r.len)], slot := none, cipher := [], sealed := none })).count die 0x10 none 1
      | some (counter, text) =>
        let k := m.islandKey h.r.src
        let m := m.setIslandKey { k with seen := counter :: k.seen }
        ({ m with
          hreqs := m.hreqs.filter (fun x => x.order != h.order)
          net := m.net ++ [.ack h.r.src ⟨h.r.xid, false, 0, 0, .ok, 0⟩] } : Mach).keepDrift h die tag island (driftOfBytes text)

/-- DRIFT_MESSAGE_ARRIVAL (R117). -/
def execDriftMessageArrival (src xid : Nat) (s : State) := onMach s (fun _ m => driftMessageArrival m src xid)

end Sys2Proof.Machine
end

