-- ==== Sys2Proof/Machine/Fabric.lean ====
section
/-!
DEFINITION. The fabric at its target and its issuer: arriving accesses and answers (R33, R34, R106, R179), arriving packets (R92, R337) and what
becomes of their requests and tokens (R338, R339), and the sender's side of a transfer.
-/
namespace Sys2Proof.Machine

/-! ### Accesses at the target (R33, R106) -/

/-- The bytes an access touches. -/
def accSize : FabAcc → Nat
  | .read n => n
  | .write bs => bs.length
  | .atom _ dbl _ _ => if dbl then 8 else 4
  | .cinc _ => 8

/-- The class of an access. -/
def accCls : FabAcc → Cls
  | .read _ => .read
  | .write _ => .write
  | _ => .atomic

/-- An access performed at its home: the bytes it answers; `sync` marks a synchronising write of core scope (R80). -/
def Mach.atHome (m : Mach) (pt? : Option Part) (a : Acc) (va : Nat) (k : FabAcc) (sync : Bool) : List Byte × Mach :=
  let old := readAcc .direct m pt? a va (accSize k)
  let put (bs : List Byte) : Mach := m.deliver ⟨0, a.sp, a.addr, bs, .plain, a.tag, sync, 0, 0, 0⟩
  match k with
  | .read _ => old
  | .write bs => ([], put bs)
  | .atom op dbl cmp b => (old.1, match atomBytes op dbl cmp b old.1 with
    | some bs => put bs
    | none => m)
  | .cinc inc => (old.1, put (leBytes 8 (countAdd (leNat old.1) inc false)))

/-- What becomes of a request: answers to its accesses, or it is held for a saved allocation (R179), or while a bank refreshes (R58) or no walker serves it (R20). -/
inductive Perf where
  | done (rs : List (Nat × FabRes))
  | held
  | busy
deriving DecidableEq, Repr

/-- The accesses of a request through the windows, none performed. -/
def fabPlaces (cf : Conf) (m : Mach) (r : FabReq) : List (Nat × FabAcc × WinR) × Mach :=
  r.accs.foldl (fun x a => let w := winAccess cf x.2 r.part a.2.1 (accSize a.2.2) (accCls a.2.2); (x.1 ++ [(a.1, a.2.2, w.1)], w.2)) ([], m)

/-- The refusal of an access; a read of a poisoned unit is answered so that the issuer stops or faults (R379). -/
def refusalOf (m : Mach) (pt? : Option Part) (k : FabAcc) : WinR → Option FabRes
  | .here a va _ => if accCls k != .write && poisonedAcc m pt? a va (accSize k) then some (.refused 0 0) else none
  | .refused c s => some (.refused c s)
  | .stale => some .stale
  | .saved _ | .busy => none

/-- Accesses at their locations: each one's number, what it does, its location and its virtual address. -/
abbrev Placed1 := Nat × FabAcc × Acc × Nat

/-- The agent that counts the delay of a request (R377). -/
def reqOwner (r : FabReq) : TlbOwner × Nat := (.agent 0 .heddle, r.src * 2 ^ 64 + r.xid)

/-- Accesses at their locations are performed in order, in one step; they wait while a bank refreshes (R58), and a poisoned unit refuses them all (R379). -/
def performAt (m : Mach) (pt? : Option Part) (r : FabReq) (xs : List Placed1) : Perf × Mach :=
  let who := reqOwner r
  match xs.find? (fun x => m.bankBusy pt? x.2.2.1) with
  | some x => (.busy, m.delay who.1 who.2 pt? x.2.2.1)
  | none =>
    let bad (x : Placed1) : Option FabRes := refusalOf m pt? x.2.1 (.here x.2.2.1 x.2.2.2 none)
    if xs.any (fun x => (bad x).isSome) then (.done (xs.map (fun x => (x.1, (bad x).getD (.ok [])))), m)
    else
      let y := xs.foldl (fun (y : List (Nat × FabRes) × Mach) x => let z := y.2.atHome pt? x.2.2.1 x.2.2.2 x.2.1 r.sync; (y.1 ++ [(x.1, .ok z.1)], z.2))
        ([], m.undelay who.1 who.2)
      (.done y.1, y.2)

/-- Whether a location is a saved team's. -/
def Mach.inSaved (m : Mach) : Space → Bool
  | .scr t => (m.team? t).any m.isSaved
  | _ => false

/-- A request through the windows: performed in order, or, where one access is refused, none of them (R19); with `only`, noted to be performed when the issuer says so. -/
def fabThrough (cf : Conf) (m : Mach) (r : FabReq) (only : Bool) : Perf × Mach :=
  let x := fabPlaces cf m r
  let pt? := cf.part? r.part
  let is (f : WinR → Bool) : Bool := x.1.any (fun a => f a.2.2)
  let xs : List Placed1 := x.1.filterMap (fun a => match a.2.2 with
    | .here ac va _ => some (a.1, a.2.1, ac, va)
    | _ => none)
  if is (fun w => match w with
    | .saved _ => true
    | _ => false) then (.held, m)
  else if is (fun w => w == .busy) then (.busy, m)
  else if x.1.any (fun a => (refusalOf x.2 pt? a.2.1 a.2.2).isSome) then
    (.done (x.1.map (fun a => (a.1, (refusalOf x.2 pt? a.2.1 a.2.2).getD (.ok [])))), x.2)
  else if only then (.done (xs.map (fun a => (a.1, .ok []))), { x.2 with vows := x.2.vows ++ [⟨r.src, r.xid, r.part, xs⟩] })
  else performAt x.2 pt? r xs

/-- The accesses of a vow that a request has performed now: those it names, and the others that meet a location of these, which one step takes with them (R276). -/
def Vow.due (v : Vow) (r : FabReq) : List Placed1 :=
  let named := v.accs.filter (fun x => r.accs.any (fun a => a.1 == x.1))
  v.accs.filter (fun x => named.any (fun y => y.2.2.1.sp == x.2.2.1.sp && overlaps y.2.2.1.addr (accSize y.2.1) x.2.2.1.addr (accSize x.2.1)))

/-- Some accesses of a vow have been performed. -/
def Mach.keepVow (m : Mach) (v : Vow) (ns : List Nat) : Mach :=
  { m with vows := m.vows.filterMap (fun u =>
      if u.src = v.src ∧ u.xid = v.xid then (let as := u.accs.filter (fun x => !ns.contains x.1); if as.isEmpty then none else some { u with accs := as }) else some u) }

/-- A request at its target: performed or refused whole, checked, or performed as it has been checked; a vow that a reset or a new partition record has ended is checked
anew (log entry 26). -/
def fabPerform (cf : Conf) (m : Mach) (r : FabReq) : Perf × Mach :=
  match r.phase with
  | .drop => (.done [], m.forget r.src r.xid)
  | .check => fabThrough cf m r true
  | .whole => fabThrough cf m r false
  | .commit =>
    match m.vows.find? (fun v => v.src == r.src && v.xid == r.xid) with
    | none => fabThrough cf m r false
    | some v =>
      if (v.due r).any (fun x => m.inSaved x.2.2.1.sp) then (.held, m)
      else match performAt m (cf.part? r.part) r (v.due r) with
        | (.done rs, m) => (.done rs, m.keepVow v (rs.map Prod.fst))
        | x => x

/-- FABRIC_ACCESS_ARRIVAL (R33): performed, checked, refused, or held while its allocation is saved or what it needs is busy. -/
def fabricAccessArrival (cf : Conf) (m : Mach) (r : FabReq) : Mach :=
  if r.target ≠ cf.device.toNat then m
  else
    match fabPerform cf m r with
    | (.done rs, m) => if r.phase = .drop then m else { m with net := m.net ++ [.answer r.src ⟨r.xid, rs⟩] }
    | (_, m) => { m with parked := m.parked ++ [r] }

/-! ### Answers at the issuer (R34) -/

/-- The units that answers have brought from other devices. -/
def FabPend.units (p : FabPend) (part : Nat) : List (Space × Nat × List Byte) :=
  (p.asks.zip p.results).filterMap (fun x => match x.1.2, x.2.2 with
    | .fab d off, .ok bs => if bs.length = 16 then some (.fab d part, off / 16, bs) else none
    | _, _ => none)

/-- Something is done with the units of some answers at hand; copies of them are left only at the points where the read may still leave them (R71, R73). -/
def Mach.withUnits (m : Mach) (p : FabPend) (part : Nat) (go : Mach → Mach) : Mach :=
  let m' := go { m with away := p.units part }
  { m' with away := [], copies := m'.copies.filter (fun c => !isFab c.sp || m.copies.contains c || p.inst.contains c.pt) }

/-- The path of an access to another device keeps no older copy of its bytes (R75, R81). -/
def Mach.uncopyPath (m : Mach) (leaf : Point) (sp : Space) (addr n : Nat) : Mach :=
  (m.path leaf sp).foldl (fun m p => m.uncopy p sp addr n) m

/-- The results of an instruction's atomics, all of them performed; the path keeps no older copy of what lies on other devices (R75, R81). -/
def fabAtoms (m : Mach) (c : Ctx) (p : FabPend) (sc : Scope) : List (Nat × List Byte) × Mach :=
  (p.asks.zip p.results).foldl (fun r x => match x.1.2, x.2.2 with
    | .here _ _, .ok bs => (r.1 ++ [(x.1.1.lane, bs)], r.2)
    | .fab d off, .ok bs =>
      let sp : Space := .fab d c.la.p
      (r.1 ++ [(x.1.1.lane, bs)], (r.2.uncopyPath c.leaf sp off x.1.1.n).markCore c.leaf (if synch sc then scopeLevel sc else 0)
        ⟨0, sp, off, List.replicate x.1.1.n 0, .plain, none, false, 0, 0, 0⟩)
    | _, _ => r) ([], m)

/-- A waiting instruction whose every access was accepted completes with the answers; the reads of its lanes are one step (R66, R273, R276). A remote acquire promotes
now what has reached the points since it was issued (R80). -/
def fabComplete (cf : Conf) (m : Mach) (c : Ctx) (w : Wait) (p : FabPend) : Mach :=
  let r := c.f.ref
  let reads (way : Way) (go : List (Nat × List Byte) → Mach → Mach) : Mach :=
    m.withUnits p c.la.p (fun m => let x := readLanes cf m way c.la.p p.asks; go x.1 x.2)
  match w.i with
  | .ld sz sc d _ _ => (m.before c.leaf c.la.p sc true false p.asks).withUnits p c.la.p (fun m =>
    let x := readLanes cf m (loadWay c.leaf sc) c.la.p p.asks
    (x.2.after c.leaf sc true).completeWait r (loadWrites sz d x.1) (lowWords x.1))
  | .atom _ sc dbl d _ =>
    let x := fabAtoms (m.before c.leaf c.la.p sc true false p.asks) c p sc
    (x.2.after c.leaf sc true).completeWait r (loadWrites (if dbl then .d else .w) d x.1) (lowWords x.1)
  | .cwait _ _ _ _ | .cwaitt _ _ _ _ => cwAnswer cf m c w p.asks (leNat (p.results.flatMap (fun x => match x.2 with
    | .ok bs => bs
    | _ => [])))
  | .cinc sc d _ _ =>
    let x := fabAtoms m c p (ciScope sc)
    let v := leNat (x.1.flatMap Prod.snd)
    (x.2.after c.leaf (ciScope sc) true).completeWait r (pairWrites d (c.each (BitVec.ofNat 64 v))) (c.each (BitVec.ofNat 32 v))
  | .cbld _ => reads (.plain c.leaf) (fun vals m => (m.setCodebook r.t r.g (vals.flatMap Prod.snd)).completeWait r [] [])
  | .tmtab _ slot => reads (.plain c.leaf) (fun vals m =>
    let bytes := vals.flatMap Prod.snd
    Mach.resolve cf c (if pairOkImg bytes then .done (m.setPair c.tm.core slot bytes) [] .seq else .trap m 0x0E 0 0 c.f.pred))
  | .tcopy pack fl a => reads (.plain c.leaf) (fun vals m => Mach.resolve cf c (tcopyEnter cf m c pack fl a p.blk (vals.flatMap Prod.snd)))
  | .tcopyColl a => reads (.plain c.leaf) (fun vals m => Mach.resolve cf c (collEnter cf m c a p.blk (vals.flatMap Prod.snd)))
  | _ => m

/-- An instruction that waits for other devices ends at its refused lanes: the precise trap of the lowest (R23, R34), or, at a poisoned unit, the stop of its launch
(R379). One that may not trap now issues again when it may. -/
def lanesRefused (cf : Conf) (m : Mach) (c : Ctx) (bad : List (Nat × DWord × Nat × Nat)) : Mach :=
  match bad with
  | [] => m
  | (_, a, cause, sub) :: _ =>
    if cause = 0 then m.stopLaunch cf c.f.ref.t c.f.ref.g 0
    else if m.barred c.f then m.askAgain c.f.ref
    else m.takeTrap cf c ⟨cause, sub, a, maskOf (bad.map Prod.fst), false, true⟩

/-- The instruction that waits for an access in progress. -/
def Mach.askerOf (m : Mach) (p : FabPend) : Option (Ctx × Wait) :=
  (ctxOf m p.ref).bind (fun c => c.f.wait.bind (fun w => if w.why = .fabric p.xid then some (c, w) else none))

/-- Every answer of a load, an atomic or a count word is there: it completes, or it is refused. A read is made again where a write of this device has reached one of its
homes since they were asked (R66, R81). -/
def loadAnswered (cf : Conf) (m : Mach) (p : FabPend) : Mach :=
  match m.askerOf p with
  | none => m
  | some (c, w) =>
    if !p.refusals.isEmpty then lanesRefused cf m c p.refusals
    else if readsPoison m (cf.part? c.la.p) p.asks then m.stopLaunch cf p.ref.t p.ref.g 0
    else if p.stale && p.atom.isNone then m.askAgain p.ref
    else fabComplete cf m c w p

/-! ### Atomics at several homes (R19, R23, R83, R276) -/

/-- The accesses not performed yet. -/
def FabPend.left (p : FabPend) : List Nat := (List.range p.asks.length).filter (fun i => !p.answers.any (fun a => a.1 == i))

/-- The places of some accesses. -/
def FabPend.at_ (p : FabPend) (ns : List Nat) : List (Nat × Req × Place) := ns.filterMap (fun i => (p.asks[i]?).map (fun q => (i, q)))

/-- Whether two places have one home: one other device, or this one. -/
def sameHome : Place → Place → Bool
  | .here _ _, .here _ _ => true
  | .fab d _, .fab e _ => d == e
  | _, _ => false

/-- Whether two accesses of this device meet. -/
def meetHere (a b : Req × Place) : Bool :=
  match a.2, b.2 with
  | .here x _, .here y _ => x.sp == y.sp && overlaps x.addr a.1.n y.addr b.1.n
  | _, _ => false

/-- The accesses performed next, in lane order: those from the first that is left on that have its home, and on this device the others that meet one of these (R83,
R276). -/
def FabPend.nextRun (p : FabPend) : List (Nat × Req × Place) :=
  match p.at_ p.left with
  | [] => []
  | x :: xs =>
    let run := x :: xs.takeWhile (fun y => sameHome x.2.2 y.2.2)
    run ++ (xs.dropWhile (fun y => sameHome x.2.2 y.2.2)).filter (fun y => run.any (fun z => meetHere z.2 y.2))

/-- The atomics of some lanes of this device, in lane order, in one step. -/
def atomsHere (m : Mach) (p : FabPend) (op : AtomOp) (sc : Scope) (dbl : Bool) (run : List (Nat × Req × Place)) : List (Nat × FabRes) × Mach :=
  let leaf : Point := .group p.ref.t p.ref.g
  run.foldl (fun r x => match x.2.2 with
    | .here a _ => let y := atomLane leaf op sc dbl (opndAt p.blk x.1) r.2 x.2.1 a; (r.1 ++ [(x.1, .ok y.1)], y.2)
    | .fab _ _ => r) ([], m.before leaf 0 sc true false (run.map Prod.snd))

/-- The request that has some checked lanes performed at their home. -/
def commitReq (cf : Conf) (p : FabPend) (part : Nat) (op : AtomOp) (sc : Scope) (dbl : Bool) (d : Nat) (run : List (Nat × Req × Place)) : FabReq :=
  ⟨cf.device.toNat, d, p.xid, part, run.filterMap (fun x => match x.2.2 with
    | .fab _ off => let o := opndAt p.blk x.1; some (x.1, off, .atom op dbl o.1 o.2)
    | .here _ _ => none), .commit, sc == .core⟩

/-- A lane of an instruction's atomics is refused: every target forgets what it has checked of them, and the instruction ends so. -/
def atomsRefused (cf : Conf) (m : Mach) (p : FabPend) : Mach :=
  let m := m.dropChecks cf.device.toNat p
  match m.askerOf p with
  | some (c, _) => lanesRefused cf m c p.refusals
  | none => m

/-- An instruction whose atomics every home has accepted performs them, home by home in lane order, until it waits for another device or is complete (R83, R276). One whose
group has ended performs them too. -/
def atomGo (cf : Conf) (op : AtomOp) (sc : Scope) (dbl : Bool) : Nat → Mach → FabPend → Mach
  | 0, m, _ => m
  | k + 1, m, p =>
    let part := (m.teamPart p.ref.t).getD 0
    let wait (m : Mach) (p : FabPend) : Mach := { m with fabPend := m.fabPend ++ [p] }
    match p.nextRun with
    | [] => match m.askerOf p with
      | some (c, w) => fabComplete cf m c w p
      | none => m
    | x :: xs =>
      let run := x :: xs
      match x.2.2 with
      | .here _ _ =>
        if (m.refreshWait (cf.part? part) (run.map (fun y => y.2.2))).isSome then wait m { p with awaits := [] }
        else if readsPoison m (cf.part? part) (run.map Prod.snd) then atomsRefused cf m { p with answers := p.answers ++ run.map (fun y => (y.1, .refused 0 0)) }
        else
          let y := atomsHere m p op sc dbl run
          atomGo cf op sc dbl k y.2 { p with answers := p.answers ++ y.1 }
      | .fab d _ =>
        let r := commitReq cf p part op sc dbl d run
        let p := { p with awaits := run.map Prod.fst }
        if d = cf.device.toNat then
          match fabPerform cf m r with
          | (.done rs, m) =>
            let p := { p with answers := p.answers ++ rs }
            if !p.refusals.isEmpty then atomsRefused cf m p else atomGo cf op sc dbl k m p
          | (_, m) => wait { m with parked := m.parked ++ [r] } p
        else wait { m with net := m.net ++ [.access r] } p

/-- Answers about an instruction's atomics at several homes: every lane accepted, they are performed; one refused, none is; and so on while they are performed. -/
def atomsAnswered (cf : Conf) (m : Mach) (p : FabPend) (op : AtomOp) (sc : Scope) (dbl : Bool) : Mach :=
  if p.refusals.isEmpty then
    atomGo cf op sc dbl (p.asks.length + 1) m (if p.phase = .check then { p with phase := .commit, answers := [], awaits := [] } else p)
  else atomsRefused cf m p

/-- The unit of work of a command that reads generic addresses. -/
def engineUnit (cmd : Cmd) : Conf → Mach → OpCtx → Option Mach :=
  match cmd with
  | .mma _ _ _ _ _ _ => mmaUnit
  | .drain _ _ _ _ => drainUnit
  | .tcopy _ _ _ _ _ => tcopyUnit
  | .coll _ _ _ => collUnit .quiet
  | .dcjob _ _ => dcUnit
  | .prolog _ => prologUnit
  | .xsort _ => sortUnit
  | _ => fun _ _ _ => none

/-- Every answer of a read by an operation is there: the access it stands at is made, or the operation ends (R24, R34). It asks again where a write of this device has
reached one of its homes since (R66, R81). -/
def opAnswered (cf : Conf) (m : Mach) (p : FabPend) (t : Nat) (k : EngCtx) (n : Nat) : Mach :=
  match m.ops.find? (fun o => o.t == t && o.k == k && o.n == n && o.fin.isNone) with
  | none => m
  | some o =>
    match opCtx m o, p.refusals with
    | none, _ => m
    | some oc, [] => if p.stale then m else m.withUnits p oc.la.p (Mach.work cf t k (engineUnit o.cmd) 1)
    | some oc, (_, a, cause, sub) :: _ =>
      let a := if cause = 0 then BitVec.ofNat 64 (a.toNat / 16 * 16) else a
      match o.cmd with
      | .dcjob _ _ => dcStop cf m oc o.prog 4 sub a
      | _ => m.finishBad o sub a

/-- Whether the answers are there that an access in progress goes on with. -/
def FabPend.answered (p : FabPend) : Bool :=
  if p.phase = .commit then p.awaits.all (fun i => p.answers.any (fun a => a.1 == i)) else p.answers.length == p.asks.length

/-- A read, an atomic or a count word in progress whose answers are there goes on, once no bank that it reads here refreshes (R58). -/
def readsAnswered (cf : Conf) (m : Mach) (xid : Nat) : Mach :=
  match m.fabPend.find? (fun p => p.xid == xid && !p.store && p.answered) with
  | none => m
  | some p =>
    let m' : Mach := { m with fabPend := m.fabPend.filter (fun x => x.xid != p.xid) }
    match p.phase, p.atom with
    | .whole, _ | _, none =>
      if (m.refreshWait (cf.part? ((m.teamPart p.ref.t).getD 0)) (p.asks.map Prod.snd)).isSome then m
      else match p.op with
        | some (t, k, n) => opAnswered cf m' p t k n
        | none => loadAnswered cf m' p
    | _, some (op, sc, dbl) => atomsAnswered cf m' p op sc dbl

/-- An answer is noted: a write on its way is delivered or discarded (R34, R71). -/
def Mach.takeAnswer (m : Mach) (xid num : Nat) (res : FabRes) : Mach :=
  if m.bufs.any (fun e => e.go == .away && e.w.xid == xid && e.w.num == num) then m.answered xid num res
  else (m.noteAnswer xid num res).storesAnswered

/-- FABRIC_ANSWER (R34): the answers of one request. -/
def fabricAnswer (cf : Conf) (m : Mach) (a : FabAns) : Mach :=
  readsAnswered cf (a.res.foldl (fun m r => m.takeAnswer a.xid r.1 r.2) m).endDrains a.xid

/-- A request that this device has made of itself is answered at once (R179). -/
def ownArrival (cf : Conf) (m : Mach) (r : FabReq) : Mach :=
  match fabPerform cf m r with
  | (.done rs, m) => fabricAnswer cf m ⟨r.xid, rs⟩
  | _ => { m with parked := m.parked ++ [r] }

/-- The held accesses whose allocations are back are performed (R179). -/
def Mach.unpark (cf : Conf) (m : Mach) : Mach :=
  let rs := m.parked
  rs.foldl (fun m r => if r.src = cf.device.toNat then ownArrival cf m r else fabricAccessArrival cf m r) { m with parked := [] }

/-! ### Transfers of this device -/

/-- The operation of a transfer of this device. -/
def Mach.xferOp (m : Mach) (xid : Nat) : Option Op := m.ops.find? (fun o => o.fin.isNone && o.xfer.any (fun x => x.xid == xid))

/-- The description of a send, an armed send or an XGET. -/
def xferDesc (o : Op) : Option XDesc :=
  match o.cmd with
  | .xput b => some (descOf b)
  | .xarm b _ _ => some (descOf b)
  | .xget b => some (descOf b)
  | _ => none

/-- The address of a message offset at the destination; the end names the arrival counter. -/
def XDesc.addrAt (d : XDesc) (pos : Nat) : DWord := BitVec.ofNat 64 (if pos = d.len ∧ d.actr ≠ 0 then d.actr else d.dst + pos)

/-- The unscheduled prefix of a message (R335, R337). -/
def XDesc.prefixLen (d : XDesc) : Nat := min d.len (if d.pfx = 0xFF then 4096 else d.pfx * 1024)

/-- An own XGET ends: its request and tokens go, and what has arrived of it and not been delivered. -/
def Mach.endGet (m : Mach) (o : Op) (xid status sub : Nat) (addr : DWord) : Mach :=
  let m := (m.hreqs.filter (fun h => h.r.get && h.r.xid == xid)).foldl (fun m h => m.dropReq h.order) m
  ({ m with late := m.late.filter (fun p => !(p.get && p.xid == xid)), inb := m.inb.filter (fun i => !(i.get && i.xid == xid)) } : Mach).finish o status sub
    addr

/-! ### Packets (R50, R92, R337) -/

/-- What the checks of a packet give: where its bytes and its count go; a refusal, with the place in the message of the first byte refused, or its end for the arrival
counter; the end of an own XGET; or it cannot land yet (R20, R58). -/
inductive Landing where
  | ok (ws : List (Acc × List Byte)) (ctr : Option Acc)
  | bad (st : Status) (sub pos : Nat)
  | ends (sub : Nat) (addr : DWord)
  | busy
deriving DecidableEq, Repr

/-- The accesses of some bytes through the windows, none performed: the first refusal, or all of them; or a saved allocation. -/
def winAll (cf : Conf) (m : Mach) (part off : Nat) (n : Nat) (cls : Cls) : Except (WinR × Nat) (List (Acc × Nat × Nat)) × Mach :=
  (pieces off n).foldl (fun r pc =>
    match r with
    | (.error e, m) => (.error e, m)
    | (.ok as, m) =>
      match winAccess cf m part pc.1 pc.2 cls with
      | (.here a va _, m) => (.ok (as ++ [(a, va, pc.2)]), m)
      | (x, m) => (.error (x, pc.1 - off), m)) (.ok [], m)

/-- A refusal of the windows at a place in a message. -/
def badLanding (w : WinR) (pos from_ : Nat) : Landing :=
  match w with
  | .saved _ => .bad .revoked 0 from_
  | .stale => .bad .stale 5 pos
  | .refused _ s => .bad .fault s pos
  | .here _ _ _ | .busy => .busy

/-- Bytes with the accesses that take them, in order. -/
def dealOut (as : List (Acc × Nat × Nat)) (bs : List Byte) : List (Acc × List Byte) :=
  (as.foldl (fun (r : Nat × List (Acc × List Byte)) a => (r.1 + a.2.2, r.2 ++ [(a.1, bytesAt bs r.1 a.2.2)])) (0, [])).2

/-- A packet of a send at its target. -/
def putLanding (cf : Conf) (m : Mach) (p : Packet) : Landing × Mach :=
  match winAll cf m p.part (p.base + p.pos) p.data.length .write with
  | (.error (w, at_), m) => (badLanding w (p.pos + at_) p.pos, m)
  | (.ok as, m) =>
    let ws := dealOut as p.data
    let pt? := cf.part? p.part
    let busy (m : Mach) := ws.any (fun w => m.bankBusy pt? w.1)
    match p.actr with
    | none => (if busy m then .busy else .ok ws none, m)
    | some a =>
      match winAccess cf m p.part a 8 .atomic with
      | (.here ac _ _, m) => (if busy m || m.bankBusy pt? ac then .busy else .ok ws (some ac), m)
      | (w, m) => (badLanding w p.len p.pos, m)

/-- A packet of an own XGET. -/
def getLanding (cf : Conf) (m : Mach) (p : Packet) : Landing × Mach :=
  match (m.xferOp p.xid).bind (fun o => (opCtx m o).bind (fun oc => (xferDesc o).map (fun d => (oc, d)))) with
  | none => (.busy, m)
  | some (oc, d) =>
    match engResolve cf m oc (writePieces ((d.dst + p.pos) % 2 ^ 64) p.data) with
    | (.bad s e, m) => (.ends s e, m)
    | (.wait, m) => (.busy, m)
    | (.ok ws, m) =>
      let pt? := cf.part? oc.la.p
      let busy (m : Mach) := ws.any (fun w => m.bankBusy pt? w.1)
      if d.actr = 0 then (if busy m then .busy else .ok ws none, m)
      else
        match engPlace cf m oc d.actr 8 .atomic with
        | (.bad s e, m) => (.ends s e, m)
        | (.wait, m) => (.busy, m)
        | (.ok (ac, _), m) => (if busy m || m.bankBusy pt? ac then .busy else .ok ws (some ac), m)

/-- A packet's checks. -/
def landing (cf : Conf) (m : Mach) (p : Packet) : Landing × Mach := if p.get then getLanding cf m p else putLanding cf m p

/-- The bytes of a packet delivered at their homes, then counted (R92). -/
def Mach.landPacket (m : Mach) (ws : List (Acc × List Byte)) (ctr : Option Acc) (n : Nat) : Mach :=
  let m := ws.foldl (fun m w => m.deliver ⟨0, w.1.sp, w.1.addr, w.2, .engine, w.1.tag, false, 0, 0, 0⟩) m
  match ctr with
  | some a =>
    let old := leNat (m.homeBytes a.sp a.addr 8 a.tag)
    m.deliver ⟨0, a.sp, a.addr, leBytes 8 (countAdd old n false), .plain, a.tag, false, 0, 0, 0⟩
  | none => m

/-- How far a message has been delivered. -/
def Mach.inbound (m : Mach) (src xid : Nat) (get : Bool) : Inbound :=
  (m.inb.find? (fun i => i.src == src && i.xid == xid && i.get == get)).getD ⟨src, xid, get, 0, false⟩
/-- Replacing that. -/
def Mach.setInbound (m : Mach) (i : Inbound) : Mach :=
  { m with inb := i :: m.inb.filter (fun x => !(x.src == i.src && x.xid == i.xid && x.get == i.get)) }

/-- A packet has been delivered up to its end: nothing more is known of a message that is whole. -/
def Mach.passInbound (m : Mach) (p : Packet) : Mach :=
  let i := m.inbound p.src p.xid p.get
  let n := p.pos + p.data.length
  if p.len ≤ n && !i.closed then { m with inb := m.inb.filter (fun x => !(x.src == p.src && x.xid == p.xid && x.get == p.get)) }
  else m.setInbound { i with next := max i.next n }

/-- The packet of lowest offset. -/
def lowestPacket (ps : List Packet) : Option Packet :=
  ps.foldl (fun (b : Option Packet) p => match b with
    | none => some p
    | some x => if p.pos < x.pos then some p else some x) none

/-- The packets that may be delivered, in offset order (R337): those that follow what has been delivered without a gap; all, once no byte before them is to come. -/
def landOrder (closed : Bool) : Nat → Nat → List Packet → List Packet
  | 0, _, _ => []
  | k + 1, next, ps =>
    match (if closed then lowestPacket ps else ps.find? (fun p => p.pos == next)) with
    | none => []
    | some p => p :: landOrder closed k (p.pos + p.data.length) (ps.erase p)

/-- The packets of a message that may be delivered now. -/
def Mach.landable (m : Mach) (src xid : Nat) (get : Bool) : List Packet :=
  let ps := m.late.filter (fun p => p.src == src && p.xid == xid && p.get == get)
  let i := m.inbound src xid get
  landOrder i.closed ps.length i.next ps

/-- A delivered packet of an own XGET counts towards its end. -/
def Mach.gotPacket (m : Mach) (p : Packet) : Mach :=
  match m.xferOp p.xid with
  | none => m
  | some o =>
    match xferDesc o, o.xfer with
    | some d, some x =>
      let x := { x with acked := x.acked + p.data.length }
      let o := { o with xfer := some x }
      let m := m.setOp o
      if d.len ≤ x.acked then m.finishOk o else m
    | _, _ => m

/-- A packet that fails a check: the sender is told, or the own XGET ends. -/
def Mach.refusePacket (m : Mach) (p : Packet) (l : Landing) : Mach :=
  match l with
  | .bad st sub pos => m.ackPacket p pos p.data.length st sub
  | .ends sub addr => match m.xferOp p.xid with
    | some o => m.endGet o p.xid (if sub = 5 then 3 else 1) sub addr
    | none => m
  | _ => m

/-- A packet that has arrived is delivered and counted, and answered (R92, R337). -/
def landNow (cf : Conf) (m : Mach) (p : Packet) : Mach :=
  let m := ({ m with late := m.late.erase p } : Mach).passInbound p
  match landing cf m p with
  | (.ok ws ctr, m) =>
    let m := m.landPacket ws ctr p.data.length
    if p.get then m.gotPacket p else m.ackPacket p p.pos p.data.length .ok 0
  | (l, m) => m.refusePacket p l

/-- The packets of a message that may be delivered are. -/
def landDue (cf : Conf) (m : Mach) (src xid : Nat) (get : Bool) : Mach := ((m.landable src xid get).foldl (landNow cf) m).tidyReqs

/-- No byte of a message is to come any more: what has arrived of it is delivered. -/
def closeMsg (cf : Conf) (m : Mach) (src xid : Nat) : Mach := landDue cf (m.setInbound { m.inbound src xid false with closed := true }) src xid false

/-- A packet that passes its checks is accounted for, kept, and delivered with the others of its message whose turn has come (R50, R337). -/
def takePacket (cf : Conf) (m : Mach) (p : Packet) (account : Mach → Option Nat → Mach) : Mach :=
  match landing cf m p with
  | (.busy, _) => m
  | (.ok ws _, m1) =>
    let m2 := account m1 ((ws.head?).bind (fun w => w.1.team))
    let m2 : Mach := { m2 with late := m2.late ++ [p] }
    if (m2.landable p.src p.xid p.get).any (fun q => (landing cf m2 q).1 == .busy) then m else landDue cf m2 p.src p.xid p.get
  | (l, m) => m.refusePacket p l

/-- Whether a packet is bound for a saved allocation (R179). -/
def toSaved (cf : Conf) (m : Mach) (p : Packet) : Bool :=
  match (winAccess cf m p.part (p.base + p.pos) 1 .write).1 with
  | .saved _ => true
  | _ => false

/-- PACKET_ARRIVAL (R50, R92, R337): taken, refused, or discarded when it travels under a token that is gone (R338), which a saved allocation answers REVOKED (R179). -/
def packetArrival (cf : Conf) (m : Mach) (p : Packet) : Mach :=
  match p.token with
  | some id =>
    match m.tokenOf p id with
    | none =>
      if p.get then m
      else if p.sealed.isNone && toSaved cf m p then m.ackPacket p p.pos p.data.length .revoked 0
      else m.ackPacket p p.pos 0 .ok 0
    | some k =>
      match m.hreqs.find? (fun h => h.order == k.req && h.r.drift.isSome) with
      | some h => driftPacket cf m p k h
      | none => takePacket cf m p (fun m _ => m.tokenGot k p)
  | none => if p.get then m else takePacket cf m p (fun m t => m.prefixGot p t)

/-! ### Orphans, expiry, requests (R338, R339) -/

/-- A request is orphaned (R339): dropped; its sender is told, or its own XGET ends. -/
def orphan (cf : Conf) (m : Mach) (h : HReq) : Mach :=
  let m := (m.dropReq h.order).count h.die 0x0D (some h.r.part) 1
  if h.r.get then
    match m.xferOp h.r.xid with
    | some o => m.endGet o h.r.xid 4 0 0
    | none => m
  else
    let m := if h.r.drift.isSome then m else closeMsg cf m h.r.src h.r.xid
    { m with net := m.net ++ [.ack h.r.src ⟨h.r.xid, false, 0, 0, .orphan, 0⟩] }

/-- TOKEN_EXPIRY (R338, R339): 65,536 cycles of the die after its issue. -/
def tokenExpiry (cf : Conf) (m : Mach) (id : Nat) : Mach :=
  match m.tokens.find? (fun k => k.id == id) with
  | none => m
  | some k =>
    if m.cyc < k.at_ + 65536 then m
    else
      let m := ((m.returnToken k).updReq k.req (fun h => { h with expiries := h.expiries + 1 })).count k.die 0x0C (some k.part) 1
      match m.hreqs.find? (fun h => h.order == k.req) with
      | some h => if 4 ≤ h.expiries then orphan cf m h else m
      | none => m

/-- The device tells a sender something of its request. -/
def Mach.tellReq (m : Mach) (r : XferReq) (st : Status) (sub : Nat) : Mach :=
  { m with net := m.net ++ [.ack r.src ⟨r.xid, false, r.sent, 0, st, sub⟩] }

/-- REQUEST_ARRIVAL (R337, R338): at the Heddle of the die that holds the destination's first byte, or, for an XGET, at its source. A request for a saved allocation is
held (R179). -/
def requestArrival (cf : Conf) (m : Mach) (r : XferReq) : Mach :=
  if r.get then { m with serves := m.serves ++ [⟨r, [], 0, []⟩] }
  else
    match r.drift with
    | some d => m.addReq d.1 r none false
    | none =>
      match winAccess cf m r.part r.off 1 .write with
      | (.here a _ t, m) => m.addReq (m.destDie a) r t false
      | (.saved t, m) => m.addReq (((m.team? t).map (fun tm => dieOfCore tm.core)).getD 0) r (some t) true
      | (.busy, _) => m
      | (.refused _ s, m) => m.tellReq r .fault s
      | (.stale, m) => m.tellReq r .stale 5

/-- What a team that is saved has received and not been delivered goes back: the bytes of tokens to their requests, and the sender is told (R179). -/
def Mach.saveLate (m : Mach) (cf : Conf) (t : Nat) : Mach :=
  (m.late.filter (fun p => if p.get then (m.xferOp p.xid).any (fun o => o.t == t) else match (winAccess cf m p.part (p.base + p.pos) 1 .write).1 with
    | .here a _ _ => a.sp == .scr t
    | .saved u => u == t
    | _ => false)).foldl (fun m p =>
      let m : Mach := { m with
        late := m.late.erase p
        hreqs := if p.token.isSome then m.hreqs.map (fun h =>
            if h.r.src = p.src ∧ h.r.xid = p.xid ∧ h.r.get = p.get ∧ h.r.sent ≤ p.pos ∧ p.pos < h.r.upto then { h with regrant := h.regrant ++ [(p.pos, p.data.length)] } else h)
          else m.hreqs }
      if p.get then m else m.ackPacket p p.pos p.data.length .revoked 0) m

/-! ### The sender's side (R337) -/

/-- Changing what this device serves another's XGET. -/
def Mach.setServe (m : Mach) (s s' : Serve) : Mach := { m with serves := m.serves.map (fun x => if x = s then s' else x) }

/-- A source refuses an XGET (R337). -/
def Mach.endServe (m : Mach) (s : Serve) (pos : Nat) (st : Status) (sub : Nat) : Mach :=
  { m with serves := m.serves.erase s, net := m.net ++ [.ack s.r.src ⟨s.r.xid, false, pos, 0, st, sub⟩] }

/-- A piece of the bytes under a token is read for another device's XGET; a whole packet leaves (R66, R337). A saved source waits. -/
def serveStep (cf : Conf) (m : Mach) (dev xid : Nat) : Mach :=
  match m.serves.find? (fun s => s.r.src == dev && s.r.xid == xid) with
  | none => m
  | some s =>
    match s.grants with
    | [] => m
    | g :: gs =>
      let n := min 1024 (g.len - s.prog)
      let start := g.pos + s.prog
      let pos := start + s.buf.length
      let w := accessLen (s.r.off + pos) (n - s.buf.length)
      match winAccess cf m s.r.part (s.r.off + pos) w .read with
      | (.refused _ c, m) => m.endServe s pos .fault c
      | (.stale, m) => m.endServe s pos .stale 5
      | (.saved _, _) | (.busy, _) => m
      | (.here a va _, m1) =>
        if m1.bankBusy (cf.part? s.r.part) a then m.delay (.agent 0 .heddle) (s.r.src * 2 ^ 64 + s.r.xid) (cf.part? s.r.part) a
        else if poisonedAcc m1 (cf.part? s.r.part) a va w then m1.endServe s pos .fault 0
        else
          let r := readAcc .direct (m1.undelay (.agent 0 .heddle) (s.r.src * 2 ^ 64 + s.r.xid)) (cf.part? s.r.part) a va w
          let buf := s.buf ++ r.1
          if buf.length < n then r.2.setServe s { s with buf := buf }
          else
            let m := r.2.setServe s (if g.len ≤ s.prog + n then { s with grants := gs, prog := 0, buf := [] } else { s with prog := s.prog + n, buf := [] })
            { m with net := m.net ++ [.packet dev ⟨cf.device.toNat, xid, s.r.part, 0, start, s.r.len, buf, none, some g.token, 0,
              decide (s.r.len ≤ start + n), true, none⟩] }

/-- A grant reaches this device: for bytes it sends, for a drift message, or for bytes an XGET of another device asks of it. -/
def grantArrival (m : Mach) (dev : Nat) (get : Bool) (g : Grant) : Mach :=
  if get then
    match m.serves.find? (fun s => s.r.src == dev && s.r.xid == g.xid) with
    | some s => m.setServe s { s with grants := s.grants ++ [g] }
    | none => m
  else
    match m.xferOp g.xid, m.driftOf g.xid with
    | some o, _ => m.updOp o.t o.k o.n (fun o => { o with xfer := o.xfer.map (fun x => { x with grants := x.grants ++ [g] }) })
    | none, some s => m.grantDrift s g
    | none, none => m

/-- A token of another device is revoked: its grant is forgotten, as if it had expired (R339); a drift message under it goes again (R118). -/
def revokeArrival (m : Mach) (dev token : Nat) : Mach :=
  driftRevoked { m with
    ops := m.ops.map (fun o =>
      if (xferDesc o).any (fun d => nbits d.dst 61 49 == dev && fabAddr d.dst) then
        let cut := (o.xfer.bind (fun x => x.grants.head?)).any (fun g => g.token == token)
        { o with
          prog := if cut then 0 else o.prog, buf := if cut then [] else o.buf
          xfer := o.xfer.map (fun x => { x with grants := x.grants.filter (fun g => g.token != token) }) }
      else o)
    serves := m.serves.map (fun s =>
      if s.r.src = dev then
        let cut := (s.grants.head?).any (fun g => g.token == token)
        { s with grants := s.grants.filter (fun g => g.token != token), prog := if cut then 0 else s.prog, buf := if cut then [] else s.buf }
      else s) } dev token

/-- A sender withdraws its request: the Heddle drops it, and the prefix bytes still counted come off INBOUND (R50, R337). -/
def withdrawArrival (cf : Conf) (m : Mach) (dev xid : Nat) : Mach :=
  let m := (m.hreqs.filter (fun h => !h.r.get && h.r.src == dev && h.r.xid == xid)).foldl (fun m h => m.dropReq h.order) m
  let m := (m.prefixed.filter (fun x => x.src == dev && x.xid == xid)).foldl (fun m x =>
    let m := m.addInbound (some x.team) (-(x.left : Int))
    { m with prefixed := m.prefixed.map (fun y => if y = x then { x with left := 0 } else y) }) m
  closeMsg cf m dev xid

/-- The number of a status (R164). -/
def statusCode : Status → Nat
  | .ok => 0
  | .fault => 1
  | .seal => 2
  | .stale => 3
  | .orphan => 4
  | .revoked => 5
  | .broken => 6
  | .noslot => 7

/-- A refused send ends once every packet already sent has been answered (R337 step 6). -/
def Mach.endPut (m : Mach) (o : Op) (x : Xfer) : Mach :=
  match x.bad with
  | some (st, sub) => if x.outstanding = 0 then m.finish o st sub o.v1 else m
  | none => m

/-- A send stops: no further packet, its request withdrawn (R337 step 6). -/
def Mach.stopPut (m : Mach) (o : Op) (x : Xfer) (dst st sub : Nat) (addr : DWord) : Mach :=
  if x.bad.isSome then (m.setOp { o with xfer := some x }).endPut o x
  else
    let x := { x with bad := some (st, sub), grants := [] }
    let o := { o with xfer := some x, v1 := addr }
    (({ m with net := m.net ++ [.withdraw dst x.xid] } : Mach).setOp o).endPut o x

/-- The request for bytes `lo` to `hi` of a send. -/
def putReq (cf : Conf) (oc : OpCtx) (d : XDesc) (xid lo hi : Nat) : NetMsg :=
  .request (nbits d.dst 61 49) ⟨cf.device.toNat, xid, oc.la.p, d.dst % 2 ^ 49, d.len, lo, hi, d.prio, false, none⟩

/-- An answer to a send. -/
def putAck (cf : Conf) (m : Mach) (oc : OpCtx) (d : XDesc) (x : Xfer) (a : XferAck) : Mach :=
  let o := oc.o
  let dst := nbits d.dst 61 49
  let x := if a.packet then { x with outstanding := x.outstanding - 1 } else x
  match a.status with
  | .ok =>
    let x := { x with acked := x.acked + a.bytes }
    let o := { o with xfer := some x }
    let m := m.setOp o
    if x.bad.isSome then m.endPut o x else if d.len ≤ x.acked then m.finishOk o else m
  | .revoked =>
    let o := { o with xfer := some x }
    let m := m.setOp o
    if x.bad.isSome then m.endPut o x
    else if a.packet && decide (a.pos < d.prefixLen) then { m with net := m.net ++ [putReq cf oc d x.xid a.pos (a.pos + a.bytes)] }
    else m
  | .orphan => m.finish o 4 0 0
  | st => m.stopPut o x dst (statusCode st) a.sub (d.addrAt a.pos)

/-- An answer to a transfer of this device (R337, R339). -/
def xferAck (cf : Conf) (m : Mach) (a : XferAck) : Mach :=
  match m.xferOp a.xid with
  | none => m
  | some o =>
    match opCtx m o, xferDesc o, o.xfer, o.cmd with
    | some oc, some d, some x, .xget _ =>
      let addr := BitVec.ofNat 64 (d.src + a.pos)
      match a.status with
      | .ok => m
      | .revoked => m
      | .stale => m.endGet oc.o x.xid 3 a.sub addr
      | .orphan => m.endGet oc.o x.xid 4 0 0
      | _ => m.endGet oc.o x.xid 1 a.sub addr
    | some oc, some d, some x, _ => putAck cf m oc d x a
    | _, _, _, _ => m

/-! ### The events -/

/-- FABRIC_ACCESS_ARRIVAL (R33). -/
def execFabricAccessArrival (r : FabReq) (s : State) := onMach s (fun cf m => fabricAccessArrival cf m r)
/-- FABRIC_ANSWER (R34). -/
def execFabricAnswer (a : FabAns) (s : State) := onMach s (fun cf m => fabricAnswer cf m a)
/-- REQUEST_ARRIVAL (R338). -/
def execRequestArrival (r : XferReq) (s : State) := onMach s (fun cf m => requestArrival cf m r)
/-- PACKET_ARRIVAL (R50). -/
def execPacketArrival (p : Packet) (s : State) := onMach s (fun cf m => packetArrival cf m p)
/-- TRANSFER_ACK (R118, R337). -/
def execTransferAck (a : XferAck) (s : State) := onMach s (fun cf m => driftAck (xferAck cf m a) a)
/-- TOKEN_EXPIRY (R338). -/
def execTokenExpiry (token : Nat) (s : State) := onMach s (fun cf m => tokenExpiry cf m token)

end Sys2Proof.Machine
end

