-- ==== Sys2Proof/Machine/Exchange.lean ====
section
/-!
DEFINITION. The exchange engine's transfers: XPUT, XGET, XARM and XDISARM with their operations (R93, R335–R341).
-/
namespace Sys2Proof.Machine

/-! ### The commands (R304, R335, R336) -/

/-- The bytes of two quads in the leader lane (R335). -/
def quadBytes (m : Mach) (c : Ctx) (a b : Nat) : List Byte :=
  ((List.range 4).map (fun k => a + k) ++ (List.range 4).map (fun k => b + k)).flatMap (fun r => leBytes 4 (m.v c r c.leader).toNat)

/-- XPUT (R336). -/
def execXput (a b : Nat) (s : State) :=
  issue s (.xput a b) (fun cf m c => enterCmd cf (m.drain c.leaf 1) c .exch (.xput (quadBytes m c a b)) 0)

/-- XGET (R336). -/
def execXget (a b : Nat) (s : State) :=
  issue s (.xget a b) (fun cf m c => enterCmd cf (m.drain c.leaf 1) c .exch (.xget (quadBytes m c a b)) 0)

/-- XARM (R336, R340): the block, and the count word and threshold of the quad. -/
def execXarm (a : Src) (b : Nat) (s : State) :=
  issue s (.xarm a b) (fun cf m c =>
    withBlock cf m c a 32 (fun m blk =>
      enterCmd cf m c .exch (.xarm blk (m.v64 c b c.leader) (BitVec.ofNat 64 (countField (m.v64 c (b + 2) c.leader).toNat)))
        ((m.srcL c a).setWidth 64)))

/-- XDISARM (R336, R341). -/
def execXdisarm (b : Src) (s : State) :=
  issue s (.xdisarm b) (fun cf m c => enterCmd cf (m.drain c.leaf 1) c .exch (.xdisarm (m.srcL c b).toNat) 0)

/-! ### A send (R337) -/

/-- One access of the bytes of a packet of n bytes at `pos`, which leaves once it is whole, under a token or as part of the prefix; `o'` is the operation after
that (R66, R337). -/
def putSend (cf : Conf) (m : Mach) (oc : OpCtx) (d : XDesc) (x : Xfer) (pos n : Nat) (token : Option Nat) (o' : Op) : Option Mach :=
  let dst := nbits d.dst 61 49
  let a := (d.src + pos + oc.o.buf.length) % 2 ^ 64
  match engRead1 cf m oc a (pieceLen a (n - oc.o.buf.length)) with
  | (.wait, m) => some m
  | (.bad sub addr, m) => some (m.stopPut oc.o x dst (if sub = 5 then 3 else 1) sub addr)
  | (.ok bs, m) =>
    let buf := oc.o.buf ++ bs
    if buf.length < n then some (m.setOp { oc.o with buf := buf })
    else
      let p : Packet := ⟨cf.device.toNat, x.xid, oc.la.p, d.dst % 2 ^ 49, pos, d.len, buf, if d.actr = 0 then none else some (d.actr % 2 ^ 49), token,
        d.prefixLen, decide (d.len ≤ pos + n), false, none⟩
      some (({ m with net := m.net ++ [.packet dst p] } : Mach).setOp { o' with buf := [] })

/-- One unit of a send, which fails once no port is left (R364): its checks, an access of a packet of the prefix, the request for the rest, an access of a packet under a token. -/
def putUnit (cf : Conf) (m : Mach) (oc : OpCtx) (d : XDesc) : Option Mach :=
  let o := oc.o
  match o.xfer with
  | none =>
    if d.bad false then some (m.finishParam o)
    else if d.len = 0 then some (m.finishOk o)
    else some (({ m with fresh := m.fresh + 1 } : Mach).setOp { o with xfer := some ⟨m.fresh, 0, 0, 0, none, []⟩ })
  | some x =>
    if cutFrom cf m (nbits d.dst 61 49) then some (match x.bad with
      | some (st, sub) => m.finish o st sub o.v1
      | none => m.finish o 1 4 (d.addrAt x.sent))
    else if x.bad.isSome then none
    else if o.stage = 0 then
      if x.sent < d.prefixLen then
        let n := min 1024 (d.prefixLen - x.sent)
        putSend cf m oc d x x.sent n none { o with xfer := some { x with sent := x.sent + n, outstanding := x.outstanding + 1 } }
      else
        let m := if d.prefixLen < d.len then { m with net := m.net ++ [putReq cf oc d x.xid d.prefixLen d.len] } else m
        some (m.setOp { o with stage := 1 })
    else
      match x.grants with
      | [] => none
      | g :: gs =>
        let n := min 1024 (g.len - o.prog)
        let last := decide (g.len ≤ o.prog + n)
        putSend cf m oc d x (g.pos + o.prog) n (some g.token)
          { o with prog := if last then 0 else o.prog + n
                   xfer := some { x with outstanding := x.outstanding + 1, grants := if last then gs else x.grants } }

/-- XPUT's unit. -/
def xputUnit (cf : Conf) (m : Mach) (oc : OpCtx) : Option Mach :=
  match oc.o.cmd with
  | .xput b => putUnit cf m oc (descOf b)
  | _ => none

/-! ### XGET (R337) -/

/-- XGET's unit: its checks, then its request, to the source and at the Heddle of this device that grants it; it fails once no port is left (R364). -/
def xgetUnit (cf : Conf) (m : Mach) (oc : OpCtx) : Option Mach :=
  match oc.o.cmd, oc.o.xfer with
  | .xget b, none =>
    let o := oc.o
    let d := descOf b
    if d.bad true then some (m.finishParam o)
    else if d.len = 0 then some (m.finishOk o)
    else
      match engPlace cf m oc d.dst 1 .write with
      | (.bad sub a, m) => some (m.finishBad o sub a)
      | (.wait, m) => some m
      | (.ok (a, _), m) =>
        let dev := nbits d.src 61 49
        if cutFrom cf m dev then some (m.finishBad o 4 (BitVec.ofNat 64 d.src))
        else
          let rq : XferReq := ⟨cf.device.toNat, m.fresh, oc.la.p, d.src % 2 ^ 49, d.len, 0, d.len, d.prio, true, none⟩
          let o := { o with xfer := some ⟨m.fresh, 0, 0, 0, none, []⟩ }
          let m : Mach := { m with fresh := m.fresh + 1, net := m.net ++ [.request dev rq] }
          some ((m.addReq (m.destDie a) { rq with src := dev } a.team false).setOp o)
  | .xget b, some x => if cutFrom cf m (nbits (descOf b).src 61 49) then some (m.endGet oc.o x.xid 1 4 (BitVec.ofNat 64 (descOf b).src)) else none
  | _, _ => none

/-! ### Armed sends (R93, R340) -/

/-- TRIGGERED_SEND (R93, R340): arm n of a team fires when its counter has reached the threshold; once it has fired, its send goes on by one
unit. -/
def triggeredSend (cf : Conf) (m : Mach) (t n : Nat) : Mach :=
  match (m.opsOf t .exch).find? (fun o => o.n == n) with
  | none => m
  | some o =>
    match opCtx m o, o.cmd with
    | some oc, .xarm desc cw thr =>
      if o.fin.isSome || oc.cl.pre == .saved || oc.cl.pre == .stopping then m
      else if o.fired then (putUnit cf m oc (descOf desc)).getD m
      else armFire cf m oc cw thr
    | _, _ => m

/-- XPUT_OPERATION (R337): one unit of the exchange context's current send. -/
def execXputOperation (t : Nat) (s : State) := onMach s (fun cf m => Mach.work cf t .exch xputUnit 1 m)
/-- XGET_OPERATION (R337). -/
def execXgetOperation (t : Nat) (s : State) := onMach s (fun cf m => Mach.work cf t .exch xgetUnit 1 m)
/-- TRIGGERED_SEND (R93). -/
def execTriggeredSend (t n : Nat) (s : State) := onMach s (fun cf m => triggeredSend cf m t n)

end Sys2Proof.Machine
end

