-- ==== Sys2Proof/Machine/Handles.lean ====
section
/-!
DEFINITION. Handles (R347–R355): RINV, RINVH, HWAIT, HSTAT, HFREE, IWAIT and IDONE, placement at the target, chained invocations, and the
questions devices ask one another about a handle.
-/
namespace Sys2Proof.Machine

/-- The trap of a HANDLE sub-cause (R170, R355). -/
def handleTrap (m : Mach) (c : Ctx) (sub : Nat) (addr : DWord) : Res := .trap m 0x12 sub addr c.f.pred

/-- Requests that cover a range in pieces of 16, 8, 4 or 1 bytes aligned to their size. -/
def spanReqs (lane a n rep : Nat) : List Req :=
  let rec go : Nat → Nat → Nat → List Req
    | 0, _, _ => []
    | k + 1, a, n =>
      if n = 0 then []
      else
        let w := if a % 16 = 0 ∧ 16 ≤ n then 16 else if a % 8 = 0 ∧ 8 ≤ n then 8 else if a % 4 = 0 ∧ 4 ≤ n then 4 else 1
        ⟨lane, a, w, rep⟩ :: go k (a + w) (n - w)
  go n a n

/-! ### Entries -/

/-- The status word of a state (R354). -/
def statusWord : HState → DWord
  | .pending => 0
  | .placed _ _ => 1
  | .done r => BitVec.ofNat 64 (2 + r.length * 2 ^ 32)
  | .broken cause depth => BitVec.ofNat 64 (3 + cause % 256 * 2 ^ 8 + min depth 255 * 2 ^ 16 + 6 * 2 ^ 24)

/-- The home entry a handle names on this device; none when it is stale (R355). -/
def homeEntry (m : Mach) (p : Nat) (h : Handle) : Option HEnt :=
  match m.hent? p h.index with
  | some e => if !e.result && e.gen == h.gen then some e else none
  | none => none

/-- Whether the handle resolution table lies in the partition's map (R347). -/
def tableOk (pt : Part) : Bool := (physOf pt (pt.fwtab + 0x2800)).isSome && (physOf pt (pt.fwtab + 0x2800 + 320 * 16384 - 1)).isSome

/-- The devices of a placement class (R347): none when its entry cannot be read. -/
def classOf (m : Mach) (pt : Part) (k : Nat) : Option (List Nat) :=
  (m.physBytes pt (pt.fwtab + 0x800 + 32 * k) 32).map (fun b =>
    let n := natAt b 0 1
    if 15 < n then [] else (List.range n).map (fun i => natAt b (2 + 2 * i) 2))

/-- The unfinished invocations of a service that this home has sent to a device (R350). -/
def Mach.load (m : Mach) (p dev service : Nat) : Nat :=
  (m.hents.filter (fun e => e.part == p && !e.result && e.sent == some (dev, service) && !isFinal e.st)).length

/-- The device of a class with the fewest, the lowest listed among equals (R350). -/
def Mach.pickDevice (m : Mach) (p service : Nat) (ds : List Nat) : Option Nat :=
  ds.foldl (fun b d => match b with
    | none => some d
    | some x => if m.load p d service < m.load p x service then some d else some x) none

/-! ### RINV and RINVH (R349–R351) -/

/-- An invocation block (R349). -/
structure InvBlk where
  tgt : Nat
  cls : Bool
  func : Nat
  arglen : Nat
  indir : Bool
  reserved : Bool
deriving DecidableEq, Repr

/-- Reading a block. -/
def invBlkOf (b : List Byte) : InvBlk :=
  let w0 := natAt b 0 4
  let w4 := natAt b 4 4
  let w8 := natAt b 8 8
  ⟨nbits w0 15 0, nbit w0 16, nbits w4 15 0, nbits w8 8 0, nbit w8 9, nbits w0 31 17 != 0 || nbits w4 31 16 != 0 || nbits w8 63 10 != 0⟩

/-- Whether a block breaks its table (R349). -/
def InvBlk.bad (k : InvBlk) (chained : Bool) (argaddr : Nat) : Bool :=
  k.reserved || decide (256 < k.arglen) || (chained && (k.tgt != 0 || k.cls)) || (k.cls && decide (255 < k.tgt))
    || (k.indir && decide (2 ≤ nbits argaddr 63 62))

/-- The new handle's entry (R349). -/
def Mach.newEntry (m : Mach) (cf : Conf) (c : Ctx) (idx : Nat) : Handle × Mach :=
  let h : Handle := ⟨cf.device.toNat, idx, m.hgen c.la.p idx⟩
  (h, { m with hents := m.hents ++ [⟨c.la.p, idx, h.gen, .pending, c.tm.t, c.la.l, false, false, h, none, none⟩] })

/-- An RINV is resolved at its home and sent (R350). -/
def resolveRinv (cf : Conf) (m : Mach) (pt : Part) (k : InvBlk) (inv : Invocation) : Mach :=
  let service := k.func / 256
  let send (d : Nat) : Mach :=
    { (m.updHent pt.p inv.handle.index (fun e => { e with sent := some (d, service) })) with net := m.net ++ [.invoke d inv] }
  let break_ (cause : Nat) : Mach := m.homeState cf.device.toNat pt.p inv.handle (.broken cause 0)
  if !k.cls then send k.tgt
  else
    match classOf m pt k.tgt with
    | none => break_ 4
    | some ds => match m.pickDevice pt.p service ds with
      | some d => send d
      | none => break_ 0x12

/-- What an instruction of a fibre that waits has read at its issue. -/
def Mach.keptRead (m : Mach) (r : FRef) : Option (List Byte) :=
  (m.fabPend.find? (fun p => p.ref == r && p.op.isNone && p.asks.isEmpty)).map FabPend.blk

/-- It is kept no longer. -/
def Mach.dropRead (m : Mach) (r : FRef) : Mach := { m with fabPend := m.fabPend.filter (fun p => !(p.ref == r && p.op.isNone && p.asks.isEmpty)) }

/-- It is kept, under a number of its own. -/
def Mach.keepRead (m : Mach) (r : FRef) (bs : List Byte) : Nat × Mach :=
  let id := (m.dropRead r).newId
  (id.1, { id.2 with fabPend := id.2.fabPend ++ [⟨id.1, r, none, false, [], [], [], bs, none, .whole, [], false⟩] })

/-- The last part of RINV and RINVH: the release, the entry, the handle to D, the invocation on its way (R349). While the release waits for writes to other devices
the bytes read at issue are kept. -/
def rinvSend (cf : Conf) (m : Mach) (c : Ctx) (pt : Part) (d : Dst) (k : InvBlk) (parent : Option Handle) (bs : List Byte) : Res :=
  match if tableOk pt then m.freeEntry c.la.p else none with
  | none => handleTrap m c 3 0
  | some idx =>
    let ws := m.drainWids c .sys
    afterWrites (if ws.isEmpty then m else (m.keepRead c.f.ref bs).2) c ws (fun m =>
      let x := ((m.dropRead c.f.ref).drain c.leaf 4).newEntry cf c idx
      let args := if k.indir then bs.drop 272 else bytesAt bs 0x10 k.arglen
      let inv : Invocation := ⟨x.1, c.la.p, cf.device.toNat, c.tm.t, k.func, args, parent, []⟩
      let m := match parent with
        | none => resolveRinv cf x.2 pt k inv
        | some p => { x.2 with net := x.2.net ++ [.invoke p.home inv] }
      pairLate m c d (c.each (handleWord x.1)))

/-- The parent handle an RINVH names (R351): none for RINV; stale where it names no entry of this home. -/
def rinvParent (cf : Conf) (m : Mach) (c : Ctx) (b : Option Nat) : Except Unit (Option Handle) :=
  match b.map (fun b => handleOf (m.v64 c b c.leader).toNat) with
  | none => .ok none
  | some none => .error ()
  | some (some h) => if h.home = cf.device.toNat ∧ (homeEntry m c.la.p h).isNone then .error () else .ok (some h)

/-- RINV and RINVH once block and arguments are read: a parent of another home is asked for there; `asked` says that it has answered (R351). -/
def rinvGo (cf : Conf) (m : Mach) (c : Ctx) (d : Dst) (b : Option Nat) (bs : List Byte) (asked : Bool) : Res :=
  match cf.part? c.la.p, rinvParent cf m c b with
  | none, _ => .gone m
  | _, .error _ => handleTrap m c 2 0
  | some pt, .ok p =>
    match p.filter (fun h => h.home != cf.device.toNat && !asked) with
    | some h =>
      let x := m.keepRead c.f.ref bs
      .hold { x.2 with net := x.2.net ++ [.query h.home c.la.p x.1 h false] } (.fabric x.1)
    | none => rinvSend cf m c pt d (invBlkOf bs) p bs

/-- The issue of RINV and RINVH (R349, R351): the block, its table's rules, the parent, the arguments. -/
def rinvBody (cf : Conf) (m : Mach) (c : Ctx) (d : Dst) (a : Src) (b : Option Nat) : Res :=
  match if c.f.drained then m.keptRead c.f.ref else none with
  | some bs => rinvGo cf m c d b bs true
  | none =>
    let x := m.srcL c a
    if x.toNat % 16 ≠ 0 then .trap m 3 0 (x.setWidth 64) (maskOf [c.leader])
    else
      withPlaces cf m c true .read true (cmdReqs m c a 272) (fun ps m =>
        let r := readLanes cf m (.plain c.leaf) c.la.p ps
        let blk := r.1.flatMap Prod.snd
        let k := invBlkOf blk
        let argaddr := natAt blk 0x10 8
        match k.bad b.isSome argaddr, rinvParent cf r.2 c b with
        | true, _ => handleTrap r.2 c 6 0
        | _, .error _ => handleTrap r.2 c 2 0
        | false, .ok _ =>
          if k.indir && k.arglen != 0 then
            withPlaces cf r.2 c false .read true (spanReqs c.leader argaddr k.arglen argaddr) (fun ps m =>
              let y := readLanes cf m (.plain c.leaf) c.la.p ps
              rinvGo cf y.2 c d b (blk ++ y.1.flatMap Prod.snd) false)
          else rinvGo cf r.2 c d b blk false)

/-- RINV (R349). -/
def execRinv (d : Dst) (a : Src) (s : State) := issue s (.rinv d a) (fun cf m c => rinvBody cf m c d a none)
/-- RINVH (R349, R351). -/
def execRinvh (d : Dst) (a : Src) (b : Nat) (s : State) := issue s (.rinvh d a b) (fun cf m c => rinvBody cf m c d a (some b))

/-! ### HWAIT, HSTAT, HFREE (R354) -/

/-- HWAIT once the state is known: it waits on, raises BROKEN, or copies the result and completes with an acquire of system scope. -/
def hwaitState (cf : Conf) (m : Mach) (c : Ctx) (trap : Bool) (d : Dst) (a b : Nat) (st : HState) (wait : Mach → Res) : Res :=
  let dst := (m.v64 c b c.leader).toNat
  let finish (m : Mach) : Res := pairLate (m.invalidate c.leaf 4) c d (c.each (statusWord st))
  match st with
  | .broken _ _ => if trap then handleTrap m c 1 (m.v64 c a c.leader) else finish m
  | .done res =>
    if dst = 0 || res.isEmpty then finish m
    else
      withPlaces cf m c false .write false (spanReqs c.leader dst res.length dst) (fun ps m =>
        finish (storeLanes cf m c .plain .plain (fun q => bytesAt res (q.addr - dst) q.n) ps))
  | _ => wait m

/-- A question to the home of a handle of another device: its number, and the machine once it has left. -/
def askHome (m : Mach) (c : Ctx) (h : Handle) (free : Bool) : Nat × Mach :=
  (m.fresh, { m with fresh := m.fresh + 1, net := m.net ++ [.query h.home c.la.p m.fresh h free] })

/-- HWAIT asks a home and waits (R156). -/
def hwaitAsk (m : Mach) (c : Ctx) (h : Handle) : Res := let x := askHome m c h false; .pend x.2 (.fabric x.1)
/-- HSTAT and HFREE ask a home. -/
def holdAsk (m : Mach) (c : Ctx) (h : Handle) (free : Bool) : Res := let x := askHome m c h free; .hold x.2 (.fabric x.1)

/-- HWAIT (R354). -/
def hwaitBody (cf : Conf) (m : Mach) (c : Ctx) (trap : Bool) (d : Dst) (a b : Nat) : Res :=
  match handleOf (m.v64 c a c.leader).toNat with
  | none => handleTrap m c 2 0
  | some h =>
    if h.home ≠ cf.device.toNat then hwaitAsk m c h
    else match homeEntry m c.la.p h with
      | none => handleTrap m c 2 0
      | some e => hwaitState cf m c trap d a b e.st (fun m => .pend m .handle)

/-- HWAIT (R354). -/
def execHwait (trap : Bool) (d : Dst) (a b : Nat) (s : State) := issue s (.hwait trap d a b) (fun cf m c => hwaitBody cf m c trap d a b)

/-- HSTAT (R354). -/
def execHstat (d : Dst) (a : Nat) (s : State) :=
  issue s (.hstat d a) (fun cf m c =>
    match handleOf (m.v64 c a c.leader).toNat with
    | none => handleTrap m c 2 0
    | some h =>
      if h.home ≠ cf.device.toNat then holdAsk m c h false
      else match homeEntry m c.la.p h with
        | none => handleTrap m c 2 0
        | some e => pairLate m c d (c.each (statusWord e.st)))

/-- A home entry is freed, at once when its state is final, else when it becomes so (R354). -/
def Mach.hfree (m : Mach) (dev p : Nat) (e : HEnt) : Mach :=
  if isFinal e.st then m.freeHome dev p e else m.updHent p e.idx (fun e => { e with freeing := true })

/-- HFREE (R354). -/
def execHfree (a : Nat) (s : State) :=
  issue s (.hfree a) (fun cf m c =>
    match handleOf (m.v64 c a c.leader).toNat with
    | none => handleTrap m c 2 0
    | some h =>
      if h.home ≠ cf.device.toNat then holdAsk m c h true
      else match homeEntry m c.la.p h with
        | none => handleTrap m c 2 0
        | some e => .done (m.hfree cf.device.toNat c.la.p e) [] .seq)

/-- HWAIT_COMPLETE (R354): the handle is DONE or BROKEN. -/
def hwaitComplete (cf : Conf) (m : Mach) (r : FRef) : Mach :=
  match m.waiting r with
  | some (c, ⟨.hwait trap d a b, .handle, _⟩) => Mach.resolve cf c (hwaitBody cf m c trap d a b)
  | _ => m

/-- The answer of another home reaches the fibre that asked (R351, R354). A suspended fibre issues its instruction again later. -/
def handleAnswer (cf : Conf) (m : Mach) (xid : Nat) (st : Option HState) : Mach :=
  match m.fibres.find? (fun f => f.wait.any (fun w => w.why == .fabric xid)) with
  | none => m
  | some f =>
    match ctxOf m f.ref with
    | none => m
    | some c =>
      if c.f.susp then m.endWait f.ref
      else
        match c.f.wait.map Wait.i, st with
        | some (.rinvh _ _ _), none | some (.hwait _ _ _ _), none | some (.hstat _ _), none | some (.hfree _), none =>
          Mach.resolve cf c (handleTrap m c 2 0)
        | some (.rinvh d _ b), some _ => Mach.resolve cf c (rinvGo cf m c d (some b) ((m.keptRead f.ref).getD []) true)
        | some (.hwait trap d a b), some st =>
          Mach.resolve cf c (hwaitState cf m c trap d a b st (fun m => hwaitAsk m c ((handleOf (m.v64 c a c.leader).toNat).getD ⟨0, 0, 0⟩)))
        | some (.hstat d _), some st => Mach.resolve cf c (pairLate m c d (c.each (statusWord st)))
        | some (.hfree _), some _ => m.completeWait f.ref [] []
        | _, _ => m

/-- Another device asks for, or frees, a handle of this home (R354). -/
def handleQuery (cf : Conf) (m : Mach) (dev part xid : Nat) (h : Handle) (free : Bool) : Mach :=
  match homeEntry m part h with
  | none => { m with net := m.net ++ [.queried dev xid none] }
  | some e =>
    let m := { m with net := m.net ++ [.queried dev xid (some e.st)] }
    if free then m.hfree cf.device.toNat part e else m

/-! ### IWAIT and IDONE (R352, R353) -/

/-- The oldest queued invocation of a service. -/
def Mach.oldestInv (m : Mach) (p service : Nat) : Option InvQ :=
  (m.invq.filter (fun q => q.inv.part == p && q.queued && !q.running && q.inv.func / 256 == service)).foldl (fun b q => match b with
    | none => some q
    | some x => if x.order ≤ q.order then some x else some q) none

/-- The 576 bytes of a landing buffer (R352). -/
def landingBytes (v : Invocation) : List Byte :=
  leBytes 8 (handleWord v.handle).toNat ++ leBytes 2 v.func ++ leBytes 2 v.args.length ++ leBytes 2 v.input.length ++ leBytes 2 v.issuer
    ++ List.replicate 48 0 ++ bytesAt v.args 0 256 ++ bytesAt v.input 0 256

/-- An invocation is taken in one step: the group holds it, the buffer is written, the acquire of system scope is made (R352). -/
def takeInv (m : Mach) (c : Ctx) (d : Dst) (ps : List (Req × Place)) (q : InvQ) : Res :=
  let m := m.updGroup c.f.ref.t c.f.ref.g (fun g => { g with held := q.entry })
  let m := { m with invq := m.invq.map (fun x => if x = q then { q with running := true } else x) }
  let buf := landingBytes q.inv
  let m := (ps.zip (List.range ps.length)).foldl (fun m w => match w.1.2 with
    | .here a _ => m.writeHome c.leaf ⟨0, a.sp, a.addr, bytesAt buf (16 * w.2) 16, .engine, a.tag, false, 0, 0, 0⟩
    | .fab _ _ => m) m
  pairLate (m.invalidate c.leaf 4) c d (c.each (BitVec.ofNat 64 (q.inv.func + q.inv.args.length * 2 ^ 32)))

/-- IWAIT (R352). -/
def iwaitBody (cf : Conf) (m : Mach) (c : Ctx) (d : Dst) (a b : Src) : Res :=
  let x := m.srcL c a
  let service := (m.srcL c b).toNat % 256
  if c.g.held.isSome then handleTrap m c 4 0
  else if x.toNat % 64 ≠ 0 then .trap m 3 0 (x.setWidth 64) (maskOf [c.leader])
  else
    withPlaces cf m c true .write false (cmdReqs m c a 576) (fun ps m =>
      match m.oldestInv c.la.p service with
      | some q => takeInv m c d ps q
      | none => .pend m (.service service))

/-- IWAIT (R352). -/
def execIwait (d : Dst) (a b : Src) (s : State) := issue s (.iwait d a b) (fun cf m c => iwaitBody cf m c d a b)

/-- IWAIT_TAKE (R352): a waiting IWAIT takes the oldest invocation of its service. -/
def iwaitTake (cf : Conf) (m : Mach) (r : FRef) : Mach :=
  match m.waiting r with
  | some (c, ⟨.iwait d a b, .service service, _⟩) =>
    if (m.oldestInv c.la.p service).isSome then Mach.resolve cf c (iwaitBody cf m c d a b) else m
  | _ => m

/-- IDONE (R353). -/
def execIdone (fail : Bool) (a b : Src) (s : State) :=
  issue s (.idone fail a b) (fun cf m c =>
    match c.g.held with
    | none => handleTrap m c 5 0
    | some e =>
      let close (m : Mach) (st : HState) : Res :=
        .done ((m.endInvocation cf.device.toNat c.la.p e st).updGroup c.f.ref.t c.f.ref.g (fun g => { g with held := none })) [] .seq
      let x := m.srcL c a
      let n := (m.srcL c b).toNat
      if fail then close m (.broken (x.toNat % 256) 0)
      else if 256 < n then handleTrap m c 6 0
      else if x.toNat % 16 ≠ 0 then .trap m 3 0 (x.setWidth 64) (maskOf [c.leader])
      else
        withPlaces cf m c true .read true (spanReqs c.leader x.toNat n x.toNat) (fun ps m =>
          afterWrites m c (m.drainWids c .sys) (fun m =>
            let r := readLanes cf (m.drain c.leaf 4) (.plain c.leaf) c.la.p ps
            close r.2 (.done (r.1.flatMap Prod.snd)))))

/-! ### Invocations at their target (R350, R351) -/

/-- The result entry here of a handle of another invocation. -/
def Mach.resultEntry (m : Mach) (p : Nat) (h : Handle) : Option Nat :=
  (m.hents.find? (fun e => e.part == p && e.result && e.handle == h)).map HEnt.idx

/-- INVOCATION_ARRIVAL (R350, R351): the invocation waits here to be placed; a chained one waits at its parent's home, or, forwarded, at its
parent's result device. -/
def invocationArrival (cf : Conf) (m : Mach) (i : Invocation) : Mach :=
  let dev := cf.device.toNat
  if (cf.part? i.part).isNone then m.tellHome dev i.part i.handle (.broken 4 0)
  else
    match i.parent with
    | none => { m with invq := m.invq ++ [⟨i, none, false, false, 0, none⟩] }
    | some p =>
      if p.home = dev then { m with invq := m.invq ++ [⟨i, none, false, false, 0, none⟩] }
      else match m.resultEntry i.part p with
        | some e => { m with invq := m.invq ++ [⟨i, none, false, false, 0, some e⟩] }
        | none => m.tellHome dev i.part i.handle (.broken 0x12 0)

/-- INVOCATION_PLACE (R350): the oldest unplaced invocation of a partition takes a free result entry; its home is told. -/
def invocationPlace (cf : Conf) (m : Mach) (part idx : Nat) : Mach :=
  match m.invq.find? (fun q => q.inv.part == part && q.entry.isNone && (q.inv.parent.isNone || q.parentEntry.isSome)), cf.part? part with
  | some q, some pt =>
    if !tableOk pt || decide (16384 ≤ idx) || (m.hent? part idx).isSome then m
    else
      let q' := { q with entry := some idx, queued := q.inv.parent.isNone, order := m.fresh }
      let m : Mach := { m with
        fresh := m.fresh + 1
        invq := m.invq.map (fun x => if x = q then q' else x)
        hents := m.hents ++ [⟨part, idx, m.hgen part idx, .pending, 0, 0, true, false, q.inv.handle, none, none⟩] }
      m.tellHome cf.device.toNat part q.inv.handle (.placed cf.device.toNat idx)
  | _, _ => m

/-- Whether an earlier invocation of the same team to the same parent is still here (R351). -/
def earlierKin (qs : List InvQ) (q : InvQ) : Bool :=
  (qs.takeWhile (fun x => x != q)).any (fun x => x.inv.issuer == q.inv.issuer && x.inv.team == q.inv.team && x.inv.parent == q.inv.parent)

/-- A chained invocation never runs: its handle breaks (R351). -/
def dropInv (m : Mach) (dev : Nat) (q : InvQ) (cause depth : Nat) : Mach :=
  let m := { m with invq := m.invq.filter (fun x => x != q) }
  match q.entry with
  | some e => m.endInvocation dev q.inv.part e (.broken cause (min depth 255))
  | none => m.tellHome dev q.inv.part q.inv.handle (.broken cause (min depth 255))

/-- A chained invocation at its parent's home (R351 steps 1 and 2). -/
def forwardHome (cf : Conf) (m : Mach) (qs : List InvQ) (q : InvQ) (p : Handle) : Mach :=
  let dev := cf.device.toNat
  match homeEntry m q.inv.part p with
  | none => dropInv m dev q 0x12 1
  | some e =>
    match e.st, e.place with
    | .broken c d, _ => dropInv m dev q c (d + 1)
    | .pending, _ => m
    | _, none => m
    | _, some (d, r) =>
      if earlierKin (qs.filter (fun x => x.parentEntry.isNone)) q then m
      else
        let m := m.updHent q.inv.part q.inv.handle.index (fun x =>
          if x.handle = q.inv.handle ∧ !x.result then { x with sent := some (d, q.inv.func / 256) } else x)
        if d = dev then { m with invq := m.invq.map (fun x => if x = q then { q with parentEntry := some r } else x) }
        else { m with invq := m.invq.filter (fun x => x != q), net := m.net ++ [.forward d q.inv] }

/-- A chained invocation at its parent's result device (R351 steps 2 and 3). -/
def forwardResult (cf : Conf) (m : Mach) (qs : List InvQ) (q : InvQ) (p : Handle) (r : Nat) : Mach :=
  let dev := cf.device.toNat
  match m.hent? q.inv.part r with
  | none => dropInv m dev q 0x12 1
  | some e =>
    if e.handle ≠ p then dropInv m dev q 0x12 1
    else
      match e.st with
      | .broken c d => dropInv m dev q c (d + 1)
      | .done res =>
        if q.entry.isNone || q.queued || earlierKin qs q then m
        else
          let q' := { q with queued := true, order := m.fresh, inv := { q.inv with input := res } }
          { m with fresh := m.fresh + 1, invq := m.invq.map (fun x => if x = q then q' else x) }
      | _ => m

/-- RINVH_FORWARD (R351): the idx-th invocation of a partition here goes on once its parent has advanced. -/
def rinvhForward (cf : Conf) (m : Mach) (part idx : Nat) : Mach :=
  let qs := m.invq.filter (fun q => q.inv.part == part)
  match qs[idx]? with
  | none => m
  | some q =>
    match q.inv.parent, q.parentEntry with
    | some p, none => forwardHome cf m qs q p
    | some p, some r => forwardResult cf m qs q p r
    | none, _ => m

/-! ### The events -/

/-- HWAIT_COMPLETE (R354). -/
def execHwaitComplete (w : FRef) (s : State) := onMach s (fun cf m => hwaitComplete cf m w)
/-- IWAIT_TAKE (R352). -/
def execIwaitTake (w : FRef) (s : State) := onMach s (fun cf m => iwaitTake cf m w)
/-- INVOCATION_ARRIVAL (R350). -/
def execInvocationArrival (i : Invocation) (s : State) := onMach s (fun cf m => invocationArrival cf m i)
/-- INVOCATION_PLACE (R350). -/
def execInvocationPlace (part idx : Nat) (s : State) := onMach s (fun cf m => invocationPlace cf m part idx)
/-- RINVH_FORWARD (R351). -/
def execRinvhForward (part idx : Nat) (s : State) := onMach s (fun cf m => rinvhForward cf m part idx)

end Sys2Proof.Machine
end

