-- ==== Sys2Proof/Machine/Planes.lean ====
section
/-!
DEFINITION. Plane pairs: the Spindle (R113–R118), arriving drift messages (R117), the Batten's fold (R120, R121), merge passes (R124, R125),
silence (R129), and the instructions WOPEN, WCLOSE, PMERGE, PSTAT, PTRICK and DCHK (R123, R124, R356–R358).
-/
namespace Sys2Proof.Machine

/-! ### Fields of a region (R108) -/

/-- MODE. -/
def Region.mode (rg : Region) : Nat := nbits (natAt rg.desc 0x28 8) 49 48
/-- The bytes of a local-plane word. -/
def Region.lsize (rg : Region) : Nat := if nbit (natAt rg.desc 0x28 8) 50 then 2 else 4
/-- NEST. -/
def Region.nest (rg : Region) : Bool := nbit (natAt rg.desc 0x28 8) 51
/-- An FP32 parameter at an offset: ETA 0x30, MU 0x34, BETA 0x38, KAPPA 0x3C. -/
def Region.param (rg : Region) (off : Nat) : Nat := natAt rg.desc off 4
/-- SPINWIN. -/
def Region.spinwin (rg : Region) : Nat := nbits (natAt rg.desc 0x40 4) 22 16
/-- SILTO. -/
def Region.silto (rg : Region) : Nat := natAt rg.desc 0x58 4
/-! ### Reads and writes of Spindles and Battens -/

/-- FP32 words as bytes. -/
def wordBytes (ws : List Nat) : List Byte := ws.flatMap (leBytes 4)

/-- Free bytes: what an agent meets where the spec gives no value. -/
def Mach.freeBytes (m : Mach) (n : Nat) : List Byte × Mach :=
  ((List.range n).map (fun i => Config.freeByte (m.free + i)), { m with free := m.free + n })

/-- A read of a poisoned unit is reported: to NOTIFYQ and to the management core (R379). -/
def Mach.reportPoison (m : Mach) (rg : Region) (who : DieAgent) (ppa : Nat) : Mach :=
  let m := m.notify rg 1 0 (ppa / 16 * 16)
  { m with net := m.net ++ [.agentPoison who rg.r (ppa / 16 * 16)] }

/-- A read of a Spindle or a Batten (R66). -/
def dieRead (cf : Conf) (m : Mach) (rg : Region) (die : Nat) (g : DieAgent) (md : ReadMode) (a n : Nat) : AgentR × Mach :=
  agentRead1 cf m (.die die g) (.agent die g) rg.p rg.x md a n

/-- A Batten's read. A poisoned unit is reported (R379); its bytes, and those of a page no longer mapped, are free. None while it waits. -/
def batRead (cf : Conf) (m : Mach) (rg : Region) (die : Nat) (md : ReadMode) (a n : Nat) : Option (List Byte) × Mach :=
  match dieRead cf m rg die .batten md a n with
  | (.ok bs, m) => (some bs, m)
  | (.wait, m) => (none, m)
  | (.bad _ _ _, m) => let f := m.freeBytes n; (some f.1, f.2)
  | (.poison u, m) => let f := (m.reportPoison rg .batten u).freeBytes n; (some f.1, f.2)

/-- A Spindle's read of a word at device scope (R77, R114): a NaN where it is poisoned, which is reported (R379); no answer yet while it waits, or when its page is no
longer mapped. -/
def spinWord (cf : Conf) (m : Mach) (rg : Region) (die a n : Nat) : Option Nat × Mach :=
  match dieRead cf m rg die .spindle .spindle a n with
  | (.ok bs, m) => (some (leNat bs), m)
  | (.poison u, m) => (some (if n = 2 then 0x7FC0 else 0x7FC00000), m.reportPoison rg .spindle u)
  | (_, m) => (none, m)

/-- Work of a Batten on a weight goes on by one access: the next write it has to make, after the last of which it is at the next weight, or the next of the weight's
words to read, the last of which gives the writes (R66). -/
def strideStep (cf : Conf) (m : Mach) (rg : Region) (die : Nat) (reads : List (ReadMode × Nat × Nat)) (make : List Nat → List (Nat × List Byte)) (k : Stride) :
    Stride × Mach :=
  match k.out with
  | (a, bs) :: rest =>
    match dieWrite cf m rg die .batten a bs with
    | (false, m) => (k, m)
    | (true, m) => (if rest.isEmpty then ⟨k.w + 1, [], []⟩ else { k with out := rest }, m)
  | [] =>
    match reads[k.got.length]? with
    | none => ({ k with out := make k.got }, m)
    | some (md, a, n) =>
      match batRead cf m rg die md a n with
      | (none, m) => (k, m)
      | (some bs, m) =>
        let got := k.got ++ [leNat bs]
        ({ k with got := got, out := if got.length = reads.length then make got else [] }, m)

/-- The stride at the first weight. -/
def Stride.start : Stride := ⟨0, [], []⟩

/-! ### Blocks (R115, R116) -/

/-- One block quantised: its exponent and mantissas (R115). -/
def quantBlock (bm : Nat) (ds : List Nat) : Nat × List Int :=
  if ds.any (fun d => nbits d 30 23 == 255) then (255, ds.map (fun _ => 0))
  else
    let amax := (ds.map (fun d => d % 2 ^ 31)).foldl max 0
    match fp32.dec amax with
    | .fin x =>
      if x.mant = 0 then (0, ds.map (fun _ => 0))
      else
        let e : Int := (nlog2 x.mant : Int) + x.exp
        let ex := min 254 (max 1 (e + 128))
        let k := ex - 127 - ((bm : Int) - 1)
        let lim : Int := 2 ^ (bm - 1) - 1
        (ex.toNat, ds.map (fun d => match fp32.dec d with
          | .fin y => max (-lim) (min lim (roundInt .rne { y with exp := y.exp - k }).1)
          | _ => 0))
    | _ => (255, ds.map (fun _ => 0))

/-- The exact value of a mantissa under a block exponent (R115, R186). -/
def blockValue (bm e : Nat) (q : Int) : Dy := if e = 255 then ⟨false, 0, 0⟩ else dyQ q ((e : Int) - 127 - ((bm : Int) - 1))

/-- The FP32 code of an exact value; +0.0 for zero. -/
def valueCode (d : Dy) : Nat := if d.mant = 0 then 0 else (fp32.round .rne d).1

/-- NSQ (R114): the exact sum of squares in units of 2^−32, truncated and saturated. -/
def nsqOf (vs : List Dy) : Nat :=
  let s := dySum (vs.map (fun v => v.mul v))
  min (shiftN s.mant (s.exp + 32)) (2 ^ 64 - 1)

/-- The mantissa bytes of a block (R116). -/
def mantBytes (bm : Nat) (qs : List Int) : List Byte :=
  leBytes (4 * bm) ((qs.zip (List.range 32)).foldl (fun s q => s + (q.1 % 2 ^ bm).toNat * 2 ^ (q.2 * bm)) 0)

/-- The mantissas of a block's bytes (R116). -/
def mantsOf (bm : Nat) (bs : List Byte) : List Int :=
  let v := leNat bs
  (List.range 32).map (fun j => (BitVec.ofNat bm (v / 2 ^ (j * bm))).toInt)

/-- The D_sent values of the exponents and mantissas of a fragment of `count` weights; none when a block is a NaN block. -/
def blockValues (bm count : Nat) (exps mants : List Byte) : Option (List Dy) :=
  if exps.any (fun e => e == 255) then none
  else some (((exps.zip (List.range exps.length)).flatMap (fun e =>
    (mantsOf bm (bytesAt mants (4 * bm * e.2) (4 * bm))).map (blockValue bm e.1.toNat))).take count)

/-! ### The Spindle (R113, R114) -/

/-- The round a fragment's next send has. -/
def Frag.next (f : Frag) : Nat := if f.sentOnce then f.round + 1 else 0

/-- The fragment a die sends next, when it may begin (R113). -/
def Mach.spinNext (m : Mach) (rg : Region) (die : Nat) : Option Frag :=
  let fs := rg.frags.filter (fun f => rg.dieOf f.f == die)
  let first := fs.foldl (fun (b : Option Frag) f => match b with
    | none => some f
    | some x => if f.next < x.next then some f else some x) none
  match first with
  | none => none
  | some f =>
    let free := match rg.lastStart.find? (fun s => s.1 == die) with
      | none => true
      | some s => decide (rg.spinper ≤ m.dieCyc die - s.2)
    if f.st == 0 && !rg.paused && rg.init.isNone && decide ((fs.filter (fun x => x.st != 0)).length < rg.spinwin) && free then some f else none

/-- The drift of a weight: L − A rounded to FP32, L widened exactly (R114). -/
def driftAt (size l a : Nat) : Nat := (elAdd fp32 true (if size = 2 then l * 65536 else l) a).1

/-- A Spindle's next read: L[w], then A[w]; with both it has the weight's drift (R7, R114). -/
def spinRead (cf : Conf) (m : Mach) (rg : Region) (s : Spin) : Spin × Mach :=
  let w := s.f * rg.F + s.ds.length
  match s.got with
  | [] =>
    match spinWord cf m rg s.die (rg.base 0 + w * rg.lsize) rg.lsize with
    | (none, m) => (s, m)
    | (some l, m) => ({ s with got := [l] }, m)
  | l :: _ =>
    match spinWord cf m rg s.die (rg.base 8 + 4 * w) 4 with
    | (none, m) => (s, m)
    | (some a, m) => ({ s with got := [], ds := s.ds ++ [driftAt rg.lsize l a] }, m)

/-- What a fragment's drift becomes (R114–R116): the message, the codes of D_sent, DMAX. -/
def quantise (rg : Region) (f round self : Nat) (ds : List Nat) : Drift × List Nat × Nat :=
  let n := rg.count f
  let bm := rg.bfpm
  let ds := ds ++ List.replicate (32 * blocksOf n - n) 0
  let blocks := (List.range (blocksOf n)).map (fun b => quantBlock bm ((ds.drop (32 * b)).take 32))
  let vals := (blocks.flatMap (fun b => b.2.map (blockValue bm b.1))).take n
  let codes := vals.map valueCode
  let nan := blocks.any (fun b => b.1 == 255)
  (⟨rg.tag, round, f, self, bm, if nan then 2 ^ 64 - 1 else nsqOf vals, n, blocks.map (fun b => BitVec.ofNat 8 b.1), blocks.flatMap (fun b => mantBytes bm b.2)⟩,
    codes, if nan then 0x7F800000 else (codes.map (fun c => c % 2 ^ 31)).foldl max 0)

/-- A die's Spindle is no longer, or still, at a fragment. -/
def Mach.setSpin (m : Mach) (r die : Nat) (s : Option Spin) : Mach :=
  m.updRegion r (fun g => { g with spin := s.toList ++ g.spin.filter (fun y => y.die != die) })

/-- D_sent's accesses (R66, R114). -/
def stagedWords (rg : Region) (f : Nat) (codes : List Nat) : List (Nat × List Byte) :=
  let a := rg.staging f + 64
  let bs := wordBytes codes
  (pieces a bs.length).map (fun pc => (pc.1, bytesAt bs (pc.1 - a) pc.2))

/-- A fragment that has been read and staged is sent to every other member island: DMAX is set, then, with NSQ, ROUND and STATE, it is sent (R114, R116). -/
def spinSend (cf : Conf) (m : Mach) (rg : Region) (fr : Frag) (s : Spin) : Mach :=
  let round := fr.next
  let mb := rg.member round
  let q := quantise rg fr.f round mb.self s.ds
  let dm := { fr with dmax := BitVec.ofNat 32 q.2.2, sentAt := s.since }
  if fr ≠ dm then (m.setFrag cf rg dm).2
  else
    match m.setFrag cf rg { dm with st := 1, round := round, sentOnce := true, nsq := q.1.nsq } with
    | (false, m) => m
    | (true, m) =>
      let m := (m.setSpin rg.r s.die none).updRegion rg.r (fun g => { g with contribs := g.contribs ++ [⟨mb.self, fr.f, round, q.1, none⟩] })
      (((List.range mb.count).filter (fun i => i != mb.self)).foldl (fun m i => m.sendDrift rg i q.1) m).normCheck rg.r

/-- One unit of a Spindle at a fragment: it reads a word; with the last it has D_sent; it writes some of it; or it sends (R114). -/
def spinUnit (cf : Conf) (m : Mach) (rg : Region) (s : Spin) : Mach :=
  let fr := rg.frag s.f
  if s.ds.length < rg.count s.f then let x := spinRead cf m rg s; x.2.setSpin rg.r s.die (some x.1)
  else if !s.formed then
    m.setSpin rg.r s.die (some { s with formed := true, out := stagedWords rg s.f (quantise rg s.f fr.next (rg.member fr.next).self s.ds).2.1 })
  else
    match s.out with
    | (a, bs) :: rest =>
      match dieWrite cf m rg s.die .spindle a bs with
      | (false, m) => m
      | (true, m) => m.setSpin rg.r s.die (some { s with out := rest })
    | [] => spinSend cf m rg fr s

/-- A die's Spindle goes on by n units at the fragment it is at. -/
def spinUnits (cf : Conf) (r die : Nat) : Nat → Mach → Mach
  | 0, m => m
  | n + 1, m =>
    match (m.region? r).bind (fun rg => (rg.spin.find? (fun s => s.die == die)).map (fun s => (rg, s))) with
    | none => m
    | some (rg, s) => spinUnits cf r die n (spinUnit cf m rg s)

/-- SPINDLE_SEND (R113, R114, R116): n units of the fragment a die's Spindle is at, or of its next, which it begins. -/
def spindleSend (cf : Conf) (m : Mach) (r die n : Nat) : Mach :=
  match m.region? r with
  | none => m
  | some rg =>
    match rg.spin.find? (fun s => s.die == die), m.spinNext rg die with
    | some _, _ => spinUnits cf r die n m
    | none, none => m
    | none, some f =>
      let m := m.updRegion r (fun g => { g with lastStart := (die, m.dieCyc die) :: g.lastStart.filter (fun l => l.1 != die) })
      spinUnits cf r die n (m.setSpin r die (some ⟨die, f.f, m.dieCyc die, [], [], false, []⟩))

/-! ### The Batten's fold (R120, R121) -/

/-- FP32 a ÷ b with one rounding, b positive, finite and not zero (R120). -/
def fdiv32 (a b : Nat) : Nat :=
  match fp32.dec a, fp32.dec b with
  | .fin x, .fin y => if x.mant = 0 then a else (fp32.round .rne (dyDiv x y)).1
  | .inf n, _ => (inf32 n).toNat
  | _, _ => nan32.toNat

/-- nu of a squared norm: a conversion and a correctly rounded root (R120). -/
def nuOf (nsq : Nat) : Word := (opSqrt (round32 ⟨false, nsq, -32⟩).1).1

/-- tau (R120): the transformed mean of the nonzero norms in ascending island, entered under clamp; +∞ where it has none. -/
def tauOf (code : Nat) (pr : Pair) (nus : List Word) : Word :=
  let ts := (nus.filter (fun n => n != 0)).map (fun n => entryOr .clamp code pr n)
  if ts.isEmpty || ts.any Prod.snd then inf32 false
  else
    let r := mergeAll code (ts.map Prod.fst)
    let e := exitMean code pr r.1
    if r.2 || e.2.2 || (fp32.dec e.1.toNat).isNan then inf32 false else e.1

/-- A clip factor (R120). -/
def clipOf (t : Nat) (nu : Word) : Nat :=
  if nu = 0 then 0x3F800000 else (elMinMax fp32 false (fdiv32 t nu.toNat) 0x3F800000).1

/-- The outer step of one element: Mnew, ΔA and Δm from the islands' factors and values, Mold and D_sent (R120). -/
def outerStep (rg : Region) (count : Nat) (cs vs : List Nat) (mold dsent : Nat) : Nat × Nat × Nat :=
  let s := (cs.zip vs).foldl (fun s x => (elFma fp32 false false x.1 x.2 s).1) 0
  let dbar := fdiv32 s (fp32.round .rne (dyInt count)).1
  let mu := rg.param 0x34
  let mnew := (elFma fp32 false false mu mold dbar).1
  let da := (elMul fp32 (rg.param 0x30) (if rg.nest then (elFma fp32 false false mu mnew dbar).1 else mnew)).1
  let dd := (elAdd fp32 true da dsent).1
  (mnew, da, if rg.mode = 2 then (elMul fp32 (rg.param 0x38) dd).1 else dd)

/-- The table pair of a region's clip mean (R108). -/
def Region.clipPair (rg : Region) : Pair := if rg.pair.isEmpty then none else some rg.pair

/-- The contributions to a round, in ascending island; none until every member island's is there (R120). -/
def Region.round (rg : Region) (f r : Nat) : Option (List Contrib) :=
  (List.range (rg.member r).count).foldr (fun i l =>
    match rg.contribs.find? (fun k => k.island == i && k.frag == f && k.round == r), l with
    | some k, some l => some (k :: l)
    | _, _ => none) (some [])

/-- The bytes of a message's exponents and mantissas in its receive slot (R110, R116). -/
def Region.blockBytes (rg : Region) (f : Nat) : Nat := blocksOf (rg.count f) * (1 + 4 * rg.bfpm)

/-- The accesses by which a fold reads the messages of a round, in ascending island. -/
def foldReads (rg : Region) (ks : List Contrib) : List (Nat × Nat) :=
  ks.flatMap (fun k => match k.slot with
    | none => []
    | some j => pieces (rg.slotAt k.island j + 32) (rg.blockBytes k.frag))

/-- Each contribution's exponents and mantissas, those of the messages from the bytes read of their slots. This island's own NaN blocks and norm are those of the blocks its
Spindle formed, though the sum takes D_sent from the staging entry, which another agent may have written since: the spec does not say which holds (a choice of the model:
log entry 93). -/
def contribBlocks (rg : Region) (bs : List Byte) : List Contrib → List (List Byte × List Byte)
  | [] => []
  | k :: ks =>
    let n := blocksOf (rg.count k.frag)
    match k.slot with
    | none => (k.m.exps, k.m.mants) :: contribBlocks rg bs ks
    | some _ => (bs.take n, bytesAt bs n (rg.blockBytes k.frag - n)) :: contribBlocks rg (bs.drop (rg.blockBytes k.frag)) ks

/-- What a fold makes of its messages: the islands' clip factors and the codes of their D_sent values; none when a block is a NaN block (R120, R121). -/
def judgeFold (rg : Region) (f : Nat) (bs : List Byte) (ks : List Contrib) : Option (List Nat × List (List Nat)) :=
  let vs := (contribBlocks rg bs ks).map (fun b => blockValues rg.bfpm (rg.count f) b.1 b.2)
  if vs.any Option.isNone then none
  else
    let vals := vs.map (fun v => v.getD [])
    let nus := vals.map (fun v => nuOf (nsqOf v))
    let t := (elMul fp32 (rg.param 0x3C) (tauOf (natAt rg.desc 0x40 1) rg.clipPair nus).toNat).1
    some (nus.map (clipOf t), vals.map (fun v => v.map valueCode))

/-- The words a fold reads of a weight: D_sent and the momentum (R120). -/
def foldWords (rg : Region) (f w : Nat) : List (ReadMode × Nat × Nat) :=
  [(.spindle, rg.staging f + 64 + 4 * w, 4), (.spindle, rg.base 16 + 4 * (f * rg.F + w), 4)]

/-- What a fold writes of a weight: the momentum, ΔA and, but for RESET, Δm (R120). The own island's value is D_sent as read. -/
def foldWrites (rg : Region) (fo : Fold) (self : Nat) (got : List Nat) : List (Nat × List Byte) :=
  let w := fo.run.w
  let sent := got.getD 0 0
  let ds := (fo.vals.zip (List.range fo.vals.length)).map (fun v => if v.2 = self then sent else v.1.getD w 0)
  let o := outerStep rg fo.vals.length fo.cs ds (got.getD 1 0) sent
  let a := rg.staging fo.f + 64 + 4 * w
  [(rg.base 16 + 4 * (fo.f * rg.F + w), leBytes 4 o.1), (a + 4 * rg.F, leBytes 4 o.2.1)] ++ (if rg.mode = 1 then [] else [(a + 8 * rg.F, leBytes 4 o.2.2)])

/-- A fold's progress is kept. -/
def Mach.setFold (m : Mach) (r : Nat) (fo : Fold) : Mach := m.updRegion r (fun g => { g with folds := fo :: g.folds.filter (fun x => x.f != fo.f) })

/-- The round is over: contributions and slots are freed, and it counts as folded (R117, R120, R121). -/
def Mach.endRound (m : Mach) (r f round : Nat) : Mach :=
  m.updRegion r (fun g => { g with
    contribs := g.contribs.filter (fun k => !(k.frag == f && decide (k.round ≤ round)))
    folds := g.folds.filter (fun x => x.f != f)
    frags := g.frags.map (fun x => if x.f = f then { x with folded := round + 1 } else x) })

/-- The fold of a fragment's round ends: staged, or poisoned (R120, R121). -/
def endFold (cf : Conf) (m : Mach) (rg : Region) (fr : Frag) (poison : Bool) : Mach :=
  match m.setFrag cf rg { fr with st := if poison then 0 else 2, poison := poison } with
  | (false, m) => m
  | (true, m) => (m.endRound rg.r fr.f fr.round).startPass rg.r

/-- BATTEN_FOLD (R120, R121): round r of a fragment, once every contribution is there, goes on by one unit. It reads an access of a message; with all of them it is judged,
and poisoned by a NaN block; then weight by weight it reads and writes; and it is staged. -/
def battenFold (cf : Conf) (m : Mach) (r f : Nat) : Mach :=
  match (m.region? r).bind (fun rg => (rg.frags.find? (fun x => x.f == f)).bind (fun fr =>
      if fr.st = 1 then (rg.round f fr.round).map (fun ks => (rg, fr, ks)) else none)) with
  | none => m
  | some (rg, fr, ks) =>
    let die := rg.dieOf f
    let fo := (rg.folds.find? (fun x => x.f == f)).getD ⟨f, 0, [], false, [], [], .start⟩
    if !fo.judged then
      match (foldReads rg ks)[fo.pos]? with
      | some (a, n) =>
        match batRead cf m rg die .spindle a n with
        | (none, m) => m
        | (some bs, m) => m.setFold r { fo with pos := fo.pos + 1, slots := fo.slots ++ bs }
      | none =>
        match judgeFold rg f fo.slots ks with
        | none => endFold cf m rg fr true
        | some (cs, vals) => m.setFold r { fo with slots := [], judged := true, cs := cs, vals := vals }
    else if fo.run.w < rg.count f then
      let x := strideStep cf m rg die (foldWords rg f fo.run.w) (foldWrites rg fo (rg.member fr.round).self) fo.run
      x.2.setFold r { fo with run := x.1 }
    else endFold cf m rg fr false

/-! ### Merge passes (R124, R125) -/

/-- Every write to some bytes leaves every buffer of the device (R124 step 2). -/
def Mach.flushAll (m : Mach) (sp : Space) (addr n : Nat) : Mach :=
  (List.range 4).foldl (fun m l =>
    let ps := ((m.bufs.map BufEnt.pt).filter (fun p => Point.level p == l)).eraseDups
    let ws := m.widsTo ps sp addr n
    m.push ps (fun w => ws.contains w)) m

/-- Every write to the bytes of one access of a local plane leaves every buffer; or it must wait. -/
def flushRange (cf : Conf) (m : Mach) (rg : Region) (die a n : Nat) : Bool × Mach :=
  match reach cf m (.agent die .batten) rg.p rg.x a .read with
  | (.ok ac, m) => (true, m.flushAll ac.sp ac.addr n)
  | (.bad _ _, m) => (true, m)
  | (.wait, m) => (false, m)

/-- A sum of two FP32 values rounded once to the local format (R125), as bytes. -/
def localSum (size a b : Nat) : List Byte :=
  let f := if size = 2 then bf16 else fp32
  let x := fp32.dec a
  let y := fp32.dec b
  leBytes size (sumOf f [x, y] [(x, 0), (y, 0)]).1

/-- The words a pass reads of a weight: L at its home, A, ΔA and, but for RESET, Δm (R124, R125). -/
def passWords (rg : Region) (f w : Nat) : List (ReadMode × Nat × Nat) :=
  let a := rg.staging f + 64 + 4 * w
  [(.home, rg.base 0 + (f * rg.F + w) * rg.lsize, rg.lsize), (.spindle, rg.base 8 + 4 * (f * rg.F + w), 4), (.spindle, a + 4 * rg.F, 4)]
    ++ (if rg.mode = 1 then [] else [(.spindle, a + 8 * rg.F, 4)])

/-- What it writes of a weight: the new L and the new A (R125). -/
def passWrites (rg : Region) (f w : Nat) (got : List Nat) : List (Nat × List Byte) :=
  let l := if rg.lsize = 2 then got.getD 0 0 * 65536 else got.getD 0 0
  let a := got.getD 1 0
  let da := got.getD 2 0
  [(rg.base 0 + (f * rg.F + w) * rg.lsize, if rg.mode = 1 then localSum rg.lsize a da else localSum rg.lsize l (got.getD 3 0)),
    (rg.base 8 + 4 * (f * rg.F + w), leBytes 4 (elAdd fp32 false a da).1)]

/-- A pass is at a place. -/
def Mach.setPass (m : Mach) (r : Nat) (k : PassAt) : Mach := m.updRegion r (fun g => { g with passAt := k })

/-- What a pass does once it has been at all its fragments (R124): steps 2 and 3 are over; ANCVER has grown and the drain is made; it ends, and a fragment staged meanwhile
begins another. -/
def passStage (m : Mach) (rg : Region) : Mach :=
  let m := m.setPass rg.r ⟨rg.passAt.stage + 1, 0, .start⟩
  match rg.passAt.stage with
  | 0 | 1 => m
  | 2 => rg.dies.foldl (fun m d => m.drain (.die d .batten) 3) (m.updRegion rg.r (fun g => { g with ancver := (g.ancver + rg.passing.length) % 2 ^ 32 }))
  | _ => (m.updRegion rg.r (fun g => { g with passing := [] })).startPass rg.r

/-- What a pass does at a fragment (R124, R125), and whether it is then done there: it becomes APPLYING and its local-plane words leave the buffers, access by access; its
weights are read and written; MERGES grows; it becomes IDLE. -/
def passFrag (cf : Conf) (m : Mach) (rg : Region) (f : Nat) : Bool × Mach :=
  let die := rg.dieOf f
  let fr := rg.frag f
  let k := rg.passAt
  let at_ (run : Stride) (m : Mach) := m.setPass rg.r { k with run := run }
  match k.stage with
  | 0 =>
    if k.run.w = 0 then
      match m.setFrag cf rg { fr with st := 3 } with
      | (false, m) => (false, m)
      | (true, m) => (false, at_ ⟨1, [], []⟩ m)
    else match (pieces (rg.base 0 + f * rg.F * rg.lsize) (rg.count f * rg.lsize))[k.run.w - 1]? with
      | none => (true, m)
      | some (a, n) =>
        match flushRange cf m rg die a n with
        | (false, m) => (false, m)
        | (true, m) => (false, at_ ⟨k.run.w + 1, [], []⟩ m)
  | 1 =>
    if rg.count f ≤ k.run.w then (true, m)
    else
      let x := strideStep cf m rg die (passWords rg f k.run.w) (passWrites rg f k.run.w) k.run
      (false, at_ x.1 x.2)
  | 2 => m.setFrag cf rg { fr with merges := (fr.merges + 1) % 2 ^ 32 }
  | _ => m.setFrag cf rg { fr with st := 0 }

/-- MERGE_PASS (R124): a pass that has begun goes on by one unit. -/
def mergePass (cf : Conf) (m : Mach) (r : Nat) : Mach :=
  match m.region? r with
  | none => m
  | some rg =>
    if rg.passing.isEmpty then m
    else
      match rg.passing[rg.passAt.idx]? with
      | none => passStage m rg
      | some f =>
        match passFrag cf m rg f with
        | (false, m) => m
        | (true, m) => m.setPass r { rg.passAt with idx := rg.passAt.idx + 1, run := .start }

/-! ### Silence (R129) -/

/-- ISLAND_SILENT: a member island whose contribution to a sent round is late is latched once, and a notice posted (R129, R131). -/
def islandSilent (m : Mach) (r f island : Nat) : Mach :=
  match m.region? r with
  | none => m
  | some rg =>
    match rg.frags.find? (fun x => x.f == f) with
    | none => m
    | some fr =>
      let late := rg.silto != 0 && decide (rg.silto * 1024 < m.dieCyc (rg.dieOf f) - fr.sentAt)
      let missing := decide (island < (rg.member fr.round).count) &&
        !(rg.contribs.any (fun k => k.island == island && k.frag == f && k.round == fr.round))
      if fr.st = 1 ∧ late ∧ missing ∧ !rg.silentSeen.contains island then
        (m.updRegion r (fun g => { g with silent := g.silent ++ [(island, f)], silentSeen := island :: g.silentSeen })).notify rg 0 2
          (divergeAddr f island 0)
      else m

/-! ### The instructions (R356) -/

/-- The checks of R356: REGMASK and the binding, then a latched condition, for the instructions that deliver one (R130). -/
def planeBody (m : Mach) (c : Ctx) (k : Nat) (deliver : Bool) (go : Region → Res) : Res :=
  match (if nbit c.rc.regmask k then m.regionOf c.la.p c.la.x k else none) with
  | none => .trap m 0x0F 0 0 c.P
  | some rg =>
    match (if deliver then m.diverge rg k else none) with
    | some (sub, addr, m) => .trap m 0x10 sub (BitVec.ofNat 64 addr) c.P
    | none => go rg

/-- A fibre's window depth on a region changes. -/
def Mach.setDepth (m : Mach) (r : FRef) (k d : Nat) : Mach := m.updFibre r (fun f => { f with depths := modAt f.depths k (fun _ => d) })

/-- A window opens (R123 steps 4 and 5). -/
def Mach.openWindow (m : Mach) (c : Ctx) (rg : Region) (k : Nat) : Mach :=
  ((m.updRegion rg.r (fun g => { g with cnt := g.cnt + 1 })).setDepth c.f.ref k (c.f.depths.getD k 0 + 1)).invalidate c.leaf 3

/-- WOPEN (R123). -/
def wopenBody (m : Mach) (c : Ctx) (k : Nat) : Res :=
  planeBody m c k true (fun rg =>
    if 15 ≤ c.f.depths.getD k 0 then .trap m 0x0F 0 0 c.P
    else if c.f.depths.getD k 0 = 0 ∧ (rg.stg || rg.pass) then .pend m (.window rg.r)
    else .done (m.openWindow c rg k) [] .seq)

/-- WCLOSE (R124). -/
def wcloseBody (m : Mach) (c : Ctx) (k : Nat) : Res :=
  planeBody m c k true (fun rg =>
    if c.f.depths.getD k 0 = 0 then .trap m 0x0F 0 0 c.P
    else .done ((m.setDepth c.f.ref k (c.f.depths.getD k 0 - 1)).closeWindows c.leaf rg.r 1) [] .seq)

/-- A quiescent point: the acquire of a WOPEN and the release of a WCLOSE (R357). -/
def Mach.quiesce (m : Mach) (c : Ctx) : Mach := (m.invalidate c.leaf 3).drain c.leaf 3

/-- PMERGE (R357). -/
def pmergeBody (m : Mach) (c : Ctx) (d : Dst) (k : Nat) : Res :=
  planeBody m c k true (fun rg =>
    if c.f.depths.getD k 0 ≠ 0 then .trap m 0x0F 0 0 c.P
    else if rg.stg || rg.pass then .pend m (.window rg.r)
    else resultLate (m.quiesce c) c d (c.each (BitVec.ofNat 32 rg.ancver)))

/-- Four words to every lane of P: a long-latency result where there is a register; the latch takes the first (R221, R222). -/
def quadLate (m : Mach) (c : Ctx) (d : Dst) (w : Nat → Word) : Res :=
  match d with
  | .v n => .late (m.addOutst c (c.lanes.flatMap (fun i => (List.range 4).map (fun j => (n + j, i, w j)))) (c.each (w 0))) .seq
  | .nw => .done m (c.each (w 0)) .seq

/-- PSTAT (R358): the header is read at its home; a fragment that is not there reads zero. A poisoned header stops the launch (R379); a page that is mapped no longer gives free
bytes. While the read must wait (R20, R58) the instruction is issued again, from the die's next REFRESH_END on: bank 32 is none. -/
def pstatBody (cf : Conf) (m : Mach) (c : Ctx) (d : Dst) (a : Src) (k : Nat) : Res :=
  planeBody m c k false (fun rg =>
    let f := (m.srcL c a).toNat
    let give (m : Mach) (bs : List Byte) : Res := quadLate m c d (fun i => BitVec.ofNat 32 (natAt bs (4 * i) 4))
    if rg.nf ≤ f then give m (List.replicate 16 0)
    else
      match agentRead1 cf m c.leaf (.agent (rg.dieOf f) .batten) rg.p rg.x .home (rg.staging f) 16 with
      | (.ok bs, m) => give m bs
      | (.bad _ _ _, m) => let x := m.freeBytes 16; give x.2 x.1
      | (.poison _, m) => .stop m 0
      | (.wait, m) => .hold m (.bank (rg.dieOf f) 32))

/-- PTRICK (R358). -/
def ptrickBody (m : Mach) (c : Ctx) (d : Dst) (a : Src) (k : Nat) : Res :=
  planeBody m c k false (fun rg =>
    resultLate (m.updRegion rg.r (fun g => { g with spinper := (m.srcL c a).toNat })) c d (c.each (BitVec.ofNat 32 rg.spinper)))

/-- DCHK (R358). -/
def dchkBody (m : Mach) (c : Ctx) (d : Dst) (k : Nat) : Res :=
  planeBody m c k true (fun rg => pairLate m c d (c.each (BitVec.ofNat 64 rg.dnsqSat)))

/-- WOPEN_PROCEED (R123, R357): a fibre that waits in WOPEN or PMERGE goes on once STG and PASS are clear; a region that is gone raises
PLANESTORE. -/
def wopenProceed (cf : Conf) (m : Mach) (r : FRef) : Mach :=
  match m.waiting r with
  | some (c, ⟨i, .window rr, _⟩) =>
    let lost := if m.barred c.f then m else Mach.resolve cf c (.trap m 0x0F 0 0 c.P)
    match i, m.region? rr with
    | .wopen k, some rg => if rg.stg || rg.pass then m else (m.openWindow c rg k).completeWait r [] []
    | .pmerge d _, some rg =>
      let v := c.each (BitVec.ofNat 32 rg.ancver)
      if rg.stg || rg.pass then m else (m.quiesce c).completeWait r (dstWrites d v) v
    | _, _ => lost
  | _ => m

/-- WOPEN (R123). -/
def execWopen (k : Nat) (s : State) := issue s (.wopen k) (fun _ m c => wopenBody m c k)
/-- WCLOSE (R124). -/
def execWclose (k : Nat) (s : State) := issue s (.wclose k) (fun _ m c => wcloseBody m c k)
/-- PMERGE (R357). -/
def execPmerge (d : Dst) (k : Nat) (s : State) := issue s (.pmerge d k) (fun _ m c => pmergeBody m c d k)
/-- PSTAT (R358). -/
def execPstat (d : Dst) (a : Src) (k : Nat) (s : State) := issue s (.pstat d a k) (fun cf m c => pstatBody cf m c d a k)
/-- PTRICK (R358). -/
def execPtrick (d : Dst) (a : Src) (k : Nat) (s : State) := issue s (.ptrick d a k) (fun _ m c => ptrickBody m c d a k)
/-- DCHK (R358). -/
def execDchk (d : Dst) (k : Nat) (s : State) := issue s (.dchk d k) (fun _ m c => dchkBody m c d k)
/-- WOPEN_PROCEED (R123). -/
def execWopenProceed (w : FRef) (s : State) := onMach s (fun cf m => wopenProceed cf m w)
/-- SPINDLE_SEND (R113). -/
def execSpindleSend (rgn die n : Nat) (s : State) := onMach s (fun cf m => spindleSend cf m rgn die n)
/-- BATTEN_FOLD (R120). -/
def execBattenFold (rgn frag : Nat) (s : State) := onMach s (fun cf m => battenFold cf m rgn frag)
/-- MERGE_PASS (R124). -/
def execMergePass (rgn : Nat) (s : State) := onMach s (fun cf m => mergePass cf m rgn)
/-- ISLAND_SILENT (R129). -/
def execIslandSilent (rgn frag island : Nat) (s : State) := onMach s (fun _ m => islandSilent m rgn frag island)

end Sys2Proof.Machine
end

