-- ==== Sys2Proof/Machine/Place.lean ====
section
/-!
DEFINITION. Launch records as read (R136–R138) and what admission refuses (R140), the needs of a team on a core (R38, R40, R141), and where
clusters and grids can be placed (R143–R146, R165).
-/
namespace Sys2Proof.Machine

/-! ### Launch records (R136–R138) -/

/-- A transform binding of 16 bytes (R138). -/
def bindOf (b : List Byte) : Binding :=
  let w := natAt b 0 8
  ⟨nbits w 3 0, nbits w 6 4, nbits w 11 8, nbits w 15 12, nbit w 16, BitVec.ofNat 64 (natAt b 8 8)⟩

/-- A launch record of 256 bytes (R136). -/
def lrecOf (b : List Byte) : LRec :=
  let w1 := natAt b 8 8
  let w2 := natAt b 0x10 8
  let w4 := natAt b 0x20 8
  let w7 := natAt b 0x38 8
  { entry := BitVec.ofNat 64 (natAt b 0 8)
    nclu := w1 % 2 ^ 32, clw := nbits w1 36 32, clh := nbits w1 40 37, rects := nbits w1 43 41, span := nbit w1 44, lat := nbits w1 46 45
    persist := nbit w1 47
    ngrp := nbits w2 6 0, regs := nbits w2 16 8, sect0 := if nbits w2 19 17 = 0 then 5 else nbits w2 19 17
    fek := if nbits w2 24 20 = 0 then 24 else nbits w2 24 20, scr := w2 / 2 ^ 32
    ieoff := natAt b 0x18 4, ielen := natAt b 0x1C 4
    tmask := nbits w4 3 0, scu := nbits w4 9 4, regmask := nbits w4 23 16, pairmask := nbits w4 31 25
    roles := natAt b 0x28 16
    fwe := nbits w7 5 0, fwen := nbit w7 6, fwperm := nbits w7 9 7, fwob := nbits w7 48 16
    fmts := (List.range 8).map (fun i => natAt b (0x40 + 4 * i) 4)
    binds := (List.range 4).map (fun i => bindOf (bytesAt b (0x60 + 16 * i) 16))
    args := bytesAt b 0xA0 64 }

/-- Whether a format slot breaks R137 or R189. -/
def fmtBad (s : Nat) : Bool :=
  let fc := nbits s 7 0
  let mb := nbits s 11 8
  let want := if 6 ≤ fc ∧ fc ≤ 0x0B then 1 else if fc = 0x0F then 2 else 0
  nbits s 31 16 != 0 || decide (0x0F < fc) || nbits s 15 12 != want || (if fc = 0x0F then decide (mb < 2) || decide (8 < mb) else mb != 0)

/-- Whether a binding's 16 bytes break R138. BAR must be zero wherever no arrival names it, so for kind 1 without `.arr` too: that "otherwise zero" covers this case is
a reading of the model (log entry 94). -/
def bindBad (pairmask : Nat) (b : List Byte) : Bool :=
  let w := natAt b 0 8
  let k := bindOf b
  decide (3 < k.kind) || nbit w 7 || decide (w / 2 ^ 17 ≠ 0)
    || (if k.kind = 3 then k.pair == 0 || !nbit pairmask (k.pair - 1) else k.pair != 0)
    || (k.kind != 1 && (k.cflags != 0 || k.fe))
    || (k.bar != 0 && !(k.kind == 1 && nbit k.cflags 3))

/-- Whether a record's reserved bits are set or its fields lie outside their ranges (R136–R138, R140). -/
def lrecBad (b : List Byte) : Bool :=
  let r := lrecOf b
  let w1 := natAt b 8 8
  let w2 := natAt b 0x10 8
  let w4 := natAt b 0x20 8
  let w7 := natAt b 0x38 8
  nbits w1 63 48 != 0 || nbit w2 7 || nbits w2 31 25 != 0 || nbits w4 15 10 != 0 || nbit w4 24 || decide (w4 / 2 ^ 32 ≠ 0)
    || nbits w7 15 10 != 0 || nbits w7 63 49 != 0 || !allZero (bytesAt b 0xE0 32)
    || r.entry.toNat % 4 != 0
    || r.nclu == 0 || decide (2 ^ 31 < r.nclu) || r.clw == 0 || decide (16 < r.clw) || r.clh == 0 || decide (12 < r.clh)
    || r.rects == 0 || decide (4 < r.rects) || (!r.span && (r.rects != 1 || r.lat != 0)) || r.lat == 3 || decide (128 < r.clw * r.clh * r.rects)
    || r.ngrp == 0 || decide (64 < r.ngrp) || decide (r.regs < 16) || decide (256 < r.regs) || r.regs % 8 != 0
    || decide (5 < r.sect0) || decide (r.fek < 12) || decide (30 < r.fek)
    || decide (r.scr < 4096) || decide (2 ^ 20 < r.scr) || r.scr % 4096 != 0
    || r.ielen % 16 != 0 || (r.ielen != 0 && (r.ieoff % 16 != 0 || decide (r.ieoff < 0x80) || decide (r.scr < r.ieoff + r.ielen)))
    || decide (32 < r.scu)
    || r.fmts.any fmtBad || (List.range 4).any (fun i => bindBad r.pairmask (bytesAt b (0x60 + 16 * i) 16))

/-- The cores of a cluster. -/
def LRec.ncores (rc : LRec) : Nat := rc.clw * rc.clh * rc.rects

/-- Whether a persistent launch's window entries cannot be written (R147). -/
def fwBad (pt : Part) (rc : LRec) : Bool :=
  rc.persist && rc.fwen && (decide (64 < rc.fwe + rc.nclu * rc.ncores) ||
    !(inPkg pt (pt.fwtab + 32 * rc.fwe) && inPkg pt (pt.fwtab + 32 * (rc.fwe + rc.nclu * rc.ncores) - 1)))

/-! ### A team on a core (R141) -/

/-- What a resident team holds of its core. -/
structure Seat where
  core : Nat
  x : Nat
  rc : LRec
  base : Nat
  regBase : List Nat
deriving DecidableEq, Repr

/-- The teams that hold their cores: those of clusters that are not saved (R175). -/
def Mach.seats (m : Mach) : List Seat :=
  m.teams.filterMap (fun tm =>
    match m.cluster? tm.c, m.launch? tm.l with
    | some cl, some la => if cl.pre = .saved then none else la.rec_.map (fun rc => ⟨tm.core, la.x, rc, tm.base, tm.regBase⟩)
    | _, _ => none)

/-- The groups of a team in a quadrant (R141). -/
def nq (ngrp q : Nat) : Nat := (ngrp + 3 - q) / 4

/-- The lowest start of a free run of n units below a bound, among used runs (start, length). -/
def fit (used : List (Nat × Nat)) (n bound : Nat) : Option Nat :=
  let ok (s : Nat) := decide (s + n ≤ bound) && used.all (fun u => !overlaps u.1 u.2 s n)
  ((0 :: used.map (fun u => u.1 + u.2)).filter ok).foldl (fun b s => match b with
    | none => some s
    | some x => some (min x s)) none

/-- Every value of a list of options; none when one is none. -/
def allSome {α : Type} : List (Option α) → Option (List α)
  | [] => some []
  | none :: _ => none
  | some a :: r => (allSome r).map (fun l => a :: l)

/-- A team of a launch on a core, when the core accepts it beside the teams already there (R38, R40, R141). -/
def takeCore (ss : List Seat) (core x : Nat) (rc : LRec) : Option Seat :=
  let here := ss.filter (fun s => s.core == core)
  let qs := List.range 4
  let rooms := qs.all (fun q => decide (nq rc.ngrp q + (here.map (fun s => nq s.rc.ngrp q)).sum ≤ 16))
  let rest := here.all (fun s => s.rc.tmask &&& rc.tmask == 0 && s.rc.pairmask &&& rc.pairmask == 0)
    && decide (rc.scu + (here.map (fun s => s.rc.scu)).sum ≤ 32)
    && decide ((((here.map Seat.x).filter (fun y => y != x)).eraseDups).length ≤ 3)
  if rooms && rest then
    match allSome (qs.map (fun q =>
        fit ((here.filter (fun s => nq s.rc.ngrp q != 0)).map (fun s => (s.regBase.getD q 0, nq s.rc.ngrp q * s.rc.regs))) (nq rc.ngrp q * rc.regs) 512)),
      fit (here.map (fun s => (s.base, s.rc.scr))) rc.scr (2 ^ 20) with
    | some rb, some b => some ⟨core, x, rc, b, rb⟩
    | _, _ => none
  else none

/-! ### Clusters (R143, R144) -/

/-- The core at an origin (R142). -/
def originCore (o : Origin) : Nat := 192 * o.die + 16 * o.row + o.col

/-- Whether an origin's rectangle lies on its die's mesh. -/
def originFits (rc : LRec) (o : Origin) : Bool := decide (o.die < 4) && decide (o.row + rc.clh ≤ 12) && decide (o.col + rc.clw ≤ 16)

/-- The cores of rectangles at origins, in index order (R143). -/
def cluCores (rc : LRec) (os : List Origin) : List CluCore :=
  (os.zip (List.range os.length)).flatMap (fun o => (List.range rc.clh).flatMap (fun y => (List.range rc.clw).map (fun x =>
    ⟨originCore o.1 + 16 * y + x, o.2, y, x⟩)))

/-- Whether two dies may hold rectangles of one cluster under a latency class (R144). -/
def latOk (lat a b : Nat) : Bool :=
  match lat with
  | 0 => a == b
  | 1 => a == b || a + b != 3
  | _ => true

/-- Whether rectangles at some origins, ascending, may belong to one cluster of a partition. -/
def rectsOk (pt : Part) (rc : LRec) (os : List Origin) : Bool :=
  os.all (originFits rc) && (os.zip (os.drop 1)).all (fun p => decide (originCore p.1 < originCore p.2))
    && os.all (fun a => os.all (fun b => latOk rc.lat a.die b.die))
    && (cluCores rc os).all (fun c => nbit pt.cores c.core) && ((cluCores rc os).map CluCore.core).Nodup

/-- Teams on every core of some rectangles, beside the teams already there; none where a core accepts none. -/
def takeRects (pt : Part) (ss : List Seat) (x : Nat) (rc : LRec) (os : List Origin) : Option (List Seat) :=
  if rectsOk pt rc os then
    (cluCores rc os).foldl (fun r c => r.bind (fun ss => (takeCore ss c.core x rc).map (fun s => ss ++ [s]))) (some ss)
  else none

/-- Every origin of the mesh, ascending. -/
def allOrigins : List Origin :=
  (List.range 4).flatMap (fun d => (List.range 12).flatMap (fun r => (List.range 16).map (fun c => ⟨d, r, c⟩)))

/-- The first choice of n further rectangles, in ascending order, with which the rest of a search succeeds, and what that finds. -/
def findRects (pt : Part) (ss : List Seat) (x : Nat) (rc : LRec) (rest : List Seat → Option (List (List Origin))) :
    Nat → List Origin → List Origin → Option (List (List Origin))
  | 0, _, acc => (takeRects pt ss x rc acc).bind (fun ss => (rest ss).map (fun l => acc :: l))
  | _ + 1, [], _ => none
  | n + 1, o :: os, acc =>
    (if (takeRects pt ss x rc (acc ++ [o])).isSome then findRects pt ss x rc rest n os (acc ++ [o]) else none).or
      (findRects pt ss x rc rest (n + 1) os acc)

/-- Places for n clusters, one after another. -/
def findGrid (pt : Part) (x : Nat) (rc : LRec) : Nat → List Seat → Option (List (List Origin))
  | 0, _ => some []
  | n + 1, ss => findRects pt ss x rc (findGrid pt x rc n) rc.rects allOrigins []

/-- How many teams of a launch a core still takes. -/
def coreRoom (core x : Nat) (rc : LRec) : Nat → List Seat → Nat
  | 0, _ => 0
  | n + 1, ss => match takeCore ss core x rc with
    | some s => 1 + coreRoom core x rc n (ss ++ [s])
    | none => 0

/-- Whether n clusters of a launch can be placed beside some teams (R143, R144, R146). The count of free places settles most cases at once. -/
def canPlace (pt : Part) (ss : List Seat) (x : Nat) (rc : LRec) (n : Nat) : Bool :=
  decide (n * rc.ncores ≤ ((bitsOf pt.cores 768).map (fun c => coreRoom c x rc 64 (ss.filter (fun s => s.core == c)))).sum)
    && (findGrid pt x rc n ss).isSome

/-- The clusters placed at once: all of a persistent grid, else one (R146, R148). -/
def LRec.unit (rc : LRec) : Nat := if rc.persist then rc.nclu else 1

/-! ### The order of placement (R165) -/

/-- A claim on cores: its class (saved 0, started 1, new 2), its launch, and the teams it would place. -/
structure Claim where
  cls : Nat
  la : Launch
  rc : LRec
  n : Nat
deriving DecidableEq, Repr

/-- The distance of a queue from the one its partition was served from last (R165); before any, queue 0 is the nearest. -/
def Mach.turn (m : Mach) (p q : Nat) : Nat := (q + 1023 - ((m.lastq.find? (fun e => e.1 == p)).map Prod.snd).getD 1023) % 1024

/-- Whether one claim is served before another (R165). -/
def Mach.earlier (m : Mach) (a b : Claim) : Bool :=
  decide (a.cls < b.cls) || (a.cls == b.cls && (decide (a.la.prio < b.la.prio) ||
    (a.la.prio == b.la.prio && (decide (m.turn a.la.p a.la.q < m.turn b.la.p b.la.q) || (m.turn a.la.p a.la.q == m.turn b.la.p b.la.q && decide (a.la.l < b.la.l))))))

/-- Whether a launch waits to start its next cluster (R148). -/
def Launch.startable (la : Launch) (rc : LRec) : Bool := la.admitted && la.stop.isNone && la.prolFail.isNone && decide (la.nextClu < rc.nclu)

/-- Whether a saved cluster still makes way for the launch that evicted it (R174). -/
def Mach.yields (m : Mach) (cl : Cluster) : Bool :=
  match cl.preq with
  | some (q, i) => m.launches.any (fun la => !la.admitted && la.evict && la.q == q && la.index == i)
  | none => false

/-- The record of a launch as it stands in memory, for a launch not admitted yet (R136): its bytes; or why none can be read. -/
def readRec (cf : Conf) (m : Mach) (la : Launch) : AgentR × Mach :=
  if la.recAddr.toNat % 256 ≠ 0 then (.bad la.recAddr.toNat 3 0, m)
  else agentRead cf m (.die 0 .queue) (.agent 0 .queue) la.p la.x .plain la.recAddr.toNat 256

/-- Whether a weight-store copy of a partition waits or runs, so that no launch of it is admitted (R60). -/
def Mach.wsCopying (m : Mach) (p : Nat) : Bool :=
  m.queues.any (fun q => q.part == p && q.cur.any (fun e => e.begun && natAt e.bytes 0 1 == 4 && e.l == 1))

/-- Every claim on a partition's cores. -/
def claims (cf : Conf) (m : Mach) (p : Nat) : List Claim :=
  m.launches.flatMap (fun la =>
    if la.p ≠ p then []
    else
      match la.rec_ with
      | some rc =>
        let sv := m.clusters.filter (fun cl => cl.l == la.l && cl.pre == .saved && !m.yields cl)
        (if sv.isEmpty then [] else [⟨0, la, rc, if rc.persist then sv.length else 1⟩])
          ++ (if la.startable rc then [⟨1, la, rc, 1⟩] else [])
      | none =>
        if m.wsCopying p then []
        else match (readRec cf m la).1 with
          | .ok b => if lrecBad b then [] else let rc := lrecOf b; [⟨2, la, rc, rc.unit⟩]
          | _ => [])

/-- Whether a claim may be served now: no claim before it can be placed (R165). -/
def mayServe (cf : Conf) (m : Mach) (pt : Part) (c : Claim) : Bool :=
  (claims cf m pt.p).all (fun d => !m.earlier d c || !canPlace pt m.seats d.la.x d.rc d.n)

end Sys2Proof.Machine
end

