-- ==== Sys2Proof/Machine/Queues.lean ====
section
/-!
DEFINITION. Hardware queues (R157–R163): register blocks, fetching of entries, the commands WAIT, SIGNAL, COPY, XLINV, PARTCFG and CTXCFG and the
submission of a LAUNCH, and completions.
-/
namespace Sys2Proof.Machine

/-- The point of the queue agent (R65, R160). -/
def qLeaf : Point := .die 0 .queue
/-- The translation cache of the queue agent. -/
def qOwn : TlbOwner := .agent 0 .queue

/-! ### Register blocks (R157) -/

/-- Whether queue blocks accept writes (R361, R368). -/
def Mach.queuesOpen (m : Mach) : Bool := m.dev.bootstg == 3 && !m.dev.erased

/-- EN goes from 0 to 1: HALTED clears (R157). -/
def Mach.enableQueue (m : Mach) (q : Nat) : Mach :=
  let qu := m.queue q
  if m.queuesOpen && !qu.en then m.setQueue { qu with en := true, halted := false } else m

/-- EN is cleared; the word's other fields stay (R157). -/
def Mach.disableQueue (m : Mach) (q : Nat) : Mach :=
  let qu := m.queue q
  if m.queuesOpen && qu.en then m.setQueue { qu with en := false } else m

/-- A write of a 64-bit word of a queue's block (R157, R163). A size or a base outside its range is stored and used as it is (a choice of the model: log entry 118). -/
def Mach.queueWrite (m : Mach) (q off v : Nat) : Mach :=
  let qu := m.queue q
  if !m.queuesOpen then m
  else match off with
    | 0x20 => m.setQueue { qu with tail := nbits v 15 0, chead := nbits v 31 16 }
    | 0x08 =>
      if qu.en then (if nbit v 15 then m else m.disableQueue q)
      else
        (m.setQueue { qu with
          rlog := nbits v 4 0, prio := nbits v 7 5, part := nbits v 11 8, ctx := nbits v 13 12, priv := nbit v 14
          en := nbit v 15, halted := qu.halted && !nbit v 15 })
    | 0x00 => if qu.en then m else m.setQueue { qu with rbase := v }
    | 0x10 => if qu.en then m else m.setQueue { qu with cbase := v, phase := true }
    | 0x18 => if qu.en then m else m.setQueue { qu with clog := nbits v 4 0, msix := nbits v 26 16, phase := true }
    | _ => m

/-- What a read of a 64-bit word of a queue's block gives: TAIL and CHEAD are write-only (R4, R157). -/
def Mach.queueRead (m : Mach) (q off : Nat) : Nat :=
  let qu := m.queue q
  let bit (b : Bool) (k : Nat) : Nat := if b then 2 ^ k else 0
  match off with
  | 0x00 => qu.rbase
  | 0x08 => qu.rlog + qu.prio * 2 ^ 5 + qu.part * 2 ^ 8 + qu.ctx * 2 ^ 12 + bit qu.priv 14 + bit qu.en 15
  | 0x10 => qu.cbase
  | 0x18 => qu.clog + qu.msix * 2 ^ 16
  | 0x28 => qu.head
  | 0x30 => qu.ctail
  | 0x38 => bit qu.halted 0
  | _ => 0

/-! ### Entries (R158, R159) -/

/-- OP. -/
def Entry.op (e : Entry) : Nat := natAt e.bytes 0 1
/-- A word of an entry. -/
def Entry.word (e : Entry) (k : Nat) : Nat := natAt e.bytes (8 * k) 8
/-- A bit of the envelope. -/
def Entry.flag (e : Entry) (k : Nat) : Bool := nbit (e.word 0) k

/-- The bits of words 1 to 7 that a command uses (R159); an unused bit beside used ones in a byte counts as an unused byte does (a choice of the model: log entry 116). -/
def bodyMask (op : Nat) : List Nat :=
  let w := 2 ^ 64 - 1
  match op with
  | 1 => [w, 0, 0, 0, 0, 0, 0]
  | 2 => [w, 2 ^ 63 - 1, 2 ^ 32 - 1, 0, 0, 0, 0]
  | 3 => [w, w, 0, 0, 0, 0, 0]
  | 4 => [w, w, w, 0, 0, 0, 0]
  | 5 => [w, w, w, w, 0, 0, 0]
  | 6 => [0xF, w, w, 0, 0, 0, 0]
  | 7 => [0xF, w, 0, 0, 0, 0, 0]
  | 8 => [0x3F, w, 0, 0, 0, 0, 0]
  | 9 => [0xFFFF, 0xFFFF, 0, 0, 0, 0, 0]
  | _ => List.replicate 7 w

/-- Whether an entry is malformed (R158, R159). -/
def Entry.malformed (e : Entry) : Bool :=
  e.op == 0 || nbits (e.word 0) 31 12 != 0 || (e.op != 1 && (e.flag 9 || e.flag 10)) ||
    ((bodyMask e.op).zip (List.range 7)).any (fun k => e.word (k.2 + 1) &&& k.1 != e.word (k.2 + 1))

/-- The completion of an entry where one is due; the entry is over (R160, R163). -/
def Mach.closeEntry (m : Mach) (q : Nat) (e : Entry) (st : Nat) (d1 d2 : DWord) : Mach :=
  let m := if e.flag 8 || st != 0 then m.post q ⟨BitVec.ofNat 32 (natAt e.bytes 4 4), e.op, st, d1, d2, e.index, e.flag 11, none⟩ else m
  let qu := m.queue q
  m.setQueue { qu with cur := if qu.cur = some e then none else qu.cur, past := qu.past.filter (fun x => x != e) }

/-- A drain for release at system scope, then the completion (R160): it waits for the writes to other devices that the drain has met (R76). -/
def Mach.completeEntry (m : Mach) (q : Nat) (e : Entry) (st : Nat) (d1 d2 : DWord) : Mach :=
  let m := m.drain qLeaf 4
  let ws := m.fabWids qLeaf
  if ws.isEmpty then m.closeEntry q e st d1 d2
  else
    let qu := m.queue q
    let e' := { e with await := ws, fin := some (st, d1, d2) }
    m.setQueue { qu with cur := if qu.cur = some e then some e' else qu.cur, past := qu.past.map (fun x => if x = e then e' else x) }

/-- The entries of a queue whose drains are over complete. -/
def Mach.closeDrained (m : Mach) (q : Nat) : Mach :=
  let qu := m.queue q
  (qu.cur.toList ++ qu.past).foldl (fun m e => match e.fin with
    | some (st, d1, d2) => if m.bufs.any (fun b => e.await.contains b.w.wid) then m else m.closeEntry q e st d1 d2
    | none => m) m

/-- Host memory read by the queue agent (R158, R161). -/
def qHost (m : Mach) (a n : Nat) : List Byte × Mach :=
  (pieces a n).foldl (fun r pc => let x := r.2.readBy (.plain qLeaf) .host (pc.1 % 2 ^ 64) pc.2 none; (r.1 ++ x.1, x.2)) ([], m)

/-- The queue agent reports its read of a poisoned unit to the management core; the command completes with FAULT (R379). -/
def Mach.qPoison (m : Mach) (q addr : Nat) : Mach := { m with net := m.net ++ [.agentPoison .queue q (addr / 16 * 16)] }

/-- Whether a well-formed entry completes with FAULT before it begins: a command that does not exist, PRIV missing, a partition or context never
configured, a plane operation that does not exist (R135, R159). -/
def entryFault (cf : Conf) (qu : Queue) (e : Entry) : Bool :=
  if 9 < e.op then true
  else if e.op = 7 ∨ e.op = 8 then !qu.priv
  else (cf.part? qu.part).isNone || (cf.ctx? qu.part qu.ctx).isNone || (e.op == 5 && decide (5 < nbits (e.word 1) 3 0))

/-- QUEUE_FETCH (R157–R160): the next entry is read; a malformed one faults and halts the queue. -/
def queueFetch (cf : Conf) (m : Mach) (q : Nat) : Mach :=
  let m := m.closeDrained q
  let qu := m.queue q
  if !qu.en || qu.halted || qu.cur.isSome || qu.head == qu.tail then m
  else
    let a := (qu.rbase + 64 * qu.head) % 2 ^ 64
    let r := qHost m a 64
    let e : Entry := ⟨r.1, qu.head, false, false, m.cyc, 0, 0, [], none⟩
    let lost := m.poisoned .host a 64
    let m := r.2.setQueue { qu with head := (qu.head + 1) % 2 ^ qu.rlog, cur := some e, halted := !lost && e.malformed }
    if lost then (m.qPoison q a).completeEntry q e 1 0 0
    else if e.malformed || entryFault cf qu e then m.completeEntry q e 1 0 0 else m

/-- The entry a queue holds, when it is of a command and has (or has not) begun. -/
def Mach.entry (m : Mach) (q op : Nat) (begun : Bool) : Option Entry :=
  (m.queue q).cur.bind (fun e => if e.op = op ∧ e.begun = begun ∧ e.fin.isNone then some e else none)

/-- Changing the entry a queue holds. -/
def Mach.setEntryOf (m : Mach) (q : Nat) (e : Entry) : Mach := m.setQueue { m.queue q with cur := some e }

/-! ### Words of the queue agent -/

/-- An address of the queue's context: its access; a check that fails; or a wait, for a walker (R20) or a refreshing bank (R58), counted once under the queue's number. -/
def qReach (cf : Conf) (m : Mach) (q a : Nat) (cls : Cls) : Reach × Mach :=
  let qu := m.queue q
  if 2 ^ 57 ≤ a then (.bad 4 3, m)
  else match reach cf m qOwn qu.part qu.ctx a cls with
    | (.ok ac, m) => if m.bankBusy (cf.part? qu.part) ac then (.wait, m.delay qOwn q (cf.part? qu.part) ac) else (.ok ac, m.undelay qOwn q)
    | r => r

/-- A count word of the queue's context (R159). -/
def qWord (cf : Conf) (m : Mach) (q a : Nat) (cls : Cls) : Reach × Mach := if a % 8 ≠ 0 then (.bad 3 0, m) else qReach cf m q a cls

/-! ### LAUNCH -/

/-- LAUNCH (R159): the launch waits for its admission (R165). -/
def launchSubmit (m : Mach) (q : Nat) : Mach :=
  match m.entry q 1 false with
  | none => m
  | some e =>
    let qu := m.queue q
    let l := m.fresh
    let m : Mach := { m with
      fresh := l + 1
      launches := m.launches ++ [⟨l, q, e.index, BitVec.ofNat 32 (natAt e.bytes 4 4), e.flag 8, e.flag 11, e.flag 10, qu.part, qu.ctx, qu.prio, none,
        BitVec.ofNat 64 (e.word 1), false, 0, 0, none, none⟩] }
    m.setEntryOf q { e with begun := true, l := l }

/-! ### WAIT and SIGNAL -/

/-- WAIT (R159): the wait begins; a count word that fails a check completes it with FAULT. -/
def waitStart (cf : Conf) (m : Mach) (q : Nat) : Mach :=
  match m.entry q 2 false with
  | none => m
  | some e =>
    match qWord cf m q (e.word 1) .read with
    | (.bad _ _, m) => m.completeEntry q e 1 0 0
    | (_, m) => m.setEntryOf q { e with begun := true, at_ := m.cyc }

/-- QUEUE_WAIT_COMPLETE (R159, R160): a read that finds the target completes the wait; it is an acquire at system scope. -/
def queueWaitComplete (cf : Conf) (m : Mach) (q : Nat) : Mach :=
  match m.entry q 2 true with
  | none => m
  | some e =>
    match qWord cf m q (e.word 1) .read with
    | (.bad _ _, m) => m.completeEntry q e 1 0 0
    | (.wait, m) => m
    | (.ok ac, m) =>
      if poisonedAcc m (cf.part? (m.queue q).part) ac (e.word 1) 8 then (m.qPoison q ac.ppa).completeEntry q e 1 0 0
      else
        let r := readAcc (.acq qLeaf 4 false) m (cf.part? (m.queue q).part) ac (e.word 1) 8
        let v := leNat r.1
        if e.word 2 ≤ v % 2 ^ 63 then (r.2.invalidate qLeaf 4).completeEntry q e (if nbit v 63 then 1 else 0) 0 0 else m

/-- QUEUE_WAIT_TIMEOUT (R159). -/
def queueWaitTimeout (m : Mach) (q : Nat) : Mach :=
  match m.entry q 2 true with
  | none => m
  | some e => if e.word 3 ≠ 0 ∧ e.at_ + e.word 3 * 1024 ≤ m.cyc then m.completeEntry q e 1 0 0 else m

/-- SIGNAL (R87, R159, R160): an acquire-release atomic at system scope; its drain waits for the writes to other devices that it meets (R76). -/
def signalCmd (cf : Conf) (m : Mach) (q : Nat) : Mach :=
  match m.entry q 3 false with
  | none => m
  | some e =>
    match qWord cf m q (e.word 1) .atomic with
    | (.bad _ _, m) => m.completeEntry q e 1 0 0
    | (.wait, m) => m
    | (.ok ac, m) =>
      let go (m : Mach) : Mach :=
        let r := m.atomic qLeaf ac.sp ac.addr 8 ac.tag false (fun old => some (leBytes 8 (countAdd (leNat old) (e.word 2) false)))
        (r.2.invalidate qLeaf 4).completeEntry q e 0 0 0
      if poisonedAcc m (cf.part? (m.queue q).part) ac (e.word 1) 8 then (m.qPoison q ac.ppa).completeEntry q e 1 0 0
      else if e.done then (if m.bufs.any (fun b => e.await.contains b.w.wid) then m else go (m.drain qLeaf 4))
      else
        let m := m.drain qLeaf 4
        let ws := m.fabWids qLeaf
        if ws.isEmpty then go m else m.setEntryOf q { e with done := true, await := ws }

/-! ### COPY (R60, R159) -/

/-- Whether a virtual range meets a weight-store page of a context. -/
def touchesWs (cf : Conf) (m : Mach) (p x a n : Nat) : Bool :=
  n != 0 && (List.range ((a + n - 1) / 65536 - a / 65536 + 1)).any (fun i => match walk cf m p x ((a / 65536 + i) * 65536) with
    | .ok l => pbit l.e 8
    | .bad _ _ => false)

/-- Whether a launch of a partition is admitted (R60). -/
def Mach.admittedIn (m : Mach) (p : Nat) : Bool := m.launches.any (fun la => la.p == p && la.admitted)

/-- COPY (R159): the copy begins. One with an end in the weight store must be aligned; one with its destination there waits (R60). Which ends lie there is decided here,
once, by the tables of this moment: a table changed while the copy runs does not change it (a choice of the model: log entry 95). -/
def copyStart (cf : Conf) (m : Mach) (q : Nat) : Mach :=
  match m.entry q 4 false with
  | none => m
  | some e =>
    let qu := m.queue q
    let ws (a : Nat) := touchesWs cf m qu.part qu.ctx a (e.word 3)
    if (ws (e.word 1) || ws (e.word 2)) && (e.word 1 % 64 != 0 || e.word 2 % 64 != 0 || e.word 3 % 64 != 0) then m.completeEntry q e 1 0 0
    else m.setEntryOf q { e with begun := true, l := if ws (e.word 2) then 1 else 0 }

/-- One access of a copy, aligned at both ends (R66): the bytes moved, none when it must wait, or a failed check. The plane-local rule holds for it as for an
engine (R26, R126; log entry 87). -/
def copyPiece (cf : Conf) (m : Mach) (q s d n : Nat) : Option Nat × Bool × Mach :=
  let qu := m.queue q
  let w := min (accessLen s n) (accessLen d n)
  match qReach cf m q s .read with
  | (.bad _ _, m) => (none, true, m)
  | (.wait, m) => (none, false, m)
  | (.ok sa, m) =>
    match qReach cf m q d .agent with
    | (.bad _ _, m) => (none, true, m)
    | (.wait, m) => (none, false, m)
    | (.ok da, m) =>
        if poisonedAcc m (cf.part? qu.part) sa s w then (none, true, m.qPoison q sa.ppa)
        else
          let r := readAcc (.plain qLeaf) m (cf.part? qu.part) sa s w
          (some w, false, r.2.writePlain qLeaf ⟨0, da.sp, da.addr, r.1, .engine, da.tag, false, 0, 0, 0⟩)

/-- QUEUE_COPY_COMPLETE (R159): `work` pieces in ascending address; the copy completes after its last byte or at an address that fails a check. -/
def queueCopy (cf : Conf) (q : Nat) : Nat → Mach → Mach
  | 0, m => m
  | n + 1, m =>
    match m.entry q 4 true with
    | none => m
    | some e =>
      let qu := m.queue q
      if e.l = 1 ∧ !e.done ∧ m.admittedIn qu.part then m
      else if e.word 3 ≤ e.work then m.completeEntry q e 0 0 0
      else
        match copyPiece cf m q (e.word 1 + e.work) (e.word 2 + e.work) (e.word 3 - e.work) with
        | (some w, _, m) =>
          let e := { e with done := true, work := e.work + w }
          let m := m.setEntryOf q e
          if e.word 3 ≤ e.work then m.completeEntry q e 0 0 0 else queueCopy cf q n m
        | (none, true, m) => m.completeEntry q e 1 0 0
        | (none, false, m) => m

/-! ### XLINV (R35) -/

/-- Whether a cached page meets a virtual range. -/
def TlbEnt.meets (e : TlbEnt) (p x a n : Nat) : Bool :=
  e.p == p && e.x == x && overlaps (e.vpn * 65536 / 2 ^ e.leaf.log * 2 ^ e.leaf.log) (2 ^ e.leaf.log) a n

/-- Every write of a partition leaves the buffers below the device (R35): the accesses that used an old translation have performed. -/
def Mach.flushPart (m : Mach) (p : Nat) : Mach :=
  (List.range 3).foldl (fun m l =>
    let ps := ((m.bufs.map BufEnt.pt).filter (fun q => Point.level q == l)).eraseDups
    let ws := (m.bufs.filter (fun e => e.w.tag.any (fun t => t.p == p))).map (fun e => e.w.wid)
    m.push ps (fun w => ws.contains w)) m

/-- The cached translations of a context that meet a range go, also those a waiting fibre has been given (R35). -/
def Mach.dropXlate (m : Mach) (p x a n : Nat) : Mach :=
  { m with
    tlb := m.tlb.filter (fun e => !e.meets p x a n)
    fibres := m.fibres.map (fun (f : Fibre) =>
      if (ctxOf m f.ref).any (fun c => c.la.p == p && c.la.x == x) then
        { f with xl := f.xl.filter (fun b => !overlaps (b.1 * 65536) 65536 a n) }
      else f) }

/-- Whether a team is of a context. -/
def Mach.teamIn (m : Mach) (t p x : Nat) : Bool := ((m.team? t).bind (fun tm => m.launch? tm.l)).any (fun la => la.p == p && la.x == x)

/-- The count waits of a context are issued again, the time they have waited counting on, and its armed sends look at their words again: neither keeps a translation of
before (R35, R46, R295). -/
def Mach.lookAgain (cf : Conf) (m : Mach) (p x : Nat) : Mach :=
  let m := m.fibres.foldl (fun m f => match f.wait, ctxOf m f.ref with
    | some ⟨i, .count b l, since⟩, some c =>
      if c.la.p = p ∧ c.la.x = x then
        (m.endWait f.ref).updFibre f.ref (fun f => { f with fe := if (Why.count b l).counts i then some (m.cyc - since) else f.fe })
      else m
    | _, _ => m) m
  m.ops.foldl (fun m o => match o.cmd, o.watch with
    | .xarm _ cw thr, some _ => if m.teamIn o.t p x then (match opCtx m o with
      | some oc => armFire cf m oc cw thr
      | none => m) else m
    | _, _ => m) m

/-- Whether an access of a context that has been translated is still to perform: of an instruction that waits for other devices, of an operation that makes its
writes as it retires, or one of another device that this device has said it will perform (R35). -/
def Mach.oldAccess (m : Mach) (p x : Nat) : Bool :=
  m.fabPend.any (fun f => !f.store && f.asks.any (fun a => !anyFab [a]) && m.teamIn f.ref.t p x)
    || m.ops.any (fun o => o.owes && m.teamIn o.t p x)
    || m.vows.any (fun v => v.part == p && v.accs.any (fun a => a.2.2.1.leaf.isSome))

/-- XLINV (R35, R159): it completes once every access through an old translation has performed. The window table is read anew at every access, so WIN leaves
nothing to drop; instruction lines serve only the place their address has at the fetch. -/
def xlinvCmd (cf : Conf) (m : Mach) (q : Nat) : Mach :=
  match m.entry q 6 false with
  | none => m
  | some e =>
    let w := e.word 1
    let win := nbit w 2
    let all := nbit w 3
    let x := nbits w 1 0
    if e.word 2 % 65536 ≠ 0 ∨ e.word 3 % 65536 ≠ 0 ∨ (e.word 3 = 0 ∧ !win ∧ !all) then m.completeEntry q e 1 0 0
    else
      let p := (m.queue q).part
      let m := if all then m.dropXlate p x 0 (2 ^ 57) else m.dropXlate p x (e.word 2) (e.word 3)
      let m := (m.lookAgain cf p x).flushPart p
      if m.oldAccess p x then m else m.completeEntry q e 0 0 0

/-! ### PARTCFG and CTXCFG (R161, R162) -/

/-- A partition record of 512 bytes (R161). -/
def partOf (p : Nat) (b : List Byte) : Part :=
  { p := p, cores := natAt b 0 0x60, chans := natAt b 0x60 0xC0, wsu := natAt b 0x120 8
    ways := (List.range 4).map (fun d => natAt b (0x128 + 4 * d) 4)
    tent := (List.range 4).map (fun d => natAt b (0x138 + d) 1)
    twalk := (List.range 4).map (fun d => natAt b (0x13C + d) 1)
    keys := natAt b 0x140 16, hwbase := natAt b 0x150 8, hwlen := natAt b 0x158 8
    igran := nbits (natAt b 0x160 8) 1 0, vlanes := nbits (natAt b 0x160 8) 23 8, fwtab := natAt b 0x168 8 }

/-- Whether a record's fields lie outside their ranges (R161); bits 7:2 of word 0x160, which stand in no row, must be zero (a choice of the model: log entry 115). -/
def partBad (b : List Byte) : Bool :=
  let r := partOf 0 b
  let w := natAt b 0x160 8
  r.tent.any (fun n => decide (16 < n)) || r.twalk.any (fun n => decide (16 < n)) || r.hwbase % 65536 != 0 || r.hwlen % 65536 != 0
    || decide (2 ^ 48 < r.hwlen) || r.igran == 3 || nbits w 7 2 != 0 || nbits w 63 24 != 0 || !allZero (bytesAt b 0x170 0x90)

/-- Whether two partitions hold no resource in common (R161). -/
def apart (a b : Part) : Bool :=
  a.cores &&& b.cores == 0 && a.chans &&& b.chans == 0 && a.wsu &&& b.wsu == 0 && a.keys &&& b.keys == 0 && a.vlanes &&& b.vlanes == 0
    && (List.range 4).all (fun d => a.ways.getD d 0 &&& b.ways.getD d 0 == 0)

/-- Whether the shares of every die fit (R20, R161). -/
def sharesOk (ps : List Part) : Bool :=
  (List.range 4).all (fun d => decide ((ps.map (fun r => r.tent.getD d 0)).sum ≤ 16) && decide ((ps.map (fun r => r.twalk.getD d 0)).sum ≤ 16))

/-- The partitions after a record is accepted; none when it names a resource of another partition (R161). A key slot loaded for another
partition is that partition's. -/
def Conf.withPart (cf : Conf) (r : Part) : Option Conf :=
  let rest := cf.parts.filter (fun x => x.p != r.p)
  if rest.all (fun x => apart r x && apart x r) && sharesOk (r :: rest) && cf.keys.all (fun k => k.p == r.p || !nbit r.keys k.slot) then
    some { cf with parts := r :: rest }
  else none

/-- An extension that waits to be applied (R369, R373). -/
def Mach.extendLater (m : Mach) (k : Nat) (record : List Byte) : Mach :=
  { m with dev := { m.dev with measPend := m.dev.measPend ++ [(k, sha3 record)] } }

/-- The lines of a partition that its new configuration leaves it: those of a channel and a key slot it still holds, in as many ways as it has now, the
others are written back (R54, R161). -/
def Mach.keepLines (m : Mach) (cf : Conf) (pt : Part) : Mach :=
  let holds (l : PLine) : Bool := nbit pt.chans (l.line * 128 / (384 * 2 ^ 20)) && cf.keys.any (fun k => k.p == pt.p && k.key == l.key && nbit pt.keys k.slot)
  let same (l k : PLine) : Bool := k.part == l.part && dieOfFlat (k.line * 128) == dieOfFlat (l.line * 128) && k.line % 16384 == l.line % 16384
  { m with pcache := m.pcache.foldl (fun ks l =>
      if l.part != pt.p || (holds l && decide ((ks.filter (same l)).length < m.waysOf pt.p (dieOfFlat (l.line * 128)))) then ks ++ [l] else ks) [] }

/-- The ways of a partition's configuration, counted (R54). -/
def wayCounts (pt : Part) : List Nat := pt.ways.map (fun w => (bitsOf w 32).length)

/-- A context record of 64 bytes (R162). -/
def ctxRecOf (p x : Nat) (b : List Byte) : CtxRec :=
  ⟨p, x, BitVec.ofNat 64 (natAt b 0 8), BitVec.ofNat 64 (natAt b 8 8), natAt b 0x10 4, nbits (natAt b 0x14 4) 3 0, natAt b 0x18 8, natAt b 0x20 8⟩

/-- Whether a record's fields lie outside their ranges (R15, R162). -/
def ctxBad (b : List Byte) : Bool :=
  let r := ctxRecOf 0 0 b
  nbits r.root.toNat 63 59 != 0 || nbits r.root.toNat 11 1 != 0 || r.tvec.toNat % 4 != 0
    || (r.tvec != 0 && (r.tfoff % 16 != 0 || decide (r.tfoff < 0x80))) || r.weight == 0 || nbits (natAt b 0x14 4) 31 4 != 0
    || r.savebase % 65536 != 0 || !allZero (bytesAt b 0x28 24)

/-- CTXCFG (R162). -/
def ctxcfgCmd (cf : Conf) (m : Mach) (q : Nat) : Conf × Mach :=
  match m.entry q 8 false with
  | none => (cf, m)
  | some e =>
    let r := qHost m (e.word 2) 64
    let p := nbits (e.word 1) 3 0
    let x := nbits (e.word 1) 5 4
    if m.poisoned .host (e.word 2) 64 then (cf, (r.2.qPoison q (e.word 2)).completeEntry q e 1 0 0)
    else if (cf.part? p).isNone || ctxBad r.1 || m.launches.any (fun la => la.p == p && la.x == x && la.admitted) then (cf, r.2.completeEntry q e 1 0 0)
    else
      ({ cf with ctxs := ctxRecOf p x r.1 :: cf.ctxs.filter (fun c => !(c.p == p && c.x == x)) }, (r.2.extendLater 4 r.1).completeEntry q e 0 0 0)

/-! ### Completions (R163) -/

/-- The 32 bytes of a completion record (R163). -/
def complBytes (k : Compl) (phase : Bool) : List Byte :=
  leBytes 4 k.utag.toNat ++ leBytes 4 (k.op + k.status * 2 ^ 8 + (if phase then 2 ^ 16 else 0)) ++ leBytes 8 k.detail.toNat ++ leBytes 8 k.detail2.toNat
    ++ leBytes 8 k.index

/-- COMPLETION_POST (R163): the first completion held is written, unless the ring is full; then its interrupt is raised. An event of a region whose partition the queue
no longer belongs to is not posted (R131). -/
def completionPost (m : Mach) (q : Nat) : Mach :=
  let m := m.closeDrained q
  let qu := m.queue q
  match qu.held with
  | [] => m
  | k :: rest =>
    let next := (qu.ctail + 1) % 2 ^ qu.clog
    if next = qu.chead then m
    else if k.part.any (fun p => p != qu.part) then m.setQueue { qu with held := rest }
    else
      let a := qu.cbase + 32 * qu.ctail
      let m := (pieces a 32).foldl (fun m pc =>
        m.writeHome qLeaf ⟨0, .host, pc.1 % 2 ^ 64, bytesAt (complBytes k qu.phase) (pc.1 - a) pc.2, .engine, none, false, 0, 0, 0⟩) m
      let m := m.setQueue { qu with held := rest, ctail := next, phase := if next = 0 then !qu.phase else qu.phase }
      if k.irq then m.raise qu.msix else m

/-! ### The steps -/

/-- QUEUE_ENABLE (R157). -/
def execQueueEnable (q : Nat) (s : State) := onMach s (fun _ m => m.enableQueue q)
/-- QUEUE_DISABLE (R157). -/
def execQueueDisable (q : Nat) (s : State) := onMach s (fun _ m => m.disableQueue q)
/-- TAIL (R157): CHEAD keeps its value (R163). -/
def execTail (q : Nat) (v : BitVec 16) (s : State) := onMach s (fun _ m => m.queueWrite q 0x20 (v.toNat + (m.queue q).chead * 65536))
/-- CHEAD (R163): TAIL keeps its value. -/
def execChead (q : Nat) (v : BitVec 16) (s : State) := onMach s (fun _ m => m.queueWrite q 0x20 ((m.queue q).tail + v.toNat * 65536))
/-- QUEUE_FETCH (R160). -/
def execQueueFetch (q : Nat) (s : State) := onMach s (fun cf m => queueFetch cf m q)
/-- LAUNCH (R159). -/
def execLaunch (q : Nat) (s : State) := onMach s (fun _ m => launchSubmit m q)
/-- WAIT (R159). -/
def execWait (q : Nat) (s : State) := onMach s (fun cf m => waitStart cf m q)
/-- QUEUE_WAIT_COMPLETE (R160). -/
def execQueueWaitComplete (q : Nat) (s : State) := onMach s (fun cf m => queueWaitComplete cf m q)
/-- QUEUE_WAIT_TIMEOUT (R159). -/
def execQueueWaitTimeout (q : Nat) (s : State) := onMach s (fun _ m => queueWaitTimeout m q)
/-- SIGNAL (R159). -/
def execSignal (q : Nat) (s : State) := onMach s (fun cf m => signalCmd cf m q)
/-- COPY (R159). -/
def execCopy (q : Nat) (s : State) := onMach s (fun cf m => copyStart cf m q)
/-- QUEUE_COPY_COMPLETE (R159). -/
def execQueueCopyComplete (q work : Nat) (s : State) := onMach s (fun cf m => queueCopy cf q work m)
/-- XLINV (R35). -/
def execXlinv (q : Nat) (s : State) := onMach s (fun cf m => xlinvCmd cf m q)
/-- CTXCFG (R162). -/
def execCtxcfg (q : Nat) (s : State) : Host.Outcome State Fault Refusal := let r := ctxcfgCmd s.cfg s.m q; .next ⟨r.1, r.2⟩
/-- COMPLETION_POST (R163). -/
def execCompletionPost (q : Nat) (s : State) := onMach s (fun _ m => completionPost m q)

end Sys2Proof.Machine
end

