-- ==== Sys2Proof/Machine/PlaneCfg.lean ====
section
/-!
DEFINITION. The plane configuration command (R110, R132–R135): BIND, UNBIND, MEMBER, PAUSE, RESUME and SETTHR.
-/
namespace Sys2Proof.Machine

/-! ### Descriptors and membership records (R108, R132) -/

/-- Whether an FP32 code is finite. -/
def finite32 (c : Nat) : Bool := nbits c 30 23 != 255

/-- Whether a descriptor's fields lie outside their ranges or reserved bits are set (R108, R135). -/
def descBad (b : List Byte) : Bool :=
  let w (k : Nat) := natAt b (8 * k) 8
  let x := w 5
  let c := w 8
  let kappa := w 7 / 2 ^ 32
  (List.range 5).any (fun k => w k % 256 != 0 || decide (2 ^ 57 ≤ w k))
    || x % 2 ^ 32 == 0 || decide (nbits x 36 32 < 2) || decide (20 < nbits x 36 32) || nbits x 39 37 != 0 || nbits x 43 40 == 0
    || decide (nbits x 47 44 < 2) || decide (8 < nbits x 47 44) || nbits x 49 48 == 3 || decide (nbits x 55 52 < 2) || nbits x 63 59 != 0
    || !finite32 (w 6 % 2 ^ 32) || !finite32 (w 6 / 2 ^ 32) || (nbits x 49 48 == 2 && !finite32 (w 7 % 2 ^ 32))
    || kappa == 0 || decide (0x7F800000 < kappa)
    || nbits c 15 9 != 0 || nbits c 22 16 == 0 || decide (64 < nbits c 22 16) || nbits c 31 23 != 0
    || nbits (w 11) 63 42 != 0 || decide (w 13 / 2 ^ 32 ≠ 0) || w 14 != 0 || w 15 != 0

/-- What an operation answers: it waits; it faults having changed nothing, at a poisoned unit (R379) or not; it has begun to bind a region; or it is done. -/
inductive PlaneR where
  | wait (m : Mach)
  | fault (poison : Option Nat)
  | begun (r : Nat) (m : Mach)
  | ok (m : Mach)

/-- What an operation answers to a read of the queue agent that gives no bytes. -/
def PlaneR.ofRead (m : Mach) : AgentR → PlaneR
  | .wait => .wait m
  | .poison u => .fault (some u)
  | .bad _ _ _ | .ok _ => .fault none

/-- A read of the queue agent for an operation. -/
def planeRead (cf : Conf) (m : Mach) (p x a n : Nat) : Except PlaneR (List Byte) × Mach :=
  match agentRead cf m qLeaf qOwn p x .plain a n with
  | (.ok bs, m) => (.ok bs, m)
  | (r, m) => (.error (.ofRead m r), m)

/-- A membership record read through a context: count, own index and entries (R132); it faults where it is malformed (R133). -/
def readMembers (cf : Conf) (m : Mach) (p x a : Nat) : Except PlaneR (Nat × Nat × List (List Byte)) × Mach :=
  match planeRead cf m p x a 64 with
  | (.error e, m) => (.error e, m)
  | (.ok h, m) =>
    let w := natAt h 0 8
    let c := nbits w 6 0
    if c = 0 ∨ 64 < c ∨ nbit w 7 ∨ nbits w 63 14 ≠ 0 ∨ c ≤ nbits w 13 8 ∨ !allZero (bytesAt h 8 56) then (.error (.fault none), m)
    else
      match planeRead cf m p x (a + 64) (32 * c) with
      | (.error e, m) => (.error e, m)
      | (.ok es, m) =>
        let l := (List.range c).map (fun i => bytesAt es (32 * i) 32)
        if l.all (fun e => allZero (bytesAt e 18 14)) then (.ok (c, nbits w 13 8, l), m) else (.error (.fault none), m)

/-! ### Ranges (R110) -/

/-- What a page of a range must be: for the local plane PL = 1 and W = 1, for the anchor plane package memory or weight store with PL = 0, for the
other three package memory with PL = 0 and W = 1; none compressed. -/
inductive PlaneKind where
  | loc
  | anchor
  | other
deriving DecidableEq, Repr

/-- Whether a leaf satisfies R110. -/
def leafOk (pt : Part) (k : PlaneKind) (l : Leaf) : Bool :=
  let w := pbit l.e 2
  let pl := pbit l.e 7
  let pkg := inPkg pt (pAddr l.e)
  !pbit l.e 9 && match k with
    | .loc => pkg && pl && w
    | .anchor => (pkg || pbit l.e 8) && !pl
    | .other => pkg && !pl && w

/-- Whether every page of a virtual range satisfies R110. -/
def rangeOk (cf : Conf) (m : Mach) (p x : Nat) (k : PlaneKind) (a n : Nat) : Bool :=
  match cf.part? p with
  | none => false
  | some pt => decide (a + n ≤ 2 ^ 57) && (List.range ((a + n - 1) / 65536 - a / 65536 + 1)).all (fun i =>
      match walk cf m p x ((a / 65536 + i) * 65536) with
      | .ok l => leafOk pt k l && (cf.key? p (pKey l.e)).isSome
      | .bad _ _ => false)

/-- The five ranges of a region with M islands: kind, base and length (R110). -/
def Region.ranges (rg : Region) (islands : Nat) : List (PlaneKind × Nat × Nat) :=
  [(.loc, rg.base 0, rg.nw * rg.lsize), (.anchor, rg.base 8, 4 * rg.nw), (.other, rg.base 16, 4 * rg.nw),
    (.other, rg.base 24, rg.nf * (64 + 12 * rg.F)), (.other, rg.base 32, islands * rg.rxdepth * rg.slotLen)]

/-- Whether no two ranges of a list overlap. -/
def disjoint : List (Nat × Nat) → Bool
  | [] => true
  | a :: r => r.all (fun b => !overlaps a.1 a.2 b.1 b.2) && disjoint r

/-- Whether a region's ranges with M islands satisfy R110. -/
def rangesOk (cf : Conf) (m : Mach) (rg : Region) (islands : Nat) : Bool :=
  (rg.ranges islands).all (fun r => rangeOk cf m rg.p rg.x r.1 r.2.1 r.2.2) && disjoint ((rg.ranges islands).map Prod.snd)

/-! ### The command (R134) -/

/-- Performing a plane operation that is the queue's next entry: fields it does not use must be zero (R134). -/
def planeCmd (m : Mach) (q pcop : Nat) (go : Nat → Nat → Nat → Entry → PlaneR) : Mach :=
  match m.entry q 5 false with
  | none => m
  | some e =>
    let w := e.word 1
    if nbits w 3 0 ≠ pcop then m
    else
      let bad := decide (w / 2 ^ 10 ≠ 0) || decide (e.word 3 / 2 ^ 32 ≠ 0) || e.word 4 != 0 || (nbit w 7 && pcop != 0)
        || (e.word 3 != 0 && pcop != 2) || (e.word 2 != 0 && pcop != 0 && pcop != 2 && pcop != 5)
      match (if bad then .fault none else go (m.queue q).part (nbits w 9 8) (nbits w 6 4) e) with
      | .wait m => m
      | .fault u => (match u with
        | some a => m.qPoison q a
        | none => m).completeEntry q e 1 0 0
      | .begun r m => m.setEntryOf q { e with begun := true, l := r }
      | .ok m => m.completeEntry q e 0 0 0

/-! ### The operations (R135) -/

/-- A fragment at the bind (R135). -/
def newFrag (f : Nat) : Frag := ⟨f, 0, false, 0, false, 0, 0, 0, 0, 0⟩

/-- A region at its bind. -/
def newRegion (r p x k : Nat) (desc : List Byte) (at_ : Nat) (pair : List Byte) (mb : Nat × Nat × List (List Byte)) : Region :=
  let rg : Region := ⟨r, p, x, desc, at_, pair, [(x, k)], [], [⟨0, mb.1, mb.2.1, mb.2.2⟩], natAt desc 0x50 8, [], 0, [], 0, natAt desc 0x44 4, [], [],
    false, [], [], false, [], [], [], ⟨0, 0, .start⟩, none⟩
  { rg with frags := (List.range rg.nf).map newFrag }

/-- Where a bind's zeroing goes: the fragments' headers, then the receive slots, access by access. -/
def zeroAt (rg : Region) (i : Nat) : Nat := if i < 4 * rg.nf then rg.staging (i / 4) + 16 * (i % 4) else rg.base 32 + 16 * (i - 4 * rg.nf)
/-- How many accesses that takes. -/
def zeroCount (rg : Region) (islands : Nat) : Nat := 4 * rg.nf + islands * rg.rxdepth * rg.slotLen / 16

/-- What INITA writes of a weight: the anchor takes L exactly, the momentum +0.0. -/
def initWrites (rg : Region) (w : Nat) (got : List Nat) : List (Nat × List Byte) :=
  let l := got.getD 0 0
  [(rg.base 8 + 4 * w, leBytes 4 (if rg.lsize = 2 then l * 65536 else l)), (rg.base 16 + 4 * w, leBytes 4 0)]

/-- A bind goes on by one unit: it zeros, under INITA sets the planes, and is over (R135). -/
def bindUnit (cf : Conf) (m : Mach) (q : Nat) (e : Entry) : Mach :=
  match (m.region? e.l).bind (fun rg => rg.init.map (fun k => (rg, k))) with
  | none => m
  | some (rg, k) =>
    let die := rg.dies.headD 0
    let go (m : Mach) (k : InitAt) : Mach := m.updRegion rg.r (fun g => { g with init := some k })
    if k.pos < zeroCount rg k.islands then
      match dieWrite cf m rg die .batten (zeroAt rg k.pos) (List.replicate 16 0) with
      | (false, m) => m
      | (true, m) => go m { k with pos := k.pos + 1 }
    else if k.inita ∧ k.run.w < rg.nw then
      let w := k.run.w
      let x := strideStep cf m rg die [(.spindle, rg.base 0 + w * rg.lsize, rg.lsize)] (initWrites rg w) k.run
      go x.2 { k with run := x.1 }
    else (m.updRegion rg.r (fun g => { g with init := none })).completeEntry q e 0 0 0

/-- The table pair a descriptor names, empty where it names none (R108, R206). -/
def readPair (cf : Conf) (m : Mach) (p x : Nat) (desc : List Byte) : Except PlaneR (List Byte) × Mach :=
  if nbit (natAt desc 0x40 4) 8 then
    match planeRead cf m p x (natAt desc 0x48 8) 536 with
    | (.ok img, m) => (if pairOkImg img then .ok img else .error (.fault none), m)
    | r => r
  else (.ok [], m)

/-- BIND of a descriptor that no bound region has (R135): once its checks have passed it has begun. -/
def bindNew (cf : Conf) (m : Mach) (p x k : Nat) (desc : List Byte) (at_ : Nat) (inita : Bool) : PlaneR :=
  if descBad desc then .fault none
  else
    match readMembers cf m p x (natAt desc 0x60 8) with
    | (.error e, _) => e
    | (.ok mb, m) =>
      match readPair cf m p x desc with
      | (.error e, _) => e
      | (.ok pair, m) =>
        let rg := newRegion m.fresh p x k desc at_ pair mb
        if !rangesOk cf m rg mb.1 || (m.queue rg.notifyq).part != p then .fault none
        else .begun rg.r { m with fresh := m.fresh + 1, regions := m.regions ++ [{ rg with init := some ⟨mb.1, inita, 0, .start⟩ }] }

/-- BIND (R135): of a descriptor that a bound region has, whose contents no longer matter, or of a new one. A region that is still being bound is waited for, and holds its
index. -/
def bindOp (cf : Conf) (m : Mach) (p x k : Nat) (e : Entry) : PlaneR :=
  let inita := nbit (e.word 1) 7
  let a := e.word 2
  if (cf.ctx? p x).isNone || m.regions.any (fun rg => rg.p == p && rg.binds.contains (x, k)) || decide (2 ^ 57 ≤ a) then .fault none
  else
    match reach cf m qOwn p x a .read with
    | (.bad _ _, _) => .fault none
    | (.wait, m) => .wait m
    | (.ok ac, m) =>
      match m.regions.find? (fun rg => rg.p == p && rg.descAt == ac.ppa) with
      | some rg =>
        if inita then .fault none
        else if rg.init.isSome then .wait m
        else .ok (m.updRegion rg.r (fun g => { g with binds := g.binds ++ [(x, k)], left := g.left.filter (fun b => b != (x, k)) }))
      | none =>
        match planeRead cf m p x a 128 with
        | (.error e, _) => e
        | (.ok desc, m) => bindNew cf m p x k desc ac.ppa inita

/-- UNBIND (R135): the last binding waits until no window is open, no pass runs, no Spindle is at a fragment and no fold is in progress; then the region is released, its drift messages on their
way are not. Until then the index stays bound, so that its windows can close: whether it goes before that wait or after is left open (a choice of the model: log entry
96). -/
def unbindOp (m : Mach) (p x k : Nat) : PlaneR :=
  match m.regionOf p x k with
  | none => .fault none
  | some rg =>
    if 1 < rg.binds.length then
      .ok (m.updRegion rg.r (fun g => { g with binds := g.binds.filter (fun b => b != (x, k)), left := (x, k) :: g.left }))
    else if rg.cnt ≠ 0 ∨ rg.pass ∨ !rg.spin.isEmpty ∨ !rg.folds.isEmpty then .wait m
    else .ok { m with regions := m.regions.filter (fun g => g.r != rg.r) }

/-- Whether the receive area holds the slots of some islands: its pages are what R110 asks, and it meets no other range (R135). -/
def receiveOk (cf : Conf) (m : Mach) (rg : Region) (islands : Nat) : Bool :=
  let n := islands * rg.rxdepth * rg.slotLen
  rangeOk cf m rg.p rg.x .other (rg.base 32) n && disjoint ((rg.ranges islands).map Prod.snd)

/-- MEMBER (R133, R135). -/
def memberOp (cf : Conf) (m : Mach) (p x k : Nat) (e : Entry) : PlaneR :=
  let reff := e.word 3
  match m.regionOf p x k with
  | none => .fault none
  | some rg =>
    match readMembers cf m p x (e.word 2) with
    | (.error e, _) => e
    | (.ok mb, m) =>
      if rg.frags.any (fun f => f.sentOnce && decide (reff ≤ f.round)) || !receiveOk cf m rg mb.1 then .fault none
      else .ok (m.updRegion rg.r (fun g => { g with members := g.members ++ [⟨reff, mb.1, mb.2.1, mb.2.2⟩] }))

/-- PAUSE and RESUME (R135). -/
def pauseOp (m : Mach) (p x k : Nat) (on : Bool) : PlaneR :=
  match m.regionOf p x k with
  | none => .fault none
  | some rg => .ok (m.updRegion rg.r (fun g => { g with paused := on }))

/-- SETTHR (R128, R135). -/
def setthrOp (m : Mach) (p x k : Nat) (e : Entry) : PlaneR :=
  match m.regionOf p x k with
  | none => .fault none
  | some rg => .ok ((m.updRegion rg.r (fun g => { g with thr := e.word 2 })).normCheck rg.r)

/-- BIND (R135): it begins, or goes on by one unit. -/
def execBind (q : Nat) (s : State) := onMach s (fun cf m => match m.entry q 5 true with
  | some e => bindUnit cf m q e
  | none => planeCmd m q 0 (bindOp cf m))
/-- UNBIND (R135). -/
def execUnbind (q : Nat) (s : State) := onMach s (fun _ m => planeCmd m q 1 (fun p x k _ => unbindOp m p x k))
/-- MEMBER (R133). -/
def execMember (q : Nat) (s : State) := onMach s (fun cf m => planeCmd m q 2 (memberOp cf m))
/-- PAUSE (R135). -/
def execPause (q : Nat) (s : State) := onMach s (fun _ m => planeCmd m q 3 (fun p x k _ => pauseOp m p x k true))
/-- RESUME (R135). -/
def execResume (q : Nat) (s : State) := onMach s (fun _ m => planeCmd m q 4 (fun p x k _ => pauseOp m p x k false))
/-- SETTHR (R135). -/
def execSetthr (q : Nat) (s : State) := onMach s (fun _ m => planeCmd m q 5 (setthrOp m))

end Sys2Proof.Machine
end

