-- ==== Sys2Proof/Machine/Launch.lean ====
section
/-!
DEFINITION. The life of a launch: admission, refusal and eviction (R140, R146, R147, R165, R174), clusters that start (R143, R148), groups that
start (R139, R145, R150), allocations that are released (R49), and completion (R148, R159, R163).
-/
namespace Sys2Proof.Machine

/-! ### Teams and clusters come to be (R38, R40, R41, R49, R141) -/

/-- The role of a group (R155). -/
def LRec.role (rc : LRec) (g : Nat) : Nat := rc.roles / 2 ^ (2 * g) % 4

/-- The lowest free group slot of a quadrant (R169). -/
def Mach.freeGroupSlot (m : Mach) (core quad : Nat) : Nat :=
  let used := (m.groups.filter (fun g => quadOf g.g == quad && (m.team? g.t).any (fun tm => tm.core == core &&
    (m.cluster? tm.c).any (fun cl => cl.pre != .saved)))).map Group.slot
  ((List.range 17).find? (fun s => !used.contains s)).getD 16

/-- A group as it is placed (R140, R150, R154, R155, R191, R204). -/
def newGroup (rc : LRec) (t g slot : Nat) : Group :=
  { t := t, g := g, role := rc.role g, sect := rc.sect0, fpstat := 0, tmshape := 16, tmpair := 0, codebook := List.replicate 16 0
    joins := List.replicate 16 0, conds := List.replicate 8 0, handler := false, handlerKind := 0, trapCause := 0, trapAddr := 0, pend := []
    feKept := none, lpadKept := none, preDone := false, ended := false, active := false, ready := 0, since := 0, slot := slot, held := none, rdSnap := 0 }

/-- The groups of a team are placed in their quadrants (R141). -/
def Mach.addGroups (m : Mach) (rc : LRec) (t core : Nat) : Mach :=
  (List.range rc.ngrp).foldl (fun m g => { m with groups := m.groups ++ [newGroup rc t g (m.freeGroupSlot core (quadOf g))] }) m

/-- A team with its allocation: it takes the core's generation, its header gives it, its initial-empty range is empty (R40, R41, R49). -/
def Mach.addTeam (m : Mach) (c l idx : Nat) (rc : LRec) (st : Seat) : Mach :=
  let t := m.fresh
  let gen := smGet 0 m.gens st.core
  let tm : Team := ⟨t, c, l, idx, st.core, st.base, rc.scr, gen, 0, st.regBase, 0, false, List.replicate 16 ⟨rc.ngrp, 0, false, none⟩, [0, 0, 0, 0], [],
    List.replicate 4 ⟨false, 0, 0, 0, 0⟩⟩
  let m : Mach := { m with
    fresh := t + 1
    gens := smSet 0 m.gens st.core (gen + 1)
    teams := m.teams ++ [tm] }
  let m := m.deliver ⟨0, .scr t, 0x20, leBytes 4 gen.toNat, .plain, none, false, 0, 0, 0⟩
  let m := if rc.ielen = 0 then m else (granulesOf rc.ieoff rc.ielen).foldl (fun m gr => m.setGranule t gr (false, 0)) m
  m.addGroups rc t st.core

/-- A cluster with its teams, in index order (R143); no instruction line of the partition but the launch's own pinned ones stays on its cores
(R53). -/
def Mach.addCluster (m : Mach) (la : Launch) (rc : LRec) (num : Nat) (os : List Origin) (seats : List Seat) : Mach :=
  let c := m.fresh
  let cores := cluCores rc os
  let m : Mach := { m with
    fresh := c + 1
    clusters := m.clusters ++ [⟨c, la.l, num, cores, false, .running, none, List.replicate 4 ⟨[], 0⟩, ⟨[], 0⟩⟩]
    icache := m.icache.filter (fun i => !(i.p == la.p && (cores.map CluCore.core).contains i.core && !i.pin.contains la.l)) }
  (seats.zip (List.range seats.length)).foldl (fun m s => m.addTeam c la.l s.2 rc s.1) m

/-- The teams that some clusters would take, one list for each cluster, when all can be placed (R146). -/
def takeAll (pt : Part) (x : Nat) (rc : LRec) : List Seat → List (List Origin) → Option (List (List Seat))
  | _, [] => some []
  | ss, os :: rest =>
    if os.length = rc.rects then
      match takeRects pt ss x rc os with
      | some ss' => (takeAll pt x rc ss' rest).map (fun l => ss'.drop ss.length :: l)
      | none => none
    else none

/-! ### Window entries (R147) -/

/-- The 32 bytes of a team's entry. -/
def windowBytes (rc : LRec) (k : Nat) (tm : Team) : List Byte :=
  leBytes 8 (1 + 2 + rc.fwperm * 8 + (rc.fwob + 16 * k) % 2 ^ 33 * 2 ^ 16) ++ leBytes 8 rc.scr ++ leBytes 8 tm.base
    ++ leBytes 8 (tm.core * 2 ^ 10 + tm.gen.toNat * 2 ^ 32)

/-- The entries of a launch's teams are written (R147): entry FWE + t for team t of the grid. -/
def Mach.writeWindows (cf : Conf) (m : Mach) (l : Nat) : Mach :=
  match m.launch? l with
  | none => m
  | some la =>
    match la.rec_, cf.part? la.p with
    | some rc, some pt =>
      if rc.persist && rc.fwen then
        (m.teams.filter (fun tm => tm.l == l)).foldl (fun m tm =>
          let k := ((m.cluster? tm.c).map Cluster.num).getD 0 * rc.ncores + tm.idx
          m.putPhys pt (pt.fwtab + 32 * (rc.fwe + k)) (windowBytes rc k tm)) m
      else m
    | _, _ => m

/-! ### Completion of a launch (R148, R163) -/

/-- The queue entry of a launch. -/
def Mach.launchEntry (m : Mach) (la : Launch) : Option Entry :=
  let qu := m.queue la.q
  (qu.cur.toList ++ qu.past).find? (fun e => e.op == 1 && e.begun && e.fin.isNone && e.l == la.l)

/-- A launch is over: its entry completes, its pins and handle entries go (R148, R159, R301, R347). -/
def Mach.endLaunch (m : Mach) (cf : Conf) (la : Launch) (st : Nat) (d1 d2 : DWord) : Mach :=
  let m := match m.launchEntry la with
    | some e => m.completeEntry la.q e st d1 d2
    | none => m
  ({ m with
    launches := m.launches.filter (fun x => x.l != la.l)
    icache := m.icache.map (fun i => { i with pin := i.pin.filter (fun x => x != la.l) }) } : Mach).freeLaunch cf.device.toNat la.p la.l

/-- DETAIL and DETAIL2 of a launch that failed, with its status (R139, R163, R172). -/
def Launch.detail (la : Launch) : Nat × DWord × DWord :=
  match la.stop, la.prolFail with
  | some s, _ => (1, BitVec.ofNat 64 (s.clu % 2 ^ 31 + s.cause * 2 ^ 40 + s.group * 2 ^ 48), BitVec.ofNat 64 s.core)
  | none, some (c, b, _) => (1, BitVec.ofNat 64 (c % 2 ^ 31 + b % 4 * 2 ^ 32), 0)
  | none, none => (0, 0, 0)

/-- A launch completes when no allocation of it is left and no cluster will start any more (R139, R148, R172). -/
def Mach.launchCheck (m : Mach) (cf : Conf) (l : Nat) : Mach :=
  match m.launch? l with
  | none => m
  | some la =>
    match la.rec_ with
    | none => m
    | some rc =>
      if m.clusters.any (fun cl => cl.l == l) || la.startable rc then m
      else let d := la.detail; m.endLaunch cf la d.1 d.2.1 d.2.2

/-! ### Admission (R140, R146, R165) -/

/-- A launch refused: its entry completes with FAULT, nothing starts (R140). -/
def Mach.refuse (m : Mach) (cf : Conf) (la : Launch) : Mach := m.endLaunch cf la 1 0 0

/-- Whether admission refuses a record (R140, R147). -/
def refused (cf : Conf) (m : Mach) (la : Launch) (b : List Byte) : Bool :=
  let rc := lrecOf b
  match cf.part? la.p with
  | none => true
  | some pt => lrecBad b || fwBad pt rc || (bitsOf rc.regmask 8).any (fun k => (m.regionOf la.p la.x k).isNone) || !canPlace pt [] la.x rc rc.unit

/-- Some clusters of a launch start. -/
def Mach.startClusters (m : Mach) (la : Launch) (rc : LRec) (places : List (List Origin)) (seats : List (List Seat)) : Mach :=
  let m := ((places.zip seats).zip (List.range places.length)).foldl (fun m p => m.addCluster la rc (la.nextClu + p.2) p.1.1 p.1.2) m
  ({ m with lastq := (la.p, la.q) :: m.lastq.filter (fun e => e.1 != la.p) } : Mach).updLaunch la.l (fun x => { x with nextClu := la.nextClu + places.length })

/-- A launch is admitted: its record is kept, its first clusters are placed, and after OVL the queue goes on (R136, R146, R160). -/
def Mach.admitAt (cf : Conf) (m : Mach) (la : Launch) (rc : LRec) (places : List (List Origin)) (seats : List (List Seat)) : Mach :=
  let m : Mach := { m with fresh := m.fresh + 1 }
  let m := m.updLaunch la.l (fun x => { x with rec_ := some rc, admitted := true, order := m.fresh })
  let m := (m.startClusters la rc places seats).writeWindows cf la.l
  let qu := m.queue la.q
  match qu.cur with
  | some e => if e.flag 9 && e.begun && e.op == 1 && e.l == la.l then m.setQueue { qu with cur := none, past := qu.past ++ [e] } else m
  | none => m

/-! ### Pre-emption: choosing clusters (R174, R175) -/

/-- The bytes a team's image may take (R174). -/
def imageSize (rc : LRec) : Nat :=
  32768 + rc.ngrp * (128 * rc.regs + 2048) + 5 * rc.scr / 4 + 65536 * (bitsOf rc.tmask 4).length + 1024 * rc.scu + 1024 * (bitsOf rc.pairmask 7).length

/-- The image bytes of some clusters. -/
def Mach.imagesOf (m : Mach) (p : Cluster → Bool) : Nat :=
  ((m.clusters.filter p).map (fun cl => match (m.launch? cl.l).bind Launch.rec_ with
    | some rc => rc.ncores * imageSize rc
    | none => 0)).sum

/-- Whether a cluster is saved or on its way (R175). -/
def Cluster.leaving (cl : Cluster) : Bool := cl.pre != .running

/-- Whether the images of a launch's clusters fit in its context's free save pool, beside those of clusters saved, on their way, or chosen with it (R174). -/
def Mach.savable (cf : Conf) (m : Mach) (la : Launch) (chosen : List Nat) : Bool :=
  match cf.ctx? la.p la.x with
  | none => false
  | some cr =>
    let inCtx (cl : Cluster) := (m.launch? cl.l).any (fun x => x.p == la.p && x.x == la.x)
    decide (m.imagesOf (fun cl => inCtx cl && (cl.leaving || chosen.contains cl.c || cl.l == la.l)) ≤ cr.savelen)

/-- Some clusters are chosen: with notice each group takes a PREEMPT trap, without they stop at once (R175). -/
def Mach.choose (m : Mach) (cs : List Nat) (deadline : Option Nat) (who : Option (Nat × Nat)) : Mach :=
  let m := cs.foldl (fun m c => m.updCluster c (fun cl => { cl with preq := who, pre := match deadline with
    | some d => .notice d
    | none => .stopping })) m
  if deadline.isSome then
    { m with groups := m.groups.map (fun (g : Group) =>
        if !g.ended && (m.team? g.t).any (fun tm => cs.contains tm.c) then { g with preDone := false, pend := g.pend ++ [⟨0x14, 0, 0, none, true⟩] }
        else g) }
  else m

/-- The units an eviction takes, in its order, each with its launch: launches of higher PRIO number first, then the most recently admitted; whole grids of persistent
launches, else clusters, the latest started first (R174). -/
def evictUnits (m : Mach) (la : Launch) : List (Launch × List Nat) :=
  let vs := m.launches.filter (fun v => v.p == la.p && v.admitted && decide (la.prio < v.prio))
  let sorted := vs.mergeSort (fun a b => decide (b.prio < a.prio) || (a.prio == b.prio && decide (b.order ≤ a.order)))
  sorted.flatMap (fun v =>
    let cs := ((m.clusters.filter (fun cl => cl.l == v.l && !cl.leaving)).map Cluster.c).reverse
    if (v.rec_.any LRec.persist) then (if cs.isEmpty then [] else [(v, cs)]) else cs.map (fun c => (v, [c])))

/-- The seats that stay when some clusters, and those already leaving, are gone. -/
def Mach.seatsBut (m : Mach) (cs : List Nat) : List Seat :=
  ({ m with teams := m.teams.filter (fun tm => !(cs.contains tm.c || (m.cluster? tm.c).any Cluster.leaving)) } : Mach).seats

/-- The clusters an eviction takes: units until the launch can be placed, none of a launch whose images no longer fit; none when it cannot be even then (R174). -/
def evictSet (cf : Conf) (pt : Part) (m : Mach) (la : Launch) (rc : LRec) : List (Launch × List Nat) → List Nat → Option (List Nat)
  | units, cs =>
    if canPlace pt (m.seatsBut cs) la.x rc rc.unit then some cs
    else match units with
      | [] => none
      | u :: rest => evictSet cf pt m la rc rest (if m.savable cf u.1 cs then cs ++ u.2 else cs)

/-- An EVICT launch that cannot be placed pre-empts launches of lower priority (R174). -/
def Mach.evict (cf : Conf) (m : Mach) (pt : Part) (la : Launch) (rc : LRec) : Mach :=
  match evictSet cf pt m la rc (evictUnits m la) [] with
  | some cs => m.choose cs none (some (la.q, la.index))
  | none => m

/-- LAUNCH_ADMIT (R136, R140, R146, R165): a waiting launch is refused, or admitted where `place` puts its first cluster (or, persistent, all of
them), or evicts others. It waits while a weight-store copy does (R60), and while a claim before it can be placed. -/
def launchAdmit (cf : Conf) (m : Mach) (l : Nat) (place : List (List Origin)) : Mach :=
  match m.launch? l with
  | none => m
  | some la =>
    match cf.part? la.p with
    | none => m.refuse cf la
    | some pt =>
      if la.admitted || m.wsCopying la.p then m
      else
        match readRec cf m la with
        | (.bad _ _ _, m) => m.refuse cf la
        | (.poison u, m) => (m.qPoison la.q u).refuse cf la
        | (.wait, m) => m
        | (.ok b, m1) =>
          let rc := lrecOf b
          if refused cf m1 la b then m1.refuse cf la
          else if !mayServe cf m pt ⟨2, la, rc, rc.unit⟩ then m
          else
            match (if place.length = rc.unit then takeAll pt la.x rc m.seats place else none) with
            | some seats => m1.admitAt cf la rc place seats
            | none => if la.evict && !canPlace pt m.seats la.x rc rc.unit then m.evict cf pt la rc else m

/-- The launches of a partition that wait are checked again under its new configuration: a persistent one that could not be placed even with every core idle is refused
(R146). -/
def recheckLaunches (cf : Conf) (m : Mach) (p : Nat) : Mach :=
  m.launches.foldl (fun m la =>
    if la.p ≠ p ∨ la.admitted then m
    else match readRec cf m la, cf.part? p with
      | (.ok b, m1), some pt =>
        let rc := lrecOf b
        if !lrecBad b && rc.persist && !canPlace pt [] la.x rc rc.unit then m1.refuse cf la else m
      | _, _ => m) m

/-- A partition keeps no more entries of a die's shared cache than its share has (R20). -/
def Mach.trimShared (m : Mach) (die p n : Nat) : Mach :=
  let mine := m.tlb.filter (fun e => e.own == .die die && e.p == p)
  { m with tlb := m.tlb.filter (fun e => !(mine.drop n).contains e) }

/-- PARTCFG (R161). -/
def partcfgCmd (cf : Conf) (m : Mach) (q : Nat) : Conf × Mach :=
  match m.entry q 7 false with
  | none => (cf, m)
  | some e =>
    let r := qHost m (e.word 2) 512
    let p := nbits (e.word 1) 3 0
    if m.poisoned .host (e.word 2) 512 then (cf, (r.2.qPoison q (e.word 2)).completeEntry q e 1 0 0)
    else
      match (if m.admittedIn p || partBad r.1 then none else cf.withPart (partOf p r.1)) with
      | some cf' =>
        let pt := partOf p r.1
        let m := { r.2 with ways := (p, wayCounts pt) :: r.2.ways.filter (fun w => w.1 != p), vows := r.2.vows.filter (fun v => v.part != p) }
        let m := (List.range 4).foldl (fun m d => m.trimShared d p (256 * pt.tent.getD d 0)) m
        (cf', recheckLaunches cf' (((m.keepLines cf' pt).extendLater 3 r.1).completeEntry q e 0 0 0) p)
      | none => (cf, r.2.completeEntry q e 1 0 0)

/-- CLUSTER_START (R143, R148, R165): the next cluster of a grid that is not persistent is placed; none while a cluster of it is on its way to
being saved (R174). -/
def clusterStart (cf : Conf) (m : Mach) (l : Nat) (place : List Origin) : Mach :=
  match m.launch? l with
  | none => m
  | some la =>
    match la.rec_, cf.part? la.p with
    | some rc, some pt =>
      if la.startable rc && !(m.clusters.any (fun cl => cl.l == l && cl.leaving && cl.pre != .saved)) && mayServe cf m pt ⟨1, la, rc, 1⟩ then
        match takeAll pt la.x rc m.seats [place] with
        | some seats => m.startClusters la rc [place] seats
        | none => m
      else m
    | _, _ => m

/-! ### Groups start (R139, R145, R150) -/

/-- The fibre a group starts as (R150). -/
def firstFibre (rc : LRec) (t g : Nat) : Fibre :=
  { ref := ⟨t, g, 0⟩, pc := rc.entry, pred := 0xFFFFFFFF, base := 0, toks := idleToks, depths := noDepths, run := false, pos := 0, wait := none
    susp := false, trl := none, lpad := none, xl := [], fe := none, drained := false, asked := false }

/-- One group starts: its fibre, the invalidate its first instruction takes (R139), an active slot where one is free (R169). -/
def Mach.startGroup (m : Mach) (rc : LRec) (core t g : Nat) : Mach :=
  let act := decide (((m.quadGroups core (quadOf g)).filter Group.active).length < 8)
  let m := (m.updGroup t g (fun x => { x with active := act, ready := m.cyc, since := m.cyc })).invalidate (.group t g) 1
  { m with fibres := m.fibres ++ [firstFibre rc t g] }

/-- GROUP_START (R139, R145, R146, R148): once every prologue of a cluster (of a persistent grid, of every cluster) is done, and every lower cluster
has started, its groups start. -/
def groupStart (m : Mach) (c : Nat) : Mach :=
  match m.cluster? c with
  | none => m
  | some cl =>
    match m.launch? cl.l with
    | none => m
    | some la =>
      match la.rec_ with
      | none => m
      | some rc =>
        let mine := m.teams.filter (fun tm => if rc.persist then tm.l == cl.l else tm.c == c)
        let lower := m.clusters.any (fun k => k.l == cl.l && decide (k.num < cl.num) && !k.started)
        if cl.started || cl.pre != .running || la.stop.isSome || la.prolFail.isSome || lower && !rc.persist || !mine.all Team.prolDone then m
        else
          let m := m.updCluster c (fun k => { k with started := true })
          (m.teamsOf c).foldl (fun m tm => (List.range rc.ngrp).foldl (fun m g => m.startGroup rc tm.core tm.t g) m) m

/-! ### Release (R49) -/

/-- Every write in the buffers of a cluster's points goes on to the device (R72): nothing of it is left behind at the release. -/
def Mach.flushCluster (m : Mach) (c : Nat) : Mach :=
  let ts := (m.teamsOf c).map Team.t
  let own (p : Point) := match p with
    | .group t _ => ts.contains t
    | .eng t _ => ts.contains t
    | .core t => ts.contains t
    | .clu c' => c' == c
    | _ => false
  let m := (List.range 3).foldl (fun m l => m.push (((m.bufs.map BufEnt.pt).filter (fun p => own p && Point.level p == l)).eraseDups) (fun _ => true)) m
  let ps := (m.copies.map Copy.pt ++ m.blocks.map Block.pt ++ m.fabPend.flatMap FabPend.inst).filter own
  { (m.dropCopies ps) with marks := m.marks.filter (fun k => !ts.contains k.t) }

/-- Keys outside a run. -/
def dropKeys (l : List Nat) (lo hi : Nat) : List Nat := l.filter (fun k => decide (k < lo) || decide (hi ≤ k))

/-- What a team held goes: its registers, latches, tiles, scale units and pairs (R38, R49, R175). The bytes of its allocation stay as they are: only the range is free. -/
def Mach.dropTeam (m : Mach) (tm : Team) (pairmask : Nat) : Mach :=
  let t := tm.t
  { m with
    gran := smDrop m.gran (granKey t 0) (granKey (t + 1) 0)
    regs := smDrop m.regs (regKey t 0 0 0) (regKey (t + 1) 0 0 0)
    lats := smDrop m.lats (latKey t 0 0 0) (latKey (t + 1) 0 0 0)
    acc := smDrop m.acc (accKey t 0 0 0) (accKey (t + 1) 0 0 0)
    scale := smDrop m.scale (scaleKey t 0) (scaleKey (t + 1) 0)
    regErr := dropKeys m.regErr (regKey t 0 0 0) (regKey (t + 1) 0 0 0), latErr := dropKeys m.latErr (latKey t 0 0 0) (latKey (t + 1) 0 0 0)
    accErr := dropKeys m.accErr (accKey t 0 0 0) (accKey (t + 1) 0 0 0), scaleErr := dropKeys m.scaleErr (scaleKey t 0) (scaleKey (t + 1) 0)
    copies := m.copies.filter (fun k => k.sp != .scr t), blocks := m.blocks.filter (fun b => !(partsIn b.parts).any (fun q => q.1 == .scr t))
    pairs := m.pairs.filter (fun p => !(p.core == tm.core && decide (1 ≤ p.slot) && nbit pairmask (p.slot - 1)))
    tlb := m.tlb.filter (fun e => match e.own with
      | .eng t' _ => t' != t
      | _ => true)
    teams := m.teams.filter (fun x => x.t != t), groups := m.groups.filter (fun g => g.t != t), fibres := m.fibres.filter (fun f => f.ref.t != t)
    outst := m.outst.filter (fun o => o.ref.t != t), ops := m.ops.filter (fun o => o.t != t), fabPend := m.fabPend.filter (fun p => p.ref.t != t) }

/-- A cluster and its teams are gone. -/
def Mach.dropCluster (m : Mach) (cl : Cluster) (pairmask : Nat) : Mach :=
  let m := m.flushCluster cl.c
  let tms := m.teamsOf cl.c
  let m := tms.foldl (fun m tm => m.dropTeam tm pairmask) m
  let m : Mach := { m with
    clusters := m.clusters.filter (fun x => x.c != cl.c), rings := m.rings.filter (fun r => r.c != cl.c) }
  tms.foldl (fun m tm => (List.range 4).foldl (fun m q => m.dropCounters tm.core q) m) m

/-- The launch a PREEMPT command names (R159). -/
def Mach.named (m : Mach) (e : Entry) : Option Launch := m.launches.find? (fun la => la.q == nbits (e.word 1) 9 0 && la.index == nbits (e.word 2) 15 0)

/-- A PREEMPT command that has begun completes once every team of the launch it names is saved or gone (R159). -/
def Mach.preemptsDone (m : Mach) : Mach :=
  m.queues.foldl (fun m qu =>
    match m.entry qu.q 9 true with
    | none => m
    | some e =>
      if (m.named e).any (fun la => m.clusters.any (fun cl => cl.l == la.l && cl.pre != .saved)) then m else m.completeEntry qu.q e 0 0 0) m

/-- Whether atomics of a team, or on its scratch, that every home has promised to perform are still to be performed (R19). -/
def Mach.promised (m : Mach) (t : Nat) : Bool :=
  let at_ (sp : Space) := decide (sp = .scr t)
  m.fabPend.any (fun p => p.phase == .commit && (p.ref.t == t || p.asks.any (fun a => match a.2 with
    | .here a _ => at_ a.sp
    | .fab _ _ => false)))
    || m.vows.any (fun v => v.accs.any (fun a => at_ a.2.2.1.sp))

/-- Whether a team satisfies the first three conditions of R49. -/
def Mach.teamOver (m : Mach) (tm : Team) : Bool :=
  (m.groupsOf tm.t).all Group.ended && !m.ops.any (fun o => o.t == tm.t) && tm.inbound == 0 && !m.promised tm.t

/-- Whether a cluster that has not started never will, every prologue it awaits being over (R139, R172). -/
def Mach.neverStarts (m : Mach) (cl : Cluster) (la : Launch) (rc : LRec) : Bool :=
  !cl.started && (la.prolFail.isSome || la.stop.isSome) &&
    (m.teams.filter (fun tm => if rc.persist then tm.l == cl.l else tm.c == cl.c)).all (fun tm => tm.prolDone || tm.prol == 5) &&
    (m.teamsOf cl.c).all (fun tm => tm.inbound == 0)

/-- ALLOCATION_RELEASE (R49, R139, R148): a cluster's allocations are released together; the launch may then be complete. -/
def allocationRelease (cf : Conf) (m : Mach) (c : Nat) : Mach :=
  match m.cluster? c with
  | none => m
  | some cl =>
    match m.launch? cl.l with
    | none => m
    | some la =>
      match la.rec_ with
      | none => m
      | some rc =>
        if cl.pre != .saved && ((cl.started && (m.teamsOf c).all m.teamOver) || m.neverStarts cl la rc) then
          let m := m.dropCluster cl rc.pairmask
          m.preemptsDone.launchCheck cf cl.l
        else m

/-- PARTCFG (R161). -/
def execPartcfg (q : Nat) (s : State) : Host.Outcome State Fault Refusal := let r := partcfgCmd s.cfg s.m q; .next ⟨r.1, r.2⟩
/-- LAUNCH_ADMIT (R165). -/
def execLaunchAdmit (l : Nat) (place : List (List Origin)) (s : State) := onMach s (fun cf m => launchAdmit cf m l place)
/-- CLUSTER_START (R148). -/
def execClusterStart (l : Nat) (place : List Origin) (s : State) := onMach s (fun cf m => clusterStart cf m l place)
/-- GROUP_START (R150). -/
def execGroupStart (clu : Nat) (s : State) := onMach s (fun _ m => groupStart m clu)
/-- ALLOCATION_RELEASE (R49). -/
def execAllocationRelease (clu : Nat) (s : State) := onMach s (fun cf m => allocationRelease cf m clu)

end Sys2Proof.Machine
end

