-- ==== Sys2Proof/Machine/Links.lean ====
section
/-!
DEFINITION. Fexel link protection (R362–R365): flits under their counters, replays, locked ports, key phases and key exhaustion, and the keys
that sessions give (R374).
-/
namespace Sys2Proof.Machine

/-- A port by its number. -/
def Mach.fport? (m : Mach) (n : Nat) : Option FPort := m.dev.ports.find? (fun p => p.n == n)

/-- Replacing a port, and what KEYHOLD shows of it. -/
def Mach.setFport (m : Mach) (p : FPort) : Mach :=
  ({ m with dev := { m.dev with ports := m.dev.ports.map (fun x => if x.n = p.n then p else x) } } : Mach).showHold

/-- PLOCK: the dies with a locked port (R361, R364). -/
def Dev.plock (d : Dev) : BitVec 4 :=
  BitVec.ofNat 4 ((List.range 4).map (fun k => if d.ports.any (fun p => p.n / 9 == k && p.locked) then 2 ^ k else 0)).sum

/-- The key of a direction's phase (R365). -/
def Dir.key (d : Dir) : Option Key := if d.phase then d.key1 else d.key0

/-- Whether a direction may send its next flit: a new key is there, or the counter has not reached its end (R365). -/
def Dir.maySend (d : Dir) : Bool := d.newPhase || (d.key.isSome && decide (d.counter < 2 ^ 48 - 1))

/-- At a flit boundary a direction takes its new key, its counter 0 (R365). -/
def Dir.switch (d : Dir) : Dir := if d.newPhase then { d with phase := !d.phase, counter := 0, newPhase := false } else d

/-- The identity of a sending port (R362). -/
def portIdent (device n : Nat) : Nat := device * 2 ^ 35 + n * 2 ^ 29

/-- The nonce of a flit: counter, then the sending port's identity (R362). -/
def flitNonce (ident counter : Nat) : Nat := counter * 2 ^ 48 + ident

/-- A flit is encrypted and sent under the next counter; at 2^47 a new key is asked for (R362, R365). -/
def Mach.sendFlit (cf : Conf) (m : Mach) (p : FPort) (text : List Byte) : Mach :=
  let d := p.out.switch
  let key := d.key.getD []
  let nonce := flitNonce (portIdent cf.device.toNat p.n) d.counter
  let cipher := gcmCrypt key nonce 0 text
  let f : Flit := ⟨d.counter, d.phase, text, cipher, flitTag key nonce cipher⟩
  let ask := decide (2 ^ 47 ≤ d.counter + 1) && !d.asked
  let m := m.setFport { p with out := { d with counter := d.counter + 1, unacked := d.unacked ++ [f], asked := d.asked || ask } }
  { m with net := m.net ++ [.flit p.n f.phase f.counter f.cipher f.tag] ++ (if ask then [.keyRequest (.out p.n)] else []) }

/-- A direction out of counters holds a flit; the first one held raises KEY-EXHAUSTED and AMSIX (R361, R365). -/
def Mach.holdFlit (m : Mach) (p : FPort) (text : List Byte) : Mach :=
  let m' := m.setFport { p with out := { p.out with hold := p.out.hold ++ [text] } }
  if p.out.hold.isEmpty then ({ m' with net := m'.net ++ [.keyExhausted (.out p.n)] } : Mach).raise m.dev.amsix else m'

/-- FLIT_SEND (R362, R365): an unlocked port with a key sends a flit of 256 bytes, or holds it. -/
def flitSend (cf : Conf) (m : Mach) (n : Nat) (text : List Byte) : Mach :=
  match m.fport? n with
  | none => m
  | some p =>
    if p.locked || (p.out.key.isNone && !p.out.newPhase) || text.length != 256 then m
    else if p.out.maySend && p.out.hold.isEmpty then m.sendFlit cf p text
    else m.holdFlit p text

/-- The flits a direction holds go out, in order (R365). -/
def Mach.sendHeld (cf : Conf) (m : Mach) (n : Nat) : Mach :=
  match m.fport? n with
  | none => m
  | some p =>
    if p.locked || !p.out.maySend then m
    else p.out.hold.foldl (fun m t => match m.fport? n with
      | some p => m.sendFlit cf p t
      | none => m) (m.setFport { p with out := { p.out with hold := [] } })

/-- A port locks (R364): both directions stop, and every flit not acknowledged goes by the lowest-numbered port that can send, or waits for new
keys. -/
def Mach.lockPort (cf : Conf) (m : Mach) (n : Nat) : Mach :=
  match m.fport? n with
  | none => m
  | some p =>
    let ts := p.out.unacked.map Flit.text ++ p.out.hold
    let p := { p with locked := true, out := Dir.reset, inn := { Dir.reset with got := p.inn.got } }
    let m := m.setFport p
    let m := match m.dev.ports.find? (fun x => !x.locked && x.out.maySend && x.out.hold.isEmpty) with
      | some x => ts.foldl (fun m t => flitSend cf m x.n t) m
      | none => m.setFport { p with out := { Dir.reset with hold := ts } }
    ({ m with net := m.net ++ [.locked n] } : Mach).raise m.dev.amsix

/-- The key of a phase (R365). -/
def Dir.keyOf (d : Dir) (phase : Bool) : Option Key := if phase then d.key1 else d.key0

/-- A direction accepts a flit: its text, the next counter, and the phase it came in. -/
def Dir.take (d : Dir) (f : RFlit) (nonce : Nat) (key : Key) : Dir :=
  { d with
    phase := f.phase, counter := f.counter + 1, newPhase := d.newPhase && f.phase == d.phase, retry := none
    got := d.got ++ [gcmCrypt key nonce 0 f.cipher] }

/-- A flit meets its port (R362–R365): it is accepted under the counter, the phase and the key expected; one whose tag is wrong is discarded and its replay asked for,
behind which other flits are held; a second failure locks the port; the old phase is refused after the first flit of the new one. -/
def Mach.takeFlit (cf : Conf) (m : Mach) (n : Nat) (f : RFlit) : Mach :=
  match m.fport? n with
  | none => m
  | some p =>
    let d := p.inn
    let fresh := d.newPhase && f.phase != d.phase
    let want := if fresh then 0 else d.counter
    let nonce := flitNonce d.ident want
    match (if p.locked then none else d.keyOf f.phase) with
    | none => m
    | some key =>
      let good := f.counter == want && f.tag == flitTag key nonce f.cipher
      let refuse := m.count (n / 9) 0x10 none 1
      if f.phase != d.phase && !fresh then refuse
      else match d.retry with
        | some c =>
          if f.counter ≠ c then m.setFport { p with inn := { d with behind := d.behind ++ [f] } }
          else if good then (m.setFport { p with inn := d.take f nonce key }).count (n / 9) 0x0F none 1
          else refuse.lockPort cf n
        | none =>
          if good then m.setFport { p with inn := d.take f nonce key }
          else
            let m := refuse.setFport { p with inn := { d with retry := some want } }
            { m with net := m.net ++ [.replay n want] }

/-- FLIT_RECEIVE (R363–R365): a flit arrives; those held behind it follow in order once no replay is awaited. -/
def flitReceive (cf : Conf) (m : Mach) (n : Nat) (f : RFlit) : Mach :=
  let m := m.takeFlit cf n f
  match m.fport? n with
  | none => m
  | some p =>
    if p.inn.retry.isSome then m
    else p.inn.behind.foldl (fun m f => m.takeFlit cf n f) (m.setFport { p with inn := { p.inn with behind := [] } })

/-- A direction with a new key: its first goes into the slot in use, a later one into the idle slot (R365). -/
def Dir.install (d : Dir) (key : Key) : Dir :=
  if d.key0.isNone && d.key1.isNone then
    (if d.phase then { d with key1 := some key, counter := 0 } else { d with key0 := some key, counter := 0 })
  else if d.phase then { d with key0 := some key, newPhase := true, asked := false }
  else { d with key1 := some key, newPhase := true, asked := false }

/-- The label "plh6 fexel" (R374). -/
def fexelLabel : List Byte := [0x70, 0x6C, 0x68, 0x36, 0x20, 0x66, 0x65, 0x78, 0x65, 0x6C]
/-- The label "plh6 island" (R374). -/
def islandLabel : List Byte := [0x70, 0x6C, 0x68, 0x36, 0x20, 0x69, 0x73, 0x6C, 0x61, 0x6E, 0x64]

/-- A port with a key for one of its directions; locked no longer once both have one (R364). -/
def Mach.keyPort (cf : Conf) (m : Mach) (n : Nat) (f : FPort → FPort) : Mach :=
  match m.fport? n with
  | none => m
  | some p =>
    let p := f p
    (m.setFport { p with locked := p.locked && !(p.out.key.isSome && p.inn.key.isSome) }).sendHeld cf n

/-- KEY_INSTALL (R364–R366, R368, R374): a session that has verified its peer gives a link its key, derived with the label and the identity of what it is for; what was
held goes out. Nothing is installed without such a session, once keys are erased, or after a failed boot (R370). -/
def keyInstall (cf : Conf) (m : Mach) (use : KeyUse) (session : Option (List Byte)) : Mach :=
  match session with
  | none => m
  | some s =>
    if m.dev.erased || m.dev.bootstg == 0xFF then m
    else match use with
      | .out n => m.keyPort cf n (fun p => { p with out := p.out.install (deriveKey s fexelLabel (portIdent cf.device.toNat n)) })
      | .inn n device peer =>
        let ident := portIdent device peer
        m.keyPort cf n (fun p => { p with inn := { (p.inn.install (deriveKey s fexelLabel ident)) with ident := ident } })
      | .island peer outgoing src dst =>
        let key := deriveKey s islandLabel (src * 2 ^ 32 + dst)
        let k := m.islandKey peer
        if outgoing then (m.setIslandKey { k with out := some key, counter := 0 }).sendHeldDrift peer
        else m.setIslandKey { k with inn := some key, seen := [] }

/-- The peer has a flit: it is no longer kept for a replay. -/
def flitAcked (m : Mach) (n counter : Nat) : Mach :=
  match m.fport? n with
  | some p => m.setFport { p with out := { p.out with unacked := p.out.unacked.eraseP (fun f => f.counter == counter) } }
  | none => m

/-- The peer asks for a replay: the stored ciphertext and tag go again unchanged (R363). -/
def replayAsked (m : Mach) (n counter : Nat) : Mach :=
  match (m.fport? n).bind (fun p => p.out.unacked.find? (fun f => f.counter == counter)) with
  | some f => { m with net := m.net ++ [.flit n f.phase f.counter f.cipher f.tag] }
  | none => m

/-- FLIT_SEND (R362). -/
def execFlitSend (port : Nat) (payload : List Byte) (s : State) := onMach s (fun cf m => flitSend cf m port payload)
/-- FLIT_RECEIVE (R363). -/
def execFlitReceive (port : Nat) (phase : Bool) (counter : Nat) (cipher : List Byte) (tag : BitVec 64) (s : State) :=
  onMach s (fun cf m => flitReceive cf m port ⟨phase, counter, cipher, tag⟩)
/-- KEY_INSTALL (R365). -/
def execKeyInstall (use : KeyUse) (session : Option (List Byte)) (s : State) := onMach s (fun cf m => keyInstall cf m use session)

end Sys2Proof.Machine
end

