-- ==== Sys2Proof/Machine/Preempt.lean ====
section
/-!
DEFINITION. Pre-emption (R174–R180): the PREEMPT command, the end of a notice, saving a cluster's teams at their save points, and restoring them.
A saved team stays as records of State; what the bytes of the save pool hold afterwards is free, since the image's layout is the device's own.
-/
namespace Sys2Proof.Machine

/-! ### PREEMPT and the notice (R159, R174, R175) -/

/-- PREEMPT (R159, R174): every cluster of the named launch is chosen; FAULT when it is not running or cannot be saved, and for a notice whose
grace exponent is out of range (a choice of the model: log entry 117). -/
def preemptCmd (cf : Conf) (m : Mach) (q : Nat) : Mach :=
  match m.entry q 9 false with
  | none => m
  | some e =>
    let g := nbits (e.word 1) 15 11
    let notice := nbit (e.word 1) 10
    let fault := m.completeEntry q e 1 0 0
    match m.named e with
    | none => fault
    | some la =>
      let cs := (m.clusters.filter (fun cl => cl.l == la.l && !cl.leaving)).map Cluster.c
      if la.p ≠ (m.queue q).part || !la.admitted || cs.isEmpty || !m.savable cf la [] || notice && (decide (g < 10) || decide (20 < g)) then fault
      else (m.choose cs (if notice then some (m.cyc + 2 ^ g) else none) none).setEntryOf q { e with begun := true }

/-- NOTICE_EXPIRY (R175): the grace period of a cluster is over. -/
def noticeExpiry (m : Mach) (c : Nat) : Mach :=
  match m.cluster? c with
  | none => m
  | some cl =>
    match cl.pre with
    | .notice d =>
      if m.cyc < d then m
      else (m.preSet cl.l c).foldl (fun m c => m.updCluster c (fun cl => match cl.pre with
        | .notice _ => { cl with pre := .stopping }
        | _ => cl)) m
    | _ => m

/-! ### Save points and settled engines (R97, R176, R177) -/

/-- Whether a wait for other devices' answers is that of a waiting instruction of R156, which asks again and again. -/
def waitsFar : Instr → Bool
  | .hwait _ _ _ _ | .cwait _ _ _ _ | .cwaitt _ _ _ _ => true
  | _ => false

/-- Whether a fibre stands at a save point (R176): a run boundary, or an instruction held in a wait. A translation miss, a refresh and another instruction's
fabric access end first (R21, R180). -/
def Fibre.savePoint (f : Fibre) : Bool :=
  match f.wait with
  | none => !f.run || f.susp
  | some w => match w.why with
    | .fabric _ | .drain _ _ => waitsFar w.i
    | .missRoom _ | .xlate _ | .bank _ _ => false
    | .engine _ _ _ | .heldReg | .yield | .granule | .join _ | .barrier _ _ | .clubar _ _ | .count _ _ | .token _ | .window _ | .handle | .service _ | .kept _ _ => true

/-- Whether a team can be saved: every fibre at a save point, no result outstanding, no operation in progress that must complete, and none that has still to make
what it does as it retires (R177). -/
def Mach.settled (m : Mach) (t : Nat) : Bool :=
  (m.fibres.filter (fun f => f.ref.t == t)).all Fibre.savePoint && !m.outst.any (fun o => o.ref.t == t)
    && !m.ops.any (fun o => o.t == t && ((o.fin.isNone && o.begun && o.completes) || o.owes)) && !m.fabPend.any (fun p => p.phase == .commit && p.ref.t == t)

/-- The writes of the pending tokens of some teams leave their buffers (R97). -/
def Mach.drainTokens (m : Mach) (ts : List Nat) : Mach :=
  (m.fibres.filter (fun f => ts.contains f.ref.t)).foldl (fun m f =>
    (f.toks.filter Tok.pend).foldl (fun m k =>
      m.push (m.below (.group f.ref.t f.ref.g) k.sc) (fun w => k.wids.contains w)) m) m

/-- An operation as it is saved (R177): a DCMP job starts over, with nothing read of its input; time waited is kept as an amount. -/
def Op.saved (o : Op) (cyc : Nat) : Op :=
  let o := { o with feSince := o.feSince.map (fun s => cyc - s) }
  if o.k = .dcmp ∧ o.fin.isNone then { o with begun := false, stage := 0, prog := 0, pos := 0, buf := [], ins := [] } else o

/-- The requests of the Heddles that serve some teams: those into their allocations and those of their own XGETs (R177). -/
def Mach.teamReqs (m : Mach) (ts : List Nat) : List Nat :=
  (m.hreqs.filter (fun h => h.team.any ts.contains ||
    (h.r.get && m.ops.any (fun o => ts.contains o.t && o.fin.isNone && o.xfer.any (fun x => x.xid == h.r.xid))))).map HReq.order

/-- Tokens of some requests are revoked and the requests held (R177, R179, R339). -/
def Mach.holdReqs (m : Mach) (rs : List Nat) : Mach :=
  let ks := m.tokens.filter (fun k => rs.contains k.req)
  let m := ks.foldl (fun m k =>
    let m := m.returnToken k
    match m.hreqs.find? (fun h => h.order == k.req) with
    | some h => { m with net := m.net ++ [.revoke h.r.src k.id] }
    | none => m) m
  { m with hreqs := m.hreqs.map (fun h => if rs.contains h.order then { h with held := true } else h) }

/-- A wait as it stands after restore (R176): arrivals stay made, and so does a result that waits for its registers; every other held instruction is re-executed. -/
def Wait.kept (w : Wait) : Bool :=
  match w.why with
  | .join _ | .barrier _ _ | .clubar _ _ | .kept _ _ => true
  | _ => false

/-- A fibre as it is saved: an instruction that is re-executed keeps the time it has waited towards a limit (R46, R176). -/
def Fibre.saved (f : Fibre) (cyc : Nat) : Fibre :=
  match f.wait with
  | none => { f with xl := [] }
  | some w =>
    if w.kept then { f with xl := [], wait := some { w with since := cyc - w.since } }
    else { f with xl := [], wait := none, fe := if w.why.counts w.i then some (cyc - w.since) else f.fe }

/-- A fibre after restore. -/
def Fibre.restored (f : Fibre) (cyc : Nat) : Fibre := { f with wait := f.wait.map (fun w => { w with since := cyc - w.since }) }

/-- A team leaves its core: its engines' translations are dropped, what it has asked of other devices is asked again later, its pairs and what it waited are kept. -/
def Mach.saveTeam (m : Mach) (pairmask : Nat) (tm : Team) : Mach :=
  { m with
    ops := m.ops.map (fun o => if o.t = tm.t then o.saved m.cyc else o)
    fabPend := m.fabPend.filter (fun p => p.store || p.ref.t != tm.t)
    tlb := m.tlb.filter (fun e => match e.own with
      | .eng t _ => t != tm.t
      | _ => true)
    pairs := m.pairs.map (fun p => if p.core = tm.core ∧ 1 ≤ p.slot ∧ nbit pairmask (p.slot - 1) then { p with core := 768 + tm.t } else p)
    groups := m.groups.map (fun g => if g.t = tm.t then { g with active := false } else g)
    fibres := m.fibres.map (fun f => if f.ref.t = tm.t then f.saved m.cyc else f) }

/-- The images are written: every byte of the context's save pool is free (R174, R178; log entry 63). SAVEBASE is taken as a partition-physical address (a choice of
the model: log entry 119). -/
def Mach.writePool (cf : Conf) (m : Mach) (la : Launch) : Mach :=
  match cf.ctx? la.p la.x, cf.part? la.p with
  | some cr, some pt =>
    let m' := (List.range cr.savelen).foldl (fun n i => n.putPhys pt (cr.savebase + i) [Config.freeByte (m.free + i)]) m
    { m' with free := m.free + cr.savelen }
  | _, _ => m

/-- TEAM_SAVE (R176–R178): the teams of a cluster (of a persistent grid, of all its clusters) are saved together, once each is settled. -/
def teamSave (cf : Conf) (m : Mach) (c : Nat) : Mach :=
  match m.cluster? c with
  | none => m
  | some cl =>
    match m.launch? cl.l with
    | none => m
    | some la =>
      match la.rec_ with
      | none => m
      | some rc =>
        let cs := m.preSet cl.l c
        let tms := m.teams.filter (fun tm => cs.contains tm.c)
        let ts := tms.map Team.t
        if cl.pre != .stopping || !cs.all (fun c => (m.cluster? c).any (fun k => k.pre == .stopping)) || !ts.all m.settled then m
        else
          let m := cs.foldl Mach.flushCluster (m.drainTokens ts)
          let m := ts.foldl (fun m t => m.saveLate cf t) (m.holdReqs (m.teamReqs ts))
          let m := tms.foldl (fun m tm => m.saveTeam rc.pairmask tm) m
          let m := cs.foldl (fun m c => m.updCluster c (fun k => { k with pre := .saved })) m
          ((tms.foldl (fun m tm => (List.range 4).foldl (fun m q => m.dropCounters tm.core q) m) m).writePool cf la).preemptsDone

/-! ### Restore (R165, R174, R178, R179) -/

/-- Whether a window entry names a team's allocation where it was saved. -/
def WinEnt.names (e : WinEnt) (tm : Team) : Bool :=
  !e.vm && e.core == tm.core && e.gen == tm.gen.toNat && decide (tm.base ≤ e.tbase) && decide (e.tbase < tm.base + tm.len)

/-- The window entries of a partition that name one of the saved allocations are rewritten, each once (R174). -/
def Mach.rewriteWindows (m : Mach) (pt : Part) (moves : List (Team × Seat)) : Mach :=
  (List.range 64).foldl (fun m i =>
    let at_ := pt.fwtab + 32 * i
    match m.physBytes pt at_ 32 with
    | none => m
    | some b =>
      match (winOf b).bind (fun e => (moves.find? (fun v => e.names v.1)).map (fun v => (e, v))) with
      | some (e, tm, st) =>
        m.putPhys pt at_ (bytesAt b 0 16 ++ leBytes 8 (e.tbase - tm.base + st.base) ++ leBytes 8 (st.core * 2 ^ 10 + e.gen * 2 ^ 32))
      | none => m) m

/-- A team takes its new place. -/
def Mach.restoreTeam (m : Mach) (tm : Team) (st : Seat) : Mach :=
  let m := m.updTeam tm.t (fun x => { x with core := st.core, base := st.base, regBase := st.regBase })
  { m with
    ops := m.ops.map (fun o => if o.t = tm.t then { o with feSince := o.feSince.map (fun s => m.cyc - s) } else o)
    pairs := m.pairs.map (fun p => if p.core = 768 + tm.t then { p with core := st.core } else p)
    fibres := m.fibres.map (fun f => if f.ref.t = tm.t then f.restored m.cyc else f)
    groups := m.groups.map (fun g => if g.t = tm.t then { g with slot := 16, ready := m.cyc, since := m.cyc } else g) }

/-- The groups of a team take their slots, and active slots while they last (R169). -/
def Mach.seatGroups (m : Mach) (t core : Nat) : Mach :=
  (m.groupsOf t).foldl (fun m g =>
    let q := quadOf g.g
    let slot := m.freeGroupSlot core q
    let act := !g.ended && decide (((m.quadGroups core q).filter Group.active).length < 8)
    m.updGroup t g.g (fun x => { x with slot := slot, active := act })) m

/-- Every armed send of some teams whose threshold was met meanwhile fires, in the order of arming (R93, R178). -/
def Mach.fireArms (cf : Conf) (m : Mach) (ts : List Nat) : Mach :=
  (m.ops.filter (fun o => ts.contains o.t && o.isArm && o.fin.isNone && !o.fired)).foldl (fun m o =>
    match opCtx m o, o.cmd with
    | some oc, .xarm _ cw thr => armFire cf m oc cw thr
    | _, _ => m) m

/-- The phases of a cluster's barriers of one die follow its teams from their old dies to their new ones (R174, R294); teams that come together share one phase. -/
def Mach.moveBars (m : Mach) (c : Nat) (olds : List (Nat × Nat)) : Mach :=
  match m.cluster? c with
  | none => m
  | some cl =>
    let dieOf (t : Nat) : Nat := ((m.team? t).map (fun tm => dieOfCore tm.core)).getD 0
    let bars := (List.range 4).map (fun d =>
      let mine := olds.filter (fun o => dieOf o.1 == d)
      (⟨(cl.barDie.flatMap CluBar.arrived).filter (fun g => mine.any (fun o => o.1 == g.1)),
        (mine.map (fun o => (cl.barDie.getD o.2 ⟨[], 0⟩).phase)).foldl max 0⟩ : CluBar))
    let fibres := m.fibres.map (fun f => match f.wait with
      | some ⟨i, .clubar false ph, since⟩ =>
        { f with wait := some ⟨i, .clubar false (if olds.any (fun o => o.1 == f.ref.t) then (bars.getD (dieOf f.ref.t) ⟨[], 0⟩).phase else ph), since⟩ }
      | _ => f)
    ({ m with fibres := fibres } : Mach).updCluster c (fun k => { k with barDie := bars })

/-- One cluster takes new cores. -/
def Mach.restoreCluster (m : Mach) (la : Launch) (rc : LRec) (c : Nat) (os : List Origin) (seats : List Seat) : Mach :=
  let cores := cluCores rc os
  let m := m.updCluster c (fun k => { k with cores := cores, pre := .running, preq := none })
  let m : Mach := { m with icache := m.icache.filter (fun i => !(i.p == la.p && (cores.map CluCore.core).contains i.core && !i.pin.contains la.l)) }
  let tms := m.teamsOf c
  let m := ((tms.zip seats).foldl (fun m s => m.restoreTeam s.1 s.2) m).moveBars c (tms.map (fun tm => (tm.t, dieOfCore tm.core)))
  (tms.zip seats).foldl (fun m s => m.seatGroups s.1.t s.2.core) m

/-- TEAM_RESTORE (R165, R174, R178, R179): the saved clusters of a persistent grid, or one saved cluster, take the cores `place` names; their
requests are granted again, held accesses are performed, armed sends fire, and then their groups may issue. -/
def teamRestore (cf : Conf) (m : Mach) (c : Nat) (place : List (List Origin)) : Mach :=
  match m.cluster? c with
  | none => m
  | some cl =>
    match m.launch? cl.l with
    | none => m
    | some la =>
      match la.rec_, cf.part? la.p with
      | some rc, some pt =>
        let cs := m.preSet cl.l c
        if cl.pre != .saved || m.yields cl || place.length != cs.length || !mayServe cf m pt ⟨0, la, rc, cs.length⟩ then m
        else
          match takeAll pt la.x rc m.seats place with
          | none => m
          | some seats =>
            let ts := (m.teams.filter (fun tm => cs.contains tm.c)).map Team.t
            let rs := m.teamReqs ts
            let m := m.rewriteWindows pt ((cs.zip seats).flatMap (fun s => (m.teamsOf s.1).zip s.2))
            let m := (cs.zip (place.zip seats)).foldl (fun m s => m.restoreCluster la rc s.1 s.2.1 s.2.2)
              { m with lastq := (la.p, la.q) :: m.lastq.filter (fun e => e.1 != la.p) }
            let m : Mach := { m with hreqs := m.hreqs.map (fun h => if rs.contains h.order then
                { h with held := false, die := match h.team with
                  | some t => ((m.team? t).map (fun tm => dieOfCore tm.core)).getD h.die
                  | none => h.die }
              else h) }
            cs.foldl Mach.clubarCheck ((m.unpark cf).fireArms cf ts)
      | _, _ => m

/-- PREEMPT (R174). -/
def execPreempt (q : Nat) (s : State) := onMach s (fun cf m => preemptCmd cf m q)
/-- NOTICE_EXPIRY (R175). -/
def execNoticeExpiry (clu : Nat) (s : State) := onMach s (fun _ m => noticeExpiry m clu)
/-- TEAM_SAVE (R178). -/
def execTeamSave (clu : Nat) (s : State) := onMach s (fun cf m => teamSave cf m clu)
/-- TEAM_RESTORE (R178). -/
def execTeamRestore (clu : Nat) (place : List (List Origin)) (s : State) := onMach s (fun cf m => teamRestore cf m clu place)

end Sys2Proof.Machine
end

