-- ==== Sys2Proof/Machine/Secure.lean ====
section
/-!
DEFINITION. Security and boot: memory-key slots (R30), alarms (R361, R367, R368), cold reset and measured boot (R369, R370), and the attestation
service of the management core (R371–R373).
-/
namespace Sys2Proof.Machine

/-! ### Key slots (R30) -/

/-- KEY_SLOT_LOAD (R30, R368, R370): a key is loaded into a slot and assigned to one partition; refused once keys are erased, after a failed boot,
and for a slot that another partition's configuration owns. -/
def keySlotLoad (cf : Conf) (m : Mach) (slot part : Nat) (key : Key) : Conf :=
  if m.dev.erased || m.dev.bootstg == 0xFF || cf.parts.any (fun x => x.p != part && nbit x.keys slot) then cf
  else { cf with keys := ⟨slot, part, key⟩ :: cf.keys.filter (fun k => k.slot != slot) }

/-! ### Alarms (R367, R368) -/

/-- A direction without its keys. -/
def Dir.erase (d : Dir) : Dir := { d with key0 := none, key1 := none, newPhase := false }

/-- Every link key and island key goes. -/
def Dev.dropKeys (d : Dev) : Dev := { d with islands := [], ports := d.ports.map (fun p => { p with out := p.out.erase, inn := p.inn.erase }) }

/-- ERASE (R368): nothing in flight lands, every link key and island key is gone, the device halts. -/
def Mach.erase (m : Mach) : Mach :=
  ({ m with
    bufs := []
    vows := []
    dev := { m.dev.dropKeys with erased := true } } : Mach).raise m.dev.amsix

/-- A detector fires (R367): under REPORT its bit latches, the management core is told and AMSIX is raised; under ERASE the keys go. -/
def alarm (cf : Conf) (m : Mach) (bits : BitVec 4) : Conf × Mach :=
  if bits = 0 || m.dev.erased then (cf, m)
  else if m.dev.alpol then ({ cf with keys := [] }, m.erase)
  else (cf, (({ m with dev := { m.dev with alarm := m.dev.alarm ||| bits }, net := m.net ++ [.alarmed bits] } : Mach).count 0 0x14 none 1).raise m.dev.amsix)

/-- ALARM_CLEAR (R361): W1C, ignored under ERASE. -/
def alarmClear (m : Mach) (bits : BitVec 4) : Mach :=
  if m.dev.alpol then m else { m with dev := { m.dev with alarm := m.dev.alarm &&& ~~~bits } }

/-! ### Boot (R369, R370) -/

/-- MEASk is extended with a digest (R369). -/
def Dev.extend (d : Dev) (k : Nat) (digest : List Byte) : Dev := { d with meas := modAt d.meas k (fun x => sha3 (x ++ digest)) }

/-- Step 1 of boot (R370): the boot ROM verifies the boot firmware and measures it. -/
def Dev.bootRom (d : Dev) (good : Bool) (boot : List Byte) : Dev :=
  if good then { d.extend 0 (sha3 boot) with bootstg := 1 } else { d with bootstg := 0xFF }

/-- The fuse configuration as it is measured: the fuses, and ALPOL after them (R369; log entry 111). -/
def Dev.fuseBytes (d : Dev) (fuses : List Byte) : List Byte := fuses ++ [if d.alpol then 1 else 0]

/-- Steps 2 and 3 (R370): the boot firmware verifies and measures the management firmware, measures the fuses and trains the links. Where its check fails, no key is
left. -/
def Dev.bootFirmware (d : Dev) (good : Bool) (links : BitVec 2) (firmware fuses : List Byte) : Dev :=
  if d.bootstg ≠ 1 then d
  else if good then { (d.extend 1 (sha3 firmware)).extend 2 (sha3 (d.fuseBytes fuses)) with bootstg := 2, linkup := links }
  else { d.dropKeys with bootstg := 0xFF }

/-- Step 4 (R370): the management firmware enables the queue registers. -/
def Dev.bootQueues (d : Dev) : Dev := if d.bootstg = 2 then { d with bootstg := 3 } else d

/-- The device registers after a boot in which check `failed` fails: 0 none, 1 the boot firmware's, 2 the management firmware's; with 3 the boot
stands after step 1 and with 4 after step 3, to go on as the agenda says (R370). -/
def Dev.boot (failed : Nat) (alpol : Bool) (links : BitVec 2) (boot firmware fuses : List Byte) : Dev :=
  let d := ({ Dev.reset with alpol := alpol, fuses := fuses } : Dev).bootRom (failed != 1) boot
  if failed = 3 then d
  else
    let d := d.bootFirmware (failed != 2) links firmware fuses
    if failed = 4 then d else d.bootQueues

/-- A boot that stands goes on with its next stage; where its check fails, every key slot is empty (R370). -/
def bootStep (s : State) (good : Bool) (links : BitVec 2) (firmware : List Byte) : State :=
  let d := if s.m.dev.bootstg = 1 then s.m.dev.bootFirmware good links firmware s.m.dev.fuses else s.m.dev.bootQueues
  { cfg := if s.m.dev.bootstg = 1 && !good then { s.cfg with keys := [] } else s.cfg, m := { s.m with dev := d } }

/-- COLD_RESET (R57, R370, R375): everything is as after reset but what memory stores; the boot runs; the dies' counters start at most 64 cycles
apart and the refresh phases anywhere (R7). -/
def coldReset (s : State) (failed : Nat) (alpol : Bool) (device : BitVec 13) (links : BitVec 2) (offs phases : List Nat)
    (boot firmware fuses : List Byte) : State :=
  { cfg := { device := device, parts := [], ctxs := [], keys := [] }
    m := { Mach.reset with
      dieOff := (List.range 4).map (fun d => offs.getD d 0 % 64)
      wsPhase := (List.range 4).map (fun d => phases.getD d 0 % 56000)
      agenda := s.m.agenda, free := s.m.free, fresh := s.m.fresh, mem := s.m.mem, tags := s.m.tags, net := s.m.net
      hist := s.m.hist.filter (fun d => match d.sp with
        | .scr _ => false
        | _ => true)
      poison := s.m.poison.filter (fun u => match u.1 with
        | .scr _ => false
        | _ => true)
      dev := Dev.boot failed alpol links boot firmware fuses } }

/-! ### The attestation service (R371–R373) -/

/-- The service's state on a channel: 0 and 1 are the mailboxes of the two functions, the others the ports' management channels (R359, R372). -/
def Mach.spdm (m : Mach) (ch : Nat) : Spdm := (m.dev.spdm.find? (fun s => s.ch == ch)).getD ⟨ch, false, false, false, false, false, []⟩

/-- It is changed. -/
def Mach.setSpdm (m : Mach) (ch : Nat) (f : Spdm → Spdm) : Mach :=
  { m with dev := { m.dev with spdm := f (m.spdm ch) :: m.dev.spdm.filter (fun s => s.ch != ch) } }

/-- A reply on a channel; request and content join its transcript. -/
def Mach.answer (m : Mach) (ch req code : Nat) (content : List Byte) : Mach :=
  ({ m with net := m.net ++ [.spdm ch (Config.spdmReply code content)] } : Mach).setSpdm ch (fun s => { s with script := s.script ++ leBytes 1 req ++ content })

/-- An SPDM error of some code. -/
def Mach.spdmError (m : Mach) (ch req err : Nat) : Mach := m.answer ch req 0x7F (leBytes 1 err)

/-- Requests that need the connection's algorithms to be agreed come after NEGOTIATE_ALGORITHMS, as SPDM 1.3 has it. -/
def Mach.agreed (m : Mach) (ch req : Nat) (go : Mach) : Mach := if (m.spdm ch).algs then go else m.spdmError ch req 4

/-- The algorithms that the device offers, in the extended algorithm fields (R372). -/
def algorithms : List Byte := ["SHA3-384", "ML-DSA-87", "ML-KEM-1024", "AES-256-GCM"].flatMap Config.extAlg

/-- GET_VERSION: a new connection. -/
def getVersion (m : Mach) (ch : Nat) : Mach := (m.setSpdm ch (fun _ => ⟨ch, true, false, false, false, false, []⟩)).answer ch 0x84 0x04 [0x13]

/-- GET_CAPABILITIES. -/
def getCapabilities (m : Mach) (ch : Nat) : Mach :=
  if (m.spdm ch).version then (m.setSpdm ch (fun s => { s with caps := true })).answer ch 0xE1 0x61 [] else m.spdmError ch 0xE1 4

/-- NEGOTIATE_ALGORITHMS: the four algorithms of R372. -/
def negotiateAlgorithms (m : Mach) (ch : Nat) : Mach :=
  if (m.spdm ch).caps then (m.setSpdm ch (fun s => { s with algs := true })).answer ch 0xE3 0x63 algorithms else m.spdmError ch 0xE3 4

/-- GET_DIGESTS: slot 0 alone holds a chain (R371). -/
def getDigests (m : Mach) (ch : Nat) : Mach := m.agreed ch 0x81 (m.answer ch 0x81 0x01 (leBytes 1 1 ++ sha3 Config.chain))

/-- GET_CERTIFICATE (R371). -/
def getCertificate (m : Mach) (ch slot : Nat) : Mach :=
  m.agreed ch 0x82 (if slot = 0 then m.answer ch 0x82 0x02 Config.chain else m.spdmError ch 0x82 1)

/-- CHALLENGE: the device signs the transcript with its identity key. -/
def challenge (m : Mach) (ch slot : Nat) : Mach :=
  m.agreed ch 0x83 (if slot = 0 then m.answer ch 0x83 0x03 (sha3 Config.chain ++ Config.sign (m.spdm ch).script) else m.spdmError ch 0x83 1)

/-- Every accepted extension whose command has completed is applied (R373). -/
def Dev.settle (d : Dev) : Dev := d.measPend.foldl (fun d e => d.extend e.1 e.2) { d with measPend := [] }

/-- The measurement blocks an index names: k + 1 for MEASk, 0xFF for all (R372); index 0 for their number, as SPDM 1.3 has it. -/
def measBlocks (meas : List (List Byte)) (index : Nat) : Option (List Byte) :=
  if index = 0 then some (leBytes 1 16)
  else if index = 0xFF then some meas.flatten
  else meas[index - 1]?

/-- GET_MEASUREMENTS (R372, R373). -/
def getMeasurements (m : Mach) (ch index : Nat) (signed : Bool) : Mach :=
  let m : Mach := { m with dev := m.dev.settle }
  m.agreed ch 0xE0 (match measBlocks m.dev.meas index with
    | some b => m.answer ch 0xE0 0x60 (if signed then b ++ Config.sign ((m.spdm ch).script ++ b) else b)
    | none => m.spdmError ch 0xE0 1)

/-- KEY_EXCHANGE. -/
def keyExchange (m : Mach) (ch slot : Nat) : Mach :=
  m.agreed ch 0xE4 (if slot = 0 then
    (m.setSpdm ch (fun s => { s with keyex := true })).answer ch 0xE4 0x64 (Config.kem (m.spdm ch).script ++ Config.sign (m.spdm ch).script)
  else m.spdmError ch 0xE4 1)

/-- FINISH: the session opens when its peer verifies (R374). -/
def finish (m : Mach) (ch : Nat) (verified : Bool) : Mach :=
  if (m.spdm ch).keyex then
    (if verified then (m.setSpdm ch (fun s => { s with keyex := false, session := true })).answer ch 0xE5 0x65 []
    else (m.setSpdm ch (fun s => { s with keyex := false })).spdmError ch 0xE5 6)
  else m.spdmError ch 0xE5 4

/-- END_SESSION. -/
def endSession (m : Mach) (ch : Nat) : Mach :=
  if (m.spdm ch).session then (m.setSpdm ch (fun s => { s with session := false })).answer ch 0xEC 0x6C [] else m.spdmError ch 0xEC 4

/-- MEAS-EXTEND (R372): inside a session, for MEAS8 to MEAS15 and a 48-byte digest. -/
def measExtend (m : Mach) (ch k : Nat) (digest : List Byte) : Mach :=
  if (m.spdm ch).session && decide (8 ≤ k) && decide (k ≤ 15) && digest.length == 48 then
    ({ m with dev := m.dev.extend k digest } : Mach).answer ch 0xFE 0x7E []
  else m.spdmError ch 0xFE 1

/-- Any other request: UnsupportedRequest (R372). -/
def unsupportedRequest (m : Mach) (ch code : Nat) : Mach := m.spdmError ch code 7

/-! ### The steps -/

/-- KEY_SLOT_LOAD (R30). -/
def execKeySlotLoad (slot part : Nat) (key : Key) (s : State) : Host.Outcome State Fault Refusal := .next { s with cfg := keySlotLoad s.cfg s.m slot part key }
/-- ALARM_DETECT (R367). -/
def execAlarmDetect (bits : BitVec 4) (s : State) : Host.Outcome State Fault Refusal := let r := alarm s.cfg s.m bits; .next ⟨r.1, r.2⟩
/-- ALARM_CLEAR (R361). -/
def execAlarmClear (bits : BitVec 4) (s : State) := onMach s (fun _ m => alarmClear m bits)
/-- COLD_RESET (R370). -/
def execColdReset (failed : Nat) (alpol : Bool) (device : BitVec 13) (links : BitVec 2) (offs phases : List Nat) (boot firmware fuses : List Byte)
    (s : State) : Host.Outcome State Fault Refusal := .next (coldReset s failed alpol device links offs phases boot firmware fuses)
/-- GET_VERSION (R372). -/
def execGetVersion (ch : Nat) (s : State) := onMach s (fun _ m => getVersion m ch)
/-- GET_CAPABILITIES (R372). -/
def execGetCapabilities (ch : Nat) (s : State) := onMach s (fun _ m => getCapabilities m ch)
/-- NEGOTIATE_ALGORITHMS (R372). -/
def execNegotiateAlgorithms (ch : Nat) (s : State) := onMach s (fun _ m => negotiateAlgorithms m ch)
/-- GET_DIGESTS (R372). -/
def execGetDigests (ch : Nat) (s : State) := onMach s (fun _ m => getDigests m ch)
/-- GET_CERTIFICATE (R371). -/
def execGetCertificate (ch : Nat) (slot : Nat) (s : State) := onMach s (fun _ m => getCertificate m ch slot)
/-- CHALLENGE (R372). -/
def execChallenge (ch : Nat) (slot : Nat) (s : State) := onMach s (fun _ m => challenge m ch slot)
/-- GET_MEASUREMENTS (R372). -/
def execGetMeasurements (ch : Nat) (index : Nat) (signed : Bool) (s : State) := onMach s (fun _ m => getMeasurements m ch index signed)
/-- KEY_EXCHANGE (R372). -/
def execKeyExchange (ch : Nat) (slot : Nat) (s : State) := onMach s (fun _ m => keyExchange m ch slot)
/-- FINISH (R372). -/
def execFinish (ch : Nat) (verified : Bool) (s : State) := onMach s (fun _ m => Machine.finish m ch verified)
/-- END_SESSION (R372). -/
def execEndSession (ch : Nat) (s : State) := onMach s (fun _ m => endSession m ch)
/-- MEAS_EXTEND (R372). -/
def execMeasExtend (ch : Nat) (k : Nat) (digest : List Byte) (s : State) := onMach s (fun _ m => measExtend m ch k digest)
/-- UNSUPPORTED_REQUEST (R372). -/
def execUnsupportedRequest (ch : Nat) (code : Nat) (s : State) := onMach s (fun _ m => unsupportedRequest m ch code)

end Sys2Proof.Machine
end

