-- ==== Sys2Proof/Machine/Monitor.lean ====
section
/-!
DEFINITION. Device monitors and registers: weight-store refresh (R57, R58), throttling (R382), scrubbing (R380), soft errors (R378, R379), PCI
Express links (R359) and reads and writes of BAR0 registers (R360, R361, R376).
-/
namespace Sys2Proof.Machine

/-! ### Refresh (R57, R58) -/

/-- REFRESH_END (R58): the fibres that wait for a bank of a die that no longer refreshes go on, and so do accesses in progress whose answers have come and accesses
of other devices that were held. -/
def refreshEnd (cf : Conf) (m : Mach) (die : Nat) : Mach :=
  let m := (m.fibres.filter (fun f => f.wait.any (fun w => match w.why with
    | .bank d b => d == die && m.refreshing d != some b
    | _ => false))).foldl (fun m f => m.endWait f.ref) m
  ((m.fabPend.map FabPend.xid).foldl (readsAnswered cf) m).unpark cf

/-! ### Throttling (R382) -/

/-- The throttle of a die. -/
def Mach.thrOf (m : Mach) (die : Nat) : Thr := m.dev.thr.getD die ⟨8, false, false, false, 0⟩
/-- Replacing it. -/
def Mach.setThr (m : Mach) (die : Nat) (t : Thr) : Mach := { m with dev := { m.dev with thr := modAt m.dev.thr die (fun _ => t) } }

/-- The throttle of a die with the check of this cycle made, where its counter stands at one (R382): time that passes makes the others. -/
def Mach.thrNow (m : Mach) (die : Nat) : Thr :=
  let t := m.thrOf die
  if m.dieCyc die < 4096 * t.next then t else t.check

/-- THROTTLE_CHECK: the die's check that is due (R382). -/
def throttleCheck (m : Mach) (die : Nat) : Mach := m.setThr die (m.thrNow die)

/-- THROTTLE_CONDITION: the cause bits change at once; a condition counts for the next check (R382). -/
def throttleCondition (m : Mach) (die : Nat) (thermal power : Bool) : Mach :=
  let t := m.thrOf die
  m.setThr die { t with thermal := thermal, power := power, seen := t.seen || thermal || power }

/-! ### Soft errors (R378, R379) -/

/-- An uncorrectable error is counted on its die and raises AMSIX. -/
def Mach.badError (m : Mach) (die : Nat) : Mach := (m.count die 0x12 none 1).raise m.dev.amsix

/-- The die of a team. -/
def Mach.teamDie (m : Mach) (t : Nat) : Nat := ((m.team? t).map (fun tm => dieOfCore tm.core)).getD 0

/-- SOFT_ERROR (R378): corrected, or it leaves a poisoned unit, an error that stops the launch that reads it, or, in a handle or window store,
the stop of the owning launch; in the key store, an alarm. -/
def softError (cf : Conf) (m : Mach) (e : SoftErr) : Conf × Mach :=
  match e with
  | .corrected d => (cf, m.count d 0x11 none 1)
  | .poisonPkg u => (cf, ({ m with poison := (.pkg, u) :: m.poison } : Mach).badError (dieOfFlat (16 * u)))
  | .poisonScr t u => (cf, ({ m with poison := (.scr t, u) :: m.poison } : Mach).badError (m.teamDie t))
  | .register t g r i => (cf, ({ m with regErr := regKey t g r i :: m.regErr } : Mach).badError (m.teamDie t))
  | .latch t g k i => (cf, ({ m with latErr := latKey t g k i :: m.latErr } : Mach).badError (m.teamDie t))
  | .accumulator t k i j => (cf, ({ m with accErr := accKey t k i j :: m.accErr } : Mach).badError (m.teamDie t))
  | .scale t off => (cf, ({ m with scaleErr := scaleKey t off :: m.scaleErr } : Mach).badError (m.teamDie t))
  | .owner t =>
    (cf, (match m.team? t with
      | some tm => m.updLaunch tm.l (fun la => { la with stop := some (la.stop.getD ⟨0, 0, tm.core, ((m.cluster? tm.c).map Cluster.num).getD 0⟩) })
      | none => m).badError (m.teamDie t))
  | .keyStore => alarm cf (m.badError 0) 8

/-! ### Registers (R359–R361, R376) -/

/-- An event counter (R376). -/
def Mach.ctrOf (m : Mach) (n : Nat) : Ctr := (m.dev.ctrs.find? (fun c => c.n == n)).getD ⟨n, 0, 0, false, false, false, 0⟩

/-- A write of an event counter's word (R376). -/
def Mach.ctrWrite (m : Mach) (n : Nat) (word : Bool) (v : Nat) : Mach :=
  let c := m.ctrOf n
  let c := if word then { c with count := v }
    else { c with src := nbits v 7 0, part := nbits v 11 8, pen := nbit v 12, en := nbit v 13, ovf := c.ovf && !nbit v 14 }
  { m with dev := { m.dev with ctrs := c :: m.dev.ctrs.filter (fun x => x.n != n) } }

/-- A write of 8 bytes of the MSI-X table; an entry it unmasks is raised when it was pending, as PCI Express has it. -/
def Mach.msixWrite (m : Mach) (off v : Nat) : Mach :=
  let bs := (leBytes 8 v).zip (List.range 8)
  let tab := bs.foldl (fun t b => smSet 0 t (off + b.2) (b.1 ^^^ (if (off + b.2) % 16 = 12 then 1 else 0))) m.dev.msixTab
  let m : Mach := { m with dev := { m.dev with msixTab := tab } }
  let k := off / 16
  let byte := smGet 0 m.dev.msixPend (k / 8)
  if byte.getLsbD (k % 8) && !(m.dev.msixByte (16 * k + 12)).getLsbD 0 then
    ({ m with dev := { m.dev with msixPend := smSet 0 m.dev.msixPend (k / 8) (byte &&& ~~~(BitVec.ofNat 8 (2 ^ (k % 8)))) } } : Mach).raise k
  else m

/-- Whether this device still has a block of BAR0 beside the device registers: not once it is halted (R368) nor after a failed boot (R370). -/
def Mach.barOpen (m : Mach) : Bool := !m.dev.erased && m.dev.bootstg != 0xFF

/-- REGISTER_WRITE (R360, R361): a write of a 64-bit word of BAR0; what no block holds ignores it, and so does a halted device. -/
def registerWrite (m : Mach) (off v : Nat) : Mach :=
  if m.dev.erased || off % 8 != 0 then m
  else if off = 0 then alarmClear m (BitVec.ofNat 4 v)
  else if off = 0x10 then (if 1500 ≤ nbits v 11 0 ∧ nbits v 11 0 ≤ 3000 then { m with dev := { m.dev with plim := nbits v 11 0 } } else m)
  else if off = 0x18 then { m with dev := { m.dev with amsix := nbits v 10 0 } }
  else if !m.barOpen then m
  else if 0x1000 ≤ off ∧ off < 0x1400 then m.ctrWrite ((off - 0x1000) / 16) (decide (off % 16 = 8)) v
  else if 0x10000 ≤ off ∧ off < 0x20000 then m.queueWrite ((off - 0x10000) / 64) (off % 64) v
  else if 0x20000 ≤ off ∧ off < 0x28000 then m.msixWrite (off - 0x20000) v
  else m

/-- The device register word at 0x00 (R361). -/
def Dev.status (d : Dev) : Nat :=
  d.alarm.toNat + (if d.erased then 2 ^ 4 else 0) + (if d.alpol then 2 ^ 5 else 0) + d.bootstg * 2 ^ 8 + d.linkup.toNat * 2 ^ 16 + d.keyhold.toNat * 2 ^ 20
    + d.plock.toNat * 2 ^ 24

/-- A die's byte of THROTTLE: duty, thermal cause, power cause (R361, R382). -/
def Thr.byte (t : Thr) : Nat := t.duty + (if t.thermal then 2 ^ 4 else 0) + (if t.power then 2 ^ 5 else 0)

/-- THROTTLE; it reads as its reset value until boot has begun (R361, R370; log entry 97). -/
def Mach.throttle (m : Mach) : Nat :=
  if m.dev.bootstg = 0 then 0 else ((List.range 4).map (fun d => (m.thrNow d).byte * 2 ^ (8 * d))).sum

/-- An event counter's words (R376). -/
def Ctr.word (c : Ctr) (count : Bool) : Nat :=
  if count then c.count
  else c.src + c.part * 2 ^ 8 + (if c.pen then 2 ^ 12 else 0) + (if c.en then 2 ^ 13 else 0) + (if c.ovf then 2 ^ 14 else 0)

/-- A host read of a 64-bit word of BAR0 (R4, R360): what no block holds reads zero, and so does all but the device registers once the device is
halted or its boot has failed (R368, R370). -/
def barRead (m : Mach) (off : Nat) : Nat :=
  if off % 8 ≠ 0 then 0
  else if off = 0 then m.dev.status
  else if off = 0x08 then m.throttle
  else if off = 0x10 then m.dev.plim
  else if off = 0x18 then m.dev.amsix
  else if !m.barOpen then 0
  else if 0x100 ≤ off ∧ off < 0x120 then m.dieCyc ((off - 0x100) / 8) % 2 ^ 64
  else if 0x1000 ≤ off ∧ off < 0x1400 then (m.ctrOf ((off - 0x1000) / 16)).word (decide (off % 16 = 8))
  else if 0x10000 ≤ off ∧ off < 0x20000 then m.queueRead ((off - 0x10000) / 64) (off % 64)
  else if 0x20000 ≤ off ∧ off < 0x28000 then leNat ((List.range 8).map (fun i => m.dev.msixByte (off - 0x20000 + i)))
  else if 0x28000 ≤ off ∧ off < 0x28100 then leNat ((List.range 8).map (fun i => smGet 0 m.dev.msixPend (off - 0x28000 + i)))
  else 0

/-- A host read is answered (R360). -/
def hostRead (m : Mach) (off : Nat) : Mach := { m with net := m.net ++ [.hostRead off (barRead m off)] }

/-- The link by which a die's accesses to host memory leave: its own, or the other where that one is down (R359). -/
def Mach.linkOf (m : Mach) (die : Nat) : Nat :=
  if m.dev.linkup.getLsbD (die % 2) || !m.dev.linkup.getLsbD (1 - die % 2) then die % 2 else 1 - die % 2

/-! ### The steps -/

/-- REFRESH_START (R57): the bank whose window the die's phase has entered refreshes from now on; the phase itself says so (WSPHASE, R59). -/
def execRefreshStart (_die : Nat) (s : State) := onMach s (fun _ m => m)
/-- REFRESH_END (R58). -/
def execRefreshEnd (die : Nat) (s : State) := onMach s (fun cf m => refreshEnd cf m die)
/-- THROTTLE_CHECK (R382). -/
def execThrottleCheck (die : Nat) (s : State) := onMach s (fun _ m => throttleCheck m die)
/-- THROTTLE_CONDITION (R382). -/
def execThrottleCondition (die : Nat) (thermal power : Bool) (s : State) := onMach s (fun _ m => throttleCondition m die thermal power)
/-- SCRUB (R380): neither a value nor an ordering changes. -/
def execScrub (_unit : Nat) (s : State) := onMach s (fun _ m => m)
/-- SOFT_ERROR (R378). -/
def execSoftError (e : SoftErr) (s : State) : Host.Outcome State Fault Refusal := let r := softError s.cfg s.m e; .next ⟨r.1, r.2⟩
/-- PCIE_LINK_CHANGE (R359): LINKUP shows it; accesses of both kinds of die go by the link that is up. -/
def execPcieLinkChange (link : Nat) (up : Bool) (s : State) :=
  onMach s (fun _ m => { m with dev := { m.dev with
    linkup := if up then m.dev.linkup ||| BitVec.ofNat 2 (2 ^ link) else m.dev.linkup &&& ~~~(BitVec.ofNat 2 (2 ^ link)) } })
/-- REGISTER_WRITE (R360). -/
def execRegisterWrite (off : Nat) (v : DWord) (s : State) := onMach s (fun _ m => registerWrite m off v.toNat)

end Sys2Proof.Machine
end

