-- ==== Sys2Proof/Machine/Scalar.lean ====
section
/-!
DEFINITION. Scalar instructions of the U-set (R279): the function of one lane that the V-set counterpart has, of the leader lane's operands, to
every lane of P.
-/
namespace Sys2Proof.Machine

/-! ### One result to every lane -/

/-- An instruction of two source fields. -/
def ubin (d : Dst) (a b : Src) (f : Word → Word → Word) (_ : Conf) (m : Mach) (c : Ctx) : Res :=
  laneWord m c d (fun _ => f (m.srcL c a) (m.srcL c b))
/-- An accumulating instruction of two source fields (R236, R279). -/
def utri (d : Dst) (a b : Src) (f : Word → Word → Word → Word) (_ : Conf) (m : Mach) (c : Ctx) : Res :=
  laneWord m c d (fun _ => f (m.srcL c a) (m.srcL c b) (m.addend c d c.leader))
/-- An instruction of one source field. -/
def uuna (d : Dst) (a : Src) (f : Word → Word) (_ : Conf) (m : Mach) (c : Ctx) : Res := laneWord m c d (fun _ => f (m.srcL c a))
/-- A comparison into a condition register (R279). -/
def ucmpr (d : Dst) (a b : Src) (f : Word → Word → Bool) (_ : Conf) (m : Mach) (c : Ctx) : Res :=
  laneCond m c d (fun _ => f (m.srcL c a) (m.srcL c b))

/-! ### The instructions -/
/-- UADD, as IADD (R279). -/
def execUadd (md : Sat) (d : Dst) (a b : Src) (s : State) :=
  issue s (.uadd md d a b) (ubin d a b (opAdd md))
/-- USUB, as ISUB (R279). -/
def execUsub (md : Sat) (d : Dst) (a b : Src) (s : State) :=
  issue s (.usub md d a b) (ubin d a b (opSub md))
/-- UMUL, as IMUL (R279). -/
def execUmul (md : Sat) (d : Dst) (a b : Src) (s : State) :=
  issue s (.umul md d a b) (ubin d a b (opMul md))
/-- UMULH, as IMULH (R279). -/
def execUmulh (md : Sgn) (d : Dst) (a b : Src) (s : State) :=
  issue s (.umulh md d a b) (ubin d a b (opMulh md))
/-- UMAD, as IMAD (R279). -/
def execUmad (md : Sat) (d : Dst) (a b : Src) (s : State) :=
  issue s (.umad md d a b) (utri d a b (opMad md))
/-- UMIN, as IMIN (R279). -/
def execUmin (md : Sgn) (d : Dst) (a b : Src) (s : State) :=
  issue s (.umin md d a b) (ubin d a b (opMin md))
/-- UMAX, as IMAX (R279). -/
def execUmax (md : Sgn) (d : Dst) (a b : Src) (s : State) :=
  issue s (.umax md d a b) (ubin d a b (opMax md))
/-- UAND, as AND (R279). -/
def execUand (d : Dst) (a b : Src) (s : State) :=
  issue s (.uand d a b) (ubin d a b (fun x y => x &&& y))
/-- UOR, as OR (R279). -/
def execUor (d : Dst) (a b : Src) (s : State) :=
  issue s (.uor d a b) (ubin d a b (fun x y => x ||| y))
/-- UXOR, as XOR (R279). -/
def execUxor (d : Dst) (a b : Src) (s : State) :=
  issue s (.uxor d a b) (ubin d a b (fun x y => x ^^^ y))
/-- USHL, as SHL (R279). -/
def execUshl (d : Dst) (a b : Src) (s : State) :=
  issue s (.ushl d a b) (ubin d a b (fun x y => opShift .shl x y.toNat))
/-- USHR, as SHR (R279). -/
def execUshr (d : Dst) (a b : Src) (s : State) :=
  issue s (.ushr d a b) (ubin d a b (fun x y => opShift .shr x y.toNat))
/-- USAR, as SAR (R279). -/
def execUsar (d : Dst) (a b : Src) (s : State) :=
  issue s (.usar d a b) (ubin d a b (fun x y => opShift .sar x y.toNat))
/-- UPOPC, as POPC (R279). -/
def execUpopc (d : Dst) (a : Src) (s : State) :=
  issue s (.upopc d a) (uuna d a opPopc)
/-- UCLZ, as CLZ (R279). -/
def execUclz (d : Dst) (a : Src) (s : State) :=
  issue s (.uclz d a) (uuna d a opClz)
/-- UCMP, as ICMP (R279). -/
def execUcmp (op : CmpS) (k : Dst) (a b : Src) (s : State) :=
  issue s (.ucmp op k a b) (ucmpr k a b (opCmp op))
/-- UCMPU, as ICMPU (R279). -/
def execUcmpu (op : CmpU) (k : Dst) (a b : Src) (s : State) :=
  issue s (.ucmpu op k a b) (ucmpr k a b (opCmpu op))
/-- USEL, as SEL by the leader's condition bit (R279). -/
def execUsel (k : Nat) (d : Dst) (a b : Src) (s : State) :=
  issue s (.usel k d a b) (fun cf m c =>
    ubin d a b (fun x y => if c.cond k c.leader then x else y) cf m c)
/-- UADDI, as ADDI (R279). -/
def execUaddi (d : Dst) (a : Src) (k : Int) (s : State) :=
  issue s (.uaddi d a k) (uuna d a (fun x => x + immWord k))
/-- UANDI, as ANDI (R279). -/
def execUandi (d : Dst) (a : Src) (k : Int) (s : State) :=
  issue s (.uandi d a k) (uuna d a (fun x => x &&& immWord k))
/-- UORI, as ORI (R279). -/
def execUori (d : Dst) (a : Src) (k : Int) (s : State) :=
  issue s (.uori d a k) (uuna d a (fun x => x ||| immWord k))
/-- USHIFTI, as SHIFTI (R279). -/
def execUshifti (op : ShiftOp) (d : Dst) (a : Src) (n : Nat) (s : State) :=
  issue s (.ushifti op d a n) (uuna d a (fun x => opShift op x n))
/-- UMOV, UMOV.fromc, UMOV.toc, as MOV (R279). -/
def execUmov (sl : MovSel) (d : Dst) (a : Src) (s : State) :=
  issue s (.umov sl d a) (fun _ m c => match sl with
    | .mov => laneWord m c d (fun _ => m.srcL c a)
    | .fromc => laneWord m c d (fun _ => bitWord (c.cond (condCode a) c.leader))
    | .toc => laneCond m c d (fun _ => m.srcL c a != 0))
/-- UADD64, as IADD64 (R279). -/
def execUadd64 (d : Dst) (a b : Nat) (s : State) :=
  issue s (.uadd64 d a b) (fun _ m c => lanePair m c d (fun _ => m.v64 c a c.leader + m.v64 c b c.leader))
/-- ULIMM (R218). -/
def execUlimm (d : Dst) (lit : Word) (s : State) := issue s (.ulimm d lit) (fun _ m c => laneWord m c d (fun _ => lit))

end Sys2Proof.Machine
end

