-- ==== Sys2Proof/Machine/Schedule.lean ====
section
/-!
DEFINITION. Scheduling (R166–R169): which tenant, group and fibre a quadrant port takes, the active and pending sets, and asynchronous traps at
run boundaries (R46, R172).
-/
namespace Sys2Proof.Machine

/-- Whether a group stands at a run boundary: a fibre of it is to begin a run, or none is in a run (R172). -/
def Mach.atBoundary (m : Mach) (t g : Nat) : Bool :=
  let fs := (m.fibresOf t g).filter (fun f => !f.susp)
  fs.any (fun f => !f.run && f.wait.isNone) || fs.all (fun f => !f.run)

/-- The groups of a stopped launch that stand at a run boundary end (R172). -/
def Mach.endStopped (m : Mach) (cf : Conf) (core quad : Nat) : Mach :=
  (m.quadGroups core quad).foldl (fun m g =>
    let stopped := ((m.team? g.t).bind (fun tm => m.launch? tm.l)).any (fun la => la.stop.isSome)
    if stopped && m.atBoundary g.t g.g then m.endGroup cf g.t g.g else m) m

/-! ### The choice of a port (R166, R167) -/

/-- The ready groups of the active set of a port. -/
def Mach.readyGroups (m : Mach) (core quad : Nat) : List Group :=
  (m.quadGroups core quad).filter (fun g => g.active && decide (g.since ≤ m.cyc) && !(m.readyFibres g.t g.g).isEmpty)

/-- The tenants resident at a port. -/
def Mach.residents (m : Mach) (core quad : Nat) : List Nat := ((m.quadGroups core quad).map (fun g => m.teamCtx g.t)).eraseDups

/-- The weight of a context (R162). -/
def weightOf (cf : Conf) (p x : Nat) : Nat := max 1 (((cf.ctx? p x).map CtxRec.weight).getD 1)

/-- The rounds of refill until some ready tenant's counter is above zero. -/
def refills (po : Port) (w : Nat → Nat) (e : List Nat) : Nat :=
  (e.map (fun x => if 0 < po.deficit x then 0 else (-(po.deficit x)).toNat / w x + 1)).foldl (fun a b => min a b) (2 ^ 64)

/-- The counters after those rounds (R166). -/
def refill (po : Port) (w : Nat → Nat) (e res : List Nat) : Port :=
  let k := refills po w e
  if k = 0 then po
  else
    let po := e.foldl (fun po x => po.setDeficit x (po.deficit x + (k * w x : Nat))) po
    (res.filter (fun x => !e.contains x)).foldl (fun po x => po.setDeficit x (min (po.deficit x) 0)) po

/-- The tenant chosen after LAST (R166). -/
def chooseTenant (po : Port) (e : List Nat) : Option Nat :=
  ((List.range 4).map (fun i => (po.last + 1 + i) % 4)).find? (fun x => e.contains x && decide (0 < po.deficit x))

/-- The rank of a role: MATRIX, COPY, MIXED, VECTOR (R167). -/
def roleRank (role : Nat) : Nat := [2, 1, 0, 3].getD role 3

/-- Whether group a comes before group b (R167). -/
def groupBefore (cyc : Nat) (a b : Group) : Bool :=
  let old (g : Group) := decide (256 ≤ cyc - g.ready)
  if old a || old b then old a && (!old b || decide (a.ready < b.ready) || (a.ready == b.ready && decide (a.slot ≤ b.slot)))
  else
    decide (roleRank a.role < roleRank b.role) ||
      (roleRank a.role == roleRank b.role && (decide (a.ready < b.ready) || (a.ready == b.ready && decide (a.slot ≤ b.slot))))

/-- The first group of a list (R167). -/
def firstGroup (cyc : Nat) (gs : List Group) : Option Group :=
  gs.foldl (fun b g => match b with
    | none => some g
    | some x => if groupBefore cyc x g then some x else some g) none

/-! ### Asynchronous traps (R46, R172) -/

/-- The lowest-coded pending trap. -/
def lowestTrap (l : List PendTrap) : Option PendTrap :=
  l.foldl (fun b t => match b with
    | none => some t
    | some x => if x.cause ≤ t.cause then some x else some t) none

/-- The lowest-coded pending trap is taken by a fibre; a fibre waiting in LDFE or LDFET takes it as restartable (R46). -/
def Mach.takeAsync (m : Mach) (cf : Conf) (c : Ctx) : Mach :=
  match lowestTrap c.g.pend with
  | none => m
  | some t =>
    let m := m.updGroup c.f.ref.t c.f.ref.g (fun g => { g with pend := g.pend.erase t })
    m.takeTrap cf c ⟨t.cause, t.sub, t.addr, t.fail.getD c.f.pred, true, t.restart || c.f.wait.any (fun w => w.why == .granule)⟩

/-- ASYNC_TRAP: a fibre at a run boundary, or one that waits in LDFE or LDFET, takes the group's lowest-coded pending trap, but not while an
instruction of the group waits on translation (R21). -/
def asyncTrap (cf : Conf) (m : Mach) (r : FRef) : Mach :=
  match ctxOf m r with
  | none => m
  | some c =>
    let waits := c.f.wait.any (fun w => w.why == .granule)
    let boundary := c.f.wait.isNone && !c.f.run
    if !c.g.handler && !c.f.susp && !c.g.ended && c.cl.pre != .saved && !m.onWalk r.t r.g && !m.groupHeld r.t r.g && (waits || boundary) then m.takeAsync cf c else m

/-! ### Taking a run -/

/-- A fibre begins or resumes a run at its port, a new one with every latch zero (R222); at a run boundary a pending trap is taken first
(R172), but not while an instruction of the group waits on translation (R21). -/
def Mach.startRun (m : Mach) (cf : Conf) (core quad : Nat) (r : FRef) : Mach :=
  let m := match ctxOf m r with
    | some c => if !c.f.run && !c.g.handler && !m.onWalk r.t r.g && !m.groupHeld r.t r.g then m.takeAsync cf c else m
    | none => m
  match m.fibre? r with
  | none => m
  | some f =>
    let m := if f.run then m else (m.clearLatches r f.pred).updFibre r (fun f => { f with run := true, pos := 0, trl := none })
    m.setPort { (m.port core quad) with run := some ⟨r, 0⟩ }

/-- PORT_SCHEDULE (R166, R167): a free port chooses a tenant, a group and one of its ready fibres; with none ready it issues nothing this
cycle. -/
def portSchedule (cf : Conf) (m : Mach) (core quad pick : Nat) : Mach :=
  let m := m.endStopped cf core quad
  let po := m.port core quad
  if po.run.isSome then m
  else
    let gs := m.readyGroups core quad
    let e := (gs.map (fun g => m.teamCtx g.t)).eraseDups
    let p := ((gs.head?).bind (fun g => (m.team? g.t).bind (fun tm => m.launch? tm.l))).map Launch.p
    match p with
    | none => m.tick 1
    | some p =>
      let res := m.residents core quad
      let po := { po with dc := po.dc.filter (fun d => res.contains d.1) }
      let po := refill po (weightOf cf p) e res
      match chooseTenant po e with
      | none => m.tick 1
      | some x =>
        let m := m.setPort { po with last := x }
        match firstGroup m.cyc (gs.filter (fun g => m.teamCtx g.t == x)) with
        | none => m
        | some g =>
          let fs := m.readyFibres g.t g.g
          match fs[pick % fs.length]? with
          | none => m
          | some f => m.startRun cf core quad f.ref

/-- The fibre whose run a port holds is the last of its group to be picked again (R156). -/
def Mach.pickedLast (m : Mach) (core quad : Nat) : Mach :=
  match (m.port core quad).run with
  | none => m
  | some pr => { m with fibres := m.fibres.filter (fun f => f.ref != pr.ref) ++ m.fibres.filter (fun f => f.ref == pr.ref) }

/-- The ready pending group of a quadrant that has waited longest (R169). -/
def Mach.oldestPending (m : Mach) (gs : List Group) : Option Group :=
  (gs.filter (fun g => !g.active && !(m.readyFibres g.t g.g).isEmpty)).foldl (fun b g => match b with
    | none => some g
    | some x => if x.ready < g.ready || (x.ready == g.ready && decide (x.slot ≤ g.slot)) then some x else some g) (none : Option Group)

/-- How long a ready pending group may wait for a slot before an active one gives its slot up. -/
def slotWait : Nat := 65536

/-- The active group that gives its slot up: of those that do not hold the port, the one that has been active longest. -/
def Mach.givesSlot (m : Mach) (core quad : Nat) (gs : List Group) : Option Group :=
  (gs.filter (fun g => g.active && !(m.port core quad).run.any (fun pr => pr.ref.t == g.t && pr.ref.g == g.g))).foldl (fun b g => match b with
    | none => some g
    | some x => if x.since ≤ g.since then some x else some g) (none : Option Group)

/-- A pending group takes an active slot and issues no earlier than two cycles after (R169). -/
def Mach.toActive (m : Mach) (g : Group) : Mach := m.updGroup g.t g.g (fun g => { g with active := true, since := m.cyc + 2 })

/-- GROUP_ACTIVATE (R169): the oldest ready pending group takes a free active slot. R169 lets an active group keep its slot for as long as it does not wait, and R156 has
every ready group issue: so one that has waited `slotWait` cycles takes the slot of an active group (a choice of the model: log entry 109). -/
def groupActivate (cf : Conf) (m : Mach) (core quad : Nat) : Mach :=
  let m := m.endStopped cf core quad
  let gs := m.quadGroups core quad
  if gs.length ≤ 8 then
    gs.foldl (fun m g => if g.active then m else m.updGroup g.t g.g (fun g => { g with active := true })) m
  else
    match m.oldestPending gs with
    | none => m
    | some g =>
      if (gs.filter Group.active).length < 8 then m.toActive g
      else if m.cyc < g.ready + slotWait then m
      else match m.givesSlot core quad gs with
        | some x => ((m.updGroup x.t x.g (fun x => { x with ready := m.cyc })).toPending x.t x.g).toActive g
        | none => m

/-- PORT_SCHEDULE (R166). -/
def execPortSchedule (core quad pick : Nat) (s : State) := onMach s (fun cf m => portSchedule cf m core quad pick)
/-- GROUP_ACTIVATE (R169). -/
def execGroupActivate (core quad : Nat) (s : State) := onMach s (fun cf m => groupActivate cf m core quad)
/-- ASYNC_TRAP (R46, R172). -/
def execAsyncTrap (w : FRef) (s : State) := onMach s (fun cf m => asyncTrap cf m w)

end Sys2Proof.Machine
end

