-- ==== Sys2Proof/Machine/Dispatch.lean ====
section
/-!
DEFINITION. One arm per row of spec/opcode_table.json: each constructor's meaning.
-/
namespace Sys2Proof.Machine

/-- The meaning of an instruction or of a step of the machine. -/
def exec (i : Instr) (s : State) : Host.Outcome State Fault Refusal :=
  match i with
  | .iadd m d a b => Sys2Proof.Machine.execIadd m d a b s
  | .isub m d a b => Sys2Proof.Machine.execIsub m d a b s
  | .imul m d a b => Sys2Proof.Machine.execImul m d a b s
  | .imulh m d a b => Sys2Proof.Machine.execImulh m d a b s
  | .imad m d a b => Sys2Proof.Machine.execImad m d a b s
  | .imin m d a b => Sys2Proof.Machine.execImin m d a b s
  | .imax m d a b => Sys2Proof.Machine.execImax m d a b s
  | .isad m d a b => Sys2Proof.Machine.execIsad m d a b s
  | .and d a b => Sys2Proof.Machine.execAnd d a b s
  | .or d a b => Sys2Proof.Machine.execOr d a b s
  | .xor d a b => Sys2Proof.Machine.execXor d a b s
  | .andn d a b => Sys2Proof.Machine.execAndn d a b s
  | .shl d a b => Sys2Proof.Machine.execShl d a b s
  | .shr d a b => Sys2Proof.Machine.execShr d a b s
  | .sar d a b => Sys2Proof.Machine.execSar d a b s
  | .rol d a b => Sys2Proof.Machine.execRol d a b s
  | .popc d a => Sys2Proof.Machine.execPopc d a s
  | .clz d a => Sys2Proof.Machine.execClz d a s
  | .brev d a => Sys2Proof.Machine.execBrev d a s
  | .bfx m d a b => Sys2Proof.Machine.execBfx m d a b s
  | .bfi d a b => Sys2Proof.Machine.execBfi d a b s
  | .icmp op c a b => Sys2Proof.Machine.execIcmp op c a b s
  | .icmpu op c a b => Sys2Proof.Machine.execIcmpu op c a b s
  | .sel c d a b => Sys2Proof.Machine.execSel c d a b s
  | .iaddi d a k => Sys2Proof.Machine.execIaddi d a k s
  | .andi d a k => Sys2Proof.Machine.execAndi d a k s
  | .ori d a k => Sys2Proof.Machine.execOri d a k s
  | .xori d a k => Sys2Proof.Machine.execXori d a k s
  | .shifti op d a n => Sys2Proof.Machine.execShifti op d a n s
  | .mov sel d a => Sys2Proof.Machine.execMov sel d a s
  | .iadd64 d a b => Sys2Proof.Machine.execIadd64 d a b s
  | .fadd ty d a b => Sys2Proof.Machine.execFadd ty d a b s
  | .fsub ty d a b => Sys2Proof.Machine.execFsub ty d a b s
  | .fmul ty d a b => Sys2Proof.Machine.execFmul ty d a b s
  | .ffma ty d a b => Sys2Proof.Machine.execFfma ty d a b s
  | .ffms ty d a b => Sys2Proof.Machine.execFfms ty d a b s
  | .fnma ty d a b => Sys2Proof.Machine.execFnma ty d a b s
  | .fmin ty d a b => Sys2Proof.Machine.execFmin ty d a b s
  | .fmax ty d a b => Sys2Proof.Machine.execFmax ty d a b s
  | .fcmp op c a b => Sys2Proof.Machine.execFcmp op c a b s
  | .fsign op d a b => Sys2Proof.Machine.execFsign op d a b s
  | .cvt rm d a code => Sys2Proof.Machine.execCvt rm d a code s
  | .cvts rm d a code => Sys2Proof.Machine.execCvts rm d a code s
  | .frnd rm d a => Sys2Proof.Machine.execFrnd rm d a s
  | .rcp d a => Sys2Proof.Machine.execRcp d a s
  | .rsq d a => Sys2Proof.Machine.execRsq d a s
  | .sqrt d a => Sys2Proof.Machine.execSqrt d a s
  | .ex2 d a => Sys2Proof.Machine.execEx2 d a s
  | .lg2 d a => Sys2Proof.Machine.execLg2 d a s
  | .sin d a => Sys2Proof.Machine.execSin d a s
  | .cos d a => Sys2Proof.Machine.execCos d a s
  | .tanh d a => Sys2Proof.Machine.execTanh d a s
  | .fscale d a b => Sys2Proof.Machine.execFscale d a b s
  | .fxtr sel d a => Sys2Proof.Machine.execFxtr sel d a s
  | .pack sel d a b => Sys2Proof.Machine.execPack sel d a b s
  | .unpk sel d a h => Sys2Proof.Machine.execUnpk sel d a h s
  | .cbq d a nib => Sys2Proof.Machine.execCbq d a nib s
  | .cbx d a nib => Sys2Proof.Machine.execCbx d a nib s
  | .dot2 ty d a b => Sys2Proof.Machine.execDot2 ty d a b s
  | .shfl mode d a b => Sys2Proof.Machine.execShfl mode d a b s
  | .vote op d c => Sys2Proof.Machine.execVote op d c s
  | .sredi op d a => Sys2Proof.Machine.execSredi op d a s
  | .sredf op d a => Sys2Proof.Machine.execSredf op d a s
  | .sscan ty excl d a => Sys2Proof.Machine.execSscan ty excl d a s
  | .prmt d a b => Sys2Proof.Machine.execPrmt d a b s
  | .matchS sel d a => Sys2Proof.Machine.execMatchS sel d a s
  | .firstl d c => Sys2Proof.Machine.execFirstl d c s
  | .tment md d a => Sys2Proof.Machine.execTment md d a s
  | .tmacc md d a => Sys2Proof.Machine.execTmacc md d a s
  | .tmmrg d a b => Sys2Proof.Machine.execTmmrg d a b s
  | .tmsred d a => Sys2Proof.Machine.execTmsred d a s
  | .tmexit d a => Sys2Proof.Machine.execTmexit d a s
  | .ld sz sc d a off => Sys2Proof.Machine.execLd sz sc d a off s
  | .st sz sc d a off => Sys2Proof.Machine.execSt sz sc d a off s
  | .lds sz sc d a off => Sys2Proof.Machine.execLds sz sc d a off s
  | .sts sz sc d a off => Sys2Proof.Machine.execSts sz sc d a off s
  | .ldfe sz sc d a off => Sys2Proof.Machine.execLdfe sz sc d a off s
  | .ldfet sz sc d a off => Sys2Proof.Machine.execLdfet sz sc d a off s
  | .stfe sz sc d a off => Sys2Proof.Machine.execStfe sz sc d a off s
  | .atom op sc dbl d a => Sys2Proof.Machine.execAtom op sc dbl d a s
  | .atoms op sc dbl d a => Sys2Proof.Machine.execAtoms op sc dbl d a s
  | .pref xlate a off => Sys2Proof.Machine.execPref xlate a off s
  | .br c sense off => Sys2Proof.Machine.execBr c sense off s
  | .brx a tag => Sys2Proof.Machine.execBrx a tag s
  | .callx d a tag => Sys2Proof.Machine.execCallx d a tag s
  | .retx a => Sys2Proof.Machine.execRetx a s
  | .join j => Sys2Proof.Machine.execJoin j s
  | .lpad tag => Sys2Proof.Machine.execLpad tag s
  | .fork c a b => Sys2Proof.Machine.execFork c a b s
  | .fend => Sys2Proof.Machine.execFend s
  | .jmset op j a => Sys2Proof.Machine.execJmset op j a s
  | .limm d lit => Sys2Proof.Machine.execLimm d lit s
  | .uadd m d a b => Sys2Proof.Machine.execUadd m d a b s
  | .usub m d a b => Sys2Proof.Machine.execUsub m d a b s
  | .umul m d a b => Sys2Proof.Machine.execUmul m d a b s
  | .umulh m d a b => Sys2Proof.Machine.execUmulh m d a b s
  | .umad m d a b => Sys2Proof.Machine.execUmad m d a b s
  | .umin m d a b => Sys2Proof.Machine.execUmin m d a b s
  | .umax m d a b => Sys2Proof.Machine.execUmax m d a b s
  | .uand d a b => Sys2Proof.Machine.execUand d a b s
  | .uor d a b => Sys2Proof.Machine.execUor d a b s
  | .uxor d a b => Sys2Proof.Machine.execUxor d a b s
  | .ushl d a b => Sys2Proof.Machine.execUshl d a b s
  | .ushr d a b => Sys2Proof.Machine.execUshr d a b s
  | .usar d a b => Sys2Proof.Machine.execUsar d a b s
  | .upopc d a => Sys2Proof.Machine.execUpopc d a s
  | .uclz d a => Sys2Proof.Machine.execUclz d a s
  | .ucmp op c a b => Sys2Proof.Machine.execUcmp op c a b s
  | .ucmpu op c a b => Sys2Proof.Machine.execUcmpu op c a b s
  | .usel c d a b => Sys2Proof.Machine.execUsel c d a b s
  | .uaddi d a k => Sys2Proof.Machine.execUaddi d a k s
  | .uandi d a k => Sys2Proof.Machine.execUandi d a k s
  | .uori d a k => Sys2Proof.Machine.execUori d a k s
  | .ushifti op d a n => Sys2Proof.Machine.execUshifti op d a n s
  | .umov sel d a => Sys2Proof.Machine.execUmov sel d a s
  | .uadd64 d a b => Sys2Proof.Machine.execUadd64 d a b s
  | .ubr c sense chk off => Sys2Proof.Machine.execUbr c sense chk off s
  | .ujmp off => Sys2Proof.Machine.execUjmp off s
  | .ucall off => Sys2Proof.Machine.execUcall off s
  | .uret a => Sys2Proof.Machine.execUret a s
  | .udbnz d off => Sys2Proof.Machine.execUdbnz d off s
  | .trl all regs => Sys2Proof.Machine.execTrl all regs s
  | .nop => Sys2Proof.Machine.execNop s
  | .yield => Sys2Proof.Machine.execYield s
  | .halt => Sys2Proof.Machine.execHalt s
  | .trap code => Sys2Proof.Machine.execTrap code s
  | .eret => Sys2Proof.Machine.execEret s
  | .barinit b a => Sys2Proof.Machine.execBarinit b a s
  | .bararr d b => Sys2Proof.Machine.execBararr d b s
  | .barwait b a => Sys2Proof.Machine.execBarwait b a s
  | .bararw d b => Sys2Proof.Machine.execBararw d b s
  | .cwait sc d a b => Sys2Proof.Machine.execCwait sc d a b s
  | .cwaitt sc d a b => Sys2Proof.Machine.execCwaitt sc d a b s
  | .cinc sc d a b => Sys2Proof.Machine.execCinc sc d a b s
  | .fence sc tok => Sys2Proof.Machine.execFence sc tok s
  | .fwait tok => Sys2Proof.Machine.execFwait tok s
  | .clubar all => Sys2Proof.Machine.execClubar all s
  | .srd d num => Sys2Proof.Machine.execSrd d num s
  | .swr num a => Sys2Proof.Machine.execSwr num a s
  | .cbld a => Sys2Proof.Machine.execCbld a s
  | .tmshp code => Sys2Proof.Machine.execTmshp code s
  | .tmtab a slot => Sys2Proof.Machine.execTmtab a slot s
  | .ipf a b => Sys2Proof.Machine.execIpf a b s
  | .ipin d a b => Sys2Proof.Machine.execIpin d a b s
  | .iunpin a b => Sys2Proof.Machine.execIunpin a b s
  | .cwb form sc a b => Sys2Proof.Machine.execCwb form sc a b s
  | .tstat d ctx => Sys2Proof.Machine.execTstat d ctx s
  | .mma zs a b slot => Sys2Proof.Machine.execMma zs a b slot s
  | .accz mask => Sys2Proof.Machine.execAccz mask s
  | .drain col fl a slot => Sys2Proof.Machine.execDrain col fl a slot s
  | .tcopy pack fl a => Sys2Proof.Machine.execTcopy pack fl a s
  | .tcopyColl a => Sys2Proof.Machine.execTcopyColl a s
  | .dcjob arr a => Sys2Proof.Machine.execDcjob arr a s
  | .rrot bwd a b => Sys2Proof.Machine.execRrot bwd a b s
  | .xsort a => Sys2Proof.Machine.execXsort a s
  | .prolog k => Sys2Proof.Machine.execProlog k s
  | .xput a b => Sys2Proof.Machine.execXput a b s
  | .xget a b => Sys2Proof.Machine.execXget a b s
  | .xarm a b => Sys2Proof.Machine.execXarm a b s
  | .xdisarm b => Sys2Proof.Machine.execXdisarm b s
  | .rinv d a => Sys2Proof.Machine.execRinv d a s
  | .rinvh d a b => Sys2Proof.Machine.execRinvh d a b s
  | .hwait trap d a b => Sys2Proof.Machine.execHwait trap d a b s
  | .hstat d a => Sys2Proof.Machine.execHstat d a s
  | .hfree a => Sys2Proof.Machine.execHfree a s
  | .iwait d a b => Sys2Proof.Machine.execIwait d a b s
  | .idone fail a b => Sys2Proof.Machine.execIdone fail a b s
  | .wopen k => Sys2Proof.Machine.execWopen k s
  | .wclose k => Sys2Proof.Machine.execWclose k s
  | .pmerge d k => Sys2Proof.Machine.execPmerge d k s
  | .pstat d a k => Sys2Proof.Machine.execPstat d a k s
  | .ptrick d a k => Sys2Proof.Machine.execPtrick d a k s
  | .dchk d k => Sys2Proof.Machine.execDchk d k s
  | .ulimm d lit => Sys2Proof.Machine.execUlimm d lit s
  | .reservedOpcode w => Sys2Proof.Machine.execReservedOpcode w s
  | .propagate wid => Sys2Proof.Machine.execPropagate wid s
  | .refresh pt sp unit tag away drop => Sys2Proof.Machine.execRefresh pt sp unit tag away drop s
  | .missQueueEnter w => Sys2Proof.Machine.execMissQueueEnter w s
  | .pageWalk core idx => Sys2Proof.Machine.execPageWalk core idx s
  | .longLatencyComplete id => Sys2Proof.Machine.execLongLatencyComplete id s
  | .portSchedule core quad pick => Sys2Proof.Machine.execPortSchedule core quad pick s
  | .groupActivate core quad => Sys2Proof.Machine.execGroupActivate core quad s
  | .asyncTrap w => Sys2Proof.Machine.execAsyncTrap w s
  | .fetimeout w => Sys2Proof.Machine.execFetimeout w s
  | .fullEmptyTake w => Sys2Proof.Machine.execFullEmptyTake w s
  | .cwaitComplete w => Sys2Proof.Machine.execCwaitComplete w s
  | .cwaittBound w => Sys2Proof.Machine.execCwaittBound w s
  | .fwaitComplete w => Sys2Proof.Machine.execFwaitComplete w s
  | .wopenProceed w => Sys2Proof.Machine.execWopenProceed w s
  | .hwaitComplete w => Sys2Proof.Machine.execHwaitComplete w s
  | .iwaitTake w => Sys2Proof.Machine.execIwaitTake w s
  | .engineCommandEnter w => Sys2Proof.Machine.execEngineCommandEnter w s
  | .mmaOperation t work => Sys2Proof.Machine.execMmaOperation t work s
  | .acczOperation t => Sys2Proof.Machine.execAcczOperation t s
  | .drainOperation t work => Sys2Proof.Machine.execDrainOperation t work s
  | .tcopyOperation t work => Sys2Proof.Machine.execTcopyOperation t work s
  | .packOperation t work => Sys2Proof.Machine.execPackOperation t work s
  | .prologOperation t work => Sys2Proof.Machine.execPrologOperation t work s
  | .dcmpJob t work => Sys2Proof.Machine.execDcmpJob t work s
  | .ringRotation clu work => Sys2Proof.Machine.execRingRotation clu work s
  | .xputOperation t => Sys2Proof.Machine.execXputOperation t s
  | .xgetOperation t => Sys2Proof.Machine.execXgetOperation t s
  | .collective t work w => Sys2Proof.Machine.execCollective t work w s
  | .xsortOperation t work => Sys2Proof.Machine.execXsortOperation t work s
  | .triggeredSend t n => Sys2Proof.Machine.execTriggeredSend t n s
  | .engineRetire t k => Sys2Proof.Machine.execEngineRetire t k s
  | .prologue t => Sys2Proof.Machine.execPrologue t s
  | .groupStart clu => Sys2Proof.Machine.execGroupStart clu s
  | .launchAdmit l place => Sys2Proof.Machine.execLaunchAdmit l place s
  | .clusterStart l place => Sys2Proof.Machine.execClusterStart l place s
  | .allocationRelease clu => Sys2Proof.Machine.execAllocationRelease clu s
  | .noticeExpiry clu => Sys2Proof.Machine.execNoticeExpiry clu s
  | .teamSave clu => Sys2Proof.Machine.execTeamSave clu s
  | .teamRestore clu place => Sys2Proof.Machine.execTeamRestore clu place s
  | .fabricAccessArrival r => Sys2Proof.Machine.execFabricAccessArrival r s
  | .fabricAnswer a => Sys2Proof.Machine.execFabricAnswer a s
  | .requestArrival r => Sys2Proof.Machine.execRequestArrival r s
  | .packetArrival p => Sys2Proof.Machine.execPacketArrival p s
  | .tokenGrant die part => Sys2Proof.Machine.execTokenGrant die part s
  | .tokenExpiry token => Sys2Proof.Machine.execTokenExpiry token s
  | .transferAck a => Sys2Proof.Machine.execTransferAck a s
  | .spindleSend rgn die n => Sys2Proof.Machine.execSpindleSend rgn die n s
  | .driftMessageArrival src xid => Sys2Proof.Machine.execDriftMessageArrival src xid s
  | .battenFold rgn frag => Sys2Proof.Machine.execBattenFold rgn frag s
  | .mergePass rgn => Sys2Proof.Machine.execMergePass rgn s
  | .islandSilent rgn frag island => Sys2Proof.Machine.execIslandSilent rgn frag island s
  | .invocationArrival inv => Sys2Proof.Machine.execInvocationArrival inv s
  | .invocationPlace part idx => Sys2Proof.Machine.execInvocationPlace part idx s
  | .rinvhForward part idx => Sys2Proof.Machine.execRinvhForward part idx s
  | .refreshStart die => Sys2Proof.Machine.execRefreshStart die s
  | .refreshEnd die => Sys2Proof.Machine.execRefreshEnd die s
  | .throttleCheck die => Sys2Proof.Machine.execThrottleCheck die s
  | .scrub unit => Sys2Proof.Machine.execScrub unit s
  | .flitSend port payload => Sys2Proof.Machine.execFlitSend port payload s
  | .flitReceive port phase counter cipher tag => Sys2Proof.Machine.execFlitReceive port phase counter cipher tag s
  | .keyInstall use session => Sys2Proof.Machine.execKeyInstall use session s
  | .alarmDetect bits => Sys2Proof.Machine.execAlarmDetect bits s
  | .coldReset failed alpol device links offs phases boot firmware fuses => Sys2Proof.Machine.execColdReset failed alpol device links offs phases boot firmware fuses s
  | .pcieLinkChange link up => Sys2Proof.Machine.execPcieLinkChange link up s
  | .getVersion ch => Sys2Proof.Machine.execGetVersion ch s
  | .getCapabilities ch => Sys2Proof.Machine.execGetCapabilities ch s
  | .negotiateAlgorithms ch => Sys2Proof.Machine.execNegotiateAlgorithms ch s
  | .getDigests ch => Sys2Proof.Machine.execGetDigests ch s
  | .getCertificate ch slot => Sys2Proof.Machine.execGetCertificate ch slot s
  | .challenge ch slot => Sys2Proof.Machine.execChallenge ch slot s
  | .getMeasurements ch index signed => Sys2Proof.Machine.execGetMeasurements ch index signed s
  | .keyExchange ch slot => Sys2Proof.Machine.execKeyExchange ch slot s
  | .finish ch verified => Sys2Proof.Machine.execFinish ch verified s
  | .endSession ch => Sys2Proof.Machine.execEndSession ch s
  | .measExtend ch k digest => Sys2Proof.Machine.execMeasExtend ch k digest s
  | .unsupportedRequest ch code => Sys2Proof.Machine.execUnsupportedRequest ch code s
  | .queueEnable q => Sys2Proof.Machine.execQueueEnable q s
  | .queueDisable q => Sys2Proof.Machine.execQueueDisable q s
  | .tail q v => Sys2Proof.Machine.execTail q v s
  | .chead q v => Sys2Proof.Machine.execChead q v s
  | .alarmClear bits => Sys2Proof.Machine.execAlarmClear bits s
  | .registerWrite off v => Sys2Proof.Machine.execRegisterWrite off v s
  | .queueFetch q => Sys2Proof.Machine.execQueueFetch q s
  | .launch q => Sys2Proof.Machine.execLaunch q s
  | .wait q => Sys2Proof.Machine.execWait q s
  | .queueWaitComplete q => Sys2Proof.Machine.execQueueWaitComplete q s
  | .queueWaitTimeout q => Sys2Proof.Machine.execQueueWaitTimeout q s
  | .signal q => Sys2Proof.Machine.execSignal q s
  | .copy q => Sys2Proof.Machine.execCopy q s
  | .queueCopyComplete q work => Sys2Proof.Machine.execQueueCopyComplete q work s
  | .xlinv q => Sys2Proof.Machine.execXlinv q s
  | .partcfg q => Sys2Proof.Machine.execPartcfg q s
  | .ctxcfg q => Sys2Proof.Machine.execCtxcfg q s
  | .preempt q => Sys2Proof.Machine.execPreempt q s
  | .bind q => Sys2Proof.Machine.execBind q s
  | .unbind q => Sys2Proof.Machine.execUnbind q s
  | .member q => Sys2Proof.Machine.execMember q s
  | .pause q => Sys2Proof.Machine.execPause q s
  | .resume q => Sys2Proof.Machine.execResume q s
  | .setthr q => Sys2Proof.Machine.execSetthr q s
  | .completionPost q => Sys2Proof.Machine.execCompletionPost q s
  | .softError e => Sys2Proof.Machine.execSoftError e s
  | .throttleCondition die thermal power => Sys2Proof.Machine.execThrottleCondition die thermal power s
  | .keySlotLoad slot part key => Sys2Proof.Machine.execKeySlotLoad slot part key s
  | .engineFeTimeout t => Sys2Proof.Machine.execEngineFeTimeout t s

end Sys2Proof.Machine
end

