-- ==== Sys2Proof/Machine/Fair.lean ====
section
/-!
DEFINITION. Fairness (R72, R156): what the machine sees to by itself whenever its agenda is empty, so that no run of it leaves a buffered write, a copy,
an outstanding result or a port behind (log entry 98).
-/
namespace Sys2Proof.Machine

/-- How many steps the port in focus goes on before the machine sees to its chores again. -/
def roundLen : Nat := 64

/-- The units of work that a chore asks of an engine. -/
def choreWork : Nat := 64

/-- What may end the wait of a fibre. -/
def fibreChores (f : Fibre) : List Instr :=
  match f.wait.map Wait.why with
  | some (.missRoom _) => [.missQueueEnter f.ref]
  | some (.engine _ _ _) => [.engineCommandEnter f.ref]
  | some .granule => [.asyncTrap f.ref, .fullEmptyTake f.ref, .fetimeout f.ref]
  | some (.count _ _) => [.cwaitComplete f.ref, .cwaittBound f.ref]
  | some (.token _) => [.fwaitComplete f.ref]
  | some (.window _) => [.wopenProceed f.ref]
  | some .handle => [.hwaitComplete f.ref]
  | some (.service _) => [.iwaitTake f.ref]
  | _ => []

/-- What an operation of an engine context may do next; a piece of a collective that needs another device's word waits for the agenda. -/
def opChores (o : Op) : List Instr :=
  let work : List Instr := match o.cmd with
    | .mma .. => [.mmaOperation o.t choreWork]
    | .accz _ => [.acczOperation o.t]
    | .drain .. => [.drainOperation o.t choreWork]
    | .tcopy pack _ _ _ _ => if pack then [.packOperation o.t choreWork] else [.tcopyOperation o.t choreWork, .collective o.t choreWork .quiet]
    | .coll .. => [.collective o.t choreWork .quiet]
    | .dcjob .. => [.dcmpJob o.t choreWork]
    | .rrot .. => []
    | .prolog _ => [.prologOperation o.t choreWork]
    | .xput _ => [.xputOperation o.t]
    | .xget _ => [.xgetOperation o.t]
    | .xarm .. => [.triggeredSend o.t o.n, .xputOperation o.t]
    | .xdisarm _ => []
    | .xsort _ => [.xsortOperation o.t choreWork]
  work ++ [.engineFeTimeout o.t, .engineRetire o.t o.k]

/-- The ports at which a group is resident. -/
def Mach.livePorts (m : Mach) : List (Nat × Nat) := ((m.groups.filter (fun g => !g.ended)).map (fun g => m.seat g.t g.g)).eraseDups

/-- The port after the one in focus. -/
def Mach.nextFocus (m : Mach) : Option (Nat × Nat) :=
  let ss := m.livePorts
  match m.focus with
  | none => ss.head?
  | some f => ((ss.dropWhile (fun s => s != f)).drop 1 ++ ss).head?

/-- The restores that can be made: a saved cluster, or a saved persistent grid, and where it finds room (R148, R165). -/
def restoreChores (cf : Conf) (m : Mach) : List Instr :=
  (m.clusters.filter (fun cl => cl.pre == .saved)).flatMap (fun cl =>
    match m.launch? cl.l with
    | none => []
    | some la =>
      match la.rec_, cf.part? la.p with
      | some rc, some pt => ((findGrid pt la.x rc (m.preSet cl.l cl.c).length m.seats).map (Instr.teamRestore cl.c)).toList
      | _, _ => [])

/-- The cluster starts that can be made: the next cluster of an admitted launch, where it finds room (R148, R165). -/
def startChores (cf : Conf) (m : Mach) : List Instr :=
  m.launches.flatMap (fun la =>
    match la.rec_, cf.part? la.p with
    | some rc, some pt =>
      if la.startable rc then ((findGrid pt la.x rc 1 m.seats).bind List.head?).toList.map (Instr.clusterStart la.l) else []
    | _, _ => [])

/-- Everything the machine sees to before its ports go on (R72, R156): every write on its way moves, every copy is removed, every walk and outstanding
result comes, every wait is looked at, engines, clusters, tokens, regions and binds go on, every saved or next cluster that finds room is restored or started, every port takes ready groups,
and the next port has its turn. -/
def Mach.chores (cf : Conf) (m : Mach) : List Instr :=
  m.bufs.map (fun e => .propagate e.w.wid)
  ++ m.copies.map (fun c => .refresh c.pt c.sp c.unit c.tag [] true)
  ++ m.blocks.flatMap (fun b => ((partsIn b.parts).head?.map (fun q => Instr.refresh b.pt q.1 (q.2.1 / 16) (some b.tag) [] true)).toList)
  ++ m.missq.map (fun q => .pageWalk q.core 0)
  ++ m.outst.map (fun o => .longLatencyComplete o.id)
  ++ m.fibres.flatMap fibreChores
  ++ (List.range 4).map .refreshEnd
  ++ m.ops.flatMap opChores
  ++ m.clusters.flatMap (fun c => [.ringRotation c.c choreWork, .groupStart c.c, .allocationRelease c.c, .noticeExpiry c.c, .teamSave c.c])
  ++ m.teams.map (fun tm => .prologue tm.t)
  ++ m.hreqs.map (fun h => .tokenGrant h.die h.r.part)
  ++ m.tokens.map (fun t => .tokenExpiry t.id)
  ++ m.regions.flatMap (fun rg => rg.dies.map (fun d => .spindleSend rg.r d choreWork)
    ++ rg.frags.flatMap (fun f => (List.range (rg.member f.round).count).map (fun i => .islandSilent rg.r f.f i) ++ [.battenFold rg.r f.f]) ++ [.mergePass rg.r])
  ++ (m.queues.filter (fun qu => (m.entry qu.q 5 true).isSome)).map (fun qu => .bind qu.q)
  ++ restoreChores cf m ++ startChores cf m
  ++ m.livePorts.map (fun s => .groupActivate s.1 s.2)

/-- The agenda the machine gives itself when it has none: its chores, and the next port in focus. -/
def Mach.selfAgenda (cf : Conf) (m : Mach) : List Agenda :=
  (m.chores cf).map .ev ++ (m.nextFocus.map (fun f => Agenda.focus f.1 f.2)).toList

end Sys2Proof.Machine
end

