-- ==== Sys2Proof/Machine/Run.lean ====
section
/-!
DEFINITION. What one step does: an item of the agenda, or the port in focus: the instruction its run has reached is fetched, decoded and executed
(R29, R211, R216, R234), or the port chooses a run (R166). And the machine in which a given word is that instruction.
-/
namespace Sys2Proof.Machine

/-! ### The agenda -/

/-- What is not a row of the opcode table (log entry 1): time, the port looked at, a host write (R65, R359), a cache dropping what it holds (R18, R53),
and messages of other devices. -/
def agendaItem (cf : Conf) (m : Mach) : Agenda → Mach
  | .ev _ => m
  | .elapse n => m.tick n
  | .focus core quad => { m with focus := some (core, quad) }
  | .hostWrite addr data tag =>
    (pieces addr data.length).foldl (fun m p =>
      m.writePlain .host ⟨0, .host, p.1 % 2 ^ 64, bytesAt data (p.1 - addr) p.2, .plain, tag, false, 0, 0, 0⟩) m
  | .evictLine core line => { m with icache := m.icache.filter (fun l => !(l.core == core && l.line == line)) }
  | .evictXlate own vpn => { m with tlb := m.tlb.filter (fun e => !(e.own == own && e.vpn == vpn)) }
  | .report part h st => if h.home = cf.device.toNat then m.homeState cf.device.toNat part h st else m
  | .freed part entry => m.freeResult part entry
  | .granted dev get g => grantArrival m dev get g
  | .revoked dev token => revokeArrival m dev token
  | .withdrawn dev xid => withdrawArrival cf m dev xid
  | .handleQuery dev part xid h free => handleQuery cf m dev part xid h free
  | .handleAnswer xid st => handleAnswer cf m xid st
  | .serve dev xid => serveStep cf m dev xid
  | .hostRead off => Machine.hostRead m off
  | .bootOn .. => m
  | .flitAcked port counter => flitAcked m port counter
  | .replayAsked port counter => replayAsked m port counter
  | .portLocked port => m.lockPort cf port

/-- Whether a row is a step of the machine and not an instruction word. -/
def isEvent (i : Instr) : Bool := (encode i).isEmpty

/-- Whether a halted device still does this: a cold reset, and the reads that it answers (R368). -/
def survivesErase : Agenda → Bool
  | .ev (.coldReset _ _ _ _ _ _ _ _ _) => true
  | .hostRead _ => true
  | _ => false

/-- Whether a device whose boot has failed still does this: time and the host's memory go on, the device registers and what they show, the attestation service, and a
cold reset (R361, R370, R372). -/
def survivesFailure : Agenda → Bool
  | .ev (.coldReset _ _ _ _ _ _ _ _ _) | .ev (.registerWrite _ _) | .ev (.alarmDetect _) | .ev (.alarmClear _) | .ev (.throttleCheck _)
  | .ev (.throttleCondition _ _ _) | .ev (.pcieLinkChange _ _) | .ev (.softError _) | .ev (.scrub _) => true
  | .ev (.getVersion _) | .ev (.getCapabilities _) | .ev (.negotiateAlgorithms _) | .ev (.getDigests _) | .ev (.getCertificate _ _) | .ev (.challenge _ _)
  | .ev (.getMeasurements _ _ _) | .ev (.keyExchange _ _) | .ev (.finish _ _) | .ev (.endSession _) | .ev (.measExtend _ _ _)
  | .ev (.unsupportedRequest _ _) => true
  | .hostRead _ | .hostWrite _ _ _ | .elapse _ => true
  | _ => false

/-- The first item of the agenda, taken from it. A word is no event: a fibre issues it or nothing does. -/
def agendaStep (s : State) (a : Agenda) : Host.Outcome State Fault Refusal :=
  if s.m.dev.erased && !survivesErase a || s.m.dev.bootstg == 0xFF && !survivesFailure a then .next s
  else
    match a with
    | .ev i => if isEvent i then exec i s else .next s
    | .bootOn good links firmware => .next (bootStep s good links firmware)
    | a => .next { s with m := agendaItem s.cfg s.m a }

/-! ### The port in focus -/

/-- What the fetch of a fibre's instruction gives: an instruction with its literal, one whose literal cannot be fetched, no instruction, or no word. -/
inductive Got where
  | instr (i : Instr)
  | noLit (i : Instr) (r : Fetched)
  | illegal
  | none_ (r : Fetched)
deriving DecidableEq, Repr

/-- Fetching and decoding at an address. -/
def fetchDecode (cf : Conf) (m : Mach) (c : Ctx) : Got × Mach :=
  match fetchInstr cf m c.tm.core c.la.p c.la.x c.f.pc.toNat with
  | (.word w, .word lit, m) => match decodeWord w lit with
    | .ok i => (.instr i, m)
    | .error _ => (.illegal, m)
  | (.word w, r, m) => match decodeWord w 0 with
    | .ok i => (.noLit i r, m)
    | .error _ => (.illegal, m)
  | (r, _, m) => (.none_ r, m)

/-- A word that decodes to nothing: ILLEGAL (R216, R234), or LPAD where a landing pad is due (R287). -/
def illegalWord (cf : Conf) (m : Mach) (c : Ctx) : Mach :=
  (m.tick 1).takeTrap cf c ⟨if c.f.lpad.isSome then 9 else 1, 0, 0, c.f.pred, false, true⟩

/-- What a fetch that gives no word does: it waits for a walker, raises its fault at the instruction, or stops the launch (R20, R29, R219, R379). -/
def noWord (cf : Conf) (m : Mach) (c : Ctx) : Fetched → Mach
  | .wait => m.tick 1
  | .fault k sub => (m.tick 1).takeTrap cf c ⟨k, sub, c.f.pc, c.f.pred, false, true⟩
  | .poison => (m.tick 1).stopLaunch cf c.f.ref.t c.f.ref.g 0
  | .word _ => m

/-- The run in progress at the port in focus issues its next instruction. A literal that cannot be fetched comes after the faults of the word itself (R216). -/
def fibreStep (s : State) (c : Ctx) : Host.Outcome State Fault Refusal :=
  match fetchDecode s.cfg s.m c with
  | (.instr i, m) => exec i { s with m := m }
  | (.noLit i r, m) => if gate m c i = .pass then .next { s with m := noWord s.cfg m c r } else exec i { s with m := m }
  | (.illegal, m) => .next { s with m := illegalWord s.cfg m c }
  | (.none_ r, m) => .next { s with m := noWord s.cfg m c r }

/-- The port in focus: its run goes on, or it chooses one (R166); with no port in focus a cycle passes. -/
def portStep (s : State) : Host.Outcome State Fault Refusal :=
  match s.m.issuer with
  | some c => fibreStep s c
  | none =>
    match s.m.focus with
    | some (core, quad) => .next { s with m := (portSchedule s.cfg s.m core quad 0).pickedLast core quad }
    | none => .next { s with m := s.m.tick 1 }

/-- One step: the first item of the agenda; with none, the port in focus, and in every round of its steps once the machine's own chores (R72, R156). -/
def stepOf (s : State) : Host.Outcome State Fault Refusal :=
  match s.m.agenda, s.m.round with
  | a :: rest, _ => agendaStep { s with m := { s.m with agenda := rest } } a
  | [], 0 => if s.m.dev.erased then .fault .halted else .next { s with m := { s.m with agenda := s.m.selfAgenda s.cfg, round := roundLen } }
  | [], k + 1 => if s.m.dev.erased then .fault .halted else portStep { s with m := { s.m with round := k } }

/-! ### A word where the next instruction is fetched -/

/-- The partition of the placed fibre: core 0, channel 0, key slot 0. -/
def probePart : Part := ⟨0, 1, 1, 0, [], [], [], 1, 0, 0, 0, 0, 0⟩
/-- Its key. -/
def probeKey : Key := List.replicate 64 0
/-- The record of its launch: one group of 256 registers. -/
def probeRec : LRec :=
  { entry := 0x10000, nclu := 1, clw := 1, clh := 1, rects := 1, span := false, lat := 0, persist := false, ngrp := 1, regs := 256, sect0 := 5, fek := 24
    scr := 1048576, ieoff := 0, ielen := 0, tmask := 15, scu := 32, regmask := 0, pairmask := 0, roles := 0, fwe := 0, fwen := false, fwperm := 0, fwob := 0
    fmts := List.replicate 8 1, binds := [], args := [] }
/-- The translation of its code page: virtual page 1 lies at partition-physical address 0, writable, executable, accessed and dirty. -/
def probeLeaf : Leaf := ⟨0x3D, 0, 16⟩

/-- The configuration with the probe's partition, context and key first. -/
def probeConf (cf : Conf) : Conf :=
  { cf with parts := probePart :: cf.parts, ctxs := ⟨0, 0, 0, 0, 0, 1, 0, 0⟩ :: cf.ctxs, keys := ⟨0, 0, probeKey⟩ :: cf.keys }

/-- A running fibre of its own launch at address 0x10000 on core 0, in focus, with eight bytes of code there. -/
def probeMach (m : Mach) (code : List Byte) : Mach :=
  let n := m.fresh
  let ref : FRef := ⟨n, 0, 0⟩
  let m := m.writeFlats 0 code (some (tagOf 0 0 probeKey))
  let m := m.tlbPut (.core 0) 0 0 1 probeLeaf
  let m := m.setPort { (m.port 0 0) with run := some ⟨ref, 0⟩ }
  { m with
    fresh := n + 1, agenda := [], round := 1, focus := some (0, 0)
    bufs := m.bufs.filter (fun e => !e.w.hits .pkg 0 8)
    poison := m.poison.filter (fun u => !(u.1 == .pkg && decide (u.2 < 8)))
    icache := m.icache.filter (fun l => !(l.core == 0 && l.p == 0 && l.x == 0 && l.line == 512))
    launches := ⟨n, 0, 0, 0, false, false, false, 0, 0, 0, some probeRec, 0, true, n, 1, none, none⟩ :: m.launches
    clusters := ⟨n, n, 0, [⟨0, 0, 0, 0⟩], true, .running, none, List.replicate 4 ⟨[], 0⟩, ⟨[], 0⟩⟩ :: m.clusters
    teams := ⟨n, n, n, 0, 0, 0, 1048576, 0, 0, [0, 0, 0, 0], 4, true, List.replicate 16 ⟨1, 0, false, none⟩, [0, 0, 0, 0], [],
      List.replicate 4 ⟨false, 0, 0, 0, 0⟩⟩ :: m.teams
    groups := { newGroup probeRec n 0 0 with active := true } :: m.groups
    fibres := { firstFibre probeRec n 0 with run := true } :: m.fibres
    dev := { m.dev with erased := false } }

end Sys2Proof.Machine
end

