-- ==== Sys2Proof/Machine/Step.lean ====
section
/-!
DEFINITION. The step of the machine, and a word placed where the step fetches its next instruction.
-/
namespace Sys2Proof.Machine

/-- One step of the machine (R7). -/
def step (s : State) : Host.Outcome State Fault Refusal := stepOf s

/-- `s` with a running fibre whose next instruction is the word w of nbits bits (log entry 6). -/
def State.withFetchWord (s : State) (nbits w : Nat) : State :=
  { cfg := probeConf s.cfg
    m := probeMach s.m (bytesOfWord (w % 2 ^ nbits % 2 ^ 32) ++ bytesOfWord (w % 2 ^ nbits / 2 ^ 32)) }

end Sys2Proof.Machine
end

