-- ==== Sys2Proof/Safety.lean ====
section
/-!
DEFINITION. What the statements mean: memory in canonical form, partitions that share nothing (R6, R12, R161), an instruction that issues (R216),
and what an instruction that acts on registers leaves unchanged.
-/
namespace Sys2Proof

/-! ### Readings of the lane instructions -/

/-- A word as the integer a saturation mode reads (R238). -/
def Sat.reads (md : Sat) (x : Word) : Int := if md = .usat then (x.toNat : Int) else x.toInt

/-- An exact result wrapped or saturated (R238). -/
def Sat.narrows (md : Sat) (x : Int) : Word :=
  match md with
  | .wrap => BitVec.ofInt 32 (x % 2 ^ 32)
  | .ssat => BitVec.ofInt 32 (min (max x (-2 ^ 31)) (2 ^ 31 - 1))
  | .usat => BitVec.ofInt 32 (min (max x 0) (2 ^ 32 - 1))

/-- A word extended to 64 bits as a signedness reads it (R239). -/
def Sgn.widens (sg : Sgn) (x : Word) : DWord :=
  match sg with
  | .s => x.signExtend 64
  | .u => x.setWidth 64

/-- The order of a signedness (R239). -/
def Sgn.le (sg : Sgn) (x y : Word) : Bool :=
  match sg with
  | .s => x.sle y
  | .u => x.ule y

/-- The absolute difference (R239). -/
def Sgn.away (sg : Sgn) (x y : Word) : Word :=
  match sg with
  | .s => BitVec.ofNat 32 (x.toInt - y.toInt).natAbs
  | .u => BitVec.ofNat 32 ((x.toNat : Int) - y.toNat).natAbs

end Sys2Proof

namespace Sys2Proof.Machine

/-- The form of memory: addresses strictly rising, no entry equal to the zero that an unlisted address reads as. -/
def Memory.wf (mem : SMap Byte) : Bool := smWf 0 mem

/-- The byte stores of the machine are in canonical form: package, weight-store and host memory and its keys, scratchpads and granules. -/
def Mach.canonical (m : Mach) : Bool := Memory.wf m.mem && smWf .open_ m.tags && smWf 0 m.scr && smWf (true, 0xFFFF) m.gran

/-- No two partitions share a core, a channel, a weight-store bank, a key slot or a cache way, and each has one configuration (R161). -/
def Conf.apart (cf : Conf) : Prop := cf.parts.Pairwise (fun a b => a.p ≠ b.p ∧ Machine.apart a b = true ∧ Machine.apart b a = true)

/-- A step ends in a next state of which P holds. -/
def Completes (o : Host.Outcome State Fault Refusal) (P : State → Prop) : Prop := ∃ t, o = .next t ∧ P t

/-- Fibre c issues i: its run is the one the port in focus holds, and no check of R216 (nor LPAD's, R287; an error, R379; an outstanding result,
R168; a held register, R312) stands before i's own entry. -/
def Issues (s : State) (i : Instr) (c : Ctx) : Prop := s.m.issuer = some c ∧ gate s.m c i = .pass

/-- The fibre at its next position; the run ends after position 23 or where the instruction ends it (R220). -/
def Fibre.moved (f : Fibre) (pc : DWord) (ends : Bool) : Fibre :=
  { f with pc := pc, run := f.run && !(ends || f.pos == 23), pos := if ends || f.pos == 23 then 0 else f.pos + 1
           wait := none, lpad := none, xl := [], fe := none, drained := false, asked := false }

/-- What of the machine an instruction on registers has no part in: everything but registers and latches, what is outstanding to them, the records of
groups and fibres, and time with what counts or schedules by it. -/
def Mach.beyond (m : Mach) : Mach :=
  { m with regs := [], lats := [], regErr := [], latErr := [], outst := [], groups := [], fibres := [], ports := [], cyc := 0, fresh := 0
           dev := { m.dev with ctrs := [], thr := [] } }

/-- A group but for the cycle from which it is ready (R167). -/
def Group.timeless (g : Group) : Group := { g with ready := 0 }

/-- Fibre c has issued an instruction that makes the machine `m` of what is beyond registers: the fibre is `f` then and its group `g`, and `ws` are the
registers written, by code, lane and value. Every other register, fibre and group is as in `m`. -/
structure Issued (s t : State) (c : Ctx) (m : Mach) (f : Fibre) (g : Group) (ws : List (Nat × Nat × Word)) : Prop where
  cfg : t.cfg = s.cfg
  beyond : t.m.beyond = m.beyond
  regs : t.m.regs = smSetAll 0 m.regs (ws.map (fun w => (regKey c.f.ref.t c.f.ref.g (c.f.base + w.1) w.2.1, w.2.2)))
  fibre : t.m.fibre? c.f.ref = some f
  fibres : ∀ r, r ≠ c.f.ref → t.m.fibre? r = m.fibre? r
  group : (t.m.group? c.f.ref.t c.f.ref.g).map Group.timeless = some g.timeless
  groups : ∀ t' g', (t', g') ≠ (c.f.ref.t, c.f.ref.g) → t.m.group? t' g' = m.group? t' g'

/-- The latch of the position c is at takes `lat` in each lane of P and no other latch changes; no long-latency result has begun (R221). -/
structure Latched (t : State) (c : Ctx) (m : Mach) (lat : Nat → Word) : Prop where
  lats : t.m.lats = smSetAll 0 m.lats (c.lanes.map (fun j => (latKey c.f.ref.t c.f.ref.g (c.f.pos % 8) j, lat j)))
  outst : t.m.outst.map (fun o => (o.id, o.ref, o.regs)) = m.outst.map (fun o => (o.id, o.ref, o.regs))

/-- A long-latency result has begun: `ws` will be written, and `lat` is what the latch of the position c is at will take (R168, R221). -/
structure Begun (t : State) (c : Ctx) (m : Mach) (ws : List (Nat × Nat × Word)) (lat : List (Nat × Word)) : Prop where
  lats : t.m.lats = m.lats
  outst : t.m.outst.map (fun o => (o.id, o.ref, o.regs)) =
    m.outst.map (fun o => (o.id, o.ref, o.regs)) ++ [(m.fresh, c.f.ref, ws.map (fun w => (c.f.base + w.1, w.2.1, w.2.2)))]
  latch : ∃ o ∈ t.m.outst, o.ref = c.f.ref ∧ o.latch = some (c.f.pos % 8, lat)

/-- The pc after c's instruction i, where it does not jump (R220). -/
def Ctx.after (c : Ctx) (i : Instr) : DWord := c.f.pc + BitVec.ofNat 64 (instrLen i)

/-- c's fibre at the position after an instruction that does not end its run. -/
def Ctx.next (c : Ctx) (i : Instr) : Fibre := c.f.moved (c.after i) false

/-- c's fibre after an instruction that ends its run, going on at `pc`. -/
def Ctx.ended (c : Ctx) (pc : DWord) : Fibre := c.f.moved pc true

/-- c's group g with the flags of every lane of P ORed into FPSTAT (R235). -/
def Ctx.flagged (c : Ctx) (g : Group) (fl : Nat → Word) : Group := { g with fpstat := c.lanes.foldl (fun w j => w ||| fl j) g.fpstat }

/-- An instruction that writes one word to D, and to its latch, in each lane of P, with flags (R215, R221, R235). -/
def WritesWord (s t : State) (c : Ctx) (i : Instr) (d : Dst) (val fl : Nat → Word) : Prop :=
  Issued s t c s.m (c.next i) (c.flagged c.g fl) (dstWrites d (c.lanes.map (fun j => (j, val j)))) ∧ Latched t c s.m val

/-- An instruction that writes 64 bits to a pair D in each lane of P; its latch takes the low word (R239). -/
def WritesPair (s t : State) (c : Ctx) (i : Instr) (d : Dst) (val : Nat → DWord) : Prop :=
  Issued s t c s.m (c.next i) c.g (pairWrites d (c.lanes.map (fun j => (j, val j)))) ∧ Latched t c s.m (fun j => lo32 (val j))

/-- c's group with condition register D taking a bit in each lane of P; none with n = 1 (R222, R242). -/
def Ctx.withCond (c : Ctx) (d : Dst) (val : Nat → Bool) : Group :=
  match d with
  | .v k => { c.g with conds := modAt c.g.conds k (fun w => c.lanes.foldl (fun w j =>
      if val j then w ||| BitVec.ofNat 32 (2 ^ j) else w &&& ~~~ BitVec.ofNat 32 (2 ^ j)) w) }
  | .nw => c.g

/-- An instruction that writes a condition bit to D in each lane of P, with flags; its latch takes 1 or 0, and no register changes (R221, R242). -/
def WritesCond (s t : State) (c : Ctx) (i : Instr) (d : Dst) (val : Nat → Bool) (fl : Nat → Word) : Prop :=
  Issued s t c s.m (c.next i) (c.flagged (c.withCond d val) fl) [] ∧ Latched t c s.m (fun j => if val j then 1 else 0)

/-- An instruction that writes a triple to D in each lane of P with the latch taking its first word, and DOM where a lane was bad (R208, R266). -/
def WritesTriple (s t : State) (c : Ctx) (i : Instr) (d : Dst) (val : Nat → Triple) (bad : Nat → Bool) : Prop :=
  let ws := match d with
    | .v n => c.lanes.flatMap (fun j => [(n, j, (val j).e), (n + 1, j, (val j).sm), (n + 2, j, (val j).n)])
    | .nw => []
  Issued s t c s.m (c.next i) { c.g with fpstat := c.g.fpstat ||| (if c.lanes.any bad then 16 else 0) } ws ∧ Latched t c s.m (fun j => (val j).e)

/-- What of the machine a trap has no part in: what an instruction on registers has none in, but for the stores, with what writes to them touch. -/
def Mach.aside (m : Mach) : Mach :=
  { m.beyond with mem := [], tags := [], scr := [], gran := [], poison := [], bufs := [], copies := [], blocks := [], marks := [], hist := [], pcache := [], net := []
                  fabPend := [], ops := m.ops.map (fun o => { o with met := false }) }

/-- The machine whose latches a trap of fibre c saves: the results they await are there (R171, R221). -/
def Mach.latched (m : Mach) (c : Ctx) : Mach := if c.f.run then m.settleLatches c.f.ref else m.clearLatches c.f.ref c.f.pred

/-- Fibre c has taken a trap on a machine `m` (R171, R172): the frame, TRAPCAUSE and TRAPADDR, handler mode, the other fibres of the group suspended, the trapped fibre
at TVEC. The frame lies at its place in the team's allocation, written by the group and drained to core scope; where nothing was on its way there, no other byte and no
granule outside it has changed. -/
structure TrappedOn (m : Mach) (s t : State) (c : Ctx) (cr : CtxRec) (x : Trap) : Prop where
  cfg : t.cfg = s.cfg
  group : (t.m.group? c.f.ref.t c.f.ref.g).map (fun g => (g.handler, g.handlerKind, g.trapCause, g.trapAddr)) = some (true, x.cause, x.word, x.addr)
  kept : (t.m.group? c.f.ref.t c.f.ref.g).map (fun g => (g.conds, g.sect, g.joins, g.fpstat)) = some (c.g.conds, c.g.sect, c.g.joins, c.g.fpstat)
  fibre : (t.m.fibre? c.f.ref).map (fun f => (f.pc, f.pred, f.base, f.run, f.pos, f.wait, f.toks)) =
    some (cr.tvec, c.f.pred, c.f.base, false, 0, none, c.f.toks)
  others : ∀ f ∈ t.m.fibresOf c.f.ref.t c.f.ref.g, f.ref ≠ c.f.ref → f.susp = true
  regs : s.m.outst = [] → t.m.regs = s.m.regs
  frame : m.canonical = true → ∀ i < 1280, t.m.homeByte (.scr c.f.ref.t) (frameOff cr c.g.g + i) none = (trapFrame (m.latched c) c x).getD i 0
  left : ∀ e ∈ t.m.bufs, e.pt ∉ m.below c.leaf 1
  rest : m.canonical = true → c.tm.len ≤ 2 ^ 20 → m.widsAt (m.below c.leaf 1) = [] → t.m.mem = m.mem ∧ t.m.tags = m.tags ∧ t.m.bufs = m.bufs ∧
    ∀ u a, a < 2 ^ 20 → u ≠ c.f.ref.t ∨ a < frameOff cr c.g.g ∨ frameOff cr c.g.g + 1280 ≤ a →
      t.m.homeByte (.scr u) a none = m.homeByte (.scr u) a none ∧
      (u ≠ c.f.ref.t ∨ a / 16 < frameOff cr c.g.g / 16 ∨ (frameOff cr c.g.g + 1279) / 16 < a / 16 → t.m.granule u (a / 16) = m.granule u (a / 16))
  groups : ∀ t' g', (t', g') ≠ (c.f.ref.t, c.f.ref.g) → (t.m.group? t' g').map Group.timeless = (m.group? t' g').map Group.timeless
  aside : c.g.held = none → t.m.aside = m.aside

/-- Fibre c has taken a trap where its instruction stood, a cycle having passed. -/
def Trapped (s t : State) (c : Ctx) (cr : CtxRec) (x : Trap) : Prop := TrappedOn (s.m.tick 1) s t c cr x

/-! ### Fields and sections -/

/-- The position of a field descriptor (R241). -/
def posOf (b : Word) : Nat := (b &&& 31).toNat
/-- The length of a field descriptor, cut at bit 31 (R241). -/
def lenOf (b : Word) : Nat := min ((b >>> 8) &&& 63).toNat (32 - posOf b)
/-- The mask of a field descriptor (R241). -/
def maskAt (b : Word) : Word := BitVec.ofNat 32 ((2 ^ lenOf b - 1) * 2 ^ posOf b)
/-- The field of a word (R241). -/
def fieldIn (a b : Word) : Word := (a &&& maskAt b) >>> posOf b

/-- The lanes of P in a lane's section of 2^SECT lanes, ascending (R154, R259). -/
def Ctx.mates (c : Ctx) (j : Nat) : List Nat :=
  (List.range 32).filter (fun k => c.f.pred.getLsbD k && decide (k / 2 ^ c.g.sect = j / 2 ^ c.g.sect))

/-- The flags of an instruction that has none. -/
def noFlags : Nat → Word := fun _ => 0

/-- The stores and buffers of a machine are those of another. -/
def SameStores (t m : Mach) : Prop := t.mem = m.mem ∧ t.tags = m.tags ∧ t.scr = m.scr ∧ t.gran = m.gran ∧ t.bufs = m.bufs

/-! ### Memory instructions -/

/-- Checks 1 to 7 of R22 for an instruction's accesses. -/
def checked (s : State) (c : Ctx) (scr : Bool) (cls : Cls) (qs : List Req) : List (Req × Except (Nat × Nat) Place) :=
  qs.map (fun q => (q, checkReq s.cfg s.m c cls (reqTarget s.m c.tm scr cls.writes q)))

/-- Where the accesses of a load or an atomic that name this device through the fabric go (R33, R69): to locations here. A store's are told by themselves (R34). -/
def owned (s : State) (c : Ctx) (scr : Bool) (cls : Cls) (reads : Bool) (qs : List Req) : List (Req × Except (Nat × Nat) Place) × Mach :=
  if reads then ownPlaces s.cfg s.m c.la.p cls (passing (checked s c scr cls qs)) else (checked s c scr cls qs, s.m)

/-- Every access of an instruction may be performed now, at `ps`: its translations are on hand, every check of R22 passes and gives its place, no bank it needs
refreshes (R58) and no poisoned unit is read (R379). It is performed on `m`: D bits are set (R17). -/
structure Placed (s : State) (c : Ctx) (scr : Bool) (cls : Cls) (reads : Bool) (qs : List Req) (ps : List (Req × Place)) (m : Mach) : Prop where
  known : s.m.misses c (qs.map (reqTarget s.m c.tm scr cls.writes)) = []
  fine : failures (checked s c scr cls qs) = []
  places : (owned s c scr cls reads qs).1 = ps.map (fun p => (p.1, .ok p.2))
  awake : (owned s c scr cls reads qs).2.refreshWait (s.cfg.part? c.la.p) (ps.map Prod.snd) = none
  sound : reads = true → readsPoison (owned s c scr cls reads qs).2 (s.cfg.part? c.la.p) ps = false
  machine : m = if cls.writes then (owned s c scr cls reads qs).2.setDirty s.cfg c (ps.map Prod.snd) else (owned s c scr cls reads qs).2

/-- The requests that fail a check, with cause and sub-cause (R22, R23). -/
def badReqs (s : State) (c : Ctx) (scr : Bool) (cls : Cls) (qs : List Req) : List (Req × Nat × Nat) := failures (checked s c scr cls qs)

/-- A trap of fibre c can be taken: its group is in no handler, its context has a handler and its frame fits its allocation (R172). -/
structure TrapReady (s : State) (c : Ctx) (cr : CtxRec) : Prop where
  free : c.g.handler = false
  ctx : s.cfg.ctx? c.la.p c.la.x = some cr
  tvec : cr.tvec ≠ 0
  fits : frameOff cr c.g.g + 1280 ≤ c.tm.len

/-- Fibre c, whose run the port in focus holds, can take a trap (R172). -/
structure CanTrap (s : State) (c : Ctx) (cr : CtxRec) : Prop where
  issuer : s.m.issuer = some c
  ready : TrapReady s c cr

/-- An instruction of fibre c waits for a reason; the fibre stands where it stood and its run is kept (R156, R168). -/
structure Waits (t : State) (c : Ctx) (i : Instr) (why : Why) : Prop where
  wait : (t.m.fibre? c.f.ref).map (fun f => f.wait.map (fun w => (w.i, w.why))) = some (some (i, why))
  place : (t.m.fibre? c.f.ref).map (fun f => (f.pc, f.pred, f.base, f.run, f.pos)) = some (c.f.pc, c.f.pred, c.f.base, c.f.run, c.f.pos)

/-- c's group as a machine has it: an answer to a posted store may have given it a pending trap (R34). -/
def Ctx.groupIn (c : Ctx) (m : Mach) : Group := (m.group? c.f.ref.t c.f.ref.g).getD c.g

/-- A long-latency instruction of fibre c: it makes the machine `m`, its writes `ws` and its latch's values are to come (R168). -/
def Late (s t : State) (c : Ctx) (i : Instr) (m : Mach) (ws : List (Nat × Nat × Word)) (lat : List (Nat × Word)) : Prop :=
  Issued s t c m (c.next i) (c.groupIn m) [] ∧ Begun t c m ws lat

/-- An instruction asks other devices for some of its accesses, on a machine `m`, and waits for their answers (R34, R106); a request for a saved allocation of this
device is held (R179). -/
def Asks (s : State) (c : Ctx) (i : Instr) (m : Mach) (ps : List (Req × Place)) (asked : Req × Place → Bool) (acc : Req → Nat → Nat × FabAcc)
    (phase : FabPhase) (sync : Bool) : Prop :=
  m.cutOff = false ∨ farAsks s.cfg ps asked = [] → Completes (exec i s) (fun t =>
    t.m.net = m.net ++ ((fabReqs s.cfg c m.fresh ps asked acc phase sync).filter (fun r => r.target != s.cfg.device.toNat)).map .access ∧
    t.m.parked = m.parked ++ (fabReqs s.cfg c m.fresh ps asked acc phase sync).filter (fun r => r.target == s.cfg.device.toNat) ∧
    Waits t c i (.fabric m.fresh) ∧ t.m.regs = m.regs)

/-- An instruction waits for some writes to other devices: they leave, and it is issued again (R75–R77). -/
def Drains (s : State) (c : Ctx) (i : Instr) (m : Mach) (ws : List Nat) : Prop :=
  Completes (exec i s) (fun t => t.m.bufs = (m.push (m.below c.leaf 4) (fun w => ws.contains w)).bufs ∧ Waits t c i (.drain ws true) ∧ t.m.regs = m.regs)

/-- A read of the requests' places on a machine `m` goes on with what `done` says: at once where the points of the path know what is read on other devices; else all of it
is asked for, after the writes to its bytes on their way (R66, R73, R77, R106). -/
def Reads (s : State) (c : Ctx) (i : Instr) (w : Way) (ps : List (Req × Place)) (m : Mach) (done : List (Nat × List Byte) × Mach → Prop) : Prop :=
  let ws := m.fabBefore c.leaf c.la.p w.system ps
  let n := m.acqPush w c.la.p ps
  (ws ≠ [] → Drains s c i m ws) ∧
  (ws = [] → ps.any (n.mustAsk w c.la.p) = true → Asks s c i n ps (fun q => anyFab [q]) (fun _ off => (off / 16 * 16, .read 16)) .whole false) ∧
  (ws = [] → ps.any (n.mustAsk w c.la.p) = false → done (readLanes s.cfg n w c.la.p ps))

/-- A load of the requests' places under a scope (R271–R273): every lane reads, then an acquire's invalidate; a plain load changes no stored byte. -/
def Loads (s : State) (c : Ctx) (i : Instr) (sz : Size) (sc : Scope) (d : Nat) (ps : List (Req × Place)) (m : Mach) : Prop :=
  Reads s c i (loadWay c.leaf sc) ps (m.before c.leaf c.la.p sc true false ps) (fun r =>
    Completes (exec i s) (fun t => Late s t c i (r.2.after c.leaf sc true) (loadWrites sz d r.1) (lowWords r.1) ∧
      (sc = .plain → t.m.mem = m.mem ∧ t.m.tags = m.tags ∧ t.m.scr = m.scr ∧ t.m.gran = m.gran ∧ t.m.bufs = m.bufs)))

/-- A store of the data of each request's lane to the requests' places (R271–R273), on a machine `m`. Its latch reads zero. One of system scope waits for the writes to
other devices before it, and for its own (R76). A refusal by this device's own windows is a pending trap of the group (R34). -/
def Stores (s : State) (c : Ctx) (i : Instr) (sc : Scope) (kind : WKind) (data : Nat → List Byte) (ps : List (Req × Place)) (m : Mach) : Prop :=
  let n := storeLanes s.cfg m c sc kind (fun q => data q.lane) ps
  let ws := m.drainWids c sc
  (ws ≠ [] → Drains s c i m ws) ∧
  (ws = [] → n.sentBy m c sc = [] → Completes (exec i s) (fun t =>
    Issued s t c n (c.next i) (c.groupIn n) [] ∧ Latched t c n noFlags)) ∧
  (ws = [] → n.sentBy m c sc ≠ [] → Completes (exec i s) (fun t =>
    t.m.bufs = n.bufs ∧ t.m.net = n.net ∧ t.m.mem = n.mem ∧ t.m.scr = n.scr ∧ Waits t c i (.drain (n.sentBy m c sc) false) ∧ t.m.regs = n.regs))

/-- The byte a plain read by an agent returns now (R73). -/
def Mach.seen (m : Mach) (leaf : Point) (sp : Space) (a : Nat) (tag : Option KTag) : Byte := (m.readPlain leaf sp a 1 tag).1.getD 0 0

/-- The bytes a write covers. -/
def Write.covers (w : Write) (sp : Space) (a : Nat) : Bool := w.sp == sp && decide (w.addr ≤ a) && decide (a < w.addr + w.bytes.length)

/-- Every buffered write to the 64-byte unit of a byte is under the key it is read under (R30, R31). -/
def Mach.oneKey (m : Mach) (sp : Space) (a : Nat) (tag : Option KTag) : Prop := ∀ e ∈ m.bufs, e.w.hits sp (a / 64 * 64) 64 = true → sameTag e.w.tag tag = true

/-- A write that lies in a team's allocation, or in one 64-byte unit of package or host memory. -/
def Write.inPlace (w : Write) : Prop :=
  match w.sp with
  | .scr _ => w.addr + w.bytes.length ≤ 2 ^ 20
  | .fab _ _ => False
  | _ => w.addr % 64 + w.bytes.length ≤ 64 ∧ w.addr + w.bytes.length ≤ 2 ^ 60

/-! ### Results that take long, synchronisation -/

/-- A word result in each lane of P on a machine `m`: outstanding where there is a destination, at once in the latch alone (R168). -/
def LateWord (s t : State) (c : Ctx) (i : Instr) (d : Dst) (m : Mach) (val : Nat → Word) : Prop :=
  match d with
  | .v n => Late s t c i m (c.lanes.map (fun j => (n, j, val j))) (c.lanes.map (fun j => (j, val j)))
  | .nw => Issued s t c m (c.next i) (c.groupIn m) [] ∧ Latched t c m val

/-- A 64-bit result in each lane of P on a machine `m` (R168). -/
def LatePair (s t : State) (c : Ctx) (i : Instr) (d : Dst) (m : Mach) (val : DWord) : Prop :=
  match d with
  | .v _ => Late s t c i m (pairWrites d (c.lanes.map (fun j => (j, val)))) (c.lanes.map (fun j => (j, lo32 val)))
  | .nw => Issued s t c m (c.next i) (c.groupIn m) [] ∧ Latched t c m (fun _ => lo32 val)

/-- Four words in each lane of P on a machine `m` (R168). -/
def LateQuad (s t : State) (c : Ctx) (i : Instr) (d : Dst) (m : Mach) (w : Nat → Word) : Prop :=
  match d with
  | .v n => Late s t c i m (c.lanes.flatMap (fun j => (List.range 4).map (fun k => (n + k, j, w k)))) (c.lanes.map (fun j => (j, w 0)))
  | .nw => Issued s t c m (c.next i) (c.groupIn m) [] ∧ Latched t c m (fun _ => w 0)

/-- A word result in each lane of P on a machine `m`, at once (R215). -/
def NowWord (s t : State) (c : Ctx) (i : Instr) (d : Dst) (m : Mach) (val : Nat → Word) : Prop :=
  Issued s t c m (c.next i) c.g (dstWrites d (c.lanes.map (fun j => (j, val j)))) ∧ Latched t c m val

/-- An instruction that changes the machine to `m` and nothing of registers, flags or conditions (its latch reads zero). -/
def Does (s t : State) (c : Ctx) (i : Instr) (m : Mach) (g : Group) : Prop := Issued s t c m (c.next i) g [] ∧ Latched t c m noFlags

/-- A fibre of team t waits at barrier b. -/
def Fibre.atBar (f : Fibre) (t b : Nat) : Bool :=
  f.ref.t == t && f.wait.any (fun w => match w.why with
    | .barrier b' _ => b' == b
    | _ => false)

/-- Barrier b of c's team in a new state. -/
def Mach.barNow (m : Mach) (c : Ctx) (b : Nat) (x : Bar) : Mach := m.updTeam c.tm.t (fun tm => { tm with bars := modAt tm.bars b (fun _ => x) })

/-- The target of a count wait (R295). -/
def targetOf (m : Mach) (c : Ctx) (b : Nat) : Nat := (m.v64 c b c.leader).toNat % 2 ^ 63

/-! ### Joins -/

/-- A fibre waits at a JOIN. -/
def Fibre.joining (f : Fibre) : Bool := f.wait.any (fun w => match w.why with
  | .join _ => true
  | _ => false)

/-- The fibres `ws` of a group, one or more of which waited at a JOIN at `pc` and all of which have arrived there, have become one (R153): the union of their lanes, at the
next address, with no run; depths summed; each token pending in any of them pending, for the union of the writes and the widest of the scopes. -/
def Merged (t : State) (T G : Nat) (ws : List Fibre) (pc : DWord) (base : Nat) : Prop :=
  ∃ w ∈ ws, ∃ x, t.m.fibre? w.ref = some x ∧ (∀ v ∈ ws, v.ref ≠ w.ref → t.m.fibre? v.ref = none) ∧
    (x.ref.t, x.ref.g, x.pc, x.pred, x.base) = (T, G, pc + 4, ws.foldl (fun p f => p ||| f.pred) 0, base) ∧ (x.run, x.pos, x.wait) = (false, 0, none) ∧
    ∀ k, ((∀ v ∈ ws, k < v.depths.length) → x.depths.getD k 0 = (ws.map (fun v => v.depths.getD k 0)).sum) ∧
      ((∀ v ∈ ws, k < v.toks.length) → let tok (f : Fibre) : Tok := f.toks.getD k ⟨false, [], 0⟩
        ((tok x).pend = true ↔ ∃ v ∈ ws, (tok v).pend = true) ∧
        ((tok x).pend = true → (∀ i, i ∈ (tok x).wids ↔ ∃ v ∈ ws, (tok v).pend = true ∧ i ∈ (tok v).wids) ∧
          (∀ v ∈ ws, (tok v).pend = true → (tok v).sc ≤ (tok x).sc) ∧ ∃ v ∈ ws, (tok v).pend = true ∧ (tok v).sc = (tok x).sc))

/-- The fibres of c's group but c's own that wait at a JOIN all wait at one, on mask j at `pc` with a window base; every other fibre of the group but c's own has no lane in
`mask`. No two fibres of the group have one identity. -/
structure OneJoin (s : State) (c : Ctx) (j : Nat) (pc : DWord) (base : Nat) (mask : Word) : Prop where
  names : ((s.m.fibresOf c.f.ref.t c.f.ref.g).map Fibre.ref).Nodup
  there : ∀ f ∈ s.m.fibresOf c.f.ref.t c.f.ref.g, f.ref ≠ c.f.ref → f.joining = true → f.pc = pc ∧ f.base = base ∧ (f.wait.map Wait.why) = some (.join j)
  rest : ∀ f ∈ s.m.fibresOf c.f.ref.t c.f.ref.g, f.ref ≠ c.f.ref → f.joining = false → f.pred &&& mask = 0

/-- The fibres of c's group but c's own that wait at a JOIN. -/
def Mach.joiners (m : Mach) (c : Ctx) : List Fibre := (m.fibresOf c.f.ref.t c.f.ref.g).filter (fun f => f.ref != c.f.ref && f.joining)

/-- The fibres of c's group but c's own that wait at no JOIN are as they were. -/
def OthersKept (s t : State) (c : Ctx) : Prop :=
  ∀ f ∈ s.m.fibresOf c.f.ref.t c.f.ref.g, f.ref ≠ c.f.ref → f.joining = false → t.m.fibre? f.ref = some f

/-- A machine in which no JOIN of a group is complete (R153). -/
def Mach.noJoin (m : Mach) (T G : Nat) : Prop :=
  ∀ f ∈ m.fibresOf T G, ∀ w j, f.wait = some w → w.why = .join j → m.joinDone T G j f.pc f.base = false

/-! ### Engine commands, handles, planes -/

/-- A block read by the leader lane in pieces, on a machine `m` (R304): its bytes, and the machine after the reads. -/
def leadRead (s : State) (c : Ctx) (m : Mach) (ps : List (Req × Place)) : List Byte × Mach :=
  let r := readLanes s.cfg m (.plain c.leaf) c.la.p ps
  (r.1.flatMap Prod.snd, r.2)

/-- A command of fibre c enters a context on a machine `m` as the next operation of that context; where the context is full, the fibre waits (R305). -/
def Enters (s : State) (c : Ctx) (i : Instr) (m : Mach) (k : EngCtx) (cmd : Cmd) (blk : DWord) : Prop :=
  (s.m.room c.tm.t k = true → Completes (exec i s) (fun t => Does s t c i (Mach.accept s.cfg m c.tm.t c.g.g k cmd blk) c.g ∧
    (t.m.opsOf c.tm.t k).map (fun o => (o.n, o.cmd)) = (s.m.opsOf c.tm.t k).map (fun o => (o.n, o.cmd)) ++ [(c.tm.nop k + 1, cmd)])) ∧
  (s.m.room c.tm.t k = false → Completes (exec i s) (fun t => Waits t c i (.engine k cmd blk) ∧ t.m.ops = m.ops ∧ t.m.regs = s.m.regs))

/-- The block of a command at the scratch address in A of the leader lane, n bytes, may be read, at `ps` on a machine `m`, after the issue release (R304). -/
def BlockAt (s : State) (c : Ctx) (a : Src) (n : Nat) (ps : List (Req × Place)) (m : Mach) : Prop :=
  (s.m.srcL c a).toNat % n = 0 ∧ Placed { s with m := s.m.drain c.leaf 1 } c true .read true (cmdReqs s.m c a n) ps m

/-- A command of fibre c whose block is not aligned takes the trap ALIGN (R304). -/
def BlockTraps (s : State) (c : Ctx) (i : Instr) (a : Src) (n : Nat) : Prop :=
  ∀ cr, CanTrap s c cr → gate s.m c i = .pass → (s.m.srcL c a).toNat % n ≠ 0 →
    Completes (exec i s) (fun t => TrappedOn ((s.m.drain c.leaf 1).tick 1) s t c cr ⟨3, 0, (s.m.srcL c a).setWidth 64, maskOf [c.leader], false, true⟩)

/-- An instruction of fibre c takes the trap HANDLE with a sub-cause, on a machine `m` (R355). -/
def HandleTraps (s : State) (c : Ctx) (i : Instr) (m : Mach) (sub : Nat) (addr : DWord) : Prop :=
  ∀ cr, CanTrap s c cr → Completes (exec i s) (fun t => TrappedOn (m.tick 1) s t c cr ⟨0x12, sub, addr, c.f.pred, false, true⟩)

/-- An instruction of fibre c asks a handle's home for its state, on a machine `m`, and waits (R354). -/
def AsksHome (s : State) (c : Ctx) (i : Instr) (m : Mach) (h : Handle) (free : Bool) : Prop :=
  Completes (exec i s) (fun t => t.m.net = m.net ++ [.query h.home c.la.p m.fresh h free] ∧ Waits t c i (.fabric m.fresh) ∧ t.m.regs = m.regs)

/-- The machine in which a group has taken an invocation whose landing buffer lies at `ps` (R352). -/
def Mach.landed (m : Mach) (c : Ctx) (ps : List (Req × Place)) (q : InvQ) : Mach :=
  let n : Mach := { m.updGroup c.f.ref.t c.f.ref.g (fun g => { g with held := q.entry }) with
    invq := m.invq.map (fun x => if x = q then { q with running := true } else x) }
  ((ps.zip (List.range ps.length)).foldl (fun m w => match w.1.2 with
    | .here a _ => m.writeHome c.leaf ⟨0, a.sp, a.addr, bytesAt (landingBytes q.inv) (16 * w.2) 16, .engine, a.tag, false, 0, 0, 0⟩
    | .fab _ _ => m) n).invalidate c.leaf 4

/-- Index k of fibre c names a region whose latched conditions are clear (R356). -/
def Region.calm (s : State) (c : Ctx) (k : Nat) (rg : Region) : Prop :=
  nbit c.rc.regmask k = true ∧ s.m.regionOf c.la.p c.la.x k = some rg ∧ rg.norm = false ∧ rg.silent = []

/-! ### Steps of the machine -/

/-- The value a list of lane values gives a lane; zero where it names none (R221). -/
def latOf (vs : List (Nat × Word)) (j : Nat) : Word := ((vs.find? (fun v => v.1 == j)).map Prod.snd).getD 0

/-- The waiting instruction i of fibre c completes on a machine `m`: it writes `ws` and its latch, and the fibre is past it. -/
def WaitOver (s t : State) (c : Ctx) (i : Instr) (m : Mach) (ws : List (Nat × Nat × Word)) (lat : Nat → Word) : Prop :=
  Issued s t c m (c.next i) c.g ws ∧ Latched t c m lat

/-- Operation o has ended with a status, a sub-cause and an address (R164, R306). -/
def Ended (t : State) (o : Op) (st sub : Nat) (addr : DWord) : Prop :=
  (∃ x ∈ t.m.ops, x.t = o.t ∧ x.k = o.k ∧ x.n = o.n) ∧ ∀ x ∈ t.m.ops, x.t = o.t → x.k = o.k → x.n = o.n → x.fin = some (st, sub, addr)

/-- Operation o has become o'. -/
def Became (t : State) (o o' : Op) : Prop :=
  (∃ x ∈ t.m.ops, x.t = o.t ∧ x.k = o.k ∧ x.n = o.n) ∧ ∀ x ∈ t.m.ops, x.t = o.t → x.k = o.k → x.n = o.n → x = o'

/-- A context's current operation may be worked on, and the entry of its command has begun (R94, R175). -/
structure Working (s : State) (T : Nat) (k : EngCtx) (oc : OpCtx) : Prop where
  cur : s.m.curOp T k = some oc.o
  ctx : opCtx s.m oc.o = some oc
  may : oc.mayWork = true
  begun : oc.o.begun = true

/-- Queue q's next entry is e, a well-formed plane operation (R134); no write to another device is on its way, for which its completion would wait (R76, R160). -/
structure PlaneOp (s : State) (q pcop : Nat) (e : Entry) : Prop where
  entry : (s.m.queue q).cur = some e
  op : e.op = 5 ∧ e.begun = false ∧ e.fin = none
  near : ∀ b ∈ s.m.bufs, isFab b.w.sp = false
  code : nbits (e.word 1) 3 0 = pcop
  fields : e.word 1 < 2 ^ 10 ∧ e.word 3 < 2 ^ 32 ∧ e.word 4 = 0 ∧ (nbit (e.word 1) 7 = true → pcop = 0) ∧ (e.word 3 ≠ 0 → pcop = 2) ∧
    (e.word 2 ≠ 0 → pcop = 0 ∨ pcop = 2 ∨ pcop = 5)

/-- Queue q's entry has completed with a status: it is gone, and a completion is held where its CPL asks for one or the status is not OK (R163). -/
def Completed (s t : State) (q : Nat) (e : Entry) (st : Nat) : Prop :=
  (t.m.queue q).cur = none ∧
  (e.flag 8 = true ∨ st ≠ 0 → ((t.m.queue q).held.getLast?).map (fun k => (k.utag, k.op, k.status, k.index)) =
    some (BitVec.ofNat 32 (natAt e.bytes 4 4), e.op, st, e.index)) ∧
  (e.flag 8 = false → st = 0 → (t.m.queue q).held = (s.m.queue q).held)

end Sys2Proof.Machine
end

