-- ==== Sys2Proof/Certificates/Slice0/Obligations.lean ====
section
/-!
DEFINITION. The statements for the provers: what decoding, a step, each instruction and each step of the machine does.
-/
open Sys2Proof Sys2Proof.Machine

/-- With an empty agenda on a device that is not halted, where the port in focus holds a fibre's run and the word at its pc, with its literal, decodes to i, step is exec of i on the machine the fetch leaves. A word that decodes to nothing traps ILLEGAL (LPAD where a landing pad is due: that LPAD comes before R216's ILLEGAL is the model's reading, log entry 20), as does a failed fetch, that of a literal only where the word itself has no fault; with no run, the port chooses one, or time passes. With an agenda (the model's form of R7's choices, log entry 1), step takes its first item, and an event is run by exec. Once in every 64 steps without an agenda the machine gives itself one (the model's form of R72 and R156, log entry 98): in it every write on its way moves, every copy goes, every outstanding result comes, every port with a group takes ready groups, and the next such port has its turn. A halted device takes no step but a cold reset and a host read; one whose boot has failed drops what is neither registers, attestation nor a cold reset. -/
def Obligations.StepRunsDecoded : Prop :=
  ∀ (s : State),
    (∀ (k : Nat) (c : Ctx) (w lit : Nat) (i : Instr) (m : Mach), s.m.agenda = [] → s.m.round = k + 1 → s.m.dev.erased = false → s.m.issuer = some c →
      fetchInstr s.cfg ({ s.m with round := k } : Mach) c.tm.core c.la.p c.la.x c.f.pc.toNat = (.word w, .word lit, m) → decodeWord w lit = .ok i → step s = exec i { s with m := m }) ∧
    (∀ (k : Nat) (c : Ctx) (w lit : Nat) (m : Mach), s.m.agenda = [] → s.m.round = k + 1 → s.m.dev.erased = false → s.m.issuer = some c →
      fetchInstr s.cfg ({ s.m with round := k } : Mach) c.tm.core c.la.p c.la.x c.f.pc.toNat = (.word w, .word lit, m) → (∀ i, decodeWord w lit ≠ .ok i) →
      step s = .next { s with m := (m.tick 1).takeTrap s.cfg c ⟨if c.f.lpad = none then 1 else 9, 0, 0, c.f.pred, false, true⟩ }) ∧
    (∀ (k : Nat) (c : Ctx) (n sub : Nat) (r : Fetched) (m : Mach), s.m.agenda = [] → s.m.round = k + 1 → s.m.dev.erased = false → s.m.issuer = some c →
      fetchInstr s.cfg ({ s.m with round := k } : Mach) c.tm.core c.la.p c.la.x c.f.pc.toNat = (.fault n sub, r, m) → step s = .next { s with m := (m.tick 1).takeTrap s.cfg c ⟨n, sub, c.f.pc, c.f.pred, false, true⟩ }) ∧
    (∀ (k : Nat) (c : Ctx) (r : Fetched) (m : Mach), s.m.agenda = [] → s.m.round = k + 1 → s.m.dev.erased = false → s.m.issuer = some c →
      fetchInstr s.cfg ({ s.m with round := k } : Mach) c.tm.core c.la.p c.la.x c.f.pc.toNat = (.wait, r, m) → step s = .next { s with m := m.tick 1 }) ∧
    (∀ (k : Nat) (c : Ctx) (w n sub : Nat) (i : Instr) (m : Mach), s.m.agenda = [] → s.m.round = k + 1 → s.m.dev.erased = false → s.m.issuer = some c →
      fetchInstr s.cfg ({ s.m with round := k } : Mach) c.tm.core c.la.p c.la.x c.f.pc.toNat = (.word w, .fault n sub, m) → decodeWord w 0 = .ok i →
      step s = if gate m c i = .pass then .next { s with m := (m.tick 1).takeTrap s.cfg c ⟨n, sub, c.f.pc, c.f.pred, false, true⟩ } else exec i { s with m := m }) ∧
    (∀ (k core quad : Nat), s.m.agenda = [] → s.m.round = k + 1 → s.m.dev.erased = false → s.m.issuer = none → s.m.focus = some (core, quad) → step s = .next { s with m := (portSchedule s.cfg ({ s.m with round := k } : Mach) core quad 0).pickedLast core quad }) ∧
    (∀ (k : Nat), s.m.agenda = [] → s.m.round = k + 1 → s.m.dev.erased = false → s.m.focus = none → step s = .next { s with m := ({ s.m with round := k } : Mach).tick 1 }) ∧
    (s.m.agenda = [] → s.m.round = 0 → s.m.dev.erased = false → step s = .next { s with m := { s.m with agenda := s.m.selfAgenda s.cfg, round := 64 } }) ∧
    ((∀ e ∈ s.m.bufs, .ev (.propagate e.w.wid) ∈ s.m.selfAgenda s.cfg) ∧ (∀ c ∈ s.m.copies, .ev (.refresh c.pt c.sp c.unit c.tag [] true) ∈ s.m.selfAgenda s.cfg) ∧ (∀ o ∈ s.m.outst, .ev (.longLatencyComplete o.id) ∈ s.m.selfAgenda s.cfg)) ∧
    ((∀ g ∈ s.m.groups, g.ended = false → .ev (.groupActivate (s.m.seat g.t g.g).1 (s.m.seat g.t g.g).2) ∈ s.m.selfAgenda s.cfg) ∧ (s.m.livePorts ≠ [] → ∃ f ∈ s.m.livePorts, (s.m.selfAgenda s.cfg).getLast? = some (.focus f.1 f.2))) ∧
    (∀ (i : Instr) (rest : List Agenda), s.m.agenda = .ev i :: rest → s.m.dev.erased = false → s.m.dev.bootstg ≠ 0xFF → encode i = [] → step s = exec i { s with m := { s.m with agenda := rest } }) ∧
    (∀ (i : Instr) (rest : List Agenda), s.m.agenda = .ev i :: rest → s.m.dev.bootstg = 0xFF → survivesFailure (.ev i) = false → step s = .next { s with m := { s.m with agenda := rest } }) ∧
    (s.m.agenda = [] → s.m.dev.erased = true → step s = .fault .halted) ∧
    (∀ (off : Nat) (rest : List Agenda), s.m.agenda = .hostRead off :: rest → step s = .next { s with m := { s.m with agenda := rest, net := s.m.net ++ [.hostRead off (barRead { s.m with agenda := rest } off)] } }) ∧
    (∀ (f : Nat) (al : Bool) (dv : BitVec 13) (lk : BitVec 2) (o p : List Nat) (b fi fu : List Byte) (rest : List Agenda), s.m.agenda = .ev (.coldReset f al dv lk o p b fi fu) :: rest →
      step s = exec (.coldReset f al dv lk o p b fi fu) { s with m := { s.m with agenda := rest } })

/-- At reset no partition or context is configured and no key loaded, every queue field reads 0 (its phase, the model's own, set), ALARM, ERASED, BOOTSTG, KEYHOLD and AMSIX read 0 and PLIM 3,000, no link direction has a key, nothing is resident, memory is in canonical form, and partitions hold nothing in common. (Registers, and the bytes of memory nothing has written, read zero by the model's choice: log entries 3 and 4.) -/
def Obligations.AtReset : Prop :=
  let s := State.reset; (s.cfg.parts = [] ∧ s.cfg.ctxs = [] ∧ s.cfg.keys = []) ∧
    (∀ q, s.m.queue q = ⟨q, 0, 0, 0, 0, 0, false, false, 0, 0, 0, 0, 0, 0, 0, false, true, none, [], []⟩) ∧
    (s.m.dev.alarm = 0 ∧ s.m.dev.erased = false ∧ s.m.dev.bootstg = 0 ∧ s.m.dev.keyhold = 0 ∧ s.m.dev.amsix = 0 ∧ s.m.dev.plim = 3000 ∧ s.m.dev.plock = 0) ∧
    (∀ p ∈ s.m.dev.ports, p.locked = false ∧ p.out.counter = 0 ∧ p.inn.counter = 0 ∧ p.out.key = none ∧ p.inn.key = none) ∧
    (s.m.launches = [] ∧ s.m.clusters = [] ∧ s.m.teams = [] ∧ s.m.groups = [] ∧ s.m.fibres = [] ∧ s.m.ops = [] ∧ s.m.regions = []) ∧
    (s.m.canonical = true ∧ s.cfg.apart) ∧
    (s.m.agenda = [] ∧ (∀ k, smGet 0 s.m.regs k = 0) ∧ barRead s.m 0 = 0 ∧ barRead s.m 8 = 0 ∧ barRead s.m 0x10 = 3000 ∧ barRead s.m 0x18 = 0)

/-- The words the spec gives for AND, ICMPU.le, SHIFTI.sar, MOV.toc and LIMM decode to them; a selector the spec reserves decodes to nothing, and a reserved opcode to its own row. -/
def Obligations.DecodesWords : Prop :=
  (decodeTableWord 32 0x08004103 = some (.and (.v 1) (.v 2) (.v 3))) ∧
    (decodeTableWord 32 0x16404103 = some (.icmpu .le (.v 1) (.v 2) (.v 3))) ∧
    (decodeTableWord 32 0x1C01051F = some (.shifti .sar (.v 1) (.v 2) 31)) ∧
    (decodeTableWord 32 0x1E804100 = some (.mov .toc (.v 1) (.v 2))) ∧
    (decodeTableWord 64 0x000001007F030000 = some (.limm (.v 3) 0x100)) ∧
    (decodeTableWord 32 0x1EC04100 = none) ∧
    (decodeTableWord 32 0x1D000000 = some (.reservedOpcode 0x1D000000))

/-- Every well-formed instruction that has words decodes from its bytes, whatever follows them, to itself. Every word (with the word after it) that decodes gives a well-formed instruction whose words are exactly those read. -/
def Obligations.RoundTrip : Prop :=
  (∀ (i : Instr) (rest : List Byte), i.wf = true → encode i ≠ [] → decode ((encode i).flatMap bytesOfWord ++ rest) = .ok (i, rest)) ∧
    (∀ (w lit : Nat) (i : Instr), w < 2 ^ 32 → lit < 2 ^ 32 → decodeWord w lit = .ok i →
      i.wf = true ∧ encode i = if hasLiteral w then [w, lit] else [w])

/-- Of an instruction word a fibre issues: a due landing pad that is not there traps LPAD (that it comes first is the model's reading, log entry 20); else an illegal form ILLEGAL; else a register outside the window WINDOW; else, with no array error, outstanding result or held register among its operands, a value SWR does not take ILLEGAL, a role that may not ROLE, and an effectful instruction of a fibre that is not converged CONVERGE. An operand with an outstanding result or a held register makes it wait; that the wait comes before the check of SWR's value, ROLE and CONVERGE is the model's choice (log entry 21). An operand that holds an error of the arrays (R379) stops the launch with cause 0; that it comes before the wait is the model's choice (log entry 21). Nothing of its own entry happens then. -/
def Obligations.GateOrder : Prop :=
  ∀ (s : State) (c : Ctx) (cr : CtxRec) (i : Instr), encode i ≠ [] → CanTrap s c cr →
    let traps (k : Nat) : Prop := Completes (exec i s) (fun t => Trapped s t c cr ⟨k, 0, 0, c.f.pred, false, true⟩)
    let win := (windowRegs i).any (fun r => decide (c.rc.regs ≤ c.f.base + r))
    let err := s.m.readsErr c (instrUse i).rd (instrUse i).lats
    let held := s.m.heldReg c (c.phys (instrUse i).wr)
    (∀ tag, c.f.lpad = some tag → i ≠ .lpad tag → traps 9) ∧
    (c.f.lpad = none →
      (illegalHere c i = true → traps 1) ∧
      (illegalHere c i = false → win = true → traps 2) ∧
      (illegalHere c i = false → win = false → err = true → Completes (exec i s) (fun t => t = { s with m := (s.m.tick 1).stopLaunch s.cfg c.f.ref.t c.f.ref.g 0 })) ∧
      (illegalHere c i = false → win = false → err = false →
        (s.m.hazard c.f i = true → Completes (exec i s) (fun t => Waits t c i .yield ∧ t.m.regs = s.m.regs)) ∧
        (s.m.hazard c.f i = false → held = true → Completes (exec i s) (fun t => Waits t c i .heldReg ∧ t.m.regs = s.m.regs)) ∧
        (s.m.hazard c.f i = false → held = false →
          (swrBad s.m c i = true → traps 1) ∧
          (swrBad s.m c i = false → roleMay c.g.role (roleClass i) = false → traps 6) ∧
          (swrBad s.m c i = false → roleMay c.g.role (roleClass i) = true → effectful i = true → s.m.converged c = false → traps 7))))

/-- From every state whose partitions hold no core, channel, weight-store bank, way, key slot or virtual lane in common, a step gives a state of which the same holds. No instruction a fibre issues, and no event but PARTCFG, CTXCFG, KEY_SLOT_LOAD, an alarm, a soft error and a cold reset, changes the configuration. -/
def Obligations.PartitionsApart : Prop :=
  (∀ (s t : State), s.cfg.apart → step s = .next t → t.cfg.apart) ∧
    (∀ (i : Instr) (s t : State), exec i s = .next t → t.cfg ≠ s.cfg →
      (∃ q, i = .partcfg q ∨ i = .ctxcfg q) ∨ (∃ k p key, i = .keySlotLoad k p key) ∨ (∃ b, i = .alarmDetect b) ∨ (∃ e, i = .softError e) ∨
      ∃ f al dv lk o p b fi fu, i = .coldReset f al dv lk o p b fi fu)

/-- From every state whose package, weight-store and host memory, its keys, the scratchpads and the granules are in canonical form (addresses strictly rising, no entry equal to what an unlisted address reads as), a step gives a state of which the same holds: equal memories are equal data. -/
def Obligations.CanonicalKept : Prop :=
  ∀ (s t : State), s.m.canonical = true → step s = .next t → t.m.canonical = true

/-- Where IADD, ISUB, IMUL or IMAD issues, exec answers a next state in which D and the latch hold, in each lane of P, the exact integer result of the operands read as the saturation mode reads them, wrapped or saturated once; every other register, latch, group, fibre, flag and all memory are unchanged. -/
def Obligations.IntegerArithmetic : Prop :=
  ∀ (s : State) (c : Ctx),
    (∀ (md : Sat) (d : Dst) (a b : Src), Issues s (.iadd md d a b) c → Completes (exec (.iadd md d a b) s) (fun t => WritesWord s t c (.iadd md d a b) d (fun j => md.narrows (md.reads (s.m.src c a j) + md.reads (s.m.src c b j))) noFlags)) ∧
    (∀ (md : Sat) (d : Dst) (a b : Src), Issues s (.isub md d a b) c → Completes (exec (.isub md d a b) s) (fun t => WritesWord s t c (.isub md d a b) d (fun j => md.narrows (md.reads (s.m.src c a j) - md.reads (s.m.src c b j))) noFlags)) ∧
    (∀ (md : Sat) (d : Dst) (a b : Src), Issues s (.imul md d a b) c → Completes (exec (.imul md d a b) s) (fun t => WritesWord s t c (.imul md d a b) d (fun j => md.narrows (md.reads (s.m.src c a j) * md.reads (s.m.src c b j))) noFlags)) ∧
    (∀ (md : Sat) (d : Dst) (a b : Src), Issues s (.imad md d a b) c → Completes (exec (.imad md d a b) s) (fun t => WritesWord s t c (.imad md d a b) d (fun j => md.narrows (md.reads (s.m.src c a j) * md.reads (s.m.src c b j) + md.reads (s.m.addend c d j))) noFlags))

/-- Where IMULH, IMIN, IMAX, ISAD or IADD64 issues, exec answers a next state in which D and the latch hold, in each lane of P, the high word of the exact product, the lesser or greater operand, D plus the exact absolute difference, or the 64-bit sum of the pairs; all else is unchanged. -/
def Obligations.IntegerProductsAndOrder : Prop :=
  (∀ (s : State) (c : Ctx),
    (∀ (sg : Sgn) (d : Dst) (a b : Src), Issues s (.imulh sg d a b) c → Completes (exec (.imulh sg d a b) s) (fun t => WritesWord s t c (.imulh sg d a b) d (fun j => ((sg.widens (s.m.src c a j) * sg.widens (s.m.src c b j)) >>> 32).setWidth 32) noFlags)) ∧
    (∀ (sg : Sgn) (d : Dst) (a b : Src), Issues s (.imin sg d a b) c → Completes (exec (.imin sg d a b) s) (fun t => WritesWord s t c (.imin sg d a b) d (fun j => if sg.le (s.m.src c a j) (s.m.src c b j) then (s.m.src c a j) else (s.m.src c b j)) noFlags)) ∧
    (∀ (sg : Sgn) (d : Dst) (a b : Src), Issues s (.imax sg d a b) c → Completes (exec (.imax sg d a b) s) (fun t => WritesWord s t c (.imax sg d a b) d (fun j => if sg.le (s.m.src c a j) (s.m.src c b j) then (s.m.src c b j) else (s.m.src c a j)) noFlags)) ∧
    (∀ (sg : Sgn) (d : Dst) (a b : Src), Issues s (.isad sg d a b) c → Completes (exec (.isad sg d a b) s) (fun t => WritesWord s t c (.isad sg d a b) d (fun j => (s.m.addend c d j) + sg.away (s.m.src c a j) (s.m.src c b j)) noFlags)) ∧
    (∀ (d : Dst) (a b : Nat), Issues s (.iadd64 d a b) c → Completes (exec (.iadd64 d a b) s) (fun t => WritesPair s t c (.iadd64 d a b) d (fun j => s.m.v64 c a j + s.m.v64 c b j)))) ∧
  (∀ (d : Dst) (a b : Nat), (Instr.iadd64 d a b).wf = true ↔ (d.pairOk = true ∧ pairOk a = true ∧ pairOk b = true))

/-- Where AND, OR, XOR, ANDN, SHL, SHR, SAR, ROL, POPC, CLZ or BREV issues, exec answers a next state in which D and the latch hold, in each lane of P, the result R240 gives, a shift of 32 or more giving zero or the sign; all else is unchanged. Where BFX or BFI issues, exec answers a next state in which D and the latch hold the extracted field, sign- or zero-extended and zero when its length is 0, or D with the field replaced, the field being cut at bit 31; all else is unchanged. -/
def Obligations.LogicShiftsAndFields : Prop :=
  ((∀ (s : State) (c : Ctx),
    (∀ (d : Dst) (a b : Src), Issues s (.and d a b) c → Completes (exec (.and d a b) s) (fun t => WritesWord s t c (.and d a b) d (fun j => (s.m.src c a j) &&& (s.m.src c b j)) noFlags)) ∧
    (∀ (d : Dst) (a b : Src), Issues s (.or d a b) c → Completes (exec (.or d a b) s) (fun t => WritesWord s t c (.or d a b) d (fun j => (s.m.src c a j) ||| (s.m.src c b j)) noFlags)) ∧
    (∀ (d : Dst) (a b : Src), Issues s (.xor d a b) c → Completes (exec (.xor d a b) s) (fun t => WritesWord s t c (.xor d a b) d (fun j => (s.m.src c a j) ^^^ (s.m.src c b j)) noFlags)) ∧
    (∀ (d : Dst) (a b : Src), Issues s (.andn d a b) c → Completes (exec (.andn d a b) s) (fun t => WritesWord s t c (.andn d a b) d (fun j => (s.m.src c a j) &&& ~~~ (s.m.src c b j)) noFlags)) ∧
    (∀ (d : Dst) (a b : Src), Issues s (.shl d a b) c → Completes (exec (.shl d a b) s) (fun t => WritesWord s t c (.shl d a b) d (fun j => if (s.m.src c b j).toNat < 32 then (s.m.src c a j) <<< (s.m.src c b j).toNat else 0) noFlags)) ∧
    (∀ (d : Dst) (a b : Src), Issues s (.shr d a b) c → Completes (exec (.shr d a b) s) (fun t => WritesWord s t c (.shr d a b) d (fun j => if (s.m.src c b j).toNat < 32 then (s.m.src c a j) >>> (s.m.src c b j).toNat else 0) noFlags)) ∧
    (∀ (d : Dst) (a b : Src), Issues s (.sar d a b) c → Completes (exec (.sar d a b) s) (fun t => WritesWord s t c (.sar d a b) d (fun j => (s.m.src c a j).sshiftRight (s.m.src c b j).toNat) noFlags)) ∧
    (∀ (d : Dst) (a b : Src), Issues s (.rol d a b) c → Completes (exec (.rol d a b) s) (fun t => WritesWord s t c (.rol d a b) d (fun j => (s.m.src c a j).rotateLeft ((s.m.src c b j).toNat % 32)) noFlags)) ∧
    (∀ (d : Dst) (a : Src), Issues s (.popc d a) c → Completes (exec (.popc d a) s) (fun t => WritesWord s t c (.popc d a) d (fun j => BitVec.ofNat 32 ((List.range 32).countP (fun k => (s.m.src c a j).getLsbD k))) noFlags)) ∧
    (∀ (d : Dst) (a : Src), Issues s (.clz d a) c → Completes (exec (.clz d a) s) (fun t => WritesWord s t c (.clz d a) d (fun j => BitVec.ofNat 32 ((List.range 32).takeWhile (fun k => !(s.m.src c a j).getLsbD (31 - k))).length) noFlags)) ∧
    (∀ (d : Dst) (a : Src), Issues s (.brev d a) c → Completes (exec (.brev d a) s) (fun t => WritesWord s t c (.brev d a) d (fun j => (s.m.src c a j).reverse) noFlags))) ∧
  (∀ (s : State) (c : Ctx),
    (∀ (d : Dst) (a b : Src), Issues s (.bfx .u d a b) c → Completes (exec (.bfx .u d a b) s) (fun t => WritesWord s t c (.bfx .u d a b) d (fun j => fieldIn (s.m.src c a j) (s.m.src c b j)) noFlags)) ∧
    (∀ (d : Dst) (a b : Src), Issues s (.bfx .s d a b) c → Completes (exec (.bfx .s d a b) s) (fun t => WritesWord s t c (.bfx .s d a b) d (fun j => if lenOf (s.m.src c b j) = 0 then 0 else ((fieldIn (s.m.src c a j) (s.m.src c b j)) <<< (32 - lenOf (s.m.src c b j))).sshiftRight (32 - lenOf (s.m.src c b j))) noFlags)) ∧
    (∀ (d : Dst) (a b : Src), Issues s (.bfi d a b) c → Completes (exec (.bfi d a b) s) (fun t => WritesWord s t c (.bfi d a b) d (fun j => ((s.m.addend c d j) &&& ~~~ maskAt (s.m.src c b j)) ||| (((s.m.src c a j) <<< posOf (s.m.src c b j)) &&& maskAt (s.m.src c b j))) noFlags)))) ∧
  (decodeTableWord 32 0x08004103 = some (.and (.v 1) (.v 2) (.v 3))) ∧
    (decodeTableWord 32 0x09004103 = some (.or (.v 1) (.v 2) (.v 3))) ∧
    (decodeTableWord 32 0x0A004103 = some (.xor (.v 1) (.v 2) (.v 3))) ∧
    (decodeTableWord 32 0x0B004103 = some (.andn (.v 1) (.v 2) (.v 3))) ∧
    (decodeTableWord 32 0x0C004103 = some (.shl (.v 1) (.v 2) (.v 3))) ∧
    (decodeTableWord 32 0x0D004103 = some (.shr (.v 1) (.v 2) (.v 3))) ∧
    (decodeTableWord 32 0x0E004103 = some (.sar (.v 1) (.v 2) (.v 3))) ∧
    (decodeTableWord 32 0x0F004103 = some (.rol (.v 1) (.v 2) (.v 3))) ∧
    (decodeTableWord 32 0x14004103 = some (.bfi (.v 1) (.v 2) (.v 3))) ∧
    (decodeTableWord 32 0x10004100 = some (.popc (.v 1) (.v 2))) ∧
    (decodeTableWord 32 0x11004100 = some (.clz (.v 1) (.v 2))) ∧
    (decodeTableWord 32 0x12004100 = some (.brev (.v 1) (.v 2))) ∧
    (decodeTableWord 32 0x13004103 = some (.bfx .s (.v 1) (.v 2) (.v 3))) ∧
    (∀ w, w < 2 ^ 32 → (8 ≤ w / 2 ^ 24 ∧ w / 2 ^ 24 ≤ 0x12 ∨ w / 2 ^ 24 = 0x14) → w / 2 ^ 22 % 4 ≠ 0 → decodeTableWord 32 w = none) ∧
    (∀ w, w < 2 ^ 32 → 0x10 ≤ w / 2 ^ 24 → w / 2 ^ 24 ≤ 0x12 → w % 128 ≠ 0 → decodeTableWord 32 w = none)

/-- Where ICMP or ICMPU issues, exec answers a next state in which the condition register D holds, in each lane of P, whether the signed or unsigned relation holds, the latch 1 or 0, and no register, no other condition register and nothing else has changed. -/
def Obligations.Comparisons : Prop :=
  (∀ (s : State) (c : Ctx),
    (∀ (d : Dst) (a b : Src), Issues s (.icmp .eq d a b) c → Completes (exec (.icmp .eq d a b) s) (fun t => WritesCond s t c (.icmp .eq d a b) d (fun j => (s.m.src c a j) == (s.m.src c b j)) noFlags)) ∧
    (∀ (d : Dst) (a b : Src), Issues s (.icmp .ne d a b) c → Completes (exec (.icmp .ne d a b) s) (fun t => WritesCond s t c (.icmp .ne d a b) d (fun j => (s.m.src c a j) != (s.m.src c b j)) noFlags)) ∧
    (∀ (d : Dst) (a b : Src), Issues s (.icmp .lt d a b) c → Completes (exec (.icmp .lt d a b) s) (fun t => WritesCond s t c (.icmp .lt d a b) d (fun j => (s.m.src c a j).slt (s.m.src c b j)) noFlags)) ∧
    (∀ (d : Dst) (a b : Src), Issues s (.icmp .le d a b) c → Completes (exec (.icmp .le d a b) s) (fun t => WritesCond s t c (.icmp .le d a b) d (fun j => (s.m.src c a j).sle (s.m.src c b j)) noFlags)) ∧
    (∀ (d : Dst) (a b : Src), Issues s (.icmpu .lt d a b) c → Completes (exec (.icmpu .lt d a b) s) (fun t => WritesCond s t c (.icmpu .lt d a b) d (fun j => (s.m.src c a j).ult (s.m.src c b j)) noFlags)) ∧
    (∀ (d : Dst) (a b : Src), Issues s (.icmpu .le d a b) c → Completes (exec (.icmpu .le d a b) s) (fun t => WritesCond s t c (.icmpu .le d a b) d (fun j => (s.m.src c a j).ule (s.m.src c b j)) noFlags))) ∧
  (decodeTableWord 32 0x15004103 = some (.icmp .eq (.v 1) (.v 2) (.v 3))) ∧
    (decodeTableWord 32 0x15404103 = some (.icmp .ne (.v 1) (.v 2) (.v 3))) ∧
    (decodeTableWord 32 0x15804103 = some (.icmp .lt (.v 1) (.v 2) (.v 3))) ∧
    (decodeTableWord 32 0x15C04103 = some (.icmp .le (.v 1) (.v 2) (.v 3))) ∧
    (decodeTableWord 32 0x16004103 = some (.icmpu .lt (.v 1) (.v 2) (.v 3))) ∧
    (decodeTableWord 32 0x16404103 = some (.icmpu .le (.v 1) (.v 2) (.v 3))) ∧
    (∀ w, w < 2 ^ 32 → w / 2 ^ 24 = 0x16 → 2 ≤ w / 2 ^ 22 % 4 → decodeTableWord 32 w = none) ∧
    (∀ w op d a b, w < 2 ^ 32 → (decodeTableWord 32 w = some (.icmp op (.v d) a b) → d < 8)) ∧
    (∀ w op d a b, w < 2 ^ 32 → (decodeTableWord 32 w = some (.icmpu op (.v d) a b) → d < 8))

/-- Where SEL or MOV issues, exec answers a next state in which D and the latch hold the operand the condition bit selects, the operand, the condition bit as a word, or, for MOV.toc, the condition register D holds whether the operand is not zero; all else is unchanged. -/
def Obligations.SelectionAndMoves : Prop :=
  (∀ (s : State) (c : Ctx),
    (∀ (k : Nat) (d : Dst) (a b : Src), Issues s (.sel k d a b) c → Completes (exec (.sel k d a b) s) (fun t => WritesWord s t c (.sel k d a b) d (fun j => if c.cond k j then (s.m.src c a j) else (s.m.src c b j)) noFlags)) ∧
    (∀ (d : Dst) (a : Src), Issues s (.mov .mov d a) c → Completes (exec (.mov .mov d a) s) (fun t => WritesWord s t c (.mov .mov d a) d (fun j => (s.m.src c a j)) noFlags)) ∧
    (∀ (d : Dst) (k : Nat), Issues s (.mov .fromc d (.v k)) c → Completes (exec (.mov .fromc d (.v k)) s) (fun t => WritesWord s t c (.mov .fromc d (.v k)) d (fun j => if c.cond k j then 1 else 0) noFlags)) ∧
    (∀ (d : Dst) (a : Src), Issues s (.mov .toc d a) c → Completes (exec (.mov .toc d a) s) (fun t => WritesCond s t c (.mov .toc d a) d (fun j => (s.m.src c a j) != 0) noFlags))) ∧
  (decodeTableWord 32 0x17004103 = some (.sel 0 (.v 1) (.v 2) (.v 3))) ∧
    (decodeTableWord 32 0x17404103 = some (.sel 1 (.v 1) (.v 2) (.v 3))) ∧
    (decodeTableWord 32 0x17804103 = some (.sel 2 (.v 1) (.v 2) (.v 3))) ∧
    (decodeTableWord 32 0x17C04103 = some (.sel 3 (.v 1) (.v 2) (.v 3))) ∧
    (decodeTableWord 32 0x1E004100 = some (.mov .mov (.v 1) (.v 2))) ∧
    (decodeTableWord 32 0x1E404100 = some (.mov .fromc (.v 1) (.v 2))) ∧
    (decodeTableWord 32 0x1E804100 = some (.mov .toc (.v 1) (.v 2))) ∧
    (∀ w, w < 2 ^ 32 → w / 2 ^ 24 = 0x1E → (w / 2 ^ 22 % 4 = 3 ∨ w % 128 ≠ 0) → decodeTableWord 32 w = none) ∧
    (∀ w d a, w < 2 ^ 32 → decodeTableWord 32 w = some (.mov .fromc d (.v a)) → a < 8) ∧
    (∀ w d a, w < 2 ^ 32 → decodeTableWord 32 w = some (.mov .toc (.v d) a) → d < 8)

/-- Where IADDI, ANDI, ORI, XORI or SHIFTI issues, exec answers a next state in which D and the latch hold the operand combined with the immediate modulo 2^32, or shifted by it; all else is unchanged. Where LIMM or ULIMM issues, exec answers a next state in which every lane of P of D and of the latch holds the literal, the pc is 8 bytes on, and all else is unchanged. -/
def Obligations.ImmediatesAndLiterals : Prop :=
  ((∀ (s : State) (c : Ctx),
    (∀ (d : Dst) (a : Src) (k : Int), Issues s (.iaddi d a k) c → Completes (exec (.iaddi d a k) s) (fun t => WritesWord s t c (.iaddi d a k) d (fun j => BitVec.ofInt 32 ((s.m.src c a j).toInt + k)) noFlags)) ∧
    (∀ (d : Dst) (a : Src) (k : Int), Issues s (.andi d a k) c → Completes (exec (.andi d a k) s) (fun t => WritesWord s t c (.andi d a k) d (fun j => (s.m.src c a j) &&& BitVec.ofInt 32 k) noFlags)) ∧
    (∀ (d : Dst) (a : Src) (k : Int), Issues s (.ori d a k) c → Completes (exec (.ori d a k) s) (fun t => WritesWord s t c (.ori d a k) d (fun j => (s.m.src c a j) ||| BitVec.ofInt 32 k) noFlags)) ∧
    (∀ (d : Dst) (a : Src) (k : Int), Issues s (.xori d a k) c → Completes (exec (.xori d a k) s) (fun t => WritesWord s t c (.xori d a k) d (fun j => (s.m.src c a j) ^^^ BitVec.ofInt 32 k) noFlags)) ∧
    (∀ (op : ShiftOp) (d : Dst) (a : Src) (n : Nat), n < 32 → Issues s (.shifti op d a n) c → Completes (exec (.shifti op d a n) s) (fun t => WritesWord s t c (.shifti op d a n) d (fun j => match op with | .shl => (s.m.src c a j) <<< n | .shr => (s.m.src c a j) >>> n | .sar => (s.m.src c a j).sshiftRight n | .rol => (s.m.src c a j).rotateLeft n) noFlags))) ∧
  (∀ (s : State) (c : Ctx),
    (∀ (d : Dst) (w : Word), Issues s (.limm d w) c → Completes (exec (.limm d w) s) (fun t => WritesWord s t c (.limm d w) d (fun _ => w) noFlags)) ∧
    (∀ (d : Dst) (w : Word), Issues s (.ulimm d w) c → Completes (exec (.ulimm d w) s) (fun t => WritesWord s t c (.ulimm d w) d (fun _ => w) noFlags)))) ∧
  (decodeTableWord 32 0x180105FD = some (.iaddi (.v 1) (.v 2) (-3))) ∧
    (decodeTableWord 32 0x190104FF = some (.andi (.v 1) (.v 2) 255)) ∧
    (decodeTableWord 32 0x1A010410 = some (.ori (.v 1) (.v 2) 16)) ∧
    (decodeTableWord 32 0x1B0105FF = some (.xori (.v 1) (.v 2) (-1))) ∧
    (decodeTableWord 32 0x1C01051F = some (.shifti .sar (.v 1) (.v 2) 31)) ∧
    (∀ w d a k, w < 2 ^ 32 → decodeTableWord 32 w = some (.iaddi d a k) → -256 ≤ k ∧ k ≤ 255) ∧
    (∀ w, w < 2 ^ 32 → w / 2 ^ 24 = 0x1C → w / 2 ^ 5 % 4 ≠ 0 → decodeTableWord 32 w = none) ∧
    (∀ w op d a n, w < 2 ^ 32 → decodeTableWord 32 w = some (.shifti op d a n) → n = w % 32 ∧ w / 2 ^ 7 % 4 = codeIn shiftTable op) ∧
    (∀ w, w < 2 ^ 32 → w / 2 ^ 24 = 0x1D → decodeTableWord 32 w = some (.reservedOpcode (BitVec.ofNat 32 w)))

/-- Where one of the floating-point arithmetic instructions issues, exec answers a next state in which D and the latch hold, in each lane of P, the element results (one FP32, or two 16-bit elements each rounded in its own format), and FPSTAT has the flags of every element of every lane ORed in once; all else is unchanged. -/
def Obligations.FloatArithmetic : Prop :=
  ∀ (s : State) (c : Ctx),
    (∀ (ty : FType) (d : Dst) (a b : Src), Issues s (.fadd ty d a b) c → Completes (exec (.fadd ty d a b) s) (fun t => WritesWord s t c (.fadd ty d a b) d (fun j => (elements ty (fun f x y _ => elAdd f false x y) (s.m.src c a j) (s.m.src c b j) 0).1) (fun j => (elements ty (fun f x y _ => elAdd f false x y) (s.m.src c a j) (s.m.src c b j) 0).2))) ∧
    (∀ (ty : FType) (d : Dst) (a b : Src), Issues s (.fsub ty d a b) c → Completes (exec (.fsub ty d a b) s) (fun t => WritesWord s t c (.fsub ty d a b) d (fun j => (elements ty (fun f x y _ => elAdd f true x y) (s.m.src c a j) (s.m.src c b j) 0).1) (fun j => (elements ty (fun f x y _ => elAdd f true x y) (s.m.src c a j) (s.m.src c b j) 0).2))) ∧
    (∀ (ty : FType) (d : Dst) (a b : Src), Issues s (.fmul ty d a b) c → Completes (exec (.fmul ty d a b) s) (fun t => WritesWord s t c (.fmul ty d a b) d (fun j => (elements ty (fun f x y _ => elMul f x y) (s.m.src c a j) (s.m.src c b j) 0).1) (fun j => (elements ty (fun f x y _ => elMul f x y) (s.m.src c a j) (s.m.src c b j) 0).2))) ∧
    (∀ (ty : FType) (d : Dst) (a b : Src), Issues s (.ffma ty d a b) c → Completes (exec (.ffma ty d a b) s) (fun t => WritesWord s t c (.ffma ty d a b) d (fun j => (elements ty (fun f x y z => elFma f false false x y z) (s.m.src c a j) (s.m.src c b j) (s.m.addend c d j)).1) (fun j => (elements ty (fun f x y z => elFma f false false x y z) (s.m.src c a j) (s.m.src c b j) (s.m.addend c d j)).2))) ∧
    (∀ (ty : FType) (d : Dst) (a b : Src), Issues s (.ffms ty d a b) c → Completes (exec (.ffms ty d a b) s) (fun t => WritesWord s t c (.ffms ty d a b) d (fun j => (elements ty (fun f x y z => elFma f false true x y z) (s.m.src c a j) (s.m.src c b j) (s.m.addend c d j)).1) (fun j => (elements ty (fun f x y z => elFma f false true x y z) (s.m.src c a j) (s.m.src c b j) (s.m.addend c d j)).2))) ∧
    (∀ (ty : FType) (d : Dst) (a b : Src), Issues s (.fnma ty d a b) c → Completes (exec (.fnma ty d a b) s) (fun t => WritesWord s t c (.fnma ty d a b) d (fun j => (elements ty (fun f x y z => elFma f true false x y z) (s.m.src c a j) (s.m.src c b j) (s.m.addend c d j)).1) (fun j => (elements ty (fun f x y z => elFma f true false x y z) (s.m.src c a j) (s.m.src c b j) (s.m.addend c d j)).2))) ∧
    (∀ (ty : FType) (d : Dst) (a b : Src), Issues s (.fmin ty d a b) c → Completes (exec (.fmin ty d a b) s) (fun t => WritesWord s t c (.fmin ty d a b) d (fun j => (elements ty (fun f x y _ => elMinMax f false x y) (s.m.src c a j) (s.m.src c b j) 0).1) (fun j => (elements ty (fun f x y _ => elMinMax f false x y) (s.m.src c a j) (s.m.src c b j) 0).2))) ∧
    (∀ (ty : FType) (d : Dst) (a b : Src), Issues s (.fmax ty d a b) c → Completes (exec (.fmax ty d a b) s) (fun t => WritesWord s t c (.fmax ty d a b) d (fun j => (elements ty (fun f x y _ => elMinMax f true x y) (s.m.src c a j) (s.m.src c b j) 0).1) (fun j => (elements ty (fun f x y _ => elMinMax f true x y) (s.m.src c a j) (s.m.src c b j) 0).2)))

/-- Where one of these issues, exec answers a next state in which D (for FCMP a condition register) and the latch hold each lane's result and FPSTAT the flags; CVT and CVTS through a format slot read the launch record's slot and the group's codebook; FSIGN changes no flag; all else is unchanged. -/
def Obligations.FloatComparesAndConversions : Prop :=
  ∀ (s : State) (c : Ctx),
    (∀ (ty : DotType) (d : Dst) (a b : Src), Issues s (.dot2 ty d a b) c → Completes (exec (.dot2 ty d a b) s) (fun t => WritesWord s t c (.dot2 ty d a b) d (fun j => (opDot2 ty (s.m.src c a j) (s.m.src c b j) (s.m.addend c d j)).1) (fun j => (opDot2 ty (s.m.src c a j) (s.m.src c b j) (s.m.addend c d j)).2))) ∧
    (∀ (op : FCmpOp) (d : Dst) (a b : Src), Issues s (.fcmp op d a b) c → Completes (exec (.fcmp op d a b) s) (fun t => WritesCond s t c (.fcmp op d a b) d (fun j => (opFcmp op (s.m.src c a j) (s.m.src c b j)).1) (fun j => (opFcmp op (s.m.src c a j) (s.m.src c b j)).2))) ∧
    (∀ (d : Dst) (a b : Src), Issues s (.fsign .abs d a b) c → Completes (exec (.fsign .abs d a b) s) (fun t => WritesWord s t c (.fsign .abs d a b) d (fun j => (s.m.src c a j) &&& 0x7FFFFFFF) noFlags)) ∧
    (∀ (d : Dst) (a b : Src), Issues s (.fsign .neg d a b) c → Completes (exec (.fsign .neg d a b) s) (fun t => WritesWord s t c (.fsign .neg d a b) d (fun j => (s.m.src c a j) ^^^ 0x80000000) noFlags)) ∧
    (∀ (d : Dst) (a b : Src), Issues s (.fsign .copysign d a b) c → Completes (exec (.fsign .copysign d a b) s) (fun t => WritesWord s t c (.fsign .copysign d a b) d (fun j => ((s.m.src c a j) &&& 0x7FFFFFFF) ||| ((s.m.src c b j) &&& 0x80000000)) noFlags)) ∧
    (∀ (d : Dst) (a b : Src), Issues s (.fsign .nabs d a b) c → Completes (exec (.fsign .nabs d a b) s) (fun t => WritesWord s t c (.fsign .nabs d a b) d (fun j => (s.m.src c a j) ||| 0x80000000) noFlags)) ∧
    (∀ (rm : RMode) (d : Dst) (a : Src) (k : Nat), Issues s (.cvt rm d a k) c → Completes (exec (.cvt rm d a k) s) (fun t => WritesWord s t c (.cvt rm d a k) d (fun j => (opCvt c.rc.fmts c.g.codebook false rm k (s.m.src c a j)).1) (fun j => (opCvt c.rc.fmts c.g.codebook false rm k (s.m.src c a j)).2))) ∧
    (∀ (rm : RMode) (d : Dst) (a : Src) (k : Nat), Issues s (.cvts rm d a k) c → Completes (exec (.cvts rm d a k) s) (fun t => WritesWord s t c (.cvts rm d a k) d (fun j => (opCvt c.rc.fmts c.g.codebook true rm k (s.m.src c a j)).1) (fun j => (opCvt c.rc.fmts c.g.codebook true rm k (s.m.src c a j)).2))) ∧
    (∀ (rm : RMode) (d : Dst) (a : Src), Issues s (.frnd rm d a) c → Completes (exec (.frnd rm d a) s) (fun t => WritesWord s t c (.frnd rm d a) d (fun j => (opFrnd rm (s.m.src c a j)).1) (fun j => (opFrnd rm (s.m.src c a j)).2))) ∧
    (∀ (d : Dst) (a b : Src), Issues s (.fscale d a b) c → Completes (exec (.fscale d a b) s) (fun t => WritesWord s t c (.fscale d a b) d (fun j => (opFscale (s.m.src c a j) (s.m.src c b j)).1) (fun j => (opFscale (s.m.src c a j) (s.m.src c b j)).2))) ∧
    (∀ (sl : XtrSel) (d : Dst) (a : Src), Issues s (.fxtr sl d a) c → Completes (exec (.fxtr sl d a) s) (fun t => WritesWord s t c (.fxtr sl d a) d (fun j => (opFxtr sl (s.m.src c a j)).1) (fun j => (opFxtr sl (s.m.src c a j)).2))) ∧
    (∀ (sl : PackSel) (d : Dst) (a b : Src), Issues s (.pack sl d a b) c → Completes (exec (.pack sl d a b) s) (fun t => WritesWord s t c (.pack sl d a b) d (fun j => (opPack sl (s.m.src c a j) (s.m.src c b j)).1) (fun j => (opPack sl (s.m.src c a j) (s.m.src c b j)).2))) ∧
    (∀ (sl : UnpkSel) (d : Dst) (a : Src) (h : Nat), Issues s (.unpk sl d a h) c → Completes (exec (.unpk sl d a h) s) (fun t => WritesWord s t c (.unpk sl d a h) d (fun j => (opUnpk sl h (s.m.src c a j)).1) (fun j => (opUnpk sl h (s.m.src c a j)).2))) ∧
    (∀ (d : Dst) (a : Src) (k : Nat), Issues s (.cbq d a k) c → Completes (exec (.cbq d a k) s) (fun t => WritesWord s t c (.cbq d a k) d (fun j => (opCbq c.g.codebook k (s.m.src c a j) (s.m.addend c d j)).1) (fun j => (opCbq c.g.codebook k (s.m.src c a j) (s.m.addend c d j)).2))) ∧
    (∀ (d : Dst) (a : Src) (k : Nat), Issues s (.cbx d a k) c → Completes (exec (.cbx d a k) s) (fun t => WritesWord s t c (.cbx d a k) d (fun j => (opCbx c.g.codebook k (s.m.src c a j)).1) (fun j => (opCbx c.g.codebook k (s.m.src c a j)).2)))

/-- Where a special function issues, exec answers a next state in which D and the latch hold its value of each lane of P and FPSTAT its flags; all else is unchanged. -/
def Obligations.SpecialFunctions : Prop :=
  ∀ (s : State) (c : Ctx),
    (∀ (d : Dst) (a : Src), Issues s (.rcp d a) c → Completes (exec (.rcp d a) s) (fun t => WritesWord s t c (.rcp d a) d (fun j => (opRcp (s.m.src c a j)).1) (fun j => (opRcp (s.m.src c a j)).2))) ∧
    (∀ (d : Dst) (a : Src), Issues s (.rsq d a) c → Completes (exec (.rsq d a) s) (fun t => WritesWord s t c (.rsq d a) d (fun j => (opRsq (s.m.src c a j)).1) (fun j => (opRsq (s.m.src c a j)).2))) ∧
    (∀ (d : Dst) (a : Src), Issues s (.sqrt d a) c → Completes (exec (.sqrt d a) s) (fun t => WritesWord s t c (.sqrt d a) d (fun j => (opSqrt (s.m.src c a j)).1) (fun j => (opSqrt (s.m.src c a j)).2))) ∧
    (∀ (d : Dst) (a : Src), Issues s (.ex2 d a) c → Completes (exec (.ex2 d a) s) (fun t => WritesWord s t c (.ex2 d a) d (fun j => (opEx2 (s.m.src c a j)).1) (fun j => (opEx2 (s.m.src c a j)).2))) ∧
    (∀ (d : Dst) (a : Src), Issues s (.lg2 d a) c → Completes (exec (.lg2 d a) s) (fun t => WritesWord s t c (.lg2 d a) d (fun j => (opLg2 (s.m.src c a j)).1) (fun j => (opLg2 (s.m.src c a j)).2))) ∧
    (∀ (d : Dst) (a : Src), Issues s (.sin d a) c → Completes (exec (.sin d a) s) (fun t => WritesWord s t c (.sin d a) d (fun j => (opSin (s.m.src c a j)).1) (fun j => (opSin (s.m.src c a j)).2))) ∧
    (∀ (d : Dst) (a : Src), Issues s (.cos d a) c → Completes (exec (.cos d a) s) (fun t => WritesWord s t c (.cos d a) d (fun j => (opCos (s.m.src c a j)).1) (fun j => (opCos (s.m.src c a j)).2))) ∧
    (∀ (d : Dst) (a : Src), Issues s (.tanh d a) c → Completes (exec (.tanh d a) s) (fun t => WritesWord s t c (.tanh d a) d (fun j => (opTanh (s.m.src c a j)).1) (fun j => (opTanh (s.m.src c a j)).2)))

/-- Where a lane-cross instruction issues, exec answers a next state in which each lane of P holds the result over the lanes of P in its section of 2^SECT lanes; all else is unchanged. -/
def Obligations.LaneCross : Prop :=
  ∀ (s : State) (c : Ctx),
    (∀ (mode : ShflMode) (d : Dst) (a b : Src), Issues s (.shfl mode d a b) c → Completes (exec (.shfl mode d a b) s) (fun t => WritesWord s t c (.shfl mode d a b) d (fun j => s.m.src c a (shflLane mode (2 ^ c.g.sect) j (s.m.src c b j).toNat)) noFlags)) ∧
    (∀ (d : Dst) (k : Nat), Issues s (.vote .any d k) c → Completes (exec (.vote .any d k) s) (fun t => WritesCond s t c (.vote .any d k) d (fun j => (c.mates j).any (fun x => c.cond k x)) noFlags)) ∧
    (∀ (d : Dst) (k : Nat), Issues s (.vote .all d k) c → Completes (exec (.vote .all d k) s) (fun t => WritesCond s t c (.vote .all d k) d (fun j => (c.mates j).all (fun x => c.cond k x)) noFlags)) ∧
    (∀ (d : Dst) (k : Nat), Issues s (.vote .eq d k) c → Completes (exec (.vote .eq d k) s) (fun t => WritesCond s t c (.vote .eq d k) d (fun j => (c.mates j).all (fun x => c.cond k x) || (c.mates j).all (fun x => !c.cond k x)) noFlags)) ∧
    (∀ (d : Dst) (k : Nat), Issues s (.vote .ballot d k) c → Completes (exec (.vote .ballot d k) s) (fun t => WritesWord s t c (.vote .ballot d k) d (fun j => maskOf ((c.mates j).filter (fun x => c.cond k x))) noFlags)) ∧
    (∀ (op : RedI) (d : Dst) (a : Src), Issues s (.sredi op d a) c → Completes (exec (.sredi op d a) s) (fun t => WritesWord s t c (.sredi op d a) d (fun j => redInt op ((c.mates j).map (s.m.src c a))) noFlags)) ∧
    (∀ (d : Dst) (a : Src), Issues s (.sredf .add d a) c → Completes (exec (.sredf .add d a) s) (fun t => WritesWord s t c (.sredf .add d a) d (fun j => (sumFloat ((c.mates j).map (s.m.src c a))).1) (fun j => (sumFloat ((c.mates j).map (s.m.src c a))).2))) ∧
    (∀ (d : Dst) (a : Src), Issues s (.sredf .min d a) c → Completes (exec (.sredf .min d a) s) (fun t => WritesWord s t c (.sredf .min d a) d (fun j => (minMaxFloat false ((c.mates j).map (s.m.src c a))).1) (fun j => (minMaxFloat false ((c.mates j).map (s.m.src c a))).2))) ∧
    (∀ (d : Dst) (a : Src), Issues s (.sredf .max d a) c → Completes (exec (.sredf .max d a) s) (fun t => WritesWord s t c (.sredf .max d a) d (fun j => (minMaxFloat true ((c.mates j).map (s.m.src c a))).1) (fun j => (minMaxFloat true ((c.mates j).map (s.m.src c a))).2))) ∧
    (∀ (x : Bool) (d : Dst) (a : Src), Issues s (.sscan .i32 x d a) c → Completes (exec (.sscan .i32 x d a) s) (fun t => WritesWord s t c (.sscan .i32 x d a) d (fun j => redInt .add (((c.mates j).filter (fun k => if x then decide (k < j) else decide (k ≤ j))).map (s.m.src c a))) noFlags)) ∧
    (∀ (x : Bool) (d : Dst) (a : Src), Issues s (.sscan .f32 x d a) c → Completes (exec (.sscan .f32 x d a) s) (fun t => WritesWord s t c (.sscan .f32 x d a) d (fun j => (sumFloat (((c.mates j).filter (fun k => if x then decide (k < j) else decide (k ≤ j))).map (s.m.src c a))).1) (fun j => (sumFloat (((c.mates j).filter (fun k => if x then decide (k < j) else decide (k ≤ j))).map (s.m.src c a))).2))) ∧
    (∀ (d : Dst) (a b : Src), Issues s (.prmt d a b) c → Completes (exec (.prmt d a b) s) (fun t => WritesWord s t c (.prmt d a b) d (fun j => opPrmt (s.m.src c a j) (s.m.src c b j) (s.m.addend c d j)) noFlags)) ∧
    (∀ (d : Dst) (a : Src), Issues s (.matchS .any d a) c → Completes (exec (.matchS .any d a) s) (fun t => WritesWord s t c (.matchS .any d a) d (fun j => maskOf ((c.mates j).filter (fun k => s.m.src c a k == (s.m.src c a j)))) noFlags)) ∧
    (∀ (d : Dst) (a : Src), Issues s (.matchS .all d a) c → Completes (exec (.matchS .all d a) s) (fun t => WritesWord s t c (.matchS .all d a) d (fun j => if (c.mates j).all (fun k => s.m.src c a k == (s.m.src c a j)) then maskOf (c.mates j) else 0) noFlags)) ∧
    (∀ (d : Dst) (k : Nat), Issues s (.firstl d k) c → Completes (exec (.firstl d k) s) (fun t => WritesWord s t c (.firstl d k) d (fun j => match (c.mates j).filter (fun x => c.cond k x) with | x :: _ => BitVec.ofNat 32 x | [] => 0xFFFFFFFF) noFlags))

/-- With DTE = 0, where a table-mean instruction issues (its table pair loaded, where it uses one), exec answers a next state in which each lane of P holds the entry, accumulated, merged or section-reduced triple, or the exit's mean, and FPSTAT has DOM added when a lane met a domain violation; all else is unchanged. -/
def Obligations.TableMeans : Prop :=
  ∀ (s : State) (c : Ctx) (pr : Pair),
    (∀ (md : EntryMod) (d : Dst) (a : Src), s.m.tmPair c = some pr → Issues s (.tment md d a) c → c.g.fpstat.getLsbD 8 = false → Completes (exec (.tment md d a) s) (fun t => WritesTriple s t c (.tment md d a) d (fun j => (match entry md c.g.tmshape pr (s.m.src c a j) with | some x => x | none => badEntry c.g.tmshape)) (fun j => (entry md c.g.tmshape pr (s.m.src c a j)).isNone))) ∧
    (∀ (md : EntryMod) (d : Dst) (a : Src), s.m.tmPair c = some pr → Issues s (.tmacc md d a) c → c.g.fpstat.getLsbD 8 = false → Completes (exec (.tmacc md d a) s) (fun t => WritesTriple s t c (.tmacc md d a) d (fun j => (merge c.g.tmshape (s.m.triple c (accReg d) j) (match entry md c.g.tmshape pr (s.m.src c a j) with | some x => x | none => badEntry c.g.tmshape)).1) (fun j => (entry md c.g.tmshape pr (s.m.src c a j)).isNone || (merge c.g.tmshape (s.m.triple c (accReg d) j) (match entry md c.g.tmshape pr (s.m.src c a j) with | some x => x | none => badEntry c.g.tmshape)).2))) ∧
    (∀ (d : Dst) (a b : Nat), Issues s (.tmmrg d a b) c → c.g.fpstat.getLsbD 8 = false → Completes (exec (.tmmrg d a b) s) (fun t => WritesTriple s t c (.tmmrg d a b) d (fun j => (merge c.g.tmshape (s.m.triple c a j) (s.m.triple c b j)).1) (fun j => (merge c.g.tmshape (s.m.triple c a j) (s.m.triple c b j)).2))) ∧
    (∀ (d : Dst) (a : Nat), Issues s (.tmsred d a) c → c.g.fpstat.getLsbD 8 = false → Completes (exec (.tmsred d a) s) (fun t => WritesTriple s t c (.tmsred d a) d (fun j => (mergeAll c.g.tmshape ((c.sect j).map (s.m.triple c a))).1) (fun j => (mergeAll c.g.tmshape ((c.sect j).map (s.m.triple c a))).2))) ∧
    (∀ (d : Dst) (a : Nat), s.m.tmPair c = some pr → Issues s (.tmexit d a) c → c.g.fpstat.getLsbD 8 = false → Completes (exec (.tmexit d a) s) (fun t => WritesWord s t c (.tmexit d a) d (fun j => (exitMean c.g.tmshape pr (s.m.triple c a j)).1) (fun j => (exitMean c.g.tmshape pr (s.m.triple c a j)).2.1)))

/-- Where a U-set scalar instruction (UADD to UADD64) issues, exec answers a next state in which every lane of P holds the one result that the V-set counterpart's lane function gives of the leader lane's operands; all else is unchanged. -/
def Obligations.ScalarWork : Prop :=
  ∀ (s : State) (c : Ctx),
    (∀ (md : Sat) (d : Dst) (a b : Src), Issues s (.uadd md d a b) c → Completes (exec (.uadd md d a b) s) (fun t => WritesWord s t c (.uadd md d a b) d (fun _ => opAdd md (s.m.srcL c a) (s.m.srcL c b)) noFlags)) ∧
    (∀ (md : Sat) (d : Dst) (a b : Src), Issues s (.usub md d a b) c → Completes (exec (.usub md d a b) s) (fun t => WritesWord s t c (.usub md d a b) d (fun _ => opSub md (s.m.srcL c a) (s.m.srcL c b)) noFlags)) ∧
    (∀ (md : Sat) (d : Dst) (a b : Src), Issues s (.umul md d a b) c → Completes (exec (.umul md d a b) s) (fun t => WritesWord s t c (.umul md d a b) d (fun _ => opMul md (s.m.srcL c a) (s.m.srcL c b)) noFlags)) ∧
    (∀ (md : Sat) (d : Dst) (a b : Src), Issues s (.umad md d a b) c → Completes (exec (.umad md d a b) s) (fun t => WritesWord s t c (.umad md d a b) d (fun _ => opMad md (s.m.srcL c a) (s.m.srcL c b) (s.m.addend c d c.leader)) noFlags)) ∧
    (∀ (sg : Sgn) (d : Dst) (a b : Src), Issues s (.umulh sg d a b) c → Completes (exec (.umulh sg d a b) s) (fun t => WritesWord s t c (.umulh sg d a b) d (fun _ => opMulh sg (s.m.srcL c a) (s.m.srcL c b)) noFlags)) ∧
    (∀ (sg : Sgn) (d : Dst) (a b : Src), Issues s (.umin sg d a b) c → Completes (exec (.umin sg d a b) s) (fun t => WritesWord s t c (.umin sg d a b) d (fun _ => opMin sg (s.m.srcL c a) (s.m.srcL c b)) noFlags)) ∧
    (∀ (sg : Sgn) (d : Dst) (a b : Src), Issues s (.umax sg d a b) c → Completes (exec (.umax sg d a b) s) (fun t => WritesWord s t c (.umax sg d a b) d (fun _ => opMax sg (s.m.srcL c a) (s.m.srcL c b)) noFlags)) ∧
    (∀ (d : Dst) (a b : Src), Issues s (.uand d a b) c → Completes (exec (.uand d a b) s) (fun t => WritesWord s t c (.uand d a b) d (fun _ => (s.m.srcL c a) &&& (s.m.srcL c b)) noFlags)) ∧
    (∀ (d : Dst) (a b : Src), Issues s (.uor d a b) c → Completes (exec (.uor d a b) s) (fun t => WritesWord s t c (.uor d a b) d (fun _ => (s.m.srcL c a) ||| (s.m.srcL c b)) noFlags)) ∧
    (∀ (d : Dst) (a b : Src), Issues s (.uxor d a b) c → Completes (exec (.uxor d a b) s) (fun t => WritesWord s t c (.uxor d a b) d (fun _ => (s.m.srcL c a) ^^^ (s.m.srcL c b)) noFlags)) ∧
    (∀ (d : Dst) (a b : Src), Issues s (.ushl d a b) c → Completes (exec (.ushl d a b) s) (fun t => WritesWord s t c (.ushl d a b) d (fun _ => opShift .shl (s.m.srcL c a) (s.m.srcL c b).toNat) noFlags)) ∧
    (∀ (d : Dst) (a b : Src), Issues s (.ushr d a b) c → Completes (exec (.ushr d a b) s) (fun t => WritesWord s t c (.ushr d a b) d (fun _ => opShift .shr (s.m.srcL c a) (s.m.srcL c b).toNat) noFlags)) ∧
    (∀ (d : Dst) (a b : Src), Issues s (.usar d a b) c → Completes (exec (.usar d a b) s) (fun t => WritesWord s t c (.usar d a b) d (fun _ => opShift .sar (s.m.srcL c a) (s.m.srcL c b).toNat) noFlags)) ∧
    (∀ (d : Dst) (a : Src), Issues s (.upopc d a) c → Completes (exec (.upopc d a) s) (fun t => WritesWord s t c (.upopc d a) d (fun _ => opPopc (s.m.srcL c a)) noFlags)) ∧
    (∀ (d : Dst) (a : Src), Issues s (.uclz d a) c → Completes (exec (.uclz d a) s) (fun t => WritesWord s t c (.uclz d a) d (fun _ => opClz (s.m.srcL c a)) noFlags)) ∧
    (∀ (op : CmpS) (d : Dst) (a b : Src), Issues s (.ucmp op d a b) c → Completes (exec (.ucmp op d a b) s) (fun t => WritesCond s t c (.ucmp op d a b) d (fun _ => opCmp op (s.m.srcL c a) (s.m.srcL c b)) noFlags)) ∧
    (∀ (op : CmpU) (d : Dst) (a b : Src), Issues s (.ucmpu op d a b) c → Completes (exec (.ucmpu op d a b) s) (fun t => WritesCond s t c (.ucmpu op d a b) d (fun _ => opCmpu op (s.m.srcL c a) (s.m.srcL c b)) noFlags)) ∧
    (∀ (k : Nat) (d : Dst) (a b : Src), Issues s (.usel k d a b) c → Completes (exec (.usel k d a b) s) (fun t => WritesWord s t c (.usel k d a b) d (fun _ => if c.cond k c.leader then (s.m.srcL c a) else (s.m.srcL c b)) noFlags)) ∧
    (∀ (d : Dst) (a : Src) (k : Int), Issues s (.uaddi d a k) c → Completes (exec (.uaddi d a k) s) (fun t => WritesWord s t c (.uaddi d a k) d (fun _ => (s.m.srcL c a) + BitVec.ofInt 32 k) noFlags)) ∧
    (∀ (d : Dst) (a : Src) (k : Int), Issues s (.uandi d a k) c → Completes (exec (.uandi d a k) s) (fun t => WritesWord s t c (.uandi d a k) d (fun _ => (s.m.srcL c a) &&& BitVec.ofInt 32 k) noFlags)) ∧
    (∀ (d : Dst) (a : Src) (k : Int), Issues s (.uori d a k) c → Completes (exec (.uori d a k) s) (fun t => WritesWord s t c (.uori d a k) d (fun _ => (s.m.srcL c a) ||| BitVec.ofInt 32 k) noFlags)) ∧
    (∀ (op : ShiftOp) (d : Dst) (a : Src) (n : Nat), Issues s (.ushifti op d a n) c → Completes (exec (.ushifti op d a n) s) (fun t => WritesWord s t c (.ushifti op d a n) d (fun _ => opShift op (s.m.srcL c a) n) noFlags)) ∧
    (∀ (d : Dst) (a : Src), Issues s (.umov .mov d a) c → Completes (exec (.umov .mov d a) s) (fun t => WritesWord s t c (.umov .mov d a) d (fun _ => (s.m.srcL c a)) noFlags)) ∧
    (∀ (d : Dst) (k : Nat), Issues s (.umov .fromc d (.v k)) c → Completes (exec (.umov .fromc d (.v k)) s) (fun t => WritesWord s t c (.umov .fromc d (.v k)) d (fun _ => if c.cond k c.leader then 1 else 0) noFlags)) ∧
    (∀ (d : Dst) (a : Src), Issues s (.umov .toc d a) c → Completes (exec (.umov .toc d a) s) (fun t => WritesCond s t c (.umov .toc d a) d (fun _ => (s.m.srcL c a) != 0) noFlags)) ∧
    (∀ (d : Dst) (a b : Nat), Issues s (.uadd64 d a b) c → Completes (exec (.uadd64 d a b) s) (fun t => WritesPair s t c (.uadd64 d a b) d (fun _ => s.m.v64 c a c.leader + s.m.v64 c b c.leader)))

/-- Where NOP, LPAD or YIELD issues, exec answers a next state in which the fibre is past it (YIELD ends its run), its latch reads zero in P, and every register, condition, flag, group, other fibre and all memory are unchanged. TRL ends the run and the fibre's next run awaits the named registers; it changes no register and no memory. HALT ends the group: no fibre of it and no outstanding result of it remains. -/
def Obligations.RunEnds : Prop :=
  (∀ (s : State) (c : Ctx),
    (Issues s (.nop) c → Completes (exec (.nop) s) (fun t => Issued s t c s.m (c.next (.nop)) c.g [] ∧ Latched t c s.m noFlags)) ∧
    (∀ (k : Nat), Issues s (.lpad k) c → Completes (exec (.lpad k) s) (fun t => Issued s t c s.m (c.next (.lpad k)) c.g [] ∧ Latched t c s.m noFlags)) ∧
    (Issues s (.yield) c → Completes (exec (.yield) s) (fun t => Issued s t c s.m (c.ended (c.after .yield)) c.g [] ∧ Latched t c s.m noFlags))) ∧
  (∀ (s : State) (c : Ctx),
    (∀ (all : Bool) (rs : List Nat), Issues s (.trl all rs) c → Completes (exec (.trl all rs) s) (fun t => t.m.regs = s.m.regs ∧ t.m.mem = s.m.mem ∧ t.m.scr = s.m.scr ∧
      t.m.fibre? c.f.ref = some { c.ended (c.f.pc + 4) with trl := some (if all then List.range 256 else rs.map (fun r => c.f.base + r)) })) ∧
    (Issues s .halt c → Completes (exec .halt s) (fun t => t.m.fibresOf c.f.ref.t c.f.ref.g = [] ∧
      (∀ o ∈ t.m.outst, (o.ref.t, o.ref.g) ≠ (c.f.ref.t, c.f.ref.g)) ∧ (t.m.group? c.f.ref.t c.f.ref.g).map (fun g => (g.ended, g.active, g.handler)) = some (true, false, false))))

/-- Where a uniform transfer issues (UBR.chk with lanes that agree, URET to a word boundary), exec answers a next state whose fibre goes on at the target, its run ended, or past it where it is not taken; UCALL leaves the return address in v2:3 of every lane of P, UDBNZ the decremented count in D; nothing else changes. -/
def Obligations.UniformTransfers : Prop :=
  ∀ (s : State) (c : Ctx),
    (∀ (k : Nat) (e x : Bool) (o : Int), (x = true → ∀ j ∈ c.lanes, c.cond k j = c.cond k c.leader) → Issues s (.ubr k e x o) c → Completes (exec (.ubr k e x o) s) (fun t => Issued s t c s.m (if c.cond k c.leader != e then c.ended (c.f.pc + BitVec.ofInt 64 (4 * o)) else c.next (.ubr k e x o)) c.g [] ∧ Latched t c s.m noFlags)) ∧
    (∀ (o : Int), Issues s (.ujmp o) c → Completes (exec (.ujmp o) s) (fun t => Issued s t c s.m (c.ended (c.f.pc + BitVec.ofInt 64 (4 * o))) c.g [] ∧ Latched t c s.m noFlags)) ∧
    (∀ (o : Int), Issues s (.ucall o) c → Completes (exec (.ucall o) s) (fun t => Issued s t c s.m (c.ended (c.f.pc + BitVec.ofInt 64 (4 * o))) c.g (pairWrites (.v 2) (c.lanes.map (fun j => (j, c.f.pc + 4)))) ∧ Latched t c s.m (fun _ => lo32 (c.f.pc + 4)))) ∧
    (∀ (a : Nat), (s.m.v64 c a c.leader).toNat % 4 = 0 → Issues s (.uret a) c → Completes (exec (.uret a) s) (fun t => Issued s t c s.m (c.ended (s.m.v64 c a c.leader)) c.g [] ∧ Latched t c s.m noFlags)) ∧
    (∀ (d : Dst) (o : Int), Issues s (.udbnz d o) c → Completes (exec (.udbnz d o) s) (fun t => Issued s t c s.m (if s.m.addend c d c.leader = 1 then c.next (.udbnz d o) else c.ended (c.f.pc + BitVec.ofInt 64 (4 * o))) c.g (dstWrites d (c.lanes.map (fun j => (j, s.m.addend c d c.leader - 1)))) ∧ Latched t c s.m (fun _ => s.m.addend c d c.leader - 1)))

/-- Where BR issues, exec answers a next state in which the fibre is past it when no lane goes, is at the target with its run ended when all lanes go, and otherwise is past it with the lanes that stay, while a new fibre of the lanes that go begins a run at the target with the same window base; the child that holds the leader lane keeps the tokens. Where BRX, CALLX or RETX issues with one target on a word boundary in every lane of P, exec answers a next state whose fibre begins a run there; after BRX and CALLX the landing pad of the tag is due; CALLX leaves the return address in its link pair; nothing else changes. -/
def Obligations.LaneTransfers : Prop :=
  (∀ (s : State) (c : Ctx) (k : Nat) (e : Bool) (o : Int), Issues s (.br k e o) c →
    (maskOf (c.lanes.filter (fun j => c.cond k j != e)) = 0 → Completes (exec (.br k e o) s) (fun t => Issued s t c s.m (c.next (.br k e o)) c.g [])) ∧
    (maskOf (c.lanes.filter (fun j => c.cond k j != e)) ≠ 0 → maskOf (c.lanes.filter (fun j => c.cond k j != e)) = c.f.pred → Completes (exec (.br k e o) s) (fun t => Issued s t c s.m (c.ended (c.f.pc + BitVec.ofInt 64 (4 * o))) c.g [])) ∧
    (maskOf (c.lanes.filter (fun j => c.cond k j != e)) ≠ 0 → maskOf (c.lanes.filter (fun j => c.cond k j != e)) ≠ c.f.pred → s.m.fibre? ⟨c.f.ref.t, c.f.ref.g, s.m.fresh⟩ = none → Completes (exec (.br k e o) s) (fun t =>
      t.m.regs = s.m.regs ∧ t.m.mem = s.m.mem ∧ t.m.scr = s.m.scr ∧
      (t.m.fibre? c.f.ref).map (fun f => (f.pc, f.pred, f.base, f.toks)) =
        some (c.f.pc + 4, c.f.pred &&& ~~~ maskOf (c.lanes.filter (fun j => c.cond k j != e)), c.f.base, if (maskOf (c.lanes.filter (fun j => c.cond k j != e))).getLsbD c.leader then idleToks else c.f.toks) ∧
      (t.m.fibre? ⟨c.f.ref.t, c.f.ref.g, s.m.fresh⟩).map (fun f => (f.pc, f.pred, f.base, f.toks, f.run, f.pos)) =
        some (c.f.pc + BitVec.ofInt 64 (4 * o), maskOf (c.lanes.filter (fun j => c.cond k j != e)), c.f.base, if (maskOf (c.lanes.filter (fun j => c.cond k j != e))).getLsbD c.leader then c.f.toks else idleToks, false, 0)))) ∧
  (∀ (s : State) (c : Ctx) (x : DWord), c.lanes ≠ [] → x.toNat % 4 = 0 →
    (∀ (a k : Nat), (∀ j ∈ c.lanes, s.m.v64 c a j = x) → Issues s (.brx a k) c → Completes (exec (.brx a k) s) (fun t => Issued s t c s.m { c.ended x with lpad := some k } c.g [])) ∧
    (∀ (d a k : Nat), (∀ j ∈ c.lanes, s.m.v64 c a j = x) → Issues s (.callx d a k) c → Completes (exec (.callx d a k) s) (fun t => Issued s t c s.m { c.ended x with lpad := some k } c.g (pairWrites (.v d) (c.lanes.map (fun j => (j, c.f.pc + 4)))))) ∧
    (∀ (a : Nat), (∀ j ∈ c.lanes, s.m.v64 c a j = x) → Issues s (.retx a) c → Completes (exec (.retx a) s) (fun t => Issued s t c s.m { c.ended x with lpad := none } c.g [])))

/-- JOIN by lanes outside the mask passes; with a lane of the mask in a fibre of another window base it traps; while a live lane of the mask is elsewhere the fibre waits; else all that wait there and the fibre become one, with the union of their lanes and tokens and the sums of their depths. FORK of no lane passes; of some lanes it makes a fibre of them at their target with the window base they name, without tokens; of all lanes it moves them so and ends the fibre. FEND removes the fibre and its lanes from every join mask, which may complete a JOIN; the last fibre's ends the group. JMSET replaces a join mask, which may complete one. None changes a register, and none but the closing of windows changes memory, scratch, granules or buffered writes. -/
def Obligations.JoinsAndForks : Prop :=
  ∀ (s : State) (c : Ctx),
    let fs := s.m.fibresOf c.f.ref.t c.f.ref.g
    (∀ (j : Nat), (∀ f ∈ fs, f.base = c.f.base ∨ f.pred &&& c.g.joins.getD j 0 = 0) → c.f.pred &&& c.g.joins.getD j 0 = 0 → Issues s (.join j) c →
      Completes (exec (.join j) s) (fun t => Issued s t c s.m (c.ended (c.after (.join j))) c.g [])) ∧
    (∀ (j : Nat), s.m.fibresOf c.f.ref.t c.f.ref.g = [c.f] → c.f.pred &&& c.g.joins.getD j 0 ≠ 0 → Issues s (.join j) c →
      Completes (exec (.join j) s) (fun t => t.m.regs = s.m.regs ∧ SameStores t.m s.m ∧ t.m.fibre? c.f.ref = some { c.ended (c.f.pc + 4) with trl := none })) ∧
    (∀ (j : Nat), (∀ f ∈ fs, f.base = c.f.base ∨ f.pred &&& c.g.joins.getD j 0 = 0) → c.f.pred &&& c.g.joins.getD j 0 ≠ 0 → (fs.map Fibre.ref).Nodup →
      (∃ f ∈ fs, f.ref ≠ c.f.ref ∧ f.pred &&& c.g.joins.getD j 0 ≠ 0 ∧ (f.joining = false ∨ f.pc ≠ c.f.pc)) → Issues s (.join j) c →
      Completes (exec (.join j) s) (fun t => Waits t c (.join j) (.join j) ∧ t.m.regs = s.m.regs ∧ SameStores t.m s.m)) ∧
    (∀ (j : Nat), OneJoin s c j c.f.pc c.f.base (c.g.joins.getD j 0) → c.f.pred &&& c.g.joins.getD j 0 ≠ 0 → Issues s (.join j) c →
      Completes (exec (.join j) s) (fun t => Merged t c.f.ref.t c.f.ref.g (fs.filter (fun f => f.ref == c.f.ref || f.joining)) c.f.pc c.f.base ∧ OthersKept s t c ∧
        t.m.regs = s.m.regs ∧ SameStores t.m s.m ∧ (t.m.group? c.f.ref.t c.f.ref.g).map Group.joins = some c.g.joins)) ∧
    (∀ (j : Nat) (cr : CtxRec), CanTrap s c cr → gate s.m c (.join j) = .pass → (∃ f ∈ fs, f.base ≠ c.f.base ∧ f.pred &&& c.g.joins.getD j 0 ≠ 0) →
      Completes (exec (.join j) s) (fun t => Trapped s t c cr ⟨0x0A, 0, 0, c.f.pred, false, true⟩)) ∧
    (∀ (k a : Nat) (b : Src), c.g.handler = false → (∀ j ∈ c.lanes, c.cond k j = false) → Issues s (.fork k a b) c →
      Completes (exec (.fork k a b) s) (fun t => Issued s t c s.m (c.ended (c.after (.fork k a b))) c.g [])) ∧
    (∀ (k a l : Nat) (ls : List Nat) (b : Src), c.g.handler = false → c.lanes.filter (c.cond k) = l :: ls → maskOf (l :: ls) ≠ c.f.pred →
      (s.m.v64 c a l).toNat % 4 = 0 → s.m.fibre? ⟨c.f.ref.t, c.f.ref.g, s.m.fresh⟩ = none → Issues s (.fork k a b) c →
      Completes (exec (.fork k a b) s) (fun t => t.m.regs = s.m.regs ∧ SameStores t.m s.m ∧
        (t.m.fibre? c.f.ref).map (fun f => (f.pc, f.pred, f.base, f.toks)) = some (c.f.pc + 4, c.f.pred &&& ~~~ maskOf (l :: ls), c.f.base, c.f.toks) ∧
        (t.m.fibre? ⟨c.f.ref.t, c.f.ref.g, s.m.fresh⟩).map (fun f => (f.pc, f.pred, f.base, f.toks, f.run)) =
          some (s.m.v64 c a l, maskOf (l :: ls), (s.m.src c b l).toNat % 256, idleToks, false))) ∧
    (∀ (k a l : Nat) (ls : List Nat) (b : Src), c.g.handler = false → c.lanes.filter (c.cond k) = l :: ls → maskOf (l :: ls) = c.f.pred →
      (s.m.v64 c a l).toNat % 4 = 0 → s.m.fibre? ⟨c.f.ref.t, c.f.ref.g, s.m.fresh⟩ = none → (∀ f ∈ fs, f.joining = false) → (∀ d ∈ c.f.depths, d = 0) → Issues s (.fork k a b) c →
      Completes (exec (.fork k a b) s) (fun t => t.m.regs = s.m.regs ∧ SameStores t.m s.m ∧ t.m.fibre? c.f.ref = none ∧
        (t.m.fibre? ⟨c.f.ref.t, c.f.ref.g, s.m.fresh⟩).map (fun f => (f.pc, f.pred, f.base, f.toks, f.run)) =
          some (s.m.v64 c a l, c.f.pred, (s.m.src c b l).toNat % 256, idleToks, false))) ∧
    (∀ (k a l : Nat) (ls : List Nat) (b : Src) (cr : CtxRec), CanTrap s c cr → gate s.m c (.fork k a b) = .pass → c.lanes.filter (c.cond k) = l :: ls → (s.m.v64 c a l).toNat % 4 ≠ 0 →
      Completes (exec (.fork k a b) s) (fun t => Trapped s t c cr ⟨3, 0, 0, c.f.pred, false, true⟩)) ∧
    (∀ f ∈ fs, f.ref ≠ c.f.ref → (∀ x ∈ fs, x.wait = none) → c.g.handler = false →
      Issues s .fend c → Completes (exec .fend s) (fun t => t.m.regs = s.m.regs ∧ t.m.fibre? c.f.ref = none ∧ (t.m.fibre? f.ref).map Fibre.pred = (s.m.fibre? f.ref).map Fibre.pred ∧
        (t.m.group? c.f.ref.t c.f.ref.g).map Group.joins = some (c.g.joins.map (fun w => w &&& ~~~ c.f.pred)) ∧ ((∀ d ∈ c.f.depths, d = 0) → SameStores t.m s.m))) ∧
    (∀ (j : Nat) (pc : DWord) (base : Nat), s.m.joiners c ≠ [] → OneJoin s c j pc base ((c.g.joins.map (fun w => w &&& ~~~ c.f.pred)).getD j 0) → c.g.handler = false →
      Issues s .fend c → Completes (exec .fend s) (fun t => Merged t c.f.ref.t c.f.ref.g (s.m.joiners c) pc base ∧ OthersKept s t c ∧ t.m.fibre? c.f.ref = none ∧ t.m.regs = s.m.regs ∧
        (t.m.group? c.f.ref.t c.f.ref.g).map Group.joins = some (c.g.joins.map (fun w => w &&& ~~~ c.f.pred)) ∧ ((∀ d ∈ c.f.depths, d = 0) → SameStores t.m s.m))) ∧
    ((∀ f ∈ fs, f.ref = c.f.ref) → c.g.handler = false → Issues s .fend c → Completes (exec .fend s) (fun t => t.m.regs = s.m.regs ∧ t.m.fibresOf c.f.ref.t c.f.ref.g = [] ∧
      (t.m.group? c.f.ref.t c.f.ref.g).map (fun g => (g.ended, g.active, g.handler)) = some (true, false, false))) ∧
    (∀ (op : MaskOp) (j : Nat) (a : Src), Issues s (.jmset op j a) c →
      let v : Word := match op with
        | .ld => s.m.srcL c a
        | .or => c.g.joins.getD j 0 ||| s.m.srcL c a
        | .andn => c.g.joins.getD j 0 &&& ~~~ s.m.srcL c a
        | .fib => c.g.joins.getD j 0 ||| c.f.pred
      ((s.m.updGroup c.f.ref.t c.f.ref.g (fun g => { g with joins := modAt g.joins j (fun _ => v) })).noJoin c.f.ref.t c.f.ref.g →
        Completes (exec (.jmset op j a) s) (fun t => Issued s t c s.m (c.next (.jmset op j a)) { c.g with joins := modAt c.g.joins j (fun _ => v) } [] ∧
          Latched t c s.m (fun _ => v))) ∧
      (∀ (pc : DWord) (base : Nat), j < c.g.joins.length → c.f.pred &&& v = 0 → s.m.joiners c ≠ [] → OneJoin s c j pc base v →
        Completes (exec (.jmset op j a) s) (fun t => Merged t c.f.ref.t c.f.ref.g (s.m.joiners c) pc base ∧ OthersKept s t c ∧ t.m.fibre? c.f.ref = some (c.next (.jmset op j a)) ∧
          (t.m.group? c.f.ref.t c.f.ref.g).map Group.joins = some (modAt c.g.joins j (fun _ => v)) ∧ t.m.regs = s.m.regs ∧ SameStores t.m s.m)))

/-- In a group not in handler mode whose context has a handler and whose frame fits, an instruction whose checks raise a cause, a word with a reserved opcode (ILLEGAL), and TRAP each answer a next state in which the trap is taken: TRAPCAUSE and TRAPADDR are set, the group is in handler mode, the fibre stands at TVEC with no run, every other fibre of the group is suspended, and conditions, SECT, join masks and flags are unchanged. -/
def Obligations.TrapEntry : Prop :=
  ∀ (s : State) (c : Ctx) (cr : CtxRec), CanTrap s c cr →
    (∀ (i : Instr) (k : Nat), encode i ≠ [] → gate s.m c i = .trap k → Completes (exec i s) (fun t => Trapped s t c cr ⟨k, 0, 0, c.f.pred, false, true⟩)) ∧
    (∀ (w : Word), c.f.lpad = none → Completes (exec (.reservedOpcode w) s) (fun t => Trapped s t c cr ⟨1, 0, 0, c.f.pred, false, true⟩)) ∧
    (∀ (k : Nat), gate s.m c (.trap k) = .pass → Completes (exec (.trap k) s) (fun t => Trapped s t c cr ⟨0x13, 0, 0, c.f.pred, false, true⟩))

/-- Where ERET issues in a handler whose frame names its fibre and asks to continue (RESUME 0), exec answers a next state in which the group has left handler mode, its flags, shape code, table pair and conditions are those of the frame as read at its home, the fibre stands at the frame's PC within its run at the frame's position, with the latches of the frame, and no other fibre of the group is suspended. -/
def Obligations.TrapReturn : Prop :=
  ∀ (s : State) (c : Ctx) (cr : CtxRec), s.cfg.ctx? c.la.p c.la.x = some cr → Issues s .eret c → c.g.feKept = none →
    let fr := ((s.m.invalidate c.leaf 1).readHome c.leaf (.scr c.f.ref.t) (frameOff cr c.g.g) 1280 none).1
    natAt fr 0x008 4 = c.f.pred.toNat → nbits (natAt fr 0x00C 4) 7 0 = c.f.base → nbits (natAt fr 0x00C 4) 19 18 = 0 → natAt fr 0x000 8 % 4 = 0 →
    Completes (exec .eret s) (fun t =>
      (t.m.group? c.f.ref.t c.f.ref.g).map (fun g => (g.handler, g.fpstat, g.tmshape, g.tmpair, g.conds)) =
        some (false, BitVec.ofNat 32 (natAt fr 0x030 4) &&& 0x11F, natAt fr 0x034 1, natAt fr 0x035 1 % 8,
          (List.range 8).map (fun k => BitVec.ofNat 32 (natAt fr (0x038 + 4 * k) 4))) ∧
      (t.m.fibre? c.f.ref).map (fun f => (f.pc, f.pred, f.base, f.run, f.pos)) =
        some (BitVec.ofNat 64 (natAt fr 0x000 8), c.f.pred, c.f.base, true, nbits (natAt fr 0x00C 4) 12 8) ∧
      (smWf 0 s.m.lats = true → ∀ k < 8, ∀ j ∈ c.lanes,
        smGet 0 t.m.lats (latKey c.f.ref.t c.f.ref.g k j) = BitVec.ofNat 32 (natAt fr (0x100 + 128 * k + 4 * j) 4)) ∧
      ∀ f ∈ t.m.fibresOf c.f.ref.t c.f.ref.g, f.ref ≠ c.f.ref → f.susp = false)

/-- The 1,280 bytes of a frame hold, little-endian, the PC at 0x000, the predicate word at 0x008, the window base, run position, ASYNC and RESTART at 0x00C, cause and sub-cause at 0x010, the address at 0x018, the failing lanes at 0x020, FPSTAT at 0x030 and the condition registers from 0x038. -/
def Obligations.TrapFrameLayout : Prop :=
  ∀ (m : Mach) (c : Ctx) (x : Trap), c.f.base < 256 → c.f.pos < 24 → x.cause < 256 → x.sub < 256 →
    let fr := trapFrame m c x
    fr.length = 1280 ∧ natAt fr 0x000 8 = c.f.pc.toNat ∧ natAt fr 0x008 4 = c.f.pred.toNat ∧ natAt fr 0x00C 1 = c.f.base ∧
      nbits (natAt fr 0x00C 4) 12 8 = c.f.pos ∧ nbit (natAt fr 0x00C 4) 13 = x.async ∧ nbit (natAt fr 0x00C 4) 14 = x.restart ∧
      natAt fr 0x010 1 = x.cause ∧ natAt fr 0x011 1 = x.sub ∧ natAt fr 0x018 8 = x.addr.toNat ∧ natAt fr 0x020 4 = x.fail.toNat ∧
      natAt fr 0x030 4 = c.g.fpstat.toNat ∧ ∀ k < 8, natAt fr (0x038 + 4 * k) 4 = (c.g.conds.getD k 0).toNat

/-- Where LD or LDS issues and every lane's access may be performed, exec answers a next state in which the lanes have read by their scope (plain, acquire or remote acquire), the results are outstanding to the destination and its latch, and nothing else changes; a plain load changes no byte of memory or scratch, no granule and no buffered write. Where bytes on another device are not known on its path, it asks the devices and waits, after its older writes to them. -/
def Obligations.MemoryLoads : Prop :=
  ∀ (s : State) (c : Ctx),
    (∀ (sz : Size) (sc : Scope) (d a : Nat) (off : Int) (ps : List (Req × Place)) (m : Mach), Issues s (.ld sz sc d a off) c → Placed s c false .read true (genReqs s.m c a off (sizeBytes sz)) ps m → Loads s c (.ld sz sc d a off) sz sc d ps m) ∧
    (∀ (sz : Size) (sc : Scope) (d : Nat) (a : Src) (off : Int) (ps : List (Req × Place)) (m : Mach), Issues s (.lds sz sc d a off) c → Placed s c true .read true (scrReqs s.m c a off (sizeBytes sz)) ps m → Loads s c (.lds sz sc d a off) sz sc d ps m)

/-- Where ST, STS or STFE issues and every lane's access may be performed, exec answers a next state in which each lane's bytes, in ascending lane order and after the drain of a release, have entered the path of the address the lane formed (a store to another device is posted; one of system scope waits for its answer); nothing else changes. After a plain STS or STFE every byte outside the stored bytes is seen by the group as before; after a plain ST every byte whose unit is buffered under one key is seen as on the machine with the D bits set. -/
def Obligations.MemoryStores : Prop :=
  ∀ (s : State) (c : Ctx),
    (∀ (sz : Size) (sc : Scope) (d : Src) (a : Nat) (off : Int) (ps : List (Req × Place)) (m : Mach), Issues s (.st sz sc d a off) c → Placed s c false .write false (genReqs s.m c a off (sizeBytes sz)) ps m → Stores s c (.st sz sc d a off) sc .plain (storeBytes s.m c sz d) ps m) ∧
    (∀ (sz : Size) (sc : Scope) (d a : Src) (off : Int) (ps : List (Req × Place)) (m : Mach), Issues s (.sts sz sc d a off) c → Placed s c true .write false (scrReqs s.m c a off (sizeBytes sz)) ps m → Stores s c (.sts sz sc d a off) sc .plain (storeBytes s.m c sz d) ps m) ∧
    (∀ (sz : Size) (sc : Scope) (d a : Src) (off : Int) (ps : List (Req × Place)) (m : Mach), Issues s (.stfe sz sc d a off) c → Placed s c true .write false (scrReqs s.m c a off (sizeBytes sz)) ps m → Stores s c (.stfe sz sc d a off) sc .stfe (storeBytes s.m c sz d) ps m) ∧
    (∀ (sz : Size) (d : Src) (a : Nat) (off : Int) (ps : List (Req × Place)) (m : Mach) (t : State) (sp : Space) (x : Nat) (tag : Option KTag), Issues s (.st sz .plain d a off) c →
      Placed s c false .write false (genReqs s.m c a off (sizeBytes sz)) ps m → anyFab ps = false → exec (.st sz .plain d a off) s = .next t → m.oneKey sp x tag →
      (∀ p ∈ ps, (writeOf s.cfg c .plain 0 0 (storeBytes s.m c sz d p.1.lane) p.2).covers sp x = false) →
      t.m.seen c.leaf sp x tag = m.seen c.leaf sp x tag) ∧
    (∀ (sz : Size) (d a : Src) (off : Int) (ps : List (Req × Place)) (m : Mach) (t : State) (sp : Space) (x : Nat) (tag : Option KTag), Issues s (.sts sz .plain d a off) c →
      Placed s c true .write false (scrReqs s.m c a off (sizeBytes sz)) ps m → exec (.sts sz .plain d a off) s = .next t →
      (∀ p ∈ ps, (writeOf s.cfg c .plain 0 0 (storeBytes s.m c sz d p.1.lane) p.2).covers sp x = false) →
      t.m.seen c.leaf sp x tag = s.m.seen c.leaf sp x tag) ∧
    (∀ (sz : Size) (d a : Src) (off : Int) (ps : List (Req × Place)) (m : Mach) (t : State) (sp : Space) (x : Nat) (tag : Option KTag), Issues s (.stfe sz .plain d a off) c →
      Placed s c true .write false (scrReqs s.m c a off (sizeBytes sz)) ps m → exec (.stfe sz .plain d a off) s = .next t →
      (∀ p ∈ ps, (writeOf s.cfg c .stfe 0 0 (storeBytes s.m c sz d p.1.lane) p.2).covers sp x = false) →
      t.m.seen c.leaf sp x tag = s.m.seen c.leaf sp x tag)

/-- Where LDFE or LDFET issues and every lane's access may be performed, writes to its granules first leave the path. If every granule is then full, exec answers a next state in which the lanes' bytes, read at the home, are outstanding to the destination; LDFET has emptied every granule and LDFE none. Otherwise the fibre waits; no register and no granule changes. -/
def Obligations.FullEmptyLoads : Prop :=
  ∀ (s : State) (c : Ctx),
    (∀ (sz : Size) (sc : Scope) (d : Nat) (a : Src) (off : Int) (ps : List (Req × Place)) (m : Mach), Issues s (.ldfe sz sc d a off) c → Placed s c true .read true (scrReqs s.m c a off (sizeBytes sz)) ps m → let n := (m.before c.leaf c.la.p sc true false ps).pushGranules c.leaf (granules ps)
      let r := takeGranules n c sc false ps
      (n.allFull (granules ps) = true → Completes (exec (.ldfe sz sc d a off) s) (fun t => Late s t c (.ldfe sz sc d a off) r.2 (loadWrites sz d r.1) (lowWords r.1) ∧ t.m.scr = n.scr ∧ t.m.gran = n.gran)) ∧
      (n.allFull (granules ps) = false → Completes (exec (.ldfe sz sc d a off) s) (fun t => Waits t c (.ldfe sz sc d a off) .granule ∧ t.m.regs = s.m.regs ∧ t.m.gran = n.gran ∧ t.m.scr = n.scr))) ∧
    (∀ (sz : Size) (sc : Scope) (d : Nat) (a : Src) (off : Int) (ps : List (Req × Place)) (m : Mach), Issues s (.ldfet sz sc d a off) c → Placed s c true .write true (scrReqs s.m c a off (sizeBytes sz)) ps m → let n := (m.before c.leaf c.la.p sc true false ps).pushGranules c.leaf (granules ps)
      let r := takeGranules n c sc true ps
      (n.allFull (granules ps) = true → Completes (exec (.ldfet sz sc d a off) s) (fun t => Late s t c (.ldfet sz sc d a off) r.2 (loadWrites sz d r.1) (lowWords r.1) ∧ t.m.scr = n.scr ∧ (s.m.canonical = true → ∀ g ∈ granules ps, t.m.granule g.1 g.2 = (false, 0)))) ∧
      (n.allFull (granules ps) = false → Completes (exec (.ldfet sz sc d a off) s) (fun t => Waits t c (.ldfet sz sc d a off) .granule ∧ t.m.regs = s.m.regs ∧ t.m.gran = n.gran ∧ t.m.scr = n.scr)))

/-- Where ATOM or ATOMS issues and every lane's access may be performed, exec answers a next state in which the lanes' atomics have been performed at their homes one after another, each on the value the one before it left, between the drain and the invalidate of the scope, and the old values are outstanding to the destination; nothing else changes. One of system scope, and one to another device, first waits for the writes there to be answered; where lanes are on another device it asks, and waits: one device that holds all of them performs or refuses them together, and where they lie on several, each is asked for its checks first. -/
def Obligations.MemoryAtomics : Prop :=
  ∀ (s : State) (c : Ctx),
    (∀ (op : AtomOp) (sc : Scope) (dbl : Bool) (d a : Nat) (ps : List (Req × Place)) (m : Mach), Issues s (.atom op sc dbl d a) c → Placed s c false .atomic true (genReqs s.m c a 0 (if dbl then 8 else 4)) ps m → let ws := m.drainWids c sc ++ m.fabBefore c.leaf c.la.p true ps
      let n := m.before c.leaf c.la.p sc true true ps
      let r := atomLanes s.m c op sc dbl d n ps
      (ws ≠ [] → Drains s c (.atom op sc dbl d a) m ws) ∧
      (ws = [] → anyFab ps = false → Completes (exec (.atom op sc dbl d a) s) (fun t => Late s t c (.atom op sc dbl d a) (r.2.after c.leaf sc true) (loadWrites (if dbl then .d else .w) d r.1) (lowWords r.1))) ∧
      (ws = [] → anyFab ps = true → Asks s c (.atom op sc dbl d a) n ps (fun q => anyFab [q]) (fun q off => (off, .atom op dbl (atomOpnds s.m c op dbl d q.lane).1 (atomOpnds s.m c op dbl d q.lane).2))
        (if oneFar ps then .whole else .check) (sc == .core))) ∧
    (∀ (op : AtomOp) (sc : Scope) (dbl : Bool) (d : Nat) (a : Src) (ps : List (Req × Place)) (m : Mach), Issues s (.atoms op sc dbl d a) c → Placed s c true .atomic true (scrReqs s.m c a 0 (if dbl then 8 else 4)) ps m → let ws := m.drainWids c sc ++ m.fabBefore c.leaf c.la.p true ps
      let n := m.before c.leaf c.la.p sc true true ps
      let r := atomLanes s.m c op sc dbl d n ps
      (ws ≠ [] → Drains s c (.atoms op sc dbl d a) m ws) ∧
      (ws = [] → Completes (exec (.atoms op sc dbl d a) s) (fun t => Late s t c (.atoms op sc dbl d a) (r.2.after c.leaf sc true) (loadWrites (if dbl then .d else .w) d r.1) (lowWords r.1))))

/-- For words x (old) and b (operand): add, sub, signed and unsigned min and max (no write where the value stays), and, or, xor, exchange, compare-and-swap, inc and dec give the values of the table; an atomic on an unbuffered location of a scratchpad returns the bytes there and leaves there what its operation makes of them, other bytes unchanged. -/
def Obligations.AtomicValues : Prop :=
  (∀ (x b k : Word),
    let new (op : AtomOp) : Option Word := (atomNew op 32 k.toNat b.toNat x.toNat).map (BitVec.ofNat 32)
    new .add = some (x + b) ∧ new .sub = some (x - b) ∧ new .and = some (x &&& b) ∧ new .or = some (x ||| b) ∧ new .xor = some (x ^^^ b) ∧
    new .xchg = some b ∧ new .cas = (if x = k then some b else none) ∧
    new .min = (if x.sle b then none else some b) ∧ new .max = (if b.sle x then none else some b) ∧
    new .umin = (if x.ule b then none else some b) ∧ new .umax = (if b.ule x then none else some b) ∧
    new .inc = some (if b.ule x then 0 else x + 1) ∧ new .dec = some (if x = 0 ∨ b.ult x then b else x - 1)) ∧
  (∀ (m : Mach) (leaf : Point) (t a n : Nat) (sync : Bool) (f : List Byte → Option (List Byte)) (new : List Byte), m.canonical = true → m.bufs = [] → new.length = n →
    f (m.homeBytes (.scr t) a n none) = some new → a + n ≤ 2 ^ 20 →
    let r := m.atomic leaf (.scr t) a n none sync f
    r.1 = m.homeBytes (.scr t) a n none ∧ r.2.homeBytes (.scr t) a n none = new ∧ r.2.mem = m.mem ∧
      ∀ t' a', a' < 2 ^ 20 → t' ≠ t ∨ a' < a ∨ a + n ≤ a' → r.2.homeByte (.scr t') a' none = m.homeByte (.scr t') a' none)

/-- Where a memory instruction issues and some lane's access fails a check, exec answers a next state in which the trap of the lowest failing lane is taken, with its cause, sub-cause and address: the 1,280 bytes of the frame hold the run, its latches and all failing lanes, and no other byte, granule, buffered write of others, group or store changes. This holds of LD, ST, LDS, STS, LDFE, LDFET, STFE, ATOM and ATOMS; and of LD and ATOM where this device's own windows refuse an access. -/
def Obligations.AccessTraps : Prop :=
  ∀ (s : State) (c : Ctx) (cr : CtxRec), CanTrap s c cr →
    (∀ (sz : Size) (sc : Scope) (d a : Nat) (off : Int) (q : Req) (k : Nat × Nat) (rest : List (Req × Nat × Nat)), gate s.m c (.ld sz sc d a off) = .pass →
      s.m.misses c ((genReqs s.m c a off (sizeBytes sz)).map (reqTarget s.m c.tm false (Cls.writes .read))) = [] → badReqs s c false .read (genReqs s.m c a off (sizeBytes sz)) = (q, k) :: rest →
      Completes (exec (.ld sz sc d a off) s) (fun t => Trapped s t c cr ⟨k.1, k.2, BitVec.ofNat 64 q.rep, maskOf (((q, k) :: rest).map (fun x => x.1.lane)), false, true⟩)) ∧
    (∀ (sz : Size) (sc : Scope) (e : Src) (a : Nat) (off : Int) (q : Req) (k : Nat × Nat) (rest : List (Req × Nat × Nat)), gate s.m c (.st sz sc e a off) = .pass →
      s.m.misses c ((genReqs s.m c a off (sizeBytes sz)).map (reqTarget s.m c.tm false (Cls.writes .write))) = [] → badReqs s c false .write (genReqs s.m c a off (sizeBytes sz)) = (q, k) :: rest →
      Completes (exec (.st sz sc e a off) s) (fun t => Trapped s t c cr ⟨k.1, k.2, BitVec.ofNat 64 q.rep, maskOf (((q, k) :: rest).map (fun x => x.1.lane)), false, true⟩)) ∧
    (∀ (sz : Size) (sc : Scope) (d : Nat) (b : Src) (off : Int) (q : Req) (k : Nat × Nat) (rest : List (Req × Nat × Nat)), gate s.m c (.lds sz sc d b off) = .pass →
      s.m.misses c ((scrReqs s.m c b off (sizeBytes sz)).map (reqTarget s.m c.tm true (Cls.writes .read))) = [] → badReqs s c true .read (scrReqs s.m c b off (sizeBytes sz)) = (q, k) :: rest →
      Completes (exec (.lds sz sc d b off) s) (fun t => Trapped s t c cr ⟨k.1, k.2, BitVec.ofNat 64 q.rep, maskOf (((q, k) :: rest).map (fun x => x.1.lane)), false, true⟩)) ∧
    (∀ (sz : Size) (sc : Scope) (e b : Src) (off : Int) (q : Req) (k : Nat × Nat) (rest : List (Req × Nat × Nat)), gate s.m c (.sts sz sc e b off) = .pass →
      s.m.misses c ((scrReqs s.m c b off (sizeBytes sz)).map (reqTarget s.m c.tm true (Cls.writes .write))) = [] → badReqs s c true .write (scrReqs s.m c b off (sizeBytes sz)) = (q, k) :: rest →
      Completes (exec (.sts sz sc e b off) s) (fun t => Trapped s t c cr ⟨k.1, k.2, BitVec.ofNat 64 q.rep, maskOf (((q, k) :: rest).map (fun x => x.1.lane)), false, true⟩)) ∧
    (∀ (sz : Size) (sc : Scope) (d : Nat) (b : Src) (off : Int) (q : Req) (k : Nat × Nat) (rest : List (Req × Nat × Nat)), gate s.m c (.ldfe sz sc d b off) = .pass →
      s.m.misses c ((scrReqs s.m c b off (sizeBytes sz)).map (reqTarget s.m c.tm true (Cls.writes .read))) = [] → badReqs s c true .read (scrReqs s.m c b off (sizeBytes sz)) = (q, k) :: rest →
      Completes (exec (.ldfe sz sc d b off) s) (fun t => Trapped s t c cr ⟨k.1, k.2, BitVec.ofNat 64 q.rep, maskOf (((q, k) :: rest).map (fun x => x.1.lane)), false, true⟩)) ∧
    (∀ (sz : Size) (sc : Scope) (d : Nat) (b : Src) (off : Int) (q : Req) (k : Nat × Nat) (rest : List (Req × Nat × Nat)), gate s.m c (.ldfet sz sc d b off) = .pass →
      s.m.misses c ((scrReqs s.m c b off (sizeBytes sz)).map (reqTarget s.m c.tm true (Cls.writes .write))) = [] → badReqs s c true .write (scrReqs s.m c b off (sizeBytes sz)) = (q, k) :: rest →
      Completes (exec (.ldfet sz sc d b off) s) (fun t => Trapped s t c cr ⟨k.1, k.2, BitVec.ofNat 64 q.rep, maskOf (((q, k) :: rest).map (fun x => x.1.lane)), false, true⟩)) ∧
    (∀ (sz : Size) (sc : Scope) (e b : Src) (off : Int) (q : Req) (k : Nat × Nat) (rest : List (Req × Nat × Nat)), gate s.m c (.stfe sz sc e b off) = .pass →
      s.m.misses c ((scrReqs s.m c b off (sizeBytes sz)).map (reqTarget s.m c.tm true (Cls.writes .write))) = [] → badReqs s c true .write (scrReqs s.m c b off (sizeBytes sz)) = (q, k) :: rest →
      Completes (exec (.stfe sz sc e b off) s) (fun t => Trapped s t c cr ⟨k.1, k.2, BitVec.ofNat 64 q.rep, maskOf (((q, k) :: rest).map (fun x => x.1.lane)), false, true⟩)) ∧
    (∀ (op : AtomOp) (sc : Scope) (dbl : Bool) (d a : Nat) (q : Req) (k : Nat × Nat) (rest : List (Req × Nat × Nat)), gate s.m c (.atom op sc dbl d a) = .pass →
      s.m.misses c ((genReqs s.m c a 0 (if dbl then 8 else 4)).map (reqTarget s.m c.tm false (Cls.writes .atomic))) = [] → badReqs s c false .atomic (genReqs s.m c a 0 (if dbl then 8 else 4)) = (q, k) :: rest →
      Completes (exec (.atom op sc dbl d a) s) (fun t => Trapped s t c cr ⟨k.1, k.2, BitVec.ofNat 64 q.rep, maskOf (((q, k) :: rest).map (fun x => x.1.lane)), false, true⟩)) ∧
    (∀ (op : AtomOp) (sc : Scope) (dbl : Bool) (d : Nat) (b : Src) (q : Req) (k : Nat × Nat) (rest : List (Req × Nat × Nat)), gate s.m c (.atoms op sc dbl d b) = .pass →
      s.m.misses c ((scrReqs s.m c b 0 (if dbl then 8 else 4)).map (reqTarget s.m c.tm true (Cls.writes .atomic))) = [] → badReqs s c true .atomic (scrReqs s.m c b 0 (if dbl then 8 else 4)) = (q, k) :: rest →
      Completes (exec (.atoms op sc dbl d b) s) (fun t => Trapped s t c cr ⟨k.1, k.2, BitVec.ofNat 64 q.rep, maskOf (((q, k) :: rest).map (fun x => x.1.lane)), false, true⟩)) ∧
    (∀ (sz : Size) (sc : Scope) (d a : Nat) (off : Int) (q : Req) (k : Nat × Nat) (rest : List (Req × Nat × Nat)), gate s.m c (.ld sz sc d a off) = .pass →
      s.m.misses c ((genReqs s.m c a off (sizeBytes sz)).map (reqTarget s.m c.tm false (Cls.writes .read))) = [] → badReqs s c false .read (genReqs s.m c a off (sizeBytes sz)) = [] → failures (owned s c false .read true (genReqs s.m c a off (sizeBytes sz))).1 = (q, k) :: rest →
      Completes (exec (.ld sz sc d a off) s) (fun t => TrappedOn ((owned s c false .read true (genReqs s.m c a off (sizeBytes sz))).2.tick 1) s t c cr ⟨k.1, k.2, BitVec.ofNat 64 q.rep, maskOf (((q, k) :: rest).map (fun x => x.1.lane)), false, true⟩)) ∧
    (∀ (op : AtomOp) (sc : Scope) (dbl : Bool) (d a : Nat) (q : Req) (k : Nat × Nat) (rest : List (Req × Nat × Nat)), gate s.m c (.atom op sc dbl d a) = .pass →
      s.m.misses c ((genReqs s.m c a 0 (if dbl then 8 else 4)).map (reqTarget s.m c.tm false (Cls.writes .atomic))) = [] → badReqs s c false .atomic (genReqs s.m c a 0 (if dbl then 8 else 4)) = [] → failures (owned s c false .atomic true (genReqs s.m c a 0 (if dbl then 8 else 4))).1 = (q, k) :: rest →
      Completes (exec (.atom op sc dbl d a) s) (fun t => TrappedOn ((owned s c false .atomic true (genReqs s.m c a 0 (if dbl then 8 else 4))).2.tick 1) s t c cr ⟨k.1, k.2, BitVec.ofNat 64 q.rep, maskOf (((q, k) :: rest).map (fun x => x.1.lane)), false, true⟩))

/-- After a plain write by an agent, each byte of the write is what a plain read by the agent under the write's key returns, and every other byte, of every store, is returned as before under the key its unit is buffered under; where no point of an agent's path holds a byte, a plain read returns the home's. -/
def Obligations.PlainAccessOrder : Prop :=
  (∀ (m : Mach) (leaf : Point) (w : Write) (sp : Space) (a : Nat) (tag : Option KTag), Point.level leaf = 0 →
    (w.covers sp a = true → sameTag w.tag tag = true → (m.writePlain leaf w).seen leaf sp a tag = w.bytes.getD (a - w.addr) 0) ∧
    (w.covers sp a = false → m.oneKey sp a tag → (m.writePlain leaf w).seen leaf sp a tag = m.seen leaf sp a tag)) ∧
  (∀ (m : Mach) (leaf : Point) (sp : Space) (a : Nat) (tag : Option KTag),
    (∀ p ∈ m.path leaf sp, m.pointByte p sp a tag = none) → m.seen leaf sp a tag = m.homeByte sp a tag)

/-- After the drain of scope s no buffer of the agent's chain below P(s) holds a write, but for those to another device that have left the device point for it and await their answer; no copy has been made and no register changed. After the invalidate no copy stands at those points, and every other copy, and everything else, is as it was. A range drain leaves no write to its bytes there, and a range invalidate no copy of a unit or of a compressed block that meets them. -/
def Obligations.ReleaseAndAcquire : Prop :=
  ∀ (m : Mach) (leaf : Point) (s : Nat),
    let sent (n : Mach) (e : BufEnt) : Prop := isFab e.w.sp = true ∧ n.parent e.pt = .sys ∧ e.go ≠ .rests
    (∀ e ∈ (m.drain leaf s).bufs, e.pt ∈ m.below leaf s → sent m e) ∧ (m.drain leaf s).regs = m.regs ∧
    (∀ k ∈ (m.drain leaf s).copies, ∃ k' ∈ m.copies, (k.pt, k.sp, k.unit) = (k'.pt, k'.sp, k'.unit)) ∧
    (∀ k, k ∈ (m.invalidate leaf s).copies ↔ k ∈ m.copies ∧ k.pt ∉ m.below leaf s) ∧ (∀ b, b ∈ (m.invalidate leaf s).blocks ↔ b ∈ m.blocks ∧ b.pt ∉ m.below leaf s) ∧
    (m.invalidate leaf s).fabPend = m.fabPend.map (fun p => { p with inst := p.inst.filter (fun q => !(m.below leaf s).contains q) }) ∧
    ({ m.invalidate leaf s with copies := m.copies, blocks := m.blocks, fabPend := m.fabPend } : Mach) = m ∧
    (∀ e ∈ (m.fenceAt leaf s).bufs, e.pt ∈ m.below leaf s → sent m e) ∧ (∀ k ∈ (m.fenceAt leaf s).copies, k.pt ∉ m.below leaf s) ∧
    (∀ (sp : Space) (a n : Nat), (∀ e ∈ (m.drainRange leaf s sp a n).bufs, e.pt ∈ m.below leaf s → e.w.hits sp a n = true → sent m e) ∧
      (∀ k ∈ (m.dropRange (m.below leaf s) sp a n).copies, k.pt ∈ m.below leaf s → k.sp = sp → overlaps (k.unit * 16) 16 a n = false) ∧
      (∀ b ∈ (m.dropRange (m.below leaf s) sp a n).blocks, b.pt ∈ m.below leaf s → b.meets sp a n = false))

/-- From any state with no buffered writes: one agent writes data by a plain write, then a flag by a release write of scope s; a second agent with the same scope point reads the flag by an acquire of scope s, and after its invalidate reads the data by a plain read. It sees the flag, and then it sees every byte of the data, whatever copies stood anywhere. -/
def Obligations.MessagePassing : Prop :=
  ∀ (m : Mach) (x y : Point) (s : Nat) (d f : Write), m.canonical = true → m.bufs = [] → Point.level x = 0 → Point.level y = 0 → s ≤ 4 → m.scopePoint x s = m.scopePoint y s →
    d.inPlace → f.inPlace → f.bytes ≠ [] → (d.sp ≠ f.sp ∨ d.addr / 64 + 1 < f.addr / 64 ∨ f.addr / 64 + 1 < d.addr / 64) →
    (∀ t, d.sp = .scr t → d.bytes.length ≤ 64) → (∀ t, f.sp = .scr t → f.bytes.length ≤ 64) →
    let m1 := ((m.writePlain x d).drain x s).writeRel x s f
    let r := m1.readAcq y s f.sp f.addr f.bytes.length f.tag true
    r.1 = f.bytes ∧ ∀ a, d.covers d.sp a = true → (r.2.invalidate y s).seen y d.sp a d.tag = d.bytes.getD (a - d.addr) 0

/-- BARINIT sets the count (ten bits, 0 for 1,024) at once where no arrival has come and at the next phase otherwise. BARARR and BARARW drain to core scope and arrive; an arrival that does not complete the phase counts, and one that does begins the next phase with parity flipped and a deferred count taken, and every fibre waiting at the barrier departs. BARARR gives the parity before. BARWAIT passes with an acquire where the phase is over and waits otherwise; BARARW does both, its writes at core scope before it waits. -/
def Obligations.NamedBarriers : Prop :=
  ∀ (s : State) (c : Ctx),
    (∀ (b : Nat) (a : Src), Issues s (.barinit b a) c →
      let n := if (s.m.srcL c a).toNat % 1024 = 0 then 1024 else (s.m.srcL c a).toNat % 1024
      let x := c.tm.bar b
      Completes (exec (.barinit b a) s) (fun t => Does s t c (.barinit b a) (s.m.barNow c b (if x.arr = 0 then { x with count := n } else { x with deferred := some n })) c.g)) ∧
    (∀ (d : Dst) (b : Nat), Issues s (.bararr d b) c →
      let x := c.tm.bar b
      let p : Nat → Word := fun _ => if x.parity then 1 else 0
      (x.arr + 1 ≠ x.count → Completes (exec (.bararr d b) s) (fun t => LateWord s t c (.bararr d b) d ((s.m.drain c.leaf 1).barNow c b { x with arr := x.arr + 1 }) p)) ∧
      (x.arr + 1 = x.count → (∀ f ∈ s.m.fibres, f.atBar c.tm.t b = false) →
        Completes (exec (.bararr d b) s) (fun t => LateWord s t c (.bararr d b) d ((s.m.drain c.leaf 1).barNow c b ⟨x.deferred.getD x.count, 0, !x.parity, none⟩) p)) ∧
      (x.arr + 1 = x.count → Completes (exec (.bararr d b) s) (fun t => ∀ r f, s.m.fibre? r = some f → (ctxOf s.m r).isSome → f.atBar c.tm.t b = true →
        (t.m.fibre? r).map (fun f => f.wait) = some none)) ∧
      (x.arr + 1 = x.count → b < c.tm.bars.length → c.f.wait = none → Completes (exec (.bararr d b) s) (fun t => t.m.fibre? c.f.ref = some (c.next (.bararr d b)) ∧
        (t.m.team? c.tm.t).map (fun tm => tm.bar b) = some ⟨x.deferred.getD x.count, 0, !x.parity, none⟩))) ∧
    (∀ (b : Nat) (a : Src), Issues s (.barwait b a) c →
      let x := (s.m.srcL c a).getLsbD 0
      ((c.tm.bar b).parity ≠ x → Completes (exec (.barwait b a) s) (fun t => Does s t c (.barwait b a) (s.m.invalidate c.leaf 1) c.g)) ∧
      ((c.tm.bar b).parity = x → Completes (exec (.barwait b a) s) (fun t => Waits t c (.barwait b a) (.barrier b x) ∧ t.m.regs = s.m.regs ∧ t.m.teams = s.m.teams))) ∧
    (∀ (d : Dst) (b : Nat), b < c.tm.bars.length → Issues s (.bararw d b) c →
      let x := c.tm.bar b
      (x.arr + 1 ≠ x.count → Completes (exec (.bararw d b) s) (fun t => Waits t c (.bararw d b) (.barrier b x.parity) ∧ t.m.regs = s.m.regs ∧
        t.m.teams = (s.m.barNow c b { x with arr := x.arr + 1 }).teams ∧ SameStores t.m (s.m.drain c.leaf 1) ∧ t.m.widsAt (s.m.below c.leaf 1) = [])) ∧
      (x.arr + 1 = x.count → c.f.wait = none → Completes (exec (.bararw d b) s) (fun t => t.m.fibre? c.f.ref = some (c.next (.bararw d b)) ∧
        (t.m.team? c.tm.t).map (fun tm => tm.bar b) = some ⟨x.deferred.getD x.count, 0, !x.parity, none⟩ ∧
        ∀ r f, s.m.fibre? r = some f → (ctxOf s.m r).isSome → f.atBar c.tm.t b = true → (t.m.fibre? r).map (fun f => f.wait) = some none)) ∧
      (x.arr + 1 = x.count → (∀ f ∈ s.m.fibres, f.atBar c.tm.t b = false) → Completes (exec (.bararw d b) s) (fun t => LateWord s t c (.bararw d b) d
        (((s.m.drain c.leaf 1).barNow c b ⟨x.deferred.getD x.count, 0, !x.parity, none⟩).invalidate c.leaf 1) (fun _ => if x.parity then 1 else 0))))

/-- Where CLUBAR issues and some other awaited group has not arrived, exec answers a next state in which the group's arrival stands, its writes have left to cluster scope and the fibre waits. Where all others have arrived, the phase completes: the fibre is past the instruction, the phase number has risen and no arrival stands. Registers do not change. -/
def Obligations.ClusterBarriers : Prop :=
  ∀ (s : State) (c : Ctx) (all : Bool), Issues s (.clubar all) c → (all = false → dieOfCore c.tm.core < c.cl.barDie.length) →
    let die := dieOfCore c.tm.core
    let lv : Option Nat := if all then none else some die
    let b := if all then c.cl.barAll else c.cl.barDie.getD die ⟨[], 0⟩
    let now (t : State) : Option CluBar := (t.m.cluster? c.cl.c).map (fun cl => if all then cl.barAll else cl.barDie.getD die ⟨[], 0⟩)
    let due := (s.m.clubarGroups c.cl.c lv).filter (fun g => !b.arrived.contains g && g != (c.f.ref.t, c.f.ref.g))
    (due ≠ [] → Completes (exec (.clubar all) s) (fun t => Waits t c (.clubar all) (.clubar all b.phase) ∧ t.m.regs = s.m.regs ∧
      (now t).map (fun x => (x.phase, x.arrived.contains (c.f.ref.t, c.f.ref.g))) = some (b.phase, true) ∧
      (b.arrived.contains (c.f.ref.t, c.f.ref.g) = false → t.m.widsAt (s.m.below c.leaf 2) = []))) ∧
    (due = [] → Completes (exec (.clubar all) s) (fun t => t.m.fibre? c.f.ref = some (c.next (.clubar all)) ∧ t.m.regs = s.m.regs ∧
      now t = some ⟨[], b.phase + 1⟩))

/-- Where CWAIT or CWAITT issues and its word may be read: with the count at or above the target, exec answers a next state in which the value read is outstanding to the destination after the acquire of the scope; with a count below it, CWAIT waits, and CWAITT gives the value read where its bound has passed and waits otherwise. CINC adds to the word at its home and gives the old value; the addition is modulo 2^63, with bit 63 kept, and set by a carry. A word on another device is asked for, after older writes to it. -/
def Obligations.CountWords : Prop :=
  ∀ (s : State) (c : Ctx),
    (∀ (sc : CwScope) (d : Dst) (x b : Nat) (ps : List (Req × Place)) (m : Mach), Issues s (.cwait sc d x b) c → Placed s c false .read true (countReq s.m c x) ps m →
      (∀ q a va, ps = [(q, .here a va)] →
        let r := cwRead s.cfg m c a va
        (targetOf s.m c b ≤ r.1 % 2 ^ 63 → Completes (exec (.cwait sc d x b) s) (fun t => LatePair s t c (.cwait sc d x b) d (r.2.cwDone c.leaf (cwScope sc) a.sp a.addr) (BitVec.ofNat 64 r.1))) ∧
        (r.1 % 2 ^ 63 < targetOf s.m c b → Completes (exec (.cwait sc d x b) s) (fun t => Waits t c (.cwait sc d x b) (.count none a.leaf) ∧ t.m.regs = s.m.regs))) ∧
      (∀ q e o, ps = [(q, .fab e o)] → let ws := m.fabBefore c.leaf c.la.p true ps
        (ws ≠ [] → Drains s c (.cwait sc d x b) m ws) ∧ (ws = [] → Asks s c (.cwait sc d x b) m ps (fun q => anyFab [q]) (fun q off => (off, .read q.n)) .whole false))) ∧
    (∀ (sc : CwScope) (d : Dst) (x b : Nat) (ps : List (Req × Place)) (m : Mach), Issues s (.cwaitt sc d x b) c → Placed s c false .read true (countReq s.m c x) ps m →
      (∀ q a va, ps = [(q, .here a va)] →
        let r := cwRead s.cfg m c a va
        (targetOf s.m c b ≤ r.1 % 2 ^ 63 → Completes (exec (.cwaitt sc d x b) s) (fun t => LatePair s t c (.cwaitt sc d x b) d (r.2.cwDone c.leaf (cwScope sc) a.sp a.addr) (BitVec.ofNat 64 r.1))) ∧
        (r.1 % 2 ^ 63 < targetOf s.m c b → (s.m.v c (b + 2) c.leader).toNat ≤ c.f.fe.getD 0 → Completes (exec (.cwaitt sc d x b) s) (fun t => LatePair s t c (.cwaitt sc d x b) d r.2 (BitVec.ofNat 64 r.1))) ∧
        (r.1 % 2 ^ 63 < targetOf s.m c b → c.f.fe.getD 0 < (s.m.v c (b + 2) c.leader).toNat → Completes (exec (.cwaitt sc d x b) s) (fun t => Waits t c (.cwaitt sc d x b) (.count (some (s.m.v c (b + 2) c.leader).toNat) a.leaf) ∧ t.m.regs = s.m.regs))) ∧
      (∀ q e o, ps = [(q, .fab e o)] → let ws := m.fabBefore c.leaf c.la.p true ps
        (ws ≠ [] → Drains s c (.cwaitt sc d x b) m ws) ∧ (ws = [] → Asks s c (.cwaitt sc d x b) m ps (fun q => anyFab [q]) (fun q off => (off, .read q.n)) .whole false))) ∧
    (∀ (sc : CiScope) (d : Dst) (a : Nat) (b : Src) (ps : List (Req × Place)) (m : Mach), Issues s (.cinc sc d a b) c → Placed s c false .atomic true (countReq s.m c a) ps m →
      let n := m.before c.leaf c.la.p (ciScope sc) true true ps
      (∀ q ac va, ps = [(q, .here ac va)] →
        let r := n.atomHere c.leaf (ciScope sc) ac q.n (fun old => some (leBytes 8 (countAdd (leNat old) (s.m.srcL c b).toNat false)))
        Completes (exec (.cinc sc d a b) s) (fun t => LatePair s t c (.cinc sc d a b) d (r.2.after c.leaf (ciScope sc) true) (BitVec.ofNat 64 (leNat r.1)))) ∧
      (∀ q e o, ps = [(q, .fab e o)] → let ws := m.fabBefore c.leaf c.la.p true ps
        (ws ≠ [] → Drains s c (.cinc sc d a b) m ws) ∧ (ws = [] → Asks s c (.cinc sc d a b) n ps (fun q => anyFab [q]) (fun _ off => (off, .cinc (s.m.srcL c b).toNat)) .whole (sc == .core)))) ∧
    (∀ (old : DWord) (inc : Word), let new := countAdd old.toNat inc.toNat false
      new % 2 ^ 63 = (old.toNat + inc.toNat) % 2 ^ 63 ∧ (new ≥ 2 ^ 63 ↔ (old.getLsbD 63 = true ∨ 2 ^ 63 ≤ old.toNat % 2 ^ 63 + inc.toNat)) ∧ new < 2 ^ 64)

/-- Where FENCE issues, exec answers a next state in which its token is pending on the writes buffered below the scope (joined to those it had, with the wider scope, where it was pending); no write moves. FWAIT passes an idle token; a pending one whose writes have all left takes the invalidate of its scope and becomes idle; else the fibre waits. -/
def Obligations.Fences : Prop :=
  ∀ (s : State) (c : Ctx),
    (∀ (sc : Scope) (k : Nat), Issues s (.fence sc k) c →
      let ws := s.m.widsAt (s.m.below c.leaf (scopeLevel sc))
      Completes (exec (.fence sc k) s) (fun t => Issued s t c s.m { c.next (.fence sc k) with toks := modAt c.f.toks k (fun x =>
        if x.pend then ⟨true, x.wids ++ ws, max x.sc (scopeLevel sc)⟩ else ⟨true, ws, scopeLevel sc⟩) } c.g [] ∧ Latched t c s.m noFlags)) ∧
    (∀ (k : Nat), Issues s (.fwait k) c →
      let x := c.f.toks.getD k ⟨false, [], 0⟩
      let left := (s.m.widsAt (s.m.below c.leaf x.sc)).filter (fun w => x.wids.contains w)
      (x.pend = false → Completes (exec (.fwait k) s) (fun t => Does s t c (.fwait k) s.m c.g)) ∧
      (x.pend = true → left = [] → Completes (exec (.fwait k) s) (fun t => Issued s t c (s.m.invalidate c.leaf x.sc)
        { c.next (.fwait k) with toks := modAt c.f.toks k (fun _ => ⟨false, [], 0⟩) } c.g [] ∧ Latched t c s.m noFlags)) ∧
      (x.pend = true → left ≠ [] → Completes (exec (.fwait k) s) (fun t => Waits t c (.fwait k) (.token k) ∧ t.m.regs = s.m.regs ∧ t.m.bufs = s.m.bufs)))

/-- Where SRD issues, exec answers a next state in which the destination and the latch hold, in each lane of P, the lane number (LANEID), the group, cluster, core, die, device and partition numbers, SECT, the window base, the predicate, FPSTAT, TMSHAPE, TMPAIR, the cluster position, the refresh phase, the cycle counter (whose low word's read takes the snapshot CYCLEHI gives), the trap cause, the 64-bit trap address, or a region register; nothing else changes. Where SWR issues, exec answers a next state in which SECT, FPSTAT, TMSHAPE or TMPAIR of the group, or a region's threshold, holds the leader's value, and TMSHP sets TMSHAPE; nothing else changes. A value the register does not take makes the gate of SWR the cause ILLEGAL. -/
def Obligations.SpecialRegisters : Prop :=
  (∀ (s : State) (c : Ctx),
    (∀ (d : Dst), Issues s (.srd d 0x00) c → Completes (exec (.srd d 0x00) s) (fun t => WritesWord s t c (.srd d 0x00) d (fun j => BitVec.ofNat 32 j) noFlags)) ∧
    (∀ (d : Dst), Issues s (.srd d 0x01) c → Completes (exec (.srd d 0x01) s) (fun t => WritesWord s t c (.srd d 0x01) d (fun _ => BitVec.ofNat 32 c.g.g) noFlags)) ∧
    (∀ (d : Dst), Issues s (.srd d 0x02) c → Completes (exec (.srd d 0x02) s) (fun t => WritesWord s t c (.srd d 0x02) d (fun _ => BitVec.ofNat 32 c.cl.num) noFlags)) ∧
    (∀ (d : Dst), Issues s (.srd d 0x04) c → Completes (exec (.srd d 0x04) s) (fun t => WritesWord s t c (.srd d 0x04) d (fun _ => BitVec.ofNat 32 c.tm.core) noFlags)) ∧
    (∀ (d : Dst), Issues s (.srd d 0x05) c → Completes (exec (.srd d 0x05) s) (fun t => WritesWord s t c (.srd d 0x05) d (fun _ => BitVec.ofNat 32 (dieOfCore c.tm.core)) noFlags)) ∧
    (∀ (d : Dst), Issues s (.srd d 0x06) c → Completes (exec (.srd d 0x06) s) (fun t => WritesWord s t c (.srd d 0x06) d (fun _ => BitVec.ofNat 32 s.cfg.device.toNat) noFlags)) ∧
    (∀ (d : Dst), Issues s (.srd d 0x07) c → Completes (exec (.srd d 0x07) s) (fun t => WritesWord s t c (.srd d 0x07) d (fun _ => BitVec.ofNat 32 c.la.p) noFlags)) ∧
    (∀ (d : Dst), Issues s (.srd d 0x08) c → Completes (exec (.srd d 0x08) s) (fun t => WritesWord s t c (.srd d 0x08) d (fun _ => BitVec.ofNat 32 c.g.sect) noFlags)) ∧
    (∀ (d : Dst), Issues s (.srd d 0x09) c → Completes (exec (.srd d 0x09) s) (fun t => WritesWord s t c (.srd d 0x09) d (fun _ => BitVec.ofNat 32 c.f.base) noFlags)) ∧
    (∀ (d : Dst), Issues s (.srd d 0x0A) c → Completes (exec (.srd d 0x0A) s) (fun t => WritesWord s t c (.srd d 0x0A) d (fun _ => c.f.pred) noFlags)) ∧
    (∀ (d : Dst), Issues s (.srd d 0x0B) c → Completes (exec (.srd d 0x0B) s) (fun t => WritesWord s t c (.srd d 0x0B) d (fun _ => c.g.fpstat) noFlags)) ∧
    (∀ (d : Dst), Issues s (.srd d 0x0C) c → Completes (exec (.srd d 0x0C) s) (fun t => WritesWord s t c (.srd d 0x0C) d (fun _ => BitVec.ofNat 32 c.g.tmshape) noFlags)) ∧
    (∀ (d : Dst), Issues s (.srd d 0x0D) c → Completes (exec (.srd d 0x0D) s) (fun t => WritesWord s t c (.srd d 0x0D) d (fun _ => BitVec.ofNat 32 c.g.tmpair) noFlags)) ∧
    (∀ (d : Dst), Issues s (.srd d 0x10) c → Completes (exec (.srd d 0x10) s) (fun t => WritesWord s t c (.srd d 0x10) d (fun _ => BitVec.ofNat 32 (snapGet s.m.cycSnap c.la.p c.la.x 0)) noFlags)) ∧
    (∀ (d : Dst), Issues s (.srd d 0x11) c → Completes (exec (.srd d 0x11) s) (fun t => WritesWord s t c (.srd d 0x11) d (fun _ => c.g.trapCause) noFlags)) ∧
    (∀ (d : Dst), Issues s (.srd d 0x03) c → Completes (exec (.srd d 0x03) s) (fun t => WritesWord s t c (.srd d 0x03) d (fun _ => BitVec.ofNat 32 (clupos c)) noFlags)) ∧
    (∀ (d : Dst), Issues s (.srd d 0x0E) c → Completes (exec (.srd d 0x0E) s) (fun t => WritesWord s t c (.srd d 0x0E) d (fun _ => BitVec.ofNat 32 (s.m.wsphase (dieOfCore c.tm.core))) noFlags)) ∧
    (∀ (d : Dst), Issues s (.srd d 0x0F) c →
      let now := s.m.dieCyc (dieOfCore c.tm.core)
      Completes (exec (.srd d 0x0F) s) (fun t => NowWord s t c (.srd d 0x0F) d { s.m with cycSnap := snapPut s.m.cycSnap c.la.p c.la.x 0 (now / 2 ^ 32 % 2 ^ 32) } (fun _ => BitVec.ofNat 32 now))) ∧
    (∀ (d : Dst), Issues s (.srd d 0x12) c → Completes (exec (.srd d 0x12) s) (fun t => WritesPair s t c (.srd d 0x12) d (fun _ => c.g.trapAddr))) ∧
    (∀ (d : Dst) (n : Nat), 0x80 ≤ n → Issues s (.srd d n) c →
      let r := s.m.readRegionReg c.la.p c.la.x ((n - 0x80) / 8) (n % 8)
      Completes (exec (.srd d n) s) (fun t => NowWord s t c (.srd d n) d r.2 (fun _ => BitVec.ofNat 32 r.1)))) ∧
  (∀ (s : State) (c : Ctx),
    (∀ (a : Src), Issues s (.swr 0x08 a) c → Completes (exec (.swr 0x08 a) s) (fun t => Does s t c (.swr 0x08 a) s.m { c.g with sect := (s.m.srcL c a).toNat })) ∧
    (∀ (a : Src), Issues s (.swr 0x0B a) c → Completes (exec (.swr 0x0B a) s) (fun t => Does s t c (.swr 0x0B a) s.m { c.g with fpstat := s.m.srcL c a })) ∧
    (∀ (a : Src), Issues s (.swr 0x0C a) c → Completes (exec (.swr 0x0C a) s) (fun t => Does s t c (.swr 0x0C a) s.m { c.g with tmshape := (s.m.srcL c a).toNat })) ∧
    (∀ (a : Src), Issues s (.swr 0x0D a) c → Completes (exec (.swr 0x0D a) s) (fun t => Does s t c (.swr 0x0D a) s.m { c.g with tmpair := (s.m.srcL c a).toNat })) ∧
    (∀ (n : Nat) (a : Src), 0x98 ≤ n → n < 0xA8 → Issues s (.swr n a) c → Completes (exec (.swr n a) s) (fun t => Does s t c (.swr n a) (s.m.writeThr c.la.p c.la.x (n % 8) (decide (0xA0 ≤ n)) (s.m.srcL c a).toNat) c.g)) ∧
    (∀ (k : Nat), k < 256 → Issues s (.tmshp k) c → Completes (exec (.tmshp k) s) (fun t => Does s t c (.tmshp k) s.m { c.g with tmshape := k })) ∧
    (∀ (n : Nat) (a : Src), let v := s.m.srcL c a
      c.f.lpad = none → (windowRegs (.swr n a)).any (fun r => decide (c.rc.regs ≤ c.f.base + r)) = false →
      s.m.readsErr c (instrUse (.swr n a)).rd (instrUse (.swr n a)).lats = false → s.m.hazard c.f (.swr n a) = false →
      s.m.heldReg c (c.phys (instrUse (.swr n a)).wr) = false →
      (n = 8 ∧ (v = 0 ∨ 5 < v.toNat)) ∨ (n = 0xB ∧ v &&& 0xFFFFFEE0 ≠ 0) ∨ (n = 0xC ∧ 256 ≤ v.toNat) ∨ (n = 0xD ∧ 8 ≤ v.toNat) → gate s.m c (.swr n a) = .trap 1))

/-- Where CBLD issues with an aligned, readable block, exec answers a next state in which the group's codebook is the sixteen halfwords read. Where TMTAB issues for a pair the launch owns with an aligned, readable, well-formed image, the core's slot holds the image; a pair it does not own and a bad image take the trap TABLE, and a block that is not aligned ALIGN. A block on another device is asked for first. -/
def Obligations.CodebookAndTables : Prop :=
  ∀ (s : State) (c : Ctx),
    (∀ (a : Nat) (ps : List (Req × Place)) (m : Mach), (s.m.v64 c a c.leader).toNat % 32 = 0 → Issues s (.cbld a) c → Placed s c false .read true (blockReqs s.m c a 32 16) ps m →
      Reads s c (.cbld a) (.plain c.leaf) ps m (fun r => let bs := r.1.flatMap Prod.snd
        Completes (exec (.cbld a) s) (fun t => Does s t c (.cbld a) r.2 { c.g with codebook := (List.range 16).map (fun k => BitVec.ofNat 16 (natAt bs (2 * k) 2)) }))) ∧
    (∀ (a k : Nat) (ps : List (Req × Place)) (m : Mach), (s.m.v64 c a c.leader).toNat % 8 = 0 → nbit c.rc.pairmask (k - 1) = true → Issues s (.tmtab a k) c → Placed s c false .read true (blockReqs s.m c a 536 8) ps m →
      Reads s c (.tmtab a k) (.plain c.leaf) ps m (fun r => let bs := r.1.flatMap Prod.snd
        (pairOkImg bs = true → Completes (exec (.tmtab a k) s) (fun t => Does s t c (.tmtab a k) (r.2.setPair c.tm.core k bs) c.g)) ∧
        (pairOkImg bs = false → ∀ cr, CanTrap s c cr → Completes (exec (.tmtab a k) s) (fun t => TrappedOn (r.2.tick 1) s t c cr ⟨0x0E, 0, 0, c.f.pred, false, true⟩)))) ∧
    (∀ (a : Nat) (i : Instr) (n : Nat) (cr : CtxRec), (i = .cbld a ∧ n = 32) ∨ (∃ k, i = .tmtab a k ∧ n = 8 ∧ nbit c.rc.pairmask (k - 1) = true) → CanTrap s c cr → gate s.m c i = .pass →
      (s.m.v64 c a c.leader).toNat % n ≠ 0 → Completes (exec i s) (fun t => Trapped s t c cr ⟨3, 0, s.m.v64 c a c.leader, maskOf [c.leader], false, true⟩)) ∧
    (∀ (a k : Nat) (cr : CtxRec), CanTrap s c cr → gate s.m c (.tmtab a k) = .pass → nbit c.rc.pairmask (k - 1) = false →
      Completes (exec (.tmtab a k) s) (fun t => Trapped s t c cr ⟨0x0E, 0, 0, c.f.pred, false, true⟩))

/-- Where they issue, exec answers a next state: IPF fills the lines it names; IPIN fills and pins them, up to 128 a launch, and gives how many stand pinned; IUNPIN leaves none of them pinned by the launch; CWB drains or drops, by its form, the pieces of its range at its scope; PREF walks, lane by lane, for the translations that are not on hand and that pass their checks, brings their lines into the package cache unless it asks for the translation alone, and changes no register, latch, buffer, copy or scratchpad (nothing but the package cache and its counters where every translation is on hand, and nothing at all where it asks for the translation alone); TSTAT gives the engine context's report in four registers. Nothing else changes. -/
def Obligations.CachesAndReports : Prop :=
  ∀ (s : State) (c : Ctx),
    (∀ (a : Nat) (b : Src), Issues s (.ipf a b) c → Completes (exec (.ipf a b) s) (fun t => Does s t c (.ipf a b) ((namedLines s.m c a b).foldl (fun (m : Mach) l => (fillLine s.cfg m c l).2) s.m) c.g)) ∧
    (∀ (d : Dst) (a : Nat) (b : Src), Issues s (.ipin d a b) c →
      let step := fun (r : Nat × Mach) l => if (fillLine s.cfg r.2 c l).1 then (let y := pinLine (fillLine s.cfg r.2 c l).2 c l; (if y.1 then r.1 + 1 else r.1, y.2)) else (r.1, (fillLine s.cfg r.2 c l).2)
      let r := (namedLines s.m c a b).foldl step (0, s.m)
      Completes (exec (.ipin d a b) s) (fun t => NowWord s t c (.ipin d a b) d r.2 (fun _ => BitVec.ofNat 32 r.1) ∧ r.1 ≤ (namedLines s.m c a b).length)) ∧
    (∀ (a : Nat) (b : Src), Issues s (.iunpin a b) c → Completes (exec (.iunpin a b) s) (fun t => Does s t c (.iunpin a b) { s.m with icache := t.m.icache } c.g ∧
      (∀ e ∈ t.m.icache, e.core = c.tm.core → e.p = c.la.p → e.x = c.la.x → e.line ∈ namedLines s.m c a b → c.la.l ∉ e.pin) ∧
      t.m.icache.map (fun e => (e.core, e.p, e.x, e.line)) = s.m.icache.map (fun e => (e.core, e.p, e.x, e.line)))) ∧
    (∀ (form : CwbForm) (sc : Scope) (a : Nat) (b : Src), Issues s (.cwb form sc a b) c → Completes (exec (.cwb form sc a b) s) (fun t => Does s t c (.cwb form sc a b)
      ((cwbPieces (s.m.v64 c a c.leader).toNat (s.m.srcL c b).toNat).foldl (fun m pc => (cwbPlaces s.cfg m c pc.1 pc.2).foldl (fun m x => match form with
          | .wb => m.drainRange c.leaf (scopeLevel sc) x.1 x.2.1 x.2.2
          | .inv => m.dropRange (m.below c.leaf (scopeLevel sc)) x.1 x.2.1 x.2.2
          | .wbinv => (m.drainRange c.leaf (scopeLevel sc) x.1 x.2.1 x.2.2).dropRange (m.below c.leaf (scopeLevel sc)) x.1 x.2.1 x.2.2) m) s.m) c.g)) ∧
    (∀ (x : Bool) (a : Nat) (off : Int), Issues s (.pref x a off) c →
      let m := (genReqs s.m c a off 4).foldl (fun m q => prefLane s.cfg m c x q) s.m
      Completes (exec (.pref x a off) s) (fun t => Issued s t c m (c.next (.pref x a off)) c.g [] ∧ t.m.lats = s.m.lats ∧ t.m.outst = s.m.outst ∧
        m.regs = s.m.regs ∧ m.bufs = s.m.bufs ∧ m.scr = s.m.scr ∧ m.gran = s.m.gran ∧ m.copies = s.m.copies ∧ m.blocks = s.m.blocks ∧
        ((∀ q ∈ genReqs s.m c a off 4, ∀ va, reqTarget s.m c.tm false false q = .va va → (s.m.tlbGet (.core c.tm.core) c.la.p c.la.x (va / 65536)).isSome) →
          (x = true → m = s.m) ∧ ({ m with pcache := s.m.pcache, dev := { m.dev with ctrs := s.m.dev.ctrs } } : Mach) = s.m))) ∧
    (∀ (d : Nat) (k : EngCtx), Issues s (.tstat d k) c →
      let r := c.tm.reports.getD (ctxNum k) ⟨false, 0, 0, 0, 0⟩
      let ws : List Word := [BitVec.ofNat 32 (r.status + r.sub * 2 ^ 8 + (if r.valid then 2 ^ 31 else 0)), BitVec.ofNat 32 r.n, lo32 r.addr, hi32 r.addr]
      Completes (exec (.tstat d k) s) (fun t => Issued s t c s.m (c.next (.tstat d k)) c.g (c.lanes.flatMap (fun j => (List.range 4).map (fun n => (d + n, j, ws.getD n 0)))) ∧ Latched t c s.m (fun _ => ws.getD 0 0)))

/-- Where MMA, ACCZ or DRAIN issues (with an aligned readable block), the leader lane's writes leave to core scope and exec answers a next state in which the command, with its block, is the context's next operation and the fibre is past it; a full context makes the fibre wait. MMA traps WINDOW on a register of B it cannot name and waits for an outstanding one. A block that is not aligned takes the trap ALIGN. -/
def Obligations.MatrixCommands : Prop :=
  ∀ (s : State) (c : Ctx),
    (∀ (zs : Bool) (a : Src) (b k : Nat) (ps : List (Req × Place)) (m : Mach), BlockAt s c a 64 ps m →
      let r := leadRead s c m ps
      let rs := (mmaRegs c.rc (mmaBlk r.1) b).getD []
      let bad := rs.any (fun r => decide (119 < r) || decide (c.rc.regs ≤ c.f.base + r))
      let busy := (List.range 4).any (fun q => s.m.regBusy c.tm.t (4 * (mmaBlk r.1).quad + q) (c.phys rs))
      (bad = false → busy = false ∨ mmaRegs c.rc (mmaBlk r.1) b = none → Issues s (.mma zs a b k) c → Enters s c (.mma zs a b k) r.2 .matrix (.mma zs r.1 b k c.f.base c.g.codebook) ((s.m.srcL c a).setWidth 64)) ∧
      (bad = false → busy = true → mmaRegs c.rc (mmaBlk r.1) b ≠ none → Issues s (.mma zs a b k) c → Completes (exec (.mma zs a b k) s) (fun t => Waits t c (.mma zs a b k) .yield ∧ t.m.ops = m.ops)) ∧
      (∀ cr, bad = true → CanTrap s c cr → gate s.m c (.mma zs a b k) = .pass → Completes (exec (.mma zs a b k) s) (fun t => TrappedOn (r.2.tick 1) s t c cr ⟨2, 0, 0, c.f.pred, false, true⟩))) ∧
    (∀ (k : Nat), Issues s (.accz k) c → Enters s c (.accz k) (s.m.drain c.leaf 1) .matrix (.accz k) 0) ∧
    (∀ (col : Bool) (fl : DrainFlags) (a : Src) (k : Nat) (ps : List (Req × Place)) (m : Mach), Issues s (.drain col fl a k) c → BlockAt s c a 64 ps m →
      let r := leadRead s c m ps
      Enters s c (.drain col fl a k) r.2 .matrix (.drain col fl r.1 k) ((s.m.srcL c a).setWidth 64)) ∧
    (∀ (zs : Bool) (a : Src) (b k : Nat), BlockTraps s c (.mma zs a b k) a 64) ∧
    (∀ (col : Bool) (fl : DrainFlags) (a : Src) (k : Nat), BlockTraps s c (.drain col fl a k) a 64)

/-- Where PROLOG or RROT issues, its command is the copy context's next operation and the fibre is past it. Where TCOPY issues with an aligned readable block and readable records, sealed records make it the next operation and an unsealed one takes the trap SEAL; records on another device are asked for first. A full context makes the fibre wait; a block that is not aligned takes the trap ALIGN. -/
def Obligations.CopyCommands : Prop :=
  ∀ (s : State) (c : Ctx),
    (∀ (pack : Bool) (fl : CopyFlags) (a : Src) (ps qs : List (Req × Place)) (m n : Mach), Issues s (.tcopy pack fl a) c → BlockAt s c a 64 ps m →
      let b := leadRead s c m ps
      Placed { s with m := b.2 } c false .read true (recReqs c (natAt b.1 0 8) 128 ++ recReqs c (natAt b.1 8 8) 128) qs n →
      Reads s c (.tcopy pack fl a) (.plain c.leaf) qs n (fun x => let r := (x.1.flatMap Prod.snd, x.2)
        let sealed := isSealed (bytesAt r.1 0 128) && isSealed (bytesAt r.1 128 128)
        (sealed = true → Enters s c (.tcopy pack fl a) r.2 .copy (.tcopy pack fl b.1 (bytesAt r.1 0 128) (bytesAt r.1 128 128)) ((s.m.srcL c a).setWidth 64)) ∧
        (∀ cr, sealed = false → CanTrap s c cr → Completes (exec (.tcopy pack fl a) s) (fun t => TrappedOn (r.2.tick 1) s t c cr ⟨0x0C, 0, 0, c.f.pred, false, true⟩)))) ∧
    (∀ (k : Nat), Issues s (.prolog k) c → Enters s c (.prolog k) (s.m.drain c.leaf 1) .copy (.prolog k) 0) ∧
    (∀ (bwd : Bool) (x y : Src), Issues s (.rrot bwd x y) c → Enters s c (.rrot bwd x y) (s.m.drain c.leaf 1) .copy (.rrot bwd (s.m.srcL c x) (s.m.srcL c y)) 0) ∧
    (∀ (pack : Bool) (fl : CopyFlags) (a : Src), BlockTraps s c (.tcopy pack fl a) a 64)

/-- Where XPUT, XGET or XDISARM issues, its command, with the descriptor of its quads or the number of its arm, is the exchange context's next operation and the fibre is past it; so with XARM, TCOPY.coll (sealed records), XSORT and, in the decompression context, DCJOB, with an aligned readable block. A full context makes the fibre wait; an unsealed record takes the trap SEAL and a block that is not aligned ALIGN. -/
def Obligations.ExchangeCommands : Prop :=
  ∀ (s : State) (c : Ctx),
    (∀ (x y : Nat), Issues s (.xput x y) c → Enters s c (.xput x y) (s.m.drain c.leaf 1) .exch (.xput (quadBytes s.m c x y)) 0) ∧
    (∀ (x y : Nat), Issues s (.xget x y) c → Enters s c (.xget x y) (s.m.drain c.leaf 1) .exch (.xget (quadBytes s.m c x y)) 0) ∧
    (∀ (y : Src), Issues s (.xdisarm y) c → Enters s c (.xdisarm y) (s.m.drain c.leaf 1) .exch (.xdisarm (s.m.srcL c y).toNat) 0) ∧
    (∀ (a : Src) (y : Nat) (ps : List (Req × Place)) (m : Mach), Issues s (.xarm a y) c → BlockAt s c a 32 ps m →
      let r := leadRead s c m ps
      Enters s c (.xarm a y) r.2 .exch (.xarm r.1 (s.m.v64 c y c.leader) (BitVec.ofNat 64 ((s.m.v64 c (y + 2) c.leader).toNat % 2 ^ 63))) ((s.m.srcL c a).setWidth 64)) ∧
    (∀ (a : Src) (ps qs : List (Req × Place)) (m n : Mach), Issues s (.tcopyColl a) c → BlockAt s c a 64 ps m →
      let b := leadRead s c m ps
      Placed { s with m := b.2 } c false .read true (recReqs c (natAt b.1 0 8) 256 ++ recReqs c (natAt b.1 8 8) 128) qs n →
      Reads s c (.tcopyColl a) (.plain c.leaf) qs n (fun x => let r := (x.1.flatMap Prod.snd, x.2)
        let sealed := collSealed (bytesAt r.1 0 256) && isSealed (bytesAt r.1 256 128)
        (sealed = true → Enters s c (.tcopyColl a) r.2 .exch (.coll b.1 (bytesAt r.1 0 256) (bytesAt r.1 256 128)) ((s.m.srcL c a).setWidth 64)) ∧
        (∀ cr, sealed = false → CanTrap s c cr → Completes (exec (.tcopyColl a) s) (fun t => TrappedOn (r.2.tick 1) s t c cr ⟨0x0C, 0, 0, c.f.pred, false, true⟩)))) ∧
    (∀ (a : Src) (ps : List (Req × Place)) (m : Mach), Issues s (.xsort a) c → BlockAt s c a 64 ps m →
      let r := leadRead s c m ps
      Enters s c (.xsort a) r.2 .exch (.xsort r.1) ((s.m.srcL c a).setWidth 64)) ∧
    (∀ (arr : Bool) (a : Src) (ps : List (Req × Place)) (m : Mach), Issues s (.dcjob arr a) c → BlockAt s c a 64 ps m →
      let r := leadRead s c m ps
      Enters s c (.dcjob arr a) r.2 .dcmp (.dcjob arr r.1) ((s.m.srcL c a).setWidth 64)) ∧
    (∀ (a : Src) (y : Nat), BlockTraps s c (.xarm a y) a 32) ∧
    (∀ (a : Src), BlockTraps s c (.tcopyColl a) a 64) ∧
    (∀ (a : Src), BlockTraps s c (.xsort a) a 64) ∧
    (∀ (arr : Bool) (a : Src), BlockTraps s c (.dcjob arr a) a 64)

/-- Where RINV or RINVH issues with a good block, its arguments in it or read by indirection, and a free entry, exec answers a next state in which the handle of the lowest free entry is outstanding to the destination, the entry is PENDING and the invocation has been sent, after a release of system scope, to the target (RINV with a device), as its class resolves, or to the parent's home (RINVH); nothing else changes. While the release waits for writes to other devices what was read is kept. A bad block, a stale parent and a full table take the trap HANDLE, a block that is not aligned ALIGN; a parent of another home is asked for first. -/
def Obligations.InvocationIssue : Prop :=
  ∀ (s : State) (c : Ctx),
    (∀ (d : Dst) (a : Src) (ps : List (Req × Place)) (m n : Mach) (pt : Part) (bs args : List Byte), c.f.drained = false → (s.m.srcL c a).toNat % 16 = 0 → Placed s c true .read true (cmdReqs s.m c a 272) ps m →
      s.cfg.part? c.la.p = some pt → Issues s (.rinv d a) c →
      let r := leadRead s c m ps
      let k := invBlkOf r.1
      let x := natAt r.1 0x10 8
      (k.bad false x = true → HandleTraps s c (.rinv d a) r.2 6 0) ∧
      (k.bad false x = false → 
        ((k.indir && k.arglen != 0) = false ∧ n = r.2 ∧ bs = r.1 ∧ args = (if k.indir then [] else bytesAt r.1 0x10 k.arglen)) ∨
          ((k.indir && k.arglen != 0) = true ∧ ∃ qs q, Placed { s with m := r.2 } c false .read true (spanReqs c.leader x k.arglen x) qs q ∧ (args, n) = leadRead s c q qs ∧ bs = r.1 ++ args) →
        (tableOk pt = false ∨ n.freeEntry c.la.p = none → HandleTraps s c (.rinv d a) n 3 0) ∧
        (∀ idx, tableOk pt = true → n.freeEntry c.la.p = some idx → let ws := n.drainWids c .sys
          let y := (n.dropRead c.f.ref).drain c.leaf 4
          let h : Handle := ⟨s.cfg.device.toNat, idx, y.hgen c.la.p idx⟩
          let e := (y.newEntry s.cfg c idx).2
          let inv : Invocation := ⟨h, c.la.p, s.cfg.device.toNat, c.tm.t, k.func, args, none, []⟩
          (ws ≠ [] → Drains s c (.rinv d a) (n.keepRead c.f.ref bs).2 ws) ∧
          (ws = [] → Completes (exec (.rinv d a) s) (fun t => LatePair s t c (.rinv d a) d (resolveRinv s.cfg e pt k inv) (handleWord h) ∧
            (k.cls = false → t.m.net = y.net ++ [.invoke k.tgt inv] ∧ (t.m.hent? c.la.p idx).map (fun e => (e.gen, e.st, e.handle)) = some (h.gen, .pending, h))))))) ∧
    (∀ (d : Dst) (a : Src) (b : Nat) (p : Handle) (ps : List (Req × Place)) (m n : Mach) (pt : Part) (bs args : List Byte), c.f.drained = false → (s.m.srcL c a).toNat % 16 = 0 → Placed s c true .read true (cmdReqs s.m c a 272) ps m →
      s.cfg.part? c.la.p = some pt → Issues s (.rinvh d a b) c → handleOf (s.m.v64 c b c.leader).toNat = some p →
      let r := leadRead s c m ps
      let k := invBlkOf r.1
      let x := natAt r.1 0x10 8
      (k.bad true x = true → HandleTraps s c (.rinvh d a b) r.2 6 0) ∧
      (k.bad true x = false → p.home = s.cfg.device.toNat → homeEntry r.2 c.la.p p = none → HandleTraps s c (.rinvh d a b) r.2 2 0) ∧
      (k.bad true x = false → (p.home = s.cfg.device.toNat → (homeEntry r.2 c.la.p p).isSome) →
        ((k.indir && k.arglen != 0) = false ∧ n = r.2 ∧ bs = r.1 ∧ args = (if k.indir then [] else bytesAt r.1 0x10 k.arglen)) ∨
          ((k.indir && k.arglen != 0) = true ∧ ∃ qs q, Placed { s with m := r.2 } c false .read true (spanReqs c.leader x k.arglen x) qs q ∧ (args, n) = leadRead s c q qs ∧ bs = r.1 ++ args) →
        (p.home ≠ s.cfg.device.toNat → AsksHome s c (.rinvh d a b) (n.dropRead c.f.ref) p false) ∧
        (p.home = s.cfg.device.toNat → (tableOk pt = false ∨ n.freeEntry c.la.p = none → HandleTraps s c (.rinvh d a b) n 3 0) ∧
        (∀ idx, tableOk pt = true → n.freeEntry c.la.p = some idx → let ws := n.drainWids c .sys
          let y := (n.dropRead c.f.ref).drain c.leaf 4
          let h : Handle := ⟨s.cfg.device.toNat, idx, y.hgen c.la.p idx⟩
          let e := (y.newEntry s.cfg c idx).2
          let inv : Invocation := ⟨h, c.la.p, s.cfg.device.toNat, c.tm.t, k.func, args, some p, []⟩
          (ws ≠ [] → Drains s c (.rinvh d a b) (n.keepRead c.f.ref bs).2 ws) ∧
          (ws = [] → Completes (exec (.rinvh d a b) s) (fun t => LatePair s t c (.rinvh d a b) d { e with net := e.net ++ [.invoke p.home inv] } (handleWord h))))))) ∧
    (∀ (d : Dst) (a : Src) (b : Nat) (i : Instr) (cr : CtxRec), i = .rinv d a ∨ i = .rinvh d a b → CanTrap s c cr → gate s.m c i = .pass → c.f.drained = false → (s.m.srcL c a).toNat % 16 ≠ 0 →
      Completes (exec i s) (fun t => Trapped s t c cr ⟨3, 0, (s.m.srcL c a).setWidth 64, maskOf [c.leader], false, true⟩))

/-- Of a handle of this home: HSTAT gives its status word; HFREE frees the entry, at once in a final state; HWAIT waits while it is PENDING or PLACED, raises the trap BROKEN or gives the status word of a broken one, and of one that is DONE copies the result where a destination is given and gives the status word after an acquire of system scope. A value that names no handle takes the trap HANDLE; a handle of another home is asked for there. Nothing else changes. Where IWAIT issues with an aligned writable buffer, it takes the oldest queued invocation of its service: the group holds it, its landing bytes are at their homes, and its function and length are outstanding to the destination; with none queued the fibre waits. A group that holds one takes the trap HANDLE. Where IDONE issues, the held invocation ends, broken with the leader's cause or done with the bytes read after a release of system scope (which waits for writes to other devices), and the group holds none; a group that holds none takes the trap HANDLE. -/
def Obligations.HandlesAndInvocations : Prop :=
  (∀ (s : State) (c : Ctx),
    (∀ (tr : Bool) (d : Dst) (a b : Nat), Issues s (.hwait tr d a b) c →
      let w := s.m.v64 c a c.leader
      let dst := (s.m.v64 c b c.leader).toNat
      (handleOf w.toNat = none → HandleTraps s c (.hwait tr d a b) s.m 2 0) ∧
      (∀ h, handleOf w.toNat = some h → h.home ≠ s.cfg.device.toNat → AsksHome s c (.hwait tr d a b) s.m h false) ∧
      (∀ h, handleOf w.toNat = some h → h.home = s.cfg.device.toNat → homeEntry s.m c.la.p h = none → HandleTraps s c (.hwait tr d a b) s.m 2 0) ∧
      (∀ h e, handleOf w.toNat = some h → h.home = s.cfg.device.toNat → homeEntry s.m c.la.p h = some e →
        (isFinal e.st = false → Completes (exec (.hwait tr d a b) s) (fun t => Waits t c (.hwait tr d a b) .handle ∧ t.m.regs = s.m.regs ∧ t.m.hents = s.m.hents)) ∧
        (∀ cause dep, e.st = .broken cause dep → tr = true → HandleTraps s c (.hwait tr d a b) s.m 1 w) ∧
        (∀ cause dep, e.st = .broken cause dep → tr = false → Completes (exec (.hwait tr d a b) s) (fun t => LatePair s t c (.hwait tr d a b) d (s.m.invalidate c.leaf 4)
          (BitVec.ofNat 64 (3 + cause % 256 * 2 ^ 8 + min dep 255 * 2 ^ 16 + 6 * 2 ^ 24)))) ∧
        (∀ res, e.st = .done res → dst = 0 ∨ res = [] → Completes (exec (.hwait tr d a b) s) (fun t => LatePair s t c (.hwait tr d a b) d (s.m.invalidate c.leaf 4) (BitVec.ofNat 64 (2 + res.length * 2 ^ 32)))) ∧
        (∀ res ps m, e.st = .done res → dst ≠ 0 → res ≠ [] → Placed s c false .write false (spanReqs c.leader dst res.length dst) ps m →
          Completes (exec (.hwait tr d a b) s) (fun t => LatePair s t c (.hwait tr d a b) d
            ((storeLanes s.cfg m c .plain .plain (fun q => bytesAt res (q.addr - dst) q.n) ps).invalidate c.leaf 4)
            (BitVec.ofNat 64 (2 + res.length * 2 ^ 32)))))) ∧
    (∀ (d : Dst) (a : Nat), Issues s (.hstat d a) c →
      (handleOf (s.m.v64 c a c.leader).toNat = none → HandleTraps s c (.hstat d a) s.m 2 0) ∧
      (∀ h, handleOf (s.m.v64 c a c.leader).toNat = some h → h.home ≠ s.cfg.device.toNat → AsksHome s c (.hstat d a) s.m h false) ∧
      (∀ h e, handleOf (s.m.v64 c a c.leader).toNat = some h → h.home = s.cfg.device.toNat → homeEntry s.m c.la.p h = some e →
        Completes (exec (.hstat d a) s) (fun t => LatePair s t c (.hstat d a) d s.m (statusWord e.st)))) ∧
    (∀ (a : Nat), Issues s (.hfree a) c →
      (handleOf (s.m.v64 c a c.leader).toNat = none → HandleTraps s c (.hfree a) s.m 2 0) ∧
      (∀ h, handleOf (s.m.v64 c a c.leader).toNat = some h → h.home ≠ s.cfg.device.toNat → AsksHome s c (.hfree a) s.m h true) ∧
      (∀ h e, handleOf (s.m.v64 c a c.leader).toNat = some h → h.home = s.cfg.device.toNat → homeEntry s.m c.la.p h = some e →
        Completes (exec (.hfree a) s) (fun t => Does s t c (.hfree a) (if isFinal e.st then s.m.freeHome s.cfg.device.toNat c.la.p e else s.m.updHent c.la.p e.idx (fun e => { e with freeing := true })) c.g)))) ∧
  (∀ (s : State) (c : Ctx),
    (∀ (d : Dst) (a b : Src), Issues s (.iwait d a b) c →
      (c.g.held ≠ none → HandleTraps s c (.iwait d a b) s.m 4 0) ∧
      (∀ cr, c.g.held = none → (s.m.srcL c a).toNat % 64 ≠ 0 → CanTrap s c cr → Completes (exec (.iwait d a b) s) (fun t => Trapped s t c cr ⟨3, 0, (s.m.srcL c a).setWidth 64, maskOf [c.leader], false, true⟩)) ∧
      (∀ ps m, c.g.held = none → (s.m.srcL c a).toNat % 64 = 0 → Placed s c true .write false (cmdReqs s.m c a 576) ps m →
        let sv := (s.m.srcL c b).toNat % 256
        (m.oldestInv c.la.p sv = none → Completes (exec (.iwait d a b) s) (fun t => Waits t c (.iwait d a b) (.service sv) ∧ t.m.regs = s.m.regs ∧ t.m.invq = s.m.invq)) ∧
        (∀ q, m.oldestInv c.la.p sv = some q → Completes (exec (.iwait d a b) s) (fun t =>
          LatePair s t c (.iwait d a b) d (m.landed c ps q) (BitVec.ofNat 64 (q.inv.func + q.inv.args.length * 2 ^ 32)) ∧
          (t.m.group? c.f.ref.t c.f.ref.g).map Group.held = some q.entry ∧ t.m.invq = s.m.invq.map (fun x => if x = q then { q with running := true } else x) ∧
          (t.m.fibre? c.f.ref) = some (c.next (.iwait d a b)) ∧ t.m.regs = s.m.regs ∧
          (d = .nw ∨ ∃ o ∈ t.m.outst, o.ref = c.f.ref ∧ o.regs = (pairWrites d (c.lanes.map (fun j => (j, BitVec.ofNat 64 (q.inv.func + q.inv.args.length * 2 ^ 32))))).map (fun w => (c.f.base + w.1, w.2.1, w.2.2))))))) ∧
    (∀ (fail : Bool) (a b : Src), Issues s (.idone fail a b) c → (c.g.held = none → HandleTraps s c (.idone fail a b) s.m 5 0)) ∧
    (∀ (a b : Src) (e : Nat), Issues s (.idone true a b) c → c.g.held = some e → Completes (exec (.idone true a b) s) (fun t =>
      Does s t c (.idone true a b) (s.m.endInvocation s.cfg.device.toNat c.la.p e (.broken ((s.m.srcL c a).toNat % 256) 0)) { c.g with held := none })) ∧
    (∀ (a b : Src) (e : Nat), Issues s (.idone false a b) c → c.g.held = some e →
      let x := (s.m.srcL c a).toNat
      let n := (s.m.srcL c b).toNat
      (256 < n → HandleTraps s c (.idone false a b) s.m 6 0) ∧
      (∀ cr, n ≤ 256 → x % 16 ≠ 0 → CanTrap s c cr → Completes (exec (.idone false a b) s) (fun t => Trapped s t c cr ⟨3, 0, (s.m.srcL c a).setWidth 64, maskOf [c.leader], false, true⟩)) ∧
      (∀ ps m, n ≤ 256 → x % 16 = 0 → Placed s c true .read true (spanReqs c.leader x n x) ps m →
        let ws := m.drainWids c .sys
        let r := leadRead s c (m.drain c.leaf 4) ps
        (ws ≠ [] → Drains s c (.idone false a b) m ws) ∧
        (ws = [] → Completes (exec (.idone false a b) s) (fun t => Does s t c (.idone false a b) (r.2.endInvocation s.cfg.device.toNat c.la.p e (.done r.1)) { c.groupIn r.2 with held := none })))))

/-- On a bound region with no latched condition: WOPEN opens a window (count and depth rise, an acquire of device scope) or, at depth 0 while a fragment is staged or a pass runs, waits, and at depth 15 traps; WCLOSE drains to device scope, lowers count and depth, and a count of zero with a staged fragment begins a pass; PMERGE gives the anchor version at a quiescent point, or waits; PSTAT gives the first four header words of a fragment (zeros for one that is not there), waits while they cannot be read, and stops the launch where they are poisoned; PTRICK sets the sending period and gives the old one; DCHK gives the saturated squared norm. Nothing else changes. Each plane instruction on an index outside REGMASK or without a region takes the trap PLANESTORE. WOPEN, WCLOSE, PMERGE and DCHK on a region with a latched condition take the trap DIVERGE, NORM first, with the fragment, island and index in TRAPADDR, on the machine in which the delivered condition is cleared. -/
def Obligations.PlaneWindows : Prop :=
  (∀ (s : State) (c : Ctx),
    (∀ (k : Nat) (rg : Region), rg.calm s c k → Issues s (.wopen k) c →
      let dep := c.f.depths.getD k 0
      (dep < 15 → dep ≠ 0 ∨ (rg.stg = false ∧ rg.pass = false) → Completes (exec (.wopen k) s) (fun t => Issued s t c ((s.m.updRegion rg.r (fun g => { g with cnt := g.cnt + 1 })).invalidate c.leaf 3)
        { c.next (.wopen k) with depths := modAt c.f.depths k (fun _ => dep + 1) } c.g [] ∧ Latched t c s.m noFlags)) ∧
      (dep = 0 → rg.stg = true ∨ rg.pass = true → Completes (exec (.wopen k) s) (fun t => Waits t c (.wopen k) (.window rg.r) ∧ t.m.regions = s.m.regions ∧ t.m.regs = s.m.regs)) ∧
      (15 ≤ dep → ∀ cr, CanTrap s c cr → Completes (exec (.wopen k) s) (fun t => Trapped s t c cr ⟨0x0F, 0, 0, c.f.pred, false, true⟩))) ∧
    (∀ (k : Nat) (rg : Region), rg.calm s c k → Issues s (.wclose k) c →
      let dep := c.f.depths.getD k 0
      (dep ≠ 0 → Completes (exec (.wclose k) s) (fun t => Issued s t c (((s.m.drain c.leaf 3).updRegion rg.r (fun g => { g with cnt := g.cnt - 1 })).startPass rg.r)
        { c.next (.wclose k) with depths := modAt c.f.depths k (fun _ => dep - 1) } c.g [] ∧ Latched t c s.m noFlags)) ∧
      (dep = 0 → ∀ cr, CanTrap s c cr → Completes (exec (.wclose k) s) (fun t => Trapped s t c cr ⟨0x0F, 0, 0, c.f.pred, false, true⟩))) ∧
    (∀ (d : Dst) (k : Nat) (rg : Region), rg.calm s c k → Issues s (.pmerge d k) c → c.f.depths.getD k 0 = 0 →
      (rg.stg = false → rg.pass = false → Completes (exec (.pmerge d k) s) (fun t => LateWord s t c (.pmerge d k) d ((s.m.invalidate c.leaf 3).drain c.leaf 3) (fun _ => BitVec.ofNat 32 rg.ancver))) ∧
      (rg.stg = true ∨ rg.pass = true → Completes (exec (.pmerge d k) s) (fun t => Waits t c (.pmerge d k) (.window rg.r) ∧ t.m.regions = s.m.regions ∧ t.m.regs = s.m.regs))) ∧
    (∀ (d : Dst) (a : Src) (k : Nat) (rg : Region) (bs : List Byte) (m : Mach), nbit c.rc.regmask k = true → s.m.regionOf c.la.p c.la.x k = some rg → Issues s (.pstat d a k) c →
      let f := (s.m.srcL c a).toNat
      (if f < rg.nf then agentRead1 s.cfg s.m c.leaf (.agent (rg.dieOf f) .batten) rg.p rg.x .home (rg.staging f) 16 = (.ok bs, m) else bs = List.replicate 16 0 ∧ m = s.m) →
      let w (j : Nat) : Word := BitVec.ofNat 32 (natAt bs (4 * j) 4)
      Completes (exec (.pstat d a k) s) (fun t => LateQuad s t c (.pstat d a k) d m w)) ∧
    (∀ (d : Dst) (a : Src) (k : Nat) (rg : Region) (m : Mach), nbit c.rc.regmask k = true → s.m.regionOf c.la.p c.la.x k = some rg → Issues s (.pstat d a k) c → (s.m.srcL c a).toNat < rg.nf →
      let r := agentRead1 s.cfg s.m c.leaf (.agent (rg.dieOf (s.m.srcL c a).toNat) .batten) rg.p rg.x .home (rg.staging (s.m.srcL c a).toNat) 16
      (∀ u, r = (.poison u, m) → exec (.pstat d a k) s = .next { s with m := (m.tick 1).stopLaunch s.cfg c.f.ref.t c.f.ref.g 0 }) ∧
      (r = (.wait, m) → Completes (exec (.pstat d a k) s) (fun t => Waits t c (.pstat d a k) (.bank (rg.dieOf (s.m.srcL c a).toNat) 32) ∧ t.m.regs = m.regs))) ∧
    (∀ (d : Dst) (a : Src) (k : Nat) (rg : Region), nbit c.rc.regmask k = true → s.m.regionOf c.la.p c.la.x k = some rg → Issues s (.ptrick d a k) c →
      Completes (exec (.ptrick d a k) s) (fun t => LateWord s t c (.ptrick d a k) d (s.m.updRegion rg.r (fun g => { g with spinper := (s.m.srcL c a).toNat })) (fun _ => BitVec.ofNat 32 rg.spinper))) ∧
    (∀ (d : Dst) (k : Nat) (rg : Region), rg.calm s c k → Issues s (.dchk d k) c →
      Completes (exec (.dchk d k) s) (fun t => LatePair s t c (.dchk d k) d s.m (BitVec.ofNat 64 (min ((rg.frags.map Frag.nsq).sum) (2 ^ 64 - 1)))))) ∧
  (∀ (s : State) (c : Ctx) (cr : CtxRec), CanTrap s c cr →
    (∀ (k : Nat), gate s.m c (.wopen k) = .pass → nbit c.rc.regmask k = false ∨ s.m.regionOf c.la.p c.la.x k = none →
      Completes (exec (.wopen k) s) (fun t => Trapped s t c cr ⟨0x0F, 0, 0, c.f.pred, false, true⟩)) ∧
    (∀ (k : Nat), gate s.m c (.wclose k) = .pass → nbit c.rc.regmask k = false ∨ s.m.regionOf c.la.p c.la.x k = none →
      Completes (exec (.wclose k) s) (fun t => Trapped s t c cr ⟨0x0F, 0, 0, c.f.pred, false, true⟩)) ∧
    (∀ (d : Dst) (k : Nat), gate s.m c (.pmerge d k) = .pass → nbit c.rc.regmask k = false ∨ s.m.regionOf c.la.p c.la.x k = none →
      Completes (exec (.pmerge d k) s) (fun t => Trapped s t c cr ⟨0x0F, 0, 0, c.f.pred, false, true⟩)) ∧
    (∀ (d : Dst) (a : Src) (k : Nat), gate s.m c (.pstat d a k) = .pass → nbit c.rc.regmask k = false ∨ s.m.regionOf c.la.p c.la.x k = none →
      Completes (exec (.pstat d a k) s) (fun t => Trapped s t c cr ⟨0x0F, 0, 0, c.f.pred, false, true⟩)) ∧
    (∀ (d : Dst) (a : Src) (k : Nat), gate s.m c (.ptrick d a k) = .pass → nbit c.rc.regmask k = false ∨ s.m.regionOf c.la.p c.la.x k = none →
      Completes (exec (.ptrick d a k) s) (fun t => Trapped s t c cr ⟨0x0F, 0, 0, c.f.pred, false, true⟩)) ∧
    (∀ (d : Dst) (k : Nat), gate s.m c (.dchk d k) = .pass → nbit c.rc.regmask k = false ∨ s.m.regionOf c.la.p c.la.x k = none →
      Completes (exec (.dchk d k) s) (fun t => Trapped s t c cr ⟨0x0F, 0, 0, c.f.pred, false, true⟩)) ∧
    (∀ (k : Nat) (rg : Region), gate s.m c (.wopen k) = .pass → nbit c.rc.regmask k = true → s.m.regionOf c.la.p c.la.x k = some rg →
      (rg.norm = true → Completes (exec (.wopen k) s) (fun t => TrappedOn ((s.m.updRegion rg.r (fun g => { g with norm := false })).tick 1) s t c cr ⟨0x10, 1, BitVec.ofNat 64 k, c.f.pred, false, true⟩)) ∧
      (∀ x f rest, rg.norm = false → rg.silent = (x, f) :: rest → Completes (exec (.wopen k) s) (fun t => TrappedOn ((s.m.updRegion rg.r (fun g => { g with silent := rest })).tick 1) s t c cr ⟨0x10, 2, BitVec.ofNat 64 (k + x * 2 ^ 8 + f * 2 ^ 16), c.f.pred, false, true⟩))) ∧
    (∀ (k : Nat) (rg : Region), gate s.m c (.wclose k) = .pass → nbit c.rc.regmask k = true → s.m.regionOf c.la.p c.la.x k = some rg →
      (rg.norm = true → Completes (exec (.wclose k) s) (fun t => TrappedOn ((s.m.updRegion rg.r (fun g => { g with norm := false })).tick 1) s t c cr ⟨0x10, 1, BitVec.ofNat 64 k, c.f.pred, false, true⟩)) ∧
      (∀ x f rest, rg.norm = false → rg.silent = (x, f) :: rest → Completes (exec (.wclose k) s) (fun t => TrappedOn ((s.m.updRegion rg.r (fun g => { g with silent := rest })).tick 1) s t c cr ⟨0x10, 2, BitVec.ofNat 64 (k + x * 2 ^ 8 + f * 2 ^ 16), c.f.pred, false, true⟩))) ∧
    (∀ (d : Dst) (k : Nat) (rg : Region), gate s.m c (.pmerge d k) = .pass → nbit c.rc.regmask k = true → s.m.regionOf c.la.p c.la.x k = some rg →
      (rg.norm = true → Completes (exec (.pmerge d k) s) (fun t => TrappedOn ((s.m.updRegion rg.r (fun g => { g with norm := false })).tick 1) s t c cr ⟨0x10, 1, BitVec.ofNat 64 k, c.f.pred, false, true⟩)) ∧
      (∀ x f rest, rg.norm = false → rg.silent = (x, f) :: rest → Completes (exec (.pmerge d k) s) (fun t => TrappedOn ((s.m.updRegion rg.r (fun g => { g with silent := rest })).tick 1) s t c cr ⟨0x10, 2, BitVec.ofNat 64 (k + x * 2 ^ 8 + f * 2 ^ 16), c.f.pred, false, true⟩))) ∧
    (∀ (d : Dst) (k : Nat) (rg : Region), gate s.m c (.dchk d k) = .pass → nbit c.rc.regmask k = true → s.m.regionOf c.la.p c.la.x k = some rg →
      (rg.norm = true → Completes (exec (.dchk d k) s) (fun t => TrappedOn ((s.m.updRegion rg.r (fun g => { g with norm := false })).tick 1) s t c cr ⟨0x10, 1, BitVec.ofNat 64 k, c.f.pred, false, true⟩)) ∧
      (∀ x f rest, rg.norm = false → rg.silent = (x, f) :: rest → Completes (exec (.dchk d k) s) (fun t => TrappedOn ((s.m.updRegion rg.r (fun g => { g with silent := rest })).tick 1) s t c cr ⟨0x10, 2, BitVec.ofNat 64 (k + x * 2 ^ 8 + f * 2 ^ 16), c.f.pred, false, true⟩))))

/-- PROPAGATE takes the write with no older write to its bytes before it from its point to the parent, or to its home where the parent has the home in its subtree, and the copies at the point lose its bytes. REFRESH replaces a copy by what a plain read from the parent returns, or removes it. MISS_QUEUE_ENTER takes an instruction's misses into a queue with room. PAGE_WALK installs the leaf it finds and clears its miss, or gives the waiting fibres the fault it meets. LONG_LATENCY_COMPLETE writes the outstanding result. FULL_EMPTY_TAKE completes a waiting LDFE or LDFET whose granules are full; FETIMEOUT raises the trap 0x11 at the limit. -/
def Obligations.OrderingSteps : Prop :=
  ∀ (s : State),
    (∀ (w : Nat) (e : BufEnt), s.m.bufs.find? (fun x => x.w.wid == w) = some e → (∀ x ∈ s.m.bufs.takeWhile (fun x => x.w.wid != w), x.pt = e.pt → x.w.hits e.w.sp e.w.addr e.w.bytes.length = false) → 
      Completes (exec (.propagate w) s) (fun t => t.cfg = s.cfg ∧ t.m.regs = s.m.regs ∧
      (isFab e.w.sp = false ∨ s.m.holds (s.m.parent e.pt) e.w.sp = false → ∀ k ∈ t.m.copies, k.pt = e.pt → k.sp = e.w.sp → ∀ b, e.w.addr ≤ k.unit * 16 + b → k.unit * 16 + b < e.w.addr + e.w.bytes.length → k.bytes.getD b none = none) ∧
      (s.m.holds (s.m.parent e.pt) e.w.sp = false → t.m.bufs = s.m.bufs.erase e ++ [{ e with pt := s.m.parent e.pt }] ∧ t.m.mem = s.m.mem ∧ t.m.scr = s.m.scr ∧ t.m.net = s.m.net) ∧
      (s.m.holds (s.m.parent e.pt) e.w.sp = true → isFab e.w.sp = false → t.m.bufs = s.m.bufs.erase e ∧ t.m.mem = (s.m.deliver e.w).mem ∧ t.m.scr = (s.m.deliver e.w).scr ∧ t.m.gran = (s.m.deliver e.w).gran ∧ t.m.net = s.m.net) ∧
      (∀ d p, s.m.holds (s.m.parent e.pt) e.w.sp = true → e.w.sp = .fab d p → SameStores { t.m with bufs := s.m.bufs } s.m ∧
        (e.go = .away → t.m.bufs = s.m.bufs ∧ t.m.net = s.m.net) ∧
        (e.go ≠ .away → s.m.cutOff = false → t.m.bufs = s.m.bufs.map (fun x => if x = e then { x with go := .away } else x) ∧
          t.m.net = s.m.net ++ [.access ⟨e.w.src, d, e.w.xid, p, [(e.w.num, e.w.addr, .write e.w.bytes)], .whole, e.w.sync⟩])))) ∧
    (∀ (p : Point) (sp : Space) (u : Nat) (tag : Option KTag) (away : List Byte), 
      Completes (exec (.refresh p sp u tag away true) s) (fun t => t.cfg = s.cfg ∧ SameStores t.m s.m ∧ (∀ k, k ∈ t.m.copies ↔ k ∈ s.m.copies ∧ ¬(k.pt = p ∧ k.sp = sp ∧ k.unit = u ∧ sameTag k.tag tag = true)) ∧
      (∀ b, b ∈ t.m.blocks ↔ b ∈ s.m.blocks ∧ ¬(b.pt = p ∧ b.meets sp (u * 16) 16 = true ∧ ∃ g, tag = some g ∧ g.key = b.tag.key ∧ g.p = b.tag.p)))) ∧
    (∀ (p : Point) (sp : Space) (u : Nat) (tag : Option KTag) (away : List Byte), (∃ k ∈ s.m.copies, k.pt = p ∧ k.sp = sp ∧ k.unit = u ∧ sameTag k.tag tag = true) → 
      Completes (exec (.refresh p sp u tag away false) s) (fun t => t.cfg = s.cfg ∧ SameStores t.m s.m ∧ ∃ k ∈ t.m.copies, k.pt = p ∧ k.sp = sp ∧ k.unit = u ∧ sameTag k.tag tag = true ∧
      k.bytes = (({ s.m with away := [(sp, u, away)] } : Mach).readOver ((s.m.chain (s.m.parent p)).takeWhile (fun q => !s.m.holds q sp)) sp (u * 16) 16 tag false).1.map some)) ∧
    (∀ (r : FRef) (c : Ctx) (i : Instr) (blks : List Nat) (n : Nat), ctxOf s.m r = some c → c.f.wait = some ⟨i, .missRoom blks, n⟩ → (s.m.missq.filter (fun q => q.core == c.tm.core)).length + (blks.filter (fun b => !s.m.missq.contains ⟨c.tm.core, c.la.p, c.la.x, b⟩)).length ≤ 32 → 
      Completes (exec (.missQueueEnter r) s) (fun t => t.m.missq = s.m.missq ++ (blks.filter (fun b => !s.m.missq.contains ⟨c.tm.core, c.la.p, c.la.x, b⟩)).map (fun b => ⟨c.tm.core, c.la.p, c.la.x, b⟩) ∧
      t.m.fibre? r = some { c.f with wait := some ⟨i, .xlate blks, n⟩ } ∧ t.m.regs = s.m.regs ∧ SameStores t.m s.m)) ∧
    (∀ (core n : Nat) (q : Miss) (l : Leaf), (s.m.missq.filter (fun q => q.core == core))[n]? = some q → s.m.tlbGet (.die (dieOfCore core)) q.p q.x q.vpn = some l → 
      Completes (exec (.pageWalk core n) s) (fun t => t.m.tlbGet (.core core) q.p q.x q.vpn = some l ∧ q ∉ t.m.missq ∧ t.m.regs = s.m.regs ∧ SameStores t.m s.m)) ∧
    (∀ (core n : Nat) (q : Miss) (l : Leaf), (s.m.missq.filter (fun q => q.core == core))[n]? = some q → s.m.tlbGet (.die (dieOfCore core)) q.p q.x q.vpn = none → walkersOf s.cfg q.p (dieOfCore core) ≠ 0 → walk s.cfg s.m q.p q.x (q.vpn * 65536) = .ok l → 
      Completes (exec (.pageWalk core n) s) (fun t => t.m.tlbGet (.core core) q.p q.x q.vpn = some { l with e := l.e ||| 0x10 } ∧ q ∉ t.m.missq ∧ t.m.regs = s.m.regs ∧ t.m.scr = s.m.scr ∧ (l.e ||| 0x10 = l.e → t.m.mem = s.m.mem))) ∧
    (∀ (core n : Nat) (q : Miss) (k sub : Nat), (s.m.missq.filter (fun q => q.core == core))[n]? = some q → s.m.tlbGet (.die (dieOfCore core)) q.p q.x q.vpn = none → walkersOf s.cfg q.p (dieOfCore core) ≠ 0 → walk s.cfg s.m q.p q.x (q.vpn * 65536) = .bad k sub → 
      Completes (exec (.pageWalk core n) s) (fun t => q ∉ t.m.missq ∧ t.m.tlb = s.m.tlb ∧ t.m.mem = s.m.mem ∧ ∀ r c i blks n, ctxOf s.m r = some c → c.f.wait = some ⟨i, .xlate blks, n⟩ → c.tm.core = core → c.la.p = q.p → c.la.x = q.x → q.vpn ∈ blks →
        (t.m.fibre? r).map (fun f => f.xl.head?) = some (some (q.vpn, .bad k sub)))) ∧
    (∀ (core n : Nat) (q : Miss), (s.m.missq.filter (fun q => q.core == core))[n]? = some q → s.m.tlbGet (.die (dieOfCore core)) q.p q.x q.vpn = none → walkersOf s.cfg q.p (dieOfCore core) = 0 → 
      Completes (exec (.pageWalk core n) s) (fun t => t = s)) ∧
    (∀ (n : Nat) (o : Outst), s.m.outst.find? (fun o => o.id == n) = some o → s.m.outstHeld o = false → 
      Completes (exec (.longLatencyComplete n) s) (fun t => t.cfg = s.cfg ∧ t.m.regs = smSetAll 0 s.m.regs (o.regs.map (fun w => (regKey o.ref.t o.ref.g w.1 w.2.1, w.2.2))) ∧ t.m.outst = s.m.outst.filter (fun x => x.id != n) ∧ SameStores t.m s.m ∧
      (∀ k vs, o.latch = some (k, vs) → t.m.lats = smSetAll 0 s.m.lats (vs.map (fun v => (latKey o.ref.t o.ref.g k v.1, v.2)))) ∧ (o.latch = none → t.m.lats = s.m.lats))) ∧
    (∀ (r : FRef) (c : Ctx) (i : Instr) (n : Nat) (sz : Size) (sc : Scope) (d : Nat) (empty : Bool) (ps : List (Req × Place)), s.m.waiting r = some (c, ⟨i, .granule, n⟩) → waitedGranules s.m c = some (sz, sc, d, empty, ps) → (∀ g ∈ granules ps, (s.m.granule g.1 g.2).1 = true) → readsPoison (s.m.pushGranules c.leaf (granules ps)) none ps = false → let x := takeGranules (s.m.pushGranules c.leaf (granules ps)) c sc empty ps
      s.m.heldReg c (c.phys ((loadWrites sz d x.1).map Prod.fst)) = false → 
      Completes (exec (.fullEmptyTake r) s) (fun t => WaitOver s t c i x.2 (loadWrites sz d x.1) (latOf (lowWords x.1)))) ∧
    (∀ (r : FRef) (c : Ctx) (cr : CtxRec) (i : Instr) (n : Nat) (sz : Size) (sc : Scope) (d : Nat) (empty : Bool) (ps es : List (Req × Place)) (q : Req × Place), s.m.waiting r = some (c, ⟨i, .granule, n⟩) → waitedGranules s.m c = some (sz, sc, d, empty, ps) → 2 ^ c.rc.fek ≤ s.m.cyc - n → ps.filter (fun q => (granOfPlace q.2).any (fun g => !(s.m.granule g.1 g.2).1)) = q :: es → TrapReady s c cr → s.m.barred c.f = false → 
      Completes (exec (.fetimeout r) s) (fun t => TrappedOn s.m s t c cr ⟨0x11, 0, BitVec.ofNat 64 q.1.rep, maskOf ((q :: es).map (fun q => q.1.lane)), false, true⟩))

/-- A count wait ends with the value at its home, after the acquire of its scope, once the count is at or above the target; a bounded one past its bound ends with the value last read and no acquire. FWAIT ends once every write of its token has left, with the invalidate of its scope and the token idle. A command that waited enters its context once there is room. WOPEN opens its window, and PMERGE gives the anchor version, once STG and PASS are clear; a region that is gone raises PLANESTORE. HWAIT gives the status word once the handle is final. IWAIT takes the oldest invocation of its service. Nothing else changes. -/
def Obligations.WaitsThatEnd : Prop :=
  ∀ (s : State),
    (∀ (r : FRef) (c : Ctx) (i : Instr) (b : Option Nat) (leaf : Option Leaf) (n : Nat) (q : CwArgs) (a : Acc) (va : Nat) (m : Mach), s.m.waiting r = some (c, ⟨i, .count b leaf, n⟩) → cwArgs s.m c i = some q → cwAcc s.cfg s.m c q.a leaf = (some (.ok (a, va)), m) → m.bankBusy (s.cfg.part? c.la.p) a = false → poisonedAcc m (s.cfg.part? c.la.p) a va 8 = false → let x := cwRead s.cfg (m.undelay (.core c.tm.core) (2 ^ 64 + c.f.ref.t * 2048 + c.f.ref.g * 32 + c.leader)) c a va
      q.target ≤ x.1 % 2 ^ 63 → s.m.heldReg c (c.phys ((pairWrites q.d (c.lanes.map (fun j => (j, BitVec.ofNat 64 x.1)))).map Prod.fst)) = false → 
      Completes (exec (.cwaitComplete r) s) (fun t => WaitOver s t c i (x.2.cwDone c.leaf q.sc a.sp a.addr) (pairWrites q.d (c.lanes.map (fun j => (j, BitVec.ofNat 64 x.1)))) (fun _ => BitVec.ofNat 32 x.1))) ∧
    (∀ (r : FRef) (c : Ctx) (i : Instr) (b : Nat) (leaf : Option Leaf) (n : Nat) (q : CwArgs) (a : Acc) (va : Nat) (m : Mach), s.m.waiting r = some (c, ⟨i, .count (some b) leaf, n⟩) → cwArgs s.m c i = some q → cwAcc s.cfg s.m c q.a leaf = (some (.ok (a, va)), m) → m.bankBusy (s.cfg.part? c.la.p) a = false → poisonedAcc m (s.cfg.part? c.la.p) a va 8 = false → b ≤ s.m.cyc - n → let x := cwRead s.cfg (m.undelay (.core c.tm.core) (2 ^ 64 + c.f.ref.t * 2048 + c.f.ref.g * 32 + c.leader)) c a va
      s.m.heldReg c (c.phys ((pairWrites q.d (c.lanes.map (fun j => (j, BitVec.ofNat 64 x.1)))).map Prod.fst)) = false → 
      Completes (exec (.cwaittBound r) s) (fun t => WaitOver s t c i (if q.target ≤ x.1 % 2 ^ 63 then x.2.cwDone c.leaf q.sc a.sp a.addr else x.2) (pairWrites q.d (c.lanes.map (fun j => (j, BitVec.ofNat 64 x.1)))) (fun _ => BitVec.ofNat 32 x.1))) ∧
    (∀ (r : FRef) (c : Ctx) (k n : Nat), s.m.waiting r = some (c, ⟨.fwait k, .token k, n⟩) → let x := c.f.toks.getD k ⟨false, [], 0⟩
      (s.m.widsAt (s.m.below c.leaf x.sc)).filter (fun w => x.wids.contains w) = [] → 
      Completes (exec (.fwaitComplete r) s) (fun t => Issued s t c (s.m.invalidate c.leaf x.sc) { c.next (.fwait k) with toks := modAt c.f.toks k (fun _ => ⟨false, [], 0⟩) } c.g [] ∧ Latched t c s.m noFlags)) ∧
    (∀ (r : FRef) (c : Ctx) (i : Instr) (k : EngCtx) (cmd : Cmd) (blk : DWord) (n : Nat), s.m.waiting r = some (c, ⟨i, .engine k cmd blk, n⟩) → endsRun i = false → (s.m.opsOf c.tm.t k).length < 32 → 
      Completes (exec (.engineCommandEnter r) s) (fun t => WaitOver s t c i (Mach.accept s.cfg s.m c.tm.t c.g.g k cmd blk) [] noFlags ∧
      (t.m.opsOf c.tm.t k).map (fun o => (o.n, o.cmd)) = (s.m.opsOf c.tm.t k).map (fun o => (o.n, o.cmd)) ++ [(c.tm.nop k + 1, cmd)])) ∧
    (∀ (r : FRef) (c : Ctx) (k x n : Nat) (rg : Region), s.m.waiting r = some (c, ⟨.wopen k, .window x, n⟩) → s.m.region? x = some rg → rg.stg = false → rg.pass = false → 
      Completes (exec (.wopenProceed r) s) (fun t => Issued s t c ((s.m.updRegion x (fun g => { g with cnt := g.cnt + 1 })).invalidate c.leaf 3)
        { c.next (.wopen k) with depths := modAt c.f.depths k (fun _ => c.f.depths.getD k 0 + 1) } c.g [] ∧ Latched t c s.m noFlags)) ∧
    (∀ (r : FRef) (c : Ctx) (d : Dst) (k x n : Nat) (rg : Region), s.m.waiting r = some (c, ⟨.pmerge d k, .window x, n⟩) → s.m.region? x = some rg → rg.stg = false → rg.pass = false → s.m.heldReg c (c.phys ((dstWrites d (c.lanes.map (fun j => (j, BitVec.ofNat 32 rg.ancver)))).map Prod.fst)) = false → 
      Completes (exec (.wopenProceed r) s) (fun t => WaitOver s t c (.pmerge d k) ((s.m.invalidate c.leaf 3).drain c.leaf 3) (dstWrites d (c.lanes.map (fun j => (j, BitVec.ofNat 32 rg.ancver)))) (fun _ => BitVec.ofNat 32 rg.ancver))) ∧
    (∀ (r : FRef) (c : Ctx) (cr : CtxRec) (i : Instr) (x n : Nat), s.m.waiting r = some (c, ⟨i, .window x, n⟩) → s.m.region? x = none → TrapReady s c cr → s.m.barred c.f = false → 
      Completes (exec (.wopenProceed r) s) (fun t => TrappedOn s.m s t c cr ⟨0x0F, 0, 0, c.f.pred, false, true⟩)) ∧
    (∀ (r : FRef) (c : Ctx) (tr : Bool) (d : Dst) (a b n : Nat) (h : Handle) (e : HEnt), s.m.waiting r = some (c, ⟨.hwait tr d a b, .handle, n⟩) → handleOf (s.m.v64 c a c.leader).toNat = some h → h.home = s.cfg.device.toNat → homeEntry s.m c.la.p h = some e → ((∃ res, e.st = .done res ∧ (res = [] ∨ s.m.v64 c b c.leader = 0)) ∨ (tr = false ∧ ∃ cause dep, e.st = .broken cause dep)) → 
      Completes (exec (.hwaitComplete r) s) (fun t => LatePair s t c (.hwait tr d a b) d (s.m.invalidate c.leaf 4) (statusWord e.st))) ∧
    (∀ (r : FRef) (c : Ctx) (d : Dst) (n : Nat) (a b : Src) (ps : List (Req × Place)) (m : Mach) (q : InvQ), s.m.waiting r = some (c, ⟨.iwait d a b, .service ((s.m.srcL c b).toNat % 256), n⟩) → c.g.held = none → (s.m.srcL c a).toNat % 64 = 0 → Placed s c true .write false (cmdReqs s.m c a 576) ps m → m.oldestInv c.la.p ((s.m.srcL c b).toNat % 256) = some q → 
      Completes (exec (.iwaitTake r) s) (fun t => LatePair s t c (.iwait d a b) d (m.landed c ps q) (BitVec.ofNat 64 (q.inv.func + q.inv.args.length * 2 ^ 32)) ∧ (t.m.group? r.t r.g).map Group.held = some q.entry ∧ t.m.invq = s.m.invq.map (fun x => if x = q then { q with running := true } else x) ∧
      t.m.fibre? r = some (c.next (.iwait d a b)) ∧ t.m.regs = s.m.regs ∧
      (d = .nw ∨ ∃ o ∈ t.m.outst, o.ref = r ∧ o.regs = (pairWrites d (c.lanes.map (fun j => (j, BitVec.ofNat 64 (q.inv.func + q.inv.args.length * 2 ^ 32))))).map (fun w => (c.f.base + w.1, w.2.1, w.2.2)))))

/-- A free port with one ready fibre gives it its run, from the beginning with every latch of its lanes zero, or where it yielded; with none ready a cycle passes. With at most 8 groups resident in a quadrant every one is active; with more, a free active slot goes to the ready pending group, from two cycles on. A fibre at a run boundary, or waiting in LDFE or LDFET, takes the pending trap of the lowest code. -/
def Obligations.SchedulingSteps : Prop :=
  ∀ (s : State),
    (∀ (core quad pick : Nat) (g : Group) (f : Fibre) (c : Ctx), (s.m.port core quad).run = none → (∀ g ∈ s.m.quadGroups core quad, ((s.m.team? g.t).bind (fun tm => s.m.launch? tm.l)).any (fun la => la.stop.isSome) = false) → s.m.readyGroups core quad = [g] → s.m.readyFibres g.t g.g = [f] → ctxOf s.m f.ref = some c → c.f = f → c.g.pend = [] → c.la.x < 4 → -2 ^ 60 < (s.m.port core quad).deficit c.la.x → 
      Completes (exec (.portSchedule core quad pick) s) (fun t => (t.m.port core quad).run = some ⟨f.ref, 0⟩ ∧ t.m.fibre? f.ref = some (if f.run then f else { f with run := true, pos := 0, trl := none }) ∧ t.m.regs = s.m.regs ∧ SameStores t.m s.m ∧
      t.m.lats = if f.run then s.m.lats else smSetAll 0 s.m.lats ((List.range 8).flatMap (fun k => c.lanes.map (fun j => (latKey f.ref.t f.ref.g k j, 0)))))) ∧
    (∀ (core quad pick : Nat), (s.m.port core quad).run = none → (∀ g ∈ s.m.quadGroups core quad, ((s.m.team? g.t).bind (fun tm => s.m.launch? tm.l)).any (fun la => la.stop.isSome) = false) → s.m.readyGroups core quad = [] → 
      Completes (exec (.portSchedule core quad pick) s) (fun t => t.m.cyc = s.m.cyc + 1 ∧ t.m.fibres = s.m.fibres ∧ t.m.groups = s.m.groups ∧ t.m.ports = s.m.ports ∧ t.m.regs = s.m.regs ∧ SameStores t.m s.m)) ∧
    (∀ (core quad : Nat), (∀ g ∈ s.m.quadGroups core quad, ((s.m.team? g.t).bind (fun tm => s.m.launch? tm.l)).any (fun la => la.stop.isSome) = false) → (s.m.quadGroups core quad).length ≤ 8 → 
      Completes (exec (.groupActivate core quad) s) (fun t => t.m.regs = s.m.regs ∧ t.m.fibres = s.m.fibres ∧ ∀ g ∈ s.m.quadGroups core quad, s.m.group? g.t g.g = some g → t.m.group? g.t g.g = some { g with active := true })) ∧
    (∀ (core quad : Nat) (g : Group), (∀ g ∈ s.m.quadGroups core quad, ((s.m.team? g.t).bind (fun tm => s.m.launch? tm.l)).any (fun la => la.stop.isSome) = false) → 8 < (s.m.quadGroups core quad).length → ((s.m.quadGroups core quad).filter Group.active).length < 8 → (s.m.quadGroups core quad).filter (fun g => !g.active && !(s.m.readyFibres g.t g.g).isEmpty) = [g] → s.m.group? g.t g.g = some g → 
      Completes (exec (.groupActivate core quad) s) (fun t => t.m.group? g.t g.g = some { g with active := true, since := s.m.cyc + 2 } ∧ t.m.regs = s.m.regs ∧ t.m.fibres = s.m.fibres)) ∧
    (∀ (r : FRef) (c : Ctx) (cr : CtxRec) (x : PendTrap), ctxOf s.m r = some c → TrapReady s c cr → c.f.susp = false → c.g.ended = false → c.cl.pre ≠ .saved → s.m.onWalk r.t r.g = false → s.m.groupHeld r.t r.g = false → x ∈ c.g.pend → (∀ y ∈ c.g.pend, y = x ∨ x.cause < y.cause) → ((c.f.wait = none ∧ c.f.run = false) ∨ c.f.wait.map Wait.why = some .granule) → 
      Completes (exec (.asyncTrap r) s) (fun t => TrappedOn s.m s t c cr ⟨x.cause, x.sub, x.addr, x.fail.getD c.f.pred, true, x.restart || c.f.wait.isSome⟩ ∧ (t.m.group? r.t r.g).map Group.pend = some (c.g.pend.erase x)))

/-- Work of n + 1 units is one unit, then n. A command whose parameters break a rule of its entry ends with FAULT and the block's address; ACCZ zeroes every element of the tiles it names; MMA, its rows read, gives every element of its tile the accumulation of its row and column, block by block; DRAIN writes its next piece to its address, or under .all has all its writes, checked and within one home, left for its retirement; at its end the tile that .z zeroes is left for its retirement too. Each then has status OK. -/
def Obligations.MatrixSteps : Prop :=
  ∀ (s : State),
    (∀ (n T : Nat), Completes (exec (.mmaOperation T 1) s) (fun u => exec (.mmaOperation T (n + 1)) s = exec (.mmaOperation T n) u)) ∧
    (∀ (n T : Nat), Completes (exec (.drainOperation T 1) s) (fun u => exec (.drainOperation T (n + 1)) s = exec (.drainOperation T n) u)) ∧
    (∀ (T : Nat) (oc : OpCtx) (mask : Nat), Working s T .matrix oc → oc.o.cmd = .accz mask → (∀ x ∈ bitsOf mask 4, nbit oc.rc.tmask x = true) → 
      Completes (exec (.acczOperation T) s) (fun t => Ended t oc.o 0 0 0 ∧ SameStores t.m s.m ∧ t.m.regs = s.m.regs ∧ ∀ x ∈ bitsOf mask 4, ∀ i j, i < 128 → j < 128 → t.m.accAt oc.tm.t x i j = 0)) ∧
    (∀ (T : Nat) (oc : OpCtx) (mask : Nat), Working s T .matrix oc → oc.o.cmd = .accz mask → (∃ x ∈ bitsOf mask 4, nbit oc.rc.tmask x = false) → 
      Completes (exec (.acczOperation T) s) (fun t => Ended t oc.o 1 0 oc.o.blkAddr ∧ t.m.acc = s.m.acc)) ∧
    (∀ (T : Nat) (oc : OpCtx) (zs : Bool) (bs : List Byte) (b slot base : Nat) (cb : List (BitVec 16)), Working s T .matrix oc → oc.o.cmd = .mma zs bs b slot base cb → oc.o.stage = 0 → mmaBad oc (mmaBlk bs) slot = true → 
      Completes (exec (.mmaOperation T 1) s) (fun t => Ended t oc.o 1 0 oc.o.blkAddr ∧ t.m.acc = s.m.acc)) ∧
    (∀ (T : Nat) (oc : OpCtx) (zs : Bool) (bs : List Byte) (b slot base : Nat) (cb : List (BitVec 16)), Working s T .matrix oc → oc.o.cmd = .mma zs bs b slot base cb → oc.o.stage = 1 → 128 * ((mmaBlk bs).kb * fmtBits (oc.rc.slot slot) * 4) ≤ oc.o.buf.length → s.m.accErr = [] ∧ s.m.regErr = [] ∧ s.m.scaleErr = [] → 
      Completes (exec (.mmaOperation T 1) s) (fun t => Ended t oc.o 0 0 0 ∧ SameStores t.m s.m ∧ t.m.regs = s.m.regs ∧ ∀ i j, i < 128 → j < 128 → t.m.accAt oc.tm.t (mmaBlk bs).tile i j =
        accDot (s.m.accAt oc.tm.t (mmaBlk bs).tile i j) (mmaRow s.m oc (mmaBlk bs) slot cb ((mmaBlk bs).kb * fmtBits (oc.rc.slot slot) * 4) i) (mmaCol s.m oc (mmaBlk bs) cb b base j) (mmaBlk bs).kb)) ∧
    (∀ (T : Nat) (oc : OpCtx) (col : Bool) (fl : DrainFlags) (bs : List Byte) (slot : Nat), Working s T .matrix oc → oc.o.cmd = .drain col fl bs slot → oc.o.stage = 0 → drainBad oc (drainBlk bs) col fl slot = true → 
      Completes (exec (.drainOperation T 1) s) (fun t => Ended t oc.o 1 0 oc.o.blkAddr ∧ SameStores t.m s.m)) ∧
    (∀ (T : Nat) (oc : OpCtx) (col : Bool) (fl : DrainFlags) (bs : List Byte) (slot : Nat) (w : Nat × List Byte) (m : Mach), Working s T .matrix oc → oc.o.cmd = .drain col fl bs slot → oc.o.stage = 1 → fl.all = false → (drainWrites s.m oc (drainBlk bs) col (oc.rc.slot slot) ++ (if scaleKind (oc.rc.slot slot) ≠ 0 ∧ fl.sm = false then drainScaleWrites s.m oc (drainBlk bs) col (oc.rc.slot slot) else []))[oc.o.prog]? = some w → engWrite1 s.cfg s.m oc w.1 w.2 = (.ok (), m) → 
      Completes (exec (.drainOperation T 1) s) (fun t => Became t oc.o { oc.o with prog := oc.o.prog + 1 } ∧ SameStores t.m m ∧ t.m.acc = s.m.acc)) ∧
    (∀ (T : Nat) (oc : OpCtx) (col : Bool) (fl : DrainFlags) (bs : List Byte) (slot : Nat), Working s T .matrix oc → oc.o.cmd = .drain col fl bs slot → oc.o.stage = 1 → fl.all = false → scaleKind (oc.rc.slot slot) = 0 → (drainWrites s.m oc (drainBlk bs) col (oc.rc.slot slot)).length ≤ oc.o.prog → 
      Completes (exec (.drainOperation T 1) s) (fun t => Became t oc.o { oc.o with due := ⟨[], [], if fl.z then some (drainBlk bs).tile else none, none, none⟩, fin := some (0, 0, 0) } ∧ SameStores t.m s.m ∧ t.m.acc = s.m.acc)) ∧
    (∀ (T : Nat) (oc : OpCtx) (col : Bool) (fl : DrainFlags) (bs : List Byte) (slot : Nat) (as : List (Acc × List Byte)) (m : Mach), Working s T .matrix oc → oc.o.cmd = .drain col fl bs slot → oc.o.stage = 1 → fl.all = true → scaleKind (oc.rc.slot slot) = 0 → engResolve s.cfg s.m oc (drainWrites s.m oc (drainBlk bs) col (oc.rc.slot slot)) = (.ok as, m) → 
      Completes (exec (.drainOperation T 1) s) (fun t => (oneHome as = true ∧ ((drainWrites s.m oc (drainBlk bs) col (oc.rc.slot slot)).map (fun w => w.2.length)).sum ≤ 65536 →
      Became t oc.o { oc.o with due := ⟨as, [], if fl.z then some (drainBlk bs).tile else none, none, none⟩, fin := some (0, 0, 0) }) ∧ (oneHome as = false → Ended t oc.o 1 0 oc.o.blkAddr) ∧ SameStores t.m m ∧ t.m.acc = s.m.acc))

/-- Work of n + 1 units is one unit, then n. A copy whose parameters break a rule ends with FAULT and the block's address; its first unit otherwise chooses its next part; a held row leaves for its destination piece by piece, to memory by a write, packed by the slot of its block; a copy with nothing left ends OK. A header granule that FE would empty ends the copy with its address. A void binding ends OK and a codebook binding leaves its table for the retirement, when every group takes it. A job that has read all its source writes PRODUCED and RCODE 0 to its card. A rotation of length 0 that a team has reached ends; rotations of one number that differ, or break their rule, fail; one move takes the granule of a team, with its state, to the next team's offset. The prologue's last step drains to core scope and lets the team start. A wait for a granule that reaches the limit, the granule still empty, ends the copy with its address. -/
def Obligations.CopySteps : Prop :=
  ∀ (s : State),
    (∀ (n T : Nat), Completes (exec (.tcopyOperation T 1) s) (fun u => exec (.tcopyOperation T (n + 1)) s = exec (.tcopyOperation T n) u)) ∧
    (∀ (n T : Nat), Completes (exec (.packOperation T 1) s) (fun u => exec (.packOperation T (n + 1)) s = exec (.packOperation T n) u)) ∧
    (∀ (n T : Nat), Completes (exec (.prologOperation T 1) s) (fun u => exec (.prologOperation T (n + 1)) s = exec (.prologOperation T n) u)) ∧
    (∀ (n T : Nat), Completes (exec (.dcmpJob T 1) s) (fun u => exec (.dcmpJob T (n + 1)) s = exec (.dcmpJob T n) u)) ∧
    (∀ (T : Nat) (oc : OpCtx) (fl : CopyFlags) (blk srec drec : List Byte), Working s T .copy oc → oc.o.cmd = .tcopy false fl blk srec drec → oc.o.stage = 0 → tcBad oc ⟨false, fl, blk, layOf srec, layOf drec⟩ = true → 
      Completes (exec (.tcopyOperation T 1) s) (fun t => Ended t oc.o 1 0 oc.o.blkAddr ∧ SameStores t.m s.m)) ∧
    (∀ (T : Nat) (oc : OpCtx) (fl : CopyFlags) (blk srec drec : List Byte), Working s T .copy oc → oc.o.cmd = .tcopy true fl blk srec drec → oc.o.stage = 0 → tcBad oc ⟨true, fl, blk, layOf srec, layOf drec⟩ = true → 
      Completes (exec (.packOperation T 1) s) (fun t => Ended t oc.o 1 0 oc.o.blkAddr ∧ SameStores t.m s.m)) ∧
    (∀ (T : Nat) (oc : OpCtx) (fl : CopyFlags) (blk srec drec : List Byte), Working s T .copy oc → oc.o.cmd = .tcopy false fl blk srec drec → oc.o.stage = 0 → tcBad oc ⟨false, fl, blk, layOf srec, layOf drec⟩ = false → 
      Completes (exec (.tcopyOperation T 1) s) (fun t => (feHeader s.m oc ⟨false, fl, blk, layOf srec, layOf drec⟩ = none → Became t oc.o { oc.o with stage := if fl.cr then 1 else if fl.ver then 2 else 3 }) ∧
      (∀ a, feHeader s.m oc ⟨false, fl, blk, layOf srec, layOf drec⟩ = some a → Ended t oc.o 1 0x11 (BitVec.ofNat 64 a)) ∧ SameStores t.m s.m)) ∧
    (∀ (T : Nat) (oc : OpCtx) (fl : CopyFlags) (blk srec drec : List Byte) (a : Nat) (m : Mach), Working s T .copy oc → oc.o.cmd = .tcopy false fl blk srec drec → oc.o.stage = 3 → fl.all = false ∧ fl.cr = false → (layOf srec).rowTotal ≤ oc.o.buf.length → (layOf drec).loc oc.o.pos = .mem a → engWrite1 s.cfg s.m oc a (bytesAt oc.o.buf (oc.o.pos % (layOf srec).rowTotal) ((layOf drec).piece oc.o.pos)) = (.ok (), m) → 
      Completes (exec (.tcopyOperation T 1) s) (fun t => SameStores t.m m ∧ t.m.regs = s.m.regs ∧ ∀ x ∈ t.m.ops, x.t = oc.o.t → x.k = oc.o.k → x.n = oc.o.n → x.pos = oc.o.pos + (layOf drec).piece oc.o.pos)) ∧
    (∀ (T : Nat) (oc : OpCtx) (fl : CopyFlags) (blk srec drec : List Byte) (a : Nat) (as : List (Acc × List Byte)) (m : Mach), Working s T .copy oc → oc.o.cmd = .tcopy true fl blk srec drec → oc.o.stage = 3 → fl.all = false ∧ fl.cr = false → (layOf srec).rowTotal ≤ oc.o.buf.length → (layOf drec).loc oc.o.pos = .mem a → packAcc s.cfg s.m oc a (bytesAt oc.o.buf (oc.o.pos % (layOf srec).rowTotal) 512) = (.ok as, m) → 
      Completes (exec (.packOperation T 1) s) (fun t => SameStores t.m (m.deliverAll oc.o.leaf as) ∧ ∀ x ∈ t.m.ops, x.t = oc.o.t → x.k = oc.o.k → x.n = oc.o.n → x.pos = oc.o.pos + 512)) ∧
    (∀ (T : Nat) (oc : OpCtx) (fl : CopyFlags) (blk srec drec : List Byte), Working s T .copy oc → oc.o.cmd = .tcopy false fl blk srec drec → oc.o.stage = 6 → fl.ver = false → 
      Completes (exec (.tcopyOperation T 1) s) (fun t => Ended t oc.o 0 0 0 ∧ SameStores t.m s.m ∧ t.m.regs = s.m.regs)) ∧
    (∀ (T : Nat) (oc : OpCtx) (fl : CopyFlags) (blk srec drec : List Byte), Working s T .copy oc → oc.o.cmd = .tcopy true fl blk srec drec → oc.o.stage = 6 → fl.ver = false → 
      Completes (exec (.packOperation T 1) s) (fun t => Ended t oc.o 0 0 0 ∧ SameStores t.m s.m ∧ t.m.regs = s.m.regs)) ∧
    (∀ (T : Nat) (oc : OpCtx) (k : Nat), Working s T .copy oc → oc.o.cmd = .prolog k → (oc.rc.binds.getD k ⟨0, 0, 0, 0, false, 0⟩).kind = 0 → 
      Completes (exec (.prologOperation T 1) s) (fun t => Ended t oc.o 0 0 0 ∧ SameStores t.m s.m ∧ t.m.groups = s.m.groups)) ∧
    (∀ (T : Nat) (oc : OpCtx) (k : Nat) (bs : List Byte) (m : Mach), Working s T .copy oc → oc.o.cmd = .prolog k → (oc.rc.binds.getD k ⟨0, 0, 0, 0, false, 0⟩).kind = 2 → engRead s.cfg s.m oc (oc.rc.binds.getD k ⟨0, 0, 0, 0, false, 0⟩).addr.toNat 32 = (.ok bs, m) → 
      Completes (exec (.prologOperation T 1) s) (fun t => Became t oc.o { oc.o with due := ⟨[], [], none, none, some bs⟩, fin := some (0, 0, 0) } ∧ t.m.groups = m.groups ∧ SameStores t.m m)) ∧
    (∀ (T : Nat) (oc : OpCtx) (arr : Bool) (blk : List Byte) (m : Mach), Working s T .dcmp oc → oc.o.cmd = .dcjob arr blk → (cardOf blk).reserved = false → (cardOf blk).srclen ≤ 2 ^ 31 → (cardOf blk).srclen ≤ oc.o.pos → oc.o.ins.getD 1 [] = [] → engWrite1 s.cfg s.m oc (genOfScr oc.o.blkAddr + 0x28) (leBytes 4 oc.o.prog ++ leBytes 4 0) = (.ok (), m) → 
      Completes (exec (.dcmpJob T 1) s) (fun t => Ended t oc.o 0 0 0 ∧ SameStores t.m m ∧ t.m.regs = s.m.regs)) ∧
    (∀ (T : Nat) (oc : OpCtx) (arr : Bool) (blk : List Byte), Working s T .dcmp oc → oc.o.cmd = .dcjob arr blk → ((cardOf blk).reserved = true ∨ 2 ^ 31 < (cardOf blk).srclen) → 
      Completes (exec (.dcmpJob T 1) s) (fun t => Ended t oc.o 1 0 oc.o.blkAddr ∧ SameStores t.m s.m)) ∧
    (∀ (K n : Nat) (cl : Cluster) (la : Launch) (rc : LRec) (o : Op) (bwd : Bool) (off : Word), s.m.cluster? K = some cl → cl.pre ≠ .stopping → cl.pre ≠ .saved → s.m.launch? cl.l = some la → la.rec_ = some rc → ((s.m.teamsOf K).filterMap (fun tm => s.m.curRrot tm.t)).find? (fun p => ((s.m.teamsOf K).filterMap (fun tm => s.m.curRrot tm.t)).all (fun x => decide (p.prog ≤ x.prog))) = some o → o.cmd = .rrot bwd off 0 → rrotBad rc.scr off.toNat 0 = false → (∀ tm ∈ s.m.teamsOf K, tm.rots[o.prog]? = some (bwd, off.toNat, 0) ∨ (tm.rots[o.prog]? = none ∧ ∃ g ∈ s.m.groupsOf tm.t, g.ended = false)) → 
      Completes (exec (.ringRotation K n) s) (fun t => SameStores t.m s.m ∧ t.m.regs = s.m.regs ∧ Ended t o 0 0 0)) ∧
    (∀ (K n : Nat) (cl : Cluster) (la : Launch) (rc : LRec) (o : Op) (bwd : Bool) (off len : Word), s.m.cluster? K = some cl → cl.pre ≠ .stopping → cl.pre ≠ .saved → s.m.launch? cl.l = some la → la.rec_ = some rc → ((s.m.teamsOf K).filterMap (fun tm => s.m.curRrot tm.t)).find? (fun p => ((s.m.teamsOf K).filterMap (fun tm => s.m.curRrot tm.t)).all (fun x => decide (p.prog ≤ x.prog))) = some o → o.cmd = .rrot bwd off len → (∃ tm ∈ s.m.teamsOf K, ∃ r, tm.rots[o.prog]? = some r ∧ (r ≠ (bwd, off.toNat, len.toNat) ∨ rrotBad rc.scr r.2.1 r.2.2 = true)) → 
      Completes (exec (.ringRotation K n) s) (fun t => SameStores t.m s.m ∧ t.m.regs = s.m.regs ∧ ∀ x ∈ t.m.ops, (∃ p ∈ s.m.rotsAt (s.m.teamsOf K) o.prog, x.t = p.t ∧ x.k = p.k ∧ x.n = p.n) → x.fin.map Prod.fst = some 1)) ∧
    (∀ (K : Nat) (cl : Cluster) (la : Launch) (rc : LRec) (x y : Team) (o p : Op) (bwd : Bool) (off len : Word), s.m.cluster? K = some cl → cl.pre ≠ .stopping → cl.pre ≠ .saved → s.m.teamsOf K = [x, y] → x.rots[o.prog]? = some (bwd, off.toNat, len.toNat) → y.rots[o.prog]? = some (bwd, off.toNat, len.toNat) → p.prog = o.prog → s.m.launch? cl.l = some la → la.rec_ = some rc → s.m.curOp x.t .copy = some o ∧ o.cmd = .rrot bwd off len → s.m.curOp y.t .copy = some p ∧ p.cmd = .rrot bwd off len → len ≠ 0 → rrotBad rc.scr off.toNat len.toNat = false → (∀ r ∈ s.m.rings, r.c ≠ K) → s.m.bufs = [] → s.m.canonical = true → x.t ≠ y.t → 
      Completes (exec (.ringRotation K 1) s) (fun t => t.m.homeBytes (.scr y.t) off.toNat 16 none = s.m.homeBytes (.scr x.t) off.toNat 16 none ∧ t.m.granule y.t (off.toNat / 16) = s.m.granule x.t (off.toNat / 16) ∧ t.m.regs = s.m.regs)) ∧
    (∀ (T : Nat) (tm : Team) (cl : Cluster) (la : Launch) (rc : LRec), s.m.team? T = some tm → s.m.cluster? tm.c = some cl → s.m.launch? tm.l = some la → la.rec_ = some rc → tm.prolDone = false → cl.started = false → tm.prol = 4 → cl.pre ≠ .saved → cl.pre ≠ .stopping → (∀ o ∈ s.m.opsOf T .copy, o.n ≠ 0) → 
      Completes (exec (.prologue T) s) (fun t => t.m.team? T = some { tm with prolDone := true } ∧ SameStores t.m (s.m.drain (.eng T .copy) 1) ∧ t.m.ops = (s.m.drain (.eng T .copy) 1).ops)) ∧
    (∀ (T : Nat) (tm : Team) (cl : Cluster) (la : Launch) (rc : LRec), s.m.team? T = some tm → s.m.cluster? tm.c = some cl → s.m.launch? tm.l = some la → la.rec_ = some rc → tm.prolDone = false → cl.started = false → tm.prol < 4 → cl.pre ≠ .saved → cl.pre ≠ .stopping → (∀ o ∈ s.m.opsOf T .copy, o.n ≠ 0) → 
      Completes (exec (.prologue T) s) (fun t => t.m.ops.map (fun o => (o.t, o.k, o.n, o.cmd)) = s.m.ops.map (fun o => (o.t, o.k, o.n, o.cmd)) ++ [(T, .copy, 0, .prolog tm.prol)] ∧ t.m.teams = s.m.teams ∧ (tm.prol ≠ 0 → SameStores t.m s.m))) ∧
    (∀ (T : Nat) (oc : OpCtx) (fl : CopyFlags) (blk srec drec : List Byte) (pk : Bool) (n a : Nat), Working s T .copy oc → oc.o.cmd = .tcopy pk fl blk srec drec → oc.o.feSince = some n → 2 ^ oc.rc.fek ≤ s.m.cyc - n → fl.ver = false → tcAwaits s.m oc ⟨pk, fl, blk, layOf srec, layOf drec⟩ ((if fl.all || fl.cr then 0 else oc.o.pos) + oc.o.buf.length) = some a → 
      Completes (exec (.engineFeTimeout T) s) (fun t => Ended t oc.o 1 0 (BitVec.ofNat 64 a) ∧ SameStores t.m s.m))

/-- A descriptor, record or block that breaks its table ends the operation with FAULT and an operation of length 0 ends OK; XPUT begins its transfer and reads its prefix access by access, each packet leaving once its bytes are read; XGET asks its source for the bytes. A collective whose ranks differ ends with FAULT, a SWONLY one without slots with NOSLOT; with every contribution it needs it forms its result, its destination written it acknowledges them, and it ends once its own are acknowledged; a chunk another device asks for again is noted whatever it is at, and leaves again once the source has been read again. XSORT, its records all placed, ends OK, and places each record at the number of records before it in key order. An arm fires when its count word reaches its threshold, or has, and watches it below that. A finished operation retires: what it owes is done, its writes have left to its scope, its counter has risen by 1 (bit 63 set when it failed), its report names a failure, and it is gone. -/
def Obligations.ExchangeSteps : Prop :=
  ∀ (s : State),
    (∀ (n T : Nat) (w : CollMsg), Completes (exec (.collective T 1 w) s) (fun u => exec (.collective T (n + 1) w) s = exec (.collective T n .quiet) u)) ∧
    (∀ (n T : Nat), Completes (exec (.xsortOperation T 1) s) (fun u => exec (.xsortOperation T (n + 1)) s = exec (.xsortOperation T n) u)) ∧
    (∀ (T : Nat) (oc : OpCtx) (b : List Byte), Working s T .exch oc → oc.o.cmd = .xput b → oc.o.xfer = none → (descOf b).bad false = true → 
      Completes (exec (.xputOperation T) s) (fun t => Ended t oc.o 1 0 oc.o.blkAddr ∧ SameStores t.m s.m ∧ t.m.net = s.m.net)) ∧
    (∀ (T : Nat) (oc : OpCtx) (b : List Byte), Working s T .exch oc → oc.o.cmd = .xget b → oc.o.xfer = none → (descOf b).bad true = true → 
      Completes (exec (.xgetOperation T) s) (fun t => Ended t oc.o 1 0 oc.o.blkAddr ∧ SameStores t.m s.m ∧ t.m.net = s.m.net)) ∧
    (∀ (T : Nat) (oc : OpCtx) (b : List Byte), Working s T .exch oc → oc.o.cmd = .xput b → oc.o.xfer = none → (descOf b).bad false = false → (descOf b).len = 0 → 
      Completes (exec (.xputOperation T) s) (fun t => Ended t oc.o 0 0 0 ∧ SameStores t.m s.m ∧ t.m.net = s.m.net)) ∧
    (∀ (T : Nat) (oc : OpCtx) (b : List Byte), Working s T .exch oc → oc.o.cmd = .xget b → oc.o.xfer = none → (descOf b).bad true = false → (descOf b).len = 0 → 
      Completes (exec (.xgetOperation T) s) (fun t => Ended t oc.o 0 0 0 ∧ SameStores t.m s.m ∧ t.m.net = s.m.net)) ∧
    (∀ (T : Nat) (oc : OpCtx) (b : List Byte), Working s T .exch oc → oc.o.cmd = .xput b → oc.o.xfer = none → (descOf b).bad false = false → (descOf b).len ≠ 0 → 
      Completes (exec (.xputOperation T) s) (fun t => Became t oc.o { oc.o with xfer := some ⟨s.m.fresh, 0, 0, 0, none, []⟩ } ∧ t.m.fresh = s.m.fresh + 1 ∧ SameStores t.m s.m)) ∧
    (∀ (T : Nat) (oc : OpCtx) (b : List Byte) (x : Xfer) (bs : List Byte) (m : Mach), Working s T .exch oc → oc.o.cmd = .xput b → oc.o.xfer = some x → x.bad = none → cutFrom s.cfg s.m (nbits (descOf b).dst 61 49) = false → oc.o.stage = 0 → x.sent < (descOf b).prefixLen → engRead1 s.cfg s.m oc (((descOf b).src + x.sent + oc.o.buf.length) % 2 ^ 64) (pieceLen (((descOf b).src + x.sent + oc.o.buf.length) % 2 ^ 64) ((min 1024 ((descOf b).prefixLen - x.sent)) - oc.o.buf.length)) = (.ok bs, m) → 
      Completes (exec (.xputOperation T) s) (fun t => (oc.o.buf.length + bs.length < (min 1024 ((descOf b).prefixLen - x.sent)) → Became t oc.o { oc.o with buf := oc.o.buf ++ bs } ∧ t.m.net = m.net) ∧
      ((min 1024 ((descOf b).prefixLen - x.sent)) ≤ oc.o.buf.length + bs.length → Became t oc.o { oc.o with buf := [], xfer := some { x with sent := x.sent + (min 1024 ((descOf b).prefixLen - x.sent)), outstanding := x.outstanding + 1 } } ∧
        t.m.net = m.net ++ [.packet (nbits (descOf b).dst 61 49) ⟨s.cfg.device.toNat, x.xid, oc.la.p, (descOf b).dst % 2 ^ 49, x.sent, (descOf b).len, oc.o.buf ++ bs,
        if (descOf b).actr = 0 then none else some ((descOf b).actr % 2 ^ 49), none, (descOf b).prefixLen, decide ((descOf b).len ≤ x.sent + (min 1024 ((descOf b).prefixLen - x.sent))), false, none⟩]) ∧ SameStores t.m m)) ∧
    (∀ (T : Nat) (oc : OpCtx) (b : List Byte) (a : Acc) (va : Nat) (m : Mach), Working s T .exch oc → oc.o.cmd = .xget b → oc.o.xfer = none → (descOf b).bad true = false → (descOf b).len ≠ 0 → engPlace s.cfg s.m oc (descOf b).dst 1 .write = (.ok (a, va), m) → cutFrom s.cfg m (nbits (descOf b).src 61 49) = false → 
      Completes (exec (.xgetOperation T) s) (fun t => t.m.net = m.net ++ [.request (nbits (descOf b).src 61 49) ⟨s.cfg.device.toNat, m.fresh, oc.la.p, (descOf b).src % 2 ^ 49, (descOf b).len, 0, (descOf b).len, (descOf b).prio, true, none⟩] ∧
      Became t oc.o { oc.o with xfer := some ⟨m.fresh, 0, 0, 0, none, []⟩ } ∧ t.m.hreqs.length = m.hreqs.length + 1)) ∧
    (∀ (T : Nat) (oc : OpCtx) (blk crec drec : List Byte) (w : CollMsg), Working s T .exch oc → oc.o.cmd = .coll blk crec drec → oc.o.stage = 0 → (collOf crec).bad = true → 
      Completes (exec (.collective T 1 w) s) (fun t => Ended t oc.o 1 0 oc.o.blkAddr ∧ SameStores t.m s.m)) ∧
    (∀ (T : Nat) (oc : OpCtx) (blk crec drec : List Byte) (recs : List (Nat × List Byte)) (slots : Bool), Working s T .exch oc → oc.o.cmd = .coll blk crec drec → oc.o.stage = 0 → (collOf crec).bad = false → (collOf crec).group.length ≠ 1 → recs.length = (collOf crec).peers.length → (∀ r ∈ recs, (collOf r.2).tag = (collOf crec).tag ∧ r.1 = oc.o.v1.toNat) → (∃ r ∈ recs, (collOf r.2).key (layOf (bytesAt r.2 0 128)).elems ≠ (collOf crec).key (layOf (bytesAt crec 0 128)).elems) → 
      Completes (exec (.collective T 1 (.start slots recs)) s) (fun t => Ended t oc.o 1 0 oc.o.blkAddr ∧ SameStores t.m s.m)) ∧
    (∀ (T : Nat) (oc : OpCtx) (blk crec drec : List Byte) (recs : List (Nat × List Byte)) (slots : Bool), Working s T .exch oc → oc.o.cmd = .coll blk crec drec → oc.o.stage = 0 → (collOf crec).bad = false → (collOf crec).group.length ≠ 1 → recs.length = (collOf crec).peers.length → (∀ r ∈ recs, (collOf r.2).tag = (collOf crec).tag ∧ r.1 = oc.o.v1.toNat) → collBad s.m oc (collOf crec) blk (layOf (bytesAt crec 0 128)) (layOf drec) = true → 
      Completes (exec (.collective T 1 (.start slots recs)) s) (fun t => Ended t oc.o 1 0 oc.o.blkAddr ∧ SameStores t.m s.m)) ∧
    (∀ (T : Nat) (oc : OpCtx) (blk crec drec : List Byte) (recs : List (Nat × List Byte)), Working s T .exch oc → oc.o.cmd = .coll blk crec drec → oc.o.stage = 0 → (collOf crec).bad = false → (collOf crec).group.length ≠ 1 → recs.length = (collOf crec).peers.length → (∀ r ∈ recs, (collOf r.2).tag = (collOf crec).tag ∧ r.1 = oc.o.v1.toNat) → (∀ r ∈ recs, (collOf r.2).key (layOf (bytesAt r.2 0 128)).elems = (collOf crec).key (layOf (bytesAt crec 0 128)).elems) → collBad s.m oc (collOf crec) blk (layOf (bytesAt crec 0 128)) (layOf drec) = false → (collOf crec).swonly = true → 
      Completes (exec (.collective T 1 (.start false recs)) s) (fun t => Ended t oc.o 7 0 0 ∧ SameStores t.m s.m)) ∧
    (∀ (T : Nat) (oc : OpCtx) (blk crec drec : List Byte) (ins : List (List Byte)) (e : Nat), Working s T .exch oc → oc.o.cmd = .coll blk crec drec → oc.o.stage = 3 → collCut s.cfg s.m oc.o (collOf crec) = false → (collOf crec).destElems (collOf crec).pos (collOf crec).group.length (layOf (bytesAt crec 0 128)).elems = some e → ins.length = (collOf crec).group.length - 1 → (collOf crec).pos < (collOf crec).group.length → (∀ i, (collOf crec).needs i = true → i < (collOf crec).group.length →
      ((ins.take (collOf crec).pos ++ [oc.o.buf] ++ ins.drop (collOf crec).pos).getD i []).length = (collOf crec).givenLen (layOf (bytesAt crec 0 128)).elems) → 
      Completes (exec (.collective T 1 (.data ins)) s) (fun t => Became t oc.o { oc.o with stage := 4, pos := 0, buf := (collOf crec).result ((collOf crec).pair s.m oc.tm.core) (collOf crec).pos (layOf (bytesAt crec 0 128)).elems (ins.take (collOf crec).pos ++ [oc.o.buf] ++ ins.drop (collOf crec).pos) } ∧ SameStores t.m s.m)) ∧
    (∀ (T : Nat) (oc : OpCtx) (blk crec drec : List Byte), Working s T .exch oc → oc.o.cmd = .coll blk crec drec → oc.o.stage = 4 → collCut s.cfg s.m oc.o (collOf crec) = false → oc.o.again = [] → oc.o.buf.length ≤ oc.o.pos → 
      Completes (exec (.collective T 1 .quiet) s) (fun t => Became t oc.o { oc.o with stage := 5, buf := [] } ∧ SameStores t.m s.m ∧ t.m.net = s.m.net ++ (((collOf crec).group.zip (List.range (collOf crec).group.length)).filter (fun r => r.1 != (collOf crec).rank && (collOf crec).needs r.2)).map
        (fun r => .collAck ((collOf crec).devOf (oc.o.ins.getD 0 []) r.1) (collOf crec).tag oc.o.v1.toNat))) ∧
    (∀ (T : Nat) (oc : OpCtx) (blk crec drec : List Byte), Working s T .exch oc → oc.o.cmd = .coll blk crec drec → 5 ≤ oc.o.stage → collCut s.cfg s.m oc.o (collOf crec) = false → 
      Completes (exec (.collective T 1 .acked) s) (fun t => Ended t oc.o 0 0 0 ∧ SameStores t.m s.m)) ∧
    (∀ (T : Nat) (oc : OpCtx) (blk crec drec : List Byte), Working s T .exch oc → oc.o.cmd = .coll blk crec drec → 5 ≤ oc.o.stage → collCut s.cfg s.m oc.o (collOf crec) = false → oc.o.again = [] → (collOf crec).receivers = [] ∨ oc.o.ins.getD 3 [] ≠ [] → 
      Completes (exec (.collective T 1 .quiet) s) (fun t => Ended t oc.o 0 0 0 ∧ SameStores t.m s.m)) ∧
    (∀ (T : Nat) (oc : OpCtx) (blk crec drec : List Byte) (dev chunk : Nat), Working s T .exch oc → oc.o.cmd = .coll blk crec drec → 3 ≤ oc.o.stage → collCut s.cfg s.m oc.o (collOf crec) = false → (collOf crec).receivers ≠ [] → 
      Completes (exec (.collective T 1 (.again dev chunk)) s) (fun t => Became t oc.o (oc.o.putIns 1 (oc.o.again ++ leBytes 4 dev ++ leBytes 4 chunk)) ∧ SameStores t.m s.m ∧ t.m.net = s.m.net)) ∧
    (∀ (T : Nat) (oc : OpCtx) (blk crec drec : List Byte), Working s T .exch oc → oc.o.cmd = .coll blk crec drec → 3 ≤ oc.o.stage → collCut s.cfg s.m oc.o (collOf crec) = false → oc.o.again ≠ [] → (layOf (bytesAt crec 0 128)).plain.nrows * (layOf (bytesAt crec 0 128)).plain.rowTotal ≤ (oc.o.ins.getD 2 []).length → 
      Completes (exec (.collective T 1 .quiet) s) (fun t => Became t oc.o ((oc.o.putIns 2 []).putIns 1 (oc.o.again.drop 8)) ∧ SameStores t.m s.m ∧ t.m.net = (sendChunks s.m (collOf crec).tag oc.o.v1.toNat (natAt oc.o.again 0 4) ((collOf crec).given ((collOf crec).pair s.m oc.tm.core) (layOf (bytesAt crec 0 128)).elems (oc.o.ins.getD 2 [])) (fun i => i == natAt oc.o.again 4 4)).net)) ∧
    (∀ (T : Nat) (oc : OpCtx) (blk : List Byte), Working s T .exch oc → oc.o.cmd = .xsort blk → oc.o.stage = 0 → (sortOf blk).bad = true → 
      Completes (exec (.xsortOperation T 1) s) (fun t => Ended t oc.o 1 0 oc.o.blkAddr ∧ SameStores t.m s.m)) ∧
    (∀ (T : Nat) (oc : OpCtx) (blk : List Byte), Working s T .exch oc → oc.o.cmd = .xsort blk → oc.o.stage = 1 → (sortOf blk).nrec ≤ oc.o.prog → (∃ n, n < (sortOf blk).nrec ∧ (sortOf blk).nseg ≤ keyAt oc.o.buf n) → 
      Completes (exec (.xsortOperation T 1) s) (fun t => Ended t oc.o 1 0 oc.o.blkAddr ∧ SameStores t.m s.m)) ∧
    (∀ (T : Nat) (oc : OpCtx) (blk : List Byte), Working s T .exch oc → oc.o.cmd = .xsort blk → 3 ≤ oc.o.stage → (sortOf blk).nrec ≤ oc.o.pos → 
      Completes (exec (.xsortOperation T 1) s) (fun t => Ended t oc.o 0 0 0 ∧ SameStores t.m s.m)) ∧
    (∀ (T : Nat) (oc : OpCtx) (blk r : List Byte) (a w : Nat) (m : Mach), Working s T .exch oc → oc.o.cmd = .xsort blk → 3 ≤ oc.o.stage → oc.o.pos < (sortOf blk).nrec → oc.o.ins.getD 0 [] = r → 4 * (sortOf blk).rsz ≤ r.length → a = ((sortOf blk).dst + 4 * (sortOf blk).rsz * (((List.range (sortOf blk).nrec).filter (fun i => decide (keyAt oc.o.buf i < keyAt oc.o.buf oc.o.pos))).length +
        ((List.range oc.o.pos).filter (fun i => keyAt oc.o.buf i == keyAt oc.o.buf oc.o.pos)).length) + oc.o.tries) % 2 ^ 64 → w = pieceLen a (4 * (sortOf blk).rsz - oc.o.tries) → engWrite1 s.cfg s.m oc a (bytesAt r oc.o.tries w) = (.ok (), m) → 
      Completes (exec (.xsortOperation T 1) s) (fun t => Became t oc.o (if 4 * (sortOf blk).rsz ≤ oc.o.tries + w then { oc.o with pos := oc.o.pos + 1, ins := [], tries := 0 } else { oc.o with tries := oc.o.tries + w }) ∧ SameStores t.m m)) ∧
    (∀ (T n : Nat) (o : Op) (oc : OpCtx) (desc : List Byte) (cw thr : DWord) (v : Nat) (a : Acc) (m : Mach), (s.m.opsOf T .exch).find? (fun o => o.n == n) = some o → opCtx s.m o = some oc → o.cmd = .xarm desc cw thr → o.fin = none → oc.cl.pre ≠ .saved → oc.cl.pre ≠ .stopping → o.fired = false → engWord s.cfg s.m oc cw.toNat .read = (.ok (v, a), m) → 
      Completes (exec (.triggeredSend T n) s) (fun t => (o.met = true ∨ thr.toNat % 2 ^ 63 ≤ v % 2 ^ 63 → Became t o { o with fired := true, watch := none } ∧ ∀ x ∈ t.m.copies, x.pt ≠ o.leaf) ∧
      (o.met = false → v % 2 ^ 63 < thr.toNat % 2 ^ 63 → Became t o { o with watch := some a }) ∧ SameStores t.m m ∧ t.m.regs = s.m.regs)) ∧
    (∀ (T : Nat) (k : EngCtx) (o : Op) (rest : List Op) (oc : OpCtx) (st sub : Nat) (addr : DWord), s.m.opsOf T k = o :: rest → o.fin = some (st, sub, addr) → opCtx s.m o = some oc → o.n ≠ 0 → oc.cl.pre ≠ .saved → o.await = none → o.due = ⟨[], [], none, none, none⟩ → s.m.bufs = [] → s.m.canonical = true → ctxNum k < oc.tm.reports.length → 
      Completes (exec (.engineRetire T k) s) (fun t => t.m.ops.map (fun x => (x.t, x.k, x.n, x.cmd, x.fin)) = (s.m.ops.filter (fun x => !(x.t == T && x.k == k && x.n == o.n))).map (fun x => (x.t, x.k, x.n, x.cmd, x.fin)) ∧
      leNat (t.m.homeBytes (.scr T) (8 * ctxNum k) 8 none) = countAdd (leNat (s.m.homeBytes (.scr T) (8 * ctxNum k) 8 none)) 1 (decide (st ≠ 0)) ∧
      (t.m.team? T).map (fun x => x.reports.getD (ctxNum k) ⟨false, 0, 0, 0, 0⟩) = some (if st = 0 then oc.tm.reports.getD (ctxNum k) ⟨false, 0, 0, 0, 0⟩ else ⟨true, st, sub, o.n, addr⟩))) ∧
    (∀ (T : Nat) (k : EngCtx) (o : Op) (rest : List Op) (oc : OpCtx) (st sub : Nat) (addr : DWord), s.m.opsOf T k = o :: rest → o.fin = some (st, sub, addr) → opCtx s.m o = some oc → o.n ≠ 0 → oc.cl.pre ≠ .saved → o.await = none → (∀ w ∈ o.due.writes, isFab w.1.sp = false) → s.m.bufs = [] → 
      Completes (exec (.engineRetire T k) s) (fun t => (∀ x ∈ t.m.ops, ¬(x.t = T ∧ x.k = k ∧ x.n = o.n)) ∧ (∀ w ∈ o.due.writes, ∃ d ∈ t.m.hist, d.sp = w.1.sp ∧ d.addr = w.1.addr ∧ d.bytes = w.2) ∧
      (∀ i, o.due.zero = some i → ∀ x y, x < 128 → y < 128 → t.m.accAt T i x y = 0) ∧ (∀ bs, o.due.book = some bs → ∀ g ∈ t.m.groups, g.t = T → g.codebook = codebookOf bs)))

/-- LAUNCH makes the launch wait for admission. LAUNCH_ADMIT keeps the record and places the first clusters, or refuses the launch. CLUSTER_START places the next cluster. GROUP_START starts a cluster whose prologues are done: each group has one fibre at the entry with all lanes. ALLOCATION_RELEASE takes a cluster that is over away with its teams. PREEMPT stops the running clusters of the launch it names, with notice (each group then has a pending trap PREEMPT, whose RESTART bit is the model's reading, log entry 40) or without; NOTICE_EXPIRY ends a notice whose time is over; TEAM_SAVE saves a stopping cluster whose teams are settled; that every byte of its save pool is then a free value is the model's choice (log entry 63); TEAM_RESTORE makes a saved cluster run where it is placed. -/
def Obligations.LaunchSteps : Prop :=
  ∀ (s : State),
    (∀ (q : Nat) (e : Entry) , (s.m.queue q).cur = some e ∧ e.op = 1 ∧ e.begun = false ∧ e.fin = none → 
      Completes (exec (.launch q) s) (fun t => t.m.launches = s.m.launches ++ [⟨s.m.fresh, q, e.index, BitVec.ofNat 32 (natAt e.bytes 4 4), e.flag 8, e.flag 11, e.flag 10, (s.m.queue q).part, (s.m.queue q).ctx, (s.m.queue q).prio, none,
        BitVec.ofNat 64 (e.word 1), false, 0, 0, none, none⟩] ∧ (t.m.queue q).cur = some { e with begun := true, l := s.m.fresh } ∧ SameStores t.m s.m)) ∧
    (∀ (l : Nat) (place : List (List Origin)) (la : Launch) (pt : Part) (b : List Byte) (m : Mach), s.m.launch? l = some la → s.cfg.part? la.p = some pt → la.admitted = false → s.m.wsCopying la.p = false → readRec s.cfg s.m la = (.ok b, m) → refused s.cfg m la b = true → 
      Completes (exec (.launchAdmit l place) s) (fun t => t.m.launch? l = none ∧ t.m.clusters = s.m.clusters ∧ t.m.teams = s.m.teams ∧ t.m.fibres = s.m.fibres)) ∧
    (∀ (l : Nat) (place : List (List Origin)) (la : Launch) (pt : Part) (b : List Byte) (m : Mach) (seats : List (List Seat)), s.m.launch? l = some la → s.cfg.part? la.p = some pt → la.admitted = false → s.m.wsCopying la.p = false → readRec s.cfg s.m la = (.ok b, m) → refused s.cfg m la b = false → mayServe s.cfg s.m pt ⟨2, la, lrecOf b, (lrecOf b).unit⟩ = true → place.length = (lrecOf b).unit → takeAll pt la.x (lrecOf b) s.m.seats place = some seats → 
      Completes (exec (.launchAdmit l place) s) (fun t => (t.m.launch? l).map (fun x => (x.rec_, x.admitted, x.nextClu)) = some (some (lrecOf b), true, la.nextClu + place.length) ∧ t.m.lastq = (la.p, la.q) :: s.m.lastq.filter (fun e => e.1 != la.p) ∧ t.m.clusters.length = s.m.clusters.length + place.length ∧
      ∀ cl ∈ t.m.clusters, cl ∈ s.m.clusters ∨ (cl.l = l ∧ cl.started = false ∧ cl.pre = .running))) ∧
    (∀ (l : Nat) (place : List Origin) (la : Launch) (rc : LRec) (pt : Part) (seats : List (List Seat)), s.m.launch? l = some la → la.rec_ = some rc → s.cfg.part? la.p = some pt → la.startable rc = true → (∀ cl ∈ s.m.clusters, cl.l = l → cl.leaving = true → cl.pre = .saved) → mayServe s.cfg s.m pt ⟨1, la, rc, 1⟩ = true → takeAll pt la.x rc s.m.seats [place] = some seats → 
      Completes (exec (.clusterStart l place) s) (fun t => (t.m.launch? l).map Launch.nextClu = some (la.nextClu + 1) ∧ t.m.lastq = (la.p, la.q) :: s.m.lastq.filter (fun e => e.1 != la.p) ∧ ∃ cl, t.m.clusters = s.m.clusters ++ [cl] ∧ cl.l = l ∧ cl.num = la.nextClu ∧ cl.cores = cluCores rc place ∧ cl.started = false ∧ cl.pre = .running)) ∧
    (∀ (K : Nat) (cl : Cluster) (la : Launch) (rc : LRec), s.m.cluster? K = some cl → s.m.launch? cl.l = some la → la.rec_ = some rc → cl.started = false → cl.pre = .running → la.stop = none → la.prolFail = none → (rc.persist = false → ∀ k ∈ s.m.clusters, k.l = cl.l → k.num < cl.num → k.started = true) → (∀ tm ∈ s.m.teams, (if rc.persist then tm.l = cl.l else tm.c = K) → tm.prolDone = true) → 
      Completes (exec (.groupStart K) s) (fun t => (t.m.cluster? K).map Cluster.started = some true ∧ t.m.regs = s.m.regs ∧ SameStores t.m s.m ∧ ∀ tm ∈ s.m.teamsOf K, ∀ g, g < rc.ngrp →
        ∃ f ∈ t.m.fibres, f.ref = ⟨tm.t, g, 0⟩ ∧ f.pc = rc.entry ∧ f.pred = 0xFFFFFFFF ∧ f.base = 0 ∧ f.run = false ∧ f.wait = none)) ∧
    (∀ (K : Nat) (cl : Cluster) (la : Launch) (rc : LRec), s.m.cluster? K = some cl → s.m.launch? cl.l = some la → la.rec_ = some rc → cl.pre ≠ .saved → cl.started = true → (∀ tm ∈ s.m.teamsOf K, (∀ g ∈ s.m.groupsOf tm.t, g.ended = true) ∧ (∀ o ∈ s.m.ops, o.t ≠ tm.t) ∧ tm.inbound = 0 ∧ s.m.promised tm.t = false) → 
      Completes (exec (.allocationRelease K) s) (fun t => t.m.cluster? K = none ∧ ∀ tm ∈ s.m.teamsOf K, t.m.team? tm.t = none ∧ (∀ g ∈ t.m.groups, g.t ≠ tm.t) ∧ ∀ f ∈ t.m.fibres, f.ref.t ≠ tm.t)) ∧
    (∀ (q : Nat) (e : Entry) (la : Launch), (s.m.queue q).cur = some e ∧ e.op = 9 ∧ e.begun = false ∧ e.fin = none → s.m.named e = some la → la.p = (s.m.queue q).part → la.admitted = true → (∃ cl ∈ s.m.clusters, cl.l = la.l ∧ cl.pre = .running) → s.m.savable s.cfg la [] = true → nbit (e.word 1) 10 = false → 
      Completes (exec (.preempt q) s) (fun t => (t.m.queue q).cur = some { e with begun := true } ∧ t.m.groups = s.m.groups ∧ ∀ cl ∈ s.m.clusters, cl.l = la.l → cl.pre = .running → (t.m.cluster? cl.c).map Cluster.pre = some .stopping)) ∧
    (∀ (q : Nat) (e : Entry) (la : Launch), (s.m.queue q).cur = some e ∧ e.op = 9 ∧ e.begun = false ∧ e.fin = none → s.m.named e = some la → la.p = (s.m.queue q).part → la.admitted = true → (∃ cl ∈ s.m.clusters, cl.l = la.l ∧ cl.pre = .running) → s.m.savable s.cfg la [] = true → nbit (e.word 1) 10 = true → 10 ≤ nbits (e.word 1) 15 11 ∧ nbits (e.word 1) 15 11 ≤ 20 → 
      Completes (exec (.preempt q) s) (fun t => (t.m.queue q).cur = some { e with begun := true } ∧ (∀ cl ∈ s.m.clusters, cl.l = la.l → cl.pre = .running → (t.m.cluster? cl.c).map Cluster.pre = some (.notice (s.m.cyc + 2 ^ nbits (e.word 1) 15 11))) ∧
      ∀ g ∈ s.m.groups, g.ended = false → (s.m.team? g.t).any (fun tm => s.m.clusters.any (fun cl => cl.c == tm.c && cl.l == la.l && cl.pre == .running)) = true →
        { g with preDone := false, pend := g.pend ++ [⟨0x14, 0, 0, none, true⟩] } ∈ t.m.groups)) ∧
    (∀ (q : Nat) (e : Entry) , (s.m.queue q).cur = some e ∧ e.op = 9 ∧ e.begun = false ∧ e.fin = none → s.m.named e = none → (∀ b ∈ s.m.bufs, isFab b.w.sp = false) → 
      Completes (exec (.preempt q) s) (fun t => Completed s t q e 1 ∧ t.m.clusters = s.m.clusters)) ∧
    (∀ (K d : Nat) (cl : Cluster), s.m.cluster? K = some cl → cl.pre = .notice d → d ≤ s.m.cyc → 
      Completes (exec (.noticeExpiry K) s) (fun t => (t.m.cluster? K).map Cluster.pre = some .stopping ∧ t.m.groups = s.m.groups ∧ t.m.regs = s.m.regs ∧ SameStores t.m s.m)) ∧
    (∀ (K : Nat) (cl : Cluster) (la : Launch) (rc : LRec), s.m.cluster? K = some cl → s.m.launch? cl.l = some la → la.rec_ = some rc → (∀ k ∈ s.m.preSet cl.l K, (s.m.cluster? k).map Cluster.pre = some .stopping) → (∀ tm ∈ s.m.teams, tm.c ∈ s.m.preSet cl.l K → s.m.settled tm.t = true) → 
      Completes (exec (.teamSave K) s) (fun t => (∀ k ∈ s.m.preSet cl.l K, (t.m.cluster? k).map Cluster.pre = some .saved) ∧ t.m.regs = s.m.regs ∧ t.m.acc = s.m.acc ∧ t.m.scale = s.m.scale ∧ (s.m.bufs = [] → t.m.mem = (s.m.writePool s.cfg la).mem))) ∧
    (∀ (K : Nat) (place : List (List Origin)) (cl : Cluster) (la : Launch) (rc : LRec) (pt : Part) (seats : List (List Seat)), s.m.cluster? K = some cl → s.m.launch? cl.l = some la → la.rec_ = some rc → s.cfg.part? la.p = some pt → cl.pre = .saved → s.m.yields cl = false → place.length = (s.m.preSet cl.l K).length → mayServe s.cfg s.m pt ⟨0, la, rc, (s.m.preSet cl.l K).length⟩ = true → takeAll pt la.x rc s.m.seats place = some seats → 
      Completes (exec (.teamRestore K place) s) (fun t => (∀ k ∈ s.m.preSet cl.l K, (t.m.cluster? k).map Cluster.pre = some .running) ∧ t.m.lastq = (la.p, la.q) :: s.m.lastq.filter (fun e => e.1 != la.p) ∧ t.m.regs = s.m.regs ∧ t.m.acc = s.m.acc))

/-- Enabling a queue clears HALTED; disabling clears EN; TAIL and CHEAD are written apart. QUEUE_FETCH takes the entry at HEAD; a malformed one halts the queue with FAULT. WAIT begins, completes once its count is at the target (FAULT where bit 63 is set), or times out with FAULT. SIGNAL adds to the word. COPY begins, moves its pieces and completes after the last byte. XLINV leaves no cached translation of its range. PARTCFG and CTXCFG take a good record in place of the old one. A held completion is written to its ring, and a region's event whose partition the queue has left is dropped. A register write of a queue's block sets its fields while EN is 0, and while EN is 1 only TAIL, CHEAD and EN. Writes of PLIM and AMSIX, and of alarm bits under REPORT, take effect; that an unaligned register write has no effect is the model's choice (log entries 77 and 106). -/
def Obligations.QueueSteps : Prop :=
  ∀ (s : State),
    (∀ (q : Nat), s.m.dev.bootstg = 3 ∧ s.m.dev.erased = false → (s.m.queue q).en = false → 
      Completes (exec (.queueEnable q) s) (fun t => t.m.queue q = { s.m.queue q with en := true, halted := false } ∧ ∀ q2, q2 ≠ q → t.m.queue q2 = s.m.queue q2)) ∧
    (∀ (q : Nat), s.m.dev.bootstg = 3 ∧ s.m.dev.erased = false → (s.m.queue q).en = true → 
      Completes (exec (.queueDisable q) s) (fun t => t.m.queue q = { s.m.queue q with en := false } ∧ ∀ q2, q2 ≠ q → t.m.queue q2 = s.m.queue q2)) ∧
    (∀ (q : Nat) (v : BitVec 16), s.m.dev.bootstg = 3 ∧ s.m.dev.erased = false → (s.m.queue q).chead < 65536 → 
      Completes (exec (.tail q v) s) (fun t => t.m.queue q = { s.m.queue q with tail := v.toNat } ∧ ∀ q2, q2 ≠ q → t.m.queue q2 = s.m.queue q2)) ∧
    (∀ (q : Nat) (v : BitVec 16), s.m.dev.bootstg = 3 ∧ s.m.dev.erased = false → (s.m.queue q).tail < 65536 → 
      Completes (exec (.chead q v) s) (fun t => t.m.queue q = { s.m.queue q with chead := v.toNat } ∧ ∀ q2, q2 ≠ q → t.m.queue q2 = s.m.queue q2)) ∧
    (∀ (q : Nat) (e : Entry) , (s.m.queue q).en = true → (s.m.queue q).halted = false → (s.m.queue q).cur = none → (∀ x ∈ (s.m.queue q).past, x.fin = none) → (s.m.queue q).head ≠ (s.m.queue q).tail → s.m.poisoned .host (((s.m.queue q).rbase + 64 * (s.m.queue q).head) % 2 ^ 64) 64 = false → (∀ b ∈ s.m.bufs, isFab b.w.sp = false) → e = ⟨(qHost s.m (((s.m.queue q).rbase + 64 * (s.m.queue q).head) % 2 ^ 64) 64).1, (s.m.queue q).head, false, false, s.m.cyc, 0, 0, [], none⟩ → 
      Completes (exec (.queueFetch q) s) (fun t => (t.m.queue q).head = ((s.m.queue q).head + 1) % 2 ^ (s.m.queue q).rlog ∧ (t.m.queue q).halted = e.malformed ∧ (e.malformed = false → entryFault s.cfg (s.m.queue q) e = false → (t.m.queue q).cur = some e) ∧
      (e.malformed = true ∨ entryFault s.cfg (s.m.queue q) e = true → Completed s t q e 1))) ∧
    (∀ (q : Nat) (e : Entry) (a : Acc) (m : Mach), (s.m.queue q).cur = some e ∧ e.op = 2 ∧ e.begun = false ∧ e.fin = none → qWord s.cfg s.m q (e.word 1) .read = (.ok a, m) → 
      Completes (exec (.wait q) s) (fun t => (t.m.queue q).cur = some { e with begun := true, at_ := s.m.cyc } ∧ SameStores t.m m)) ∧
    (∀ (q : Nat) (e : Entry) (a : Acc) (m : Mach), (s.m.queue q).cur = some e ∧ e.op = 2 ∧ e.begun = true ∧ e.fin = none → qWord s.cfg s.m q (e.word 1) .read = (.ok a, m) → poisonedAcc m (s.cfg.part? (s.m.queue q).part) a (e.word 1) 8 = false → (∀ b ∈ m.bufs, isFab b.w.sp = false) → let x := leNat (readAcc (.acq qLeaf 4 false) m (s.cfg.part? (s.m.queue q).part) a (e.word 1) 8).1
      e.word 2 ≤ x % 2 ^ 63 → 
      Completes (exec (.queueWaitComplete q) s) (fun t => Completed s t q e (if nbit x 63 then 1 else 0) ∧ t.m.regs = s.m.regs)) ∧
    (∀ (q : Nat) (e : Entry) , (s.m.queue q).cur = some e ∧ e.op = 2 ∧ e.begun = true ∧ e.fin = none → (∀ b ∈ s.m.bufs, isFab b.w.sp = false) → e.word 3 ≠ 0 → e.at_ + e.word 3 * 1024 ≤ s.m.cyc → 
      Completes (exec (.queueWaitTimeout q) s) (fun t => Completed s t q e 1 ∧ t.m.regs = s.m.regs)) ∧
    (∀ (q : Nat) (e : Entry) (a : Acc) (m : Mach), (s.m.queue q).cur = some e ∧ e.op = 3 ∧ e.begun = false ∧ e.fin = none → qWord s.cfg s.m q (e.word 1) .atomic = (.ok a, m) → e.done = false → poisonedAcc m (s.cfg.part? (s.m.queue q).part) a (e.word 1) 8 = false → m.bufs = [] → 
      Completes (exec (.signal q) s) (fun t => Completed s t q e 0 ∧ SameStores t.m (m.atomic qLeaf a.sp a.addr 8 a.tag false (fun old => some (leBytes 8 (countAdd (leNat old) (e.word 2) false)))).2 ∧ t.m.regs = s.m.regs)) ∧
    (∀ (q : Nat) (e : Entry) , (s.m.queue q).cur = some e ∧ e.op = 4 ∧ e.begun = false ∧ e.fin = none → touchesWs s.cfg s.m (s.m.queue q).part (s.m.queue q).ctx (e.word 1) (e.word 3) = false → touchesWs s.cfg s.m (s.m.queue q).part (s.m.queue q).ctx (e.word 2) (e.word 3) = false → 
      Completes (exec (.copy q) s) (fun t => (t.m.queue q).cur = some { e with begun := true, l := 0 } ∧ SameStores t.m s.m)) ∧
    (∀ (q : Nat) (e : Entry) (w : Nat) (b : Bool) (m : Mach), (s.m.queue q).cur = some e ∧ e.op = 4 ∧ e.begun = true ∧ e.fin = none → e.l = 0 → e.work < e.word 3 → copyPiece s.cfg s.m q (e.word 1 + e.work) (e.word 2 + e.work) (e.word 3 - e.work) = (some w, b, m) → e.work + w < e.word 3 → 
      Completes (exec (.queueCopyComplete q 1) s) (fun t => (t.m.queue q).cur = some { e with done := true, work := e.work + w } ∧ SameStores t.m m)) ∧
    (∀ (q : Nat) (e : Entry) (n : Nat), (s.m.queue q).cur = some e ∧ e.op = 4 ∧ e.begun = true ∧ e.fin = none → e.l = 0 → e.word 3 ≤ e.work → (∀ b ∈ s.m.bufs, isFab b.w.sp = false) → 
      Completes (exec (.queueCopyComplete q (n + 1)) s) (fun t => Completed s t q e 0)) ∧
    (∀ (q : Nat) (e : Entry) , (s.m.queue q).cur = some e ∧ e.op = 6 ∧ e.begun = false ∧ e.fin = none → e.word 2 % 65536 = 0 → e.word 3 % 65536 = 0 → (e.word 3 ≠ 0 ∨ nbit (e.word 1) 2 = true ∨ nbit (e.word 1) 3 = true) → (∀ b ∈ s.m.bufs, isFab b.w.sp = false) → (∀ f ∈ s.m.fabPend, f.store = true) → s.m.vows = [] → (∀ o ∈ s.m.ops, o.owes = false ∧ o.watch = none) → 
      Completes (exec (.xlinv q) s) (fun t => Completed s t q e 0 ∧ (nbit (e.word 1) 3 = false → ∀ x ∈ t.m.tlb, x.meets (s.m.queue q).part (nbits (e.word 1) 1 0) (e.word 2) (e.word 3) = false) ∧
      (nbit (e.word 1) 3 = true → ∀ x ∈ t.m.tlb, x.meets (s.m.queue q).part (nbits (e.word 1) 1 0) 0 (2 ^ 57) = false))) ∧
    (∀ (q : Nat) (e : Entry) (b : List Byte) (m : Mach) (cf : Conf), (s.m.queue q).cur = some e ∧ e.op = 7 ∧ e.begun = false ∧ e.fin = none → qHost s.m (e.word 2) 512 = (b, m) → s.m.poisoned .host (e.word 2) 512 = false → (∀ b ∈ s.m.bufs, isFab b.w.sp = false) → (∀ la ∈ s.m.launches, la.p ≠ nbits (e.word 1) 3 0) → partBad b = false → s.cfg.withPart (partOf (nbits (e.word 1) 3 0) b) = some cf → 
      Completes (exec (.partcfg q) s) (fun t => Completed s t q e 0 ∧ t.cfg.parts = partOf (nbits (e.word 1) 3 0) b :: s.cfg.parts.filter (fun x => x.p != nbits (e.word 1) 3 0) ∧ t.cfg.ctxs = s.cfg.ctxs ∧ t.cfg.keys = s.cfg.keys ∧ t.m.dev.measPend.length = s.m.dev.measPend.length + 1)) ∧
    (∀ (q : Nat) (e : Entry) (b : List Byte) (m : Mach), (s.m.queue q).cur = some e ∧ e.op = 7 ∧ e.begun = false ∧ e.fin = none → qHost s.m (e.word 2) 512 = (b, m) → s.m.poisoned .host (e.word 2) 512 = false → (∀ b ∈ s.m.bufs, isFab b.w.sp = false) → s.m.admittedIn (nbits (e.word 1) 3 0) = true ∨ partBad b = true → 
      Completes (exec (.partcfg q) s) (fun t => t.cfg = s.cfg ∧ Completed s t q e 1)) ∧
    (∀ (q : Nat) (e : Entry) (b : List Byte) (m : Mach), (s.m.queue q).cur = some e ∧ e.op = 8 ∧ e.begun = false ∧ e.fin = none → qHost s.m (e.word 2) 64 = (b, m) → s.m.poisoned .host (e.word 2) 64 = false → (∀ b ∈ s.m.bufs, isFab b.w.sp = false) → (s.cfg.part? (nbits (e.word 1) 3 0)).isSome = true → ctxBad b = false → (∀ la ∈ s.m.launches, la.p = nbits (e.word 1) 3 0 → la.x = nbits (e.word 1) 5 4 → la.admitted = false) → 
      Completes (exec (.ctxcfg q) s) (fun t => Completed s t q e 0 ∧ t.cfg.ctx? (nbits (e.word 1) 3 0) (nbits (e.word 1) 5 4) = some (ctxRecOf (nbits (e.word 1) 3 0) (nbits (e.word 1) 5 4) b) ∧ t.cfg.parts = s.cfg.parts ∧ t.cfg.keys = s.cfg.keys)) ∧
    (∀ (q : Nat) (k : Compl) (rest : List Compl), (s.m.queue q).held = k :: rest → ((s.m.queue q).ctail + 1) % 2 ^ (s.m.queue q).clog ≠ (s.m.queue q).chead → (∀ x ∈ (s.m.queue q).cur.toList ++ (s.m.queue q).past, x.fin = none) → (k.part = none ∨ k.part = some (s.m.queue q).part) → 
      Completes (exec (.completionPost q) s) (fun t => (t.m.queue q).held = rest ∧ (t.m.queue q).ctail = ((s.m.queue q).ctail + 1) % 2 ^ (s.m.queue q).clog ∧
      t.m.mem = ((pieces ((s.m.queue q).cbase + 32 * (s.m.queue q).ctail) 32).foldl (fun m x => m.writeHome qLeaf ⟨0, .host, x.1 % 2 ^ 64, bytesAt (complBytes k (s.m.queue q).phase) (x.1 - ((s.m.queue q).cbase + 32 * (s.m.queue q).ctail)) x.2, .engine, none, false, 0, 0, 0⟩) s.m).mem ∧ (k.irq = false → t.m.net = s.m.net))) ∧
    (∀ (q p : Nat) (k : Compl) (rest : List Compl), (s.m.queue q).held = k :: rest → ((s.m.queue q).ctail + 1) % 2 ^ (s.m.queue q).clog ≠ (s.m.queue q).chead → (∀ x ∈ (s.m.queue q).cur.toList ++ (s.m.queue q).past, x.fin = none) → k.part = some p → p ≠ (s.m.queue q).part → 
      Completes (exec (.completionPost q) s) (fun t => (t.m.queue q).held = rest ∧ (t.m.queue q).ctail = (s.m.queue q).ctail ∧ t.m.net = s.m.net ∧ SameStores t.m s.m)) ∧
    (∀ (v : DWord), s.m.dev.erased = false → 1500 ≤ nbits v.toNat 11 0 ∧ nbits v.toNat 11 0 ≤ 3000 → 
      Completes (exec (.registerWrite 0x10 v) s) (fun t => t.m.dev.plim = nbits v.toNat 11 0 ∧ SameStores t.m s.m)) ∧
    (∀ (v : DWord), s.m.dev.erased = false → 
      Completes (exec (.registerWrite 0x18 v) s) (fun t => t.m.dev.amsix = nbits v.toNat 10 0 ∧ t.m.queues = s.m.queues ∧ SameStores t.m s.m)) ∧
    (∀ (q : Nat) (v : DWord), q < 1024 → s.m.dev.bootstg = 3 ∧ s.m.dev.erased = false → (s.m.queue q).en = false → 
      Completes (exec (.registerWrite (0x10000 + 64 * q) v) s) (fun t => t.m.queue q = { s.m.queue q with rbase := v.toNat } ∧ ∀ q2, q2 ≠ q → t.m.queue q2 = s.m.queue q2)) ∧
    (∀ (q : Nat) (v : DWord), q < 1024 → s.m.dev.bootstg = 3 ∧ s.m.dev.erased = false → (s.m.queue q).en = true → 
      Completes (exec (.registerWrite (0x10000 + 64 * q) v) s) (fun t => t.m.queues = s.m.queues)) ∧
    (∀ (q : Nat) (v : DWord), q < 1024 → s.m.dev.bootstg = 3 ∧ s.m.dev.erased = false → (s.m.queue q).en = false → 
      Completes (exec (.registerWrite (0x10010 + 64 * q) v) s) (fun t => t.m.queue q = { s.m.queue q with cbase := v.toNat, phase := true } ∧ ∀ q2, q2 ≠ q → t.m.queue q2 = s.m.queue q2)) ∧
    (∀ (q : Nat) (v : DWord), q < 1024 → s.m.dev.bootstg = 3 ∧ s.m.dev.erased = false → (s.m.queue q).en = true → 
      Completes (exec (.registerWrite (0x10010 + 64 * q) v) s) (fun t => t.m.queues = s.m.queues)) ∧
    (∀ (q : Nat) (v : DWord), q < 1024 → s.m.dev.bootstg = 3 ∧ s.m.dev.erased = false → (s.m.queue q).en = false → 
      Completes (exec (.registerWrite (0x10018 + 64 * q) v) s) (fun t => t.m.queue q = { s.m.queue q with clog := nbits v.toNat 4 0, msix := nbits v.toNat 26 16, phase := true } ∧ ∀ q2, q2 ≠ q → t.m.queue q2 = s.m.queue q2)) ∧
    (∀ (q : Nat) (v : DWord), q < 1024 → s.m.dev.bootstg = 3 ∧ s.m.dev.erased = false → (s.m.queue q).en = true → 
      Completes (exec (.registerWrite (0x10018 + 64 * q) v) s) (fun t => t.m.queues = s.m.queues)) ∧
    (∀ (q : Nat) (v : DWord), q < 1024 → s.m.dev.bootstg = 3 ∧ s.m.dev.erased = false → (s.m.queue q).en = false → 
      Completes (exec (.registerWrite (0x10008 + 64 * q) v) s) (fun t => t.m.queue q = { s.m.queue q with rlog := nbits v.toNat 4 0, prio := nbits v.toNat 7 5, part := nbits v.toNat 11 8, ctx := nbits v.toNat 13 12, priv := nbit v.toNat 14, en := nbit v.toNat 15, halted := (s.m.queue q).halted && !nbit v.toNat 15 } ∧ ∀ q2, q2 ≠ q → t.m.queue q2 = s.m.queue q2)) ∧
    (∀ (q : Nat) (v : DWord), q < 1024 → s.m.dev.bootstg = 3 ∧ s.m.dev.erased = false → (s.m.queue q).en = true → 
      Completes (exec (.registerWrite (0x10008 + 64 * q) v) s) (fun t => t.m.queue q = { s.m.queue q with en := nbit v.toNat 15 } ∧ ∀ q2, q2 ≠ q → t.m.queue q2 = s.m.queue q2)) ∧
    (∀ (q : Nat) (v : DWord), q < 1024 → s.m.dev.bootstg = 3 ∧ s.m.dev.erased = false → 
      Completes (exec (.registerWrite (0x10020 + 64 * q) v) s) (fun t => t.m.queue q = { s.m.queue q with tail := nbits v.toNat 15 0, chead := nbits v.toNat 31 16 } ∧ ∀ q2, q2 ≠ q → t.m.queue q2 = s.m.queue q2)) ∧
    (∀ (off : Nat) (v : DWord), off % 8 ≠ 0 → 
      Completes (exec (.registerWrite off v) s) (fun t => t.m.dev = s.m.dev ∧ t.m.queues = s.m.queues ∧ SameStores t.m s.m)) ∧
    (∀ (bits : BitVec 4), s.m.dev.alpol = false → 
      Completes (exec (.alarmClear bits) s) (fun t => t.m.dev.alarm = s.m.dev.alarm &&& ~~~bits ∧ SameStores t.m s.m))

/-- On an index that is bound: PAUSE and RESUME set the pause, SETTHR the threshold (a region that notifies the command's own queue has its NORM event held there first), UNBIND takes the index away, with the region when it was the last and no window is open, and MEMBER adds its record from its round; on one that is not, each completes with FAULT. BIND of a bound descriptor joins it; the first BIND of a good one makes its region, zeros its headers and slots and, under INITA, sets its planes access by access, and completes. Spindle, fold and pass work by units, each one access (the order of their accesses is the model's choice, log entry 122). The Spindle reads the words of its next fragment one by one, forms and stages what it sends, makes the fragment SENT in its round and sends it to every other member island. A good message whose tag is right is kept in its slot as its island's contribution; one whose region is gone is discarded; of one whose tag fails every byte is granted again at once (the model's reading, log entry 47). A fold reads its messages, judges them (the own contribution by the blocks its Spindle formed, the model's choice, log entry 93), leaves the fragment IDLE and poisoned by a NaN block, or goes weight by weight and stages it; either ends the round. A pass makes its fragments APPLYING and flushes their words, merges weight by weight, adds their number to the anchor version, counts them and leaves them IDLE. A late island is latched. -/
def Obligations.PlaneSteps : Prop :=
  ∀ (s : State),
    (∀ (q : Nat) (e : Entry) (rg : Region) , PlaneOp s q 3 e → s.m.regionOf (s.m.queue q).part (nbits (e.word 1) 9 8) (nbits (e.word 1) 6 4) = some rg → 
      Completes (exec (.pause q) s) (fun t => Completed s t q e 0 ∧ (t.m.region? rg.r).map Region.paused = some true ∧ t.m.regs = s.m.regs)) ∧
    (∀ (q : Nat) (e : Entry) (rg : Region) , PlaneOp s q 4 e → s.m.regionOf (s.m.queue q).part (nbits (e.word 1) 9 8) (nbits (e.word 1) 6 4) = some rg → 
      Completes (exec (.resume q) s) (fun t => Completed s t q e 0 ∧ (t.m.region? rg.r).map Region.paused = some false ∧ t.m.regs = s.m.regs)) ∧
    (∀ (q : Nat) (e : Entry) (rg : Region) , PlaneOp s q 5 e → s.m.regionOf (s.m.queue q).part (nbits (e.word 1) 9 8) (nbits (e.word 1) 6 4) = some rg → s.m.region? rg.r = some rg → rg.notifyq ≠ q → 
      Completes (exec (.setthr q) s) (fun t => Completed s t q e 0 ∧ (t.m.region? rg.r).map (fun g => (g.thr, g.norm)) = some (e.word 2, rg.norm || decide (e.word 2 < (rg.frags.map Frag.nsq).sum)) ∧ t.m.regs = s.m.regs)) ∧
    (∀ (q : Nat) (e : Entry) (rg : Region) , PlaneOp s q 5 e → s.m.regionOf (s.m.queue q).part (nbits (e.word 1) 9 8) (nbits (e.word 1) 6 4) = some rg → s.m.region? rg.r = some rg → rg.notifyq = q → 
      Completes (exec (.setthr q) s) (fun t => (t.m.queue q).cur = none ∧ (t.m.queue q).held = (s.m.queue q).held ++
        (if !rg.norm && decide (e.word 2 < (rg.frags.map Frag.nsq).sum) then [⟨0, 0x80, 0, BitVec.ofNat 64 (rg.tag + 2 ^ 32), 0, 0, false, some rg.p⟩] else []) ++
        (if e.flag 8 then [⟨BitVec.ofNat 32 (natAt e.bytes 4 4), e.op, 0, 0, 0, e.index, e.flag 11, none⟩] else []) ∧
      (t.m.region? rg.r).map (fun g => (g.thr, g.norm)) = some (e.word 2, rg.norm || decide (e.word 2 < (rg.frags.map Frag.nsq).sum)) ∧ t.m.regs = s.m.regs)) ∧
    (∀ (q : Nat) (e : Entry) (rg : Region) , PlaneOp s q 1 e → s.m.regionOf (s.m.queue q).part (nbits (e.word 1) 9 8) (nbits (e.word 1) 6 4) = some rg → 2 ≤ rg.binds.length → s.m.region? rg.r = some rg → 
      Completes (exec (.unbind q) s) (fun t => Completed s t q e 0 ∧ (t.m.region? rg.r).map Region.binds = some (rg.binds.filter (fun b => b != (nbits (e.word 1) 9 8, nbits (e.word 1) 6 4))))) ∧
    (∀ (q : Nat) (e : Entry) (rg : Region) , PlaneOp s q 1 e → s.m.regionOf (s.m.queue q).part (nbits (e.word 1) 9 8) (nbits (e.word 1) 6 4) = some rg → rg.binds.length ≤ 1 → rg.cnt = 0 → rg.pass = false → rg.spin = [] → rg.folds = [] → 
      Completes (exec (.unbind q) s) (fun t => Completed s t q e 0 ∧ t.m.region? rg.r = none)) ∧
    (∀ (q : Nat) (e : Entry) (rg : Region) (mb : Nat × Nat × List (List Byte)) (m : Mach), PlaneOp s q 2 e → s.m.regionOf (s.m.queue q).part (nbits (e.word 1) 9 8) (nbits (e.word 1) 6 4) = some rg → s.m.region? rg.r = some rg → readMembers s.cfg s.m (s.m.queue q).part (nbits (e.word 1) 9 8) (e.word 2) = (.ok mb, m) → (∀ f ∈ rg.frags, f.sentOnce = true → f.round < e.word 3) → receiveOk s.cfg m rg mb.1 = true → 
      Completes (exec (.member q) s) (fun t => Completed s t q e 0 ∧ (t.m.region? rg.r).map Region.members = some (rg.members ++ [⟨e.word 3, mb.1, mb.2.1, mb.2.2⟩]))) ∧
    (∀ (q : Nat) (e : Entry) , PlaneOp s q 1 e → s.m.regionOf (s.m.queue q).part (nbits (e.word 1) 9 8) (nbits (e.word 1) 6 4) = none → 
      Completes (exec (.unbind q) s) (fun t => Completed s t q e 1 ∧ t.m.regions = s.m.regions)) ∧
    (∀ (q : Nat) (e : Entry) , PlaneOp s q 2 e → s.m.regionOf (s.m.queue q).part (nbits (e.word 1) 9 8) (nbits (e.word 1) 6 4) = none → 
      Completes (exec (.member q) s) (fun t => Completed s t q e 1 ∧ t.m.regions = s.m.regions)) ∧
    (∀ (q : Nat) (e : Entry) , PlaneOp s q 3 e → s.m.regionOf (s.m.queue q).part (nbits (e.word 1) 9 8) (nbits (e.word 1) 6 4) = none → 
      Completes (exec (.pause q) s) (fun t => Completed s t q e 1 ∧ t.m.regions = s.m.regions)) ∧
    (∀ (q : Nat) (e : Entry) , PlaneOp s q 4 e → s.m.regionOf (s.m.queue q).part (nbits (e.word 1) 9 8) (nbits (e.word 1) 6 4) = none → 
      Completes (exec (.resume q) s) (fun t => Completed s t q e 1 ∧ t.m.regions = s.m.regions)) ∧
    (∀ (q : Nat) (e : Entry) , PlaneOp s q 5 e → s.m.regionOf (s.m.queue q).part (nbits (e.word 1) 9 8) (nbits (e.word 1) 6 4) = none → 
      Completes (exec (.setthr q) s) (fun t => Completed s t q e 1 ∧ t.m.regions = s.m.regions)) ∧
    (∀ (q : Nat) (e : Entry) (rg : Region) (a : Acc) (m : Mach), PlaneOp s q 0 e → (s.cfg.ctx? (s.m.queue q).part (nbits (e.word 1) 9 8)).isSome = true → (∀ g ∈ s.m.regions, g.p = (s.m.queue q).part → (nbits (e.word 1) 9 8, nbits (e.word 1) 6 4) ∉ g.binds) → e.word 2 < 2 ^ 57 → reach s.cfg s.m qOwn (s.m.queue q).part (nbits (e.word 1) 9 8) (e.word 2) .read = (.ok a, m) → nbit (e.word 1) 7 = false → s.m.regions.find? (fun g => g.p == (s.m.queue q).part && g.descAt == a.ppa) = some rg → s.m.region? rg.r = some rg → rg.init = none → 
      Completes (exec (.bind q) s) (fun t => Completed s t q e 0 ∧ (t.m.region? rg.r).map Region.binds = some (rg.binds ++ [(nbits (e.word 1) 9 8, nbits (e.word 1) 6 4)]) ∧ t.m.regions.length = s.m.regions.length)) ∧
    (∀ (q : Nat) (e : Entry) , PlaneOp s q 0 e → ((∃ g ∈ s.m.regions, g.p = (s.m.queue q).part ∧ (nbits (e.word 1) 9 8, nbits (e.word 1) 6 4) ∈ g.binds) ∨ s.cfg.ctx? (s.m.queue q).part (nbits (e.word 1) 9 8) = none) → 
      Completes (exec (.bind q) s) (fun t => Completed s t q e 1 ∧ t.m.regions = s.m.regions)) ∧
    (∀ (q : Nat) (e : Entry) (rg : Region) (a : Acc) (m m1 m2 m3 : Mach) (desc pair : List Byte) (mb : Nat × Nat × List (List Byte)), PlaneOp s q 0 e → (s.cfg.ctx? (s.m.queue q).part (nbits (e.word 1) 9 8)).isSome = true → (∀ g ∈ s.m.regions, g.p = (s.m.queue q).part → (nbits (e.word 1) 9 8, nbits (e.word 1) 6 4) ∉ g.binds) → e.word 2 < 2 ^ 57 → reach s.cfg s.m qOwn (s.m.queue q).part (nbits (e.word 1) 9 8) (e.word 2) .read = (.ok a, m) → (∀ g ∈ s.m.regions, g.p = (s.m.queue q).part → g.descAt ≠ a.ppa) → planeRead s.cfg m (s.m.queue q).part (nbits (e.word 1) 9 8) (e.word 2) 128 = (.ok desc, m1) → descBad desc = false → readMembers s.cfg m1 (s.m.queue q).part (nbits (e.word 1) 9 8) (natAt desc 0x60 8) = (.ok mb, m2) → readPair s.cfg m2 (s.m.queue q).part (nbits (e.word 1) 9 8) desc = (.ok pair, m3) → rg = newRegion m3.fresh (s.m.queue q).part (nbits (e.word 1) 9 8) (nbits (e.word 1) 6 4) desc a.ppa pair mb → rangesOk s.cfg m3 rg mb.1 = true → (m3.queue rg.notifyq).part = (s.m.queue q).part → 
      Completes (exec (.bind q) s) (fun t => (t.m.queue q).cur = some { e with begun := true, l := rg.r } ∧ t.m.regions = s.m.regions ++ [{ rg with init := some ⟨mb.1, nbit (e.word 1) 7, 0, .start⟩ }] ∧ SameStores t.m m3 ∧ t.m.regs = s.m.regs)) ∧
    (∀ (q : Nat) (e : Entry) (rg : Region) (k : InitAt) (m : Mach), (s.m.queue q).cur = some e → e.op = 5 → e.begun = true → e.fin = none → s.m.region? e.l = some rg → rg.init = some k → k.pos < zeroCount rg k.islands → dieWrite s.cfg s.m rg (rg.dies.headD 0) .batten (zeroAt rg k.pos) (List.replicate 16 0) = (true, m) → 
      Completes (exec (.bind q) s) (fun t => (t.m.region? rg.r).map Region.init = some (some { k with pos := k.pos + 1 }) ∧ SameStores t.m m ∧ t.m.queues = s.m.queues)) ∧
    (∀ (q : Nat) (e : Entry) (rg : Region) (k : InitAt), (s.m.queue q).cur = some e → e.op = 5 → e.begun = true → e.fin = none → s.m.region? e.l = some rg → rg.init = some k → zeroCount rg k.islands ≤ k.pos → k.inita = true → k.run.w < rg.nw → let x := strideStep s.cfg s.m rg (rg.dies.headD 0) [(.spindle, rg.base 0 + k.run.w * rg.lsize, rg.lsize)] (initWrites rg k.run.w) k.run
      
      Completes (exec (.bind q) s) (fun t => (t.m.region? rg.r).map Region.init = some (some { k with run := x.1 }) ∧ SameStores t.m x.2)) ∧
    (∀ (q : Nat) (e : Entry) (rg : Region) (k : InitAt), (s.m.queue q).cur = some e → e.op = 5 → e.begun = true → e.fin = none → s.m.region? e.l = some rg → rg.init = some k → zeroCount rg k.islands ≤ k.pos → (k.inita = false ∨ rg.nw ≤ k.run.w) → (∀ b ∈ s.m.bufs, isFab b.w.sp = false) → 
      Completes (exec (.bind q) s) (fun t => Completed s t q e 0 ∧ (t.m.region? rg.r).map Region.init = some none ∧ t.m.regs = s.m.regs)) ∧
    (∀ (r : Nat) (rg : Region) (die n : Nat) (fr : Frag), s.m.region? r = some rg → rg.spin.find? (fun x => x.die == die) = none → s.m.spinNext rg die = some fr → 
      Completes (exec (.spindleSend r die 0) s) (fun t => (t.m.region? r).map (fun g => g.spin.find? (fun y => y.die == die)) = some (some ⟨die, fr.f, s.m.dieCyc die, [], [], false, []⟩) ∧ SameStores t.m s.m ∧ exec (.spindleSend r die n) s = exec (.spindleSend r die n) t)) ∧
    (∀ (r : Nat) (rg : Region) (die : Nat) (fr : Frag) (sp : Spin), s.m.region? r = some rg → rg.spin.find? (fun x => x.die == die) = some sp → rg.frags.find? (fun x => x.f == sp.f) = some fr → sp.ds.length < rg.count sp.f → let x := spinRead s.cfg s.m rg sp
      sp.die = die → 
      Completes (exec (.spindleSend r die 1) s) (fun t => (t.m.region? r).map (fun g => g.spin.find? (fun y => y.die == die)) = some (some x.1) ∧ SameStores t.m x.2 ∧ t.m.driftSent = s.m.driftSent)) ∧
    (∀ (r : Nat) (rg : Region) (die : Nat) (fr : Frag) (sp : Spin), s.m.region? r = some rg → rg.spin.find? (fun x => x.die == die) = some sp → rg.frags.find? (fun x => x.f == sp.f) = some fr → rg.count sp.f ≤ sp.ds.length → sp.formed = false → 
      Completes (exec (.spindleSend r die 1) s) (fun t => (t.m.region? r).map (fun g => g.spin.find? (fun y => y.die == die)) = some (some { sp with formed := true, out := stagedWords rg sp.f (quantise rg sp.f fr.next (rg.member fr.next).self sp.ds).2.1 }) ∧ SameStores t.m s.m ∧ t.m.driftSent = s.m.driftSent)) ∧
    (∀ (r : Nat) (rg : Region) (die w : Nat) (bs : List Byte) (rest : List (Nat × List Byte)) (fr : Frag) (sp : Spin) (m : Mach), s.m.region? r = some rg → rg.spin.find? (fun x => x.die == die) = some sp → rg.frags.find? (fun x => x.f == sp.f) = some fr → rg.count sp.f ≤ sp.ds.length → sp.formed = true → sp.out = (w, bs) :: rest → dieWrite s.cfg s.m rg die .spindle w bs = (true, m) → 
      sp.die = die → 
      Completes (exec (.spindleSend r die 1) s) (fun t => (t.m.region? r).map (fun g => g.spin.find? (fun y => y.die == die)) = some (some { sp with out := rest }) ∧ SameStores t.m m ∧ t.m.driftSent = s.m.driftSent)) ∧
    (∀ (r : Nat) (rg : Region) (die : Nat) (fr dm : Frag) (sp : Spin) (m : Mach), s.m.region? r = some rg → rg.spin.find? (fun x => x.die == die) = some sp → rg.frags.find? (fun x => x.f == sp.f) = some fr → rg.count sp.f ≤ sp.ds.length → sp.formed = true → sp.out = [] → dm = { fr with dmax := BitVec.ofNat 32 (quantise rg fr.f fr.next (rg.member fr.next).self sp.ds).2.2, sentAt := sp.since } → 
      Completes (exec (.spindleSend r die 1) s) (fun t => (fr ≠ dm → SameStores t.m (s.m.setFrag s.cfg rg dm).2 ∧ t.m.driftSent = s.m.driftSent) ∧
      (fr = dm → s.m.setFrag s.cfg rg { dm with st := 1, round := fr.next, sentOnce := true, nsq := (quantise rg fr.f fr.next (rg.member fr.next).self sp.ds).1.nsq } = (true, m) →
        (t.m.region? r).map (fun g => ((g.frag fr.f).st, (g.frag fr.f).round, g.contribs.length)) = some (1, fr.next, rg.contribs.length + 1) ∧
        t.m.driftSent.map (fun d => (d.peer, d.m.round, d.m.frag)) = s.m.driftSent.map (fun d => (d.peer, d.m.round, d.m.frag)) ++
          ((List.range (rg.member fr.next).count).filter (fun i => i != (rg.member fr.next).self)).map (fun i => ((rg.member fr.next).islandNo i, fr.next, fr.f))))) ∧
    (∀ (src xid die tag island counter j : Nat) (text : List Byte) (h : HReq) (rg : Region), s.m.hreqs.find? (fun h => h.r.src == src && h.r.xid == xid && h.r.drift.isSome && h.ungranted == 0 && (s.m.tokensOf h.order).isEmpty) = some h → h.r.drift = some (die, tag, island) → s.m.openDrift h island = some (counter, text) → s.m.tagRegion h.r.part tag = some rg → s.m.region? rg.r = some rg → h.slot = some j → (driftOfBytes text).tag = tag → (driftOfBytes text).island = island → driftGood rg die (driftOfBytes text) = true → 
      Completes (exec (.driftMessageArrival src xid) s) (fun t => (t.m.region? rg.r).map Region.contribs = some (rg.contribs ++ [⟨island, (driftOfBytes text).frag, (driftOfBytes text).round, driftOfBytes text, some j⟩]) ∧ t.m.hreqs = s.m.hreqs.filter (fun x => x.order != h.order) ∧ counter ∈ (t.m.islandKey src).seen)) ∧
    (∀ (src xid die tag island counter : Nat) (text : List Byte) (h : HReq), s.m.hreqs.find? (fun h => h.r.src == src && h.r.xid == xid && h.r.drift.isSome && h.ungranted == 0 && (s.m.tokensOf h.order).isEmpty) = some h → h.r.drift = some (die, tag, island) → s.m.openDrift h island = some (counter, text) → s.m.tagRegion h.r.part tag = none → 
      Completes (exec (.driftMessageArrival src xid) s) (fun t => t.m.regions = s.m.regions ∧ t.m.hreqs = s.m.hreqs.filter (fun x => x.order != h.order) ∧ SameStores t.m s.m)) ∧
    (∀ (src xid die tag island : Nat) (h : HReq), s.m.hreqs.find? (fun h => h.r.src == src && h.r.xid == xid && h.r.drift.isSome && h.ungranted == 0 && (s.m.tokensOf h.order).isEmpty) = some h → h.r.drift = some (die, tag, island) → s.m.openDrift h island = none → 
      Completes (exec (.driftMessageArrival src xid) s) (fun t => t.m.regions = s.m.regions ∧ t.m.hreqs = s.m.hreqs.map (fun x => if x.order = h.order then { x with regrant := [(0, x.r.len)], slot := none, cipher := [], sealed := none } else x) ∧ SameStores t.m s.m)) ∧
    (∀ (r : Nat) (rg : Region) (f : Nat) (fr : Frag) (ks : List Contrib) (a n : Nat) (bs : List Byte) (m : Mach), s.m.region? r = some rg → rg.frags.find? (fun x => x.f == f) = some fr → fr.st = 1 → rg.round f fr.round = some ks → let fo : Fold := (rg.folds.find? (fun x => x.f == f)).getD ⟨f, 0, [], false, [], [], .start⟩
      fo.f = f → fo.judged = false → (foldReads rg ks)[fo.pos]? = some (a, n) → batRead s.cfg s.m rg (rg.dieOf f) .spindle a n = (some bs, m) → 
      Completes (exec (.battenFold r f) s) (fun t => (t.m.region? r).map (fun g => g.folds.find? (fun x => x.f == f)) = some (some { fo with pos := fo.pos + 1, slots := fo.slots ++ bs }) ∧ SameStores t.m m)) ∧
    (∀ (r : Nat) (rg : Region) (f : Nat) (fr : Frag) (ks : List Contrib) (cs : List Nat) (vals : List (List Nat)), s.m.region? r = some rg → rg.frags.find? (fun x => x.f == f) = some fr → fr.st = 1 → rg.round f fr.round = some ks → let fo : Fold := (rg.folds.find? (fun x => x.f == f)).getD ⟨f, 0, [], false, [], [], .start⟩
      fo.f = f → fo.judged = false → (foldReads rg ks)[fo.pos]? = none → judgeFold rg f fo.slots ks = some (cs, vals) → 
      Completes (exec (.battenFold r f) s) (fun t => (t.m.region? r).map (fun g => g.folds.find? (fun x => x.f == f)) = some (some { fo with slots := [], judged := true, cs := cs, vals := vals }) ∧ SameStores t.m s.m)) ∧
    (∀ (r : Nat) (rg : Region) (f : Nat) (fr : Frag) (ks : List Contrib) (m : Mach), s.m.region? r = some rg → rg.frags.find? (fun x => x.f == f) = some fr → fr.st = 1 → rg.round f fr.round = some ks → let fo : Fold := (rg.folds.find? (fun x => x.f == f)).getD ⟨f, 0, [], false, [], [], .start⟩
      fo.judged = false → (foldReads rg ks)[fo.pos]? = none → judgeFold rg f fo.slots ks = none → s.m.setFrag s.cfg rg { fr with st := 0, poison := true } = (true, m) → 
      Completes (exec (.battenFold r f) s) (fun t => (t.m.region? r).map (fun g => ((g.frag f).st, (g.frag f).poison, (g.frag f).folded, g.contribs, g.folds)) = some (0, true, fr.round + 1, rg.contribs.filter (fun k => !(k.frag == f && decide (k.round ≤ fr.round))), rg.folds.filter (fun x => x.f != f)))) ∧
    (∀ (rg : Region) (f : Nat) (bs : List Byte) (ks : List Contrib), ((∃ k ∈ ks, k.slot = none ∧ 255 ∈ k.m.exps) → judgeFold rg f bs ks = none) ∧ ((∀ k ∈ ks, k.slot = none ∧ 255 ∉ k.m.exps) → (judgeFold rg f bs ks).isSome)) ∧
    (∀ (r : Nat) (rg : Region) (f : Nat) (fr : Frag) (ks : List Contrib) , s.m.region? r = some rg → rg.frags.find? (fun x => x.f == f) = some fr → fr.st = 1 → rg.round f fr.round = some ks → let fo : Fold := (rg.folds.find? (fun x => x.f == f)).getD ⟨f, 0, [], false, [], [], .start⟩
      let x := strideStep s.cfg s.m rg (rg.dieOf f) (foldWords rg f fo.run.w) (foldWrites rg fo (rg.member fr.round).self) fo.run
      fo.f = f → fo.judged = true → fo.run.w < rg.count f → 
      Completes (exec (.battenFold r f) s) (fun t => (t.m.region? r).map (fun g => g.folds.find? (fun x => x.f == f)) = some (some { fo with run := x.1 }) ∧ SameStores t.m x.2)) ∧
    (∀ (r : Nat) (rg : Region) (f : Nat) (fr : Frag) (ks : List Contrib) (m : Mach), s.m.region? r = some rg → rg.frags.find? (fun x => x.f == f) = some fr → fr.st = 1 → rg.round f fr.round = some ks → let fo : Fold := (rg.folds.find? (fun x => x.f == f)).getD ⟨f, 0, [], false, [], [], .start⟩
      fo.judged = true → rg.count f ≤ fo.run.w → s.m.setFrag s.cfg rg { fr with st := 2, poison := false } = (true, m) → 
      Completes (exec (.battenFold r f) s) (fun t => (t.m.region? r).map (fun g => ((g.frag f).st, (g.frag f).poison, (g.frag f).folded, g.contribs, g.folds)) = some (2, false, fr.round + 1, rg.contribs.filter (fun k => !(k.frag == f && decide (k.round ≤ fr.round))), rg.folds.filter (fun x => x.f != f)))) ∧
    (∀ (r : Nat) (rg : Region) , s.m.region? r = some rg → rg.passing ≠ [] → rg.passing[rg.passAt.idx]? = none → rg.passAt.stage < 2 → 
      Completes (exec (.mergePass r) s) (fun t => (t.m.region? r).map (fun g => (g.passing, g.passAt)) = some (rg.passing, ⟨rg.passAt.stage + 1, 0, .start⟩) ∧ SameStores t.m s.m)) ∧
    (∀ (r : Nat) (rg : Region) , s.m.region? r = some rg → rg.passing ≠ [] → rg.passing[rg.passAt.idx]? = none → rg.passAt.stage = 2 → 
      Completes (exec (.mergePass r) s) (fun t => (t.m.region? r).map Region.ancver = some ((rg.ancver + rg.passing.length) % 2 ^ 32) ∧ (t.m.region? r).map (fun g => (g.passing, g.passAt)) = some (rg.passing, ⟨3, 0, .start⟩))) ∧
    (∀ (r : Nat) (rg : Region) , s.m.region? r = some rg → rg.passing ≠ [] → rg.passing[rg.passAt.idx]? = none → 3 ≤ rg.passAt.stage → 
      Completes (exec (.mergePass r) s) (fun t => (t.m.region? r).map Region.passing = some (if rg.cnt = 0 then (rg.frags.filter (fun f => f.st == 2)).map Frag.f else []) ∧ SameStores t.m s.m)) ∧
    (∀ (r : Nat) (rg : Region) (f : Nat) (m : Mach), s.m.region? r = some rg → rg.passing ≠ [] → rg.passing[rg.passAt.idx]? = some f → rg.passAt.stage = 0 → rg.passAt.run.w = 0 → s.m.setFrag s.cfg rg { rg.frag f with st := 3 } = (true, m) → 
      Completes (exec (.mergePass r) s) (fun t => SameStores t.m m ∧ (t.m.region? r).map (fun g => (g.passing, g.passAt)) = some (rg.passing, { rg.passAt with run := ⟨1, [], []⟩ }) ∧ ((∃ x ∈ rg.frags, x.f = f) → (t.m.region? r).map (fun g => (g.frag f).st) = some 3))) ∧
    (∀ (r : Nat) (rg : Region) (f w a n : Nat) (m : Mach), s.m.region? r = some rg → rg.passing ≠ [] → rg.passing[rg.passAt.idx]? = some f → rg.passAt.stage = 0 → rg.passAt.run.w = w + 1 → (pieces (rg.base 0 + f * rg.F * rg.lsize) (rg.count f * rg.lsize))[w]? = some (a, n) → flushRange s.cfg s.m rg (rg.dieOf f) a n = (true, m) → 
      Completes (exec (.mergePass r) s) (fun t => SameStores t.m m ∧ (t.m.region? r).map (fun g => (g.passing, g.passAt)) = some (rg.passing, { rg.passAt with run := ⟨w + 2, [], []⟩ }))) ∧
    (∀ (r : Nat) (rg : Region) (f : Nat), s.m.region? r = some rg → rg.passing ≠ [] → rg.passing[rg.passAt.idx]? = some f → rg.passAt.stage = 1 → rg.passAt.run.w < rg.count f → let x := strideStep s.cfg s.m rg (rg.dieOf f) (passWords rg f rg.passAt.run.w) (passWrites rg f rg.passAt.run.w) rg.passAt.run
      
      Completes (exec (.mergePass r) s) (fun t => SameStores t.m x.2 ∧ (t.m.region? r).map (fun g => (g.passing, g.passAt)) = some (rg.passing, { rg.passAt with run := x.1 }))) ∧
    (∀ (r : Nat) (rg : Region) (f : Nat) (m : Mach), s.m.region? r = some rg → rg.passing ≠ [] → rg.passing[rg.passAt.idx]? = some f → rg.passAt.stage = 2 → s.m.setFrag s.cfg rg { rg.frag f with merges := ((rg.frag f).merges + 1) % 2 ^ 32 } = (true, m) → 
      Completes (exec (.mergePass r) s) (fun t => SameStores t.m m ∧ (t.m.region? r).map (fun g => (g.passing, g.passAt)) = some (rg.passing, { rg.passAt with idx := rg.passAt.idx + 1, run := .start }) ∧ ((∃ x ∈ rg.frags, x.f = f) → (t.m.region? r).map (fun g => (g.frag f).merges) = some (((rg.frag f).merges + 1) % 2 ^ 32)))) ∧
    (∀ (r : Nat) (rg : Region) (f : Nat) (m : Mach), s.m.region? r = some rg → rg.passing ≠ [] → rg.passing[rg.passAt.idx]? = some f → 3 ≤ rg.passAt.stage → s.m.setFrag s.cfg rg { rg.frag f with st := 0 } = (true, m) → 
      Completes (exec (.mergePass r) s) (fun t => SameStores t.m m ∧ (t.m.region? r).map (fun g => (g.passing, g.passAt)) = some (rg.passing, { rg.passAt with idx := rg.passAt.idx + 1, run := .start }) ∧ ((∃ x ∈ rg.frags, x.f = f) → (t.m.region? r).map (fun g => (g.frag f).st) = some 0))) ∧
    (∀ (r : Nat) (rg : Region) (f i : Nat) (fr : Frag), s.m.region? r = some rg → rg.frags.find? (fun x => x.f == f) = some fr → fr.st = 1 → rg.silto ≠ 0 → rg.silto * 1024 < s.m.dieCyc (rg.dieOf f) - fr.sentAt → i < (rg.member fr.round).count → (∀ k ∈ rg.contribs, ¬(k.island = i ∧ k.frag = f ∧ k.round = fr.round)) → i ∉ rg.silentSeen → 
      Completes (exec (.islandSilent r f i) s) (fun t => (t.m.region? r).map (fun g => (g.silent, g.silentSeen)) = some (rg.silent ++ [(i, f)], i :: rg.silentSeen) ∧ SameStores t.m s.m))

/-- The accesses of a request that arrives are performed at their homes and answered, or, where one is refused, none is performed; a request that checks notes its accesses, one that commits performs those it has checked, and one that drops forgets them (that one instruction at several homes asks so is the model's choice, log entry 26); a request for a saved allocation is held. The last answer of a load completes it, all its lanes read in one step; a refused store gives the pending trap of its lowest refused lane. A request waits at its Heddle or its source. A packet whose turn it is lands and is acknowledged, one ahead of its turn is kept, and one under a token that is gone is acknowledged with no byte, or as revoked where its allocation is saved. A token is granted to the one eligible request, with 4,096 counted in INBOUND, and expires after 65,536 cycles. The last acknowledgement ends a send OK. An invocation waits to be placed, or breaks its handle where its partition is not configured; it is placed in a free entry; a chained one is queued with its parent's result. -/
def Obligations.FabricSteps : Prop :=
  ∀ (s : State),
    (∀ (r : FabReq) (n off va : Nat) (k : FabAcc) (a : Acc) (o : Option Nat) (m : Mach), r.target = s.cfg.device.toNat → r.phase = .whole → r.accs = [(n, off, k)] → winAccess s.cfg s.m r.part off (accSize k) (accCls k) = (.here a va o, m) → m.bankBusy (s.cfg.part? r.part) a = false → (accCls k = .write ∨ poisonedAcc m (s.cfg.part? r.part) a va (accSize k) = false) → let x := (m.undelay (.agent 0 .heddle) (r.src * 2 ^ 64 + r.xid)).atHome (s.cfg.part? r.part) a va k r.sync
      
      Completes (exec (.fabricAccessArrival r) s) (fun t => t.m.net = x.2.net ++ [.answer r.src ⟨r.xid, [(n, .ok x.1)]⟩] ∧ SameStores t.m x.2 ∧ t.m.regs = s.m.regs)) ∧
    (∀ (r : FabReq) (n off va : Nat) (k : FabAcc) (a : Acc) (o : Option Nat) (m : Mach), r.target = s.cfg.device.toNat → r.phase = .check → r.accs = [(n, off, k)] → winAccess s.cfg s.m r.part off (accSize k) (accCls k) = (.here a va o, m) → (accCls k = .write ∨ poisonedAcc m (s.cfg.part? r.part) a va (accSize k) = false) → 
      Completes (exec (.fabricAccessArrival r) s) (fun t => t.m.net = m.net ++ [.answer r.src ⟨r.xid, [(n, .ok [])]⟩] ∧ t.m.vows = m.vows ++ [⟨r.src, r.xid, r.part, [(n, k, a, va)]⟩] ∧ SameStores t.m m ∧ t.m.regs = s.m.regs)) ∧
    (∀ (r : FabReq) (n va : Nat) (k : FabAcc) (a : Acc) (v : Vow), r.target = s.cfg.device.toNat → r.phase = .commit → s.m.vows.find? (fun v => v.src == r.src && v.xid == r.xid) = some v → v.due r = [(n, k, a, va)] → s.m.inSaved a.sp = false → s.m.bankBusy (s.cfg.part? r.part) a = false → (accCls k = .write ∨ poisonedAcc s.m (s.cfg.part? r.part) a va (accSize k) = false) → let x := (s.m.undelay (.agent 0 .heddle) (r.src * 2 ^ 64 + r.xid)).atHome (s.cfg.part? r.part) a va k r.sync
      
      Completes (exec (.fabricAccessArrival r) s) (fun t => t.m.net = x.2.net ++ [.answer r.src ⟨r.xid, [(n, .ok x.1)]⟩] ∧ SameStores t.m x.2 ∧ t.m.regs = s.m.regs ∧ ∀ u ∈ t.m.vows, u.src = r.src → u.xid = r.xid → ∀ y ∈ u.accs, y.1 ≠ n)) ∧
    (∀ (r : FabReq), r.target = s.cfg.device.toNat → r.phase = .drop → 
      Completes (exec (.fabricAccessArrival r) s) (fun t => t.m.vows = s.m.vows.filter (fun v => !(v.src == r.src && v.xid == r.xid)) ∧ t.m.net = s.m.net ∧ t.m.regs = s.m.regs ∧ SameStores t.m s.m)) ∧
    (∀ (r : FabReq) (n off c sub : Nat) (k : FabAcc) (m : Mach), r.target = s.cfg.device.toNat → (r.phase = .whole ∨ r.phase = .check) → r.accs = [(n, off, k)] → winAccess s.cfg s.m r.part off (accSize k) (accCls k) = (.refused c sub, m) → 
      Completes (exec (.fabricAccessArrival r) s) (fun t => t.m.vows = m.vows ∧ t.m.net = m.net ++ [.answer r.src ⟨r.xid, [(n, .refused c sub)]⟩] ∧ SameStores t.m m)) ∧
    (∀ (r : FabReq), r.target = s.cfg.device.toNat → (r.phase = .whole ∨ r.phase = .check) → (∃ a ∈ (fabPlaces s.cfg s.m r).1, ∃ k, a.2.2 = .saved k) → 
      Completes (exec (.fabricAccessArrival r) s) (fun t => t.m.parked = s.m.parked ++ [r] ∧ t.m.net = s.m.net ∧ SameStores t.m s.m)) ∧
    (∀ (r : FabReq), r.target = s.cfg.device.toNat → (r.phase = .whole ∨ r.phase = .check) → (∀ a ∈ (fabPlaces s.cfg s.m r).1, (∀ k, a.2.2 ≠ .saved k) ∧ a.2.2 ≠ .busy) → (∃ a ∈ (fabPlaces s.cfg s.m r).1, (refusalOf (fabPlaces s.cfg s.m r).2 (s.cfg.part? r.part) a.2.1 a.2.2).isSome = true) → 
      Completes (exec (.fabricAccessArrival r) s) (fun t => t.m.vows = (fabPlaces s.cfg s.m r).2.vows ∧ SameStores t.m (fabPlaces s.cfg s.m r).2)) ∧
    (∀ (a : FabAns) (M : Mach) (p : FabPend) (c : Ctx) (n : Nat) (sz : Size) (sc : Scope) (d : Nat) (b : Nat) (off : Int), (a.res.foldl (fun m r => m.takeAnswer a.xid r.1 r.2) s.m).endDrains = M → M.fabPend.find? (fun p => p.xid == a.xid && !p.store && p.answered) = some p → p.op = none → p.atom = none → p.phase = .whole → p.stale = false → p.refusals = [] → M.refreshWait (s.cfg.part? ((M.teamPart p.ref.t).getD 0)) (p.asks.map Prod.snd) = none → ctxOf M p.ref = some c → c.f.wait = some ⟨.ld sz sc d b off, .fabric p.xid, n⟩ → readsPoison { M with fabPend := M.fabPend.filter (fun x => x.xid != p.xid) } (s.cfg.part? c.la.p) p.asks = false → let x := readLanes s.cfg { ({ M with fabPend := M.fabPend.filter (fun x => x.xid != p.xid) } : Mach).before c.leaf c.la.p sc true false p.asks with away := p.units c.la.p } (loadWay c.leaf sc) c.la.p p.asks
      M.heldReg c (c.phys ((loadWrites sz d x.1).map Prod.fst)) = false → 
      Completes (exec (.fabricAnswer a) s) (fun t => t.m.regs = smSetAll 0 M.regs ((loadWrites sz d x.1).map (fun w => (regKey c.f.ref.t c.f.ref.g (c.f.base + w.1) w.2.1, w.2.2))) ∧ t.m.fibre? p.ref = some (c.next (.ld sz sc d b off)) ∧ SameStores t.m (x.2.after c.leaf sc true))) ∧
    (∀ (a : FabAns) (p : FabPend) (num i : Nat) (res : FabRes) (va : DWord) (k sub : Nat) (rest : List (Nat × DWord × Nat × Nat)) (g : Group), a.res = [(num, res)] → s.m.fabPend = [p] → p.xid = a.xid → p.store = true → p.op = none → (∀ e ∈ s.m.bufs, e.w.xid ≠ a.xid) → (∀ x ∈ p.answers, x.1 ≠ num) → num < p.asks.length → p.answers.length + 1 = p.asks.length → ({ p with answers := p.answers ++ [(num, res)] } : FabPend).refusals = (i, va, k, sub) :: rest → s.m.group? p.ref.t p.ref.g = some g → (∀ f ∈ s.m.fibres, ∀ i ws again n, f.wait ≠ some ⟨i, .drain ws again, n⟩) → 
      Completes (exec (.fabricAnswer a) s) (fun t => t.m.group? p.ref.t p.ref.g = some { g with pend := g.pend ++ [⟨k, sub, va, some (maskOf (i :: rest.map Prod.fst)), false⟩] } ∧ t.m.regs = s.m.regs ∧ t.m.fabPend = [] ∧ SameStores t.m s.m)) ∧
    (∀ (r : XferReq), r.get = true → 
      Completes (exec (.requestArrival r) s) (fun t => t.m.serves = s.m.serves ++ [⟨r, [], 0, []⟩] ∧ t.m.hreqs = s.m.hreqs ∧ SameStores t.m s.m)) ∧
    (∀ (r : XferReq) (a : Acc) (va : Nat) (k : Option Nat) (m : Mach), r.get = false → r.drift = none → winAccess s.cfg s.m r.part r.off 1 .write = (.here a va k, m) → 
      Completes (exec (.requestArrival r) s) (fun t => t.m.hreqs = m.hreqs ++ [⟨m.destDie a, r, r.sent, [], m.fresh, 0, k, none, false, [], none⟩] ∧ t.m.net = m.net)) ∧
    (∀ (p : Packet) (ws ws2 : List (Acc × List Byte)) (ctr ctr2 : Option Acc) (m M m2 : Mach), p.token = none → p.get = false → landing s.cfg s.m p = (.ok ws ctr, m) → M = { m.prefixGot p ((ws.head?).bind (fun w => w.1.team)) with late := (m.prefixGot p ((ws.head?).bind (fun w => w.1.team))).late ++ [p] } → M.landable p.src p.xid false = [p] → (landing s.cfg M p).1 ≠ .busy → landing s.cfg (({ M with late := M.late.erase p } : Mach).passInbound p) p = (.ok ws2 ctr2, m2) → 
      Completes (exec (.packetArrival p) s) (fun t => t.m.net = m2.net ++ [.ack p.src ⟨p.xid, true, p.pos, p.data.length, .ok, 0⟩] ∧ t.m.regs = s.m.regs ∧ SameStores t.m (m2.landPacket ws2 ctr2 p.data.length))) ∧
    (∀ (p : Packet) (ws : List (Acc × List Byte)) (ctr : Option Acc) (m M : Mach), p.token = none → p.get = false → landing s.cfg s.m p = (.ok ws ctr, m) → M = { m.prefixGot p ((ws.head?).bind (fun w => w.1.team)) with late := (m.prefixGot p ((ws.head?).bind (fun w => w.1.team))).late ++ [p] } → M.landable p.src p.xid false = [] → 
      Completes (exec (.packetArrival p) s) (fun t => t.m.late = M.late ∧ t.m.net = M.net ∧ t.m.regs = s.m.regs ∧ SameStores t.m M)) ∧
    (∀ (p : Packet) (n : Nat), p.token = some n → (∀ k ∈ s.m.tokens, k.id ≠ n) → p.get = false → 
      Completes (exec (.packetArrival p) s) (fun t => t.m.net = s.m.net ++ [.ack p.src (if p.sealed = none ∧ toSaved s.cfg s.m p = true then ⟨p.xid, true, p.pos, p.data.length, .revoked, 0⟩ else ⟨p.xid, true, p.pos, 0, .ok, 0⟩)] ∧ SameStores t.m s.m)) ∧
    (∀ (die part : Nat) (h : HReq), (s.m.tokens.filter (fun k => k.die == die && k.part == part)).length < poolSize s.cfg die part → s.m.hreqs.filter (fun h => h.die == die && h.r.part == part && s.m.eligible h) = [h] → 
      Completes (exec (.tokenGrant die part) s) (fun t => t.m.tokens = s.m.tokens ++ [⟨s.m.fresh, die, part, h.order, h.take.1.1, h.take.1.2, [], false, s.m.cyc, h.team⟩] ∧ t.m.net = s.m.net ++ [.grant h.r.src h.r.get ⟨h.r.xid, s.m.fresh, h.take.1.1, h.take.1.2⟩] ∧
      h.take.1.2 ≤ 4096 ∧ ∀ k tm, h.team = some k → s.m.team? k = some tm → (t.m.team? k).map Team.inbound = some (tm.inbound + 4096))) ∧
    (∀ (n : Nat) (k : Token) (h : HReq), s.m.tokens.find? (fun k => k.id == n) = some k → k.at_ + 65536 ≤ s.m.cyc → s.m.hreqs.find? (fun h => h.order == k.req) = some h → h.expiries < 3 → 
      Completes (exec (.tokenExpiry n) s) (fun t => t.m.hreqs = s.m.hreqs.map (fun h => if h.order = k.req then { h with regrant := h.regrant ++ k.missing, expiries := h.expiries + 1 } else h) ∧ t.m.tokens = s.m.tokens.filter (fun x => x.id != n) ∧ t.m.mem = s.m.mem)) ∧
    (∀ (a : XferAck) (o : Op) (oc : OpCtx) (b : List Byte) (x : Xfer), s.m.xferOp a.xid = some o → opCtx s.m o = some oc → o.cmd = .xput b → o.xfer = some x → a.packet = true → a.status = .ok → x.bad = none → (descOf b).len ≤ x.acked + a.bytes → (∀ d ∈ s.m.driftSent, d.xid ≠ a.xid) → 
      Completes (exec (.transferAck a) s) (fun t => Ended t o 0 0 0 ∧ SameStores t.m s.m)) ∧
    (∀ (i : Invocation), (s.cfg.part? i.part).isSome = true → i.parent = none → 
      Completes (exec (.invocationArrival i) s) (fun t => t.m.invq = s.m.invq ++ [⟨i, none, false, false, 0, none⟩] ∧ t.m.hents = s.m.hents ∧ SameStores t.m s.m)) ∧
    (∀ (i : Invocation), s.cfg.part? i.part = none → i.handle.home ≠ s.cfg.device.toNat → 
      Completes (exec (.invocationArrival i) s) (fun t => t.m.net = s.m.net ++ [.handle i.handle.home i.part i.handle (.broken 4 0)] ∧ t.m.invq = s.m.invq)) ∧
    (∀ (part k : Nat) (q : InvQ) (pt : Part), s.m.invq.find? (fun q => q.inv.part == part && q.entry.isNone && (q.inv.parent.isNone || q.parentEntry.isSome)) = some q → s.cfg.part? part = some pt → tableOk pt = true → k < 16384 → s.m.hent? part k = none → q.inv.handle.home ≠ s.cfg.device.toNat → 
      Completes (exec (.invocationPlace part k) s) (fun t => t.m.hents = s.m.hents ++ [⟨part, k, s.m.hgen part k, .pending, 0, 0, true, false, q.inv.handle, none, none⟩] ∧ { q with entry := some k, queued := q.inv.parent.isNone, order := s.m.fresh } ∈ t.m.invq ∧
      t.m.net = s.m.net ++ [.handle q.inv.handle.home part q.inv.handle (.placed s.cfg.device.toNat k)])) ∧
    (∀ (part n k j : Nat) (q : InvQ) (p : Handle) (e : HEnt) (res : List Byte), (s.m.invq.filter (fun q => q.inv.part == part))[n]? = some q → q.inv.parent = some p → q.parentEntry = some k → s.m.hent? part k = some e → e.handle = p → e.st = .done res → q.entry = some j → q.queued = false → earlierKin (s.m.invq.filter (fun q => q.inv.part == part)) q = false → 
      Completes (exec (.rinvhForward part n) s) (fun t => { q with queued := true, order := s.m.fresh, inv := { q.inv with input := res } } ∈ t.m.invq ∧ t.m.hents = s.m.hents ∧ SameStores t.m s.m))

/-- REFRESH_START and SCRUB change nothing, and bank b refreshes while the phase lies in 3500b to 3500b+1399. REFRESH_END lets a fibre go on whose bank no longer refreshes, and with no access in progress or held changes nothing else. A throttle check steps the duty down under a condition, up after none, within 4 to 8; a condition shows at once and counts for the next check. A soft error is corrected, poisons its unit, marks its word, stops its launch, or is an alarm. PCIE_LINK_CHANGE sets its bit of LINKUP. A key slot is loaded for one partition; it is refused after an erase or a failed boot, and, by the model's choice (log entry 66), while another partition's configuration owns the slot. An alarm latches its bit, or under ERASE takes every key and halts the device (that the buffered writes are discarded then is the model's choice, log entry 72). A cold reset leaves nothing configured or resident (that memory and its tags stay is the model's choice, log entry 73), and its boot ends at BOOTSTG 3, at 0xFF where a check fails, or stands at 1 or 2 and goes on stage by stage; MEAS2 is the fuses with a byte for ALPOL (the byte is the model's choice, log entry 111). After a failed boot no key is left. That an unaligned read of BAR0 gives zero is the model's choice (log entry 106). -/
def Obligations.DeviceSteps : Prop :=
  ∀ (s : State),
    (∀ (d : Nat), Completes (exec (.refreshStart d) s) (fun t => t = s) ∧ ∀ b, s.m.refreshing d = some b ↔ (3500 * b ≤ s.m.wsPhi d ∧ s.m.wsPhi d < 3500 * b + 1400)) ∧
    (∀ (u : Nat), Completes (exec (.scrub u) s) (fun t => t = s)) ∧
    (∀ (d b n : Nat) (r : FRef) (c : Ctx) (i : Instr), s.m.waiting r = some (c, ⟨i, .bank d b, n⟩) → s.m.refreshing d ≠ some b → s.m.fabPend = [] → s.m.parked = [] → 
      Completes (exec (.refreshEnd d) s) (fun t => t.m.fibre? r = some { c.f with wait := none } ∧ t.cfg = s.cfg ∧ t.m.regs = s.m.regs ∧ SameStores t.m s.m)) ∧
    (∀ (d : Nat), d < s.m.dev.thr.length → 4096 * (s.m.thrOf d).next ≤ s.m.dieCyc d → 
      Completes (exec (.throttleCheck d) s) (fun t => t.cfg = s.cfg ∧ t.m.regs = s.m.regs ∧ SameStores t.m s.m ∧ (t.m.thrOf d).next = (s.m.thrOf d).next + 1 ∧ ((t.m.thrOf d).thermal, (t.m.thrOf d).power) = ((s.m.thrOf d).thermal, (s.m.thrOf d).power) ∧
      ((s.m.thrOf d).thermal = true ∨ (s.m.thrOf d).power = true → (t.m.thrOf d).duty = max 4 ((s.m.thrOf d).duty - 1) ∧ (t.m.thrOf d).seen = true) ∧
      ((s.m.thrOf d).thermal = false → (s.m.thrOf d).power = false → (t.m.thrOf d).seen = false ∧ (t.m.thrOf d).duty = if (s.m.thrOf d).seen then (s.m.thrOf d).duty else min 8 ((s.m.thrOf d).duty + 1)))) ∧
    (∀ (d : Nat), s.m.dieCyc d < 4096 * (s.m.thrOf d).next → 
      Completes (exec (.throttleCheck d) s) (fun t => t = s)) ∧
    (∀ (d : Nat) (a b : Bool), d < s.m.dev.thr.length → 
      Completes (exec (.throttleCondition d a b) s) (fun t => t.cfg = s.cfg ∧ t.m.regs = s.m.regs ∧ SameStores t.m s.m ∧ t.m.thrOf d = { s.m.thrOf d with thermal := a, power := b, seen := (s.m.thrOf d).seen || a || b })) ∧
    (∀ (d : Nat), 
      Completes (exec (.softError (.corrected d)) s) (fun t => t.cfg = s.cfg ∧ t.m.regs = s.m.regs ∧ SameStores t.m s.m ∧ t.m.poison = s.m.poison ∧ t.m.launches = s.m.launches)) ∧
    (∀ (u : Nat), 
      Completes (exec (.softError (.poisonPkg u)) s) (fun t => t.cfg = s.cfg ∧ t.m.regs = s.m.regs ∧ SameStores t.m s.m ∧ t.m.poison = (.pkg, u) :: s.m.poison)) ∧
    (∀ (k u : Nat), 
      Completes (exec (.softError (.poisonScr k u)) s) (fun t => t.cfg = s.cfg ∧ t.m.regs = s.m.regs ∧ SameStores t.m s.m ∧ t.m.poison = (.scr k, u) :: s.m.poison)) ∧
    (∀ (k g r j : Nat), 
      Completes (exec (.softError (.register k g r j)) s) (fun t => t.cfg = s.cfg ∧ t.m.regs = s.m.regs ∧ SameStores t.m s.m ∧ t.m.regErr = regKey k g r j :: s.m.regErr)) ∧
    (∀ (k g p j : Nat), 
      Completes (exec (.softError (.latch k g p j)) s) (fun t => t.cfg = s.cfg ∧ t.m.regs = s.m.regs ∧ SameStores t.m s.m ∧ t.m.latErr = latKey k g p j :: s.m.latErr)) ∧
    (∀ (k g x y : Nat), 
      Completes (exec (.softError (.accumulator k g x y)) s) (fun t => t.cfg = s.cfg ∧ t.m.regs = s.m.regs ∧ SameStores t.m s.m ∧ t.m.accErr = accKey k g x y :: s.m.accErr)) ∧
    (∀ (k o : Nat), 
      Completes (exec (.softError (.scale k o)) s) (fun t => t.cfg = s.cfg ∧ t.m.regs = s.m.regs ∧ SameStores t.m s.m ∧ t.m.scaleErr = scaleKey k o :: s.m.scaleErr)) ∧
    (∀ (k : Nat) (tm : Team) (la : Launch), s.m.team? k = some tm → s.m.launch? tm.l = some la → 
      Completes (exec (.softError (.owner k)) s) (fun t => t.cfg = s.cfg ∧ t.m.regs = s.m.regs ∧ SameStores t.m s.m ∧ (t.m.launch? tm.l).map (fun la => la.stop.isSome) = some true)) ∧
    (s.m.dev.erased = false → s.m.dev.alpol = false → 
      Completes (exec (.softError .keyStore) s) (fun t => t.cfg = s.cfg ∧ t.m.regs = s.m.regs ∧ SameStores t.m s.m ∧ t.m.dev.alarm = s.m.dev.alarm ||| 8)) ∧
    (s.m.dev.erased = false → s.m.dev.alpol = true → 
      Completes (exec (.softError .keyStore) s) (fun t => t.cfg.keys = [] ∧ t.m.dev.erased = true)) ∧
    (∀ (k : Nat) (up : Bool), k < 2 → 
      Completes (exec (.pcieLinkChange k up) s) (fun t => t.cfg = s.cfg ∧ t.m.regs = s.m.regs ∧ SameStores t.m s.m ∧ t.m.dev.linkup.getLsbD k = up ∧ t.m.dev.linkup.getLsbD (1 - k) = s.m.dev.linkup.getLsbD (1 - k) ∧
      ∀ d, (t.m.dev.linkup.getLsbD (d % 2) = true → t.m.linkOf d = d % 2) ∧ (t.m.dev.linkup.getLsbD (d % 2) = false → t.m.dev.linkup.getLsbD (1 - d % 2) = true → t.m.linkOf d = 1 - d % 2))) ∧
    (∀ (k p : Nat) (key : Key), s.m.dev.erased = false → s.m.dev.bootstg ≠ 0xFF → (∀ x ∈ s.cfg.parts, x.p ≠ p → nbit x.keys k = false) → 
      Completes (exec (.keySlotLoad k p key) s) (fun t => t.m = s.m ∧ t.cfg.keys = ⟨k, p, key⟩ :: s.cfg.keys.filter (fun x => x.slot != k) ∧ t.cfg.parts = s.cfg.parts ∧ t.cfg.ctxs = s.cfg.ctxs)) ∧
    (∀ (k p : Nat) (key : Key), (s.m.dev.erased = true ∨ s.m.dev.bootstg = 0xFF) → 
      Completes (exec (.keySlotLoad k p key) s) (fun t => t = s)) ∧
    (∀ (b : BitVec 4), s.m.dev.erased = false → s.m.dev.alpol = false → 
      Completes (exec (.alarmDetect b) s) (fun t => t.cfg = s.cfg ∧ t.m.regs = s.m.regs ∧ SameStores t.m s.m ∧ t.m.dev.alarm = s.m.dev.alarm ||| b ∧ t.m.dev.erased = false ∧ (b ≠ 0 → .alarmed b ∈ t.m.net))) ∧
    (∀ (b : BitVec 4), b ≠ 0 → s.m.dev.erased = false → s.m.dev.alpol = true → 
      Completes (exec (.alarmDetect b) s) (fun t => t.cfg.keys = [] ∧ t.m.dev.erased = true ∧ t.m.bufs = [] ∧ t.m.dev.islands = [] ∧ (∀ p ∈ t.m.dev.ports, p.out.key0 = none ∧ p.out.key1 = none ∧ p.inn.key0 = none ∧ p.inn.key1 = none) ∧ t.m.mem = s.m.mem ∧ (s.m.agenda = [] → step t = .fault .halted) ∧ ∀ off, 0x18 < off → barRead t.m off = 0)) ∧
    (∀ (f : Nat) (al : Bool) (dv : BitVec 13) (lk : BitVec 2) (of ph : List Nat) (bo fi fu : List Byte), 
      Completes (exec (.coldReset f al dv lk of ph bo fi fu) s) (fun t => t.cfg = { device := dv, parts := [], ctxs := [], keys := [] } ∧ t.m.regs = [] ∧ t.m.launches = [] ∧ t.m.queues = [] ∧ t.m.tlb = [] ∧ t.m.bufs = [] ∧ t.m.dev.erased = false ∧ t.m.dev.alarm = 0 ∧ t.m.dev.alpol = al ∧ (f = 0 → t.m.dev.linkup = lk) ∧ (f = 1 ∨ f = 2 → ∀ off, 0x18 < off → barRead t.m off = 0) ∧
      t.m.dev.bootstg = (if f = 1 ∨ f = 2 then 0xFF else if f = 3 then 1 else if f = 4 then 2 else 3) ∧ (f = 0 → t.m.dev.meas.take 3 = [bo, fi, fu ++ [if al then 1 else 0]].map (fun x => sha3 (List.replicate 48 0 ++ sha3 x))) ∧
      (∀ d, t.m.dieCyc d < 64) ∧ t.m.mem = s.m.mem ∧ t.m.tags = s.m.tags)) ∧
    (∀ (lk : BitVec 2) (fi : List Byte) (rest : List Agenda), s.m.agenda = .bootOn true lk fi :: rest → s.m.dev.erased = false → s.m.dev.bootstg = 1 → Completes (step s) (fun t => t.cfg = s.cfg ∧ t.m.agenda = rest ∧ t.m.mem = s.m.mem ∧ t.m.dev.bootstg = 2 ∧ t.m.dev.linkup = lk ∧
      t.m.dev.meas = modAt (modAt s.m.dev.meas 1 (fun x => sha3 (x ++ sha3 fi))) 2 (fun x => sha3 (x ++ sha3 (s.m.dev.fuses ++ [if s.m.dev.alpol then 1 else 0]))))) ∧
    (∀ (lk : BitVec 2) (fi : List Byte) (rest : List Agenda), s.m.agenda = .bootOn false lk fi :: rest → s.m.dev.erased = false → s.m.dev.bootstg = 1 → Completes (step s) (fun t => t.cfg.keys = [] ∧ t.m.agenda = rest ∧ t.m.mem = s.m.mem ∧ t.m.dev.bootstg = 0xFF ∧ t.m.dev.islands = [] ∧ (∀ p ∈ t.m.dev.ports, p.out.key0 = none ∧ p.out.key1 = none ∧ p.inn.key0 = none ∧ p.inn.key1 = none) ∧ t.m.dev.meas = s.m.dev.meas)) ∧
    (∀ (g : Bool) (lk : BitVec 2) (fi : List Byte) (rest : List Agenda), s.m.agenda = .bootOn g lk fi :: rest → s.m.dev.erased = false → s.m.dev.bootstg = 2 → Completes (step s) (fun t => t.cfg = s.cfg ∧ t.m.agenda = rest ∧ t.m.mem = s.m.mem ∧ t.m.dev = { s.m.dev with bootstg := 3 })) ∧
    (barRead s.m 0 = s.m.dev.status ∧ barRead s.m 0x10 = s.m.dev.plim ∧ barRead s.m 0x18 = s.m.dev.amsix ∧ (∀ off, off % 8 ≠ 0 → barRead s.m off = 0)) ∧
    (s.m.dev.erased = false → s.m.dev.bootstg ≠ 0xFF → (∀ d, d < 4 → barRead s.m (0x100 + 8 * d) = s.m.dieCyc d % 2 ^ 64) ∧ (∀ q, q < 1024 → barRead s.m (0x10000 + 64 * q + 0x20) = 0 ∧ barRead s.m (0x10000 + 64 * q + 0x28) = (s.m.queue q).head) ∧
      (∀ n, n < 64 → barRead s.m (0x1008 + 16 * n) = (s.m.ctrOf n).count) ∧ ∀ off, 0x120 ≤ off → off < 0x1000 → barRead s.m off = 0)

/-- A flit leaves with the ciphertext and tag of its key and nonce, the counter rises, and a direction at its last counter holds its flits with KEYHOLD and asks for a key. A flit whose tag is right under the counter expected is accepted; any other asks for one replay, behind which later flits are kept; a second failure locks the port; the old phase is refused after the new. A session that has verified its peer gives a direction of a port, or an island, the key derived from it, into the idle slot; without one, or after an erase or a failed boot, nothing is installed. The attestation service answers each request of its list with its contents (their bytes are a constant of Config, and which request must come first is the model's choice, from SPDM 1.3), extends MEAS8 to MEAS15 inside a session alone, applies pending extensions before a measurement, and answers any other request UnsupportedRequest. -/
def Obligations.SecuritySteps : Prop :=
  ∀ (s : State),
    (∀ (n : Nat) (p : FPort) (key : Key) (tx : List Byte), s.m.fport? n = some p → p.locked = false → p.out.newPhase = false → p.out.key = some key → p.out.hold = [] → p.out.counter < 2 ^ 48 - 1 → tx.length = 256 → 
      Completes (exec (.flitSend n tx) s) (fun t => t.cfg = s.cfg ∧ t.m.regs = s.m.regs ∧ SameStores t.m s.m ∧ t.m.net.take (s.m.net.length + 1) = s.m.net ++ [.flit p.n p.out.phase p.out.counter (gcmCrypt key (flitNonce (portIdent s.cfg.device.toNat p.n) p.out.counter) 0 tx) (flitTag key (flitNonce (portIdent s.cfg.device.toNat p.n) p.out.counter) (gcmCrypt key (flitNonce (portIdent s.cfg.device.toNat p.n) p.out.counter) 0 tx))] ∧
      (2 ^ 47 ≤ p.out.counter + 1 → p.out.asked = false → t.m.net.getLast? = some (.keyRequest (.out p.n))) ∧ (t.m.fport? n).map (fun x => (x.out.counter, x.out.phase, x.out.unacked.length)) = some (p.out.counter + 1, p.out.phase, p.out.unacked.length + 1))) ∧
    (∀ (n : Nat) (p : FPort) (key : Key) (tx : List Byte), s.m.fport? n = some p → p.locked = false → p.out.newPhase = false → p.out.key = some key → p.out.counter = 2 ^ 48 - 1 → tx.length = 256 → 
      Completes (exec (.flitSend n tx) s) (fun t => t.cfg = s.cfg ∧ t.m.regs = s.m.regs ∧ SameStores t.m s.m ∧ (t.m.fport? n).map (fun x => x.out.hold) = some (p.out.hold ++ [tx]) ∧ (p.n < 36 → t.m.dev.keyhold.getLsbD (p.n / 9) = true) ∧ (p.out.hold = [] → .keyExhausted (.out p.n) ∈ t.m.net) ∧ ∀ x ∈ t.m.net, x ∉ s.m.net → x = .keyExhausted (.out p.n) ∨ x = .msix s.m.dev.amsix)) ∧
    (∀ (n : Nat) (p : FPort) (ph : Bool) (k : Nat) (cipher : List Byte) (tag : BitVec 64) (key : Key), s.m.fport? n = some p → p.locked = false → p.inn.keyOf ph = some key → p.inn.newPhase = false → ph = p.inn.phase → k = p.inn.counter → tag = flitTag key (flitNonce p.inn.ident k) cipher → (p.inn.retry = none ∨ p.inn.retry = some k) → p.inn.behind = [] → 
      Completes (exec (.flitReceive n ph k cipher tag) s) (fun t => t.cfg = s.cfg ∧ t.m.regs = s.m.regs ∧ SameStores t.m s.m ∧ t.m.net = s.m.net ∧ (t.m.fport? n).map (fun x => (x.inn.counter, x.inn.retry, x.locked, x.inn.got)) = some (k + 1, none, false, p.inn.got ++ [gcmCrypt key (flitNonce p.inn.ident k) 0 cipher]))) ∧
    (∀ (n : Nat) (p : FPort) (ph : Bool) (cipher : List Byte) (tag : BitVec 64) (key : Key), s.m.fport? n = some p → p.locked = false → p.inn.keyOf ph = some key → p.inn.newPhase = true → ph ≠ p.inn.phase → tag = flitTag key (flitNonce p.inn.ident 0) cipher → p.inn.retry = none → p.inn.behind = [] → 
      Completes (exec (.flitReceive n ph 0 cipher tag) s) (fun t => t.cfg = s.cfg ∧ t.m.regs = s.m.regs ∧ SameStores t.m s.m ∧ (t.m.fport? n).map (fun x => (x.inn.counter, x.inn.phase, x.inn.newPhase)) = some (1, ph, false))) ∧
    (∀ (n : Nat) (p : FPort) (ph : Bool) (k : Nat) (cipher : List Byte) (tag : BitVec 64) (key : Key), s.m.fport? n = some p → p.locked = false → p.inn.keyOf ph = some key → p.inn.newPhase = false → ph ≠ p.inn.phase → p.inn.retry = none → p.inn.behind = [] → 
      Completes (exec (.flitReceive n ph k cipher tag) s) (fun t => t.cfg = s.cfg ∧ t.m.regs = s.m.regs ∧ SameStores t.m s.m ∧ t.m.net = s.m.net ∧ t.m.fport? n = some p)) ∧
    (∀ (n : Nat) (p : FPort) (ph : Bool) (k : Nat) (cipher : List Byte) (tag : BitVec 64) (key : Key), s.m.fport? n = some p → p.locked = false → p.inn.keyOf ph = some key → p.inn.newPhase = false → ph = p.inn.phase → p.inn.retry = none → (k ≠ p.inn.counter ∨ tag ≠ flitTag key (flitNonce p.inn.ident p.inn.counter) cipher) → 
      Completes (exec (.flitReceive n ph k cipher tag) s) (fun t => t.cfg = s.cfg ∧ t.m.regs = s.m.regs ∧ SameStores t.m s.m ∧ t.m.net = s.m.net ++ [.replay n p.inn.counter] ∧ (t.m.fport? n).map (fun x => (x.inn.retry, x.inn.counter, x.locked, x.inn.got)) = some (some p.inn.counter, p.inn.counter, false, p.inn.got))) ∧
    (∀ (n : Nat) (p : FPort) (ph : Bool) (k : Nat) (cipher : List Byte) (tag : BitVec 64) (key : Key) (j : Nat), s.m.fport? n = some p → p.locked = false → p.inn.keyOf ph = some key → ph = p.inn.phase → p.inn.retry = some j → k ≠ j → 
      Completes (exec (.flitReceive n ph k cipher tag) s) (fun t => t.cfg = s.cfg ∧ t.m.regs = s.m.regs ∧ SameStores t.m s.m ∧ t.m.net = s.m.net ∧ t.m.fport? n = some { p with inn := { p.inn with behind := p.inn.behind ++ [⟨ph, k, cipher, tag⟩] } })) ∧
    (∀ (n : Nat) (p : FPort) (ph : Bool) (k : Nat) (cipher : List Byte) (tag : BitVec 64) (key : Key), s.m.fport? n = some p → p.locked = false → p.inn.keyOf ph = some key → p.inn.newPhase = false → ph = p.inn.phase → p.inn.retry = some k → k = p.inn.counter → tag ≠ flitTag key (flitNonce p.inn.ident k) cipher → 
      Completes (exec (.flitReceive n ph k cipher tag) s) (fun t => (t.m.fport? n).map FPort.locked = some true ∧ t.m.regs = s.m.regs ∧ .locked n ∈ t.m.net)) ∧
    (∀ (n : Nat) (p : FPort) (x : List Byte), s.m.fport? n = some p → s.m.dev.erased = false → s.m.dev.bootstg ≠ 0xFF → p.locked = false → p.out.hold = [] → (p.out.key0 ≠ none ∨ p.out.key1 ≠ none) → 
      Completes (exec (.keyInstall (.out n) (some x)) s) (fun t => t.cfg = s.cfg ∧ t.m.regs = s.m.regs ∧ SameStores t.m s.m ∧ t.m.net = s.m.net ∧ (t.m.fport? n).map (fun y => (y.out.newPhase, y.out.counter, y.out.phase, if p.out.phase then y.out.key0 else y.out.key1, y.out.key)) =
        some (true, p.out.counter, p.out.phase, some (deriveKey x fexelLabel (portIdent s.cfg.device.toNat n)), p.out.key))) ∧
    (∀ (peer a b : Nat) (x : List Byte), s.m.dev.erased = false → s.m.dev.bootstg ≠ 0xFF → (∀ d ∈ s.m.driftSent, d.peer = peer → d.sealed ≠ none) → 
      Completes (exec (.keyInstall (.island peer true a b) (some x)) s) (fun t => t.cfg = s.cfg ∧ t.m.regs = s.m.regs ∧ SameStores t.m s.m ∧ t.m.net = s.m.net ∧ (t.m.islandKey peer).out = some (deriveKey x islandLabel (a * 2 ^ 32 + b)) ∧ (t.m.islandKey peer).counter = 0)) ∧
    (∀ (use : KeyUse) (x : Option (List Byte)), (x = none ∨ s.m.dev.erased = true ∨ s.m.dev.bootstg = 0xFF) → 
      Completes (exec (.keyInstall use x) s) (fun t => t = s)) ∧
    (∀ (ch : Nat), 
      Completes (exec (.getVersion ch) s) (fun t => t.cfg = s.cfg ∧ t.m.regs = s.m.regs ∧ SameStores t.m s.m ∧ t.m.net = s.m.net ++ [.spdm ch (Config.spdmReply 0x04 ([0x13]))])) ∧
    (∀ (ch : Nat), (s.m.spdm ch).version = true → 
      Completes (exec (.getCapabilities ch) s) (fun t => t.cfg = s.cfg ∧ t.m.regs = s.m.regs ∧ SameStores t.m s.m ∧ t.m.net = s.m.net ++ [.spdm ch (Config.spdmReply 0x61 ([]))] ∧ (t.m.spdm ch).caps = true)) ∧
    (∀ (ch : Nat), (s.m.spdm ch).version = false → 
      Completes (exec (.getCapabilities ch) s) (fun t => t.cfg = s.cfg ∧ t.m.regs = s.m.regs ∧ SameStores t.m s.m ∧ t.m.net = s.m.net ++ [.spdm ch (Config.spdmReply 0x7F ([4]))])) ∧
    (∀ (ch : Nat), (s.m.spdm ch).caps = true → 
      Completes (exec (.negotiateAlgorithms ch) s) (fun t => t.cfg = s.cfg ∧ t.m.regs = s.m.regs ∧ SameStores t.m s.m ∧ t.m.net = s.m.net ++ [.spdm ch (Config.spdmReply 0x63 (algorithms))] ∧ (t.m.spdm ch).algs = true)) ∧
    (∀ (ch : Nat), (s.m.spdm ch).caps = false → 
      Completes (exec (.negotiateAlgorithms ch) s) (fun t => t.cfg = s.cfg ∧ t.m.regs = s.m.regs ∧ SameStores t.m s.m ∧ t.m.net = s.m.net ++ [.spdm ch (Config.spdmReply 0x7F ([4]))])) ∧
    (∀ (ch : Nat), (s.m.spdm ch).algs = true → 
      Completes (exec (.getDigests ch) s) (fun t => t.cfg = s.cfg ∧ t.m.regs = s.m.regs ∧ SameStores t.m s.m ∧ t.m.net = s.m.net ++ [.spdm ch (Config.spdmReply 0x01 (1 :: sha3 Config.chain))])) ∧
    (∀ (ch k : Nat), (s.m.spdm ch).algs = true → 
      Completes (exec (.getCertificate ch k) s) (fun t => (k = 0 → t.m.net = s.m.net ++ [.spdm ch (Config.spdmReply 0x02 Config.chain)]) ∧ (k ≠ 0 → t.m.net = s.m.net ++ [.spdm ch (Config.spdmReply 0x7F [1])]) ∧ t.cfg = s.cfg ∧ t.m.regs = s.m.regs ∧ SameStores t.m s.m)) ∧
    (∀ (ch : Nat), (s.m.spdm ch).algs = true → 
      Completes (exec (.challenge ch 0) s) (fun t => t.cfg = s.cfg ∧ t.m.regs = s.m.regs ∧ SameStores t.m s.m ∧ t.m.net = s.m.net ++ [.spdm ch (Config.spdmReply 0x03 (sha3 Config.chain ++ Config.sign (s.m.spdm ch).script))])) ∧
    (∀ (ch k : Nat) (x : List Byte), (({ s.m with dev := s.m.dev.settle } : Mach).spdm ch).algs = true → k < 254 → s.m.dev.settle.meas[k]? = some x → 
      Completes (exec (.getMeasurements ch (k + 1) false) s) (fun t => t.cfg = s.cfg ∧ t.m.regs = s.m.regs ∧ SameStores t.m s.m ∧ t.m.net = s.m.net ++ [.spdm ch (Config.spdmReply 0x60 (x))] ∧ t.m.dev.measPend = [] ∧ t.m.dev.meas = s.m.dev.settle.meas)) ∧
    (∀ (ch : Nat), (({ s.m with dev := s.m.dev.settle } : Mach).spdm ch).algs = true → 
      Completes (exec (.getMeasurements ch 0xFF true) s) (fun t => t.cfg = s.cfg ∧ t.m.regs = s.m.regs ∧ SameStores t.m s.m ∧ t.m.net = s.m.net ++ [.spdm ch (Config.spdmReply 0x60 (s.m.dev.settle.meas.flatten ++ Config.sign ((({ s.m with dev := s.m.dev.settle } : Mach).spdm ch).script ++ s.m.dev.settle.meas.flatten)))] ∧ t.m.dev.measPend = [])) ∧
    (∀ (ch : Nat), (s.m.spdm ch).algs = true → 
      Completes (exec (.keyExchange ch 0) s) (fun t => t.cfg = s.cfg ∧ t.m.regs = s.m.regs ∧ SameStores t.m s.m ∧ t.m.net = s.m.net ++ [.spdm ch (Config.spdmReply 0x64 (Config.kem (s.m.spdm ch).script ++ Config.sign (s.m.spdm ch).script))] ∧ (t.m.spdm ch).keyex = true)) ∧
    (∀ (ch : Nat), (s.m.spdm ch).keyex = true → 
      Completes (exec (.finish ch true) s) (fun t => t.cfg = s.cfg ∧ t.m.regs = s.m.regs ∧ SameStores t.m s.m ∧ t.m.net = s.m.net ++ [.spdm ch (Config.spdmReply 0x65 ([]))] ∧ (t.m.spdm ch).session = true)) ∧
    (∀ (ch : Nat), (s.m.spdm ch).keyex = true → 
      Completes (exec (.finish ch false) s) (fun t => t.cfg = s.cfg ∧ t.m.regs = s.m.regs ∧ SameStores t.m s.m ∧ t.m.net = s.m.net ++ [.spdm ch (Config.spdmReply 0x7F ([6]))] ∧ (t.m.spdm ch).session = (s.m.spdm ch).session)) ∧
    (∀ (ch : Nat), (s.m.spdm ch).session = true → 
      Completes (exec (.endSession ch) s) (fun t => t.cfg = s.cfg ∧ t.m.regs = s.m.regs ∧ SameStores t.m s.m ∧ t.m.net = s.m.net ++ [.spdm ch (Config.spdmReply 0x6C ([]))] ∧ (t.m.spdm ch).session = false)) ∧
    (∀ (ch k : Nat) (x : List Byte), (s.m.spdm ch).session = true → 8 ≤ k ∧ k ≤ 15 → x.length = 48 → 
      Completes (exec (.measExtend ch k x) s) (fun t => t.cfg = s.cfg ∧ t.m.regs = s.m.regs ∧ SameStores t.m s.m ∧ t.m.net = s.m.net ++ [.spdm ch (Config.spdmReply 0x7E ([]))] ∧ t.m.dev.meas = s.m.dev.meas.modify k (fun y => sha3 (y ++ x)))) ∧
    (∀ (ch k : Nat) (x : List Byte), ((s.m.spdm ch).session = false ∨ k < 8 ∨ 15 < k ∨ x.length ≠ 48) → 
      Completes (exec (.measExtend ch k x) s) (fun t => t.cfg = s.cfg ∧ t.m.regs = s.m.regs ∧ SameStores t.m s.m ∧ t.m.net = s.m.net ++ [.spdm ch (Config.spdmReply 0x7F ([1]))] ∧ t.m.dev.meas = s.m.dev.meas)) ∧
    (∀ (ch k : Nat), 
      Completes (exec (.unsupportedRequest ch k) s) (fun t => t.cfg = s.cfg ∧ t.m.regs = s.m.regs ∧ SameStores t.m s.m ∧ t.m.net = s.m.net ++ [.spdm ch (Config.spdmReply 0x7F ([7]))] ∧ t.m.dev.meas = s.m.dev.meas))
end

