-- ==== Sys2Proof/Laws/SMap.lean ====
section
/-! SUPPORT. Laws of the sparse maps: a read after a write, the canonical form kept by every operation, equal reads make equal maps. -/
set_option Elab.async false
namespace Sys2Proof.Machine

variable {α : Type} [DecidableEq α] {d : α}

theorem smWfFrom_mono {lo lo' : Nat} (h : lo ≤ lo') : ∀ {m : SMap α}, smWfFrom d lo' m = true → smWfFrom d lo m = true
  | [], _ => rfl
  | (k, v) :: r, w => by simp [smWfFrom] at w ⊢; exact ⟨⟨by omega, w.1.2⟩, w.2⟩

theorem smGet_below {lo k : Nat} (hk : k < lo) : ∀ {m : SMap α}, smWfFrom d lo m = true → smGet d m k = d
  | [], _ => rfl
  | (k', v) :: r, w => by
    simp [smWfFrom] at w
    have h1 : k' ≠ k := by omega
    have h2 : k < k' := by omega
    simp [smGet, h1, h2]

/-- Writing keeps the canonical form. -/
theorem smSet_wfFrom {lo k : Nat} (hk : lo ≤ k) (v : α) : ∀ {m : SMap α}, smWfFrom d lo m = true → smWfFrom d lo (smSet d m k v) = true
  | [], _ => by unfold smSet; split <;> simp [smWfFrom, *]
  | (k', v') :: r, w => by
    simp [smWfFrom] at w
    unfold smSet
    split
    · split
      · simp [smWfFrom, w]
      · simp [smWfFrom, *]
    · split
      · subst k'
        split
        · exact smWfFrom_mono (by omega) w.2
        · simp [smWfFrom, *]
      · simp [smWfFrom, w]
        exact smSet_wfFrom (by omega) v w.2

theorem smSet_wf (k : Nat) (v : α) {m : SMap α} (w : smWf d m = true) : smWf d (smSet d m k v) = true := smSet_wfFrom (Nat.zero_le k) v w

/-- A read after a write: the value at the key written, the old value at every other key. -/
theorem smGet_smSetFrom {lo : Nat} (k k' : Nat) (v : α) :
    ∀ {m : SMap α}, smWfFrom d lo m = true → smGet d (smSet d m k v) k' = if k' = k then v else smGet d m k'
  | [], _ => by
    unfold smSet
    split
    · split <;> simp [smGet, *]
    · by_cases h : k = k' <;> simp [smGet, h, eq_comm]
  | (j, u) :: r, w => by
    simp [smWfFrom] at w
    unfold smSet
    split
    · rename_i hk
      split
      · subst v
        by_cases h : k' = k
        · subst k'; have h1 : j ≠ k := by omega
          simp [smGet, h1, hk]
        · simp [h]
      · by_cases h : k' = k
        · subst k'; simp [smGet]
        · have h1 : ¬ k = k' := fun e => h e.symm
          by_cases h2 : k' < k
          · have h3 : k' < j := by omega
            have h4 : ¬ j = k' := by omega
            simp [smGet, h, h1, h2, h3, h4]
          · simp [smGet, h, h1, h2]
    · split
      · subst j
        split
        · subst v
          by_cases h : k' = k
          · subst k'; simp [smGet_below (Nat.lt_succ_self k) w.2]
          · have h1 : ¬ k = k' := fun e => h e.symm
            by_cases h2 : k' < k
            · simp [smGet, h, h1, h2, smGet_below (by omega : k' < k + 1) w.2]
            · simp [smGet, h, h1, h2]
        · by_cases h : k' = k
          · subst k'; simp [smGet]
          · have h1 : ¬ k = k' := fun e => h e.symm
            simp [smGet, h, h1]
      · have ih := smGet_smSetFrom k k' v w.2
        by_cases h1 : j = k'
        · subst h1
          have h2 : ¬ j = k := by omega
          simp [smGet, h2]
        · by_cases h2 : k' < j
          · have h3 : ¬ k' = k := by omega
            simp [smGet, h1, h2, h3]
          · simp [smGet, h1, h2, ih]

theorem smGet_smSet (k k' : Nat) (v : α) {m : SMap α} (w : smWf d m = true) :
    smGet d (smSet d m k v) k' = if k' = k then v else smGet d m k' := smGet_smSetFrom k k' v w

theorem smSetAll_wf : ∀ (ps : List (Nat × α)) {m : SMap α}, smWf d m = true → smWf d (smSetAll d m ps) = true
  | [], _, w => w
  | p :: ps, _, w => smSetAll_wf ps (smSet_wf p.1 p.2 w)

/-- A key that a list of writes does not name keeps its value. -/
theorem smGet_smSetAll_other (k : Nat) : ∀ (ps : List (Nat × α)) {m : SMap α}, smWf d m = true → (∀ p ∈ ps, p.1 ≠ k) →
    smGet d (smSetAll d m ps) k = smGet d m k
  | [], _, _, _ => rfl
  | p :: ps, m, w, h => by
    have h1 := smGet_smSetAll_other k ps (smSet_wf p.1 p.2 w) (fun q hq => h q (List.mem_cons_of_mem _ hq))
    have h2 : ¬ k = p.1 := fun e => h p (List.mem_cons_self ..) e.symm
    simpa [smSetAll, smGet_smSet p.1 k p.2 w, h2] using h1

/-- A list of writes at distinct keys leaves each its value. -/
theorem smGet_smSetAll_mem (p : Nat × α) : ∀ (ps : List (Nat × α)) {m : SMap α}, smWf d m = true → (ps.map Prod.fst).Nodup → p ∈ ps →
    smGet d (smSetAll d m ps) p.1 = p.2
  | [], _, _, _, h => by simp at h
  | q :: ps, m, w, nd, h => by
    simp only [List.map_cons, List.nodup_cons] at nd
    rcases List.mem_cons.mp h with rfl | h
    · have h1 := smGet_smSetAll_other p.1 ps (smSet_wf p.1 p.2 w) (fun r hr e => nd.1 (e ▸ List.mem_map_of_mem hr))
      simpa [smSetAll, smGet_smSet p.1 p.1 p.2 w] using h1
    · simpa [smSetAll] using smGet_smSetAll_mem p ps (smSet_wf q.1 q.2 w) nd.2 h

theorem smSetRun_wf : ∀ (vs : List α) (k : Nat) {m : SMap α}, smWf d m = true → smWf d (smSetRun d m k vs) = true
  | [], _, _, w => w
  | v :: vs, k, _, w => smSetRun_wf vs (k + 1) (smSet_wf k v w)

/-- A key outside a run of writes keeps its value. -/
theorem smGet_smSetRun_other (k' : Nat) : ∀ (vs : List α) (k : Nat) {m : SMap α}, smWf d m = true → (k' < k ∨ k + vs.length ≤ k') →
    smGet d (smSetRun d m k vs) k' = smGet d m k'
  | [], _, _, _, _ => rfl
  | v :: vs, k, m, w, h => by
    have h1 := smGet_smSetRun_other k' vs (k + 1) (smSet_wf k v w) (by simp at h; omega)
    have h2 : ¬ k' = k := by simp at h; omega
    simpa [smSetRun, smGet_smSet k k' v w, h2] using h1

/-- A key of a run of writes takes its value. -/
theorem smGet_smSetRun (i : Nat) : ∀ (vs : List α) (k : Nat) {m : SMap α}, smWf d m = true → (h : i < vs.length) →
    smGet d (smSetRun d m k vs) (k + i) = vs[i]
  | [], _, _, _, h => by simp at h
  | v :: vs, k, m, w, h => by
    cases i with
    | zero =>
      have h1 := smGet_smSetRun_other k vs (k + 1) (smSet_wf k v w) (by omega)
      simpa [smSetRun, smGet_smSet k k v w] using h1
    | succ i =>
      have h1 := smGet_smSetRun i vs (k + 1) (smSet_wf k v w) (by simpa using h)
      have h2 : k + (i + 1) = k + 1 + i := by omega
      simpa [smSetRun, h2] using h1

theorem smFilter_wfFrom (p : Nat × α → Bool) : ∀ {lo : Nat} {m : SMap α}, smWfFrom d lo m = true → smWfFrom d lo (m.filter p) = true
  | _, [], _ => rfl
  | lo, (k, v) :: r, w => by
    simp [smWfFrom] at w
    have h := smFilter_wfFrom p w.2
    by_cases hp : p (k, v) = true
    · simp [List.filter, hp, smWfFrom, w, h]
    · simp [List.filter, hp]
      exact smWfFrom_mono (by omega) h

/-- Dropping a range of keys keeps the canonical form. -/
theorem smDrop_wf (lo hi : Nat) {m : SMap α} (w : smWf d m = true) : smWf d (smDrop m lo hi) = true := smFilter_wfFrom _ w

/-- Two maps in canonical form that read alike are equal. -/
theorem sm_ext : ∀ {lo : Nat} {a b : SMap α}, smWfFrom d lo a = true → smWfFrom d lo b = true → (∀ k, smGet d a k = smGet d b k) → a = b
  | _, [], [], _, _, _ => rfl
  | _, [], (k, v) :: r, _, wb, h => by
    simp [smWfFrom] at wb
    exact absurd (by simpa [smGet] using (h k).symm) wb.1.2
  | _, (k, v) :: r, [], wa, _, h => by
    simp [smWfFrom] at wa
    exact absurd (by simpa [smGet] using h k) wa.1.2
  | lo, (k, v) :: r, (j, u) :: t, wa, wb, h => by
    simp [smWfFrom] at wa wb
    have hkj : k = j := by
      rcases Nat.lt_trichotomy k j with hlt | he | hgt
      · have hn : ¬ j = k := by omega
        have := h k
        simp [smGet, hn, hlt] at this
        exact absurd this wa.1.2
      · exact he
      · have hn : ¬ k = j := by omega
        have := h j
        simp [smGet, hn, hgt] at this
        exact absurd this.symm wb.1.2
    subst hkj
    have hv : v = u := by simpa [smGet] using h k
    subst hv
    have ht : r = t := sm_ext wa.2 wb.2 (fun x => by
      rcases Nat.lt_or_ge k x with hx | hx
      · have h1 : ¬ k = x := by omega
        have h2 : ¬ x < k := by omega
        simpa [smGet, h1, h2] using h x
      · rw [smGet_below (by omega : x < k + 1) wa.2, smGet_below (by omega : x < k + 1) wb.2])
    rw [ht]

end Sys2Proof.Machine
end

