-- ==== Sys2Proof/Laws/Issue.lean ====
section
/-! SUPPORT. What issuing an instruction does, once: the shared operations of a run's progress leave everything beyond registers alone, and an entry that
answers `done` has issued (Safety: Issued, Latched). -/
set_option Elab.async false
namespace Sys2Proof.Machine

/-! ### Finding records -/

theorem Mach.fibre?_ref {m : Mach} {r : FRef} {f : Fibre} (h : m.fibre? r = some f) : f.ref = r := by
  have := List.find?_some h
  simpa using this

theorem Mach.group?_key {m : Mach} {t g : Nat} {x : Group} (h : m.group? t g = some x) : x.t = t ∧ x.g = g := by
  have := List.find?_some h
  simpa using this

/-- The issuing fibre's records are those of the machine. -/
theorem ctxOf_parts {m : Mach} {r : FRef} {c : Ctx} (h : ctxOf m r = some c) :
    m.fibre? r = some c.f ∧ m.group? r.t r.g = some c.g ∧ m.team? r.t = some c.tm ∧ m.cluster? c.tm.c = some c.cl ∧
      m.launch? c.tm.l = some c.la ∧ c.la.rec_ = some c.rc ∧ c.f.ref = r := by
  unfold ctxOf at h
  split at h <;> try contradiction
  rename_i f g tm hf hg ht
  split at h <;> try contradiction
  rename_i cl la hc hl
  split at h <;> try contradiction
  rename_i rc hr
  cases h
  exact ⟨hf, hg, ht, hc, hl, hr, Mach.fibre?_ref hf⟩

theorem Mach.issuer_parts {m : Mach} {c : Ctx} (h : m.issuer = some c) : ctxOf m c.f.ref = some c := by
  unfold Mach.issuer at h
  obtain ⟨r, _, hr⟩ := Option.bind_eq_some_iff.mp h
  have := (ctxOf_parts hr).2.2.2.2.2.2
  rw [this]; exact hr

theorem Mach.issuer_fibre {m : Mach} {c : Ctx} (h : m.issuer = some c) : m.fibre? c.f.ref = some c.f := (ctxOf_parts (Mach.issuer_parts h)).1
theorem Mach.issuer_group {m : Mach} {c : Ctx} (h : m.issuer = some c) : m.group? c.f.ref.t c.f.ref.g = some c.g :=
  (ctxOf_parts (Mach.issuer_parts h)).2.1

/-- Finding an updated record: the update of the one found. -/
theorem find?_map_upd {β : Type} (p : β → Bool) (q : β → Prop) [DecidablePred q] (f : β → β) (l : List β) (hp : ∀ x, q x → p (f x) = p x)
    (hq : ∀ x, p x = true → q x) : (l.map (fun x => if q x then f x else x)).find? p = (l.find? p).map f := by
  induction l with
  | nil => rfl
  | cons x xs ih =>
    by_cases hx : p x = true
    · have := hq x hx
      simp [this, hp x this, hx]
    · simp only [Bool.not_eq_true] at hx
      by_cases hqx : q x
      · simp [hqx, hp x hqx, hx, ih]
      · simp [hqx, hx, ih]

/-- Updating other records leaves the found one. -/
theorem find?_map_other {β : Type} (p : β → Bool) (q : β → Prop) [DecidablePred q] (f : β → β) (l : List β)
    (hq : ∀ x, q x → p x = false ∧ p (f x) = false) : (l.map (fun x => if q x then f x else x)).find? p = l.find? p := by
  induction l with
  | nil => rfl
  | cons x xs ih =>
    by_cases hqx : q x
    · simp [hqx, hq x hqx, ih]
    · simp only [List.map_cons, hqx, if_false, List.find?_cons, ih]

theorem Mach.fibre?_updFibre {m : Mach} {r : FRef} {f : Fibre → Fibre} (hf : ∀ x, (f x).ref = x.ref) : (m.updFibre r f).fibre? r = (m.fibre? r).map f :=
  find?_map_upd _ (fun x : Fibre => x.ref = r) f m.fibres (fun x _ => by simp [hf]) (fun x h => by simpa using h)

theorem Mach.fibre?_updFibre_other {m : Mach} {r r' : FRef} {f : Fibre → Fibre} (hf : ∀ x, (f x).ref = x.ref) (hr : r' ≠ r) :
    (m.updFibre r f).fibre? r' = m.fibre? r' :=
  find?_map_other _ (fun x : Fibre => x.ref = r) f m.fibres (fun x h => by simp [hf, h]; exact fun e => hr e.symm)

theorem Mach.group?_updGroup {m : Mach} {t g : Nat} {f : Group → Group} (hf : ∀ x, (f x).t = x.t ∧ (f x).g = x.g) :
    (m.updGroup t g f).group? t g = (m.group? t g).map f :=
  find?_map_upd _ (fun x : Group => x.t = t ∧ x.g = g) f m.groups (fun x _ => by simp [hf]) (fun x h => by simpa using h)

theorem Mach.group?_updGroup_other {m : Mach} {t g t' g' : Nat} {f : Group → Group} (hf : ∀ x, (f x).t = x.t ∧ (f x).g = x.g)
    (h : (t', g') ≠ (t, g)) : (m.updGroup t g f).group? t' g' = m.group? t' g' := by
  refine find?_map_other _ (fun x : Group => x.t = t ∧ x.g = g) f m.groups (fun x hx => ?_)
  have h' : ¬ (x.t = t' ∧ x.g = g') := fun e => h (by rw [← e.1, ← e.2, hx.1, hx.2])
  simp only [hf, hx.1, hx.2]
  simp only [hx.1, hx.2] at h'
  simpa using h'

/-! ### A machine changed only in registers' and schedules' records -/

/-- What the progress of a run of a group changes at most: time, ports, fibres and, for the cycle it is ready from, the group. -/
structure Mach.Ran (m n : Mach) (t g : Nat) : Prop where
  beyond : n.beyond = m.beyond
  regs : n.regs = m.regs
  lats : n.lats = m.lats
  outst : n.outst = m.outst
  group : (n.group? t g).map Group.timeless = (m.group? t g).map Group.timeless
  groups : ∀ t' g', (t', g') ≠ (t, g) → n.group? t' g' = m.group? t' g'

theorem Mach.Ran.refl (m : Mach) (t g : Nat) : Mach.Ran m m t g := ⟨rfl, rfl, rfl, rfl, rfl, fun _ _ _ => rfl⟩

theorem Mach.Ran.trans {a b c : Mach} {t g : Nat} (h : Mach.Ran a b t g) (k : Mach.Ran b c t g) : Mach.Ran a c t g :=
  ⟨k.beyond.trans h.beyond, k.regs.trans h.regs, k.lats.trans h.lats, k.outst.trans h.outst, k.group.trans h.group,
    fun t' g' n => (k.groups t' g' n).trans (h.groups t' g' n)⟩

theorem Mach.ran_of_records {m n : Mach} {t g : Nat} (h : n.beyond = m.beyond) (hr : n.regs = m.regs) (hl : n.lats = m.lats) (ho : n.outst = m.outst)
    (hg : n.groups = m.groups) : Mach.Ran m n t g := ⟨h, hr, hl, ho, by simp [Mach.group?, hg], fun _ _ _ => by simp [Mach.group?, hg]⟩

theorem Mach.tick_ran (m : Mach) (n t g : Nat) : Mach.Ran m (m.tick n) t g := Mach.ran_of_records rfl rfl rfl rfl rfl
theorem Mach.count_ran (m : Mach) (d s : Nat) (p : Option Nat) (n t g : Nat) : Mach.Ran m (m.count d s p n) t g := Mach.ran_of_records rfl rfl rfl rfl rfl
theorem Mach.setPort_ran (m : Mach) (po : Port) (t g : Nat) : Mach.Ran m (m.setPort po) t g := Mach.ran_of_records rfl rfl rfl rfl rfl
theorem Mach.updFibre_ran (m : Mach) (r : FRef) (f : Fibre → Fibre) (t g : Nat) : Mach.Ran m (m.updFibre r f) t g := Mach.ran_of_records rfl rfl rfl rfl rfl

theorem Mach.readyFrom_ran (m : Mach) (t g n : Nat) : Mach.Ran m (m.updGroup t g (fun x => { x with ready := n })) t g := by
  refine ⟨rfl, rfl, rfl, rfl, ?_, fun t' g' h => Mach.group?_updGroup_other (fun _ => ⟨rfl, rfl⟩) h⟩
  rw [Mach.group?_updGroup (f := fun x => { x with ready := n }) (fun _ => ⟨rfl, rfl⟩), Option.map_map]
  rfl

theorem Mach.bumpPort_ran (m : Mach) (r : FRef) : Mach.Ran m (m.bumpPort r) r.t r.g ∧ (m.bumpPort r).fibres = m.fibres := by
  unfold Mach.bumpPort
  dsimp only
  split
  · split
    · exact ⟨(Mach.setPort_ran ..).trans (Mach.count_ran ..), rfl⟩
    · exact ⟨.refl .., rfl⟩
  · exact ⟨.refl .., rfl⟩

theorem Mach.leavePort_ran (m : Mach) (r : FRef) (k : Nat) : Mach.Ran m (m.leavePort r k) r.t r.g ∧ (m.leavePort r k).fibres = m.fibres := by
  unfold Mach.leavePort
  dsimp only
  split
  · split
    · exact ⟨((Mach.setPort_ran ..).trans (Mach.readyFrom_ran ..)).trans (Mach.count_ran ..), rfl⟩
    · exact ⟨.refl .., rfl⟩
  · exact ⟨.refl .., rfl⟩

/-! ### A position done -/

/-- What `advance` does: the fibre moves, and what Ran allows. -/
theorem Mach.advance_spec {m : Mach} {r : FRef} {f : Fibre} (h : m.fibre? r = some f) (pc : DWord) (ends : Bool) :
    (m.advance r pc ends).fibre? r = some (f.moved pc ends) ∧ (∀ r', r' ≠ r → (m.advance r pc ends).fibre? r' = m.fibre? r') ∧
      Mach.Ran m (m.advance r pc ends) r.t r.g := by
  have key : ∀ (g : Fibre → Fibre), (∀ x, (g x).ref = x.ref) → ∀ k : Mach, k.fibres = (m.updFibre r g).fibres →
      k.fibre? r = some (g f) ∧ ∀ r', r' ≠ r → k.fibre? r' = m.fibre? r' := by
    intro g hg k hk
    have h1 := Mach.fibre?_updFibre (m := m) (r := r) hg
    rw [h] at h1
    exact ⟨by simpa [Mach.fibre?, hk] using h1, fun r' hr => by simpa [Mach.fibre?, hk] using Mach.fibre?_updFibre_other (m := m) hg hr⟩
  unfold Mach.advance
  simp only [h]
  by_cases he : (ends || f.pos == 23) = true
  · rw [if_pos he]
    have hb := Mach.bumpPort_ran (m.updFibre r (fun f => { f with pc := pc, run := false, pos := 0, wait := none, lpad := none, xl := [], fe := none, drained := false, asked := false })) r
    have hl := Mach.leavePort_ran ((m.updFibre r (fun f => { f with pc := pc, run := false, pos := 0, wait := none, lpad := none, xl := [], fe := none, drained := false, asked := false })).bumpPort r) r 0
    have hk := key (fun f => { f with pc := pc, run := false, pos := 0, wait := none, lpad := none, xl := [], fe := none, drained := false, asked := false }) (fun _ => rfl) _
      (hl.2.trans hb.2)
    exact ⟨by simpa [Fibre.moved, he] using hk.1, hk.2, ((Mach.updFibre_ran ..).trans hb.1).trans hl.1⟩
  · rw [if_neg he]
    have hb := Mach.bumpPort_ran (m.updFibre r (fun f => { f with pc := pc, pos := f.pos + 1, wait := none, lpad := none, xl := [], fe := none, drained := false, asked := false })) r
    have hk := key (fun f => { f with pc := pc, pos := f.pos + 1, wait := none, lpad := none, xl := [], fe := none, drained := false, asked := false }) (fun _ => rfl) _ hb.2
    exact ⟨by simpa [Fibre.moved, he] using hk.1, hk.2, (Mach.updFibre_ran ..).trans hb.1⟩

/-! ### Issuing -/

/-- What issuing does where nothing stands before the instruction's own entry. -/
theorem issue_pass {s : State} {i : Instr} {c : Ctx} (h : Issues s i c) (body : Conf → Mach → Ctx → Res) :
    issue s i body = .next { s with m := Mach.settle s.cfg c i (body s.cfg s.m c) } := by
  simp [issue, Mach.issue, h.1, h.2]

/-- A machine that differs from another in registers written, and in its group's record. -/
structure Mach.Put (m n : Mach) (c : Ctx) (g : Group) (ws : List (Nat × Nat × Word)) : Prop where
  beyond : n.beyond = m.beyond
  regs : n.regs = smSetAll 0 m.regs (ws.map (fun w => (regKey c.f.ref.t c.f.ref.g (c.f.base + w.1) w.2.1, w.2.2)))
  lats : n.lats = m.lats
  outst : n.outst.map (fun o => (o.id, o.ref, o.regs)) = m.outst.map (fun o => (o.id, o.ref, o.regs))
  fibres : n.fibres = m.fibres
  group : (n.group? c.f.ref.t c.f.ref.g).map Group.timeless = some g.timeless
  groups : ∀ t' g', (t', g') ≠ (c.f.ref.t, c.f.ref.g) → n.group? t' g' = m.group? t' g'

theorem Mach.put_self {m : Mach} {c : Ctx} {g : Group} (h : m.group? c.f.ref.t c.f.ref.g = some g) : Mach.Put m m c g [] :=
  ⟨rfl, rfl, rfl, rfl, rfl, by rw [h]; rfl, fun _ _ _ => rfl⟩

theorem Mach.put_none {m : Mach} {c : Ctx} (h : m.issuer = some c) : Mach.Put m m c c.g [] := Mach.put_self (Mach.issuer_group h)

theorem Mach.Put.wrRegs {m n : Mach} {c : Ctx} {g : Group} (h : Mach.Put m n c g []) (ws : List (Nat × Nat × Word)) :
    Mach.Put m (n.wrRegs c ws) c g ws := by
  refine ⟨h.beyond, ?_, h.lats, h.outst, h.fibres, h.group, h.groups⟩
  have := h.regs
  simp only [List.map_nil, smSetAll, List.foldl_nil] at this
  simp only [Mach.wrRegs, smSetAll, List.foldl_map, this]

theorem Mach.Put.updGroup {m n : Mach} {c : Ctx} {g : Group} {ws : List (Nat × Nat × Word)} (h : Mach.Put m n c g ws) (f : Group → Group)
    (hf : ∀ x, (f x).t = x.t ∧ (f x).g = x.g) (ht : ∀ x y : Group, x.timeless = y.timeless → (f x).timeless = (f y).timeless) :
    Mach.Put m (n.updGroup c.f.ref.t c.f.ref.g f) c (f g) ws := by
  refine ⟨h.beyond, h.regs, h.lats, h.outst, h.fibres, ?_, fun t' g' k => (Mach.group?_updGroup_other hf k).trans (h.groups t' g' k)⟩
  rw [Mach.group?_updGroup hf]
  have := h.group
  cases hx : n.group? c.f.ref.t c.f.ref.g with
  | none => rw [hx] at this; exact absurd this (by simp)
  | some x =>
    rw [hx] at this
    simp only [Option.map_some, Option.some.injEq] at this ⊢
    exact ht _ _ this

/-- The latch values of lanes listed in a predicate's order. -/
theorem latch_values (p : Word) (t g k : Nat) (lat : Nat → Word) (l : SMap Word) :
    (lanesOf p).foldl (fun l i => smSet 0 l (latKey t g k i)
      (((((lanesOf p).map (fun j => (j, lat j))).find? (fun v => v.1 == i)).map Prod.snd).getD 0)) l =
      smSetAll 0 l ((lanesOf p).map (fun j => (latKey t g k j, lat j))) := by
  have hv : ∀ i ∈ lanesOf p, ((((lanesOf p).map (fun j => (j, lat j))).find? (fun v => v.1 == i)).map Prod.snd).getD 0 = lat i := by
    intro i hi
    have : ((lanesOf p).map (fun j => (j, lat j))).find? (fun v => v.1 == i) = some (i, lat i) := by
      generalize lanesOf p = ls at hi
      induction ls with
      | nil => simp at hi
      | cons x xs ih =>
        by_cases hx : x = i
        · simp [hx]
        · rcases List.mem_cons.mp hi with h | h
          · exact absurd h.symm hx
          · simp [hx]; simpa using ih h
    simp [this]
  have hw : ∀ (v : Nat → Word) (ls : List Nat) (l : SMap Word), (∀ i ∈ ls, v i = lat i) →
      ls.foldl (fun l i => smSet 0 l (latKey t g k i) (v i)) l = smSetAll 0 l (ls.map (fun j => (latKey t g k j, lat j))) := by
    intro v ls
    induction ls with
    | nil => intro l _; rfl
    | cons x xs ih =>
      intro l hx
      simp only [List.foldl_cons, List.map_cons, smSetAll]
      rw [hx x (List.mem_cons_self ..)]
      exact ih _ (fun i hi => hx i (List.mem_cons_of_mem _ hi))
  exact hw _ _ _ hv

/-- An entry that answers `done` has issued, and its latch holds its values. -/
theorem settle_done {s : State} {i : Instr} {c : Ctx} {b m : Mach} (hf : m.fibre? c.f.ref = some c.f) {g : Group} {ws : List (Nat × Nat × Word)}
    (hp : Mach.Put b m c g ws) (lat : Nat → Word) (go : Go) :
    Issued s ⟨s.cfg, Mach.settle s.cfg c i (.done m (c.lanes.map (fun j => (j, lat j))) go)⟩ c b (c.f.moved (go.pc c i) (go.ends i)) g ws ∧
      Latched ⟨s.cfg, Mach.settle s.cfg c i (.done m (c.lanes.map (fun j => (j, lat j))) go)⟩ c b lat := by
  have h0 : ((m.fibre? c.f.ref).map Fibre.pred).getD 0 = c.f.pred := by simp [hf]
  generalize hk : Mach.settle s.cfg c i (.done m (c.lanes.map (fun j => (j, lat j))) go) = k
  have ht : k = ((m.setLatch c.f.ref (c.f.pos % 8) c.f.pred (c.lanes.map (fun j => (j, lat j)))).tick (issueCost i)).advance
      c.f.ref (go.pc c i) (go.ends i) := by
    rw [← hk]
    have hd := congrArg (fun p => ((m.setLatch c.f.ref (c.f.pos % 8) p (c.lanes.map (fun j => (j, lat j)))).tick
      (issueCost i)).advance c.f.ref (go.pc c i) (go.ends i)) h0
    exact hd
  generalize hm : (m.setLatch c.f.ref (c.f.pos % 8) c.f.pred (c.lanes.map (fun j => (j, lat j)))).tick (issueCost i) = n at ht
  have hnf : n.fibres = m.fibres := by rw [← hm]; rfl
  have hfn : n.fibre? c.f.ref = some c.f := by rw [← hf]; simp [Mach.fibre?, hnf]
  have ha := Mach.advance_spec hfn (go.pc c i) (go.ends i)
  have hng : n.groups = m.groups := by rw [← hm]; rfl
  subst ht
  refine ⟨⟨rfl, ?_, ?_, ha.1, fun r hr => (ha.2.1 r hr).trans ?_, ?_, fun t' g' k => (ha.2.2.groups t' g' k).trans ?_⟩, ?_, ?_⟩
  · refine ha.2.2.beyond.trans (Eq.trans ?_ hp.beyond); rw [← hm]; rfl
  · refine ha.2.2.regs.trans (Eq.trans ?_ hp.regs); rw [← hm]; rfl
  · simp [Mach.fibre?, hnf, hp.fibres]
  · refine ha.2.2.group.trans (Eq.trans ?_ hp.group); simp [Mach.group?, hng]
  · rw [← hp.groups t' g' k]; simp [Mach.group?, hng]
  · refine ha.2.2.lats.trans ?_
    rw [← hm, ← hp.lats]
    exact latch_values c.f.pred c.f.ref.t c.f.ref.g (c.f.pos % 8) lat m.lats
  · have h1 : n.outst = m.outst.map (fun o =>
        if o.ref = c.f.ref ∧ o.latch.any (fun l => l.1 == c.f.pos % 8) then { o with latch := none } else o) := by rw [← hm]; rfl
    rw [← hp.outst]
    show (n.advance c.f.ref (go.pc c i) (go.ends i)).outst.map _ = _
    rw [ha.2.2.outst, h1, List.map_map]
    refine List.map_congr_left (fun o _ => ?_)
    simp only [Function.comp]
    split <;> rfl

/-- An entry that answers `late` has issued, and its result is outstanding. -/
theorem settle_late {s : State} {i : Instr} {c : Ctx} {b : Mach} (hf : b.fibre? c.f.ref = some c.f) {g : Group}
    (hg : b.group? c.f.ref.t c.f.ref.g = some g) (ws : List (Nat × Nat × Word)) (lat : List (Nat × Word)) (go : Go) :
    Issued s ⟨s.cfg, Mach.settle s.cfg c i (.late (b.addOutst c ws lat) go)⟩ c b (c.f.moved (go.pc c i) (go.ends i)) g [] ∧
      Begun ⟨s.cfg, Mach.settle s.cfg c i (.late (b.addOutst c ws lat) go)⟩ c b ws lat := by
  generalize hk : Mach.settle s.cfg c i (.late (b.addOutst c ws lat) go) = k
  have ht : k = ((b.addOutst c ws lat).tick (issueCost i)).advance c.f.ref (go.pc c i) (go.ends i) := hk.symm
  generalize hm : (b.addOutst c ws lat).tick (issueCost i) = n at ht
  have hnf : n.fibres = b.fibres := by rw [← hm]; rfl
  have hfn : n.fibre? c.f.ref = some c.f := by rw [← hf]; simp [Mach.fibre?, hnf]
  have ha := Mach.advance_spec hfn (go.pc c i) (go.ends i)
  have hng : n.groups = b.groups := by rw [← hm]; rfl
  have ho : (n.advance c.f.ref (go.pc c i) (go.ends i)).outst = b.outst.map (fun o =>
      if o.ref = c.f.ref ∧ o.latch.any (fun l => l.1 == c.f.pos % 8) then { o with latch := none } else o) ++
        [⟨b.fresh, c.f.ref, ws.map (fun w => (c.f.base + w.1, w.2.1, w.2.2)), some (c.f.pos % 8, lat)⟩] := by
    rw [ha.2.2.outst, ← hm]; rfl
  subst ht
  refine ⟨⟨rfl, ?_, ?_, ha.1, fun r hr => (ha.2.1 r hr).trans ?_, ?_, fun t' g' k => (ha.2.2.groups t' g' k).trans ?_⟩, ?_, ?_, ?_⟩
  · refine ha.2.2.beyond.trans ?_; rw [← hm]; rfl
  · refine ha.2.2.regs.trans ?_; rw [← hm]; rfl
  · simp [Mach.fibre?, hnf]
  · refine ha.2.2.group.trans ?_; simp only [Mach.group?, hng]; rw [← Option.map_some, ← hg]; rfl
  · simp [Mach.group?, hng]
  · refine ha.2.2.lats.trans ?_; rw [← hm]; rfl
  · show (n.advance c.f.ref (go.pc c i) (go.ends i)).outst.map _ = _
    rw [ho, List.map_append, List.map_map]
    congr 1
    refine List.map_congr_left (fun o _ => ?_)
    simp only [Function.comp]
    split <;> rfl
  · exact ⟨_, by rw [ho]; exact List.mem_append_right _ (List.mem_singleton.mpr rfl), rfl, rfl⟩

/-! ### The shapes of the lane instructions -/

theorem flagged_none (c : Ctx) (g : Group) : c.flagged g noFlags = g := by
  have : ∀ (l : List Nat) (w : Word), l.foldl (fun w j => w ||| noFlags j) w = w := by
    intro l; induction l with
    | nil => intro w; rfl
    | cons x xs ih => intro w; simp only [List.foldl_cons]; rw [ih]; simp [noFlags]
  simp [Ctx.flagged, this]

theorem allFlags_or (ls : List Nat) (fl : Nat → Word) (w : Word) :
    w ||| allFlags (ls.map (fun j => (j, fl j))) = ls.foldl (fun w j => w ||| fl j) w := by
  unfold allFlags
  have : ∀ (ls : List Nat) (v : Word), w ||| (ls.map (fun j => (j, fl j))).foldl (fun w r => w ||| r.2) v = ls.foldl (fun w j => w ||| fl j) (w ||| v) := by
    intro ls; induction ls with
    | nil => intro v; rfl
    | cons x xs ih => intro v; simp only [List.map_cons, List.foldl_cons]; rw [ih, BitVec.or_assoc]
  rw [this]; simp

/-- One word per lane, no flags. -/
theorem issue_laneWord {s : State} {i : Instr} {c : Ctx} (h : Issues s i c) (he : endsRun i = false) (d : Dst) (f : Nat → Word) :
    WritesWord s { s with m := Mach.settle s.cfg c i (laneWord s.m c d f) } c i d f noFlags := by
  have := settle_done (s := s) (i := i) (m := s.m.wrRegs c (dstWrites d (c.lanes.map (fun j => (j, f j))))) (Mach.issuer_fibre h.1)
    ((Mach.put_none h.1).wrRegs _) f .seq
  simp only [Go.pc, Go.ends, he] at this
  refine ⟨?_, this.2⟩
  rw [flagged_none]; exact this.1

/-- One word with flags per lane. -/
theorem issue_laneFlags {s : State} {i : Instr} {c : Ctx} (h : Issues s i c) (he : endsRun i = false) (d : Dst) (f : Nat → Word × Word) :
    WritesWord s { s with m := Mach.settle s.cfg c i (laneFlags s.m c d f) } c i d (fun j => (f j).1) (fun j => (f j).2) := by
  have hp := ((Mach.put_none h.1).wrRegs (dstWrites d (c.lanes.map (fun j => (j, (f j).1))))).updGroup
    (fun g => { g with fpstat := g.fpstat ||| allFlags (c.lanes.map (fun j => (j, (f j).2))) }) (fun _ => ⟨rfl, rfl⟩)
    (fun x y e => by simp only [Group.timeless, Group.mk.injEq] at e ⊢; simp [e])
  have := settle_done (s := s) (i := i) (by rw [← Mach.issuer_fibre h.1]; simp [Mach.fibre?, hp.fibres]) hp (fun j => (f j).1) .seq
  simp only [Go.pc, Go.ends, he] at this
  have hb : laneFlags s.m c d f = .done ((s.m.wrRegs c (dstWrites d (c.lanes.map (fun j => (j, (f j).1))))).updGroup c.f.ref.t c.f.ref.g
      (fun g => { g with fpstat := g.fpstat ||| allFlags (c.lanes.map (fun j => (j, (f j).2))) })) (c.lanes.map (fun j => (j, (f j).1))) .seq := by
    simp [laneFlags, Mach.orFlags, List.map_map, Function.comp_def, allFlags, List.foldl_map]
  rw [hb]
  unfold WritesWord Ctx.flagged Ctx.next Ctx.after
  simp only [← allFlags_or]
  exact this

/-- 64 bits per lane. -/
theorem issue_lanePair {s : State} {i : Instr} {c : Ctx} (h : Issues s i c) (he : endsRun i = false) (d : Dst) (f : Nat → DWord) :
    WritesPair s { s with m := Mach.settle s.cfg c i (lanePair s.m c d f) } c i d f := by
  have := settle_done (s := s) (i := i) (m := s.m.wrRegs c (pairWrites d (c.lanes.map (fun j => (j, f j))))) (Mach.issuer_fibre h.1)
    ((Mach.put_none h.1).wrRegs _) (fun j => lo32 (f j)) .seq
  simp only [Go.pc, Go.ends, he] at this
  have hb : lanePair s.m c d f = .done (s.m.wrRegs c (pairWrites d (c.lanes.map (fun j => (j, f j))))) (c.lanes.map (fun j => (j, lo32 (f j)))) .seq := by
    simp [lanePair, List.map_map, Function.comp_def]
  rw [hb]
  exact this

/-- c's group after writing a condition register. -/
theorem put_wrDstCond {m : Mach} {c : Ctx} (h : m.issuer = some c) (d : Dst) (f : Nat → Bool) :
    Mach.Put m (m.wrDstCond c d (c.lanes.map (fun j => (j, f j)))) c (c.withCond d f) [] := by
  cases d with
  | nw => exact Mach.put_none h
  | v k =>
    have := (Mach.put_none h).updGroup (fun g => { g with conds := modAt g.conds k (fun w => (c.lanes.map (fun j => (j, f j))).foldl (fun w p =>
      if p.2 then w ||| BitVec.ofNat 32 (2 ^ p.1) else w &&& ~~~ BitVec.ofNat 32 (2 ^ p.1)) w) }) (fun _ => ⟨rfl, rfl⟩)
      (fun x y e => by simp only [Group.timeless, Group.mk.injEq] at e ⊢; simp [e])
    simpa [Mach.wrDstCond, Mach.wrCond, Ctx.withCond, List.foldl_map] using this

/-- A condition bit with flags per lane. -/
theorem issue_condFlags {s : State} {i : Instr} {c : Ctx} (h : Issues s i c) (he : endsRun i = false) (d : Dst) (f : Nat → Bool) (fl : Nat → Word) :
    WritesCond s { s with m := Mach.settle s.cfg c i (.done ((s.m.wrDstCond c d (c.lanes.map (fun j => (j, f j)))).orFlags c
      (allFlags (c.lanes.map (fun j => (j, fl j))))) (c.lanes.map (fun j => (j, bitWord (f j)))) .seq) } c i d f fl := by
  have hp := (put_wrDstCond h.1 d f).updGroup (fun g => { g with fpstat := g.fpstat ||| allFlags (c.lanes.map (fun j => (j, fl j))) })
    (fun _ => ⟨rfl, rfl⟩) (fun x y e => by simp only [Group.timeless, Group.mk.injEq] at e ⊢; simp [e])
  have := settle_done (s := s) (i := i) (by rw [← Mach.issuer_fibre h.1]; simp [Mach.fibre?, hp.fibres]) hp (fun j => bitWord (f j)) .seq
  simp only [Go.pc, Go.ends, he] at this
  unfold WritesCond Ctx.flagged Ctx.next Ctx.after
  simp only [← allFlags_or]
  exact this

/-- A condition bit per lane. -/
theorem issue_laneCond {s : State} {i : Instr} {c : Ctx} (h : Issues s i c) (he : endsRun i = false) (d : Dst) (f : Nat → Bool) :
    WritesCond s { s with m := Mach.settle s.cfg c i (laneCond s.m c d f) } c i d f noFlags := by
  have hp := put_wrDstCond h.1 d f
  have := settle_done (s := s) (i := i) (by rw [← Mach.issuer_fibre h.1]; simp [Mach.fibre?, hp.fibres]) hp (fun j => bitWord (f j)) .seq
  simp only [Go.pc, Go.ends, he] at this
  have hb : laneCond s.m c d f = .done (s.m.wrDstCond c d (c.lanes.map (fun j => (j, f j)))) (c.lanes.map (fun j => (j, bitWord (f j)))) .seq := by
    simp [laneCond, List.map_map, Function.comp_def, bitWord]
  rw [hb]
  unfold WritesCond
  rw [flagged_none]
  exact this

end Sys2Proof.Machine
end

