-- ==== Sys2Proof/Laws/Order.lean ====
section
/-!
SUPPORT. What the operations of the ordering machine (R65–R80) can do: each touches the byte stores and what is known of them, the
buffers, the copies, the marks, the package cache and its counts, the accesses on their way to other devices and what their answers bring, and the write
counter, and nothing else; and it keeps the stores in canonical form.
-/
set_option Elab.async false
namespace Sys2Proof.Machine

/-- The ordering machine changes of an operation only whether its count has been met and how it ends, of a group the traps pending, of a team its reports. -/
def Op.plain (o : Op) : Op := { o with met := false, fin := none, due := ⟨[], [], none, none, none⟩ }
/-- A group without the traps pending. -/
def Group.plain (g : Group) : Group := { g with pend := [] }
/-- A team without its reports. -/
def Team.plain (t : Team) : Team := { t with reports := [] }

/-- The machine without what an ordering operation may change. -/
def Mach.outside (m : Mach) : Mach :=
  { m with
    mem := [], tags := [], scr := [], gran := [], poison := [], bufs := [], copies := [], blocks := [], marks := [], hist := [], pcache := []
    fabPend := [], net := [], fresh := 0, dev := { m.dev with ctrs := [] }
    ops := m.ops.map Op.plain, groups := m.groups.map Group.plain, teams := m.teams.map Team.plain }

/-- n comes from m by operations of the ordering machine. -/
def Mach.Near (m n : Mach) : Prop := n.outside = m.outside ∧ (m.canonical = true → n.canonical = true)

theorem Mach.Near.refl (m : Mach) : m.Near m := ⟨rfl, id⟩
theorem Mach.Near.trans {a b c : Mach} (h : a.Near b) (k : b.Near c) : a.Near c := ⟨k.1.trans h.1, fun w => k.2 (h.2 w)⟩

/-- A change that leaves the byte stores alone. -/
theorem Mach.near_of_stores {m n : Mach} (h : n.outside = m.outside) (hm : n.mem = m.mem) (ht : n.tags = m.tags) (hs : n.scr = m.scr)
    (hg : n.gran = m.gran) : m.Near n := ⟨h, fun w => by simpa [canonical, hm, ht, hs, hg] using w⟩

theorem Mach.Near.foldl {α : Type} (f : Mach → α → Mach) (h : ∀ m x, Mach.Near m (f m x)) : ∀ (l : List α) (m : Mach), m.Near (l.foldl f m)
  | [], m => Near.refl m
  | x :: l, m => (h m x).trans (Near.foldl f h l (f m x))

theorem canonical_iff (m : Mach) : m.canonical = true ↔
    smWf 0 m.mem = true ∧ smWf .open_ m.tags = true ∧ smWf 0 m.scr = true ∧ smWf (true, 0xFFFF) m.gran = true := by
  simp [Mach.canonical, Memory.wf, and_assoc]

/-! ### Homes -/

theorem Mach.writeFlat_near (m : Mach) (f : Nat) (bs : List Byte) (tag : Option KTag) : m.Near (m.writeFlat f bs tag) := by
  refine ⟨rfl, fun w => ?_⟩
  rw [canonical_iff] at w ⊢
  refine ⟨smSetRun_wf _ _ ?_, smSet_wf _ _ w.2.1, w.2.2⟩
  split
  · exact w.1
  · exact smSetRun_wf _ _ w.1

theorem Mach.writeFlats_go_near : ∀ (n : Nat) (m : Mach) (f : Nat) (bs : List Byte) (tag : Option KTag), m.Near (writeFlats.go n m f bs tag)
  | 0, m, _, _, _ => Near.refl m
  | n + 1, m, f, bs, tag => by
    unfold writeFlats.go
    split
    · exact Near.refl m
    · exact (writeFlat_near m _ _ _).trans (writeFlats_go_near n _ _ _ _)

theorem Mach.writeFlats_near (m : Mach) (f : Nat) (bs : List Byte) (tag : Option KTag) : m.Near (m.writeFlats f bs tag) := by
  unfold Mach.writeFlats
  split
  · exact writeFlat_near m f bs tag
  · exact (writeFlat_near m _ _ _).trans (writeFlats_go_near _ _ _ _ _)

theorem Mach.setGranule_near (m : Mach) (t gr : Nat) (x : Bool × BitVec 16) : m.Near (m.setGranule t gr x) := by
  refine ⟨rfl, fun w => ?_⟩
  rw [canonical_iff] at w ⊢
  exact ⟨w.1, w.2.1, w.2.2.1, smSet_wf _ _ w.2.2.2⟩

theorem Mach.fillGranules_near (m : Mach) (t addr n : Nat) (k : WKind) : m.Near (m.fillGranules t addr n k) := by
  cases k
  · exact Near.refl m
  · exact Near.foldl _ (fun m gr => setGranule_near m _ _ _) _ m
  · exact Near.foldl _ (fun m gr => setGranule_near m _ _ _) _ m

theorem Mach.clearPoison_near (m : Mach) (sp : Space) (addr n : Nat) : m.Near (m.clearPoison sp addr n) := near_of_stores rfl rfl rfl rfl rfl

theorem Mach.scr_near (m : Mach) (k : Nat) (bs : List Byte) : m.Near { m with scr := smSetRun 0 m.scr k bs } := by
  refine ⟨rfl, fun w => ?_⟩
  rw [canonical_iff] at w ⊢
  exact ⟨w.1, w.2.1, smSetRun_wf _ _ w.2.2.1, w.2.2.2⟩

theorem Mach.fillLine_near (m : Mach) (part line pol : Nat) (key : Key) : m.Near (m.fillLine part line pol key) := by
  unfold Mach.fillLine
  dsimp only
  split <;> exact near_of_stores rfl rfl rfl rfl rfl

theorem Mach.touchLine_near (m : Mach) (part line pol : Nat) (key : Key) : m.Near (m.touchLine part line pol key) := by
  unfold Mach.touchLine
  split
  · split <;> exact near_of_stores rfl rfl rfl rfl rfl
  · exact .trans (b := { m with pcache := _ }) (near_of_stores rfl rfl rfl rfl rfl) (fillLine_near _ _ _ _ _)

theorem Mach.touch_near (m : Mach) (sp : Space) (addr n : Nat) (tag : Option KTag) : m.Near (m.touch sp addr n tag) := by
  unfold Mach.touch
  split
  · split
    · exact Near.foldl _ (fun m _ => touchLine_near m _ _ _ _) _ m
    · exact Near.refl m
  · exact Near.refl m

theorem Mach.mark_near (m : Mach) (t : Nat) (w : Write) : m.Near (m.mark t w) := near_of_stores rfl rfl rfl rfl rfl
theorem Mach.record_near (m : Mach) (w : Write) : m.Near (m.record w) := near_of_stores rfl rfl rfl rfl rfl

/-- Operations that change only what an ordering operation may change of them. -/
theorem Mach.ops_near (m : Mach) (f : Op → Op) (h : ∀ o, (f o).plain = o.plain) : m.Near { m with ops := m.ops.map f } := by
  refine ⟨?_, id⟩
  simp only [Mach.outside, List.map_map]
  congr 1
  exact List.map_congr_left (fun o _ => h o)

theorem Mach.armsMet_near (m : Mach) (sp : Space) (addr n : Nat) : m.Near (m.armsMet sp addr n) := by
  refine ops_near m _ (fun o => ?_)
  split
  · split <;> rfl
  · rfl

theorem Mach.outdate_near (m : Mach) (sp : Space) (addr n : Nat) : m.Near (m.outdate sp addr n) := near_of_stores rfl rfl rfl rfl rfl

theorem Mach.deliver_near (m : Mach) (w : Write) : m.Near (m.deliver w) := by
  unfold Mach.deliver
  split
  · rename_i t _
    have h := ((scr_near m (scrKey t w.addr) w.bytes).trans (fillGranules_near _ t w.addr w.bytes.length w.kind)).trans
      (clearPoison_near _ w.sp w.addr w.bytes.length)
    dsimp only
    split
    · exact ((h.trans (mark_near _ _ _)).trans (record_near _ _)).trans (armsMet_near _ _ _ _)
    · exact (h.trans (record_near _ _)).trans (armsMet_near _ _ _ _)
  · exact (record_near m w).trans (outdate_near _ _ _ _)
  · exact ((((writeFlats_near m _ _ _).trans (clearPoison_near _ _ _ _)).trans (touch_near _ _ _ _ _)).trans (record_near _ _)).trans (armsMet_near _ _ _ _)

/-! ### Copies and buffers -/

theorem Mach.uncopy_near (m : Mach) (p : Point) (sp : Space) (addr n : Nat) : m.Near (m.uncopy p sp addr n) := near_of_stores rfl rfl rfl rfl rfl
theorem Mach.dropCopies_near (m : Mach) (ps : List Point) : m.Near (m.dropCopies ps) := near_of_stores rfl rfl rfl rfl rfl
theorem Mach.dropRange_near (m : Mach) (ps : List Point) (sp : Space) (addr n : Nat) : m.Near (m.dropRange ps sp addr n) :=
  near_of_stores rfl rfl rfl rfl rfl

theorem Mach.bufs_near (m : Mach) (b : List BufEnt) : m.Near { m with bufs := b } := near_of_stores rfl rfl rfl rfl rfl
theorem Mach.fresh_near (m : Mach) (k : Nat) : m.Near { m with fresh := k } := near_of_stores rfl rfl rfl rfl rfl

theorem Mach.uncopies_near (m : Mach) (ps : List Point) (sp : Space) (addr n : Nat) : m.Near (ps.foldl (fun m p => m.uncopy p sp addr n) m) :=
  Near.foldl _ (fun m p => uncopy_near m p sp addr n) ps m

theorem Mach.noteAnswer_near (m : Mach) (xid num : Nat) (res : FabRes) : m.Near (m.noteAnswer xid num res) := near_of_stores rfl rfl rfl rfl rfl
theorem Mach.fabPend_near (m : Mach) (l : List FabPend) : m.Near { m with fabPend := l } := near_of_stores rfl rfl rfl rfl rfl

theorem Mach.updOp_near (m : Mach) (t : Nat) (k : EngCtx) (n : Nat) (f : Op → Op) (h : ∀ o, (f o).plain = o.plain) : m.Near (m.updOp t k n f) :=
  ops_near m _ (fun o => by split; exacts [h o, rfl])

theorem Mach.pend_near (m : Mach) (t g : Nat) (f : Group → Group) (h : ∀ x, (f x).plain = x.plain) : m.Near (m.updGroup t g f) := by
  refine ⟨?_, id⟩
  simp only [Mach.outside, Mach.updGroup, List.map_map]
  congr 1
  exact List.map_congr_left (fun o _ => by dsimp only [Function.comp]; split; exacts [h o, rfl])

theorem Mach.reports_near (m : Mach) (t : Nat) (f : Team → Team) (h : ∀ x, (f x).plain = x.plain) : m.Near (m.updTeam t f) := by
  refine ⟨?_, id⟩
  simp only [Mach.outside, Mach.updTeam, List.map_map]
  congr 1
  exact List.map_congr_left (fun o _ => by dsimp only [Function.comp]; split; exacts [h o, rfl])

theorem Mach.opRefused_near (m : Mach) (t : Nat) (k : EngCtx) (n sub : Nat) (addr : DWord) : m.Near (m.opRefused t k n sub addr) := by
  unfold Mach.opRefused
  dsimp only
  split
  · exact ops_near m _ (fun o => by split <;> rfl)
  · split
    · exact Near.refl m
    · exact (deliver_near m _).trans (reports_near _ _ _ (fun _ => rfl))

theorem Mach.storesAnswered_near (m : Mach) : m.Near m.storesAnswered := by
  unfold Mach.storesAnswered
  dsimp only
  refine Near.trans (Near.foldl _ (fun m p => ?_) _ m) (fabPend_near _ _)
  split
  · exact Near.refl m
  · exact updOp_near m _ _ _ _ (fun _ => rfl)
  · exact opRefused_near m _ _ _ _ _
  · exact pend_near m _ _ _ (fun _ => rfl)

theorem Mach.sendAway_near (m : Mach) (e : BufEnt) : m.Near (m.sendAway e) := by
  unfold Mach.sendAway
  dsimp only
  split
  · exact Near.refl m
  · split
    · exact bufs_near m _
    · split
      · exact ((bufs_near m _).trans (noteAnswer_near _ _ _ _)).trans (storesAnswered_near _)
      · exact near_of_stores rfl rfl rfl rfl rfl
  · exact Near.refl m

theorem Mach.sendWaiting_near (m : Mach) : m.Near m.sendWaiting := Near.foldl _ sendAway_near _ m

theorem Mach.moveUp_near (m : Mach) (e : BufEnt) : m.Near (m.moveUp e) := by
  have h : m.Near (({ m with bufs := m.bufs.erase e } : Mach).uncopy e.pt e.w.sp e.w.addr e.w.bytes.length) :=
    (bufs_near m _).trans (uncopy_near _ _ _ _ _)
  simp only [Mach.moveUp]
  split
  · exact sendAway_near m e
  · exact h.trans (deliver_near _ _)
  · exact h.trans (bufs_near _ _)

theorem Mach.answered_near (m : Mach) (xid num : Nat) (res : FabRes) : m.Near (m.answered xid num res) := by
  unfold Mach.answered
  split
  · exact Near.refl m
  · dsimp only
    refine Near.trans ?_ (((noteAnswer_near _ xid num res).trans (storesAnswered_near _)).trans (sendWaiting_near _))
    split
    · exact ((bufs_near m _).trans (uncopy_near _ _ _ _ _)).trans (deliver_near _ _)
    · exact bufs_near m _

theorem Mach.push_near (m : Mach) (ps : List Point) (sel : Nat → Bool) : m.Near (m.push ps sel) :=
  Near.foldl _ (fun m _ => Near.foldl _ moveUp_near _ m) ps m

theorem Mach.propagate_near (m : Mach) (wid : Nat) : m.Near (m.propagate wid) := by
  unfold Mach.propagate
  split
  · exact Near.refl m
  · split
    · exact Near.refl m
    · exact moveUp_near m _

theorem Mach.drain_near (m : Mach) (leaf : Point) (s : Nat) : m.Near (m.drain leaf s) := push_near m _ _
theorem Mach.drainRange_near (m : Mach) (leaf : Point) (s : Nat) (sp : Space) (addr n : Nat) : m.Near (m.drainRange leaf s sp addr n) := push_near m _ _
theorem Mach.invalidate_near (m : Mach) (leaf : Point) (s : Nat) : m.Near (m.invalidate leaf s) := dropCopies_near m _
theorem Mach.fenceAt_near (m : Mach) (leaf : Point) (s : Nat) : m.Near (m.fenceAt leaf s) := (drain_near m leaf s).trans (invalidate_near _ leaf s)

/-! ### Reads -/

theorem Mach.install_near (m : Mach) (new : List Copy) : m.Near (m.install new) := near_of_stores rfl rfl rfl rfl rfl

theorem Mach.readOver_near (m : Mach) (ps : List Point) (sp : Space) (addr n : Nat) (tag : Option KTag) (install : Bool) :
    m.Near (m.readOver ps sp addr n tag install).2 := by
  have h (b : Bool) (new : List Copy) : m.Near (if b then m.install new else m) := by
    split
    · exact install_near m new
    · exact Near.refl m
  simp only [Mach.readOver]
  split
  · exact (h _ _).trans (touch_near _ _ _ _ _)
  · exact h _ _

theorem Mach.readPlain_near (m : Mach) (leaf : Point) (sp : Space) (addr n : Nat) (tag : Option KTag) : m.Near (m.readPlain leaf sp addr n tag).2 :=
  readOver_near m _ sp addr n tag true
theorem Mach.readAcq_near (m : Mach) (leaf : Point) (s : Nat) (sp : Space) (addr n : Nat) (tag : Option KTag) (install : Bool) :
    m.Near (m.readAcq leaf s sp addr n tag install).2 := (push_near m _ _).trans (readOver_near _ _ sp addr n tag install)
theorem Mach.readHome_near (m : Mach) (leaf : Point) (sp : Space) (addr n : Nat) (tag : Option KTag) : m.Near (m.readHome leaf sp addr n tag).2 :=
  ((push_near m _ _).trans (uncopies_near _ _ _ _ _)).trans (touch_near _ _ _ _ _)
theorem Mach.promote_near (m : Mach) (sp : Space) (addr n : Nat) : m.Near (m.promote sp addr n) :=
  Near.foldl _ (fun m _ => push_near m _ _) _ m

/-! ### Writes and atomics -/

theorem Mach.place_near (m : Mach) (p : Point) (w : Write) : m.Near (m.place p w) := by
  unfold Mach.place
  split
  · split
    · exact (bufs_near m _).trans (sendAway_near _ _)
    · exact deliver_near m w
  · exact bufs_near m _

theorem Mach.writePlain_near (m : Mach) (leaf : Point) (w : Write) : m.Near (m.writePlain leaf w) :=
  ((fresh_near m _).trans (uncopy_near _ _ _ _ _)).trans (place_near _ _ _)

theorem Mach.markCore_near (m : Mach) (leaf : Point) (s : Nat) (w : Write) : m.Near (m.markCore leaf s w) := by
  unfold Mach.markCore
  split
  · split
    · exact near_of_stores rfl rfl rfl rfl rfl
    · exact Near.refl m
  · exact Near.refl m

theorem Mach.writeRel_near (m : Mach) (leaf : Point) (s : Nat) (w : Write) : m.Near (m.writeRel leaf s w) :=
  (((uncopies_near m _ _ _ _).trans (fresh_near _ _)).trans (place_near _ _ _)).trans (markCore_near _ _ _ _)

theorem Mach.atomic_near (m : Mach) (leaf : Point) (sp : Space) (addr n : Nat) (tag : Option KTag) (sync : Bool)
    (f : List Byte → Option (List Byte)) : m.Near (m.atomic leaf sp addr n tag sync f).2 := by
  simp only [Mach.atomic]
  split
  · exact (((push_near m _ _).trans (deliver_near _ _)).trans (uncopies_near _ _ _ _ _)).trans (touch_near _ _ _ _ _)
  · exact ((push_near m _ _).trans (uncopies_near _ _ _ _ _)).trans (touch_near _ _ _ _ _)

theorem Mach.writeHome_near (m : Mach) (leaf : Point) (w : Write) : m.Near (m.writeHome leaf w) :=
  ((push_near m _ _).trans (uncopies_near _ _ _ _ _)).trans (deliver_near _ _)

/-! ### Compressed blocks, and the ways of reading -/

theorem Mach.touches_near (m : Mach) (q : List (Space × Nat × Nat)) (tag : Option KTag) :
    m.Near (q.foldl (fun m x => m.touch x.1 x.2.1 x.2.2 tag) m) := Near.foldl _ (fun m _ => touch_near m _ _ _ _) q m

theorem Mach.readSlotOver_near (m : Mach) (ps : List Point) (tag : KTag) (slot : Nat) (q : SlotParts) (install : Bool) :
    m.Near (m.readSlotOver ps tag slot q install).2 := by
  have h (l : List Block) : m.Near { m with blocks := l } := near_of_stores rfl rfl rfl rfl rfl
  simp only [Mach.readSlotOver]
  split
  · exact (h _).trans (touches_near _ _ _)
  · exact h _

theorem Mach.readBy_near (m : Mach) (w : Way) (sp : Space) (addr n : Nat) (tag : Option KTag) : m.Near (m.readBy w sp addr n tag).2 := by
  cases w
  · exact readPlain_near m _ _ _ _ _
  · exact readAcq_near m _ _ _ _ _ _ _
  · exact readHome_near m _ _ _ _ _
  · exact touch_near m _ _ _ _

theorem Mach.pushSlot_near (m : Mach) (ps : List Point) (q : SlotParts) : m.Near (m.pushSlot ps q) :=
  Near.foldl _ (fun m _ => push_near m _ _) _ m

theorem Mach.readSlot_near (m : Mach) (w : Way) (tag : KTag) (slot : Nat) (q : SlotParts) : m.Near (m.readSlot w tag slot q).2 := by
  cases w
  · exact readSlotOver_near m _ _ _ _ _
  · exact (pushSlot_near m _ _).trans (readSlotOver_near _ _ _ _ _ _)
  · exact ((pushSlot_near m _ _).trans (Near.foldl _ (fun m _ => uncopies_near m _ _ _ _) _ _)).trans (readSlotOver_near _ _ _ _ _ _)
  · exact readSlotOver_near m _ _ _ _ _

theorem Mach.refreshCopy_near (m : Mach) (p : Point) (sp : Space) (unit : Nat) (tag : Option KTag) (away : List Byte) (drop : Bool) :
    m.Near (m.refreshCopy p sp unit tag away drop) := by
  simp only [Mach.refreshCopy]
  split <;> exact near_of_stores rfl rfl rfl rfl rfl

/-! ### Bytes at their home -/

theorem Mach.foldl_scr (f : Mach → Nat → Mach) (hf : ∀ m g, (f m g).scr = m.scr) : ∀ (l : List Nat) (m : Mach), (l.foldl f m).scr = m.scr
  | [], _ => rfl
  | x :: l, m => (Mach.foldl_scr f hf l (f m x)).trans (hf m x)

theorem Mach.fillGranules_scr (m : Mach) (t addr n : Nat) (k : WKind) : (m.fillGranules t addr n k).scr = m.scr := by
  cases k
  · rfl
  · exact Mach.foldl_scr (fun m gr => m.setGranule t gr (true, 0xFFFF)) (fun _ _ => rfl) _ m
  · exact Mach.foldl_scr (fun m gr =>
      let x := m.granule t gr
      let w := x.2 ||| granMask gr addr n
      m.setGranule t gr (x.1 || w == 0xFFFF, w)) (fun _ _ => rfl) _ m

theorem Mach.deliver_scr (m : Mach) (w : Write) (t : Nat) (hw : w.sp = .scr t) :
    (m.deliver w).scr = smSetRun 0 m.scr (scrKey t w.addr) w.bytes := by
  cases hs : w.sync <;> simp [Mach.deliver, hw, hs, Mach.armsMet, Mach.record, Mach.mark, Mach.clearPoison, Mach.fillGranules_scr]

/-- A byte of a team's allocation outside a write delivered there reads as before (R43, R70). -/
theorem Mach.homeByte_scr_outside (m : Mach) (w : Write) (t a : Nat) (tag : Option KTag) (hw : w.sp = .scr t) (hc : m.canonical = true)
    (ha : a < w.addr ∨ w.addr + w.bytes.length ≤ a) : (m.deliver w).homeByte (.scr t) a tag = m.homeByte (.scr t) a tag := by
  simp only [Mach.homeByte, Mach.deliver_scr m w t hw]
  exact smGet_smSetRun_other _ _ _ ((canonical_iff m).mp hc).2.2.1 (by unfold scrKey; omega)

/-- A byte of a write delivered to a team's allocation reads as written. -/
theorem Mach.homeByte_scr_written (m : Mach) (w : Write) (t i : Nat) (tag : Option KTag) (hw : w.sp = .scr t) (hc : m.canonical = true)
    (hi : i < w.bytes.length) : (m.deliver w).homeByte (.scr t) (w.addr + i) tag = w.bytes[i] := by
  have e : scrKey t (w.addr + i) = scrKey t w.addr + i := by unfold scrKey; omega
  simp only [Mach.homeByte, Mach.deliver_scr m w t hw, e]
  exact smGet_smSetRun i _ _ ((canonical_iff m).mp hc).2.2.1 hi

end Sys2Proof.Machine
end

