-- ==== Sys2Proof/Laws/Memory.lean ====
section
/-!
SUPPORT. The byte stores outside the ordering machine: memory after reset, the INBOUND word, an allocation taken and given back. Each keeps the
canonical form.
-/
set_option Elab.async false
namespace Sys2Proof.Machine

/-- Package, weight-store and host memory lists nothing after reset. -/
theorem memory_wf_reset : Memory.wf State.reset.m.mem = true := rfl

theorem Mach.addInbound_canonical {m : Mach} (t : Option Nat) (d : Int) (w : m.canonical = true) : (m.addInbound t d).canonical = true := by
  unfold Mach.addInbound
  split
  · exact (Mach.deliver_near _ _).2 w
  · exact w

theorem canonical_foldl {α : Type} (f : Mach → α → Mach) (h : ∀ (m : Mach) (x : α), m.canonical = true → (f m x).canonical = true) :
    ∀ (l : List α) {m : Mach}, m.canonical = true → (l.foldl f m).canonical = true
  | [], _, w => w
  | x :: l, m, w => canonical_foldl f h l (h m x w)

/-- Setting granules keeps the form. -/
theorem Mach.setGranule_canonical {m : Mach} (t gr : Nat) (x : Bool × BitVec 16) (w : m.canonical = true) : (m.setGranule t gr x).canonical = true :=
  (Mach.setGranule_near m t gr x).2 w

/-- A team takes its allocation. -/
theorem Mach.addTeam_canonical {m : Mach} (c l idx : Nat) (rc : LRec) (st : Seat) (w : m.canonical = true) :
    (m.addTeam c l idx rc st).canonical = true := by
  simp only [Mach.addTeam, Mach.addGroups]
  refine canonical_foldl _ (fun m _ h => by simpa [Mach.canonical] using h) _ ?_
  split
  · rw [canonical_iff] at w ⊢
    exact ⟨w.1, w.2.1, smSetRun_wf _ _ w.2.2.1, w.2.2.2⟩
  · refine canonical_foldl _ (fun m g h => Mach.setGranule_canonical _ _ _ h) _ ?_
    rw [canonical_iff] at w ⊢
    exact ⟨w.1, w.2.1, smSetRun_wf _ _ w.2.2.1, w.2.2.2⟩

/-- A cluster takes its allocations. -/
theorem Mach.addCluster_canonical {m : Mach} (la : Launch) (rc : LRec) (num : Nat) (os : List Origin) (seats : List Seat) (w : m.canonical = true) :
    (m.addCluster la rc num os seats).canonical = true := by
  simp only [Mach.addCluster]
  exact canonical_foldl _ (fun m s h => Mach.addTeam_canonical _ _ _ _ _ h) _ (by simpa [Mach.canonical] using w)

/-- A team gives its allocation back. -/
theorem Mach.dropTeam_canonical {m : Mach} (tm : Team) (pairmask : Nat) (w : m.canonical = true) : (m.dropTeam tm pairmask).canonical = true := by
  rw [canonical_iff] at w ⊢
  exact ⟨w.1, w.2.1, w.2.2.1, smDrop_wf _ _ w.2.2.2⟩

end Sys2Proof.Machine
end

