-- ==== Sys2Proof/Laws/PerInstr.lean ====
section
/-!
SUPPORT. Per instruction: the words of a well-formed instruction are 32-bit words, at most two of them, and none for a step of the machine (R211,
R212, R218).
-/
set_option Elab.async false
namespace Sys2Proof.Laws.WordCode
open Sys2Proof

/-! ### Codes of fields -/

theorem nBit_lt : ∀ d : Dst, d.nBit < 2
  | .v _ => Nat.zero_lt_two
  | .nw => Nat.one_lt_two

theorem Dst_ok_lt : ∀ {d : Dst}, d.ok = true → d.code < 128
  | .v n, h => by simp [Dst.ok, Dst.code] at h ⊢; omega
  | .nw, _ => by decide

theorem Dst_condOk_lt : ∀ {d : Dst}, d.condOk = true → d.code < 128
  | .v n, h => by simp [Dst.condOk, Dst.code] at h ⊢; omega
  | .nw, _ => by decide

theorem pairOk_lt {n : Nat} (h : pairOk n = true) : n < 128 := by simp [pairOk] at h; omega
theorem quadOk_lt {n : Nat} (h : quadOk n = true) : n < 128 := by simp [quadOk] at h; omega
theorem regOk_lt {n : Nat} (h : regOk n = true) : n < 128 := by simp [regOk] at h; omega

theorem Dst_pairOk_lt : ∀ {d : Dst}, d.pairOk = true → d.code < 128
  | .v _, h => pairOk_lt h
  | .nw, _ => by decide

theorem Dst_quadOk_lt : ∀ {d : Dst}, d.quadOk = true → d.code < 128
  | .v _, h => quadOk_lt h
  | .nw, _ => by decide

theorem Src_ok_lt : ∀ {a : Src}, a.ok = true → a.code < 128
  | .v n, h => by simp [Src.ok, Src.code] at h ⊢; omega
  | .lat k, h => by simp [Src.ok, Src.code] at h ⊢; omega

theorem loadDstOk_lt {sz : Size} {d : Nat} (h : loadDstOk sz d = true) : d < 128 := by
  cases sz
  · exact regOk_lt h
  · exact pairOk_lt h
  · exact quadOk_lt h
  · exact regOk_lt h

theorem storeSrcOk_lt {sz : Size} {d : Src} (h : storeSrcOk sz d = true) : d.code < 128 := by
  cases sz <;> cases d
  · exact Src_ok_lt h
  · exact Src_ok_lt h
  · exact pairOk_lt h
  · simp [storeSrcOk] at h
  · exact quadOk_lt h
  · simp [storeSrcOk] at h
  · exact Src_ok_lt h
  · exact Src_ok_lt h

theorem atomDstOk_lt {op : AtomOp} {dbl : Bool} {d : Nat} (h : atomDstOk op dbl d = true) : d < 128 := by
  cases op <;> cases dbl <;> first | exact pairOk_lt h | exact quadOk_lt h | exact regOk_lt h

theorem atomsAddrOk_lt {dbl : Bool} {a : Src} (h : atomsAddrOk dbl a = true) : a.code < 128 := by
  cases a
  · exact regOk_lt h
  · simp [atomsAddrOk, Src.code] at h ⊢; omega

theorem cvtCodeOk_lt {c : Nat} (h : cvtCodeOk c = true) : c < 128 := by simp [cvtCodeOk] at h; omega

theorem srdDstOk_lt {d : Dst} {n : Nat} (h : srdDstOk d n = true) : d.code < 128 ∧ n < 184 := by
  simp only [srdDstOk, Bool.and_eq_true] at h
  refine ⟨?_, by have := h.1; simp [srReadable] at this; omega⟩
  have := h.2
  split at this
  · exact Dst_pairOk_lt this
  · exact Dst_ok_lt this

theorem srWritable_lt {n : Nat} (h : srWritable n = true) : n < 512 := by simp [srWritable] at h; omega

theorem movOk_lt {sl : MovSel} {d : Dst} {a : Src} (h : movOk sl d a = true) : d.code < 128 ∧ a.code < 128 := by
  cases sl
  · simp only [movOk, Bool.and_eq_true] at h
    exact ⟨Dst_ok_lt h.1, Src_ok_lt h.2⟩
  · simp only [movOk, Bool.and_eq_true] at h
    refine ⟨Dst_ok_lt h.1, ?_⟩
    cases a
    · have := h.2; simp [Src.code] at this ⊢; omega
    · simp at h
  · simp only [movOk, Bool.and_eq_true] at h
    exact ⟨Dst_condOk_lt h.1, Src_ok_lt h.2⟩

theorem voteOk_lt {b : Bool} {d : Dst} (h : (if b = true then d.ok else d.condOk) = true) : d.code < 128 := by
  split at h
  · exact Dst_ok_lt h
  · exact Dst_condOk_lt h

/-- A listed selector's code is a place in its table, and the table has the selector there. -/
theorem code_lt {α : Type} [DecidableEq α] (table : List α) {a : α} (h : a ∈ table) : codeIn table a < table.length :=
  List.findIdx_lt_length_of_exists ⟨a, h, by simp⟩

theorem codeIn_get {α : Type} [DecidableEq α] (table : List α) {a : α} (h : a ∈ table) : table[codeIn table a]? = some a := by
  have hl := code_lt table h
  rw [List.getElem?_eq_getElem hl]
  have : (table[codeIn table a] == a) = true := List.findIdx_getElem (w := hl)
  exact congrArg some (of_decide_eq_true (by simpa using this))

theorem codeIn_lt {α : Type} [DecidableEq α] {table : List α} {a : α} (h : a ∈ table) (hl : table.length ≤ 4) : codeIn table a < 4 :=
  Nat.lt_of_lt_of_le (code_lt table h) hl

theorem fieldOfInt_lt (bits : Nat) (k : Int) : fieldOfInt bits k < 2 ^ bits := by
  have h : (0 : Int) < 2 ^ bits := by positivity
  have := Int.emod_lt_of_pos k h
  have := Int.emod_nonneg k (ne_of_gt h)
  unfold fieldOfInt
  zify
  omega

theorem bitOf_lt (b : Bool) : bitOf b < 2 := by cases b <;> decide

/-! ### Words -/

/-- The words of a well-formed instruction: at most two, each of 32 bits. -/
def Statement (i : Instr) : Prop := i.wf = true → (encode i).length ≤ 2 ∧ ∀ w ∈ encode i, w < 2 ^ 32

theorem one {w : Nat} (h : w < 2 ^ 32) : [w].length ≤ 2 ∧ ∀ x ∈ [w], x < 2 ^ 32 := by simp; omega
theorem two {w l : Nat} (h : w < 2 ^ 32) (k : l < 2 ^ 32) : [w, l].length ≤ 2 ∧ ∀ x ∈ [w, l], x < 2 ^ 32 := by simp; omega

theorem step {i : Instr} (h : encode i = []) : Statement i := fun _ => by simp [h]

theorem encVR_lt {op m n d a b : Nat} (ho : op < 256) (hm : m < 4) (hn : n < 2) (hd : d < 128) (ha : a < 128) (hb : b < 128) :
    encVR op m n d a b < 2 ^ 32 := by unfold encVR; omega

theorem vr3 {i : Instr} (op m : Nat) (d : Dst) (a b : Src) (he : encode i = [encVR op m d.nBit d.code a.code b.code])
    (hw : i.wf = (d.ok && a.ok && b.ok)) (ho : op < 256) (hm : m < 4) : Statement i := by
  intro h
  rw [hw] at h
  simp only [Bool.and_eq_true] at h
  rw [he]
  exact one (encVR_lt ho hm (nBit_lt d) (Dst_ok_lt h.1.1) (Src_ok_lt h.1.2) (Src_ok_lt h.2))

theorem vr3c {i : Instr} (op m : Nat) (d : Dst) (a b : Src) (he : encode i = [encVR op m d.nBit d.code a.code b.code])
    (hw : i.wf = (d.condOk && a.ok && b.ok)) (ho : op < 256) (hm : m < 4) : Statement i := by
  intro h
  rw [hw] at h
  simp only [Bool.and_eq_true] at h
  rw [he]
  exact one (encVR_lt ho hm (nBit_lt d) (Dst_condOk_lt h.1.1) (Src_ok_lt h.1.2) (Src_ok_lt h.2))

theorem vr2 {i : Instr} (op m : Nat) (d : Dst) (a : Src) (he : encode i = [encVR op m d.nBit d.code a.code 0])
    (hw : i.wf = (d.ok && a.ok)) (ho : op < 256) (hm : m < 4) : Statement i := by
  intro h
  rw [hw] at h
  simp only [Bool.and_eq_true] at h
  rw [he]
  exact one (encVR_lt ho hm (nBit_lt d) (Dst_ok_lt h.1) (Src_ok_lt h.2) (by decide))

theorem imm {i : Instr} (op : Nat) (d : Dst) (a : Src) (k : Int) (he : encode i = [encVI op d.nBit d.code a.code (fieldOfInt 9 k)])
    (hw : i.wf = (d.ok && a.ok && fits 9 k)) (ho : op < 256) : Statement i := by
  intro h
  rw [hw] at h
  simp only [Bool.and_eq_true] at h
  rw [he]
  have h1 := nBit_lt d
  have h2 := Dst_ok_lt h.1.1
  have h3 := Src_ok_lt h.1.2
  have h4 := fieldOfInt_lt 9 k
  exact one (by unfold encVI; omega)

/-! ### Constructors -/

theorem iadd (m : Sat) (d : Dst) (a b : Src) : Statement (.iadd m d a b) := vr3 0x00 (codeIn satTable m) d a b rfl rfl (by decide) (codeIn_lt (by cases m <;> decide) (by decide))
theorem isub (m : Sat) (d : Dst) (a b : Src) : Statement (.isub m d a b) := vr3 0x01 (codeIn satTable m) d a b rfl rfl (by decide) (codeIn_lt (by cases m <;> decide) (by decide))
theorem imul (m : Sat) (d : Dst) (a b : Src) : Statement (.imul m d a b) := vr3 0x02 (codeIn satTable m) d a b rfl rfl (by decide) (codeIn_lt (by cases m <;> decide) (by decide))
theorem imulh (m : Sgn) (d : Dst) (a b : Src) : Statement (.imulh m d a b) := vr3 0x03 (codeIn sgnTable m) d a b rfl rfl (by decide) (codeIn_lt (by cases m <;> decide) (by decide))
theorem imad (m : Sat) (d : Dst) (a b : Src) : Statement (.imad m d a b) := vr3 0x04 (codeIn satTable m) d a b rfl rfl (by decide) (codeIn_lt (by cases m <;> decide) (by decide))
theorem imin (m : Sgn) (d : Dst) (a b : Src) : Statement (.imin m d a b) := vr3 0x05 (codeIn sgnTable m) d a b rfl rfl (by decide) (codeIn_lt (by cases m <;> decide) (by decide))
theorem imax (m : Sgn) (d : Dst) (a b : Src) : Statement (.imax m d a b) := vr3 0x06 (codeIn sgnTable m) d a b rfl rfl (by decide) (codeIn_lt (by cases m <;> decide) (by decide))
theorem isad (m : Sgn) (d : Dst) (a b : Src) : Statement (.isad m d a b) := vr3 0x07 (codeIn sgnTable m) d a b rfl rfl (by decide) (codeIn_lt (by cases m <;> decide) (by decide))
theorem and (d : Dst) (a b : Src) : Statement (.and d a b) := vr3 0x08 0 d a b rfl rfl (by decide) (by decide)
theorem or (d : Dst) (a b : Src) : Statement (.or d a b) := vr3 0x09 0 d a b rfl rfl (by decide) (by decide)
theorem xor (d : Dst) (a b : Src) : Statement (.xor d a b) := vr3 0x0A 0 d a b rfl rfl (by decide) (by decide)
theorem andn (d : Dst) (a b : Src) : Statement (.andn d a b) := vr3 0x0B 0 d a b rfl rfl (by decide) (by decide)
theorem shl (d : Dst) (a b : Src) : Statement (.shl d a b) := vr3 0x0C 0 d a b rfl rfl (by decide) (by decide)
theorem shr (d : Dst) (a b : Src) : Statement (.shr d a b) := vr3 0x0D 0 d a b rfl rfl (by decide) (by decide)
theorem sar (d : Dst) (a b : Src) : Statement (.sar d a b) := vr3 0x0E 0 d a b rfl rfl (by decide) (by decide)
theorem rol (d : Dst) (a b : Src) : Statement (.rol d a b) := vr3 0x0F 0 d a b rfl rfl (by decide) (by decide)
theorem popc (d : Dst) (a : Src) : Statement (.popc d a) := vr2 0x10 0 d a rfl rfl (by decide) (by decide)
theorem clz (d : Dst) (a : Src) : Statement (.clz d a) := vr2 0x11 0 d a rfl rfl (by decide) (by decide)
theorem brev (d : Dst) (a : Src) : Statement (.brev d a) := vr2 0x12 0 d a rfl rfl (by decide) (by decide)
theorem bfx (m : Sgn) (d : Dst) (a b : Src) : Statement (.bfx m d a b) := vr3 0x13 (codeIn sgnTable m) d a b rfl rfl (by decide) (codeIn_lt (by cases m <;> decide) (by decide))
theorem bfi (d : Dst) (a b : Src) : Statement (.bfi d a b) := vr3 0x14 0 d a b rfl rfl (by decide) (by decide)
theorem icmp (op : CmpS) (c : Dst) (a b : Src) : Statement (.icmp op c a b) := vr3c 0x15 (codeIn cmpSTable op) c a b rfl rfl (by decide) (codeIn_lt (by cases op <;> decide) (by decide))
theorem icmpu (op : CmpU) (c : Dst) (a b : Src) : Statement (.icmpu op c a b) := vr3c 0x16 (codeIn cmpUTable op) c a b rfl rfl (by decide) (codeIn_lt (by cases op <;> decide) (by decide))
theorem sel (c : Nat) (d : Dst) (a b : Src) : Statement (.sel c d a b) := by
  intro hw
  replace hw : (decide (c < 4) && d.ok && a.ok && b.ok) = true := hw
  simp only [Bool.and_eq_true, decide_eq_true_eq] at hw
  have b1 := Dst_ok_lt hw.1.1.2
  have b2 := Src_ok_lt hw.1.2
  have b3 := Src_ok_lt hw.2
  have b4 := nBit_lt d
  exact one (by unfold encVR; omega)
theorem iaddi (d : Dst) (a : Src) (k : Int) : Statement (.iaddi d a k) := imm 0x18 d a k rfl rfl (by decide)
theorem andi (d : Dst) (a : Src) (k : Int) : Statement (.andi d a k) := imm 0x19 d a k rfl rfl (by decide)
theorem ori (d : Dst) (a : Src) (k : Int) : Statement (.ori d a k) := imm 0x1A d a k rfl rfl (by decide)
theorem xori (d : Dst) (a : Src) (k : Int) : Statement (.xori d a k) := imm 0x1B d a k rfl rfl (by decide)
theorem shifti (op : ShiftOp) (d : Dst) (a : Src) (n : Nat) : Statement (.shifti op d a n) := by
  intro hw
  replace hw : (d.ok && a.ok && decide (n < 32)) = true := hw
  simp only [Bool.and_eq_true, decide_eq_true_eq] at hw
  have b1 := Dst_ok_lt hw.1.1
  have b2 := Src_ok_lt hw.1.2
  have b3 : codeIn shiftTable op < 4 := code_lt shiftTable (a := op) (by cases op <;> decide)
  have b4 := nBit_lt d
  exact one (by unfold encVI; omega)
theorem mov (sel : MovSel) (d : Dst) (a : Src) : Statement (.mov sel d a) := by
  intro hw
  replace hw : (movOk sel d a) = true := hw
  have b1 := movOk_lt hw
  have b2 : codeIn [MovSel.mov, .fromc, .toc] sel < 3 := code_lt [MovSel.mov, .fromc, .toc] (a := sel) (by cases sel <;> decide)
  have b3 := nBit_lt d
  exact one (by unfold encVR; omega)
theorem iadd64 (d : Dst) (a b : Nat) : Statement (.iadd64 d a b) := by
  intro hw
  replace hw : (d.pairOk && pairOk a && pairOk b) = true := hw
  simp only [Bool.and_eq_true] at hw
  have b1 := Dst_pairOk_lt hw.1.1
  have b2 := pairOk_lt hw.1.2
  have b3 := pairOk_lt hw.2
  have b4 := nBit_lt d
  exact one (by unfold encVR; omega)
theorem fadd (ty : FType) (d : Dst) (a b : Src) : Statement (.fadd ty d a b) := vr3 0x20 (codeIn ftypeTable ty) d a b rfl rfl (by decide) (codeIn_lt (by cases ty <;> decide) (by decide))
theorem fsub (ty : FType) (d : Dst) (a b : Src) : Statement (.fsub ty d a b) := vr3 0x21 (codeIn ftypeTable ty) d a b rfl rfl (by decide) (codeIn_lt (by cases ty <;> decide) (by decide))
theorem fmul (ty : FType) (d : Dst) (a b : Src) : Statement (.fmul ty d a b) := vr3 0x22 (codeIn ftypeTable ty) d a b rfl rfl (by decide) (codeIn_lt (by cases ty <;> decide) (by decide))
theorem ffma (ty : FType) (d : Dst) (a b : Src) : Statement (.ffma ty d a b) := vr3 0x23 (codeIn ftypeTable ty) d a b rfl rfl (by decide) (codeIn_lt (by cases ty <;> decide) (by decide))
theorem ffms (ty : FType) (d : Dst) (a b : Src) : Statement (.ffms ty d a b) := vr3 0x24 (codeIn ftypeTable ty) d a b rfl rfl (by decide) (codeIn_lt (by cases ty <;> decide) (by decide))
theorem fnma (ty : FType) (d : Dst) (a b : Src) : Statement (.fnma ty d a b) := vr3 0x25 (codeIn ftypeTable ty) d a b rfl rfl (by decide) (codeIn_lt (by cases ty <;> decide) (by decide))
theorem fmin (ty : FType) (d : Dst) (a b : Src) : Statement (.fmin ty d a b) := vr3 0x26 (codeIn ftypeTable ty) d a b rfl rfl (by decide) (codeIn_lt (by cases ty <;> decide) (by decide))
theorem fmax (ty : FType) (d : Dst) (a b : Src) : Statement (.fmax ty d a b) := vr3 0x27 (codeIn ftypeTable ty) d a b rfl rfl (by decide) (codeIn_lt (by cases ty <;> decide) (by decide))
theorem fcmp (op : FCmpOp) (c : Dst) (a b : Src) : Statement (.fcmp op c a b) := vr3c 0x28 (codeIn fcmpTable op) c a b rfl rfl (by decide) (codeIn_lt (by cases op <;> decide) (by decide))
theorem fsign (op : SignOp) (d : Dst) (a b : Src) : Statement (.fsign op d a b) := by
  intro hw
  replace hw : (d.ok && a.ok && b.ok && (op == .copysign || b == .v 0)) = true := hw
  simp only [Bool.and_eq_true] at hw
  have b1 := Dst_ok_lt hw.1.1.1
  have b2 := Src_ok_lt hw.1.1.2
  have b3 := Src_ok_lt hw.1.2
  have b4 : codeIn signTable op < 4 := code_lt signTable (a := op) (by cases op <;> decide)
  have b5 := nBit_lt d
  exact one (by unfold encVR; omega)
theorem cvt (rm : RMode) (d : Dst) (a : Src) (code : Nat) : Statement (.cvt rm d a code) := by
  intro hw
  replace hw : (d.ok && a.ok && cvtCodeOk code) = true := hw
  simp only [Bool.and_eq_true] at hw
  have b1 := Dst_ok_lt hw.1.1
  have b2 := Src_ok_lt hw.1.2
  have b3 := cvtCodeOk_lt hw.2
  have b4 : codeIn rmTable rm < 4 := code_lt rmTable (a := rm) (by cases rm <;> decide)
  have b5 := nBit_lt d
  exact one (by unfold encVR; omega)
theorem cvts (rm : RMode) (d : Dst) (a : Src) (code : Nat) : Statement (.cvts rm d a code) := by
  intro hw
  replace hw : (d.ok && a.ok && cvtCodeOk code) = true := hw
  simp only [Bool.and_eq_true] at hw
  have b1 := Dst_ok_lt hw.1.1
  have b2 := Src_ok_lt hw.1.2
  have b3 := cvtCodeOk_lt hw.2
  have b4 : codeIn rmTable rm < 4 := code_lt rmTable (a := rm) (by cases rm <;> decide)
  have b5 := nBit_lt d
  exact one (by unfold encVR; omega)
theorem frnd (rm : RMode) (d : Dst) (a : Src) : Statement (.frnd rm d a) := vr2 0x2C (codeIn rmTable rm) d a rfl rfl (by decide) (codeIn_lt (by cases rm <;> decide) (by decide))
theorem rcp (d : Dst) (a : Src) : Statement (.rcp d a) := vr2 0x2D 0 d a rfl rfl (by decide) (by decide)
theorem rsq (d : Dst) (a : Src) : Statement (.rsq d a) := vr2 0x2E 0 d a rfl rfl (by decide) (by decide)
theorem sqrt (d : Dst) (a : Src) : Statement (.sqrt d a) := vr2 0x2F 0 d a rfl rfl (by decide) (by decide)
theorem ex2 (d : Dst) (a : Src) : Statement (.ex2 d a) := vr2 0x30 0 d a rfl rfl (by decide) (by decide)
theorem lg2 (d : Dst) (a : Src) : Statement (.lg2 d a) := vr2 0x31 0 d a rfl rfl (by decide) (by decide)
theorem sin (d : Dst) (a : Src) : Statement (.sin d a) := vr2 0x32 0 d a rfl rfl (by decide) (by decide)
theorem cos (d : Dst) (a : Src) : Statement (.cos d a) := vr2 0x33 0 d a rfl rfl (by decide) (by decide)
theorem tanh (d : Dst) (a : Src) : Statement (.tanh d a) := vr2 0x34 0 d a rfl rfl (by decide) (by decide)
theorem fscale (d : Dst) (a b : Src) : Statement (.fscale d a b) := vr3 0x35 0 d a b rfl rfl (by decide) (by decide)
theorem fxtr (sel : XtrSel) (d : Dst) (a : Src) : Statement (.fxtr sel d a) := vr2 0x36 (codeIn xtrTable sel) d a rfl rfl (by decide) (codeIn_lt (by cases sel <;> decide) (by decide))
theorem pack (sel : PackSel) (d : Dst) (a b : Src) : Statement (.pack sel d a b) := vr3 0x37 (codeIn packTable sel) d a b rfl rfl (by decide) (codeIn_lt (by cases sel <;> decide) (by decide))
theorem unpk (sel : UnpkSel) (d : Dst) (a : Src) (h : Nat) : Statement (.unpk sel d a h) := by
  intro hw
  replace hw : (d.ok && a.ok && decide (h < 2)) = true := hw
  simp only [Bool.and_eq_true, decide_eq_true_eq] at hw
  have b1 := Dst_ok_lt hw.1.1
  have b2 := Src_ok_lt hw.1.2
  have b3 : codeIn unpkTable sel < 4 := code_lt unpkTable (a := sel) (by cases sel <;> decide)
  have b4 := nBit_lt d
  exact one (by unfold encVR; omega)
theorem cbq (d : Dst) (a : Src) (nib : Nat) : Statement (.cbq d a nib) := by
  intro hw
  replace hw : (d.ok && a.ok && decide (nib < 8)) = true := hw
  simp only [Bool.and_eq_true, decide_eq_true_eq] at hw
  have b1 := Dst_ok_lt hw.1.1
  have b2 := Src_ok_lt hw.1.2
  have b3 := nBit_lt d
  exact one (by unfold encVR; omega)
theorem cbx (d : Dst) (a : Src) (nib : Nat) : Statement (.cbx d a nib) := by
  intro hw
  replace hw : (d.ok && a.ok && decide (nib < 8)) = true := hw
  simp only [Bool.and_eq_true, decide_eq_true_eq] at hw
  have b1 := Dst_ok_lt hw.1.1
  have b2 := Src_ok_lt hw.1.2
  have b3 := nBit_lt d
  exact one (by unfold encVR; omega)
theorem dot2 (ty : DotType) (d : Dst) (a b : Src) : Statement (.dot2 ty d a b) := by
  cases ty
  · exact vr3 0x3B 1 d a b rfl rfl (by decide) (by decide)
  · exact vr3 0x3B 2 d a b rfl rfl (by decide) (by decide)
theorem shfl (mode : ShflMode) (d : Dst) (a b : Src) : Statement (.shfl mode d a b) := vr3 0x40 (codeIn shflTable mode) d a b rfl rfl (by decide) (codeIn_lt (by cases mode <;> decide) (by decide))
theorem vote (op : VoteOp) (d : Dst) (c : Nat) : Statement (.vote op d c) := by
  intro hw
  replace hw : ((if op == .ballot then d.ok else d.condOk) && decide (c < 8)) = true := hw
  simp only [Bool.and_eq_true, decide_eq_true_eq] at hw
  have b1 := voteOk_lt hw.1
  have b2 : codeIn [VoteOp.any, .all, .ballot, .eq] op < 4 := code_lt [VoteOp.any, .all, .ballot, .eq] (a := op) (by cases op <;> decide)
  have b3 := nBit_lt d
  exact one (by unfold encVR; omega)
theorem sredi (op : RedI) (d : Dst) (a : Src) : Statement (.sredi op d a) := vr2 0x43 (codeIn redITable op) d a rfl rfl (by decide) (codeIn_lt (by cases op <;> decide) (by decide))
theorem sredf (op : RedF) (d : Dst) (a : Src) : Statement (.sredf op d a) := vr2 0x44 (codeIn redFTable op) d a rfl rfl (by decide) (codeIn_lt (by cases op <;> decide) (by decide))
theorem sscan (ty : ScanType) (excl : Bool) (d : Dst) (a : Src) : Statement (.sscan ty excl d a) := by
  intro hw
  replace hw : (d.ok && a.ok) = true := hw
  simp only [Bool.and_eq_true] at hw
  have b1 := Dst_ok_lt hw.1
  have b2 := Src_ok_lt hw.2
  have b3 : codeIn scanTable ty < 2 := code_lt scanTable (a := ty) (by cases ty <;> decide)
  have b4 := bitOf_lt excl
  have b5 := nBit_lt d
  exact one (by unfold encVR; omega)
theorem prmt (d : Dst) (a b : Src) : Statement (.prmt d a b) := vr3 0x46 0 d a b rfl rfl (by decide) (by decide)
theorem matchS (sel : MatchSel) (d : Dst) (a : Src) : Statement (.matchS sel d a) := vr2 0x47 (codeIn matchTable sel) d a rfl rfl (by decide) (codeIn_lt (by cases sel <;> decide) (by decide))
theorem firstl (d : Dst) (c : Nat) : Statement (.firstl d c) := by
  intro hw
  replace hw : (d.ok && decide (c < 8)) = true := hw
  simp only [Bool.and_eq_true, decide_eq_true_eq] at hw
  have b1 := Dst_ok_lt hw.1
  have b2 := nBit_lt d
  exact one (by unfold encVR; omega)
theorem tment (md : EntryMod) (d : Dst) (a : Src) : Statement (.tment md d a) := by
  intro hw
  replace hw : (d.quadOk && a.ok) = true := hw
  simp only [Bool.and_eq_true] at hw
  have b1 := Dst_quadOk_lt hw.1
  have b2 := Src_ok_lt hw.2
  have b3 : codeIn entryTable md < 3 := code_lt entryTable (a := md) (by cases md <;> decide)
  have b4 := nBit_lt d
  exact one (by unfold encVR; omega)
theorem tmacc (md : EntryMod) (d : Dst) (a : Src) : Statement (.tmacc md d a) := by
  intro hw
  replace hw : (d.quadOk && a.ok) = true := hw
  simp only [Bool.and_eq_true] at hw
  have b1 := Dst_quadOk_lt hw.1
  have b2 := Src_ok_lt hw.2
  have b3 : codeIn entryTable md < 3 := code_lt entryTable (a := md) (by cases md <;> decide)
  have b4 := nBit_lt d
  exact one (by unfold encVR; omega)
theorem tmmrg (d : Dst) (a b : Nat) : Statement (.tmmrg d a b) := by
  intro hw
  replace hw : (d.quadOk && quadOk a && quadOk b) = true := hw
  simp only [Bool.and_eq_true] at hw
  have b1 := Dst_quadOk_lt hw.1.1
  have b2 := quadOk_lt hw.1.2
  have b3 := quadOk_lt hw.2
  have b4 := nBit_lt d
  exact one (by unfold encVR; omega)
theorem tmsred (d : Dst) (a : Nat) : Statement (.tmsred d a) := by
  intro hw
  replace hw : (d.quadOk && quadOk a) = true := hw
  simp only [Bool.and_eq_true] at hw
  have b1 := Dst_quadOk_lt hw.1
  have b2 := quadOk_lt hw.2
  have b3 := nBit_lt d
  exact one (by unfold encVR; omega)
theorem tmexit (d : Dst) (a : Nat) : Statement (.tmexit d a) := by
  intro hw
  replace hw : (d.ok && quadOk a) = true := hw
  simp only [Bool.and_eq_true] at hw
  have b1 := Dst_ok_lt hw.1
  have b2 := quadOk_lt hw.2
  have b3 := nBit_lt d
  exact one (by unfold encVR; omega)
theorem ld (sz : Size) (sc : Scope) (d a : Nat) (off : Int) : Statement (.ld sz sc d a off) := by
  intro hw
  replace hw : (loadDstOk sz d && pairOk a && fits 5 off) = true := hw
  simp only [Bool.and_eq_true] at hw
  have b1 := loadDstOk_lt hw.1.1
  have b2 := pairOk_lt hw.1.2
  have b3 : codeIn sizeTable sz < 4 := code_lt sizeTable (a := sz) (by cases sz <;> decide)
  have b4 : codeIn scopeTable sc < 7 := code_lt scopeTable (a := sc) (by cases sc <;> decide)
  have b5 := fieldOfInt_lt 5 off
  exact one (by unfold encVM; omega)
theorem st (sz : Size) (sc : Scope) (d : Src) (a : Nat) (off : Int) : Statement (.st sz sc d a off) := by
  intro hw
  replace hw : (storeSrcOk sz d && pairOk a && fits 5 off) = true := hw
  simp only [Bool.and_eq_true] at hw
  have b1 := storeSrcOk_lt hw.1.1
  have b2 := pairOk_lt hw.1.2
  have b3 : codeIn sizeTable sz < 4 := code_lt sizeTable (a := sz) (by cases sz <;> decide)
  have b4 : codeIn scopeTable sc < 7 := code_lt scopeTable (a := sc) (by cases sc <;> decide)
  have b5 := fieldOfInt_lt 5 off
  exact one (by unfold encVM; omega)
theorem lds (sz : Size) (sc : Scope) (d : Nat) (a : Src) (off : Int) : Statement (.lds sz sc d a off) := by
  intro hw
  replace hw : (loadDstOk sz d && a.ok && fits 5 off) = true := hw
  simp only [Bool.and_eq_true] at hw
  have b1 := loadDstOk_lt hw.1.1
  have b2 := Src_ok_lt hw.1.2
  have b3 : codeIn sizeTable sz < 4 := code_lt sizeTable (a := sz) (by cases sz <;> decide)
  have b4 : codeIn scopeTable sc < 7 := code_lt scopeTable (a := sc) (by cases sc <;> decide)
  have b5 := fieldOfInt_lt 5 off
  exact one (by unfold encVM; omega)
theorem sts (sz : Size) (sc : Scope) (d a : Src) (off : Int) : Statement (.sts sz sc d a off) := by
  intro hw
  replace hw : (storeSrcOk sz d && a.ok && fits 5 off) = true := hw
  simp only [Bool.and_eq_true] at hw
  have b1 := storeSrcOk_lt hw.1.1
  have b2 := Src_ok_lt hw.1.2
  have b3 : codeIn sizeTable sz < 4 := code_lt sizeTable (a := sz) (by cases sz <;> decide)
  have b4 : codeIn scopeTable sc < 7 := code_lt scopeTable (a := sc) (by cases sc <;> decide)
  have b5 := fieldOfInt_lt 5 off
  exact one (by unfold encVM; omega)
theorem ldfe (sz : Size) (sc : Scope) (d : Nat) (a : Src) (off : Int) : Statement (.ldfe sz sc d a off) := by
  intro hw
  replace hw : (loadDstOk sz d && a.ok && fits 5 off) = true := hw
  simp only [Bool.and_eq_true] at hw
  have b1 := loadDstOk_lt hw.1.1
  have b2 := Src_ok_lt hw.1.2
  have b3 : codeIn sizeTable sz < 4 := code_lt sizeTable (a := sz) (by cases sz <;> decide)
  have b4 : codeIn scopeTable sc < 7 := code_lt scopeTable (a := sc) (by cases sc <;> decide)
  have b5 := fieldOfInt_lt 5 off
  exact one (by unfold encVM; omega)
theorem ldfet (sz : Size) (sc : Scope) (d : Nat) (a : Src) (off : Int) : Statement (.ldfet sz sc d a off) := by
  intro hw
  replace hw : (loadDstOk sz d && a.ok && fits 5 off) = true := hw
  simp only [Bool.and_eq_true] at hw
  have b1 := loadDstOk_lt hw.1.1
  have b2 := Src_ok_lt hw.1.2
  have b3 : codeIn sizeTable sz < 4 := code_lt sizeTable (a := sz) (by cases sz <;> decide)
  have b4 : codeIn scopeTable sc < 7 := code_lt scopeTable (a := sc) (by cases sc <;> decide)
  have b5 := fieldOfInt_lt 5 off
  exact one (by unfold encVM; omega)
theorem stfe (sz : Size) (sc : Scope) (d a : Src) (off : Int) : Statement (.stfe sz sc d a off) := by
  intro hw
  replace hw : (storeSrcOk sz d && a.ok && fits 5 off) = true := hw
  simp only [Bool.and_eq_true] at hw
  have b1 := storeSrcOk_lt hw.1.1
  have b2 := Src_ok_lt hw.1.2
  have b3 : codeIn sizeTable sz < 4 := code_lt sizeTable (a := sz) (by cases sz <;> decide)
  have b4 : codeIn scopeTable sc < 7 := code_lt scopeTable (a := sc) (by cases sc <;> decide)
  have b5 := fieldOfInt_lt 5 off
  exact one (by unfold encVM; omega)
theorem atom (op : AtomOp) (sc : Scope) (dbl : Bool) (d a : Nat) : Statement (.atom op sc dbl d a) := by
  intro hw
  replace hw : (atomSizeOk op dbl && atomDstOk op dbl d && pairOk a) = true := hw
  simp only [Bool.and_eq_true] at hw
  have b1 := atomDstOk_lt hw.1.2
  have b2 := pairOk_lt hw.2
  have b3 : codeIn atomTable op < 17 := code_lt atomTable (a := op) (by cases op <;> decide)
  have b4 : codeIn scopeTable sc < 7 := code_lt scopeTable (a := sc) (by cases sc <;> decide)
  have b5 := bitOf_lt dbl
  exact one (by unfold encVA; omega)
theorem atoms (op : AtomOp) (sc : Scope) (dbl : Bool) (d : Nat) (a : Src) : Statement (.atoms op sc dbl d a) := by
  intro hw
  replace hw : (atomSizeOk op dbl && atomDstOk op dbl d && atomsAddrOk dbl a) = true := hw
  simp only [Bool.and_eq_true] at hw
  have b1 := atomDstOk_lt hw.1.2
  have b2 := atomsAddrOk_lt hw.2
  have b3 : codeIn atomTable op < 17 := code_lt atomTable (a := op) (by cases op <;> decide)
  have b4 : codeIn scopeTable sc < 7 := code_lt scopeTable (a := sc) (by cases sc <;> decide)
  have b5 := bitOf_lt dbl
  exact one (by unfold encVA; omega)
theorem pref (xlate : Bool) (a : Nat) (off : Int) : Statement (.pref xlate a off) := by
  intro hw
  replace hw : (pairOk a && fits 5 off) = true := hw
  simp only [Bool.and_eq_true] at hw
  have b1 := pairOk_lt hw.1
  have b2 := fieldOfInt_lt 5 off
  have b3 := bitOf_lt xlate
  exact one (by unfold encVM; omega)
theorem br (c : Nat) (sense : Bool) (off : Int) : Statement (.br c sense off) := by
  intro hw
  replace hw : (decide (c < 8) && fits 19 off) = true := hw
  simp only [Bool.and_eq_true, decide_eq_true_eq] at hw
  have b1 := fieldOfInt_lt 19 off
  have b2 := bitOf_lt sense
  exact one (by unfold encVB; omega)
theorem brx (a tag : Nat) : Statement (.brx a tag) := by
  intro hw
  replace hw : (pairOk a && decide (tag < 512)) = true := hw
  simp only [Bool.and_eq_true, decide_eq_true_eq] at hw
  have b1 := pairOk_lt hw.1
  exact one (by unfold encVI; omega)
theorem callx (d a tag : Nat) : Statement (.callx d a tag) := by
  intro hw
  replace hw : (pairOk d && pairOk a && decide (tag < 512)) = true := hw
  simp only [Bool.and_eq_true, decide_eq_true_eq] at hw
  have b1 := pairOk_lt hw.1.1
  have b2 := pairOk_lt hw.1.2
  exact one (by unfold encVI; omega)
theorem retx (a : Nat) : Statement (.retx a) := by
  intro hw
  replace hw : (pairOk a) = true := hw
  have b1 := pairOk_lt hw
  exact one (by unfold encVR; omega)
theorem join (j : Nat) : Statement (.join j) := by
  intro hw
  replace hw : (decide (j < 16)) = true := hw
  simp only [decide_eq_true_eq] at hw
  exact one (by unfold encVR; omega)
theorem lpad (tag : Nat) : Statement (.lpad tag) := by
  intro hw
  replace hw : (decide (tag < 512)) = true := hw
  simp only [decide_eq_true_eq] at hw
  exact one (by unfold encVI; omega)
theorem fork (c a : Nat) (b : Src) : Statement (.fork c a b) := by
  intro hw
  replace hw : (decide (c < 8) && pairOk a && b.ok) = true := hw
  simp only [Bool.and_eq_true, decide_eq_true_eq] at hw
  have b1 := pairOk_lt hw.1.2
  have b2 := Src_ok_lt hw.2
  exact one (by unfold encVR; omega)
theorem fend : Statement (.fend) := fun _ => one (by decide)
theorem jmset (op : MaskOp) (j : Nat) (a : Src) : Statement (.jmset op j a) := by
  intro hw
  replace hw : (decide (j < 16) && a.ok && (op != .fib || a == .v 0)) = true := hw
  simp only [Bool.and_eq_true, decide_eq_true_eq] at hw
  have b1 := Src_ok_lt hw.1.2
  have b2 : codeIn maskTable op < 4 := code_lt maskTable (a := op) (by cases op <;> decide)
  exact one (by unfold encVR; omega)
theorem limm (d : Dst) (lit : Word) : Statement (.limm d lit) := by
  intro hw
  replace hw : (d.ok) = true := hw
  have b1 := Dst_ok_lt hw
  have b2 := nBit_lt d
  exact two (by unfold encVI; omega) lit.isLt
theorem uadd (m : Sat) (d : Dst) (a b : Src) : Statement (.uadd m d a b) := vr3 0x80 (codeIn satTable m) d a b rfl rfl (by decide) (codeIn_lt (by cases m <;> decide) (by decide))
theorem usub (m : Sat) (d : Dst) (a b : Src) : Statement (.usub m d a b) := vr3 0x81 (codeIn satTable m) d a b rfl rfl (by decide) (codeIn_lt (by cases m <;> decide) (by decide))
theorem umul (m : Sat) (d : Dst) (a b : Src) : Statement (.umul m d a b) := vr3 0x82 (codeIn satTable m) d a b rfl rfl (by decide) (codeIn_lt (by cases m <;> decide) (by decide))
theorem umulh (m : Sgn) (d : Dst) (a b : Src) : Statement (.umulh m d a b) := vr3 0x83 (codeIn sgnTable m) d a b rfl rfl (by decide) (codeIn_lt (by cases m <;> decide) (by decide))
theorem umad (m : Sat) (d : Dst) (a b : Src) : Statement (.umad m d a b) := vr3 0x84 (codeIn satTable m) d a b rfl rfl (by decide) (codeIn_lt (by cases m <;> decide) (by decide))
theorem umin (m : Sgn) (d : Dst) (a b : Src) : Statement (.umin m d a b) := vr3 0x85 (codeIn sgnTable m) d a b rfl rfl (by decide) (codeIn_lt (by cases m <;> decide) (by decide))
theorem umax (m : Sgn) (d : Dst) (a b : Src) : Statement (.umax m d a b) := vr3 0x86 (codeIn sgnTable m) d a b rfl rfl (by decide) (codeIn_lt (by cases m <;> decide) (by decide))
theorem uand (d : Dst) (a b : Src) : Statement (.uand d a b) := vr3 0x87 0 d a b rfl rfl (by decide) (by decide)
theorem uor (d : Dst) (a b : Src) : Statement (.uor d a b) := vr3 0x88 0 d a b rfl rfl (by decide) (by decide)
theorem uxor (d : Dst) (a b : Src) : Statement (.uxor d a b) := vr3 0x89 0 d a b rfl rfl (by decide) (by decide)
theorem ushl (d : Dst) (a b : Src) : Statement (.ushl d a b) := vr3 0x8A 0 d a b rfl rfl (by decide) (by decide)
theorem ushr (d : Dst) (a b : Src) : Statement (.ushr d a b) := vr3 0x8B 0 d a b rfl rfl (by decide) (by decide)
theorem usar (d : Dst) (a b : Src) : Statement (.usar d a b) := vr3 0x8C 0 d a b rfl rfl (by decide) (by decide)
theorem upopc (d : Dst) (a : Src) : Statement (.upopc d a) := vr2 0x8D 0 d a rfl rfl (by decide) (by decide)
theorem uclz (d : Dst) (a : Src) : Statement (.uclz d a) := vr2 0x8E 0 d a rfl rfl (by decide) (by decide)
theorem ucmp (op : CmpS) (c : Dst) (a b : Src) : Statement (.ucmp op c a b) := vr3c 0x8F (codeIn cmpSTable op) c a b rfl rfl (by decide) (codeIn_lt (by cases op <;> decide) (by decide))
theorem ucmpu (op : CmpU) (c : Dst) (a b : Src) : Statement (.ucmpu op c a b) := vr3c 0x90 (codeIn cmpUTable op) c a b rfl rfl (by decide) (codeIn_lt (by cases op <;> decide) (by decide))
theorem usel (c : Nat) (d : Dst) (a b : Src) : Statement (.usel c d a b) := by
  intro hw
  replace hw : (decide (c < 4) && d.ok && a.ok && b.ok) = true := hw
  simp only [Bool.and_eq_true, decide_eq_true_eq] at hw
  have b1 := Dst_ok_lt hw.1.1.2
  have b2 := Src_ok_lt hw.1.2
  have b3 := Src_ok_lt hw.2
  have b4 := nBit_lt d
  exact one (by unfold encVR; omega)
theorem uaddi (d : Dst) (a : Src) (k : Int) : Statement (.uaddi d a k) := imm 0x92 d a k rfl rfl (by decide)
theorem uandi (d : Dst) (a : Src) (k : Int) : Statement (.uandi d a k) := imm 0x93 d a k rfl rfl (by decide)
theorem uori (d : Dst) (a : Src) (k : Int) : Statement (.uori d a k) := imm 0x94 d a k rfl rfl (by decide)
theorem ushifti (op : ShiftOp) (d : Dst) (a : Src) (n : Nat) : Statement (.ushifti op d a n) := by
  intro hw
  replace hw : (d.ok && a.ok && decide (n < 32)) = true := hw
  simp only [Bool.and_eq_true, decide_eq_true_eq] at hw
  have b1 := Dst_ok_lt hw.1.1
  have b2 := Src_ok_lt hw.1.2
  have b3 : codeIn shiftTable op < 4 := code_lt shiftTable (a := op) (by cases op <;> decide)
  have b4 := nBit_lt d
  exact one (by unfold encVI; omega)
theorem umov (sel : MovSel) (d : Dst) (a : Src) : Statement (.umov sel d a) := by
  intro hw
  replace hw : (movOk sel d a) = true := hw
  have b1 := movOk_lt hw
  have b2 : codeIn [MovSel.mov, .fromc, .toc] sel < 3 := code_lt [MovSel.mov, .fromc, .toc] (a := sel) (by cases sel <;> decide)
  have b3 := nBit_lt d
  exact one (by unfold encVR; omega)
theorem uadd64 (d : Dst) (a b : Nat) : Statement (.uadd64 d a b) := by
  intro hw
  replace hw : (d.pairOk && pairOk a && pairOk b) = true := hw
  simp only [Bool.and_eq_true] at hw
  have b1 := Dst_pairOk_lt hw.1.1
  have b2 := pairOk_lt hw.1.2
  have b3 := pairOk_lt hw.2
  have b4 := nBit_lt d
  exact one (by unfold encVR; omega)
theorem ubr (c : Nat) (sense chk : Bool) (off : Int) : Statement (.ubr c sense chk off) := by
  intro hw
  replace hw : (decide (c < 8) && fits 19 off) = true := hw
  simp only [Bool.and_eq_true, decide_eq_true_eq] at hw
  have b1 := fieldOfInt_lt 19 off
  have b2 := bitOf_lt sense
  have b3 := bitOf_lt chk
  exact one (by unfold encVB; omega)
theorem ujmp (off : Int) : Statement (.ujmp off) := by
  intro hw
  have b1 := fieldOfInt_lt 24 off
  exact one (by unfold encUJ; omega)
theorem ucall (off : Int) : Statement (.ucall off) := by
  intro hw
  have b1 := fieldOfInt_lt 24 off
  exact one (by unfold encUJ; omega)
theorem uret (a : Nat) : Statement (.uret a) := by
  intro hw
  replace hw : (pairOk a) = true := hw
  have b1 := pairOk_lt hw
  exact one (by unfold encVR; omega)
theorem udbnz (d : Dst) (off : Int) : Statement (.udbnz d off) := by
  intro hw
  replace hw : (d.ok && fits 9 off) = true := hw
  simp only [Bool.and_eq_true] at hw
  have b1 := Dst_ok_lt hw.1
  have b2 := fieldOfInt_lt 9 off
  have b3 := nBit_lt d
  exact one (by unfold encVI; omega)
theorem trl (all : Bool) (regs : List Nat) : Statement (.trl all regs) := by
  intro h
  replace h : (decide (regs.length ≤ 3) && regs.all regOk && (!all || regs.isEmpty)) = true := h
  simp only [Bool.and_eq_true, decide_eq_true_eq] at h
  have hr := List.all_eq_true.mp h.1.2
  have hl := h.1.1
  match all, regs with
  | true, _ => exact one (by decide)
  | false, [] => exact one (by decide)
  | false, [x] => have h1 := regOk_lt (hr x (by simp)); exact one (by unfold encVR; omega)
  | false, [x, y] => have h1 := regOk_lt (hr x (by simp)); have h2 := regOk_lt (hr y (by simp)); exact one (by unfold encVR; omega)
  | false, [x, y, z] =>
    have h1 := regOk_lt (hr x (by simp)); have h2 := regOk_lt (hr y (by simp)); have h3 := regOk_lt (hr z (by simp))
    exact one (by unfold encVR; omega)
  | false, x :: y :: z :: u :: rest => simp at hl; omega
theorem nop : Statement (.nop) := fun _ => one (by decide)
theorem yield : Statement (.yield) := fun _ => one (by decide)
theorem halt : Statement (.halt) := fun _ => one (by decide)
theorem trap (code : Nat) : Statement (.trap code) := by
  intro hw
  replace hw : (decide (code < 256)) = true := hw
  simp only [decide_eq_true_eq] at hw
  exact one (by unfold encVI; omega)
theorem eret : Statement (.eret) := fun _ => one (by decide)
theorem barinit (b : Nat) (a : Src) : Statement (.barinit b a) := by
  intro hw
  replace hw : (decide (b < 16) && a.ok) = true := hw
  simp only [Bool.and_eq_true, decide_eq_true_eq] at hw
  have b1 := Src_ok_lt hw.2
  exact one (by unfold encVI; omega)
theorem bararr (d : Dst) (b : Nat) : Statement (.bararr d b) := by
  intro hw
  replace hw : (d.ok && decide (b < 16)) = true := hw
  simp only [Bool.and_eq_true, decide_eq_true_eq] at hw
  have b1 := Dst_ok_lt hw.1
  have b2 := nBit_lt d
  exact one (by unfold encVI; omega)
theorem barwait (b : Nat) (a : Src) : Statement (.barwait b a) := by
  intro hw
  replace hw : (decide (b < 16) && a.ok) = true := hw
  simp only [Bool.and_eq_true, decide_eq_true_eq] at hw
  have b1 := Src_ok_lt hw.2
  exact one (by unfold encVI; omega)
theorem bararw (d : Dst) (b : Nat) : Statement (.bararw d b) := by
  intro hw
  replace hw : (d.ok && decide (b < 16)) = true := hw
  simp only [Bool.and_eq_true, decide_eq_true_eq] at hw
  have b1 := Dst_ok_lt hw.1
  have b2 := nBit_lt d
  exact one (by unfold encVI; omega)
theorem cwait (sc : CwScope) (d : Dst) (a b : Nat) : Statement (.cwait sc d a b) := by
  intro hw
  replace hw : (d.pairOk && pairOk a && pairOk b) = true := hw
  simp only [Bool.and_eq_true] at hw
  have b1 := Dst_pairOk_lt hw.1.1
  have b2 := pairOk_lt hw.1.2
  have b3 := pairOk_lt hw.2
  have b4 : codeIn cwScopeTable sc < 4 := code_lt cwScopeTable (a := sc) (by cases sc <;> decide)
  have b5 := nBit_lt d
  exact one (by unfold encVR; omega)
theorem cwaitt (sc : CwScope) (d : Dst) (a b : Nat) : Statement (.cwaitt sc d a b) := by
  intro hw
  replace hw : (d.pairOk && pairOk a && quadOk b) = true := hw
  simp only [Bool.and_eq_true] at hw
  have b1 := Dst_pairOk_lt hw.1.1
  have b2 := pairOk_lt hw.1.2
  have b3 := quadOk_lt hw.2
  have b4 : codeIn cwScopeTable sc < 4 := code_lt cwScopeTable (a := sc) (by cases sc <;> decide)
  have b5 := nBit_lt d
  exact one (by unfold encVR; omega)
theorem cinc (sc : CiScope) (d : Dst) (a : Nat) (b : Src) : Statement (.cinc sc d a b) := by
  intro hw
  replace hw : (d.pairOk && pairOk a && b.ok) = true := hw
  simp only [Bool.and_eq_true] at hw
  have b1 := Dst_pairOk_lt hw.1.1
  have b2 := pairOk_lt hw.1.2
  have b3 := Src_ok_lt hw.2
  have b4 : codeIn ciScopeTable sc < 4 := code_lt ciScopeTable (a := sc) (by cases sc <;> decide)
  have b5 := nBit_lt d
  exact one (by unfold encVR; omega)
theorem fence (sc : Scope) (tok : Nat) : Statement (.fence sc tok) := by
  intro hw
  replace hw : (fenceScopeOk sc && decide (tok < 4)) = true := hw
  simp only [Bool.and_eq_true, decide_eq_true_eq] at hw
  have b1 : codeIn scopeTable sc < 7 := code_lt scopeTable (a := sc) (by cases sc <;> decide)
  exact one (by unfold encVI; omega)
theorem fwait (tok : Nat) : Statement (.fwait tok) := by
  intro hw
  replace hw : (decide (tok < 4)) = true := hw
  simp only [decide_eq_true_eq] at hw
  exact one (by unfold encVI; omega)
theorem clubar (all : Bool) : Statement (.clubar all) := by
  intro hw
  have b1 := bitOf_lt all
  exact one (by unfold encVI; omega)
theorem srd (d : Dst) (num : Nat) : Statement (.srd d num) := by
  intro hw
  replace hw : (srdDstOk d num) = true := hw
  have b1 := srdDstOk_lt hw
  have b2 := nBit_lt d
  exact one (by unfold encVI; omega)
theorem swr (num : Nat) (a : Src) : Statement (.swr num a) := by
  intro hw
  replace hw : (srWritable num && a.ok) = true := hw
  simp only [Bool.and_eq_true] at hw
  have b1 := srWritable_lt hw.1
  have b2 := Src_ok_lt hw.2
  exact one (by unfold encVI; omega)
theorem cbld (a : Nat) : Statement (.cbld a) := by
  intro hw
  replace hw : (pairOk a) = true := hw
  have b1 := pairOk_lt hw
  exact one (by unfold encVR; omega)
theorem tmshp (code : Nat) : Statement (.tmshp code) := by
  intro hw
  replace hw : (decide (code < 256)) = true := hw
  simp only [decide_eq_true_eq] at hw
  exact one (by unfold encVI; omega)
theorem tmtab (a slot : Nat) : Statement (.tmtab a slot) := by
  intro hw
  replace hw : (pairOk a && decide (1 ≤ slot) && decide (slot ≤ 7)) = true := hw
  simp only [Bool.and_eq_true, decide_eq_true_eq] at hw
  have b1 := pairOk_lt hw.1.1
  exact one (by unfold encVR; omega)
theorem ipf (a : Nat) (b : Src) : Statement (.ipf a b) := by
  intro hw
  replace hw : (pairOk a && b.ok) = true := hw
  simp only [Bool.and_eq_true] at hw
  have b1 := pairOk_lt hw.1
  have b2 := Src_ok_lt hw.2
  exact one (by unfold encVR; omega)
theorem ipin (d : Dst) (a : Nat) (b : Src) : Statement (.ipin d a b) := by
  intro hw
  replace hw : (d.ok && pairOk a && b.ok) = true := hw
  simp only [Bool.and_eq_true] at hw
  have b1 := Dst_ok_lt hw.1.1
  have b2 := pairOk_lt hw.1.2
  have b3 := Src_ok_lt hw.2
  have b4 := nBit_lt d
  exact one (by unfold encVR; omega)
theorem iunpin (a : Nat) (b : Src) : Statement (.iunpin a b) := by
  intro hw
  replace hw : (pairOk a && b.ok) = true := hw
  simp only [Bool.and_eq_true] at hw
  have b1 := pairOk_lt hw.1
  have b2 := Src_ok_lt hw.2
  exact one (by unfold encVR; omega)
theorem cwb (form : CwbForm) (sc : Scope) (a : Nat) (b : Src) : Statement (.cwb form sc a b) := by
  intro hw
  replace hw : (fenceScopeOk sc && pairOk a && b.ok) = true := hw
  simp only [Bool.and_eq_true] at hw
  have b1 := pairOk_lt hw.1.2
  have b2 := Src_ok_lt hw.2
  have b3 : codeIn cwbTable form < 3 := code_lt cwbTable (a := form) (by cases form <;> decide)
  have b4 : codeIn scopeTable sc < 7 := code_lt scopeTable (a := sc) (by cases sc <;> decide)
  exact one (by unfold encVR; omega)
theorem tstat (d : Nat) (ctx : EngCtx) : Statement (.tstat d ctx) := by
  intro hw
  replace hw : (quadOk d) = true := hw
  have b1 := quadOk_lt hw
  have b2 : codeIn ctxTable ctx < 4 := code_lt ctxTable (a := ctx) (by cases ctx <;> decide)
  exact one (by unfold encVR; omega)
theorem mma (zs : Bool) (a : Src) (b slot : Nat) : Statement (.mma zs a b slot) := by
  intro hw
  replace hw : (a.ok && regOk b && decide (slot < 8)) = true := hw
  simp only [Bool.and_eq_true, decide_eq_true_eq] at hw
  have b1 := Src_ok_lt hw.1.1
  have b2 := regOk_lt hw.1.2
  have b3 := bitOf_lt zs
  exact one (by unfold encUE; omega)
theorem accz (mask : Nat) : Statement (.accz mask) := by
  intro hw
  replace hw : (decide (1 ≤ mask) && decide (mask < 16)) = true := hw
  simp only [Bool.and_eq_true, decide_eq_true_eq] at hw
  exact one (by unfold encUE; omega)
theorem drain (col : Bool) (fl : DrainFlags) (a : Src) (slot : Nat) : Statement (.drain col fl a slot) := by
  intro hw
  replace hw : (a.ok && decide (slot < 8)) = true := hw
  simp only [Bool.and_eq_true, decide_eq_true_eq] at hw
  have b1 := Src_ok_lt hw.1
  have b2 := bitOf_lt col
  have b3 := bitOf_lt fl.all
  have b4 := bitOf_lt fl.sm
  have b5 := bitOf_lt fl.z
  exact one (by unfold encUE; omega)
theorem tcopy (pack : Bool) (fl : CopyFlags) (a : Src) : Statement (.tcopy pack fl a) := by
  intro hw
  replace hw : (a.ok) = true := hw
  have b1 := Src_ok_lt hw
  have b2 := bitOf_lt pack
  have b3 := bitOf_lt fl.all
  have b4 := bitOf_lt fl.ver
  have b5 := bitOf_lt fl.cr
  have b6 := bitOf_lt fl.arr
  exact one (by unfold encUE; omega)
theorem tcopyColl (a : Src) : Statement (.tcopyColl a) := by
  intro hw
  replace hw : (a.ok) = true := hw
  have b1 := Src_ok_lt hw
  exact one (by unfold encUE; omega)
theorem dcjob (arr : Bool) (a : Src) : Statement (.dcjob arr a) := by
  intro hw
  replace hw : (a.ok) = true := hw
  have b1 := Src_ok_lt hw
  have b2 := bitOf_lt arr
  exact one (by unfold encUE; omega)
theorem rrot (bwd : Bool) (a b : Src) : Statement (.rrot bwd a b) := by
  intro hw
  replace hw : (a.ok && b.ok) = true := hw
  simp only [Bool.and_eq_true] at hw
  have b1 := Src_ok_lt hw.1
  have b2 := Src_ok_lt hw.2
  have b3 := bitOf_lt bwd
  exact one (by unfold encUE; omega)
theorem xsort (a : Src) : Statement (.xsort a) := by
  intro hw
  replace hw : (a.ok) = true := hw
  have b1 := Src_ok_lt hw
  exact one (by unfold encUE; omega)
theorem prolog (k : Nat) : Statement (.prolog k) := by
  intro hw
  replace hw : (decide (k < 4)) = true := hw
  simp only [decide_eq_true_eq] at hw
  exact one (by unfold encUE; omega)
theorem xput (a b : Nat) : Statement (.xput a b) := by
  intro hw
  replace hw : (quadOk a && quadOk b) = true := hw
  simp only [Bool.and_eq_true] at hw
  have b1 := quadOk_lt hw.1
  have b2 := quadOk_lt hw.2
  exact one (by unfold encUE; omega)
theorem xget (a b : Nat) : Statement (.xget a b) := by
  intro hw
  replace hw : (quadOk a && quadOk b) = true := hw
  simp only [Bool.and_eq_true] at hw
  have b1 := quadOk_lt hw.1
  have b2 := quadOk_lt hw.2
  exact one (by unfold encUE; omega)
theorem xarm (a : Src) (b : Nat) : Statement (.xarm a b) := by
  intro hw
  replace hw : (a.ok && quadOk b) = true := hw
  simp only [Bool.and_eq_true] at hw
  have b1 := Src_ok_lt hw.1
  have b2 := quadOk_lt hw.2
  exact one (by unfold encUE; omega)
theorem xdisarm (b : Src) : Statement (.xdisarm b) := by
  intro hw
  replace hw : (b.ok) = true := hw
  have b1 := Src_ok_lt hw
  exact one (by unfold encUE; omega)
theorem rinv (d : Dst) (a : Src) : Statement (.rinv d a) := by
  intro hw
  replace hw : (d.pairOk && a.ok) = true := hw
  simp only [Bool.and_eq_true] at hw
  have b1 := Dst_pairOk_lt hw.1
  have b2 := Src_ok_lt hw.2
  have b3 := nBit_lt d
  exact one (by unfold encVR; omega)
theorem rinvh (d : Dst) (a : Src) (b : Nat) : Statement (.rinvh d a b) := by
  intro hw
  replace hw : (d.pairOk && a.ok && pairOk b) = true := hw
  simp only [Bool.and_eq_true] at hw
  have b1 := Dst_pairOk_lt hw.1.1
  have b2 := Src_ok_lt hw.1.2
  have b3 := pairOk_lt hw.2
  have b4 := nBit_lt d
  exact one (by unfold encVR; omega)
theorem hwait (trap : Bool) (d : Dst) (a b : Nat) : Statement (.hwait trap d a b) := by
  intro hw
  replace hw : (d.pairOk && pairOk a && pairOk b) = true := hw
  simp only [Bool.and_eq_true] at hw
  have b1 := Dst_pairOk_lt hw.1.1
  have b2 := pairOk_lt hw.1.2
  have b3 := pairOk_lt hw.2
  have b4 := bitOf_lt trap
  have b5 := nBit_lt d
  exact one (by unfold encVR; omega)
theorem hstat (d : Dst) (a : Nat) : Statement (.hstat d a) := by
  intro hw
  replace hw : (d.pairOk && pairOk a) = true := hw
  simp only [Bool.and_eq_true] at hw
  have b1 := Dst_pairOk_lt hw.1
  have b2 := pairOk_lt hw.2
  have b3 := nBit_lt d
  exact one (by unfold encVR; omega)
theorem hfree (a : Nat) : Statement (.hfree a) := by
  intro hw
  replace hw : (pairOk a) = true := hw
  have b1 := pairOk_lt hw
  exact one (by unfold encVR; omega)
theorem iwait (d : Dst) (a b : Src) : Statement (.iwait d a b) := by
  intro hw
  replace hw : (d.pairOk && a.ok && b.ok) = true := hw
  simp only [Bool.and_eq_true] at hw
  have b1 := Dst_pairOk_lt hw.1.1
  have b2 := Src_ok_lt hw.1.2
  have b3 := Src_ok_lt hw.2
  have b4 := nBit_lt d
  exact one (by unfold encVR; omega)
theorem idone (fail : Bool) (a b : Src) : Statement (.idone fail a b) := by
  intro hw
  replace hw : (a.ok && b.ok && (!fail || b == .v 0)) = true := hw
  simp only [Bool.and_eq_true] at hw
  have b1 := Src_ok_lt hw.1.1
  have b2 := Src_ok_lt hw.1.2
  have b3 := bitOf_lt fail
  exact one (by unfold encVR; omega)
theorem wopen (k : Nat) : Statement (.wopen k) := by
  intro hw
  replace hw : (decide (k < 8)) = true := hw
  simp only [decide_eq_true_eq] at hw
  exact one (by unfold encVI; omega)
theorem wclose (k : Nat) : Statement (.wclose k) := by
  intro hw
  replace hw : (decide (k < 8)) = true := hw
  simp only [decide_eq_true_eq] at hw
  exact one (by unfold encVI; omega)
theorem pmerge (d : Dst) (k : Nat) : Statement (.pmerge d k) := by
  intro hw
  replace hw : (d.ok && decide (k < 8)) = true := hw
  simp only [Bool.and_eq_true, decide_eq_true_eq] at hw
  have b1 := Dst_ok_lt hw.1
  have b2 := nBit_lt d
  exact one (by unfold encVI; omega)
theorem pstat (d : Dst) (a : Src) (k : Nat) : Statement (.pstat d a k) := by
  intro hw
  replace hw : (d.quadOk && a.ok && decide (k < 8)) = true := hw
  simp only [Bool.and_eq_true, decide_eq_true_eq] at hw
  have b1 := Dst_quadOk_lt hw.1.1
  have b2 := Src_ok_lt hw.1.2
  have b3 := nBit_lt d
  exact one (by unfold encVI; omega)
theorem ptrick (d : Dst) (a : Src) (k : Nat) : Statement (.ptrick d a k) := by
  intro hw
  replace hw : (d.ok && a.ok && decide (k < 8)) = true := hw
  simp only [Bool.and_eq_true, decide_eq_true_eq] at hw
  have b1 := Dst_ok_lt hw.1.1
  have b2 := Src_ok_lt hw.1.2
  have b3 := nBit_lt d
  exact one (by unfold encVI; omega)
theorem dchk (d : Dst) (k : Nat) : Statement (.dchk d k) := by
  intro hw
  replace hw : (d.pairOk && decide (k < 8)) = true := hw
  simp only [Bool.and_eq_true, decide_eq_true_eq] at hw
  have b1 := Dst_pairOk_lt hw.1
  have b2 := nBit_lt d
  exact one (by unfold encVI; omega)
theorem ulimm (d : Dst) (lit : Word) : Statement (.ulimm d lit) := by
  intro hw
  replace hw : (d.ok) = true := hw
  have b1 := Dst_ok_lt hw
  have b2 := nBit_lt d
  exact two (by unfold encVI; omega) lit.isLt
theorem reservedOpcode (w : Word) : Statement (.reservedOpcode w) := fun _ => one w.isLt
theorem bind (q : Nat) : Statement (.bind q) := step rfl
theorem engineFeTimeout (t : Nat) : Statement (.engineFeTimeout t) := step rfl
theorem propagate (wid : Nat) : Statement (.propagate wid) := step rfl
theorem refresh (pt : Point) (sp : Space) (unit : Nat) (tag : Option KTag) (away : List Byte) (drop : Bool) : Statement (.refresh pt sp unit tag away drop) := step rfl
theorem missQueueEnter (w : FRef) : Statement (.missQueueEnter w) := step rfl
theorem pageWalk (core idx : Nat) : Statement (.pageWalk core idx) := step rfl
theorem longLatencyComplete (id : Nat) : Statement (.longLatencyComplete id) := step rfl
theorem portSchedule (core quad pick : Nat) : Statement (.portSchedule core quad pick) := step rfl
theorem groupActivate (core quad : Nat) : Statement (.groupActivate core quad) := step rfl
theorem asyncTrap (w : FRef) : Statement (.asyncTrap w) := step rfl
theorem fetimeout (w : FRef) : Statement (.fetimeout w) := step rfl
theorem fullEmptyTake (w : FRef) : Statement (.fullEmptyTake w) := step rfl
theorem cwaitComplete (w : FRef) : Statement (.cwaitComplete w) := step rfl
theorem cwaittBound (w : FRef) : Statement (.cwaittBound w) := step rfl
theorem fwaitComplete (w : FRef) : Statement (.fwaitComplete w) := step rfl
theorem wopenProceed (w : FRef) : Statement (.wopenProceed w) := step rfl
theorem hwaitComplete (w : FRef) : Statement (.hwaitComplete w) := step rfl
theorem iwaitTake (w : FRef) : Statement (.iwaitTake w) := step rfl
theorem engineCommandEnter (w : FRef) : Statement (.engineCommandEnter w) := step rfl
theorem mmaOperation (t work : Nat) : Statement (.mmaOperation t work) := step rfl
theorem acczOperation (t : Nat) : Statement (.acczOperation t) := step rfl
theorem drainOperation (t work : Nat) : Statement (.drainOperation t work) := step rfl
theorem tcopyOperation (t work : Nat) : Statement (.tcopyOperation t work) := step rfl
theorem packOperation (t work : Nat) : Statement (.packOperation t work) := step rfl
theorem prologOperation (t work : Nat) : Statement (.prologOperation t work) := step rfl
theorem dcmpJob (t work : Nat) : Statement (.dcmpJob t work) := step rfl
theorem ringRotation (clu work : Nat) : Statement (.ringRotation clu work) := step rfl
theorem xputOperation (t : Nat) : Statement (.xputOperation t) := step rfl
theorem xgetOperation (t : Nat) : Statement (.xgetOperation t) := step rfl
theorem collective (t work : Nat) (w : CollMsg) : Statement (.collective t work w) := step rfl
theorem xsortOperation (t work : Nat) : Statement (.xsortOperation t work) := step rfl
theorem triggeredSend (t n : Nat) : Statement (.triggeredSend t n) := step rfl
theorem engineRetire (t : Nat) (k : EngCtx) : Statement (.engineRetire t k) := step rfl
theorem prologue (t : Nat) : Statement (.prologue t) := step rfl
theorem groupStart (clu : Nat) : Statement (.groupStart clu) := step rfl
theorem launchAdmit (l : Nat) (place : List (List Origin)) : Statement (.launchAdmit l place) := step rfl
theorem clusterStart (l : Nat) (place : List Origin) : Statement (.clusterStart l place) := step rfl
theorem allocationRelease (clu : Nat) : Statement (.allocationRelease clu) := step rfl
theorem noticeExpiry (clu : Nat) : Statement (.noticeExpiry clu) := step rfl
theorem teamSave (clu : Nat) : Statement (.teamSave clu) := step rfl
theorem teamRestore (clu : Nat) (place : List (List Origin)) : Statement (.teamRestore clu place) := step rfl
theorem fabricAccessArrival (r : FabReq) : Statement (.fabricAccessArrival r) := step rfl
theorem fabricAnswer (a : FabAns) : Statement (.fabricAnswer a) := step rfl
theorem requestArrival (r : XferReq) : Statement (.requestArrival r) := step rfl
theorem packetArrival (p : Packet) : Statement (.packetArrival p) := step rfl
theorem tokenGrant (die part : Nat) : Statement (.tokenGrant die part) := step rfl
theorem tokenExpiry (token : Nat) : Statement (.tokenExpiry token) := step rfl
theorem transferAck (a : XferAck) : Statement (.transferAck a) := step rfl
theorem spindleSend (rgn die n : Nat) : Statement (.spindleSend rgn die n) := step rfl
theorem driftMessageArrival (src xid : Nat) : Statement (.driftMessageArrival src xid) := step rfl
theorem battenFold (rgn frag : Nat) : Statement (.battenFold rgn frag) := step rfl
theorem mergePass (rgn : Nat) : Statement (.mergePass rgn) := step rfl
theorem islandSilent (rgn frag island : Nat) : Statement (.islandSilent rgn frag island) := step rfl
theorem invocationArrival (i : Invocation) : Statement (.invocationArrival i) := step rfl
theorem invocationPlace (part idx : Nat) : Statement (.invocationPlace part idx) := step rfl
theorem rinvhForward (part idx : Nat) : Statement (.rinvhForward part idx) := step rfl
theorem refreshStart (die : Nat) : Statement (.refreshStart die) := step rfl
theorem refreshEnd (die : Nat) : Statement (.refreshEnd die) := step rfl
theorem throttleCheck (die : Nat) : Statement (.throttleCheck die) := step rfl
theorem scrub (unit : Nat) : Statement (.scrub unit) := step rfl
theorem flitSend (port : Nat) (payload : List Byte) : Statement (.flitSend port payload) := step rfl
theorem flitReceive (port : Nat) (phase : Bool) (counter : Nat) (cipher : List Byte) (tag : BitVec 64) : Statement (.flitReceive port phase counter cipher tag) := step rfl
theorem keyInstall (use : KeyUse) (session : Option (List Byte)) : Statement (.keyInstall use session) := step rfl
theorem alarmDetect (bits : BitVec 4) : Statement (.alarmDetect bits) := step rfl
theorem coldReset (failed : Nat) (alpol : Bool) (device : BitVec 13) (links : BitVec 2) (offs phases : List Nat) (boot firmware fuses : List Byte) : Statement (.coldReset failed alpol device links offs phases boot firmware fuses) := step rfl
theorem pcieLinkChange (link : Nat) (up : Bool) : Statement (.pcieLinkChange link up) := step rfl
theorem getVersion (ch : Nat) : Statement (.getVersion ch) := step rfl
theorem getCapabilities (ch : Nat) : Statement (.getCapabilities ch) := step rfl
theorem negotiateAlgorithms (ch : Nat) : Statement (.negotiateAlgorithms ch) := step rfl
theorem getDigests (ch : Nat) : Statement (.getDigests ch) := step rfl
theorem getCertificate (ch slot : Nat) : Statement (.getCertificate ch slot) := step rfl
theorem challenge (ch slot : Nat) : Statement (.challenge ch slot) := step rfl
theorem getMeasurements (ch index : Nat) (signed : Bool) : Statement (.getMeasurements ch index signed) := step rfl
theorem keyExchange (ch slot : Nat) : Statement (.keyExchange ch slot) := step rfl
theorem finish (ch : Nat) (verified : Bool) : Statement (.finish ch verified) := step rfl
theorem endSession (ch : Nat) : Statement (.endSession ch) := step rfl
theorem measExtend (ch k : Nat) (digest : List Byte) : Statement (.measExtend ch k digest) := step rfl
theorem unsupportedRequest (ch code : Nat) : Statement (.unsupportedRequest ch code) := step rfl
theorem queueEnable (q : Nat) : Statement (.queueEnable q) := step rfl
theorem queueDisable (q : Nat) : Statement (.queueDisable q) := step rfl
theorem tail (q : Nat) (v : BitVec 16) : Statement (.tail q v) := step rfl
theorem chead (q : Nat) (v : BitVec 16) : Statement (.chead q v) := step rfl
theorem alarmClear (bits : BitVec 4) : Statement (.alarmClear bits) := step rfl
theorem registerWrite (off : Nat) (v : DWord) : Statement (.registerWrite off v) := step rfl
theorem queueFetch (q : Nat) : Statement (.queueFetch q) := step rfl
theorem launch (q : Nat) : Statement (.launch q) := step rfl
theorem wait (q : Nat) : Statement (.wait q) := step rfl
theorem queueWaitComplete (q : Nat) : Statement (.queueWaitComplete q) := step rfl
theorem queueWaitTimeout (q : Nat) : Statement (.queueWaitTimeout q) := step rfl
theorem signal (q : Nat) : Statement (.signal q) := step rfl
theorem copy (q : Nat) : Statement (.copy q) := step rfl
theorem queueCopyComplete (q work : Nat) : Statement (.queueCopyComplete q work) := step rfl
theorem xlinv (q : Nat) : Statement (.xlinv q) := step rfl
theorem partcfg (q : Nat) : Statement (.partcfg q) := step rfl
theorem ctxcfg (q : Nat) : Statement (.ctxcfg q) := step rfl
theorem preempt (q : Nat) : Statement (.preempt q) := step rfl
theorem unbind (q : Nat) : Statement (.unbind q) := step rfl
theorem member (q : Nat) : Statement (.member q) := step rfl
theorem pause (q : Nat) : Statement (.pause q) := step rfl
theorem resume (q : Nat) : Statement (.resume q) := step rfl
theorem setthr (q : Nat) : Statement (.setthr q) := step rfl
theorem completionPost (q : Nat) : Statement (.completionPost q) := step rfl
theorem softError (e : SoftErr) : Statement (.softError e) := step rfl
theorem throttleCondition (die : Nat) (thermal power : Bool) : Statement (.throttleCondition die thermal power) := step rfl
theorem keySlotLoad (slot part : Nat) (key : Key) : Statement (.keySlotLoad slot part key) := step rfl

end Sys2Proof.Laws.WordCode
end

