-- ==== Sys2Proof/Laws/Places.lean ====
section
/-!
SUPPORT. What checking every access of an instruction before any of them (R19) answers: the access itself when all are placed, the trap of
the lowest failing lane otherwise (R23).
-/
set_option Elab.async false
namespace Sys2Proof.Machine

theorem zip_map_map {α β γ : Type} (f : α → β) (g : α × β → γ) (l : List α) : (l.zip (l.map f)).map g = l.map (fun q => g (q, f q)) := by
  induction l with
  | nil => rfl
  | cons x l ih => simp [ih]

/-- What passes passes, and nothing of it fails. -/
@[simp] theorem passing_ok (ps : List (Req × Place)) : passing (ps.map (fun p => (p.1, .ok p.2))) = ps := by
  simp [passing, List.filterMap_map]

@[simp] theorem failures_ok (ps : List (Req × Place)) : failures (ps.map (fun p => (p.1, .ok p.2))) = [] := by
  simp [failures, List.filterMap_map]

/-- Where nothing fails, everything passes. -/
theorem passing_all : ∀ {rs : List (Req × Except (Nat × Nat) Place)}, failures rs = [] → rs = (passing rs).map (fun q => (q.1, .ok q.2))
  | [], _ => rfl
  | (q, .ok p) :: rs, h => by
    have i := passing_all (rs := rs) (by simpa [failures] using h)
    simp only [passing, List.filterMap_cons, List.map_cons] at i ⊢
    rw [← i]
  | (q, .error e) :: rs, h => by simp [failures] at h

/-- All placed: the access runs over the places. -/
theorem withPlaces_placed {s : State} {c : Ctx} {scr : Bool} {cls : Cls} {reads : Bool} {qs : List Req} {ps : List (Req × Place)} {m : Mach}
    (h : Placed s c scr cls reads qs ps m) (go : List (Req × Place) → Mach → Res) : withPlaces s.cfg s.m c scr cls reads qs go = go ps m := by
  have hf := h.fine
  have ho : (if reads then ownPlaces s.cfg s.m c.la.p cls (passing (checked s c scr cls qs))
      else ((passing (checked s c scr cls qs)).map (fun q => (q.1, .ok q.2)), s.m)) = owned s c scr cls reads qs := by
    unfold owned
    split
    · rfl
    · rw [← passing_all hf]
  have hs : (reads && readsPoison (owned s c scr cls reads qs).2 (s.cfg.part? c.la.p) ps) = false := by
    cases reads with
    | false => rfl
    | true => simpa using h.sound rfl
  simp only [withPlaces, h.known, List.isEmpty_nil, Bool.not_true, zip_map_map]
  rw [show qs.map (fun q => (q, checkReq s.cfg s.m c cls (reqTarget s.m c.tm scr cls.writes q))) = checked s c scr cls qs from rfl, hf, ho, h.places]
  simp only [failures_ok, passing_ok, List.isEmpty_nil, Bool.not_true, h.awake, hs, h.machine]
  rfl

/-- Some request fails: the trap of the first of them, with every failing lane (R22, R23); the machine is unchanged. -/
theorem withPlaces_bad {s : State} {c : Ctx} {scr : Bool} {cls : Cls} {reads : Bool} {qs : List Req} {b : Req × Nat × Nat} {bs : List (Req × Nat × Nat)}
    (hk : s.m.misses c (qs.map (reqTarget s.m c.tm scr cls.writes)) = []) (hb : badReqs s c scr cls qs = b :: bs)
    (go : List (Req × Place) → Mach → Res) :
    withPlaces s.cfg s.m c scr cls reads qs go =
      .trap s.m b.2.1 b.2.2 (BitVec.ofNat 64 b.1.rep) (maskOf ((b :: bs).map (fun x => x.1.lane))) := by
  simp only [withPlaces, hk, List.isEmpty_nil, Bool.not_true, zip_map_map]
  rw [show qs.map (fun q => (q, checkReq s.cfg s.m c cls (reqTarget s.m c.tm scr cls.writes q))) = checked s c scr cls qs from rfl,
    show failures (checked s c scr cls qs) = b :: bs from hb]
  rfl

end Sys2Proof.Machine
end

