-- ==== Sys2Proof/Laws/State.lean ====
section
/-! SUPPORT. What each update of a record or a store leaves and sets, field by field, so that no proof unfolds the update. -/
set_option Elab.async false
namespace Sys2Proof.Machine

variable (m : Mach)

/-! ### `Mach.updLaunch` -/

@[simp] theorem Mach.updLaunch_cyc (l : Nat) (f : Launch → Launch) : (m.updLaunch l f).cyc = m.cyc := rfl
@[simp] theorem Mach.updLaunch_dieOff (l : Nat) (f : Launch → Launch) : (m.updLaunch l f).dieOff = m.dieOff := rfl
@[simp] theorem Mach.updLaunch_wsPhase (l : Nat) (f : Launch → Launch) : (m.updLaunch l f).wsPhase = m.wsPhase := rfl
@[simp] theorem Mach.updLaunch_agenda (l : Nat) (f : Launch → Launch) : (m.updLaunch l f).agenda = m.agenda := rfl
@[simp] theorem Mach.updLaunch_focus (l : Nat) (f : Launch → Launch) : (m.updLaunch l f).focus = m.focus := rfl
@[simp] theorem Mach.updLaunch_free (l : Nat) (f : Launch → Launch) : (m.updLaunch l f).free = m.free := rfl
@[simp] theorem Mach.updLaunch_fresh (l : Nat) (f : Launch → Launch) : (m.updLaunch l f).fresh = m.fresh := rfl
@[simp] theorem Mach.updLaunch_round (l : Nat) (f : Launch → Launch) : (m.updLaunch l f).round = m.round := rfl
@[simp] theorem Mach.updLaunch_mem (l : Nat) (f : Launch → Launch) : (m.updLaunch l f).mem = m.mem := rfl
@[simp] theorem Mach.updLaunch_tags (l : Nat) (f : Launch → Launch) : (m.updLaunch l f).tags = m.tags := rfl
@[simp] theorem Mach.updLaunch_scr (l : Nat) (f : Launch → Launch) : (m.updLaunch l f).scr = m.scr := rfl
@[simp] theorem Mach.updLaunch_gran (l : Nat) (f : Launch → Launch) : (m.updLaunch l f).gran = m.gran := rfl
@[simp] theorem Mach.updLaunch_regs (l : Nat) (f : Launch → Launch) : (m.updLaunch l f).regs = m.regs := rfl
@[simp] theorem Mach.updLaunch_lats (l : Nat) (f : Launch → Launch) : (m.updLaunch l f).lats = m.lats := rfl
@[simp] theorem Mach.updLaunch_acc (l : Nat) (f : Launch → Launch) : (m.updLaunch l f).acc = m.acc := rfl
@[simp] theorem Mach.updLaunch_scale (l : Nat) (f : Launch → Launch) : (m.updLaunch l f).scale = m.scale := rfl
@[simp] theorem Mach.updLaunch_gens (l : Nat) (f : Launch → Launch) : (m.updLaunch l f).gens = m.gens := rfl
@[simp] theorem Mach.updLaunch_hgens (l : Nat) (f : Launch → Launch) : (m.updLaunch l f).hgens = m.hgens := rfl
@[simp] theorem Mach.updLaunch_poison (l : Nat) (f : Launch → Launch) : (m.updLaunch l f).poison = m.poison := rfl
@[simp] theorem Mach.updLaunch_regErr (l : Nat) (f : Launch → Launch) : (m.updLaunch l f).regErr = m.regErr := rfl
@[simp] theorem Mach.updLaunch_latErr (l : Nat) (f : Launch → Launch) : (m.updLaunch l f).latErr = m.latErr := rfl
@[simp] theorem Mach.updLaunch_accErr (l : Nat) (f : Launch → Launch) : (m.updLaunch l f).accErr = m.accErr := rfl
@[simp] theorem Mach.updLaunch_scaleErr (l : Nat) (f : Launch → Launch) : (m.updLaunch l f).scaleErr = m.scaleErr := rfl
@[simp] theorem Mach.updLaunch_bufs (l : Nat) (f : Launch → Launch) : (m.updLaunch l f).bufs = m.bufs := rfl
@[simp] theorem Mach.updLaunch_copies (l : Nat) (f : Launch → Launch) : (m.updLaunch l f).copies = m.copies := rfl
@[simp] theorem Mach.updLaunch_blocks (l : Nat) (f : Launch → Launch) : (m.updLaunch l f).blocks = m.blocks := rfl
@[simp] theorem Mach.updLaunch_marks (l : Nat) (f : Launch → Launch) : (m.updLaunch l f).marks = m.marks := rfl
@[simp] theorem Mach.updLaunch_hist (l : Nat) (f : Launch → Launch) : (m.updLaunch l f).hist = m.hist := rfl
@[simp] theorem Mach.updLaunch_away (l : Nat) (f : Launch → Launch) : (m.updLaunch l f).away = m.away := rfl
@[simp] theorem Mach.updLaunch_tlb (l : Nat) (f : Launch → Launch) : (m.updLaunch l f).tlb = m.tlb := rfl
@[simp] theorem Mach.updLaunch_missq (l : Nat) (f : Launch → Launch) : (m.updLaunch l f).missq = m.missq := rfl
@[simp] theorem Mach.updLaunch_icache (l : Nat) (f : Launch → Launch) : (m.updLaunch l f).icache = m.icache := rfl
@[simp] theorem Mach.updLaunch_pcache (l : Nat) (f : Launch → Launch) : (m.updLaunch l f).pcache = m.pcache := rfl
@[simp] theorem Mach.updLaunch_ways (l : Nat) (f : Launch → Launch) : (m.updLaunch l f).ways = m.ways := rfl
@[simp] theorem Mach.updLaunch_delayed (l : Nat) (f : Launch → Launch) : (m.updLaunch l f).delayed = m.delayed := rfl
@[simp] theorem Mach.updLaunch_launches (l : Nat) (f : Launch → Launch) : (m.updLaunch l f).launches = m.launches.map (fun x => if x.l = l then f x else x) := rfl
@[simp] theorem Mach.updLaunch_clusters (l : Nat) (f : Launch → Launch) : (m.updLaunch l f).clusters = m.clusters := rfl
@[simp] theorem Mach.updLaunch_teams (l : Nat) (f : Launch → Launch) : (m.updLaunch l f).teams = m.teams := rfl
@[simp] theorem Mach.updLaunch_groups (l : Nat) (f : Launch → Launch) : (m.updLaunch l f).groups = m.groups := rfl
@[simp] theorem Mach.updLaunch_fibres (l : Nat) (f : Launch → Launch) : (m.updLaunch l f).fibres = m.fibres := rfl
@[simp] theorem Mach.updLaunch_outst (l : Nat) (f : Launch → Launch) : (m.updLaunch l f).outst = m.outst := rfl
@[simp] theorem Mach.updLaunch_ports (l : Nat) (f : Launch → Launch) : (m.updLaunch l f).ports = m.ports := rfl
@[simp] theorem Mach.updLaunch_pairs (l : Nat) (f : Launch → Launch) : (m.updLaunch l f).pairs = m.pairs := rfl
@[simp] theorem Mach.updLaunch_lastq (l : Nat) (f : Launch → Launch) : (m.updLaunch l f).lastq = m.lastq := rfl
@[simp] theorem Mach.updLaunch_ops (l : Nat) (f : Launch → Launch) : (m.updLaunch l f).ops = m.ops := rfl
@[simp] theorem Mach.updLaunch_rings (l : Nat) (f : Launch → Launch) : (m.updLaunch l f).rings = m.rings := rfl
@[simp] theorem Mach.updLaunch_colls (l : Nat) (f : Launch → Launch) : (m.updLaunch l f).colls = m.colls := rfl
@[simp] theorem Mach.updLaunch_net (l : Nat) (f : Launch → Launch) : (m.updLaunch l f).net = m.net := rfl
@[simp] theorem Mach.updLaunch_fabPend (l : Nat) (f : Launch → Launch) : (m.updLaunch l f).fabPend = m.fabPend := rfl
@[simp] theorem Mach.updLaunch_vows (l : Nat) (f : Launch → Launch) : (m.updLaunch l f).vows = m.vows := rfl
@[simp] theorem Mach.updLaunch_hreqs (l : Nat) (f : Launch → Launch) : (m.updLaunch l f).hreqs = m.hreqs := rfl
@[simp] theorem Mach.updLaunch_tokens (l : Nat) (f : Launch → Launch) : (m.updLaunch l f).tokens = m.tokens := rfl
@[simp] theorem Mach.updLaunch_prefixed (l : Nat) (f : Launch → Launch) : (m.updLaunch l f).prefixed = m.prefixed := rfl
@[simp] theorem Mach.updLaunch_late (l : Nat) (f : Launch → Launch) : (m.updLaunch l f).late = m.late := rfl
@[simp] theorem Mach.updLaunch_inb (l : Nat) (f : Launch → Launch) : (m.updLaunch l f).inb = m.inb := rfl
@[simp] theorem Mach.updLaunch_serves (l : Nat) (f : Launch → Launch) : (m.updLaunch l f).serves = m.serves := rfl
@[simp] theorem Mach.updLaunch_parked (l : Nat) (f : Launch → Launch) : (m.updLaunch l f).parked = m.parked := rfl
@[simp] theorem Mach.updLaunch_hents (l : Nat) (f : Launch → Launch) : (m.updLaunch l f).hents = m.hents := rfl
@[simp] theorem Mach.updLaunch_invq (l : Nat) (f : Launch → Launch) : (m.updLaunch l f).invq = m.invq := rfl
@[simp] theorem Mach.updLaunch_regions (l : Nat) (f : Launch → Launch) : (m.updLaunch l f).regions = m.regions := rfl
@[simp] theorem Mach.updLaunch_driftSent (l : Nat) (f : Launch → Launch) : (m.updLaunch l f).driftSent = m.driftSent := rfl
@[simp] theorem Mach.updLaunch_snaps (l : Nat) (f : Launch → Launch) : (m.updLaunch l f).snaps = m.snaps := rfl
@[simp] theorem Mach.updLaunch_cycSnap (l : Nat) (f : Launch → Launch) : (m.updLaunch l f).cycSnap = m.cycSnap := rfl
@[simp] theorem Mach.updLaunch_queues (l : Nat) (f : Launch → Launch) : (m.updLaunch l f).queues = m.queues := rfl
@[simp] theorem Mach.updLaunch_dev (l : Nat) (f : Launch → Launch) : (m.updLaunch l f).dev = m.dev := rfl

/-! ### `Mach.updCluster` -/

@[simp] theorem Mach.updCluster_cyc (c : Nat) (f : Cluster → Cluster) : (m.updCluster c f).cyc = m.cyc := rfl
@[simp] theorem Mach.updCluster_dieOff (c : Nat) (f : Cluster → Cluster) : (m.updCluster c f).dieOff = m.dieOff := rfl
@[simp] theorem Mach.updCluster_wsPhase (c : Nat) (f : Cluster → Cluster) : (m.updCluster c f).wsPhase = m.wsPhase := rfl
@[simp] theorem Mach.updCluster_agenda (c : Nat) (f : Cluster → Cluster) : (m.updCluster c f).agenda = m.agenda := rfl
@[simp] theorem Mach.updCluster_focus (c : Nat) (f : Cluster → Cluster) : (m.updCluster c f).focus = m.focus := rfl
@[simp] theorem Mach.updCluster_free (c : Nat) (f : Cluster → Cluster) : (m.updCluster c f).free = m.free := rfl
@[simp] theorem Mach.updCluster_fresh (c : Nat) (f : Cluster → Cluster) : (m.updCluster c f).fresh = m.fresh := rfl
@[simp] theorem Mach.updCluster_round (c : Nat) (f : Cluster → Cluster) : (m.updCluster c f).round = m.round := rfl
@[simp] theorem Mach.updCluster_mem (c : Nat) (f : Cluster → Cluster) : (m.updCluster c f).mem = m.mem := rfl
@[simp] theorem Mach.updCluster_tags (c : Nat) (f : Cluster → Cluster) : (m.updCluster c f).tags = m.tags := rfl
@[simp] theorem Mach.updCluster_scr (c : Nat) (f : Cluster → Cluster) : (m.updCluster c f).scr = m.scr := rfl
@[simp] theorem Mach.updCluster_gran (c : Nat) (f : Cluster → Cluster) : (m.updCluster c f).gran = m.gran := rfl
@[simp] theorem Mach.updCluster_regs (c : Nat) (f : Cluster → Cluster) : (m.updCluster c f).regs = m.regs := rfl
@[simp] theorem Mach.updCluster_lats (c : Nat) (f : Cluster → Cluster) : (m.updCluster c f).lats = m.lats := rfl
@[simp] theorem Mach.updCluster_acc (c : Nat) (f : Cluster → Cluster) : (m.updCluster c f).acc = m.acc := rfl
@[simp] theorem Mach.updCluster_scale (c : Nat) (f : Cluster → Cluster) : (m.updCluster c f).scale = m.scale := rfl
@[simp] theorem Mach.updCluster_gens (c : Nat) (f : Cluster → Cluster) : (m.updCluster c f).gens = m.gens := rfl
@[simp] theorem Mach.updCluster_hgens (c : Nat) (f : Cluster → Cluster) : (m.updCluster c f).hgens = m.hgens := rfl
@[simp] theorem Mach.updCluster_poison (c : Nat) (f : Cluster → Cluster) : (m.updCluster c f).poison = m.poison := rfl
@[simp] theorem Mach.updCluster_regErr (c : Nat) (f : Cluster → Cluster) : (m.updCluster c f).regErr = m.regErr := rfl
@[simp] theorem Mach.updCluster_latErr (c : Nat) (f : Cluster → Cluster) : (m.updCluster c f).latErr = m.latErr := rfl
@[simp] theorem Mach.updCluster_accErr (c : Nat) (f : Cluster → Cluster) : (m.updCluster c f).accErr = m.accErr := rfl
@[simp] theorem Mach.updCluster_scaleErr (c : Nat) (f : Cluster → Cluster) : (m.updCluster c f).scaleErr = m.scaleErr := rfl
@[simp] theorem Mach.updCluster_bufs (c : Nat) (f : Cluster → Cluster) : (m.updCluster c f).bufs = m.bufs := rfl
@[simp] theorem Mach.updCluster_copies (c : Nat) (f : Cluster → Cluster) : (m.updCluster c f).copies = m.copies := rfl
@[simp] theorem Mach.updCluster_blocks (c : Nat) (f : Cluster → Cluster) : (m.updCluster c f).blocks = m.blocks := rfl
@[simp] theorem Mach.updCluster_marks (c : Nat) (f : Cluster → Cluster) : (m.updCluster c f).marks = m.marks := rfl
@[simp] theorem Mach.updCluster_hist (c : Nat) (f : Cluster → Cluster) : (m.updCluster c f).hist = m.hist := rfl
@[simp] theorem Mach.updCluster_away (c : Nat) (f : Cluster → Cluster) : (m.updCluster c f).away = m.away := rfl
@[simp] theorem Mach.updCluster_tlb (c : Nat) (f : Cluster → Cluster) : (m.updCluster c f).tlb = m.tlb := rfl
@[simp] theorem Mach.updCluster_missq (c : Nat) (f : Cluster → Cluster) : (m.updCluster c f).missq = m.missq := rfl
@[simp] theorem Mach.updCluster_icache (c : Nat) (f : Cluster → Cluster) : (m.updCluster c f).icache = m.icache := rfl
@[simp] theorem Mach.updCluster_pcache (c : Nat) (f : Cluster → Cluster) : (m.updCluster c f).pcache = m.pcache := rfl
@[simp] theorem Mach.updCluster_ways (c : Nat) (f : Cluster → Cluster) : (m.updCluster c f).ways = m.ways := rfl
@[simp] theorem Mach.updCluster_delayed (c : Nat) (f : Cluster → Cluster) : (m.updCluster c f).delayed = m.delayed := rfl
@[simp] theorem Mach.updCluster_launches (c : Nat) (f : Cluster → Cluster) : (m.updCluster c f).launches = m.launches := rfl
@[simp] theorem Mach.updCluster_clusters (c : Nat) (f : Cluster → Cluster) : (m.updCluster c f).clusters = m.clusters.map (fun x => if x.c = c then f x else x) := rfl
@[simp] theorem Mach.updCluster_teams (c : Nat) (f : Cluster → Cluster) : (m.updCluster c f).teams = m.teams := rfl
@[simp] theorem Mach.updCluster_groups (c : Nat) (f : Cluster → Cluster) : (m.updCluster c f).groups = m.groups := rfl
@[simp] theorem Mach.updCluster_fibres (c : Nat) (f : Cluster → Cluster) : (m.updCluster c f).fibres = m.fibres := rfl
@[simp] theorem Mach.updCluster_outst (c : Nat) (f : Cluster → Cluster) : (m.updCluster c f).outst = m.outst := rfl
@[simp] theorem Mach.updCluster_ports (c : Nat) (f : Cluster → Cluster) : (m.updCluster c f).ports = m.ports := rfl
@[simp] theorem Mach.updCluster_pairs (c : Nat) (f : Cluster → Cluster) : (m.updCluster c f).pairs = m.pairs := rfl
@[simp] theorem Mach.updCluster_lastq (c : Nat) (f : Cluster → Cluster) : (m.updCluster c f).lastq = m.lastq := rfl
@[simp] theorem Mach.updCluster_ops (c : Nat) (f : Cluster → Cluster) : (m.updCluster c f).ops = m.ops := rfl
@[simp] theorem Mach.updCluster_rings (c : Nat) (f : Cluster → Cluster) : (m.updCluster c f).rings = m.rings := rfl
@[simp] theorem Mach.updCluster_colls (c : Nat) (f : Cluster → Cluster) : (m.updCluster c f).colls = m.colls := rfl
@[simp] theorem Mach.updCluster_net (c : Nat) (f : Cluster → Cluster) : (m.updCluster c f).net = m.net := rfl
@[simp] theorem Mach.updCluster_fabPend (c : Nat) (f : Cluster → Cluster) : (m.updCluster c f).fabPend = m.fabPend := rfl
@[simp] theorem Mach.updCluster_vows (c : Nat) (f : Cluster → Cluster) : (m.updCluster c f).vows = m.vows := rfl
@[simp] theorem Mach.updCluster_hreqs (c : Nat) (f : Cluster → Cluster) : (m.updCluster c f).hreqs = m.hreqs := rfl
@[simp] theorem Mach.updCluster_tokens (c : Nat) (f : Cluster → Cluster) : (m.updCluster c f).tokens = m.tokens := rfl
@[simp] theorem Mach.updCluster_prefixed (c : Nat) (f : Cluster → Cluster) : (m.updCluster c f).prefixed = m.prefixed := rfl
@[simp] theorem Mach.updCluster_late (c : Nat) (f : Cluster → Cluster) : (m.updCluster c f).late = m.late := rfl
@[simp] theorem Mach.updCluster_inb (c : Nat) (f : Cluster → Cluster) : (m.updCluster c f).inb = m.inb := rfl
@[simp] theorem Mach.updCluster_serves (c : Nat) (f : Cluster → Cluster) : (m.updCluster c f).serves = m.serves := rfl
@[simp] theorem Mach.updCluster_parked (c : Nat) (f : Cluster → Cluster) : (m.updCluster c f).parked = m.parked := rfl
@[simp] theorem Mach.updCluster_hents (c : Nat) (f : Cluster → Cluster) : (m.updCluster c f).hents = m.hents := rfl
@[simp] theorem Mach.updCluster_invq (c : Nat) (f : Cluster → Cluster) : (m.updCluster c f).invq = m.invq := rfl
@[simp] theorem Mach.updCluster_regions (c : Nat) (f : Cluster → Cluster) : (m.updCluster c f).regions = m.regions := rfl
@[simp] theorem Mach.updCluster_driftSent (c : Nat) (f : Cluster → Cluster) : (m.updCluster c f).driftSent = m.driftSent := rfl
@[simp] theorem Mach.updCluster_snaps (c : Nat) (f : Cluster → Cluster) : (m.updCluster c f).snaps = m.snaps := rfl
@[simp] theorem Mach.updCluster_cycSnap (c : Nat) (f : Cluster → Cluster) : (m.updCluster c f).cycSnap = m.cycSnap := rfl
@[simp] theorem Mach.updCluster_queues (c : Nat) (f : Cluster → Cluster) : (m.updCluster c f).queues = m.queues := rfl
@[simp] theorem Mach.updCluster_dev (c : Nat) (f : Cluster → Cluster) : (m.updCluster c f).dev = m.dev := rfl

/-! ### `Mach.updTeam` -/

@[simp] theorem Mach.updTeam_cyc (t : Nat) (f : Team → Team) : (m.updTeam t f).cyc = m.cyc := rfl
@[simp] theorem Mach.updTeam_dieOff (t : Nat) (f : Team → Team) : (m.updTeam t f).dieOff = m.dieOff := rfl
@[simp] theorem Mach.updTeam_wsPhase (t : Nat) (f : Team → Team) : (m.updTeam t f).wsPhase = m.wsPhase := rfl
@[simp] theorem Mach.updTeam_agenda (t : Nat) (f : Team → Team) : (m.updTeam t f).agenda = m.agenda := rfl
@[simp] theorem Mach.updTeam_focus (t : Nat) (f : Team → Team) : (m.updTeam t f).focus = m.focus := rfl
@[simp] theorem Mach.updTeam_free (t : Nat) (f : Team → Team) : (m.updTeam t f).free = m.free := rfl
@[simp] theorem Mach.updTeam_fresh (t : Nat) (f : Team → Team) : (m.updTeam t f).fresh = m.fresh := rfl
@[simp] theorem Mach.updTeam_round (t : Nat) (f : Team → Team) : (m.updTeam t f).round = m.round := rfl
@[simp] theorem Mach.updTeam_mem (t : Nat) (f : Team → Team) : (m.updTeam t f).mem = m.mem := rfl
@[simp] theorem Mach.updTeam_tags (t : Nat) (f : Team → Team) : (m.updTeam t f).tags = m.tags := rfl
@[simp] theorem Mach.updTeam_scr (t : Nat) (f : Team → Team) : (m.updTeam t f).scr = m.scr := rfl
@[simp] theorem Mach.updTeam_gran (t : Nat) (f : Team → Team) : (m.updTeam t f).gran = m.gran := rfl
@[simp] theorem Mach.updTeam_regs (t : Nat) (f : Team → Team) : (m.updTeam t f).regs = m.regs := rfl
@[simp] theorem Mach.updTeam_lats (t : Nat) (f : Team → Team) : (m.updTeam t f).lats = m.lats := rfl
@[simp] theorem Mach.updTeam_acc (t : Nat) (f : Team → Team) : (m.updTeam t f).acc = m.acc := rfl
@[simp] theorem Mach.updTeam_scale (t : Nat) (f : Team → Team) : (m.updTeam t f).scale = m.scale := rfl
@[simp] theorem Mach.updTeam_gens (t : Nat) (f : Team → Team) : (m.updTeam t f).gens = m.gens := rfl
@[simp] theorem Mach.updTeam_hgens (t : Nat) (f : Team → Team) : (m.updTeam t f).hgens = m.hgens := rfl
@[simp] theorem Mach.updTeam_poison (t : Nat) (f : Team → Team) : (m.updTeam t f).poison = m.poison := rfl
@[simp] theorem Mach.updTeam_regErr (t : Nat) (f : Team → Team) : (m.updTeam t f).regErr = m.regErr := rfl
@[simp] theorem Mach.updTeam_latErr (t : Nat) (f : Team → Team) : (m.updTeam t f).latErr = m.latErr := rfl
@[simp] theorem Mach.updTeam_accErr (t : Nat) (f : Team → Team) : (m.updTeam t f).accErr = m.accErr := rfl
@[simp] theorem Mach.updTeam_scaleErr (t : Nat) (f : Team → Team) : (m.updTeam t f).scaleErr = m.scaleErr := rfl
@[simp] theorem Mach.updTeam_bufs (t : Nat) (f : Team → Team) : (m.updTeam t f).bufs = m.bufs := rfl
@[simp] theorem Mach.updTeam_copies (t : Nat) (f : Team → Team) : (m.updTeam t f).copies = m.copies := rfl
@[simp] theorem Mach.updTeam_blocks (t : Nat) (f : Team → Team) : (m.updTeam t f).blocks = m.blocks := rfl
@[simp] theorem Mach.updTeam_marks (t : Nat) (f : Team → Team) : (m.updTeam t f).marks = m.marks := rfl
@[simp] theorem Mach.updTeam_hist (t : Nat) (f : Team → Team) : (m.updTeam t f).hist = m.hist := rfl
@[simp] theorem Mach.updTeam_away (t : Nat) (f : Team → Team) : (m.updTeam t f).away = m.away := rfl
@[simp] theorem Mach.updTeam_tlb (t : Nat) (f : Team → Team) : (m.updTeam t f).tlb = m.tlb := rfl
@[simp] theorem Mach.updTeam_missq (t : Nat) (f : Team → Team) : (m.updTeam t f).missq = m.missq := rfl
@[simp] theorem Mach.updTeam_icache (t : Nat) (f : Team → Team) : (m.updTeam t f).icache = m.icache := rfl
@[simp] theorem Mach.updTeam_pcache (t : Nat) (f : Team → Team) : (m.updTeam t f).pcache = m.pcache := rfl
@[simp] theorem Mach.updTeam_ways (t : Nat) (f : Team → Team) : (m.updTeam t f).ways = m.ways := rfl
@[simp] theorem Mach.updTeam_delayed (t : Nat) (f : Team → Team) : (m.updTeam t f).delayed = m.delayed := rfl
@[simp] theorem Mach.updTeam_launches (t : Nat) (f : Team → Team) : (m.updTeam t f).launches = m.launches := rfl
@[simp] theorem Mach.updTeam_clusters (t : Nat) (f : Team → Team) : (m.updTeam t f).clusters = m.clusters := rfl
@[simp] theorem Mach.updTeam_teams (t : Nat) (f : Team → Team) : (m.updTeam t f).teams = m.teams.map (fun x => if x.t = t then f x else x) := rfl
@[simp] theorem Mach.updTeam_groups (t : Nat) (f : Team → Team) : (m.updTeam t f).groups = m.groups := rfl
@[simp] theorem Mach.updTeam_fibres (t : Nat) (f : Team → Team) : (m.updTeam t f).fibres = m.fibres := rfl
@[simp] theorem Mach.updTeam_outst (t : Nat) (f : Team → Team) : (m.updTeam t f).outst = m.outst := rfl
@[simp] theorem Mach.updTeam_ports (t : Nat) (f : Team → Team) : (m.updTeam t f).ports = m.ports := rfl
@[simp] theorem Mach.updTeam_pairs (t : Nat) (f : Team → Team) : (m.updTeam t f).pairs = m.pairs := rfl
@[simp] theorem Mach.updTeam_lastq (t : Nat) (f : Team → Team) : (m.updTeam t f).lastq = m.lastq := rfl
@[simp] theorem Mach.updTeam_ops (t : Nat) (f : Team → Team) : (m.updTeam t f).ops = m.ops := rfl
@[simp] theorem Mach.updTeam_rings (t : Nat) (f : Team → Team) : (m.updTeam t f).rings = m.rings := rfl
@[simp] theorem Mach.updTeam_colls (t : Nat) (f : Team → Team) : (m.updTeam t f).colls = m.colls := rfl
@[simp] theorem Mach.updTeam_net (t : Nat) (f : Team → Team) : (m.updTeam t f).net = m.net := rfl
@[simp] theorem Mach.updTeam_fabPend (t : Nat) (f : Team → Team) : (m.updTeam t f).fabPend = m.fabPend := rfl
@[simp] theorem Mach.updTeam_vows (t : Nat) (f : Team → Team) : (m.updTeam t f).vows = m.vows := rfl
@[simp] theorem Mach.updTeam_hreqs (t : Nat) (f : Team → Team) : (m.updTeam t f).hreqs = m.hreqs := rfl
@[simp] theorem Mach.updTeam_tokens (t : Nat) (f : Team → Team) : (m.updTeam t f).tokens = m.tokens := rfl
@[simp] theorem Mach.updTeam_prefixed (t : Nat) (f : Team → Team) : (m.updTeam t f).prefixed = m.prefixed := rfl
@[simp] theorem Mach.updTeam_late (t : Nat) (f : Team → Team) : (m.updTeam t f).late = m.late := rfl
@[simp] theorem Mach.updTeam_inb (t : Nat) (f : Team → Team) : (m.updTeam t f).inb = m.inb := rfl
@[simp] theorem Mach.updTeam_serves (t : Nat) (f : Team → Team) : (m.updTeam t f).serves = m.serves := rfl
@[simp] theorem Mach.updTeam_parked (t : Nat) (f : Team → Team) : (m.updTeam t f).parked = m.parked := rfl
@[simp] theorem Mach.updTeam_hents (t : Nat) (f : Team → Team) : (m.updTeam t f).hents = m.hents := rfl
@[simp] theorem Mach.updTeam_invq (t : Nat) (f : Team → Team) : (m.updTeam t f).invq = m.invq := rfl
@[simp] theorem Mach.updTeam_regions (t : Nat) (f : Team → Team) : (m.updTeam t f).regions = m.regions := rfl
@[simp] theorem Mach.updTeam_driftSent (t : Nat) (f : Team → Team) : (m.updTeam t f).driftSent = m.driftSent := rfl
@[simp] theorem Mach.updTeam_snaps (t : Nat) (f : Team → Team) : (m.updTeam t f).snaps = m.snaps := rfl
@[simp] theorem Mach.updTeam_cycSnap (t : Nat) (f : Team → Team) : (m.updTeam t f).cycSnap = m.cycSnap := rfl
@[simp] theorem Mach.updTeam_queues (t : Nat) (f : Team → Team) : (m.updTeam t f).queues = m.queues := rfl
@[simp] theorem Mach.updTeam_dev (t : Nat) (f : Team → Team) : (m.updTeam t f).dev = m.dev := rfl

/-! ### `Mach.updGroup` -/

@[simp] theorem Mach.updGroup_cyc (t g : Nat) (f : Group → Group) : (m.updGroup t g f).cyc = m.cyc := rfl
@[simp] theorem Mach.updGroup_dieOff (t g : Nat) (f : Group → Group) : (m.updGroup t g f).dieOff = m.dieOff := rfl
@[simp] theorem Mach.updGroup_wsPhase (t g : Nat) (f : Group → Group) : (m.updGroup t g f).wsPhase = m.wsPhase := rfl
@[simp] theorem Mach.updGroup_agenda (t g : Nat) (f : Group → Group) : (m.updGroup t g f).agenda = m.agenda := rfl
@[simp] theorem Mach.updGroup_focus (t g : Nat) (f : Group → Group) : (m.updGroup t g f).focus = m.focus := rfl
@[simp] theorem Mach.updGroup_free (t g : Nat) (f : Group → Group) : (m.updGroup t g f).free = m.free := rfl
@[simp] theorem Mach.updGroup_fresh (t g : Nat) (f : Group → Group) : (m.updGroup t g f).fresh = m.fresh := rfl
@[simp] theorem Mach.updGroup_round (t g : Nat) (f : Group → Group) : (m.updGroup t g f).round = m.round := rfl
@[simp] theorem Mach.updGroup_mem (t g : Nat) (f : Group → Group) : (m.updGroup t g f).mem = m.mem := rfl
@[simp] theorem Mach.updGroup_tags (t g : Nat) (f : Group → Group) : (m.updGroup t g f).tags = m.tags := rfl
@[simp] theorem Mach.updGroup_scr (t g : Nat) (f : Group → Group) : (m.updGroup t g f).scr = m.scr := rfl
@[simp] theorem Mach.updGroup_gran (t g : Nat) (f : Group → Group) : (m.updGroup t g f).gran = m.gran := rfl
@[simp] theorem Mach.updGroup_regs (t g : Nat) (f : Group → Group) : (m.updGroup t g f).regs = m.regs := rfl
@[simp] theorem Mach.updGroup_lats (t g : Nat) (f : Group → Group) : (m.updGroup t g f).lats = m.lats := rfl
@[simp] theorem Mach.updGroup_acc (t g : Nat) (f : Group → Group) : (m.updGroup t g f).acc = m.acc := rfl
@[simp] theorem Mach.updGroup_scale (t g : Nat) (f : Group → Group) : (m.updGroup t g f).scale = m.scale := rfl
@[simp] theorem Mach.updGroup_gens (t g : Nat) (f : Group → Group) : (m.updGroup t g f).gens = m.gens := rfl
@[simp] theorem Mach.updGroup_hgens (t g : Nat) (f : Group → Group) : (m.updGroup t g f).hgens = m.hgens := rfl
@[simp] theorem Mach.updGroup_poison (t g : Nat) (f : Group → Group) : (m.updGroup t g f).poison = m.poison := rfl
@[simp] theorem Mach.updGroup_regErr (t g : Nat) (f : Group → Group) : (m.updGroup t g f).regErr = m.regErr := rfl
@[simp] theorem Mach.updGroup_latErr (t g : Nat) (f : Group → Group) : (m.updGroup t g f).latErr = m.latErr := rfl
@[simp] theorem Mach.updGroup_accErr (t g : Nat) (f : Group → Group) : (m.updGroup t g f).accErr = m.accErr := rfl
@[simp] theorem Mach.updGroup_scaleErr (t g : Nat) (f : Group → Group) : (m.updGroup t g f).scaleErr = m.scaleErr := rfl
@[simp] theorem Mach.updGroup_bufs (t g : Nat) (f : Group → Group) : (m.updGroup t g f).bufs = m.bufs := rfl
@[simp] theorem Mach.updGroup_copies (t g : Nat) (f : Group → Group) : (m.updGroup t g f).copies = m.copies := rfl
@[simp] theorem Mach.updGroup_blocks (t g : Nat) (f : Group → Group) : (m.updGroup t g f).blocks = m.blocks := rfl
@[simp] theorem Mach.updGroup_marks (t g : Nat) (f : Group → Group) : (m.updGroup t g f).marks = m.marks := rfl
@[simp] theorem Mach.updGroup_hist (t g : Nat) (f : Group → Group) : (m.updGroup t g f).hist = m.hist := rfl
@[simp] theorem Mach.updGroup_away (t g : Nat) (f : Group → Group) : (m.updGroup t g f).away = m.away := rfl
@[simp] theorem Mach.updGroup_tlb (t g : Nat) (f : Group → Group) : (m.updGroup t g f).tlb = m.tlb := rfl
@[simp] theorem Mach.updGroup_missq (t g : Nat) (f : Group → Group) : (m.updGroup t g f).missq = m.missq := rfl
@[simp] theorem Mach.updGroup_icache (t g : Nat) (f : Group → Group) : (m.updGroup t g f).icache = m.icache := rfl
@[simp] theorem Mach.updGroup_pcache (t g : Nat) (f : Group → Group) : (m.updGroup t g f).pcache = m.pcache := rfl
@[simp] theorem Mach.updGroup_ways (t g : Nat) (f : Group → Group) : (m.updGroup t g f).ways = m.ways := rfl
@[simp] theorem Mach.updGroup_delayed (t g : Nat) (f : Group → Group) : (m.updGroup t g f).delayed = m.delayed := rfl
@[simp] theorem Mach.updGroup_launches (t g : Nat) (f : Group → Group) : (m.updGroup t g f).launches = m.launches := rfl
@[simp] theorem Mach.updGroup_clusters (t g : Nat) (f : Group → Group) : (m.updGroup t g f).clusters = m.clusters := rfl
@[simp] theorem Mach.updGroup_teams (t g : Nat) (f : Group → Group) : (m.updGroup t g f).teams = m.teams := rfl
@[simp] theorem Mach.updGroup_groups (t g : Nat) (f : Group → Group) : (m.updGroup t g f).groups = m.groups.map (fun x => if x.t = t ∧ x.g = g then f x else x) := rfl
@[simp] theorem Mach.updGroup_fibres (t g : Nat) (f : Group → Group) : (m.updGroup t g f).fibres = m.fibres := rfl
@[simp] theorem Mach.updGroup_outst (t g : Nat) (f : Group → Group) : (m.updGroup t g f).outst = m.outst := rfl
@[simp] theorem Mach.updGroup_ports (t g : Nat) (f : Group → Group) : (m.updGroup t g f).ports = m.ports := rfl
@[simp] theorem Mach.updGroup_pairs (t g : Nat) (f : Group → Group) : (m.updGroup t g f).pairs = m.pairs := rfl
@[simp] theorem Mach.updGroup_lastq (t g : Nat) (f : Group → Group) : (m.updGroup t g f).lastq = m.lastq := rfl
@[simp] theorem Mach.updGroup_ops (t g : Nat) (f : Group → Group) : (m.updGroup t g f).ops = m.ops := rfl
@[simp] theorem Mach.updGroup_rings (t g : Nat) (f : Group → Group) : (m.updGroup t g f).rings = m.rings := rfl
@[simp] theorem Mach.updGroup_colls (t g : Nat) (f : Group → Group) : (m.updGroup t g f).colls = m.colls := rfl
@[simp] theorem Mach.updGroup_net (t g : Nat) (f : Group → Group) : (m.updGroup t g f).net = m.net := rfl
@[simp] theorem Mach.updGroup_fabPend (t g : Nat) (f : Group → Group) : (m.updGroup t g f).fabPend = m.fabPend := rfl
@[simp] theorem Mach.updGroup_vows (t g : Nat) (f : Group → Group) : (m.updGroup t g f).vows = m.vows := rfl
@[simp] theorem Mach.updGroup_hreqs (t g : Nat) (f : Group → Group) : (m.updGroup t g f).hreqs = m.hreqs := rfl
@[simp] theorem Mach.updGroup_tokens (t g : Nat) (f : Group → Group) : (m.updGroup t g f).tokens = m.tokens := rfl
@[simp] theorem Mach.updGroup_prefixed (t g : Nat) (f : Group → Group) : (m.updGroup t g f).prefixed = m.prefixed := rfl
@[simp] theorem Mach.updGroup_late (t g : Nat) (f : Group → Group) : (m.updGroup t g f).late = m.late := rfl
@[simp] theorem Mach.updGroup_inb (t g : Nat) (f : Group → Group) : (m.updGroup t g f).inb = m.inb := rfl
@[simp] theorem Mach.updGroup_serves (t g : Nat) (f : Group → Group) : (m.updGroup t g f).serves = m.serves := rfl
@[simp] theorem Mach.updGroup_parked (t g : Nat) (f : Group → Group) : (m.updGroup t g f).parked = m.parked := rfl
@[simp] theorem Mach.updGroup_hents (t g : Nat) (f : Group → Group) : (m.updGroup t g f).hents = m.hents := rfl
@[simp] theorem Mach.updGroup_invq (t g : Nat) (f : Group → Group) : (m.updGroup t g f).invq = m.invq := rfl
@[simp] theorem Mach.updGroup_regions (t g : Nat) (f : Group → Group) : (m.updGroup t g f).regions = m.regions := rfl
@[simp] theorem Mach.updGroup_driftSent (t g : Nat) (f : Group → Group) : (m.updGroup t g f).driftSent = m.driftSent := rfl
@[simp] theorem Mach.updGroup_snaps (t g : Nat) (f : Group → Group) : (m.updGroup t g f).snaps = m.snaps := rfl
@[simp] theorem Mach.updGroup_cycSnap (t g : Nat) (f : Group → Group) : (m.updGroup t g f).cycSnap = m.cycSnap := rfl
@[simp] theorem Mach.updGroup_queues (t g : Nat) (f : Group → Group) : (m.updGroup t g f).queues = m.queues := rfl
@[simp] theorem Mach.updGroup_dev (t g : Nat) (f : Group → Group) : (m.updGroup t g f).dev = m.dev := rfl

/-! ### `Mach.updFibre` -/

@[simp] theorem Mach.updFibre_cyc (r : FRef) (f : Fibre → Fibre) : (m.updFibre r f).cyc = m.cyc := rfl
@[simp] theorem Mach.updFibre_dieOff (r : FRef) (f : Fibre → Fibre) : (m.updFibre r f).dieOff = m.dieOff := rfl
@[simp] theorem Mach.updFibre_wsPhase (r : FRef) (f : Fibre → Fibre) : (m.updFibre r f).wsPhase = m.wsPhase := rfl
@[simp] theorem Mach.updFibre_agenda (r : FRef) (f : Fibre → Fibre) : (m.updFibre r f).agenda = m.agenda := rfl
@[simp] theorem Mach.updFibre_focus (r : FRef) (f : Fibre → Fibre) : (m.updFibre r f).focus = m.focus := rfl
@[simp] theorem Mach.updFibre_free (r : FRef) (f : Fibre → Fibre) : (m.updFibre r f).free = m.free := rfl
@[simp] theorem Mach.updFibre_fresh (r : FRef) (f : Fibre → Fibre) : (m.updFibre r f).fresh = m.fresh := rfl
@[simp] theorem Mach.updFibre_round (r : FRef) (f : Fibre → Fibre) : (m.updFibre r f).round = m.round := rfl
@[simp] theorem Mach.updFibre_mem (r : FRef) (f : Fibre → Fibre) : (m.updFibre r f).mem = m.mem := rfl
@[simp] theorem Mach.updFibre_tags (r : FRef) (f : Fibre → Fibre) : (m.updFibre r f).tags = m.tags := rfl
@[simp] theorem Mach.updFibre_scr (r : FRef) (f : Fibre → Fibre) : (m.updFibre r f).scr = m.scr := rfl
@[simp] theorem Mach.updFibre_gran (r : FRef) (f : Fibre → Fibre) : (m.updFibre r f).gran = m.gran := rfl
@[simp] theorem Mach.updFibre_regs (r : FRef) (f : Fibre → Fibre) : (m.updFibre r f).regs = m.regs := rfl
@[simp] theorem Mach.updFibre_lats (r : FRef) (f : Fibre → Fibre) : (m.updFibre r f).lats = m.lats := rfl
@[simp] theorem Mach.updFibre_acc (r : FRef) (f : Fibre → Fibre) : (m.updFibre r f).acc = m.acc := rfl
@[simp] theorem Mach.updFibre_scale (r : FRef) (f : Fibre → Fibre) : (m.updFibre r f).scale = m.scale := rfl
@[simp] theorem Mach.updFibre_gens (r : FRef) (f : Fibre → Fibre) : (m.updFibre r f).gens = m.gens := rfl
@[simp] theorem Mach.updFibre_hgens (r : FRef) (f : Fibre → Fibre) : (m.updFibre r f).hgens = m.hgens := rfl
@[simp] theorem Mach.updFibre_poison (r : FRef) (f : Fibre → Fibre) : (m.updFibre r f).poison = m.poison := rfl
@[simp] theorem Mach.updFibre_regErr (r : FRef) (f : Fibre → Fibre) : (m.updFibre r f).regErr = m.regErr := rfl
@[simp] theorem Mach.updFibre_latErr (r : FRef) (f : Fibre → Fibre) : (m.updFibre r f).latErr = m.latErr := rfl
@[simp] theorem Mach.updFibre_accErr (r : FRef) (f : Fibre → Fibre) : (m.updFibre r f).accErr = m.accErr := rfl
@[simp] theorem Mach.updFibre_scaleErr (r : FRef) (f : Fibre → Fibre) : (m.updFibre r f).scaleErr = m.scaleErr := rfl
@[simp] theorem Mach.updFibre_bufs (r : FRef) (f : Fibre → Fibre) : (m.updFibre r f).bufs = m.bufs := rfl
@[simp] theorem Mach.updFibre_copies (r : FRef) (f : Fibre → Fibre) : (m.updFibre r f).copies = m.copies := rfl
@[simp] theorem Mach.updFibre_blocks (r : FRef) (f : Fibre → Fibre) : (m.updFibre r f).blocks = m.blocks := rfl
@[simp] theorem Mach.updFibre_marks (r : FRef) (f : Fibre → Fibre) : (m.updFibre r f).marks = m.marks := rfl
@[simp] theorem Mach.updFibre_hist (r : FRef) (f : Fibre → Fibre) : (m.updFibre r f).hist = m.hist := rfl
@[simp] theorem Mach.updFibre_away (r : FRef) (f : Fibre → Fibre) : (m.updFibre r f).away = m.away := rfl
@[simp] theorem Mach.updFibre_tlb (r : FRef) (f : Fibre → Fibre) : (m.updFibre r f).tlb = m.tlb := rfl
@[simp] theorem Mach.updFibre_missq (r : FRef) (f : Fibre → Fibre) : (m.updFibre r f).missq = m.missq := rfl
@[simp] theorem Mach.updFibre_icache (r : FRef) (f : Fibre → Fibre) : (m.updFibre r f).icache = m.icache := rfl
@[simp] theorem Mach.updFibre_pcache (r : FRef) (f : Fibre → Fibre) : (m.updFibre r f).pcache = m.pcache := rfl
@[simp] theorem Mach.updFibre_ways (r : FRef) (f : Fibre → Fibre) : (m.updFibre r f).ways = m.ways := rfl
@[simp] theorem Mach.updFibre_delayed (r : FRef) (f : Fibre → Fibre) : (m.updFibre r f).delayed = m.delayed := rfl
@[simp] theorem Mach.updFibre_launches (r : FRef) (f : Fibre → Fibre) : (m.updFibre r f).launches = m.launches := rfl
@[simp] theorem Mach.updFibre_clusters (r : FRef) (f : Fibre → Fibre) : (m.updFibre r f).clusters = m.clusters := rfl
@[simp] theorem Mach.updFibre_teams (r : FRef) (f : Fibre → Fibre) : (m.updFibre r f).teams = m.teams := rfl
@[simp] theorem Mach.updFibre_groups (r : FRef) (f : Fibre → Fibre) : (m.updFibre r f).groups = m.groups := rfl
@[simp] theorem Mach.updFibre_fibres (r : FRef) (f : Fibre → Fibre) : (m.updFibre r f).fibres = m.fibres.map (fun x => if x.ref = r then f x else x) := rfl
@[simp] theorem Mach.updFibre_outst (r : FRef) (f : Fibre → Fibre) : (m.updFibre r f).outst = m.outst := rfl
@[simp] theorem Mach.updFibre_ports (r : FRef) (f : Fibre → Fibre) : (m.updFibre r f).ports = m.ports := rfl
@[simp] theorem Mach.updFibre_pairs (r : FRef) (f : Fibre → Fibre) : (m.updFibre r f).pairs = m.pairs := rfl
@[simp] theorem Mach.updFibre_lastq (r : FRef) (f : Fibre → Fibre) : (m.updFibre r f).lastq = m.lastq := rfl
@[simp] theorem Mach.updFibre_ops (r : FRef) (f : Fibre → Fibre) : (m.updFibre r f).ops = m.ops := rfl
@[simp] theorem Mach.updFibre_rings (r : FRef) (f : Fibre → Fibre) : (m.updFibre r f).rings = m.rings := rfl
@[simp] theorem Mach.updFibre_colls (r : FRef) (f : Fibre → Fibre) : (m.updFibre r f).colls = m.colls := rfl
@[simp] theorem Mach.updFibre_net (r : FRef) (f : Fibre → Fibre) : (m.updFibre r f).net = m.net := rfl
@[simp] theorem Mach.updFibre_fabPend (r : FRef) (f : Fibre → Fibre) : (m.updFibre r f).fabPend = m.fabPend := rfl
@[simp] theorem Mach.updFibre_vows (r : FRef) (f : Fibre → Fibre) : (m.updFibre r f).vows = m.vows := rfl
@[simp] theorem Mach.updFibre_hreqs (r : FRef) (f : Fibre → Fibre) : (m.updFibre r f).hreqs = m.hreqs := rfl
@[simp] theorem Mach.updFibre_tokens (r : FRef) (f : Fibre → Fibre) : (m.updFibre r f).tokens = m.tokens := rfl
@[simp] theorem Mach.updFibre_prefixed (r : FRef) (f : Fibre → Fibre) : (m.updFibre r f).prefixed = m.prefixed := rfl
@[simp] theorem Mach.updFibre_late (r : FRef) (f : Fibre → Fibre) : (m.updFibre r f).late = m.late := rfl
@[simp] theorem Mach.updFibre_inb (r : FRef) (f : Fibre → Fibre) : (m.updFibre r f).inb = m.inb := rfl
@[simp] theorem Mach.updFibre_serves (r : FRef) (f : Fibre → Fibre) : (m.updFibre r f).serves = m.serves := rfl
@[simp] theorem Mach.updFibre_parked (r : FRef) (f : Fibre → Fibre) : (m.updFibre r f).parked = m.parked := rfl
@[simp] theorem Mach.updFibre_hents (r : FRef) (f : Fibre → Fibre) : (m.updFibre r f).hents = m.hents := rfl
@[simp] theorem Mach.updFibre_invq (r : FRef) (f : Fibre → Fibre) : (m.updFibre r f).invq = m.invq := rfl
@[simp] theorem Mach.updFibre_regions (r : FRef) (f : Fibre → Fibre) : (m.updFibre r f).regions = m.regions := rfl
@[simp] theorem Mach.updFibre_driftSent (r : FRef) (f : Fibre → Fibre) : (m.updFibre r f).driftSent = m.driftSent := rfl
@[simp] theorem Mach.updFibre_snaps (r : FRef) (f : Fibre → Fibre) : (m.updFibre r f).snaps = m.snaps := rfl
@[simp] theorem Mach.updFibre_cycSnap (r : FRef) (f : Fibre → Fibre) : (m.updFibre r f).cycSnap = m.cycSnap := rfl
@[simp] theorem Mach.updFibre_queues (r : FRef) (f : Fibre → Fibre) : (m.updFibre r f).queues = m.queues := rfl
@[simp] theorem Mach.updFibre_dev (r : FRef) (f : Fibre → Fibre) : (m.updFibre r f).dev = m.dev := rfl

/-! ### `Mach.updRegion` -/

@[simp] theorem Mach.updRegion_cyc (r : Nat) (f : Region → Region) : (m.updRegion r f).cyc = m.cyc := rfl
@[simp] theorem Mach.updRegion_dieOff (r : Nat) (f : Region → Region) : (m.updRegion r f).dieOff = m.dieOff := rfl
@[simp] theorem Mach.updRegion_wsPhase (r : Nat) (f : Region → Region) : (m.updRegion r f).wsPhase = m.wsPhase := rfl
@[simp] theorem Mach.updRegion_agenda (r : Nat) (f : Region → Region) : (m.updRegion r f).agenda = m.agenda := rfl
@[simp] theorem Mach.updRegion_focus (r : Nat) (f : Region → Region) : (m.updRegion r f).focus = m.focus := rfl
@[simp] theorem Mach.updRegion_free (r : Nat) (f : Region → Region) : (m.updRegion r f).free = m.free := rfl
@[simp] theorem Mach.updRegion_fresh (r : Nat) (f : Region → Region) : (m.updRegion r f).fresh = m.fresh := rfl
@[simp] theorem Mach.updRegion_round (r : Nat) (f : Region → Region) : (m.updRegion r f).round = m.round := rfl
@[simp] theorem Mach.updRegion_mem (r : Nat) (f : Region → Region) : (m.updRegion r f).mem = m.mem := rfl
@[simp] theorem Mach.updRegion_tags (r : Nat) (f : Region → Region) : (m.updRegion r f).tags = m.tags := rfl
@[simp] theorem Mach.updRegion_scr (r : Nat) (f : Region → Region) : (m.updRegion r f).scr = m.scr := rfl
@[simp] theorem Mach.updRegion_gran (r : Nat) (f : Region → Region) : (m.updRegion r f).gran = m.gran := rfl
@[simp] theorem Mach.updRegion_regs (r : Nat) (f : Region → Region) : (m.updRegion r f).regs = m.regs := rfl
@[simp] theorem Mach.updRegion_lats (r : Nat) (f : Region → Region) : (m.updRegion r f).lats = m.lats := rfl
@[simp] theorem Mach.updRegion_acc (r : Nat) (f : Region → Region) : (m.updRegion r f).acc = m.acc := rfl
@[simp] theorem Mach.updRegion_scale (r : Nat) (f : Region → Region) : (m.updRegion r f).scale = m.scale := rfl
@[simp] theorem Mach.updRegion_gens (r : Nat) (f : Region → Region) : (m.updRegion r f).gens = m.gens := rfl
@[simp] theorem Mach.updRegion_hgens (r : Nat) (f : Region → Region) : (m.updRegion r f).hgens = m.hgens := rfl
@[simp] theorem Mach.updRegion_poison (r : Nat) (f : Region → Region) : (m.updRegion r f).poison = m.poison := rfl
@[simp] theorem Mach.updRegion_regErr (r : Nat) (f : Region → Region) : (m.updRegion r f).regErr = m.regErr := rfl
@[simp] theorem Mach.updRegion_latErr (r : Nat) (f : Region → Region) : (m.updRegion r f).latErr = m.latErr := rfl
@[simp] theorem Mach.updRegion_accErr (r : Nat) (f : Region → Region) : (m.updRegion r f).accErr = m.accErr := rfl
@[simp] theorem Mach.updRegion_scaleErr (r : Nat) (f : Region → Region) : (m.updRegion r f).scaleErr = m.scaleErr := rfl
@[simp] theorem Mach.updRegion_bufs (r : Nat) (f : Region → Region) : (m.updRegion r f).bufs = m.bufs := rfl
@[simp] theorem Mach.updRegion_copies (r : Nat) (f : Region → Region) : (m.updRegion r f).copies = m.copies := rfl
@[simp] theorem Mach.updRegion_blocks (r : Nat) (f : Region → Region) : (m.updRegion r f).blocks = m.blocks := rfl
@[simp] theorem Mach.updRegion_marks (r : Nat) (f : Region → Region) : (m.updRegion r f).marks = m.marks := rfl
@[simp] theorem Mach.updRegion_hist (r : Nat) (f : Region → Region) : (m.updRegion r f).hist = m.hist := rfl
@[simp] theorem Mach.updRegion_away (r : Nat) (f : Region → Region) : (m.updRegion r f).away = m.away := rfl
@[simp] theorem Mach.updRegion_tlb (r : Nat) (f : Region → Region) : (m.updRegion r f).tlb = m.tlb := rfl
@[simp] theorem Mach.updRegion_missq (r : Nat) (f : Region → Region) : (m.updRegion r f).missq = m.missq := rfl
@[simp] theorem Mach.updRegion_icache (r : Nat) (f : Region → Region) : (m.updRegion r f).icache = m.icache := rfl
@[simp] theorem Mach.updRegion_pcache (r : Nat) (f : Region → Region) : (m.updRegion r f).pcache = m.pcache := rfl
@[simp] theorem Mach.updRegion_ways (r : Nat) (f : Region → Region) : (m.updRegion r f).ways = m.ways := rfl
@[simp] theorem Mach.updRegion_delayed (r : Nat) (f : Region → Region) : (m.updRegion r f).delayed = m.delayed := rfl
@[simp] theorem Mach.updRegion_launches (r : Nat) (f : Region → Region) : (m.updRegion r f).launches = m.launches := rfl
@[simp] theorem Mach.updRegion_clusters (r : Nat) (f : Region → Region) : (m.updRegion r f).clusters = m.clusters := rfl
@[simp] theorem Mach.updRegion_teams (r : Nat) (f : Region → Region) : (m.updRegion r f).teams = m.teams := rfl
@[simp] theorem Mach.updRegion_groups (r : Nat) (f : Region → Region) : (m.updRegion r f).groups = m.groups := rfl
@[simp] theorem Mach.updRegion_fibres (r : Nat) (f : Region → Region) : (m.updRegion r f).fibres = m.fibres := rfl
@[simp] theorem Mach.updRegion_outst (r : Nat) (f : Region → Region) : (m.updRegion r f).outst = m.outst := rfl
@[simp] theorem Mach.updRegion_ports (r : Nat) (f : Region → Region) : (m.updRegion r f).ports = m.ports := rfl
@[simp] theorem Mach.updRegion_pairs (r : Nat) (f : Region → Region) : (m.updRegion r f).pairs = m.pairs := rfl
@[simp] theorem Mach.updRegion_lastq (r : Nat) (f : Region → Region) : (m.updRegion r f).lastq = m.lastq := rfl
@[simp] theorem Mach.updRegion_ops (r : Nat) (f : Region → Region) : (m.updRegion r f).ops = m.ops := rfl
@[simp] theorem Mach.updRegion_rings (r : Nat) (f : Region → Region) : (m.updRegion r f).rings = m.rings := rfl
@[simp] theorem Mach.updRegion_colls (r : Nat) (f : Region → Region) : (m.updRegion r f).colls = m.colls := rfl
@[simp] theorem Mach.updRegion_net (r : Nat) (f : Region → Region) : (m.updRegion r f).net = m.net := rfl
@[simp] theorem Mach.updRegion_fabPend (r : Nat) (f : Region → Region) : (m.updRegion r f).fabPend = m.fabPend := rfl
@[simp] theorem Mach.updRegion_vows (r : Nat) (f : Region → Region) : (m.updRegion r f).vows = m.vows := rfl
@[simp] theorem Mach.updRegion_hreqs (r : Nat) (f : Region → Region) : (m.updRegion r f).hreqs = m.hreqs := rfl
@[simp] theorem Mach.updRegion_tokens (r : Nat) (f : Region → Region) : (m.updRegion r f).tokens = m.tokens := rfl
@[simp] theorem Mach.updRegion_prefixed (r : Nat) (f : Region → Region) : (m.updRegion r f).prefixed = m.prefixed := rfl
@[simp] theorem Mach.updRegion_late (r : Nat) (f : Region → Region) : (m.updRegion r f).late = m.late := rfl
@[simp] theorem Mach.updRegion_inb (r : Nat) (f : Region → Region) : (m.updRegion r f).inb = m.inb := rfl
@[simp] theorem Mach.updRegion_serves (r : Nat) (f : Region → Region) : (m.updRegion r f).serves = m.serves := rfl
@[simp] theorem Mach.updRegion_parked (r : Nat) (f : Region → Region) : (m.updRegion r f).parked = m.parked := rfl
@[simp] theorem Mach.updRegion_hents (r : Nat) (f : Region → Region) : (m.updRegion r f).hents = m.hents := rfl
@[simp] theorem Mach.updRegion_invq (r : Nat) (f : Region → Region) : (m.updRegion r f).invq = m.invq := rfl
@[simp] theorem Mach.updRegion_regions (r : Nat) (f : Region → Region) : (m.updRegion r f).regions = m.regions.map (fun x => if x.r = r then f x else x) := rfl
@[simp] theorem Mach.updRegion_driftSent (r : Nat) (f : Region → Region) : (m.updRegion r f).driftSent = m.driftSent := rfl
@[simp] theorem Mach.updRegion_snaps (r : Nat) (f : Region → Region) : (m.updRegion r f).snaps = m.snaps := rfl
@[simp] theorem Mach.updRegion_cycSnap (r : Nat) (f : Region → Region) : (m.updRegion r f).cycSnap = m.cycSnap := rfl
@[simp] theorem Mach.updRegion_queues (r : Nat) (f : Region → Region) : (m.updRegion r f).queues = m.queues := rfl
@[simp] theorem Mach.updRegion_dev (r : Nat) (f : Region → Region) : (m.updRegion r f).dev = m.dev := rfl

/-! ### `Mach.updOp` -/

@[simp] theorem Mach.updOp_cyc (t : Nat) (k : EngCtx) (n : Nat) (f : Op → Op) : (m.updOp t k n f).cyc = m.cyc := rfl
@[simp] theorem Mach.updOp_dieOff (t : Nat) (k : EngCtx) (n : Nat) (f : Op → Op) : (m.updOp t k n f).dieOff = m.dieOff := rfl
@[simp] theorem Mach.updOp_wsPhase (t : Nat) (k : EngCtx) (n : Nat) (f : Op → Op) : (m.updOp t k n f).wsPhase = m.wsPhase := rfl
@[simp] theorem Mach.updOp_agenda (t : Nat) (k : EngCtx) (n : Nat) (f : Op → Op) : (m.updOp t k n f).agenda = m.agenda := rfl
@[simp] theorem Mach.updOp_focus (t : Nat) (k : EngCtx) (n : Nat) (f : Op → Op) : (m.updOp t k n f).focus = m.focus := rfl
@[simp] theorem Mach.updOp_free (t : Nat) (k : EngCtx) (n : Nat) (f : Op → Op) : (m.updOp t k n f).free = m.free := rfl
@[simp] theorem Mach.updOp_fresh (t : Nat) (k : EngCtx) (n : Nat) (f : Op → Op) : (m.updOp t k n f).fresh = m.fresh := rfl
@[simp] theorem Mach.updOp_round (t : Nat) (k : EngCtx) (n : Nat) (f : Op → Op) : (m.updOp t k n f).round = m.round := rfl
@[simp] theorem Mach.updOp_mem (t : Nat) (k : EngCtx) (n : Nat) (f : Op → Op) : (m.updOp t k n f).mem = m.mem := rfl
@[simp] theorem Mach.updOp_tags (t : Nat) (k : EngCtx) (n : Nat) (f : Op → Op) : (m.updOp t k n f).tags = m.tags := rfl
@[simp] theorem Mach.updOp_scr (t : Nat) (k : EngCtx) (n : Nat) (f : Op → Op) : (m.updOp t k n f).scr = m.scr := rfl
@[simp] theorem Mach.updOp_gran (t : Nat) (k : EngCtx) (n : Nat) (f : Op → Op) : (m.updOp t k n f).gran = m.gran := rfl
@[simp] theorem Mach.updOp_regs (t : Nat) (k : EngCtx) (n : Nat) (f : Op → Op) : (m.updOp t k n f).regs = m.regs := rfl
@[simp] theorem Mach.updOp_lats (t : Nat) (k : EngCtx) (n : Nat) (f : Op → Op) : (m.updOp t k n f).lats = m.lats := rfl
@[simp] theorem Mach.updOp_acc (t : Nat) (k : EngCtx) (n : Nat) (f : Op → Op) : (m.updOp t k n f).acc = m.acc := rfl
@[simp] theorem Mach.updOp_scale (t : Nat) (k : EngCtx) (n : Nat) (f : Op → Op) : (m.updOp t k n f).scale = m.scale := rfl
@[simp] theorem Mach.updOp_gens (t : Nat) (k : EngCtx) (n : Nat) (f : Op → Op) : (m.updOp t k n f).gens = m.gens := rfl
@[simp] theorem Mach.updOp_hgens (t : Nat) (k : EngCtx) (n : Nat) (f : Op → Op) : (m.updOp t k n f).hgens = m.hgens := rfl
@[simp] theorem Mach.updOp_poison (t : Nat) (k : EngCtx) (n : Nat) (f : Op → Op) : (m.updOp t k n f).poison = m.poison := rfl
@[simp] theorem Mach.updOp_regErr (t : Nat) (k : EngCtx) (n : Nat) (f : Op → Op) : (m.updOp t k n f).regErr = m.regErr := rfl
@[simp] theorem Mach.updOp_latErr (t : Nat) (k : EngCtx) (n : Nat) (f : Op → Op) : (m.updOp t k n f).latErr = m.latErr := rfl
@[simp] theorem Mach.updOp_accErr (t : Nat) (k : EngCtx) (n : Nat) (f : Op → Op) : (m.updOp t k n f).accErr = m.accErr := rfl
@[simp] theorem Mach.updOp_scaleErr (t : Nat) (k : EngCtx) (n : Nat) (f : Op → Op) : (m.updOp t k n f).scaleErr = m.scaleErr := rfl
@[simp] theorem Mach.updOp_bufs (t : Nat) (k : EngCtx) (n : Nat) (f : Op → Op) : (m.updOp t k n f).bufs = m.bufs := rfl
@[simp] theorem Mach.updOp_copies (t : Nat) (k : EngCtx) (n : Nat) (f : Op → Op) : (m.updOp t k n f).copies = m.copies := rfl
@[simp] theorem Mach.updOp_blocks (t : Nat) (k : EngCtx) (n : Nat) (f : Op → Op) : (m.updOp t k n f).blocks = m.blocks := rfl
@[simp] theorem Mach.updOp_marks (t : Nat) (k : EngCtx) (n : Nat) (f : Op → Op) : (m.updOp t k n f).marks = m.marks := rfl
@[simp] theorem Mach.updOp_hist (t : Nat) (k : EngCtx) (n : Nat) (f : Op → Op) : (m.updOp t k n f).hist = m.hist := rfl
@[simp] theorem Mach.updOp_away (t : Nat) (k : EngCtx) (n : Nat) (f : Op → Op) : (m.updOp t k n f).away = m.away := rfl
@[simp] theorem Mach.updOp_tlb (t : Nat) (k : EngCtx) (n : Nat) (f : Op → Op) : (m.updOp t k n f).tlb = m.tlb := rfl
@[simp] theorem Mach.updOp_missq (t : Nat) (k : EngCtx) (n : Nat) (f : Op → Op) : (m.updOp t k n f).missq = m.missq := rfl
@[simp] theorem Mach.updOp_icache (t : Nat) (k : EngCtx) (n : Nat) (f : Op → Op) : (m.updOp t k n f).icache = m.icache := rfl
@[simp] theorem Mach.updOp_pcache (t : Nat) (k : EngCtx) (n : Nat) (f : Op → Op) : (m.updOp t k n f).pcache = m.pcache := rfl
@[simp] theorem Mach.updOp_ways (t : Nat) (k : EngCtx) (n : Nat) (f : Op → Op) : (m.updOp t k n f).ways = m.ways := rfl
@[simp] theorem Mach.updOp_delayed (t : Nat) (k : EngCtx) (n : Nat) (f : Op → Op) : (m.updOp t k n f).delayed = m.delayed := rfl
@[simp] theorem Mach.updOp_launches (t : Nat) (k : EngCtx) (n : Nat) (f : Op → Op) : (m.updOp t k n f).launches = m.launches := rfl
@[simp] theorem Mach.updOp_clusters (t : Nat) (k : EngCtx) (n : Nat) (f : Op → Op) : (m.updOp t k n f).clusters = m.clusters := rfl
@[simp] theorem Mach.updOp_teams (t : Nat) (k : EngCtx) (n : Nat) (f : Op → Op) : (m.updOp t k n f).teams = m.teams := rfl
@[simp] theorem Mach.updOp_groups (t : Nat) (k : EngCtx) (n : Nat) (f : Op → Op) : (m.updOp t k n f).groups = m.groups := rfl
@[simp] theorem Mach.updOp_fibres (t : Nat) (k : EngCtx) (n : Nat) (f : Op → Op) : (m.updOp t k n f).fibres = m.fibres := rfl
@[simp] theorem Mach.updOp_outst (t : Nat) (k : EngCtx) (n : Nat) (f : Op → Op) : (m.updOp t k n f).outst = m.outst := rfl
@[simp] theorem Mach.updOp_ports (t : Nat) (k : EngCtx) (n : Nat) (f : Op → Op) : (m.updOp t k n f).ports = m.ports := rfl
@[simp] theorem Mach.updOp_pairs (t : Nat) (k : EngCtx) (n : Nat) (f : Op → Op) : (m.updOp t k n f).pairs = m.pairs := rfl
@[simp] theorem Mach.updOp_lastq (t : Nat) (k : EngCtx) (n : Nat) (f : Op → Op) : (m.updOp t k n f).lastq = m.lastq := rfl
@[simp] theorem Mach.updOp_ops (t : Nat) (k : EngCtx) (n : Nat) (f : Op → Op) : (m.updOp t k n f).ops = m.ops.map (fun o => if o.t = t ∧ o.k = k ∧ o.n = n then f o else o) := rfl
@[simp] theorem Mach.updOp_rings (t : Nat) (k : EngCtx) (n : Nat) (f : Op → Op) : (m.updOp t k n f).rings = m.rings := rfl
@[simp] theorem Mach.updOp_colls (t : Nat) (k : EngCtx) (n : Nat) (f : Op → Op) : (m.updOp t k n f).colls = m.colls := rfl
@[simp] theorem Mach.updOp_net (t : Nat) (k : EngCtx) (n : Nat) (f : Op → Op) : (m.updOp t k n f).net = m.net := rfl
@[simp] theorem Mach.updOp_fabPend (t : Nat) (k : EngCtx) (n : Nat) (f : Op → Op) : (m.updOp t k n f).fabPend = m.fabPend := rfl
@[simp] theorem Mach.updOp_vows (t : Nat) (k : EngCtx) (n : Nat) (f : Op → Op) : (m.updOp t k n f).vows = m.vows := rfl
@[simp] theorem Mach.updOp_hreqs (t : Nat) (k : EngCtx) (n : Nat) (f : Op → Op) : (m.updOp t k n f).hreqs = m.hreqs := rfl
@[simp] theorem Mach.updOp_tokens (t : Nat) (k : EngCtx) (n : Nat) (f : Op → Op) : (m.updOp t k n f).tokens = m.tokens := rfl
@[simp] theorem Mach.updOp_prefixed (t : Nat) (k : EngCtx) (n : Nat) (f : Op → Op) : (m.updOp t k n f).prefixed = m.prefixed := rfl
@[simp] theorem Mach.updOp_late (t : Nat) (k : EngCtx) (n : Nat) (f : Op → Op) : (m.updOp t k n f).late = m.late := rfl
@[simp] theorem Mach.updOp_inb (t : Nat) (k : EngCtx) (n : Nat) (f : Op → Op) : (m.updOp t k n f).inb = m.inb := rfl
@[simp] theorem Mach.updOp_serves (t : Nat) (k : EngCtx) (n : Nat) (f : Op → Op) : (m.updOp t k n f).serves = m.serves := rfl
@[simp] theorem Mach.updOp_parked (t : Nat) (k : EngCtx) (n : Nat) (f : Op → Op) : (m.updOp t k n f).parked = m.parked := rfl
@[simp] theorem Mach.updOp_hents (t : Nat) (k : EngCtx) (n : Nat) (f : Op → Op) : (m.updOp t k n f).hents = m.hents := rfl
@[simp] theorem Mach.updOp_invq (t : Nat) (k : EngCtx) (n : Nat) (f : Op → Op) : (m.updOp t k n f).invq = m.invq := rfl
@[simp] theorem Mach.updOp_regions (t : Nat) (k : EngCtx) (n : Nat) (f : Op → Op) : (m.updOp t k n f).regions = m.regions := rfl
@[simp] theorem Mach.updOp_driftSent (t : Nat) (k : EngCtx) (n : Nat) (f : Op → Op) : (m.updOp t k n f).driftSent = m.driftSent := rfl
@[simp] theorem Mach.updOp_snaps (t : Nat) (k : EngCtx) (n : Nat) (f : Op → Op) : (m.updOp t k n f).snaps = m.snaps := rfl
@[simp] theorem Mach.updOp_cycSnap (t : Nat) (k : EngCtx) (n : Nat) (f : Op → Op) : (m.updOp t k n f).cycSnap = m.cycSnap := rfl
@[simp] theorem Mach.updOp_queues (t : Nat) (k : EngCtx) (n : Nat) (f : Op → Op) : (m.updOp t k n f).queues = m.queues := rfl
@[simp] theorem Mach.updOp_dev (t : Nat) (k : EngCtx) (n : Nat) (f : Op → Op) : (m.updOp t k n f).dev = m.dev := rfl

/-! ### `Mach.updHent` -/

@[simp] theorem Mach.updHent_cyc (p idx : Nat) (f : HEnt → HEnt) : (m.updHent p idx f).cyc = m.cyc := rfl
@[simp] theorem Mach.updHent_dieOff (p idx : Nat) (f : HEnt → HEnt) : (m.updHent p idx f).dieOff = m.dieOff := rfl
@[simp] theorem Mach.updHent_wsPhase (p idx : Nat) (f : HEnt → HEnt) : (m.updHent p idx f).wsPhase = m.wsPhase := rfl
@[simp] theorem Mach.updHent_agenda (p idx : Nat) (f : HEnt → HEnt) : (m.updHent p idx f).agenda = m.agenda := rfl
@[simp] theorem Mach.updHent_focus (p idx : Nat) (f : HEnt → HEnt) : (m.updHent p idx f).focus = m.focus := rfl
@[simp] theorem Mach.updHent_free (p idx : Nat) (f : HEnt → HEnt) : (m.updHent p idx f).free = m.free := rfl
@[simp] theorem Mach.updHent_fresh (p idx : Nat) (f : HEnt → HEnt) : (m.updHent p idx f).fresh = m.fresh := rfl
@[simp] theorem Mach.updHent_round (p idx : Nat) (f : HEnt → HEnt) : (m.updHent p idx f).round = m.round := rfl
@[simp] theorem Mach.updHent_mem (p idx : Nat) (f : HEnt → HEnt) : (m.updHent p idx f).mem = m.mem := rfl
@[simp] theorem Mach.updHent_tags (p idx : Nat) (f : HEnt → HEnt) : (m.updHent p idx f).tags = m.tags := rfl
@[simp] theorem Mach.updHent_scr (p idx : Nat) (f : HEnt → HEnt) : (m.updHent p idx f).scr = m.scr := rfl
@[simp] theorem Mach.updHent_gran (p idx : Nat) (f : HEnt → HEnt) : (m.updHent p idx f).gran = m.gran := rfl
@[simp] theorem Mach.updHent_regs (p idx : Nat) (f : HEnt → HEnt) : (m.updHent p idx f).regs = m.regs := rfl
@[simp] theorem Mach.updHent_lats (p idx : Nat) (f : HEnt → HEnt) : (m.updHent p idx f).lats = m.lats := rfl
@[simp] theorem Mach.updHent_acc (p idx : Nat) (f : HEnt → HEnt) : (m.updHent p idx f).acc = m.acc := rfl
@[simp] theorem Mach.updHent_scale (p idx : Nat) (f : HEnt → HEnt) : (m.updHent p idx f).scale = m.scale := rfl
@[simp] theorem Mach.updHent_gens (p idx : Nat) (f : HEnt → HEnt) : (m.updHent p idx f).gens = m.gens := rfl
@[simp] theorem Mach.updHent_hgens (p idx : Nat) (f : HEnt → HEnt) : (m.updHent p idx f).hgens = m.hgens := rfl
@[simp] theorem Mach.updHent_poison (p idx : Nat) (f : HEnt → HEnt) : (m.updHent p idx f).poison = m.poison := rfl
@[simp] theorem Mach.updHent_regErr (p idx : Nat) (f : HEnt → HEnt) : (m.updHent p idx f).regErr = m.regErr := rfl
@[simp] theorem Mach.updHent_latErr (p idx : Nat) (f : HEnt → HEnt) : (m.updHent p idx f).latErr = m.latErr := rfl
@[simp] theorem Mach.updHent_accErr (p idx : Nat) (f : HEnt → HEnt) : (m.updHent p idx f).accErr = m.accErr := rfl
@[simp] theorem Mach.updHent_scaleErr (p idx : Nat) (f : HEnt → HEnt) : (m.updHent p idx f).scaleErr = m.scaleErr := rfl
@[simp] theorem Mach.updHent_bufs (p idx : Nat) (f : HEnt → HEnt) : (m.updHent p idx f).bufs = m.bufs := rfl
@[simp] theorem Mach.updHent_copies (p idx : Nat) (f : HEnt → HEnt) : (m.updHent p idx f).copies = m.copies := rfl
@[simp] theorem Mach.updHent_blocks (p idx : Nat) (f : HEnt → HEnt) : (m.updHent p idx f).blocks = m.blocks := rfl
@[simp] theorem Mach.updHent_marks (p idx : Nat) (f : HEnt → HEnt) : (m.updHent p idx f).marks = m.marks := rfl
@[simp] theorem Mach.updHent_hist (p idx : Nat) (f : HEnt → HEnt) : (m.updHent p idx f).hist = m.hist := rfl
@[simp] theorem Mach.updHent_away (p idx : Nat) (f : HEnt → HEnt) : (m.updHent p idx f).away = m.away := rfl
@[simp] theorem Mach.updHent_tlb (p idx : Nat) (f : HEnt → HEnt) : (m.updHent p idx f).tlb = m.tlb := rfl
@[simp] theorem Mach.updHent_missq (p idx : Nat) (f : HEnt → HEnt) : (m.updHent p idx f).missq = m.missq := rfl
@[simp] theorem Mach.updHent_icache (p idx : Nat) (f : HEnt → HEnt) : (m.updHent p idx f).icache = m.icache := rfl
@[simp] theorem Mach.updHent_pcache (p idx : Nat) (f : HEnt → HEnt) : (m.updHent p idx f).pcache = m.pcache := rfl
@[simp] theorem Mach.updHent_ways (p idx : Nat) (f : HEnt → HEnt) : (m.updHent p idx f).ways = m.ways := rfl
@[simp] theorem Mach.updHent_delayed (p idx : Nat) (f : HEnt → HEnt) : (m.updHent p idx f).delayed = m.delayed := rfl
@[simp] theorem Mach.updHent_launches (p idx : Nat) (f : HEnt → HEnt) : (m.updHent p idx f).launches = m.launches := rfl
@[simp] theorem Mach.updHent_clusters (p idx : Nat) (f : HEnt → HEnt) : (m.updHent p idx f).clusters = m.clusters := rfl
@[simp] theorem Mach.updHent_teams (p idx : Nat) (f : HEnt → HEnt) : (m.updHent p idx f).teams = m.teams := rfl
@[simp] theorem Mach.updHent_groups (p idx : Nat) (f : HEnt → HEnt) : (m.updHent p idx f).groups = m.groups := rfl
@[simp] theorem Mach.updHent_fibres (p idx : Nat) (f : HEnt → HEnt) : (m.updHent p idx f).fibres = m.fibres := rfl
@[simp] theorem Mach.updHent_outst (p idx : Nat) (f : HEnt → HEnt) : (m.updHent p idx f).outst = m.outst := rfl
@[simp] theorem Mach.updHent_ports (p idx : Nat) (f : HEnt → HEnt) : (m.updHent p idx f).ports = m.ports := rfl
@[simp] theorem Mach.updHent_pairs (p idx : Nat) (f : HEnt → HEnt) : (m.updHent p idx f).pairs = m.pairs := rfl
@[simp] theorem Mach.updHent_lastq (p idx : Nat) (f : HEnt → HEnt) : (m.updHent p idx f).lastq = m.lastq := rfl
@[simp] theorem Mach.updHent_ops (p idx : Nat) (f : HEnt → HEnt) : (m.updHent p idx f).ops = m.ops := rfl
@[simp] theorem Mach.updHent_rings (p idx : Nat) (f : HEnt → HEnt) : (m.updHent p idx f).rings = m.rings := rfl
@[simp] theorem Mach.updHent_colls (p idx : Nat) (f : HEnt → HEnt) : (m.updHent p idx f).colls = m.colls := rfl
@[simp] theorem Mach.updHent_net (p idx : Nat) (f : HEnt → HEnt) : (m.updHent p idx f).net = m.net := rfl
@[simp] theorem Mach.updHent_fabPend (p idx : Nat) (f : HEnt → HEnt) : (m.updHent p idx f).fabPend = m.fabPend := rfl
@[simp] theorem Mach.updHent_vows (p idx : Nat) (f : HEnt → HEnt) : (m.updHent p idx f).vows = m.vows := rfl
@[simp] theorem Mach.updHent_hreqs (p idx : Nat) (f : HEnt → HEnt) : (m.updHent p idx f).hreqs = m.hreqs := rfl
@[simp] theorem Mach.updHent_tokens (p idx : Nat) (f : HEnt → HEnt) : (m.updHent p idx f).tokens = m.tokens := rfl
@[simp] theorem Mach.updHent_prefixed (p idx : Nat) (f : HEnt → HEnt) : (m.updHent p idx f).prefixed = m.prefixed := rfl
@[simp] theorem Mach.updHent_late (p idx : Nat) (f : HEnt → HEnt) : (m.updHent p idx f).late = m.late := rfl
@[simp] theorem Mach.updHent_inb (p idx : Nat) (f : HEnt → HEnt) : (m.updHent p idx f).inb = m.inb := rfl
@[simp] theorem Mach.updHent_serves (p idx : Nat) (f : HEnt → HEnt) : (m.updHent p idx f).serves = m.serves := rfl
@[simp] theorem Mach.updHent_parked (p idx : Nat) (f : HEnt → HEnt) : (m.updHent p idx f).parked = m.parked := rfl
@[simp] theorem Mach.updHent_invq (p idx : Nat) (f : HEnt → HEnt) : (m.updHent p idx f).invq = m.invq := rfl
@[simp] theorem Mach.updHent_regions (p idx : Nat) (f : HEnt → HEnt) : (m.updHent p idx f).regions = m.regions := rfl
@[simp] theorem Mach.updHent_driftSent (p idx : Nat) (f : HEnt → HEnt) : (m.updHent p idx f).driftSent = m.driftSent := rfl
@[simp] theorem Mach.updHent_snaps (p idx : Nat) (f : HEnt → HEnt) : (m.updHent p idx f).snaps = m.snaps := rfl
@[simp] theorem Mach.updHent_cycSnap (p idx : Nat) (f : HEnt → HEnt) : (m.updHent p idx f).cycSnap = m.cycSnap := rfl
@[simp] theorem Mach.updHent_queues (p idx : Nat) (f : HEnt → HEnt) : (m.updHent p idx f).queues = m.queues := rfl
@[simp] theorem Mach.updHent_dev (p idx : Nat) (f : HEnt → HEnt) : (m.updHent p idx f).dev = m.dev := rfl

/-! ### `Mach.updReq` -/

@[simp] theorem Mach.updReq_cyc (order : Nat) (f : HReq → HReq) : (m.updReq order f).cyc = m.cyc := rfl
@[simp] theorem Mach.updReq_dieOff (order : Nat) (f : HReq → HReq) : (m.updReq order f).dieOff = m.dieOff := rfl
@[simp] theorem Mach.updReq_wsPhase (order : Nat) (f : HReq → HReq) : (m.updReq order f).wsPhase = m.wsPhase := rfl
@[simp] theorem Mach.updReq_agenda (order : Nat) (f : HReq → HReq) : (m.updReq order f).agenda = m.agenda := rfl
@[simp] theorem Mach.updReq_focus (order : Nat) (f : HReq → HReq) : (m.updReq order f).focus = m.focus := rfl
@[simp] theorem Mach.updReq_free (order : Nat) (f : HReq → HReq) : (m.updReq order f).free = m.free := rfl
@[simp] theorem Mach.updReq_fresh (order : Nat) (f : HReq → HReq) : (m.updReq order f).fresh = m.fresh := rfl
@[simp] theorem Mach.updReq_round (order : Nat) (f : HReq → HReq) : (m.updReq order f).round = m.round := rfl
@[simp] theorem Mach.updReq_mem (order : Nat) (f : HReq → HReq) : (m.updReq order f).mem = m.mem := rfl
@[simp] theorem Mach.updReq_tags (order : Nat) (f : HReq → HReq) : (m.updReq order f).tags = m.tags := rfl
@[simp] theorem Mach.updReq_scr (order : Nat) (f : HReq → HReq) : (m.updReq order f).scr = m.scr := rfl
@[simp] theorem Mach.updReq_gran (order : Nat) (f : HReq → HReq) : (m.updReq order f).gran = m.gran := rfl
@[simp] theorem Mach.updReq_regs (order : Nat) (f : HReq → HReq) : (m.updReq order f).regs = m.regs := rfl
@[simp] theorem Mach.updReq_lats (order : Nat) (f : HReq → HReq) : (m.updReq order f).lats = m.lats := rfl
@[simp] theorem Mach.updReq_acc (order : Nat) (f : HReq → HReq) : (m.updReq order f).acc = m.acc := rfl
@[simp] theorem Mach.updReq_scale (order : Nat) (f : HReq → HReq) : (m.updReq order f).scale = m.scale := rfl
@[simp] theorem Mach.updReq_gens (order : Nat) (f : HReq → HReq) : (m.updReq order f).gens = m.gens := rfl
@[simp] theorem Mach.updReq_hgens (order : Nat) (f : HReq → HReq) : (m.updReq order f).hgens = m.hgens := rfl
@[simp] theorem Mach.updReq_poison (order : Nat) (f : HReq → HReq) : (m.updReq order f).poison = m.poison := rfl
@[simp] theorem Mach.updReq_regErr (order : Nat) (f : HReq → HReq) : (m.updReq order f).regErr = m.regErr := rfl
@[simp] theorem Mach.updReq_latErr (order : Nat) (f : HReq → HReq) : (m.updReq order f).latErr = m.latErr := rfl
@[simp] theorem Mach.updReq_accErr (order : Nat) (f : HReq → HReq) : (m.updReq order f).accErr = m.accErr := rfl
@[simp] theorem Mach.updReq_scaleErr (order : Nat) (f : HReq → HReq) : (m.updReq order f).scaleErr = m.scaleErr := rfl
@[simp] theorem Mach.updReq_bufs (order : Nat) (f : HReq → HReq) : (m.updReq order f).bufs = m.bufs := rfl
@[simp] theorem Mach.updReq_copies (order : Nat) (f : HReq → HReq) : (m.updReq order f).copies = m.copies := rfl
@[simp] theorem Mach.updReq_blocks (order : Nat) (f : HReq → HReq) : (m.updReq order f).blocks = m.blocks := rfl
@[simp] theorem Mach.updReq_marks (order : Nat) (f : HReq → HReq) : (m.updReq order f).marks = m.marks := rfl
@[simp] theorem Mach.updReq_hist (order : Nat) (f : HReq → HReq) : (m.updReq order f).hist = m.hist := rfl
@[simp] theorem Mach.updReq_away (order : Nat) (f : HReq → HReq) : (m.updReq order f).away = m.away := rfl
@[simp] theorem Mach.updReq_tlb (order : Nat) (f : HReq → HReq) : (m.updReq order f).tlb = m.tlb := rfl
@[simp] theorem Mach.updReq_missq (order : Nat) (f : HReq → HReq) : (m.updReq order f).missq = m.missq := rfl
@[simp] theorem Mach.updReq_icache (order : Nat) (f : HReq → HReq) : (m.updReq order f).icache = m.icache := rfl
@[simp] theorem Mach.updReq_pcache (order : Nat) (f : HReq → HReq) : (m.updReq order f).pcache = m.pcache := rfl
@[simp] theorem Mach.updReq_ways (order : Nat) (f : HReq → HReq) : (m.updReq order f).ways = m.ways := rfl
@[simp] theorem Mach.updReq_delayed (order : Nat) (f : HReq → HReq) : (m.updReq order f).delayed = m.delayed := rfl
@[simp] theorem Mach.updReq_launches (order : Nat) (f : HReq → HReq) : (m.updReq order f).launches = m.launches := rfl
@[simp] theorem Mach.updReq_clusters (order : Nat) (f : HReq → HReq) : (m.updReq order f).clusters = m.clusters := rfl
@[simp] theorem Mach.updReq_teams (order : Nat) (f : HReq → HReq) : (m.updReq order f).teams = m.teams := rfl
@[simp] theorem Mach.updReq_groups (order : Nat) (f : HReq → HReq) : (m.updReq order f).groups = m.groups := rfl
@[simp] theorem Mach.updReq_fibres (order : Nat) (f : HReq → HReq) : (m.updReq order f).fibres = m.fibres := rfl
@[simp] theorem Mach.updReq_outst (order : Nat) (f : HReq → HReq) : (m.updReq order f).outst = m.outst := rfl
@[simp] theorem Mach.updReq_ports (order : Nat) (f : HReq → HReq) : (m.updReq order f).ports = m.ports := rfl
@[simp] theorem Mach.updReq_pairs (order : Nat) (f : HReq → HReq) : (m.updReq order f).pairs = m.pairs := rfl
@[simp] theorem Mach.updReq_lastq (order : Nat) (f : HReq → HReq) : (m.updReq order f).lastq = m.lastq := rfl
@[simp] theorem Mach.updReq_ops (order : Nat) (f : HReq → HReq) : (m.updReq order f).ops = m.ops := rfl
@[simp] theorem Mach.updReq_rings (order : Nat) (f : HReq → HReq) : (m.updReq order f).rings = m.rings := rfl
@[simp] theorem Mach.updReq_colls (order : Nat) (f : HReq → HReq) : (m.updReq order f).colls = m.colls := rfl
@[simp] theorem Mach.updReq_net (order : Nat) (f : HReq → HReq) : (m.updReq order f).net = m.net := rfl
@[simp] theorem Mach.updReq_fabPend (order : Nat) (f : HReq → HReq) : (m.updReq order f).fabPend = m.fabPend := rfl
@[simp] theorem Mach.updReq_vows (order : Nat) (f : HReq → HReq) : (m.updReq order f).vows = m.vows := rfl
@[simp] theorem Mach.updReq_tokens (order : Nat) (f : HReq → HReq) : (m.updReq order f).tokens = m.tokens := rfl
@[simp] theorem Mach.updReq_prefixed (order : Nat) (f : HReq → HReq) : (m.updReq order f).prefixed = m.prefixed := rfl
@[simp] theorem Mach.updReq_late (order : Nat) (f : HReq → HReq) : (m.updReq order f).late = m.late := rfl
@[simp] theorem Mach.updReq_inb (order : Nat) (f : HReq → HReq) : (m.updReq order f).inb = m.inb := rfl
@[simp] theorem Mach.updReq_serves (order : Nat) (f : HReq → HReq) : (m.updReq order f).serves = m.serves := rfl
@[simp] theorem Mach.updReq_parked (order : Nat) (f : HReq → HReq) : (m.updReq order f).parked = m.parked := rfl
@[simp] theorem Mach.updReq_hents (order : Nat) (f : HReq → HReq) : (m.updReq order f).hents = m.hents := rfl
@[simp] theorem Mach.updReq_invq (order : Nat) (f : HReq → HReq) : (m.updReq order f).invq = m.invq := rfl
@[simp] theorem Mach.updReq_regions (order : Nat) (f : HReq → HReq) : (m.updReq order f).regions = m.regions := rfl
@[simp] theorem Mach.updReq_driftSent (order : Nat) (f : HReq → HReq) : (m.updReq order f).driftSent = m.driftSent := rfl
@[simp] theorem Mach.updReq_snaps (order : Nat) (f : HReq → HReq) : (m.updReq order f).snaps = m.snaps := rfl
@[simp] theorem Mach.updReq_cycSnap (order : Nat) (f : HReq → HReq) : (m.updReq order f).cycSnap = m.cycSnap := rfl
@[simp] theorem Mach.updReq_queues (order : Nat) (f : HReq → HReq) : (m.updReq order f).queues = m.queues := rfl
@[simp] theorem Mach.updReq_dev (order : Nat) (f : HReq → HReq) : (m.updReq order f).dev = m.dev := rfl

/-! ### `Mach.setQueue` -/

@[simp] theorem Mach.setQueue_cyc (qu : Queue) : (m.setQueue qu).cyc = m.cyc := rfl
@[simp] theorem Mach.setQueue_dieOff (qu : Queue) : (m.setQueue qu).dieOff = m.dieOff := rfl
@[simp] theorem Mach.setQueue_wsPhase (qu : Queue) : (m.setQueue qu).wsPhase = m.wsPhase := rfl
@[simp] theorem Mach.setQueue_agenda (qu : Queue) : (m.setQueue qu).agenda = m.agenda := rfl
@[simp] theorem Mach.setQueue_focus (qu : Queue) : (m.setQueue qu).focus = m.focus := rfl
@[simp] theorem Mach.setQueue_free (qu : Queue) : (m.setQueue qu).free = m.free := rfl
@[simp] theorem Mach.setQueue_fresh (qu : Queue) : (m.setQueue qu).fresh = m.fresh := rfl
@[simp] theorem Mach.setQueue_round (qu : Queue) : (m.setQueue qu).round = m.round := rfl
@[simp] theorem Mach.setQueue_mem (qu : Queue) : (m.setQueue qu).mem = m.mem := rfl
@[simp] theorem Mach.setQueue_tags (qu : Queue) : (m.setQueue qu).tags = m.tags := rfl
@[simp] theorem Mach.setQueue_scr (qu : Queue) : (m.setQueue qu).scr = m.scr := rfl
@[simp] theorem Mach.setQueue_gran (qu : Queue) : (m.setQueue qu).gran = m.gran := rfl
@[simp] theorem Mach.setQueue_regs (qu : Queue) : (m.setQueue qu).regs = m.regs := rfl
@[simp] theorem Mach.setQueue_lats (qu : Queue) : (m.setQueue qu).lats = m.lats := rfl
@[simp] theorem Mach.setQueue_acc (qu : Queue) : (m.setQueue qu).acc = m.acc := rfl
@[simp] theorem Mach.setQueue_scale (qu : Queue) : (m.setQueue qu).scale = m.scale := rfl
@[simp] theorem Mach.setQueue_gens (qu : Queue) : (m.setQueue qu).gens = m.gens := rfl
@[simp] theorem Mach.setQueue_hgens (qu : Queue) : (m.setQueue qu).hgens = m.hgens := rfl
@[simp] theorem Mach.setQueue_poison (qu : Queue) : (m.setQueue qu).poison = m.poison := rfl
@[simp] theorem Mach.setQueue_regErr (qu : Queue) : (m.setQueue qu).regErr = m.regErr := rfl
@[simp] theorem Mach.setQueue_latErr (qu : Queue) : (m.setQueue qu).latErr = m.latErr := rfl
@[simp] theorem Mach.setQueue_accErr (qu : Queue) : (m.setQueue qu).accErr = m.accErr := rfl
@[simp] theorem Mach.setQueue_scaleErr (qu : Queue) : (m.setQueue qu).scaleErr = m.scaleErr := rfl
@[simp] theorem Mach.setQueue_bufs (qu : Queue) : (m.setQueue qu).bufs = m.bufs := rfl
@[simp] theorem Mach.setQueue_copies (qu : Queue) : (m.setQueue qu).copies = m.copies := rfl
@[simp] theorem Mach.setQueue_blocks (qu : Queue) : (m.setQueue qu).blocks = m.blocks := rfl
@[simp] theorem Mach.setQueue_marks (qu : Queue) : (m.setQueue qu).marks = m.marks := rfl
@[simp] theorem Mach.setQueue_hist (qu : Queue) : (m.setQueue qu).hist = m.hist := rfl
@[simp] theorem Mach.setQueue_away (qu : Queue) : (m.setQueue qu).away = m.away := rfl
@[simp] theorem Mach.setQueue_tlb (qu : Queue) : (m.setQueue qu).tlb = m.tlb := rfl
@[simp] theorem Mach.setQueue_missq (qu : Queue) : (m.setQueue qu).missq = m.missq := rfl
@[simp] theorem Mach.setQueue_icache (qu : Queue) : (m.setQueue qu).icache = m.icache := rfl
@[simp] theorem Mach.setQueue_pcache (qu : Queue) : (m.setQueue qu).pcache = m.pcache := rfl
@[simp] theorem Mach.setQueue_ways (qu : Queue) : (m.setQueue qu).ways = m.ways := rfl
@[simp] theorem Mach.setQueue_delayed (qu : Queue) : (m.setQueue qu).delayed = m.delayed := rfl
@[simp] theorem Mach.setQueue_launches (qu : Queue) : (m.setQueue qu).launches = m.launches := rfl
@[simp] theorem Mach.setQueue_clusters (qu : Queue) : (m.setQueue qu).clusters = m.clusters := rfl
@[simp] theorem Mach.setQueue_teams (qu : Queue) : (m.setQueue qu).teams = m.teams := rfl
@[simp] theorem Mach.setQueue_groups (qu : Queue) : (m.setQueue qu).groups = m.groups := rfl
@[simp] theorem Mach.setQueue_fibres (qu : Queue) : (m.setQueue qu).fibres = m.fibres := rfl
@[simp] theorem Mach.setQueue_outst (qu : Queue) : (m.setQueue qu).outst = m.outst := rfl
@[simp] theorem Mach.setQueue_ports (qu : Queue) : (m.setQueue qu).ports = m.ports := rfl
@[simp] theorem Mach.setQueue_pairs (qu : Queue) : (m.setQueue qu).pairs = m.pairs := rfl
@[simp] theorem Mach.setQueue_lastq (qu : Queue) : (m.setQueue qu).lastq = m.lastq := rfl
@[simp] theorem Mach.setQueue_ops (qu : Queue) : (m.setQueue qu).ops = m.ops := rfl
@[simp] theorem Mach.setQueue_rings (qu : Queue) : (m.setQueue qu).rings = m.rings := rfl
@[simp] theorem Mach.setQueue_colls (qu : Queue) : (m.setQueue qu).colls = m.colls := rfl
@[simp] theorem Mach.setQueue_net (qu : Queue) : (m.setQueue qu).net = m.net := rfl
@[simp] theorem Mach.setQueue_fabPend (qu : Queue) : (m.setQueue qu).fabPend = m.fabPend := rfl
@[simp] theorem Mach.setQueue_vows (qu : Queue) : (m.setQueue qu).vows = m.vows := rfl
@[simp] theorem Mach.setQueue_hreqs (qu : Queue) : (m.setQueue qu).hreqs = m.hreqs := rfl
@[simp] theorem Mach.setQueue_tokens (qu : Queue) : (m.setQueue qu).tokens = m.tokens := rfl
@[simp] theorem Mach.setQueue_prefixed (qu : Queue) : (m.setQueue qu).prefixed = m.prefixed := rfl
@[simp] theorem Mach.setQueue_late (qu : Queue) : (m.setQueue qu).late = m.late := rfl
@[simp] theorem Mach.setQueue_inb (qu : Queue) : (m.setQueue qu).inb = m.inb := rfl
@[simp] theorem Mach.setQueue_serves (qu : Queue) : (m.setQueue qu).serves = m.serves := rfl
@[simp] theorem Mach.setQueue_parked (qu : Queue) : (m.setQueue qu).parked = m.parked := rfl
@[simp] theorem Mach.setQueue_hents (qu : Queue) : (m.setQueue qu).hents = m.hents := rfl
@[simp] theorem Mach.setQueue_invq (qu : Queue) : (m.setQueue qu).invq = m.invq := rfl
@[simp] theorem Mach.setQueue_regions (qu : Queue) : (m.setQueue qu).regions = m.regions := rfl
@[simp] theorem Mach.setQueue_driftSent (qu : Queue) : (m.setQueue qu).driftSent = m.driftSent := rfl
@[simp] theorem Mach.setQueue_snaps (qu : Queue) : (m.setQueue qu).snaps = m.snaps := rfl
@[simp] theorem Mach.setQueue_cycSnap (qu : Queue) : (m.setQueue qu).cycSnap = m.cycSnap := rfl
@[simp] theorem Mach.setQueue_queues (qu : Queue) : (m.setQueue qu).queues = qu :: m.queues.filter (fun x => x.q != qu.q) := rfl
@[simp] theorem Mach.setQueue_dev (qu : Queue) : (m.setQueue qu).dev = m.dev := rfl

/-! ### `Mach.setPort` -/

@[simp] theorem Mach.setPort_cyc (po : Port) : (m.setPort po).cyc = m.cyc := rfl
@[simp] theorem Mach.setPort_dieOff (po : Port) : (m.setPort po).dieOff = m.dieOff := rfl
@[simp] theorem Mach.setPort_wsPhase (po : Port) : (m.setPort po).wsPhase = m.wsPhase := rfl
@[simp] theorem Mach.setPort_agenda (po : Port) : (m.setPort po).agenda = m.agenda := rfl
@[simp] theorem Mach.setPort_focus (po : Port) : (m.setPort po).focus = m.focus := rfl
@[simp] theorem Mach.setPort_free (po : Port) : (m.setPort po).free = m.free := rfl
@[simp] theorem Mach.setPort_fresh (po : Port) : (m.setPort po).fresh = m.fresh := rfl
@[simp] theorem Mach.setPort_round (po : Port) : (m.setPort po).round = m.round := rfl
@[simp] theorem Mach.setPort_mem (po : Port) : (m.setPort po).mem = m.mem := rfl
@[simp] theorem Mach.setPort_tags (po : Port) : (m.setPort po).tags = m.tags := rfl
@[simp] theorem Mach.setPort_scr (po : Port) : (m.setPort po).scr = m.scr := rfl
@[simp] theorem Mach.setPort_gran (po : Port) : (m.setPort po).gran = m.gran := rfl
@[simp] theorem Mach.setPort_regs (po : Port) : (m.setPort po).regs = m.regs := rfl
@[simp] theorem Mach.setPort_lats (po : Port) : (m.setPort po).lats = m.lats := rfl
@[simp] theorem Mach.setPort_acc (po : Port) : (m.setPort po).acc = m.acc := rfl
@[simp] theorem Mach.setPort_scale (po : Port) : (m.setPort po).scale = m.scale := rfl
@[simp] theorem Mach.setPort_gens (po : Port) : (m.setPort po).gens = m.gens := rfl
@[simp] theorem Mach.setPort_hgens (po : Port) : (m.setPort po).hgens = m.hgens := rfl
@[simp] theorem Mach.setPort_poison (po : Port) : (m.setPort po).poison = m.poison := rfl
@[simp] theorem Mach.setPort_regErr (po : Port) : (m.setPort po).regErr = m.regErr := rfl
@[simp] theorem Mach.setPort_latErr (po : Port) : (m.setPort po).latErr = m.latErr := rfl
@[simp] theorem Mach.setPort_accErr (po : Port) : (m.setPort po).accErr = m.accErr := rfl
@[simp] theorem Mach.setPort_scaleErr (po : Port) : (m.setPort po).scaleErr = m.scaleErr := rfl
@[simp] theorem Mach.setPort_bufs (po : Port) : (m.setPort po).bufs = m.bufs := rfl
@[simp] theorem Mach.setPort_copies (po : Port) : (m.setPort po).copies = m.copies := rfl
@[simp] theorem Mach.setPort_blocks (po : Port) : (m.setPort po).blocks = m.blocks := rfl
@[simp] theorem Mach.setPort_marks (po : Port) : (m.setPort po).marks = m.marks := rfl
@[simp] theorem Mach.setPort_hist (po : Port) : (m.setPort po).hist = m.hist := rfl
@[simp] theorem Mach.setPort_away (po : Port) : (m.setPort po).away = m.away := rfl
@[simp] theorem Mach.setPort_tlb (po : Port) : (m.setPort po).tlb = m.tlb := rfl
@[simp] theorem Mach.setPort_missq (po : Port) : (m.setPort po).missq = m.missq := rfl
@[simp] theorem Mach.setPort_icache (po : Port) : (m.setPort po).icache = m.icache := rfl
@[simp] theorem Mach.setPort_pcache (po : Port) : (m.setPort po).pcache = m.pcache := rfl
@[simp] theorem Mach.setPort_ways (po : Port) : (m.setPort po).ways = m.ways := rfl
@[simp] theorem Mach.setPort_delayed (po : Port) : (m.setPort po).delayed = m.delayed := rfl
@[simp] theorem Mach.setPort_launches (po : Port) : (m.setPort po).launches = m.launches := rfl
@[simp] theorem Mach.setPort_clusters (po : Port) : (m.setPort po).clusters = m.clusters := rfl
@[simp] theorem Mach.setPort_teams (po : Port) : (m.setPort po).teams = m.teams := rfl
@[simp] theorem Mach.setPort_groups (po : Port) : (m.setPort po).groups = m.groups := rfl
@[simp] theorem Mach.setPort_fibres (po : Port) : (m.setPort po).fibres = m.fibres := rfl
@[simp] theorem Mach.setPort_outst (po : Port) : (m.setPort po).outst = m.outst := rfl
@[simp] theorem Mach.setPort_ports (po : Port) : (m.setPort po).ports = po :: m.ports.filter (fun x => !(x.core == po.core && x.quad == po.quad)) := rfl
@[simp] theorem Mach.setPort_pairs (po : Port) : (m.setPort po).pairs = m.pairs := rfl
@[simp] theorem Mach.setPort_lastq (po : Port) : (m.setPort po).lastq = m.lastq := rfl
@[simp] theorem Mach.setPort_ops (po : Port) : (m.setPort po).ops = m.ops := rfl
@[simp] theorem Mach.setPort_rings (po : Port) : (m.setPort po).rings = m.rings := rfl
@[simp] theorem Mach.setPort_colls (po : Port) : (m.setPort po).colls = m.colls := rfl
@[simp] theorem Mach.setPort_net (po : Port) : (m.setPort po).net = m.net := rfl
@[simp] theorem Mach.setPort_fabPend (po : Port) : (m.setPort po).fabPend = m.fabPend := rfl
@[simp] theorem Mach.setPort_vows (po : Port) : (m.setPort po).vows = m.vows := rfl
@[simp] theorem Mach.setPort_hreqs (po : Port) : (m.setPort po).hreqs = m.hreqs := rfl
@[simp] theorem Mach.setPort_tokens (po : Port) : (m.setPort po).tokens = m.tokens := rfl
@[simp] theorem Mach.setPort_prefixed (po : Port) : (m.setPort po).prefixed = m.prefixed := rfl
@[simp] theorem Mach.setPort_late (po : Port) : (m.setPort po).late = m.late := rfl
@[simp] theorem Mach.setPort_inb (po : Port) : (m.setPort po).inb = m.inb := rfl
@[simp] theorem Mach.setPort_serves (po : Port) : (m.setPort po).serves = m.serves := rfl
@[simp] theorem Mach.setPort_parked (po : Port) : (m.setPort po).parked = m.parked := rfl
@[simp] theorem Mach.setPort_hents (po : Port) : (m.setPort po).hents = m.hents := rfl
@[simp] theorem Mach.setPort_invq (po : Port) : (m.setPort po).invq = m.invq := rfl
@[simp] theorem Mach.setPort_regions (po : Port) : (m.setPort po).regions = m.regions := rfl
@[simp] theorem Mach.setPort_driftSent (po : Port) : (m.setPort po).driftSent = m.driftSent := rfl
@[simp] theorem Mach.setPort_snaps (po : Port) : (m.setPort po).snaps = m.snaps := rfl
@[simp] theorem Mach.setPort_cycSnap (po : Port) : (m.setPort po).cycSnap = m.cycSnap := rfl
@[simp] theorem Mach.setPort_queues (po : Port) : (m.setPort po).queues = m.queues := rfl
@[simp] theorem Mach.setPort_dev (po : Port) : (m.setPort po).dev = m.dev := rfl

/-! ### `Mach.setGranule` -/

@[simp] theorem Mach.setGranule_cyc (t gr : Nat) (x : Bool × BitVec 16) : (m.setGranule t gr x).cyc = m.cyc := rfl
@[simp] theorem Mach.setGranule_dieOff (t gr : Nat) (x : Bool × BitVec 16) : (m.setGranule t gr x).dieOff = m.dieOff := rfl
@[simp] theorem Mach.setGranule_wsPhase (t gr : Nat) (x : Bool × BitVec 16) : (m.setGranule t gr x).wsPhase = m.wsPhase := rfl
@[simp] theorem Mach.setGranule_agenda (t gr : Nat) (x : Bool × BitVec 16) : (m.setGranule t gr x).agenda = m.agenda := rfl
@[simp] theorem Mach.setGranule_focus (t gr : Nat) (x : Bool × BitVec 16) : (m.setGranule t gr x).focus = m.focus := rfl
@[simp] theorem Mach.setGranule_free (t gr : Nat) (x : Bool × BitVec 16) : (m.setGranule t gr x).free = m.free := rfl
@[simp] theorem Mach.setGranule_fresh (t gr : Nat) (x : Bool × BitVec 16) : (m.setGranule t gr x).fresh = m.fresh := rfl
@[simp] theorem Mach.setGranule_round (t gr : Nat) (x : Bool × BitVec 16) : (m.setGranule t gr x).round = m.round := rfl
@[simp] theorem Mach.setGranule_mem (t gr : Nat) (x : Bool × BitVec 16) : (m.setGranule t gr x).mem = m.mem := rfl
@[simp] theorem Mach.setGranule_tags (t gr : Nat) (x : Bool × BitVec 16) : (m.setGranule t gr x).tags = m.tags := rfl
@[simp] theorem Mach.setGranule_scr (t gr : Nat) (x : Bool × BitVec 16) : (m.setGranule t gr x).scr = m.scr := rfl
@[simp] theorem Mach.setGranule_gran (t gr : Nat) (x : Bool × BitVec 16) : (m.setGranule t gr x).gran = smSet (true, 0xFFFF) m.gran (granKey t gr) x := rfl
@[simp] theorem Mach.setGranule_regs (t gr : Nat) (x : Bool × BitVec 16) : (m.setGranule t gr x).regs = m.regs := rfl
@[simp] theorem Mach.setGranule_lats (t gr : Nat) (x : Bool × BitVec 16) : (m.setGranule t gr x).lats = m.lats := rfl
@[simp] theorem Mach.setGranule_acc (t gr : Nat) (x : Bool × BitVec 16) : (m.setGranule t gr x).acc = m.acc := rfl
@[simp] theorem Mach.setGranule_scale (t gr : Nat) (x : Bool × BitVec 16) : (m.setGranule t gr x).scale = m.scale := rfl
@[simp] theorem Mach.setGranule_gens (t gr : Nat) (x : Bool × BitVec 16) : (m.setGranule t gr x).gens = m.gens := rfl
@[simp] theorem Mach.setGranule_hgens (t gr : Nat) (x : Bool × BitVec 16) : (m.setGranule t gr x).hgens = m.hgens := rfl
@[simp] theorem Mach.setGranule_poison (t gr : Nat) (x : Bool × BitVec 16) : (m.setGranule t gr x).poison = m.poison := rfl
@[simp] theorem Mach.setGranule_regErr (t gr : Nat) (x : Bool × BitVec 16) : (m.setGranule t gr x).regErr = m.regErr := rfl
@[simp] theorem Mach.setGranule_latErr (t gr : Nat) (x : Bool × BitVec 16) : (m.setGranule t gr x).latErr = m.latErr := rfl
@[simp] theorem Mach.setGranule_accErr (t gr : Nat) (x : Bool × BitVec 16) : (m.setGranule t gr x).accErr = m.accErr := rfl
@[simp] theorem Mach.setGranule_scaleErr (t gr : Nat) (x : Bool × BitVec 16) : (m.setGranule t gr x).scaleErr = m.scaleErr := rfl
@[simp] theorem Mach.setGranule_bufs (t gr : Nat) (x : Bool × BitVec 16) : (m.setGranule t gr x).bufs = m.bufs := rfl
@[simp] theorem Mach.setGranule_copies (t gr : Nat) (x : Bool × BitVec 16) : (m.setGranule t gr x).copies = m.copies := rfl
@[simp] theorem Mach.setGranule_blocks (t gr : Nat) (x : Bool × BitVec 16) : (m.setGranule t gr x).blocks = m.blocks := rfl
@[simp] theorem Mach.setGranule_marks (t gr : Nat) (x : Bool × BitVec 16) : (m.setGranule t gr x).marks = m.marks := rfl
@[simp] theorem Mach.setGranule_hist (t gr : Nat) (x : Bool × BitVec 16) : (m.setGranule t gr x).hist = m.hist := rfl
@[simp] theorem Mach.setGranule_away (t gr : Nat) (x : Bool × BitVec 16) : (m.setGranule t gr x).away = m.away := rfl
@[simp] theorem Mach.setGranule_tlb (t gr : Nat) (x : Bool × BitVec 16) : (m.setGranule t gr x).tlb = m.tlb := rfl
@[simp] theorem Mach.setGranule_missq (t gr : Nat) (x : Bool × BitVec 16) : (m.setGranule t gr x).missq = m.missq := rfl
@[simp] theorem Mach.setGranule_icache (t gr : Nat) (x : Bool × BitVec 16) : (m.setGranule t gr x).icache = m.icache := rfl
@[simp] theorem Mach.setGranule_pcache (t gr : Nat) (x : Bool × BitVec 16) : (m.setGranule t gr x).pcache = m.pcache := rfl
@[simp] theorem Mach.setGranule_ways (t gr : Nat) (x : Bool × BitVec 16) : (m.setGranule t gr x).ways = m.ways := rfl
@[simp] theorem Mach.setGranule_delayed (t gr : Nat) (x : Bool × BitVec 16) : (m.setGranule t gr x).delayed = m.delayed := rfl
@[simp] theorem Mach.setGranule_launches (t gr : Nat) (x : Bool × BitVec 16) : (m.setGranule t gr x).launches = m.launches := rfl
@[simp] theorem Mach.setGranule_clusters (t gr : Nat) (x : Bool × BitVec 16) : (m.setGranule t gr x).clusters = m.clusters := rfl
@[simp] theorem Mach.setGranule_teams (t gr : Nat) (x : Bool × BitVec 16) : (m.setGranule t gr x).teams = m.teams := rfl
@[simp] theorem Mach.setGranule_groups (t gr : Nat) (x : Bool × BitVec 16) : (m.setGranule t gr x).groups = m.groups := rfl
@[simp] theorem Mach.setGranule_fibres (t gr : Nat) (x : Bool × BitVec 16) : (m.setGranule t gr x).fibres = m.fibres := rfl
@[simp] theorem Mach.setGranule_outst (t gr : Nat) (x : Bool × BitVec 16) : (m.setGranule t gr x).outst = m.outst := rfl
@[simp] theorem Mach.setGranule_ports (t gr : Nat) (x : Bool × BitVec 16) : (m.setGranule t gr x).ports = m.ports := rfl
@[simp] theorem Mach.setGranule_pairs (t gr : Nat) (x : Bool × BitVec 16) : (m.setGranule t gr x).pairs = m.pairs := rfl
@[simp] theorem Mach.setGranule_lastq (t gr : Nat) (x : Bool × BitVec 16) : (m.setGranule t gr x).lastq = m.lastq := rfl
@[simp] theorem Mach.setGranule_ops (t gr : Nat) (x : Bool × BitVec 16) : (m.setGranule t gr x).ops = m.ops := rfl
@[simp] theorem Mach.setGranule_rings (t gr : Nat) (x : Bool × BitVec 16) : (m.setGranule t gr x).rings = m.rings := rfl
@[simp] theorem Mach.setGranule_colls (t gr : Nat) (x : Bool × BitVec 16) : (m.setGranule t gr x).colls = m.colls := rfl
@[simp] theorem Mach.setGranule_net (t gr : Nat) (x : Bool × BitVec 16) : (m.setGranule t gr x).net = m.net := rfl
@[simp] theorem Mach.setGranule_fabPend (t gr : Nat) (x : Bool × BitVec 16) : (m.setGranule t gr x).fabPend = m.fabPend := rfl
@[simp] theorem Mach.setGranule_vows (t gr : Nat) (x : Bool × BitVec 16) : (m.setGranule t gr x).vows = m.vows := rfl
@[simp] theorem Mach.setGranule_hreqs (t gr : Nat) (x : Bool × BitVec 16) : (m.setGranule t gr x).hreqs = m.hreqs := rfl
@[simp] theorem Mach.setGranule_tokens (t gr : Nat) (x : Bool × BitVec 16) : (m.setGranule t gr x).tokens = m.tokens := rfl
@[simp] theorem Mach.setGranule_prefixed (t gr : Nat) (x : Bool × BitVec 16) : (m.setGranule t gr x).prefixed = m.prefixed := rfl
@[simp] theorem Mach.setGranule_late (t gr : Nat) (x : Bool × BitVec 16) : (m.setGranule t gr x).late = m.late := rfl
@[simp] theorem Mach.setGranule_inb (t gr : Nat) (x : Bool × BitVec 16) : (m.setGranule t gr x).inb = m.inb := rfl
@[simp] theorem Mach.setGranule_serves (t gr : Nat) (x : Bool × BitVec 16) : (m.setGranule t gr x).serves = m.serves := rfl
@[simp] theorem Mach.setGranule_parked (t gr : Nat) (x : Bool × BitVec 16) : (m.setGranule t gr x).parked = m.parked := rfl
@[simp] theorem Mach.setGranule_hents (t gr : Nat) (x : Bool × BitVec 16) : (m.setGranule t gr x).hents = m.hents := rfl
@[simp] theorem Mach.setGranule_invq (t gr : Nat) (x : Bool × BitVec 16) : (m.setGranule t gr x).invq = m.invq := rfl
@[simp] theorem Mach.setGranule_regions (t gr : Nat) (x : Bool × BitVec 16) : (m.setGranule t gr x).regions = m.regions := rfl
@[simp] theorem Mach.setGranule_driftSent (t gr : Nat) (x : Bool × BitVec 16) : (m.setGranule t gr x).driftSent = m.driftSent := rfl
@[simp] theorem Mach.setGranule_snaps (t gr : Nat) (x : Bool × BitVec 16) : (m.setGranule t gr x).snaps = m.snaps := rfl
@[simp] theorem Mach.setGranule_cycSnap (t gr : Nat) (x : Bool × BitVec 16) : (m.setGranule t gr x).cycSnap = m.cycSnap := rfl
@[simp] theorem Mach.setGranule_queues (t gr : Nat) (x : Bool × BitVec 16) : (m.setGranule t gr x).queues = m.queues := rfl
@[simp] theorem Mach.setGranule_dev (t gr : Nat) (x : Bool × BitVec 16) : (m.setGranule t gr x).dev = m.dev := rfl

/-! ### `Mach.tick` -/

@[simp] theorem Mach.tick_cyc (n : Nat) : (m.tick n).cyc = m.cyc + n := rfl
@[simp] theorem Mach.tick_dieOff (n : Nat) : (m.tick n).dieOff = m.dieOff := rfl
@[simp] theorem Mach.tick_wsPhase (n : Nat) : (m.tick n).wsPhase = m.wsPhase := rfl
@[simp] theorem Mach.tick_agenda (n : Nat) : (m.tick n).agenda = m.agenda := rfl
@[simp] theorem Mach.tick_focus (n : Nat) : (m.tick n).focus = m.focus := rfl
@[simp] theorem Mach.tick_free (n : Nat) : (m.tick n).free = m.free := rfl
@[simp] theorem Mach.tick_fresh (n : Nat) : (m.tick n).fresh = m.fresh := rfl
@[simp] theorem Mach.tick_round (n : Nat) : (m.tick n).round = m.round := rfl
@[simp] theorem Mach.tick_mem (n : Nat) : (m.tick n).mem = m.mem := rfl
@[simp] theorem Mach.tick_tags (n : Nat) : (m.tick n).tags = m.tags := rfl
@[simp] theorem Mach.tick_scr (n : Nat) : (m.tick n).scr = m.scr := rfl
@[simp] theorem Mach.tick_gran (n : Nat) : (m.tick n).gran = m.gran := rfl
@[simp] theorem Mach.tick_regs (n : Nat) : (m.tick n).regs = m.regs := rfl
@[simp] theorem Mach.tick_lats (n : Nat) : (m.tick n).lats = m.lats := rfl
@[simp] theorem Mach.tick_acc (n : Nat) : (m.tick n).acc = m.acc := rfl
@[simp] theorem Mach.tick_scale (n : Nat) : (m.tick n).scale = m.scale := rfl
@[simp] theorem Mach.tick_gens (n : Nat) : (m.tick n).gens = m.gens := rfl
@[simp] theorem Mach.tick_hgens (n : Nat) : (m.tick n).hgens = m.hgens := rfl
@[simp] theorem Mach.tick_poison (n : Nat) : (m.tick n).poison = m.poison := rfl
@[simp] theorem Mach.tick_regErr (n : Nat) : (m.tick n).regErr = m.regErr := rfl
@[simp] theorem Mach.tick_latErr (n : Nat) : (m.tick n).latErr = m.latErr := rfl
@[simp] theorem Mach.tick_accErr (n : Nat) : (m.tick n).accErr = m.accErr := rfl
@[simp] theorem Mach.tick_scaleErr (n : Nat) : (m.tick n).scaleErr = m.scaleErr := rfl
@[simp] theorem Mach.tick_bufs (n : Nat) : (m.tick n).bufs = m.bufs := rfl
@[simp] theorem Mach.tick_copies (n : Nat) : (m.tick n).copies = m.copies := rfl
@[simp] theorem Mach.tick_blocks (n : Nat) : (m.tick n).blocks = m.blocks := rfl
@[simp] theorem Mach.tick_marks (n : Nat) : (m.tick n).marks = m.marks := rfl
@[simp] theorem Mach.tick_hist (n : Nat) : (m.tick n).hist = m.hist := rfl
@[simp] theorem Mach.tick_away (n : Nat) : (m.tick n).away = m.away := rfl
@[simp] theorem Mach.tick_tlb (n : Nat) : (m.tick n).tlb = m.tlb := rfl
@[simp] theorem Mach.tick_missq (n : Nat) : (m.tick n).missq = m.missq := rfl
@[simp] theorem Mach.tick_icache (n : Nat) : (m.tick n).icache = m.icache := rfl
@[simp] theorem Mach.tick_pcache (n : Nat) : (m.tick n).pcache = m.pcache := rfl
@[simp] theorem Mach.tick_ways (n : Nat) : (m.tick n).ways = m.ways := rfl
@[simp] theorem Mach.tick_delayed (n : Nat) : (m.tick n).delayed = m.delayed := rfl
@[simp] theorem Mach.tick_launches (n : Nat) : (m.tick n).launches = m.launches := rfl
@[simp] theorem Mach.tick_clusters (n : Nat) : (m.tick n).clusters = m.clusters := rfl
@[simp] theorem Mach.tick_teams (n : Nat) : (m.tick n).teams = m.teams := rfl
@[simp] theorem Mach.tick_groups (n : Nat) : (m.tick n).groups = m.groups := rfl
@[simp] theorem Mach.tick_fibres (n : Nat) : (m.tick n).fibres = m.fibres := rfl
@[simp] theorem Mach.tick_outst (n : Nat) : (m.tick n).outst = m.outst := rfl
@[simp] theorem Mach.tick_ports (n : Nat) : (m.tick n).ports = m.ports := rfl
@[simp] theorem Mach.tick_pairs (n : Nat) : (m.tick n).pairs = m.pairs := rfl
@[simp] theorem Mach.tick_lastq (n : Nat) : (m.tick n).lastq = m.lastq := rfl
@[simp] theorem Mach.tick_ops (n : Nat) : (m.tick n).ops = m.ops := rfl
@[simp] theorem Mach.tick_rings (n : Nat) : (m.tick n).rings = m.rings := rfl
@[simp] theorem Mach.tick_colls (n : Nat) : (m.tick n).colls = m.colls := rfl
@[simp] theorem Mach.tick_net (n : Nat) : (m.tick n).net = m.net := rfl
@[simp] theorem Mach.tick_fabPend (n : Nat) : (m.tick n).fabPend = m.fabPend := rfl
@[simp] theorem Mach.tick_vows (n : Nat) : (m.tick n).vows = m.vows := rfl
@[simp] theorem Mach.tick_hreqs (n : Nat) : (m.tick n).hreqs = m.hreqs := rfl
@[simp] theorem Mach.tick_tokens (n : Nat) : (m.tick n).tokens = m.tokens := rfl
@[simp] theorem Mach.tick_prefixed (n : Nat) : (m.tick n).prefixed = m.prefixed := rfl
@[simp] theorem Mach.tick_late (n : Nat) : (m.tick n).late = m.late := rfl
@[simp] theorem Mach.tick_inb (n : Nat) : (m.tick n).inb = m.inb := rfl
@[simp] theorem Mach.tick_serves (n : Nat) : (m.tick n).serves = m.serves := rfl
@[simp] theorem Mach.tick_parked (n : Nat) : (m.tick n).parked = m.parked := rfl
@[simp] theorem Mach.tick_hents (n : Nat) : (m.tick n).hents = m.hents := rfl
@[simp] theorem Mach.tick_invq (n : Nat) : (m.tick n).invq = m.invq := rfl
@[simp] theorem Mach.tick_regions (n : Nat) : (m.tick n).regions = m.regions := rfl
@[simp] theorem Mach.tick_driftSent (n : Nat) : (m.tick n).driftSent = m.driftSent := rfl
@[simp] theorem Mach.tick_snaps (n : Nat) : (m.tick n).snaps = m.snaps := rfl
@[simp] theorem Mach.tick_cycSnap (n : Nat) : (m.tick n).cycSnap = m.cycSnap := rfl
@[simp] theorem Mach.tick_queues (n : Nat) : (m.tick n).queues = m.queues := rfl

/-! ### `Mach.count` -/

@[simp] theorem Mach.count_cyc (die src : Nat) (part : Option Nat) (n : Nat) : (m.count die src part n).cyc = m.cyc := rfl
@[simp] theorem Mach.count_dieOff (die src : Nat) (part : Option Nat) (n : Nat) : (m.count die src part n).dieOff = m.dieOff := rfl
@[simp] theorem Mach.count_wsPhase (die src : Nat) (part : Option Nat) (n : Nat) : (m.count die src part n).wsPhase = m.wsPhase := rfl
@[simp] theorem Mach.count_agenda (die src : Nat) (part : Option Nat) (n : Nat) : (m.count die src part n).agenda = m.agenda := rfl
@[simp] theorem Mach.count_focus (die src : Nat) (part : Option Nat) (n : Nat) : (m.count die src part n).focus = m.focus := rfl
@[simp] theorem Mach.count_free (die src : Nat) (part : Option Nat) (n : Nat) : (m.count die src part n).free = m.free := rfl
@[simp] theorem Mach.count_fresh (die src : Nat) (part : Option Nat) (n : Nat) : (m.count die src part n).fresh = m.fresh := rfl
@[simp] theorem Mach.count_round (die src : Nat) (part : Option Nat) (n : Nat) : (m.count die src part n).round = m.round := rfl
@[simp] theorem Mach.count_mem (die src : Nat) (part : Option Nat) (n : Nat) : (m.count die src part n).mem = m.mem := rfl
@[simp] theorem Mach.count_tags (die src : Nat) (part : Option Nat) (n : Nat) : (m.count die src part n).tags = m.tags := rfl
@[simp] theorem Mach.count_scr (die src : Nat) (part : Option Nat) (n : Nat) : (m.count die src part n).scr = m.scr := rfl
@[simp] theorem Mach.count_gran (die src : Nat) (part : Option Nat) (n : Nat) : (m.count die src part n).gran = m.gran := rfl
@[simp] theorem Mach.count_regs (die src : Nat) (part : Option Nat) (n : Nat) : (m.count die src part n).regs = m.regs := rfl
@[simp] theorem Mach.count_lats (die src : Nat) (part : Option Nat) (n : Nat) : (m.count die src part n).lats = m.lats := rfl
@[simp] theorem Mach.count_acc (die src : Nat) (part : Option Nat) (n : Nat) : (m.count die src part n).acc = m.acc := rfl
@[simp] theorem Mach.count_scale (die src : Nat) (part : Option Nat) (n : Nat) : (m.count die src part n).scale = m.scale := rfl
@[simp] theorem Mach.count_gens (die src : Nat) (part : Option Nat) (n : Nat) : (m.count die src part n).gens = m.gens := rfl
@[simp] theorem Mach.count_hgens (die src : Nat) (part : Option Nat) (n : Nat) : (m.count die src part n).hgens = m.hgens := rfl
@[simp] theorem Mach.count_poison (die src : Nat) (part : Option Nat) (n : Nat) : (m.count die src part n).poison = m.poison := rfl
@[simp] theorem Mach.count_regErr (die src : Nat) (part : Option Nat) (n : Nat) : (m.count die src part n).regErr = m.regErr := rfl
@[simp] theorem Mach.count_latErr (die src : Nat) (part : Option Nat) (n : Nat) : (m.count die src part n).latErr = m.latErr := rfl
@[simp] theorem Mach.count_accErr (die src : Nat) (part : Option Nat) (n : Nat) : (m.count die src part n).accErr = m.accErr := rfl
@[simp] theorem Mach.count_scaleErr (die src : Nat) (part : Option Nat) (n : Nat) : (m.count die src part n).scaleErr = m.scaleErr := rfl
@[simp] theorem Mach.count_bufs (die src : Nat) (part : Option Nat) (n : Nat) : (m.count die src part n).bufs = m.bufs := rfl
@[simp] theorem Mach.count_copies (die src : Nat) (part : Option Nat) (n : Nat) : (m.count die src part n).copies = m.copies := rfl
@[simp] theorem Mach.count_blocks (die src : Nat) (part : Option Nat) (n : Nat) : (m.count die src part n).blocks = m.blocks := rfl
@[simp] theorem Mach.count_marks (die src : Nat) (part : Option Nat) (n : Nat) : (m.count die src part n).marks = m.marks := rfl
@[simp] theorem Mach.count_hist (die src : Nat) (part : Option Nat) (n : Nat) : (m.count die src part n).hist = m.hist := rfl
@[simp] theorem Mach.count_away (die src : Nat) (part : Option Nat) (n : Nat) : (m.count die src part n).away = m.away := rfl
@[simp] theorem Mach.count_tlb (die src : Nat) (part : Option Nat) (n : Nat) : (m.count die src part n).tlb = m.tlb := rfl
@[simp] theorem Mach.count_missq (die src : Nat) (part : Option Nat) (n : Nat) : (m.count die src part n).missq = m.missq := rfl
@[simp] theorem Mach.count_icache (die src : Nat) (part : Option Nat) (n : Nat) : (m.count die src part n).icache = m.icache := rfl
@[simp] theorem Mach.count_pcache (die src : Nat) (part : Option Nat) (n : Nat) : (m.count die src part n).pcache = m.pcache := rfl
@[simp] theorem Mach.count_ways (die src : Nat) (part : Option Nat) (n : Nat) : (m.count die src part n).ways = m.ways := rfl
@[simp] theorem Mach.count_delayed (die src : Nat) (part : Option Nat) (n : Nat) : (m.count die src part n).delayed = m.delayed := rfl
@[simp] theorem Mach.count_launches (die src : Nat) (part : Option Nat) (n : Nat) : (m.count die src part n).launches = m.launches := rfl
@[simp] theorem Mach.count_clusters (die src : Nat) (part : Option Nat) (n : Nat) : (m.count die src part n).clusters = m.clusters := rfl
@[simp] theorem Mach.count_teams (die src : Nat) (part : Option Nat) (n : Nat) : (m.count die src part n).teams = m.teams := rfl
@[simp] theorem Mach.count_groups (die src : Nat) (part : Option Nat) (n : Nat) : (m.count die src part n).groups = m.groups := rfl
@[simp] theorem Mach.count_fibres (die src : Nat) (part : Option Nat) (n : Nat) : (m.count die src part n).fibres = m.fibres := rfl
@[simp] theorem Mach.count_outst (die src : Nat) (part : Option Nat) (n : Nat) : (m.count die src part n).outst = m.outst := rfl
@[simp] theorem Mach.count_ports (die src : Nat) (part : Option Nat) (n : Nat) : (m.count die src part n).ports = m.ports := rfl
@[simp] theorem Mach.count_pairs (die src : Nat) (part : Option Nat) (n : Nat) : (m.count die src part n).pairs = m.pairs := rfl
@[simp] theorem Mach.count_lastq (die src : Nat) (part : Option Nat) (n : Nat) : (m.count die src part n).lastq = m.lastq := rfl
@[simp] theorem Mach.count_ops (die src : Nat) (part : Option Nat) (n : Nat) : (m.count die src part n).ops = m.ops := rfl
@[simp] theorem Mach.count_rings (die src : Nat) (part : Option Nat) (n : Nat) : (m.count die src part n).rings = m.rings := rfl
@[simp] theorem Mach.count_colls (die src : Nat) (part : Option Nat) (n : Nat) : (m.count die src part n).colls = m.colls := rfl
@[simp] theorem Mach.count_net (die src : Nat) (part : Option Nat) (n : Nat) : (m.count die src part n).net = m.net := rfl
@[simp] theorem Mach.count_fabPend (die src : Nat) (part : Option Nat) (n : Nat) : (m.count die src part n).fabPend = m.fabPend := rfl
@[simp] theorem Mach.count_vows (die src : Nat) (part : Option Nat) (n : Nat) : (m.count die src part n).vows = m.vows := rfl
@[simp] theorem Mach.count_hreqs (die src : Nat) (part : Option Nat) (n : Nat) : (m.count die src part n).hreqs = m.hreqs := rfl
@[simp] theorem Mach.count_tokens (die src : Nat) (part : Option Nat) (n : Nat) : (m.count die src part n).tokens = m.tokens := rfl
@[simp] theorem Mach.count_prefixed (die src : Nat) (part : Option Nat) (n : Nat) : (m.count die src part n).prefixed = m.prefixed := rfl
@[simp] theorem Mach.count_late (die src : Nat) (part : Option Nat) (n : Nat) : (m.count die src part n).late = m.late := rfl
@[simp] theorem Mach.count_inb (die src : Nat) (part : Option Nat) (n : Nat) : (m.count die src part n).inb = m.inb := rfl
@[simp] theorem Mach.count_serves (die src : Nat) (part : Option Nat) (n : Nat) : (m.count die src part n).serves = m.serves := rfl
@[simp] theorem Mach.count_parked (die src : Nat) (part : Option Nat) (n : Nat) : (m.count die src part n).parked = m.parked := rfl
@[simp] theorem Mach.count_hents (die src : Nat) (part : Option Nat) (n : Nat) : (m.count die src part n).hents = m.hents := rfl
@[simp] theorem Mach.count_invq (die src : Nat) (part : Option Nat) (n : Nat) : (m.count die src part n).invq = m.invq := rfl
@[simp] theorem Mach.count_regions (die src : Nat) (part : Option Nat) (n : Nat) : (m.count die src part n).regions = m.regions := rfl
@[simp] theorem Mach.count_driftSent (die src : Nat) (part : Option Nat) (n : Nat) : (m.count die src part n).driftSent = m.driftSent := rfl
@[simp] theorem Mach.count_snaps (die src : Nat) (part : Option Nat) (n : Nat) : (m.count die src part n).snaps = m.snaps := rfl
@[simp] theorem Mach.count_cycSnap (die src : Nat) (part : Option Nat) (n : Nat) : (m.count die src part n).cycSnap = m.cycSnap := rfl
@[simp] theorem Mach.count_queues (die src : Nat) (part : Option Nat) (n : Nat) : (m.count die src part n).queues = m.queues := rfl

/-! ### `Mach.wrRegs` -/

@[simp] theorem Mach.wrRegs_cyc (c : Ctx) (ws : List (Nat × Nat × Word)) : (m.wrRegs c ws).cyc = m.cyc := rfl
@[simp] theorem Mach.wrRegs_dieOff (c : Ctx) (ws : List (Nat × Nat × Word)) : (m.wrRegs c ws).dieOff = m.dieOff := rfl
@[simp] theorem Mach.wrRegs_wsPhase (c : Ctx) (ws : List (Nat × Nat × Word)) : (m.wrRegs c ws).wsPhase = m.wsPhase := rfl
@[simp] theorem Mach.wrRegs_agenda (c : Ctx) (ws : List (Nat × Nat × Word)) : (m.wrRegs c ws).agenda = m.agenda := rfl
@[simp] theorem Mach.wrRegs_focus (c : Ctx) (ws : List (Nat × Nat × Word)) : (m.wrRegs c ws).focus = m.focus := rfl
@[simp] theorem Mach.wrRegs_free (c : Ctx) (ws : List (Nat × Nat × Word)) : (m.wrRegs c ws).free = m.free := rfl
@[simp] theorem Mach.wrRegs_fresh (c : Ctx) (ws : List (Nat × Nat × Word)) : (m.wrRegs c ws).fresh = m.fresh := rfl
@[simp] theorem Mach.wrRegs_round (c : Ctx) (ws : List (Nat × Nat × Word)) : (m.wrRegs c ws).round = m.round := rfl
@[simp] theorem Mach.wrRegs_mem (c : Ctx) (ws : List (Nat × Nat × Word)) : (m.wrRegs c ws).mem = m.mem := rfl
@[simp] theorem Mach.wrRegs_tags (c : Ctx) (ws : List (Nat × Nat × Word)) : (m.wrRegs c ws).tags = m.tags := rfl
@[simp] theorem Mach.wrRegs_scr (c : Ctx) (ws : List (Nat × Nat × Word)) : (m.wrRegs c ws).scr = m.scr := rfl
@[simp] theorem Mach.wrRegs_gran (c : Ctx) (ws : List (Nat × Nat × Word)) : (m.wrRegs c ws).gran = m.gran := rfl
@[simp] theorem Mach.wrRegs_lats (c : Ctx) (ws : List (Nat × Nat × Word)) : (m.wrRegs c ws).lats = m.lats := rfl
@[simp] theorem Mach.wrRegs_acc (c : Ctx) (ws : List (Nat × Nat × Word)) : (m.wrRegs c ws).acc = m.acc := rfl
@[simp] theorem Mach.wrRegs_scale (c : Ctx) (ws : List (Nat × Nat × Word)) : (m.wrRegs c ws).scale = m.scale := rfl
@[simp] theorem Mach.wrRegs_gens (c : Ctx) (ws : List (Nat × Nat × Word)) : (m.wrRegs c ws).gens = m.gens := rfl
@[simp] theorem Mach.wrRegs_hgens (c : Ctx) (ws : List (Nat × Nat × Word)) : (m.wrRegs c ws).hgens = m.hgens := rfl
@[simp] theorem Mach.wrRegs_poison (c : Ctx) (ws : List (Nat × Nat × Word)) : (m.wrRegs c ws).poison = m.poison := rfl
@[simp] theorem Mach.wrRegs_latErr (c : Ctx) (ws : List (Nat × Nat × Word)) : (m.wrRegs c ws).latErr = m.latErr := rfl
@[simp] theorem Mach.wrRegs_accErr (c : Ctx) (ws : List (Nat × Nat × Word)) : (m.wrRegs c ws).accErr = m.accErr := rfl
@[simp] theorem Mach.wrRegs_scaleErr (c : Ctx) (ws : List (Nat × Nat × Word)) : (m.wrRegs c ws).scaleErr = m.scaleErr := rfl
@[simp] theorem Mach.wrRegs_bufs (c : Ctx) (ws : List (Nat × Nat × Word)) : (m.wrRegs c ws).bufs = m.bufs := rfl
@[simp] theorem Mach.wrRegs_copies (c : Ctx) (ws : List (Nat × Nat × Word)) : (m.wrRegs c ws).copies = m.copies := rfl
@[simp] theorem Mach.wrRegs_blocks (c : Ctx) (ws : List (Nat × Nat × Word)) : (m.wrRegs c ws).blocks = m.blocks := rfl
@[simp] theorem Mach.wrRegs_marks (c : Ctx) (ws : List (Nat × Nat × Word)) : (m.wrRegs c ws).marks = m.marks := rfl
@[simp] theorem Mach.wrRegs_hist (c : Ctx) (ws : List (Nat × Nat × Word)) : (m.wrRegs c ws).hist = m.hist := rfl
@[simp] theorem Mach.wrRegs_away (c : Ctx) (ws : List (Nat × Nat × Word)) : (m.wrRegs c ws).away = m.away := rfl
@[simp] theorem Mach.wrRegs_tlb (c : Ctx) (ws : List (Nat × Nat × Word)) : (m.wrRegs c ws).tlb = m.tlb := rfl
@[simp] theorem Mach.wrRegs_missq (c : Ctx) (ws : List (Nat × Nat × Word)) : (m.wrRegs c ws).missq = m.missq := rfl
@[simp] theorem Mach.wrRegs_icache (c : Ctx) (ws : List (Nat × Nat × Word)) : (m.wrRegs c ws).icache = m.icache := rfl
@[simp] theorem Mach.wrRegs_pcache (c : Ctx) (ws : List (Nat × Nat × Word)) : (m.wrRegs c ws).pcache = m.pcache := rfl
@[simp] theorem Mach.wrRegs_ways (c : Ctx) (ws : List (Nat × Nat × Word)) : (m.wrRegs c ws).ways = m.ways := rfl
@[simp] theorem Mach.wrRegs_delayed (c : Ctx) (ws : List (Nat × Nat × Word)) : (m.wrRegs c ws).delayed = m.delayed := rfl
@[simp] theorem Mach.wrRegs_launches (c : Ctx) (ws : List (Nat × Nat × Word)) : (m.wrRegs c ws).launches = m.launches := rfl
@[simp] theorem Mach.wrRegs_clusters (c : Ctx) (ws : List (Nat × Nat × Word)) : (m.wrRegs c ws).clusters = m.clusters := rfl
@[simp] theorem Mach.wrRegs_teams (c : Ctx) (ws : List (Nat × Nat × Word)) : (m.wrRegs c ws).teams = m.teams := rfl
@[simp] theorem Mach.wrRegs_groups (c : Ctx) (ws : List (Nat × Nat × Word)) : (m.wrRegs c ws).groups = m.groups := rfl
@[simp] theorem Mach.wrRegs_fibres (c : Ctx) (ws : List (Nat × Nat × Word)) : (m.wrRegs c ws).fibres = m.fibres := rfl
@[simp] theorem Mach.wrRegs_outst (c : Ctx) (ws : List (Nat × Nat × Word)) : (m.wrRegs c ws).outst = m.outst := rfl
@[simp] theorem Mach.wrRegs_ports (c : Ctx) (ws : List (Nat × Nat × Word)) : (m.wrRegs c ws).ports = m.ports := rfl
@[simp] theorem Mach.wrRegs_pairs (c : Ctx) (ws : List (Nat × Nat × Word)) : (m.wrRegs c ws).pairs = m.pairs := rfl
@[simp] theorem Mach.wrRegs_lastq (c : Ctx) (ws : List (Nat × Nat × Word)) : (m.wrRegs c ws).lastq = m.lastq := rfl
@[simp] theorem Mach.wrRegs_ops (c : Ctx) (ws : List (Nat × Nat × Word)) : (m.wrRegs c ws).ops = m.ops := rfl
@[simp] theorem Mach.wrRegs_rings (c : Ctx) (ws : List (Nat × Nat × Word)) : (m.wrRegs c ws).rings = m.rings := rfl
@[simp] theorem Mach.wrRegs_colls (c : Ctx) (ws : List (Nat × Nat × Word)) : (m.wrRegs c ws).colls = m.colls := rfl
@[simp] theorem Mach.wrRegs_net (c : Ctx) (ws : List (Nat × Nat × Word)) : (m.wrRegs c ws).net = m.net := rfl
@[simp] theorem Mach.wrRegs_fabPend (c : Ctx) (ws : List (Nat × Nat × Word)) : (m.wrRegs c ws).fabPend = m.fabPend := rfl
@[simp] theorem Mach.wrRegs_vows (c : Ctx) (ws : List (Nat × Nat × Word)) : (m.wrRegs c ws).vows = m.vows := rfl
@[simp] theorem Mach.wrRegs_hreqs (c : Ctx) (ws : List (Nat × Nat × Word)) : (m.wrRegs c ws).hreqs = m.hreqs := rfl
@[simp] theorem Mach.wrRegs_tokens (c : Ctx) (ws : List (Nat × Nat × Word)) : (m.wrRegs c ws).tokens = m.tokens := rfl
@[simp] theorem Mach.wrRegs_prefixed (c : Ctx) (ws : List (Nat × Nat × Word)) : (m.wrRegs c ws).prefixed = m.prefixed := rfl
@[simp] theorem Mach.wrRegs_late (c : Ctx) (ws : List (Nat × Nat × Word)) : (m.wrRegs c ws).late = m.late := rfl
@[simp] theorem Mach.wrRegs_inb (c : Ctx) (ws : List (Nat × Nat × Word)) : (m.wrRegs c ws).inb = m.inb := rfl
@[simp] theorem Mach.wrRegs_serves (c : Ctx) (ws : List (Nat × Nat × Word)) : (m.wrRegs c ws).serves = m.serves := rfl
@[simp] theorem Mach.wrRegs_parked (c : Ctx) (ws : List (Nat × Nat × Word)) : (m.wrRegs c ws).parked = m.parked := rfl
@[simp] theorem Mach.wrRegs_hents (c : Ctx) (ws : List (Nat × Nat × Word)) : (m.wrRegs c ws).hents = m.hents := rfl
@[simp] theorem Mach.wrRegs_invq (c : Ctx) (ws : List (Nat × Nat × Word)) : (m.wrRegs c ws).invq = m.invq := rfl
@[simp] theorem Mach.wrRegs_regions (c : Ctx) (ws : List (Nat × Nat × Word)) : (m.wrRegs c ws).regions = m.regions := rfl
@[simp] theorem Mach.wrRegs_driftSent (c : Ctx) (ws : List (Nat × Nat × Word)) : (m.wrRegs c ws).driftSent = m.driftSent := rfl
@[simp] theorem Mach.wrRegs_snaps (c : Ctx) (ws : List (Nat × Nat × Word)) : (m.wrRegs c ws).snaps = m.snaps := rfl
@[simp] theorem Mach.wrRegs_cycSnap (c : Ctx) (ws : List (Nat × Nat × Word)) : (m.wrRegs c ws).cycSnap = m.cycSnap := rfl
@[simp] theorem Mach.wrRegs_queues (c : Ctx) (ws : List (Nat × Nat × Word)) : (m.wrRegs c ws).queues = m.queues := rfl
@[simp] theorem Mach.wrRegs_dev (c : Ctx) (ws : List (Nat × Nat × Word)) : (m.wrRegs c ws).dev = m.dev := rfl

/-! ### `Mach.setLatch` -/

@[simp] theorem Mach.setLatch_cyc (r : FRef) (k : Nat) (p : Word) (vals : List (Nat × Word)) : (m.setLatch r k p vals).cyc = m.cyc := rfl
@[simp] theorem Mach.setLatch_dieOff (r : FRef) (k : Nat) (p : Word) (vals : List (Nat × Word)) : (m.setLatch r k p vals).dieOff = m.dieOff := rfl
@[simp] theorem Mach.setLatch_wsPhase (r : FRef) (k : Nat) (p : Word) (vals : List (Nat × Word)) : (m.setLatch r k p vals).wsPhase = m.wsPhase := rfl
@[simp] theorem Mach.setLatch_agenda (r : FRef) (k : Nat) (p : Word) (vals : List (Nat × Word)) : (m.setLatch r k p vals).agenda = m.agenda := rfl
@[simp] theorem Mach.setLatch_focus (r : FRef) (k : Nat) (p : Word) (vals : List (Nat × Word)) : (m.setLatch r k p vals).focus = m.focus := rfl
@[simp] theorem Mach.setLatch_free (r : FRef) (k : Nat) (p : Word) (vals : List (Nat × Word)) : (m.setLatch r k p vals).free = m.free := rfl
@[simp] theorem Mach.setLatch_fresh (r : FRef) (k : Nat) (p : Word) (vals : List (Nat × Word)) : (m.setLatch r k p vals).fresh = m.fresh := rfl
@[simp] theorem Mach.setLatch_round (r : FRef) (k : Nat) (p : Word) (vals : List (Nat × Word)) : (m.setLatch r k p vals).round = m.round := rfl
@[simp] theorem Mach.setLatch_mem (r : FRef) (k : Nat) (p : Word) (vals : List (Nat × Word)) : (m.setLatch r k p vals).mem = m.mem := rfl
@[simp] theorem Mach.setLatch_tags (r : FRef) (k : Nat) (p : Word) (vals : List (Nat × Word)) : (m.setLatch r k p vals).tags = m.tags := rfl
@[simp] theorem Mach.setLatch_scr (r : FRef) (k : Nat) (p : Word) (vals : List (Nat × Word)) : (m.setLatch r k p vals).scr = m.scr := rfl
@[simp] theorem Mach.setLatch_gran (r : FRef) (k : Nat) (p : Word) (vals : List (Nat × Word)) : (m.setLatch r k p vals).gran = m.gran := rfl
@[simp] theorem Mach.setLatch_regs (r : FRef) (k : Nat) (p : Word) (vals : List (Nat × Word)) : (m.setLatch r k p vals).regs = m.regs := rfl
@[simp] theorem Mach.setLatch_acc (r : FRef) (k : Nat) (p : Word) (vals : List (Nat × Word)) : (m.setLatch r k p vals).acc = m.acc := rfl
@[simp] theorem Mach.setLatch_scale (r : FRef) (k : Nat) (p : Word) (vals : List (Nat × Word)) : (m.setLatch r k p vals).scale = m.scale := rfl
@[simp] theorem Mach.setLatch_gens (r : FRef) (k : Nat) (p : Word) (vals : List (Nat × Word)) : (m.setLatch r k p vals).gens = m.gens := rfl
@[simp] theorem Mach.setLatch_hgens (r : FRef) (k : Nat) (p : Word) (vals : List (Nat × Word)) : (m.setLatch r k p vals).hgens = m.hgens := rfl
@[simp] theorem Mach.setLatch_poison (r : FRef) (k : Nat) (p : Word) (vals : List (Nat × Word)) : (m.setLatch r k p vals).poison = m.poison := rfl
@[simp] theorem Mach.setLatch_regErr (r : FRef) (k : Nat) (p : Word) (vals : List (Nat × Word)) : (m.setLatch r k p vals).regErr = m.regErr := rfl
@[simp] theorem Mach.setLatch_accErr (r : FRef) (k : Nat) (p : Word) (vals : List (Nat × Word)) : (m.setLatch r k p vals).accErr = m.accErr := rfl
@[simp] theorem Mach.setLatch_scaleErr (r : FRef) (k : Nat) (p : Word) (vals : List (Nat × Word)) : (m.setLatch r k p vals).scaleErr = m.scaleErr := rfl
@[simp] theorem Mach.setLatch_bufs (r : FRef) (k : Nat) (p : Word) (vals : List (Nat × Word)) : (m.setLatch r k p vals).bufs = m.bufs := rfl
@[simp] theorem Mach.setLatch_copies (r : FRef) (k : Nat) (p : Word) (vals : List (Nat × Word)) : (m.setLatch r k p vals).copies = m.copies := rfl
@[simp] theorem Mach.setLatch_blocks (r : FRef) (k : Nat) (p : Word) (vals : List (Nat × Word)) : (m.setLatch r k p vals).blocks = m.blocks := rfl
@[simp] theorem Mach.setLatch_marks (r : FRef) (k : Nat) (p : Word) (vals : List (Nat × Word)) : (m.setLatch r k p vals).marks = m.marks := rfl
@[simp] theorem Mach.setLatch_hist (r : FRef) (k : Nat) (p : Word) (vals : List (Nat × Word)) : (m.setLatch r k p vals).hist = m.hist := rfl
@[simp] theorem Mach.setLatch_away (r : FRef) (k : Nat) (p : Word) (vals : List (Nat × Word)) : (m.setLatch r k p vals).away = m.away := rfl
@[simp] theorem Mach.setLatch_tlb (r : FRef) (k : Nat) (p : Word) (vals : List (Nat × Word)) : (m.setLatch r k p vals).tlb = m.tlb := rfl
@[simp] theorem Mach.setLatch_missq (r : FRef) (k : Nat) (p : Word) (vals : List (Nat × Word)) : (m.setLatch r k p vals).missq = m.missq := rfl
@[simp] theorem Mach.setLatch_icache (r : FRef) (k : Nat) (p : Word) (vals : List (Nat × Word)) : (m.setLatch r k p vals).icache = m.icache := rfl
@[simp] theorem Mach.setLatch_pcache (r : FRef) (k : Nat) (p : Word) (vals : List (Nat × Word)) : (m.setLatch r k p vals).pcache = m.pcache := rfl
@[simp] theorem Mach.setLatch_ways (r : FRef) (k : Nat) (p : Word) (vals : List (Nat × Word)) : (m.setLatch r k p vals).ways = m.ways := rfl
@[simp] theorem Mach.setLatch_delayed (r : FRef) (k : Nat) (p : Word) (vals : List (Nat × Word)) : (m.setLatch r k p vals).delayed = m.delayed := rfl
@[simp] theorem Mach.setLatch_launches (r : FRef) (k : Nat) (p : Word) (vals : List (Nat × Word)) : (m.setLatch r k p vals).launches = m.launches := rfl
@[simp] theorem Mach.setLatch_clusters (r : FRef) (k : Nat) (p : Word) (vals : List (Nat × Word)) : (m.setLatch r k p vals).clusters = m.clusters := rfl
@[simp] theorem Mach.setLatch_teams (r : FRef) (k : Nat) (p : Word) (vals : List (Nat × Word)) : (m.setLatch r k p vals).teams = m.teams := rfl
@[simp] theorem Mach.setLatch_groups (r : FRef) (k : Nat) (p : Word) (vals : List (Nat × Word)) : (m.setLatch r k p vals).groups = m.groups := rfl
@[simp] theorem Mach.setLatch_fibres (r : FRef) (k : Nat) (p : Word) (vals : List (Nat × Word)) : (m.setLatch r k p vals).fibres = m.fibres := rfl
@[simp] theorem Mach.setLatch_ports (r : FRef) (k : Nat) (p : Word) (vals : List (Nat × Word)) : (m.setLatch r k p vals).ports = m.ports := rfl
@[simp] theorem Mach.setLatch_pairs (r : FRef) (k : Nat) (p : Word) (vals : List (Nat × Word)) : (m.setLatch r k p vals).pairs = m.pairs := rfl
@[simp] theorem Mach.setLatch_lastq (r : FRef) (k : Nat) (p : Word) (vals : List (Nat × Word)) : (m.setLatch r k p vals).lastq = m.lastq := rfl
@[simp] theorem Mach.setLatch_ops (r : FRef) (k : Nat) (p : Word) (vals : List (Nat × Word)) : (m.setLatch r k p vals).ops = m.ops := rfl
@[simp] theorem Mach.setLatch_rings (r : FRef) (k : Nat) (p : Word) (vals : List (Nat × Word)) : (m.setLatch r k p vals).rings = m.rings := rfl
@[simp] theorem Mach.setLatch_colls (r : FRef) (k : Nat) (p : Word) (vals : List (Nat × Word)) : (m.setLatch r k p vals).colls = m.colls := rfl
@[simp] theorem Mach.setLatch_net (r : FRef) (k : Nat) (p : Word) (vals : List (Nat × Word)) : (m.setLatch r k p vals).net = m.net := rfl
@[simp] theorem Mach.setLatch_fabPend (r : FRef) (k : Nat) (p : Word) (vals : List (Nat × Word)) : (m.setLatch r k p vals).fabPend = m.fabPend := rfl
@[simp] theorem Mach.setLatch_vows (r : FRef) (k : Nat) (p : Word) (vals : List (Nat × Word)) : (m.setLatch r k p vals).vows = m.vows := rfl
@[simp] theorem Mach.setLatch_hreqs (r : FRef) (k : Nat) (p : Word) (vals : List (Nat × Word)) : (m.setLatch r k p vals).hreqs = m.hreqs := rfl
@[simp] theorem Mach.setLatch_tokens (r : FRef) (k : Nat) (p : Word) (vals : List (Nat × Word)) : (m.setLatch r k p vals).tokens = m.tokens := rfl
@[simp] theorem Mach.setLatch_prefixed (r : FRef) (k : Nat) (p : Word) (vals : List (Nat × Word)) : (m.setLatch r k p vals).prefixed = m.prefixed := rfl
@[simp] theorem Mach.setLatch_late (r : FRef) (k : Nat) (p : Word) (vals : List (Nat × Word)) : (m.setLatch r k p vals).late = m.late := rfl
@[simp] theorem Mach.setLatch_inb (r : FRef) (k : Nat) (p : Word) (vals : List (Nat × Word)) : (m.setLatch r k p vals).inb = m.inb := rfl
@[simp] theorem Mach.setLatch_serves (r : FRef) (k : Nat) (p : Word) (vals : List (Nat × Word)) : (m.setLatch r k p vals).serves = m.serves := rfl
@[simp] theorem Mach.setLatch_parked (r : FRef) (k : Nat) (p : Word) (vals : List (Nat × Word)) : (m.setLatch r k p vals).parked = m.parked := rfl
@[simp] theorem Mach.setLatch_hents (r : FRef) (k : Nat) (p : Word) (vals : List (Nat × Word)) : (m.setLatch r k p vals).hents = m.hents := rfl
@[simp] theorem Mach.setLatch_invq (r : FRef) (k : Nat) (p : Word) (vals : List (Nat × Word)) : (m.setLatch r k p vals).invq = m.invq := rfl
@[simp] theorem Mach.setLatch_regions (r : FRef) (k : Nat) (p : Word) (vals : List (Nat × Word)) : (m.setLatch r k p vals).regions = m.regions := rfl
@[simp] theorem Mach.setLatch_driftSent (r : FRef) (k : Nat) (p : Word) (vals : List (Nat × Word)) : (m.setLatch r k p vals).driftSent = m.driftSent := rfl
@[simp] theorem Mach.setLatch_snaps (r : FRef) (k : Nat) (p : Word) (vals : List (Nat × Word)) : (m.setLatch r k p vals).snaps = m.snaps := rfl
@[simp] theorem Mach.setLatch_cycSnap (r : FRef) (k : Nat) (p : Word) (vals : List (Nat × Word)) : (m.setLatch r k p vals).cycSnap = m.cycSnap := rfl
@[simp] theorem Mach.setLatch_queues (r : FRef) (k : Nat) (p : Word) (vals : List (Nat × Word)) : (m.setLatch r k p vals).queues = m.queues := rfl
@[simp] theorem Mach.setLatch_dev (r : FRef) (k : Nat) (p : Word) (vals : List (Nat × Word)) : (m.setLatch r k p vals).dev = m.dev := rfl

/-! ### `Mach.clearLatches` -/

@[simp] theorem Mach.clearLatches_cyc (r : FRef) (p : Word) : (m.clearLatches r p).cyc = m.cyc := rfl
@[simp] theorem Mach.clearLatches_dieOff (r : FRef) (p : Word) : (m.clearLatches r p).dieOff = m.dieOff := rfl
@[simp] theorem Mach.clearLatches_wsPhase (r : FRef) (p : Word) : (m.clearLatches r p).wsPhase = m.wsPhase := rfl
@[simp] theorem Mach.clearLatches_agenda (r : FRef) (p : Word) : (m.clearLatches r p).agenda = m.agenda := rfl
@[simp] theorem Mach.clearLatches_focus (r : FRef) (p : Word) : (m.clearLatches r p).focus = m.focus := rfl
@[simp] theorem Mach.clearLatches_free (r : FRef) (p : Word) : (m.clearLatches r p).free = m.free := rfl
@[simp] theorem Mach.clearLatches_fresh (r : FRef) (p : Word) : (m.clearLatches r p).fresh = m.fresh := rfl
@[simp] theorem Mach.clearLatches_round (r : FRef) (p : Word) : (m.clearLatches r p).round = m.round := rfl
@[simp] theorem Mach.clearLatches_mem (r : FRef) (p : Word) : (m.clearLatches r p).mem = m.mem := rfl
@[simp] theorem Mach.clearLatches_tags (r : FRef) (p : Word) : (m.clearLatches r p).tags = m.tags := rfl
@[simp] theorem Mach.clearLatches_scr (r : FRef) (p : Word) : (m.clearLatches r p).scr = m.scr := rfl
@[simp] theorem Mach.clearLatches_gran (r : FRef) (p : Word) : (m.clearLatches r p).gran = m.gran := rfl
@[simp] theorem Mach.clearLatches_regs (r : FRef) (p : Word) : (m.clearLatches r p).regs = m.regs := rfl
@[simp] theorem Mach.clearLatches_acc (r : FRef) (p : Word) : (m.clearLatches r p).acc = m.acc := rfl
@[simp] theorem Mach.clearLatches_scale (r : FRef) (p : Word) : (m.clearLatches r p).scale = m.scale := rfl
@[simp] theorem Mach.clearLatches_gens (r : FRef) (p : Word) : (m.clearLatches r p).gens = m.gens := rfl
@[simp] theorem Mach.clearLatches_hgens (r : FRef) (p : Word) : (m.clearLatches r p).hgens = m.hgens := rfl
@[simp] theorem Mach.clearLatches_poison (r : FRef) (p : Word) : (m.clearLatches r p).poison = m.poison := rfl
@[simp] theorem Mach.clearLatches_regErr (r : FRef) (p : Word) : (m.clearLatches r p).regErr = m.regErr := rfl
@[simp] theorem Mach.clearLatches_accErr (r : FRef) (p : Word) : (m.clearLatches r p).accErr = m.accErr := rfl
@[simp] theorem Mach.clearLatches_scaleErr (r : FRef) (p : Word) : (m.clearLatches r p).scaleErr = m.scaleErr := rfl
@[simp] theorem Mach.clearLatches_bufs (r : FRef) (p : Word) : (m.clearLatches r p).bufs = m.bufs := rfl
@[simp] theorem Mach.clearLatches_copies (r : FRef) (p : Word) : (m.clearLatches r p).copies = m.copies := rfl
@[simp] theorem Mach.clearLatches_blocks (r : FRef) (p : Word) : (m.clearLatches r p).blocks = m.blocks := rfl
@[simp] theorem Mach.clearLatches_marks (r : FRef) (p : Word) : (m.clearLatches r p).marks = m.marks := rfl
@[simp] theorem Mach.clearLatches_hist (r : FRef) (p : Word) : (m.clearLatches r p).hist = m.hist := rfl
@[simp] theorem Mach.clearLatches_away (r : FRef) (p : Word) : (m.clearLatches r p).away = m.away := rfl
@[simp] theorem Mach.clearLatches_tlb (r : FRef) (p : Word) : (m.clearLatches r p).tlb = m.tlb := rfl
@[simp] theorem Mach.clearLatches_missq (r : FRef) (p : Word) : (m.clearLatches r p).missq = m.missq := rfl
@[simp] theorem Mach.clearLatches_icache (r : FRef) (p : Word) : (m.clearLatches r p).icache = m.icache := rfl
@[simp] theorem Mach.clearLatches_pcache (r : FRef) (p : Word) : (m.clearLatches r p).pcache = m.pcache := rfl
@[simp] theorem Mach.clearLatches_ways (r : FRef) (p : Word) : (m.clearLatches r p).ways = m.ways := rfl
@[simp] theorem Mach.clearLatches_delayed (r : FRef) (p : Word) : (m.clearLatches r p).delayed = m.delayed := rfl
@[simp] theorem Mach.clearLatches_launches (r : FRef) (p : Word) : (m.clearLatches r p).launches = m.launches := rfl
@[simp] theorem Mach.clearLatches_clusters (r : FRef) (p : Word) : (m.clearLatches r p).clusters = m.clusters := rfl
@[simp] theorem Mach.clearLatches_teams (r : FRef) (p : Word) : (m.clearLatches r p).teams = m.teams := rfl
@[simp] theorem Mach.clearLatches_groups (r : FRef) (p : Word) : (m.clearLatches r p).groups = m.groups := rfl
@[simp] theorem Mach.clearLatches_fibres (r : FRef) (p : Word) : (m.clearLatches r p).fibres = m.fibres := rfl
@[simp] theorem Mach.clearLatches_ports (r : FRef) (p : Word) : (m.clearLatches r p).ports = m.ports := rfl
@[simp] theorem Mach.clearLatches_pairs (r : FRef) (p : Word) : (m.clearLatches r p).pairs = m.pairs := rfl
@[simp] theorem Mach.clearLatches_lastq (r : FRef) (p : Word) : (m.clearLatches r p).lastq = m.lastq := rfl
@[simp] theorem Mach.clearLatches_ops (r : FRef) (p : Word) : (m.clearLatches r p).ops = m.ops := rfl
@[simp] theorem Mach.clearLatches_rings (r : FRef) (p : Word) : (m.clearLatches r p).rings = m.rings := rfl
@[simp] theorem Mach.clearLatches_colls (r : FRef) (p : Word) : (m.clearLatches r p).colls = m.colls := rfl
@[simp] theorem Mach.clearLatches_net (r : FRef) (p : Word) : (m.clearLatches r p).net = m.net := rfl
@[simp] theorem Mach.clearLatches_fabPend (r : FRef) (p : Word) : (m.clearLatches r p).fabPend = m.fabPend := rfl
@[simp] theorem Mach.clearLatches_vows (r : FRef) (p : Word) : (m.clearLatches r p).vows = m.vows := rfl
@[simp] theorem Mach.clearLatches_hreqs (r : FRef) (p : Word) : (m.clearLatches r p).hreqs = m.hreqs := rfl
@[simp] theorem Mach.clearLatches_tokens (r : FRef) (p : Word) : (m.clearLatches r p).tokens = m.tokens := rfl
@[simp] theorem Mach.clearLatches_prefixed (r : FRef) (p : Word) : (m.clearLatches r p).prefixed = m.prefixed := rfl
@[simp] theorem Mach.clearLatches_late (r : FRef) (p : Word) : (m.clearLatches r p).late = m.late := rfl
@[simp] theorem Mach.clearLatches_inb (r : FRef) (p : Word) : (m.clearLatches r p).inb = m.inb := rfl
@[simp] theorem Mach.clearLatches_serves (r : FRef) (p : Word) : (m.clearLatches r p).serves = m.serves := rfl
@[simp] theorem Mach.clearLatches_parked (r : FRef) (p : Word) : (m.clearLatches r p).parked = m.parked := rfl
@[simp] theorem Mach.clearLatches_hents (r : FRef) (p : Word) : (m.clearLatches r p).hents = m.hents := rfl
@[simp] theorem Mach.clearLatches_invq (r : FRef) (p : Word) : (m.clearLatches r p).invq = m.invq := rfl
@[simp] theorem Mach.clearLatches_regions (r : FRef) (p : Word) : (m.clearLatches r p).regions = m.regions := rfl
@[simp] theorem Mach.clearLatches_driftSent (r : FRef) (p : Word) : (m.clearLatches r p).driftSent = m.driftSent := rfl
@[simp] theorem Mach.clearLatches_snaps (r : FRef) (p : Word) : (m.clearLatches r p).snaps = m.snaps := rfl
@[simp] theorem Mach.clearLatches_cycSnap (r : FRef) (p : Word) : (m.clearLatches r p).cycSnap = m.cycSnap := rfl
@[simp] theorem Mach.clearLatches_queues (r : FRef) (p : Word) : (m.clearLatches r p).queues = m.queues := rfl
@[simp] theorem Mach.clearLatches_dev (r : FRef) (p : Word) : (m.clearLatches r p).dev = m.dev := rfl

/-! ### `Mach.addOutst` -/

@[simp] theorem Mach.addOutst_cyc (c : Ctx) (ws : List (Nat × Nat × Word)) (lat : List (Nat × Word)) : (m.addOutst c ws lat).cyc = m.cyc := rfl
@[simp] theorem Mach.addOutst_dieOff (c : Ctx) (ws : List (Nat × Nat × Word)) (lat : List (Nat × Word)) : (m.addOutst c ws lat).dieOff = m.dieOff := rfl
@[simp] theorem Mach.addOutst_wsPhase (c : Ctx) (ws : List (Nat × Nat × Word)) (lat : List (Nat × Word)) : (m.addOutst c ws lat).wsPhase = m.wsPhase := rfl
@[simp] theorem Mach.addOutst_agenda (c : Ctx) (ws : List (Nat × Nat × Word)) (lat : List (Nat × Word)) : (m.addOutst c ws lat).agenda = m.agenda := rfl
@[simp] theorem Mach.addOutst_focus (c : Ctx) (ws : List (Nat × Nat × Word)) (lat : List (Nat × Word)) : (m.addOutst c ws lat).focus = m.focus := rfl
@[simp] theorem Mach.addOutst_free (c : Ctx) (ws : List (Nat × Nat × Word)) (lat : List (Nat × Word)) : (m.addOutst c ws lat).free = m.free := rfl
@[simp] theorem Mach.addOutst_fresh (c : Ctx) (ws : List (Nat × Nat × Word)) (lat : List (Nat × Word)) : (m.addOutst c ws lat).fresh = m.fresh + 1 := rfl
@[simp] theorem Mach.addOutst_round (c : Ctx) (ws : List (Nat × Nat × Word)) (lat : List (Nat × Word)) : (m.addOutst c ws lat).round = m.round := rfl
@[simp] theorem Mach.addOutst_mem (c : Ctx) (ws : List (Nat × Nat × Word)) (lat : List (Nat × Word)) : (m.addOutst c ws lat).mem = m.mem := rfl
@[simp] theorem Mach.addOutst_tags (c : Ctx) (ws : List (Nat × Nat × Word)) (lat : List (Nat × Word)) : (m.addOutst c ws lat).tags = m.tags := rfl
@[simp] theorem Mach.addOutst_scr (c : Ctx) (ws : List (Nat × Nat × Word)) (lat : List (Nat × Word)) : (m.addOutst c ws lat).scr = m.scr := rfl
@[simp] theorem Mach.addOutst_gran (c : Ctx) (ws : List (Nat × Nat × Word)) (lat : List (Nat × Word)) : (m.addOutst c ws lat).gran = m.gran := rfl
@[simp] theorem Mach.addOutst_regs (c : Ctx) (ws : List (Nat × Nat × Word)) (lat : List (Nat × Word)) : (m.addOutst c ws lat).regs = m.regs := rfl
@[simp] theorem Mach.addOutst_lats (c : Ctx) (ws : List (Nat × Nat × Word)) (lat : List (Nat × Word)) : (m.addOutst c ws lat).lats = m.lats := rfl
@[simp] theorem Mach.addOutst_acc (c : Ctx) (ws : List (Nat × Nat × Word)) (lat : List (Nat × Word)) : (m.addOutst c ws lat).acc = m.acc := rfl
@[simp] theorem Mach.addOutst_scale (c : Ctx) (ws : List (Nat × Nat × Word)) (lat : List (Nat × Word)) : (m.addOutst c ws lat).scale = m.scale := rfl
@[simp] theorem Mach.addOutst_gens (c : Ctx) (ws : List (Nat × Nat × Word)) (lat : List (Nat × Word)) : (m.addOutst c ws lat).gens = m.gens := rfl
@[simp] theorem Mach.addOutst_hgens (c : Ctx) (ws : List (Nat × Nat × Word)) (lat : List (Nat × Word)) : (m.addOutst c ws lat).hgens = m.hgens := rfl
@[simp] theorem Mach.addOutst_poison (c : Ctx) (ws : List (Nat × Nat × Word)) (lat : List (Nat × Word)) : (m.addOutst c ws lat).poison = m.poison := rfl
@[simp] theorem Mach.addOutst_regErr (c : Ctx) (ws : List (Nat × Nat × Word)) (lat : List (Nat × Word)) : (m.addOutst c ws lat).regErr = m.regErr := rfl
@[simp] theorem Mach.addOutst_latErr (c : Ctx) (ws : List (Nat × Nat × Word)) (lat : List (Nat × Word)) : (m.addOutst c ws lat).latErr = m.latErr := rfl
@[simp] theorem Mach.addOutst_accErr (c : Ctx) (ws : List (Nat × Nat × Word)) (lat : List (Nat × Word)) : (m.addOutst c ws lat).accErr = m.accErr := rfl
@[simp] theorem Mach.addOutst_scaleErr (c : Ctx) (ws : List (Nat × Nat × Word)) (lat : List (Nat × Word)) : (m.addOutst c ws lat).scaleErr = m.scaleErr := rfl
@[simp] theorem Mach.addOutst_bufs (c : Ctx) (ws : List (Nat × Nat × Word)) (lat : List (Nat × Word)) : (m.addOutst c ws lat).bufs = m.bufs := rfl
@[simp] theorem Mach.addOutst_copies (c : Ctx) (ws : List (Nat × Nat × Word)) (lat : List (Nat × Word)) : (m.addOutst c ws lat).copies = m.copies := rfl
@[simp] theorem Mach.addOutst_blocks (c : Ctx) (ws : List (Nat × Nat × Word)) (lat : List (Nat × Word)) : (m.addOutst c ws lat).blocks = m.blocks := rfl
@[simp] theorem Mach.addOutst_marks (c : Ctx) (ws : List (Nat × Nat × Word)) (lat : List (Nat × Word)) : (m.addOutst c ws lat).marks = m.marks := rfl
@[simp] theorem Mach.addOutst_hist (c : Ctx) (ws : List (Nat × Nat × Word)) (lat : List (Nat × Word)) : (m.addOutst c ws lat).hist = m.hist := rfl
@[simp] theorem Mach.addOutst_away (c : Ctx) (ws : List (Nat × Nat × Word)) (lat : List (Nat × Word)) : (m.addOutst c ws lat).away = m.away := rfl
@[simp] theorem Mach.addOutst_tlb (c : Ctx) (ws : List (Nat × Nat × Word)) (lat : List (Nat × Word)) : (m.addOutst c ws lat).tlb = m.tlb := rfl
@[simp] theorem Mach.addOutst_missq (c : Ctx) (ws : List (Nat × Nat × Word)) (lat : List (Nat × Word)) : (m.addOutst c ws lat).missq = m.missq := rfl
@[simp] theorem Mach.addOutst_icache (c : Ctx) (ws : List (Nat × Nat × Word)) (lat : List (Nat × Word)) : (m.addOutst c ws lat).icache = m.icache := rfl
@[simp] theorem Mach.addOutst_pcache (c : Ctx) (ws : List (Nat × Nat × Word)) (lat : List (Nat × Word)) : (m.addOutst c ws lat).pcache = m.pcache := rfl
@[simp] theorem Mach.addOutst_ways (c : Ctx) (ws : List (Nat × Nat × Word)) (lat : List (Nat × Word)) : (m.addOutst c ws lat).ways = m.ways := rfl
@[simp] theorem Mach.addOutst_delayed (c : Ctx) (ws : List (Nat × Nat × Word)) (lat : List (Nat × Word)) : (m.addOutst c ws lat).delayed = m.delayed := rfl
@[simp] theorem Mach.addOutst_launches (c : Ctx) (ws : List (Nat × Nat × Word)) (lat : List (Nat × Word)) : (m.addOutst c ws lat).launches = m.launches := rfl
@[simp] theorem Mach.addOutst_clusters (c : Ctx) (ws : List (Nat × Nat × Word)) (lat : List (Nat × Word)) : (m.addOutst c ws lat).clusters = m.clusters := rfl
@[simp] theorem Mach.addOutst_teams (c : Ctx) (ws : List (Nat × Nat × Word)) (lat : List (Nat × Word)) : (m.addOutst c ws lat).teams = m.teams := rfl
@[simp] theorem Mach.addOutst_groups (c : Ctx) (ws : List (Nat × Nat × Word)) (lat : List (Nat × Word)) : (m.addOutst c ws lat).groups = m.groups := rfl
@[simp] theorem Mach.addOutst_fibres (c : Ctx) (ws : List (Nat × Nat × Word)) (lat : List (Nat × Word)) : (m.addOutst c ws lat).fibres = m.fibres := rfl
@[simp] theorem Mach.addOutst_ports (c : Ctx) (ws : List (Nat × Nat × Word)) (lat : List (Nat × Word)) : (m.addOutst c ws lat).ports = m.ports := rfl
@[simp] theorem Mach.addOutst_pairs (c : Ctx) (ws : List (Nat × Nat × Word)) (lat : List (Nat × Word)) : (m.addOutst c ws lat).pairs = m.pairs := rfl
@[simp] theorem Mach.addOutst_lastq (c : Ctx) (ws : List (Nat × Nat × Word)) (lat : List (Nat × Word)) : (m.addOutst c ws lat).lastq = m.lastq := rfl
@[simp] theorem Mach.addOutst_ops (c : Ctx) (ws : List (Nat × Nat × Word)) (lat : List (Nat × Word)) : (m.addOutst c ws lat).ops = m.ops := rfl
@[simp] theorem Mach.addOutst_rings (c : Ctx) (ws : List (Nat × Nat × Word)) (lat : List (Nat × Word)) : (m.addOutst c ws lat).rings = m.rings := rfl
@[simp] theorem Mach.addOutst_colls (c : Ctx) (ws : List (Nat × Nat × Word)) (lat : List (Nat × Word)) : (m.addOutst c ws lat).colls = m.colls := rfl
@[simp] theorem Mach.addOutst_net (c : Ctx) (ws : List (Nat × Nat × Word)) (lat : List (Nat × Word)) : (m.addOutst c ws lat).net = m.net := rfl
@[simp] theorem Mach.addOutst_fabPend (c : Ctx) (ws : List (Nat × Nat × Word)) (lat : List (Nat × Word)) : (m.addOutst c ws lat).fabPend = m.fabPend := rfl
@[simp] theorem Mach.addOutst_vows (c : Ctx) (ws : List (Nat × Nat × Word)) (lat : List (Nat × Word)) : (m.addOutst c ws lat).vows = m.vows := rfl
@[simp] theorem Mach.addOutst_hreqs (c : Ctx) (ws : List (Nat × Nat × Word)) (lat : List (Nat × Word)) : (m.addOutst c ws lat).hreqs = m.hreqs := rfl
@[simp] theorem Mach.addOutst_tokens (c : Ctx) (ws : List (Nat × Nat × Word)) (lat : List (Nat × Word)) : (m.addOutst c ws lat).tokens = m.tokens := rfl
@[simp] theorem Mach.addOutst_prefixed (c : Ctx) (ws : List (Nat × Nat × Word)) (lat : List (Nat × Word)) : (m.addOutst c ws lat).prefixed = m.prefixed := rfl
@[simp] theorem Mach.addOutst_late (c : Ctx) (ws : List (Nat × Nat × Word)) (lat : List (Nat × Word)) : (m.addOutst c ws lat).late = m.late := rfl
@[simp] theorem Mach.addOutst_inb (c : Ctx) (ws : List (Nat × Nat × Word)) (lat : List (Nat × Word)) : (m.addOutst c ws lat).inb = m.inb := rfl
@[simp] theorem Mach.addOutst_serves (c : Ctx) (ws : List (Nat × Nat × Word)) (lat : List (Nat × Word)) : (m.addOutst c ws lat).serves = m.serves := rfl
@[simp] theorem Mach.addOutst_parked (c : Ctx) (ws : List (Nat × Nat × Word)) (lat : List (Nat × Word)) : (m.addOutst c ws lat).parked = m.parked := rfl
@[simp] theorem Mach.addOutst_hents (c : Ctx) (ws : List (Nat × Nat × Word)) (lat : List (Nat × Word)) : (m.addOutst c ws lat).hents = m.hents := rfl
@[simp] theorem Mach.addOutst_invq (c : Ctx) (ws : List (Nat × Nat × Word)) (lat : List (Nat × Word)) : (m.addOutst c ws lat).invq = m.invq := rfl
@[simp] theorem Mach.addOutst_regions (c : Ctx) (ws : List (Nat × Nat × Word)) (lat : List (Nat × Word)) : (m.addOutst c ws lat).regions = m.regions := rfl
@[simp] theorem Mach.addOutst_driftSent (c : Ctx) (ws : List (Nat × Nat × Word)) (lat : List (Nat × Word)) : (m.addOutst c ws lat).driftSent = m.driftSent := rfl
@[simp] theorem Mach.addOutst_snaps (c : Ctx) (ws : List (Nat × Nat × Word)) (lat : List (Nat × Word)) : (m.addOutst c ws lat).snaps = m.snaps := rfl
@[simp] theorem Mach.addOutst_cycSnap (c : Ctx) (ws : List (Nat × Nat × Word)) (lat : List (Nat × Word)) : (m.addOutst c ws lat).cycSnap = m.cycSnap := rfl
@[simp] theorem Mach.addOutst_queues (c : Ctx) (ws : List (Nat × Nat × Word)) (lat : List (Nat × Word)) : (m.addOutst c ws lat).queues = m.queues := rfl
@[simp] theorem Mach.addOutst_dev (c : Ctx) (ws : List (Nat × Nat × Word)) (lat : List (Nat × Word)) : (m.addOutst c ws lat).dev = m.dev := rfl

/-! ### `Mach.deliverOutst` -/

@[simp] theorem Mach.deliverOutst_cyc (o : Outst) : (m.deliverOutst o).cyc = m.cyc := rfl
@[simp] theorem Mach.deliverOutst_dieOff (o : Outst) : (m.deliverOutst o).dieOff = m.dieOff := rfl
@[simp] theorem Mach.deliverOutst_wsPhase (o : Outst) : (m.deliverOutst o).wsPhase = m.wsPhase := rfl
@[simp] theorem Mach.deliverOutst_agenda (o : Outst) : (m.deliverOutst o).agenda = m.agenda := rfl
@[simp] theorem Mach.deliverOutst_focus (o : Outst) : (m.deliverOutst o).focus = m.focus := rfl
@[simp] theorem Mach.deliverOutst_free (o : Outst) : (m.deliverOutst o).free = m.free := rfl
@[simp] theorem Mach.deliverOutst_fresh (o : Outst) : (m.deliverOutst o).fresh = m.fresh := rfl
@[simp] theorem Mach.deliverOutst_round (o : Outst) : (m.deliverOutst o).round = m.round := rfl
@[simp] theorem Mach.deliverOutst_mem (o : Outst) : (m.deliverOutst o).mem = m.mem := rfl
@[simp] theorem Mach.deliverOutst_tags (o : Outst) : (m.deliverOutst o).tags = m.tags := rfl
@[simp] theorem Mach.deliverOutst_scr (o : Outst) : (m.deliverOutst o).scr = m.scr := rfl
@[simp] theorem Mach.deliverOutst_gran (o : Outst) : (m.deliverOutst o).gran = m.gran := rfl
@[simp] theorem Mach.deliverOutst_acc (o : Outst) : (m.deliverOutst o).acc = m.acc := rfl
@[simp] theorem Mach.deliverOutst_scale (o : Outst) : (m.deliverOutst o).scale = m.scale := rfl
@[simp] theorem Mach.deliverOutst_gens (o : Outst) : (m.deliverOutst o).gens = m.gens := rfl
@[simp] theorem Mach.deliverOutst_hgens (o : Outst) : (m.deliverOutst o).hgens = m.hgens := rfl
@[simp] theorem Mach.deliverOutst_poison (o : Outst) : (m.deliverOutst o).poison = m.poison := rfl
@[simp] theorem Mach.deliverOutst_latErr (o : Outst) : (m.deliverOutst o).latErr = m.latErr := rfl
@[simp] theorem Mach.deliverOutst_accErr (o : Outst) : (m.deliverOutst o).accErr = m.accErr := rfl
@[simp] theorem Mach.deliverOutst_scaleErr (o : Outst) : (m.deliverOutst o).scaleErr = m.scaleErr := rfl
@[simp] theorem Mach.deliverOutst_bufs (o : Outst) : (m.deliverOutst o).bufs = m.bufs := rfl
@[simp] theorem Mach.deliverOutst_copies (o : Outst) : (m.deliverOutst o).copies = m.copies := rfl
@[simp] theorem Mach.deliverOutst_blocks (o : Outst) : (m.deliverOutst o).blocks = m.blocks := rfl
@[simp] theorem Mach.deliverOutst_marks (o : Outst) : (m.deliverOutst o).marks = m.marks := rfl
@[simp] theorem Mach.deliverOutst_hist (o : Outst) : (m.deliverOutst o).hist = m.hist := rfl
@[simp] theorem Mach.deliverOutst_away (o : Outst) : (m.deliverOutst o).away = m.away := rfl
@[simp] theorem Mach.deliverOutst_tlb (o : Outst) : (m.deliverOutst o).tlb = m.tlb := rfl
@[simp] theorem Mach.deliverOutst_missq (o : Outst) : (m.deliverOutst o).missq = m.missq := rfl
@[simp] theorem Mach.deliverOutst_icache (o : Outst) : (m.deliverOutst o).icache = m.icache := rfl
@[simp] theorem Mach.deliverOutst_pcache (o : Outst) : (m.deliverOutst o).pcache = m.pcache := rfl
@[simp] theorem Mach.deliverOutst_ways (o : Outst) : (m.deliverOutst o).ways = m.ways := rfl
@[simp] theorem Mach.deliverOutst_delayed (o : Outst) : (m.deliverOutst o).delayed = m.delayed := rfl
@[simp] theorem Mach.deliverOutst_launches (o : Outst) : (m.deliverOutst o).launches = m.launches := rfl
@[simp] theorem Mach.deliverOutst_clusters (o : Outst) : (m.deliverOutst o).clusters = m.clusters := rfl
@[simp] theorem Mach.deliverOutst_teams (o : Outst) : (m.deliverOutst o).teams = m.teams := rfl
@[simp] theorem Mach.deliverOutst_groups (o : Outst) : (m.deliverOutst o).groups = m.groups := rfl
@[simp] theorem Mach.deliverOutst_fibres (o : Outst) : (m.deliverOutst o).fibres = m.fibres := rfl
@[simp] theorem Mach.deliverOutst_outst (o : Outst) : (m.deliverOutst o).outst = m.outst.filter (fun x => x.id != o.id) := rfl
@[simp] theorem Mach.deliverOutst_ports (o : Outst) : (m.deliverOutst o).ports = m.ports := rfl
@[simp] theorem Mach.deliverOutst_pairs (o : Outst) : (m.deliverOutst o).pairs = m.pairs := rfl
@[simp] theorem Mach.deliverOutst_lastq (o : Outst) : (m.deliverOutst o).lastq = m.lastq := rfl
@[simp] theorem Mach.deliverOutst_ops (o : Outst) : (m.deliverOutst o).ops = m.ops := rfl
@[simp] theorem Mach.deliverOutst_rings (o : Outst) : (m.deliverOutst o).rings = m.rings := rfl
@[simp] theorem Mach.deliverOutst_colls (o : Outst) : (m.deliverOutst o).colls = m.colls := rfl
@[simp] theorem Mach.deliverOutst_net (o : Outst) : (m.deliverOutst o).net = m.net := rfl
@[simp] theorem Mach.deliverOutst_fabPend (o : Outst) : (m.deliverOutst o).fabPend = m.fabPend := rfl
@[simp] theorem Mach.deliverOutst_vows (o : Outst) : (m.deliverOutst o).vows = m.vows := rfl
@[simp] theorem Mach.deliverOutst_hreqs (o : Outst) : (m.deliverOutst o).hreqs = m.hreqs := rfl
@[simp] theorem Mach.deliverOutst_tokens (o : Outst) : (m.deliverOutst o).tokens = m.tokens := rfl
@[simp] theorem Mach.deliverOutst_prefixed (o : Outst) : (m.deliverOutst o).prefixed = m.prefixed := rfl
@[simp] theorem Mach.deliverOutst_late (o : Outst) : (m.deliverOutst o).late = m.late := rfl
@[simp] theorem Mach.deliverOutst_inb (o : Outst) : (m.deliverOutst o).inb = m.inb := rfl
@[simp] theorem Mach.deliverOutst_serves (o : Outst) : (m.deliverOutst o).serves = m.serves := rfl
@[simp] theorem Mach.deliverOutst_parked (o : Outst) : (m.deliverOutst o).parked = m.parked := rfl
@[simp] theorem Mach.deliverOutst_hents (o : Outst) : (m.deliverOutst o).hents = m.hents := rfl
@[simp] theorem Mach.deliverOutst_invq (o : Outst) : (m.deliverOutst o).invq = m.invq := rfl
@[simp] theorem Mach.deliverOutst_regions (o : Outst) : (m.deliverOutst o).regions = m.regions := rfl
@[simp] theorem Mach.deliverOutst_driftSent (o : Outst) : (m.deliverOutst o).driftSent = m.driftSent := rfl
@[simp] theorem Mach.deliverOutst_snaps (o : Outst) : (m.deliverOutst o).snaps = m.snaps := rfl
@[simp] theorem Mach.deliverOutst_cycSnap (o : Outst) : (m.deliverOutst o).cycSnap = m.cycSnap := rfl
@[simp] theorem Mach.deliverOutst_queues (o : Outst) : (m.deliverOutst o).queues = m.queues := rfl
@[simp] theorem Mach.deliverOutst_dev (o : Outst) : (m.deliverOutst o).dev = m.dev := rfl

/-! ### `Mach.clearPoison` -/

@[simp] theorem Mach.clearPoison_cyc (sp : Space) (addr n : Nat) : (m.clearPoison sp addr n).cyc = m.cyc := rfl
@[simp] theorem Mach.clearPoison_dieOff (sp : Space) (addr n : Nat) : (m.clearPoison sp addr n).dieOff = m.dieOff := rfl
@[simp] theorem Mach.clearPoison_wsPhase (sp : Space) (addr n : Nat) : (m.clearPoison sp addr n).wsPhase = m.wsPhase := rfl
@[simp] theorem Mach.clearPoison_agenda (sp : Space) (addr n : Nat) : (m.clearPoison sp addr n).agenda = m.agenda := rfl
@[simp] theorem Mach.clearPoison_focus (sp : Space) (addr n : Nat) : (m.clearPoison sp addr n).focus = m.focus := rfl
@[simp] theorem Mach.clearPoison_free (sp : Space) (addr n : Nat) : (m.clearPoison sp addr n).free = m.free := rfl
@[simp] theorem Mach.clearPoison_fresh (sp : Space) (addr n : Nat) : (m.clearPoison sp addr n).fresh = m.fresh := rfl
@[simp] theorem Mach.clearPoison_round (sp : Space) (addr n : Nat) : (m.clearPoison sp addr n).round = m.round := rfl
@[simp] theorem Mach.clearPoison_mem (sp : Space) (addr n : Nat) : (m.clearPoison sp addr n).mem = m.mem := rfl
@[simp] theorem Mach.clearPoison_tags (sp : Space) (addr n : Nat) : (m.clearPoison sp addr n).tags = m.tags := rfl
@[simp] theorem Mach.clearPoison_scr (sp : Space) (addr n : Nat) : (m.clearPoison sp addr n).scr = m.scr := rfl
@[simp] theorem Mach.clearPoison_gran (sp : Space) (addr n : Nat) : (m.clearPoison sp addr n).gran = m.gran := rfl
@[simp] theorem Mach.clearPoison_regs (sp : Space) (addr n : Nat) : (m.clearPoison sp addr n).regs = m.regs := rfl
@[simp] theorem Mach.clearPoison_lats (sp : Space) (addr n : Nat) : (m.clearPoison sp addr n).lats = m.lats := rfl
@[simp] theorem Mach.clearPoison_acc (sp : Space) (addr n : Nat) : (m.clearPoison sp addr n).acc = m.acc := rfl
@[simp] theorem Mach.clearPoison_scale (sp : Space) (addr n : Nat) : (m.clearPoison sp addr n).scale = m.scale := rfl
@[simp] theorem Mach.clearPoison_gens (sp : Space) (addr n : Nat) : (m.clearPoison sp addr n).gens = m.gens := rfl
@[simp] theorem Mach.clearPoison_hgens (sp : Space) (addr n : Nat) : (m.clearPoison sp addr n).hgens = m.hgens := rfl
@[simp] theorem Mach.clearPoison_regErr (sp : Space) (addr n : Nat) : (m.clearPoison sp addr n).regErr = m.regErr := rfl
@[simp] theorem Mach.clearPoison_latErr (sp : Space) (addr n : Nat) : (m.clearPoison sp addr n).latErr = m.latErr := rfl
@[simp] theorem Mach.clearPoison_accErr (sp : Space) (addr n : Nat) : (m.clearPoison sp addr n).accErr = m.accErr := rfl
@[simp] theorem Mach.clearPoison_scaleErr (sp : Space) (addr n : Nat) : (m.clearPoison sp addr n).scaleErr = m.scaleErr := rfl
@[simp] theorem Mach.clearPoison_bufs (sp : Space) (addr n : Nat) : (m.clearPoison sp addr n).bufs = m.bufs := rfl
@[simp] theorem Mach.clearPoison_copies (sp : Space) (addr n : Nat) : (m.clearPoison sp addr n).copies = m.copies := rfl
@[simp] theorem Mach.clearPoison_blocks (sp : Space) (addr n : Nat) : (m.clearPoison sp addr n).blocks = m.blocks := rfl
@[simp] theorem Mach.clearPoison_marks (sp : Space) (addr n : Nat) : (m.clearPoison sp addr n).marks = m.marks := rfl
@[simp] theorem Mach.clearPoison_hist (sp : Space) (addr n : Nat) : (m.clearPoison sp addr n).hist = m.hist := rfl
@[simp] theorem Mach.clearPoison_away (sp : Space) (addr n : Nat) : (m.clearPoison sp addr n).away = m.away := rfl
@[simp] theorem Mach.clearPoison_tlb (sp : Space) (addr n : Nat) : (m.clearPoison sp addr n).tlb = m.tlb := rfl
@[simp] theorem Mach.clearPoison_missq (sp : Space) (addr n : Nat) : (m.clearPoison sp addr n).missq = m.missq := rfl
@[simp] theorem Mach.clearPoison_icache (sp : Space) (addr n : Nat) : (m.clearPoison sp addr n).icache = m.icache := rfl
@[simp] theorem Mach.clearPoison_pcache (sp : Space) (addr n : Nat) : (m.clearPoison sp addr n).pcache = m.pcache := rfl
@[simp] theorem Mach.clearPoison_ways (sp : Space) (addr n : Nat) : (m.clearPoison sp addr n).ways = m.ways := rfl
@[simp] theorem Mach.clearPoison_delayed (sp : Space) (addr n : Nat) : (m.clearPoison sp addr n).delayed = m.delayed := rfl
@[simp] theorem Mach.clearPoison_launches (sp : Space) (addr n : Nat) : (m.clearPoison sp addr n).launches = m.launches := rfl
@[simp] theorem Mach.clearPoison_clusters (sp : Space) (addr n : Nat) : (m.clearPoison sp addr n).clusters = m.clusters := rfl
@[simp] theorem Mach.clearPoison_teams (sp : Space) (addr n : Nat) : (m.clearPoison sp addr n).teams = m.teams := rfl
@[simp] theorem Mach.clearPoison_groups (sp : Space) (addr n : Nat) : (m.clearPoison sp addr n).groups = m.groups := rfl
@[simp] theorem Mach.clearPoison_fibres (sp : Space) (addr n : Nat) : (m.clearPoison sp addr n).fibres = m.fibres := rfl
@[simp] theorem Mach.clearPoison_outst (sp : Space) (addr n : Nat) : (m.clearPoison sp addr n).outst = m.outst := rfl
@[simp] theorem Mach.clearPoison_ports (sp : Space) (addr n : Nat) : (m.clearPoison sp addr n).ports = m.ports := rfl
@[simp] theorem Mach.clearPoison_pairs (sp : Space) (addr n : Nat) : (m.clearPoison sp addr n).pairs = m.pairs := rfl
@[simp] theorem Mach.clearPoison_lastq (sp : Space) (addr n : Nat) : (m.clearPoison sp addr n).lastq = m.lastq := rfl
@[simp] theorem Mach.clearPoison_ops (sp : Space) (addr n : Nat) : (m.clearPoison sp addr n).ops = m.ops := rfl
@[simp] theorem Mach.clearPoison_rings (sp : Space) (addr n : Nat) : (m.clearPoison sp addr n).rings = m.rings := rfl
@[simp] theorem Mach.clearPoison_colls (sp : Space) (addr n : Nat) : (m.clearPoison sp addr n).colls = m.colls := rfl
@[simp] theorem Mach.clearPoison_net (sp : Space) (addr n : Nat) : (m.clearPoison sp addr n).net = m.net := rfl
@[simp] theorem Mach.clearPoison_fabPend (sp : Space) (addr n : Nat) : (m.clearPoison sp addr n).fabPend = m.fabPend := rfl
@[simp] theorem Mach.clearPoison_vows (sp : Space) (addr n : Nat) : (m.clearPoison sp addr n).vows = m.vows := rfl
@[simp] theorem Mach.clearPoison_hreqs (sp : Space) (addr n : Nat) : (m.clearPoison sp addr n).hreqs = m.hreqs := rfl
@[simp] theorem Mach.clearPoison_tokens (sp : Space) (addr n : Nat) : (m.clearPoison sp addr n).tokens = m.tokens := rfl
@[simp] theorem Mach.clearPoison_prefixed (sp : Space) (addr n : Nat) : (m.clearPoison sp addr n).prefixed = m.prefixed := rfl
@[simp] theorem Mach.clearPoison_late (sp : Space) (addr n : Nat) : (m.clearPoison sp addr n).late = m.late := rfl
@[simp] theorem Mach.clearPoison_inb (sp : Space) (addr n : Nat) : (m.clearPoison sp addr n).inb = m.inb := rfl
@[simp] theorem Mach.clearPoison_serves (sp : Space) (addr n : Nat) : (m.clearPoison sp addr n).serves = m.serves := rfl
@[simp] theorem Mach.clearPoison_parked (sp : Space) (addr n : Nat) : (m.clearPoison sp addr n).parked = m.parked := rfl
@[simp] theorem Mach.clearPoison_hents (sp : Space) (addr n : Nat) : (m.clearPoison sp addr n).hents = m.hents := rfl
@[simp] theorem Mach.clearPoison_invq (sp : Space) (addr n : Nat) : (m.clearPoison sp addr n).invq = m.invq := rfl
@[simp] theorem Mach.clearPoison_regions (sp : Space) (addr n : Nat) : (m.clearPoison sp addr n).regions = m.regions := rfl
@[simp] theorem Mach.clearPoison_driftSent (sp : Space) (addr n : Nat) : (m.clearPoison sp addr n).driftSent = m.driftSent := rfl
@[simp] theorem Mach.clearPoison_snaps (sp : Space) (addr n : Nat) : (m.clearPoison sp addr n).snaps = m.snaps := rfl
@[simp] theorem Mach.clearPoison_cycSnap (sp : Space) (addr n : Nat) : (m.clearPoison sp addr n).cycSnap = m.cycSnap := rfl
@[simp] theorem Mach.clearPoison_queues (sp : Space) (addr n : Nat) : (m.clearPoison sp addr n).queues = m.queues := rfl
@[simp] theorem Mach.clearPoison_dev (sp : Space) (addr n : Nat) : (m.clearPoison sp addr n).dev = m.dev := rfl

/-! ### `Mach.uncopy` -/

@[simp] theorem Mach.uncopy_cyc (p : Point) (sp : Space) (addr n : Nat) : (m.uncopy p sp addr n).cyc = m.cyc := rfl
@[simp] theorem Mach.uncopy_dieOff (p : Point) (sp : Space) (addr n : Nat) : (m.uncopy p sp addr n).dieOff = m.dieOff := rfl
@[simp] theorem Mach.uncopy_wsPhase (p : Point) (sp : Space) (addr n : Nat) : (m.uncopy p sp addr n).wsPhase = m.wsPhase := rfl
@[simp] theorem Mach.uncopy_agenda (p : Point) (sp : Space) (addr n : Nat) : (m.uncopy p sp addr n).agenda = m.agenda := rfl
@[simp] theorem Mach.uncopy_focus (p : Point) (sp : Space) (addr n : Nat) : (m.uncopy p sp addr n).focus = m.focus := rfl
@[simp] theorem Mach.uncopy_free (p : Point) (sp : Space) (addr n : Nat) : (m.uncopy p sp addr n).free = m.free := rfl
@[simp] theorem Mach.uncopy_fresh (p : Point) (sp : Space) (addr n : Nat) : (m.uncopy p sp addr n).fresh = m.fresh := rfl
@[simp] theorem Mach.uncopy_round (p : Point) (sp : Space) (addr n : Nat) : (m.uncopy p sp addr n).round = m.round := rfl
@[simp] theorem Mach.uncopy_mem (p : Point) (sp : Space) (addr n : Nat) : (m.uncopy p sp addr n).mem = m.mem := rfl
@[simp] theorem Mach.uncopy_tags (p : Point) (sp : Space) (addr n : Nat) : (m.uncopy p sp addr n).tags = m.tags := rfl
@[simp] theorem Mach.uncopy_scr (p : Point) (sp : Space) (addr n : Nat) : (m.uncopy p sp addr n).scr = m.scr := rfl
@[simp] theorem Mach.uncopy_gran (p : Point) (sp : Space) (addr n : Nat) : (m.uncopy p sp addr n).gran = m.gran := rfl
@[simp] theorem Mach.uncopy_regs (p : Point) (sp : Space) (addr n : Nat) : (m.uncopy p sp addr n).regs = m.regs := rfl
@[simp] theorem Mach.uncopy_lats (p : Point) (sp : Space) (addr n : Nat) : (m.uncopy p sp addr n).lats = m.lats := rfl
@[simp] theorem Mach.uncopy_acc (p : Point) (sp : Space) (addr n : Nat) : (m.uncopy p sp addr n).acc = m.acc := rfl
@[simp] theorem Mach.uncopy_scale (p : Point) (sp : Space) (addr n : Nat) : (m.uncopy p sp addr n).scale = m.scale := rfl
@[simp] theorem Mach.uncopy_gens (p : Point) (sp : Space) (addr n : Nat) : (m.uncopy p sp addr n).gens = m.gens := rfl
@[simp] theorem Mach.uncopy_hgens (p : Point) (sp : Space) (addr n : Nat) : (m.uncopy p sp addr n).hgens = m.hgens := rfl
@[simp] theorem Mach.uncopy_poison (p : Point) (sp : Space) (addr n : Nat) : (m.uncopy p sp addr n).poison = m.poison := rfl
@[simp] theorem Mach.uncopy_regErr (p : Point) (sp : Space) (addr n : Nat) : (m.uncopy p sp addr n).regErr = m.regErr := rfl
@[simp] theorem Mach.uncopy_latErr (p : Point) (sp : Space) (addr n : Nat) : (m.uncopy p sp addr n).latErr = m.latErr := rfl
@[simp] theorem Mach.uncopy_accErr (p : Point) (sp : Space) (addr n : Nat) : (m.uncopy p sp addr n).accErr = m.accErr := rfl
@[simp] theorem Mach.uncopy_scaleErr (p : Point) (sp : Space) (addr n : Nat) : (m.uncopy p sp addr n).scaleErr = m.scaleErr := rfl
@[simp] theorem Mach.uncopy_bufs (p : Point) (sp : Space) (addr n : Nat) : (m.uncopy p sp addr n).bufs = m.bufs := rfl
@[simp] theorem Mach.uncopy_marks (p : Point) (sp : Space) (addr n : Nat) : (m.uncopy p sp addr n).marks = m.marks := rfl
@[simp] theorem Mach.uncopy_hist (p : Point) (sp : Space) (addr n : Nat) : (m.uncopy p sp addr n).hist = m.hist := rfl
@[simp] theorem Mach.uncopy_away (p : Point) (sp : Space) (addr n : Nat) : (m.uncopy p sp addr n).away = m.away := rfl
@[simp] theorem Mach.uncopy_tlb (p : Point) (sp : Space) (addr n : Nat) : (m.uncopy p sp addr n).tlb = m.tlb := rfl
@[simp] theorem Mach.uncopy_missq (p : Point) (sp : Space) (addr n : Nat) : (m.uncopy p sp addr n).missq = m.missq := rfl
@[simp] theorem Mach.uncopy_icache (p : Point) (sp : Space) (addr n : Nat) : (m.uncopy p sp addr n).icache = m.icache := rfl
@[simp] theorem Mach.uncopy_pcache (p : Point) (sp : Space) (addr n : Nat) : (m.uncopy p sp addr n).pcache = m.pcache := rfl
@[simp] theorem Mach.uncopy_ways (p : Point) (sp : Space) (addr n : Nat) : (m.uncopy p sp addr n).ways = m.ways := rfl
@[simp] theorem Mach.uncopy_delayed (p : Point) (sp : Space) (addr n : Nat) : (m.uncopy p sp addr n).delayed = m.delayed := rfl
@[simp] theorem Mach.uncopy_launches (p : Point) (sp : Space) (addr n : Nat) : (m.uncopy p sp addr n).launches = m.launches := rfl
@[simp] theorem Mach.uncopy_clusters (p : Point) (sp : Space) (addr n : Nat) : (m.uncopy p sp addr n).clusters = m.clusters := rfl
@[simp] theorem Mach.uncopy_teams (p : Point) (sp : Space) (addr n : Nat) : (m.uncopy p sp addr n).teams = m.teams := rfl
@[simp] theorem Mach.uncopy_groups (p : Point) (sp : Space) (addr n : Nat) : (m.uncopy p sp addr n).groups = m.groups := rfl
@[simp] theorem Mach.uncopy_fibres (p : Point) (sp : Space) (addr n : Nat) : (m.uncopy p sp addr n).fibres = m.fibres := rfl
@[simp] theorem Mach.uncopy_outst (p : Point) (sp : Space) (addr n : Nat) : (m.uncopy p sp addr n).outst = m.outst := rfl
@[simp] theorem Mach.uncopy_ports (p : Point) (sp : Space) (addr n : Nat) : (m.uncopy p sp addr n).ports = m.ports := rfl
@[simp] theorem Mach.uncopy_pairs (p : Point) (sp : Space) (addr n : Nat) : (m.uncopy p sp addr n).pairs = m.pairs := rfl
@[simp] theorem Mach.uncopy_lastq (p : Point) (sp : Space) (addr n : Nat) : (m.uncopy p sp addr n).lastq = m.lastq := rfl
@[simp] theorem Mach.uncopy_ops (p : Point) (sp : Space) (addr n : Nat) : (m.uncopy p sp addr n).ops = m.ops := rfl
@[simp] theorem Mach.uncopy_rings (p : Point) (sp : Space) (addr n : Nat) : (m.uncopy p sp addr n).rings = m.rings := rfl
@[simp] theorem Mach.uncopy_colls (p : Point) (sp : Space) (addr n : Nat) : (m.uncopy p sp addr n).colls = m.colls := rfl
@[simp] theorem Mach.uncopy_net (p : Point) (sp : Space) (addr n : Nat) : (m.uncopy p sp addr n).net = m.net := rfl
@[simp] theorem Mach.uncopy_vows (p : Point) (sp : Space) (addr n : Nat) : (m.uncopy p sp addr n).vows = m.vows := rfl
@[simp] theorem Mach.uncopy_hreqs (p : Point) (sp : Space) (addr n : Nat) : (m.uncopy p sp addr n).hreqs = m.hreqs := rfl
@[simp] theorem Mach.uncopy_tokens (p : Point) (sp : Space) (addr n : Nat) : (m.uncopy p sp addr n).tokens = m.tokens := rfl
@[simp] theorem Mach.uncopy_prefixed (p : Point) (sp : Space) (addr n : Nat) : (m.uncopy p sp addr n).prefixed = m.prefixed := rfl
@[simp] theorem Mach.uncopy_late (p : Point) (sp : Space) (addr n : Nat) : (m.uncopy p sp addr n).late = m.late := rfl
@[simp] theorem Mach.uncopy_inb (p : Point) (sp : Space) (addr n : Nat) : (m.uncopy p sp addr n).inb = m.inb := rfl
@[simp] theorem Mach.uncopy_serves (p : Point) (sp : Space) (addr n : Nat) : (m.uncopy p sp addr n).serves = m.serves := rfl
@[simp] theorem Mach.uncopy_parked (p : Point) (sp : Space) (addr n : Nat) : (m.uncopy p sp addr n).parked = m.parked := rfl
@[simp] theorem Mach.uncopy_hents (p : Point) (sp : Space) (addr n : Nat) : (m.uncopy p sp addr n).hents = m.hents := rfl
@[simp] theorem Mach.uncopy_invq (p : Point) (sp : Space) (addr n : Nat) : (m.uncopy p sp addr n).invq = m.invq := rfl
@[simp] theorem Mach.uncopy_regions (p : Point) (sp : Space) (addr n : Nat) : (m.uncopy p sp addr n).regions = m.regions := rfl
@[simp] theorem Mach.uncopy_driftSent (p : Point) (sp : Space) (addr n : Nat) : (m.uncopy p sp addr n).driftSent = m.driftSent := rfl
@[simp] theorem Mach.uncopy_snaps (p : Point) (sp : Space) (addr n : Nat) : (m.uncopy p sp addr n).snaps = m.snaps := rfl
@[simp] theorem Mach.uncopy_cycSnap (p : Point) (sp : Space) (addr n : Nat) : (m.uncopy p sp addr n).cycSnap = m.cycSnap := rfl
@[simp] theorem Mach.uncopy_queues (p : Point) (sp : Space) (addr n : Nat) : (m.uncopy p sp addr n).queues = m.queues := rfl
@[simp] theorem Mach.uncopy_dev (p : Point) (sp : Space) (addr n : Nat) : (m.uncopy p sp addr n).dev = m.dev := rfl

/-! ### `Mach.dropCopies` -/

@[simp] theorem Mach.dropCopies_cyc (ps : List Point) : (m.dropCopies ps).cyc = m.cyc := rfl
@[simp] theorem Mach.dropCopies_dieOff (ps : List Point) : (m.dropCopies ps).dieOff = m.dieOff := rfl
@[simp] theorem Mach.dropCopies_wsPhase (ps : List Point) : (m.dropCopies ps).wsPhase = m.wsPhase := rfl
@[simp] theorem Mach.dropCopies_agenda (ps : List Point) : (m.dropCopies ps).agenda = m.agenda := rfl
@[simp] theorem Mach.dropCopies_focus (ps : List Point) : (m.dropCopies ps).focus = m.focus := rfl
@[simp] theorem Mach.dropCopies_free (ps : List Point) : (m.dropCopies ps).free = m.free := rfl
@[simp] theorem Mach.dropCopies_fresh (ps : List Point) : (m.dropCopies ps).fresh = m.fresh := rfl
@[simp] theorem Mach.dropCopies_round (ps : List Point) : (m.dropCopies ps).round = m.round := rfl
@[simp] theorem Mach.dropCopies_mem (ps : List Point) : (m.dropCopies ps).mem = m.mem := rfl
@[simp] theorem Mach.dropCopies_tags (ps : List Point) : (m.dropCopies ps).tags = m.tags := rfl
@[simp] theorem Mach.dropCopies_scr (ps : List Point) : (m.dropCopies ps).scr = m.scr := rfl
@[simp] theorem Mach.dropCopies_gran (ps : List Point) : (m.dropCopies ps).gran = m.gran := rfl
@[simp] theorem Mach.dropCopies_regs (ps : List Point) : (m.dropCopies ps).regs = m.regs := rfl
@[simp] theorem Mach.dropCopies_lats (ps : List Point) : (m.dropCopies ps).lats = m.lats := rfl
@[simp] theorem Mach.dropCopies_acc (ps : List Point) : (m.dropCopies ps).acc = m.acc := rfl
@[simp] theorem Mach.dropCopies_scale (ps : List Point) : (m.dropCopies ps).scale = m.scale := rfl
@[simp] theorem Mach.dropCopies_gens (ps : List Point) : (m.dropCopies ps).gens = m.gens := rfl
@[simp] theorem Mach.dropCopies_hgens (ps : List Point) : (m.dropCopies ps).hgens = m.hgens := rfl
@[simp] theorem Mach.dropCopies_poison (ps : List Point) : (m.dropCopies ps).poison = m.poison := rfl
@[simp] theorem Mach.dropCopies_regErr (ps : List Point) : (m.dropCopies ps).regErr = m.regErr := rfl
@[simp] theorem Mach.dropCopies_latErr (ps : List Point) : (m.dropCopies ps).latErr = m.latErr := rfl
@[simp] theorem Mach.dropCopies_accErr (ps : List Point) : (m.dropCopies ps).accErr = m.accErr := rfl
@[simp] theorem Mach.dropCopies_scaleErr (ps : List Point) : (m.dropCopies ps).scaleErr = m.scaleErr := rfl
@[simp] theorem Mach.dropCopies_bufs (ps : List Point) : (m.dropCopies ps).bufs = m.bufs := rfl
@[simp] theorem Mach.dropCopies_copies (ps : List Point) : (m.dropCopies ps).copies = m.copies.filter (fun c => !ps.contains c.pt) := rfl
@[simp] theorem Mach.dropCopies_blocks (ps : List Point) : (m.dropCopies ps).blocks = m.blocks.filter (fun b => !ps.contains b.pt) := rfl
@[simp] theorem Mach.dropCopies_marks (ps : List Point) : (m.dropCopies ps).marks = m.marks := rfl
@[simp] theorem Mach.dropCopies_hist (ps : List Point) : (m.dropCopies ps).hist = m.hist := rfl
@[simp] theorem Mach.dropCopies_away (ps : List Point) : (m.dropCopies ps).away = m.away := rfl
@[simp] theorem Mach.dropCopies_tlb (ps : List Point) : (m.dropCopies ps).tlb = m.tlb := rfl
@[simp] theorem Mach.dropCopies_missq (ps : List Point) : (m.dropCopies ps).missq = m.missq := rfl
@[simp] theorem Mach.dropCopies_icache (ps : List Point) : (m.dropCopies ps).icache = m.icache := rfl
@[simp] theorem Mach.dropCopies_pcache (ps : List Point) : (m.dropCopies ps).pcache = m.pcache := rfl
@[simp] theorem Mach.dropCopies_ways (ps : List Point) : (m.dropCopies ps).ways = m.ways := rfl
@[simp] theorem Mach.dropCopies_delayed (ps : List Point) : (m.dropCopies ps).delayed = m.delayed := rfl
@[simp] theorem Mach.dropCopies_launches (ps : List Point) : (m.dropCopies ps).launches = m.launches := rfl
@[simp] theorem Mach.dropCopies_clusters (ps : List Point) : (m.dropCopies ps).clusters = m.clusters := rfl
@[simp] theorem Mach.dropCopies_teams (ps : List Point) : (m.dropCopies ps).teams = m.teams := rfl
@[simp] theorem Mach.dropCopies_groups (ps : List Point) : (m.dropCopies ps).groups = m.groups := rfl
@[simp] theorem Mach.dropCopies_fibres (ps : List Point) : (m.dropCopies ps).fibres = m.fibres := rfl
@[simp] theorem Mach.dropCopies_outst (ps : List Point) : (m.dropCopies ps).outst = m.outst := rfl
@[simp] theorem Mach.dropCopies_ports (ps : List Point) : (m.dropCopies ps).ports = m.ports := rfl
@[simp] theorem Mach.dropCopies_pairs (ps : List Point) : (m.dropCopies ps).pairs = m.pairs := rfl
@[simp] theorem Mach.dropCopies_lastq (ps : List Point) : (m.dropCopies ps).lastq = m.lastq := rfl
@[simp] theorem Mach.dropCopies_ops (ps : List Point) : (m.dropCopies ps).ops = m.ops := rfl
@[simp] theorem Mach.dropCopies_rings (ps : List Point) : (m.dropCopies ps).rings = m.rings := rfl
@[simp] theorem Mach.dropCopies_colls (ps : List Point) : (m.dropCopies ps).colls = m.colls := rfl
@[simp] theorem Mach.dropCopies_net (ps : List Point) : (m.dropCopies ps).net = m.net := rfl
@[simp] theorem Mach.dropCopies_vows (ps : List Point) : (m.dropCopies ps).vows = m.vows := rfl
@[simp] theorem Mach.dropCopies_hreqs (ps : List Point) : (m.dropCopies ps).hreqs = m.hreqs := rfl
@[simp] theorem Mach.dropCopies_tokens (ps : List Point) : (m.dropCopies ps).tokens = m.tokens := rfl
@[simp] theorem Mach.dropCopies_prefixed (ps : List Point) : (m.dropCopies ps).prefixed = m.prefixed := rfl
@[simp] theorem Mach.dropCopies_late (ps : List Point) : (m.dropCopies ps).late = m.late := rfl
@[simp] theorem Mach.dropCopies_inb (ps : List Point) : (m.dropCopies ps).inb = m.inb := rfl
@[simp] theorem Mach.dropCopies_serves (ps : List Point) : (m.dropCopies ps).serves = m.serves := rfl
@[simp] theorem Mach.dropCopies_parked (ps : List Point) : (m.dropCopies ps).parked = m.parked := rfl
@[simp] theorem Mach.dropCopies_hents (ps : List Point) : (m.dropCopies ps).hents = m.hents := rfl
@[simp] theorem Mach.dropCopies_invq (ps : List Point) : (m.dropCopies ps).invq = m.invq := rfl
@[simp] theorem Mach.dropCopies_regions (ps : List Point) : (m.dropCopies ps).regions = m.regions := rfl
@[simp] theorem Mach.dropCopies_driftSent (ps : List Point) : (m.dropCopies ps).driftSent = m.driftSent := rfl
@[simp] theorem Mach.dropCopies_snaps (ps : List Point) : (m.dropCopies ps).snaps = m.snaps := rfl
@[simp] theorem Mach.dropCopies_cycSnap (ps : List Point) : (m.dropCopies ps).cycSnap = m.cycSnap := rfl
@[simp] theorem Mach.dropCopies_queues (ps : List Point) : (m.dropCopies ps).queues = m.queues := rfl
@[simp] theorem Mach.dropCopies_dev (ps : List Point) : (m.dropCopies ps).dev = m.dev := rfl

/-! ### `Mach.dropRange` -/

@[simp] theorem Mach.dropRange_cyc (ps : List Point) (sp : Space) (addr n : Nat) : (m.dropRange ps sp addr n).cyc = m.cyc := rfl
@[simp] theorem Mach.dropRange_dieOff (ps : List Point) (sp : Space) (addr n : Nat) : (m.dropRange ps sp addr n).dieOff = m.dieOff := rfl
@[simp] theorem Mach.dropRange_wsPhase (ps : List Point) (sp : Space) (addr n : Nat) : (m.dropRange ps sp addr n).wsPhase = m.wsPhase := rfl
@[simp] theorem Mach.dropRange_agenda (ps : List Point) (sp : Space) (addr n : Nat) : (m.dropRange ps sp addr n).agenda = m.agenda := rfl
@[simp] theorem Mach.dropRange_focus (ps : List Point) (sp : Space) (addr n : Nat) : (m.dropRange ps sp addr n).focus = m.focus := rfl
@[simp] theorem Mach.dropRange_free (ps : List Point) (sp : Space) (addr n : Nat) : (m.dropRange ps sp addr n).free = m.free := rfl
@[simp] theorem Mach.dropRange_fresh (ps : List Point) (sp : Space) (addr n : Nat) : (m.dropRange ps sp addr n).fresh = m.fresh := rfl
@[simp] theorem Mach.dropRange_round (ps : List Point) (sp : Space) (addr n : Nat) : (m.dropRange ps sp addr n).round = m.round := rfl
@[simp] theorem Mach.dropRange_mem (ps : List Point) (sp : Space) (addr n : Nat) : (m.dropRange ps sp addr n).mem = m.mem := rfl
@[simp] theorem Mach.dropRange_tags (ps : List Point) (sp : Space) (addr n : Nat) : (m.dropRange ps sp addr n).tags = m.tags := rfl
@[simp] theorem Mach.dropRange_scr (ps : List Point) (sp : Space) (addr n : Nat) : (m.dropRange ps sp addr n).scr = m.scr := rfl
@[simp] theorem Mach.dropRange_gran (ps : List Point) (sp : Space) (addr n : Nat) : (m.dropRange ps sp addr n).gran = m.gran := rfl
@[simp] theorem Mach.dropRange_regs (ps : List Point) (sp : Space) (addr n : Nat) : (m.dropRange ps sp addr n).regs = m.regs := rfl
@[simp] theorem Mach.dropRange_lats (ps : List Point) (sp : Space) (addr n : Nat) : (m.dropRange ps sp addr n).lats = m.lats := rfl
@[simp] theorem Mach.dropRange_acc (ps : List Point) (sp : Space) (addr n : Nat) : (m.dropRange ps sp addr n).acc = m.acc := rfl
@[simp] theorem Mach.dropRange_scale (ps : List Point) (sp : Space) (addr n : Nat) : (m.dropRange ps sp addr n).scale = m.scale := rfl
@[simp] theorem Mach.dropRange_gens (ps : List Point) (sp : Space) (addr n : Nat) : (m.dropRange ps sp addr n).gens = m.gens := rfl
@[simp] theorem Mach.dropRange_hgens (ps : List Point) (sp : Space) (addr n : Nat) : (m.dropRange ps sp addr n).hgens = m.hgens := rfl
@[simp] theorem Mach.dropRange_poison (ps : List Point) (sp : Space) (addr n : Nat) : (m.dropRange ps sp addr n).poison = m.poison := rfl
@[simp] theorem Mach.dropRange_regErr (ps : List Point) (sp : Space) (addr n : Nat) : (m.dropRange ps sp addr n).regErr = m.regErr := rfl
@[simp] theorem Mach.dropRange_latErr (ps : List Point) (sp : Space) (addr n : Nat) : (m.dropRange ps sp addr n).latErr = m.latErr := rfl
@[simp] theorem Mach.dropRange_accErr (ps : List Point) (sp : Space) (addr n : Nat) : (m.dropRange ps sp addr n).accErr = m.accErr := rfl
@[simp] theorem Mach.dropRange_scaleErr (ps : List Point) (sp : Space) (addr n : Nat) : (m.dropRange ps sp addr n).scaleErr = m.scaleErr := rfl
@[simp] theorem Mach.dropRange_bufs (ps : List Point) (sp : Space) (addr n : Nat) : (m.dropRange ps sp addr n).bufs = m.bufs := rfl
@[simp] theorem Mach.dropRange_marks (ps : List Point) (sp : Space) (addr n : Nat) : (m.dropRange ps sp addr n).marks = m.marks := rfl
@[simp] theorem Mach.dropRange_hist (ps : List Point) (sp : Space) (addr n : Nat) : (m.dropRange ps sp addr n).hist = m.hist := rfl
@[simp] theorem Mach.dropRange_away (ps : List Point) (sp : Space) (addr n : Nat) : (m.dropRange ps sp addr n).away = m.away := rfl
@[simp] theorem Mach.dropRange_tlb (ps : List Point) (sp : Space) (addr n : Nat) : (m.dropRange ps sp addr n).tlb = m.tlb := rfl
@[simp] theorem Mach.dropRange_missq (ps : List Point) (sp : Space) (addr n : Nat) : (m.dropRange ps sp addr n).missq = m.missq := rfl
@[simp] theorem Mach.dropRange_icache (ps : List Point) (sp : Space) (addr n : Nat) : (m.dropRange ps sp addr n).icache = m.icache := rfl
@[simp] theorem Mach.dropRange_pcache (ps : List Point) (sp : Space) (addr n : Nat) : (m.dropRange ps sp addr n).pcache = m.pcache := rfl
@[simp] theorem Mach.dropRange_ways (ps : List Point) (sp : Space) (addr n : Nat) : (m.dropRange ps sp addr n).ways = m.ways := rfl
@[simp] theorem Mach.dropRange_delayed (ps : List Point) (sp : Space) (addr n : Nat) : (m.dropRange ps sp addr n).delayed = m.delayed := rfl
@[simp] theorem Mach.dropRange_launches (ps : List Point) (sp : Space) (addr n : Nat) : (m.dropRange ps sp addr n).launches = m.launches := rfl
@[simp] theorem Mach.dropRange_clusters (ps : List Point) (sp : Space) (addr n : Nat) : (m.dropRange ps sp addr n).clusters = m.clusters := rfl
@[simp] theorem Mach.dropRange_teams (ps : List Point) (sp : Space) (addr n : Nat) : (m.dropRange ps sp addr n).teams = m.teams := rfl
@[simp] theorem Mach.dropRange_groups (ps : List Point) (sp : Space) (addr n : Nat) : (m.dropRange ps sp addr n).groups = m.groups := rfl
@[simp] theorem Mach.dropRange_fibres (ps : List Point) (sp : Space) (addr n : Nat) : (m.dropRange ps sp addr n).fibres = m.fibres := rfl
@[simp] theorem Mach.dropRange_outst (ps : List Point) (sp : Space) (addr n : Nat) : (m.dropRange ps sp addr n).outst = m.outst := rfl
@[simp] theorem Mach.dropRange_ports (ps : List Point) (sp : Space) (addr n : Nat) : (m.dropRange ps sp addr n).ports = m.ports := rfl
@[simp] theorem Mach.dropRange_pairs (ps : List Point) (sp : Space) (addr n : Nat) : (m.dropRange ps sp addr n).pairs = m.pairs := rfl
@[simp] theorem Mach.dropRange_lastq (ps : List Point) (sp : Space) (addr n : Nat) : (m.dropRange ps sp addr n).lastq = m.lastq := rfl
@[simp] theorem Mach.dropRange_ops (ps : List Point) (sp : Space) (addr n : Nat) : (m.dropRange ps sp addr n).ops = m.ops := rfl
@[simp] theorem Mach.dropRange_rings (ps : List Point) (sp : Space) (addr n : Nat) : (m.dropRange ps sp addr n).rings = m.rings := rfl
@[simp] theorem Mach.dropRange_colls (ps : List Point) (sp : Space) (addr n : Nat) : (m.dropRange ps sp addr n).colls = m.colls := rfl
@[simp] theorem Mach.dropRange_net (ps : List Point) (sp : Space) (addr n : Nat) : (m.dropRange ps sp addr n).net = m.net := rfl
@[simp] theorem Mach.dropRange_vows (ps : List Point) (sp : Space) (addr n : Nat) : (m.dropRange ps sp addr n).vows = m.vows := rfl
@[simp] theorem Mach.dropRange_hreqs (ps : List Point) (sp : Space) (addr n : Nat) : (m.dropRange ps sp addr n).hreqs = m.hreqs := rfl
@[simp] theorem Mach.dropRange_tokens (ps : List Point) (sp : Space) (addr n : Nat) : (m.dropRange ps sp addr n).tokens = m.tokens := rfl
@[simp] theorem Mach.dropRange_prefixed (ps : List Point) (sp : Space) (addr n : Nat) : (m.dropRange ps sp addr n).prefixed = m.prefixed := rfl
@[simp] theorem Mach.dropRange_late (ps : List Point) (sp : Space) (addr n : Nat) : (m.dropRange ps sp addr n).late = m.late := rfl
@[simp] theorem Mach.dropRange_inb (ps : List Point) (sp : Space) (addr n : Nat) : (m.dropRange ps sp addr n).inb = m.inb := rfl
@[simp] theorem Mach.dropRange_serves (ps : List Point) (sp : Space) (addr n : Nat) : (m.dropRange ps sp addr n).serves = m.serves := rfl
@[simp] theorem Mach.dropRange_parked (ps : List Point) (sp : Space) (addr n : Nat) : (m.dropRange ps sp addr n).parked = m.parked := rfl
@[simp] theorem Mach.dropRange_hents (ps : List Point) (sp : Space) (addr n : Nat) : (m.dropRange ps sp addr n).hents = m.hents := rfl
@[simp] theorem Mach.dropRange_invq (ps : List Point) (sp : Space) (addr n : Nat) : (m.dropRange ps sp addr n).invq = m.invq := rfl
@[simp] theorem Mach.dropRange_regions (ps : List Point) (sp : Space) (addr n : Nat) : (m.dropRange ps sp addr n).regions = m.regions := rfl
@[simp] theorem Mach.dropRange_driftSent (ps : List Point) (sp : Space) (addr n : Nat) : (m.dropRange ps sp addr n).driftSent = m.driftSent := rfl
@[simp] theorem Mach.dropRange_snaps (ps : List Point) (sp : Space) (addr n : Nat) : (m.dropRange ps sp addr n).snaps = m.snaps := rfl
@[simp] theorem Mach.dropRange_cycSnap (ps : List Point) (sp : Space) (addr n : Nat) : (m.dropRange ps sp addr n).cycSnap = m.cycSnap := rfl
@[simp] theorem Mach.dropRange_queues (ps : List Point) (sp : Space) (addr n : Nat) : (m.dropRange ps sp addr n).queues = m.queues := rfl
@[simp] theorem Mach.dropRange_dev (ps : List Point) (sp : Space) (addr n : Nat) : (m.dropRange ps sp addr n).dev = m.dev := rfl

/-! ### `Mach.record` -/

@[simp] theorem Mach.record_cyc (w : Write) : (m.record w).cyc = m.cyc := rfl
@[simp] theorem Mach.record_dieOff (w : Write) : (m.record w).dieOff = m.dieOff := rfl
@[simp] theorem Mach.record_wsPhase (w : Write) : (m.record w).wsPhase = m.wsPhase := rfl
@[simp] theorem Mach.record_agenda (w : Write) : (m.record w).agenda = m.agenda := rfl
@[simp] theorem Mach.record_focus (w : Write) : (m.record w).focus = m.focus := rfl
@[simp] theorem Mach.record_free (w : Write) : (m.record w).free = m.free := rfl
@[simp] theorem Mach.record_fresh (w : Write) : (m.record w).fresh = m.fresh := rfl
@[simp] theorem Mach.record_round (w : Write) : (m.record w).round = m.round := rfl
@[simp] theorem Mach.record_mem (w : Write) : (m.record w).mem = m.mem := rfl
@[simp] theorem Mach.record_tags (w : Write) : (m.record w).tags = m.tags := rfl
@[simp] theorem Mach.record_scr (w : Write) : (m.record w).scr = m.scr := rfl
@[simp] theorem Mach.record_gran (w : Write) : (m.record w).gran = m.gran := rfl
@[simp] theorem Mach.record_regs (w : Write) : (m.record w).regs = m.regs := rfl
@[simp] theorem Mach.record_lats (w : Write) : (m.record w).lats = m.lats := rfl
@[simp] theorem Mach.record_acc (w : Write) : (m.record w).acc = m.acc := rfl
@[simp] theorem Mach.record_scale (w : Write) : (m.record w).scale = m.scale := rfl
@[simp] theorem Mach.record_gens (w : Write) : (m.record w).gens = m.gens := rfl
@[simp] theorem Mach.record_hgens (w : Write) : (m.record w).hgens = m.hgens := rfl
@[simp] theorem Mach.record_poison (w : Write) : (m.record w).poison = m.poison := rfl
@[simp] theorem Mach.record_regErr (w : Write) : (m.record w).regErr = m.regErr := rfl
@[simp] theorem Mach.record_latErr (w : Write) : (m.record w).latErr = m.latErr := rfl
@[simp] theorem Mach.record_accErr (w : Write) : (m.record w).accErr = m.accErr := rfl
@[simp] theorem Mach.record_scaleErr (w : Write) : (m.record w).scaleErr = m.scaleErr := rfl
@[simp] theorem Mach.record_bufs (w : Write) : (m.record w).bufs = m.bufs := rfl
@[simp] theorem Mach.record_copies (w : Write) : (m.record w).copies = m.copies := rfl
@[simp] theorem Mach.record_blocks (w : Write) : (m.record w).blocks = m.blocks := rfl
@[simp] theorem Mach.record_marks (w : Write) : (m.record w).marks = m.marks := rfl
@[simp] theorem Mach.record_hist (w : Write) : (m.record w).hist = ⟨w.wid, w.sp, w.addr, w.bytes⟩ :: m.hist := rfl
@[simp] theorem Mach.record_away (w : Write) : (m.record w).away = m.away := rfl
@[simp] theorem Mach.record_tlb (w : Write) : (m.record w).tlb = m.tlb := rfl
@[simp] theorem Mach.record_missq (w : Write) : (m.record w).missq = m.missq := rfl
@[simp] theorem Mach.record_icache (w : Write) : (m.record w).icache = m.icache := rfl
@[simp] theorem Mach.record_pcache (w : Write) : (m.record w).pcache = m.pcache := rfl
@[simp] theorem Mach.record_ways (w : Write) : (m.record w).ways = m.ways := rfl
@[simp] theorem Mach.record_delayed (w : Write) : (m.record w).delayed = m.delayed := rfl
@[simp] theorem Mach.record_launches (w : Write) : (m.record w).launches = m.launches := rfl
@[simp] theorem Mach.record_clusters (w : Write) : (m.record w).clusters = m.clusters := rfl
@[simp] theorem Mach.record_teams (w : Write) : (m.record w).teams = m.teams := rfl
@[simp] theorem Mach.record_groups (w : Write) : (m.record w).groups = m.groups := rfl
@[simp] theorem Mach.record_fibres (w : Write) : (m.record w).fibres = m.fibres := rfl
@[simp] theorem Mach.record_outst (w : Write) : (m.record w).outst = m.outst := rfl
@[simp] theorem Mach.record_ports (w : Write) : (m.record w).ports = m.ports := rfl
@[simp] theorem Mach.record_pairs (w : Write) : (m.record w).pairs = m.pairs := rfl
@[simp] theorem Mach.record_lastq (w : Write) : (m.record w).lastq = m.lastq := rfl
@[simp] theorem Mach.record_ops (w : Write) : (m.record w).ops = m.ops := rfl
@[simp] theorem Mach.record_rings (w : Write) : (m.record w).rings = m.rings := rfl
@[simp] theorem Mach.record_colls (w : Write) : (m.record w).colls = m.colls := rfl
@[simp] theorem Mach.record_net (w : Write) : (m.record w).net = m.net := rfl
@[simp] theorem Mach.record_fabPend (w : Write) : (m.record w).fabPend = m.fabPend := rfl
@[simp] theorem Mach.record_vows (w : Write) : (m.record w).vows = m.vows := rfl
@[simp] theorem Mach.record_hreqs (w : Write) : (m.record w).hreqs = m.hreqs := rfl
@[simp] theorem Mach.record_tokens (w : Write) : (m.record w).tokens = m.tokens := rfl
@[simp] theorem Mach.record_prefixed (w : Write) : (m.record w).prefixed = m.prefixed := rfl
@[simp] theorem Mach.record_late (w : Write) : (m.record w).late = m.late := rfl
@[simp] theorem Mach.record_inb (w : Write) : (m.record w).inb = m.inb := rfl
@[simp] theorem Mach.record_serves (w : Write) : (m.record w).serves = m.serves := rfl
@[simp] theorem Mach.record_parked (w : Write) : (m.record w).parked = m.parked := rfl
@[simp] theorem Mach.record_hents (w : Write) : (m.record w).hents = m.hents := rfl
@[simp] theorem Mach.record_invq (w : Write) : (m.record w).invq = m.invq := rfl
@[simp] theorem Mach.record_regions (w : Write) : (m.record w).regions = m.regions := rfl
@[simp] theorem Mach.record_driftSent (w : Write) : (m.record w).driftSent = m.driftSent := rfl
@[simp] theorem Mach.record_snaps (w : Write) : (m.record w).snaps = m.snaps := rfl
@[simp] theorem Mach.record_cycSnap (w : Write) : (m.record w).cycSnap = m.cycSnap := rfl
@[simp] theorem Mach.record_queues (w : Write) : (m.record w).queues = m.queues := rfl
@[simp] theorem Mach.record_dev (w : Write) : (m.record w).dev = m.dev := rfl

/-! ### `Mach.mark` -/

@[simp] theorem Mach.mark_cyc (t : Nat) (w : Write) : (m.mark t w).cyc = m.cyc := rfl
@[simp] theorem Mach.mark_dieOff (t : Nat) (w : Write) : (m.mark t w).dieOff = m.dieOff := rfl
@[simp] theorem Mach.mark_wsPhase (t : Nat) (w : Write) : (m.mark t w).wsPhase = m.wsPhase := rfl
@[simp] theorem Mach.mark_agenda (t : Nat) (w : Write) : (m.mark t w).agenda = m.agenda := rfl
@[simp] theorem Mach.mark_focus (t : Nat) (w : Write) : (m.mark t w).focus = m.focus := rfl
@[simp] theorem Mach.mark_free (t : Nat) (w : Write) : (m.mark t w).free = m.free := rfl
@[simp] theorem Mach.mark_fresh (t : Nat) (w : Write) : (m.mark t w).fresh = m.fresh := rfl
@[simp] theorem Mach.mark_round (t : Nat) (w : Write) : (m.mark t w).round = m.round := rfl
@[simp] theorem Mach.mark_mem (t : Nat) (w : Write) : (m.mark t w).mem = m.mem := rfl
@[simp] theorem Mach.mark_tags (t : Nat) (w : Write) : (m.mark t w).tags = m.tags := rfl
@[simp] theorem Mach.mark_scr (t : Nat) (w : Write) : (m.mark t w).scr = m.scr := rfl
@[simp] theorem Mach.mark_gran (t : Nat) (w : Write) : (m.mark t w).gran = m.gran := rfl
@[simp] theorem Mach.mark_regs (t : Nat) (w : Write) : (m.mark t w).regs = m.regs := rfl
@[simp] theorem Mach.mark_lats (t : Nat) (w : Write) : (m.mark t w).lats = m.lats := rfl
@[simp] theorem Mach.mark_acc (t : Nat) (w : Write) : (m.mark t w).acc = m.acc := rfl
@[simp] theorem Mach.mark_scale (t : Nat) (w : Write) : (m.mark t w).scale = m.scale := rfl
@[simp] theorem Mach.mark_gens (t : Nat) (w : Write) : (m.mark t w).gens = m.gens := rfl
@[simp] theorem Mach.mark_hgens (t : Nat) (w : Write) : (m.mark t w).hgens = m.hgens := rfl
@[simp] theorem Mach.mark_poison (t : Nat) (w : Write) : (m.mark t w).poison = m.poison := rfl
@[simp] theorem Mach.mark_regErr (t : Nat) (w : Write) : (m.mark t w).regErr = m.regErr := rfl
@[simp] theorem Mach.mark_latErr (t : Nat) (w : Write) : (m.mark t w).latErr = m.latErr := rfl
@[simp] theorem Mach.mark_accErr (t : Nat) (w : Write) : (m.mark t w).accErr = m.accErr := rfl
@[simp] theorem Mach.mark_scaleErr (t : Nat) (w : Write) : (m.mark t w).scaleErr = m.scaleErr := rfl
@[simp] theorem Mach.mark_bufs (t : Nat) (w : Write) : (m.mark t w).bufs = m.bufs := rfl
@[simp] theorem Mach.mark_copies (t : Nat) (w : Write) : (m.mark t w).copies = m.copies := rfl
@[simp] theorem Mach.mark_blocks (t : Nat) (w : Write) : (m.mark t w).blocks = m.blocks := rfl
@[simp] theorem Mach.mark_marks (t : Nat) (w : Write) : (m.mark t w).marks = ⟨t, w.sp, w.addr, w.bytes.length⟩ :: m.marks := rfl
@[simp] theorem Mach.mark_hist (t : Nat) (w : Write) : (m.mark t w).hist = m.hist := rfl
@[simp] theorem Mach.mark_away (t : Nat) (w : Write) : (m.mark t w).away = m.away := rfl
@[simp] theorem Mach.mark_tlb (t : Nat) (w : Write) : (m.mark t w).tlb = m.tlb := rfl
@[simp] theorem Mach.mark_missq (t : Nat) (w : Write) : (m.mark t w).missq = m.missq := rfl
@[simp] theorem Mach.mark_icache (t : Nat) (w : Write) : (m.mark t w).icache = m.icache := rfl
@[simp] theorem Mach.mark_pcache (t : Nat) (w : Write) : (m.mark t w).pcache = m.pcache := rfl
@[simp] theorem Mach.mark_ways (t : Nat) (w : Write) : (m.mark t w).ways = m.ways := rfl
@[simp] theorem Mach.mark_delayed (t : Nat) (w : Write) : (m.mark t w).delayed = m.delayed := rfl
@[simp] theorem Mach.mark_launches (t : Nat) (w : Write) : (m.mark t w).launches = m.launches := rfl
@[simp] theorem Mach.mark_clusters (t : Nat) (w : Write) : (m.mark t w).clusters = m.clusters := rfl
@[simp] theorem Mach.mark_teams (t : Nat) (w : Write) : (m.mark t w).teams = m.teams := rfl
@[simp] theorem Mach.mark_groups (t : Nat) (w : Write) : (m.mark t w).groups = m.groups := rfl
@[simp] theorem Mach.mark_fibres (t : Nat) (w : Write) : (m.mark t w).fibres = m.fibres := rfl
@[simp] theorem Mach.mark_outst (t : Nat) (w : Write) : (m.mark t w).outst = m.outst := rfl
@[simp] theorem Mach.mark_ports (t : Nat) (w : Write) : (m.mark t w).ports = m.ports := rfl
@[simp] theorem Mach.mark_pairs (t : Nat) (w : Write) : (m.mark t w).pairs = m.pairs := rfl
@[simp] theorem Mach.mark_lastq (t : Nat) (w : Write) : (m.mark t w).lastq = m.lastq := rfl
@[simp] theorem Mach.mark_ops (t : Nat) (w : Write) : (m.mark t w).ops = m.ops := rfl
@[simp] theorem Mach.mark_rings (t : Nat) (w : Write) : (m.mark t w).rings = m.rings := rfl
@[simp] theorem Mach.mark_colls (t : Nat) (w : Write) : (m.mark t w).colls = m.colls := rfl
@[simp] theorem Mach.mark_net (t : Nat) (w : Write) : (m.mark t w).net = m.net := rfl
@[simp] theorem Mach.mark_fabPend (t : Nat) (w : Write) : (m.mark t w).fabPend = m.fabPend := rfl
@[simp] theorem Mach.mark_vows (t : Nat) (w : Write) : (m.mark t w).vows = m.vows := rfl
@[simp] theorem Mach.mark_hreqs (t : Nat) (w : Write) : (m.mark t w).hreqs = m.hreqs := rfl
@[simp] theorem Mach.mark_tokens (t : Nat) (w : Write) : (m.mark t w).tokens = m.tokens := rfl
@[simp] theorem Mach.mark_prefixed (t : Nat) (w : Write) : (m.mark t w).prefixed = m.prefixed := rfl
@[simp] theorem Mach.mark_late (t : Nat) (w : Write) : (m.mark t w).late = m.late := rfl
@[simp] theorem Mach.mark_inb (t : Nat) (w : Write) : (m.mark t w).inb = m.inb := rfl
@[simp] theorem Mach.mark_serves (t : Nat) (w : Write) : (m.mark t w).serves = m.serves := rfl
@[simp] theorem Mach.mark_parked (t : Nat) (w : Write) : (m.mark t w).parked = m.parked := rfl
@[simp] theorem Mach.mark_hents (t : Nat) (w : Write) : (m.mark t w).hents = m.hents := rfl
@[simp] theorem Mach.mark_invq (t : Nat) (w : Write) : (m.mark t w).invq = m.invq := rfl
@[simp] theorem Mach.mark_regions (t : Nat) (w : Write) : (m.mark t w).regions = m.regions := rfl
@[simp] theorem Mach.mark_driftSent (t : Nat) (w : Write) : (m.mark t w).driftSent = m.driftSent := rfl
@[simp] theorem Mach.mark_snaps (t : Nat) (w : Write) : (m.mark t w).snaps = m.snaps := rfl
@[simp] theorem Mach.mark_cycSnap (t : Nat) (w : Write) : (m.mark t w).cycSnap = m.cycSnap := rfl
@[simp] theorem Mach.mark_queues (t : Nat) (w : Write) : (m.mark t w).queues = m.queues := rfl
@[simp] theorem Mach.mark_dev (t : Nat) (w : Write) : (m.mark t w).dev = m.dev := rfl

/-! ### `Mach.armsMet` -/

@[simp] theorem Mach.armsMet_cyc (sp : Space) (addr n : Nat) : (m.armsMet sp addr n).cyc = m.cyc := rfl
@[simp] theorem Mach.armsMet_dieOff (sp : Space) (addr n : Nat) : (m.armsMet sp addr n).dieOff = m.dieOff := rfl
@[simp] theorem Mach.armsMet_wsPhase (sp : Space) (addr n : Nat) : (m.armsMet sp addr n).wsPhase = m.wsPhase := rfl
@[simp] theorem Mach.armsMet_agenda (sp : Space) (addr n : Nat) : (m.armsMet sp addr n).agenda = m.agenda := rfl
@[simp] theorem Mach.armsMet_focus (sp : Space) (addr n : Nat) : (m.armsMet sp addr n).focus = m.focus := rfl
@[simp] theorem Mach.armsMet_free (sp : Space) (addr n : Nat) : (m.armsMet sp addr n).free = m.free := rfl
@[simp] theorem Mach.armsMet_fresh (sp : Space) (addr n : Nat) : (m.armsMet sp addr n).fresh = m.fresh := rfl
@[simp] theorem Mach.armsMet_round (sp : Space) (addr n : Nat) : (m.armsMet sp addr n).round = m.round := rfl
@[simp] theorem Mach.armsMet_mem (sp : Space) (addr n : Nat) : (m.armsMet sp addr n).mem = m.mem := rfl
@[simp] theorem Mach.armsMet_tags (sp : Space) (addr n : Nat) : (m.armsMet sp addr n).tags = m.tags := rfl
@[simp] theorem Mach.armsMet_scr (sp : Space) (addr n : Nat) : (m.armsMet sp addr n).scr = m.scr := rfl
@[simp] theorem Mach.armsMet_gran (sp : Space) (addr n : Nat) : (m.armsMet sp addr n).gran = m.gran := rfl
@[simp] theorem Mach.armsMet_regs (sp : Space) (addr n : Nat) : (m.armsMet sp addr n).regs = m.regs := rfl
@[simp] theorem Mach.armsMet_lats (sp : Space) (addr n : Nat) : (m.armsMet sp addr n).lats = m.lats := rfl
@[simp] theorem Mach.armsMet_acc (sp : Space) (addr n : Nat) : (m.armsMet sp addr n).acc = m.acc := rfl
@[simp] theorem Mach.armsMet_scale (sp : Space) (addr n : Nat) : (m.armsMet sp addr n).scale = m.scale := rfl
@[simp] theorem Mach.armsMet_gens (sp : Space) (addr n : Nat) : (m.armsMet sp addr n).gens = m.gens := rfl
@[simp] theorem Mach.armsMet_hgens (sp : Space) (addr n : Nat) : (m.armsMet sp addr n).hgens = m.hgens := rfl
@[simp] theorem Mach.armsMet_poison (sp : Space) (addr n : Nat) : (m.armsMet sp addr n).poison = m.poison := rfl
@[simp] theorem Mach.armsMet_regErr (sp : Space) (addr n : Nat) : (m.armsMet sp addr n).regErr = m.regErr := rfl
@[simp] theorem Mach.armsMet_latErr (sp : Space) (addr n : Nat) : (m.armsMet sp addr n).latErr = m.latErr := rfl
@[simp] theorem Mach.armsMet_accErr (sp : Space) (addr n : Nat) : (m.armsMet sp addr n).accErr = m.accErr := rfl
@[simp] theorem Mach.armsMet_scaleErr (sp : Space) (addr n : Nat) : (m.armsMet sp addr n).scaleErr = m.scaleErr := rfl
@[simp] theorem Mach.armsMet_bufs (sp : Space) (addr n : Nat) : (m.armsMet sp addr n).bufs = m.bufs := rfl
@[simp] theorem Mach.armsMet_copies (sp : Space) (addr n : Nat) : (m.armsMet sp addr n).copies = m.copies := rfl
@[simp] theorem Mach.armsMet_blocks (sp : Space) (addr n : Nat) : (m.armsMet sp addr n).blocks = m.blocks := rfl
@[simp] theorem Mach.armsMet_marks (sp : Space) (addr n : Nat) : (m.armsMet sp addr n).marks = m.marks := rfl
@[simp] theorem Mach.armsMet_hist (sp : Space) (addr n : Nat) : (m.armsMet sp addr n).hist = m.hist := rfl
@[simp] theorem Mach.armsMet_away (sp : Space) (addr n : Nat) : (m.armsMet sp addr n).away = m.away := rfl
@[simp] theorem Mach.armsMet_tlb (sp : Space) (addr n : Nat) : (m.armsMet sp addr n).tlb = m.tlb := rfl
@[simp] theorem Mach.armsMet_missq (sp : Space) (addr n : Nat) : (m.armsMet sp addr n).missq = m.missq := rfl
@[simp] theorem Mach.armsMet_icache (sp : Space) (addr n : Nat) : (m.armsMet sp addr n).icache = m.icache := rfl
@[simp] theorem Mach.armsMet_pcache (sp : Space) (addr n : Nat) : (m.armsMet sp addr n).pcache = m.pcache := rfl
@[simp] theorem Mach.armsMet_ways (sp : Space) (addr n : Nat) : (m.armsMet sp addr n).ways = m.ways := rfl
@[simp] theorem Mach.armsMet_delayed (sp : Space) (addr n : Nat) : (m.armsMet sp addr n).delayed = m.delayed := rfl
@[simp] theorem Mach.armsMet_launches (sp : Space) (addr n : Nat) : (m.armsMet sp addr n).launches = m.launches := rfl
@[simp] theorem Mach.armsMet_clusters (sp : Space) (addr n : Nat) : (m.armsMet sp addr n).clusters = m.clusters := rfl
@[simp] theorem Mach.armsMet_teams (sp : Space) (addr n : Nat) : (m.armsMet sp addr n).teams = m.teams := rfl
@[simp] theorem Mach.armsMet_groups (sp : Space) (addr n : Nat) : (m.armsMet sp addr n).groups = m.groups := rfl
@[simp] theorem Mach.armsMet_fibres (sp : Space) (addr n : Nat) : (m.armsMet sp addr n).fibres = m.fibres := rfl
@[simp] theorem Mach.armsMet_outst (sp : Space) (addr n : Nat) : (m.armsMet sp addr n).outst = m.outst := rfl
@[simp] theorem Mach.armsMet_ports (sp : Space) (addr n : Nat) : (m.armsMet sp addr n).ports = m.ports := rfl
@[simp] theorem Mach.armsMet_pairs (sp : Space) (addr n : Nat) : (m.armsMet sp addr n).pairs = m.pairs := rfl
@[simp] theorem Mach.armsMet_lastq (sp : Space) (addr n : Nat) : (m.armsMet sp addr n).lastq = m.lastq := rfl
@[simp] theorem Mach.armsMet_rings (sp : Space) (addr n : Nat) : (m.armsMet sp addr n).rings = m.rings := rfl
@[simp] theorem Mach.armsMet_colls (sp : Space) (addr n : Nat) : (m.armsMet sp addr n).colls = m.colls := rfl
@[simp] theorem Mach.armsMet_net (sp : Space) (addr n : Nat) : (m.armsMet sp addr n).net = m.net := rfl
@[simp] theorem Mach.armsMet_fabPend (sp : Space) (addr n : Nat) : (m.armsMet sp addr n).fabPend = m.fabPend := rfl
@[simp] theorem Mach.armsMet_vows (sp : Space) (addr n : Nat) : (m.armsMet sp addr n).vows = m.vows := rfl
@[simp] theorem Mach.armsMet_hreqs (sp : Space) (addr n : Nat) : (m.armsMet sp addr n).hreqs = m.hreqs := rfl
@[simp] theorem Mach.armsMet_tokens (sp : Space) (addr n : Nat) : (m.armsMet sp addr n).tokens = m.tokens := rfl
@[simp] theorem Mach.armsMet_prefixed (sp : Space) (addr n : Nat) : (m.armsMet sp addr n).prefixed = m.prefixed := rfl
@[simp] theorem Mach.armsMet_late (sp : Space) (addr n : Nat) : (m.armsMet sp addr n).late = m.late := rfl
@[simp] theorem Mach.armsMet_inb (sp : Space) (addr n : Nat) : (m.armsMet sp addr n).inb = m.inb := rfl
@[simp] theorem Mach.armsMet_serves (sp : Space) (addr n : Nat) : (m.armsMet sp addr n).serves = m.serves := rfl
@[simp] theorem Mach.armsMet_parked (sp : Space) (addr n : Nat) : (m.armsMet sp addr n).parked = m.parked := rfl
@[simp] theorem Mach.armsMet_hents (sp : Space) (addr n : Nat) : (m.armsMet sp addr n).hents = m.hents := rfl
@[simp] theorem Mach.armsMet_invq (sp : Space) (addr n : Nat) : (m.armsMet sp addr n).invq = m.invq := rfl
@[simp] theorem Mach.armsMet_regions (sp : Space) (addr n : Nat) : (m.armsMet sp addr n).regions = m.regions := rfl
@[simp] theorem Mach.armsMet_driftSent (sp : Space) (addr n : Nat) : (m.armsMet sp addr n).driftSent = m.driftSent := rfl
@[simp] theorem Mach.armsMet_snaps (sp : Space) (addr n : Nat) : (m.armsMet sp addr n).snaps = m.snaps := rfl
@[simp] theorem Mach.armsMet_cycSnap (sp : Space) (addr n : Nat) : (m.armsMet sp addr n).cycSnap = m.cycSnap := rfl
@[simp] theorem Mach.armsMet_queues (sp : Space) (addr n : Nat) : (m.armsMet sp addr n).queues = m.queues := rfl
@[simp] theorem Mach.armsMet_dev (sp : Space) (addr n : Nat) : (m.armsMet sp addr n).dev = m.dev := rfl

/-! ### `Mach.noteAnswer` -/

@[simp] theorem Mach.noteAnswer_cyc (xid num : Nat) (res : FabRes) : (m.noteAnswer xid num res).cyc = m.cyc := rfl
@[simp] theorem Mach.noteAnswer_dieOff (xid num : Nat) (res : FabRes) : (m.noteAnswer xid num res).dieOff = m.dieOff := rfl
@[simp] theorem Mach.noteAnswer_wsPhase (xid num : Nat) (res : FabRes) : (m.noteAnswer xid num res).wsPhase = m.wsPhase := rfl
@[simp] theorem Mach.noteAnswer_agenda (xid num : Nat) (res : FabRes) : (m.noteAnswer xid num res).agenda = m.agenda := rfl
@[simp] theorem Mach.noteAnswer_focus (xid num : Nat) (res : FabRes) : (m.noteAnswer xid num res).focus = m.focus := rfl
@[simp] theorem Mach.noteAnswer_free (xid num : Nat) (res : FabRes) : (m.noteAnswer xid num res).free = m.free := rfl
@[simp] theorem Mach.noteAnswer_fresh (xid num : Nat) (res : FabRes) : (m.noteAnswer xid num res).fresh = m.fresh := rfl
@[simp] theorem Mach.noteAnswer_round (xid num : Nat) (res : FabRes) : (m.noteAnswer xid num res).round = m.round := rfl
@[simp] theorem Mach.noteAnswer_mem (xid num : Nat) (res : FabRes) : (m.noteAnswer xid num res).mem = m.mem := rfl
@[simp] theorem Mach.noteAnswer_tags (xid num : Nat) (res : FabRes) : (m.noteAnswer xid num res).tags = m.tags := rfl
@[simp] theorem Mach.noteAnswer_scr (xid num : Nat) (res : FabRes) : (m.noteAnswer xid num res).scr = m.scr := rfl
@[simp] theorem Mach.noteAnswer_gran (xid num : Nat) (res : FabRes) : (m.noteAnswer xid num res).gran = m.gran := rfl
@[simp] theorem Mach.noteAnswer_regs (xid num : Nat) (res : FabRes) : (m.noteAnswer xid num res).regs = m.regs := rfl
@[simp] theorem Mach.noteAnswer_lats (xid num : Nat) (res : FabRes) : (m.noteAnswer xid num res).lats = m.lats := rfl
@[simp] theorem Mach.noteAnswer_acc (xid num : Nat) (res : FabRes) : (m.noteAnswer xid num res).acc = m.acc := rfl
@[simp] theorem Mach.noteAnswer_scale (xid num : Nat) (res : FabRes) : (m.noteAnswer xid num res).scale = m.scale := rfl
@[simp] theorem Mach.noteAnswer_gens (xid num : Nat) (res : FabRes) : (m.noteAnswer xid num res).gens = m.gens := rfl
@[simp] theorem Mach.noteAnswer_hgens (xid num : Nat) (res : FabRes) : (m.noteAnswer xid num res).hgens = m.hgens := rfl
@[simp] theorem Mach.noteAnswer_poison (xid num : Nat) (res : FabRes) : (m.noteAnswer xid num res).poison = m.poison := rfl
@[simp] theorem Mach.noteAnswer_regErr (xid num : Nat) (res : FabRes) : (m.noteAnswer xid num res).regErr = m.regErr := rfl
@[simp] theorem Mach.noteAnswer_latErr (xid num : Nat) (res : FabRes) : (m.noteAnswer xid num res).latErr = m.latErr := rfl
@[simp] theorem Mach.noteAnswer_accErr (xid num : Nat) (res : FabRes) : (m.noteAnswer xid num res).accErr = m.accErr := rfl
@[simp] theorem Mach.noteAnswer_scaleErr (xid num : Nat) (res : FabRes) : (m.noteAnswer xid num res).scaleErr = m.scaleErr := rfl
@[simp] theorem Mach.noteAnswer_bufs (xid num : Nat) (res : FabRes) : (m.noteAnswer xid num res).bufs = m.bufs := rfl
@[simp] theorem Mach.noteAnswer_copies (xid num : Nat) (res : FabRes) : (m.noteAnswer xid num res).copies = m.copies := rfl
@[simp] theorem Mach.noteAnswer_blocks (xid num : Nat) (res : FabRes) : (m.noteAnswer xid num res).blocks = m.blocks := rfl
@[simp] theorem Mach.noteAnswer_marks (xid num : Nat) (res : FabRes) : (m.noteAnswer xid num res).marks = m.marks := rfl
@[simp] theorem Mach.noteAnswer_hist (xid num : Nat) (res : FabRes) : (m.noteAnswer xid num res).hist = m.hist := rfl
@[simp] theorem Mach.noteAnswer_away (xid num : Nat) (res : FabRes) : (m.noteAnswer xid num res).away = m.away := rfl
@[simp] theorem Mach.noteAnswer_tlb (xid num : Nat) (res : FabRes) : (m.noteAnswer xid num res).tlb = m.tlb := rfl
@[simp] theorem Mach.noteAnswer_missq (xid num : Nat) (res : FabRes) : (m.noteAnswer xid num res).missq = m.missq := rfl
@[simp] theorem Mach.noteAnswer_icache (xid num : Nat) (res : FabRes) : (m.noteAnswer xid num res).icache = m.icache := rfl
@[simp] theorem Mach.noteAnswer_pcache (xid num : Nat) (res : FabRes) : (m.noteAnswer xid num res).pcache = m.pcache := rfl
@[simp] theorem Mach.noteAnswer_ways (xid num : Nat) (res : FabRes) : (m.noteAnswer xid num res).ways = m.ways := rfl
@[simp] theorem Mach.noteAnswer_delayed (xid num : Nat) (res : FabRes) : (m.noteAnswer xid num res).delayed = m.delayed := rfl
@[simp] theorem Mach.noteAnswer_launches (xid num : Nat) (res : FabRes) : (m.noteAnswer xid num res).launches = m.launches := rfl
@[simp] theorem Mach.noteAnswer_clusters (xid num : Nat) (res : FabRes) : (m.noteAnswer xid num res).clusters = m.clusters := rfl
@[simp] theorem Mach.noteAnswer_teams (xid num : Nat) (res : FabRes) : (m.noteAnswer xid num res).teams = m.teams := rfl
@[simp] theorem Mach.noteAnswer_groups (xid num : Nat) (res : FabRes) : (m.noteAnswer xid num res).groups = m.groups := rfl
@[simp] theorem Mach.noteAnswer_fibres (xid num : Nat) (res : FabRes) : (m.noteAnswer xid num res).fibres = m.fibres := rfl
@[simp] theorem Mach.noteAnswer_outst (xid num : Nat) (res : FabRes) : (m.noteAnswer xid num res).outst = m.outst := rfl
@[simp] theorem Mach.noteAnswer_ports (xid num : Nat) (res : FabRes) : (m.noteAnswer xid num res).ports = m.ports := rfl
@[simp] theorem Mach.noteAnswer_pairs (xid num : Nat) (res : FabRes) : (m.noteAnswer xid num res).pairs = m.pairs := rfl
@[simp] theorem Mach.noteAnswer_lastq (xid num : Nat) (res : FabRes) : (m.noteAnswer xid num res).lastq = m.lastq := rfl
@[simp] theorem Mach.noteAnswer_ops (xid num : Nat) (res : FabRes) : (m.noteAnswer xid num res).ops = m.ops := rfl
@[simp] theorem Mach.noteAnswer_rings (xid num : Nat) (res : FabRes) : (m.noteAnswer xid num res).rings = m.rings := rfl
@[simp] theorem Mach.noteAnswer_colls (xid num : Nat) (res : FabRes) : (m.noteAnswer xid num res).colls = m.colls := rfl
@[simp] theorem Mach.noteAnswer_net (xid num : Nat) (res : FabRes) : (m.noteAnswer xid num res).net = m.net := rfl
@[simp] theorem Mach.noteAnswer_vows (xid num : Nat) (res : FabRes) : (m.noteAnswer xid num res).vows = m.vows := rfl
@[simp] theorem Mach.noteAnswer_hreqs (xid num : Nat) (res : FabRes) : (m.noteAnswer xid num res).hreqs = m.hreqs := rfl
@[simp] theorem Mach.noteAnswer_tokens (xid num : Nat) (res : FabRes) : (m.noteAnswer xid num res).tokens = m.tokens := rfl
@[simp] theorem Mach.noteAnswer_prefixed (xid num : Nat) (res : FabRes) : (m.noteAnswer xid num res).prefixed = m.prefixed := rfl
@[simp] theorem Mach.noteAnswer_late (xid num : Nat) (res : FabRes) : (m.noteAnswer xid num res).late = m.late := rfl
@[simp] theorem Mach.noteAnswer_inb (xid num : Nat) (res : FabRes) : (m.noteAnswer xid num res).inb = m.inb := rfl
@[simp] theorem Mach.noteAnswer_serves (xid num : Nat) (res : FabRes) : (m.noteAnswer xid num res).serves = m.serves := rfl
@[simp] theorem Mach.noteAnswer_parked (xid num : Nat) (res : FabRes) : (m.noteAnswer xid num res).parked = m.parked := rfl
@[simp] theorem Mach.noteAnswer_hents (xid num : Nat) (res : FabRes) : (m.noteAnswer xid num res).hents = m.hents := rfl
@[simp] theorem Mach.noteAnswer_invq (xid num : Nat) (res : FabRes) : (m.noteAnswer xid num res).invq = m.invq := rfl
@[simp] theorem Mach.noteAnswer_regions (xid num : Nat) (res : FabRes) : (m.noteAnswer xid num res).regions = m.regions := rfl
@[simp] theorem Mach.noteAnswer_driftSent (xid num : Nat) (res : FabRes) : (m.noteAnswer xid num res).driftSent = m.driftSent := rfl
@[simp] theorem Mach.noteAnswer_snaps (xid num : Nat) (res : FabRes) : (m.noteAnswer xid num res).snaps = m.snaps := rfl
@[simp] theorem Mach.noteAnswer_cycSnap (xid num : Nat) (res : FabRes) : (m.noteAnswer xid num res).cycSnap = m.cycSnap := rfl
@[simp] theorem Mach.noteAnswer_queues (xid num : Nat) (res : FabRes) : (m.noteAnswer xid num res).queues = m.queues := rfl
@[simp] theorem Mach.noteAnswer_dev (xid num : Nat) (res : FabRes) : (m.noteAnswer xid num res).dev = m.dev := rfl

/-! ### `Mach.bar` -/

@[simp] theorem Mach.bar_cyc (ps : List Point) : (m.bar ps).cyc = m.cyc := rfl
@[simp] theorem Mach.bar_dieOff (ps : List Point) : (m.bar ps).dieOff = m.dieOff := rfl
@[simp] theorem Mach.bar_wsPhase (ps : List Point) : (m.bar ps).wsPhase = m.wsPhase := rfl
@[simp] theorem Mach.bar_agenda (ps : List Point) : (m.bar ps).agenda = m.agenda := rfl
@[simp] theorem Mach.bar_focus (ps : List Point) : (m.bar ps).focus = m.focus := rfl
@[simp] theorem Mach.bar_free (ps : List Point) : (m.bar ps).free = m.free := rfl
@[simp] theorem Mach.bar_fresh (ps : List Point) : (m.bar ps).fresh = m.fresh := rfl
@[simp] theorem Mach.bar_round (ps : List Point) : (m.bar ps).round = m.round := rfl
@[simp] theorem Mach.bar_mem (ps : List Point) : (m.bar ps).mem = m.mem := rfl
@[simp] theorem Mach.bar_tags (ps : List Point) : (m.bar ps).tags = m.tags := rfl
@[simp] theorem Mach.bar_scr (ps : List Point) : (m.bar ps).scr = m.scr := rfl
@[simp] theorem Mach.bar_gran (ps : List Point) : (m.bar ps).gran = m.gran := rfl
@[simp] theorem Mach.bar_regs (ps : List Point) : (m.bar ps).regs = m.regs := rfl
@[simp] theorem Mach.bar_lats (ps : List Point) : (m.bar ps).lats = m.lats := rfl
@[simp] theorem Mach.bar_acc (ps : List Point) : (m.bar ps).acc = m.acc := rfl
@[simp] theorem Mach.bar_scale (ps : List Point) : (m.bar ps).scale = m.scale := rfl
@[simp] theorem Mach.bar_gens (ps : List Point) : (m.bar ps).gens = m.gens := rfl
@[simp] theorem Mach.bar_hgens (ps : List Point) : (m.bar ps).hgens = m.hgens := rfl
@[simp] theorem Mach.bar_poison (ps : List Point) : (m.bar ps).poison = m.poison := rfl
@[simp] theorem Mach.bar_regErr (ps : List Point) : (m.bar ps).regErr = m.regErr := rfl
@[simp] theorem Mach.bar_latErr (ps : List Point) : (m.bar ps).latErr = m.latErr := rfl
@[simp] theorem Mach.bar_accErr (ps : List Point) : (m.bar ps).accErr = m.accErr := rfl
@[simp] theorem Mach.bar_scaleErr (ps : List Point) : (m.bar ps).scaleErr = m.scaleErr := rfl
@[simp] theorem Mach.bar_bufs (ps : List Point) : (m.bar ps).bufs = m.bufs := rfl
@[simp] theorem Mach.bar_copies (ps : List Point) : (m.bar ps).copies = m.copies := rfl
@[simp] theorem Mach.bar_blocks (ps : List Point) : (m.bar ps).blocks = m.blocks := rfl
@[simp] theorem Mach.bar_marks (ps : List Point) : (m.bar ps).marks = m.marks := rfl
@[simp] theorem Mach.bar_hist (ps : List Point) : (m.bar ps).hist = m.hist := rfl
@[simp] theorem Mach.bar_away (ps : List Point) : (m.bar ps).away = m.away := rfl
@[simp] theorem Mach.bar_tlb (ps : List Point) : (m.bar ps).tlb = m.tlb := rfl
@[simp] theorem Mach.bar_missq (ps : List Point) : (m.bar ps).missq = m.missq := rfl
@[simp] theorem Mach.bar_icache (ps : List Point) : (m.bar ps).icache = m.icache := rfl
@[simp] theorem Mach.bar_pcache (ps : List Point) : (m.bar ps).pcache = m.pcache := rfl
@[simp] theorem Mach.bar_ways (ps : List Point) : (m.bar ps).ways = m.ways := rfl
@[simp] theorem Mach.bar_delayed (ps : List Point) : (m.bar ps).delayed = m.delayed := rfl
@[simp] theorem Mach.bar_launches (ps : List Point) : (m.bar ps).launches = m.launches := rfl
@[simp] theorem Mach.bar_clusters (ps : List Point) : (m.bar ps).clusters = m.clusters := rfl
@[simp] theorem Mach.bar_teams (ps : List Point) : (m.bar ps).teams = m.teams := rfl
@[simp] theorem Mach.bar_groups (ps : List Point) : (m.bar ps).groups = m.groups := rfl
@[simp] theorem Mach.bar_fibres (ps : List Point) : (m.bar ps).fibres = m.fibres := rfl
@[simp] theorem Mach.bar_outst (ps : List Point) : (m.bar ps).outst = m.outst := rfl
@[simp] theorem Mach.bar_ports (ps : List Point) : (m.bar ps).ports = m.ports := rfl
@[simp] theorem Mach.bar_pairs (ps : List Point) : (m.bar ps).pairs = m.pairs := rfl
@[simp] theorem Mach.bar_lastq (ps : List Point) : (m.bar ps).lastq = m.lastq := rfl
@[simp] theorem Mach.bar_ops (ps : List Point) : (m.bar ps).ops = m.ops := rfl
@[simp] theorem Mach.bar_rings (ps : List Point) : (m.bar ps).rings = m.rings := rfl
@[simp] theorem Mach.bar_colls (ps : List Point) : (m.bar ps).colls = m.colls := rfl
@[simp] theorem Mach.bar_net (ps : List Point) : (m.bar ps).net = m.net := rfl
@[simp] theorem Mach.bar_vows (ps : List Point) : (m.bar ps).vows = m.vows := rfl
@[simp] theorem Mach.bar_hreqs (ps : List Point) : (m.bar ps).hreqs = m.hreqs := rfl
@[simp] theorem Mach.bar_tokens (ps : List Point) : (m.bar ps).tokens = m.tokens := rfl
@[simp] theorem Mach.bar_prefixed (ps : List Point) : (m.bar ps).prefixed = m.prefixed := rfl
@[simp] theorem Mach.bar_late (ps : List Point) : (m.bar ps).late = m.late := rfl
@[simp] theorem Mach.bar_inb (ps : List Point) : (m.bar ps).inb = m.inb := rfl
@[simp] theorem Mach.bar_serves (ps : List Point) : (m.bar ps).serves = m.serves := rfl
@[simp] theorem Mach.bar_parked (ps : List Point) : (m.bar ps).parked = m.parked := rfl
@[simp] theorem Mach.bar_hents (ps : List Point) : (m.bar ps).hents = m.hents := rfl
@[simp] theorem Mach.bar_invq (ps : List Point) : (m.bar ps).invq = m.invq := rfl
@[simp] theorem Mach.bar_regions (ps : List Point) : (m.bar ps).regions = m.regions := rfl
@[simp] theorem Mach.bar_driftSent (ps : List Point) : (m.bar ps).driftSent = m.driftSent := rfl
@[simp] theorem Mach.bar_snaps (ps : List Point) : (m.bar ps).snaps = m.snaps := rfl
@[simp] theorem Mach.bar_cycSnap (ps : List Point) : (m.bar ps).cycSnap = m.cycSnap := rfl
@[simp] theorem Mach.bar_queues (ps : List Point) : (m.bar ps).queues = m.queues := rfl
@[simp] theorem Mach.bar_dev (ps : List Point) : (m.bar ps).dev = m.dev := rfl

/-! ### `Mach.setThr` -/

@[simp] theorem Mach.setThr_cyc (die : Nat) (t : Thr) : (m.setThr die t).cyc = m.cyc := rfl
@[simp] theorem Mach.setThr_dieOff (die : Nat) (t : Thr) : (m.setThr die t).dieOff = m.dieOff := rfl
@[simp] theorem Mach.setThr_wsPhase (die : Nat) (t : Thr) : (m.setThr die t).wsPhase = m.wsPhase := rfl
@[simp] theorem Mach.setThr_agenda (die : Nat) (t : Thr) : (m.setThr die t).agenda = m.agenda := rfl
@[simp] theorem Mach.setThr_focus (die : Nat) (t : Thr) : (m.setThr die t).focus = m.focus := rfl
@[simp] theorem Mach.setThr_free (die : Nat) (t : Thr) : (m.setThr die t).free = m.free := rfl
@[simp] theorem Mach.setThr_fresh (die : Nat) (t : Thr) : (m.setThr die t).fresh = m.fresh := rfl
@[simp] theorem Mach.setThr_round (die : Nat) (t : Thr) : (m.setThr die t).round = m.round := rfl
@[simp] theorem Mach.setThr_mem (die : Nat) (t : Thr) : (m.setThr die t).mem = m.mem := rfl
@[simp] theorem Mach.setThr_tags (die : Nat) (t : Thr) : (m.setThr die t).tags = m.tags := rfl
@[simp] theorem Mach.setThr_scr (die : Nat) (t : Thr) : (m.setThr die t).scr = m.scr := rfl
@[simp] theorem Mach.setThr_gran (die : Nat) (t : Thr) : (m.setThr die t).gran = m.gran := rfl
@[simp] theorem Mach.setThr_regs (die : Nat) (t : Thr) : (m.setThr die t).regs = m.regs := rfl
@[simp] theorem Mach.setThr_lats (die : Nat) (t : Thr) : (m.setThr die t).lats = m.lats := rfl
@[simp] theorem Mach.setThr_acc (die : Nat) (t : Thr) : (m.setThr die t).acc = m.acc := rfl
@[simp] theorem Mach.setThr_scale (die : Nat) (t : Thr) : (m.setThr die t).scale = m.scale := rfl
@[simp] theorem Mach.setThr_gens (die : Nat) (t : Thr) : (m.setThr die t).gens = m.gens := rfl
@[simp] theorem Mach.setThr_hgens (die : Nat) (t : Thr) : (m.setThr die t).hgens = m.hgens := rfl
@[simp] theorem Mach.setThr_poison (die : Nat) (t : Thr) : (m.setThr die t).poison = m.poison := rfl
@[simp] theorem Mach.setThr_regErr (die : Nat) (t : Thr) : (m.setThr die t).regErr = m.regErr := rfl
@[simp] theorem Mach.setThr_latErr (die : Nat) (t : Thr) : (m.setThr die t).latErr = m.latErr := rfl
@[simp] theorem Mach.setThr_accErr (die : Nat) (t : Thr) : (m.setThr die t).accErr = m.accErr := rfl
@[simp] theorem Mach.setThr_scaleErr (die : Nat) (t : Thr) : (m.setThr die t).scaleErr = m.scaleErr := rfl
@[simp] theorem Mach.setThr_bufs (die : Nat) (t : Thr) : (m.setThr die t).bufs = m.bufs := rfl
@[simp] theorem Mach.setThr_copies (die : Nat) (t : Thr) : (m.setThr die t).copies = m.copies := rfl
@[simp] theorem Mach.setThr_blocks (die : Nat) (t : Thr) : (m.setThr die t).blocks = m.blocks := rfl
@[simp] theorem Mach.setThr_marks (die : Nat) (t : Thr) : (m.setThr die t).marks = m.marks := rfl
@[simp] theorem Mach.setThr_hist (die : Nat) (t : Thr) : (m.setThr die t).hist = m.hist := rfl
@[simp] theorem Mach.setThr_away (die : Nat) (t : Thr) : (m.setThr die t).away = m.away := rfl
@[simp] theorem Mach.setThr_tlb (die : Nat) (t : Thr) : (m.setThr die t).tlb = m.tlb := rfl
@[simp] theorem Mach.setThr_missq (die : Nat) (t : Thr) : (m.setThr die t).missq = m.missq := rfl
@[simp] theorem Mach.setThr_icache (die : Nat) (t : Thr) : (m.setThr die t).icache = m.icache := rfl
@[simp] theorem Mach.setThr_pcache (die : Nat) (t : Thr) : (m.setThr die t).pcache = m.pcache := rfl
@[simp] theorem Mach.setThr_ways (die : Nat) (t : Thr) : (m.setThr die t).ways = m.ways := rfl
@[simp] theorem Mach.setThr_delayed (die : Nat) (t : Thr) : (m.setThr die t).delayed = m.delayed := rfl
@[simp] theorem Mach.setThr_launches (die : Nat) (t : Thr) : (m.setThr die t).launches = m.launches := rfl
@[simp] theorem Mach.setThr_clusters (die : Nat) (t : Thr) : (m.setThr die t).clusters = m.clusters := rfl
@[simp] theorem Mach.setThr_teams (die : Nat) (t : Thr) : (m.setThr die t).teams = m.teams := rfl
@[simp] theorem Mach.setThr_groups (die : Nat) (t : Thr) : (m.setThr die t).groups = m.groups := rfl
@[simp] theorem Mach.setThr_fibres (die : Nat) (t : Thr) : (m.setThr die t).fibres = m.fibres := rfl
@[simp] theorem Mach.setThr_outst (die : Nat) (t : Thr) : (m.setThr die t).outst = m.outst := rfl
@[simp] theorem Mach.setThr_ports (die : Nat) (t : Thr) : (m.setThr die t).ports = m.ports := rfl
@[simp] theorem Mach.setThr_pairs (die : Nat) (t : Thr) : (m.setThr die t).pairs = m.pairs := rfl
@[simp] theorem Mach.setThr_lastq (die : Nat) (t : Thr) : (m.setThr die t).lastq = m.lastq := rfl
@[simp] theorem Mach.setThr_ops (die : Nat) (t : Thr) : (m.setThr die t).ops = m.ops := rfl
@[simp] theorem Mach.setThr_rings (die : Nat) (t : Thr) : (m.setThr die t).rings = m.rings := rfl
@[simp] theorem Mach.setThr_colls (die : Nat) (t : Thr) : (m.setThr die t).colls = m.colls := rfl
@[simp] theorem Mach.setThr_net (die : Nat) (t : Thr) : (m.setThr die t).net = m.net := rfl
@[simp] theorem Mach.setThr_fabPend (die : Nat) (t : Thr) : (m.setThr die t).fabPend = m.fabPend := rfl
@[simp] theorem Mach.setThr_vows (die : Nat) (t : Thr) : (m.setThr die t).vows = m.vows := rfl
@[simp] theorem Mach.setThr_hreqs (die : Nat) (t : Thr) : (m.setThr die t).hreqs = m.hreqs := rfl
@[simp] theorem Mach.setThr_tokens (die : Nat) (t : Thr) : (m.setThr die t).tokens = m.tokens := rfl
@[simp] theorem Mach.setThr_prefixed (die : Nat) (t : Thr) : (m.setThr die t).prefixed = m.prefixed := rfl
@[simp] theorem Mach.setThr_late (die : Nat) (t : Thr) : (m.setThr die t).late = m.late := rfl
@[simp] theorem Mach.setThr_inb (die : Nat) (t : Thr) : (m.setThr die t).inb = m.inb := rfl
@[simp] theorem Mach.setThr_serves (die : Nat) (t : Thr) : (m.setThr die t).serves = m.serves := rfl
@[simp] theorem Mach.setThr_parked (die : Nat) (t : Thr) : (m.setThr die t).parked = m.parked := rfl
@[simp] theorem Mach.setThr_hents (die : Nat) (t : Thr) : (m.setThr die t).hents = m.hents := rfl
@[simp] theorem Mach.setThr_invq (die : Nat) (t : Thr) : (m.setThr die t).invq = m.invq := rfl
@[simp] theorem Mach.setThr_regions (die : Nat) (t : Thr) : (m.setThr die t).regions = m.regions := rfl
@[simp] theorem Mach.setThr_driftSent (die : Nat) (t : Thr) : (m.setThr die t).driftSent = m.driftSent := rfl
@[simp] theorem Mach.setThr_snaps (die : Nat) (t : Thr) : (m.setThr die t).snaps = m.snaps := rfl
@[simp] theorem Mach.setThr_cycSnap (die : Nat) (t : Thr) : (m.setThr die t).cycSnap = m.cycSnap := rfl
@[simp] theorem Mach.setThr_queues (die : Nat) (t : Thr) : (m.setThr die t).queues = m.queues := rfl

/-! ### `Mach.setSpdm` -/

@[simp] theorem Mach.setSpdm_cyc (ch : Nat) (f : Spdm → Spdm) : (m.setSpdm ch f).cyc = m.cyc := rfl
@[simp] theorem Mach.setSpdm_dieOff (ch : Nat) (f : Spdm → Spdm) : (m.setSpdm ch f).dieOff = m.dieOff := rfl
@[simp] theorem Mach.setSpdm_wsPhase (ch : Nat) (f : Spdm → Spdm) : (m.setSpdm ch f).wsPhase = m.wsPhase := rfl
@[simp] theorem Mach.setSpdm_agenda (ch : Nat) (f : Spdm → Spdm) : (m.setSpdm ch f).agenda = m.agenda := rfl
@[simp] theorem Mach.setSpdm_focus (ch : Nat) (f : Spdm → Spdm) : (m.setSpdm ch f).focus = m.focus := rfl
@[simp] theorem Mach.setSpdm_free (ch : Nat) (f : Spdm → Spdm) : (m.setSpdm ch f).free = m.free := rfl
@[simp] theorem Mach.setSpdm_fresh (ch : Nat) (f : Spdm → Spdm) : (m.setSpdm ch f).fresh = m.fresh := rfl
@[simp] theorem Mach.setSpdm_round (ch : Nat) (f : Spdm → Spdm) : (m.setSpdm ch f).round = m.round := rfl
@[simp] theorem Mach.setSpdm_mem (ch : Nat) (f : Spdm → Spdm) : (m.setSpdm ch f).mem = m.mem := rfl
@[simp] theorem Mach.setSpdm_tags (ch : Nat) (f : Spdm → Spdm) : (m.setSpdm ch f).tags = m.tags := rfl
@[simp] theorem Mach.setSpdm_scr (ch : Nat) (f : Spdm → Spdm) : (m.setSpdm ch f).scr = m.scr := rfl
@[simp] theorem Mach.setSpdm_gran (ch : Nat) (f : Spdm → Spdm) : (m.setSpdm ch f).gran = m.gran := rfl
@[simp] theorem Mach.setSpdm_regs (ch : Nat) (f : Spdm → Spdm) : (m.setSpdm ch f).regs = m.regs := rfl
@[simp] theorem Mach.setSpdm_lats (ch : Nat) (f : Spdm → Spdm) : (m.setSpdm ch f).lats = m.lats := rfl
@[simp] theorem Mach.setSpdm_acc (ch : Nat) (f : Spdm → Spdm) : (m.setSpdm ch f).acc = m.acc := rfl
@[simp] theorem Mach.setSpdm_scale (ch : Nat) (f : Spdm → Spdm) : (m.setSpdm ch f).scale = m.scale := rfl
@[simp] theorem Mach.setSpdm_gens (ch : Nat) (f : Spdm → Spdm) : (m.setSpdm ch f).gens = m.gens := rfl
@[simp] theorem Mach.setSpdm_hgens (ch : Nat) (f : Spdm → Spdm) : (m.setSpdm ch f).hgens = m.hgens := rfl
@[simp] theorem Mach.setSpdm_poison (ch : Nat) (f : Spdm → Spdm) : (m.setSpdm ch f).poison = m.poison := rfl
@[simp] theorem Mach.setSpdm_regErr (ch : Nat) (f : Spdm → Spdm) : (m.setSpdm ch f).regErr = m.regErr := rfl
@[simp] theorem Mach.setSpdm_latErr (ch : Nat) (f : Spdm → Spdm) : (m.setSpdm ch f).latErr = m.latErr := rfl
@[simp] theorem Mach.setSpdm_accErr (ch : Nat) (f : Spdm → Spdm) : (m.setSpdm ch f).accErr = m.accErr := rfl
@[simp] theorem Mach.setSpdm_scaleErr (ch : Nat) (f : Spdm → Spdm) : (m.setSpdm ch f).scaleErr = m.scaleErr := rfl
@[simp] theorem Mach.setSpdm_bufs (ch : Nat) (f : Spdm → Spdm) : (m.setSpdm ch f).bufs = m.bufs := rfl
@[simp] theorem Mach.setSpdm_copies (ch : Nat) (f : Spdm → Spdm) : (m.setSpdm ch f).copies = m.copies := rfl
@[simp] theorem Mach.setSpdm_blocks (ch : Nat) (f : Spdm → Spdm) : (m.setSpdm ch f).blocks = m.blocks := rfl
@[simp] theorem Mach.setSpdm_marks (ch : Nat) (f : Spdm → Spdm) : (m.setSpdm ch f).marks = m.marks := rfl
@[simp] theorem Mach.setSpdm_hist (ch : Nat) (f : Spdm → Spdm) : (m.setSpdm ch f).hist = m.hist := rfl
@[simp] theorem Mach.setSpdm_away (ch : Nat) (f : Spdm → Spdm) : (m.setSpdm ch f).away = m.away := rfl
@[simp] theorem Mach.setSpdm_tlb (ch : Nat) (f : Spdm → Spdm) : (m.setSpdm ch f).tlb = m.tlb := rfl
@[simp] theorem Mach.setSpdm_missq (ch : Nat) (f : Spdm → Spdm) : (m.setSpdm ch f).missq = m.missq := rfl
@[simp] theorem Mach.setSpdm_icache (ch : Nat) (f : Spdm → Spdm) : (m.setSpdm ch f).icache = m.icache := rfl
@[simp] theorem Mach.setSpdm_pcache (ch : Nat) (f : Spdm → Spdm) : (m.setSpdm ch f).pcache = m.pcache := rfl
@[simp] theorem Mach.setSpdm_ways (ch : Nat) (f : Spdm → Spdm) : (m.setSpdm ch f).ways = m.ways := rfl
@[simp] theorem Mach.setSpdm_delayed (ch : Nat) (f : Spdm → Spdm) : (m.setSpdm ch f).delayed = m.delayed := rfl
@[simp] theorem Mach.setSpdm_launches (ch : Nat) (f : Spdm → Spdm) : (m.setSpdm ch f).launches = m.launches := rfl
@[simp] theorem Mach.setSpdm_clusters (ch : Nat) (f : Spdm → Spdm) : (m.setSpdm ch f).clusters = m.clusters := rfl
@[simp] theorem Mach.setSpdm_teams (ch : Nat) (f : Spdm → Spdm) : (m.setSpdm ch f).teams = m.teams := rfl
@[simp] theorem Mach.setSpdm_groups (ch : Nat) (f : Spdm → Spdm) : (m.setSpdm ch f).groups = m.groups := rfl
@[simp] theorem Mach.setSpdm_fibres (ch : Nat) (f : Spdm → Spdm) : (m.setSpdm ch f).fibres = m.fibres := rfl
@[simp] theorem Mach.setSpdm_outst (ch : Nat) (f : Spdm → Spdm) : (m.setSpdm ch f).outst = m.outst := rfl
@[simp] theorem Mach.setSpdm_ports (ch : Nat) (f : Spdm → Spdm) : (m.setSpdm ch f).ports = m.ports := rfl
@[simp] theorem Mach.setSpdm_pairs (ch : Nat) (f : Spdm → Spdm) : (m.setSpdm ch f).pairs = m.pairs := rfl
@[simp] theorem Mach.setSpdm_lastq (ch : Nat) (f : Spdm → Spdm) : (m.setSpdm ch f).lastq = m.lastq := rfl
@[simp] theorem Mach.setSpdm_ops (ch : Nat) (f : Spdm → Spdm) : (m.setSpdm ch f).ops = m.ops := rfl
@[simp] theorem Mach.setSpdm_rings (ch : Nat) (f : Spdm → Spdm) : (m.setSpdm ch f).rings = m.rings := rfl
@[simp] theorem Mach.setSpdm_colls (ch : Nat) (f : Spdm → Spdm) : (m.setSpdm ch f).colls = m.colls := rfl
@[simp] theorem Mach.setSpdm_net (ch : Nat) (f : Spdm → Spdm) : (m.setSpdm ch f).net = m.net := rfl
@[simp] theorem Mach.setSpdm_fabPend (ch : Nat) (f : Spdm → Spdm) : (m.setSpdm ch f).fabPend = m.fabPend := rfl
@[simp] theorem Mach.setSpdm_vows (ch : Nat) (f : Spdm → Spdm) : (m.setSpdm ch f).vows = m.vows := rfl
@[simp] theorem Mach.setSpdm_hreqs (ch : Nat) (f : Spdm → Spdm) : (m.setSpdm ch f).hreqs = m.hreqs := rfl
@[simp] theorem Mach.setSpdm_tokens (ch : Nat) (f : Spdm → Spdm) : (m.setSpdm ch f).tokens = m.tokens := rfl
@[simp] theorem Mach.setSpdm_prefixed (ch : Nat) (f : Spdm → Spdm) : (m.setSpdm ch f).prefixed = m.prefixed := rfl
@[simp] theorem Mach.setSpdm_late (ch : Nat) (f : Spdm → Spdm) : (m.setSpdm ch f).late = m.late := rfl
@[simp] theorem Mach.setSpdm_inb (ch : Nat) (f : Spdm → Spdm) : (m.setSpdm ch f).inb = m.inb := rfl
@[simp] theorem Mach.setSpdm_serves (ch : Nat) (f : Spdm → Spdm) : (m.setSpdm ch f).serves = m.serves := rfl
@[simp] theorem Mach.setSpdm_parked (ch : Nat) (f : Spdm → Spdm) : (m.setSpdm ch f).parked = m.parked := rfl
@[simp] theorem Mach.setSpdm_hents (ch : Nat) (f : Spdm → Spdm) : (m.setSpdm ch f).hents = m.hents := rfl
@[simp] theorem Mach.setSpdm_invq (ch : Nat) (f : Spdm → Spdm) : (m.setSpdm ch f).invq = m.invq := rfl
@[simp] theorem Mach.setSpdm_regions (ch : Nat) (f : Spdm → Spdm) : (m.setSpdm ch f).regions = m.regions := rfl
@[simp] theorem Mach.setSpdm_driftSent (ch : Nat) (f : Spdm → Spdm) : (m.setSpdm ch f).driftSent = m.driftSent := rfl
@[simp] theorem Mach.setSpdm_snaps (ch : Nat) (f : Spdm → Spdm) : (m.setSpdm ch f).snaps = m.snaps := rfl
@[simp] theorem Mach.setSpdm_cycSnap (ch : Nat) (f : Spdm → Spdm) : (m.setSpdm ch f).cycSnap = m.cycSnap := rfl
@[simp] theorem Mach.setSpdm_queues (ch : Nat) (f : Spdm → Spdm) : (m.setSpdm ch f).queues = m.queues := rfl

end Sys2Proof.Machine
end

