-- ==== Sys2Proof/Tests/Lab.lean ====
section
/-!
SUPPORT. Small states the tests speak of, and checks that decide the premises of the statements in them.
-/
set_option Elab.async false
namespace Sys2Proof.Tests
open Sys2Proof Sys2Proof.Machine

/-! ### A state with one fibre that issues -/

/-- The launch record of the lab: every region index, every table pair, four of its own format slots. -/
def labRec : LRec := { probeRec with regmask := 0xFF, pairmask := 0x7F, ngrp := 4, fmts := [1, 2, 3, 4, 8, 0x0D, 0x0E, 1] }

/-- Registers of lanes 0 and 1: v2:3 a package address, v4 and v5 scratchpad addresses, v6:7 an address of device 5, v8 the number 3, v10:11 a code
address, v12:13 a generic address that is not aligned, v14:15 a scratchpad as a generic address, v16 the number 1, v18:19 the number 1,000,
v20:21 the handle of entry 3 of this device, v22:23 a handle of device 7, v24 the number 256. -/
def labRegs : List (Nat × Word) :=
  [(2, 0x10400), (4, 0x400), (5, 0x440), (6, 0x1000), (7, 0xC00A0000), (8, 3), (10, 0x10010), (12, 0x10401), (14, 0x400), (15, 0x40000000), (16, 1), (18, 1000),
    (20, 0x501), (21, 0x60), (22, 1), (23, 0x380000), (24, 256)]

/-- A context record with a trap handler at 0x10000 and its frames from 0x8000. -/
def labCr : CtxRec := ⟨0, 0, 0, 0x10000, 0x8000, 1, 0x100000, 0x100000⟩

/-- One cluster of one team of one group of one fibre of two lanes on core 0, which the port in focus runs; every agent knows the page at 0x10000. -/
def lab : State :=
  let s := State.reset.withFetchWord 32 0xA6000000
  let own (k : TlbOwner) : TlbEnt := ⟨k, 0, 0, 1, probeLeaf⟩
  { cfg := { s.cfg with ctxs := [labCr] }
    m := { s.m with
      mem := [], tags := []
      regs := smSetAll 0 [] (labRegs.flatMap (fun r => [0, 1].map (fun j => (regKey 1 0 r.1 j, r.2))))
      tlb := (own (.core 0)) :: ([EngCtx.copy, .matrix, .exch, .dcmp].map (fun k => own (.eng 1 k))) ++
        ([DieAgent.spindle, .batten, .heddle, .queue].map (fun a => own (.agent 0 a)))
      launches := s.m.launches.map (fun l => { l with rec_ := some labRec })
      fibres := s.m.fibres.map (fun f => { f with pred := 3 }) } }

/-- The fibre of the lab with its records. -/
def labC : Ctx :=
  { f := { firstFibre probeRec 1 0 with run := true, pred := 3 }
    g := { newGroup probeRec 1 0 0 with active := true }
    tm := ⟨1, 1, 1, 0, 0, 0, 1048576, 0, 0, [0, 0, 0, 0], 4, true, List.replicate 16 ⟨1, 0, false, none⟩, [0, 0, 0, 0], [], List.replicate 4 ⟨false, 0, 0, 0, 0⟩⟩
    cl := ⟨1, 1, 0, [⟨0, 0, 0, 0⟩], true, .running, none, List.replicate 4 ⟨[], 0⟩, ⟨[], 0⟩⟩
    la := ⟨1, 0, 0, 0, false, false, false, 0, 0, 0, some labRec, 0, true, 1, 1, none, none⟩
    rc := labRec }

/-- The lab with its machine changed. -/
def labWith (f : Mach → Mach) : State := { lab with m := f lab.m }

/-- The fibre that issues, with its records; where none does, the lab's fibre. -/
def cOf (s : State) : Ctx := s.m.issuer.getD ((ctxOf s.m ⟨1, 0, 0⟩).getD labC)

/-- A block of n bytes with little-endian fields (offset, bytes, value). -/
def blkOf (n : Nat) (fs : List (Nat × Nat × Nat)) : List Byte := fs.foldl (fun b f => putAt b f.1 (leBytes f.2.1 f.2.2)) (List.replicate n 0)

/-- The byte of the package that virtual address 0x10000 + off names. -/
def pkgAt (off : Nat) : Nat := match physOf probePart off with
  | some (_, a) => a
  | none => 0

/-- The lab with bytes in its scratchpad at 0x400 and in the package page at 0x400. -/
def labBytes (scr pkg : List Byte) : State :=
  labWith (fun m => { m with scr := smSetRun 0 [] (scrKey 1 0x400) scr, mem := smSetRun 0 [] (pkgAt 0x400) pkg })

/-- An operation of the team that has begun. -/
def labOp (k : EngCtx) (cmd : Cmd) : Op := ⟨1, k, 1, cmd, 0x400, 0, true, 0, 0, 0, [], 0, 0, none, none, false, [], ⟨[], [], none, none, none⟩, none, none, false, none⟩

/-- The lab with operations. -/
def labOps (os : List Op) : State := labWith (fun m => { m with ops := os })

/-- The lab with its fibre changed. -/
def labF (f : Fibre → Fibre) : State := labWith (fun m => m.updFibre ⟨1, 0, 0⟩ f)
/-- The lab with its group changed. -/
def labG (f : Group → Group) : State := labWith (fun m => m.updGroup 1 0 f)
/-- The lab with its team changed. -/
def labT (f : Team → Team) : State := labWith (fun m => m.updTeam 1 f)
/-- The lab with its launch record changed. -/
def labR (f : LRec → LRec) : State := labWith (fun m => m.updLaunch 1 (fun l => { l with rec_ := some (f labRec) }))

/-- A buffered write of one byte at offset 0x100 of the scratchpad, in the group's own buffer. -/
def labBuf : BufEnt := ⟨.group 1 0, ⟨7, .scr 1, 0x100, [1], .plain, none, false, 0, 0, 0⟩, .rests⟩

/-- A record with its seal (R319). -/
def sealed (b : List Byte) : List Byte := putAt b 0x7C (leBytes 4 (crc32c (bytesAt b 0 0x7C)))

/-- The first place's access. -/
def accOf : List (Req × Place) → Acc
  | (_, .here a _) :: _ => a
  | _ => ⟨.pkg, 0, none, 0, false, none⟩

/-- The next state of an outcome, the lab's where there is none. -/
def nextOf : Host.Outcome State Fault Refusal → State
  | .next t => t
  | _ => lab

/-! ### Deciding premises -/

/-- Whether an outcome is a next state. -/
def isNext : Host.Outcome State Fault Refusal → Bool
  | .next _ => true
  | _ => false

theorem next_of {o : Host.Outcome State Fault Refusal} (h : isNext o = true) : o = .next (nextOf o) := by
  cases o
  · rfl
  all_goals simp [isNext] at h


/-- Whether the fibre that issues would issue an instruction. -/
def issuesB (s : State) (i : Instr) : Bool := match s.m.issuer with
  | some c => gate s.m c i == .pass
  | none => false

theorem issues_of {s : State} {i : Instr} (h : issuesB s i = true) : Issues s i (cOf s) := by
  unfold issuesB at h
  split at h
  · next c hc => exact ⟨by simp [cOf, hc], by simpa [cOf, hc] using h⟩
  · simp at h

theorem issues_all {s : State} {is : List Instr} (h : is.all (issuesB s) = true) : ∀ i ∈ is, Issues s i (cOf s) :=
  fun i hi => issues_of (List.all_eq_true.mp h i hi)

theorem gate_of {s : State} {i : Instr} (h : issuesB s i = true) : gate s.m (cOf s) i = .pass := (issues_of h).2

/-- The places of requests that pass every check. -/
def placesAt (s : State) (c : Ctx) (scr : Bool) (cls : Cls) (reads : Bool) (qs : List Req) : List (Req × Place) := passing (owned s c scr cls reads qs).1
def placesOf (s : State) (scr : Bool) (cls : Cls) (reads : Bool) (qs : List Req) : List (Req × Place) := placesAt s (cOf s) scr cls reads qs

/-- The machine they are performed on. -/
def machAt (s : State) (c : Ctx) (scr : Bool) (cls : Cls) (reads : Bool) (qs : List Req) : Mach :=
  let m := (owned s c scr cls reads qs).2
  if cls.writes then m.setDirty s.cfg c ((placesAt s c scr cls reads qs).map Prod.snd) else m
def machOf (s : State) (scr : Bool) (cls : Cls) (reads : Bool) (qs : List Req) : Mach := machAt s (cOf s) scr cls reads qs

/-- Whether every access of an instruction may be performed now. -/
def placedB (s : State) (c : Ctx) (scr : Bool) (cls : Cls) (reads : Bool) (qs : List Req) : Bool :=
  (s.m.misses c (qs.map (reqTarget s.m c.tm scr cls.writes))).isEmpty
    && (failures (checked s c scr cls qs)).isEmpty && (failures (owned s c scr cls reads qs).1).isEmpty
    && ((owned s c scr cls reads qs).2.refreshWait (s.cfg.part? c.la.p) ((placesAt s c scr cls reads qs).map Prod.snd)).isNone
    && !(reads && readsPoison (owned s c scr cls reads qs).2 (s.cfg.part? c.la.p) (placesAt s c scr cls reads qs))

theorem placed_of {s : State} {c : Ctx} {scr : Bool} {cls : Cls} {reads : Bool} {qs : List Req} (h : placedB s c scr cls reads qs = true) :
    Placed s c scr cls reads qs (placesAt s c scr cls reads qs) (machAt s c scr cls reads qs) := by
  simp only [placedB, Bool.and_eq_true, List.isEmpty_iff, Option.isNone_iff_eq_none, Bool.not_eq_true'] at h
  obtain ⟨⟨⟨⟨h1, h2⟩, h3⟩, h4⟩, h5⟩ := h
  exact ⟨h1, h2, passing_all h3, h4, fun hr => by simpa [hr] using h5, rfl⟩

/-- Whether the fibre can take a trap. -/
def readyB (s : State) (cr : CtxRec) : Bool :=
  !(cOf s).g.handler && s.cfg.ctx? (cOf s).la.p (cOf s).la.x == some cr && cr.tvec != 0 && decide (frameOff cr (cOf s).g.g + 1280 ≤ (cOf s).tm.len)

theorem trapReady_of {s : State} {cr : CtxRec} (h : readyB s cr = true) : TrapReady s (cOf s) cr := by
  simp only [readyB, Bool.and_eq_true, Bool.not_eq_true', beq_iff_eq, bne_iff_ne, decide_eq_true_eq] at h
  exact ⟨h.1.1.1, h.1.1.2, h.1.2, h.2⟩

/-- Whether the fibre that issues can take a trap. -/
def canTrapB (s : State) (cr : CtxRec) : Bool := s.m.issuer.isSome && readyB s cr

theorem canTrap_of {s : State} {cr : CtxRec} (h : canTrapB s cr = true) : CanTrap s (cOf s) cr := by
  simp only [canTrapB, Bool.and_eq_true, Option.isSome_iff_exists] at h
  obtain ⟨⟨c, hc⟩, h2⟩ := h
  exact ⟨by simp [cOf, hc], trapReady_of h2⟩

/-- The operation a context works on, with its records. -/
def ocOf (s : State) (k : EngCtx) : OpCtx := ((s.m.curOp 1 k).bind (opCtx s.m)).getD ⟨labOp k (.accz 1), labC.tm, labC.la, labC.rc, labC.cl⟩

/-- Whether a context of team 1 works on an operation. -/
def workingB (s : State) (k : EngCtx) : Bool :=
  let oc := ocOf s k
  s.m.curOp 1 k == some oc.o && opCtx s.m oc.o == some oc && oc.mayWork && oc.o.begun

theorem working_of {s : State} {k : EngCtx} (h : workingB s k = true) : Working s 1 k (ocOf s k) := by
  simp only [workingB, Bool.and_eq_true, beq_iff_eq] at h
  exact ⟨h.1.1.1, h.1.1.2, h.1.2, h.2⟩

theorem calm_of {s : State} {c : Ctx} {k : Nat} {rg : Region} (h : nbit c.rc.regmask k = true) (hr : s.m.regionOf c.la.p c.la.x k = some rg)
    (hn : rg.norm = false) (hs : rg.silent = []) : rg.calm s c k := ⟨h, hr, hn, hs⟩

theorem pair_of {α β : Type} {x : α × β} {a : α} (h : x.1 = a) : x = (a, x.2) := by rw [← h]

/-! Premises decided together, before others. -/

theorem and3 {P1 P2 P3 R : Prop} (h : P1 ∧ P2 ∧ P3) (r : R) : P1 ∧ P2 ∧ P3 ∧ R := by tauto
theorem and4 {P1 P2 P3 P4 R : Prop} (h : P1 ∧ P2 ∧ P3 ∧ P4) (r : R) : P1 ∧ P2 ∧ P3 ∧ P4 ∧ R := by tauto
theorem and5 {P1 P2 P3 P4 P5 R : Prop} (h : P1 ∧ P2 ∧ P3 ∧ P4 ∧ P5) (r : R) : P1 ∧ P2 ∧ P3 ∧ P4 ∧ P5 ∧ R := by tauto
theorem and6 {P1 P2 P3 P4 P5 P6 R : Prop} (h : P1 ∧ P2 ∧ P3 ∧ P4 ∧ P5 ∧ P6) (r : R) : P1 ∧ P2 ∧ P3 ∧ P4 ∧ P5 ∧ P6 ∧ R := by tauto
theorem and7 {P1 P2 P3 P4 P5 P6 P7 R : Prop} (h : P1 ∧ P2 ∧ P3 ∧ P4 ∧ P5 ∧ P6 ∧ P7) (r : R) : P1 ∧ P2 ∧ P3 ∧ P4 ∧ P5 ∧ P6 ∧ P7 ∧ R := by tauto
theorem and8 {P1 P2 P3 P4 P5 P6 P7 P8 R : Prop} (h : P1 ∧ P2 ∧ P3 ∧ P4 ∧ P5 ∧ P6 ∧ P7 ∧ P8) (r : R) : P1 ∧ P2 ∧ P3 ∧ P4 ∧ P5 ∧ P6 ∧ P7 ∧ P8 ∧ R := by tauto

/-- Whether an entry is a queue's next plane operation, with no write to another device on its way. -/
def planeOpB (s : State) (q k : Nat) (e : Entry) : Bool :=
  decide ((s.m.queue q).cur = some e ∧ (e.op = 5 ∧ e.begun = false ∧ e.fin = none) ∧ (∀ b ∈ s.m.bufs, isFab b.w.sp = false) ∧ nbits (e.word 1) 3 0 = k ∧
    (e.word 1 < 2 ^ 10 ∧ e.word 3 < 2 ^ 32 ∧ e.word 4 = 0 ∧ (nbit (e.word 1) 7 = true → k = 0) ∧ (e.word 3 ≠ 0 → k = 2) ∧ (e.word 2 ≠ 0 → k = 0 ∨ k = 2 ∨ k = 5)))
theorem planeOp_of {s : State} {q k : Nat} {e : Entry} (h : planeOpB s q k e = true) : PlaneOp s q k e := by
  obtain ⟨h1, h2, h3, h4, h5⟩ := of_decide_eq_true h
  exact ⟨h1, h2, h3, h4, h5⟩

end Sys2Proof.Tests
end

