-- ==== Sys2Proof/Tests/Lanes.lean ====
section
/-! SUPPORT. States and operands that meet the premises of the statements about lanes, scalars and control. -/
set_option Elab.async false
namespace Sys2Proof.Tests
open Sys2Proof Sys2Proof.Machine

/-- Condition 0 holds in some lanes. -/
def labCond (w : Word) : State := labG (fun g => { g with conds := [w, 0, 0, 0, 0, 0, 0, 0] })
/-- Lanes in join mask 15. -/
def labMask (w : Word) : State := labG (fun g => { g with joins := List.replicate 15 0 ++ [w] })
/-- Another fibre of the group, of lane 2. -/
def labMate : Fibre := { labC.f with ref := ⟨1, 0, 1⟩, pred := 4, run := false }
/-- It waits at the JOIN of mask 15 at the pc of the lab. -/
def labJoiner : Fibre := { labMate with wait := some ⟨.join 15, .join 15, 0⟩ }
/-- Two fibres, and lanes in join mask 15. -/
def labMates (f : Fibre) (w : Word) : State := { labMask w with m := { (labMask w).m with fibres := (labMask w).m.fibres ++ [f] } }
theorem noJoin_of {m : Mach} {T G : Nat} (h : ∀ f ∈ m.fibresOf T G, f.wait = none) : m.noJoin T G := fun f hf w j hw => by simp [h f hf] at hw
/-- In a handler, with a frame of zeros but for its lanes. -/
def labEret : State := labWith (fun m => { (m.updGroup 1 0 (fun g => { g with handler := true })) with scr := [(scrKey 1 0x8008, 3)] })

/-- The premises of IntegerArithmetic. -/
theorem test_premises_IntegerArithmetic :
    (∀ i ∈ [.iadd .usat (.v 119) (.lat 7) (.v 118), .isub .usat (.v 119) (.lat 7) (.v 118), .imul .usat (.v 119) (.lat 7) (.v 118), 
      .imad .usat (.v 119) (.lat 7) (.v 118)], Issues lab i (cOf lab)) :=
  issues_all (by decide +kernel)

/-- The premises of IntegerProductsAndOrder. -/
theorem test_premises_IntegerProductsAndOrder :
    (∀ i ∈ [.imulh .u (.v 119) (.lat 7) (.v 118), .imin .u (.v 119) (.lat 7) (.v 118), .imax .u (.v 119) (.lat 7) (.v 118), 
      .isad .u (.v 119) (.lat 7) (.v 118), .iadd64 (.v 118) 118 118], Issues lab i (cOf lab)) :=
  issues_all (by decide +kernel)

/-- The premises of LogicShiftsAndFields. -/
theorem test_premises_LogicShiftsAndFields :
    (∀ i ∈ [.and (.v 119) (.v 118) (.lat 7), .or (.v 119) (.v 118) (.lat 7), .xor (.v 119) (.v 118) (.lat 7), 
      .andn (.v 119) (.v 118) (.lat 7), .shl (.v 119) (.v 118) (.lat 7), .shr (.v 119) (.v 118) (.lat 7), 
      .sar (.v 119) (.v 118) (.lat 7), .rol (.v 119) (.v 118) (.lat 7), .popc (.v 119) (.v 118), .clz (.v 119) (.v 118), 
      .brev (.v 119) (.v 118), .bfx .u (.v 119) (.lat 7) (.v 118), .bfx .s (.v 119) (.lat 7) (.v 118), 
      .bfi (.v 119) (.v 118) (.lat 7)], Issues lab i (cOf lab)) ∧
    (∃ w, w < 2 ^ 32 ∧ ((8 ≤ w / 2 ^ 24 ∧ w / 2 ^ 24 ≤ 0x12 ∨ w / 2 ^ 24 = 0x14)) ∧ w / 2 ^ 22 % 4 ≠ 0) ∧
    (∃ w, w < 2 ^ 32 ∧ 0x10 ≤ w / 2 ^ 24 ∧ w / 2 ^ 24 ≤ 0x12 ∧ w % 128 ≠ 0) :=
  ⟨issues_all (by decide +kernel),
    ⟨0x12C00000, by decide +kernel⟩,
    ⟨0x1200007F, by decide +kernel⟩⟩

/-- The premises of Comparisons. -/
theorem test_premises_Comparisons :
    (∀ i ∈ [.icmp .eq (.v 7) (.lat 7) (.v 118), .icmp .ne (.v 7) (.lat 7) (.v 118), .icmp .lt (.v 7) (.lat 7) (.v 118), 
      .icmp .le (.v 7) (.lat 7) (.v 118), .icmpu .lt (.v 7) (.lat 7) (.v 118), .icmpu .le (.v 7) (.lat 7) (.v 118)], Issues lab i (cOf lab)) ∧
    (∃ w, w < 2 ^ 32 ∧ w / 2 ^ 24 = 0x16 ∧ 2 ≤ w / 2 ^ 22 % 4) ∧
    (∃ w, ∃ op, ∃ d, ∃ a, ∃ b, w < 2 ^ 32 ∧ decodeTableWord 32 w = some (.icmp op (.v d) a b)) ∧
    (∃ w, ∃ op, ∃ d, ∃ a, ∃ b, w < 2 ^ 32 ∧ decodeTableWord 32 w = some (.icmpu op (.v d) a b)) :=
  ⟨issues_all (by decide +kernel),
    ⟨0x16800000, by decide +kernel⟩,
    ⟨0x15C1FFFF, .le, 7, (.lat 7), (.lat 7), by decide +kernel⟩,
    ⟨0x1641FFFF, .le, 7, (.lat 7), (.lat 7), by decide +kernel⟩⟩

/-- The premises of SelectionAndMoves. -/
theorem test_premises_SelectionAndMoves :
    (∀ i ∈ [.sel 3 (.v 119) (.lat 7) (.v 118), .mov .mov (.v 119) (.lat 7), .mov .fromc (.v 119) (.v 7), .mov .toc (.v 119) (.lat 7)], Issues lab i (cOf lab)) ∧
    (∃ w, w < 2 ^ 32 ∧ w / 2 ^ 24 = 0x1E ∧ ((w / 2 ^ 22 % 4 = 3 ∨ w % 128 ≠ 0))) ∧
    (∃ w, ∃ d, ∃ a, w < 2 ^ 32 ∧ decodeTableWord 32 w = some (.mov .fromc d (.v a))) ∧
    (∃ w, ∃ d, ∃ a, w < 2 ^ 32 ∧ decodeTableWord 32 w = some (.mov .toc (.v d) a)) :=
  ⟨issues_all (by decide +kernel),
    ⟨0x1EFFFFFF, by decide +kernel⟩,
    ⟨0x1E5DC380, (.v 119), 7, by decide +kernel⟩,
    ⟨0x1E81FF80, 7, (.lat 7), by decide +kernel⟩⟩

/-- The premises of ImmediatesAndLiterals. -/
theorem test_premises_ImmediatesAndLiterals :
    (∀ i ∈ [.iaddi (.v 119) (.v 118) (-256), .andi (.v 119) (.v 118) (-256), .ori (.v 119) (.v 118) (-256), 
      .xori (.v 119) (.v 118) (-256), .limm (.v 119) 0xFFFFFFFF, .ulimm (.v 119) 0xFFFFFFFF], Issues lab i (cOf lab)) ∧
    (∃ (s : State), ∃ (c : Ctx), ∃ (op : ShiftOp), ∃ (d : Dst), ∃ (a : Src), ∃ (n : Nat), n < 32 ∧ Issues s (.shifti op d a n) c) ∧
    (∃ w, ∃ d, ∃ a, ∃ k, w < 2 ^ 32 ∧ decodeTableWord 32 w = some (.iaddi d a k)) ∧
    (∃ w, w < 2 ^ 32 ∧ w / 2 ^ 24 = 0x1C ∧ w / 2 ^ 5 % 4 ≠ 0) ∧
    (∃ w, ∃ op, ∃ d, ∃ a, ∃ n, w < 2 ^ 32 ∧ decodeTableWord 32 w = some (.shifti op d a n)) ∧
    (∃ w, w < 2 ^ 32 ∧ w / 2 ^ 24 = 0x1D) :=
  ⟨issues_all (by decide +kernel),
    ⟨lab, (cOf lab), .rol, (.v 119), (.lat 7), 31, by decide +kernel, issues_of (by decide +kernel)⟩,
    ⟨0x1877FFFF, (.v 119), (.lat 7), (-1), by decide +kernel⟩,
    ⟨0x1C77FE60, by decide +kernel⟩,
    ⟨0x1C77FF9F, .rol, (.v 119), (.lat 7), 31, by decide +kernel⟩,
    ⟨0x1DFFFFFF, by decide +kernel⟩⟩

/-- The premises of FloatArithmetic. -/
theorem test_premises_FloatArithmetic :
    (∀ i ∈ [.fadd .bf16x2 (.v 119) (.lat 7) (.v 118), .fsub .bf16x2 (.v 119) (.lat 7) (.v 118), 
      .fmul .bf16x2 (.v 119) (.lat 7) (.v 118), .ffma .bf16x2 (.v 119) (.lat 7) (.v 118), 
      .ffms .bf16x2 (.v 119) (.lat 7) (.v 118), .fnma .bf16x2 (.v 119) (.lat 7) (.v 118), 
      .fmin .bf16x2 (.v 119) (.lat 7) (.v 118), .fmax .bf16x2 (.v 119) (.lat 7) (.v 118)], Issues lab i (cOf lab)) :=
  issues_all (by decide +kernel)

/-- The premises of FloatComparesAndConversions. -/
theorem test_premises_FloatComparesAndConversions :
    (∀ i ∈ [.dot2 .bf16x2 (.v 119) (.lat 7) (.v 118), .fcmp .un (.v 7) (.lat 7) (.v 118), .fsign .abs (.v 119) (.lat 7) (.v 118), 
      .fsign .neg (.v 119) (.lat 7) (.v 118), .fsign .copysign (.v 119) (.lat 7) (.v 118), 
      .fsign .nabs (.v 119) (.lat 7) (.v 118), .cvt .ru (.v 119) (.lat 7) 0x4F, .cvts .ru (.v 119) (.lat 7) 0x4F, 
      .frnd .ru (.v 119) (.lat 7), .fscale (.v 119) (.v 118) (.lat 7), .fxtr .mant (.v 119) (.lat 7), 
      .pack .b16 (.v 119) (.lat 7) (.v 118), .unpk .u16 (.v 119) (.lat 7) 1, .cbq (.v 119) (.v 118) 7, 
      .cbx (.v 119) (.v 118) 7], Issues lab i (cOf lab)) :=
  issues_all (by decide +kernel)

/-- The premises of SpecialFunctions. -/
theorem test_premises_SpecialFunctions :
    (∀ i ∈ [.rcp (.v 119) (.v 118), .rsq (.v 119) (.v 118), .sqrt (.v 119) (.v 118), .ex2 (.v 119) (.v 118), .lg2 (.v 119) (.v 118), 
      .sin (.v 119) (.v 118), .cos (.v 119) (.v 118), .tanh (.v 119) (.v 118)], Issues lab i (cOf lab)) :=
  issues_all (by decide +kernel)

/-- The premises of LaneCross. -/
theorem test_premises_LaneCross :
    (∀ i ∈ [.shfl .xor (.v 119) (.lat 7) (.v 118), .vote .any (.v 7) 7, .vote .all (.v 7) 7, .vote .eq (.v 7) 7, 
      .vote .ballot (.v 7) 7, .sredi .umax (.v 119) (.lat 7), .sredf .add (.v 119) (.lat 7), .sredf .min (.v 119) (.lat 7), 
      .sredf .max (.v 119) (.lat 7), .sscan .i32 true (.v 119) (.v 118), .sscan .f32 true (.v 119) (.v 118), 
      .prmt (.v 119) (.v 118) (.lat 7), .matchS .any (.v 119) (.lat 7), .matchS .all (.v 119) (.lat 7), .firstl (.v 119) 7], Issues lab i (cOf lab)) :=
  issues_all (by decide +kernel)

/-- The premises of TableMeans. -/
theorem test_premises_TableMeans :
    (∃ (s : State), ∃ (c : Ctx), ∃ (pr : Pair), ∃ (md : EntryMod), ∃ (d : Dst), ∃ (a : Src), s.m.tmPair c = some pr ∧ Issues s (.tment md d a) c ∧ c.g.fpstat.getLsbD 8 = false) ∧
    (∃ (s : State), ∃ (c : Ctx), ∃ (pr : Pair), ∃ (md : EntryMod), ∃ (d : Dst), ∃ (a : Src), s.m.tmPair c = some pr ∧ Issues s (.tmacc md d a) c ∧ c.g.fpstat.getLsbD 8 = false) ∧
    (∃ (s : State), ∃ (c : Ctx), ∃ (_pr : Pair), ∃ (d : Dst), ∃ (a : Nat), ∃ (b : Nat), Issues s (.tmmrg d a b) c ∧ c.g.fpstat.getLsbD 8 = false) ∧
    (∃ (s : State), ∃ (c : Ctx), ∃ (_pr : Pair), ∃ (d : Dst), ∃ (a : Nat), Issues s (.tmsred d a) c ∧ c.g.fpstat.getLsbD 8 = false) ∧
    (∃ (s : State), ∃ (c : Ctx), ∃ (pr : Pair), ∃ (d : Dst), ∃ (a : Nat), s.m.tmPair c = some pr ∧ Issues s (.tmexit d a) c ∧ c.g.fpstat.getLsbD 8 = false) :=
  ⟨⟨lab, (cOf lab), none, .zeropass, (.v 116), (.lat 7), by decide +kernel, issues_of (by decide +kernel), by decide +kernel⟩,
    ⟨lab, (cOf lab), none, .clamp, .nw, (.v 119), by decide +kernel, issues_of (by decide +kernel), by decide +kernel⟩,
    ⟨lab, (cOf lab), none, (.v 116), 116, 0, issues_of (by decide +kernel), by decide +kernel⟩,
    ⟨lab, (cOf lab), none, .nw, 116, issues_of (by decide +kernel), by decide +kernel⟩,
    ⟨lab, (cOf lab), none, (.v 119), 116, by decide +kernel, issues_of (by decide +kernel), by decide +kernel⟩⟩

/-- The premises of ScalarWork. -/
theorem test_premises_ScalarWork :
    (∀ i ∈ [.uadd .usat (.v 119) (.lat 7) (.v 118), .usub .usat (.v 119) (.lat 7) (.v 118), .umul .usat (.v 119) (.lat 7) (.v 118), 
      .umad .usat (.v 119) (.lat 7) (.v 118), .umulh .u (.v 119) (.lat 7) (.v 118), .umin .u (.v 119) (.lat 7) (.v 118), 
      .umax .u (.v 119) (.lat 7) (.v 118), .uand (.v 119) (.v 118) (.lat 7), .uor (.v 119) (.v 118) (.lat 7), 
      .uxor (.v 119) (.v 118) (.lat 7), .ushl (.v 119) (.v 118) (.lat 7), .ushr (.v 119) (.v 118) (.lat 7), 
      .usar (.v 119) (.v 118) (.lat 7), .upopc (.v 119) (.v 118), .uclz (.v 119) (.v 118), .ucmp .le (.v 7) (.lat 7) (.v 118), 
      .ucmpu .le (.v 7) (.lat 7) (.v 118), .usel 3 (.v 119) (.lat 7) (.v 118), .uaddi (.v 119) (.v 118) (-256), 
      .uandi (.v 119) (.v 118) (-256), .uori (.v 119) (.v 118) (-256), .ushifti .rol (.v 119) (.lat 7) 31, 
      .umov .mov (.v 119) (.lat 7), .umov .fromc (.v 119) (.v 7), .umov .toc (.v 119) (.lat 7), .uadd64 (.v 118) 118 118], Issues lab i (cOf lab)) :=
  issues_all (by decide +kernel)

/-- The premises of RunEnds. -/
theorem test_premises_RunEnds :
    (∀ i ∈ [.nop, .lpad 511, .yield, .trl false [119, 118, 117], .halt], Issues lab i (cOf lab)) :=
  issues_all (by decide +kernel)

/-- The premises of UniformTransfers. -/
theorem test_premises_UniformTransfers :
    (∀ i ∈ [.ujmp (-8388608), .ucall (-8388608), .udbnz (.v 119) (-256)], Issues lab i (cOf lab)) ∧
    (∃ (s : State), ∃ (c : Ctx), ∃ (k : Nat), ∃ (e : Bool), ∃ (x : Bool), ∃ (o : Int), ((x = true → ∀ j ∈ c.lanes, c.cond k j = c.cond k c.leader)) ∧ Issues s (.ubr k e x o) c) ∧
    (∃ (s : State), ∃ (c : Ctx), ∃ (a : Nat), (s.m.v64 c a c.leader).toNat % 4 = 0 ∧ Issues s (.uret a) c) :=
  ⟨issues_all (by decide +kernel),
    ⟨lab, (cOf lab), 7, false, true, (-262144), by decide +kernel, issues_of (by decide +kernel)⟩,
    ⟨lab, (cOf lab), 10, by decide +kernel, issues_of (by decide +kernel)⟩⟩

/-- The premises of LaneTransfers. -/
theorem test_premises_LaneTransfers :
    (∃ (s : State), ∃ (c : Ctx), ∃ (k : Nat), ∃ (e : Bool), ∃ (o : Int), Issues s (.br k e o) c ∧ maskOf (c.lanes.filter (fun j => c.cond k j != e)) = 0) ∧
    (∃ (s : State), ∃ (c : Ctx), ∃ (k : Nat), ∃ (e : Bool), ∃ (o : Int), Issues s (.br k e o) c ∧ maskOf (c.lanes.filter (fun j => c.cond k j != e)) ≠ 0 ∧ maskOf (c.lanes.filter (fun j => c.cond k j != e)) = c.f.pred) ∧
    (∃ (s : State), ∃ (c : Ctx), ∃ (k : Nat), ∃ (e : Bool), ∃ (o : Int), Issues s (.br k e o) c ∧ maskOf (c.lanes.filter (fun j => c.cond k j != e)) ≠ 0 ∧ maskOf (c.lanes.filter (fun j => c.cond k j != e)) ≠ c.f.pred ∧ s.m.fibre? ⟨c.f.ref.t, c.f.ref.g, s.m.fresh⟩ = none) ∧
    (∃ (s : State), ∃ (c : Ctx), ∃ (x : DWord), c.lanes ≠ [] ∧ x.toNat % 4 = 0 ∧ ∃ (a : Nat), ∃ (k : Nat), ((∀ j ∈ c.lanes, s.m.v64 c a j = x)) ∧ Issues s (.brx a k) c) ∧
    (∃ (s : State), ∃ (c : Ctx), ∃ (x : DWord), c.lanes ≠ [] ∧ x.toNat % 4 = 0 ∧ ∃ (d : Nat), ∃ (a : Nat), ∃ (k : Nat), ((∀ j ∈ c.lanes, s.m.v64 c a j = x)) ∧ Issues s (.callx d a k) c) ∧
    (∃ (s : State), ∃ (c : Ctx), ∃ (x : DWord), c.lanes ≠ [] ∧ x.toNat % 4 = 0 ∧ ∃ (a : Nat), ((∀ j ∈ c.lanes, s.m.v64 c a j = x)) ∧ Issues s (.retx a) c) :=
  ⟨⟨lab, (cOf lab), 7, false, 262143, issues_of (by decide +kernel), by decide +kernel⟩,
    ⟨lab, (cOf lab), 7, true, (-262144), issues_of (by decide +kernel), by decide +kernel⟩,
    ⟨(labCond 1), (cOf (labCond 1)), 0, false, 0, issues_of (by decide +kernel), by decide +kernel⟩,
    ⟨lab, (cOf lab), 0x10010, by decide +kernel, by decide +kernel, 10, 511, by decide +kernel, issues_of (by decide +kernel)⟩,
    ⟨lab, (cOf lab), 0x10010, by decide +kernel, by decide +kernel, 118, 10, 511, by decide +kernel, issues_of (by decide +kernel)⟩,
    ⟨lab, (cOf lab), 0x10010, by decide +kernel, by decide +kernel, 10, by decide +kernel, issues_of (by decide +kernel)⟩⟩

/-- The premises of JoinsAndForks. -/
theorem test_premises_JoinsAndForks :
    (∃ (s : State), ∃ (c : Ctx), let fs := s.m.fibresOf c.f.ref.t c.f.ref.g; ∃ (j : Nat), ((∀ f ∈ fs, f.base = c.f.base ∨ f.pred &&& c.g.joins.getD j 0 = 0)) ∧ c.f.pred &&& c.g.joins.getD j 0 = 0 ∧ Issues s (.join j) c) ∧
    (∃ (s : State), ∃ (c : Ctx), ∃ (j : Nat), s.m.fibresOf c.f.ref.t c.f.ref.g = [c.f] ∧ c.f.pred &&& c.g.joins.getD j 0 ≠ 0 ∧ Issues s (.join j) c) ∧
    (∃ (s : State), ∃ (c : Ctx), let fs := s.m.fibresOf c.f.ref.t c.f.ref.g; ∃ (j : Nat), ((∀ f ∈ fs, f.base = c.f.base ∨ f.pred &&& c.g.joins.getD j 0 = 0)) ∧ c.f.pred &&& c.g.joins.getD j 0 ≠ 0 ∧ (fs.map Fibre.ref).Nodup ∧ ((∃ f ∈ fs, f.ref ≠ c.f.ref ∧ f.pred &&& c.g.joins.getD j 0 ≠ 0 ∧ (f.joining = false ∨ f.pc ≠ c.f.pc))) ∧ Issues s (.join j) c) ∧
    (∃ (s : State), ∃ (c : Ctx), ∃ (j : Nat), OneJoin s c j c.f.pc c.f.base (c.g.joins.getD j 0) ∧ c.f.pred &&& c.g.joins.getD j 0 ≠ 0 ∧ Issues s (.join j) c) ∧
    (∃ (s : State), ∃ (c : Ctx), let fs := s.m.fibresOf c.f.ref.t c.f.ref.g; ∃ (j : Nat), ∃ (cr : CtxRec), CanTrap s c cr ∧ gate s.m c (.join j) = .pass ∧ ((∃ f ∈ fs, f.base ≠ c.f.base ∧ f.pred &&& c.g.joins.getD j 0 ≠ 0))) ∧
    (∃ (s : State), ∃ (c : Ctx), ∃ (k : Nat), ∃ (a : Nat), ∃ (b : Src), c.g.handler = false ∧ ((∀ j ∈ c.lanes, c.cond k j = false)) ∧ Issues s (.fork k a b) c) ∧
    (∃ (s : State), ∃ (c : Ctx), ∃ (k : Nat), ∃ (a : Nat), ∃ (l : Nat), ∃ (ls : List Nat), ∃ (b : Src), c.g.handler = false ∧ c.lanes.filter (c.cond k) = l :: ls ∧ maskOf (l :: ls) ≠ c.f.pred ∧ (s.m.v64 c a l).toNat % 4 = 0 ∧ s.m.fibre? ⟨c.f.ref.t, c.f.ref.g, s.m.fresh⟩ = none ∧ Issues s (.fork k a b) c) ∧
    (∃ (s : State), ∃ (c : Ctx), let fs := s.m.fibresOf c.f.ref.t c.f.ref.g; ∃ (k : Nat), ∃ (a : Nat), ∃ (l : Nat), ∃ (ls : List Nat), ∃ (b : Src), c.g.handler = false ∧ c.lanes.filter (c.cond k) = l :: ls ∧ maskOf (l :: ls) = c.f.pred ∧ (s.m.v64 c a l).toNat % 4 = 0 ∧ s.m.fibre? ⟨c.f.ref.t, c.f.ref.g, s.m.fresh⟩ = none ∧ ((∀ f ∈ fs, f.joining = false)) ∧ ((∀ d ∈ c.f.depths, d = 0)) ∧ Issues s (.fork k a b) c) ∧
    (∃ (s : State), ∃ (c : Ctx), ∃ (k : Nat), ∃ (a : Nat), ∃ (l : Nat), ∃ (ls : List Nat), ∃ (b : Src), ∃ (cr : CtxRec), CanTrap s c cr ∧ gate s.m c (.fork k a b) = .pass ∧ c.lanes.filter (c.cond k) = l :: ls ∧ (s.m.v64 c a l).toNat % 4 ≠ 0) ∧
    (∃ (s : State), ∃ (c : Ctx), let fs := s.m.fibresOf c.f.ref.t c.f.ref.g; ∃ f, f ∈ fs ∧ f.ref ≠ c.f.ref ∧ ((∀ x ∈ fs, x.wait = none)) ∧ c.g.handler = false ∧ Issues s .fend c) ∧
    (∃ (s : State), ∃ (c : Ctx), ∃ (j : Nat), ∃ (pc : DWord), ∃ (base : Nat), s.m.joiners c ≠ [] ∧ OneJoin s c j pc base ((c.g.joins.map (fun w => w &&& ~~~ c.f.pred)).getD j 0) ∧ c.g.handler = false ∧ Issues s .fend c) ∧
    (∃ (s : State), ∃ (c : Ctx), let fs := s.m.fibresOf c.f.ref.t c.f.ref.g; ((∀ f ∈ fs, f.ref = c.f.ref)) ∧ c.g.handler = false ∧ Issues s .fend c) ∧
    (∃ (s : State), ∃ (c : Ctx), ∃ (op : MaskOp), ∃ (j : Nat), ∃ (a : Src), Issues s (.jmset op j a) c ∧ let v : Word := match op with | .ld => s.m.srcL c a | .or => c.g.joins.getD j 0 ||| s.m.srcL c a | .andn => c.g.joins.getD j 0 &&& ~~~ s.m.srcL c a | .fib => c.g.joins.getD j 0 ||| c.f.pred; (s.m.updGroup c.f.ref.t c.f.ref.g (fun g => { g with joins := modAt g.joins j (fun _ => v) })).noJoin c.f.ref.t c.f.ref.g) ∧
    (∃ (s : State), ∃ (c : Ctx), ∃ (op : MaskOp), ∃ (j : Nat), ∃ (a : Src), Issues s (.jmset op j a) c ∧ let v : Word := match op with | .ld => s.m.srcL c a | .or => c.g.joins.getD j 0 ||| s.m.srcL c a | .andn => c.g.joins.getD j 0 &&& ~~~ s.m.srcL c a | .fib => c.g.joins.getD j 0 ||| c.f.pred; ∃ (pc : DWord), ∃ (base : Nat), j < c.g.joins.length ∧ c.f.pred &&& v = 0 ∧ s.m.joiners c ≠ [] ∧ OneJoin s c j pc base v) :=
  ⟨⟨lab, (cOf lab), 15, by decide +kernel, by decide +kernel, issues_of (by decide +kernel)⟩,
    ⟨(labMask 1), (cOf (labMask 1)), 15, by decide +kernel, by decide +kernel, issues_of (by decide +kernel)⟩,
    ⟨(labMates labMate 7), (cOf (labMates labMate 7)), 15, and4 (by decide +kernel) (issues_of (by decide +kernel))⟩,
    ⟨(labMates labJoiner 7), (cOf (labMates labJoiner 7)), 15, ⟨by decide +kernel, by decide +kernel, by decide +kernel⟩, by decide +kernel, issues_of (by decide +kernel)⟩,
    ⟨(labMates { labMate with base := 8 } 7), (cOf (labMates { labMate with base := 8 } 7)), 15, labCr, canTrap_of (by decide +kernel), gate_of (by decide +kernel), by decide +kernel⟩,
    ⟨lab, (cOf lab), 7, 118, (.lat 7), by decide +kernel, by decide +kernel, issues_of (by decide +kernel)⟩,
    ⟨(labCond 1), (cOf (labCond 1)), 0, 10, 0, [], (.v 18), and5 (by decide +kernel) (issues_of (by decide +kernel))⟩,
    ⟨(labCond 3), (cOf (labCond 3)), 0, 10, 0, [1], (.v 18), and7 (by decide +kernel) (issues_of (by decide +kernel))⟩,
    ⟨(labCond 3), (cOf (labCond 3)), 0, 12, 0, [1], (.v 18), labCr, canTrap_of (by decide +kernel), gate_of (by decide +kernel), by decide +kernel⟩,
    ⟨(labMates labMate 0), (cOf (labMates labMate 0)), labMate, and4 (by decide +kernel) (issues_of (by decide +kernel))⟩,
    ⟨(labMates labJoiner 7), (cOf (labMates labJoiner 7)), 15, 0x10000, 0, by decide +kernel, ⟨by decide +kernel, by decide +kernel, by decide +kernel⟩, by decide +kernel, issues_of (by decide +kernel)⟩,
    ⟨lab, (cOf lab), by decide +kernel, by decide +kernel, issues_of (by decide +kernel)⟩,
    ⟨lab, (cOf lab), .fib, 15, (.v 0), issues_of (by decide +kernel), noJoin_of (by decide +kernel)⟩,
    ⟨(labMates labJoiner 7), (cOf (labMates labJoiner 7)), .andn, 15, (.v 8), issues_of (by decide +kernel), 0x10000, 0, and3 (by decide +kernel) ⟨by decide +kernel, by decide +kernel, by decide +kernel⟩⟩⟩

/-- The premises of TrapEntry. -/
theorem test_premises_TrapEntry :
    (∃ (s : State), ∃ (c : Ctx), ∃ (cr : CtxRec), CanTrap s c cr ∧ ∃ (i : Instr), ∃ (k : Nat), encode i ≠ [] ∧ gate s.m c i = .trap k) ∧
    (∃ (s : State), ∃ (c : Ctx), ∃ (cr : CtxRec), CanTrap s c cr ∧ ∃ (_w : Word), c.f.lpad = none) ∧
    (∃ (s : State), ∃ (c : Ctx), ∃ (cr : CtxRec), CanTrap s c cr ∧ ∃ (k : Nat), gate s.m c (.trap k) = .pass) :=
  ⟨⟨lab, (cOf lab), labCr, canTrap_of (by decide +kernel), (.swr 8 (.v 18)), 1, by decide +kernel⟩,
    ⟨lab, (cOf lab), labCr, canTrap_of (by decide +kernel), 0x1D000000, by decide +kernel⟩,
    ⟨lab, (cOf lab), labCr, canTrap_of (by decide +kernel), 255, by decide +kernel⟩⟩

/-- The premises of TrapReturn. -/
theorem test_premises_TrapReturn :
    (∃ (s : State), ∃ (c : Ctx), ∃ (cr : CtxRec), s.cfg.ctx? c.la.p c.la.x = some cr ∧ Issues s .eret c ∧ c.g.feKept = none ∧ let fr := ((s.m.invalidate c.leaf 1).readHome c.leaf (.scr c.f.ref.t) (frameOff cr c.g.g) 1280 none).1; natAt fr 0x008 4 = c.f.pred.toNat ∧ nbits (natAt fr 0x00C 4) 7 0 = c.f.base ∧ nbits (natAt fr 0x00C 4) 19 18 = 0 ∧ natAt fr 0x000 8 % 4 = 0) :=
  ⟨labEret, (cOf labEret), labCr, by decide +kernel, issues_of (by decide +kernel), by decide +kernel⟩

/-- The premises of TrapFrameLayout. -/
theorem test_premises_TrapFrameLayout :
    (∃ (_m : Mach), ∃ (c : Ctx), ∃ (x : Trap), c.f.base < 256 ∧ c.f.pos < 24 ∧ x.cause < 256 ∧ x.sub < 256) :=
  ⟨lab.m, { labC with f := { labC.f with base := 255, pos := 23 } }, ⟨255, 255, 0, 0, false, true⟩, by decide +kernel⟩

/-- The premises of SpecialRegisters. -/
theorem test_premises_SpecialRegisters :
    (∀ i ∈ [.srd (.v 119) 0x00, .srd (.v 119) 0x01, .srd (.v 119) 0x02, .srd (.v 119) 0x04, .srd (.v 119) 0x05, .srd (.v 119) 0x06, 
      .srd (.v 119) 0x07, .srd (.v 119) 0x08, .srd (.v 119) 0x09, .srd (.v 119) 0x0A, .srd (.v 119) 0x0B, .srd (.v 119) 0x0C, 
      .srd (.v 119) 0x0D, .srd (.v 119) 0x10, .srd (.v 119) 0x11, .srd (.v 119) 0x03, .srd (.v 119) 0x0E, .srd (.v 119) 0x0F, 
      .srd (.v 118) 0x12, .swr 0x08 (.v 16), .swr 0x0B (.v 118), .swr 0x0C (.v 118), .swr 0x0D (.v 118)], Issues lab i (cOf lab)) ∧
    (∃ (s : State), ∃ (c : Ctx), ∃ (d : Dst), ∃ (n : Nat), 0x80 ≤ n ∧ Issues s (.srd d n) c) ∧
    (∃ (s : State), ∃ (c : Ctx), ∃ (n : Nat), ∃ (a : Src), 0x98 ≤ n ∧ n < 0xA8 ∧ Issues s (.swr n a) c) ∧
    (∃ (s : State), ∃ (c : Ctx), ∃ (k : Nat), k < 256 ∧ Issues s (.tmshp k) c) ∧
    (∃ (s : State), ∃ (c : Ctx), ∃ (n : Nat), ∃ (a : Src), let v := s.m.srcL c a; c.f.lpad = none ∧ (windowRegs (.swr n a)).any (fun r => decide (c.rc.regs ≤ c.f.base + r)) = false ∧ s.m.readsErr c (instrUse (.swr n a)).rd (instrUse (.swr n a)).lats = false ∧ s.m.hazard c.f (.swr n a) = false ∧ s.m.heldReg c (c.phys (instrUse (.swr n a)).wr) = false ∧ ((n = 8 ∧ (v = 0 ∨ 5 < v.toNat)) ∨ (n = 0xB ∧ v &&& 0xFFFFFEE0 ≠ 0) ∨ (n = 0xC ∧ 256 ≤ v.toNat) ∨ (n = 0xD ∧ 8 ≤ v.toNat))) :=
  ⟨issues_all (by decide +kernel),
    ⟨lab, (cOf lab), (.v 119), 0xB7, by decide +kernel, issues_of (by decide +kernel)⟩,
    ⟨lab, (cOf lab), 0xA7, (.v 119), by decide +kernel, by decide +kernel, issues_of (by decide +kernel)⟩,
    ⟨lab, (cOf lab), 255, by decide +kernel, issues_of (by decide +kernel)⟩,
    ⟨lab, (cOf lab), 8, (.v 0), by decide +kernel⟩⟩

end Sys2Proof.Tests
end

