-- ==== Sys2Proof/Tests/Memory.lean ====
section
/-! SUPPORT. States and operands that meet the premises of the statements about memory, synchronisation and system instructions. -/
set_option Elab.async false
namespace Sys2Proof.Tests
open Sys2Proof Sys2Proof.Machine

/-- A block of MMA with one step of K, format slot 1 (16 bits). -/
def mmaB : List Byte := blkOf 64 [(8, 4, 0x1001)]
/-- The fault a fetch gives. -/
def faultOf : Fetched → Nat × Nat
  | .fault k sub => (k, sub)
  | _ => (0, 0)
/-- The lab whose partition has no walker and whose fibre is at a page that no cache holds. -/
def labUnwalked : State := labF (fun f => { f with pc := 0x20000 })
/-- The lab at the last word of its page, which is a LIMM. -/
def labEdge : State :=
  { cfg := { lab.cfg with parts := [{ probePart with twalk := [1, 1, 1, 1] }] }
    m := { (labF (fun f => { f with pc := 0x1FFFC })).m with mem := smSetRun 0 [] (pkgAt 0xFFFC) [0, 0, 0x77, 0x7F] } }
/-- A write of the group to device 5 is on its way. -/
def labOut : State := labWith (fun m => { m with bufs := [⟨.dev, ⟨7, .fab 5 0, 0x1000, [1], .plain, none, false, 3, 0, 0⟩, .away⟩] })
/-- The lab whose v6:7 is an address of this device through the fabric, of a team that is not there. -/
def labSelf : State := labWith (fun m => { m with regs := smSetAll 0 m.regs ([0, 1].flatMap (fun j => [(regKey 1 0 6 j, 0), (regKey 1 0 7 j, 0xC0000000)])) })
/-- Its group has a copy of the unit. -/
def labKnown : State := labWith (fun m => { m with copies := [⟨.group 1 0, .fab 5 0, 0x100, none, List.replicate 16 (some 1)⟩] })
theorem oneKey_nil {m : Mach} {sp : Space} {x : Nat} {tag : Option KTag} (h : m.bufs = []) : m.oneKey sp x tag := by simp [Mach.oneKey, h]
/-- A fibre of the group that waits at barrier 15. -/
def labWaiter : Fibre := { labC.f with ref := ⟨1, 0, 1⟩, pred := 4, base := 8, run := false, wait := some ⟨.barwait 15 (.v 0), .barrier 15 false, 0⟩ }
/-- The lab with it. -/
def labAtBar : State := labWith (fun m => { m with fibres := m.fibres ++ [labWaiter] })
/-- A copy's block and its two sealed records. -/
def labCopy : State := labBytes (blkOf 64 [(0, 8, 0x10400), (8, 8, 0x10480)]) (sealed (blkOf 128 [(0, 4, 1)]) ++ sealed (blkOf 128 [(0, 4, 1)]))
/-- A collective's block, its sealed collective record and its sealed destination record. -/
def labColl : State := labBytes (blkOf 64 [(0, 8, 0x10400), (8, 8, 0x10500)])
  (sealed (blkOf 128 [(0, 4, 1)]) ++ sealed (blkOf 128 [(0, 4, 1)]) ++ sealed (blkOf 128 [(0, 4, 1)]))
/-- An invocation block of 256 argument bytes. -/
def labInv : State := labBytes (blkOf 272 [(8, 8, 256)]) []
/-- One of 257. -/
def labInvBad : State := labBytes (blkOf 272 [(8, 8, 257)]) []
/-- Entry 3 of this device's table. -/
def labEnt (st : HState) : HEnt := ⟨0, 3, 5, st, 1, 1, false, false, ⟨0, 3, 5⟩, none, none⟩
/-- The lab with it. -/
def labH (st : HState) : State := labWith (fun m => { m with hents := [labEnt st] })
/-- The invocation block beside it. -/
def labInvH : State := { labInv with m := { labInv.m with hents := [labEnt .pending] } }
/-- A partition whose windows lie outside its range, and a state of it. -/
def noTab : Part := { probePart with fwtab := 2 ^ 40 }
def labNoTab (s : State) : State := { s with cfg := { s.cfg with parts := [noTab] } }
/-- A state in which a write of the group to device 5 is on its way. -/
def labAway (s : State) : State := { s with m := { s.m with bufs := labOut.m.bufs } }
/-- An invocation of service 232 that waits to be taken. -/
def labInvQ : InvQ := ⟨⟨⟨0, 3, 5⟩, 0, 0, 1, 0xE8FF, List.replicate 256 1, none, []⟩, some 16383, true, false, 0, none⟩
/-- The lab with it. -/
def labServe : State := labWith (fun m => { m with invq := [labInvQ] })
/-- A region bound under index 7. -/
def labRg : Region :=
  ⟨1, 0, 0, List.replicate 128 0, 0, [], [(0, 7)], [], [], 0, [], 0, [], 0, 0, [], [], false, [], [], false, [], [], [], ⟨0, 0, .start⟩, none⟩
/-- The same with a staged fragment. -/
def labRgStg : Region := { labRg with frags := [⟨0, 2, false, 0, false, 0, 0, 0, 0, 0⟩] }
/-- A descriptor of four weights: the local plane in page 2, the others in page 3. -/
def labDesc : List Byte :=
  blkOf 128 [(0, 8, 0x20000), (8, 8, 0x30000), (16, 8, 0x31000), (24, 8, 0x32000), (32, 8, 0x34000), (0x28, 8, 0x20210200000004), (0x3C, 4, 1),
    (0x40, 4, 0x10000), (0x58, 4, 1)]
/-- The region of it: one fragment, two islands, of which it is the first. -/
def labRgn : Region :=
  ⟨1, 0, 0, labDesc, 0x400, [], [(0, 7)], [⟨0, 0, false, 0, false, 0, 0, 0, 0, 0⟩], [⟨0, 2, 0, List.replicate 2 (List.replicate 32 0)⟩], 0, [], 0, [], 0, 0,
    [], [], false, [], [], false, [], [], [], ⟨0, 0, .start⟩, none⟩
/-- Tables that map pages 2 and 3, the first with PL set. -/
def labMap (s : State) : State :=
  let cf := { s.cfg with parts := [{ probePart with twalk := [1, 1, 1, 1] }], ctxs := [{ labCr with root := 0x20001 }] }
  let put (m : Mach) (a : Nat) (e : DWord) : Mach := m.setEntry cf 0 0 a e
  ⟨cf, put (put (put (put (put s.m 0x20000 0x21003) 0x21000 0x22003) 0x22000 0x40003) 0x40010 0xBD) 0x40018 0x3D⟩
/-- Regions on them. -/
def labRgs (rg : List Region) : State := labMap (labWith (fun m => { m with regions := rg }))
/-- The same with no walker. -/
def labRgsNo (rg : Region) : State := let s := labRgs [rg]; { s with cfg := { s.cfg with parts := [probePart] } }
/-- The same with the first unit of the fragment's header poisoned. -/
def labBad (rg : Region) : State :=
  let s := labRgs [rg]
  { s with m := { s.m with poison := [((accessNow s.cfg s.m (.agent 0 .batten) 0 0 (rg.staging 0) .read).1.toOption.map (fun a => (a.sp, a.addr / 16))).getD (.pkg, 0)] } }
/-- Two partitions that share nothing. -/
def labParts : State := { lab with cfg := { lab.cfg with parts := [probePart, { probePart with p := 1, cores := 2, chans := 2, keys := 2, igran := 0 }] } }

/-- An access of 8 bytes of device 5. -/
def farQs (s : State) : List Req := genReqs s.m (cOf s) 6 0 8
/-- Its places and machine, as a read and as a write. -/
def farPs (s : State) (cls : Cls) (reads : Bool) : List (Req × Place) := placesOf s false cls reads (farQs s)
def farM (s : State) (cls : Cls) (reads : Bool) : Mach := machOf s false cls reads (farQs s)

/-- The premises of Reads for places on another device: a write to them on its way, an answer to ask for, and what the path knows. -/
theorem test_premises_Reads :
    (Issues labOut (.ld .d .plain 118 6 0) (cOf labOut) ∧ Placed labOut (cOf labOut) false .read true (farQs labOut) (farPs labOut .read true) (farM labOut .read true) ∧
      (farM labOut .read true).fabBefore (cOf labOut).leaf 0 false (farPs labOut .read true) ≠ []) ∧
    (Issues lab (.ld .d .plain 118 6 0) (cOf lab) ∧ Placed lab (cOf lab) false .read true (farQs lab) (farPs lab .read true) (farM lab .read true) ∧
      (farM lab .read true).fabBefore (cOf lab).leaf 0 false (farPs lab .read true) = [] ∧
      (farPs lab .read true).any ((farM lab .read true).mustAsk (.plain (cOf lab).leaf) 0) = true ∧ farAsks lab.cfg (farPs lab .read true) (fun _ => true) ≠ [] ∧
      (farM lab .read true).cutOff = false) ∧
    (Issues labKnown (.ld .d .plain 118 6 0) (cOf labKnown) ∧
      Placed labKnown (cOf labKnown) false .read true (farQs labKnown) (farPs labKnown .read true) (farM labKnown .read true) ∧
      (farM labKnown .read true).fabBefore (cOf labKnown).leaf 0 false (farPs labKnown .read true) = [] ∧
      (farPs labKnown .read true).any ((farM labKnown .read true).mustAsk (.plain (cOf labKnown).leaf) 0) = false) :=
  ⟨⟨issues_of (by decide +kernel), placed_of (by decide +kernel), by decide +kernel⟩, ⟨issues_of (by decide +kernel), placed_of (by decide +kernel), by decide +kernel⟩,
    ⟨issues_of (by decide +kernel), placed_of (by decide +kernel), by decide +kernel⟩⟩

/-- The premises of Stores: a store of system scope with a write to another device before it, one that sends its own, and one that sends none. -/
theorem test_premises_Stores :
    (Issues labOut (.st .d .sys (.v 118) 6 0) (cOf labOut) ∧ Placed labOut (cOf labOut) false .write false (farQs labOut) (farPs labOut .write false) (farM labOut .write false) ∧
      (farM labOut .write false).drainWids (cOf labOut) .sys ≠ []) ∧
    (Issues lab (.st .d .sys (.v 118) 6 0) (cOf lab) ∧ Placed lab (cOf lab) false .write false (farQs lab) (farPs lab .write false) (farM lab .write false) ∧
      (farM lab .write false).drainWids (cOf lab) .sys = [] ∧
      (storeLanes lab.cfg (farM lab .write false) (cOf lab) .sys .plain (fun _ => List.replicate 8 1) (farPs lab .write false)).sentBy (farM lab .write false) (cOf lab) .sys ≠ [] ∧
      (storeLanes lab.cfg (farM lab .write false) (cOf lab) .plain .plain (fun _ => List.replicate 8 1) (farPs lab .write false)).sentBy (farM lab .write false) (cOf lab) .plain = []) :=
  ⟨⟨issues_of (by decide +kernel), placed_of (by decide +kernel), by decide +kernel⟩, ⟨issues_of (by decide +kernel), placed_of (by decide +kernel), by decide +kernel⟩⟩

theorem decodes_to_none {w lit : Nat} (h : (match decodeWord w lit with
    | .ok _ => false
    | .error _ => true) = true) : ∀ i, decodeWord w lit ≠ .ok i := by
  intro i hi
  rw [hi] at h
  simp at h

/-- The premises of MemoryLoads. -/
theorem test_premises_MemoryLoads :
    (∃ (s : State), ∃ (c : Ctx), ∃ (sz : Size), ∃ (sc : Scope), ∃ (d : Nat), ∃ (a : Nat), ∃ (off : Int), ∃ (ps : List (Req × Place)), ∃ (m : Mach), Issues s (.ld sz sc d a off) c ∧ Placed s c false .read true (genReqs s.m c a off (sizeBytes sz)) ps m) ∧
    (∃ (s : State), ∃ (c : Ctx), ∃ (sz : Size), ∃ (sc : Scope), ∃ (d : Nat), ∃ (a : Src), ∃ (off : Int), ∃ (ps : List (Req × Place)), ∃ (m : Mach), Issues s (.lds sz sc d a off) c ∧ Placed s c true .read true (scrReqs s.m c a off (sizeBytes sz)) ps m) :=
  ⟨⟨lab, (cOf lab), .q, .sys, 116, 2, 15, (placesOf lab false .read true (genReqs lab.m (cOf lab) 2 15 (sizeBytes .q))), (machOf lab false .read true (genReqs lab.m (cOf lab) 2 15 (sizeBytes .q))), issues_of (by decide +kernel), placed_of (by decide +kernel)⟩,
    ⟨lab, (cOf lab), .b, .core, 119, (.v 4), (-16), (placesOf lab true .read true (scrReqs lab.m (cOf lab) (.v 4) (-16) (sizeBytes .b))), (machOf lab true .read true (scrReqs lab.m (cOf lab) (.v 4) (-16) (sizeBytes .b))), issues_of (by decide +kernel), placed_of (by decide +kernel)⟩⟩

/-- The premises of MemoryStores. -/
theorem test_premises_MemoryStores :
    (∃ (s : State), ∃ (c : Ctx), ∃ (sz : Size), ∃ (sc : Scope), ∃ (d : Src), ∃ (a : Nat), ∃ (off : Int), ∃ (ps : List (Req × Place)), ∃ (m : Mach), Issues s (.st sz sc d a off) c ∧ Placed s c false .write false (genReqs s.m c a off (sizeBytes sz)) ps m) ∧
    (∃ (s : State), ∃ (c : Ctx), ∃ (sz : Size), ∃ (sc : Scope), ∃ (d : Src), ∃ (a : Src), ∃ (off : Int), ∃ (ps : List (Req × Place)), ∃ (m : Mach), Issues s (.sts sz sc d a off) c ∧ Placed s c true .write false (scrReqs s.m c a off (sizeBytes sz)) ps m) ∧
    (∃ (s : State), ∃ (c : Ctx), ∃ (sz : Size), ∃ (sc : Scope), ∃ (d : Src), ∃ (a : Src), ∃ (off : Int), ∃ (ps : List (Req × Place)), ∃ (m : Mach), Issues s (.stfe sz sc d a off) c ∧ Placed s c true .write false (scrReqs s.m c a off (sizeBytes sz)) ps m) ∧
    (∃ (s : State), ∃ (c : Ctx), ∃ (sz : Size), ∃ (d : Src), ∃ (a : Nat), ∃ (off : Int), ∃ (ps : List (Req × Place)), ∃ (m : Mach), ∃ (t : State), ∃ (sp : Space), ∃ (x : Nat), ∃ (tag : Option KTag), Issues s (.st sz .plain d a off) c ∧ Placed s c false .write false (genReqs s.m c a off (sizeBytes sz)) ps m ∧ anyFab ps = false ∧ exec (.st sz .plain d a off) s = .next t ∧ m.oneKey sp x tag ∧ ((∀ p ∈ ps, (writeOf s.cfg c .plain 0 0 (storeBytes s.m c sz d p.1.lane) p.2).covers sp x = false))) ∧
    (∃ (s : State), ∃ (c : Ctx), ∃ (sz : Size), ∃ (d : Src), ∃ (a : Src), ∃ (off : Int), ∃ (ps : List (Req × Place)), ∃ (m : Mach), ∃ (t : State), ∃ (sp : Space), ∃ (x : Nat), ∃ (_tag : Option KTag), Issues s (.sts sz .plain d a off) c ∧ Placed s c true .write false (scrReqs s.m c a off (sizeBytes sz)) ps m ∧ exec (.sts sz .plain d a off) s = .next t ∧ ((∀ p ∈ ps, (writeOf s.cfg c .plain 0 0 (storeBytes s.m c sz d p.1.lane) p.2).covers sp x = false))) ∧
    (∃ (s : State), ∃ (c : Ctx), ∃ (sz : Size), ∃ (d : Src), ∃ (a : Src), ∃ (off : Int), ∃ (ps : List (Req × Place)), ∃ (m : Mach), ∃ (t : State), ∃ (sp : Space), ∃ (x : Nat), ∃ (_tag : Option KTag), Issues s (.stfe sz .plain d a off) c ∧ Placed s c true .write false (scrReqs s.m c a off (sizeBytes sz)) ps m ∧ exec (.stfe sz .plain d a off) s = .next t ∧ ((∀ p ∈ ps, (writeOf s.cfg c .stfe 0 0 (storeBytes s.m c sz d p.1.lane) p.2).covers sp x = false))) :=
  ⟨⟨lab, (cOf lab), .q, .rmt, (.v 116), 2, 15, (placesOf lab false .write false (genReqs lab.m (cOf lab) 2 15 (sizeBytes .q))), (machOf lab false .write false (genReqs lab.m (cOf lab) 2 15 (sizeBytes .q))), issues_of (by decide +kernel), placed_of (by decide +kernel)⟩,
    ⟨lab, (cOf lab), .w, .clu, (.lat 7), (.v 4), (-16), (placesOf lab true .write false (scrReqs lab.m (cOf lab) (.v 4) (-16) (sizeBytes .w))), (machOf lab true .write false (scrReqs lab.m (cOf lab) (.v 4) (-16) (sizeBytes .w))), issues_of (by decide +kernel), placed_of (by decide +kernel)⟩,
    ⟨lab, (cOf lab), .d, .dev, (.v 118), (.v 4), 15, (placesOf lab true .write false (scrReqs lab.m (cOf lab) (.v 4) 15 (sizeBytes .d))), (machOf lab true .write false (scrReqs lab.m (cOf lab) (.v 4) 15 (sizeBytes .d))), issues_of (by decide +kernel), placed_of (by decide +kernel)⟩,
    ⟨lab, (cOf lab), .q, (.v 116), 2, 15, (placesOf lab false .write false (genReqs lab.m (cOf lab) 2 15 (sizeBytes .q))), (machOf lab false .write false (genReqs lab.m (cOf lab) 2 15 (sizeBytes .q))), (nextOf (exec (.st .q .plain (.v 116) 2 15) lab)), .pkg, 0, none, issues_of (by decide +kernel), placed_of (by decide +kernel), by decide +kernel, next_of (by decide +kernel), oneKey_nil (by decide +kernel), by decide +kernel⟩,
    ⟨lab, (cOf lab), .q, (.v 116), (.v 4), 15, (placesOf lab true .write false (scrReqs lab.m (cOf lab) (.v 4) 15 (sizeBytes .q))), (machOf lab true .write false (scrReqs lab.m (cOf lab) (.v 4) 15 (sizeBytes .q))), (nextOf (exec (.sts .q .plain (.v 116) (.v 4) 15) lab)), (.scr 1), 0x500, none, issues_of (by decide +kernel), placed_of (by decide +kernel), next_of (by decide +kernel), by decide +kernel⟩,
    ⟨lab, (cOf lab), .q, (.v 116), (.v 4), 15, (placesOf lab true .write false (scrReqs lab.m (cOf lab) (.v 4) 15 (sizeBytes .q))), (machOf lab true .write false (scrReqs lab.m (cOf lab) (.v 4) 15 (sizeBytes .q))), (nextOf (exec (.stfe .q .plain (.v 116) (.v 4) 15) lab)), (.scr 1), 0x500, none, issues_of (by decide +kernel), placed_of (by decide +kernel), next_of (by decide +kernel), by decide +kernel⟩⟩

/-- The premises of FullEmptyLoads. -/
theorem test_premises_FullEmptyLoads :
    (∃ (s : State), ∃ (c : Ctx), ∃ (sz : Size), ∃ (sc : Scope), ∃ (d : Nat), ∃ (a : Src), ∃ (off : Int), ∃ (ps : List (Req × Place)), ∃ (m : Mach), Issues s (.ldfe sz sc d a off) c ∧ Placed s c true .read true (scrReqs s.m c a off (sizeBytes sz)) ps m ∧ let n := (m.before c.leaf c.la.p sc true false ps).pushGranules c.leaf (granules ps); n.allFull (granules ps) = true) ∧
    (∃ (s : State), ∃ (c : Ctx), ∃ (sz : Size), ∃ (sc : Scope), ∃ (d : Nat), ∃ (a : Src), ∃ (off : Int), ∃ (ps : List (Req × Place)), ∃ (m : Mach), Issues s (.ldfe sz sc d a off) c ∧ Placed s c true .read true (scrReqs s.m c a off (sizeBytes sz)) ps m ∧ let n := (m.before c.leaf c.la.p sc true false ps).pushGranules c.leaf (granules ps); n.allFull (granules ps) = false) ∧
    (∃ (s : State), ∃ (c : Ctx), ∃ (sz : Size), ∃ (sc : Scope), ∃ (d : Nat), ∃ (a : Src), ∃ (off : Int), ∃ (ps : List (Req × Place)), ∃ (m : Mach), Issues s (.ldfet sz sc d a off) c ∧ Placed s c true .write true (scrReqs s.m c a off (sizeBytes sz)) ps m ∧ let n := (m.before c.leaf c.la.p sc true false ps).pushGranules c.leaf (granules ps); n.allFull (granules ps) = true) ∧
    (∃ (s : State), ∃ (c : Ctx), ∃ (sz : Size), ∃ (sc : Scope), ∃ (d : Nat), ∃ (a : Src), ∃ (off : Int), ∃ (ps : List (Req × Place)), ∃ (m : Mach), Issues s (.ldfet sz sc d a off) c ∧ Placed s c true .write true (scrReqs s.m c a off (sizeBytes sz)) ps m ∧ let n := (m.before c.leaf c.la.p sc true false ps).pushGranules c.leaf (granules ps); n.allFull (granules ps) = false) :=
  ⟨⟨lab, (cOf lab), .q, .core, 116, (.v 4), 0, (placesOf lab true .read true (scrReqs lab.m (cOf lab) (.v 4) 0 (sizeBytes .q))), (machOf lab true .read true (scrReqs lab.m (cOf lab) (.v 4) 0 (sizeBytes .q))), issues_of (by decide +kernel), placed_of (by decide +kernel), by decide +kernel⟩,
    ⟨(labWith (fun m => m.setGranule 1 0x40 (false, 0xFFFE))), (cOf (labWith (fun m => m.setGranule 1 0x40 (false, 0xFFFE)))), .q, .core, 116, (.v 4), 0, (placesOf (labWith (fun m => m.setGranule 1 0x40 (false, 0xFFFE))) true .read true (scrReqs (labWith (fun m => m.setGranule 1 0x40 (false, 0xFFFE))).m (cOf (labWith (fun m => m.setGranule 1 0x40 (false, 0xFFFE)))) (.v 4) 0 (sizeBytes .q))), (machOf (labWith (fun m => m.setGranule 1 0x40 (false, 0xFFFE))) true .read true (scrReqs (labWith (fun m => m.setGranule 1 0x40 (false, 0xFFFE))).m (cOf (labWith (fun m => m.setGranule 1 0x40 (false, 0xFFFE)))) (.v 4) 0 (sizeBytes .q))), issues_of (by decide +kernel), placed_of (by decide +kernel), by decide +kernel⟩,
    ⟨lab, (cOf lab), .q, .core, 116, (.v 4), 0, (placesOf lab true .write true (scrReqs lab.m (cOf lab) (.v 4) 0 (sizeBytes .q))), (machOf lab true .write true (scrReqs lab.m (cOf lab) (.v 4) 0 (sizeBytes .q))), issues_of (by decide +kernel), placed_of (by decide +kernel), by decide +kernel⟩,
    ⟨(labWith (fun m => m.setGranule 1 0x40 (false, 0xFFFE))), (cOf (labWith (fun m => m.setGranule 1 0x40 (false, 0xFFFE)))), .q, .core, 116, (.v 4), 0, (placesOf (labWith (fun m => m.setGranule 1 0x40 (false, 0xFFFE))) true .write true (scrReqs (labWith (fun m => m.setGranule 1 0x40 (false, 0xFFFE))).m (cOf (labWith (fun m => m.setGranule 1 0x40 (false, 0xFFFE)))) (.v 4) 0 (sizeBytes .q))), (machOf (labWith (fun m => m.setGranule 1 0x40 (false, 0xFFFE))) true .write true (scrReqs (labWith (fun m => m.setGranule 1 0x40 (false, 0xFFFE))).m (cOf (labWith (fun m => m.setGranule 1 0x40 (false, 0xFFFE)))) (.v 4) 0 (sizeBytes .q))), issues_of (by decide +kernel), placed_of (by decide +kernel), by decide +kernel⟩⟩

/-- The premises of MemoryAtomics. -/
theorem test_premises_MemoryAtomics :
    (∃ (s : State), ∃ (c : Ctx), ∃ (op : AtomOp), ∃ (sc : Scope), ∃ (dbl : Bool), ∃ (d : Nat), ∃ (a : Nat), ∃ (ps : List (Req × Place)), ∃ (m : Mach), Issues s (.atom op sc dbl d a) c ∧ Placed s c false .atomic true (genReqs s.m c a 0 (if dbl then 8 else 4)) ps m ∧ let ws := m.drainWids c sc ++ m.fabBefore c.leaf c.la.p true ps; let n := m.before c.leaf c.la.p sc true true ps; ws ≠ []) ∧
    (∃ (s : State), ∃ (c : Ctx), ∃ (op : AtomOp), ∃ (sc : Scope), ∃ (dbl : Bool), ∃ (d : Nat), ∃ (a : Nat), ∃ (ps : List (Req × Place)), ∃ (m : Mach), Issues s (.atom op sc dbl d a) c ∧ Placed s c false .atomic true (genReqs s.m c a 0 (if dbl then 8 else 4)) ps m ∧ let ws := m.drainWids c sc ++ m.fabBefore c.leaf c.la.p true ps; let n := m.before c.leaf c.la.p sc true true ps; ws = [] ∧ anyFab ps = false) ∧
    (∃ (s : State), ∃ (c : Ctx), ∃ (op : AtomOp), ∃ (sc : Scope), ∃ (dbl : Bool), ∃ (d : Nat), ∃ (a : Nat), ∃ (ps : List (Req × Place)), ∃ (m : Mach), Issues s (.atom op sc dbl d a) c ∧ Placed s c false .atomic true (genReqs s.m c a 0 (if dbl then 8 else 4)) ps m ∧ let ws := m.drainWids c sc ++ m.fabBefore c.leaf c.la.p true ps; let n := m.before c.leaf c.la.p sc true true ps; ws = [] ∧ anyFab ps = true) ∧
    (∃ (s : State), ∃ (c : Ctx), ∃ (op : AtomOp), ∃ (sc : Scope), ∃ (dbl : Bool), ∃ (d : Nat), ∃ (a : Src), ∃ (ps : List (Req × Place)), ∃ (m : Mach), Issues s (.atoms op sc dbl d a) c ∧ Placed s c true .atomic true (scrReqs s.m c a 0 (if dbl then 8 else 4)) ps m ∧ let ws := m.drainWids c sc ++ m.fabBefore c.leaf c.la.p true ps; let n := m.before c.leaf c.la.p sc true true ps; ws ≠ []) ∧
    (∃ (s : State), ∃ (c : Ctx), ∃ (op : AtomOp), ∃ (sc : Scope), ∃ (dbl : Bool), ∃ (d : Nat), ∃ (a : Src), ∃ (ps : List (Req × Place)), ∃ (m : Mach), Issues s (.atoms op sc dbl d a) c ∧ Placed s c true .atomic true (scrReqs s.m c a 0 (if dbl then 8 else 4)) ps m ∧ let ws := m.drainWids c sc ++ m.fabBefore c.leaf c.la.p true ps; let n := m.before c.leaf c.la.p sc true true ps; ws = []) :=
  ⟨⟨labOut, (cOf labOut), .dec, .sys, true, 118, 6, (placesOf labOut false .atomic true (genReqs labOut.m (cOf labOut) 6 0 (if true then 8 else 4))), (machOf labOut false .atomic true (genReqs labOut.m (cOf labOut) 6 0 (if true then 8 else 4))), issues_of (by decide +kernel), placed_of (by decide +kernel), by decide +kernel⟩,
    ⟨lab, (cOf lab), .cas, .rmt, true, 116, 2, (placesOf lab false .atomic true (genReqs lab.m (cOf lab) 2 0 (if true then 8 else 4))), (machOf lab false .atomic true (genReqs lab.m (cOf lab) 2 0 (if true then 8 else 4))), issues_of (by decide +kernel), placed_of (by decide +kernel), by decide +kernel⟩,
    ⟨lab, (cOf lab), .dec, .sys, true, 118, 6, (placesOf lab false .atomic true (genReqs lab.m (cOf lab) 6 0 (if true then 8 else 4))), (machOf lab false .atomic true (genReqs lab.m (cOf lab) 6 0 (if true then 8 else 4))), issues_of (by decide +kernel), placed_of (by decide +kernel), by decide +kernel⟩,
    ⟨labOut, (cOf labOut), .fmaxF32, .sys, false, 119, (.v 4), (placesOf labOut true .atomic true (scrReqs labOut.m (cOf labOut) (.v 4) 0 (if false then 8 else 4))), (machOf labOut true .atomic true (scrReqs labOut.m (cOf labOut) (.v 4) 0 (if false then 8 else 4))), issues_of (by decide +kernel), placed_of (by decide +kernel), by decide +kernel⟩,
    ⟨lab, (cOf lab), .fmaxF32, .plain, false, 119, (.v 4), (placesOf lab true .atomic true (scrReqs lab.m (cOf lab) (.v 4) 0 (if false then 8 else 4))), (machOf lab true .atomic true (scrReqs lab.m (cOf lab) (.v 4) 0 (if false then 8 else 4))), issues_of (by decide +kernel), placed_of (by decide +kernel), by decide +kernel⟩⟩

/-- The premises of AtomicValues. -/
theorem test_premises_AtomicValues :
    (∃ (m : Mach), ∃ (_leaf : Point), ∃ (t : Nat), ∃ (a : Nat), ∃ (n : Nat), ∃ (_sync : Bool), ∃ (f : List Byte → Option (List Byte)), ∃ (new : List Byte), m.canonical = true ∧ m.bufs = [] ∧ new.length = n ∧ f (m.homeBytes (.scr t) a n none) = some new ∧ a + n ≤ 2 ^ 20) :=
  ⟨lab.m, (.group 1 0), 1, (2 ^ 20 - 8), 8, true, (fun _ => some (List.replicate 8 1)), (List.replicate 8 1), by decide +kernel⟩

/-- The premises of AccessTraps. -/
theorem test_premises_AccessTraps :
    (∃ (s : State), ∃ (c : Ctx), ∃ (cr : CtxRec), CanTrap s c cr ∧ ∃ (sz : Size), ∃ (sc : Scope), ∃ (d : Nat), ∃ (a : Nat), ∃ (off : Int), ∃ (q : Req), ∃ (k : Nat × Nat), ∃ (rest : List (Req × Nat × Nat)), gate s.m c (.ld sz sc d a off) = .pass ∧ s.m.misses c ((genReqs s.m c a off (sizeBytes sz)).map (reqTarget s.m c.tm false (Cls.writes .read))) = [] ∧ badReqs s c false .read (genReqs s.m c a off (sizeBytes sz)) = (q, k) :: rest) ∧
    (∃ (s : State), ∃ (c : Ctx), ∃ (cr : CtxRec), CanTrap s c cr ∧ ∃ (sz : Size), ∃ (sc : Scope), ∃ (e : Src), ∃ (a : Nat), ∃ (off : Int), ∃ (q : Req), ∃ (k : Nat × Nat), ∃ (rest : List (Req × Nat × Nat)), gate s.m c (.st sz sc e a off) = .pass ∧ s.m.misses c ((genReqs s.m c a off (sizeBytes sz)).map (reqTarget s.m c.tm false (Cls.writes .write))) = [] ∧ badReqs s c false .write (genReqs s.m c a off (sizeBytes sz)) = (q, k) :: rest) ∧
    (∃ (s : State), ∃ (c : Ctx), ∃ (cr : CtxRec), CanTrap s c cr ∧ ∃ (sz : Size), ∃ (sc : Scope), ∃ (d : Nat), ∃ (b : Src), ∃ (off : Int), ∃ (q : Req), ∃ (k : Nat × Nat), ∃ (rest : List (Req × Nat × Nat)), gate s.m c (.lds sz sc d b off) = .pass ∧ s.m.misses c ((scrReqs s.m c b off (sizeBytes sz)).map (reqTarget s.m c.tm true (Cls.writes .read))) = [] ∧ badReqs s c true .read (scrReqs s.m c b off (sizeBytes sz)) = (q, k) :: rest) ∧
    (∃ (s : State), ∃ (c : Ctx), ∃ (cr : CtxRec), CanTrap s c cr ∧ ∃ (sz : Size), ∃ (sc : Scope), ∃ (e : Src), ∃ (b : Src), ∃ (off : Int), ∃ (q : Req), ∃ (k : Nat × Nat), ∃ (rest : List (Req × Nat × Nat)), gate s.m c (.sts sz sc e b off) = .pass ∧ s.m.misses c ((scrReqs s.m c b off (sizeBytes sz)).map (reqTarget s.m c.tm true (Cls.writes .write))) = [] ∧ badReqs s c true .write (scrReqs s.m c b off (sizeBytes sz)) = (q, k) :: rest) ∧
    (∃ (s : State), ∃ (c : Ctx), ∃ (cr : CtxRec), CanTrap s c cr ∧ ∃ (sz : Size), ∃ (sc : Scope), ∃ (d : Nat), ∃ (b : Src), ∃ (off : Int), ∃ (q : Req), ∃ (k : Nat × Nat), ∃ (rest : List (Req × Nat × Nat)), gate s.m c (.ldfe sz sc d b off) = .pass ∧ s.m.misses c ((scrReqs s.m c b off (sizeBytes sz)).map (reqTarget s.m c.tm true (Cls.writes .read))) = [] ∧ badReqs s c true .read (scrReqs s.m c b off (sizeBytes sz)) = (q, k) :: rest) ∧
    (∃ (s : State), ∃ (c : Ctx), ∃ (cr : CtxRec), CanTrap s c cr ∧ ∃ (sz : Size), ∃ (sc : Scope), ∃ (d : Nat), ∃ (b : Src), ∃ (off : Int), ∃ (q : Req), ∃ (k : Nat × Nat), ∃ (rest : List (Req × Nat × Nat)), gate s.m c (.ldfet sz sc d b off) = .pass ∧ s.m.misses c ((scrReqs s.m c b off (sizeBytes sz)).map (reqTarget s.m c.tm true (Cls.writes .write))) = [] ∧ badReqs s c true .write (scrReqs s.m c b off (sizeBytes sz)) = (q, k) :: rest) ∧
    (∃ (s : State), ∃ (c : Ctx), ∃ (cr : CtxRec), CanTrap s c cr ∧ ∃ (sz : Size), ∃ (sc : Scope), ∃ (e : Src), ∃ (b : Src), ∃ (off : Int), ∃ (q : Req), ∃ (k : Nat × Nat), ∃ (rest : List (Req × Nat × Nat)), gate s.m c (.stfe sz sc e b off) = .pass ∧ s.m.misses c ((scrReqs s.m c b off (sizeBytes sz)).map (reqTarget s.m c.tm true (Cls.writes .write))) = [] ∧ badReqs s c true .write (scrReqs s.m c b off (sizeBytes sz)) = (q, k) :: rest) ∧
    (∃ (s : State), ∃ (c : Ctx), ∃ (cr : CtxRec), CanTrap s c cr ∧ ∃ (op : AtomOp), ∃ (sc : Scope), ∃ (dbl : Bool), ∃ (d : Nat), ∃ (a : Nat), ∃ (q : Req), ∃ (k : Nat × Nat), ∃ (rest : List (Req × Nat × Nat)), gate s.m c (.atom op sc dbl d a) = .pass ∧ s.m.misses c ((genReqs s.m c a 0 (if dbl then 8 else 4)).map (reqTarget s.m c.tm false (Cls.writes .atomic))) = [] ∧ badReqs s c false .atomic (genReqs s.m c a 0 (if dbl then 8 else 4)) = (q, k) :: rest) ∧
    (∃ (s : State), ∃ (c : Ctx), ∃ (cr : CtxRec), CanTrap s c cr ∧ ∃ (op : AtomOp), ∃ (sc : Scope), ∃ (dbl : Bool), ∃ (d : Nat), ∃ (b : Src), ∃ (q : Req), ∃ (k : Nat × Nat), ∃ (rest : List (Req × Nat × Nat)), gate s.m c (.atoms op sc dbl d b) = .pass ∧ s.m.misses c ((scrReqs s.m c b 0 (if dbl then 8 else 4)).map (reqTarget s.m c.tm true (Cls.writes .atomic))) = [] ∧ badReqs s c true .atomic (scrReqs s.m c b 0 (if dbl then 8 else 4)) = (q, k) :: rest) ∧
    (∃ (s : State), ∃ (c : Ctx), ∃ (cr : CtxRec), CanTrap s c cr ∧ ∃ (sz : Size), ∃ (sc : Scope), ∃ (d : Nat), ∃ (a : Nat), ∃ (off : Int), ∃ (q : Req), ∃ (k : Nat × Nat), ∃ (rest : List (Req × Nat × Nat)), gate s.m c (.ld sz sc d a off) = .pass ∧ s.m.misses c ((genReqs s.m c a off (sizeBytes sz)).map (reqTarget s.m c.tm false (Cls.writes .read))) = [] ∧ badReqs s c false .read (genReqs s.m c a off (sizeBytes sz)) = [] ∧ failures (owned s c false .read true (genReqs s.m c a off (sizeBytes sz))).1 = (q, k) :: rest) ∧
    (∃ (s : State), ∃ (c : Ctx), ∃ (cr : CtxRec), CanTrap s c cr ∧ ∃ (op : AtomOp), ∃ (sc : Scope), ∃ (dbl : Bool), ∃ (d : Nat), ∃ (a : Nat), ∃ (q : Req), ∃ (k : Nat × Nat), ∃ (rest : List (Req × Nat × Nat)), gate s.m c (.atom op sc dbl d a) = .pass ∧ s.m.misses c ((genReqs s.m c a 0 (if dbl then 8 else 4)).map (reqTarget s.m c.tm false (Cls.writes .atomic))) = [] ∧ badReqs s c false .atomic (genReqs s.m c a 0 (if dbl then 8 else 4)) = [] ∧ failures (owned s c false .atomic true (genReqs s.m c a 0 (if dbl then 8 else 4))).1 = (q, k) :: rest) :=
  ⟨⟨lab, (cOf lab), labCr, canTrap_of (by decide +kernel), .w, .plain, 119, 12, 0, ⟨0, 0x10401, 4, 0x10401⟩, (3, 0), [(⟨1, 0x10401, 4, 0x10401⟩, 3, 0)], gate_of (by decide +kernel), by decide +kernel⟩,
    ⟨lab, (cOf lab), labCr, canTrap_of (by decide +kernel), .w, .plain, (.v 119), 12, 0, ⟨0, 0x10401, 4, 0x10401⟩, (3, 0), [(⟨1, 0x10401, 4, 0x10401⟩, 3, 0)], gate_of (by decide +kernel), by decide +kernel⟩,
    ⟨lab, (cOf lab), labCr, canTrap_of (by decide +kernel), .w, .plain, 119, (.v 8), 0, ⟨0, 3, 4, 3⟩, (3, 0), [(⟨1, 3, 4, 3⟩, 3, 0)], gate_of (by decide +kernel), by decide +kernel⟩,
    ⟨lab, (cOf lab), labCr, canTrap_of (by decide +kernel), .w, .plain, (.v 119), (.v 8), 0, ⟨0, 3, 4, 3⟩, (3, 0), [(⟨1, 3, 4, 3⟩, 3, 0)], gate_of (by decide +kernel), by decide +kernel⟩,
    ⟨lab, (cOf lab), labCr, canTrap_of (by decide +kernel), .w, .plain, 119, (.v 8), 0, ⟨0, 3, 4, 3⟩, (3, 0), [(⟨1, 3, 4, 3⟩, 3, 0)], gate_of (by decide +kernel), by decide +kernel⟩,
    ⟨lab, (cOf lab), labCr, canTrap_of (by decide +kernel), .w, .plain, 119, (.v 8), 0, ⟨0, 3, 4, 3⟩, (3, 0), [(⟨1, 3, 4, 3⟩, 3, 0)], gate_of (by decide +kernel), by decide +kernel⟩,
    ⟨lab, (cOf lab), labCr, canTrap_of (by decide +kernel), .w, .plain, (.v 119), (.v 8), 0, ⟨0, 3, 4, 3⟩, (3, 0), [(⟨1, 3, 4, 3⟩, 3, 0)], gate_of (by decide +kernel), by decide +kernel⟩,
    ⟨lab, (cOf lab), labCr, canTrap_of (by decide +kernel), .add, .plain, false, 119, 12, ⟨0, 0x10401, 4, 0x10401⟩, (3, 0), [(⟨1, 0x10401, 4, 0x10401⟩, 3, 0)], gate_of (by decide +kernel), by decide +kernel⟩,
    ⟨lab, (cOf lab), labCr, canTrap_of (by decide +kernel), .add, .plain, false, 119, (.v 8), ⟨0, 3, 4, 3⟩, (3, 0), [(⟨1, 3, 4, 3⟩, 3, 0)], gate_of (by decide +kernel), by decide +kernel⟩,
    ⟨labSelf, (cOf labSelf), labCr, canTrap_of (by decide +kernel), .w, .plain, 119, 6, 0, ⟨0, 0xC000000000000000, 4, 0xC000000000000000⟩, (4, 4), [(⟨1, 0xC000000000000000, 4, 0xC000000000000000⟩, 4, 4)], gate_of (by decide +kernel), by decide +kernel⟩,
    ⟨labSelf, (cOf labSelf), labCr, canTrap_of (by decide +kernel), .add, .plain, false, 119, 6, ⟨0, 0xC000000000000000, 4, 0xC000000000000000⟩, (4, 4), [(⟨1, 0xC000000000000000, 4, 0xC000000000000000⟩, 4, 4)], gate_of (by decide +kernel), by decide +kernel⟩⟩

/-- The premises of PlainAccessOrder. -/
theorem test_premises_PlainAccessOrder :
    (∃ (_m : Mach), ∃ (leaf : Point), ∃ (w : Write), ∃ (sp : Space), ∃ (a : Nat), ∃ (tag : Option KTag), Point.level leaf = 0 ∧ w.covers sp a = true ∧ sameTag w.tag tag = true) ∧
    (∃ (m : Mach), ∃ (leaf : Point), ∃ (w : Write), ∃ (sp : Space), ∃ (a : Nat), ∃ (tag : Option KTag), Point.level leaf = 0 ∧ w.covers sp a = false ∧ m.oneKey sp a tag) ∧
    (∃ (m : Mach), ∃ (leaf : Point), ∃ (sp : Space), ∃ (a : Nat), ∃ (tag : Option KTag), ((∀ p ∈ m.path leaf sp, m.pointByte p sp a tag = none))) :=
  ⟨⟨lab.m, (.group 1 0), labBuf.w, (.scr 1), 0x100, none, by decide +kernel⟩,
    ⟨lab.m, (.group 1 0), labBuf.w, (.scr 1), 0x101, none, by decide +kernel, by decide +kernel, oneKey_nil (by decide +kernel)⟩,
    ⟨lab.m, (.group 1 0), .host, 0, none, by decide +kernel⟩⟩

/-- The premises of MessagePassing. -/
theorem test_premises_MessagePassing :
    (∃ (m : Mach), ∃ (x : Point), ∃ (y : Point), ∃ (s : Nat), ∃ (d : Write), ∃ (f : Write), m.canonical = true ∧ m.bufs = [] ∧ Point.level x = 0 ∧ Point.level y = 0 ∧ s ≤ 4 ∧ m.scopePoint x s = m.scopePoint y s ∧ d.inPlace ∧ f.inPlace ∧ f.bytes ≠ [] ∧ ((d.sp ≠ f.sp ∨ d.addr / 64 + 1 < f.addr / 64 ∨ f.addr / 64 + 1 < d.addr / 64)) ∧ ((∀ t, d.sp = .scr t → d.bytes.length ≤ 64)) ∧ ((∀ t, f.sp = .scr t → f.bytes.length ≤ 64))) :=
  ⟨lab.m, (.group 1 0), (.group 1 63), 1, ⟨0, .scr 1, 0x100, List.replicate 64 1, .plain, none, false, 0, 0, 0⟩, ⟨0, .scr 1, 0x180, List.replicate 64 1, .plain, none, false, 0, 0, 0⟩, and6 (by decide +kernel) ⟨by show (_ : Nat) ≤ 2 ^ 20; decide, by show (_ : Nat) ≤ 2 ^ 20; decide, by decide +kernel, by decide +kernel, fun _ _ => by decide, fun _ _ => by decide⟩⟩

/-- The premises of NamedBarriers. -/
theorem test_premises_NamedBarriers :
    (∀ i ∈ [.barinit 15 (.v 118)], Issues lab i (cOf lab)) ∧
    (∃ (s : State), ∃ (c : Ctx), ∃ (d : Dst), ∃ (b : Nat), Issues s (.bararr d b) c ∧ let x := c.tm.bar b; x.arr + 1 ≠ x.count) ∧
    (∃ (s : State), ∃ (c : Ctx), ∃ (d : Dst), ∃ (b : Nat), Issues s (.bararr d b) c ∧ let x := c.tm.bar b; x.arr + 1 = x.count ∧ ((∀ f ∈ s.m.fibres, f.atBar c.tm.t b = false))) ∧
    (∃ (s : State), ∃ (c : Ctx), ∃ (d : Dst), ∃ (b : Nat), Issues s (.bararr d b) c ∧ let x := c.tm.bar b; x.arr + 1 = x.count) ∧
    (∃ (s : State), ∃ (c : Ctx), ∃ (d : Dst), ∃ (b : Nat), Issues s (.bararr d b) c ∧ let x := c.tm.bar b; x.arr + 1 = x.count ∧ b < c.tm.bars.length ∧ c.f.wait = none) ∧
    (∃ (s : State), ∃ (c : Ctx), ∃ (b : Nat), ∃ (a : Src), Issues s (.barwait b a) c ∧ let x := (s.m.srcL c a).getLsbD 0; (c.tm.bar b).parity ≠ x) ∧
    (∃ (s : State), ∃ (c : Ctx), ∃ (b : Nat), ∃ (a : Src), Issues s (.barwait b a) c ∧ let x := (s.m.srcL c a).getLsbD 0; (c.tm.bar b).parity = x) ∧
    (∃ (s : State), ∃ (c : Ctx), ∃ (d : Dst), ∃ (b : Nat), b < c.tm.bars.length ∧ Issues s (.bararw d b) c ∧ let x := c.tm.bar b; x.arr + 1 ≠ x.count) ∧
    (∃ (s : State), ∃ (c : Ctx), ∃ (d : Dst), ∃ (b : Nat), b < c.tm.bars.length ∧ Issues s (.bararw d b) c ∧ let x := c.tm.bar b; x.arr + 1 = x.count ∧ c.f.wait = none) ∧
    (∃ (s : State), ∃ (c : Ctx), ∃ (d : Dst), ∃ (b : Nat), b < c.tm.bars.length ∧ Issues s (.bararw d b) c ∧ let x := c.tm.bar b; x.arr + 1 = x.count ∧ ((∀ f ∈ s.m.fibres, f.atBar c.tm.t b = false))) :=
  ⟨issues_all (by decide +kernel),
    ⟨(labT (fun t => { t with bars := List.replicate 16 ⟨2, 0, false, none⟩ })), (cOf (labT (fun t => { t with bars := List.replicate 16 ⟨2, 0, false, none⟩ }))), .nw, 15, issues_of (by decide +kernel), by decide +kernel⟩,
    ⟨lab, (cOf lab), .nw, 15, issues_of (by decide +kernel), by decide +kernel⟩,
    ⟨labAtBar, (cOf labAtBar), .nw, 15, issues_of (by decide +kernel), by decide +kernel⟩,
    ⟨labAtBar, (cOf labAtBar), .nw, 15, issues_of (by decide +kernel), by decide +kernel⟩,
    ⟨lab, (cOf lab), 15, (.v 16), issues_of (by decide +kernel), by decide +kernel⟩,
    ⟨lab, (cOf lab), 15, (.v 0), issues_of (by decide +kernel), by decide +kernel⟩,
    ⟨(labT (fun t => { t with bars := List.replicate 16 ⟨2, 0, false, none⟩ })), (cOf (labT (fun t => { t with bars := List.replicate 16 ⟨2, 0, false, none⟩ }))), (.v 119), 15, by decide +kernel, issues_of (by decide +kernel), by decide +kernel⟩,
    ⟨labAtBar, (cOf labAtBar), .nw, 15, by decide +kernel, issues_of (by decide +kernel), by decide +kernel⟩,
    ⟨lab, (cOf lab), .nw, 15, by decide +kernel, issues_of (by decide +kernel), by decide +kernel⟩⟩

/-- The premises of ClusterBarriers. -/
theorem test_premises_ClusterBarriers :
    (∃ (s : State), ∃ (c : Ctx), ∃ (all : Bool), Issues s (.clubar all) c ∧ ((all = false → dieOfCore c.tm.core < c.cl.barDie.length)) ∧ let die := dieOfCore c.tm.core; let lv : Option Nat := if all then none else some die; let b := if all then c.cl.barAll else c.cl.barDie.getD die ⟨[], 0⟩; let due := (s.m.clubarGroups c.cl.c lv).filter (fun g => !b.arrived.contains g && g != (c.f.ref.t, c.f.ref.g)); due ≠ []) ∧
    (∃ (s : State), ∃ (c : Ctx), ∃ (all : Bool), Issues s (.clubar all) c ∧ ((all = false → dieOfCore c.tm.core < c.cl.barDie.length)) ∧ let die := dieOfCore c.tm.core; let lv : Option Nat := if all then none else some die; let b := if all then c.cl.barAll else c.cl.barDie.getD die ⟨[], 0⟩; let due := (s.m.clubarGroups c.cl.c lv).filter (fun g => !b.arrived.contains g && g != (c.f.ref.t, c.f.ref.g)); due = []) :=
  ⟨⟨(labWith (fun m => { m with groups := m.groups ++ [newGroup labRec 1 1 0] })), (cOf (labWith (fun m => { m with groups := m.groups ++ [newGroup labRec 1 1 0] }))), false, issues_of (by decide +kernel), by decide +kernel⟩,
    ⟨lab, (cOf lab), true, issues_of (by decide +kernel), by decide +kernel⟩⟩

/-- The premises of CountWords. -/
theorem test_premises_CountWords :
    (∃ (s : State), ∃ (c : Ctx), ∃ (sc : CwScope), ∃ (d : Dst), ∃ (x : Nat), ∃ (b : Nat), ∃ (ps : List (Req × Place)), ∃ (m : Mach), Issues s (.cwait sc d x b) c ∧ Placed s c false .read true (countReq s.m c x) ps m ∧ ∃ q, ∃ a, ∃ va, ps = [(q, .here a va)] ∧ let r := cwRead s.cfg m c a va; targetOf s.m c b ≤ r.1 % 2 ^ 63) ∧
    (∃ (s : State), ∃ (c : Ctx), ∃ (sc : CwScope), ∃ (d : Dst), ∃ (x : Nat), ∃ (b : Nat), ∃ (ps : List (Req × Place)), ∃ (m : Mach), Issues s (.cwait sc d x b) c ∧ Placed s c false .read true (countReq s.m c x) ps m ∧ ∃ q, ∃ a, ∃ va, ps = [(q, .here a va)] ∧ let r := cwRead s.cfg m c a va; r.1 % 2 ^ 63 < targetOf s.m c b) ∧
    (∃ (s : State), ∃ (c : Ctx), ∃ (sc : CwScope), ∃ (d : Dst), ∃ (x : Nat), ∃ (b : Nat), ∃ (ps : List (Req × Place)), ∃ (m : Mach), Issues s (.cwait sc d x b) c ∧ Placed s c false .read true (countReq s.m c x) ps m ∧ ∃ q, ∃ e, ∃ o, ps = [(q, .fab e o)] ∧ let ws := m.fabBefore c.leaf c.la.p true ps; ws ≠ []) ∧
    (∃ (s : State), ∃ (c : Ctx), ∃ (sc : CwScope), ∃ (d : Dst), ∃ (x : Nat), ∃ (b : Nat), ∃ (ps : List (Req × Place)), ∃ (m : Mach), Issues s (.cwait sc d x b) c ∧ Placed s c false .read true (countReq s.m c x) ps m ∧ ∃ q, ∃ e, ∃ o, ps = [(q, .fab e o)] ∧ let ws := m.fabBefore c.leaf c.la.p true ps; ws = []) ∧
    (∃ (s : State), ∃ (c : Ctx), ∃ (sc : CwScope), ∃ (d : Dst), ∃ (x : Nat), ∃ (b : Nat), ∃ (ps : List (Req × Place)), ∃ (m : Mach), Issues s (.cwaitt sc d x b) c ∧ Placed s c false .read true (countReq s.m c x) ps m ∧ ∃ q, ∃ a, ∃ va, ps = [(q, .here a va)] ∧ let r := cwRead s.cfg m c a va; targetOf s.m c b ≤ r.1 % 2 ^ 63) ∧
    (∃ (s : State), ∃ (c : Ctx), ∃ (sc : CwScope), ∃ (d : Dst), ∃ (x : Nat), ∃ (b : Nat), ∃ (ps : List (Req × Place)), ∃ (m : Mach), Issues s (.cwaitt sc d x b) c ∧ Placed s c false .read true (countReq s.m c x) ps m ∧ ∃ q, ∃ a, ∃ va, ps = [(q, .here a va)] ∧ let r := cwRead s.cfg m c a va; r.1 % 2 ^ 63 < targetOf s.m c b ∧ (s.m.v c (b + 2) c.leader).toNat ≤ c.f.fe.getD 0) ∧
    (∃ (s : State), ∃ (c : Ctx), ∃ (sc : CwScope), ∃ (d : Dst), ∃ (x : Nat), ∃ (b : Nat), ∃ (ps : List (Req × Place)), ∃ (m : Mach), Issues s (.cwaitt sc d x b) c ∧ Placed s c false .read true (countReq s.m c x) ps m ∧ ∃ q, ∃ a, ∃ va, ps = [(q, .here a va)] ∧ let r := cwRead s.cfg m c a va; r.1 % 2 ^ 63 < targetOf s.m c b ∧ c.f.fe.getD 0 < (s.m.v c (b + 2) c.leader).toNat) ∧
    (∃ (s : State), ∃ (c : Ctx), ∃ (sc : CwScope), ∃ (d : Dst), ∃ (x : Nat), ∃ (b : Nat), ∃ (ps : List (Req × Place)), ∃ (m : Mach), Issues s (.cwaitt sc d x b) c ∧ Placed s c false .read true (countReq s.m c x) ps m ∧ ∃ q, ∃ e, ∃ o, ps = [(q, .fab e o)] ∧ let ws := m.fabBefore c.leaf c.la.p true ps; ws ≠ []) ∧
    (∃ (s : State), ∃ (c : Ctx), ∃ (sc : CwScope), ∃ (d : Dst), ∃ (x : Nat), ∃ (b : Nat), ∃ (ps : List (Req × Place)), ∃ (m : Mach), Issues s (.cwaitt sc d x b) c ∧ Placed s c false .read true (countReq s.m c x) ps m ∧ ∃ q, ∃ e, ∃ o, ps = [(q, .fab e o)] ∧ let ws := m.fabBefore c.leaf c.la.p true ps; ws = []) ∧
    (∃ (s : State), ∃ (c : Ctx), ∃ (sc : CiScope), ∃ (d : Dst), ∃ (a : Nat), ∃ (b : Src), ∃ (ps : List (Req × Place)), ∃ (m : Mach), Issues s (.cinc sc d a b) c ∧ Placed s c false .atomic true (countReq s.m c a) ps m ∧ ∃ q, ∃ ac, ∃ va, ps = [(q, .here ac va)]) ∧
    (∃ (s : State), ∃ (c : Ctx), ∃ (sc : CiScope), ∃ (d : Dst), ∃ (a : Nat), ∃ (b : Src), ∃ (ps : List (Req × Place)), ∃ (m : Mach), Issues s (.cinc sc d a b) c ∧ Placed s c false .atomic true (countReq s.m c a) ps m ∧ ∃ q, ∃ e, ∃ o, ps = [(q, .fab e o)] ∧ let ws := m.fabBefore c.leaf c.la.p true ps; ws ≠ []) ∧
    (∃ (s : State), ∃ (c : Ctx), ∃ (sc : CiScope), ∃ (d : Dst), ∃ (a : Nat), ∃ (b : Src), ∃ (ps : List (Req × Place)), ∃ (m : Mach), Issues s (.cinc sc d a b) c ∧ Placed s c false .atomic true (countReq s.m c a) ps m ∧ ∃ q, ∃ e, ∃ o, ps = [(q, .fab e o)] ∧ let ws := m.fabBefore c.leaf c.la.p true ps; ws = []) :=
  ⟨⟨lab, (cOf lab), .sys, .nw, 2, 0, (placesOf lab false .read true (countReq lab.m (cOf lab) 2)), (machOf lab false .read true (countReq lab.m (cOf lab) 2)), issues_of (by decide +kernel), placed_of (by decide +kernel), ⟨0, 0x10400, 8, 0x10400⟩, (accOf (placesOf lab false .read true (countReq lab.m (cOf lab) 2))), 0x10400, by decide +kernel⟩,
    ⟨lab, (cOf lab), .sys, .nw, 2, 16, (placesOf lab false .read true (countReq lab.m (cOf lab) 2)), (machOf lab false .read true (countReq lab.m (cOf lab) 2)), issues_of (by decide +kernel), placed_of (by decide +kernel), ⟨0, 0x10400, 8, 0x10400⟩, (accOf (placesOf lab false .read true (countReq lab.m (cOf lab) 2))), 0x10400, by decide +kernel⟩,
    ⟨labOut, (cOf labOut), .core, (.v 118), 6, 18, (placesOf labOut false .read true (countReq labOut.m (cOf labOut) 6)), (machOf labOut false .read true (countReq labOut.m (cOf labOut) 6)), issues_of (by decide +kernel), placed_of (by decide +kernel), ⟨0, 0xC00A000000001000, 8, 0xC00A000000001000⟩, 5, 0x1000, by decide +kernel⟩,
    ⟨lab, (cOf lab), .core, (.v 118), 6, 18, (placesOf lab false .read true (countReq lab.m (cOf lab) 6)), (machOf lab false .read true (countReq lab.m (cOf lab) 6)), issues_of (by decide +kernel), placed_of (by decide +kernel), ⟨0, 0xC00A000000001000, 8, 0xC00A000000001000⟩, 5, 0x1000, by decide +kernel⟩,
    ⟨lab, (cOf lab), .sys, .nw, 2, 0, (placesOf lab false .read true (countReq lab.m (cOf lab) 2)), (machOf lab false .read true (countReq lab.m (cOf lab) 2)), issues_of (by decide +kernel), placed_of (by decide +kernel), ⟨0, 0x10400, 8, 0x10400⟩, (accOf (placesOf lab false .read true (countReq lab.m (cOf lab) 2))), 0x10400, by decide +kernel⟩,
    ⟨(labF (fun f => { f with fe := some 1000 })), (cOf (labF (fun f => { f with fe := some 1000 }))), .sys, .nw, 2, 16, (placesOf (labF (fun f => { f with fe := some 1000 })) false .read true (countReq (labF (fun f => { f with fe := some 1000 })).m (cOf (labF (fun f => { f with fe := some 1000 }))) 2)), (machOf (labF (fun f => { f with fe := some 1000 })) false .read true (countReq (labF (fun f => { f with fe := some 1000 })).m (cOf (labF (fun f => { f with fe := some 1000 }))) 2)), issues_of (by decide +kernel), placed_of (by decide +kernel), ⟨0, 0x10400, 8, 0x10400⟩, (accOf (placesOf (labF (fun f => { f with fe := some 1000 })) false .read true (countReq (labF (fun f => { f with fe := some 1000 })).m (cOf (labF (fun f => { f with fe := some 1000 }))) 2))), 0x10400, by decide +kernel⟩,
    ⟨lab, (cOf lab), .sys, .nw, 2, 16, (placesOf lab false .read true (countReq lab.m (cOf lab) 2)), (machOf lab false .read true (countReq lab.m (cOf lab) 2)), issues_of (by decide +kernel), placed_of (by decide +kernel), ⟨0, 0x10400, 8, 0x10400⟩, (accOf (placesOf lab false .read true (countReq lab.m (cOf lab) 2))), 0x10400, by decide +kernel⟩,
    ⟨labOut, (cOf labOut), .core, (.v 118), 6, 16, (placesOf labOut false .read true (countReq labOut.m (cOf labOut) 6)), (machOf labOut false .read true (countReq labOut.m (cOf labOut) 6)), issues_of (by decide +kernel), placed_of (by decide +kernel), ⟨0, 0xC00A000000001000, 8, 0xC00A000000001000⟩, 5, 0x1000, by decide +kernel⟩,
    ⟨lab, (cOf lab), .core, (.v 118), 6, 16, (placesOf lab false .read true (countReq lab.m (cOf lab) 6)), (machOf lab false .read true (countReq lab.m (cOf lab) 6)), issues_of (by decide +kernel), placed_of (by decide +kernel), ⟨0, 0xC00A000000001000, 8, 0xC00A000000001000⟩, 5, 0x1000, by decide +kernel⟩,
    ⟨lab, (cOf lab), .dev, .nw, 2, (.v 119), (placesOf lab false .atomic true (countReq lab.m (cOf lab) 2)), (machOf lab false .atomic true (countReq lab.m (cOf lab) 2)), issues_of (by decide +kernel), placed_of (by decide +kernel), ⟨0, 0x10400, 8, 0x10400⟩, (accOf (placesOf lab false .atomic true (countReq lab.m (cOf lab) 2))), 0x10400, by decide +kernel⟩,
    ⟨labOut, (cOf labOut), .plain, (.v 118), 6, (.lat 7), (placesOf labOut false .atomic true (countReq labOut.m (cOf labOut) 6)), (machOf labOut false .atomic true (countReq labOut.m (cOf labOut) 6)), issues_of (by decide +kernel), placed_of (by decide +kernel), ⟨0, 0xC00A000000001000, 8, 0xC00A000000001000⟩, 5, 0x1000, by decide +kernel⟩,
    ⟨lab, (cOf lab), .plain, (.v 118), 6, (.lat 7), (placesOf lab false .atomic true (countReq lab.m (cOf lab) 6)), (machOf lab false .atomic true (countReq lab.m (cOf lab) 6)), issues_of (by decide +kernel), placed_of (by decide +kernel), ⟨0, 0xC00A000000001000, 8, 0xC00A000000001000⟩, 5, 0x1000, by decide +kernel⟩⟩

/-- The premises of Fences. -/
theorem test_premises_Fences :
    (∀ i ∈ [.fence .dev 3], Issues lab i (cOf lab)) ∧
    (∃ (s : State), ∃ (c : Ctx), ∃ (k : Nat), Issues s (.fwait k) c ∧ let x := c.f.toks.getD k ⟨false, [], 0⟩; x.pend = false) ∧
    (∃ (s : State), ∃ (c : Ctx), ∃ (k : Nat), Issues s (.fwait k) c ∧ let x := c.f.toks.getD k ⟨false, [], 0⟩; let left := (s.m.widsAt (s.m.below c.leaf x.sc)).filter (fun w => x.wids.contains w); x.pend = true ∧ left = []) ∧
    (∃ (s : State), ∃ (c : Ctx), ∃ (k : Nat), Issues s (.fwait k) c ∧ let x := c.f.toks.getD k ⟨false, [], 0⟩; let left := (s.m.widsAt (s.m.below c.leaf x.sc)).filter (fun w => x.wids.contains w); x.pend = true ∧ left ≠ []) :=
  ⟨issues_all (by decide +kernel),
    ⟨lab, (cOf lab), 3, issues_of (by decide +kernel), by decide +kernel⟩,
    ⟨(labF (fun f => { f with toks := List.replicate 3 ⟨false, [], 0⟩ ++ [⟨true, [7], 4⟩] })), (cOf (labF (fun f => { f with toks := List.replicate 3 ⟨false, [], 0⟩ ++ [⟨true, [7], 4⟩] }))), 3, issues_of (by decide +kernel), by decide +kernel⟩,
    ⟨(labWith (fun m => { (m.updFibre ⟨1, 0, 0⟩ (fun f => { f with toks := List.replicate 3 ⟨false, [], 0⟩ ++ [⟨true, [7], 4⟩] })) with bufs := [labBuf] })), (cOf (labWith (fun m => { (m.updFibre ⟨1, 0, 0⟩ (fun f => { f with toks := List.replicate 3 ⟨false, [], 0⟩ ++ [⟨true, [7], 4⟩] })) with bufs := [labBuf] }))), 3, issues_of (by decide +kernel), by decide +kernel⟩⟩

/-- The premises of CodebookAndTables. -/
theorem test_premises_CodebookAndTables :
    (∃ (s : State), ∃ (c : Ctx), ∃ (a : Nat), ∃ (ps : List (Req × Place)), ∃ (m : Mach), (s.m.v64 c a c.leader).toNat % 32 = 0 ∧ Issues s (.cbld a) c ∧ Placed s c false .read true (blockReqs s.m c a 32 16) ps m) ∧
    (∃ (s : State), ∃ (c : Ctx), ∃ (a : Nat), ∃ (k : Nat), ∃ (ps : List (Req × Place)), ∃ (m : Mach), (s.m.v64 c a c.leader).toNat % 8 = 0 ∧ nbit c.rc.pairmask (k - 1) = true ∧ Issues s (.tmtab a k) c ∧ Placed s c false .read true (blockReqs s.m c a 536 8) ps m) ∧
    (∃ (s : State), ∃ (c : Ctx), ∃ (a : Nat), ∃ (i : Instr), ∃ (n : Nat), ∃ (cr : CtxRec), ((i = .cbld a ∧ n = 32) ∨ (∃ k, i = .tmtab a k ∧ n = 8 ∧ nbit c.rc.pairmask (k - 1) = true)) ∧ CanTrap s c cr ∧ gate s.m c i = .pass ∧ (s.m.v64 c a c.leader).toNat % n ≠ 0) ∧
    (∃ (s : State), ∃ (c : Ctx), ∃ (a : Nat), ∃ (k : Nat), ∃ (cr : CtxRec), CanTrap s c cr ∧ gate s.m c (.tmtab a k) = .pass ∧ nbit c.rc.pairmask (k - 1) = false) :=
  ⟨⟨lab, (cOf lab), 2, (placesOf lab false .read true (blockReqs lab.m (cOf lab) 2 32 16)), (machOf lab false .read true (blockReqs lab.m (cOf lab) 2 32 16)), by decide +kernel, issues_of (by decide +kernel), placed_of (by decide +kernel)⟩,
    ⟨lab, (cOf lab), 2, 7, (placesOf lab false .read true (blockReqs lab.m (cOf lab) 2 536 8)), (machOf lab false .read true (blockReqs lab.m (cOf lab) 2 536 8)), by decide +kernel, by decide +kernel, issues_of (by decide +kernel), placed_of (by decide +kernel)⟩,
    ⟨lab, (cOf lab), 12, (.tmtab 12 7), 8, labCr, .inr ⟨7, by decide +kernel⟩, canTrap_of (by decide +kernel), gate_of (by decide +kernel), by decide +kernel⟩,
    ⟨(labR (fun r => { r with pairmask := 0x3F })), (cOf (labR (fun r => { r with pairmask := 0x3F }))), 2, 7, labCr, canTrap_of (by decide +kernel), gate_of (by decide +kernel), by decide +kernel⟩⟩

/-- The premises of CachesAndReports. -/
theorem test_premises_CachesAndReports :
    (∀ i ∈ [.ipf 118 (.v 118), .ipin (.v 119) 118 (.lat 7), .iunpin 118 (.v 118), .cwb .wbinv .dev 118 (.v 118), 
      .pref true 118 (-16), .tstat 116 .dcmp], Issues lab i (cOf lab)) :=
  issues_all (by decide +kernel)

end Sys2Proof.Tests
end

