-- ==== Sys2Proof/Tests/Commands.lean ====
section
/-! SUPPORT. States and operands that meet the premises of the statements about engine commands, handles and windows. -/
set_option Elab.async false
namespace Sys2Proof.Tests
open Sys2Proof Sys2Proof.Machine

/-- The premises of BlockTraps: a command whose block is not aligned. -/
theorem test_premises_BlockTraps : CanTrap lab (cOf lab) labCr ∧
    (∀ i ∈ [Instr.mma true (.v 18) 104 7, .drain true ⟨true, true, true⟩ (.v 18) 7, .tcopy true ⟨true, true, true, true⟩ (.v 18), .tcopyColl (.v 18), .dcjob true (.v 18),
      .xarm (.v 18) 116, .xsort (.v 18), .rinvh (.v 118) (.v 18) 20], Issues lab i (cOf lab)) ∧
    (∀ n ∈ [16, 32, 64], (lab.m.srcL (cOf lab) (.v 18)).toNat % n ≠ 0) :=
  ⟨canTrap_of (by decide +kernel), issues_all (by decide +kernel), by decide +kernel⟩
/-- The premises of a command with records: sealed ones, and ones that are not. -/
theorem test_premises_Records :
    isSealed (bytesAt (labCopy.m.homeBytes .pkg (pkgAt 0x400) 256 none) 0 128) = true ∧ isSealed (bytesAt (labColl.m.homeBytes .pkg (pkgAt 0x400) 256 none) 0 128) = true ∧
    isSealed (bytesAt (lab.m.homeBytes .pkg (pkgAt 0x400) 256 none) 0 128) = false ∧ CanTrap labCopy (cOf labCopy) labCr :=
  ⟨by decide +kernel, by decide +kernel, by decide +kernel, canTrap_of (by decide +kernel)⟩
/-- A context with room for no command. -/
def labFull (k : EngCtx) (cmd : Cmd) : State := labOps ((List.range 32).map (fun n => { labOp k cmd with n := n + 1, begun := false }))
/-- The premises of Enters where the context is full. -/
theorem test_premises_Enters :
    ((labFull .matrix (.accz 1)).m.room 1 .matrix = false ∧ Issues (labFull .matrix (.accz 1)) (.accz 15) (cOf (labFull .matrix (.accz 1)))) ∧
    ((labFull .copy (.prolog 1)).m.room 1 .copy = false ∧ Issues (labFull .copy (.prolog 1)) (.prolog 3) (cOf (labFull .copy (.prolog 1)))) ∧
    ((labFull .exch (.xdisarm 1)).m.room 1 .exch = false ∧ Issues (labFull .exch (.xdisarm 1)) (.xdisarm (.v 0)) (cOf (labFull .exch (.xdisarm 1)))) ∧
    ((labFull .dcmp (.dcjob true [])).m.room 1 .dcmp = false ∧ Issues (labFull .dcmp (.dcjob true [])) (.dcjob true (.v 4)) (cOf (labFull .dcmp (.dcjob true [])))) :=
  ⟨⟨by decide +kernel, issues_of (by decide +kernel)⟩, ⟨by decide +kernel, issues_of (by decide +kernel)⟩, ⟨by decide +kernel, issues_of (by decide +kernel)⟩,
    ⟨by decide +kernel, issues_of (by decide +kernel)⟩⟩

/-- The premises of MatrixCommands. -/
theorem test_premises_MatrixCommands :
    (∀ i ∈ [.accz 15], Issues lab i (cOf lab)) ∧
    (∃ (s : State), ∃ (c : Ctx), ∃ (zs : Bool), ∃ (a : Src), ∃ (b : Nat), ∃ (k : Nat), ∃ (ps : List (Req × Place)), ∃ (m : Mach), BlockAt s c a 64 ps m ∧ let r := leadRead s c m ps; let rs := (mmaRegs c.rc (mmaBlk r.1) b).getD []; let bad := rs.any (fun r => decide (119 < r) || decide (c.rc.regs ≤ c.f.base + r)); let busy := (List.range 4).any (fun q => s.m.regBusy c.tm.t (4 * (mmaBlk r.1).quad + q) (c.phys rs)); bad = false ∧ (busy = false ∨ mmaRegs c.rc (mmaBlk r.1) b = none) ∧ Issues s (.mma zs a b k) c) ∧
    (∃ (s : State), ∃ (c : Ctx), ∃ (zs : Bool), ∃ (a : Src), ∃ (b : Nat), ∃ (k : Nat), ∃ (ps : List (Req × Place)), ∃ (m : Mach), BlockAt s c a 64 ps m ∧ let r := leadRead s c m ps; let rs := (mmaRegs c.rc (mmaBlk r.1) b).getD []; let bad := rs.any (fun r => decide (119 < r) || decide (c.rc.regs ≤ c.f.base + r)); let busy := (List.range 4).any (fun q => s.m.regBusy c.tm.t (4 * (mmaBlk r.1).quad + q) (c.phys rs)); bad = false ∧ busy = true ∧ mmaRegs c.rc (mmaBlk r.1) b ≠ none ∧ Issues s (.mma zs a b k) c) ∧
    (∃ (s : State), ∃ (c : Ctx), ∃ (zs : Bool), ∃ (a : Src), ∃ (b : Nat), ∃ (k : Nat), ∃ (ps : List (Req × Place)), ∃ (m : Mach), BlockAt s c a 64 ps m ∧ let r := leadRead s c m ps; let rs := (mmaRegs c.rc (mmaBlk r.1) b).getD []; let bad := rs.any (fun r => decide (119 < r) || decide (c.rc.regs ≤ c.f.base + r)); ∃ cr, bad = true ∧ CanTrap s c cr ∧ gate s.m c (.mma zs a b k) = .pass) ∧
    (∃ (s : State), ∃ (c : Ctx), ∃ (col : Bool), ∃ (fl : DrainFlags), ∃ (a : Src), ∃ (k : Nat), ∃ (ps : List (Req × Place)), ∃ (m : Mach), Issues s (.drain col fl a k) c ∧ BlockAt s c a 64 ps m) :=
  ⟨issues_all (by decide +kernel),
    ⟨(labBytes mmaB []), (cOf (labBytes mmaB [])), true, (.v 4), 104, 7, (placesAt ({ (labBytes mmaB []) with m := (labBytes mmaB []).m.drain (cOf (labBytes mmaB [])).leaf 1 }) (cOf (labBytes mmaB [])) true .read true (cmdReqs (labBytes mmaB []).m (cOf (labBytes mmaB [])) (.v 4) 64)), (machAt ({ (labBytes mmaB []) with m := (labBytes mmaB []).m.drain (cOf (labBytes mmaB [])).leaf 1 }) (cOf (labBytes mmaB [])) true .read true (cmdReqs (labBytes mmaB []).m (cOf (labBytes mmaB [])) (.v 4) 64)), ⟨by decide +kernel, placed_of (by decide +kernel)⟩, by decide +kernel, by decide +kernel, issues_of (by decide +kernel)⟩,
    ⟨(labWith (fun m => { (labBytes mmaB []).m with outst := [⟨9, ⟨1, 0, 0⟩, [(119, 0, 0)], none⟩] })), (cOf (labWith (fun m => { (labBytes mmaB []).m with outst := [⟨9, ⟨1, 0, 0⟩, [(119, 0, 0)], none⟩] }))), true, (.v 4), 104, 7, (placesAt ({ (labWith (fun m => { (labBytes mmaB []).m with outst := [⟨9, ⟨1, 0, 0⟩, [(119, 0, 0)], none⟩] })) with m := (labWith (fun m => { (labBytes mmaB []).m with outst := [⟨9, ⟨1, 0, 0⟩, [(119, 0, 0)], none⟩] })).m.drain (cOf (labWith (fun m => { (labBytes mmaB []).m with outst := [⟨9, ⟨1, 0, 0⟩, [(119, 0, 0)], none⟩] }))).leaf 1 }) (cOf (labWith (fun m => { (labBytes mmaB []).m with outst := [⟨9, ⟨1, 0, 0⟩, [(119, 0, 0)], none⟩] }))) true .read true (cmdReqs (labWith (fun m => { (labBytes mmaB []).m with outst := [⟨9, ⟨1, 0, 0⟩, [(119, 0, 0)], none⟩] })).m (cOf (labWith (fun m => { (labBytes mmaB []).m with outst := [⟨9, ⟨1, 0, 0⟩, [(119, 0, 0)], none⟩] }))) (.v 4) 64)), (machAt ({ (labWith (fun m => { (labBytes mmaB []).m with outst := [⟨9, ⟨1, 0, 0⟩, [(119, 0, 0)], none⟩] })) with m := (labWith (fun m => { (labBytes mmaB []).m with outst := [⟨9, ⟨1, 0, 0⟩, [(119, 0, 0)], none⟩] })).m.drain (cOf (labWith (fun m => { (labBytes mmaB []).m with outst := [⟨9, ⟨1, 0, 0⟩, [(119, 0, 0)], none⟩] }))).leaf 1 }) (cOf (labWith (fun m => { (labBytes mmaB []).m with outst := [⟨9, ⟨1, 0, 0⟩, [(119, 0, 0)], none⟩] }))) true .read true (cmdReqs (labWith (fun m => { (labBytes mmaB []).m with outst := [⟨9, ⟨1, 0, 0⟩, [(119, 0, 0)], none⟩] })).m (cOf (labWith (fun m => { (labBytes mmaB []).m with outst := [⟨9, ⟨1, 0, 0⟩, [(119, 0, 0)], none⟩] }))) (.v 4) 64)), ⟨by decide +kernel, placed_of (by decide +kernel)⟩, and3 (by decide +kernel) (issues_of (by decide +kernel))⟩,
    ⟨(labBytes mmaB []), (cOf (labBytes mmaB [])), false, (.v 4), 105, 7, (placesAt ({ (labBytes mmaB []) with m := (labBytes mmaB []).m.drain (cOf (labBytes mmaB [])).leaf 1 }) (cOf (labBytes mmaB [])) true .read true (cmdReqs (labBytes mmaB []).m (cOf (labBytes mmaB [])) (.v 4) 64)), (machAt ({ (labBytes mmaB []) with m := (labBytes mmaB []).m.drain (cOf (labBytes mmaB [])).leaf 1 }) (cOf (labBytes mmaB [])) true .read true (cmdReqs (labBytes mmaB []).m (cOf (labBytes mmaB [])) (.v 4) 64)), ⟨by decide +kernel, placed_of (by decide +kernel)⟩, labCr, by decide +kernel, canTrap_of (by decide +kernel), gate_of (by decide +kernel)⟩,
    ⟨lab, (cOf lab), true, ⟨true, true, true⟩, (.v 4), 7, (placesAt ({ lab with m := lab.m.drain (cOf lab).leaf 1 }) (cOf lab) true .read true (cmdReqs lab.m (cOf lab) (.v 4) 64)), (machAt ({ lab with m := lab.m.drain (cOf lab).leaf 1 }) (cOf lab) true .read true (cmdReqs lab.m (cOf lab) (.v 4) 64)), issues_of (by decide +kernel), ⟨by decide +kernel, placed_of (by decide +kernel)⟩⟩⟩

/-- The premises of CopyCommands. -/
theorem test_premises_CopyCommands :
    (∀ i ∈ [.prolog 3, .rrot true (.v 118) (.lat 7)], Issues lab i (cOf lab)) ∧
    (∃ (s : State), ∃ (c : Ctx), ∃ (pack : Bool), ∃ (fl : CopyFlags), ∃ (a : Src), ∃ (ps : List (Req × Place)), ∃ (qs : List (Req × Place)), ∃ (m : Mach), ∃ (n : Mach), Issues s (.tcopy pack fl a) c ∧ BlockAt s c a 64 ps m ∧ let b := leadRead s c m ps; Placed { s with m := b.2 } c false .read true (recReqs c (natAt b.1 0 8) 128 ++ recReqs c (natAt b.1 8 8) 128) qs n) :=
  ⟨issues_all (by decide +kernel),
    ⟨labCopy, (cOf labCopy), true, ⟨true, true, true, true⟩, (.v 4), (placesAt ({ labCopy with m := labCopy.m.drain (cOf labCopy).leaf 1 }) (cOf labCopy) true .read true (cmdReqs labCopy.m (cOf labCopy) (.v 4) 64)), (placesAt ({ labCopy with m := (leadRead labCopy (cOf labCopy) (machAt ({ labCopy with m := labCopy.m.drain (cOf labCopy).leaf 1 }) (cOf labCopy) true .read true (cmdReqs labCopy.m (cOf labCopy) (.v 4) 64)) (placesAt ({ labCopy with m := labCopy.m.drain (cOf labCopy).leaf 1 }) (cOf labCopy) true .read true (cmdReqs labCopy.m (cOf labCopy) (.v 4) 64))).2 }) (cOf labCopy) false .read true (recReqs (cOf labCopy) (natAt (leadRead labCopy (cOf labCopy) (machAt ({ labCopy with m := labCopy.m.drain (cOf labCopy).leaf 1 }) (cOf labCopy) true .read true (cmdReqs labCopy.m (cOf labCopy) (.v 4) 64)) (placesAt ({ labCopy with m := labCopy.m.drain (cOf labCopy).leaf 1 }) (cOf labCopy) true .read true (cmdReqs labCopy.m (cOf labCopy) (.v 4) 64))).1 0 8) 128 ++ recReqs (cOf labCopy) (natAt (leadRead labCopy (cOf labCopy) (machAt ({ labCopy with m := labCopy.m.drain (cOf labCopy).leaf 1 }) (cOf labCopy) true .read true (cmdReqs labCopy.m (cOf labCopy) (.v 4) 64)) (placesAt ({ labCopy with m := labCopy.m.drain (cOf labCopy).leaf 1 }) (cOf labCopy) true .read true (cmdReqs labCopy.m (cOf labCopy) (.v 4) 64))).1 8 8) 128)), (machAt ({ labCopy with m := labCopy.m.drain (cOf labCopy).leaf 1 }) (cOf labCopy) true .read true (cmdReqs labCopy.m (cOf labCopy) (.v 4) 64)), (machAt ({ labCopy with m := (leadRead labCopy (cOf labCopy) (machAt ({ labCopy with m := labCopy.m.drain (cOf labCopy).leaf 1 }) (cOf labCopy) true .read true (cmdReqs labCopy.m (cOf labCopy) (.v 4) 64)) (placesAt ({ labCopy with m := labCopy.m.drain (cOf labCopy).leaf 1 }) (cOf labCopy) true .read true (cmdReqs labCopy.m (cOf labCopy) (.v 4) 64))).2 }) (cOf labCopy) false .read true (recReqs (cOf labCopy) (natAt (leadRead labCopy (cOf labCopy) (machAt ({ labCopy with m := labCopy.m.drain (cOf labCopy).leaf 1 }) (cOf labCopy) true .read true (cmdReqs labCopy.m (cOf labCopy) (.v 4) 64)) (placesAt ({ labCopy with m := labCopy.m.drain (cOf labCopy).leaf 1 }) (cOf labCopy) true .read true (cmdReqs labCopy.m (cOf labCopy) (.v 4) 64))).1 0 8) 128 ++ recReqs (cOf labCopy) (natAt (leadRead labCopy (cOf labCopy) (machAt ({ labCopy with m := labCopy.m.drain (cOf labCopy).leaf 1 }) (cOf labCopy) true .read true (cmdReqs labCopy.m (cOf labCopy) (.v 4) 64)) (placesAt ({ labCopy with m := labCopy.m.drain (cOf labCopy).leaf 1 }) (cOf labCopy) true .read true (cmdReqs labCopy.m (cOf labCopy) (.v 4) 64))).1 8 8) 128)), issues_of (by decide +kernel), ⟨by decide +kernel, placed_of (by decide +kernel)⟩, placed_of (by decide +kernel)⟩⟩

/-- The premises of ExchangeCommands. -/
theorem test_premises_ExchangeCommands :
    (∀ i ∈ [.xput 116 116, .xget 116 116, .xdisarm (.lat 7)], Issues lab i (cOf lab)) ∧
    (∃ (s : State), ∃ (c : Ctx), ∃ (a : Src), ∃ (y : Nat), ∃ (ps : List (Req × Place)), ∃ (m : Mach), Issues s (.xarm a y) c ∧ BlockAt s c a 32 ps m) ∧
    (∃ (s : State), ∃ (c : Ctx), ∃ (a : Src), ∃ (ps : List (Req × Place)), ∃ (qs : List (Req × Place)), ∃ (m : Mach), ∃ (n : Mach), Issues s (.tcopyColl a) c ∧ BlockAt s c a 64 ps m ∧ let b := leadRead s c m ps; Placed { s with m := b.2 } c false .read true (recReqs c (natAt b.1 0 8) 256 ++ recReqs c (natAt b.1 8 8) 128) qs n) ∧
    (∃ (s : State), ∃ (c : Ctx), ∃ (a : Src), ∃ (ps : List (Req × Place)), ∃ (m : Mach), Issues s (.xsort a) c ∧ BlockAt s c a 64 ps m) ∧
    (∃ (s : State), ∃ (c : Ctx), ∃ (arr : Bool), ∃ (a : Src), ∃ (ps : List (Req × Place)), ∃ (m : Mach), Issues s (.dcjob arr a) c ∧ BlockAt s c a 64 ps m) :=
  ⟨issues_all (by decide +kernel),
    ⟨lab, (cOf lab), (.v 4), 116, (placesAt ({ lab with m := lab.m.drain (cOf lab).leaf 1 }) (cOf lab) true .read true (cmdReqs lab.m (cOf lab) (.v 4) 32)), (machAt ({ lab with m := lab.m.drain (cOf lab).leaf 1 }) (cOf lab) true .read true (cmdReqs lab.m (cOf lab) (.v 4) 32)), issues_of (by decide +kernel), ⟨by decide +kernel, placed_of (by decide +kernel)⟩⟩,
    ⟨labColl, (cOf labColl), (.v 4), (placesAt ({ labColl with m := labColl.m.drain (cOf labColl).leaf 1 }) (cOf labColl) true .read true (cmdReqs labColl.m (cOf labColl) (.v 4) 64)), (placesAt ({ labColl with m := (leadRead labColl (cOf labColl) (machAt ({ labColl with m := labColl.m.drain (cOf labColl).leaf 1 }) (cOf labColl) true .read true (cmdReqs labColl.m (cOf labColl) (.v 4) 64)) (placesAt ({ labColl with m := labColl.m.drain (cOf labColl).leaf 1 }) (cOf labColl) true .read true (cmdReqs labColl.m (cOf labColl) (.v 4) 64))).2 }) (cOf labColl) false .read true (recReqs (cOf labColl) (natAt (leadRead labColl (cOf labColl) (machAt ({ labColl with m := labColl.m.drain (cOf labColl).leaf 1 }) (cOf labColl) true .read true (cmdReqs labColl.m (cOf labColl) (.v 4) 64)) (placesAt ({ labColl with m := labColl.m.drain (cOf labColl).leaf 1 }) (cOf labColl) true .read true (cmdReqs labColl.m (cOf labColl) (.v 4) 64))).1 0 8) 256 ++ recReqs (cOf labColl) (natAt (leadRead labColl (cOf labColl) (machAt ({ labColl with m := labColl.m.drain (cOf labColl).leaf 1 }) (cOf labColl) true .read true (cmdReqs labColl.m (cOf labColl) (.v 4) 64)) (placesAt ({ labColl with m := labColl.m.drain (cOf labColl).leaf 1 }) (cOf labColl) true .read true (cmdReqs labColl.m (cOf labColl) (.v 4) 64))).1 8 8) 128)), (machAt ({ labColl with m := labColl.m.drain (cOf labColl).leaf 1 }) (cOf labColl) true .read true (cmdReqs labColl.m (cOf labColl) (.v 4) 64)), (machAt ({ labColl with m := (leadRead labColl (cOf labColl) (machAt ({ labColl with m := labColl.m.drain (cOf labColl).leaf 1 }) (cOf labColl) true .read true (cmdReqs labColl.m (cOf labColl) (.v 4) 64)) (placesAt ({ labColl with m := labColl.m.drain (cOf labColl).leaf 1 }) (cOf labColl) true .read true (cmdReqs labColl.m (cOf labColl) (.v 4) 64))).2 }) (cOf labColl) false .read true (recReqs (cOf labColl) (natAt (leadRead labColl (cOf labColl) (machAt ({ labColl with m := labColl.m.drain (cOf labColl).leaf 1 }) (cOf labColl) true .read true (cmdReqs labColl.m (cOf labColl) (.v 4) 64)) (placesAt ({ labColl with m := labColl.m.drain (cOf labColl).leaf 1 }) (cOf labColl) true .read true (cmdReqs labColl.m (cOf labColl) (.v 4) 64))).1 0 8) 256 ++ recReqs (cOf labColl) (natAt (leadRead labColl (cOf labColl) (machAt ({ labColl with m := labColl.m.drain (cOf labColl).leaf 1 }) (cOf labColl) true .read true (cmdReqs labColl.m (cOf labColl) (.v 4) 64)) (placesAt ({ labColl with m := labColl.m.drain (cOf labColl).leaf 1 }) (cOf labColl) true .read true (cmdReqs labColl.m (cOf labColl) (.v 4) 64))).1 8 8) 128)), issues_of (by decide +kernel), ⟨by decide +kernel, placed_of (by decide +kernel)⟩, placed_of (by decide +kernel)⟩,
    ⟨lab, (cOf lab), (.v 4), (placesAt ({ lab with m := lab.m.drain (cOf lab).leaf 1 }) (cOf lab) true .read true (cmdReqs lab.m (cOf lab) (.v 4) 64)), (machAt ({ lab with m := lab.m.drain (cOf lab).leaf 1 }) (cOf lab) true .read true (cmdReqs lab.m (cOf lab) (.v 4) 64)), issues_of (by decide +kernel), ⟨by decide +kernel, placed_of (by decide +kernel)⟩⟩,
    ⟨lab, (cOf lab), true, (.v 4), (placesAt ({ lab with m := lab.m.drain (cOf lab).leaf 1 }) (cOf lab) true .read true (cmdReqs lab.m (cOf lab) (.v 4) 64)), (machAt ({ lab with m := lab.m.drain (cOf lab).leaf 1 }) (cOf lab) true .read true (cmdReqs lab.m (cOf lab) (.v 4) 64)), issues_of (by decide +kernel), ⟨by decide +kernel, placed_of (by decide +kernel)⟩⟩⟩

/-- The premises of InvocationIssue. -/
theorem test_premises_InvocationIssue :
    (∃ (s : State), ∃ (c : Ctx), ∃ (d : Dst), ∃ (a : Src), ∃ (ps : List (Req × Place)), ∃ (m : Mach), ∃ (_n : Mach), ∃ (pt : Part), ∃ (_bs : List Byte), ∃ (_args : List Byte), c.f.drained = false ∧ (s.m.srcL c a).toNat % 16 = 0 ∧ Placed s c true .read true (cmdReqs s.m c a 272) ps m ∧ s.cfg.part? c.la.p = some pt ∧ Issues s (.rinv d a) c ∧ let r := leadRead s c m ps; let k := invBlkOf r.1; let x := natAt r.1 0x10 8; k.bad false x = true) ∧
    (∃ (s : State), ∃ (c : Ctx), ∃ (d : Dst), ∃ (a : Src), ∃ (ps : List (Req × Place)), ∃ (m : Mach), ∃ (n : Mach), ∃ (pt : Part), ∃ (bs : List Byte), ∃ (args : List Byte), c.f.drained = false ∧ (s.m.srcL c a).toNat % 16 = 0 ∧ Placed s c true .read true (cmdReqs s.m c a 272) ps m ∧ s.cfg.part? c.la.p = some pt ∧ Issues s (.rinv d a) c ∧ let r := leadRead s c m ps; let k := invBlkOf r.1; let x := natAt r.1 0x10 8; k.bad false x = false ∧ (((k.indir && k.arglen != 0) = false ∧ n = r.2 ∧ bs = r.1 ∧ args = (if k.indir then [] else bytesAt r.1 0x10 k.arglen)) ∨ ((k.indir && k.arglen != 0) = true ∧ ∃ qs q, Placed { s with m := r.2 } c false .read true (spanReqs c.leader x k.arglen x) qs q ∧ (args, n) = leadRead s c q qs ∧ bs = r.1 ++ args)) ∧ (tableOk pt = false ∨ n.freeEntry c.la.p = none)) ∧
    (∃ (s : State), ∃ (c : Ctx), ∃ (d : Dst), ∃ (a : Src), ∃ (ps : List (Req × Place)), ∃ (m : Mach), ∃ (n : Mach), ∃ (pt : Part), ∃ (bs : List Byte), ∃ (args : List Byte), c.f.drained = false ∧ (s.m.srcL c a).toNat % 16 = 0 ∧ Placed s c true .read true (cmdReqs s.m c a 272) ps m ∧ s.cfg.part? c.la.p = some pt ∧ Issues s (.rinv d a) c ∧ let r := leadRead s c m ps; let k := invBlkOf r.1; let x := natAt r.1 0x10 8; k.bad false x = false ∧ (((k.indir && k.arglen != 0) = false ∧ n = r.2 ∧ bs = r.1 ∧ args = (if k.indir then [] else bytesAt r.1 0x10 k.arglen)) ∨ ((k.indir && k.arglen != 0) = true ∧ ∃ qs q, Placed { s with m := r.2 } c false .read true (spanReqs c.leader x k.arglen x) qs q ∧ (args, n) = leadRead s c q qs ∧ bs = r.1 ++ args)) ∧ ∃ idx, tableOk pt = true ∧ n.freeEntry c.la.p = some idx ∧ let ws := n.drainWids c .sys; let y := (n.dropRead c.f.ref).drain c.leaf 4; let h : Handle := ⟨s.cfg.device.toNat, idx, y.hgen c.la.p idx⟩; ws ≠ []) ∧
    (∃ (s : State), ∃ (c : Ctx), ∃ (d : Dst), ∃ (a : Src), ∃ (ps : List (Req × Place)), ∃ (m : Mach), ∃ (n : Mach), ∃ (pt : Part), ∃ (bs : List Byte), ∃ (args : List Byte), c.f.drained = false ∧ (s.m.srcL c a).toNat % 16 = 0 ∧ Placed s c true .read true (cmdReqs s.m c a 272) ps m ∧ s.cfg.part? c.la.p = some pt ∧ Issues s (.rinv d a) c ∧ let r := leadRead s c m ps; let k := invBlkOf r.1; let x := natAt r.1 0x10 8; k.bad false x = false ∧ (((k.indir && k.arglen != 0) = false ∧ n = r.2 ∧ bs = r.1 ∧ args = (if k.indir then [] else bytesAt r.1 0x10 k.arglen)) ∨ ((k.indir && k.arglen != 0) = true ∧ ∃ qs q, Placed { s with m := r.2 } c false .read true (spanReqs c.leader x k.arglen x) qs q ∧ (args, n) = leadRead s c q qs ∧ bs = r.1 ++ args)) ∧ ∃ idx, tableOk pt = true ∧ n.freeEntry c.la.p = some idx ∧ let ws := n.drainWids c .sys; let y := (n.dropRead c.f.ref).drain c.leaf 4; let h : Handle := ⟨s.cfg.device.toNat, idx, y.hgen c.la.p idx⟩; ws = []) ∧
    (∃ (s : State), ∃ (c : Ctx), ∃ (d : Dst), ∃ (a : Src), ∃ (b : Nat), ∃ (p : Handle), ∃ (ps : List (Req × Place)), ∃ (m : Mach), ∃ (_n : Mach), ∃ (pt : Part), ∃ (_bs : List Byte), ∃ (_args : List Byte), c.f.drained = false ∧ (s.m.srcL c a).toNat % 16 = 0 ∧ Placed s c true .read true (cmdReqs s.m c a 272) ps m ∧ s.cfg.part? c.la.p = some pt ∧ Issues s (.rinvh d a b) c ∧ handleOf (s.m.v64 c b c.leader).toNat = some p ∧ let r := leadRead s c m ps; let k := invBlkOf r.1; let x := natAt r.1 0x10 8; k.bad true x = true) ∧
    (∃ (s : State), ∃ (c : Ctx), ∃ (d : Dst), ∃ (a : Src), ∃ (b : Nat), ∃ (p : Handle), ∃ (ps : List (Req × Place)), ∃ (m : Mach), ∃ (_n : Mach), ∃ (pt : Part), ∃ (_bs : List Byte), ∃ (_args : List Byte), c.f.drained = false ∧ (s.m.srcL c a).toNat % 16 = 0 ∧ Placed s c true .read true (cmdReqs s.m c a 272) ps m ∧ s.cfg.part? c.la.p = some pt ∧ Issues s (.rinvh d a b) c ∧ handleOf (s.m.v64 c b c.leader).toNat = some p ∧ let r := leadRead s c m ps; let k := invBlkOf r.1; let x := natAt r.1 0x10 8; k.bad true x = false ∧ p.home = s.cfg.device.toNat ∧ homeEntry r.2 c.la.p p = none) ∧
    (∃ (s : State), ∃ (c : Ctx), ∃ (d : Dst), ∃ (a : Src), ∃ (b : Nat), ∃ (p : Handle), ∃ (ps : List (Req × Place)), ∃ (m : Mach), ∃ (n : Mach), ∃ (pt : Part), ∃ (bs : List Byte), ∃ (args : List Byte), c.f.drained = false ∧ (s.m.srcL c a).toNat % 16 = 0 ∧ Placed s c true .read true (cmdReqs s.m c a 272) ps m ∧ s.cfg.part? c.la.p = some pt ∧ Issues s (.rinvh d a b) c ∧ handleOf (s.m.v64 c b c.leader).toNat = some p ∧ let r := leadRead s c m ps; let k := invBlkOf r.1; let x := natAt r.1 0x10 8; k.bad true x = false ∧ ((p.home = s.cfg.device.toNat → (homeEntry r.2 c.la.p p).isSome)) ∧ (((k.indir && k.arglen != 0) = false ∧ n = r.2 ∧ bs = r.1 ∧ args = (if k.indir then [] else bytesAt r.1 0x10 k.arglen)) ∨ ((k.indir && k.arglen != 0) = true ∧ ∃ qs q, Placed { s with m := r.2 } c false .read true (spanReqs c.leader x k.arglen x) qs q ∧ (args, n) = leadRead s c q qs ∧ bs = r.1 ++ args)) ∧ p.home ≠ s.cfg.device.toNat) ∧
    (∃ (s : State), ∃ (c : Ctx), ∃ (d : Dst), ∃ (a : Src), ∃ (b : Nat), ∃ (p : Handle), ∃ (ps : List (Req × Place)), ∃ (m : Mach), ∃ (n : Mach), ∃ (pt : Part), ∃ (bs : List Byte), ∃ (args : List Byte), c.f.drained = false ∧ (s.m.srcL c a).toNat % 16 = 0 ∧ Placed s c true .read true (cmdReqs s.m c a 272) ps m ∧ s.cfg.part? c.la.p = some pt ∧ Issues s (.rinvh d a b) c ∧ handleOf (s.m.v64 c b c.leader).toNat = some p ∧ let r := leadRead s c m ps; let k := invBlkOf r.1; let x := natAt r.1 0x10 8; k.bad true x = false ∧ ((p.home = s.cfg.device.toNat → (homeEntry r.2 c.la.p p).isSome)) ∧ (((k.indir && k.arglen != 0) = false ∧ n = r.2 ∧ bs = r.1 ∧ args = (if k.indir then [] else bytesAt r.1 0x10 k.arglen)) ∨ ((k.indir && k.arglen != 0) = true ∧ ∃ qs q, Placed { s with m := r.2 } c false .read true (spanReqs c.leader x k.arglen x) qs q ∧ (args, n) = leadRead s c q qs ∧ bs = r.1 ++ args)) ∧ p.home = s.cfg.device.toNat ∧ (tableOk pt = false ∨ n.freeEntry c.la.p = none)) ∧
    (∃ (s : State), ∃ (c : Ctx), ∃ (d : Dst), ∃ (a : Src), ∃ (b : Nat), ∃ (p : Handle), ∃ (ps : List (Req × Place)), ∃ (m : Mach), ∃ (n : Mach), ∃ (pt : Part), ∃ (bs : List Byte), ∃ (args : List Byte), c.f.drained = false ∧ (s.m.srcL c a).toNat % 16 = 0 ∧ Placed s c true .read true (cmdReqs s.m c a 272) ps m ∧ s.cfg.part? c.la.p = some pt ∧ Issues s (.rinvh d a b) c ∧ handleOf (s.m.v64 c b c.leader).toNat = some p ∧ let r := leadRead s c m ps; let k := invBlkOf r.1; let x := natAt r.1 0x10 8; k.bad true x = false ∧ ((p.home = s.cfg.device.toNat → (homeEntry r.2 c.la.p p).isSome)) ∧ (((k.indir && k.arglen != 0) = false ∧ n = r.2 ∧ bs = r.1 ∧ args = (if k.indir then [] else bytesAt r.1 0x10 k.arglen)) ∨ ((k.indir && k.arglen != 0) = true ∧ ∃ qs q, Placed { s with m := r.2 } c false .read true (spanReqs c.leader x k.arglen x) qs q ∧ (args, n) = leadRead s c q qs ∧ bs = r.1 ++ args)) ∧ p.home = s.cfg.device.toNat ∧ ∃ idx, tableOk pt = true ∧ n.freeEntry c.la.p = some idx ∧ let ws := n.drainWids c .sys; let y := (n.dropRead c.f.ref).drain c.leaf 4; let h : Handle := ⟨s.cfg.device.toNat, idx, y.hgen c.la.p idx⟩; ws ≠ []) ∧
    (∃ (s : State), ∃ (c : Ctx), ∃ (d : Dst), ∃ (a : Src), ∃ (b : Nat), ∃ (p : Handle), ∃ (ps : List (Req × Place)), ∃ (m : Mach), ∃ (n : Mach), ∃ (pt : Part), ∃ (bs : List Byte), ∃ (args : List Byte), c.f.drained = false ∧ (s.m.srcL c a).toNat % 16 = 0 ∧ Placed s c true .read true (cmdReqs s.m c a 272) ps m ∧ s.cfg.part? c.la.p = some pt ∧ Issues s (.rinvh d a b) c ∧ handleOf (s.m.v64 c b c.leader).toNat = some p ∧ let r := leadRead s c m ps; let k := invBlkOf r.1; let x := natAt r.1 0x10 8; k.bad true x = false ∧ ((p.home = s.cfg.device.toNat → (homeEntry r.2 c.la.p p).isSome)) ∧ (((k.indir && k.arglen != 0) = false ∧ n = r.2 ∧ bs = r.1 ∧ args = (if k.indir then [] else bytesAt r.1 0x10 k.arglen)) ∨ ((k.indir && k.arglen != 0) = true ∧ ∃ qs q, Placed { s with m := r.2 } c false .read true (spanReqs c.leader x k.arglen x) qs q ∧ (args, n) = leadRead s c q qs ∧ bs = r.1 ++ args)) ∧ p.home = s.cfg.device.toNat ∧ ∃ idx, tableOk pt = true ∧ n.freeEntry c.la.p = some idx ∧ let ws := n.drainWids c .sys; let y := (n.dropRead c.f.ref).drain c.leaf 4; let h : Handle := ⟨s.cfg.device.toNat, idx, y.hgen c.la.p idx⟩; ws = []) ∧
    (∃ (s : State), ∃ (c : Ctx), ∃ (d : Dst), ∃ (a : Src), ∃ (b : Nat), ∃ (i : Instr), ∃ (cr : CtxRec), (i = .rinv d a ∨ i = .rinvh d a b) ∧ CanTrap s c cr ∧ gate s.m c i = .pass ∧ c.f.drained = false ∧ (s.m.srcL c a).toNat % 16 ≠ 0) :=
  ⟨⟨labInvBad, (cOf labInvBad), (.v 118), (.v 4), (placesOf labInvBad true .read true (cmdReqs labInvBad.m (cOf labInvBad) (.v 4) 272)), (machOf labInvBad true .read true (cmdReqs labInvBad.m (cOf labInvBad) (.v 4) 272)), (leadRead labInvBad (cOf labInvBad) (machOf labInvBad true .read true (cmdReqs labInvBad.m (cOf labInvBad) (.v 4) 272)) (placesOf labInvBad true .read true (cmdReqs labInvBad.m (cOf labInvBad) (.v 4) 272))).2, probePart, (leadRead labInvBad (cOf labInvBad) (machOf labInvBad true .read true (cmdReqs labInvBad.m (cOf labInvBad) (.v 4) 272)) (placesOf labInvBad true .read true (cmdReqs labInvBad.m (cOf labInvBad) (.v 4) 272))).1, (if (invBlkOf (leadRead labInvBad (cOf labInvBad) (machOf labInvBad true .read true (cmdReqs labInvBad.m (cOf labInvBad) (.v 4) 272)) (placesOf labInvBad true .read true (cmdReqs labInvBad.m (cOf labInvBad) (.v 4) 272))).1).indir then [] else bytesAt (leadRead labInvBad (cOf labInvBad) (machOf labInvBad true .read true (cmdReqs labInvBad.m (cOf labInvBad) (.v 4) 272)) (placesOf labInvBad true .read true (cmdReqs labInvBad.m (cOf labInvBad) (.v 4) 272))).1 0x10 (invBlkOf (leadRead labInvBad (cOf labInvBad) (machOf labInvBad true .read true (cmdReqs labInvBad.m (cOf labInvBad) (.v 4) 272)) (placesOf labInvBad true .read true (cmdReqs labInvBad.m (cOf labInvBad) (.v 4) 272))).1).arglen), by decide +kernel, by decide +kernel, placed_of (by decide +kernel), by decide +kernel, issues_of (by decide +kernel), by decide +kernel⟩,
    ⟨(labNoTab labInv), (cOf (labNoTab labInv)), (.v 118), (.v 4), (placesOf (labNoTab labInv) true .read true (cmdReqs (labNoTab labInv).m (cOf (labNoTab labInv)) (.v 4) 272)), (machOf (labNoTab labInv) true .read true (cmdReqs (labNoTab labInv).m (cOf (labNoTab labInv)) (.v 4) 272)), (leadRead (labNoTab labInv) (cOf (labNoTab labInv)) (machOf (labNoTab labInv) true .read true (cmdReqs (labNoTab labInv).m (cOf (labNoTab labInv)) (.v 4) 272)) (placesOf (labNoTab labInv) true .read true (cmdReqs (labNoTab labInv).m (cOf (labNoTab labInv)) (.v 4) 272))).2, noTab, (leadRead (labNoTab labInv) (cOf (labNoTab labInv)) (machOf (labNoTab labInv) true .read true (cmdReqs (labNoTab labInv).m (cOf (labNoTab labInv)) (.v 4) 272)) (placesOf (labNoTab labInv) true .read true (cmdReqs (labNoTab labInv).m (cOf (labNoTab labInv)) (.v 4) 272))).1, (if (invBlkOf (leadRead (labNoTab labInv) (cOf (labNoTab labInv)) (machOf (labNoTab labInv) true .read true (cmdReqs (labNoTab labInv).m (cOf (labNoTab labInv)) (.v 4) 272)) (placesOf (labNoTab labInv) true .read true (cmdReqs (labNoTab labInv).m (cOf (labNoTab labInv)) (.v 4) 272))).1).indir then [] else bytesAt (leadRead (labNoTab labInv) (cOf (labNoTab labInv)) (machOf (labNoTab labInv) true .read true (cmdReqs (labNoTab labInv).m (cOf (labNoTab labInv)) (.v 4) 272)) (placesOf (labNoTab labInv) true .read true (cmdReqs (labNoTab labInv).m (cOf (labNoTab labInv)) (.v 4) 272))).1 0x10 (invBlkOf (leadRead (labNoTab labInv) (cOf (labNoTab labInv)) (machOf (labNoTab labInv) true .read true (cmdReqs (labNoTab labInv).m (cOf (labNoTab labInv)) (.v 4) 272)) (placesOf (labNoTab labInv) true .read true (cmdReqs (labNoTab labInv).m (cOf (labNoTab labInv)) (.v 4) 272))).1).arglen), by decide +kernel, by decide +kernel, placed_of (by decide +kernel), by decide +kernel, issues_of (by decide +kernel), by decide +kernel, .inl ⟨by decide +kernel, rfl, rfl, rfl⟩, by decide +kernel⟩,
    ⟨(labAway labInv), (cOf (labAway labInv)), (.v 118), (.v 4), (placesOf (labAway labInv) true .read true (cmdReqs (labAway labInv).m (cOf (labAway labInv)) (.v 4) 272)), (machOf (labAway labInv) true .read true (cmdReqs (labAway labInv).m (cOf (labAway labInv)) (.v 4) 272)), (leadRead (labAway labInv) (cOf (labAway labInv)) (machOf (labAway labInv) true .read true (cmdReqs (labAway labInv).m (cOf (labAway labInv)) (.v 4) 272)) (placesOf (labAway labInv) true .read true (cmdReqs (labAway labInv).m (cOf (labAway labInv)) (.v 4) 272))).2, probePart, (leadRead (labAway labInv) (cOf (labAway labInv)) (machOf (labAway labInv) true .read true (cmdReqs (labAway labInv).m (cOf (labAway labInv)) (.v 4) 272)) (placesOf (labAway labInv) true .read true (cmdReqs (labAway labInv).m (cOf (labAway labInv)) (.v 4) 272))).1, (if (invBlkOf (leadRead (labAway labInv) (cOf (labAway labInv)) (machOf (labAway labInv) true .read true (cmdReqs (labAway labInv).m (cOf (labAway labInv)) (.v 4) 272)) (placesOf (labAway labInv) true .read true (cmdReqs (labAway labInv).m (cOf (labAway labInv)) (.v 4) 272))).1).indir then [] else bytesAt (leadRead (labAway labInv) (cOf (labAway labInv)) (machOf (labAway labInv) true .read true (cmdReqs (labAway labInv).m (cOf (labAway labInv)) (.v 4) 272)) (placesOf (labAway labInv) true .read true (cmdReqs (labAway labInv).m (cOf (labAway labInv)) (.v 4) 272))).1 0x10 (invBlkOf (leadRead (labAway labInv) (cOf (labAway labInv)) (machOf (labAway labInv) true .read true (cmdReqs (labAway labInv).m (cOf (labAway labInv)) (.v 4) 272)) (placesOf (labAway labInv) true .read true (cmdReqs (labAway labInv).m (cOf (labAway labInv)) (.v 4) 272))).1).arglen), by decide +kernel, by decide +kernel, placed_of (by decide +kernel), by decide +kernel, issues_of (by decide +kernel), by decide +kernel, .inl ⟨by decide +kernel, rfl, rfl, rfl⟩, 0, by decide +kernel⟩,
    ⟨labInv, (cOf labInv), (.v 118), (.v 4), (placesOf labInv true .read true (cmdReqs labInv.m (cOf labInv) (.v 4) 272)), (machOf labInv true .read true (cmdReqs labInv.m (cOf labInv) (.v 4) 272)), (leadRead labInv (cOf labInv) (machOf labInv true .read true (cmdReqs labInv.m (cOf labInv) (.v 4) 272)) (placesOf labInv true .read true (cmdReqs labInv.m (cOf labInv) (.v 4) 272))).2, probePart, (leadRead labInv (cOf labInv) (machOf labInv true .read true (cmdReqs labInv.m (cOf labInv) (.v 4) 272)) (placesOf labInv true .read true (cmdReqs labInv.m (cOf labInv) (.v 4) 272))).1, (if (invBlkOf (leadRead labInv (cOf labInv) (machOf labInv true .read true (cmdReqs labInv.m (cOf labInv) (.v 4) 272)) (placesOf labInv true .read true (cmdReqs labInv.m (cOf labInv) (.v 4) 272))).1).indir then [] else bytesAt (leadRead labInv (cOf labInv) (machOf labInv true .read true (cmdReqs labInv.m (cOf labInv) (.v 4) 272)) (placesOf labInv true .read true (cmdReqs labInv.m (cOf labInv) (.v 4) 272))).1 0x10 (invBlkOf (leadRead labInv (cOf labInv) (machOf labInv true .read true (cmdReqs labInv.m (cOf labInv) (.v 4) 272)) (placesOf labInv true .read true (cmdReqs labInv.m (cOf labInv) (.v 4) 272))).1).arglen), by decide +kernel, by decide +kernel, placed_of (by decide +kernel), by decide +kernel, issues_of (by decide +kernel), by decide +kernel, .inl ⟨by decide +kernel, rfl, rfl, rfl⟩, 0, by decide +kernel⟩,
    ⟨labInvBad, (cOf labInvBad), (.v 118), (.v 4), 20, ⟨0, 3, 5⟩, (placesOf labInvBad true .read true (cmdReqs labInvBad.m (cOf labInvBad) (.v 4) 272)), (machOf labInvBad true .read true (cmdReqs labInvBad.m (cOf labInvBad) (.v 4) 272)), (leadRead labInvBad (cOf labInvBad) (machOf labInvBad true .read true (cmdReqs labInvBad.m (cOf labInvBad) (.v 4) 272)) (placesOf labInvBad true .read true (cmdReqs labInvBad.m (cOf labInvBad) (.v 4) 272))).2, probePart, (leadRead labInvBad (cOf labInvBad) (machOf labInvBad true .read true (cmdReqs labInvBad.m (cOf labInvBad) (.v 4) 272)) (placesOf labInvBad true .read true (cmdReqs labInvBad.m (cOf labInvBad) (.v 4) 272))).1, (if (invBlkOf (leadRead labInvBad (cOf labInvBad) (machOf labInvBad true .read true (cmdReqs labInvBad.m (cOf labInvBad) (.v 4) 272)) (placesOf labInvBad true .read true (cmdReqs labInvBad.m (cOf labInvBad) (.v 4) 272))).1).indir then [] else bytesAt (leadRead labInvBad (cOf labInvBad) (machOf labInvBad true .read true (cmdReqs labInvBad.m (cOf labInvBad) (.v 4) 272)) (placesOf labInvBad true .read true (cmdReqs labInvBad.m (cOf labInvBad) (.v 4) 272))).1 0x10 (invBlkOf (leadRead labInvBad (cOf labInvBad) (machOf labInvBad true .read true (cmdReqs labInvBad.m (cOf labInvBad) (.v 4) 272)) (placesOf labInvBad true .read true (cmdReqs labInvBad.m (cOf labInvBad) (.v 4) 272))).1).arglen), by decide +kernel, by decide +kernel, placed_of (by decide +kernel), by decide +kernel, issues_of (by decide +kernel), by decide +kernel⟩,
    ⟨labInv, (cOf labInv), (.v 118), (.v 4), 20, ⟨0, 3, 5⟩, (placesOf labInv true .read true (cmdReqs labInv.m (cOf labInv) (.v 4) 272)), (machOf labInv true .read true (cmdReqs labInv.m (cOf labInv) (.v 4) 272)), (leadRead labInv (cOf labInv) (machOf labInv true .read true (cmdReqs labInv.m (cOf labInv) (.v 4) 272)) (placesOf labInv true .read true (cmdReqs labInv.m (cOf labInv) (.v 4) 272))).2, probePart, (leadRead labInv (cOf labInv) (machOf labInv true .read true (cmdReqs labInv.m (cOf labInv) (.v 4) 272)) (placesOf labInv true .read true (cmdReqs labInv.m (cOf labInv) (.v 4) 272))).1, (if (invBlkOf (leadRead labInv (cOf labInv) (machOf labInv true .read true (cmdReqs labInv.m (cOf labInv) (.v 4) 272)) (placesOf labInv true .read true (cmdReqs labInv.m (cOf labInv) (.v 4) 272))).1).indir then [] else bytesAt (leadRead labInv (cOf labInv) (machOf labInv true .read true (cmdReqs labInv.m (cOf labInv) (.v 4) 272)) (placesOf labInv true .read true (cmdReqs labInv.m (cOf labInv) (.v 4) 272))).1 0x10 (invBlkOf (leadRead labInv (cOf labInv) (machOf labInv true .read true (cmdReqs labInv.m (cOf labInv) (.v 4) 272)) (placesOf labInv true .read true (cmdReqs labInv.m (cOf labInv) (.v 4) 272))).1).arglen), by decide +kernel, by decide +kernel, placed_of (by decide +kernel), by decide +kernel, issues_of (by decide +kernel), by decide +kernel⟩,
    ⟨labInv, (cOf labInv), (.v 118), (.v 4), 22, ⟨7, 0, 0⟩, (placesOf labInv true .read true (cmdReqs labInv.m (cOf labInv) (.v 4) 272)), (machOf labInv true .read true (cmdReqs labInv.m (cOf labInv) (.v 4) 272)), (leadRead labInv (cOf labInv) (machOf labInv true .read true (cmdReqs labInv.m (cOf labInv) (.v 4) 272)) (placesOf labInv true .read true (cmdReqs labInv.m (cOf labInv) (.v 4) 272))).2, probePart, (leadRead labInv (cOf labInv) (machOf labInv true .read true (cmdReqs labInv.m (cOf labInv) (.v 4) 272)) (placesOf labInv true .read true (cmdReqs labInv.m (cOf labInv) (.v 4) 272))).1, (if (invBlkOf (leadRead labInv (cOf labInv) (machOf labInv true .read true (cmdReqs labInv.m (cOf labInv) (.v 4) 272)) (placesOf labInv true .read true (cmdReqs labInv.m (cOf labInv) (.v 4) 272))).1).indir then [] else bytesAt (leadRead labInv (cOf labInv) (machOf labInv true .read true (cmdReqs labInv.m (cOf labInv) (.v 4) 272)) (placesOf labInv true .read true (cmdReqs labInv.m (cOf labInv) (.v 4) 272))).1 0x10 (invBlkOf (leadRead labInv (cOf labInv) (machOf labInv true .read true (cmdReqs labInv.m (cOf labInv) (.v 4) 272)) (placesOf labInv true .read true (cmdReqs labInv.m (cOf labInv) (.v 4) 272))).1).arglen), by decide +kernel, by decide +kernel, placed_of (by decide +kernel), by decide +kernel, issues_of (by decide +kernel), and3 (by decide +kernel) ⟨.inl ⟨by decide +kernel, rfl, rfl, rfl⟩, by decide +kernel⟩⟩,
    ⟨(labNoTab labInvH), (cOf (labNoTab labInvH)), (.v 118), (.v 4), 20, ⟨0, 3, 5⟩, (placesOf (labNoTab labInvH) true .read true (cmdReqs (labNoTab labInvH).m (cOf (labNoTab labInvH)) (.v 4) 272)), (machOf (labNoTab labInvH) true .read true (cmdReqs (labNoTab labInvH).m (cOf (labNoTab labInvH)) (.v 4) 272)), (leadRead (labNoTab labInvH) (cOf (labNoTab labInvH)) (machOf (labNoTab labInvH) true .read true (cmdReqs (labNoTab labInvH).m (cOf (labNoTab labInvH)) (.v 4) 272)) (placesOf (labNoTab labInvH) true .read true (cmdReqs (labNoTab labInvH).m (cOf (labNoTab labInvH)) (.v 4) 272))).2, noTab, (leadRead (labNoTab labInvH) (cOf (labNoTab labInvH)) (machOf (labNoTab labInvH) true .read true (cmdReqs (labNoTab labInvH).m (cOf (labNoTab labInvH)) (.v 4) 272)) (placesOf (labNoTab labInvH) true .read true (cmdReqs (labNoTab labInvH).m (cOf (labNoTab labInvH)) (.v 4) 272))).1, (if (invBlkOf (leadRead (labNoTab labInvH) (cOf (labNoTab labInvH)) (machOf (labNoTab labInvH) true .read true (cmdReqs (labNoTab labInvH).m (cOf (labNoTab labInvH)) (.v 4) 272)) (placesOf (labNoTab labInvH) true .read true (cmdReqs (labNoTab labInvH).m (cOf (labNoTab labInvH)) (.v 4) 272))).1).indir then [] else bytesAt (leadRead (labNoTab labInvH) (cOf (labNoTab labInvH)) (machOf (labNoTab labInvH) true .read true (cmdReqs (labNoTab labInvH).m (cOf (labNoTab labInvH)) (.v 4) 272)) (placesOf (labNoTab labInvH) true .read true (cmdReqs (labNoTab labInvH).m (cOf (labNoTab labInvH)) (.v 4) 272))).1 0x10 (invBlkOf (leadRead (labNoTab labInvH) (cOf (labNoTab labInvH)) (machOf (labNoTab labInvH) true .read true (cmdReqs (labNoTab labInvH).m (cOf (labNoTab labInvH)) (.v 4) 272)) (placesOf (labNoTab labInvH) true .read true (cmdReqs (labNoTab labInvH).m (cOf (labNoTab labInvH)) (.v 4) 272))).1).arglen), by decide +kernel, by decide +kernel, placed_of (by decide +kernel), by decide +kernel, issues_of (by decide +kernel), and3 (by decide +kernel) ⟨.inl ⟨by decide +kernel, rfl, rfl, rfl⟩, by decide +kernel⟩⟩,
    ⟨(labAway labInvH), (cOf (labAway labInvH)), (.v 118), (.v 4), 20, ⟨0, 3, 5⟩, (placesOf (labAway labInvH) true .read true (cmdReqs (labAway labInvH).m (cOf (labAway labInvH)) (.v 4) 272)), (machOf (labAway labInvH) true .read true (cmdReqs (labAway labInvH).m (cOf (labAway labInvH)) (.v 4) 272)), (leadRead (labAway labInvH) (cOf (labAway labInvH)) (machOf (labAway labInvH) true .read true (cmdReqs (labAway labInvH).m (cOf (labAway labInvH)) (.v 4) 272)) (placesOf (labAway labInvH) true .read true (cmdReqs (labAway labInvH).m (cOf (labAway labInvH)) (.v 4) 272))).2, probePart, (leadRead (labAway labInvH) (cOf (labAway labInvH)) (machOf (labAway labInvH) true .read true (cmdReqs (labAway labInvH).m (cOf (labAway labInvH)) (.v 4) 272)) (placesOf (labAway labInvH) true .read true (cmdReqs (labAway labInvH).m (cOf (labAway labInvH)) (.v 4) 272))).1, (if (invBlkOf (leadRead (labAway labInvH) (cOf (labAway labInvH)) (machOf (labAway labInvH) true .read true (cmdReqs (labAway labInvH).m (cOf (labAway labInvH)) (.v 4) 272)) (placesOf (labAway labInvH) true .read true (cmdReqs (labAway labInvH).m (cOf (labAway labInvH)) (.v 4) 272))).1).indir then [] else bytesAt (leadRead (labAway labInvH) (cOf (labAway labInvH)) (machOf (labAway labInvH) true .read true (cmdReqs (labAway labInvH).m (cOf (labAway labInvH)) (.v 4) 272)) (placesOf (labAway labInvH) true .read true (cmdReqs (labAway labInvH).m (cOf (labAway labInvH)) (.v 4) 272))).1 0x10 (invBlkOf (leadRead (labAway labInvH) (cOf (labAway labInvH)) (machOf (labAway labInvH) true .read true (cmdReqs (labAway labInvH).m (cOf (labAway labInvH)) (.v 4) 272)) (placesOf (labAway labInvH) true .read true (cmdReqs (labAway labInvH).m (cOf (labAway labInvH)) (.v 4) 272))).1).arglen), by decide +kernel, by decide +kernel, placed_of (by decide +kernel), by decide +kernel, issues_of (by decide +kernel), and3 (by decide +kernel) ⟨.inl ⟨by decide +kernel, rfl, rfl, rfl⟩, by decide +kernel, 0, by decide +kernel⟩⟩,
    ⟨labInvH, (cOf labInvH), (.v 118), (.v 4), 20, ⟨0, 3, 5⟩, (placesOf labInvH true .read true (cmdReqs labInvH.m (cOf labInvH) (.v 4) 272)), (machOf labInvH true .read true (cmdReqs labInvH.m (cOf labInvH) (.v 4) 272)), (leadRead labInvH (cOf labInvH) (machOf labInvH true .read true (cmdReqs labInvH.m (cOf labInvH) (.v 4) 272)) (placesOf labInvH true .read true (cmdReqs labInvH.m (cOf labInvH) (.v 4) 272))).2, probePart, (leadRead labInvH (cOf labInvH) (machOf labInvH true .read true (cmdReqs labInvH.m (cOf labInvH) (.v 4) 272)) (placesOf labInvH true .read true (cmdReqs labInvH.m (cOf labInvH) (.v 4) 272))).1, (if (invBlkOf (leadRead labInvH (cOf labInvH) (machOf labInvH true .read true (cmdReqs labInvH.m (cOf labInvH) (.v 4) 272)) (placesOf labInvH true .read true (cmdReqs labInvH.m (cOf labInvH) (.v 4) 272))).1).indir then [] else bytesAt (leadRead labInvH (cOf labInvH) (machOf labInvH true .read true (cmdReqs labInvH.m (cOf labInvH) (.v 4) 272)) (placesOf labInvH true .read true (cmdReqs labInvH.m (cOf labInvH) (.v 4) 272))).1 0x10 (invBlkOf (leadRead labInvH (cOf labInvH) (machOf labInvH true .read true (cmdReqs labInvH.m (cOf labInvH) (.v 4) 272)) (placesOf labInvH true .read true (cmdReqs labInvH.m (cOf labInvH) (.v 4) 272))).1).arglen), by decide +kernel, by decide +kernel, placed_of (by decide +kernel), by decide +kernel, issues_of (by decide +kernel), and3 (by decide +kernel) ⟨.inl ⟨by decide +kernel, rfl, rfl, rfl⟩, by decide +kernel, 0, by decide +kernel⟩⟩,
    ⟨lab, (cOf lab), (.v 118), (.v 18), 20, (.rinvh (.v 118) (.v 18) 20), labCr, .inr rfl, canTrap_of (by decide +kernel), gate_of (by decide +kernel), by decide +kernel⟩⟩

/-- The premises of HandlesAndInvocations. -/
theorem test_premises_HandlesAndInvocations :
    (∃ (s : State), ∃ (c : Ctx), ∃ (tr : Bool), ∃ (d : Dst), ∃ (a : Nat), ∃ (b : Nat), Issues s (.hwait tr d a b) c ∧ let w := s.m.v64 c a c.leader; handleOf w.toNat = none) ∧
    (∃ (s : State), ∃ (c : Ctx), ∃ (tr : Bool), ∃ (d : Dst), ∃ (a : Nat), ∃ (b : Nat), Issues s (.hwait tr d a b) c ∧ let w := s.m.v64 c a c.leader; ∃ h, handleOf w.toNat = some h ∧ h.home ≠ s.cfg.device.toNat) ∧
    (∃ (s : State), ∃ (c : Ctx), ∃ (tr : Bool), ∃ (d : Dst), ∃ (a : Nat), ∃ (b : Nat), Issues s (.hwait tr d a b) c ∧ let w := s.m.v64 c a c.leader; ∃ h, handleOf w.toNat = some h ∧ h.home = s.cfg.device.toNat ∧ homeEntry s.m c.la.p h = none) ∧
    (∃ (s : State), ∃ (c : Ctx), ∃ (tr : Bool), ∃ (d : Dst), ∃ (a : Nat), ∃ (b : Nat), Issues s (.hwait tr d a b) c ∧ let w := s.m.v64 c a c.leader; ∃ h, ∃ e, handleOf w.toNat = some h ∧ h.home = s.cfg.device.toNat ∧ homeEntry s.m c.la.p h = some e ∧ isFinal e.st = false) ∧
    (∃ (s : State), ∃ (c : Ctx), ∃ (tr : Bool), ∃ (d : Dst), ∃ (a : Nat), ∃ (b : Nat), Issues s (.hwait tr d a b) c ∧ let w := s.m.v64 c a c.leader; ∃ h, ∃ e, handleOf w.toNat = some h ∧ h.home = s.cfg.device.toNat ∧ homeEntry s.m c.la.p h = some e ∧ ∃ cause, ∃ dep, e.st = .broken cause dep ∧ tr = true) ∧
    (∃ (s : State), ∃ (c : Ctx), ∃ (tr : Bool), ∃ (d : Dst), ∃ (a : Nat), ∃ (b : Nat), Issues s (.hwait tr d a b) c ∧ let w := s.m.v64 c a c.leader; ∃ h, ∃ e, handleOf w.toNat = some h ∧ h.home = s.cfg.device.toNat ∧ homeEntry s.m c.la.p h = some e ∧ ∃ cause, ∃ dep, e.st = .broken cause dep ∧ tr = false) ∧
    (∃ (s : State), ∃ (c : Ctx), ∃ (tr : Bool), ∃ (d : Dst), ∃ (a : Nat), ∃ (b : Nat), Issues s (.hwait tr d a b) c ∧ let w := s.m.v64 c a c.leader; let dst := (s.m.v64 c b c.leader).toNat; ∃ h, ∃ e, handleOf w.toNat = some h ∧ h.home = s.cfg.device.toNat ∧ homeEntry s.m c.la.p h = some e ∧ ∃ res, e.st = .done res ∧ (dst = 0 ∨ res = [])) ∧
    (∃ (s : State), ∃ (c : Ctx), ∃ (tr : Bool), ∃ (d : Dst), ∃ (a : Nat), ∃ (b : Nat), Issues s (.hwait tr d a b) c ∧ let w := s.m.v64 c a c.leader; let dst := (s.m.v64 c b c.leader).toNat; ∃ h, ∃ e, handleOf w.toNat = some h ∧ h.home = s.cfg.device.toNat ∧ homeEntry s.m c.la.p h = some e ∧ ∃ res, ∃ ps, ∃ m, e.st = .done res ∧ dst ≠ 0 ∧ res ≠ [] ∧ Placed s c false .write false (spanReqs c.leader dst res.length dst) ps m) ∧
    (∃ (s : State), ∃ (c : Ctx), ∃ (d : Dst), ∃ (a : Nat), Issues s (.hstat d a) c ∧ handleOf (s.m.v64 c a c.leader).toNat = none) ∧
    (∃ (s : State), ∃ (c : Ctx), ∃ (d : Dst), ∃ (a : Nat), Issues s (.hstat d a) c ∧ ∃ h, handleOf (s.m.v64 c a c.leader).toNat = some h ∧ h.home ≠ s.cfg.device.toNat) ∧
    (∃ (s : State), ∃ (c : Ctx), ∃ (d : Dst), ∃ (a : Nat), Issues s (.hstat d a) c ∧ ∃ h, ∃ e, handleOf (s.m.v64 c a c.leader).toNat = some h ∧ h.home = s.cfg.device.toNat ∧ homeEntry s.m c.la.p h = some e) ∧
    (∃ (s : State), ∃ (c : Ctx), ∃ (a : Nat), Issues s (.hfree a) c ∧ handleOf (s.m.v64 c a c.leader).toNat = none) ∧
    (∃ (s : State), ∃ (c : Ctx), ∃ (a : Nat), Issues s (.hfree a) c ∧ ∃ h, handleOf (s.m.v64 c a c.leader).toNat = some h ∧ h.home ≠ s.cfg.device.toNat) ∧
    (∃ (s : State), ∃ (c : Ctx), ∃ (a : Nat), Issues s (.hfree a) c ∧ ∃ h, ∃ e, handleOf (s.m.v64 c a c.leader).toNat = some h ∧ h.home = s.cfg.device.toNat ∧ homeEntry s.m c.la.p h = some e) ∧
    (∃ (s : State), ∃ (c : Ctx), ∃ (d : Dst), ∃ (a : Src), ∃ (b : Src), Issues s (.iwait d a b) c ∧ c.g.held ≠ none) ∧
    (∃ (s : State), ∃ (c : Ctx), ∃ (d : Dst), ∃ (a : Src), ∃ (b : Src), Issues s (.iwait d a b) c ∧ ∃ cr, c.g.held = none ∧ (s.m.srcL c a).toNat % 64 ≠ 0 ∧ CanTrap s c cr) ∧
    (∃ (s : State), ∃ (c : Ctx), ∃ (d : Dst), ∃ (a : Src), ∃ (b : Src), Issues s (.iwait d a b) c ∧ ∃ ps, ∃ m, c.g.held = none ∧ (s.m.srcL c a).toNat % 64 = 0 ∧ Placed s c true .write false (cmdReqs s.m c a 576) ps m ∧ let sv := (s.m.srcL c b).toNat % 256; m.oldestInv c.la.p sv = none) ∧
    (∃ (s : State), ∃ (c : Ctx), ∃ (d : Dst), ∃ (a : Src), ∃ (b : Src), Issues s (.iwait d a b) c ∧ ∃ ps, ∃ m, c.g.held = none ∧ (s.m.srcL c a).toNat % 64 = 0 ∧ Placed s c true .write false (cmdReqs s.m c a 576) ps m ∧ let sv := (s.m.srcL c b).toNat % 256; ∃ q, m.oldestInv c.la.p sv = some q) ∧
    (∃ (s : State), ∃ (c : Ctx), ∃ (fail : Bool), ∃ (a : Src), ∃ (b : Src), Issues s (.idone fail a b) c ∧ c.g.held = none) ∧
    (∃ (s : State), ∃ (c : Ctx), ∃ (a : Src), ∃ (b : Src), ∃ (e : Nat), Issues s (.idone true a b) c ∧ c.g.held = some e) ∧
    (∃ (s : State), ∃ (c : Ctx), ∃ (a : Src), ∃ (b : Src), ∃ (e : Nat), Issues s (.idone false a b) c ∧ c.g.held = some e ∧ let n := (s.m.srcL c b).toNat; 256 < n) ∧
    (∃ (s : State), ∃ (c : Ctx), ∃ (a : Src), ∃ (b : Src), ∃ (e : Nat), Issues s (.idone false a b) c ∧ c.g.held = some e ∧ let x := (s.m.srcL c a).toNat; let n := (s.m.srcL c b).toNat; ∃ cr, n ≤ 256 ∧ x % 16 ≠ 0 ∧ CanTrap s c cr) ∧
    (∃ (s : State), ∃ (c : Ctx), ∃ (a : Src), ∃ (b : Src), ∃ (e : Nat), Issues s (.idone false a b) c ∧ c.g.held = some e ∧ let x := (s.m.srcL c a).toNat; let n := (s.m.srcL c b).toNat; ∃ ps, ∃ m, n ≤ 256 ∧ x % 16 = 0 ∧ Placed s c true .read true (spanReqs c.leader x n x) ps m ∧ let ws := m.drainWids c .sys; ws ≠ []) ∧
    (∃ (s : State), ∃ (c : Ctx), ∃ (a : Src), ∃ (b : Src), ∃ (e : Nat), Issues s (.idone false a b) c ∧ c.g.held = some e ∧ let x := (s.m.srcL c a).toNat; let n := (s.m.srcL c b).toNat; ∃ ps, ∃ m, n ≤ 256 ∧ x % 16 = 0 ∧ Placed s c true .read true (spanReqs c.leader x n x) ps m ∧ let ws := m.drainWids c .sys; ws = []) :=
  ⟨⟨lab, (cOf lab), true, (.v 118), 0, 0, issues_of (by decide +kernel), by decide +kernel⟩,
    ⟨lab, (cOf lab), true, (.v 118), 22, 0, issues_of (by decide +kernel), ⟨7, 0, 0⟩, by decide +kernel⟩,
    ⟨lab, (cOf lab), true, (.v 118), 20, 0, issues_of (by decide +kernel), ⟨0, 3, 5⟩, by decide +kernel⟩,
    ⟨(labH .pending), (cOf (labH .pending)), true, (.v 118), 20, 0, issues_of (by decide +kernel), ⟨0, 3, 5⟩, (labEnt .pending), by decide +kernel⟩,
    ⟨(labH (.broken 255 255)), (cOf (labH (.broken 255 255))), true, (.v 118), 20, 0, issues_of (by decide +kernel), ⟨0, 3, 5⟩, (labEnt (.broken 255 255)), and3 (by decide +kernel) ⟨255, 255, by decide +kernel⟩⟩,
    ⟨(labH (.broken 255 255)), (cOf (labH (.broken 255 255))), false, (.v 118), 20, 0, issues_of (by decide +kernel), ⟨0, 3, 5⟩, (labEnt (.broken 255 255)), and3 (by decide +kernel) ⟨255, 255, by decide +kernel⟩⟩,
    ⟨(labH (.done [1])), (cOf (labH (.done [1]))), true, (.v 118), 20, 0, issues_of (by decide +kernel), ⟨0, 3, 5⟩, (labEnt (.done [1])), and3 (by decide +kernel) ⟨[1], by decide +kernel⟩⟩,
    ⟨(labH (.done (List.replicate 256 1))), (cOf (labH (.done (List.replicate 256 1)))), true, (.v 118), 20, 2, issues_of (by decide +kernel), ⟨0, 3, 5⟩, (labEnt (.done (List.replicate 256 1))), and3 (by decide +kernel) ⟨(List.replicate 256 1), (placesOf (labH (.done (List.replicate 256 1))) false .write false (spanReqs (cOf (labH (.done (List.replicate 256 1)))).leader ((labH (.done (List.replicate 256 1))).m.v64 (cOf (labH (.done (List.replicate 256 1)))) 2 (cOf (labH (.done (List.replicate 256 1)))).leader).toNat (List.replicate 256 (1 : Byte)).length ((labH (.done (List.replicate 256 1))).m.v64 (cOf (labH (.done (List.replicate 256 1)))) 2 (cOf (labH (.done (List.replicate 256 1)))).leader).toNat)), (machOf (labH (.done (List.replicate 256 1))) false .write false (spanReqs (cOf (labH (.done (List.replicate 256 1)))).leader ((labH (.done (List.replicate 256 1))).m.v64 (cOf (labH (.done (List.replicate 256 1)))) 2 (cOf (labH (.done (List.replicate 256 1)))).leader).toNat (List.replicate 256 (1 : Byte)).length ((labH (.done (List.replicate 256 1))).m.v64 (cOf (labH (.done (List.replicate 256 1)))) 2 (cOf (labH (.done (List.replicate 256 1)))).leader).toNat)), and3 (by decide +kernel) (placed_of (by decide +kernel))⟩⟩,
    ⟨lab, (cOf lab), (.v 118), 0, issues_of (by decide +kernel), by decide +kernel⟩,
    ⟨lab, (cOf lab), (.v 118), 22, issues_of (by decide +kernel), ⟨7, 0, 0⟩, by decide +kernel⟩,
    ⟨(labH (.done [1])), (cOf (labH (.done [1]))), (.v 118), 20, issues_of (by decide +kernel), ⟨0, 3, 5⟩, (labEnt (.done [1])), by decide +kernel⟩,
    ⟨lab, (cOf lab), 0, issues_of (by decide +kernel), by decide +kernel⟩,
    ⟨lab, (cOf lab), 22, issues_of (by decide +kernel), ⟨7, 0, 0⟩, by decide +kernel⟩,
    ⟨(labH .pending), (cOf (labH .pending)), 20, issues_of (by decide +kernel), ⟨0, 3, 5⟩, (labEnt .pending), by decide +kernel⟩,
    ⟨(labG (fun g => { g with held := some 16383 })), (cOf (labG (fun g => { g with held := some 16383 }))), (.v 118), (.v 4), (.v 0), issues_of (by decide +kernel), by decide +kernel⟩,
    ⟨lab, (cOf lab), (.v 118), (.v 8), (.v 18), issues_of (by decide +kernel), labCr, by decide +kernel, by decide +kernel, canTrap_of (by decide +kernel)⟩,
    ⟨lab, (cOf lab), (.v 118), (.v 4), (.v 18), issues_of (by decide +kernel), (placesOf lab true .write false (cmdReqs lab.m (cOf lab) (.v 4) 576)), (machOf lab true .write false (cmdReqs lab.m (cOf lab) (.v 4) 576)), by decide +kernel, by decide +kernel, placed_of (by decide +kernel), by decide +kernel⟩,
    ⟨labServe, (cOf labServe), (.v 118), (.v 4), (.v 18), issues_of (by decide +kernel), (placesOf labServe true .write false (cmdReqs labServe.m (cOf labServe) (.v 4) 576)), (machOf labServe true .write false (cmdReqs labServe.m (cOf labServe) (.v 4) 576)), by decide +kernel, by decide +kernel, placed_of (by decide +kernel), labInvQ, by decide +kernel⟩,
    ⟨lab, (cOf lab), true, (.v 119), (.v 0), issues_of (by decide +kernel), by decide +kernel⟩,
    ⟨(labG (fun g => { g with held := some 16383 })), (cOf (labG (fun g => { g with held := some 16383 }))), (.v 119), (.v 0), 16383, issues_of (by decide +kernel), by decide +kernel⟩,
    ⟨(labG (fun g => { g with held := some 16383 })), (cOf (labG (fun g => { g with held := some 16383 }))), (.v 4), (.v 18), 16383, issues_of (by decide +kernel), by decide +kernel⟩,
    ⟨(labG (fun g => { g with held := some 16383 })), (cOf (labG (fun g => { g with held := some 16383 }))), (.v 8), (.v 24), 16383, issues_of (by decide +kernel), by decide +kernel, labCr, by decide +kernel, by decide +kernel, canTrap_of (by decide +kernel)⟩,
    ⟨(labAway (labG (fun g => { g with held := some 16383 }))), (cOf (labAway (labG (fun g => { g with held := some 16383 })))), (.v 4), (.v 24), 16383, issues_of (by decide +kernel), by decide +kernel, (placesOf (labAway (labG (fun g => { g with held := some 16383 }))) true .read true (spanReqs (cOf (labAway (labG (fun g => { g with held := some 16383 })))).leader ((labAway (labG (fun g => { g with held := some 16383 }))).m.srcL (cOf (labAway (labG (fun g => { g with held := some 16383 })))) (.v 4)).toNat ((labAway (labG (fun g => { g with held := some 16383 }))).m.srcL (cOf (labAway (labG (fun g => { g with held := some 16383 })))) (.v 24)).toNat ((labAway (labG (fun g => { g with held := some 16383 }))).m.srcL (cOf (labAway (labG (fun g => { g with held := some 16383 })))) (.v 4)).toNat)), (machOf (labAway (labG (fun g => { g with held := some 16383 }))) true .read true (spanReqs (cOf (labAway (labG (fun g => { g with held := some 16383 })))).leader ((labAway (labG (fun g => { g with held := some 16383 }))).m.srcL (cOf (labAway (labG (fun g => { g with held := some 16383 })))) (.v 4)).toNat ((labAway (labG (fun g => { g with held := some 16383 }))).m.srcL (cOf (labAway (labG (fun g => { g with held := some 16383 })))) (.v 24)).toNat ((labAway (labG (fun g => { g with held := some 16383 }))).m.srcL (cOf (labAway (labG (fun g => { g with held := some 16383 })))) (.v 4)).toNat)), by decide +kernel, by decide +kernel, placed_of (by decide +kernel), by decide +kernel⟩,
    ⟨(labG (fun g => { g with held := some 16383 })), (cOf (labG (fun g => { g with held := some 16383 }))), (.v 4), (.v 24), 16383, issues_of (by decide +kernel), by decide +kernel, (placesOf (labG (fun g => { g with held := some 16383 })) true .read true (spanReqs (cOf (labG (fun g => { g with held := some 16383 }))).leader ((labG (fun g => { g with held := some 16383 })).m.srcL (cOf (labG (fun g => { g with held := some 16383 }))) (.v 4)).toNat ((labG (fun g => { g with held := some 16383 })).m.srcL (cOf (labG (fun g => { g with held := some 16383 }))) (.v 24)).toNat ((labG (fun g => { g with held := some 16383 })).m.srcL (cOf (labG (fun g => { g with held := some 16383 }))) (.v 4)).toNat)), (machOf (labG (fun g => { g with held := some 16383 })) true .read true (spanReqs (cOf (labG (fun g => { g with held := some 16383 }))).leader ((labG (fun g => { g with held := some 16383 })).m.srcL (cOf (labG (fun g => { g with held := some 16383 }))) (.v 4)).toNat ((labG (fun g => { g with held := some 16383 })).m.srcL (cOf (labG (fun g => { g with held := some 16383 }))) (.v 24)).toNat ((labG (fun g => { g with held := some 16383 })).m.srcL (cOf (labG (fun g => { g with held := some 16383 }))) (.v 4)).toNat)), by decide +kernel, by decide +kernel, placed_of (by decide +kernel), by decide +kernel⟩⟩

/-- The premises of PlaneWindows. -/
theorem test_premises_PlaneWindows :
    (∃ (s : State), ∃ (c : Ctx), ∃ (k : Nat), ∃ (rg : Region), rg.calm s c k ∧ Issues s (.wopen k) c ∧ let dep := c.f.depths.getD k 0; dep < 15 ∧ (dep ≠ 0 ∨ (rg.stg = false ∧ rg.pass = false))) ∧
    (∃ (s : State), ∃ (c : Ctx), ∃ (k : Nat), ∃ (rg : Region), rg.calm s c k ∧ Issues s (.wopen k) c ∧ let dep := c.f.depths.getD k 0; dep = 0 ∧ (rg.stg = true ∨ rg.pass = true)) ∧
    (∃ (s : State), ∃ (c : Ctx), ∃ (k : Nat), ∃ (rg : Region), rg.calm s c k ∧ Issues s (.wopen k) c ∧ let dep := c.f.depths.getD k 0; 15 ≤ dep ∧ ∃ cr, CanTrap s c cr) ∧
    (∃ (s : State), ∃ (c : Ctx), ∃ (k : Nat), ∃ (rg : Region), rg.calm s c k ∧ Issues s (.wclose k) c ∧ let dep := c.f.depths.getD k 0; dep ≠ 0) ∧
    (∃ (s : State), ∃ (c : Ctx), ∃ (k : Nat), ∃ (rg : Region), rg.calm s c k ∧ Issues s (.wclose k) c ∧ let dep := c.f.depths.getD k 0; dep = 0 ∧ ∃ cr, CanTrap s c cr) ∧
    (∃ (s : State), ∃ (c : Ctx), ∃ (d : Dst), ∃ (k : Nat), ∃ (rg : Region), rg.calm s c k ∧ Issues s (.pmerge d k) c ∧ c.f.depths.getD k 0 = 0 ∧ rg.stg = false ∧ rg.pass = false) ∧
    (∃ (s : State), ∃ (c : Ctx), ∃ (d : Dst), ∃ (k : Nat), ∃ (rg : Region), rg.calm s c k ∧ Issues s (.pmerge d k) c ∧ c.f.depths.getD k 0 = 0 ∧ (rg.stg = true ∨ rg.pass = true)) ∧
    (∃ (s : State), ∃ (c : Ctx), ∃ (d : Dst), ∃ (a : Src), ∃ (k : Nat), ∃ (rg : Region), ∃ (bs : List Byte), ∃ (m : Mach), nbit c.rc.regmask k = true ∧ s.m.regionOf c.la.p c.la.x k = some rg ∧ Issues s (.pstat d a k) c ∧ let f := (s.m.srcL c a).toNat; ((if f < rg.nf then agentRead1 s.cfg s.m c.leaf (.agent (rg.dieOf f) .batten) rg.p rg.x .home (rg.staging f) 16 = (.ok bs, m) else bs = List.replicate 16 0 ∧ m = s.m))) ∧
    (∃ (s : State), ∃ (c : Ctx), ∃ (d : Dst), ∃ (a : Src), ∃ (k : Nat), ∃ (rg : Region), ∃ (m : Mach), nbit c.rc.regmask k = true ∧ s.m.regionOf c.la.p c.la.x k = some rg ∧ Issues s (.pstat d a k) c ∧ (s.m.srcL c a).toNat < rg.nf ∧ let r := agentRead1 s.cfg s.m c.leaf (.agent (rg.dieOf (s.m.srcL c a).toNat) .batten) rg.p rg.x .home (rg.staging (s.m.srcL c a).toNat) 16; ∃ u, r = (.poison u, m)) ∧
    (∃ (s : State), ∃ (c : Ctx), ∃ (d : Dst), ∃ (a : Src), ∃ (k : Nat), ∃ (rg : Region), ∃ (m : Mach), nbit c.rc.regmask k = true ∧ s.m.regionOf c.la.p c.la.x k = some rg ∧ Issues s (.pstat d a k) c ∧ (s.m.srcL c a).toNat < rg.nf ∧ let r := agentRead1 s.cfg s.m c.leaf (.agent (rg.dieOf (s.m.srcL c a).toNat) .batten) rg.p rg.x .home (rg.staging (s.m.srcL c a).toNat) 16; r = (.wait, m)) ∧
    (∃ (s : State), ∃ (c : Ctx), ∃ (d : Dst), ∃ (a : Src), ∃ (k : Nat), ∃ (rg : Region), nbit c.rc.regmask k = true ∧ s.m.regionOf c.la.p c.la.x k = some rg ∧ Issues s (.ptrick d a k) c) ∧
    (∃ (s : State), ∃ (c : Ctx), ∃ (d : Dst), ∃ (k : Nat), ∃ (rg : Region), rg.calm s c k ∧ Issues s (.dchk d k) c) ∧
    (∃ (s : State), ∃ (c : Ctx), ∃ (cr : CtxRec), CanTrap s c cr ∧ ∃ (k : Nat), gate s.m c (.wopen k) = .pass ∧ (nbit c.rc.regmask k = false ∨ s.m.regionOf c.la.p c.la.x k = none)) ∧
    (∃ (s : State), ∃ (c : Ctx), ∃ (cr : CtxRec), CanTrap s c cr ∧ ∃ (k : Nat), gate s.m c (.wclose k) = .pass ∧ (nbit c.rc.regmask k = false ∨ s.m.regionOf c.la.p c.la.x k = none)) ∧
    (∃ (s : State), ∃ (c : Ctx), ∃ (cr : CtxRec), CanTrap s c cr ∧ ∃ (d : Dst), ∃ (k : Nat), gate s.m c (.pmerge d k) = .pass ∧ (nbit c.rc.regmask k = false ∨ s.m.regionOf c.la.p c.la.x k = none)) ∧
    (∃ (s : State), ∃ (c : Ctx), ∃ (cr : CtxRec), CanTrap s c cr ∧ ∃ (d : Dst), ∃ (a : Src), ∃ (k : Nat), gate s.m c (.pstat d a k) = .pass ∧ (nbit c.rc.regmask k = false ∨ s.m.regionOf c.la.p c.la.x k = none)) ∧
    (∃ (s : State), ∃ (c : Ctx), ∃ (cr : CtxRec), CanTrap s c cr ∧ ∃ (d : Dst), ∃ (a : Src), ∃ (k : Nat), gate s.m c (.ptrick d a k) = .pass ∧ (nbit c.rc.regmask k = false ∨ s.m.regionOf c.la.p c.la.x k = none)) ∧
    (∃ (s : State), ∃ (c : Ctx), ∃ (cr : CtxRec), CanTrap s c cr ∧ ∃ (d : Dst), ∃ (k : Nat), gate s.m c (.dchk d k) = .pass ∧ (nbit c.rc.regmask k = false ∨ s.m.regionOf c.la.p c.la.x k = none)) ∧
    (∃ (s : State), ∃ (c : Ctx), ∃ (cr : CtxRec), CanTrap s c cr ∧ ∃ (k : Nat), ∃ (rg : Region), gate s.m c (.wopen k) = .pass ∧ nbit c.rc.regmask k = true ∧ s.m.regionOf c.la.p c.la.x k = some rg ∧ rg.norm = true) ∧
    (∃ (s : State), ∃ (c : Ctx), ∃ (cr : CtxRec), CanTrap s c cr ∧ ∃ (k : Nat), ∃ (rg : Region), gate s.m c (.wopen k) = .pass ∧ nbit c.rc.regmask k = true ∧ s.m.regionOf c.la.p c.la.x k = some rg ∧ ∃ x, ∃ f, ∃ rest, rg.norm = false ∧ rg.silent = (x, f) :: rest) ∧
    (∃ (s : State), ∃ (c : Ctx), ∃ (cr : CtxRec), CanTrap s c cr ∧ ∃ (k : Nat), ∃ (rg : Region), gate s.m c (.wclose k) = .pass ∧ nbit c.rc.regmask k = true ∧ s.m.regionOf c.la.p c.la.x k = some rg ∧ rg.norm = true) ∧
    (∃ (s : State), ∃ (c : Ctx), ∃ (cr : CtxRec), CanTrap s c cr ∧ ∃ (k : Nat), ∃ (rg : Region), gate s.m c (.wclose k) = .pass ∧ nbit c.rc.regmask k = true ∧ s.m.regionOf c.la.p c.la.x k = some rg ∧ ∃ x, ∃ f, ∃ rest, rg.norm = false ∧ rg.silent = (x, f) :: rest) ∧
    (∃ (s : State), ∃ (c : Ctx), ∃ (cr : CtxRec), CanTrap s c cr ∧ ∃ (d : Dst), ∃ (k : Nat), ∃ (rg : Region), gate s.m c (.pmerge d k) = .pass ∧ nbit c.rc.regmask k = true ∧ s.m.regionOf c.la.p c.la.x k = some rg ∧ rg.norm = true) ∧
    (∃ (s : State), ∃ (c : Ctx), ∃ (cr : CtxRec), CanTrap s c cr ∧ ∃ (d : Dst), ∃ (k : Nat), ∃ (rg : Region), gate s.m c (.pmerge d k) = .pass ∧ nbit c.rc.regmask k = true ∧ s.m.regionOf c.la.p c.la.x k = some rg ∧ ∃ x, ∃ f, ∃ rest, rg.norm = false ∧ rg.silent = (x, f) :: rest) ∧
    (∃ (s : State), ∃ (c : Ctx), ∃ (cr : CtxRec), CanTrap s c cr ∧ ∃ (d : Dst), ∃ (k : Nat), ∃ (rg : Region), gate s.m c (.dchk d k) = .pass ∧ nbit c.rc.regmask k = true ∧ s.m.regionOf c.la.p c.la.x k = some rg ∧ rg.norm = true) ∧
    (∃ (s : State), ∃ (c : Ctx), ∃ (cr : CtxRec), CanTrap s c cr ∧ ∃ (d : Dst), ∃ (k : Nat), ∃ (rg : Region), gate s.m c (.dchk d k) = .pass ∧ nbit c.rc.regmask k = true ∧ s.m.regionOf c.la.p c.la.x k = some rg ∧ ∃ x, ∃ f, ∃ rest, rg.norm = false ∧ rg.silent = (x, f) :: rest) :=
  ⟨⟨(labWith (fun m => { m with regions := [labRg] })), (cOf (labWith (fun m => { m with regions := [labRg] }))), 7, labRg, calm_of (by decide +kernel) (by decide +kernel) rfl rfl, issues_of (by decide +kernel), by decide +kernel⟩,
    ⟨(labWith (fun m => { m with regions := [labRgStg] })), (cOf (labWith (fun m => { m with regions := [labRgStg] }))), 7, labRgStg, calm_of (by decide +kernel) (by decide +kernel) rfl rfl, issues_of (by decide +kernel), by decide +kernel⟩,
    ⟨(labWith (fun m => { (m.updFibre ⟨1, 0, 0⟩ (fun f => { f with depths := List.replicate 7 0 ++ [15] })) with regions := [labRg] })), (cOf (labWith (fun m => { (m.updFibre ⟨1, 0, 0⟩ (fun f => { f with depths := List.replicate 7 0 ++ [15] })) with regions := [labRg] }))), 7, labRg, calm_of (by decide +kernel) (by decide +kernel) rfl rfl, issues_of (by decide +kernel), by decide +kernel, labCr, canTrap_of (by decide +kernel)⟩,
    ⟨(labWith (fun m => { (m.updFibre ⟨1, 0, 0⟩ (fun f => { f with depths := List.replicate 7 0 ++ [1] })) with regions := [labRg] })), (cOf (labWith (fun m => { (m.updFibre ⟨1, 0, 0⟩ (fun f => { f with depths := List.replicate 7 0 ++ [1] })) with regions := [labRg] }))), 7, labRg, calm_of (by decide +kernel) (by decide +kernel) rfl rfl, issues_of (by decide +kernel), by decide +kernel⟩,
    ⟨(labWith (fun m => { m with regions := [labRg] })), (cOf (labWith (fun m => { m with regions := [labRg] }))), 7, labRg, calm_of (by decide +kernel) (by decide +kernel) rfl rfl, issues_of (by decide +kernel), by decide +kernel, labCr, canTrap_of (by decide +kernel)⟩,
    ⟨(labWith (fun m => { m with regions := [labRg] })), (cOf (labWith (fun m => { m with regions := [labRg] }))), (.v 119), 7, labRg, calm_of (by decide +kernel) (by decide +kernel) rfl rfl, issues_of (by decide +kernel), by decide +kernel⟩,
    ⟨(labWith (fun m => { m with regions := [labRgStg] })), (cOf (labWith (fun m => { m with regions := [labRgStg] }))), (.v 119), 7, labRgStg, calm_of (by decide +kernel) (by decide +kernel) rfl rfl, issues_of (by decide +kernel), by decide +kernel⟩,
    ⟨(labWith (fun m => { m with regions := [labRg] })), (cOf (labWith (fun m => { m with regions := [labRg] }))), (.v 116), (.v 0), 7, labRg, (List.replicate 16 0), (labWith (fun m => { m with regions := [labRg] })).m, by decide +kernel, by decide +kernel, issues_of (by decide +kernel), by rw [if_neg (by decide +kernel)]; exact ⟨rfl, rfl⟩⟩,
    ⟨(labBad labRgn), (cOf (labBad labRgn)), (.v 119), (.v 0), 7, labRgn, (agentRead1 (labBad labRgn).cfg (labBad labRgn).m (cOf (labBad labRgn)).leaf (.agent (labRgn.dieOf ((labBad labRgn).m.srcL (cOf (labBad labRgn)) (.v 0)).toNat) .batten) labRgn.p labRgn.x .home (labRgn.staging ((labBad labRgn).m.srcL (cOf (labBad labRgn)) (.v 0)).toNat) 16).2, by decide +kernel, by decide +kernel, issues_of (by decide +kernel), by decide +kernel, 8192, pair_of (by decide +kernel)⟩,
    ⟨(labRgsNo labRgn), (cOf (labRgsNo labRgn)), (.v 119), (.v 0), 7, labRgn, (agentRead1 (labRgsNo labRgn).cfg (labRgsNo labRgn).m (cOf (labRgsNo labRgn)).leaf (.agent (labRgn.dieOf ((labRgsNo labRgn).m.srcL (cOf (labRgsNo labRgn)) (.v 0)).toNat) .batten) labRgn.p labRgn.x .home (labRgn.staging ((labRgsNo labRgn).m.srcL (cOf (labRgsNo labRgn)) (.v 0)).toNat) 16).2, by decide +kernel, by decide +kernel, issues_of (by decide +kernel), by decide +kernel, pair_of (by decide +kernel)⟩,
    ⟨(labWith (fun m => { m with regions := [labRg] })), (cOf (labWith (fun m => { m with regions := [labRg] }))), (.v 119), (.lat 7), 7, labRg, by decide +kernel, by decide +kernel, issues_of (by decide +kernel)⟩,
    ⟨(labWith (fun m => { m with regions := [labRg] })), (cOf (labWith (fun m => { m with regions := [labRg] }))), (.v 118), 7, labRg, calm_of (by decide +kernel) (by decide +kernel) rfl rfl, issues_of (by decide +kernel)⟩,
    ⟨lab, (cOf lab), labCr, canTrap_of (by decide +kernel), 7, gate_of (by decide +kernel), by decide +kernel⟩,
    ⟨lab, (cOf lab), labCr, canTrap_of (by decide +kernel), 7, gate_of (by decide +kernel), by decide +kernel⟩,
    ⟨lab, (cOf lab), labCr, canTrap_of (by decide +kernel), (.v 119), 7, gate_of (by decide +kernel), by decide +kernel⟩,
    ⟨lab, (cOf lab), labCr, canTrap_of (by decide +kernel), (.v 116), (.v 0), 7, gate_of (by decide +kernel), by decide +kernel⟩,
    ⟨lab, (cOf lab), labCr, canTrap_of (by decide +kernel), (.v 119), (.v 0), 7, gate_of (by decide +kernel), by decide +kernel⟩,
    ⟨lab, (cOf lab), labCr, canTrap_of (by decide +kernel), (.v 118), 7, gate_of (by decide +kernel), by decide +kernel⟩,
    ⟨(labWith (fun m => { m with regions := [{ labRg with norm := true }] })), (cOf (labWith (fun m => { m with regions := [{ labRg with norm := true }] }))), labCr, canTrap_of (by decide +kernel), 7, { labRg with norm := true }, gate_of (by decide +kernel), by decide +kernel⟩,
    ⟨(labWith (fun m => { m with regions := [{ labRg with silent := [(3, 4)] }] })), (cOf (labWith (fun m => { m with regions := [{ labRg with silent := [(3, 4)] }] }))), labCr, canTrap_of (by decide +kernel), 7, { labRg with silent := [(3, 4)] }, gate_of (by decide +kernel), by decide +kernel, by decide +kernel, 3, 4, [], by decide +kernel⟩,
    ⟨(labWith (fun m => { m with regions := [{ labRg with norm := true }] })), (cOf (labWith (fun m => { m with regions := [{ labRg with norm := true }] }))), labCr, canTrap_of (by decide +kernel), 7, { labRg with norm := true }, gate_of (by decide +kernel), by decide +kernel⟩,
    ⟨(labWith (fun m => { m with regions := [{ labRg with silent := [(3, 4)] }] })), (cOf (labWith (fun m => { m with regions := [{ labRg with silent := [(3, 4)] }] }))), labCr, canTrap_of (by decide +kernel), 7, { labRg with silent := [(3, 4)] }, gate_of (by decide +kernel), by decide +kernel, by decide +kernel, 3, 4, [], by decide +kernel⟩,
    ⟨(labWith (fun m => { m with regions := [{ labRg with norm := true }] })), (cOf (labWith (fun m => { m with regions := [{ labRg with norm := true }] }))), labCr, canTrap_of (by decide +kernel), (.v 119), 7, { labRg with norm := true }, gate_of (by decide +kernel), by decide +kernel⟩,
    ⟨(labWith (fun m => { m with regions := [{ labRg with silent := [(3, 4)] }] })), (cOf (labWith (fun m => { m with regions := [{ labRg with silent := [(3, 4)] }] }))), labCr, canTrap_of (by decide +kernel), (.v 119), 7, { labRg with silent := [(3, 4)] }, gate_of (by decide +kernel), by decide +kernel, by decide +kernel, 3, 4, [], by decide +kernel⟩,
    ⟨(labWith (fun m => { m with regions := [{ labRg with norm := true }] })), (cOf (labWith (fun m => { m with regions := [{ labRg with norm := true }] }))), labCr, canTrap_of (by decide +kernel), (.v 118), 7, { labRg with norm := true }, gate_of (by decide +kernel), by decide +kernel⟩,
    ⟨(labWith (fun m => { m with regions := [{ labRg with silent := [(3, 4)] }] })), (cOf (labWith (fun m => { m with regions := [{ labRg with silent := [(3, 4)] }] }))), labCr, canTrap_of (by decide +kernel), (.v 118), 7, { labRg with silent := [(3, 4)] }, gate_of (by decide +kernel), by decide +kernel, by decide +kernel, 3, 4, [], by decide +kernel⟩⟩

end Sys2Proof.Tests
end

