-- ==== Sys2Proof/Tests/Steps.lean ====
section
/-! SUPPORT. States and operands that meet the premises of the statements about ordering, waits and scheduling. -/
set_option Elab.async false
namespace Sys2Proof.Tests
open Sys2Proof Sys2Proof.Machine

/-- The lab's fibre waiting in an instruction for a reason. -/
def labW (i : Instr) (why : Why) (n : Nat) : State := labF (fun f => { f with wait := some ⟨i, why, n⟩ })
/-- The places a fibre in LDFE or LDFET waits for. -/
def grPlaces (s : State) : List (Req × Place) := match waitedGranules s.m (cOf s) with
  | some x => x.2.2.2.2
  | none => []
theorem granules_of {s : State} {sz : Size} {sc : Scope} {d : Nat} {e : Bool} (h : (match waitedGranules s.m (cOf s) with
    | some x => decide (x.1 = sz ∧ x.2.1 = sc ∧ x.2.2.1 = d ∧ x.2.2.2.1 = e)
    | none => false) = true) : waitedGranules s.m (cOf s) = some (sz, sc, d, e, grPlaces s) := by
  unfold grPlaces
  split at h
  · next x hx =>
    obtain ⟨rfl, rfl, rfl, rfl⟩ := of_decide_eq_true h
    rw [hx]
  · simp at h

theorem cons_of {α : Type} {l : List α} {d : α} (h : l.isEmpty = false) : l = l.headD d :: l.tail := by
  cases l
  · simp at h
  · rfl

/-- The lab with four levels of tables that map virtual page 2, and misses of pages 2 and 3. -/
def labWalk : State :=
  let cf := { lab.cfg with parts := [{ probePart with twalk := [1, 1, 1, 1] }], ctxs := [{ labCr with root := 0x20001 }] }
  let put (m : Mach) (a : Nat) (e : DWord) : Mach := m.setEntry cf 0 0 a e
  ⟨cf, { put (put (put (put lab.m 0x20000 0x21003) 0x21000 0x22003) 0x22000 0x40003) 0x40010 0x3D with missq := [⟨0, 0, 0, 2⟩, ⟨0, 0, 0, 3⟩] }⟩
/-- The die's translation cache knows page 3. -/
def labShared : State := { labWalk with m := labWalk.m.tlbPut (.die 0) 0 0 3 ⟨0x3D, 0x40018, 16⟩ }
/-- A fibre that has waited the full limit in LDFET for a granule that is empty. -/
def labGran : State :=
  let s := labW (.ldfet .q .sys 116 (.v 4) 0) .granule 0
  { s with m := { s.m.setGranule 1 0x40 (false, 0xFFFE) with cyc := 1024, launches := s.m.launches.map (fun l => { l with rec_ := some { labRec with fek := 10 } }) } }
/-- The places of it whose granule is empty: the first, and the others. -/
def labEmptyQ : Req × Place := ((grPlaces labGran).filter (fun q => (granOfPlace q.2).any (fun g => !(labGran.m.granule g.1 g.2).1))).headD (⟨0, 0, 0, 0⟩, .fab 0 0)
def labEmptyR : List (Req × Place) := ((grPlaces labGran).filter (fun q => (granOfPlace q.2).any (fun g => !(labGran.m.granule g.1 g.2).1))).tail
theorem labEmpty_cons : (grPlaces labGran).filter (fun q => (granOfPlace q.2).any (fun g => !(labGran.m.granule g.1 g.2).1)) = labEmptyQ :: labEmptyR :=
  cons_of (by decide +kernel)
/-- A fibre that has waited its bound for a count. -/
def labBound : State := let s := labW (.cwaitt .clu .nw 14 16) (.count (some 1000) none) 0; { s with m := { s.m with cyc := 1000 } }
/-- A fibre that waits for region 1, with regions. -/
def labWR (i : Instr) (rg : List Region) : State := let s := labW i (.window 1) 0; { s with m := { s.m with regions := rg } }
/-- A fibre that waits for a handle. -/
def labHW (st : HState) : State := let s := labW (.hwait false (.v 118) 20 0) .handle 0; { s with m := { s.m with hents := [labEnt st] } }
/-- A fibre that waits for an invocation of service 232. -/
def labIW : State := let s := labW (.iwait (.v 118) (.v 4) (.v 18)) (.service 232) 0; { s with m := { s.m with invq := [labInvQ] } }
/-- The lab with its port free. -/
def labFree : State := labWith (fun m => { m.updFibre ⟨1, 0, 0⟩ (fun f => { f with run := false }) with ports := [] })
/-- Nine groups at a port, the last ready and pending. -/
def labNine : State := labWith (fun m => { m with
  groups := (List.range 9).map (fun g => { newGroup labRec 1 (4 * g) 0 with active := g < 7 }), fibres := [{ labC.f with ref := ⟨1, 32, 0⟩, run := false }] })
/-- A group with pending traps. -/
def labPend : State := labWith (fun m => { (labFree.m.updGroup 1 0 (fun g => { g with pend := [⟨0x14, 0, 0, none, true⟩, ⟨5, 0x28, 0, none, true⟩] })) with cyc := m.cyc })

/-- The premises of OrderingSteps. -/
theorem test_premises_OrderingSteps :
    (∃ (s : State), ∃ (w : Nat), ∃ (e : BufEnt), s.m.bufs.find? (fun x => x.w.wid == w) = some e ∧ ((∀ x ∈ s.m.bufs.takeWhile (fun x => x.w.wid != w), x.pt = e.pt → x.w.hits e.w.sp e.w.addr e.w.bytes.length = false))) ∧
    (∃ (s : State), ∃ (p : Point), ∃ (sp : Space), ∃ (u : Nat), ∃ (tag : Option KTag), ∃ (_away : List Byte), ((∃ k ∈ s.m.copies, k.pt = p ∧ k.sp = sp ∧ k.unit = u ∧ sameTag k.tag tag = true))) ∧
    (∃ (s : State), ∃ (r : FRef), ∃ (c : Ctx), ∃ (i : Instr), ∃ (blks : List Nat), ∃ (n : Nat), ctxOf s.m r = some c ∧ c.f.wait = some ⟨i, .missRoom blks, n⟩ ∧ (s.m.missq.filter (fun q => q.core == c.tm.core)).length + (blks.filter (fun b => !s.m.missq.contains ⟨c.tm.core, c.la.p, c.la.x, b⟩)).length ≤ 32) ∧
    (∃ (s : State), ∃ (core : Nat), ∃ (n : Nat), ∃ (q : Miss), ∃ (l : Leaf), (s.m.missq.filter (fun q => q.core == core))[n]? = some q ∧ s.m.tlbGet (.die (dieOfCore core)) q.p q.x q.vpn = some l) ∧
    (∃ (s : State), ∃ (core : Nat), ∃ (n : Nat), ∃ (q : Miss), ∃ (l : Leaf), (s.m.missq.filter (fun q => q.core == core))[n]? = some q ∧ s.m.tlbGet (.die (dieOfCore core)) q.p q.x q.vpn = none ∧ walkersOf s.cfg q.p (dieOfCore core) ≠ 0 ∧ walk s.cfg s.m q.p q.x (q.vpn * 65536) = .ok l) ∧
    (∃ (s : State), ∃ (core : Nat), ∃ (n : Nat), ∃ (q : Miss), ∃ (k : Nat), ∃ (sub : Nat), (s.m.missq.filter (fun q => q.core == core))[n]? = some q ∧ s.m.tlbGet (.die (dieOfCore core)) q.p q.x q.vpn = none ∧ walkersOf s.cfg q.p (dieOfCore core) ≠ 0 ∧ walk s.cfg s.m q.p q.x (q.vpn * 65536) = .bad k sub) ∧
    (∃ (s : State), ∃ (core : Nat), ∃ (n : Nat), ∃ (q : Miss), (s.m.missq.filter (fun q => q.core == core))[n]? = some q ∧ s.m.tlbGet (.die (dieOfCore core)) q.p q.x q.vpn = none ∧ walkersOf s.cfg q.p (dieOfCore core) = 0) ∧
    (∃ (s : State), ∃ (n : Nat), ∃ (o : Outst), s.m.outst.find? (fun o => o.id == n) = some o ∧ s.m.outstHeld o = false) ∧
    (∃ (s : State), ∃ (r : FRef), ∃ (c : Ctx), ∃ (i : Instr), ∃ (n : Nat), ∃ (sz : Size), ∃ (sc : Scope), ∃ (d : Nat), ∃ (empty : Bool), ∃ (ps : List (Req × Place)), s.m.waiting r = some (c, ⟨i, .granule, n⟩) ∧ waitedGranules s.m c = some (sz, sc, d, empty, ps) ∧ ((∀ g ∈ granules ps, (s.m.granule g.1 g.2).1 = true)) ∧ readsPoison (s.m.pushGranules c.leaf (granules ps)) none ps = false ∧ let x := takeGranules (s.m.pushGranules c.leaf (granules ps)) c sc empty ps; s.m.heldReg c (c.phys ((loadWrites sz d x.1).map Prod.fst)) = false) ∧
    (∃ (s : State), ∃ (r : FRef), ∃ (c : Ctx), ∃ (cr : CtxRec), ∃ (i : Instr), ∃ (n : Nat), ∃ (sz : Size), ∃ (sc : Scope), ∃ (d : Nat), ∃ (empty : Bool), ∃ (ps : List (Req × Place)), ∃ (es : List (Req × Place)), ∃ (q : Req × Place), s.m.waiting r = some (c, ⟨i, .granule, n⟩) ∧ waitedGranules s.m c = some (sz, sc, d, empty, ps) ∧ 2 ^ c.rc.fek ≤ s.m.cyc - n ∧ ps.filter (fun q => (granOfPlace q.2).any (fun g => !(s.m.granule g.1 g.2).1)) = q :: es ∧ TrapReady s c cr ∧ s.m.barred c.f = false) :=
  ⟨⟨(labWith (fun m => { m with bufs := [labBuf] })), 7, labBuf, by decide +kernel⟩,
    ⟨(labWith (fun m => { m with copies := [⟨.core 1, .pkg, 0, none, List.replicate 16 (some 0)⟩] })), (.core 1), .pkg, 0, none, [], by decide +kernel⟩,
    ⟨(labW .nop (.missRoom [2, 3]) 0), ⟨1, 0, 0⟩, (cOf (labW .nop (.missRoom [2, 3]) 0)), .nop, [2, 3], 0, by decide +kernel⟩,
    ⟨labShared, 0, 1, ⟨0, 0, 0, 3⟩, ⟨0x3D, 0x40018, 16⟩, by decide +kernel⟩,
    ⟨labWalk, 0, 0, ⟨0, 0, 0, 2⟩, ⟨0x3D, 0x40010, 16⟩, by decide +kernel⟩,
    ⟨labWalk, 0, 1, ⟨0, 0, 0, 3⟩, 4, 1, by decide +kernel⟩,
    ⟨(labWith (fun m => { m with missq := [⟨0, 0, 0, 2⟩] })), 0, 0, ⟨0, 0, 0, 2⟩, by decide +kernel⟩,
    ⟨(labWith (fun m => { m with outst := [⟨9, ⟨1, 0, 0⟩, [(119, 0, 0)], none⟩] })), 9, ⟨9, ⟨1, 0, 0⟩, [(119, 0, 0)], none⟩, by decide +kernel⟩,
    ⟨(labW (.ldfet .q .sys 116 (.v 4) 0) .granule 0), ⟨1, 0, 0⟩, (cOf (labW (.ldfet .q .sys 116 (.v 4) 0) .granule 0)), (.ldfet .q .sys 116 (.v 4) 0), 0, .q, .sys, 116, true, (grPlaces (labW (.ldfet .q .sys 116 (.v 4) 0) .granule 0)), by decide +kernel, granules_of (by decide +kernel), by decide +kernel⟩,
    ⟨labGran, ⟨1, 0, 0⟩, (cOf labGran), labCr, (.ldfet .q .sys 116 (.v 4) 0), 0, .q, .sys, 116, true, (grPlaces labGran), labEmptyR, labEmptyQ, by decide +kernel, granules_of (by decide +kernel), by decide +kernel, labEmpty_cons, trapReady_of (by decide +kernel), by decide +kernel⟩⟩

/-- The premises of WaitsThatEnd. -/
theorem test_premises_WaitsThatEnd :
    (∃ (s : State), ∃ (r : FRef), ∃ (c : Ctx), ∃ (i : Instr), ∃ (b : Option Nat), ∃ (leaf : Option Leaf), ∃ (n : Nat), ∃ (q : CwArgs), ∃ (a : Acc), ∃ (va : Nat), ∃ (m : Mach), s.m.waiting r = some (c, ⟨i, .count b leaf, n⟩) ∧ cwArgs s.m c i = some q ∧ cwAcc s.cfg s.m c q.a leaf = (some (.ok (a, va)), m) ∧ m.bankBusy (s.cfg.part? c.la.p) a = false ∧ poisonedAcc m (s.cfg.part? c.la.p) a va 8 = false ∧ let x := cwRead s.cfg (m.undelay (.core c.tm.core) (2 ^ 64 + c.f.ref.t * 2048 + c.f.ref.g * 32 + c.leader)) c a va; q.target ≤ x.1 % 2 ^ 63 ∧ s.m.heldReg c (c.phys ((pairWrites q.d (c.lanes.map (fun j => (j, BitVec.ofNat 64 x.1)))).map Prod.fst)) = false) ∧
    (∃ (s : State), ∃ (r : FRef), ∃ (c : Ctx), ∃ (i : Instr), ∃ (b : Nat), ∃ (leaf : Option Leaf), ∃ (n : Nat), ∃ (q : CwArgs), ∃ (a : Acc), ∃ (va : Nat), ∃ (m : Mach), s.m.waiting r = some (c, ⟨i, .count (some b) leaf, n⟩) ∧ cwArgs s.m c i = some q ∧ cwAcc s.cfg s.m c q.a leaf = (some (.ok (a, va)), m) ∧ m.bankBusy (s.cfg.part? c.la.p) a = false ∧ poisonedAcc m (s.cfg.part? c.la.p) a va 8 = false ∧ b ≤ s.m.cyc - n ∧ let x := cwRead s.cfg (m.undelay (.core c.tm.core) (2 ^ 64 + c.f.ref.t * 2048 + c.f.ref.g * 32 + c.leader)) c a va; s.m.heldReg c (c.phys ((pairWrites q.d (c.lanes.map (fun j => (j, BitVec.ofNat 64 x.1)))).map Prod.fst)) = false) ∧
    (∃ (s : State), ∃ (r : FRef), ∃ (c : Ctx), ∃ (k : Nat), ∃ (n : Nat), s.m.waiting r = some (c, ⟨.fwait k, .token k, n⟩) ∧ let x := c.f.toks.getD k ⟨false, [], 0⟩; (s.m.widsAt (s.m.below c.leaf x.sc)).filter (fun w => x.wids.contains w) = []) ∧
    (∃ (s : State), ∃ (r : FRef), ∃ (c : Ctx), ∃ (i : Instr), ∃ (k : EngCtx), ∃ (cmd : Cmd), ∃ (blk : DWord), ∃ (n : Nat), s.m.waiting r = some (c, ⟨i, .engine k cmd blk, n⟩) ∧ endsRun i = false ∧ (s.m.opsOf c.tm.t k).length < 32) ∧
    (∃ (s : State), ∃ (r : FRef), ∃ (c : Ctx), ∃ (k : Nat), ∃ (x : Nat), ∃ (n : Nat), ∃ (rg : Region), s.m.waiting r = some (c, ⟨.wopen k, .window x, n⟩) ∧ s.m.region? x = some rg ∧ rg.stg = false ∧ rg.pass = false) ∧
    (∃ (s : State), ∃ (r : FRef), ∃ (c : Ctx), ∃ (d : Dst), ∃ (k : Nat), ∃ (x : Nat), ∃ (n : Nat), ∃ (rg : Region), s.m.waiting r = some (c, ⟨.pmerge d k, .window x, n⟩) ∧ s.m.region? x = some rg ∧ rg.stg = false ∧ rg.pass = false ∧ s.m.heldReg c (c.phys ((dstWrites d (c.lanes.map (fun j => (j, BitVec.ofNat 32 rg.ancver)))).map Prod.fst)) = false) ∧
    (∃ (s : State), ∃ (r : FRef), ∃ (c : Ctx), ∃ (cr : CtxRec), ∃ (i : Instr), ∃ (x : Nat), ∃ (n : Nat), s.m.waiting r = some (c, ⟨i, .window x, n⟩) ∧ s.m.region? x = none ∧ TrapReady s c cr ∧ s.m.barred c.f = false) ∧
    (∃ (s : State), ∃ (r : FRef), ∃ (c : Ctx), ∃ (tr : Bool), ∃ (d : Dst), ∃ (a : Nat), ∃ (b : Nat), ∃ (n : Nat), ∃ (h : Handle), ∃ (e : HEnt), s.m.waiting r = some (c, ⟨.hwait tr d a b, .handle, n⟩) ∧ handleOf (s.m.v64 c a c.leader).toNat = some h ∧ h.home = s.cfg.device.toNat ∧ homeEntry s.m c.la.p h = some e ∧ (((∃ res, e.st = .done res ∧ (res = [] ∨ s.m.v64 c b c.leader = 0)) ∨ (tr = false ∧ ∃ cause dep, e.st = .broken cause dep)))) ∧
    (∃ (s : State), ∃ (r : FRef), ∃ (c : Ctx), ∃ (d : Dst), ∃ (n : Nat), ∃ (a : Src), ∃ (b : Src), ∃ (ps : List (Req × Place)), ∃ (m : Mach), ∃ (q : InvQ), s.m.waiting r = some (c, ⟨.iwait d a b, .service ((s.m.srcL c b).toNat % 256), n⟩) ∧ c.g.held = none ∧ (s.m.srcL c a).toNat % 64 = 0 ∧ Placed s c true .write false (cmdReqs s.m c a 576) ps m ∧ m.oldestInv c.la.p ((s.m.srcL c b).toNat % 256) = some q) :=
  ⟨⟨(labW (.cwait .dev (.v 118) 14 0) (.count none none) 0), ⟨1, 0, 0⟩, (cOf (labW (.cwait .dev (.v 118) 14 0) (.count none none) 0)), (.cwait .dev (.v 118) 14 0), none, none, 0, ⟨.dev, .v 118, 14, 0, none⟩, ⟨.scr 1, 0x400, none, 0, false, none⟩, 0, (labW (.cwait .dev (.v 118) 14 0) (.count none none) 0).m, by decide +kernel⟩,
    ⟨labBound, ⟨1, 0, 0⟩, (cOf labBound), (.cwaitt .clu .nw 14 16), 1000, none, 0, ⟨.clu, .nw, 14, 1, some 1000⟩, ⟨.scr 1, 0x400, none, 0, false, none⟩, 0, labBound.m, by decide +kernel⟩,
    ⟨(labW (.fwait 3) (.token 3) 0), ⟨1, 0, 0⟩, (cOf (labW (.fwait 3) (.token 3) 0)), 3, 0, by decide +kernel⟩,
    ⟨(labW (.accz 1) (.engine .matrix (.accz 1) 0) 0), ⟨1, 0, 0⟩, (cOf (labW (.accz 1) (.engine .matrix (.accz 1) 0) 0)), (.accz 1), .matrix, (.accz 1), 0, 0, by decide +kernel⟩,
    ⟨(labWR (.wopen 7) [labRg]), ⟨1, 0, 0⟩, (cOf (labWR (.wopen 7) [labRg])), 7, 1, 0, labRg, by decide +kernel⟩,
    ⟨(labWR (.pmerge (.v 119) 7) [labRg]), ⟨1, 0, 0⟩, (cOf (labWR (.pmerge (.v 119) 7) [labRg])), (.v 119), 7, 1, 0, labRg, by decide +kernel⟩,
    ⟨(labWR (.wopen 7) []), ⟨1, 0, 0⟩, (cOf (labWR (.wopen 7) [])), labCr, (.wopen 7), 1, 0, by decide +kernel, by decide +kernel, trapReady_of (by decide +kernel), by decide +kernel⟩,
    ⟨(labHW (.broken 255 3)), ⟨1, 0, 0⟩, (cOf (labHW (.broken 255 3))), false, (.v 118), 20, 0, 0, ⟨0, 3, 5⟩, (labEnt (.broken 255 3)), and4 (by decide +kernel) (Or.inr ⟨rfl, 255, 3, rfl⟩)⟩,
    ⟨labIW, ⟨1, 0, 0⟩, (cOf labIW), (.v 118), 0, (.v 4), (.v 18), (placesOf labIW true .write false (cmdReqs labIW.m (cOf labIW) (.v 4) 576)), (machOf labIW true .write false (cmdReqs labIW.m (cOf labIW) (.v 4) 576)), labInvQ, and3 (by decide +kernel) ⟨placed_of (by decide +kernel), by decide +kernel⟩⟩⟩

/-- The premises of SchedulingSteps. -/
theorem test_premises_SchedulingSteps :
    (∃ (s : State), ∃ (core : Nat), ∃ (quad : Nat), ∃ (_pick : Nat), ∃ (g : Group), ∃ (f : Fibre), ∃ (c : Ctx), (s.m.port core quad).run = none ∧ ((∀ g ∈ s.m.quadGroups core quad, ((s.m.team? g.t).bind (fun tm => s.m.launch? tm.l)).any (fun la => la.stop.isSome) = false)) ∧ s.m.readyGroups core quad = [g] ∧ s.m.readyFibres g.t g.g = [f] ∧ ctxOf s.m f.ref = some c ∧ c.f = f ∧ c.g.pend = [] ∧ c.la.x < 4 ∧ -2 ^ 60 < (s.m.port core quad).deficit c.la.x) ∧
    (∃ (s : State), ∃ (core : Nat), ∃ (quad : Nat), ∃ (_pick : Nat), (s.m.port core quad).run = none ∧ ((∀ g ∈ s.m.quadGroups core quad, ((s.m.team? g.t).bind (fun tm => s.m.launch? tm.l)).any (fun la => la.stop.isSome) = false)) ∧ s.m.readyGroups core quad = []) ∧
    (∃ (s : State), ∃ (core : Nat), ∃ (quad : Nat), ((∀ g ∈ s.m.quadGroups core quad, ((s.m.team? g.t).bind (fun tm => s.m.launch? tm.l)).any (fun la => la.stop.isSome) = false)) ∧ (s.m.quadGroups core quad).length ≤ 8) ∧
    (∃ (s : State), ∃ (core : Nat), ∃ (quad : Nat), ∃ (g : Group), ((∀ g ∈ s.m.quadGroups core quad, ((s.m.team? g.t).bind (fun tm => s.m.launch? tm.l)).any (fun la => la.stop.isSome) = false)) ∧ 8 < (s.m.quadGroups core quad).length ∧ ((s.m.quadGroups core quad).filter Group.active).length < 8 ∧ (s.m.quadGroups core quad).filter (fun g => !g.active && !(s.m.readyFibres g.t g.g).isEmpty) = [g] ∧ s.m.group? g.t g.g = some g) ∧
    (∃ (s : State), ∃ (r : FRef), ∃ (c : Ctx), ∃ (cr : CtxRec), ∃ (x : PendTrap), ctxOf s.m r = some c ∧ TrapReady s c cr ∧ c.f.susp = false ∧ c.g.ended = false ∧ c.cl.pre ≠ .saved ∧ s.m.onWalk r.t r.g = false ∧ s.m.groupHeld r.t r.g = false ∧ x ∈ c.g.pend ∧ ((∀ y ∈ c.g.pend, y = x ∨ x.cause < y.cause)) ∧ (((c.f.wait = none ∧ c.f.run = false) ∨ c.f.wait.map Wait.why = some .granule))) :=
  ⟨⟨labFree, 0, 0, 5, (cOf labFree).g, (cOf labFree).f, (cOf labFree), by decide +kernel⟩,
    ⟨State.reset, 767, 3, 0, by decide +kernel⟩,
    ⟨lab, 0, 0, by decide +kernel⟩,
    ⟨labNine, 0, 0, ((labNine.m.group? 1 32).getD labC.g), by decide +kernel⟩,
    ⟨labPend, ⟨1, 0, 0⟩, (cOf labPend), labCr, ⟨5, 0x28, 0, none, true⟩, by decide +kernel, trapReady_of (by decide +kernel), and7 (by decide +kernel) (Or.inl (by decide +kernel))⟩⟩

end Sys2Proof.Tests
end

