-- ==== Sys2Proof/Tests/Devices.lean ====
section
/-! SUPPORT. States and operands that meet the premises of the statements about the device and its security. -/
set_option Elab.async false
namespace Sys2Proof.Tests
open Sys2Proof Sys2Proof.Machine

theorem succ_ne (x : BitVec 64) : x + 1 ≠ x := by simp
/-- The lab with its device changed. -/
def labDev (f : Dev → Dev) : State := labWith (fun m => { m with dev := f m.dev })
/-- The lab with one Fexel port. -/
def labPort (p : FPort) : State := labDev (fun d => { d with ports := [p] })

/-- The premises of DeviceSteps. -/
theorem test_premises_DeviceSteps :
    (∃ (s : State), ∃ (d : Nat), ∃ (b : Nat), ∃ (n : Nat), ∃ (r : FRef), ∃ (c : Ctx), ∃ (i : Instr), s.m.waiting r = some (c, ⟨i, .bank d b, n⟩) ∧ s.m.refreshing d ≠ some b ∧ s.m.fabPend = [] ∧ s.m.parked = []) ∧
    (∃ (s : State), ∃ (d : Nat), d < s.m.dev.thr.length ∧ 4096 * (s.m.thrOf d).next ≤ s.m.dieCyc d) ∧
    (∃ (s : State), ∃ (d : Nat), s.m.dieCyc d < 4096 * (s.m.thrOf d).next) ∧
    (∃ (s : State), ∃ (d : Nat), ∃ (_a : Bool), ∃ (_b : Bool), d < s.m.dev.thr.length) ∧
    (∃ (s : State), ∃ (k : Nat), ∃ (tm : Team), ∃ (la : Launch), s.m.team? k = some tm ∧ s.m.launch? tm.l = some la) ∧
    (∃ (s : State), s.m.dev.erased = false ∧ s.m.dev.alpol = false) ∧
    (∃ (s : State), s.m.dev.erased = false ∧ s.m.dev.alpol = true) ∧
    (∃ (_s : State), ∃ (k : Nat), ∃ (_up : Bool), k < 2) ∧
    (∃ (s : State), ∃ (k : Nat), ∃ (p : Nat), ∃ (_key : Key), s.m.dev.erased = false ∧ s.m.dev.bootstg ≠ 0xFF ∧ ((∀ x ∈ s.cfg.parts, x.p ≠ p → nbit x.keys k = false))) ∧
    (∃ (s : State), ∃ (_k : Nat), ∃ (_p : Nat), ∃ (_key : Key), ((s.m.dev.erased = true ∨ s.m.dev.bootstg = 0xFF))) ∧
    (∃ (s : State), ∃ (_b : BitVec 4), s.m.dev.erased = false ∧ s.m.dev.alpol = false) ∧
    (∃ (s : State), ∃ (b : BitVec 4), b ≠ 0 ∧ s.m.dev.erased = false ∧ s.m.dev.alpol = true) ∧
    (∃ (s : State), ∃ (lk : BitVec 2), ∃ (fi : List Byte), ∃ (rest : List Agenda), s.m.agenda = .bootOn true lk fi :: rest ∧ s.m.dev.erased = false ∧ s.m.dev.bootstg = 1) ∧
    (∃ (s : State), ∃ (lk : BitVec 2), ∃ (fi : List Byte), ∃ (rest : List Agenda), s.m.agenda = .bootOn false lk fi :: rest ∧ s.m.dev.erased = false ∧ s.m.dev.bootstg = 1) ∧
    (∃ (s : State), ∃ (g : Bool), ∃ (lk : BitVec 2), ∃ (fi : List Byte), ∃ (rest : List Agenda), s.m.agenda = .bootOn g lk fi :: rest ∧ s.m.dev.erased = false ∧ s.m.dev.bootstg = 2) ∧
    (∃ (_s : State), ∃ off, off % 8 ≠ 0) ∧
    (∃ (s : State), s.m.dev.erased = false ∧ s.m.dev.bootstg ≠ 0xFF) :=
  ⟨⟨(labW .nop (.bank 3 15) 0), 3, 15, 0, ⟨1, 0, 0⟩, (cOf (labW .nop (.bank 3 15) 0)), .nop, by decide +kernel⟩,
    ⟨(labWith (fun m => { m with cyc := 4096 })), 3, by decide +kernel⟩,
    ⟨(labDev (fun d => { d with thr := d.thr.map (fun x => { x with next := 1 }) })), 3, by decide +kernel⟩,
    ⟨lab, 3, true, false, by decide +kernel⟩,
    ⟨lab, 1, labC.tm, labC.la, by decide +kernel⟩,
    ⟨lab, by decide +kernel⟩,
    ⟨(labDev (fun d => { d with alpol := true })), by decide +kernel⟩,
    ⟨lab, 1, true, by decide +kernel⟩,
    ⟨lab, 127, 5, (List.replicate 64 1), by decide +kernel⟩,
    ⟨(labDev (fun d => { d with erased := true })), 0, 0, [], by decide +kernel⟩,
    ⟨lab, 15, by decide +kernel⟩,
    ⟨(labDev (fun d => { d with alpol := true })), 8, by decide +kernel⟩,
    ⟨(labWith (fun m => { m with agenda := [.bootOn true 3 [7], .elapse 1], dev := { m.dev with bootstg := 1, fuses := [9] } })), 3, [7], [.elapse 1], by decide +kernel⟩,
    ⟨(labWith (fun m => { m with agenda := [.bootOn false 3 [7], .elapse 1], dev := { m.dev with bootstg := 1, fuses := [9] } })), 3, [7], [.elapse 1], by decide +kernel⟩,
    ⟨(labWith (fun m => { m with agenda := [.bootOn true 3 [7], .elapse 1], dev := { m.dev with bootstg := 2, fuses := [9] } })), true, 3, [7], [.elapse 1], by decide +kernel⟩,
    ⟨lab, 1, by decide +kernel⟩,
    ⟨lab, by decide +kernel⟩⟩

/-- The premises of SecuritySteps. -/
theorem test_premises_SecuritySteps :
    (∃ (s : State), ∃ (n : Nat), ∃ (p : FPort), ∃ (key : Key), ∃ (tx : List Byte), s.m.fport? n = some p ∧ p.locked = false ∧ p.out.newPhase = false ∧ p.out.key = some key ∧ p.out.hold = [] ∧ p.out.counter < 2 ^ 48 - 1 ∧ tx.length = 256) ∧
    (∃ (s : State), ∃ (n : Nat), ∃ (p : FPort), ∃ (key : Key), ∃ (tx : List Byte), s.m.fport? n = some p ∧ p.locked = false ∧ p.out.newPhase = false ∧ p.out.key = some key ∧ p.out.counter = 2 ^ 48 - 1 ∧ tx.length = 256) ∧
    (∃ (s : State), ∃ (n : Nat), ∃ (p : FPort), ∃ (ph : Bool), ∃ (k : Nat), ∃ (cipher : List Byte), ∃ (tag : BitVec 64), ∃ (key : Key), s.m.fport? n = some p ∧ p.locked = false ∧ p.inn.keyOf ph = some key ∧ p.inn.newPhase = false ∧ ph = p.inn.phase ∧ k = p.inn.counter ∧ tag = flitTag key (flitNonce p.inn.ident k) cipher ∧ ((p.inn.retry = none ∨ p.inn.retry = some k)) ∧ p.inn.behind = []) ∧
    (∃ (s : State), ∃ (n : Nat), ∃ (p : FPort), ∃ (ph : Bool), ∃ (cipher : List Byte), ∃ (tag : BitVec 64), ∃ (key : Key), s.m.fport? n = some p ∧ p.locked = false ∧ p.inn.keyOf ph = some key ∧ p.inn.newPhase = true ∧ ph ≠ p.inn.phase ∧ tag = flitTag key (flitNonce p.inn.ident 0) cipher ∧ p.inn.retry = none ∧ p.inn.behind = []) ∧
    (∃ (s : State), ∃ (n : Nat), ∃ (p : FPort), ∃ (ph : Bool), ∃ (_k : Nat), ∃ (_cipher : List Byte), ∃ (_tag : BitVec 64), ∃ (key : Key), s.m.fport? n = some p ∧ p.locked = false ∧ p.inn.keyOf ph = some key ∧ p.inn.newPhase = false ∧ ph ≠ p.inn.phase ∧ p.inn.retry = none ∧ p.inn.behind = []) ∧
    (∃ (s : State), ∃ (n : Nat), ∃ (p : FPort), ∃ (ph : Bool), ∃ (k : Nat), ∃ (cipher : List Byte), ∃ (tag : BitVec 64), ∃ (key : Key), s.m.fport? n = some p ∧ p.locked = false ∧ p.inn.keyOf ph = some key ∧ p.inn.newPhase = false ∧ ph = p.inn.phase ∧ p.inn.retry = none ∧ ((k ≠ p.inn.counter ∨ tag ≠ flitTag key (flitNonce p.inn.ident p.inn.counter) cipher))) ∧
    (∃ (s : State), ∃ (n : Nat), ∃ (p : FPort), ∃ (ph : Bool), ∃ (k : Nat), ∃ (_cipher : List Byte), ∃ (_tag : BitVec 64), ∃ (key : Key), ∃ (j : Nat), s.m.fport? n = some p ∧ p.locked = false ∧ p.inn.keyOf ph = some key ∧ ph = p.inn.phase ∧ p.inn.retry = some j ∧ k ≠ j) ∧
    (∃ (s : State), ∃ (n : Nat), ∃ (p : FPort), ∃ (ph : Bool), ∃ (k : Nat), ∃ (cipher : List Byte), ∃ (tag : BitVec 64), ∃ (key : Key), s.m.fport? n = some p ∧ p.locked = false ∧ p.inn.keyOf ph = some key ∧ p.inn.newPhase = false ∧ ph = p.inn.phase ∧ p.inn.retry = some k ∧ k = p.inn.counter ∧ tag ≠ flitTag key (flitNonce p.inn.ident k) cipher) ∧
    (∃ (s : State), ∃ (n : Nat), ∃ (p : FPort), ∃ (_x : List Byte), s.m.fport? n = some p ∧ s.m.dev.erased = false ∧ s.m.dev.bootstg ≠ 0xFF ∧ p.locked = false ∧ p.out.hold = [] ∧ ((p.out.key0 ≠ none ∨ p.out.key1 ≠ none))) ∧
    (∃ (s : State), ∃ (peer : Nat), ∃ (_a : Nat), ∃ (_b : Nat), ∃ (_x : List Byte), s.m.dev.erased = false ∧ s.m.dev.bootstg ≠ 0xFF ∧ ((∀ d ∈ s.m.driftSent, d.peer = peer → d.sealed ≠ none))) ∧
    (∃ (s : State), ∃ (_use : KeyUse), ∃ (x : Option (List Byte)), ((x = none ∨ s.m.dev.erased = true ∨ s.m.dev.bootstg = 0xFF))) ∧
    (∃ (s : State), ∃ (ch : Nat), (s.m.spdm ch).version = true) ∧
    (∃ (s : State), ∃ (ch : Nat), (s.m.spdm ch).version = false) ∧
    (∃ (s : State), ∃ (ch : Nat), (s.m.spdm ch).caps = true) ∧
    (∃ (s : State), ∃ (ch : Nat), (s.m.spdm ch).caps = false) ∧
    (∃ (s : State), ∃ (ch : Nat), (s.m.spdm ch).algs = true) ∧
    (∃ (s : State), ∃ (ch : Nat), ∃ (_k : Nat), (s.m.spdm ch).algs = true) ∧
    (∃ (s : State), ∃ (ch : Nat), ∃ (k : Nat), ∃ (x : List Byte), (({ s.m with dev := s.m.dev.settle } : Mach).spdm ch).algs = true ∧ k < 254 ∧ s.m.dev.settle.meas[k]? = some x) ∧
    (∃ (s : State), ∃ (ch : Nat), (({ s.m with dev := s.m.dev.settle } : Mach).spdm ch).algs = true) ∧
    (∃ (s : State), ∃ (ch : Nat), (s.m.spdm ch).keyex = true) ∧
    (∃ (s : State), ∃ (ch : Nat), (s.m.spdm ch).session = true) ∧
    (∃ (s : State), ∃ (ch : Nat), ∃ (k : Nat), ∃ (x : List Byte), (s.m.spdm ch).session = true ∧ (8 ≤ k ∧ k ≤ 15) ∧ x.length = 48) ∧
    (∃ (s : State), ∃ (ch : Nat), ∃ (k : Nat), ∃ (x : List Byte), (((s.m.spdm ch).session = false ∨ k < 8 ∨ 15 < k ∨ x.length ≠ 48))) :=
  ⟨⟨(labPort ⟨35, false, { Dir.reset with key0 := some (List.replicate 32 1), counter := 2 ^ 47 }, { Dir.reset with key0 := some (List.replicate 32 1) }⟩), 35, ⟨35, false, { Dir.reset with key0 := some (List.replicate 32 1), counter := 2 ^ 47 }, { Dir.reset with key0 := some (List.replicate 32 1) }⟩, (List.replicate 32 1), (List.replicate 256 0), by decide +kernel⟩,
    ⟨(labPort ⟨35, false, { Dir.reset with key0 := some (List.replicate 32 1), counter := 2 ^ 48 - 1 }, { Dir.reset with key0 := some (List.replicate 32 1) }⟩), 35, ⟨35, false, { Dir.reset with key0 := some (List.replicate 32 1), counter := 2 ^ 48 - 1 }, { Dir.reset with key0 := some (List.replicate 32 1) }⟩, (List.replicate 32 1), (List.replicate 256 0), by decide +kernel⟩,
    ⟨(labPort ⟨35, false, { Dir.reset with key0 := some (List.replicate 32 1) }, { Dir.reset with key0 := some (List.replicate 32 1), counter := 7 }⟩), 35, ⟨35, false, { Dir.reset with key0 := some (List.replicate 32 1) }, { Dir.reset with key0 := some (List.replicate 32 1), counter := 7 }⟩, false, 7, [], (flitTag (List.replicate 32 1) (flitNonce 0 7) []), (List.replicate 32 1), and6 (by decide +kernel) ⟨rfl, by decide +kernel⟩⟩,
    ⟨(labPort ⟨35, false, { Dir.reset with key0 := some (List.replicate 32 1) }, { Dir.reset with key0 := some (List.replicate 32 1), newPhase := true, key1 := some (List.replicate 32 1) }⟩), 35, ⟨35, false, { Dir.reset with key0 := some (List.replicate 32 1) }, { Dir.reset with key0 := some (List.replicate 32 1), newPhase := true, key1 := some (List.replicate 32 1) }⟩, true, [], (flitTag (List.replicate 32 1) (flitNonce 0 0) []), (List.replicate 32 1), and5 (by decide +kernel) ⟨rfl, by decide +kernel⟩⟩,
    ⟨(labPort ⟨35, false, { Dir.reset with key0 := some (List.replicate 32 1) }, { Dir.reset with key0 := some (List.replicate 32 1), key1 := some (List.replicate 32 1) }⟩), 35, ⟨35, false, { Dir.reset with key0 := some (List.replicate 32 1) }, { Dir.reset with key0 := some (List.replicate 32 1), key1 := some (List.replicate 32 1) }⟩, true, 0, [], 0, (List.replicate 32 1), by decide +kernel⟩,
    ⟨(labPort ⟨35, false, { Dir.reset with key0 := some (List.replicate 32 1) }, { Dir.reset with key0 := some (List.replicate 32 1), counter := 7 }⟩), 35, ⟨35, false, { Dir.reset with key0 := some (List.replicate 32 1) }, { Dir.reset with key0 := some (List.replicate 32 1), counter := 7 }⟩, false, 8, [], 0, (List.replicate 32 1), and6 (by decide +kernel) (Or.inl (by decide +kernel))⟩,
    ⟨(labPort ⟨35, false, { Dir.reset with key0 := some (List.replicate 32 1) }, { Dir.reset with key0 := some (List.replicate 32 1), counter := 7, retry := some 7 }⟩), 35, ⟨35, false, { Dir.reset with key0 := some (List.replicate 32 1) }, { Dir.reset with key0 := some (List.replicate 32 1), counter := 7, retry := some 7 }⟩, false, 8, [], 0, (List.replicate 32 1), 7, by decide +kernel⟩,
    ⟨(labPort ⟨35, false, { Dir.reset with key0 := some (List.replicate 32 1) }, { Dir.reset with key0 := some (List.replicate 32 1), counter := 7, retry := some 7 }⟩), 35, ⟨35, false, { Dir.reset with key0 := some (List.replicate 32 1) }, { Dir.reset with key0 := some (List.replicate 32 1), counter := 7, retry := some 7 }⟩, false, 7, [], ((flitTag (List.replicate 32 1) (flitNonce 0 7) []) + 1), (List.replicate 32 1), and7 (by decide +kernel) (succ_ne _)⟩,
    ⟨(labPort ⟨35, false, { Dir.reset with key0 := some (List.replicate 32 1) }, { Dir.reset with key0 := some (List.replicate 32 1) }⟩), 35, ⟨35, false, { Dir.reset with key0 := some (List.replicate 32 1) }, { Dir.reset with key0 := some (List.replicate 32 1) }⟩, [], by decide +kernel⟩,
    ⟨lab, 9000, 3, 4, [], by decide +kernel⟩,
    ⟨lab, (.out 35), none, Or.inl rfl⟩,
    ⟨(labDev (fun d => { d with spdm := [⟨1, true, false, false, false, false, []⟩] })), 1, by decide +kernel⟩,
    ⟨lab, 0, by decide +kernel⟩,
    ⟨(labDev (fun d => { d with spdm := [⟨1, true, true, false, false, false, []⟩] })), 1, by decide +kernel⟩,
    ⟨lab, 0, by decide +kernel⟩,
    ⟨(labDev (fun d => { d with spdm := [⟨1, true, true, true, false, false, []⟩] })), 1, by decide +kernel⟩,
    ⟨(labDev (fun d => { d with spdm := [⟨1, true, true, true, false, false, []⟩] })), 1, 1, by decide +kernel⟩,
    ⟨(labDev (fun d => { d with spdm := [⟨1, true, true, true, false, false, []⟩] })), 1, 15, (List.replicate 48 0), by decide +kernel⟩,
    ⟨(labDev (fun d => { d with spdm := [⟨1, true, true, true, false, false, []⟩] })), 1, by decide +kernel⟩,
    ⟨(labDev (fun d => { d with spdm := [⟨1, true, true, true, true, false, []⟩] })), 1, by decide +kernel⟩,
    ⟨(labDev (fun d => { d with spdm := [⟨1, true, true, true, true, true, []⟩] })), 1, by decide +kernel⟩,
    ⟨(labDev (fun d => { d with spdm := [⟨1, true, true, true, true, true, []⟩] })), 1, 15, (List.replicate 48 0), by decide +kernel⟩,
    ⟨lab, 0, 0, [], by decide +kernel⟩⟩

end Sys2Proof.Tests
end

