-- ==== Sys2Proof/Tests/Engines.lean ====
section
/-! SUPPORT. States and operands that meet the premises of the statements about engine operations. -/
set_option Elab.async false
namespace Sys2Proof.Tests
open Sys2Proof Sys2Proof.Machine

/-- What an engine's access gives, where it is no failure and no wait. -/
def okOr {α : Type} (d : α) : EngR α → α
  | .ok b => b
  | _ => d
theorem ok_of {α : Type} {d : α} {x : EngR α × Mach} (h : (match x.1 with
    | .ok _ => true
    | _ => false) = true) : x = (.ok (okOr d x.1), x.2) := by
  split at h
  · next b hb => exact Prod.ext (by rw [hb]; rfl) rfl
  · simp at h
/-- A command of the matrix engine in a launch that owns no tile. -/
def labTm (cmd : Cmd) : State := { labR (fun r => { r with tmask := 0 }) with m := { (labR (fun r => { r with tmask := 0 })).m with ops := [labOp .matrix cmd] } }
/-- The block of a DRAIN of 8-bit elements to scratch address 0x400. -/
def labDrainB : List Byte := blkOf 64 [(0, 8, 0x4000000000000400), (8, 4, 128)]
/-- The DRAIN, which has made p of its writes. -/
def labDrainOp (fl : DrainFlags) (p : Nat) : Op := { labOp .matrix (.drain true fl labDrainB 3) with n := 1, stage := 1, prog := p }
/-- It has made none. -/
def labDrain : State := labOps [labDrainOp ⟨false, false, true⟩ 0]
/-- Its first write. -/
def labDrainW : Nat × List Byte := (0x4000000000000400, List.replicate 16 0)
theorem labDrain_some : (drainWrites labDrain.m (ocOf labDrain .matrix) (drainBlk labDrainB) true ((ocOf labDrain .matrix).rc.slot 3) ++
    (if scaleKind ((ocOf labDrain .matrix).rc.slot 3) ≠ 0 ∧ false = false then drainScaleWrites labDrain.m (ocOf labDrain .matrix) (drainBlk labDrainB) true ((ocOf labDrain .matrix).rc.slot 3) else []))[(ocOf labDrain .matrix).o.prog]? =
    some labDrainW := by decide +kernel
/-- The machine after it. -/
def labDrainM : Mach := (engWrite1 labDrain.cfg labDrain.m (ocOf labDrain .matrix) labDrainW.1 labDrainW.2).2
theorem labDrain_write : engWrite1 labDrain.cfg labDrain.m (ocOf labDrain .matrix) labDrainW.1 labDrainW.2 = (.ok (), labDrainM) := pair_of (by decide +kernel)
/-- A DRAIN.all. -/
def labDrainAll : State := labOps [labDrainOp ⟨true, false, true⟩ 0]
/-- The places of its writes. -/
def labDrainAllR : EngR (List (Acc × List Byte)) × Mach :=
  engResolve labDrainAll.cfg labDrainAll.m (ocOf labDrainAll .matrix) (drainWrites labDrainAll.m (ocOf labDrainAll .matrix) (drainBlk labDrainB) true ((ocOf labDrainAll .matrix).rc.slot 3))
/-- A layout record of one row of 16 bytes at scratch address 0x400. -/
def labLay : List Byte := blkOf 128 [(0, 4, 1), (4, 4, 2), (8, 8, 0x4000000000000400), (0x10, 4, 16), (0x14, 4, 1), (0x18, 8, 16), (0x20, 4, 1)]
/-- One of one row of 512 bytes at virtual address 0x20000. -/
def labLayP : List Byte := blkOf 128 [(0, 4, 1), (4, 4, 2), (8, 8, 0x20000), (0x10, 4, 512), (0x14, 4, 1), (0x18, 8, 512), (0x20, 4, 1)]
/-- One of four 32-bit elements. -/
def labLay4 : List Byte := blkOf 128 [(0, 4, 1), (4, 4, 4), (8, 8, 0x4000000000000400), (0x10, 4, 4), (0x14, 4, 1), (0x18, 8, 16), (0x20, 4, 1)]
/-- A collective record of two ranks, of which this is rank 0, with a COP and flags and a root. -/
def labCrec (w root : Nat) : List Byte := labLay4 ++ blkOf 128 [(0, 4, 1), (4, 4, w), (8, 8, 0x000100010002), (0x10, 8, 0x4000000000000600), (0x1A, 2, root)]
/-- What two ranks give to an all-reduce of four elements is 16 bytes. -/
theorem labGiven : ∀ i, (collOf (labCrec 2 0)).needs i = true → i < (collOf (labCrec 2 0)).group.length →
    (([List.replicate 16 2].take (collOf (labCrec 2 0)).pos ++ [List.replicate 16 1] ++ [List.replicate 16 2].drop (collOf (labCrec 2 0)).pos : List (List Byte)).getD i []).length
      = (collOf (labCrec 2 0)).givenLen (layOf (bytesAt (labCrec 2 0) 0 128)).elems :=
  fun i _ hi => (by decide +kernel : ∀ i, i < (collOf (labCrec 2 0)).group.length → (([List.replicate 16 2].take (collOf (labCrec 2 0)).pos ++ [List.replicate 16 1] ++
    [List.replicate 16 2].drop (collOf (labCrec 2 0)).pos : List (List Byte)).getD i []).length = (collOf (labCrec 2 0)).givenLen (layOf (bytesAt (labCrec 2 0) 0 128)).elems) i hi
/-- A copy whose row is held. -/
def labRow : State := labOps [{ labOp .copy (.tcopy false ⟨false, false, false, false⟩ (List.replicate 64 0) labLay labLay) with n := 1, stage := 3, buf := List.replicate 16 1 }]
/-- The machine after its write. -/
def labRowM : Mach := (engWrite1 labRow.cfg labRow.m (ocOf labRow .copy) 0x4000000000000400
  (bytesAt (ocOf labRow .copy).o.buf ((ocOf labRow .copy).o.pos % (layOf labLay).rowTotal) ((layOf labLay).piece (ocOf labRow .copy).o.pos))).2
/-- A packing copy whose row is held, to a compressed page. -/
def labPack : State := labWith (fun m => { m with
  tlb := ⟨.eng 1 .copy, 0, 0, 2, ⟨0x23D, 0, 16⟩⟩ :: m.tlb
  ops := [{ labOp .copy (.tcopy true ⟨false, false, false, false⟩ (List.replicate 64 0) labLayP labLayP) with n := 1, stage := 3, buf := List.replicate 512 1 }] })
/-- The place of its block. -/
def labPackR : EngR (List (Acc × List Byte)) × Mach := packAcc labPack.cfg labPack.m (ocOf labPack .copy) 0x20000
  (bytesAt (ocOf labPack .copy).o.buf ((ocOf labPack .copy).o.pos % (layOf labLayP).rowTotal) 512)
/-- A codebook binding. -/
def labBook : State :=
  let s := labR (fun r => { r with binds := List.replicate 3 ⟨0, 0, 0, 0, false, 0⟩ ++ [⟨2, 0, 0, 0, false, 0x4000000000000400⟩] })
  { s with m := { s.m with ops := [labOp .copy (.prolog 3)] } }
/-- The read of the codebook. -/
def labBookR : EngR (List Byte) × Mach := engRead labBook.cfg labBook.m (ocOf labBook .copy) ((ocOf labBook .copy).rc.binds.getD 3 ⟨0, 0, 0, 0, false, 0⟩).addr.toNat 32
/-- A job of the decompressor with nothing to read. -/
def labJob : State := labOps [labOp .dcmp (.dcjob true (List.replicate 64 0))]
/-- The machine after its report. -/
def labJobM : Mach := (engWrite1 labJob.cfg labJob.m (ocOf labJob .dcmp) (genOfScr (ocOf labJob .dcmp).o.blkAddr + 0x28) (leBytes 4 (ocOf labJob .dcmp).o.prog ++ leBytes 4 0)).2
/-- The first rotation of a team. -/
def labRrot (t : Nat) (len : Word) : Op := { labOp .copy (.rrot true 64 len) with t := t }
/-- A team of the lab's cluster that has called a rotation of 16 bytes, the other way where `bwd` is false. -/
def labRingT (t : Nat) (bwd : Bool) : Team := { labC.tm with t := t, idx := t - 1, core := t - 1, rots := [(bwd, 64, 16)] }
/-- Two teams of a cluster that rotate 16 bytes, the second as given. -/
def labRing (bwd : Bool) : State := labWith (fun m => { m with teams := [labRingT 1 true, labRingT 2 bwd], ops := [labRrot 1 16, labRrot 2 16] })
/-- A rotation of no bytes. -/
def labRot : State := labWith (fun m => { m with teams := m.teams.map (fun tm => { tm with rots := [(true, 64, 0)] }), ops := [labRrot 1 0] })
/-- A team in its prologue. -/
def labProl (k : Nat) : State := labWith (fun m => { m with
  teams := m.teams.map (fun tm => { tm with prol := k, prolDone := false }), clusters := m.clusters.map (fun cl => { cl with started := false }) })
/-- A copy that has waited the full limit for a granule. -/
def labWaitFe : State :=
  let s := labR (fun r => { r with fek := 10 })
  { s with m := { s.m.setGranule 1 0x40 (false, 0xFFFE) with
    cyc := 1024
    ops := [{ labOp .copy (.tcopy false ⟨false, false, false, false⟩ (blkOf 64 [(0x10, 8, 16)]) labLay labLay) with n := 1, stage := 3, feSince := some 0 }] } }
/-- The descriptor of a send of 2,048 bytes, all of them prefix. -/
def labPutB : List Byte := blkOf 32 [(0, 8, 0xC00A000000001000), (8, 8, 0x4000000000000400), (0x10, 4, 2048), (0x14, 4, 64)]
/-- The send has begun. -/
def labPut : State := labOps [{ labOp .exch (.xput labPutB) with n := 1, xfer := some ⟨7, 0, 0, 0, none, []⟩ }]
/-- Its first access. -/
def labPutR : EngR (List Byte) × Mach :=
  engRead1 labPut.cfg labPut.m (ocOf labPut .exch) (((descOf labPutB).src + 0 + (ocOf labPut .exch).o.buf.length) % 2 ^ 64)
    (pieceLen (((descOf labPutB).src + 0 + (ocOf labPut .exch).o.buf.length) % 2 ^ 64) ((min 1024 ((descOf labPutB).prefixLen - 0)) - (ocOf labPut .exch).o.buf.length))
/-- The descriptor of an XGET of one byte. -/
def labGetB : List Byte := blkOf 32 [(0, 8, 0x4000000000000400), (8, 8, 0xC00A000000001000), (0x10, 4, 1)]
/-- The lab with it. -/
def labGet : State := labOps [labOp .exch (.xget labGetB)]
/-- The check of its destination. -/
def labGetR : EngR (Acc × Nat) × Mach := engPlace labGet.cfg labGet.m (ocOf labGet .exch) (descOf labGetB).dst 1 .write
/-- A sort of one record of one word. -/
def labSortB : List Byte := blkOf 64 [(0, 8, 0x4000000000000400), (8, 8, 0x4000000000000500), (0x10, 8, 0x100000001), (0x18, 8, 1), (0x20, 8, 0x4000000000000600)]
/-- The sort in its second pass, with the record read. -/
def labSort : State := labOps [{ labOp .exch (.xsort labSortB) with stage := 3, buf := [0, 0], ins := [[7, 0, 0, 0]] }]
/-- The machine after its write. -/
def labSortM : Mach := (engWrite1 labSort.cfg labSort.m (ocOf labSort .exch) 0x4000000000000500 (bytesAt [7, 0, 0, 0] (ocOf labSort .exch).o.tries 4)).2
/-- An arm. -/
def labArmO : Op := { labOp .exch (.xarm (List.replicate 64 0) 0x4000000000000400 0) with n := 1 }
/-- The lab with it. -/
def labArm : State := labOps [labArmO]
/-- The arm with its records. -/
def ocArm (s : State) : OpCtx := (opCtx s.m labArmO).getD (ocOf s .exch)
/-- An operation that has ended. -/
def labFin : Op := { labOp .exch (.xput []) with n := 1, fin := some (1, 7, 0) }

/-- The premises of MatrixSteps. -/
theorem test_premises_MatrixSteps :
    (∃ (s : State), ∃ (T : Nat), ∃ (oc : OpCtx), ∃ (mask : Nat), Working s T .matrix oc ∧ oc.o.cmd = .accz mask ∧ ((∀ x ∈ bitsOf mask 4, nbit oc.rc.tmask x = true))) ∧
    (∃ (s : State), ∃ (T : Nat), ∃ (oc : OpCtx), ∃ (mask : Nat), Working s T .matrix oc ∧ oc.o.cmd = .accz mask ∧ ((∃ x ∈ bitsOf mask 4, nbit oc.rc.tmask x = false))) ∧
    (∃ (s : State), ∃ (T : Nat), ∃ (oc : OpCtx), ∃ (zs : Bool), ∃ (bs : List Byte), ∃ (b : Nat), ∃ (slot : Nat), ∃ (base : Nat), ∃ (cb : List (BitVec 16)), Working s T .matrix oc ∧ oc.o.cmd = .mma zs bs b slot base cb ∧ oc.o.stage = 0 ∧ mmaBad oc (mmaBlk bs) slot = true) ∧
    (∃ (s : State), ∃ (T : Nat), ∃ (oc : OpCtx), ∃ (zs : Bool), ∃ (bs : List Byte), ∃ (b : Nat), ∃ (slot : Nat), ∃ (base : Nat), ∃ (cb : List (BitVec 16)), Working s T .matrix oc ∧ oc.o.cmd = .mma zs bs b slot base cb ∧ oc.o.stage = 1 ∧ 128 * ((mmaBlk bs).kb * fmtBits (oc.rc.slot slot) * 4) ≤ oc.o.buf.length ∧ (s.m.accErr = [] ∧ s.m.regErr = [] ∧ s.m.scaleErr = [])) ∧
    (∃ (s : State), ∃ (T : Nat), ∃ (oc : OpCtx), ∃ (col : Bool), ∃ (fl : DrainFlags), ∃ (bs : List Byte), ∃ (slot : Nat), Working s T .matrix oc ∧ oc.o.cmd = .drain col fl bs slot ∧ oc.o.stage = 0 ∧ drainBad oc (drainBlk bs) col fl slot = true) ∧
    (∃ (s : State), ∃ (T : Nat), ∃ (oc : OpCtx), ∃ (col : Bool), ∃ (fl : DrainFlags), ∃ (bs : List Byte), ∃ (slot : Nat), ∃ (w : Nat × List Byte), ∃ (m : Mach), Working s T .matrix oc ∧ oc.o.cmd = .drain col fl bs slot ∧ oc.o.stage = 1 ∧ fl.all = false ∧ ((drainWrites s.m oc (drainBlk bs) col (oc.rc.slot slot) ++ (if scaleKind (oc.rc.slot slot) ≠ 0 ∧ fl.sm = false then drainScaleWrites s.m oc (drainBlk bs) col (oc.rc.slot slot) else []))[oc.o.prog]? = some w) ∧ engWrite1 s.cfg s.m oc w.1 w.2 = (.ok (), m)) ∧
    (∃ (s : State), ∃ (T : Nat), ∃ (oc : OpCtx), ∃ (col : Bool), ∃ (fl : DrainFlags), ∃ (bs : List Byte), ∃ (slot : Nat), Working s T .matrix oc ∧ oc.o.cmd = .drain col fl bs slot ∧ oc.o.stage = 1 ∧ fl.all = false ∧ scaleKind (oc.rc.slot slot) = 0 ∧ (drainWrites s.m oc (drainBlk bs) col (oc.rc.slot slot)).length ≤ oc.o.prog) ∧
    (∃ (s : State), ∃ (T : Nat), ∃ (oc : OpCtx), ∃ (col : Bool), ∃ (fl : DrainFlags), ∃ (bs : List Byte), ∃ (slot : Nat), ∃ (as : List (Acc × List Byte)), ∃ (m : Mach), Working s T .matrix oc ∧ oc.o.cmd = .drain col fl bs slot ∧ oc.o.stage = 1 ∧ fl.all = true ∧ scaleKind (oc.rc.slot slot) = 0 ∧ engResolve s.cfg s.m oc (drainWrites s.m oc (drainBlk bs) col (oc.rc.slot slot)) = (.ok as, m)) :=
  ⟨⟨(labOps [{ labOp .matrix (.accz 15) with n := 1 }]), 1, (ocOf (labOps [{ labOp .matrix (.accz 15) with n := 1 }]) .matrix), 15, working_of (by decide +kernel), by decide +kernel⟩,
    ⟨(labTm (.accz 1)), 1, (ocOf (labTm (.accz 1)) .matrix), 1, working_of (by decide +kernel), by decide +kernel⟩,
    ⟨(labOps [{ labOp .matrix (.mma false (List.replicate 64 0) 0 5 0 []) with n := 1 }]), 1, (ocOf (labOps [{ labOp .matrix (.mma false (List.replicate 64 0) 0 5 0 []) with n := 1 }]) .matrix), false, (List.replicate 64 0), 0, 5, 0, [], working_of (by decide +kernel), by decide +kernel⟩,
    ⟨(labOps [{ labOp .matrix (.mma false (blkOf 64 [(8, 4, 1)]) 0 5 0 []) with n := 1, stage := 1, buf := List.replicate 2048 0 }]), 1, (ocOf (labOps [{ labOp .matrix (.mma false (blkOf 64 [(8, 4, 1)]) 0 5 0 []) with n := 1, stage := 1, buf := List.replicate 2048 0 }]) .matrix), false, (blkOf 64 [(8, 4, 1)]), 0, 5, 0, [], working_of (by decide +kernel), by decide +kernel⟩,
    ⟨(labOps [{ labOp .matrix (.drain true ⟨false, true, true⟩ (blkOf 64 [(0, 8, 1)]) 3) with n := 1 }]), 1, (ocOf (labOps [{ labOp .matrix (.drain true ⟨false, true, true⟩ (blkOf 64 [(0, 8, 1)]) 3) with n := 1 }]) .matrix), true, ⟨false, true, true⟩, (blkOf 64 [(0, 8, 1)]), 3, working_of (by decide +kernel), by decide +kernel⟩,
    ⟨labDrain, 1, (ocOf labDrain .matrix), true, ⟨false, false, true⟩, labDrainB, 3, labDrainW, labDrainM, working_of (by decide +kernel), and3 (by decide +kernel) ⟨labDrain_some, labDrain_write⟩⟩,
    ⟨(labOps [labDrainOp ⟨false, false, true⟩ 1024]), 1, (ocOf (labOps [labDrainOp ⟨false, false, true⟩ 1024]) .matrix), true, ⟨false, false, true⟩, labDrainB, 3, working_of (by decide +kernel), by decide +kernel⟩,
    ⟨labDrainAll, 1, (ocOf labDrainAll .matrix), true, ⟨true, false, true⟩, labDrainB, 3, (okOr [] labDrainAllR.1), labDrainAllR.2, working_of (by decide +kernel), and4 (by decide +kernel) (ok_of (d := []) (by decide +kernel))⟩⟩

/-- The premises of CopySteps. -/
theorem test_premises_CopySteps :
    (∃ (s : State), ∃ (T : Nat), ∃ (oc : OpCtx), ∃ (fl : CopyFlags), ∃ (blk : List Byte), ∃ (srec : List Byte), ∃ (drec : List Byte), Working s T .copy oc ∧ oc.o.cmd = .tcopy false fl blk srec drec ∧ oc.o.stage = 0 ∧ tcBad oc ⟨false, fl, blk, layOf srec, layOf drec⟩ = true) ∧
    (∃ (s : State), ∃ (T : Nat), ∃ (oc : OpCtx), ∃ (fl : CopyFlags), ∃ (blk : List Byte), ∃ (srec : List Byte), ∃ (drec : List Byte), Working s T .copy oc ∧ oc.o.cmd = .tcopy true fl blk srec drec ∧ oc.o.stage = 0 ∧ tcBad oc ⟨true, fl, blk, layOf srec, layOf drec⟩ = true) ∧
    (∃ (s : State), ∃ (T : Nat), ∃ (oc : OpCtx), ∃ (fl : CopyFlags), ∃ (blk : List Byte), ∃ (srec : List Byte), ∃ (drec : List Byte), Working s T .copy oc ∧ oc.o.cmd = .tcopy false fl blk srec drec ∧ oc.o.stage = 0 ∧ tcBad oc ⟨false, fl, blk, layOf srec, layOf drec⟩ = false) ∧
    (∃ (s : State), ∃ (T : Nat), ∃ (oc : OpCtx), ∃ (fl : CopyFlags), ∃ (blk : List Byte), ∃ (srec : List Byte), ∃ (drec : List Byte), ∃ (a : Nat), ∃ (m : Mach), Working s T .copy oc ∧ oc.o.cmd = .tcopy false fl blk srec drec ∧ oc.o.stage = 3 ∧ (fl.all = false ∧ fl.cr = false) ∧ (layOf srec).rowTotal ≤ oc.o.buf.length ∧ (layOf drec).loc oc.o.pos = .mem a ∧ engWrite1 s.cfg s.m oc a (bytesAt oc.o.buf (oc.o.pos % (layOf srec).rowTotal) ((layOf drec).piece oc.o.pos)) = (.ok (), m)) ∧
    (∃ (s : State), ∃ (T : Nat), ∃ (oc : OpCtx), ∃ (fl : CopyFlags), ∃ (blk : List Byte), ∃ (srec : List Byte), ∃ (drec : List Byte), ∃ (a : Nat), ∃ (as : List (Acc × List Byte)), ∃ (m : Mach), Working s T .copy oc ∧ oc.o.cmd = .tcopy true fl blk srec drec ∧ oc.o.stage = 3 ∧ (fl.all = false ∧ fl.cr = false) ∧ (layOf srec).rowTotal ≤ oc.o.buf.length ∧ (layOf drec).loc oc.o.pos = .mem a ∧ packAcc s.cfg s.m oc a (bytesAt oc.o.buf (oc.o.pos % (layOf srec).rowTotal) 512) = (.ok as, m)) ∧
    (∃ (s : State), ∃ (T : Nat), ∃ (oc : OpCtx), ∃ (fl : CopyFlags), ∃ (blk : List Byte), ∃ (srec : List Byte), ∃ (drec : List Byte), Working s T .copy oc ∧ oc.o.cmd = .tcopy false fl blk srec drec ∧ oc.o.stage = 6 ∧ fl.ver = false) ∧
    (∃ (s : State), ∃ (T : Nat), ∃ (oc : OpCtx), ∃ (fl : CopyFlags), ∃ (blk : List Byte), ∃ (srec : List Byte), ∃ (drec : List Byte), Working s T .copy oc ∧ oc.o.cmd = .tcopy true fl blk srec drec ∧ oc.o.stage = 6 ∧ fl.ver = false) ∧
    (∃ (s : State), ∃ (T : Nat), ∃ (oc : OpCtx), ∃ (k : Nat), Working s T .copy oc ∧ oc.o.cmd = .prolog k ∧ (oc.rc.binds.getD k ⟨0, 0, 0, 0, false, 0⟩).kind = 0) ∧
    (∃ (s : State), ∃ (T : Nat), ∃ (oc : OpCtx), ∃ (k : Nat), ∃ (bs : List Byte), ∃ (m : Mach), Working s T .copy oc ∧ oc.o.cmd = .prolog k ∧ (oc.rc.binds.getD k ⟨0, 0, 0, 0, false, 0⟩).kind = 2 ∧ engRead s.cfg s.m oc (oc.rc.binds.getD k ⟨0, 0, 0, 0, false, 0⟩).addr.toNat 32 = (.ok bs, m)) ∧
    (∃ (s : State), ∃ (T : Nat), ∃ (oc : OpCtx), ∃ (arr : Bool), ∃ (blk : List Byte), ∃ (m : Mach), Working s T .dcmp oc ∧ oc.o.cmd = .dcjob arr blk ∧ (cardOf blk).reserved = false ∧ (cardOf blk).srclen ≤ 2 ^ 31 ∧ (cardOf blk).srclen ≤ oc.o.pos ∧ oc.o.ins.getD 1 [] = [] ∧ engWrite1 s.cfg s.m oc (genOfScr oc.o.blkAddr + 0x28) (leBytes 4 oc.o.prog ++ leBytes 4 0) = (.ok (), m)) ∧
    (∃ (s : State), ∃ (T : Nat), ∃ (oc : OpCtx), ∃ (arr : Bool), ∃ (blk : List Byte), Working s T .dcmp oc ∧ oc.o.cmd = .dcjob arr blk ∧ (((cardOf blk).reserved = true ∨ 2 ^ 31 < (cardOf blk).srclen))) ∧
    (∃ (s : State), ∃ (K : Nat), ∃ (_n : Nat), ∃ (cl : Cluster), ∃ (la : Launch), ∃ (rc : LRec), ∃ (o : Op), ∃ (bwd : Bool), ∃ (off : Word), s.m.cluster? K = some cl ∧ cl.pre ≠ .stopping ∧ cl.pre ≠ .saved ∧ s.m.launch? cl.l = some la ∧ la.rec_ = some rc ∧ ((s.m.teamsOf K).filterMap (fun tm => s.m.curRrot tm.t)).find? (fun p => ((s.m.teamsOf K).filterMap (fun tm => s.m.curRrot tm.t)).all (fun x => decide (p.prog ≤ x.prog))) = some o ∧ o.cmd = .rrot bwd off 0 ∧ rrotBad rc.scr off.toNat 0 = false ∧ ((∀ tm ∈ s.m.teamsOf K, tm.rots[o.prog]? = some (bwd, off.toNat, 0) ∨ (tm.rots[o.prog]? = none ∧ ∃ g ∈ s.m.groupsOf tm.t, g.ended = false)))) ∧
    (∃ (s : State), ∃ (K : Nat), ∃ (_n : Nat), ∃ (cl : Cluster), ∃ (la : Launch), ∃ (rc : LRec), ∃ (o : Op), ∃ (bwd : Bool), ∃ (off : Word), ∃ (len : Word), s.m.cluster? K = some cl ∧ cl.pre ≠ .stopping ∧ cl.pre ≠ .saved ∧ s.m.launch? cl.l = some la ∧ la.rec_ = some rc ∧ ((s.m.teamsOf K).filterMap (fun tm => s.m.curRrot tm.t)).find? (fun p => ((s.m.teamsOf K).filterMap (fun tm => s.m.curRrot tm.t)).all (fun x => decide (p.prog ≤ x.prog))) = some o ∧ o.cmd = .rrot bwd off len ∧ ((∃ tm ∈ s.m.teamsOf K, ∃ r, tm.rots[o.prog]? = some r ∧ (r ≠ (bwd, off.toNat, len.toNat) ∨ rrotBad rc.scr r.2.1 r.2.2 = true)))) ∧
    (∃ (s : State), ∃ (K : Nat), ∃ (cl : Cluster), ∃ (la : Launch), ∃ (rc : LRec), ∃ (x : Team), ∃ (y : Team), ∃ (o : Op), ∃ (p : Op), ∃ (bwd : Bool), ∃ (off : Word), ∃ (len : Word), s.m.cluster? K = some cl ∧ cl.pre ≠ .stopping ∧ cl.pre ≠ .saved ∧ s.m.teamsOf K = [x, y] ∧ x.rots[o.prog]? = some (bwd, off.toNat, len.toNat) ∧ y.rots[o.prog]? = some (bwd, off.toNat, len.toNat) ∧ p.prog = o.prog ∧ s.m.launch? cl.l = some la ∧ la.rec_ = some rc ∧ (s.m.curOp x.t .copy = some o ∧ o.cmd = .rrot bwd off len) ∧ (s.m.curOp y.t .copy = some p ∧ p.cmd = .rrot bwd off len) ∧ len ≠ 0 ∧ rrotBad rc.scr off.toNat len.toNat = false ∧ ((∀ r ∈ s.m.rings, r.c ≠ K)) ∧ s.m.bufs = [] ∧ s.m.canonical = true ∧ x.t ≠ y.t) ∧
    (∃ (s : State), ∃ (T : Nat), ∃ (tm : Team), ∃ (cl : Cluster), ∃ (la : Launch), ∃ (rc : LRec), s.m.team? T = some tm ∧ s.m.cluster? tm.c = some cl ∧ s.m.launch? tm.l = some la ∧ la.rec_ = some rc ∧ tm.prolDone = false ∧ cl.started = false ∧ tm.prol = 4 ∧ cl.pre ≠ .saved ∧ cl.pre ≠ .stopping ∧ ((∀ o ∈ s.m.opsOf T .copy, o.n ≠ 0))) ∧
    (∃ (s : State), ∃ (T : Nat), ∃ (tm : Team), ∃ (cl : Cluster), ∃ (la : Launch), ∃ (rc : LRec), s.m.team? T = some tm ∧ s.m.cluster? tm.c = some cl ∧ s.m.launch? tm.l = some la ∧ la.rec_ = some rc ∧ tm.prolDone = false ∧ cl.started = false ∧ tm.prol < 4 ∧ cl.pre ≠ .saved ∧ cl.pre ≠ .stopping ∧ ((∀ o ∈ s.m.opsOf T .copy, o.n ≠ 0))) ∧
    (∃ (s : State), ∃ (T : Nat), ∃ (oc : OpCtx), ∃ (fl : CopyFlags), ∃ (blk : List Byte), ∃ (srec : List Byte), ∃ (drec : List Byte), ∃ (pk : Bool), ∃ (n : Nat), ∃ (a : Nat), Working s T .copy oc ∧ oc.o.cmd = .tcopy pk fl blk srec drec ∧ oc.o.feSince = some n ∧ 2 ^ oc.rc.fek ≤ s.m.cyc - n ∧ fl.ver = false ∧ tcAwaits s.m oc ⟨pk, fl, blk, layOf srec, layOf drec⟩ ((if fl.all || fl.cr then 0 else oc.o.pos) + oc.o.buf.length) = some a) :=
  ⟨⟨(labOps [{ labOp .copy (.tcopy false ⟨false, false, false, false⟩ (List.replicate 64 0) (List.replicate 128 0) (List.replicate 128 0)) with n := 1 }]), 1, (ocOf (labOps [{ labOp .copy (.tcopy false ⟨false, false, false, false⟩ (List.replicate 64 0) (List.replicate 128 0) (List.replicate 128 0)) with n := 1 }]) .copy), ⟨false, false, false, false⟩, (List.replicate 64 0), (List.replicate 128 0), (List.replicate 128 0), working_of (by decide +kernel), by decide +kernel⟩,
    ⟨(labOps [{ labOp .copy (.tcopy true ⟨false, false, false, false⟩ (List.replicate 64 0) (List.replicate 128 0) (List.replicate 128 0)) with n := 1 }]), 1, (ocOf (labOps [{ labOp .copy (.tcopy true ⟨false, false, false, false⟩ (List.replicate 64 0) (List.replicate 128 0) (List.replicate 128 0)) with n := 1 }]) .copy), ⟨false, false, false, false⟩, (List.replicate 64 0), (List.replicate 128 0), (List.replicate 128 0), working_of (by decide +kernel), by decide +kernel⟩,
    ⟨(labOps [{ labOp .copy (.tcopy false ⟨false, false, false, false⟩ (List.replicate 64 0) labLay labLay) with n := 1 }]), 1, (ocOf (labOps [{ labOp .copy (.tcopy false ⟨false, false, false, false⟩ (List.replicate 64 0) labLay labLay) with n := 1 }]) .copy), ⟨false, false, false, false⟩, (List.replicate 64 0), labLay, labLay, working_of (by decide +kernel), by decide +kernel⟩,
    ⟨labRow, 1, (ocOf labRow .copy), ⟨false, false, false, false⟩, (List.replicate 64 0), labLay, labLay, 0x4000000000000400, labRowM, working_of (by decide +kernel), and5 (by decide +kernel) (pair_of (by decide +kernel))⟩,
    ⟨labPack, 1, (ocOf labPack .copy), ⟨false, false, false, false⟩, (List.replicate 64 0), labLayP, labLayP, 0x20000, (okOr [] labPackR.1), labPackR.2, working_of (by decide +kernel), and5 (by decide +kernel) (ok_of (d := []) (by decide +kernel))⟩,
    ⟨(labOps [{ labOp .copy (.tcopy false ⟨false, false, false, false⟩ (List.replicate 64 0) labLay labLay) with n := 1, stage := 6 }]), 1, (ocOf (labOps [{ labOp .copy (.tcopy false ⟨false, false, false, false⟩ (List.replicate 64 0) labLay labLay) with n := 1, stage := 6 }]) .copy), ⟨false, false, false, false⟩, (List.replicate 64 0), labLay, labLay, working_of (by decide +kernel), by decide +kernel⟩,
    ⟨(labOps [{ labOp .copy (.tcopy true ⟨false, false, false, false⟩ (List.replicate 64 0) labLay labLay) with n := 1, stage := 6 }]), 1, (ocOf (labOps [{ labOp .copy (.tcopy true ⟨false, false, false, false⟩ (List.replicate 64 0) labLay labLay) with n := 1, stage := 6 }]) .copy), ⟨false, false, false, false⟩, (List.replicate 64 0), labLay, labLay, working_of (by decide +kernel), by decide +kernel⟩,
    ⟨(labOps [{ labOp .copy (.prolog 3) with n := 1 }]), 1, (ocOf (labOps [{ labOp .copy (.prolog 3) with n := 1 }]) .copy), 3, working_of (by decide +kernel), by decide +kernel⟩,
    ⟨labBook, 1, (ocOf labBook .copy), 3, (okOr [] labBookR.1), labBookR.2, working_of (by decide +kernel), by decide +kernel, by decide +kernel, ok_of (d := []) (by decide +kernel)⟩,
    ⟨labJob, 1, (ocOf labJob .dcmp), true, (List.replicate 64 0), labJobM, working_of (by decide +kernel), and5 (by decide +kernel) (pair_of (by decide +kernel))⟩,
    ⟨(labOps [{ labOp .dcmp (.dcjob true (blkOf 64 [(8, 4, 0x80000001)])) with n := 1 }]), 1, (ocOf (labOps [{ labOp .dcmp (.dcjob true (blkOf 64 [(8, 4, 0x80000001)])) with n := 1 }]) .dcmp), true, (blkOf 64 [(8, 4, 0x80000001)]), working_of (by decide +kernel), by decide +kernel⟩,
    ⟨labRot, 1, 1, labC.cl, labC.la, labC.rc, (labRrot 1 0), true, 64, by decide +kernel⟩,
    ⟨(labRing false), 1, 1, labC.cl, labC.la, labC.rc, (labRrot 1 16), true, 64, 16, and7 (by decide +kernel) ⟨labRingT 2 false, by decide +kernel, (false, 64, 16), by decide +kernel⟩⟩,
    ⟨(labRing true), 1, labC.cl, labC.la, labC.rc, (labRingT 1 true), (labRingT 2 true), (labRrot 1 16), (labRrot 2 16), true, 64, 16, by decide +kernel⟩,
    ⟨(labProl 4), 1, { labC.tm with prol := 4, prolDone := false }, { labC.cl with started := false }, labC.la, labC.rc, by decide +kernel⟩,
    ⟨(labProl 3), 1, { labC.tm with prol := 3, prolDone := false }, { labC.cl with started := false }, labC.la, labC.rc, by decide +kernel⟩,
    ⟨labWaitFe, 1, (ocOf labWaitFe .copy), ⟨false, false, false, false⟩, (blkOf 64 [(0x10, 8, 16)]), labLay, labLay, false, 0, 0x4000000000000400, working_of (by decide +kernel), by decide +kernel⟩⟩

/-- The premises of ExchangeSteps. -/
theorem test_premises_ExchangeSteps :
    (∃ (s : State), ∃ (T : Nat), ∃ (oc : OpCtx), ∃ (b : List Byte), Working s T .exch oc ∧ oc.o.cmd = .xput b ∧ oc.o.xfer = none ∧ (descOf b).bad false = true) ∧
    (∃ (s : State), ∃ (T : Nat), ∃ (oc : OpCtx), ∃ (b : List Byte), Working s T .exch oc ∧ oc.o.cmd = .xget b ∧ oc.o.xfer = none ∧ (descOf b).bad true = true) ∧
    (∃ (s : State), ∃ (T : Nat), ∃ (oc : OpCtx), ∃ (b : List Byte), Working s T .exch oc ∧ oc.o.cmd = .xput b ∧ oc.o.xfer = none ∧ (descOf b).bad false = false ∧ (descOf b).len = 0) ∧
    (∃ (s : State), ∃ (T : Nat), ∃ (oc : OpCtx), ∃ (b : List Byte), Working s T .exch oc ∧ oc.o.cmd = .xget b ∧ oc.o.xfer = none ∧ (descOf b).bad true = false ∧ (descOf b).len = 0) ∧
    (∃ (s : State), ∃ (T : Nat), ∃ (oc : OpCtx), ∃ (b : List Byte), Working s T .exch oc ∧ oc.o.cmd = .xput b ∧ oc.o.xfer = none ∧ (descOf b).bad false = false ∧ (descOf b).len ≠ 0) ∧
    (∃ (s : State), ∃ (T : Nat), ∃ (oc : OpCtx), ∃ (b : List Byte), ∃ (x : Xfer), ∃ (bs : List Byte), ∃ (m : Mach), Working s T .exch oc ∧ oc.o.cmd = .xput b ∧ oc.o.xfer = some x ∧ x.bad = none ∧ cutFrom s.cfg s.m (nbits (descOf b).dst 61 49) = false ∧ oc.o.stage = 0 ∧ x.sent < (descOf b).prefixLen ∧ engRead1 s.cfg s.m oc (((descOf b).src + x.sent + oc.o.buf.length) % 2 ^ 64) (pieceLen (((descOf b).src + x.sent + oc.o.buf.length) % 2 ^ 64) ((min 1024 ((descOf b).prefixLen - x.sent)) - oc.o.buf.length)) = (.ok bs, m)) ∧
    (∃ (s : State), ∃ (T : Nat), ∃ (oc : OpCtx), ∃ (b : List Byte), ∃ (a : Acc), ∃ (va : Nat), ∃ (m : Mach), Working s T .exch oc ∧ oc.o.cmd = .xget b ∧ oc.o.xfer = none ∧ (descOf b).bad true = false ∧ (descOf b).len ≠ 0 ∧ engPlace s.cfg s.m oc (descOf b).dst 1 .write = (.ok (a, va), m) ∧ cutFrom s.cfg m (nbits (descOf b).src 61 49) = false) ∧
    (∃ (s : State), ∃ (T : Nat), ∃ (oc : OpCtx), ∃ (blk : List Byte), ∃ (crec : List Byte), ∃ (drec : List Byte), ∃ (_w : CollMsg), Working s T .exch oc ∧ oc.o.cmd = .coll blk crec drec ∧ oc.o.stage = 0 ∧ (collOf crec).bad = true) ∧
    (∃ (s : State), ∃ (T : Nat), ∃ (oc : OpCtx), ∃ (blk : List Byte), ∃ (crec : List Byte), ∃ (drec : List Byte), ∃ (recs : List (Nat × List Byte)), ∃ (_slots : Bool), Working s T .exch oc ∧ oc.o.cmd = .coll blk crec drec ∧ oc.o.stage = 0 ∧ (collOf crec).bad = false ∧ (collOf crec).group.length ≠ 1 ∧ recs.length = (collOf crec).peers.length ∧ ((∀ r ∈ recs, (collOf r.2).tag = (collOf crec).tag ∧ r.1 = oc.o.v1.toNat)) ∧ ((∃ r ∈ recs, (collOf r.2).key (layOf (bytesAt r.2 0 128)).elems ≠ (collOf crec).key (layOf (bytesAt crec 0 128)).elems))) ∧
    (∃ (s : State), ∃ (T : Nat), ∃ (oc : OpCtx), ∃ (blk : List Byte), ∃ (crec : List Byte), ∃ (drec : List Byte), ∃ (recs : List (Nat × List Byte)), ∃ (_slots : Bool), Working s T .exch oc ∧ oc.o.cmd = .coll blk crec drec ∧ oc.o.stage = 0 ∧ (collOf crec).bad = false ∧ (collOf crec).group.length ≠ 1 ∧ recs.length = (collOf crec).peers.length ∧ ((∀ r ∈ recs, (collOf r.2).tag = (collOf crec).tag ∧ r.1 = oc.o.v1.toNat)) ∧ collBad s.m oc (collOf crec) blk (layOf (bytesAt crec 0 128)) (layOf drec) = true) ∧
    (∃ (s : State), ∃ (T : Nat), ∃ (oc : OpCtx), ∃ (blk : List Byte), ∃ (crec : List Byte), ∃ (drec : List Byte), ∃ (recs : List (Nat × List Byte)), Working s T .exch oc ∧ oc.o.cmd = .coll blk crec drec ∧ oc.o.stage = 0 ∧ (collOf crec).bad = false ∧ (collOf crec).group.length ≠ 1 ∧ recs.length = (collOf crec).peers.length ∧ ((∀ r ∈ recs, (collOf r.2).tag = (collOf crec).tag ∧ r.1 = oc.o.v1.toNat)) ∧ ((∀ r ∈ recs, (collOf r.2).key (layOf (bytesAt r.2 0 128)).elems = (collOf crec).key (layOf (bytesAt crec 0 128)).elems)) ∧ collBad s.m oc (collOf crec) blk (layOf (bytesAt crec 0 128)) (layOf drec) = false ∧ (collOf crec).swonly = true) ∧
    (∃ (s : State), ∃ (T : Nat), ∃ (oc : OpCtx), ∃ (blk : List Byte), ∃ (crec : List Byte), ∃ (drec : List Byte), ∃ (ins : List (List Byte)), ∃ (e : Nat), Working s T .exch oc ∧ oc.o.cmd = .coll blk crec drec ∧ oc.o.stage = 3 ∧ collCut s.cfg s.m oc.o (collOf crec) = false ∧ (collOf crec).destElems (collOf crec).pos (collOf crec).group.length (layOf (bytesAt crec 0 128)).elems = some e ∧ ins.length = (collOf crec).group.length - 1 ∧ (collOf crec).pos < (collOf crec).group.length ∧ ((∀ i, (collOf crec).needs i = true → i < (collOf crec).group.length → ((ins.take (collOf crec).pos ++ [oc.o.buf] ++ ins.drop (collOf crec).pos).getD i []).length = (collOf crec).givenLen (layOf (bytesAt crec 0 128)).elems))) ∧
    (∃ (s : State), ∃ (T : Nat), ∃ (oc : OpCtx), ∃ (blk : List Byte), ∃ (crec : List Byte), ∃ (drec : List Byte), Working s T .exch oc ∧ oc.o.cmd = .coll blk crec drec ∧ oc.o.stage = 4 ∧ collCut s.cfg s.m oc.o (collOf crec) = false ∧ oc.o.again = [] ∧ oc.o.buf.length ≤ oc.o.pos) ∧
    (∃ (s : State), ∃ (T : Nat), ∃ (oc : OpCtx), ∃ (blk : List Byte), ∃ (crec : List Byte), ∃ (drec : List Byte), Working s T .exch oc ∧ oc.o.cmd = .coll blk crec drec ∧ 5 ≤ oc.o.stage ∧ collCut s.cfg s.m oc.o (collOf crec) = false) ∧
    (∃ (s : State), ∃ (T : Nat), ∃ (oc : OpCtx), ∃ (blk : List Byte), ∃ (crec : List Byte), ∃ (drec : List Byte), Working s T .exch oc ∧ oc.o.cmd = .coll blk crec drec ∧ 5 ≤ oc.o.stage ∧ collCut s.cfg s.m oc.o (collOf crec) = false ∧ oc.o.again = [] ∧ ((collOf crec).receivers = [] ∨ oc.o.ins.getD 3 [] ≠ [])) ∧
    (∃ (s : State), ∃ (T : Nat), ∃ (oc : OpCtx), ∃ (blk : List Byte), ∃ (crec : List Byte), ∃ (drec : List Byte), ∃ (_dev : Nat), ∃ (_chunk : Nat), Working s T .exch oc ∧ oc.o.cmd = .coll blk crec drec ∧ 3 ≤ oc.o.stage ∧ collCut s.cfg s.m oc.o (collOf crec) = false ∧ (collOf crec).receivers ≠ []) ∧
    (∃ (s : State), ∃ (T : Nat), ∃ (oc : OpCtx), ∃ (blk : List Byte), ∃ (crec : List Byte), ∃ (drec : List Byte), Working s T .exch oc ∧ oc.o.cmd = .coll blk crec drec ∧ 3 ≤ oc.o.stage ∧ collCut s.cfg s.m oc.o (collOf crec) = false ∧ oc.o.again ≠ [] ∧ (layOf (bytesAt crec 0 128)).plain.nrows * (layOf (bytesAt crec 0 128)).plain.rowTotal ≤ (oc.o.ins.getD 2 []).length) ∧
    (∃ (s : State), ∃ (T : Nat), ∃ (oc : OpCtx), ∃ (blk : List Byte), Working s T .exch oc ∧ oc.o.cmd = .xsort blk ∧ oc.o.stage = 0 ∧ (sortOf blk).bad = true) ∧
    (∃ (s : State), ∃ (T : Nat), ∃ (oc : OpCtx), ∃ (blk : List Byte), Working s T .exch oc ∧ oc.o.cmd = .xsort blk ∧ oc.o.stage = 1 ∧ (sortOf blk).nrec ≤ oc.o.prog ∧ ((∃ n, n < (sortOf blk).nrec ∧ (sortOf blk).nseg ≤ keyAt oc.o.buf n))) ∧
    (∃ (s : State), ∃ (T : Nat), ∃ (oc : OpCtx), ∃ (blk : List Byte), Working s T .exch oc ∧ oc.o.cmd = .xsort blk ∧ 3 ≤ oc.o.stage ∧ (sortOf blk).nrec ≤ oc.o.pos) ∧
    (∃ (s : State), ∃ (T : Nat), ∃ (oc : OpCtx), ∃ (blk : List Byte), ∃ (r : List Byte), ∃ (a : Nat), ∃ (w : Nat), ∃ (m : Mach), Working s T .exch oc ∧ oc.o.cmd = .xsort blk ∧ 3 ≤ oc.o.stage ∧ oc.o.pos < (sortOf blk).nrec ∧ oc.o.ins.getD 0 [] = r ∧ 4 * (sortOf blk).rsz ≤ r.length ∧ a = ((sortOf blk).dst + 4 * (sortOf blk).rsz * (((List.range (sortOf blk).nrec).filter (fun i => decide (keyAt oc.o.buf i < keyAt oc.o.buf oc.o.pos))).length + ((List.range oc.o.pos).filter (fun i => keyAt oc.o.buf i == keyAt oc.o.buf oc.o.pos)).length) + oc.o.tries) % 2 ^ 64 ∧ w = pieceLen a (4 * (sortOf blk).rsz - oc.o.tries) ∧ engWrite1 s.cfg s.m oc a (bytesAt r oc.o.tries w) = (.ok (), m)) ∧
    (∃ (s : State), ∃ (T : Nat), ∃ (n : Nat), ∃ (o : Op), ∃ (oc : OpCtx), ∃ (desc : List Byte), ∃ (cw : DWord), ∃ (thr : DWord), ∃ (v : Nat), ∃ (a : Acc), ∃ (m : Mach), (s.m.opsOf T .exch).find? (fun o => o.n == n) = some o ∧ opCtx s.m o = some oc ∧ o.cmd = .xarm desc cw thr ∧ o.fin = none ∧ oc.cl.pre ≠ .saved ∧ oc.cl.pre ≠ .stopping ∧ o.fired = false ∧ engWord s.cfg s.m oc cw.toNat .read = (.ok (v, a), m)) ∧
    (∃ (s : State), ∃ (T : Nat), ∃ (k : EngCtx), ∃ (o : Op), ∃ (rest : List Op), ∃ (oc : OpCtx), ∃ (st : Nat), ∃ (sub : Nat), ∃ (addr : DWord), s.m.opsOf T k = o :: rest ∧ o.fin = some (st, sub, addr) ∧ opCtx s.m o = some oc ∧ o.n ≠ 0 ∧ oc.cl.pre ≠ .saved ∧ o.await = none ∧ o.due = ⟨[], [], none, none, none⟩ ∧ s.m.bufs = [] ∧ s.m.canonical = true ∧ ctxNum k < oc.tm.reports.length) ∧
    (∃ (s : State), ∃ (T : Nat), ∃ (k : EngCtx), ∃ (o : Op), ∃ (rest : List Op), ∃ (oc : OpCtx), ∃ (st : Nat), ∃ (sub : Nat), ∃ (addr : DWord), s.m.opsOf T k = o :: rest ∧ o.fin = some (st, sub, addr) ∧ opCtx s.m o = some oc ∧ o.n ≠ 0 ∧ oc.cl.pre ≠ .saved ∧ o.await = none ∧ ((∀ w ∈ o.due.writes, isFab w.1.sp = false)) ∧ s.m.bufs = []) :=
  ⟨⟨(labOps [{ labOp .exch (.xput (blkOf 32 [(0, 8, 0x4000000000000400), (8, 8, 0x4000000000000400), (0x10, 4, 16), (0x14, 4, 0)])) with n := 1 }]), 1, (ocOf (labOps [{ labOp .exch (.xput (blkOf 32 [(0, 8, 0x4000000000000400), (8, 8, 0x4000000000000400), (0x10, 4, 16), (0x14, 4, 0)])) with n := 1 }]) .exch), (blkOf 32 [(0, 8, 0x4000000000000400), (8, 8, 0x4000000000000400), (0x10, 4, 16), (0x14, 4, 0)]), working_of (by decide +kernel), by decide +kernel⟩,
    ⟨(labOps [{ labOp .exch (.xget (blkOf 32 [(0, 8, 0x4000000000000400), (8, 8, 0x4000000000000400), (0x10, 4, 16), (0x14, 4, 0)])) with n := 1 }]), 1, (ocOf (labOps [{ labOp .exch (.xget (blkOf 32 [(0, 8, 0x4000000000000400), (8, 8, 0x4000000000000400), (0x10, 4, 16), (0x14, 4, 0)])) with n := 1 }]) .exch), (blkOf 32 [(0, 8, 0x4000000000000400), (8, 8, 0x4000000000000400), (0x10, 4, 16), (0x14, 4, 0)]), working_of (by decide +kernel), by decide +kernel⟩,
    ⟨(labOps [{ labOp .exch (.xput (blkOf 32 [(0, 8, 0xC00A000000001000), (8, 8, 0x4000000000000400), (0x10, 4, 0), (0x14, 4, 0)])) with n := 1 }]), 1, (ocOf (labOps [{ labOp .exch (.xput (blkOf 32 [(0, 8, 0xC00A000000001000), (8, 8, 0x4000000000000400), (0x10, 4, 0), (0x14, 4, 0)])) with n := 1 }]) .exch), (blkOf 32 [(0, 8, 0xC00A000000001000), (8, 8, 0x4000000000000400), (0x10, 4, 0), (0x14, 4, 0)]), working_of (by decide +kernel), by decide +kernel⟩,
    ⟨(labOps [{ labOp .exch (.xget (blkOf 32 [(0, 8, 0x4000000000000400), (8, 8, 0xC00A000000001000), (0x10, 4, 0), (0x14, 4, 0)])) with n := 1 }]), 1, (ocOf (labOps [{ labOp .exch (.xget (blkOf 32 [(0, 8, 0x4000000000000400), (8, 8, 0xC00A000000001000), (0x10, 4, 0), (0x14, 4, 0)])) with n := 1 }]) .exch), (blkOf 32 [(0, 8, 0x4000000000000400), (8, 8, 0xC00A000000001000), (0x10, 4, 0), (0x14, 4, 0)]), working_of (by decide +kernel), by decide +kernel⟩,
    ⟨(labOps [{ labOp .exch (.xput (blkOf 32 [(0, 8, 0xC00A000000001000), (8, 8, 0x4000000000000400), (0x10, 4, 0x80000000), (0x14, 4, 0)])) with n := 1 }]), 1, (ocOf (labOps [{ labOp .exch (.xput (blkOf 32 [(0, 8, 0xC00A000000001000), (8, 8, 0x4000000000000400), (0x10, 4, 0x80000000), (0x14, 4, 0)])) with n := 1 }]) .exch), (blkOf 32 [(0, 8, 0xC00A000000001000), (8, 8, 0x4000000000000400), (0x10, 4, 0x80000000), (0x14, 4, 0)]), working_of (by decide +kernel), by decide +kernel⟩,
    ⟨labPut, 1, (ocOf labPut .exch), labPutB, ⟨7, 0, 0, 0, none, []⟩, (okOr [] labPutR.1), labPutR.2, working_of (by decide +kernel), and6 (by decide +kernel) (ok_of (d := []) (by decide +kernel))⟩,
    ⟨labGet, 1, (ocOf labGet .exch), labGetB, ⟨.scr 1, 0x400, none, 0, false, none⟩, 0x400, labGetR.2, working_of (by decide +kernel), and4 (by decide +kernel) ⟨pair_of (by decide +kernel), by decide +kernel⟩⟩,
    ⟨(labOps [{ labOp .exch (.coll (List.replicate 64 0) (List.replicate 256 0) (List.replicate 128 0)) with n := 1, stage := 0 }]), 1, (ocOf (labOps [{ labOp .exch (.coll (List.replicate 64 0) (List.replicate 256 0) (List.replicate 128 0)) with n := 1, stage := 0 }]) .exch), (List.replicate 64 0), (List.replicate 256 0), (List.replicate 128 0), .quiet, working_of (by decide +kernel), by decide +kernel⟩,
    ⟨(labOps [{ labOp .exch (.coll (List.replicate 64 0) (labCrec 2 0) labLay4) with n := 1, stage := 0 }]), 1, (ocOf (labOps [{ labOp .exch (.coll (List.replicate 64 0) (labCrec 2 0) labLay4) with n := 1, stage := 0 }]) .exch), (List.replicate 64 0), (labCrec 2 0), labLay4, [(0, labCrec 3 0)], true, working_of (by decide +kernel), by decide +kernel⟩,
    ⟨(labOps [{ labOp .exch (.coll (List.replicate 64 0) (labCrec 2 0) (List.replicate 128 0)) with n := 1, stage := 0 }]), 1, (ocOf (labOps [{ labOp .exch (.coll (List.replicate 64 0) (labCrec 2 0) (List.replicate 128 0)) with n := 1, stage := 0 }]) .exch), (List.replicate 64 0), (labCrec 2 0), (List.replicate 128 0), [(0, labCrec 2 0)], true, working_of (by decide +kernel), by decide +kernel⟩,
    ⟨(labOps [{ labOp .exch (.coll (List.replicate 64 0) (labCrec 0x802 0) labLay4) with n := 1, stage := 0 }]), 1, (ocOf (labOps [{ labOp .exch (.coll (List.replicate 64 0) (labCrec 0x802 0) labLay4) with n := 1, stage := 0 }]) .exch), (List.replicate 64 0), (labCrec 0x802 0), labLay4, [(0, labCrec 0x802 0)], working_of (by decide +kernel), by decide +kernel⟩,
    ⟨(labOps [{ labOp .exch (.coll (List.replicate 64 0) (labCrec 2 0) labLay4) with n := 1, stage := 3, buf := List.replicate 16 1 }]), 1, (ocOf (labOps [{ labOp .exch (.coll (List.replicate 64 0) (labCrec 2 0) labLay4) with n := 1, stage := 3, buf := List.replicate 16 1 }]) .exch), (List.replicate 64 0), (labCrec 2 0), labLay4, [List.replicate 16 2], 4, working_of (by decide +kernel), and6 (by decide +kernel) labGiven⟩,
    ⟨(labOps [{ labOp .exch (.coll (List.replicate 64 0) (labCrec 2 0) labLay4) with n := 1, stage := 4 }]), 1, (ocOf (labOps [{ labOp .exch (.coll (List.replicate 64 0) (labCrec 2 0) labLay4) with n := 1, stage := 4 }]) .exch), (List.replicate 64 0), (labCrec 2 0), labLay4, working_of (by decide +kernel), by decide +kernel⟩,
    ⟨(labOps [{ labOp .exch (.coll (List.replicate 64 0) (labCrec 2 0) labLay4) with n := 1, stage := 5 }]), 1, (ocOf (labOps [{ labOp .exch (.coll (List.replicate 64 0) (labCrec 2 0) labLay4) with n := 1, stage := 5 }]) .exch), (List.replicate 64 0), (labCrec 2 0), labLay4, working_of (by decide +kernel), by decide +kernel⟩,
    ⟨(labOps [{ labOp .exch (.coll (List.replicate 64 0) (labCrec 0 1) labLay4) with n := 1, stage := 5 }]), 1, (ocOf (labOps [{ labOp .exch (.coll (List.replicate 64 0) (labCrec 0 1) labLay4) with n := 1, stage := 5 }]) .exch), (List.replicate 64 0), (labCrec 0 1), labLay4, working_of (by decide +kernel), and4 (by decide +kernel) (Or.inl (by decide +kernel))⟩,
    ⟨(labOps [{ labOp .exch (.coll (List.replicate 64 0) (labCrec 2 0) labLay4) with n := 1, stage := 3 }]), 1, (ocOf (labOps [{ labOp .exch (.coll (List.replicate 64 0) (labCrec 2 0) labLay4) with n := 1, stage := 3 }]) .exch), (List.replicate 64 0), (labCrec 2 0), labLay4, 5, 0, working_of (by decide +kernel), by decide +kernel⟩,
    ⟨(labOps [{ labOp .exch (.coll (List.replicate 64 0) (labCrec 2 0) labLay4) with n := 1, stage := 3, ins := [[], leBytes 4 5 ++ leBytes 4 0, List.replicate 16 1] }]), 1, (ocOf (labOps [{ labOp .exch (.coll (List.replicate 64 0) (labCrec 2 0) labLay4) with n := 1, stage := 3, ins := [[], leBytes 4 5 ++ leBytes 4 0, List.replicate 16 1] }]) .exch), (List.replicate 64 0), (labCrec 2 0), labLay4, working_of (by decide +kernel), by decide +kernel⟩,
    ⟨(labOps [{ labOp .exch (.xsort (List.replicate 64 0)) with n := 1 }]), 1, (ocOf (labOps [{ labOp .exch (.xsort (List.replicate 64 0)) with n := 1 }]) .exch), (List.replicate 64 0), working_of (by decide +kernel), by decide +kernel⟩,
    ⟨(labOps [{ labOp .exch (.xsort labSortB) with n := 1, stage := 1, prog := 1, buf := [1, 0] }]), 1, (ocOf (labOps [{ labOp .exch (.xsort labSortB) with n := 1, stage := 1, prog := 1, buf := [1, 0] }]) .exch), labSortB, working_of (by decide +kernel), and3 (by decide +kernel) ⟨0, by decide +kernel⟩⟩,
    ⟨(labOps [{ labOp .exch (.xsort (List.replicate 64 0)) with n := 1, stage := 3 }]), 1, (ocOf (labOps [{ labOp .exch (.xsort (List.replicate 64 0)) with n := 1, stage := 3 }]) .exch), (List.replicate 64 0), working_of (by decide +kernel), by decide +kernel⟩,
    ⟨labSort, 1, (ocOf labSort .exch), labSortB, [7, 0, 0, 0], 0x4000000000000500, 4, labSortM, working_of (by decide +kernel), and7 (by decide +kernel) (pair_of (by decide +kernel))⟩,
    ⟨labArm, 1, 1, labArmO, (ocArm labArm), (List.replicate 64 0), 0x4000000000000400, 0, 0, ⟨.scr 1, 0x400, none, 0, false, none⟩, (engWord labArm.cfg labArm.m (ocArm labArm) 0x4000000000000400 .read).2, and7 (by decide +kernel) (pair_of (by decide +kernel))⟩,
    ⟨(labOps [labFin]), 1, .exch, labFin, [], ((opCtx (labOps [labFin]).m labFin).getD (ocOf lab .exch)), 1, 7, 0, by decide +kernel⟩,
    ⟨(labOps [labFin]), 1, .exch, labFin, [], ((opCtx (labOps [labFin]).m labFin).getD (ocOf lab .exch)), 1, 7, 0, by decide +kernel⟩⟩

end Sys2Proof.Tests
end

