-- ==== Sys2Proof/Tests/General.lean ====
section
/-! SUPPORT. States and operands that meet the premises of the statements about the machine as a whole. -/
set_option Elab.async false
namespace Sys2Proof.Tests
open Sys2Proof Sys2Proof.Machine

/-- The premises of StepRunsDecoded. -/
theorem test_premises_StepRunsDecoded :
    (∃ (s : State), ∃ (k : Nat), ∃ (c : Ctx), ∃ (w : Nat), ∃ (lit : Nat), ∃ (i : Instr), ∃ (m : Mach), s.m.agenda = [] ∧ s.m.round = k + 1 ∧ s.m.dev.erased = false ∧ s.m.issuer = some c ∧ fetchInstr s.cfg ({ s.m with round := k } : Mach) c.tm.core c.la.p c.la.x c.f.pc.toNat = (.word w, .word lit, m) ∧ decodeWord w lit = .ok i) ∧
    (∃ (s : State), ∃ (k : Nat), ∃ (c : Ctx), ∃ (w : Nat), ∃ (lit : Nat), ∃ (m : Mach), s.m.agenda = [] ∧ s.m.round = k + 1 ∧ s.m.dev.erased = false ∧ s.m.issuer = some c ∧ fetchInstr s.cfg ({ s.m with round := k } : Mach) c.tm.core c.la.p c.la.x c.f.pc.toNat = (.word w, .word lit, m) ∧ ((∀ i, decodeWord w lit ≠ .ok i))) ∧
    (∃ (s : State), ∃ (k : Nat), ∃ (c : Ctx), ∃ (n : Nat), ∃ (sub : Nat), ∃ (r : Fetched), ∃ (m : Mach), s.m.agenda = [] ∧ s.m.round = k + 1 ∧ s.m.dev.erased = false ∧ s.m.issuer = some c ∧ fetchInstr s.cfg ({ s.m with round := k } : Mach) c.tm.core c.la.p c.la.x c.f.pc.toNat = (.fault n sub, r, m)) ∧
    (∃ (s : State), ∃ (k : Nat), ∃ (c : Ctx), ∃ (r : Fetched), ∃ (m : Mach), s.m.agenda = [] ∧ s.m.round = k + 1 ∧ s.m.dev.erased = false ∧ s.m.issuer = some c ∧ fetchInstr s.cfg ({ s.m with round := k } : Mach) c.tm.core c.la.p c.la.x c.f.pc.toNat = (.wait, r, m)) ∧
    (∃ (s : State), ∃ (k : Nat), ∃ (c : Ctx), ∃ (w : Nat), ∃ (n : Nat), ∃ (sub : Nat), ∃ (i : Instr), ∃ (m : Mach), s.m.agenda = [] ∧ s.m.round = k + 1 ∧ s.m.dev.erased = false ∧ s.m.issuer = some c ∧ fetchInstr s.cfg ({ s.m with round := k } : Mach) c.tm.core c.la.p c.la.x c.f.pc.toNat = (.word w, .fault n sub, m) ∧ decodeWord w 0 = .ok i) ∧
    (∃ (s : State), ∃ (k : Nat), ∃ (core : Nat), ∃ (quad : Nat), s.m.agenda = [] ∧ s.m.round = k + 1 ∧ s.m.dev.erased = false ∧ s.m.issuer = none ∧ s.m.focus = some (core, quad)) ∧
    (∃ (s : State), ∃ (k : Nat), s.m.agenda = [] ∧ s.m.round = k + 1 ∧ s.m.dev.erased = false ∧ s.m.focus = none) ∧
    (∃ (s : State), s.m.agenda = [] ∧ s.m.round = 0 ∧ s.m.dev.erased = false) ∧
    (∃ (s : State), ∃ e, e ∈ s.m.bufs) ∧
    (∃ (s : State), ∃ c, c ∈ s.m.copies) ∧
    (∃ (s : State), ∃ o, o ∈ s.m.outst) ∧
    (∃ (s : State), ∃ g, g ∈ s.m.groups ∧ g.ended = false) ∧
    (∃ (s : State), s.m.livePorts ≠ []) ∧
    (∃ (s : State), ∃ (i : Instr), ∃ (rest : List Agenda), s.m.agenda = .ev i :: rest ∧ s.m.dev.erased = false ∧ s.m.dev.bootstg ≠ 0xFF ∧ encode i = []) ∧
    (∃ (s : State), ∃ (i : Instr), ∃ (rest : List Agenda), s.m.agenda = .ev i :: rest ∧ s.m.dev.bootstg = 0xFF ∧ survivesFailure (.ev i) = false) ∧
    (∃ (s : State), s.m.agenda = [] ∧ s.m.dev.erased = true) ∧
    (∃ (s : State), ∃ (off : Nat), ∃ (rest : List Agenda), s.m.agenda = .hostRead off :: rest) ∧
    (∃ (s : State), ∃ (f : Nat), ∃ (al : Bool), ∃ (dv : BitVec 13), ∃ (lk : BitVec 2), ∃ (o : List Nat), ∃ (p : List Nat), ∃ (b : List Byte), ∃ (fi : List Byte), ∃ (fu : List Byte), ∃ (rest : List Agenda), s.m.agenda = .ev (.coldReset f al dv lk o p b fi fu) :: rest) :=
  ⟨⟨(State.reset.withFetchWord 64 0xFFFFFFFF7F770000), 0, (cOf (State.reset.withFetchWord 64 0xFFFFFFFF7F770000)), 0x7F770000, 0xFFFFFFFF, (.limm (.v 119) 0xFFFFFFFF), (fetchInstr (State.reset.withFetchWord 64 0xFFFFFFFF7F770000).cfg ({ (State.reset.withFetchWord 64 0xFFFFFFFF7F770000).m with round := 0 } : Mach) (cOf (State.reset.withFetchWord 64 0xFFFFFFFF7F770000)).tm.core (cOf (State.reset.withFetchWord 64 0xFFFFFFFF7F770000)).la.p (cOf (State.reset.withFetchWord 64 0xFFFFFFFF7F770000)).la.x (cOf (State.reset.withFetchWord 64 0xFFFFFFFF7F770000)).f.pc.toNat).2.2, by decide +kernel⟩,
    ⟨(State.reset.withFetchWord 32 0x1EC04100), 0, (cOf (State.reset.withFetchWord 32 0x1EC04100)), 0x1EC04100, 0, (fetchInstr (State.reset.withFetchWord 32 0x1EC04100).cfg ({ (State.reset.withFetchWord 32 0x1EC04100).m with round := 0 } : Mach) (cOf (State.reset.withFetchWord 32 0x1EC04100)).tm.core (cOf (State.reset.withFetchWord 32 0x1EC04100)).la.p (cOf (State.reset.withFetchWord 32 0x1EC04100)).la.x (cOf (State.reset.withFetchWord 32 0x1EC04100)).f.pc.toNat).2.2, and5 (by decide +kernel) (decodes_to_none (by decide +kernel))⟩,
    ⟨(labF (fun f => { f with pc := 0xFFFFFFFFFFFFFFFC })), 0, (cOf (labF (fun f => { f with pc := 0xFFFFFFFFFFFFFFFC }))), (faultOf (fetchInstr (labF (fun f => { f with pc := 0xFFFFFFFFFFFFFFFC })).cfg ({ (labF (fun f => { f with pc := 0xFFFFFFFFFFFFFFFC })).m with round := 0 } : Mach) (cOf (labF (fun f => { f with pc := 0xFFFFFFFFFFFFFFFC }))).tm.core (cOf (labF (fun f => { f with pc := 0xFFFFFFFFFFFFFFFC }))).la.p (cOf (labF (fun f => { f with pc := 0xFFFFFFFFFFFFFFFC }))).la.x (cOf (labF (fun f => { f with pc := 0xFFFFFFFFFFFFFFFC }))).f.pc.toNat).1).1, (faultOf (fetchInstr (labF (fun f => { f with pc := 0xFFFFFFFFFFFFFFFC })).cfg ({ (labF (fun f => { f with pc := 0xFFFFFFFFFFFFFFFC })).m with round := 0 } : Mach) (cOf (labF (fun f => { f with pc := 0xFFFFFFFFFFFFFFFC }))).tm.core (cOf (labF (fun f => { f with pc := 0xFFFFFFFFFFFFFFFC }))).la.p (cOf (labF (fun f => { f with pc := 0xFFFFFFFFFFFFFFFC }))).la.x (cOf (labF (fun f => { f with pc := 0xFFFFFFFFFFFFFFFC }))).f.pc.toNat).1).2, (fetchInstr (labF (fun f => { f with pc := 0xFFFFFFFFFFFFFFFC })).cfg ({ (labF (fun f => { f with pc := 0xFFFFFFFFFFFFFFFC })).m with round := 0 } : Mach) (cOf (labF (fun f => { f with pc := 0xFFFFFFFFFFFFFFFC }))).tm.core (cOf (labF (fun f => { f with pc := 0xFFFFFFFFFFFFFFFC }))).la.p (cOf (labF (fun f => { f with pc := 0xFFFFFFFFFFFFFFFC }))).la.x (cOf (labF (fun f => { f with pc := 0xFFFFFFFFFFFFFFFC }))).f.pc.toNat).2.1, (fetchInstr (labF (fun f => { f with pc := 0xFFFFFFFFFFFFFFFC })).cfg ({ (labF (fun f => { f with pc := 0xFFFFFFFFFFFFFFFC })).m with round := 0 } : Mach) (cOf (labF (fun f => { f with pc := 0xFFFFFFFFFFFFFFFC }))).tm.core (cOf (labF (fun f => { f with pc := 0xFFFFFFFFFFFFFFFC }))).la.p (cOf (labF (fun f => { f with pc := 0xFFFFFFFFFFFFFFFC }))).la.x (cOf (labF (fun f => { f with pc := 0xFFFFFFFFFFFFFFFC }))).f.pc.toNat).2.2, by decide +kernel⟩,
    ⟨labUnwalked, 0, (cOf labUnwalked), (fetchInstr labUnwalked.cfg ({ labUnwalked.m with round := 0 } : Mach) (cOf labUnwalked).tm.core (cOf labUnwalked).la.p (cOf labUnwalked).la.x (cOf labUnwalked).f.pc.toNat).2.1, (fetchInstr labUnwalked.cfg ({ labUnwalked.m with round := 0 } : Mach) (cOf labUnwalked).tm.core (cOf labUnwalked).la.p (cOf labUnwalked).la.x (cOf labUnwalked).f.pc.toNat).2.2, by decide +kernel⟩,
    ⟨labEdge, 0, (cOf labEdge), 0x7F770000, (faultOf (fetchInstr labEdge.cfg ({ labEdge.m with round := 0 } : Mach) (cOf labEdge).tm.core (cOf labEdge).la.p (cOf labEdge).la.x (cOf labEdge).f.pc.toNat).2.1).1, (faultOf (fetchInstr labEdge.cfg ({ labEdge.m with round := 0 } : Mach) (cOf labEdge).tm.core (cOf labEdge).la.p (cOf labEdge).la.x (cOf labEdge).f.pc.toNat).2.1).2, (.limm (.v 119) 0), (fetchInstr labEdge.cfg ({ labEdge.m with round := 0 } : Mach) (cOf labEdge).tm.core (cOf labEdge).la.p (cOf labEdge).la.x (cOf labEdge).f.pc.toNat).2.2, by decide +kernel⟩,
    ⟨(labWith (fun m => { m with focus := some (767, 3) })), 0, 767, 3, by decide +kernel⟩,
    ⟨(labWith (fun m => { m with focus := none })), 0, by decide +kernel⟩,
    ⟨State.reset, by decide +kernel⟩,
    ⟨(labWith (fun m => { m with bufs := [labBuf] })), labBuf, by decide +kernel⟩,
    ⟨(labWith (fun m => { m with copies := [⟨.core 1, .pkg, 0, none, List.replicate 16 (some 0)⟩] })), ⟨.core 1, .pkg, 0, none, List.replicate 16 (some 0)⟩, by decide +kernel⟩,
    ⟨(labWith (fun m => { m with outst := [⟨9, ⟨1, 0, 0⟩, [], none⟩] })), ⟨9, ⟨1, 0, 0⟩, [], none⟩, by decide +kernel⟩,
    ⟨lab, labC.g, by decide +kernel⟩,
    ⟨lab, by decide +kernel⟩,
    ⟨(labWith (fun m => { m with agenda := [.ev (.getVersion 0)] })), (.getVersion 0), [], by decide +kernel⟩,
    ⟨(labWith (fun m => { m with agenda := [.ev (.propagate 0)], dev := { m.dev with bootstg := 0xFF } })), (.propagate 0), [], by decide +kernel⟩,
    ⟨(labWith (fun m => { m with dev := { m.dev with erased := true } })), by decide +kernel⟩,
    ⟨(labWith (fun m => { m with agenda := [.hostRead 0x10] })), 0x10, [], by decide +kernel⟩,
    ⟨(labWith (fun m => { m with agenda := [.ev (.coldReset 0 false 8191 3 [0, 0, 0, 0] [0, 0, 0, 0] [] [] [])], dev := { m.dev with erased := true } })), 0, false, 8191, 3, [0, 0, 0, 0], [0, 0, 0, 0], [], [], [], [], by decide +kernel⟩⟩

/-- The premises of RoundTrip. -/
theorem test_premises_RoundTrip :
    (∃ (i : Instr), ∃ (_rest : List Byte), i.wf = true ∧ encode i ≠ []) ∧
    (∃ (w : Nat), ∃ (lit : Nat), ∃ (i : Instr), w < 2 ^ 32 ∧ lit < 2 ^ 32 ∧ decodeWord w lit = .ok i) :=
  ⟨⟨(.ulimm (.v 119) 0xFFFFFFFF), [], by decide +kernel⟩,
    ⟨0x7F770000, 0xFFFFFFFF, (.limm (.v 119) 0xFFFFFFFF), by decide +kernel⟩⟩

/-- The premises of GateOrder. -/
theorem test_premises_GateOrder :
    (∃ (s : State), ∃ (c : Ctx), ∃ (cr : CtxRec), ∃ (i : Instr), encode i ≠ [] ∧ CanTrap s c cr ∧ ∃ tag, c.f.lpad = some tag ∧ i ≠ .lpad tag) ∧
    (∃ (s : State), ∃ (c : Ctx), ∃ (cr : CtxRec), ∃ (i : Instr), encode i ≠ [] ∧ CanTrap s c cr ∧ c.f.lpad = none ∧ illegalHere c i = true) ∧
    (∃ (s : State), ∃ (c : Ctx), ∃ (cr : CtxRec), ∃ (i : Instr), encode i ≠ [] ∧ CanTrap s c cr ∧ let win := (windowRegs i).any (fun r => decide (c.rc.regs ≤ c.f.base + r)); c.f.lpad = none ∧ illegalHere c i = false ∧ win = true) ∧
    (∃ (s : State), ∃ (c : Ctx), ∃ (cr : CtxRec), ∃ (i : Instr), encode i ≠ [] ∧ CanTrap s c cr ∧ let win := (windowRegs i).any (fun r => decide (c.rc.regs ≤ c.f.base + r)); let err := s.m.readsErr c (instrUse i).rd (instrUse i).lats; c.f.lpad = none ∧ illegalHere c i = false ∧ win = false ∧ err = true) ∧
    (∃ (s : State), ∃ (c : Ctx), ∃ (cr : CtxRec), ∃ (i : Instr), encode i ≠ [] ∧ CanTrap s c cr ∧ let win := (windowRegs i).any (fun r => decide (c.rc.regs ≤ c.f.base + r)); let err := s.m.readsErr c (instrUse i).rd (instrUse i).lats; c.f.lpad = none ∧ illegalHere c i = false ∧ win = false ∧ err = false ∧ s.m.hazard c.f i = true) ∧
    (∃ (s : State), ∃ (c : Ctx), ∃ (cr : CtxRec), ∃ (i : Instr), encode i ≠ [] ∧ CanTrap s c cr ∧ let win := (windowRegs i).any (fun r => decide (c.rc.regs ≤ c.f.base + r)); let err := s.m.readsErr c (instrUse i).rd (instrUse i).lats; let held := s.m.heldReg c (c.phys (instrUse i).wr); c.f.lpad = none ∧ illegalHere c i = false ∧ win = false ∧ err = false ∧ s.m.hazard c.f i = false ∧ held = true) ∧
    (∃ (s : State), ∃ (c : Ctx), ∃ (cr : CtxRec), ∃ (i : Instr), encode i ≠ [] ∧ CanTrap s c cr ∧ let win := (windowRegs i).any (fun r => decide (c.rc.regs ≤ c.f.base + r)); let err := s.m.readsErr c (instrUse i).rd (instrUse i).lats; let held := s.m.heldReg c (c.phys (instrUse i).wr); c.f.lpad = none ∧ illegalHere c i = false ∧ win = false ∧ err = false ∧ s.m.hazard c.f i = false ∧ held = false ∧ swrBad s.m c i = true) ∧
    (∃ (s : State), ∃ (c : Ctx), ∃ (cr : CtxRec), ∃ (i : Instr), encode i ≠ [] ∧ CanTrap s c cr ∧ let win := (windowRegs i).any (fun r => decide (c.rc.regs ≤ c.f.base + r)); let err := s.m.readsErr c (instrUse i).rd (instrUse i).lats; let held := s.m.heldReg c (c.phys (instrUse i).wr); c.f.lpad = none ∧ illegalHere c i = false ∧ win = false ∧ err = false ∧ s.m.hazard c.f i = false ∧ held = false ∧ swrBad s.m c i = false ∧ roleMay c.g.role (roleClass i) = false) ∧
    (∃ (s : State), ∃ (c : Ctx), ∃ (cr : CtxRec), ∃ (i : Instr), encode i ≠ [] ∧ CanTrap s c cr ∧ let win := (windowRegs i).any (fun r => decide (c.rc.regs ≤ c.f.base + r)); let err := s.m.readsErr c (instrUse i).rd (instrUse i).lats; let held := s.m.heldReg c (c.phys (instrUse i).wr); c.f.lpad = none ∧ illegalHere c i = false ∧ win = false ∧ err = false ∧ s.m.hazard c.f i = false ∧ held = false ∧ swrBad s.m c i = false ∧ roleMay c.g.role (roleClass i) = true ∧ effectful i = true ∧ s.m.converged c = false) :=
  ⟨⟨(labF (fun f => { f with lpad := some 511 })), (cOf (labF (fun f => { f with lpad := some 511 }))), labCr, .nop, by decide +kernel, canTrap_of (by decide +kernel), 511, by decide +kernel⟩,
    ⟨lab, (cOf lab), labCr, .eret, by decide +kernel, canTrap_of (by decide +kernel), by decide +kernel⟩,
    ⟨(labR (fun r => { r with regs := 16 })), (cOf (labR (fun r => { r with regs := 16 }))), labCr, (.mov .mov (.v 16) (.v 0)), by decide +kernel, canTrap_of (by decide +kernel), by decide +kernel⟩,
    ⟨(labWith (fun m => { m with regErr := [regKey 1 0 18 0] })), (cOf (labWith (fun m => { m with regErr := [regKey 1 0 18 0] }))), labCr, (.iadd .wrap (.v 119) (.v 18) (.v 8)), by decide +kernel, canTrap_of (by decide +kernel), by decide +kernel⟩,
    ⟨(labWith (fun m => { m with outst := [⟨9, ⟨1, 0, 0⟩, [(119, 0, 0)], none⟩] })), (cOf (labWith (fun m => { m with outst := [⟨9, ⟨1, 0, 0⟩, [(119, 0, 0)], none⟩] }))), labCr, (.mov .mov (.v 119) (.v 0)), by decide +kernel, canTrap_of (by decide +kernel), by decide +kernel⟩,
    ⟨(labOps [labOp .matrix (.mma true mmaB 104 7 0 [])]), (cOf (labOps [labOp .matrix (.mma true mmaB 104 7 0 [])])), labCr, (.mov .mov (.v 119) (.v 0)), by decide +kernel, canTrap_of (by decide +kernel), by decide +kernel⟩,
    ⟨lab, (cOf lab), labCr, (.swr 8 (.v 0)), by decide +kernel, canTrap_of (by decide +kernel), by decide +kernel⟩,
    ⟨(labG (fun g => { g with role := 3 })), (cOf (labG (fun g => { g with role := 3 }))), labCr, (.accz 1), by decide +kernel, canTrap_of (by decide +kernel), by decide +kernel⟩,
    ⟨(labMates labMate 0), (cOf (labMates labMate 0)), labCr, (.barinit 15 (.v 0)), by decide +kernel, canTrap_of (by decide +kernel), by decide +kernel⟩⟩

/-- The premises of PartitionsApart. -/
theorem test_premises_PartitionsApart :
    (∃ (s : State), ∃ (t : State), s.cfg.apart ∧ step s = .next t) ∧
    (∃ (i : Instr), ∃ (s : State), ∃ (t : State), exec i s = .next t ∧ t.cfg ≠ s.cfg) :=
  ⟨⟨labParts, (nextOf (step labParts)), by unfold Conf.apart; decide +kernel, next_of (by decide +kernel)⟩,
    ⟨(.keySlotLoad 127 0 (List.replicate 64 1)), lab, (nextOf (exec (.keySlotLoad 127 0 (List.replicate 64 1)) lab)), next_of (by decide +kernel), by decide +kernel⟩⟩

/-- The premises of CanonicalKept. -/
theorem test_premises_CanonicalKept :
    (∃ (s : State), ∃ (t : State), s.m.canonical = true ∧ step s = .next t) :=
  ⟨(State.reset.withFetchWord 32 0x08004103), (nextOf (step (State.reset.withFetchWord 32 0x08004103))), by decide +kernel, next_of (by decide +kernel)⟩

end Sys2Proof.Tests
end

