-- ==== Sys2Proof/Tests/Queues.lean ====
section
/-! SUPPORT. States and operands that meet the premises of the statements about launches and queues. -/
set_option Elab.async false
namespace Sys2Proof.Tests
open Sys2Proof Sys2Proof.Machine

theorem some_of {α : Type} {o : Option α} {d : α} (h : o.isSome = true) : o = some (o.getD d) := by
  cases o
  · simp at h
  · rfl
theorem optPair_of {α β : Type} {x : Option α × β} {d : α} (h : x.1.isSome = true) : x = (some (x.1.getD d), x.2) := Prod.ext (some_of h) rfl
/-- The value of an option, or another. -/
def optOr {α : Type} (d : α) (o : Option α) : α := o.getD d
theorem optOr_of {α β : Type} {x : Option α × β} {d : α} (h : x.1.isSome = true) : x = (some (optOr d x.1), x.2) := optPair_of h
/-- The value of a result, or another. -/
def excOr {ε α : Type} (d : α) : Except ε α → α
  | .ok a => a
  | _ => d
theorem exc_of {ε α β : Type} {x : Except ε α × β} {d : α} (h : (match x.1 with
    | .ok _ => true
    | _ => false) = true) : x = (.ok (excOr d x.1), x.2) := by
  split at h
  · next b hb => exact Prod.ext (by rw [hb]; rfl) rfl
  · simp at h
/-- The bytes an agent reads, or others. -/
def agentOr (d : List Byte) : AgentR → List Byte
  | .ok b => b
  | _ => d
theorem agent_of {d : List Byte} {x : AgentR × Mach} (h : (match x.1 with
    | .ok _ => true
    | _ => false) = true) : x = (.ok (agentOr d x.1), x.2) := by
  split at h
  · next b hb => exact Prod.ext (by rw [hb]; rfl) rfl
  · simp at h
/-- The place an access reaches, or another. -/
def reachOr (d : Acc) : Reach → Acc
  | .ok a => a
  | _ => d
theorem reach_of {d : Acc} {x : Reach × Mach} (h : (match x.1 with
    | .ok _ => true
    | _ => false) = true) : x = (.ok (reachOr d x.1), x.2) := by
  split at h
  · next b hb => exact Prod.ext (by rw [hb]; rfl) rfl
  · simp at h
theorem triple_of {α β γ : Type} {x : α × β × γ} {a : α} {b : β} (h : x.1 = a ∧ x.2.1 = b) : x = (a, b, x.2.2) := by rw [← h.1, ← h.2]
/-- The lab with an entry in queue 3. -/
def labQ (e : Entry) : State := labWith (fun m => { m with queues := [{ m.queue 3 with en := true, rlog := 4, clog := 4, cur := some e }] })
/-- A copy that has begun. -/
def labCpyE : Entry := ⟨blkOf 64 [(0, 8, 4), (8, 8, 0x10400), (16, 8, 0x10800), (24, 8, 64)], 7, true, false, 0, 0, 0, [], none⟩
/-- The lab with it. -/
def labCpy : State := labQ labCpyE
/-- Its first piece. -/
def labCpyP : Option Nat × Bool × Mach :=
  copyPiece labCpy.cfg labCpy.m 3 (labCpyE.word 1 + labCpyE.work) (labCpyE.word 2 + labCpyE.work) (labCpyE.word 3 - labCpyE.work)
/-- The machine after it. -/
def labCpyM : Mach := labCpyP.2.2
theorem labCpy_piece : labCpyP = (some 16, false, labCpyM) := triple_of (by decide +kernel)
/-- A PARTCFG of partition p. -/
def labPcE (p : Nat) : Entry := ⟨blkOf 64 [(0, 8, 7), (8, 8, p), (16, 8, 0x1000)], 7, false, false, 0, 0, 0, [], none⟩
/-- The lab with it. -/
def labPc (p : Nat) : State := labQ (labPcE p)
/-- The record it reads. -/
def labPcR (p : Nat) : List Byte × Mach := qHost (labPc p).m ((labPcE p).word 2) 512
theorem eta_of {α β : Type} {x y : α × β} (h : x = y) : x = (y.1, y.2) := h
theorem labPc_read (p : Nat) : qHost (labPc p).m ((labPcE p).word 2) 512 = ((labPcR p).1, (labPcR p).2) := eta_of (by rw [labPcR])
/-- The configuration with it. -/
def labPcC : Conf := ((labPc 1).cfg.withPart (partOf (nbits ((labPcE 1).word 1) 3 0) (labPcR 1).1)).getD lab.cfg
theorem labPc_with : (labPc 1).cfg.withPart (partOf (nbits ((labPcE 1).word 1) 3 0) (labPcR 1).1) = some labPcC := some_of (by decide +kernel)
/-- A CTXCFG of context 3 of partition 0. -/
def labCcE : Entry := ⟨blkOf 64 [(0, 8, 8), (8, 8, 0x30), (16, 8, 0x1000)], 7, false, false, 0, 0, 0, [], none⟩
/-- The lab with it and its record in host memory. -/
def labCc : State :=
  let s := labQ labCcE
  { s with m := s.m.writeFlats (flatOf .host 0x1000) (blkOf 64 [(0x14, 4, 1)]) none }
/-- The record it reads. -/
def labCcR : List Byte × Mach := qHost labCc.m (labCcE.word 2) 64
/-- A wait whose bound is over. -/
def labLate (e : Entry) : State := let s := labQ e; { s with m := { s.m with cyc := 1024 } }
/-- A device that has booted, with queue 3 on or off. -/
def labUp (on : Bool) : State := labWith (fun m => { m with
  queues := [{ m.queue 3 with en := on, rlog := 4, tail := 1 }], dev := { m.dev with bootstg := 3 } })
/-- The entry at its head. -/
def labHead : Entry := ⟨(qHost (labUp true).m ((((labUp true).m.queue 3).rbase + 64 * ((labUp true).m.queue 3).head) % 2 ^ 64) 64).1, ((labUp true).m.queue 3).head, false, false,
  (labUp true).m.cyc, 0, 0, [], none⟩
/-- A completion that is held. -/
def labHeld (p : Option Nat) : State := labWith (fun m => { m with queues := [{ m.queue 3 with clog := 4, held := [⟨1, 1, 0, 0, 0, 7, true, p⟩] }] })
/-- Nothing is resident. -/
def bare (m : Mach) : Mach := { m with clusters := [], teams := [], groups := [], fibres := [], ports := [] }
/-- A launch that waits, and its record in the package. -/
def labNewOf (b : List Byte) : State := labWith (fun m =>
  { (bare m).writeFlats (pkgAt 0x400) b (some (tagOf 0 0x400 probeKey)) with
    launches := [⟨2, 3, 7, 0, false, false, false, 0, 0, 0, none, 0x10400, false, 0, 0, none, none⟩] })
/-- One of one group of 16 registers. -/
def labNew : State := labNewOf (blkOf 256 [(0, 8, 0x10000), (8, 8, 0x22100000001), (0x10, 8, 0x100000001001)])
/-- One whose entry is not aligned. -/
def labNewBad : State := labNewOf (blkOf 256 [(0, 8, 0x10001)])
/-- A launch with a second cluster to start. -/
def labMore : State := labWith (fun m => { bare m with launches := [{ labC.la with rec_ := some { labRec with nclu := 2 } }] })
/-- A cluster whose prologues are done. -/
def labStart : State := labWith (fun m => { m with fibres := [], clusters := m.clusters.map (fun cl => { cl with started := false }) })
/-- The lab with its cluster on its way, or saved. -/
def labPre (p : PreSt) : State := labWith (fun m => { m with
  fibres := m.fibres.map (fun f => { f with run := false }), clusters := m.clusters.map (fun cl => { cl with pre := p }) })
/-- A queue that pre-empts a launch that fits the save pool. -/
def labSavable (e : Entry) : State := let s := labQ e; { s with cfg := { s.cfg with ctxs := [{ labCr with savelen := 0x1000000 }] } }

/-- The premises of LaunchSteps. -/
theorem test_premises_LaunchSteps :
    (∃ (s : State), ∃ (q : Nat), ∃ (e : Entry), ((s.m.queue q).cur = some e ∧ e.op = 1 ∧ e.begun = false ∧ e.fin = none)) ∧
    (∃ (s : State), ∃ (l : Nat), ∃ (_place : List (List Origin)), ∃ (la : Launch), ∃ (pt : Part), ∃ (b : List Byte), ∃ (m : Mach), s.m.launch? l = some la ∧ s.cfg.part? la.p = some pt ∧ la.admitted = false ∧ s.m.wsCopying la.p = false ∧ readRec s.cfg s.m la = (.ok b, m) ∧ refused s.cfg m la b = true) ∧
    (∃ (s : State), ∃ (l : Nat), ∃ (place : List (List Origin)), ∃ (la : Launch), ∃ (pt : Part), ∃ (b : List Byte), ∃ (m : Mach), ∃ (seats : List (List Seat)), s.m.launch? l = some la ∧ s.cfg.part? la.p = some pt ∧ la.admitted = false ∧ s.m.wsCopying la.p = false ∧ readRec s.cfg s.m la = (.ok b, m) ∧ refused s.cfg m la b = false ∧ mayServe s.cfg s.m pt ⟨2, la, lrecOf b, (lrecOf b).unit⟩ = true ∧ place.length = (lrecOf b).unit ∧ takeAll pt la.x (lrecOf b) s.m.seats place = some seats) ∧
    (∃ (s : State), ∃ (l : Nat), ∃ (place : List Origin), ∃ (la : Launch), ∃ (rc : LRec), ∃ (pt : Part), ∃ (seats : List (List Seat)), s.m.launch? l = some la ∧ la.rec_ = some rc ∧ s.cfg.part? la.p = some pt ∧ la.startable rc = true ∧ ((∀ cl ∈ s.m.clusters, cl.l = l → cl.leaving = true → cl.pre = .saved)) ∧ mayServe s.cfg s.m pt ⟨1, la, rc, 1⟩ = true ∧ takeAll pt la.x rc s.m.seats [place] = some seats) ∧
    (∃ (s : State), ∃ (K : Nat), ∃ (cl : Cluster), ∃ (la : Launch), ∃ (rc : LRec), s.m.cluster? K = some cl ∧ s.m.launch? cl.l = some la ∧ la.rec_ = some rc ∧ cl.started = false ∧ cl.pre = .running ∧ la.stop = none ∧ la.prolFail = none ∧ ((rc.persist = false → ∀ k ∈ s.m.clusters, k.l = cl.l → k.num < cl.num → k.started = true)) ∧ ((∀ tm ∈ s.m.teams, (if rc.persist then tm.l = cl.l else tm.c = K) → tm.prolDone = true))) ∧
    (∃ (s : State), ∃ (K : Nat), ∃ (cl : Cluster), ∃ (la : Launch), ∃ (rc : LRec), s.m.cluster? K = some cl ∧ s.m.launch? cl.l = some la ∧ la.rec_ = some rc ∧ cl.pre ≠ .saved ∧ cl.started = true ∧ ((∀ tm ∈ s.m.teamsOf K, (∀ g ∈ s.m.groupsOf tm.t, g.ended = true) ∧ (∀ o ∈ s.m.ops, o.t ≠ tm.t) ∧ tm.inbound = 0 ∧ s.m.promised tm.t = false))) ∧
    (∃ (s : State), ∃ (q : Nat), ∃ (e : Entry), ∃ (la : Launch), ((s.m.queue q).cur = some e ∧ e.op = 9 ∧ e.begun = false ∧ e.fin = none) ∧ s.m.named e = some la ∧ la.p = (s.m.queue q).part ∧ la.admitted = true ∧ ((∃ cl ∈ s.m.clusters, cl.l = la.l ∧ cl.pre = .running)) ∧ s.m.savable s.cfg la [] = true ∧ nbit (e.word 1) 10 = false) ∧
    (∃ (s : State), ∃ (q : Nat), ∃ (e : Entry), ∃ (la : Launch), ((s.m.queue q).cur = some e ∧ e.op = 9 ∧ e.begun = false ∧ e.fin = none) ∧ s.m.named e = some la ∧ la.p = (s.m.queue q).part ∧ la.admitted = true ∧ ((∃ cl ∈ s.m.clusters, cl.l = la.l ∧ cl.pre = .running)) ∧ s.m.savable s.cfg la [] = true ∧ nbit (e.word 1) 10 = true ∧ (10 ≤ nbits (e.word 1) 15 11 ∧ nbits (e.word 1) 15 11 ≤ 20)) ∧
    (∃ (s : State), ∃ (q : Nat), ∃ (e : Entry), ((s.m.queue q).cur = some e ∧ e.op = 9 ∧ e.begun = false ∧ e.fin = none) ∧ s.m.named e = none ∧ ((∀ b ∈ s.m.bufs, isFab b.w.sp = false))) ∧
    (∃ (s : State), ∃ (K : Nat), ∃ (d : Nat), ∃ (cl : Cluster), s.m.cluster? K = some cl ∧ cl.pre = .notice d ∧ d ≤ s.m.cyc) ∧
    (∃ (s : State), ∃ (K : Nat), ∃ (cl : Cluster), ∃ (la : Launch), ∃ (rc : LRec), s.m.cluster? K = some cl ∧ s.m.launch? cl.l = some la ∧ la.rec_ = some rc ∧ ((∀ k ∈ s.m.preSet cl.l K, (s.m.cluster? k).map Cluster.pre = some .stopping)) ∧ ((∀ tm ∈ s.m.teams, tm.c ∈ s.m.preSet cl.l K → s.m.settled tm.t = true))) ∧
    (∃ (s : State), ∃ (K : Nat), ∃ (place : List (List Origin)), ∃ (cl : Cluster), ∃ (la : Launch), ∃ (rc : LRec), ∃ (pt : Part), ∃ (seats : List (List Seat)), s.m.cluster? K = some cl ∧ s.m.launch? cl.l = some la ∧ la.rec_ = some rc ∧ s.cfg.part? la.p = some pt ∧ cl.pre = .saved ∧ s.m.yields cl = false ∧ place.length = (s.m.preSet cl.l K).length ∧ mayServe s.cfg s.m pt ⟨0, la, rc, (s.m.preSet cl.l K).length⟩ = true ∧ takeAll pt la.x rc s.m.seats place = some seats) :=
  ⟨⟨(labQ ⟨blkOf 64 [(0, 8, 1), (8, 8, 0x10400)], 7, false, false, 0, 0, 0, [], none⟩), 3, ⟨blkOf 64 [(0, 8, 1), (8, 8, 0x10400)], 7, false, false, 0, 0, 0, [], none⟩, by decide +kernel⟩,
    ⟨labNewBad, 2, [[⟨0, 0, 0⟩]], ⟨2, 3, 7, 0, false, false, false, 0, 0, 0, none, 0x10400, false, 0, 0, none, none⟩, probePart, (agentOr [] (readRec labNewBad.cfg labNewBad.m ⟨2, 3, 7, 0, false, false, false, 0, 0, 0, none, 0x10400, false, 0, 0, none, none⟩).1), (readRec labNewBad.cfg labNewBad.m ⟨2, 3, 7, 0, false, false, false, 0, 0, 0, none, 0x10400, false, 0, 0, none, none⟩).2, and4 (by decide +kernel) ⟨agent_of (by decide +kernel), by decide +kernel⟩⟩,
    ⟨labNew, 2, [[⟨0, 0, 0⟩]], ⟨2, 3, 7, 0, false, false, false, 0, 0, 0, none, 0x10400, false, 0, 0, none, none⟩, probePart, (agentOr [] (readRec labNew.cfg labNew.m ⟨2, 3, 7, 0, false, false, false, 0, 0, 0, none, 0x10400, false, 0, 0, none, none⟩).1), (readRec labNew.cfg labNew.m ⟨2, 3, 7, 0, false, false, false, 0, 0, 0, none, 0x10400, false, 0, 0, none, none⟩).2, ((takeAll probePart 0 (lrecOf (agentOr [] (readRec labNew.cfg labNew.m ⟨2, 3, 7, 0, false, false, false, 0, 0, 0, none, 0x10400, false, 0, 0, none, none⟩).1)) labNew.m.seats [[⟨0, 0, 0⟩]]).getD []), and4 (by decide +kernel) ⟨agent_of (by decide +kernel), and3 (by decide +kernel) (some_of (by decide +kernel))⟩⟩,
    ⟨labMore, 1, [⟨0, 0, 0⟩], { labC.la with rec_ := some { labRec with nclu := 2 } }, { labRec with nclu := 2 }, probePart, ((takeAll probePart 0 { labRec with nclu := 2 } labMore.m.seats [[⟨0, 0, 0⟩]]).getD []), and6 (by decide +kernel) (some_of (by decide +kernel))⟩,
    ⟨labStart, 1, { labC.cl with started := false }, labC.la, labC.rc, by decide +kernel⟩,
    ⟨(labG (fun g => { g with ended := true })), 1, labC.cl, labC.la, labC.rc, by decide +kernel⟩,
    ⟨(labSavable ⟨blkOf 64 [(0, 8, 9), (8, 8, 0)], 7, false, false, 0, 0, 0, [], none⟩), 3, ⟨blkOf 64 [(0, 8, 9), (8, 8, 0)], 7, false, false, 0, 0, 0, [], none⟩, labC.la, by decide +kernel⟩,
    ⟨(labSavable ⟨blkOf 64 [(0, 8, 9), (8, 8, 0xA400)], 7, false, false, 0, 0, 0, [], none⟩), 3, ⟨blkOf 64 [(0, 8, 9), (8, 8, 0xA400)], 7, false, false, 0, 0, 0, [], none⟩, labC.la, by decide +kernel⟩,
    ⟨(labQ ⟨blkOf 64 [(0, 8, 9), (8, 8, 1023)], 7, false, false, 0, 0, 0, [], none⟩), 3, ⟨blkOf 64 [(0, 8, 9), (8, 8, 1023)], 7, false, false, 0, 0, 0, [], none⟩, by decide +kernel⟩,
    ⟨(labPre (.notice 0)), 1, 0, { labC.cl with pre := .notice 0 }, by decide +kernel⟩,
    ⟨(labPre .stopping), 1, { labC.cl with pre := .stopping }, labC.la, labC.rc, by decide +kernel⟩,
    ⟨(labPre .saved), 1, [[⟨0, 0, 0⟩]], { labC.cl with pre := .saved }, labC.la, labC.rc, probePart, ((takeAll probePart 0 labRec (labPre .saved).m.seats [[⟨0, 0, 0⟩]]).getD []), and8 (by decide +kernel) (some_of (by decide +kernel))⟩⟩

/-- The premises of QueueSteps. -/
theorem test_premises_QueueSteps :
    (∃ (s : State), ∃ (q : Nat), (s.m.dev.bootstg = 3 ∧ s.m.dev.erased = false) ∧ (s.m.queue q).en = false) ∧
    (∃ (s : State), ∃ (q : Nat), (s.m.dev.bootstg = 3 ∧ s.m.dev.erased = false) ∧ (s.m.queue q).en = true) ∧
    (∃ (s : State), ∃ (q : Nat), ∃ (_v : BitVec 16), (s.m.dev.bootstg = 3 ∧ s.m.dev.erased = false) ∧ (s.m.queue q).chead < 65536) ∧
    (∃ (s : State), ∃ (q : Nat), ∃ (_v : BitVec 16), (s.m.dev.bootstg = 3 ∧ s.m.dev.erased = false) ∧ (s.m.queue q).tail < 65536) ∧
    (∃ (s : State), ∃ (q : Nat), ∃ (e : Entry), (s.m.queue q).en = true ∧ (s.m.queue q).halted = false ∧ (s.m.queue q).cur = none ∧ ((∀ x ∈ (s.m.queue q).past, x.fin = none)) ∧ (s.m.queue q).head ≠ (s.m.queue q).tail ∧ s.m.poisoned .host (((s.m.queue q).rbase + 64 * (s.m.queue q).head) % 2 ^ 64) 64 = false ∧ ((∀ b ∈ s.m.bufs, isFab b.w.sp = false)) ∧ e = ⟨(qHost s.m (((s.m.queue q).rbase + 64 * (s.m.queue q).head) % 2 ^ 64) 64).1, (s.m.queue q).head, false, false, s.m.cyc, 0, 0, [], none⟩) ∧
    (∃ (s : State), ∃ (q : Nat), ∃ (e : Entry), ∃ (a : Acc), ∃ (m : Mach), ((s.m.queue q).cur = some e ∧ e.op = 2 ∧ e.begun = false ∧ e.fin = none) ∧ qWord s.cfg s.m q (e.word 1) .read = (.ok a, m)) ∧
    (∃ (s : State), ∃ (q : Nat), ∃ (e : Entry), ∃ (a : Acc), ∃ (m : Mach), ((s.m.queue q).cur = some e ∧ e.op = 2 ∧ e.begun = true ∧ e.fin = none) ∧ qWord s.cfg s.m q (e.word 1) .read = (.ok a, m) ∧ poisonedAcc m (s.cfg.part? (s.m.queue q).part) a (e.word 1) 8 = false ∧ ((∀ b ∈ m.bufs, isFab b.w.sp = false)) ∧ let x := leNat (readAcc (.acq qLeaf 4 false) m (s.cfg.part? (s.m.queue q).part) a (e.word 1) 8).1; e.word 2 ≤ x % 2 ^ 63) ∧
    (∃ (s : State), ∃ (q : Nat), ∃ (e : Entry), ((s.m.queue q).cur = some e ∧ e.op = 2 ∧ e.begun = true ∧ e.fin = none) ∧ ((∀ b ∈ s.m.bufs, isFab b.w.sp = false)) ∧ e.word 3 ≠ 0 ∧ e.at_ + e.word 3 * 1024 ≤ s.m.cyc) ∧
    (∃ (s : State), ∃ (q : Nat), ∃ (e : Entry), ∃ (a : Acc), ∃ (m : Mach), ((s.m.queue q).cur = some e ∧ e.op = 3 ∧ e.begun = false ∧ e.fin = none) ∧ qWord s.cfg s.m q (e.word 1) .atomic = (.ok a, m) ∧ e.done = false ∧ poisonedAcc m (s.cfg.part? (s.m.queue q).part) a (e.word 1) 8 = false ∧ m.bufs = []) ∧
    (∃ (s : State), ∃ (q : Nat), ∃ (e : Entry), ((s.m.queue q).cur = some e ∧ e.op = 4 ∧ e.begun = false ∧ e.fin = none) ∧ touchesWs s.cfg s.m (s.m.queue q).part (s.m.queue q).ctx (e.word 1) (e.word 3) = false ∧ touchesWs s.cfg s.m (s.m.queue q).part (s.m.queue q).ctx (e.word 2) (e.word 3) = false) ∧
    (∃ (s : State), ∃ (q : Nat), ∃ (e : Entry), ∃ (w : Nat), ∃ (b : Bool), ∃ (m : Mach), ((s.m.queue q).cur = some e ∧ e.op = 4 ∧ e.begun = true ∧ e.fin = none) ∧ e.l = 0 ∧ e.work < e.word 3 ∧ copyPiece s.cfg s.m q (e.word 1 + e.work) (e.word 2 + e.work) (e.word 3 - e.work) = (some w, b, m) ∧ e.work + w < e.word 3) ∧
    (∃ (s : State), ∃ (q : Nat), ∃ (e : Entry), ∃ (_n : Nat), ((s.m.queue q).cur = some e ∧ e.op = 4 ∧ e.begun = true ∧ e.fin = none) ∧ e.l = 0 ∧ e.word 3 ≤ e.work ∧ ((∀ b ∈ s.m.bufs, isFab b.w.sp = false))) ∧
    (∃ (s : State), ∃ (q : Nat), ∃ (e : Entry), ((s.m.queue q).cur = some e ∧ e.op = 6 ∧ e.begun = false ∧ e.fin = none) ∧ e.word 2 % 65536 = 0 ∧ e.word 3 % 65536 = 0 ∧ ((e.word 3 ≠ 0 ∨ nbit (e.word 1) 2 = true ∨ nbit (e.word 1) 3 = true)) ∧ ((∀ b ∈ s.m.bufs, isFab b.w.sp = false)) ∧ ((∀ f ∈ s.m.fabPend, f.store = true)) ∧ s.m.vows = [] ∧ ((∀ o ∈ s.m.ops, o.owes = false ∧ o.watch = none))) ∧
    (∃ (s : State), ∃ (q : Nat), ∃ (e : Entry), ∃ (b : List Byte), ∃ (m : Mach), ∃ (cf : Conf), ((s.m.queue q).cur = some e ∧ e.op = 7 ∧ e.begun = false ∧ e.fin = none) ∧ qHost s.m (e.word 2) 512 = (b, m) ∧ s.m.poisoned .host (e.word 2) 512 = false ∧ ((∀ b ∈ s.m.bufs, isFab b.w.sp = false)) ∧ ((∀ la ∈ s.m.launches, la.p ≠ nbits (e.word 1) 3 0)) ∧ partBad b = false ∧ s.cfg.withPart (partOf (nbits (e.word 1) 3 0) b) = some cf) ∧
    (∃ (s : State), ∃ (q : Nat), ∃ (e : Entry), ∃ (b : List Byte), ∃ (m : Mach), ((s.m.queue q).cur = some e ∧ e.op = 7 ∧ e.begun = false ∧ e.fin = none) ∧ qHost s.m (e.word 2) 512 = (b, m) ∧ s.m.poisoned .host (e.word 2) 512 = false ∧ ((∀ b ∈ s.m.bufs, isFab b.w.sp = false)) ∧ (s.m.admittedIn (nbits (e.word 1) 3 0) = true ∨ partBad b = true)) ∧
    (∃ (s : State), ∃ (q : Nat), ∃ (e : Entry), ∃ (b : List Byte), ∃ (m : Mach), ((s.m.queue q).cur = some e ∧ e.op = 8 ∧ e.begun = false ∧ e.fin = none) ∧ qHost s.m (e.word 2) 64 = (b, m) ∧ s.m.poisoned .host (e.word 2) 64 = false ∧ ((∀ b ∈ s.m.bufs, isFab b.w.sp = false)) ∧ (s.cfg.part? (nbits (e.word 1) 3 0)).isSome = true ∧ ctxBad b = false ∧ ((∀ la ∈ s.m.launches, la.p = nbits (e.word 1) 3 0 → la.x = nbits (e.word 1) 5 4 → la.admitted = false))) ∧
    (∃ (s : State), ∃ (q : Nat), ∃ (k : Compl), ∃ (rest : List Compl), (s.m.queue q).held = k :: rest ∧ ((s.m.queue q).ctail + 1) % 2 ^ (s.m.queue q).clog ≠ (s.m.queue q).chead ∧ ((∀ x ∈ (s.m.queue q).cur.toList ++ (s.m.queue q).past, x.fin = none)) ∧ ((k.part = none ∨ k.part = some (s.m.queue q).part))) ∧
    (∃ (s : State), ∃ (q : Nat), ∃ (p : Nat), ∃ (k : Compl), ∃ (rest : List Compl), (s.m.queue q).held = k :: rest ∧ ((s.m.queue q).ctail + 1) % 2 ^ (s.m.queue q).clog ≠ (s.m.queue q).chead ∧ ((∀ x ∈ (s.m.queue q).cur.toList ++ (s.m.queue q).past, x.fin = none)) ∧ k.part = some p ∧ p ≠ (s.m.queue q).part) ∧
    (∃ (s : State), ∃ (v : DWord), s.m.dev.erased = false ∧ (1500 ≤ nbits v.toNat 11 0 ∧ nbits v.toNat 11 0 ≤ 3000)) ∧
    (∃ (s : State), ∃ (_v : DWord), s.m.dev.erased = false) ∧
    (∃ (s : State), ∃ (q : Nat), ∃ (_v : DWord), q < 1024 ∧ (s.m.dev.bootstg = 3 ∧ s.m.dev.erased = false) ∧ (s.m.queue q).en = false) ∧
    (∃ (s : State), ∃ (q : Nat), ∃ (_v : DWord), q < 1024 ∧ (s.m.dev.bootstg = 3 ∧ s.m.dev.erased = false) ∧ (s.m.queue q).en = true) ∧
    (∃ (s : State), ∃ (q : Nat), ∃ (_v : DWord), q < 1024 ∧ (s.m.dev.bootstg = 3 ∧ s.m.dev.erased = false)) ∧
    (∃ (_s : State), ∃ (off : Nat), ∃ (_v : DWord), off % 8 ≠ 0) ∧
    (∃ (s : State), ∃ (_bits : BitVec 4), s.m.dev.alpol = false) :=
  ⟨⟨(labUp false), 1023, by decide +kernel⟩,
    ⟨(labUp true), 3, by decide +kernel⟩,
    ⟨(labUp true), 3, 0xFFFF, by decide +kernel⟩,
    ⟨(labUp true), 3, 0xFFFF, by decide +kernel⟩,
    ⟨(labUp true), 3, labHead, and7 (by decide +kernel) rfl⟩,
    ⟨(labQ ⟨blkOf 64 [(0, 8, 2), (8, 8, 0x10400)], 7, false, false, 0, 0, 0, [], none⟩), 3, ⟨blkOf 64 [(0, 8, 2), (8, 8, 0x10400)], 7, false, false, 0, 0, 0, [], none⟩, (reachOr ⟨.pkg, 0, none, 0, false, none⟩ (qWord (labQ ⟨blkOf 64 [(0, 8, 2), (8, 8, 0x10400)], 7, false, false, 0, 0, 0, [], none⟩).cfg (labQ ⟨blkOf 64 [(0, 8, 2), (8, 8, 0x10400)], 7, false, false, 0, 0, 0, [], none⟩).m 3 0x10400 .read).1), (qWord (labQ ⟨blkOf 64 [(0, 8, 2), (8, 8, 0x10400)], 7, false, false, 0, 0, 0, [], none⟩).cfg (labQ ⟨blkOf 64 [(0, 8, 2), (8, 8, 0x10400)], 7, false, false, 0, 0, 0, [], none⟩).m 3 0x10400 .read).2, by decide +kernel, reach_of (by decide +kernel)⟩,
    ⟨(labQ ⟨blkOf 64 [(0, 8, 2), (8, 8, 0x10400)], 7, true, false, 0, 0, 0, [], none⟩), 3, ⟨blkOf 64 [(0, 8, 2), (8, 8, 0x10400)], 7, true, false, 0, 0, 0, [], none⟩, (reachOr ⟨.pkg, 0, none, 0, false, none⟩ (qWord (labQ ⟨blkOf 64 [(0, 8, 2), (8, 8, 0x10400)], 7, true, false, 0, 0, 0, [], none⟩).cfg (labQ ⟨blkOf 64 [(0, 8, 2), (8, 8, 0x10400)], 7, true, false, 0, 0, 0, [], none⟩).m 3 0x10400 .read).1), (qWord (labQ ⟨blkOf 64 [(0, 8, 2), (8, 8, 0x10400)], 7, true, false, 0, 0, 0, [], none⟩).cfg (labQ ⟨blkOf 64 [(0, 8, 2), (8, 8, 0x10400)], 7, true, false, 0, 0, 0, [], none⟩).m 3 0x10400 .read).2, by decide +kernel, reach_of (by decide +kernel), by decide +kernel⟩,
    ⟨(labLate ⟨blkOf 64 [(0, 8, 2), (8, 8, 0x10400), (24, 8, 1)], 7, true, false, 0, 0, 0, [], none⟩), 3, ⟨blkOf 64 [(0, 8, 2), (8, 8, 0x10400), (24, 8, 1)], 7, true, false, 0, 0, 0, [], none⟩, by decide +kernel⟩,
    ⟨(labQ ⟨blkOf 64 [(0, 8, 3), (8, 8, 0x10400)], 7, false, false, 0, 0, 0, [], none⟩), 3, ⟨blkOf 64 [(0, 8, 3), (8, 8, 0x10400)], 7, false, false, 0, 0, 0, [], none⟩, (reachOr ⟨.pkg, 0, none, 0, false, none⟩ (qWord (labQ ⟨blkOf 64 [(0, 8, 3), (8, 8, 0x10400)], 7, false, false, 0, 0, 0, [], none⟩).cfg (labQ ⟨blkOf 64 [(0, 8, 3), (8, 8, 0x10400)], 7, false, false, 0, 0, 0, [], none⟩).m 3 0x10400 .atomic).1), (qWord (labQ ⟨blkOf 64 [(0, 8, 3), (8, 8, 0x10400)], 7, false, false, 0, 0, 0, [], none⟩).cfg (labQ ⟨blkOf 64 [(0, 8, 3), (8, 8, 0x10400)], 7, false, false, 0, 0, 0, [], none⟩).m 3 0x10400 .atomic).2, by decide +kernel, reach_of (by decide +kernel), by decide +kernel⟩,
    ⟨(labQ ⟨blkOf 64 [(0, 8, 4), (8, 8, 0x10400), (16, 8, 0x10800), (24, 8, 64)], 7, false, false, 0, 0, 0, [], none⟩), 3, ⟨blkOf 64 [(0, 8, 4), (8, 8, 0x10400), (16, 8, 0x10800), (24, 8, 64)], 7, false, false, 0, 0, 0, [], none⟩, by decide +kernel⟩,
    ⟨labCpy, 3, labCpyE, 16, false, labCpyM, and3 (by decide +kernel) ⟨labCpy_piece, by decide +kernel⟩⟩,
    ⟨(labQ ⟨blkOf 64 [(0, 8, 4), (8, 8, 0x10400), (16, 8, 0x10800), (24, 8, 64)], 7, true, false, 0, 64, 0, [], none⟩), 3, ⟨blkOf 64 [(0, 8, 4), (8, 8, 0x10400), (16, 8, 0x10800), (24, 8, 64)], 7, true, false, 0, 64, 0, [], none⟩, 0, by decide +kernel⟩,
    ⟨(labQ ⟨blkOf 64 [(0, 8, 6), (8, 8, 4), (16, 8, 0x10000), (24, 8, 0x10000)], 7, false, false, 0, 0, 0, [], none⟩), 3, ⟨blkOf 64 [(0, 8, 6), (8, 8, 4), (16, 8, 0x10000), (24, 8, 0x10000)], 7, false, false, 0, 0, 0, [], none⟩, by decide +kernel⟩,
    ⟨(labPc 1), 3, (labPcE 1), (labPcR 1).1, (labPcR 1).2, labPcC, by decide +kernel, labPc_read 1, and4 (by decide +kernel) labPc_with⟩,
    ⟨(labPc 0), 3, (labPcE 0), (labPcR 0).1, (labPcR 0).2, by decide +kernel, labPc_read 0, by decide +kernel⟩,
    ⟨labCc, 3, labCcE, labCcR.1, labCcR.2, by decide +kernel, eta_of (by rw [labCcR]), by decide +kernel⟩,
    ⟨(labHeld none), 3, ⟨1, 1, 0, 0, 0, 7, true, none⟩, [], and3 (by decide +kernel) (Or.inl rfl)⟩,
    ⟨(labHeld (some 15)), 3, 15, ⟨1, 1, 0, 0, 0, 7, true, some 15⟩, [], by decide +kernel⟩,
    ⟨lab, 3000, by decide +kernel⟩,
    ⟨lab, 0xFFFFFFFFFFFFFFFF, by decide +kernel⟩,
    ⟨(labUp false), 1023, 0xFFFFFFFFFFFFFFFF, by decide +kernel⟩,
    ⟨(labUp true), 3, 0, by decide +kernel⟩,
    ⟨(labUp true), 3, 0xFFFFFFFF, by decide +kernel⟩,
    ⟨lab, 0x14, 0, by decide +kernel⟩,
    ⟨lab, 15, by decide +kernel⟩⟩

end Sys2Proof.Tests
end

