-- ==== Sys2Proof/Tests/Planes.lean ====
section
/-! SUPPORT. States and operands that meet the premises of the statements about planes and the fabric. -/
set_option Elab.async false
namespace Sys2Proof.Tests
open Sys2Proof Sys2Proof.Machine

/-- A region bound under index 7 by two contexts. -/
def labRg2 : Region := { labRg with binds := [(0, 7), (1, 7)] }
/-- Queue 3 with a plane operation, and regions. -/
def labPl (e : Entry) (rg : List Region) : State := let s := labQ e; { s with m := { s.m with regions := rg } }
/-- A MEMBER from round 5. -/
def labMemE : Entry := ⟨blkOf 64 [(0, 8, 5), (8, 8, 0x72), (16, 8, 0x10400), (24, 8, 5)], 7, false, false, 0, 0, 0, [], none⟩
/-- It, and its membership record of two islands in the package. -/
def labMem : State :=
  let s := labMap (labPl labMemE [labRgn])
  { s with m := s.m.writeFlats (pkgAt 0x400) (blkOf 128 [(0, 8, 2)]) (some (tagOf 0 0x400 probeKey)) }
/-- What reading the record gives. -/
def labMemX : Except PlaneR (Nat × Nat × List (List Byte)) × Mach :=
  readMembers labMem.cfg labMem.m (labMem.m.queue 3).part (nbits (labMemE.word 1) 9 8) (labMemE.word 2)
/-- The record. -/
def labMemR : Nat × Nat × List (List Byte) := excOr (0, 0, []) labMemX.1
/-- The machine after it. -/
def labMemM : Mach := labMemX.2
theorem labMem_read : labMemX = (.ok labMemR, labMemM) :=
  exc_of (d := (0, 0, [])) (by decide +kernel)
theorem labMem_ranges : receiveOk labMem.cfg labMemM labRgn labMemR.1 = true := by decide +kernel
/-- A BIND of the region's descriptor under index 3. -/
def labBindE : Entry := ⟨blkOf 64 [(0, 8, 5), (8, 8, 0x30), (16, 8, 0x10400)], 7, false, false, 0, 0, 0, [], none⟩
/-- It. -/
def labBind : State := labPl labBindE [labRgn]
/-- Its access. -/
def labBindX : Reach × Mach := reach labBind.cfg labBind.m qOwn (labBind.m.queue 3).part (nbits (labBindE.word 1) 9 8) (labBindE.word 2) .read
/-- The place, and the machine after it. -/
def labNone : Acc := ⟨.pkg, 0, none, 0, false, none⟩
def labBindA : Acc := reachOr labNone labBindX.1
def labBindAM : Mach := labBindX.2
theorem labBind_acc : labBindX = (.ok labBindA, labBindAM) := reach_of (d := labNone) (by decide +kernel)
/-- A region that notifies queue 3. -/
def labRgNq : Region := { labRg with desc := blkOf 128 [(0x5C, 4, 3)] }
/-- A BIND of a descriptor that no region has, which names the membership record behind it. -/
def labNewE : Entry := ⟨blkOf 64 [(0, 8, 5), (8, 8, 0x70), (16, 8, 0x10400)], 7, false, false, 0, 0, 0, [], none⟩
def labNewD : List Byte := putAt labDesc 0x60 (leBytes 8 0x10480)
def labNew2 : State :=
  let s := labMap (labPl labNewE [])
  { s with m := s.m.writeFlats (pkgAt 0x400) (labNewD ++ blkOf 128 [(0, 8, 2)]) (some (tagOf 0 0x400 probeKey)) }
/-- Its access, and what it reads. -/
def labNewX0 : Reach × Mach := reach labNew2.cfg labNew2.m qOwn (labNew2.m.queue 3).part (nbits (labNewE.word 1) 9 8) (labNewE.word 2) .read
def labNewX1 : Except PlaneR (List Byte) × Mach := planeRead labNew2.cfg labNewX0.2 (labNew2.m.queue 3).part (nbits (labNewE.word 1) 9 8) (labNewE.word 2) 128
def labNewX2 : Except PlaneR (Nat × Nat × List (List Byte)) × Mach :=
  readMembers labNew2.cfg labNewX1.2 (labNew2.m.queue 3).part (nbits (labNewE.word 1) 9 8) (natAt (excOr [] labNewX1.1) 0x60 8)
def labNewX3 : Except PlaneR (List Byte) × Mach := readPair labNew2.cfg labNewX2.2 (labNew2.m.queue 3).part (nbits (labNewE.word 1) 9 8) (excOr [] labNewX1.1)
def labNewRg : Region := newRegion labNewX3.2.fresh (labNew2.m.queue 3).part (nbits (labNewE.word 1) 9 8) (nbits (labNewE.word 1) 6 4) (excOr [] labNewX1.1)
  (reachOr labNone labNewX0.1).ppa (excOr [] labNewX3.1) (excOr (0, 0, []) labNewX2.1)
/-- A BIND that has begun, and regions on mapped pages. -/
def labBegun : Entry := { labBindE with begun := true, l := 1 }
def labRgsQ (e : Entry) (rg : List Region) : State := labMap (labPl e rg)
/-- The region with its Spindle at its fragment. -/
def labSp (s : Spin) : Region := { labRgn with spin := [s] }
/-- The region with its fragment sent, contributions and folds. -/
def labFo (ks : List Contrib) (fo : List Fold) : Region := { labRgn with frags := [⟨0, 1, false, 0, true, 0, 0, 0, 0, 0⟩], contribs := ks, folds := fo }
/-- What a fold of two zero contributions makes of them. -/
def labFoC : List Nat × List (List Nat) :=
  (judgeFold labRgn 0 [] [⟨0, 0, 0, ⟨0, 0, 0, 0, 2, 0, 4, [0], List.replicate 8 0⟩, none⟩, ⟨1, 0, 0, ⟨0, 0, 0, 1, 2, 0, 4, [0], List.replicate 8 0⟩, none⟩]).getD ([], [])
theorem labFo_judged : judgeFold labRgn 0 [] [⟨0, 0, 0, ⟨0, 0, 0, 0, 2, 0, 4, [0], List.replicate 8 0⟩, none⟩, ⟨1, 0, 0, ⟨0, 0, 0, 1, 2, 0, 4, [0], List.replicate 8 0⟩, none⟩] =
    some (labFoC.1, labFoC.2) := some_of (d := ([], [])) (by decide +kernel)
/-- The region in a pass. -/
def labPs (k : PassAt) : Region := { labRgn with frags := [⟨0, 2, false, 0, true, 0, 0, 0, 0, 1⟩], passing := [0], passAt := k }
/-- A key, and the text of a drift message of island 1. -/
def labKey : Key := List.replicate 32 1
def labText : List Byte := driftBytes ⟨0, 0, 0, 1, 2, 0, 4, [0], List.replicate 8 0⟩
/-- What travels. -/
def labCipher : List Byte := gcmCrypt labKey (islandNonce 0 1) 0 labText
/-- A drift message's request, every byte of it granted and come, without its seal and with it. -/
def labDrH0 : HReq := ⟨0, ⟨9, 7, 0, 0, 41, 0, 41, 1, false, some (0, 0, 1)⟩, 41, [], 5, 0, none, some 1, false, [], none⟩
def labDrH : HReq := { labDrH0 with cipher := [(0, labCipher)], sealed := some ⟨0, Config.gcmTag labKey (islandNonce 0 1) labCipher⟩ }
/-- It, and regions. -/
def labDrift (rg : List Region) : State := labWith (fun m => { m with hreqs := [labDrH], regions := rg, dev := { m.dev with islands := [⟨9, none, 0, some labKey, []⟩] } })
theorem gcmCrypt_twice (key : Key) (n off : Nat) (bs : List Byte) : gcmCrypt key n off (gcmCrypt key n off bs) = bs := by
  simp [gcmCrypt, List.mapIdx_mapIdx, Function.comp_def, List.mapIdx_eq_iff]
theorem labDrift_open (rg : List Region) : (labDrift rg).m.openDrift labDrH 1 = some (0, labText) := by
  have hk : (labDrift rg).m.islandKey labDrH.r.src = ⟨9, none, 0, some labKey, []⟩ := rfl
  have hj : joinPieces labDrH.cipher = labCipher := by simp [joinPieces, labDrH, insertPiece]
  unfold Mach.openDrift
  simp only [hk, hj]
  simp [labDrH, labCipher, gcmCrypt_twice]
/-- The region with its fragment sent and nothing heard. -/
def labRgq : Region := { labRgn with frags := [⟨0, 1, false, 0, true, 0, 0, 0, 0, 0⟩] }
def labSil : State := labWith (fun m => { m with regions := [labRgq], cyc := 2048, dieOff := [0, 0, 0, 0] })
/-- A state whose window entry 0 gives the team's scratchpad. -/
def labWin (s : State) : State := { s with m := s.m.putPhys probePart 0 (leBytes 8 59 ++ leBytes 8 0x100000 ++ leBytes 8 0 ++ leBytes 8 0) }
/-- A fibre that waits for answers. -/
def labFab (i : Instr) (p : FabPend) : State := let s := labW i (.fabric 7) 0; { s with m := { s.m with fabPend := [p] } }
/-- An access to device 5 whose answers are as given. -/
def labAsked (store : Bool) (as : List (Nat × FabRes)) : FabPend :=
  ⟨7, ⟨1, 0, 0⟩, none, store, [(⟨0, 0xC00A000000001000, 16, 0xC00A000000001000⟩, .fab 5 0x1000)], as, [], [], none, .whole, [], false⟩
/-- The lab once the answer to a load has come. -/
def labFabM : Mach := ([(0, FabRes.ok (List.replicate 16 1))].foldl (fun m r => m.takeAnswer 7 r.1 r.2) (labFab (.ld .q .rmt 116 6 0) (labAsked false [])).m).endDrains
/-- The fibre that waits for it. -/
def labFabC : Ctx := (ctxOf labFabM ⟨1, 0, 0⟩).getD labC
theorem labFab_drain : ∀ f ∈ (labFab .nop (labAsked true [])).m.fibres, ∀ i ws again n, f.wait ≠ some ⟨i, .drain ws again, n⟩ := by
  intro f hf i ws again n h
  have := (by decide +kernel : ∀ f ∈ (labFab .nop (labAsked true [])).m.fibres, f.wait = some ⟨.nop, .fabric 7, 0⟩) f hf
  simp [this] at h
/-- A request of a partition that does not exist. -/
def labRefR : FabReq := ⟨9, 0, 7, 3, [(0, 0x100, .read 16)], .whole, false⟩
theorem labRef_calm : ∀ a ∈ (fabPlaces lab.cfg lab.m labRefR).1, (∀ k, a.2.2 ≠ .saved k) ∧ a.2.2 ≠ .busy := by
  intro a ha
  have := (by decide +kernel : ∀ a ∈ (fabPlaces lab.cfg lab.m labRefR).1, a.2.2 = .refused 4 4) a ha
  simp [this]
/-- A packet of a prefix of 32 bytes at an offset of its message. -/
def labPkt (pos : Nat) : Packet := ⟨9, 7, 0, 0x100, pos, 32, List.replicate (32 - pos) 1, none, none, 32, true, false, none⟩
/-- Where it lands. -/
def labPktR (pos : Nat) : Landing × Mach := landing (labWin lab).cfg (labWin lab).m (labPkt pos)
def labPktW : List (Acc × List Byte) := [0, 16].map (fun i => (⟨.scr 1, 0x100 + i, none, 0, false, none⟩, List.replicate 16 1))
def labPktW16 : List (Acc × List Byte) := [(⟨.scr 1, 0x110, none, 0, false, none⟩, List.replicate 16 1)]
/-- The machine that holds it. -/
def labPktM (pos : Nat) : Mach :=
  let m := (labPktR pos).2.prefixGot (labPkt pos) (some 1)
  { m with late := m.late ++ [labPkt pos] }
/-- Where it lands from there. -/
def labPktR2 : Landing × Mach := landing (labWin lab).cfg (({ labPktM 0 with late := (labPktM 0).late.erase (labPkt 0) } : Mach).passInbound (labPkt 0)) (labPkt 0)

/-- The premises of PlaneSteps. -/
theorem test_premises_PlaneSteps :
    (∃ (s : State), ∃ (q : Nat), ∃ (e : Entry), ∃ (rg : Region), PlaneOp s q 3 e ∧ s.m.regionOf (s.m.queue q).part (nbits (e.word 1) 9 8) (nbits (e.word 1) 6 4) = some rg) ∧
    (∃ (s : State), ∃ (q : Nat), ∃ (e : Entry), ∃ (rg : Region), PlaneOp s q 4 e ∧ s.m.regionOf (s.m.queue q).part (nbits (e.word 1) 9 8) (nbits (e.word 1) 6 4) = some rg) ∧
    (∃ (s : State), ∃ (q : Nat), ∃ (e : Entry), ∃ (rg : Region), PlaneOp s q 5 e ∧ s.m.regionOf (s.m.queue q).part (nbits (e.word 1) 9 8) (nbits (e.word 1) 6 4) = some rg ∧ s.m.region? rg.r = some rg ∧ rg.notifyq ≠ q) ∧
    (∃ (s : State), ∃ (q : Nat), ∃ (e : Entry), ∃ (rg : Region), PlaneOp s q 5 e ∧ s.m.regionOf (s.m.queue q).part (nbits (e.word 1) 9 8) (nbits (e.word 1) 6 4) = some rg ∧ s.m.region? rg.r = some rg ∧ rg.notifyq = q) ∧
    (∃ (s : State), ∃ (q : Nat), ∃ (e : Entry), ∃ (rg : Region), PlaneOp s q 1 e ∧ s.m.regionOf (s.m.queue q).part (nbits (e.word 1) 9 8) (nbits (e.word 1) 6 4) = some rg ∧ 2 ≤ rg.binds.length ∧ s.m.region? rg.r = some rg) ∧
    (∃ (s : State), ∃ (q : Nat), ∃ (e : Entry), ∃ (rg : Region), PlaneOp s q 1 e ∧ s.m.regionOf (s.m.queue q).part (nbits (e.word 1) 9 8) (nbits (e.word 1) 6 4) = some rg ∧ rg.binds.length ≤ 1 ∧ rg.cnt = 0 ∧ rg.pass = false ∧ rg.spin = [] ∧ rg.folds = []) ∧
    (∃ (s : State), ∃ (q : Nat), ∃ (e : Entry), ∃ (rg : Region), ∃ (mb : Nat × Nat × List (List Byte)), ∃ (m : Mach), PlaneOp s q 2 e ∧ s.m.regionOf (s.m.queue q).part (nbits (e.word 1) 9 8) (nbits (e.word 1) 6 4) = some rg ∧ s.m.region? rg.r = some rg ∧ readMembers s.cfg s.m (s.m.queue q).part (nbits (e.word 1) 9 8) (e.word 2) = (.ok mb, m) ∧ ((∀ f ∈ rg.frags, f.sentOnce = true → f.round < e.word 3)) ∧ receiveOk s.cfg m rg mb.1 = true) ∧
    (∃ (s : State), ∃ (q : Nat), ∃ (e : Entry), PlaneOp s q 1 e ∧ s.m.regionOf (s.m.queue q).part (nbits (e.word 1) 9 8) (nbits (e.word 1) 6 4) = none) ∧
    (∃ (s : State), ∃ (q : Nat), ∃ (e : Entry), PlaneOp s q 2 e ∧ s.m.regionOf (s.m.queue q).part (nbits (e.word 1) 9 8) (nbits (e.word 1) 6 4) = none) ∧
    (∃ (s : State), ∃ (q : Nat), ∃ (e : Entry), PlaneOp s q 3 e ∧ s.m.regionOf (s.m.queue q).part (nbits (e.word 1) 9 8) (nbits (e.word 1) 6 4) = none) ∧
    (∃ (s : State), ∃ (q : Nat), ∃ (e : Entry), PlaneOp s q 4 e ∧ s.m.regionOf (s.m.queue q).part (nbits (e.word 1) 9 8) (nbits (e.word 1) 6 4) = none) ∧
    (∃ (s : State), ∃ (q : Nat), ∃ (e : Entry), PlaneOp s q 5 e ∧ s.m.regionOf (s.m.queue q).part (nbits (e.word 1) 9 8) (nbits (e.word 1) 6 4) = none) ∧
    (∃ (s : State), ∃ (q : Nat), ∃ (e : Entry), ∃ (rg : Region), ∃ (a : Acc), ∃ (m : Mach), PlaneOp s q 0 e ∧ (s.cfg.ctx? (s.m.queue q).part (nbits (e.word 1) 9 8)).isSome = true ∧ ((∀ g ∈ s.m.regions, g.p = (s.m.queue q).part → (nbits (e.word 1) 9 8, nbits (e.word 1) 6 4) ∉ g.binds)) ∧ e.word 2 < 2 ^ 57 ∧ reach s.cfg s.m qOwn (s.m.queue q).part (nbits (e.word 1) 9 8) (e.word 2) .read = (.ok a, m) ∧ nbit (e.word 1) 7 = false ∧ s.m.regions.find? (fun g => g.p == (s.m.queue q).part && g.descAt == a.ppa) = some rg ∧ s.m.region? rg.r = some rg ∧ rg.init = none) ∧
    (∃ (s : State), ∃ (q : Nat), ∃ (e : Entry), PlaneOp s q 0 e ∧ (((∃ g ∈ s.m.regions, g.p = (s.m.queue q).part ∧ (nbits (e.word 1) 9 8, nbits (e.word 1) 6 4) ∈ g.binds) ∨ s.cfg.ctx? (s.m.queue q).part (nbits (e.word 1) 9 8) = none))) ∧
    (∃ (s : State), ∃ (q : Nat), ∃ (e : Entry), ∃ (rg : Region), ∃ (a : Acc), ∃ (m : Mach), ∃ (m1 : Mach), ∃ (m2 : Mach), ∃ (m3 : Mach), ∃ (desc : List Byte), ∃ (pair : List Byte), ∃ (mb : Nat × Nat × List (List Byte)), PlaneOp s q 0 e ∧ (s.cfg.ctx? (s.m.queue q).part (nbits (e.word 1) 9 8)).isSome = true ∧ ((∀ g ∈ s.m.regions, g.p = (s.m.queue q).part → (nbits (e.word 1) 9 8, nbits (e.word 1) 6 4) ∉ g.binds)) ∧ e.word 2 < 2 ^ 57 ∧ reach s.cfg s.m qOwn (s.m.queue q).part (nbits (e.word 1) 9 8) (e.word 2) .read = (.ok a, m) ∧ ((∀ g ∈ s.m.regions, g.p = (s.m.queue q).part → g.descAt ≠ a.ppa)) ∧ planeRead s.cfg m (s.m.queue q).part (nbits (e.word 1) 9 8) (e.word 2) 128 = (.ok desc, m1) ∧ descBad desc = false ∧ readMembers s.cfg m1 (s.m.queue q).part (nbits (e.word 1) 9 8) (natAt desc 0x60 8) = (.ok mb, m2) ∧ readPair s.cfg m2 (s.m.queue q).part (nbits (e.word 1) 9 8) desc = (.ok pair, m3) ∧ rg = newRegion m3.fresh (s.m.queue q).part (nbits (e.word 1) 9 8) (nbits (e.word 1) 6 4) desc a.ppa pair mb ∧ rangesOk s.cfg m3 rg mb.1 = true ∧ (m3.queue rg.notifyq).part = (s.m.queue q).part) ∧
    (∃ (s : State), ∃ (q : Nat), ∃ (e : Entry), ∃ (rg : Region), ∃ (k : InitAt), ∃ (m : Mach), (s.m.queue q).cur = some e ∧ e.op = 5 ∧ e.begun = true ∧ e.fin = none ∧ s.m.region? e.l = some rg ∧ rg.init = some k ∧ k.pos < zeroCount rg k.islands ∧ dieWrite s.cfg s.m rg (rg.dies.headD 0) .batten (zeroAt rg k.pos) (List.replicate 16 0) = (true, m)) ∧
    (∃ (s : State), ∃ (q : Nat), ∃ (e : Entry), ∃ (rg : Region), ∃ (k : InitAt), (s.m.queue q).cur = some e ∧ e.op = 5 ∧ e.begun = true ∧ e.fin = none ∧ s.m.region? e.l = some rg ∧ rg.init = some k ∧ zeroCount rg k.islands ≤ k.pos ∧ k.inita = true ∧ k.run.w < rg.nw) ∧
    (∃ (s : State), ∃ (q : Nat), ∃ (e : Entry), ∃ (rg : Region), ∃ (k : InitAt), (s.m.queue q).cur = some e ∧ e.op = 5 ∧ e.begun = true ∧ e.fin = none ∧ s.m.region? e.l = some rg ∧ rg.init = some k ∧ zeroCount rg k.islands ≤ k.pos ∧ ((k.inita = false ∨ rg.nw ≤ k.run.w)) ∧ ((∀ b ∈ s.m.bufs, isFab b.w.sp = false))) ∧
    (∃ (s : State), ∃ (r : Nat), ∃ (rg : Region), ∃ (die : Nat), ∃ (_n : Nat), ∃ (fr : Frag), s.m.region? r = some rg ∧ rg.spin.find? (fun x => x.die == die) = none ∧ s.m.spinNext rg die = some fr) ∧
    (∃ (s : State), ∃ (r : Nat), ∃ (rg : Region), ∃ (die : Nat), ∃ (fr : Frag), ∃ (sp : Spin), s.m.region? r = some rg ∧ rg.spin.find? (fun x => x.die == die) = some sp ∧ rg.frags.find? (fun x => x.f == sp.f) = some fr ∧ sp.ds.length < rg.count sp.f ∧ sp.die = die) ∧
    (∃ (s : State), ∃ (r : Nat), ∃ (rg : Region), ∃ (die : Nat), ∃ (fr : Frag), ∃ (sp : Spin), s.m.region? r = some rg ∧ rg.spin.find? (fun x => x.die == die) = some sp ∧ rg.frags.find? (fun x => x.f == sp.f) = some fr ∧ rg.count sp.f ≤ sp.ds.length ∧ sp.formed = false) ∧
    (∃ (s : State), ∃ (r : Nat), ∃ (rg : Region), ∃ (die : Nat), ∃ (w : Nat), ∃ (bs : List Byte), ∃ (rest : List (Nat × List Byte)), ∃ (fr : Frag), ∃ (sp : Spin), ∃ (m : Mach), s.m.region? r = some rg ∧ rg.spin.find? (fun x => x.die == die) = some sp ∧ rg.frags.find? (fun x => x.f == sp.f) = some fr ∧ rg.count sp.f ≤ sp.ds.length ∧ sp.formed = true ∧ sp.out = (w, bs) :: rest ∧ dieWrite s.cfg s.m rg die .spindle w bs = (true, m) ∧ sp.die = die) ∧
    (∃ (s : State), ∃ (r : Nat), ∃ (rg : Region), ∃ (die : Nat), ∃ (fr : Frag), ∃ (dm : Frag), ∃ (sp : Spin), ∃ (_m : Mach), s.m.region? r = some rg ∧ rg.spin.find? (fun x => x.die == die) = some sp ∧ rg.frags.find? (fun x => x.f == sp.f) = some fr ∧ rg.count sp.f ≤ sp.ds.length ∧ sp.formed = true ∧ sp.out = [] ∧ dm = { fr with dmax := BitVec.ofNat 32 (quantise rg fr.f fr.next (rg.member fr.next).self sp.ds).2.2, sentAt := sp.since }) ∧
    (∃ (s : State), ∃ (src : Nat), ∃ (xid : Nat), ∃ (die : Nat), ∃ (tag : Nat), ∃ (island : Nat), ∃ (counter : Nat), ∃ (j : Nat), ∃ (text : List Byte), ∃ (h : HReq), ∃ (rg : Region), s.m.hreqs.find? (fun h => h.r.src == src && h.r.xid == xid && h.r.drift.isSome && h.ungranted == 0 && (s.m.tokensOf h.order).isEmpty) = some h ∧ h.r.drift = some (die, tag, island) ∧ s.m.openDrift h island = some (counter, text) ∧ s.m.tagRegion h.r.part tag = some rg ∧ s.m.region? rg.r = some rg ∧ h.slot = some j ∧ (driftOfBytes text).tag = tag ∧ (driftOfBytes text).island = island ∧ driftGood rg die (driftOfBytes text) = true) ∧
    (∃ (s : State), ∃ (src : Nat), ∃ (xid : Nat), ∃ (die : Nat), ∃ (tag : Nat), ∃ (island : Nat), ∃ (counter : Nat), ∃ (text : List Byte), ∃ (h : HReq), s.m.hreqs.find? (fun h => h.r.src == src && h.r.xid == xid && h.r.drift.isSome && h.ungranted == 0 && (s.m.tokensOf h.order).isEmpty) = some h ∧ h.r.drift = some (die, tag, island) ∧ s.m.openDrift h island = some (counter, text) ∧ s.m.tagRegion h.r.part tag = none) ∧
    (∃ (s : State), ∃ (src : Nat), ∃ (xid : Nat), ∃ (die : Nat), ∃ (tag : Nat), ∃ (island : Nat), ∃ (h : HReq), s.m.hreqs.find? (fun h => h.r.src == src && h.r.xid == xid && h.r.drift.isSome && h.ungranted == 0 && (s.m.tokensOf h.order).isEmpty) = some h ∧ h.r.drift = some (die, tag, island) ∧ s.m.openDrift h island = none) ∧
    (∃ (s : State), ∃ (r : Nat), ∃ (rg : Region), ∃ (f : Nat), ∃ (fr : Frag), ∃ (ks : List Contrib), ∃ (a : Nat), ∃ (n : Nat), ∃ (bs : List Byte), ∃ (m : Mach), s.m.region? r = some rg ∧ rg.frags.find? (fun x => x.f == f) = some fr ∧ fr.st = 1 ∧ rg.round f fr.round = some ks ∧ let fo : Fold := (rg.folds.find? (fun x => x.f == f)).getD ⟨f, 0, [], false, [], [], .start⟩; fo.f = f ∧ fo.judged = false ∧ (foldReads rg ks)[fo.pos]? = some (a, n) ∧ batRead s.cfg s.m rg (rg.dieOf f) .spindle a n = (some bs, m)) ∧
    (∃ (s : State), ∃ (r : Nat), ∃ (rg : Region), ∃ (f : Nat), ∃ (fr : Frag), ∃ (ks : List Contrib), ∃ (cs : List Nat), ∃ (vals : List (List Nat)), s.m.region? r = some rg ∧ rg.frags.find? (fun x => x.f == f) = some fr ∧ fr.st = 1 ∧ rg.round f fr.round = some ks ∧ let fo : Fold := (rg.folds.find? (fun x => x.f == f)).getD ⟨f, 0, [], false, [], [], .start⟩; fo.f = f ∧ fo.judged = false ∧ (foldReads rg ks)[fo.pos]? = none ∧ judgeFold rg f fo.slots ks = some (cs, vals)) ∧
    (∃ (s : State), ∃ (r : Nat), ∃ (rg : Region), ∃ (f : Nat), ∃ (fr : Frag), ∃ (ks : List Contrib), ∃ (m : Mach), s.m.region? r = some rg ∧ rg.frags.find? (fun x => x.f == f) = some fr ∧ fr.st = 1 ∧ rg.round f fr.round = some ks ∧ let fo : Fold := (rg.folds.find? (fun x => x.f == f)).getD ⟨f, 0, [], false, [], [], .start⟩; fo.judged = false ∧ (foldReads rg ks)[fo.pos]? = none ∧ judgeFold rg f fo.slots ks = none ∧ s.m.setFrag s.cfg rg { fr with st := 0, poison := true } = (true, m)) ∧
    (∃ (_s : State), ∃ (_rg : Region), ∃ (_f : Nat), ∃ (_bs : List Byte), ∃ (ks : List Contrib), ((∃ k ∈ ks, k.slot = none ∧ 255 ∈ k.m.exps))) ∧
    (∃ (_s : State), ∃ (_rg : Region), ∃ (_f : Nat), ∃ (_bs : List Byte), ∃ (ks : List Contrib), ((∀ k ∈ ks, k.slot = none ∧ 255 ∉ k.m.exps))) ∧
    (∃ (s : State), ∃ (r : Nat), ∃ (rg : Region), ∃ (f : Nat), ∃ (fr : Frag), ∃ (ks : List Contrib), s.m.region? r = some rg ∧ rg.frags.find? (fun x => x.f == f) = some fr ∧ fr.st = 1 ∧ rg.round f fr.round = some ks ∧ let fo : Fold := (rg.folds.find? (fun x => x.f == f)).getD ⟨f, 0, [], false, [], [], .start⟩; fo.f = f ∧ fo.judged = true ∧ fo.run.w < rg.count f) ∧
    (∃ (s : State), ∃ (r : Nat), ∃ (rg : Region), ∃ (f : Nat), ∃ (fr : Frag), ∃ (ks : List Contrib), ∃ (m : Mach), s.m.region? r = some rg ∧ rg.frags.find? (fun x => x.f == f) = some fr ∧ fr.st = 1 ∧ rg.round f fr.round = some ks ∧ let fo : Fold := (rg.folds.find? (fun x => x.f == f)).getD ⟨f, 0, [], false, [], [], .start⟩; fo.judged = true ∧ rg.count f ≤ fo.run.w ∧ s.m.setFrag s.cfg rg { fr with st := 2, poison := false } = (true, m)) ∧
    (∃ (s : State), ∃ (r : Nat), ∃ (rg : Region), s.m.region? r = some rg ∧ rg.passing ≠ [] ∧ rg.passing[rg.passAt.idx]? = none ∧ rg.passAt.stage < 2) ∧
    (∃ (s : State), ∃ (r : Nat), ∃ (rg : Region), s.m.region? r = some rg ∧ rg.passing ≠ [] ∧ rg.passing[rg.passAt.idx]? = none ∧ rg.passAt.stage = 2) ∧
    (∃ (s : State), ∃ (r : Nat), ∃ (rg : Region), s.m.region? r = some rg ∧ rg.passing ≠ [] ∧ rg.passing[rg.passAt.idx]? = none ∧ 3 ≤ rg.passAt.stage) ∧
    (∃ (s : State), ∃ (r : Nat), ∃ (rg : Region), ∃ (f : Nat), ∃ (m : Mach), s.m.region? r = some rg ∧ rg.passing ≠ [] ∧ rg.passing[rg.passAt.idx]? = some f ∧ rg.passAt.stage = 0 ∧ rg.passAt.run.w = 0 ∧ s.m.setFrag s.cfg rg { rg.frag f with st := 3 } = (true, m)) ∧
    (∃ (s : State), ∃ (r : Nat), ∃ (rg : Region), ∃ (f : Nat), ∃ (w : Nat), ∃ (a : Nat), ∃ (n : Nat), ∃ (m : Mach), s.m.region? r = some rg ∧ rg.passing ≠ [] ∧ rg.passing[rg.passAt.idx]? = some f ∧ rg.passAt.stage = 0 ∧ rg.passAt.run.w = w + 1 ∧ (pieces (rg.base 0 + f * rg.F * rg.lsize) (rg.count f * rg.lsize))[w]? = some (a, n) ∧ flushRange s.cfg s.m rg (rg.dieOf f) a n = (true, m)) ∧
    (∃ (s : State), ∃ (r : Nat), ∃ (rg : Region), ∃ (f : Nat), s.m.region? r = some rg ∧ rg.passing ≠ [] ∧ rg.passing[rg.passAt.idx]? = some f ∧ rg.passAt.stage = 1 ∧ rg.passAt.run.w < rg.count f) ∧
    (∃ (s : State), ∃ (r : Nat), ∃ (rg : Region), ∃ (f : Nat), ∃ (m : Mach), s.m.region? r = some rg ∧ rg.passing ≠ [] ∧ rg.passing[rg.passAt.idx]? = some f ∧ rg.passAt.stage = 2 ∧ s.m.setFrag s.cfg rg { rg.frag f with merges := ((rg.frag f).merges + 1) % 2 ^ 32 } = (true, m)) ∧
    (∃ (s : State), ∃ (r : Nat), ∃ (rg : Region), ∃ (f : Nat), ∃ (m : Mach), s.m.region? r = some rg ∧ rg.passing ≠ [] ∧ rg.passing[rg.passAt.idx]? = some f ∧ 3 ≤ rg.passAt.stage ∧ s.m.setFrag s.cfg rg { rg.frag f with st := 0 } = (true, m)) ∧
    (∃ (s : State), ∃ (r : Nat), ∃ (rg : Region), ∃ (f : Nat), ∃ (i : Nat), ∃ (fr : Frag), s.m.region? r = some rg ∧ rg.frags.find? (fun x => x.f == f) = some fr ∧ fr.st = 1 ∧ rg.silto ≠ 0 ∧ rg.silto * 1024 < s.m.dieCyc (rg.dieOf f) - fr.sentAt ∧ i < (rg.member fr.round).count ∧ ((∀ k ∈ rg.contribs, ¬(k.island = i ∧ k.frag = f ∧ k.round = fr.round))) ∧ i ∉ rg.silentSeen) :=
  ⟨⟨(labPl ⟨blkOf 64 [(0, 8, 5), (8, 8, 0x73), (16, 8, 0), (24, 8, 0)], 7, false, false, 0, 0, 0, [], none⟩ [labRg]), 3, ⟨blkOf 64 [(0, 8, 5), (8, 8, 0x73), (16, 8, 0), (24, 8, 0)], 7, false, false, 0, 0, 0, [], none⟩, labRg, planeOp_of (by decide +kernel), by decide +kernel⟩,
    ⟨(labPl ⟨blkOf 64 [(0, 8, 5), (8, 8, 0x74), (16, 8, 0), (24, 8, 0)], 7, false, false, 0, 0, 0, [], none⟩ [labRg]), 3, ⟨blkOf 64 [(0, 8, 5), (8, 8, 0x74), (16, 8, 0), (24, 8, 0)], 7, false, false, 0, 0, 0, [], none⟩, labRg, planeOp_of (by decide +kernel), by decide +kernel⟩,
    ⟨(labPl ⟨blkOf 64 [(0, 8, 5), (8, 8, 0x75), (16, 8, 0xFFFFFFFFFFFFFFFF), (24, 8, 0)], 7, false, false, 0, 0, 0, [], none⟩ [labRg]), 3, ⟨blkOf 64 [(0, 8, 5), (8, 8, 0x75), (16, 8, 0xFFFFFFFFFFFFFFFF), (24, 8, 0)], 7, false, false, 0, 0, 0, [], none⟩, labRg, planeOp_of (by decide +kernel), by decide +kernel⟩,
    ⟨(labPl ⟨blkOf 64 [(0, 8, 5), (8, 8, 0x75), (16, 8, 0xFFFFFFFFFFFFFFFF), (24, 8, 0)], 7, false, false, 0, 0, 0, [], none⟩ [labRgNq]), 3, ⟨blkOf 64 [(0, 8, 5), (8, 8, 0x75), (16, 8, 0xFFFFFFFFFFFFFFFF), (24, 8, 0)], 7, false, false, 0, 0, 0, [], none⟩, labRgNq, planeOp_of (by decide +kernel), by decide +kernel⟩,
    ⟨(labPl ⟨blkOf 64 [(0, 8, 5), (8, 8, 0x71), (16, 8, 0), (24, 8, 0)], 7, false, false, 0, 0, 0, [], none⟩ [labRg2]), 3, ⟨blkOf 64 [(0, 8, 5), (8, 8, 0x71), (16, 8, 0), (24, 8, 0)], 7, false, false, 0, 0, 0, [], none⟩, labRg2, planeOp_of (by decide +kernel), by decide +kernel⟩,
    ⟨(labPl ⟨blkOf 64 [(0, 8, 5), (8, 8, 0x71), (16, 8, 0), (24, 8, 0)], 7, false, false, 0, 0, 0, [], none⟩ [labRg]), 3, ⟨blkOf 64 [(0, 8, 5), (8, 8, 0x71), (16, 8, 0), (24, 8, 0)], 7, false, false, 0, 0, 0, [], none⟩, labRg, planeOp_of (by decide +kernel), by decide +kernel⟩,
    ⟨labMem, 3, labMemE, labRgn, labMemR, labMemM, planeOp_of (by decide +kernel), by decide +kernel, by decide +kernel, labMem_read, by decide +kernel, labMem_ranges⟩,
    ⟨(labPl ⟨blkOf 64 [(0, 8, 5), (8, 8, 0x71), (16, 8, 0), (24, 8, 0)], 7, false, false, 0, 0, 0, [], none⟩ []), 3, ⟨blkOf 64 [(0, 8, 5), (8, 8, 0x71), (16, 8, 0), (24, 8, 0)], 7, false, false, 0, 0, 0, [], none⟩, planeOp_of (by decide +kernel), by decide +kernel⟩,
    ⟨(labPl ⟨blkOf 64 [(0, 8, 5), (8, 8, 0x72), (16, 8, 0), (24, 8, 0)], 7, false, false, 0, 0, 0, [], none⟩ []), 3, ⟨blkOf 64 [(0, 8, 5), (8, 8, 0x72), (16, 8, 0), (24, 8, 0)], 7, false, false, 0, 0, 0, [], none⟩, planeOp_of (by decide +kernel), by decide +kernel⟩,
    ⟨(labPl ⟨blkOf 64 [(0, 8, 5), (8, 8, 0x73), (16, 8, 0), (24, 8, 0)], 7, false, false, 0, 0, 0, [], none⟩ []), 3, ⟨blkOf 64 [(0, 8, 5), (8, 8, 0x73), (16, 8, 0), (24, 8, 0)], 7, false, false, 0, 0, 0, [], none⟩, planeOp_of (by decide +kernel), by decide +kernel⟩,
    ⟨(labPl ⟨blkOf 64 [(0, 8, 5), (8, 8, 0x74), (16, 8, 0), (24, 8, 0)], 7, false, false, 0, 0, 0, [], none⟩ []), 3, ⟨blkOf 64 [(0, 8, 5), (8, 8, 0x74), (16, 8, 0), (24, 8, 0)], 7, false, false, 0, 0, 0, [], none⟩, planeOp_of (by decide +kernel), by decide +kernel⟩,
    ⟨(labPl ⟨blkOf 64 [(0, 8, 5), (8, 8, 0x75), (16, 8, 0), (24, 8, 0)], 7, false, false, 0, 0, 0, [], none⟩ []), 3, ⟨blkOf 64 [(0, 8, 5), (8, 8, 0x75), (16, 8, 0), (24, 8, 0)], 7, false, false, 0, 0, 0, [], none⟩, planeOp_of (by decide +kernel), by decide +kernel⟩,
    ⟨labBind, 3, labBindE, labRgn, labBindA, labBindAM, planeOp_of (by decide +kernel), and3 (by decide +kernel) ⟨labBind_acc, by decide +kernel⟩⟩,
    ⟨(labPl ⟨blkOf 64 [(0, 8, 5), (8, 8, 0x370), (16, 8, 0), (24, 8, 0)], 7, false, false, 0, 0, 0, [], none⟩ []), 3, ⟨blkOf 64 [(0, 8, 5), (8, 8, 0x370), (16, 8, 0), (24, 8, 0)], 7, false, false, 0, 0, 0, [], none⟩, planeOp_of (by decide +kernel), Or.inr (by decide +kernel)⟩,
    ⟨labNew2, 3, labNewE, labNewRg, (reachOr labNone labNewX0.1), labNewX0.2, labNewX1.2, labNewX2.2, labNewX3.2, (excOr [] labNewX1.1), (excOr [] labNewX3.1), (excOr (0, 0, []) labNewX2.1), planeOp_of (by decide +kernel), and3 (by decide +kernel) ⟨reach_of (by decide +kernel), by decide +kernel, exc_of (by decide +kernel), by decide +kernel, exc_of (by decide +kernel), exc_of (by decide +kernel), rfl, by decide +kernel⟩⟩,
    ⟨(labRgsQ labBegun [{ labRgn with init := some ⟨2, true, 0, .start⟩ }]), 3, labBegun, { labRgn with init := some ⟨2, true, 0, .start⟩ }, ⟨2, true, 0, .start⟩, (dieWrite (labRgsQ labBegun [{ labRgn with init := some ⟨2, true, 0, .start⟩ }]).cfg (labRgsQ labBegun [{ labRgn with init := some ⟨2, true, 0, .start⟩ }]).m ({ labRgn with init := some ⟨2, true, 0, .start⟩ } : Region) 0 .batten (zeroAt ({ labRgn with init := some ⟨2, true, 0, .start⟩ } : Region) 0) (List.replicate 16 0)).2, and7 (by decide +kernel) (pair_of (by decide +kernel))⟩,
    ⟨(labRgsQ labBegun [{ labRgn with init := some ⟨2, true, 1000, .start⟩ }]), 3, labBegun, { labRgn with init := some ⟨2, true, 1000, .start⟩ }, ⟨2, true, 1000, .start⟩, by decide +kernel⟩,
    ⟨(labRgsQ labBegun [{ labRgn with init := some ⟨2, false, 1000, .start⟩ }]), 3, labBegun, { labRgn with init := some ⟨2, false, 1000, .start⟩ }, ⟨2, false, 1000, .start⟩, and7 (by decide +kernel) ⟨Or.inl rfl, by decide +kernel⟩⟩,
    ⟨(labRgs [labRgn]), 1, labRgn, 0, 0, ⟨0, 0, false, 0, false, 0, 0, 0, 0, 0⟩, by decide +kernel⟩,
    ⟨(labRgs [(labSp ⟨0, 0, 0, [], [], false, []⟩)]), 1, (labSp ⟨0, 0, 0, [], [], false, []⟩), 0, ⟨0, 0, false, 0, false, 0, 0, 0, 0, 0⟩, ⟨0, 0, 0, [], [], false, []⟩, by decide +kernel⟩,
    ⟨(labRgs [(labSp ⟨0, 0, 0, [0, 0, 0, 0], [], false, []⟩)]), 1, (labSp ⟨0, 0, 0, [0, 0, 0, 0], [], false, []⟩), 0, ⟨0, 0, false, 0, false, 0, 0, 0, 0, 0⟩, ⟨0, 0, 0, [0, 0, 0, 0], [], false, []⟩, by decide +kernel⟩,
    ⟨(labRgs [(labSp ⟨0, 0, 0, [0, 0, 0, 0], [], true, [(0x32040, List.replicate 16 0)]⟩)]), 1, (labSp ⟨0, 0, 0, [0, 0, 0, 0], [], true, [(0x32040, List.replicate 16 0)]⟩), 0, 0x32040, (List.replicate 16 0), [], ⟨0, 0, false, 0, false, 0, 0, 0, 0, 0⟩, ⟨0, 0, 0, [0, 0, 0, 0], [], true, [(0x32040, List.replicate 16 0)]⟩, (dieWrite (labRgs [labSp ⟨0, 0, 0, [0, 0, 0, 0], [], true, [(0x32040, List.replicate 16 0)]⟩]).cfg (labRgs [labSp ⟨0, 0, 0, [0, 0, 0, 0], [], true, [(0x32040, List.replicate 16 0)]⟩]).m (labSp ⟨0, 0, 0, [0, 0, 0, 0], [], true, [(0x32040, List.replicate 16 0)]⟩) 0 .spindle 0x32040 (List.replicate 16 0)).2, and6 (by decide +kernel) ⟨pair_of (by decide +kernel), by decide +kernel⟩⟩,
    ⟨(labRgs [(labSp ⟨0, 0, 0, [0, 0, 0, 0], [], true, []⟩)]), 1, (labSp ⟨0, 0, 0, [0, 0, 0, 0], [], true, []⟩), 0, ⟨0, 0, false, 0, false, 0, 0, 0, 0, 0⟩, { (⟨0, 0, false, 0, false, 0, 0, 0, 0, 0⟩ : Frag) with dmax := BitVec.ofNat 32 (quantise (labSp ⟨0, 0, 0, [0, 0, 0, 0], [], true, []⟩) 0 0 ((labSp ⟨0, 0, 0, [0, 0, 0, 0], [], true, []⟩).member 0).self [0, 0, 0, 0]).2.2, sentAt := 0 }, ⟨0, 0, 0, [0, 0, 0, 0], [], true, []⟩, ((labRgs [labSp ⟨0, 0, 0, [0, 0, 0, 0], [], true, []⟩]).m.setFrag (labRgs [labSp ⟨0, 0, 0, [0, 0, 0, 0], [], true, []⟩]).cfg (labSp ⟨0, 0, 0, [0, 0, 0, 0], [], true, []⟩) ({ (⟨0, 0, false, 0, false, 0, 0, 0, 0, 0⟩ : Frag) with dmax := BitVec.ofNat 32 (quantise (labSp ⟨0, 0, 0, [0, 0, 0, 0], [], true, []⟩) 0 0 ((labSp ⟨0, 0, 0, [0, 0, 0, 0], [], true, []⟩).member 0).self [0, 0, 0, 0]).2.2, sentAt := 0 })).2, and6 (by decide +kernel) rfl⟩,
    ⟨(labDrift [labRgn]), 9, 7, 0, 0, 1, 0, 1, labText, labDrH, labRgn, rfl, by decide +kernel, labDrift_open _, by decide +kernel⟩,
    ⟨(labDrift []), 9, 7, 0, 0, 1, 0, labText, labDrH, rfl, by decide +kernel, labDrift_open _, by decide +kernel⟩,
    ⟨(labWith (fun m => { m with hreqs := [labDrH0] })), 9, 7, 0, 0, 1, labDrH0, by decide +kernel⟩,
    ⟨(labRgs [(labFo [⟨0, 0, 0, ⟨0, 0, 0, 0, 2, 0, 4, [0], List.replicate 8 0⟩, none⟩, ⟨1, 0, 0, ⟨0, 0, 0, 1, 2, 0, 4, [0], List.replicate 8 0⟩, (some 1)⟩] [])]), 1, (labFo [⟨0, 0, 0, ⟨0, 0, 0, 0, 2, 0, 4, [0], List.replicate 8 0⟩, none⟩, ⟨1, 0, 0, ⟨0, 0, 0, 1, 2, 0, 4, [0], List.replicate 8 0⟩, (some 1)⟩] []), 0, ⟨0, 1, false, 0, true, 0, 0, 0, 0, 0⟩, [⟨0, 0, 0, ⟨0, 0, 0, 0, 2, 0, 4, [0], List.replicate 8 0⟩, none⟩, ⟨1, 0, 0, ⟨0, 0, 0, 1, 2, 0, 4, [0], List.replicate 8 0⟩, (some 1)⟩], ((foldReads (labFo [⟨0, 0, 0, ⟨0, 0, 0, 0, 2, 0, 4, [0], List.replicate 8 0⟩, none⟩, ⟨1, 0, 0, ⟨0, 0, 0, 1, 2, 0, 4, [0], List.replicate 8 0⟩, (some 1)⟩] []) [⟨0, 0, 0, ⟨0, 0, 0, 0, 2, 0, 4, [0], List.replicate 8 0⟩, none⟩, ⟨1, 0, 0, ⟨0, 0, 0, 1, 2, 0, 4, [0], List.replicate 8 0⟩, (some 1)⟩]).headD (0, 0)).1, ((foldReads (labFo [⟨0, 0, 0, ⟨0, 0, 0, 0, 2, 0, 4, [0], List.replicate 8 0⟩, none⟩, ⟨1, 0, 0, ⟨0, 0, 0, 1, 2, 0, 4, [0], List.replicate 8 0⟩, (some 1)⟩] []) [⟨0, 0, 0, ⟨0, 0, 0, 0, 2, 0, 4, [0], List.replicate 8 0⟩, none⟩, ⟨1, 0, 0, ⟨0, 0, 0, 1, 2, 0, 4, [0], List.replicate 8 0⟩, (some 1)⟩]).headD (0, 0)).2, ((batRead (labRgs [(labFo [⟨0, 0, 0, ⟨0, 0, 0, 0, 2, 0, 4, [0], List.replicate 8 0⟩, none⟩, ⟨1, 0, 0, ⟨0, 0, 0, 1, 2, 0, 4, [0], List.replicate 8 0⟩, (some 1)⟩] [])]).cfg (labRgs [(labFo [⟨0, 0, 0, ⟨0, 0, 0, 0, 2, 0, 4, [0], List.replicate 8 0⟩, none⟩, ⟨1, 0, 0, ⟨0, 0, 0, 1, 2, 0, 4, [0], List.replicate 8 0⟩, (some 1)⟩] [])]).m (labFo [⟨0, 0, 0, ⟨0, 0, 0, 0, 2, 0, 4, [0], List.replicate 8 0⟩, none⟩, ⟨1, 0, 0, ⟨0, 0, 0, 1, 2, 0, 4, [0], List.replicate 8 0⟩, (some 1)⟩] []) 0 .spindle ((foldReads (labFo [⟨0, 0, 0, ⟨0, 0, 0, 0, 2, 0, 4, [0], List.replicate 8 0⟩, none⟩, ⟨1, 0, 0, ⟨0, 0, 0, 1, 2, 0, 4, [0], List.replicate 8 0⟩, (some 1)⟩] []) [⟨0, 0, 0, ⟨0, 0, 0, 0, 2, 0, 4, [0], List.replicate 8 0⟩, none⟩, ⟨1, 0, 0, ⟨0, 0, 0, 1, 2, 0, 4, [0], List.replicate 8 0⟩, (some 1)⟩]).headD (0, 0)).1 ((foldReads (labFo [⟨0, 0, 0, ⟨0, 0, 0, 0, 2, 0, 4, [0], List.replicate 8 0⟩, none⟩, ⟨1, 0, 0, ⟨0, 0, 0, 1, 2, 0, 4, [0], List.replicate 8 0⟩, (some 1)⟩] []) [⟨0, 0, 0, ⟨0, 0, 0, 0, 2, 0, 4, [0], List.replicate 8 0⟩, none⟩, ⟨1, 0, 0, ⟨0, 0, 0, 1, 2, 0, 4, [0], List.replicate 8 0⟩, (some 1)⟩]).headD (0, 0)).2).1.getD []), (batRead (labRgs [(labFo [⟨0, 0, 0, ⟨0, 0, 0, 0, 2, 0, 4, [0], List.replicate 8 0⟩, none⟩, ⟨1, 0, 0, ⟨0, 0, 0, 1, 2, 0, 4, [0], List.replicate 8 0⟩, (some 1)⟩] [])]).cfg (labRgs [(labFo [⟨0, 0, 0, ⟨0, 0, 0, 0, 2, 0, 4, [0], List.replicate 8 0⟩, none⟩, ⟨1, 0, 0, ⟨0, 0, 0, 1, 2, 0, 4, [0], List.replicate 8 0⟩, (some 1)⟩] [])]).m (labFo [⟨0, 0, 0, ⟨0, 0, 0, 0, 2, 0, 4, [0], List.replicate 8 0⟩, none⟩, ⟨1, 0, 0, ⟨0, 0, 0, 1, 2, 0, 4, [0], List.replicate 8 0⟩, (some 1)⟩] []) 0 .spindle ((foldReads (labFo [⟨0, 0, 0, ⟨0, 0, 0, 0, 2, 0, 4, [0], List.replicate 8 0⟩, none⟩, ⟨1, 0, 0, ⟨0, 0, 0, 1, 2, 0, 4, [0], List.replicate 8 0⟩, (some 1)⟩] []) [⟨0, 0, 0, ⟨0, 0, 0, 0, 2, 0, 4, [0], List.replicate 8 0⟩, none⟩, ⟨1, 0, 0, ⟨0, 0, 0, 1, 2, 0, 4, [0], List.replicate 8 0⟩, (some 1)⟩]).headD (0, 0)).1 ((foldReads (labFo [⟨0, 0, 0, ⟨0, 0, 0, 0, 2, 0, 4, [0], List.replicate 8 0⟩, none⟩, ⟨1, 0, 0, ⟨0, 0, 0, 1, 2, 0, 4, [0], List.replicate 8 0⟩, (some 1)⟩] []) [⟨0, 0, 0, ⟨0, 0, 0, 0, 2, 0, 4, [0], List.replicate 8 0⟩, none⟩, ⟨1, 0, 0, ⟨0, 0, 0, 1, 2, 0, 4, [0], List.replicate 8 0⟩, (some 1)⟩]).headD (0, 0)).2).2, and7 (by decide +kernel) (optOr_of (by decide +kernel))⟩,
    ⟨(labRgs [(labFo [⟨0, 0, 0, ⟨0, 0, 0, 0, 2, 0, 4, [0], List.replicate 8 0⟩, none⟩, ⟨1, 0, 0, ⟨0, 0, 0, 1, 2, 0, 4, [0], List.replicate 8 0⟩, none⟩] [])]), 1, (labFo [⟨0, 0, 0, ⟨0, 0, 0, 0, 2, 0, 4, [0], List.replicate 8 0⟩, none⟩, ⟨1, 0, 0, ⟨0, 0, 0, 1, 2, 0, 4, [0], List.replicate 8 0⟩, none⟩] []), 0, ⟨0, 1, false, 0, true, 0, 0, 0, 0, 0⟩, [⟨0, 0, 0, ⟨0, 0, 0, 0, 2, 0, 4, [0], List.replicate 8 0⟩, none⟩, ⟨1, 0, 0, ⟨0, 0, 0, 1, 2, 0, 4, [0], List.replicate 8 0⟩, none⟩], labFoC.1, labFoC.2, and7 (by decide +kernel) labFo_judged⟩,
    ⟨(labRgs [(labFo [⟨0, 0, 0, ⟨0, 0, 0, 0, 2, 0, 4, [255], List.replicate 8 0⟩, none⟩, ⟨1, 0, 0, ⟨0, 0, 0, 1, 2, 0, 4, [0], List.replicate 8 0⟩, none⟩] [])]), 1, (labFo [⟨0, 0, 0, ⟨0, 0, 0, 0, 2, 0, 4, [255], List.replicate 8 0⟩, none⟩, ⟨1, 0, 0, ⟨0, 0, 0, 1, 2, 0, 4, [0], List.replicate 8 0⟩, none⟩] []), 0, ⟨0, 1, false, 0, true, 0, 0, 0, 0, 0⟩, [⟨0, 0, 0, ⟨0, 0, 0, 0, 2, 0, 4, [255], List.replicate 8 0⟩, none⟩, ⟨1, 0, 0, ⟨0, 0, 0, 1, 2, 0, 4, [0], List.replicate 8 0⟩, none⟩], ((labRgs [(labFo [⟨0, 0, 0, ⟨0, 0, 0, 0, 2, 0, 4, [255], List.replicate 8 0⟩, none⟩, ⟨1, 0, 0, ⟨0, 0, 0, 1, 2, 0, 4, [0], List.replicate 8 0⟩, none⟩] [])]).m.setFrag (labRgs [(labFo [⟨0, 0, 0, ⟨0, 0, 0, 0, 2, 0, 4, [255], List.replicate 8 0⟩, none⟩, ⟨1, 0, 0, ⟨0, 0, 0, 1, 2, 0, 4, [0], List.replicate 8 0⟩, none⟩] [])]).cfg (labFo [⟨0, 0, 0, ⟨0, 0, 0, 0, 2, 0, 4, [255], List.replicate 8 0⟩, none⟩, ⟨1, 0, 0, ⟨0, 0, 0, 1, 2, 0, 4, [0], List.replicate 8 0⟩, none⟩] []) { (⟨0, 1, false, 0, true, 0, 0, 0, 0, 0⟩ : Frag) with st := 0, poison := true }).2, and7 (by decide +kernel) (pair_of (by decide +kernel))⟩,
    ⟨lab, labRgn, 0, [], [⟨0, 0, 0, ⟨0, 0, 0, 0, 2, 0, 4, [255], List.replicate 8 0⟩, none⟩, ⟨1, 0, 0, ⟨0, 0, 0, 1, 2, 0, 4, [0], List.replicate 8 0⟩, none⟩], ⟨⟨0, 0, 0, ⟨0, 0, 0, 0, 2, 0, 4, [255], List.replicate 8 0⟩, none⟩, by decide +kernel, rfl, by decide +kernel⟩⟩,
    ⟨lab, labRgn, 0, [], [⟨0, 0, 0, ⟨0, 0, 0, 0, 2, 0, 4, [0], List.replicate 8 0⟩, none⟩, ⟨1, 0, 0, ⟨0, 0, 0, 1, 2, 0, 4, [0], List.replicate 8 0⟩, none⟩], by decide +kernel⟩,
    ⟨(labRgs [(labFo [⟨0, 0, 0, ⟨0, 0, 0, 0, 2, 0, 4, [0], List.replicate 8 0⟩, none⟩, ⟨1, 0, 0, ⟨0, 0, 0, 1, 2, 0, 4, [0], List.replicate 8 0⟩, none⟩] [⟨0, 0, [], true, [0x3F800000, 0x3F800000], [[0, 0, 0, 0], [0, 0, 0, 0]], ⟨0, [], []⟩⟩])]), 1, (labFo [⟨0, 0, 0, ⟨0, 0, 0, 0, 2, 0, 4, [0], List.replicate 8 0⟩, none⟩, ⟨1, 0, 0, ⟨0, 0, 0, 1, 2, 0, 4, [0], List.replicate 8 0⟩, none⟩] [⟨0, 0, [], true, [0x3F800000, 0x3F800000], [[0, 0, 0, 0], [0, 0, 0, 0]], ⟨0, [], []⟩⟩]), 0, ⟨0, 1, false, 0, true, 0, 0, 0, 0, 0⟩, [⟨0, 0, 0, ⟨0, 0, 0, 0, 2, 0, 4, [0], List.replicate 8 0⟩, none⟩, ⟨1, 0, 0, ⟨0, 0, 0, 1, 2, 0, 4, [0], List.replicate 8 0⟩, none⟩], by decide +kernel⟩,
    ⟨(labRgs [(labFo [⟨0, 0, 0, ⟨0, 0, 0, 0, 2, 0, 4, [0], List.replicate 8 0⟩, none⟩, ⟨1, 0, 0, ⟨0, 0, 0, 1, 2, 0, 4, [0], List.replicate 8 0⟩, none⟩] [⟨0, 0, [], true, [0x3F800000, 0x3F800000], [[0, 0, 0, 0], [0, 0, 0, 0]], ⟨4, [], []⟩⟩])]), 1, (labFo [⟨0, 0, 0, ⟨0, 0, 0, 0, 2, 0, 4, [0], List.replicate 8 0⟩, none⟩, ⟨1, 0, 0, ⟨0, 0, 0, 1, 2, 0, 4, [0], List.replicate 8 0⟩, none⟩] [⟨0, 0, [], true, [0x3F800000, 0x3F800000], [[0, 0, 0, 0], [0, 0, 0, 0]], ⟨4, [], []⟩⟩]), 0, ⟨0, 1, false, 0, true, 0, 0, 0, 0, 0⟩, [⟨0, 0, 0, ⟨0, 0, 0, 0, 2, 0, 4, [0], List.replicate 8 0⟩, none⟩, ⟨1, 0, 0, ⟨0, 0, 0, 1, 2, 0, 4, [0], List.replicate 8 0⟩, none⟩], ((labRgs [(labFo [⟨0, 0, 0, ⟨0, 0, 0, 0, 2, 0, 4, [0], List.replicate 8 0⟩, none⟩, ⟨1, 0, 0, ⟨0, 0, 0, 1, 2, 0, 4, [0], List.replicate 8 0⟩, none⟩] [⟨0, 0, [], true, [0x3F800000, 0x3F800000], [[0, 0, 0, 0], [0, 0, 0, 0]], ⟨4, [], []⟩⟩])]).m.setFrag (labRgs [(labFo [⟨0, 0, 0, ⟨0, 0, 0, 0, 2, 0, 4, [0], List.replicate 8 0⟩, none⟩, ⟨1, 0, 0, ⟨0, 0, 0, 1, 2, 0, 4, [0], List.replicate 8 0⟩, none⟩] [⟨0, 0, [], true, [0x3F800000, 0x3F800000], [[0, 0, 0, 0], [0, 0, 0, 0]], ⟨4, [], []⟩⟩])]).cfg (labFo [⟨0, 0, 0, ⟨0, 0, 0, 0, 2, 0, 4, [0], List.replicate 8 0⟩, none⟩, ⟨1, 0, 0, ⟨0, 0, 0, 1, 2, 0, 4, [0], List.replicate 8 0⟩, none⟩] [⟨0, 0, [], true, [0x3F800000, 0x3F800000], [[0, 0, 0, 0], [0, 0, 0, 0]], ⟨4, [], []⟩⟩]) { (⟨0, 1, false, 0, true, 0, 0, 0, 0, 0⟩ : Frag) with st := 2, poison := false }).2, and6 (by decide +kernel) (pair_of (by decide +kernel))⟩,
    ⟨(labRgs [(labPs ⟨1, 1, .start⟩)]), 1, (labPs ⟨1, 1, .start⟩), by decide +kernel⟩,
    ⟨(labRgs [(labPs ⟨2, 1, .start⟩)]), 1, (labPs ⟨2, 1, .start⟩), by decide +kernel⟩,
    ⟨(labRgs [(labPs ⟨3, 1, .start⟩)]), 1, (labPs ⟨3, 1, .start⟩), by decide +kernel⟩,
    ⟨(labRgs [(labPs ⟨0, 0, .start⟩)]), 1, (labPs ⟨0, 0, .start⟩), 0, ((labRgs [(labPs ⟨0, 0, .start⟩)]).m.setFrag (labRgs [(labPs ⟨0, 0, .start⟩)]).cfg (labPs ⟨0, 0, .start⟩) { (labPs ⟨0, 0, .start⟩).frag 0 with st := 3 }).2, and5 (by decide +kernel) (pair_of (by decide +kernel))⟩,
    ⟨(labRgs [(labPs ⟨0, 0, ⟨1, [], []⟩⟩)]), 1, (labPs ⟨0, 0, ⟨1, [], []⟩⟩), 0, 0, 0x20000, 16, (flushRange (labRgs [(labPs ⟨0, 0, ⟨1, [], []⟩⟩)]).cfg (labRgs [(labPs ⟨0, 0, ⟨1, [], []⟩⟩)]).m (labPs ⟨0, 0, ⟨1, [], []⟩⟩) 0 0x20000 16).2, and6 (by decide +kernel) (pair_of (by decide +kernel))⟩,
    ⟨(labRgs [(labPs ⟨1, 0, .start⟩)]), 1, (labPs ⟨1, 0, .start⟩), 0, by decide +kernel⟩,
    ⟨(labRgs [(labPs ⟨2, 0, .start⟩)]), 1, (labPs ⟨2, 0, .start⟩), 0, ((labRgs [(labPs ⟨2, 0, .start⟩)]).m.setFrag (labRgs [(labPs ⟨2, 0, .start⟩)]).cfg (labPs ⟨2, 0, .start⟩) { (labPs ⟨2, 0, .start⟩).frag 0 with merges := (((labPs ⟨2, 0, .start⟩).frag 0).merges + 1) % 2 ^ 32 }).2, and4 (by decide +kernel) (pair_of (by decide +kernel))⟩,
    ⟨(labRgs [(labPs ⟨3, 0, .start⟩)]), 1, (labPs ⟨3, 0, .start⟩), 0, ((labRgs [(labPs ⟨3, 0, .start⟩)]).m.setFrag (labRgs [(labPs ⟨3, 0, .start⟩)]).cfg (labPs ⟨3, 0, .start⟩) { (labPs ⟨3, 0, .start⟩).frag 0 with st := 0 }).2, and4 (by decide +kernel) (pair_of (by decide +kernel))⟩,
    ⟨labSil, 1, labRgq, 0, 1, ⟨0, 1, false, 0, true, 0, 0, 0, 0, 0⟩, by decide +kernel⟩⟩

/-- The premises of FabricSteps. -/
theorem test_premises_FabricSteps :
    (∃ (s : State), ∃ (r : FabReq), ∃ (n : Nat), ∃ (off : Nat), ∃ (va : Nat), ∃ (k : FabAcc), ∃ (a : Acc), ∃ (o : Option Nat), ∃ (m : Mach), r.target = s.cfg.device.toNat ∧ r.phase = .whole ∧ r.accs = [(n, off, k)] ∧ winAccess s.cfg s.m r.part off (accSize k) (accCls k) = (.here a va o, m) ∧ m.bankBusy (s.cfg.part? r.part) a = false ∧ ((accCls k = .write ∨ poisonedAcc m (s.cfg.part? r.part) a va (accSize k) = false))) ∧
    (∃ (s : State), ∃ (r : FabReq), ∃ (n : Nat), ∃ (off : Nat), ∃ (va : Nat), ∃ (k : FabAcc), ∃ (a : Acc), ∃ (o : Option Nat), ∃ (m : Mach), r.target = s.cfg.device.toNat ∧ r.phase = .check ∧ r.accs = [(n, off, k)] ∧ winAccess s.cfg s.m r.part off (accSize k) (accCls k) = (.here a va o, m) ∧ ((accCls k = .write ∨ poisonedAcc m (s.cfg.part? r.part) a va (accSize k) = false))) ∧
    (∃ (s : State), ∃ (r : FabReq), ∃ (n : Nat), ∃ (va : Nat), ∃ (k : FabAcc), ∃ (a : Acc), ∃ (v : Vow), r.target = s.cfg.device.toNat ∧ r.phase = .commit ∧ s.m.vows.find? (fun v => v.src == r.src && v.xid == r.xid) = some v ∧ v.due r = [(n, k, a, va)] ∧ s.m.inSaved a.sp = false ∧ s.m.bankBusy (s.cfg.part? r.part) a = false ∧ ((accCls k = .write ∨ poisonedAcc s.m (s.cfg.part? r.part) a va (accSize k) = false))) ∧
    (∃ (s : State), ∃ (r : FabReq), r.target = s.cfg.device.toNat ∧ r.phase = .drop) ∧
    (∃ (s : State), ∃ (r : FabReq), ∃ (n : Nat), ∃ (off : Nat), ∃ (c : Nat), ∃ (sub : Nat), ∃ (k : FabAcc), ∃ (m : Mach), r.target = s.cfg.device.toNat ∧ ((r.phase = .whole ∨ r.phase = .check)) ∧ r.accs = [(n, off, k)] ∧ winAccess s.cfg s.m r.part off (accSize k) (accCls k) = (.refused c sub, m)) ∧
    (∃ (s : State), ∃ (r : FabReq), r.target = s.cfg.device.toNat ∧ ((r.phase = .whole ∨ r.phase = .check)) ∧ ((∃ a ∈ (fabPlaces s.cfg s.m r).1, ∃ k, a.2.2 = .saved k))) ∧
    (∃ (s : State), ∃ (r : FabReq), r.target = s.cfg.device.toNat ∧ ((r.phase = .whole ∨ r.phase = .check)) ∧ ((∀ a ∈ (fabPlaces s.cfg s.m r).1, (∀ k, a.2.2 ≠ .saved k) ∧ a.2.2 ≠ .busy)) ∧ ((∃ a ∈ (fabPlaces s.cfg s.m r).1, (refusalOf (fabPlaces s.cfg s.m r).2 (s.cfg.part? r.part) a.2.1 a.2.2).isSome = true))) ∧
    (∃ (s : State), ∃ (a : FabAns), ∃ (M : Mach), ∃ (p : FabPend), ∃ (c : Ctx), ∃ (n : Nat), ∃ (sz : Size), ∃ (sc : Scope), ∃ (d : Nat), ∃ (b : Nat), ∃ (off : Int), (a.res.foldl (fun m r => m.takeAnswer a.xid r.1 r.2) s.m).endDrains = M ∧ M.fabPend.find? (fun p => p.xid == a.xid && !p.store && p.answered) = some p ∧ p.op = none ∧ p.atom = none ∧ p.phase = .whole ∧ p.stale = false ∧ p.refusals = [] ∧ M.refreshWait (s.cfg.part? ((M.teamPart p.ref.t).getD 0)) (p.asks.map Prod.snd) = none ∧ ctxOf M p.ref = some c ∧ c.f.wait = some ⟨.ld sz sc d b off, .fabric p.xid, n⟩ ∧ readsPoison { M with fabPend := M.fabPend.filter (fun x => x.xid != p.xid) } (s.cfg.part? c.la.p) p.asks = false ∧ let x := readLanes s.cfg { ({ M with fabPend := M.fabPend.filter (fun x => x.xid != p.xid) } : Mach).before c.leaf c.la.p sc true false p.asks with away := p.units c.la.p } (loadWay c.leaf sc) c.la.p p.asks; M.heldReg c (c.phys ((loadWrites sz d x.1).map Prod.fst)) = false) ∧
    (∃ (s : State), ∃ (a : FabAns), ∃ (p : FabPend), ∃ (num : Nat), ∃ (i : Nat), ∃ (res : FabRes), ∃ (va : DWord), ∃ (k : Nat), ∃ (sub : Nat), ∃ (rest : List (Nat × DWord × Nat × Nat)), ∃ (g : Group), a.res = [(num, res)] ∧ s.m.fabPend = [p] ∧ p.xid = a.xid ∧ p.store = true ∧ p.op = none ∧ ((∀ e ∈ s.m.bufs, e.w.xid ≠ a.xid)) ∧ ((∀ x ∈ p.answers, x.1 ≠ num)) ∧ num < p.asks.length ∧ p.answers.length + 1 = p.asks.length ∧ ({ p with answers := p.answers ++ [(num, res)] } : FabPend).refusals = (i, va, k, sub) :: rest ∧ s.m.group? p.ref.t p.ref.g = some g ∧ ((∀ f ∈ s.m.fibres, ∀ i ws again n, f.wait ≠ some ⟨i, .drain ws again, n⟩))) ∧
    (∃ (_s : State), ∃ (r : XferReq), r.get = true) ∧
    (∃ (s : State), ∃ (r : XferReq), ∃ (a : Acc), ∃ (va : Nat), ∃ (k : Option Nat), ∃ (m : Mach), r.get = false ∧ r.drift = none ∧ winAccess s.cfg s.m r.part r.off 1 .write = (.here a va k, m)) ∧
    (∃ (s : State), ∃ (p : Packet), ∃ (ws : List (Acc × List Byte)), ∃ (ws2 : List (Acc × List Byte)), ∃ (ctr : Option Acc), ∃ (ctr2 : Option Acc), ∃ (m : Mach), ∃ (M : Mach), ∃ (m2 : Mach), p.token = none ∧ p.get = false ∧ landing s.cfg s.m p = (.ok ws ctr, m) ∧ M = { m.prefixGot p ((ws.head?).bind (fun w => w.1.team)) with late := (m.prefixGot p ((ws.head?).bind (fun w => w.1.team))).late ++ [p] } ∧ M.landable p.src p.xid false = [p] ∧ (landing s.cfg M p).1 ≠ .busy ∧ landing s.cfg (({ M with late := M.late.erase p } : Mach).passInbound p) p = (.ok ws2 ctr2, m2)) ∧
    (∃ (s : State), ∃ (p : Packet), ∃ (ws : List (Acc × List Byte)), ∃ (ctr : Option Acc), ∃ (m : Mach), ∃ (M : Mach), p.token = none ∧ p.get = false ∧ landing s.cfg s.m p = (.ok ws ctr, m) ∧ M = { m.prefixGot p ((ws.head?).bind (fun w => w.1.team)) with late := (m.prefixGot p ((ws.head?).bind (fun w => w.1.team))).late ++ [p] } ∧ M.landable p.src p.xid false = []) ∧
    (∃ (s : State), ∃ (p : Packet), ∃ (n : Nat), p.token = some n ∧ ((∀ k ∈ s.m.tokens, k.id ≠ n)) ∧ p.get = false) ∧
    (∃ (s : State), ∃ (die : Nat), ∃ (part : Nat), ∃ (h : HReq), (s.m.tokens.filter (fun k => k.die == die && k.part == part)).length < poolSize s.cfg die part ∧ s.m.hreqs.filter (fun h => h.die == die && h.r.part == part && s.m.eligible h) = [h]) ∧
    (∃ (s : State), ∃ (n : Nat), ∃ (k : Token), ∃ (h : HReq), s.m.tokens.find? (fun k => k.id == n) = some k ∧ k.at_ + 65536 ≤ s.m.cyc ∧ s.m.hreqs.find? (fun h => h.order == k.req) = some h ∧ h.expiries < 3) ∧
    (∃ (s : State), ∃ (a : XferAck), ∃ (o : Op), ∃ (oc : OpCtx), ∃ (b : List Byte), ∃ (x : Xfer), s.m.xferOp a.xid = some o ∧ opCtx s.m o = some oc ∧ o.cmd = .xput b ∧ o.xfer = some x ∧ a.packet = true ∧ a.status = .ok ∧ x.bad = none ∧ (descOf b).len ≤ x.acked + a.bytes ∧ ((∀ d ∈ s.m.driftSent, d.xid ≠ a.xid))) ∧
    (∃ (s : State), ∃ (i : Invocation), (s.cfg.part? i.part).isSome = true ∧ i.parent = none) ∧
    (∃ (s : State), ∃ (i : Invocation), s.cfg.part? i.part = none ∧ i.handle.home ≠ s.cfg.device.toNat) ∧
    (∃ (s : State), ∃ (part : Nat), ∃ (k : Nat), ∃ (q : InvQ), ∃ (pt : Part), s.m.invq.find? (fun q => q.inv.part == part && q.entry.isNone && (q.inv.parent.isNone || q.parentEntry.isSome)) = some q ∧ s.cfg.part? part = some pt ∧ tableOk pt = true ∧ k < 16384 ∧ s.m.hent? part k = none ∧ q.inv.handle.home ≠ s.cfg.device.toNat) ∧
    (∃ (s : State), ∃ (part : Nat), ∃ (n : Nat), ∃ (k : Nat), ∃ (j : Nat), ∃ (q : InvQ), ∃ (p : Handle), ∃ (e : HEnt), ∃ (res : List Byte), (s.m.invq.filter (fun q => q.inv.part == part))[n]? = some q ∧ q.inv.parent = some p ∧ q.parentEntry = some k ∧ s.m.hent? part k = some e ∧ e.handle = p ∧ e.st = .done res ∧ q.entry = some j ∧ q.queued = false ∧ earlierKin (s.m.invq.filter (fun q => q.inv.part == part)) q = false) :=
  ⟨⟨(labWin lab), ⟨9, 0, 7, 0, [(0, 0x100, .atom .add true 0 1)], .whole, false⟩, 0, 0x100, 0, (.atom .add true 0 1), ⟨.scr 1, 0x100, none, 0, false, none⟩, (some 1), (winAccess (labWin lab).cfg (labWin lab).m 0 0x100 (accSize (.atom .add true 0 1)) (accCls (.atom .add true 0 1))).2, and3 (by decide +kernel) ⟨pair_of (by decide +kernel), by decide +kernel⟩⟩,
    ⟨(labWin lab), ⟨9, 0, 7, 0, [(0, 0x100, .atom .add true 0 1)], .check, false⟩, 0, 0x100, 0, (.atom .add true 0 1), ⟨.scr 1, 0x100, none, 0, false, none⟩, (some 1), (winAccess (labWin lab).cfg (labWin lab).m 0 0x100 (accSize (.atom .add true 0 1)) (accCls (.atom .add true 0 1))).2, and3 (by decide +kernel) ⟨pair_of (by decide +kernel), by decide +kernel⟩⟩,
    ⟨(labWith (fun m => { m with vows := [⟨9, 7, 0, [(0, .atom .add true 0 1, ⟨.scr 1, 0x100, none, 0, false, none⟩, 0)]⟩] })), ⟨9, 0, 7, 0, [(0, 0x100, .atom .add true 0 1)], .commit, false⟩, 0, 0, (.atom .add true 0 1), ⟨.scr 1, 0x100, none, 0, false, none⟩, ⟨9, 7, 0, [(0, .atom .add true 0 1, ⟨.scr 1, 0x100, none, 0, false, none⟩, 0)]⟩, by decide +kernel⟩,
    ⟨(labWith (fun m => { m with vows := [⟨9, 7, 0, [(0, .atom .add true 0 1, ⟨.scr 1, 0x100, none, 0, false, none⟩, 0)]⟩] })), ⟨9, 0, 7, 0, [], .drop, false⟩, by decide +kernel⟩,
    ⟨lab, ⟨9, 0, 7, 3, [(0, 0x100, .read 16)], .check, false⟩, 0, 0x100, 4, 4, (.read 16), (winAccess lab.cfg lab.m 3 0x100 (accSize (.read 16)) (accCls (.read 16))).2, and3 (by decide +kernel) (pair_of (by decide +kernel))⟩,
    ⟨(labWin (labPre .saved)), ⟨9, 0, 7, 0, [(0, 0x100, .read 16)], .whole, false⟩, by decide +kernel, by decide +kernel, ⟨(0, .read 16, .saved 1), by decide +kernel, 1, rfl⟩⟩,
    ⟨lab, labRefR, by decide +kernel, by decide +kernel, labRef_calm, by decide +kernel⟩,
    ⟨(labFab (.ld .q .rmt 116 6 0) (labAsked false [])), ⟨7, [(0, .ok (List.replicate 16 1))]⟩, labFabM, (labAsked false [(0, .ok (List.replicate 16 1))]), labFabC, 0, .q, .rmt, 116, 6, 0, rfl, by decide +kernel⟩,
    ⟨(labFab .nop (labAsked true [])), ⟨7, [(0, .refused 4 4)]⟩, (labAsked true []), 0, 0, (.refused 4 4), 0xC00A000000001000, 4, 4, [], labC.g, and8 (by decide +kernel) (and3 (by decide +kernel) labFab_drain)⟩,
    ⟨lab, ⟨9, 7, 0, 0x100, 4096, 0, 4096, 1, true, none⟩, by decide +kernel⟩,
    ⟨(labWin lab), ⟨9, 7, 0, 0x100, 4096, 0, 4096, 1, false, none⟩, ⟨.scr 1, 0x100, none, 0, false, none⟩, 0, (some 1), (winAccess (labWin lab).cfg (labWin lab).m 0 0x100 1 .write).2, by decide +kernel, by decide +kernel, pair_of (by decide +kernel)⟩,
    ⟨(labWin lab), (labPkt 0), labPktW, labPktW, none, none, (labPktR 0).2, (labPktM 0), labPktR2.2, by decide +kernel, by decide +kernel, pair_of (by decide +kernel), rfl, by decide +kernel, by decide +kernel, pair_of (by decide +kernel)⟩,
    ⟨(labWin lab), (labPkt 16), labPktW16, none, (labPktR 16).2, (labPktM 16), by decide +kernel, by decide +kernel, pair_of (by decide +kernel), rfl, by decide +kernel⟩,
    ⟨lab, ⟨9, 7, 0, 0x100, 0, 32, [1], none, some 5, 0, true, false, none⟩, 5, by decide +kernel⟩,
    ⟨(labWith (fun m => { m with hreqs := [⟨0, ⟨9, 7, 0, 0x100, 4096, 0, 4096, 1, false, none⟩, 0, [], 5, 0, none, none, false, [], none⟩] })), 0, 0, ⟨0, ⟨9, 7, 0, 0x100, 4096, 0, 4096, 1, false, none⟩, 0, [], 5, 0, none, none, false, [], none⟩, by decide +kernel⟩,
    ⟨(labWith (fun m => { m with hreqs := [⟨0, ⟨9, 7, 0, 0x100, 4096, 0, 4096, 1, false, none⟩, 4096, [], 5, 2, none, none, false, [], none⟩], tokens := [⟨6, 0, 0, 5, 0, 4096, [], false, 0, none⟩], cyc := 65536 })), 6, ⟨6, 0, 0, 5, 0, 4096, [], false, 0, none⟩, ⟨0, ⟨9, 7, 0, 0x100, 4096, 0, 4096, 1, false, none⟩, 4096, [], 5, 2, none, none, false, [], none⟩, by decide +kernel⟩,
    ⟨(labOps [{ labOp .exch (.xput (blkOf 32 [(0x10, 4, 4096)])) with n := 1, xfer := some ⟨7, 4096, 0, 0, none, []⟩ }]), ⟨7, true, 0, 4096, .ok, 0⟩, { labOp .exch (.xput (blkOf 32 [(0x10, 4, 4096)])) with n := 1, xfer := some ⟨7, 4096, 0, 0, none, []⟩ }, (ocOf (labOps [{ labOp .exch (.xput (blkOf 32 [(0x10, 4, 4096)])) with n := 1, xfer := some ⟨7, 4096, 0, 0, none, []⟩ }]) .exch), (blkOf 32 [(0x10, 4, 4096)]), ⟨7, 4096, 0, 0, none, []⟩, by decide +kernel⟩,
    ⟨lab, ⟨⟨7, 3, 5⟩, 0, 9, 1, 0xE8FF, [], none, []⟩, by decide +kernel⟩,
    ⟨lab, ⟨⟨7, 3, 5⟩, 5, 9, 1, 0xE8FF, [], none, []⟩, by decide +kernel⟩,
    ⟨(labWith (fun m => { m with invq := [⟨⟨⟨7, 3, 5⟩, 0, 9, 1, 0xE8FF, [], none, []⟩, none, false, false, 0, none⟩] })), 0, 16383, ⟨⟨⟨7, 3, 5⟩, 0, 9, 1, 0xE8FF, [], none, []⟩, none, false, false, 0, none⟩, probePart, by decide +kernel⟩,
    ⟨(labWith (fun m => { m with invq := [⟨⟨⟨7, 3, 5⟩, 0, 9, 1, 0xE8FF, [], some ⟨7, 9, 9⟩, []⟩, some 4, false, false, 0, some 3⟩], hents := [⟨0, 3, 5, .done [1], 1, 1, true, false, ⟨7, 9, 9⟩, none, none⟩] })), 0, 0, 3, 4, ⟨⟨⟨7, 3, 5⟩, 0, 9, 1, 0xE8FF, [], some ⟨7, 9, 9⟩, []⟩, some 4, false, false, 0, some 3⟩, ⟨7, 9, 9⟩, ⟨0, 3, 5, .done [1], 1, 1, true, false, ⟨7, 9, 9⟩, none, none⟩, [1], by decide +kernel⟩⟩

end Sys2Proof.Tests
end

