-- ==== Sys2Proof/Tests/Slice0.lean ====
section
/-!
SUPPORT. Terms the well-formedness check refuses, words the spec prints with the instruction each stands for, words it calls illegal, and the
worked values of its arithmetic. The words and values are the spec's own.
-/
set_option Elab.async false
namespace Sys2Proof.Tests
open Sys2Proof Sys2Proof.Machine

/-- Whether every word decodes to its instruction. -/
def allDecode (ps : List (Nat × Instr)) : Bool := ps.all (fun p => decide (decodeTableWord 32 p.1 = some p.2))

/-! ### Words -/

/-- Words of R237–R244. -/
theorem test_decode_integer : allDecode
    [(0x00004103, .iadd .wrap (.v 1) (.v 2) (.v 3)),
      (0x01804103, .isub .usat (.v 1) (.v 2) (.v 3)),
      (0x02404103, .imul .ssat (.v 1) (.v 2) (.v 3)),
      (0x03404103, .imulh .u (.v 1) (.v 2) (.v 3)),
      (0x04004103, .imad .wrap (.v 1) (.v 2) (.v 3)),
      (0x05004103, .imin .s (.v 1) (.v 2) (.v 3)),
      (0x06004103, .imax .s (.v 1) (.v 2) (.v 3)),
      (0x07404103, .isad .u (.v 1) (.v 2) (.v 3)),
      (0x1F008206, .iadd64 (.v 2) 4 6),
      (0x08004103, .and (.v 1) (.v 2) (.v 3)),
      (0x09004103, .or (.v 1) (.v 2) (.v 3)),
      (0x0A004103, .xor (.v 1) (.v 2) (.v 3)),
      (0x0B004103, .andn (.v 1) (.v 2) (.v 3)),
      (0x0C004103, .shl (.v 1) (.v 2) (.v 3)),
      (0x0D004103, .shr (.v 1) (.v 2) (.v 3)),
      (0x0E004103, .sar (.v 1) (.v 2) (.v 3)),
      (0x0F004103, .rol (.v 1) (.v 2) (.v 3)),
      (0x10004100, .popc (.v 1) (.v 2)),
      (0x11004100, .clz (.v 1) (.v 2)),
      (0x12004100, .brev (.v 1) (.v 2)),
      (0x14004103, .bfi (.v 1) (.v 2) (.v 3)),
      (0x13004103, .bfx .s (.v 1) (.v 2) (.v 3)),
      (0x15804103, .icmp .lt (.v 1) (.v 2) (.v 3)),
      (0x16404103, .icmpu .le (.v 1) (.v 2) (.v 3)),
      (0x17804103, .sel 2 (.v 1) (.v 2) (.v 3)),
      (0x1E004100, .mov .mov (.v 1) (.v 2)),
      (0x1E404100, .mov .fromc (.v 1) (.v 2)),
      (0x1E804100, .mov .toc (.v 1) (.v 2)),
      (0x180105FD, .iaddi (.v 1) (.v 2) (-3)),
      (0x190104FF, .andi (.v 1) (.v 2) 255),
      (0x1A010410, .ori (.v 1) (.v 2) 16),
      (0x1B0105FF, .xori (.v 1) (.v 2) (-1)),
      (0x1C01051F, .shifti .sar (.v 1) (.v 2) 31)] = true := by decide +kernel

/-- Words of R247–R257. -/
theorem test_decode_float : allDecode
    [(0x20004103, .fadd .f32 (.v 1) (.v 2) (.v 3)),
      (0x21404103, .fsub .f16x2 (.v 1) (.v 2) (.v 3)),
      (0x22004103, .fmul .f32 (.v 1) (.v 2) (.v 3)),
      (0x23004103, .ffma .f32 (.v 1) (.v 2) (.v 3)),
      (0x24804103, .ffms .bf16x2 (.v 1) (.v 2) (.v 3)),
      (0x25004103, .fnma .f32 (.v 1) (.v 2) (.v 3)),
      (0x26804103, .fmin .bf16x2 (.v 1) (.v 2) (.v 3)),
      (0x27404103, .fmax .f16x2 (.v 1) (.v 2) (.v 3)),
      (0x3B804103, .dot2 .bf16x2 (.v 1) (.v 2) (.v 3)),
      (0x28C04103, .fcmp .un (.v 1) (.v 2) (.v 3)),
      (0x29004100, .fsign .abs (.v 1) (.v 2) (.v 0)),
      (0x29404100, .fsign .neg (.v 1) (.v 2) (.v 0)),
      (0x29804103, .fsign .copysign (.v 1) (.v 2) (.v 3)),
      (0x29C04100, .fsign .nabs (.v 1) (.v 2) (.v 0)),
      (0x2A004102, .cvt .rne (.v 1) (.v 2) 0x02),
      (0x2B404114, .cvts .rz (.v 1) (.v 2) 0x14),
      (0x2C804100, .frnd .rd (.v 1) (.v 2)),
      (0x2D004100, .rcp (.v 1) (.v 2)),
      (0x2E004100, .rsq (.v 1) (.v 2)),
      (0x2F004100, .sqrt (.v 1) (.v 2)),
      (0x30004100, .ex2 (.v 1) (.v 2)),
      (0x31004100, .lg2 (.v 1) (.v 2)),
      (0x32004100, .sin (.v 1) (.v 2)),
      (0x33004100, .cos (.v 1) (.v 2)),
      (0x34004100, .tanh (.v 1) (.v 2)),
      (0x35004103, .fscale (.v 1) (.v 2) (.v 3)),
      (0x36404100, .fxtr .mant (.v 1) (.v 2)),
      (0x37004103, .pack .f16 (.v 1) (.v 2) (.v 3)),
      (0x37404103, .pack .bf16 (.v 1) (.v 2) (.v 3)),
      (0x37804103, .pack .b16 (.v 1) (.v 2) (.v 3)),
      (0x38004101, .unpk .f16 (.v 1) (.v 2) 1),
      (0x38404101, .unpk .bf16 (.v 1) (.v 2) 1),
      (0x38804100, .unpk .s16 (.v 1) (.v 2) 0),
      (0x38C04100, .unpk .u16 (.v 1) (.v 2) 0),
      (0x39004105, .cbq (.v 1) (.v 2) 5),
      (0x3A004105, .cbx (.v 1) (.v 2) 5)] = true := by decide +kernel

/-- Words of R260–R269. -/
theorem test_decode_sections : allDecode
    [(0x40004103, .shfl .idx (.v 1) (.v 2) (.v 3)),
      (0x40404103, .shfl .up (.v 1) (.v 2) (.v 3)),
      (0x40804103, .shfl .down (.v 1) (.v 2) (.v 3)),
      (0x40C04103, .shfl .xor (.v 1) (.v 2) (.v 3)),
      (0x42004100, .vote .any (.v 1) 2),
      (0x42404100, .vote .all (.v 1) 2),
      (0x42804100, .vote .ballot (.v 1) 2),
      (0x42C04100, .vote .eq (.v 1) 2),
      (0x43004100, .sredi .add (.v 1) (.v 2)),
      (0x43404100, .sredi .min (.v 1) (.v 2)),
      (0x43804100, .sredi .max (.v 1) (.v 2)),
      (0x43C04100, .sredi .umax (.v 1) (.v 2)),
      (0x44004100, .sredf .add (.v 1) (.v 2)),
      (0x44404100, .sredf .min (.v 1) (.v 2)),
      (0x44804100, .sredf .max (.v 1) (.v 2)),
      (0x45004100, .sscan .i32 false (.v 1) (.v 2)),
      (0x45404101, .sscan .f32 true (.v 1) (.v 2)),
      (0x46004103, .prmt (.v 1) (.v 2) (.v 3)),
      (0x47004100, .matchS .any (.v 1) (.v 2)),
      (0x47404100, .matchS .all (.v 1) (.v 2)),
      (0x48004100, .firstl (.v 1) 2),
      (0x50420100, .tment .clamp (.v 8) (.v 2)),
      (0x51020100, .tmacc .normal (.v 8) (.v 2)),
      (0x5202040C, .tmmrg (.v 8) 8 12),
      (0x53030400, .tmsred (.v 12) 8),
      (0x54004600, .tmexit (.v 1) 12)] = true := by decide +kernel

/-- Words of R272–R277. -/
theorem test_decode_memory : allDecode
    [(0x580040C0, .ld .w .plain 4 6 0),
      (0x586040C1, .ld .d .dev 4 6 1),
      (0x599880DF, .st .q .clu (.v 8) 6 (-1)),
      (0x5AC040C3, .lds .b .plain 4 (.v 6) 3),
      (0x5B1040C1, .sts .w .core (.v 4) (.v 6) 1),
      (0x5C8080C0, .ldfe .q .plain 8 (.v 6) 0),
      (0x5D1840C0, .ldfet .w .clu 4 (.v 6) 0),
      (0x5E1840C0, .stfe .w .clu (.v 4) (.v 6) 0),
      (0x630000C0, .pref false 6 0),
      (0x5F040818, .atom .add .dev false 4 6),
      (0x5F551019, .atom .cas .sys true 8 6),
      (0x606A0818, .atoms .faddF32 .core false 4 (.v 6))] = true := by decide +kernel

/-- Words of R285–R291, R218. -/
theorem test_decode_lane_control : allDecode
    [(0x70200003, .br 1 false 3),
      (0x71000807, .brx 4 7),
      (0x72020807, .callx 2 4 7),
      (0x73000100, .retx 2),
      (0x7400C000, .join 3),
      (0x75000007, .lpad 7),
      (0x75000107, .lpad 0x107),
      (0x76008206, .fork 2 4 (.v 6)),
      (0x77000000, .fend),
      (0x78C0C000, .jmset .fib 3 (.v 0))] = true := by decide +kernel

/-- Words of R279. -/
theorem test_decode_scalar : allDecode
    [(0x80004103, .uadd .wrap (.v 1) (.v 2) (.v 3)),
      (0x81804103, .usub .usat (.v 1) (.v 2) (.v 3)),
      (0x82404103, .umul .ssat (.v 1) (.v 2) (.v 3)),
      (0x83404103, .umulh .u (.v 1) (.v 2) (.v 3)),
      (0x84004103, .umad .wrap (.v 1) (.v 2) (.v 3)),
      (0x85004103, .umin .s (.v 1) (.v 2) (.v 3)),
      (0x86404103, .umax .u (.v 1) (.v 2) (.v 3)),
      (0x87004103, .uand (.v 1) (.v 2) (.v 3)),
      (0x88004103, .uor (.v 1) (.v 2) (.v 3)),
      (0x89004103, .uxor (.v 1) (.v 2) (.v 3)),
      (0x8A004103, .ushl (.v 1) (.v 2) (.v 3)),
      (0x8B004103, .ushr (.v 1) (.v 2) (.v 3)),
      (0x8C004103, .usar (.v 1) (.v 2) (.v 3)),
      (0x8D004100, .upopc (.v 1) (.v 2)),
      (0x8E004100, .uclz (.v 1) (.v 2)),
      (0x8F804103, .ucmp .lt (.v 1) (.v 2) (.v 3)),
      (0x90404103, .ucmpu .le (.v 1) (.v 2) (.v 3)),
      (0x91804103, .usel 2 (.v 1) (.v 2) (.v 3)),
      (0x920105FD, .uaddi (.v 1) (.v 2) (-3)),
      (0x930104FF, .uandi (.v 1) (.v 2) 255),
      (0x94010410, .uori (.v 1) (.v 2) 16),
      (0x9501051F, .ushifti .sar (.v 1) (.v 2) 31),
      (0x96004100, .umov .mov (.v 1) (.v 2)),
      (0x97008206, .uadd64 (.v 2) 4 6)] = true := by decide +kernel

/-- Words of R280, R223. -/
theorem test_decode_control : allDecode
    [(0xA0200005, .ubr 1 false false 5),
      (0xA0380005, .ubr 1 true true 5),
      (0xA1000003, .ujmp 3),
      (0xA1FFFFF9, .ujmp (-7)),
      (0xA2000010, .ucall 16),
      (0xA3000100, .uret 2),
      (0xA40601FF, .udbnz (.v 6) (-1)),
      (0xA5410000, .trl false [4]),
      (0xA5200000, .trl true []),
      (0xA5000000, .trl false []),
      (0xA6000000, .nop),
      (0xA7000000, .yield),
      (0xA8000000, .halt),
      (0xA9000005, .trap 5),
      (0xAA000000, .eret)] = true := by decide +kernel

/-- Words of R292–R296. -/
theorem test_decode_synchronisation : allDecode
    [(0xB0000801, .barinit 1 (.v 4)),
      (0xB1050001, .bararr (.v 5) 1),
      (0xB1800001, .bararr .nw 1),
      (0xB2000A01, .barwait 1 (.v 5)),
      (0xB3050001, .bararw (.v 5) 1),
      (0xB4080D1C, .cwait .core (.v 32) 26 28),
      (0xB4C80E22, .cwait .sys (.v 32) 28 34),
      (0xB5810308, .cwaitt .dev (.v 4) 6 8),
      (0xB6C10308, .cinc .dev (.v 4) 6 (.v 8)),
      (0xB6E00E1E, .cinc .dev .nw 28 (.v 30)),
      (0xB7000021, .fence .dev 1),
      (0xB7000028, .fence .sys 0),
      (0xB7000010, .fence .core 0),
      (0xB8000001, .fwait 1),
      (0xB9000000, .clubar false),
      (0xB9000001, .clubar true)] = true := by decide +kernel

/-- Words of R297–R303. -/
theorem test_decode_system : allDecode
    [(0xC004000F, .srd (.v 4) 0xF),
      (0xC0040012, .srd (.v 4) 0x12),
      (0xC0040082, .srd (.v 4) 0x82),
      (0xC100080B, .swr 0xB (.v 4)),
      (0xC10042A0, .swr 0xA0 (.v 33)),
      (0xC2000300, .cbld 6),
      (0xC3000010, .tmshp 16),
      (0xC4000303, .tmtab 6 3),
      (0xC5000308, .ipf 6 (.v 8)),
      (0xC6010308, .ipin (.v 4) 6 (.v 8)),
      (0xC7000308, .iunpin 6 (.v 8)),
      (0xC8010308, .cwb .wb .dev 6 (.v 8)),
      (0xC9020002, .tstat 8 .exch)] = true := by decide +kernel

/-- Words of R308–R346. -/
theorem test_decode_engines : allDecode
    [(0xD0010821, .mma true (.v 4) 16 2),
      (0xD1000005, .accz 5),
      (0xD2210060, .drain true ⟨false, false, false⟩ (.v 4) 6),
      (0xD3010009, .tcopy false ⟨true, false, false, true⟩ (.v 4)),
      (0xD3210000, .tcopy true ⟨false, false, false, false⟩ (.v 4)),
      (0xD3010004, .tcopy false ⟨false, false, true, false⟩ (.v 4)),
      (0xD3410000, .tcopyColl (.v 4)),
      (0xD4010000, .dcjob false (.v 4)),
      (0xD4010001, .dcjob true (.v 4)),
      (0xD5010280, .rrot false (.v 4) (.v 5)),
      (0xD5210280, .rrot true (.v 4) (.v 5)),
      (0xD6010000, .xsort (.v 4)),
      (0xD7000002, .prolog 2)] = true := by decide +kernel

/-- Words of R335–R354. -/
theorem test_decode_fabric : allDecode
    [(0xE0020600, .xput 8 12),
      (0xE1020600, .xget 8 12),
      (0xE2010600, .xarm (.v 4) 12),
      (0xE3000280, .xdisarm (.v 5)),
      (0xE4010300, .rinv (.v 4) (.v 6)),
      (0xE4200300, .rinv .nw (.v 6)),
      (0xE5010308, .rinvh (.v 4) (.v 6) 8),
      (0xE601040A, .hwait false (.v 4) 8 10),
      (0xE641040A, .hwait true (.v 4) 8 10),
      (0xE7010400, .hstat (.v 4) 8),
      (0xE8000400, .hfree 8),
      (0xE9010381, .iwait (.v 4) (.v 7) (.v 1)),
      (0xEA000307, .idone false (.v 6) (.v 7)),
      (0xEA400380, .idone true (.v 7) (.v 0))] = true := by decide +kernel

/-- Words of R356–R358. -/
theorem test_decode_planes : allDecode
    [(0xF0000002, .wopen 2),
      (0xF1000002, .wclose 2),
      (0xF2040002, .pmerge (.v 4) 2),
      (0xF2800002, .pmerge .nw 2),
      (0xF3800A02, .pstat .nw (.v 5) 2),
      (0xF3080A02, .pstat (.v 8) (.v 5) 2),
      (0xF4040A02, .ptrick (.v 4) (.v 5) 2),
      (0xF5040002, .dchk (.v 4) 2)] = true := by decide +kernel

/-- LIMM and ULIMM take the next word as their literal (R218): the literal is the table word's upper half. -/
theorem test_decode_literals : decodeTableWord 64 0x000001007F030000 = some (.limm (.v 3) 0x100) ∧
    decodeTableWord 64 0x3F8000007F000000 = some (.limm (.v 0) 0x3F800000) ∧ decodeTableWord 64 0xFFFFFFFEFF850000 = none ∧
    decodeTableWord 64 0xFFFFFFFEFF800000 = some (.ulimm .nw 0xFFFFFFFE) := by decide +kernel

/-- The words of the spec's worked program with a latch source and with n = 1: FADD v1, L0, L0 and FMUL with both sources L1. -/
theorem test_decode_latches : decodeTableWord 32 0x20007C78 = some (.fadd .f32 (.v 1) (.lat 0) (.lat 0)) ∧
    decodeTableWord 32 0x22203CF9 = some (.fmul .f32 .nw (.lat 1) (.lat 1)) := by decide +kernel

/-- Illegal words: a reserved m, a latch destination, n = 1 with D, a field not used, an odd pair, a quad that is none, a reserved size or
scope, an immediate out of its range, a special register that is not to be read, and one that is not to be written (R212–R214, R222). -/
theorem test_decode_refuses : [0x00C04103, 0x001E0103, 0x00204103, 0x10004101, 0x1F004206, 0x52028404, 0x583840C0, 0xA9000105, 0x1EC04100,
    0xC0040013, 0xC1000800, 0xD1000000, 0xB7000001, 0xB5810309].all (fun w => decide (decodeTableWord 32 w = none)) = true := by decide +kernel

/-- A reserved opcode is no illegal word: it is the row of R234, whose meaning traps. -/
theorem test_decode_reserved : decodeTableWord 32 0x1D000000 = some (.reservedOpcode 0x1D000000) ∧
    decodeTableWord 32 0xFE123456 = some (.reservedOpcode 0xFE123456) := by decide +kernel

/-- A word that is cut off, or whose literal is, decodes to nothing. -/
theorem test_decode_truncated : (decode [0, 0, 3, 0x7F, 0, 1]).isOk = false ∧ (decode [0, 0, 0]).isOk = false := by decide +kernel

/-! ### Terms that are no instruction -/

/-- Refused: register codes from 120 up, as a destination, a source and an operand register. -/
theorem test_illformed_1 : ([
      .iadd .wrap (.v 120) (.v 0) (.v 0),
      .iadd .wrap (.v 0) (.v 120) (.v 0),
      .iadd .wrap .nw (.v 0) (.v 120),
      .imulh .s .nw (.v 120) (.v 0),
      .and (.v 120) (.v 0) (.v 0),
      .popc .nw (.v 120),
      .mma false (.v 0) 120 0,
      .pmerge (.v 120) 0,
      .ptrick (.v 120) (.v 0) 0] : List Instr).all (fun i => !i.wf) = true := by decide +kernel

/-- Refused: latches from 8 up. -/
theorem test_illformed_2 : ([
      .iadd .wrap .nw (.lat 8) (.v 0),
      .uadd .wrap .nw (.v 0) (.lat 8),
      .atoms .add .plain false 0 (.lat 8),
      .sts .b .plain (.lat 8) (.v 0) 0] : List Instr).all (fun i => !i.wf) = true := by decide +kernel

/-- Refused: condition registers from 8 up, or from 4 up in SEL. -/
theorem test_illformed_3 : ([
      .icmp .eq (.v 8) (.v 0) (.v 0),
      .fcmp .eq (.v 8) (.v 0) (.v 0),
      .vote .any (.v 8) 0,
      .vote .ballot (.v 0) 8,
      .mov .fromc (.v 0) (.v 8),
      .mov .fromc (.v 0) (.lat 0),
      .mov .toc (.v 8) (.v 0),
      .sel 4 .nw (.v 0) (.v 0),
      .br 8 false 0,
      .fork 8 0 (.v 0),
      .firstl .nw 8,
      .ubr 8 false false 0] : List Instr).all (fun i => !i.wf) = true := by decide +kernel

/-- Refused: codes that name no pair or quad. -/
theorem test_illformed_4 : ([
      .iadd64 (.v 3) 4 6,
      .iadd64 (.v 2) 5 6,
      .uadd64 .nw 4 7,
      .retx 1,
      .uret 119,
      .callx 3 4 0,
      .hstat (.v 4) 9,
      .tmmrg (.v 8) 8 10,
      .tmsred (.v 118) 8,
      .tmexit .nw 9,
      .tstat 2 .copy,
      .xput 8 13,
      .xarm (.v 0) 2,
      .cwait .core (.v 1) 2 4,
      .cwaitt .core .nw 2 6] : List Instr).all (fun i => !i.wf) = true := by decide +kernel

/-- Refused: registers that do not fit the access. -/
theorem test_illformed_5 : ([
      .ld .d .plain 3 0 0,
      .ld .q .plain 2 0 0,
      .ld .w .plain 120 0 0,
      .ld .w .plain 0 1 0,
      .st .d .plain (.v 1) 0 0,
      .st .q .plain (.lat 0) 0 0,
      .lds .q .plain 6 (.v 0) 0,
      .ldfet .d .plain 1 (.v 0) 0,
      .stfe .d .plain (.lat 1) (.v 0) 0,
      .atom .cas .plain false 1 0,
      .atom .cas .plain true 2 0,
      .atom .add .plain true 1 0,
      .atom .faddF32 .plain true 2 0,
      .atoms .add .plain true 2 (.lat 0),
      .pref false 1 0] : List Instr).all (fun i => !i.wf) = true := by decide +kernel

/-- Refused: immediates out of their field. -/
theorem test_illformed_6 : ([
      .iaddi .nw (.v 0) 256,
      .iaddi .nw (.v 0) (-257),
      .ld .w .plain 0 0 16,
      .pref false 0 (-17),
      .shifti .shl .nw (.v 0) 32,
      .br 0 false 262144,
      .ujmp 8388608,
      .udbnz .nw 256,
      .brx 0 512,
      .lpad 512,
      .trap 256,
      .tmshp 256,
      .join 16,
      .jmset .ld 16 (.v 0),
      .barinit 16 (.v 0),
      .bararr .nw 16,
      .fwait 4,
      .fence .dev 4,
      .cbq .nw (.v 0) 8,
      .unpk .f16 .nw (.v 0) 2,
      .mma false (.v 0) 0 8,
      .accz 0,
      .accz 16,
      .prolog 4,
      .wopen 8,
      .dchk (.v 4) 8,
      .tmtab 0 0,
      .tmtab 0 8] : List Instr).all (fun i => !i.wf) = true := by decide +kernel

/-- Refused: fields a form does not use, and selectors that are reserved. -/
theorem test_illformed_7 : ([
      .fsign .abs .nw (.v 0) (.v 1),
      .jmset .fib 0 (.v 1),
      .idone true (.v 0) (.v 1),
      .fence .plain 0,
      .fence .rmt 0,
      .cwb .wb .plain 0 (.v 0),
      .cvt .rne .nw (.v 0) 0,
      .cvt .rne .nw (.v 0) 0x17,
      .cvts .rne .nw (.v 0) 0x50,
      .srd .nw 0x13,
      .srd (.v 1) 0x12,
      .srd (.v 120) 0,
      .swr 0 (.v 0),
      .swr 0x98 (.v 120),
      .trl true [1],
      .trl false [1, 2, 3, 4],
      .trl false [120],
      .reservedOpcode 0x1E000000] : List Instr).all (fun i => !i.wf) = true := by decide +kernel

/-- Refused: operands of steps that name nothing the device has. -/
theorem test_illformed_8 : ([
      .portSchedule 768 0 0,
      .groupActivate 0 4,
      .pageWalk 768 0,
      .tokenGrant 4 0,
      .tokenGrant 0 16,
      .refreshStart 4,
      .flitSend 36 [],
      .pcieLinkChange 2 true,
      .keySlotLoad 128 0 [],
      .keySlotLoad 0 16 [],
      .queueFetch 1024,
      .launch 1024,
      .completionPost 1024] : List Instr).all (fun i => !i.wf) = true := by decide +kernel

/-! ### Worked values -/

/-- The integer rows of the worked cases of the lane arithmetic. -/
theorem test_worked_integer : opAdd .wrap 0x7FFFFFF0 0x20 = 0x80000010 ∧ opAdd .ssat 0x7FFFFFF0 0x20 = 0x7FFFFFFF ∧
    opAdd .usat 0x7FFFFFF0 0x20 = 0x80000010 ∧ opSub .usat 5 7 = 0 ∧ opMulh .s 0xFFFFFFFF 2 = 0xFFFFFFFF ∧ opMulh .u 0xFFFFFFFF 2 = 1 ∧
    opBfx .s 0xA0000000 0x0C1C = 0xFFFFFFFA ∧ opBfx .u 0xA0000000 0x0C1C = 0xA := by decide +kernel

/-- Its floating rows: FMUL, FADD, FFMA, FADD.f16x2 (OVF and INX), FMIN with a NaN and with zeros. -/
theorem test_worked_float : elMul fp32 0x3F800800 0x3F800800 = (0x3F801000, fInx) ∧ elAdd fp32 false 0x3F801000 0xBF800000 = (0x3A000000, 0) ∧
    elFma fp32 false false 0x3F800800 0x3F800800 0xBF800000 = (0x3A000400, 0) ∧
    elements .f16x2 (fun f a b _ => elAdd f false a b) 0x3C007BFF 0x3C004C00 0 = (0x40007C00, fOvf ||| fInx) ∧
    elMinMax fp32 false 0x7FC00000 0x40400000 = (0x40400000, 0) ∧ elMinMax fp32 false 0x80000000 0 = (0x80000000, 0) := by decide +kernel

/-- Its conversions: 200.5 to INT8 under CVT and under CVTS, both invalid. -/
theorem test_worked_convert : opCvt [] [] false .rz 0x14 0x43488000 = (0xFFFFFF80, fInv) ∧
    opCvt [] [] true .rz 0x14 0x43488000 = (0x7F, fInv) := by decide +kernel

/-- Its codebook: 0.5 takes entry 0, 3.0 entry 2, and 100.0 entry 4, the lowest of equals. -/
theorem test_worked_codebook : let cb : List (BitVec 16) := [0, 0x3F80, 0x4000, 0x4080] ++ List.replicate 12 0x4100
    (opCbq cb 0 0x3F000000 0).1 = 0 ∧ (opCbq cb 0 0x40400000 0).1 = 2 ∧ (opCbq cb 0 0x42C80000 0).1 = 4 := by decide +kernel

/-- PRMT of R264, and SHFL's source lanes in a section of 8 (R260). -/
theorem test_worked_cross : opPrmt 0x44332211 0x88776655 0xF740 = 0xFF885511 ∧ shflLane .idx 8 13 10 = 10 ∧ shflLane .xor 8 13 10 = 15 ∧
    shflLane .up 8 13 6 = 13 ∧ shflLane .down 8 13 2 = 15 := by decide +kernel

/-- The worked scan: prefixes and sum of 2^24, 1, 1 and −2^24 in lane order, each sum rounded. -/
theorem test_worked_scan : (sumFloat [0x4B800000]).1 = 0x4B800000 ∧ sumFloat [0x4B800000, 0x3F800000] = (0x4B800000, fInx) ∧
    (sumFloat [0x4B800000, 0x3F800000, 0x3F800000]).1 = 0x4B800001 ∧ (sumFloat [0x4B800000, 0x3F800000, 0x3F800000, 0xCB800000]).1 = 0x40000000 := by decide +kernel

/-- The worked harmonic mean: entries of 1, 2, 4 and 4, their merge, and the mean 2. -/
theorem test_worked_harmonic : entry .normal 0 none 0x3F800000 = some ⟨0, 0x3F800000, 1⟩ ∧ entry .normal 0 none 0x40800000 = some ⟨0xFFFFFFFE, 0x3F800000, 1⟩ ∧
    (mergeAll 0 [⟨0, 0x3F800000, 1⟩, ⟨0xFFFFFFFF, 0x3F800000, 1⟩, ⟨0xFFFFFFFE, 0x3F800000, 1⟩, ⟨0xFFFFFFFE, 0x3F800000, 1⟩]).1 = ⟨0, 0x40000000, 4⟩ ∧
    (exitMean 0 none ⟨0, 0x40000000, 4⟩).1 = 0x40000000 := by decide +kernel

/-- The worked mean of code 32, and the geometric mean of 0.25 and 16. -/
theorem test_worked_means : (mergeAll 32 [⟨0, 0x3F800000, 1⟩, ⟨1, 0x3F800000, 1⟩, ⟨2, 0x3F800000, 1⟩, ⟨0, 0x3F800000, 1⟩]).1 = ⟨2, 0x40000000, 4⟩ ∧
    (exitMean 32 none ⟨2, 0x40000000, 4⟩).1 = 0x40000000 ∧ entry .normal 16 none 0x3E800000 = some ⟨0xFFFFFFFF, 0xFF800000, 1⟩ ∧
    (merge 16 ⟨0xFFFFFFFF, 0xFF800000, 1⟩ ⟨0, 0x01000000, 1⟩).1 = ⟨0, 0x00800000, 2⟩ ∧ (exitMean 16 none ⟨0, 0x00800000, 2⟩).1 = 0x40000000 := by decide +kernel

/-- The worked MXFP4 block: products 1, 1 and −0.25 added to 16,777,216 with one rounding. -/
theorem test_worked_block : accBlock 0x4B800000 [.fin ⟨false, 1, 0⟩, .fin ⟨false, 1, 0⟩, .fin ⟨true, 1, -2⟩] = 0x4B800001 ∧
    accBlock 0 [.fin ⟨false, 1, 0⟩, .fin ⟨false, 1, 0⟩, .fin ⟨true, 1, -2⟩] = 0x3FE00000 := by decide +kernel

/-! ### An access to another device (R73, R106) -/

/-- `lab` after a plain store of registers 2 and 3 to another device: its bytes stand in buffers. -/
def labStored : State := nextOf (exec (.st .d .plain (.v 2) 6 (-16)) lab)

/-- A plain load of those bytes takes them from the buffers and asks nobody. -/
theorem test_load_forwards :
    let t := nextOf (exec (.ld .d .plain 118 6 (-16)) labStored)
    lab.m.v (cOf lab) 2 0 = 0x10400 ∧ t.m.outst.map (fun o => o.regs.take 2) = [[(118, 0, 0x10400), (119, 0, 0)]] ∧ t.m.net = [] := by decide +kernel

end Sys2Proof.Tests
end

section
/-!
PROOFS. O1: what a step takes up. One equation for each way a step can go (R7, R29, R211, R216, R360, R368), and what stands in the agenda that the
machine gives itself (R72, R156).
-/
namespace Sys2Proof.Machine

section StepCases

/-! ### What a step takes up -/

variable {s : State} {a : Agenda} {rest : List Agenda} {k : Nat} {c : Ctx} {m : Mach}

theorem step_of_agenda (ha : s.m.agenda = a :: rest) : step s = agendaStep { s with m := { s.m with agenda := rest } } a := by
  simp only [step, stepOf, ha]

theorem step_of_round_over (ha : s.m.agenda = []) (hr : s.m.round = 0) (he : s.m.dev.erased = false) :
    step s = .next { s with m := { s.m with agenda := s.m.selfAgenda s.cfg, round := roundLen } } := by
  simp [step, stepOf, ha, hr, he]

theorem step_of_round (ha : s.m.agenda = []) (hr : s.m.round = k + 1) (he : s.m.dev.erased = false) :
    step s = portStep { s with m := { s.m with round := k } } := by
  simp [step, stepOf, ha, hr, he]

theorem step_of_halted (ha : s.m.agenda = []) (he : s.m.dev.erased = true) : step s = .fault .halted := by
  cases hr : s.m.round <;> simp [step, stepOf, ha, hr, he]

/-! ### An item of the agenda -/

theorem agendaStep_event {i : Instr} (he : s.m.dev.erased = false) (hb : s.m.dev.bootstg ≠ 0xFF) (hi : encode i = []) :
    agendaStep s (.ev i) = exec i s := by
  simp [agendaStep, isEvent, he, hb, hi]

theorem agendaStep_boot_failed (hb : s.m.dev.bootstg = 0xFF) (hf : survivesFailure a = false) : agendaStep s a = .next s := by
  simp [agendaStep, hb, hf]

theorem agendaStep_hostRead (off : Nat) : agendaStep s (.hostRead off) = .next { s with m := hostRead s.m off } := by
  simp [agendaStep, survivesErase, survivesFailure, agendaItem]

theorem agendaStep_coldReset (f : Nat) (al : Bool) (dv : BitVec 13) (lk : BitVec 2) (o p : List Nat) (b fi fu : List Byte) :
    agendaStep s (.ev (.coldReset f al dv lk o p b fi fu)) = exec (.coldReset f al dv lk o p b fi fu) s := by
  simp [agendaStep, survivesErase, survivesFailure, isEvent, encode]

/-! ### The port in focus -/

theorem portStep_of_issuer (hc : s.m.issuer = some c) : portStep s = fibreStep s c := by
  simp only [portStep, hc]

theorem portStep_of_focus {core quad : Nat} (hc : s.m.issuer = none) (hf : s.m.focus = some (core, quad)) :
    portStep s = .next { s with m := (portSchedule s.cfg s.m core quad 0).pickedLast core quad } := by
  simp only [portStep, hc, hf]

theorem Mach.issuer_of_no_focus (hf : m.focus = none) : m.issuer = none := by
  simp [Mach.issuer, Mach.current, hf]

theorem portStep_of_no_focus (hf : s.m.focus = none) : portStep s = .next { s with m := s.m.tick 1 } := by
  simp only [portStep, Mach.issuer_of_no_focus hf, hf]

/-- The number of steps left in a round plays no part in which fibre issues. -/
theorem Mach.issuer_setRound (m : Mach) (k : Nat) : ({ m with round := k } : Mach).issuer = m.issuer := rfl

theorem step_of_issuer (ha : s.m.agenda = []) (hr : s.m.round = k + 1) (he : s.m.dev.erased = false) (hc : s.m.issuer = some c) :
    step s = fibreStep { s with m := { s.m with round := k } } c := by
  rw [step_of_round ha hr he]
  exact portStep_of_issuer ((Mach.issuer_setRound s.m k).trans hc)

/-! ### What the fetch gives the fibre whose run goes on -/

/-- The fetch of the fibre's next instruction (R29). -/
def Ctx.fetch (c : Ctx) (s : State) : Fetched × Fetched × Mach := fetchInstr s.cfg s.m c.tm.core c.la.p c.la.x c.f.pc.toNat

theorem fibreStep_decoded {w lit : Nat} {i : Instr} (hf : c.fetch s = (.word w, .word lit, m)) (hd : decodeWord w lit = .ok i) :
    fibreStep s c = exec i { s with m := m } := by
  rw [Ctx.fetch] at hf
  simp only [fibreStep, fetchDecode, hf, hd]

theorem fibreStep_undecoded {w lit : Nat} (hf : c.fetch s = (.word w, .word lit, m)) (hd : ∀ i, decodeWord w lit ≠ .ok i) :
    fibreStep s c = .next { s with m := illegalWord s.cfg m c } := by
  rw [Ctx.fetch] at hf
  cases he : decodeWord w lit with
  | ok i => exact absurd he (hd i)
  | error e => simp only [fibreStep, fetchDecode, hf, he]

theorem fibreStep_fault {n sub : Nat} {r : Fetched} (hf : c.fetch s = (.fault n sub, r, m)) :
    fibreStep s c = .next { s with m := noWord s.cfg m c (.fault n sub) } := by
  rw [Ctx.fetch] at hf
  simp only [fibreStep, fetchDecode, hf]

theorem fibreStep_wait {r : Fetched} (hf : c.fetch s = (.wait, r, m)) : fibreStep s c = .next { s with m := noWord s.cfg m c .wait } := by
  rw [Ctx.fetch] at hf
  simp only [fibreStep, fetchDecode, hf]

/-- R216: a literal's failed fetch comes after every fault of the word itself, so the word's own `exec` stands where its `gate` does not pass. -/
theorem fibreStep_literal_fault {w n sub : Nat} {i : Instr} (hf : c.fetch s = (.word w, .fault n sub, m)) (hd : decodeWord w 0 = .ok i) :
    fibreStep s c = if gate m c i = .pass then .next { s with m := noWord s.cfg m c (.fault n sub) } else exec i { s with m := m } := by
  rw [Ctx.fetch] at hf
  simp only [fibreStep, fetchDecode, hf, hd]

theorem illegalWord_cause (cf : Conf) :
    illegalWord cf m c = (m.tick 1).takeTrap cf c ⟨if c.f.lpad = none then 1 else 9, 0, 0, c.f.pred, false, true⟩ := by
  cases hl : c.f.lpad <;> simp [illegalWord, hl]

end StepCases

section SelfAgenda

/-! ### The agenda the machine gives itself -/

variable (m : Mach) (cf : Conf)

theorem Mach.ev_mem_selfAgenda {i : Instr} (h : i ∈ m.chores cf) : .ev i ∈ m.selfAgenda cf :=
  List.mem_append_left _ (List.mem_map_of_mem h)

theorem Mach.propagate_mem_chores {e : BufEnt} (h : e ∈ m.bufs) : .propagate e.w.wid ∈ m.chores cf := by
  have : Instr.propagate e.w.wid ∈ m.bufs.map (fun e => .propagate e.w.wid) := List.mem_map_of_mem h
  simp only [Mach.chores, List.mem_append, this, true_or]

theorem Mach.refresh_mem_chores {x : Copy} (h : x ∈ m.copies) : .refresh x.pt x.sp x.unit x.tag [] true ∈ m.chores cf := by
  have : Instr.refresh x.pt x.sp x.unit x.tag [] true ∈ m.copies.map (fun c => .refresh c.pt c.sp c.unit c.tag [] true) :=
    List.mem_map.mpr ⟨x, h, rfl⟩
  simp only [Mach.chores, List.mem_append, this, true_or, or_true]

theorem Mach.longLatencyComplete_mem_chores {o : Outst} (h : o ∈ m.outst) : .longLatencyComplete o.id ∈ m.chores cf := by
  have : Instr.longLatencyComplete o.id ∈ m.outst.map (fun o => .longLatencyComplete o.id) := List.mem_map_of_mem h
  simp only [Mach.chores, List.mem_append, this, true_or, or_true]

theorem Mach.groupActivate_mem_chores {p : Nat × Nat} (h : p ∈ m.livePorts) : .groupActivate p.1 p.2 ∈ m.chores cf :=
  List.mem_append_right _ (List.mem_map.mpr ⟨p, h, rfl⟩)

theorem Mach.seat_mem_livePorts {g : Group} (h : g ∈ m.groups) (hg : g.ended = false) : m.seat g.t g.g ∈ m.livePorts := by
  have : g ∈ m.groups.filter (fun g => !g.ended) := by simp [h, hg]
  exact List.mem_eraseDups.mpr (List.mem_map.mpr ⟨g, this, rfl⟩)

/-- The next port in focus is one of those with a group: what stands behind the port in focus is a part of them, and after the last comes the first. -/
theorem Mach.mem_livePorts_of_nextFocus {p : Nat × Nat} (h : m.nextFocus = some p) : p ∈ m.livePorts := by
  cases hf : m.focus with
  | none =>
    simp only [Mach.nextFocus, hf] at h
    exact List.mem_of_head? h
  | some f =>
    simp only [Mach.nextFocus, hf] at h
    cases List.mem_append.mp (List.mem_of_head? h) with
    | inl hlater => exact (List.dropWhile_sublist _).subset (List.mem_of_mem_drop hlater)
    | inr hany => exact hany

theorem Mach.nextFocus_ne_none (h : m.livePorts ≠ []) : m.nextFocus ≠ none := by
  cases hf : m.focus <;> simp [Mach.nextFocus, hf, h]

theorem Mach.selfAgenda_getLast (h : m.livePorts ≠ []) : ∃ p ∈ m.livePorts, (m.selfAgenda cf).getLast? = some (.focus p.1 p.2) := by
  obtain ⟨p, hn⟩ := Option.ne_none_iff_exists'.mp (m.nextFocus_ne_none h)
  exact ⟨p, m.mem_livePorts_of_nextFocus hn, by simp [Mach.selfAgenda, hn]⟩

end SelfAgenda

/-! ### The statement -/

/-- Settles O1, from one equation for each way a step can go: an item of the agenda, the machine's own chores, or what the fetch of the fibre in focus gives. -/
theorem stepRunsDecoded : Obligations.StepRunsDecoded := by
  intro s
  refine ⟨?decoded, ?undecoded, ?fault, ?wait, ?literal, ?schedule, ?idle, step_of_round_over, ⟨?writes, ?copies, ?results⟩, ⟨?groups, ?turn⟩,
    ?event, ?bootFailed, step_of_halted, ?hostRead, ?coldReset⟩
  case decoded =>
    intro k c w lit i m ha hr he hc hf hd
    exact (step_of_issuer ha hr he hc).trans (fibreStep_decoded hf hd)
  case undecoded =>
    intro k c w lit m ha hr he hc hf hd
    rw [← illegalWord_cause]
    exact (step_of_issuer ha hr he hc).trans (fibreStep_undecoded hf hd)
  case fault =>
    intro k c n sub r m ha hr he hc hf
    exact (step_of_issuer ha hr he hc).trans (fibreStep_fault hf)
  case wait =>
    intro k c r m ha hr he hc hf
    exact (step_of_issuer ha hr he hc).trans (fibreStep_wait hf)
  case literal =>
    intro k c w n sub i m ha hr he hc hf hd
    exact (step_of_issuer ha hr he hc).trans (fibreStep_literal_fault hf hd)
  case schedule =>
    intro k core quad ha hr he hc hf
    rw [step_of_round ha hr he]
    exact portStep_of_focus ((Mach.issuer_setRound s.m k).trans hc) hf
  case idle =>
    intro k ha hr he hf
    rw [step_of_round ha hr he]
    exact portStep_of_no_focus hf
  case writes => exact fun e h => s.m.ev_mem_selfAgenda s.cfg (s.m.propagate_mem_chores s.cfg h)
  case copies => exact fun x h => s.m.ev_mem_selfAgenda s.cfg (s.m.refresh_mem_chores s.cfg h)
  case results => exact fun o h => s.m.ev_mem_selfAgenda s.cfg (s.m.longLatencyComplete_mem_chores s.cfg h)
  case groups =>
    exact fun g h hg => s.m.ev_mem_selfAgenda s.cfg (s.m.groupActivate_mem_chores s.cfg (s.m.seat_mem_livePorts h hg))
  case turn => exact s.m.selfAgenda_getLast s.cfg
  case event =>
    intro i rest ha he hb hi
    exact (step_of_agenda ha).trans (agendaStep_event he hb hi)
  case bootFailed =>
    intro i rest ha hb hf
    exact (step_of_agenda ha).trans (agendaStep_boot_failed hb hf)
  case hostRead =>
    intro off rest ha
    exact (step_of_agenda ha).trans (agendaStep_hostRead off)
  case coldReset =>
    intro f al dv lk o p b fi fu rest ha
    exact (step_of_agenda ha).trans (agendaStep_coldReset f al dv lk o p b fi fu)

end Sys2Proof.Machine
end

section
/-!
What a step does to the configuration (R159, R161, R368, R370): a fibre's instruction and an ordinary event act on the machine alone, and each of the
six rows that configure leaves the partitions apart.
-/
namespace Sys2Proof.Machine

section Configuration

variable {s t : State} {cf cf' : Conf}

/-! ### What leaves the configuration alone -/

theorem next_keeps_cfg {m : Mach} (h : (.next ⟨s.cfg, m⟩ : Host.Outcome State Fault Refusal) = .next t) : t.cfg = s.cfg := by
  cases h; rfl

/-- The rows that may change the configuration. -/
def Configures (i : Instr) : Prop :=
  (∃ q, i = .partcfg q ∨ i = .ctxcfg q) ∨ (∃ k p key, i = .keySlotLoad k p key) ∨ (∃ b, i = .alarmDetect b) ∨ (∃ e, i = .softError e) ∨
    ∃ f al dv lk o p b fi fu, i = .coldReset f al dv lk o p b fi fu

/-- Every row is an instruction that issues, a change of the machine alone, or one of the six that configure. -/
theorem exec_keeps_cfg_or_configures {i : Instr} (h : exec i s = .next t) : t.cfg = s.cfg ∨ Configures i := by
  cases i with
  | iadd | isub | imul | imulh | imad | imin | imax | isad | and | or | xor | andn | shl | shr | sar | rol | popc | clz | brev | bfx | bfi | icmp |
    icmpu | sel | iaddi | andi | ori | xori | shifti | mov | iadd64 | fadd | fsub | fmul | ffma | ffms | fnma | fmin | fmax | fcmp | fsign | cvt |
    cvts | frnd | rcp | rsq | sqrt | ex2 | lg2 | sin | cos | tanh | fscale | fxtr | pack | unpk | cbq | cbx | dot2 | shfl | vote | sredi | sredf |
    sscan | prmt | matchS | firstl | tment | tmacc | tmmrg | tmsred | tmexit | ld | st | lds | sts | ldfe | ldfet | stfe | atom | atoms | pref | br |
    brx | callx | retx | join | lpad | fork | fend | jmset | limm | uadd | usub | umul | umulh | umad | umin | umax | uand | uor | uxor | ushl | ushr
    | usar | upopc | uclz | ucmp | ucmpu | usel | uaddi | uandi | uori | ushifti | umov | uadd64 | ubr | ujmp | ucall | uret | udbnz | trl | nop |
    yield | halt | trap | eret | barinit | bararr | barwait | bararw | cwait | cwaitt | cinc | fence | fwait | clubar | srd | swr | cbld | tmshp |
    tmtab | ipf | ipin | iunpin | cwb | tstat | mma | accz | drain | tcopy | tcopyColl | dcjob | rrot | xsort | prolog | xput | xget | xarm | xdisarm
    | rinv | rinvh | hwait | hstat | hfree | iwait | idone | wopen | wclose | pmerge | pstat | ptrick | dchk | ulimm | reservedOpcode => exact .inl (next_keeps_cfg h)
  | propagate | refresh | missQueueEnter | pageWalk | longLatencyComplete | portSchedule | groupActivate | asyncTrap | fetimeout | fullEmptyTake |
    cwaitComplete | cwaittBound | fwaitComplete | wopenProceed | hwaitComplete | iwaitTake | engineCommandEnter | mmaOperation | acczOperation |
    drainOperation | tcopyOperation | packOperation | prologOperation | dcmpJob | ringRotation | xputOperation | xgetOperation | collective |
    xsortOperation | triggeredSend | engineRetire | prologue | groupStart | launchAdmit | clusterStart | allocationRelease | noticeExpiry | teamSave |
    teamRestore | fabricAccessArrival | fabricAnswer | requestArrival | packetArrival | tokenGrant | tokenExpiry | transferAck | spindleSend |
    driftMessageArrival | battenFold | mergePass | islandSilent | invocationArrival | invocationPlace | rinvhForward | refreshStart | refreshEnd |
    throttleCheck | scrub | flitSend | flitReceive | keyInstall | pcieLinkChange | getVersion | getCapabilities | negotiateAlgorithms | getDigests |
    getCertificate | challenge | getMeasurements | keyExchange | finish | endSession | measExtend | unsupportedRequest | queueEnable | queueDisable |
    tail | chead | alarmClear | registerWrite | queueFetch | launch | wait | queueWaitComplete | queueWaitTimeout | signal | copy | queueCopyComplete
    | xlinv | preempt | bind | unbind | member | pause | resume | setthr | completionPost | throttleCondition | engineFeTimeout => exact .inl (next_keeps_cfg h)
  | partcfg q => exact .inr (.inl ⟨q, .inl rfl⟩)
  | ctxcfg q => exact .inr (.inl ⟨q, .inr rfl⟩)
  | keySlotLoad k p key => exact .inr (.inr (.inl ⟨k, p, key, rfl⟩))
  | alarmDetect b => exact .inr (.inr (.inr (.inl ⟨b, rfl⟩)))
  | softError e => exact .inr (.inr (.inr (.inr (.inl ⟨e, rfl⟩))))
  | coldReset f al dv lk o p b fi fu => exact .inr (.inr (.inr (.inr (.inr ⟨f, al, dv, lk, o, p, b, fi, fu, rfl⟩))))

/-! ### What configures -/

/-- A configuration with the same partitions shares as little. -/
theorem Conf.apart_of_parts (hp : cf'.parts = cf.parts) (h : cf.apart) : cf'.apart := by
  unfold Conf.apart; rwa [hp]

/-- A partition's record is taken in place of its old one only where it shares nothing with the others (R161). -/
theorem Conf.withPart_apart {pt : Part} (hw : cf.withPart pt = some cf') (h : cf.apart) : cf'.apart := by
  unfold Conf.withPart at hw
  dsimp only at hw
  split at hw
  case isFalse => cases hw
  case isTrue hok =>
    cases hw
    simp only [Bool.and_eq_true, List.all_eq_true] at hok
    obtain ⟨⟨hapart, -⟩, -⟩ := hok
    refine List.pairwise_cons.mpr ⟨fun x hx => ?_, h.filter _⟩
    have hne : x.p ≠ pt.p := by simpa using (List.mem_filter.mp hx).2
    exact ⟨hne.symm, hapart x hx⟩

theorem partcfgCmd_apart (m : Mach) (q : Nat) (h : cf.apart) : (partcfgCmd cf m q).1.apart := by
  unfold partcfgCmd
  split
  case h_1 => exact h
  case h_2 e _ =>
    dsimp only
    split
    case isTrue => exact h
    case isFalse =>
      split
      case h_2 => exact h
      case h_1 cf' hw =>
        split at hw
        case isTrue => cases hw
        case isFalse => exact Conf.withPart_apart hw h

theorem ctxcfgCmd_parts (cf : Conf) (m : Mach) (q : Nat) : (ctxcfgCmd cf m q).1.parts = cf.parts := by
  unfold ctxcfgCmd
  split
  case h_1 => rfl
  case h_2 =>
    dsimp only
    split
    case isTrue => rfl
    case isFalse => split <;> rfl

theorem keySlotLoad_parts (cf : Conf) (m : Mach) (k p : Nat) (key : Key) : (keySlotLoad cf m k p key).parts = cf.parts := by
  unfold keySlotLoad; split <;> rfl

theorem alarm_parts (cf : Conf) (m : Mach) (b : BitVec 4) : (alarm cf m b).1.parts = cf.parts := by
  unfold alarm
  split
  case isTrue => rfl
  case isFalse => split <;> rfl

theorem softError_parts (cf : Conf) (m : Mach) (e : SoftErr) : (softError cf m e).1.parts = cf.parts := by
  cases e with
  | keyStore => exact alarm_parts cf _ 8
  | corrected | poisonPkg | poisonScr | register | latch | accumulator | scale | owner => rfl

theorem bootStep_parts (s : State) (good : Bool) (lk : BitVec 2) (fi : List Byte) : (bootStep s good lk fi).cfg.parts = s.cfg.parts := by
  unfold bootStep
  dsimp only
  split <;> rfl

/-! ### Every step -/

theorem exec_apart {i : Instr} (h : exec i s = .next t) (ha : s.cfg.apart) : t.cfg.apart := by
  rcases exec_keeps_cfg_or_configures h with hc | ⟨q, rfl | rfl⟩ | ⟨k, p, key, rfl⟩ | ⟨b, rfl⟩ | ⟨e, rfl⟩ | ⟨f, al, dv, lk, o, p, b, fi, fu, rfl⟩
  · exact hc ▸ ha
  · cases h; exact partcfgCmd_apart s.m q ha
  · cases h; exact Conf.apart_of_parts (ctxcfgCmd_parts s.cfg s.m q) ha
  · cases h; exact Conf.apart_of_parts (keySlotLoad_parts s.cfg s.m k p key) ha
  · cases h; exact Conf.apart_of_parts (alarm_parts s.cfg s.m b) ha
  · cases h; exact Conf.apart_of_parts (softError_parts s.cfg s.m e) ha
  · cases h; exact List.Pairwise.nil

theorem agendaStep_apart {a : Agenda} (h : agendaStep s a = .next t) (ha : s.cfg.apart) : t.cfg.apart := by
  unfold agendaStep at h
  split at h
  case isTrue => cases h; exact ha
  case isFalse =>
    split at h
    case h_1 =>
      split at h
      case isTrue => exact exec_apart h ha
      case isFalse => cases h; exact ha
    case h_2 => cases h; exact Conf.apart_of_parts (bootStep_parts ..) ha
    case h_3 => cases h; exact ha

theorem fibreStep_apart {c : Ctx} (h : fibreStep s c = .next t) (ha : s.cfg.apart) : t.cfg.apart := by
  unfold fibreStep at h
  split at h
  case h_1 i m _ => exact exec_apart (s := { s with m := m }) h ha
  case h_2 i r m _ =>
    split at h
    case isTrue => cases h; exact ha
    case isFalse => exact exec_apart (s := { s with m := m }) h ha
  case h_3 => cases h; exact ha
  case h_4 => cases h; exact ha

theorem portStep_apart (h : portStep s = .next t) (ha : s.cfg.apart) : t.cfg.apart := by
  unfold portStep at h
  split at h
  case h_1 => exact fibreStep_apart h ha
  case h_2 => split at h <;> (cases h; exact ha)

theorem step_apart (h : step s = .next t) (ha : s.cfg.apart) : t.cfg.apart := by
  unfold step stepOf at h
  split at h
  case h_1 a rest _ => exact agendaStep_apart (s := { s with m := { s.m with agenda := rest } }) h ha
  case h_2 =>
    split at h
    case isTrue => cases h
    case isFalse => cases h; exact ha
  case h_3 k _ _ =>
    split at h
    case isTrue => cases h
    case isFalse => exact portStep_apart (s := { s with m := { s.m with round := k } }) h ha

end Configuration

/-- Settles O6: a step ends in a row of the table, in a change of the machine alone or in a stage of the boot, and of the rows only six touch the
configuration. -/
theorem partitionsApart : Obligations.PartitionsApart :=
  ⟨fun _ _ ha h => step_apart h ha, fun _ _ _ h hne => (exec_keeps_cfg_or_configures h).resolve_left hne⟩

end Sys2Proof.Machine
end

section
/-! ## Canonical form (O7)

Every function of the model that answers a machine leaves its byte stores in canonical form if it finds them so: one lemma a function, in the order
of the definitions, each from the lemmas of the functions it calls. Where a function leaves the four stores as they are the lemma is an equivalence.
A continuation an operation takes is asked the same, and `Res.mach` is the machine an entry answers with. -/
namespace Sys2Proof.Machine

section
variable {cf : Conf} {m n : Mach} {s t : State}

/-- The canonical form of the four byte stores. -/
def StoresWf (mem : SMap Byte) (tags : SMap Sealed) (scr : SMap Byte) (gran : SMap (Bool × BitVec 16)) : Prop :=
  smWf 0 mem = true ∧ smWf .open_ tags = true ∧ smWf 0 scr = true ∧ smWf (true, 0xFFFF) gran = true

/-- The byte stores of a machine are in canonical form: `Mach.canonical`, by the fields of a machine. -/
@[irreducible] def Mach.Canon : Mach → Prop
  | { mem, tags, scr, gran, .. } => StoresWf mem tags scr gran

@[simp] theorem Mach.canon_mk : type_of% @Mach.Canon.eq_1 := @Mach.Canon.eq_1

@[simp] theorem storesWf_iff_canon : StoresWf m.mem m.tags m.scr m.gran ↔ m.Canon := by
  cases m
  rw [Mach.canon_mk]

theorem Mach.canon_iff : m.Canon ↔ m.canonical = true := storesWf_iff_canon.symm.trans (canonical_iff m).symm

theorem Mach.Near.canon (k : m.Near n) (h : m.Canon) : n.Canon := Mach.canon_iff.mpr (k.2 (Mach.canon_iff.mp h))

/-- Machines with equal byte stores. -/
theorem Mach.canon_congr (hm : n.mem = m.mem) (ht : n.tags = m.tags) (hs : n.scr = m.scr) (hg : n.gran = m.gran) : n.Canon ↔ m.Canon := by
  rw [← storesWf_iff_canon, hm, ht, hs, hg, storesWf_iff_canon]

@[simp] theorem canon_ite {p : Prop} [Decidable p] : (if p then m else n).Canon ↔ (p → m.Canon) ∧ (¬p → n.Canon) := by
  by_cases h : p <;> simp [h]

@[simp] theorem canon_foldl {α : Type} {f : Mach → α → Mach} (hf : ∀ m x, m.Canon → (f m x).Canon) : ∀ (l : List α) {m : Mach}, m.Canon → (l.foldl f m).Canon
  | [], _, h => h
  | x :: l, m, h => canon_foldl hf l (hf m x h)

theorem canon_foldl_iff {α : Type} {f : Mach → α → Mach} (hf : ∀ m x, (f m x).Canon ↔ m.Canon) : ∀ (l : List α) {m : Mach}, (l.foldl f m).Canon ↔ m.Canon
  | [], _ => Iff.rfl
  | x :: l, m => (canon_foldl_iff hf l).trans (hf m x)

@[simp] theorem canon_foldl_snd {α β : Type} {f : β × Mach → α → β × Mach} (hf : ∀ r x, r.2.Canon → (f r x).2.Canon) :
    ∀ (l : List α) {r : β × Mach}, r.2.Canon → (l.foldl f r).2.Canon
  | [], _, h => h
  | x :: l, r, h => canon_foldl_snd hf l (hf r x h)

theorem canon_of_snd {α : Type} {p : α × Mach} {a : α} (e : p = (a, n)) (h : p.2.Canon) : n.Canon := by subst e; exact h

theorem canon_of_snd_snd {α β : Type} {p : α × β × Mach} {a : α} {b : β} (e : p = (a, b, n)) (h : p.2.2.Canon) : n.Canon := by subst e; exact h

/-- The machine a unit of work answers with, if it answers with one, has its byte stores in canonical form. -/
def AllCanon (o : Option Mach) : Prop := ∀ n ∈ o, n.Canon

@[simp] theorem allCanon_none : AllCanon none := fun _ h => nomatch h

@[simp] theorem allCanon_some : AllCanon (some m) ↔ m.Canon := by simp [AllCanon]

@[simp] theorem allCanon_ite {p : Prop} [Decidable p] {a b : Option Mach} : AllCanon (if p then a else b) ↔ (p → AllCanon a) ∧ (¬p → AllCanon b) := by
  by_cases h : p <;> simp [h]

theorem canon_of_some {o : Option Mach} (e : o = some n) (h : AllCanon o) : n.Canon := h n e

@[simp] theorem canon_getD {o : Option Mach} (h : AllCanon o) (hm : m.Canon) : (o.getD m).Canon := by
  cases o with
  | none => exact hm
  | some n => exact allCanon_some.mp h

theorem canon_of_some_snd_snd {α β : Type} {o : Option (α × β × Mach)} {a : α} {b : β} (e : o = some (a, b, n)) (h : ∀ x ∈ o, x.2.2.Canon) : n.Canon := h _ e

/-- The machine an entry answers with. -/
def Res.mach : Res → Mach
  | .done m _ _ | .late m _ | .trap m _ _ _ _ | .hold m _ | .pend m _ | .stop m _ | .gone m => m

@[simp] theorem Res.mach_done_canon (lat : List (Nat × Word)) (go : Go) : (Res.done m lat go).mach.Canon ↔ m.Canon := Iff.rfl
@[simp] theorem Res.mach_late_canon (go : Go) : (Res.late m go).mach.Canon ↔ m.Canon := Iff.rfl
@[simp] theorem Res.mach_trap_canon (k sub : Nat) (a : DWord) (fail : Word) : (Res.trap m k sub a fail).mach.Canon ↔ m.Canon := Iff.rfl
@[simp] theorem Res.mach_hold_canon (why : Why) : (Res.hold m why).mach.Canon ↔ m.Canon := Iff.rfl
@[simp] theorem Res.mach_pend_canon (why : Why) : (Res.pend m why).mach.Canon ↔ m.Canon := Iff.rfl
@[simp] theorem Res.mach_stop_canon (k : Nat) : (Res.stop m k).mach.Canon ↔ m.Canon := Iff.rfl
@[simp] theorem Res.mach_gone_canon : (Res.gone m).mach.Canon ↔ m.Canon := Iff.rfl
@[simp] theorem Res.mach_ite {p : Prop} [Decidable p] (a b : Res) : (if p then a else b).mach = if p then a.mach else b.mach := by split <;> rfl

@[simp] theorem Mach.writeFlat_canon (f : Nat) (bs : List Byte) (tag : Option KTag) (h : m.Canon) : (m.writeFlat f bs tag).Canon := (Mach.writeFlat_near m ..).canon h
@[simp] theorem Mach.writeFlats_canon (f : Nat) (bs : List Byte) (tag : Option KTag) (h : m.Canon) : (m.writeFlats f bs tag).Canon := (Mach.writeFlats_near m ..).canon h
@[simp] theorem Mach.setGranule_canon (t gr : Nat) (x : Bool × BitVec 16) (h : m.Canon) : (m.setGranule t gr x).Canon := (Mach.setGranule_near m ..).canon h
@[simp] theorem Mach.fillGranules_canon (t addr n : Nat) (k : WKind) (h : m.Canon) : (m.fillGranules t addr n k).Canon := (Mach.fillGranules_near m ..).canon h
@[simp] theorem Mach.clearPoison_canon (sp : Space) (addr n : Nat) : (m.clearPoison sp addr n).Canon ↔ m.Canon := Mach.canon_congr rfl rfl rfl rfl
@[simp] theorem Mach.fillLine_canon (part line pol : Nat) (key : Key) : (m.fillLine part line pol key).Canon ↔ m.Canon := by
  unfold Mach.fillLine
  dsimp only
  split <;> exact Mach.canon_congr rfl rfl rfl rfl
@[simp] theorem Mach.touchLine_canon (part line pol : Nat) (key : Key) : (m.touchLine part line pol key).Canon ↔ m.Canon := by
  unfold Mach.touchLine
  split
  · split <;> exact Mach.canon_congr rfl rfl rfl rfl
  · simp
@[simp] theorem Mach.touch_canon (sp : Space) (addr n : Nat) (tag : Option KTag) : (m.touch sp addr n tag).Canon ↔ m.Canon := by
  unfold Mach.touch
  split
  · split
    · refine canon_foldl_iff (fun m x => ?_) _
      simp
    · rfl
  · rfl
@[simp] theorem Mach.mark_canon (t : Nat) (w : Write) : (m.mark t w).Canon ↔ m.Canon := Mach.canon_congr rfl rfl rfl rfl
@[simp] theorem Mach.record_canon (w : Write) : (m.record w).Canon ↔ m.Canon := Mach.canon_congr rfl rfl rfl rfl
@[simp] theorem Mach.armsMet_canon (sp : Space) (addr n : Nat) : (m.armsMet sp addr n).Canon ↔ m.Canon := Mach.canon_congr rfl rfl rfl rfl
@[simp] theorem Mach.outdate_canon (sp : Space) (addr n : Nat) : (m.outdate sp addr n).Canon ↔ m.Canon := Mach.canon_congr rfl rfl rfl rfl
@[simp] theorem Mach.deliver_canon (w : Write) (h : m.Canon) : (m.deliver w).Canon := (Mach.deliver_near m ..).canon h
@[simp] theorem Mach.uncopy_canon (p : Point) (sp : Space) (addr n : Nat) : (m.uncopy p sp addr n).Canon ↔ m.Canon := Mach.canon_congr rfl rfl rfl rfl
@[simp] theorem Mach.dropCopies_canon (ps : List Point) : (m.dropCopies ps).Canon ↔ m.Canon := Mach.canon_congr rfl rfl rfl rfl
@[simp] theorem Mach.dropRange_canon (ps : List Point) (sp : Space) (addr n : Nat) : (m.dropRange ps sp addr n).Canon ↔ m.Canon := Mach.canon_congr rfl rfl rfl rfl
@[simp] theorem Mach.noteAnswer_canon (xid num : Nat) (res : FabRes) : (m.noteAnswer xid num res).Canon ↔ m.Canon := Mach.canon_congr rfl rfl rfl rfl
@[simp] theorem Mach.updOp_canon (t : Nat) (k : EngCtx) (n : Nat) (f : Op → Op) : (m.updOp t k n f).Canon ↔ m.Canon := Mach.canon_congr rfl rfl rfl rfl
@[simp] theorem Mach.opRefused_canon (t : Nat) (k : EngCtx) (n sub : Nat) (addr : DWord) (h : m.Canon) : (m.opRefused t k n sub addr).Canon := (Mach.opRefused_near m ..).canon h
@[simp] theorem Mach.storesAnswered_canon (h : m.Canon) : m.storesAnswered.Canon := (Mach.storesAnswered_near m).canon h
@[simp] theorem Mach.sendAway_canon (e : BufEnt) (h : m.Canon) : (m.sendAway e).Canon := (Mach.sendAway_near m ..).canon h
@[simp] theorem Mach.sendWaiting_canon (h : m.Canon) : m.sendWaiting.Canon := (Mach.sendWaiting_near m).canon h
@[simp] theorem Mach.moveUp_canon (e : BufEnt) (h : m.Canon) : (m.moveUp e).Canon := (Mach.moveUp_near m ..).canon h
@[simp] theorem Mach.answered_canon (xid num : Nat) (res : FabRes) (h : m.Canon) : (m.answered xid num res).Canon := (Mach.answered_near m ..).canon h
@[simp] theorem Mach.push_canon (ps : List Point) (sel : Nat → Bool) (h : m.Canon) : (m.push ps sel).Canon := (Mach.push_near m ..).canon h
@[simp] theorem Mach.propagate_canon (wid : Nat) (h : m.Canon) : (m.propagate wid).Canon := (Mach.propagate_near m ..).canon h
@[simp] theorem Mach.drain_canon (leaf : Point) (s : Nat) (h : m.Canon) : (m.drain leaf s).Canon := (Mach.drain_near m ..).canon h
@[simp] theorem Mach.drainRange_canon (leaf : Point) (s : Nat) (sp : Space) (addr n : Nat) (h : m.Canon) : (m.drainRange leaf s sp addr n).Canon := (Mach.drainRange_near m ..).canon h
@[simp] theorem Mach.invalidate_canon (leaf : Point) (s : Nat) : (m.invalidate leaf s).Canon ↔ m.Canon := Mach.canon_congr rfl rfl rfl rfl
@[simp] theorem Mach.fenceAt_canon (leaf : Point) (s : Nat) (h : m.Canon) : (m.fenceAt leaf s).Canon := (Mach.fenceAt_near m ..).canon h
@[simp] theorem Mach.install_canon (new : List Copy) : (m.install new).Canon ↔ m.Canon := Mach.canon_congr rfl rfl rfl rfl
@[simp] theorem Mach.readOver_canon (ps : List Point) (sp : Space) (addr n : Nat) (tag : Option KTag) (install : Bool) :
    (m.readOver ps sp addr n tag install).2.Canon ↔ m.Canon := by
  simp only [Mach.readOver]
  split <;> split <;> simp
@[simp] theorem Mach.readPlain_canon (leaf : Point) (sp : Space) (addr n : Nat) (tag : Option KTag) :
    (m.readPlain leaf sp addr n tag).2.Canon ↔ m.Canon := Mach.readOver_canon ..
@[simp] theorem Mach.readAcq_canon (leaf : Point) (s : Nat) (sp : Space) (addr n : Nat) (tag : Option KTag) (install : Bool) (h : m.Canon) : (m.readAcq leaf s sp addr n tag install).2.Canon := (Mach.readAcq_near m ..).canon h
@[simp] theorem Mach.readHome_canon (leaf : Point) (sp : Space) (addr n : Nat) (tag : Option KTag) (h : m.Canon) : (m.readHome leaf sp addr n tag).2.Canon := (Mach.readHome_near m ..).canon h
@[simp] theorem Mach.promote_canon (sp : Space) (addr n : Nat) (h : m.Canon) : (m.promote sp addr n).Canon := (Mach.promote_near m ..).canon h
@[simp] theorem Mach.place_canon (p : Point) (w : Write) (h : m.Canon) : (m.place p w).Canon := (Mach.place_near m ..).canon h
@[simp] theorem Mach.writePlain_canon (leaf : Point) (w : Write) (h : m.Canon) : (m.writePlain leaf w).Canon := (Mach.writePlain_near m ..).canon h
@[simp] theorem Mach.markCore_canon (leaf : Point) (s : Nat) (w : Write) : (m.markCore leaf s w).Canon ↔ m.Canon := by
  unfold Mach.markCore
  split
  · split <;> simp
  · rfl
@[simp] theorem Mach.writeRel_canon (leaf : Point) (s : Nat) (w : Write) (h : m.Canon) : (m.writeRel leaf s w).Canon := (Mach.writeRel_near m ..).canon h
@[simp] theorem Mach.atomic_canon (leaf : Point) (sp : Space) (addr n : Nat) (tag : Option KTag) (sync : Bool)
    (f : List Byte → Option (List Byte)) (h : m.Canon) : (m.atomic leaf sp addr n tag sync f).2.Canon := (Mach.atomic_near m ..).canon h
@[simp] theorem Mach.writeHome_canon (leaf : Point) (w : Write) (h : m.Canon) : (m.writeHome leaf w).Canon := (Mach.writeHome_near m ..).canon h
@[simp] theorem Mach.readSlotOver_canon (ps : List Point) (tag : KTag) (slot : Nat) (q : SlotParts) (install : Bool) :
    (m.readSlotOver ps tag slot q install).2.Canon ↔ m.Canon := by
  simp only [Mach.readSlotOver]
  split
  · refine (canon_foldl_iff (fun m x => ?_) _).trans (Mach.canon_congr rfl rfl rfl rfl)
    simp
  · exact Mach.canon_congr rfl rfl rfl rfl
@[simp] theorem Mach.readBy_canon (w : Way) (sp : Space) (addr n : Nat) (tag : Option KTag) (h : m.Canon) : (m.readBy w sp addr n tag).2.Canon := (Mach.readBy_near m ..).canon h
@[simp] theorem Mach.pushSlot_canon (ps : List Point) (q : SlotParts) (h : m.Canon) : (m.pushSlot ps q).Canon := (Mach.pushSlot_near m ..).canon h
@[simp] theorem Mach.readSlot_canon (w : Way) (tag : KTag) (slot : Nat) (q : SlotParts) (h : m.Canon) : (m.readSlot w tag slot q).2.Canon := (Mach.readSlot_near m ..).canon h
@[simp] theorem Mach.refreshCopy_canon (p : Point) (sp : Space) (unit : Nat) (tag : Option KTag) (away : List Byte) (drop : Bool) :
    (m.refreshCopy p sp unit tag away drop).Canon ↔ m.Canon := by
  simp only [Mach.refreshCopy]
  split <;> exact Mach.canon_congr rfl rfl rfl rfl

theorem Mach.reset_canon : Mach.reset.Canon := storesWf_iff_canon.mp ⟨rfl, rfl, rfl, rfl⟩

@[simp] theorem Mach.updLaunch_canon (l : Nat) (f : Launch → Launch) : (m.updLaunch l f).Canon ↔ m.Canon := Mach.canon_congr rfl rfl rfl rfl
@[simp] theorem Mach.updCluster_canon (c : Nat) (f : Cluster → Cluster) : (m.updCluster c f).Canon ↔ m.Canon := Mach.canon_congr rfl rfl rfl rfl
@[simp] theorem Mach.updTeam_canon (t : Nat) (f : Team → Team) : (m.updTeam t f).Canon ↔ m.Canon := Mach.canon_congr rfl rfl rfl rfl
@[simp] theorem Mach.updGroup_canon (t g : Nat) (f : Group → Group) : (m.updGroup t g f).Canon ↔ m.Canon := Mach.canon_congr rfl rfl rfl rfl
@[simp] theorem Mach.updFibre_canon (r : FRef) (f : Fibre → Fibre) : (m.updFibre r f).Canon ↔ m.Canon := Mach.canon_congr rfl rfl rfl rfl
@[simp] theorem Mach.updRegion_canon (r : Nat) (f : Region → Region) : (m.updRegion r f).Canon ↔ m.Canon := Mach.canon_congr rfl rfl rfl rfl
@[simp] theorem Mach.setQueue_canon (qu : Queue) : (m.setQueue qu).Canon ↔ m.Canon := Mach.canon_congr rfl rfl rfl rfl
@[simp] theorem Mach.setPort_canon (po : Port) : (m.setPort po).Canon ↔ m.Canon := Mach.canon_congr rfl rfl rfl rfl
@[simp] theorem Mach.wrRegs_canon (c : Ctx) (ws : List (Nat × Nat × Word)) : (m.wrRegs c ws).Canon ↔ m.Canon := Mach.canon_congr rfl rfl rfl rfl
@[simp] theorem Mach.wrCond_canon (c : Ctx) (k : Nat) (ws : List (Nat × Bool)) : (m.wrCond c k ws).Canon ↔ m.Canon := Mach.canon_congr rfl rfl rfl rfl
@[simp] theorem Mach.count_canon (die src : Nat) (part : Option Nat) (n : Nat) : (m.count die src part n).Canon ↔ m.Canon := Mach.canon_congr rfl rfl rfl rfl
@[simp] theorem Mach.tick_canon (n : Nat) : (m.tick n).Canon ↔ m.Canon := Mach.canon_congr rfl rfl rfl rfl

@[simp] theorem Mach.raise_canon (v : Nat) (hm : m.Canon) : (m.raise v).Canon := by
  simp [Mach.raise, hm]

@[simp] theorem Mach.bar_canon (ps : List Point) : (m.bar ps).Canon ↔ m.Canon := Mach.canon_congr rfl rfl rfl rfl
@[simp] theorem Mach.newId_canon  : (m.newId).2.Canon ↔ m.Canon := Mach.canon_congr rfl rfl rfl rfl

@[simp] theorem Mach.touchWalk_canon (p x va : Nat) (hm : m.Canon) : (m.touchWalk cf p x va).Canon := by
  unfold Mach.touchWalk
  split
  · split
    · split
      · exact hm
      · refine canon_foldl (fun m x h1 => ?_) _ ?_
        · split
          · simp [hm, h1]
          · exact h1
        · exact hm
    · exact hm
  · exact hm

@[simp] theorem Mach.setEntry_canon (p x : Nat) (a : Nat) (e : DWord) (hm : m.Canon) : (m.setEntry cf p x a e).Canon := by
  unfold Mach.setEntry
  split
  · split
    · simp [hm]
    · exact hm
  · exact hm

@[simp] theorem walkSet_canon (p x va : Nat) (dirty : Bool) (hm : m.Canon) : (walkSet cf m p x va dirty).2.Canon := by
  unfold walkSet
  dsimp only
  split <;> simp [hm]

@[simp] theorem Mach.tlbPutIn_canon (own : TlbOwner) (p x block : Nat) (l : Leaf) (size : Nat) (hm : m.Canon) : (m.tlbPutIn own p x block l size).Canon := by
  simp [Mach.tlbPutIn, hm]

@[simp] theorem Mach.tlbPut_canon (own : TlbOwner) (p x block : Nat) (l : Leaf) (hm : m.Canon) : (m.tlbPut own p x block l).Canon := by
  simp [Mach.tlbPut, hm]

@[simp] theorem Mach.sharedPut_canon (die p x block : Nat) (l : Leaf) (hm : m.Canon) : (m.sharedPut cf die p x block l).Canon := by
  simp [Mach.sharedPut, hm]

@[simp] theorem walkAt_canon (die p x va : Nat) (hm : m.Canon) : (walkAt cf m die p x va).2.Canon := by
  unfold walkAt
  split
  · rename_i e1
    have k1 := canon_of_snd e1 (by simp [hm])
    simp [hm, k1]
  · simp [hm]

@[simp] theorem xlateNow_canon (own : TlbOwner) (p x va : Nat) (hm : m.Canon) : (xlateNow cf m own p x va).2.Canon := by
  unfold xlateNow
  split
  · exact hm
  · cases own
    all_goals
      dsimp only
      split
      · simp [hm]
      · split
        · rename_i e
          have k := canon_of_snd e (by simp [hm])
          simp [k]
        · simp [hm]

@[simp] theorem leafNow_canon (own : TlbOwner) (p x va : Nat) (write : Bool) (hm : m.Canon) : (leafNow cf m own p x va write).2.Canon := by
  unfold leafNow
  split
  · rename_i e1
    have k1 := canon_of_snd e1 (by simp [hm])
    exact k1
  · rename_i e1
    have k1 := canon_of_snd e1 (by simp [hm])
    split
    · simp [hm, k1]
    · exact k1

@[simp] theorem Mach.setLeafDirty_canon (own : TlbOwner) (p x va : Nat) (l : Leaf) (hm : m.Canon) : (m.setLeafDirty cf own p x va l).Canon := by
  simp [Mach.setLeafDirty, hm]

@[simp] theorem accessNow_canon (own : TlbOwner) (p x va : Nat) (cls : Cls) (hm : m.Canon) : (accessNow cf m own p x va cls).2.Canon := by
  unfold accessNow
  split
  · rename_i e1
    have k1 := canon_of_snd e1 (by simp [hm])
    exact k1
  · rename_i e1
    have k1 := canon_of_snd e1 (by simp [hm])
    split
    · exact k1
    · simp [hm, k1]

@[simp] theorem reach_canon (own : TlbOwner) (p x va : Nat) (cls : Cls) (hm : m.Canon) : (reach cf m own p x va cls).2.Canon := by
  unfold reach
  split
  · exact hm
  · split
    · rename_i e1
      have k1 := canon_of_snd e1 (by simp [hm])
      exact k1
    · rename_i e1
      have k1 := canon_of_snd e1 (by simp [hm])
      exact k1

@[simp] theorem engAccess_canon (tm : Team) (p x : Nat) (k : EngCtx) (a n : Nat) (cls : Cls) (hm : m.Canon) : (engAccess cf m tm p x k a n cls).2.Canon := by
  unfold engAccess
  split
  · exact hm
  · exact hm
  · exact hm
  · simp [hm]

@[simp] theorem readAcc_canon (w : Way) (pt? : Option Part) (a : Acc) (va n : Nat) (hm : m.Canon) : (readAcc w m pt? a va n).2.Canon := by
  unfold readAcc
  dsimp only
  split <;> simp [hm]

@[simp] theorem Mach.delay_canon (own : TlbOwner) (n : Nat) (pt? : Option Part) (a : Acc) (hm : m.Canon) : (m.delay own n pt? a).Canon := by
  unfold Mach.delay
  dsimp only
  split
  · simp [hm]
  · exact hm

@[simp] theorem Mach.undelay_canon (own : TlbOwner) (n : Nat) : (m.undelay own n).Canon ↔ m.Canon := Mach.canon_congr rfl rfl rfl rfl

@[simp] theorem fetchAcc_canon (core p x a : Nat) (hm : m.Canon) : (fetchAcc cf m core p x a).2.Canon := by
  unfold fetchAcc
  split
  · exact hm
  · split
    · exact hm
    · simp [hm]

@[simp] theorem Mach.ilinePut_canon (l : ILine) (hm : m.Canon) : (m.ilinePut l).Canon := by
  unfold Mach.ilinePut
  dsimp only
  split
  · simp [hm]
  · split <;> simp [hm]

@[simp] theorem fetchWord_canon (core p x a : Nat) (hm : m.Canon) : (fetchWord cf m core p x a).2.Canon := by
  unfold fetchWord
  dsimp only
  split
  · exact hm
  · split
    · rename_i e1
      have k1 := canon_of_snd e1 (by simp [hm])
      exact k1
    · rename_i e1
      have k1 := canon_of_snd e1 (by simp [hm])
      split
      · exact k1
      · split
        · simp [hm, k1]
        · split
          · exact k1
          · simp [hm, k1]

@[simp] theorem fetchInstr_canon (core p x a : Nat) (hm : m.Canon) : (fetchInstr cf m core p x a).2.2.Canon := by
  unfold fetchInstr
  dsimp only
  split
  · rename_i e1
    have k1 := canon_of_snd e1 (by simp [hm])
    split
    · simp [hm, k1]
    · exact k1
  · rename_i e1
    have k1 := canon_of_snd e1 (by simp [hm])
    exact k1

@[simp] theorem agentRead1_canon (leafPt : Point) (own : TlbOwner) (p x : Nat) (md : ReadMode) (a n : Nat) (hm : m.Canon) : (agentRead1 cf m leafPt own p x md a n).2.Canon := by
  unfold agentRead1
  dsimp only
  split
  · exact hm
  · split
    · rename_i e1
      have k1 := canon_of_snd e1 (by simp [hm])
      exact k1
    · rename_i e1
      have k1 := canon_of_snd e1 (by simp [hm])
      exact k1
    · rename_i e1
      have k1 := canon_of_snd e1 (by simp [hm])
      split
      · simp [hm, k1]
      · split
        · exact k1
        · simp [hm, k1]

@[simp] theorem agentRead_canon (leafPt : Point) (own : TlbOwner) (p x : Nat) (md : ReadMode) (a n : Nat) (hm : m.Canon) : (agentRead cf m leafPt own p x md a n).2.Canon := by
  unfold agentRead
  refine canon_foldl_snd (fun r x h1 => ?_) _ ?_
  · split
    · split
      · rename_i e2
        have k2 := canon_of_snd e2 (by simp [hm, h1])
        exact k2
      · simp [hm, h1]
    · exact h1
  · exact hm

@[simp] theorem agentWrite1_canon (leafPt : Point) (own : TlbOwner) (p x : Nat) (cls : Cls) (home : Bool) (a : Nat) (bs : List Byte) (hm : m.Canon) : (agentWrite1 cf m leafPt own p x cls home a bs).2.Canon := by
  unfold agentWrite1
  dsimp only
  split
  · exact hm
  · split
    · rename_i e1
      have k1 := canon_of_snd e1 (by simp [hm])
      exact k1
    · rename_i e1
      have k1 := canon_of_snd e1 (by simp [hm])
      exact k1
    · rename_i e1
      have k1 := canon_of_snd e1 (by simp [hm])
      split <;> simp [hm, k1]

@[simp] theorem agentWrite_canon (leafPt : Point) (own : TlbOwner) (p x : Nat) (cls : Cls) (home : Bool) (a : Nat) (bs : List Byte) (hm : m.Canon) : (agentWrite cf m leafPt own p x cls home a bs).2.Canon := by
  unfold agentWrite
  refine canon_foldl_snd (fun r x h1 => ?_) _ ?_
  · split
    · simp [hm, h1]
    · exact h1
  · exact hm

@[simp] theorem dieWrite_canon (rg : Region) (die : Nat) (g : DieAgent) (a : Nat) (bs : List Byte) (hm : m.Canon) : (dieWrite cf m rg die g a bs).2.Canon := by
  unfold dieWrite
  split
  · rename_i e1
    have k1 := canon_of_snd e1 (by simp [hm])
    exact k1
  · rename_i e1
    have k1 := canon_of_snd e1 (by simp [hm])
    exact k1

@[simp] theorem Mach.setFrag_canon (rg : Region) (fr : Frag) (hm : m.Canon) : (m.setFrag cf rg fr).2.Canon := by
  unfold Mach.setFrag
  dsimp only
  split
  · rename_i e1
    have k1 := canon_of_snd e1 (by simp [hm])
    exact k1
  · rename_i e1
    have k1 := canon_of_snd e1 (by simp [hm])
    simp [hm, k1]

@[simp] theorem Mach.startPass_canon (r : Nat) (hm : m.Canon) : (m.startPass r).Canon := by
  unfold Mach.startPass
  split
  · exact hm
  · simp [hm]

@[simp] theorem Mach.closeWindows_canon (leafPt : Point) (r d : Nat) (hm : m.Canon) : (m.closeWindows leafPt r d).Canon := by
  simp [Mach.closeWindows, hm]

@[simp] theorem Mach.closeAll_canon (p x : Nat) (f : Fibre) (hm : m.Canon) : (m.closeAll p x f).Canon := by
  unfold Mach.closeAll
  refine canon_foldl (fun m x h1 => ?_) _ ?_
  · dsimp only
    split
    · exact h1
    · split
      · simp [hm, h1]
      · exact h1
  · exact hm

@[simp] theorem Mach.updHent_canon (p idx : Nat) (f : HEnt → HEnt) : (m.updHent p idx f).Canon ↔ m.Canon := Mach.canon_congr rfl rfl rfl rfl

@[simp] theorem Mach.freeHent_canon (p idx : Nat) (hm : m.Canon) : (m.freeHent p idx).Canon := by
  unfold Mach.freeHent
  split
  · exact hm
  · simp [hm]

@[simp] theorem Mach.freeResult_canon (p idx : Nat) (hm : m.Canon) : (m.freeResult p idx).Canon := by
  unfold Mach.freeResult
  split
  · simp [hm]
  · exact hm

@[simp] theorem Mach.freeHome_canon (dev p : Nat) (e : HEnt) (hm : m.Canon) : (m.freeHome dev p e).Canon := by
  unfold Mach.freeHome
  dsimp only
  split <;> simp [hm]

@[simp] theorem Mach.homeState_canon (dev p : Nat) (h : Handle) (st : HState) (hm : m.Canon) : (m.homeState dev p h st).Canon := by
  unfold Mach.homeState
  dsimp only
  split
  · exact hm
  · simp [hm]

@[simp] theorem Mach.tellHome_canon (dev p : Nat) (h : Handle) (st : HState) (hm : m.Canon) : (m.tellHome dev p h st).Canon := by
  simp [Mach.tellHome, hm]

@[simp] theorem Mach.endInvocation_canon (dev p entry : Nat) (st : HState) (hm : m.Canon) : (m.endInvocation dev p entry st).Canon := by
  unfold Mach.endInvocation
  dsimp only
  split
  · exact hm
  · simp [hm]

@[simp] theorem Mach.freeLaunch_canon (dev p l : Nat) (hm : m.Canon) : (m.freeLaunch dev p l).Canon := by
  simp +contextual [Mach.freeLaunch, hm]

@[simp] theorem Mach.leavePort_canon (r : FRef) (k : Nat) (hm : m.Canon) : (m.leavePort r k).Canon := by
  unfold Mach.leavePort
  dsimp only
  split
  · simp [hm]
  · exact hm

@[simp] theorem Mach.bumpPort_canon (r : FRef) (hm : m.Canon) : (m.bumpPort r).Canon := by
  unfold Mach.bumpPort
  dsimp only
  split
  · simp [hm]
  · exact hm

@[simp] theorem Mach.dropCounters_canon (core quad : Nat) : (m.dropCounters core quad).Canon ↔ m.Canon := Mach.canon_congr rfl rfl rfl rfl

@[simp] theorem Mach.toPending_canon (t g : Nat) (hm : m.Canon) : (m.toPending t g).Canon := by
  simp [Mach.toPending, hm]

@[simp] theorem Mach.setLatch_canon (r : FRef) (k : Nat) (p : Word) (vals : List (Nat × Word)) : (m.setLatch r k p vals).Canon ↔ m.Canon := Mach.canon_congr rfl rfl rfl rfl
@[simp] theorem Mach.clearLatches_canon (r : FRef) (p : Word) : (m.clearLatches r p).Canon ↔ m.Canon := Mach.canon_congr rfl rfl rfl rfl
@[simp] theorem Mach.addOutst_canon (c : Ctx) (ws : List (Nat × Nat × Word)) (lat : List (Nat × Word)) : (m.addOutst c ws lat).Canon ↔ m.Canon := Mach.canon_congr rfl rfl rfl rfl
@[simp] theorem Mach.deliverOutst_canon (o : Outst) : (m.deliverOutst o).Canon ↔ m.Canon := Mach.canon_congr rfl rfl rfl rfl

@[simp] theorem Mach.settleLatches_canon (r : FRef) (hm : m.Canon) : (m.settleLatches r).Canon := by
  simp +contextual [Mach.settleLatches, hm]

@[simp] theorem Mach.woken_canon (m0 : Mach) (t g : Nat) (hm : m.Canon) : (m.woken m0 t g).Canon := by
  unfold Mach.woken
  split <;> simp [hm]

@[simp] theorem Mach.advance_canon (r : FRef) (pc' : DWord) (ends : Bool) (hm : m.Canon) : (m.advance r pc' ends).Canon := by
  unfold Mach.advance
  split
  · exact hm
  · simp [hm]

@[simp] theorem Mach.waitAt_canon (r : FRef) (i : Instr) (why : Why) (hm : m.Canon) : (m.waitAt r i why).Canon := by
  simp [Mach.waitAt, hm]

@[simp] theorem Mach.passWait_canon (r : FRef) (hm : m.Canon) : (m.passWait r).Canon := by
  unfold Mach.passWait
  split
  · exact hm
  · split
    · exact hm
    · simp [hm]

@[simp] theorem Mach.completeWait_canon (r : FRef) (ws : List (Nat × Nat × Word)) (lat : List (Nat × Word)) (hm : m.Canon) : (m.completeWait r ws lat).Canon := by
  unfold Mach.completeWait
  split
  · exact hm
  · split
    · exact hm
    · simp [hm]

@[simp] theorem Mach.endWait_canon (r : FRef) (hm : m.Canon) : (m.endWait r).Canon := by
  simp [Mach.endWait, hm]

@[simp] theorem Mach.askAgain_canon (r : FRef) (hm : m.Canon) : (m.askAgain r).Canon := by
  simp [Mach.askAgain, hm]

@[simp] theorem Mach.endYields_canon (t : Nat) (hm : m.Canon) : (m.endYields t).Canon := by
  simp +contextual [Mach.endYields, hm]

@[simp] theorem Mach.clubarLevel_canon (c : Nat) (die : Option Nat) (hm : m.Canon) : (m.clubarLevel c die).Canon := by
  unfold Mach.clubarLevel
  dsimp only
  split
  · exact hm
  · simp +contextual [hm]

@[simp] theorem Mach.clubarCheck_canon (c : Nat) (hm : m.Canon) : (m.clubarCheck c).Canon := by
  simp +contextual [Mach.clubarCheck, hm]

@[simp] theorem Mach.noticeCheck_canon (l c : Nat) (hm : m.Canon) : (m.noticeCheck l c).Canon := by
  simp [Mach.noticeCheck, hm]

@[simp] theorem Mach.breakHeld_canon (t g cause : Nat) (hm : m.Canon) : (m.breakHeld cf t g cause).Canon := by
  unfold Mach.breakHeld
  split
  · split
    · simp [hm]
    · exact hm
  · exact hm

@[simp] theorem Mach.forget_canon (src xid : Nat) : (m.forget src xid).Canon ↔ m.Canon := Mach.canon_congr rfl rfl rfl rfl

@[simp] theorem Mach.dropChecks_canon (dev : Nat) (p : FabPend) (hm : m.Canon) : (m.dropChecks dev p).Canon := by
  simp [Mach.dropChecks, hm]

@[simp] theorem Mach.endAsks_canon (dev t g : Nat) (hm : m.Canon) : (m.endAsks dev t g).Canon := by
  simp +contextual [Mach.endAsks, hm]

@[simp] theorem Mach.endGroup_canon (t g : Nat) (hm : m.Canon) : (m.endGroup cf t g).Canon := by
  unfold Mach.endGroup
  split
  · exact hm
  · split
    · exact hm
    · extract_lets fs m1 m2 m3 m4 m5
      have h1 : m1.Canon := canon_foldl (fun m x h => by simp [h]) _ hm
      have h2 : m2.Canon := by simp [m2, h1]
      have h3 : m3.Canon := canon_foldl (fun m x h => by simp [h]) _ h2
      have h4 : m4.Canon := by simp [m4, h3]
      have h5 : m5.Canon := by simp [m5, h4]
      simp [h5]

@[simp] theorem Mach.stopLaunch_canon (t g cause : Nat) (hm : m.Canon) : (m.stopLaunch cf t g cause).Canon := by
  unfold Mach.stopLaunch
  split
  · exact hm
  · simp [hm]

@[simp] theorem Mach.writeFrame_canon (leaf : Point) (t off : Nat) (bs : List Byte) (hm : m.Canon) : (m.writeFrame leaf t off bs).Canon := by
  simp +contextual [Mach.writeFrame, hm]

@[simp] theorem Mach.takeTrap_canon (c : Ctx) (x : Trap) (hm : m.Canon) : (m.takeTrap cf c x).Canon := by
  unfold Mach.takeTrap
  extract_lets r m1 m2
  split
  · simp [hm]
  · split
    · exact hm
    · extract_lets m3 waited m4 m5 m6
      have h1 : m1.Canon := by simp [m1, hm]
      have h2 : m2.Canon := by simp [m2, h1]
      have h3 : m3.Canon := by simp [m3, h2]
      have h4 : m4.Canon := by simp [m4, h3]
      have h5 : m5.Canon := by simp [m5, h4]
      have h6 : m6.Canon := canon_foldl (fun m x h => by simp [h]) _ h5
      simp [h6]

@[simp] theorem resultLate_canon (c : Ctx) (d : Dst) (vals : List (Nat × Word)) (hm : m.Canon) : (resultLate m c d vals).mach.Canon := by
  unfold resultLate
  split
  · simp [hm]
  · exact hm

@[simp] theorem pairLate_canon (c : Ctx) (d : Dst) (vals : List (Nat × DWord)) (hm : m.Canon) : (pairLate m c d vals).mach.Canon := by
  unfold pairLate
  dsimp only
  split
  · simp [hm]
  · exact hm

@[simp] theorem Mach.settle_canon (c : Ctx) (i : Instr) {r : Res} (hr : r.mach.Canon) : (Mach.settle cf c i r).Canon := by
  cases r <;> simp_all [Mach.settle]

@[simp] theorem Mach.resolve_canon (c : Ctx) {r : Res} (hr : r.mach.Canon) : (Mach.resolve cf c r).Canon := by
  cases r <;> simp_all [Mach.resolve]

@[simp] theorem Mach.restoreFrame_canon (c : Ctx) (fr : List Byte) (pc : Nat) (midrun : Bool) (hm : m.Canon) : (m.restoreFrame c fr pc midrun).Canon := by
  simp [Mach.restoreFrame, hm]

@[simp] theorem eretBody_canon (c : Ctx) (hm : m.Canon) : (eretBody cf m c).mach.Canon := by
  unfold eretBody
  split
  · exact hm
  · extract_lets r m1 rd fr m2 flags resume pos
    have h1 : m1.Canon := by simp [m1, hm]
    have h2 : m2.Canon := Mach.readHome_canon _ _ _ _ _ h1
    split
    · exact h1
    · split
      · exact h2
      · split
        · exact h2
        · extract_lets pc
          split
          · exact h2
          · simp [h2]

@[simp] theorem Mach.post_canon (q : Nat) (k : Compl) : (m.post q k).Canon ↔ m.Canon := Mach.canon_congr rfl rfl rfl rfl
@[simp] theorem Mach.notify_canon (rg : Region) (status sub addr : Nat) : (m.notify rg status sub addr).Canon ↔ m.Canon := Mach.canon_congr rfl rfl rfl rfl

@[simp] theorem Mach.normCheck_canon (r : Nat) (hm : m.Canon) : (m.normCheck r).Canon := by
  unfold Mach.normCheck
  split
  · exact hm
  · simp [hm]

@[simp] theorem Mach.diverge_canon (rg : Region) (k : Nat) (hm : m.Canon) : ∀ x ∈ m.diverge rg k, x.2.2.Canon := by
  unfold Mach.diverge
  split
  · simp [hm]
  · split <;> simp [hm]

@[simp] theorem Mach.readRegionReg_canon (p x j k : Nat) (hm : m.Canon) : (m.readRegionReg p x j k).2.Canon := by
  unfold Mach.readRegionReg
  split
  · exact hm
  · split
    · simp [hm]
    · exact hm
    · exact hm
    · exact hm
    · exact hm
    · exact hm
    · exact hm

@[simp] theorem Mach.writeThr_canon (p x k : Nat) (hi : Bool) (v : Nat) (hm : m.Canon) : (m.writeThr p x k hi v).Canon := by
  unfold Mach.writeThr
  dsimp only
  split
  · exact hm
  · simp [hm]

@[simp] theorem Mach.putPhys_canon (pt : Part) (a : Nat) (bs : List Byte) (hm : m.Canon) : (m.putPhys pt a bs).Canon := by
  unfold Mach.putPhys
  refine canon_foldl (fun m x h1 => ?_) _ ?_
  · split
    · simp [hm, h1]
    · exact h1
  · exact hm

@[simp] theorem winVm_canon (p : Nat) (e : WinEnt) (va : Nat) (cls : Cls) (hm : m.Canon) : (winVm cf m p e va cls).2.Canon := by
  unfold winVm
  dsimp only
  split
  · exact hm
  · split
    · exact hm
    · split
      · rename_i e1
        have k1 := canon_of_snd e1 (by simp [hm])
        exact k1
      · rename_i e1
        have k1 := canon_of_snd e1 (by simp [hm])
        split
        · exact k1
        · split
          · simp [hm, k1]
          · exact k1
          · exact k1

@[simp] theorem winAccess_canon (p off n : Nat) (cls : Cls) (hm : m.Canon) : (winAccess cf m p off n cls).2.Canon := by
  unfold winAccess
  split
  · exact hm
  · split
    · exact hm
    · split
      · exact hm
      · split
        · exact hm
        · simp [hm]

@[simp] theorem Mach.orFlags_canon (c : Ctx) (f : Word) : (m.orFlags c f).Canon ↔ m.Canon := Mach.canon_congr rfl rfl rfl rfl
@[simp] theorem laneWord_canon (c : Ctx) (d : Dst) (f : Nat → Word) : (laneWord m c d f).mach.Canon ↔ m.Canon := Mach.canon_congr rfl rfl rfl rfl
@[simp] theorem lanePair_canon (c : Ctx) (d : Dst) (f : Nat → DWord) : (lanePair m c d f).mach.Canon ↔ m.Canon := Mach.canon_congr rfl rfl rfl rfl

@[simp] theorem Mach.wrDstCond_canon (c : Ctx) (d : Dst) (vals : List (Nat × Bool)) (hm : m.Canon) : (m.wrDstCond c d vals).Canon := by
  unfold Mach.wrDstCond
  split
  · simp [hm]
  · exact hm

@[simp] theorem laneCond_canon (c : Ctx) (d : Dst) (f : Nat → Bool) (hm : m.Canon) : (laneCond m c d f).mach.Canon := by
  simp [laneCond, hm]

@[simp] theorem laneFlags_canon (c : Ctx) (d : Dst) (f : Nat → Word × Word) : (laneFlags m c d f).mach.Canon ↔ m.Canon := Mach.canon_congr rfl rfl rfl rfl
@[simp] theorem bin_canon (d : Dst) (a b : Src) (f : Word → Word → Word) (c : Ctx) : (bin d a b f cf m c).mach.Canon ↔ m.Canon := Mach.canon_congr rfl rfl rfl rfl
@[simp] theorem tri_canon (d : Dst) (a b : Src) (f : Word → Word → Word → Word) (c : Ctx) : (tri d a b f cf m c).mach.Canon ↔ m.Canon := Mach.canon_congr rfl rfl rfl rfl
@[simp] theorem una_canon (d : Dst) (a : Src) (f : Word → Word) (c : Ctx) : (una d a f cf m c).mach.Canon ↔ m.Canon := Mach.canon_congr rfl rfl rfl rfl

@[simp] theorem cmp_canon (d : Dst) (a b : Src) (f : Word → Word → Bool) (c : Ctx) (hm : m.Canon) : (cmp d a b f cf m c).mach.Canon := by
  simp [cmp, hm]

@[simp] theorem binF_canon (ty : FType) (d : Dst) (a b : Src) (op : Fmt → Nat → Nat → Nat × Word) (c : Ctx) : (binF ty d a b op cf m c).mach.Canon ↔ m.Canon := Mach.canon_congr rfl rfl rfl rfl
@[simp] theorem triF_canon (ty : FType) (d : Dst) (a b : Src) (op : Fmt → Nat → Nat → Nat → Nat × Word) (c : Ctx) : (triF ty d a b op cf m c).mach.Canon ↔ m.Canon := Mach.canon_congr rfl rfl rfl rfl
@[simp] theorem unaF_canon (d : Dst) (a : Src) (op : Word → Word × Word) (c : Ctx) : (unaF d a op cf m c).mach.Canon ↔ m.Canon := Mach.canon_congr rfl rfl rfl rfl

@[simp] theorem laneTriple_canon (c : Ctx) (d : Dst) (f : Nat → Triple × Bool) (hm : m.Canon) : (laneTriple m c d f).mach.Canon := by
  simp [laneTriple, hm]

@[simp] theorem Mach.setDirty_canon (c : Ctx) (ps : List Place) (hm : m.Canon) : (Mach.setDirty cf m c ps).Canon := by
  refine canon_foldl (fun m p h => ?_) _ hm
  cases p with
  | here a va =>
    dsimp -zeta only
    split
    · split
      · exact h
      · extract_lets e m1
        have h1 : m1.Canon := by
          unfold m1
          split <;> simp [h]
        simp [h1]
    · exact h
  | fab _ _ => exact h

@[simp] theorem Mach.enterMisses_canon (core p x : Nat) (blks : List Nat) (hm : m.Canon) : AllCanon (m.enterMisses core p x blks) := by
  simp [Mach.enterMisses, hm]

@[simp] theorem ownPlace_canon (part n : Nat) (cls : Cls) (p : Place) (hm : m.Canon) : (ownPlace cf m part n cls p).2.Canon := by
  unfold ownPlace
  split
  · split
    · split
      · rename_i e1
        have k1 := canon_of_snd e1 (by simp [hm])
        exact k1
      · rename_i e1
        have k1 := canon_of_snd e1 (by simp [hm])
        exact k1
      · rename_i e1
        have k1 := canon_of_snd e1 (by simp [hm])
        exact k1
      · rename_i e1
        have k1 := canon_of_snd e1 (by simp [hm])
        exact k1
      · rename_i e1
        have k1 := canon_of_snd e1 (by simp [hm])
        exact k1
    · exact hm
  · exact hm

@[simp] theorem ownPlaces_canon (part : Nat) (cls : Cls) (ps : List (Req × Place)) (hm : m.Canon) : (ownPlaces cf m part cls ps).2.Canon := by
  simp +contextual [ownPlaces, hm]

@[simp] theorem failTrap_canon (bad : List (Req × Nat × Nat)) (hm : m.Canon) : (failTrap m bad).mach.Canon := by
  unfold failTrap
  split <;> exact hm

/-- The places an instruction's checked accesses go to, whether or not it asks where this device's own windows lead. -/
theorem ownPlaces_or_self_canon (reads : Bool) (p : Nat) (cls : Cls) (qs : List (Req × Place)) (hm : m.Canon) :
    (if reads then ownPlaces cf m p cls qs else (qs.map (fun q => (q.1, .ok q.2)), m)).2.Canon := by
  split <;> simp [hm]

theorem withPlaces_canon {c : Ctx} {scr : Bool} {cls : Cls} {reads : Bool} {qs : List Req} {go : List (Req × Place) → Mach → Res}
    (hgo : ∀ ps n, n.Canon → (go ps n).mach.Canon) (hm : m.Canon) : (withPlaces cf m c scr cls reads qs go).mach.Canon := by
  unfold withPlaces
  dsimp only
  split
  · split
    · rename_i e
      have k := canon_of_some e (by simp [hm])
      simp [k]
    · simp [hm]
  · split
    · simp [hm]
    · generalize hown : ite (reads = true) _ _ = own
      have k : own.2.Canon := hown ▸ ownPlaces_or_self_canon reads _ _ _ hm
      split
      · simp [k]
      · split
        · simp [k]
        · split
          · exact k
          · exact hgo _ _ (by split <;> simp [k])

@[simp] theorem Mach.before_canon (leaf : Point) (part : Nat) (sc : Scope) (rd wr : Bool) (ps : List (Req × Place)) (hm : m.Canon) : (m.before leaf part sc rd wr ps).Canon := by
  unfold Mach.before
  dsimp only
  split
  · refine canon_foldl (fun m x h1 => ?_) _ ?_
    · simp +contextual [hm, h1]
    · split
      · refine canon_foldl (fun m x h1 => ?_) _ ?_
        · split <;> simp [hm, h1]
        · exact hm
      · exact hm
  · split
    · refine canon_foldl (fun m x h1 => ?_) _ ?_
      · split <;> simp [hm, h1]
      · exact hm
    · exact hm

@[simp] theorem Mach.after_canon (leaf : Point) (sc : Scope) (rd : Bool) (hm : m.Canon) : (m.after leaf sc rd).Canon := by
  simp [Mach.after, hm]

theorem afterWrites_canon {c : Ctx} {ws : List Nat} {go : Mach → Res} (hgo : ∀ n, n.Canon → (go n).mach.Canon) (hm : m.Canon) :
    (afterWrites m c ws go).mach.Canon := by
  unfold afterWrites
  split
  · exact hgo m hm
  · simp [hm]

@[simp] theorem fabAsk_canon (c : Ctx) (ps : List (Req × Place)) (asked : Req × Place → Bool) (acc : Req → Nat → Nat × FabAcc) (inst : List Point) (blk : List Byte) (atom : Option (AtomOp × Scope × Bool)) (phase : FabPhase) (sync : Bool) (hm : m.Canon) : (fabAsk cf m c ps asked acc inst blk atom phase sync).mach.Canon := by
  simp [fabAsk, hm]

@[simp] theorem Mach.acqPush_canon (w : Way) (part : Nat) (ps : List (Req × Place)) (hm : m.Canon) : (m.acqPush w part ps).Canon := by
  unfold Mach.acqPush
  dsimp only
  split
  · refine canon_foldl (fun m x h1 => ?_) _ ?_
    · split
      · simp [hm, h1]
      · exact h1
    · exact hm
  · exact hm

@[simp] theorem loaded_canon (c : Ctx) (sz : Size) (d : Nat) (vals : List (Nat × List Byte)) : (loaded m c sz d vals).mach.Canon ↔ m.Canon := Mach.canon_congr rfl rfl rfl rfl

@[simp] theorem readLanes_canon (w : Way) (p : Nat) (qs : List (Req × Place)) (hm : m.Canon) : (readLanes cf m w p qs).2.Canon := by
  unfold readLanes
  refine canon_foldl_snd (fun r x h1 => ?_) _ ?_
  · dsimp only
    split <;> simp [hm, h1]
  · exact hm

theorem readPlaces_canon {c : Ctx} {w : Way} {blk : List Byte} {ps : List (Req × Place)} {go : Mach → List (Nat × List Byte) → Res}
    (hgo : ∀ n vs, n.Canon → (go n vs).mach.Canon) (hm : m.Canon) : (readPlaces cf m c w blk ps go).mach.Canon := by
  refine afterWrites_canon (fun n h => ?_) hm
  dsimp only
  split
  · simp [h]
  · exact hgo _ _ (by simp [h])

@[simp] theorem loadBody_canon (c : Ctx) (scr : Bool) (sz : Size) (sc : Scope) (d : Nat) (qs : List Req) (hm : m.Canon) : (loadBody cf m c scr sz sc d qs).mach.Canon :=
  withPlaces_canon (fun ps n h => readPlaces_canon (fun n vs k => by simp [k]) (by simp [h])) hm

@[simp] theorem Mach.parkStores_canon (c : Ctx) (xid : Nat) (sync : Bool) (data : Req → List Byte) (rs : List (Req × Except (Nat × Nat) Place)) : (m.parkStores cf c xid sync data rs).Canon ↔ m.Canon := Mach.canon_congr rfl rfl rfl rfl

@[simp] theorem storeLanes_canon (c : Ctx) (sc : Scope) (kind : WKind) (data : Req → List Byte) (ps : List (Req × Place)) (hm : m.Canon) : (storeLanes cf m c sc kind data ps).Canon := by
  unfold storeLanes
  extract_lets id own m0 m1 m2
  have hid : id.2.Canon := by simp [id, hm]
  have hown : own.2.Canon := by simp [own, hid]
  have h1 : m1.Canon := by
    unfold m1
    split <;> simp [m0, hown, hm]
  have h2 : m2.Canon := by simp [m2, h1]
  refine Mach.storesAnswered_canon (canon_foldl (fun m x h => ?_) _ h2)
  split
  · exact h
  · dsimp only
    split <;> [skip; split] <;> simp [h]

@[simp] theorem storeBody_canon (c : Ctx) (scr : Bool) (sc : Scope) (kind : WKind) (data : Nat → List Byte) (qs : List Req) (hm : m.Canon) : (storeBody cf m c scr sc kind data qs).mach.Canon := by
  unfold storeBody
  refine withPlaces_canon (fun ps n h1 => ?_) ?_
  · refine afterWrites_canon (fun n h2 => ?_) ?_
    · simp [hm, h1, h2]
    · exact h1
  · exact hm

@[simp] theorem Mach.pushGranules_canon (leaf : Point) (gs : List (Nat × Nat)) (hm : m.Canon) : (m.pushGranules leaf gs).Canon := by
  simp +contextual [Mach.pushGranules, hm]

@[simp] theorem takeGranules_canon (c : Ctx) (sc : Scope) (empty : Bool) (ps : List (Req × Place)) (hm : m.Canon) : (takeGranules m c sc empty ps).2.Canon := by
  unfold takeGranules
  extract_lets m1 vals m2 m3
  have h1 : m1.Canon := by simp [m1, hm]
  have h2 : m2.Canon := by
    refine canon_foldl (fun m x h => ?_) _ h1
    split <;> simp [h]
  have h3 : m3.Canon := by
    unfold m3
    split
    · exact canon_foldl (fun m x h => by simp [h]) _ h2
    · exact h2
  simp [h3]

@[simp] theorem feBody_canon (c : Ctx) (sz : Size) (sc : Scope) (d : Nat) (empty : Bool) (qs : List Req) (hm : m.Canon) : (feBody cf m c sz sc d empty qs).mach.Canon := by
  refine withPlaces_canon (fun ps n h => ?_) hm
  dsimp only
  have k : ((n.before c.leaf c.la.p sc true false ps).pushGranules c.leaf (granules ps)).Canon := by simp [h]
  split <;> simp [k]

@[simp] theorem fullEmptyTake_canon (r : FRef) (hm : m.Canon) : (fullEmptyTake cf m r).Canon := by
  unfold fullEmptyTake
  split
  · split
    · split
      · extract_lets m1 t
        have h1 : m1.Canon := by simp [m1, hm]
        have ht : t.2.Canon := by simp [t, h1]
        split
        · simp [h1]
        · simp [ht]
      · exact hm
    · exact hm
  · exact hm

@[simp] theorem feTimeout_canon (r : FRef) (hm : m.Canon) : (feTimeout cf m r).Canon := by
  unfold feTimeout
  dsimp only
  split
  · split
    · split
      · split
        · simp [hm]
        · exact hm
      · exact hm
    · exact hm
  · exact hm

@[simp] theorem Mach.atomHere_canon (leaf : Point) (sc : Scope) (a : Acc) (n : Nat) (f : List Byte → Option (List Byte)) (hm : m.Canon) : (m.atomHere leaf sc a n f).2.Canon := by
  simp [Mach.atomHere, hm]

@[simp] theorem atomLane_canon (leaf : Point) (op : AtomOp) (sc : Scope) (dbl : Bool) (o : DWord × DWord) (q : Req) (a : Acc) (hm : m.Canon) : (atomLane leaf op sc dbl o m q a).2.Canon := by
  simp [atomLane, hm]

@[simp] theorem atomLanes_canon (m0 : Mach) (c : Ctx) (op : AtomOp) (sc : Scope) (dbl : Bool) (d : Nat) (ps : List (Req × Place)) (hm : m.Canon) :
    (atomLanes m0 c op sc dbl d m ps).2.Canon := by
  refine canon_foldl_snd (fun r q h => ?_) _ hm
  split <;> simp [h]

@[simp] theorem atomBody_canon (c : Ctx) (scr : Bool) (op : AtomOp) (sc : Scope) (dbl : Bool) (d : Nat) (qs : List Req) (hm : m.Canon) : (atomBody cf m c scr op sc dbl d qs).mach.Canon := by
  refine withPlaces_canon (fun ps n h => afterWrites_canon (fun n h => ?_) h) hm
  extract_lets m1 r
  have h1 : m1.Canon := by simp [m1, h]
  have hr : r.2.Canon := atomLanes_canon _ _ _ _ _ _ _ h1
  split
  · simp [h1]
  · simp [hr]

@[simp] theorem Mach.prefLines_canon (p : Nat) (a : Acc) (va : Nat) (hm : m.Canon) : (m.prefLines cf p a va).Canon := by
  unfold Mach.prefLines
  dsimp only
  split
  · exact hm
  · split <;> simp [hm]

@[simp] theorem prefLane_canon (c : Ctx) (xlate : Bool) (q : Req) (hm : m.Canon) : (prefLane cf m c xlate q).Canon := by
  unfold prefLane
  split
  · split
    · exact hm
    · split
      · rename_i e1
        have k1 := canon_of_snd e1 (by simp [hm])
        split
        · simp [hm, k1]
        · exact hm
      · simp [hm]
  · exact hm

@[simp] theorem missQueueEnter_canon (r : FRef) (hm : m.Canon) : (missQueueEnter cf m r).Canon := by
  unfold missQueueEnter
  split
  · exact hm
  · split
    · split
      · rename_i e1
        have k1 := canon_of_some e1 (by simp [hm])
        simp [hm, k1]
      · exact hm
    · exact hm

@[simp] theorem Mach.deliverWalk_canon (core p x : Nat) (done : List (Nat × Xl)) (hm : m.Canon) : (m.deliverWalk core p x done).Canon := by
  simp +contextual [Mach.deliverWalk, hm]

@[simp] theorem pageWalk_canon (core idx : Nat) (hm : m.Canon) : (pageWalk cf m core idx).Canon := by
  unfold pageWalk
  split
  · exact hm
  · rename_i q _
    extract_lets die
    have k : ∀ x ∈ (match m.tlbGet (.die die) q.p q.x q.vpn with
      | some l => some (Xl.ok l, m)
      | none => if walkersOf cf q.p die = 0 then none else some (walkAt cf m die q.p q.x (q.vpn * 65536))), x.2.Canon := by
      split
      · simp [hm]
      · split <;> simp [hm]
    split
    · exact hm
    · rename_i e
      have := k _ e
      simp_all
    · rename_i e
      have := k _ e
      simp_all

@[simp] theorem longLatencyComplete_canon (id : Nat) (hm : m.Canon) : (longLatencyComplete cf m id).Canon := by
  unfold longLatencyComplete
  dsimp only
  split
  · exact hm
  · simp [hm]

@[simp] theorem Mach.endDrains_canon  (hm : m.Canon) : (m.endDrains).Canon := by
  unfold Mach.endDrains
  refine canon_foldl (fun m x h1 => ?_) _ ?_
  · split
    · simp [hm, h1]
    · exact h1
  · exact hm

@[simp] theorem Mach.setBar_canon (t b : Nat) (x : Bar) : (m.setBar t b x).Canon ↔ m.Canon := Mach.canon_congr rfl rfl rfl rfl

@[simp] theorem Mach.releaseBar_canon (f : Fibre) (hm : m.Canon) : (m.releaseBar f).Canon := by
  unfold Mach.releaseBar
  dsimp only
  split <;> simp [hm]

@[simp] theorem Mach.arriveBar_canon (t b : Nat) (hm : m.Canon) : (m.arriveBar t b).2.Canon := by
  unfold Mach.arriveBar
  dsimp only
  split
  · exact hm
  · split
    · simp +contextual [hm]
    · simp [hm]

@[simp] theorem Mach.cwDone_canon (leaf : Point) (sc : Scope) (sp : Space) (addr : Nat) (hm : m.Canon) : (m.cwDone leaf sc sp addr).Canon := by
  simp [Mach.cwDone, hm]

@[simp] theorem cwRead_canon (c : Ctx) (a : Acc) (va : Nat) (hm : m.Canon) : (cwRead cf m c a va).2.Canon := by
  simp [cwRead, hm]

@[simp] theorem cwAsk_canon (c : Ctx) (ps : List (Req × Place)) (hm : m.Canon) : (cwAsk cf m c ps).mach.Canon := by
  have k : (afterWrites m c (m.fabBefore c.leaf c.la.p true ps) (fun m => fabAsk cf m c ps (fun q => anyFab [q]) (fun q off => (off, .read q.n)) [] [] none .whole false)).mach.Canon :=
    afterWrites_canon (fun n h => by simp [h]) hm
  unfold cwAsk
  split
  · rename_i e
    rw [e] at k
    exact k
  · exact k

@[simp] theorem cwBody_canon (c : Ctx) (i : Instr) (hm : m.Canon) : (cwBody cf m c i).mach.Canon := by
  unfold cwBody
  split
  · exact hm
  · refine withPlaces_canon (fun ps n h => ?_) hm
    dsimp only
    split
    · rename_i q _ _ a va _
      have k : (cwRead cf n c a va).2.Canon := by simp [h]
      split
      · simp [k]
      · split <;> simp [k]
    · simp [h]

@[simp] theorem cwAcc_canon (c : Ctx) (a : Nat) (leaf : Option Leaf) (hm : m.Canon) : (cwAcc cf m c a leaf).2.Canon := by
  unfold cwAcc
  split
  · exact hm
  · exact hm
  · split
    · rename_i e1
      have k1 := canon_of_snd e1 (by simp [hm])
      exact k1
    · rename_i e1
      have k1 := canon_of_snd e1 (by simp [hm])
      exact k1
    · rename_i e1
      have k1 := canon_of_snd e1 (by simp [hm])
      exact k1
  · exact hm

@[simp] theorem Mach.cwComplete_canon (c : Ctx) (d : Dst) (v : Nat) (hm : m.Canon) : (m.cwComplete c d v).Canon := by
  simp [Mach.cwComplete, hm]

@[simp] theorem cwLook_canon (c : Ctx) (i : Instr) (leaf : Option Leaf) (last : Bool) (hm : m.Canon) : (cwLook cf m c i leaf last).Canon := by
  unfold cwLook
  split
  · exact hm
  · rename_i q _
    have k : (cwAcc cf m c q.a leaf).2.Canon := by simp [hm]
    dsimp only
    split
    · exact canon_of_snd ‹_› k
    · have := canon_of_snd ‹_› k
      split <;> simp [this]
    · rename_i a va n e
      have h := canon_of_snd e k
      split
      · simp [h]
      · split
        · simp [h]
        · have hx : ∀ u v, (cwRead cf (n.undelay u v) c a va).2.Canon := by simp [h]
          split
          · simp [hx]
          · split <;> simp [hx]

@[simp] theorem cwaitComplete_canon (r : FRef) (hm : m.Canon) : (cwaitComplete cf m r).Canon := by
  unfold cwaitComplete
  split
  · simp [hm]
  · exact hm

@[simp] theorem cwaittBound_canon (r : FRef) (hm : m.Canon) : (cwaittBound cf m r).Canon := by
  unfold cwaittBound
  split
  · simp [hm]
  · exact hm

@[simp] theorem cwAnswer_canon (c : Ctx) (w : Wait) (ps : List (Req × Place)) (v : Nat) (hm : m.Canon) : (cwAnswer cf m c w ps v).Canon := by
  unfold cwAnswer
  split
  · extract_lets m1
    have h1 : m1.Canon := by
      refine canon_foldl (fun m x h => ?_) _ hm
      split <;> simp [h]
    split
    · simp [h1]
    · split
      · simp [h1]
      · simp [h1]
  · exact hm

@[simp] theorem Mach.tokIdle_canon (c : Ctx) (k : Nat) (t : Tok) : (m.tokIdle c k t).Canon ↔ m.Canon := Mach.canon_congr rfl rfl rfl rfl

@[simp] theorem fwaitComplete_canon (r : FRef) (hm : m.Canon) : (fwaitComplete cf m r).Canon := by
  unfold fwaitComplete
  dsimp only
  split
  · simp [hm]
  · exact hm

@[simp] theorem readSpecial_canon (c : Ctx) (n : Nat) (hm : m.Canon) : (readSpecial cf m c n).2.Canon := by
  unfold readSpecial
  dsimp only
  split
  · exact hm
  · exact hm
  · exact hm
  · exact hm
  · exact hm
  · exact hm
  · exact hm
  · exact hm
  · exact hm
  · exact hm
  · exact hm
  · exact hm
  · exact hm
  · exact hm
  · simp [hm]
  · exact hm
  · exact hm
  · split
    · simp [hm]
    · exact hm

@[simp] theorem writeSpecial_canon (c : Ctx) (n : Nat) (v : Word) (hm : m.Canon) : (writeSpecial m c n v).Canon := by
  unfold writeSpecial
  dsimp only
  split <;> simp [hm]

theorem blockBody_canon {c : Ctx} {a n w align : Nat} {use : Mach → List Byte → Res} (huse : ∀ n bs, n.Canon → (use n bs).mach.Canon) (hm : m.Canon) :
    (blockBody cf m c a n w align use).mach.Canon := by
  unfold blockBody
  dsimp only
  split
  · exact hm
  · exact withPlaces_canon (fun ps n h => readPlaces_canon (fun n vs k => huse n _ k) h) hm

@[simp] theorem Mach.setCodebook_canon (t g : Nat) (bs : List Byte) : (m.setCodebook t g bs).Canon ↔ m.Canon := Mach.canon_congr rfl rfl rfl rfl
@[simp] theorem Mach.setPair_canon (core slot : Nat) (img : List Byte) : (m.setPair core slot img).Canon ↔ m.Canon := Mach.canon_congr rfl rfl rfl rfl

@[simp] theorem fillLine_canon (c : Ctx) (line : Nat) (hm : m.Canon) : (fillLine cf m c line).2.Canon := by
  unfold fillLine
  split
  · rename_i e1
    have k1 := canon_of_snd e1 (by simp [hm])
    exact k1
  · rename_i e1
    have k1 := canon_of_snd e1 (by simp [hm])
    exact k1

@[simp] theorem Mach.updLine_canon (c : Ctx) (line : Nat) (f : ILine → ILine) : (m.updLine c line f).Canon ↔ m.Canon := Mach.canon_congr rfl rfl rfl rfl

@[simp] theorem pinLine_canon (c : Ctx) (line : Nat) (hm : m.Canon) : (pinLine m c line).2.Canon := by
  unfold pinLine
  split
  · exact hm
  · split
    · simp [hm]
    · exact hm

@[simp] theorem cwbPiece_canon (c : Ctx) (form : CwbForm) (s : Nat) (sp : Space) (addr n : Nat) (hm : m.Canon) : (cwbPiece m c form s sp addr n).Canon := by
  unfold cwbPiece
  split <;> simp [hm]

@[simp] theorem Mach.setOp_canon (o : Op) : (m.setOp o).Canon ↔ m.Canon := Mach.canon_congr rfl rfl rfl rfl

@[simp] theorem Mach.beginOp_canon (o : Op) (hm : m.Canon) : (m.beginOp o).Canon := by
  simp [Mach.beginOp, hm]

@[simp] theorem Mach.finish_canon (o : Op) (status sub : Nat) (addr : DWord) : (m.finish o status sub addr).Canon ↔ m.Canon := Mach.canon_congr rfl rfl rfl rfl
@[simp] theorem Mach.finishBad_canon (o : Op) (sub : Nat) (addr : DWord) : (m.finishBad o sub addr).Canon ↔ m.Canon := Mach.canon_congr rfl rfl rfl rfl
@[simp] theorem Mach.finishOk_canon (o : Op) : (m.finishOk o).Canon ↔ m.Canon := Mach.canon_congr rfl rfl rfl rfl
@[simp] theorem Mach.finishParam_canon (o : Op) : (m.finishParam o).Canon ↔ m.Canon := Mach.canon_congr rfl rfl rfl rfl

@[simp] theorem engPlace_canon (oc : OpCtx) (a n : Nat) (cls : Cls) (hm : m.Canon) : (engPlace cf m oc a n cls).2.Canon := by
  unfold engPlace
  dsimp only
  split
  · split
    · exact hm
    · split
      · rename_i e1
        have k1 := canon_of_snd e1 (by simp [hm])
        exact k1
      · rename_i e1
        have k1 := canon_of_snd e1 (by simp [hm])
        split
        · split
          · rename_i e2
            have k2 := canon_of_snd e2 (by simp [hm, k1])
            exact k2
          · rename_i e2
            have k2 := canon_of_snd e2 (by simp [hm, k1])
            exact k2
          · rename_i e2
            have k2 := canon_of_snd e2 (by simp [hm, k1])
            exact k2
          · rename_i e2
            have k2 := canon_of_snd e2 (by simp [hm, k1])
            exact k2
          · rename_i e2
            have k2 := canon_of_snd e2 (by simp [hm, k1])
            exact k2
        · exact k1
  · split
    · exact hm
    · split
      · rename_i e1
        have k1 := canon_of_snd e1 (by simp [hm])
        exact k1
      · rename_i e1
        have k1 := canon_of_snd e1 (by simp [hm])
        split
        · split
          · rename_i e2
            have k2 := canon_of_snd e2 (by simp [hm, k1])
            exact k2
          · rename_i e2
            have k2 := canon_of_snd e2 (by simp [hm, k1])
            exact k2
          · rename_i e2
            have k2 := canon_of_snd e2 (by simp [hm, k1])
            exact k2
          · rename_i e2
            have k2 := canon_of_snd e2 (by simp [hm, k1])
            exact k2
          · rename_i e2
            have k2 := canon_of_snd e2 (by simp [hm, k1])
            exact k2
        · exact k1

@[simp] theorem engAsk_canon (oc : OpCtx) (qs : List (Req × Place)) (hm : m.Canon) : (engAsk cf m oc qs).2.Canon := by
  unfold engAsk
  dsimp only
  split
  · exact hm
  · split
    · exact hm
    · simp [hm]

@[simp] theorem engPlaces_canon (oc : OpCtx) (pcs : List (Nat × Nat)) (cls : Cls) (hm : m.Canon) : (engPlaces cf m oc pcs cls).2.Canon := by
  unfold engPlaces
  refine canon_foldl_snd (fun r x h1 => ?_) _ ?_
  · split
    · split
      · rename_i e2
        have k2 := canon_of_snd e2 (by simp [hm, h1])
        exact k2
      · rename_i e2
        have k2 := canon_of_snd e2 (by simp [hm, h1])
        exact k2
      · rename_i e2
        have k2 := canon_of_snd e2 (by simp [hm, h1])
        exact k2
    · exact h1
  · exact hm

@[simp] theorem engReadAll_canon (oc : OpCtx) (pcs : List (Nat × Nat)) (hm : m.Canon) : (engReadAll cf m oc pcs).2.Canon := by
  unfold engReadAll
  dsimp only
  split
  · rename_i e1
    have k1 := canon_of_snd e1 (by simp [hm])
    exact k1
  · rename_i e1
    have k1 := canon_of_snd e1 (by simp [hm])
    exact k1
  · rename_i e1
    have k1 := canon_of_snd e1 (by simp [hm])
    split
    · simp [hm, k1]
    · split
      · simp [hm, k1]
      · split
        · split
          · simp +contextual [hm, k1]
          · split <;> simp [hm, k1]
        · simp +contextual [hm, k1]

@[simp] theorem engRead1_canon (oc : OpCtx) (a n : Nat) (hm : m.Canon) : (engRead1 cf m oc a n).2.Canon := by
  simp [engRead1, hm]

@[simp] theorem engRead_canon (oc : OpCtx) (a n : Nat) (hm : m.Canon) : (engRead cf m oc a n).2.Canon := by
  simp [engRead, hm]

@[simp] theorem engWrite1_canon (oc : OpCtx) (a : Nat) (bs : List Byte) (hm : m.Canon) : (engWrite1 cf m oc a bs).2.Canon := by
  unfold engWrite1
  dsimp only
  split
  · rename_i e1
    have k1 := canon_of_snd e1 (by simp [hm])
    exact k1
  · rename_i e1
    have k1 := canon_of_snd e1 (by simp [hm])
    exact k1
  · rename_i e1
    have k1 := canon_of_snd e1 (by simp [hm])
    split <;> simp [hm, k1]

@[simp] theorem engResolve_canon (oc : OpCtx) (ws : List (Nat × List Byte)) (hm : m.Canon) : (engResolve cf m oc ws).2.Canon := by
  unfold engResolve
  split
  · rename_i e1
    have k1 := canon_of_snd e1 (by simp [hm])
    exact k1
  · rename_i e1
    have k1 := canon_of_snd e1 (by simp [hm])
    exact k1
  · rename_i e1
    have k1 := canon_of_snd e1 (by simp [hm])
    exact k1

@[simp] theorem Mach.deliverAll_canon (leaf : Point) (ws : List (Acc × List Byte)) (hm : m.Canon) : (m.deliverAll leaf ws).Canon := by
  simp +contextual [Mach.deliverAll, hm]

@[simp] theorem engWord_canon (oc : OpCtx) (a : Nat) (cls : Cls) (hm : m.Canon) : (engWord cf m oc a cls).2.Canon := by
  unfold engWord
  dsimp only
  split
  · exact hm
  · split
    · rename_i e1
      have k1 := canon_of_snd e1 (by simp [hm])
      exact k1
    · rename_i e1
      have k1 := canon_of_snd e1 (by simp [hm])
      exact k1
    · rename_i e1
      have k1 := canon_of_snd e1 (by simp [hm])
      split
      · simp [hm, k1]
      · split
        · exact k1
        · simp [hm, k1]

@[simp] theorem Mach.engAdd_canon (leaf : Point) (ac : Acc) (n : Nat) (hm : m.Canon) : (m.engAdd leaf ac n).Canon := by
  simp [Mach.engAdd, hm]

@[simp] theorem Mach.setScale_canon (t off : Nat) (bs : List Byte) : (m.setScale t off bs).Canon ↔ m.Canon := Mach.canon_congr rfl rfl rfl rfl

@[simp] theorem Mach.engStop_canon (o : Op) (hm : m.Canon) : (m.engStop cf o).Canon := by
  simp [Mach.engStop, hm]

@[simp] theorem Mach.setTile_canon (t tile : Nat) (f : Nat → Nat → Word) : (m.setTile t tile f).Canon ↔ m.Canon := Mach.canon_congr rfl rfl rfl rfl

@[simp] theorem armFire_canon (oc : OpCtx) (cw thr : DWord) (hm : m.Canon) : (armFire cf m oc cw thr).Canon := by
  unfold armFire
  dsimp only
  split
  · rename_i e1
    have k1 := canon_of_snd e1 (by simp [hm])
    simp [hm, k1]
  · rename_i e1
    have k1 := canon_of_snd e1 (by simp [hm])
    exact k1
  · rename_i e1
    have k1 := canon_of_snd e1 (by simp [hm])
    simp [hm, k1]

@[simp] theorem Mach.atAccept_canon (tm : Team) (n : Nat) (cmd : Cmd) (hm : m.Canon) : (Mach.atAccept cf m tm n cmd).Canon := by
  unfold Mach.atAccept
  split
  · split
    · exact hm
    · dsimp only
      split
      · simp [hm]
      · split <;> simp [hm]
  · simp [hm]
  · simp [hm]
  · simp [hm]
  · exact hm

@[simp] theorem Mach.accept_canon (t g : Nat) (k : EngCtx) (cmd : Cmd) (blk : DWord) (hm : m.Canon) : (Mach.accept cf m t g k cmd blk).Canon := by
  unfold Mach.accept
  dsimp only
  split
  · exact hm
  · simp [hm]

@[simp] theorem enterCmd_canon (c : Ctx) (k : EngCtx) (cmd : Cmd) (blk : DWord) (hm : m.Canon) : (enterCmd cf m c k cmd blk).mach.Canon := by
  simp [enterCmd, hm]

theorem withBlock_canon {c : Ctx} {a : Src} {n : Nat} {go : Mach → List Byte → Res} (hgo : ∀ n bs, n.Canon → (go n bs).mach.Canon) (hm : m.Canon) :
    (withBlock cf m c a n go).mach.Canon := by
  unfold withBlock
  dsimp only
  split
  · simp [hm]
  · exact withPlaces_canon (fun ps n h => hgo _ _ (by simp [h])) (by simp [hm])

theorem withRecords_canon {c : Ctx} {blk : List Byte} {qs : List Req} {go : Mach → List Byte → Res} (hgo : ∀ n bs, n.Canon → (go n bs).mach.Canon)
    (hm : m.Canon) : (withRecords cf m c blk qs go).mach.Canon :=
  withPlaces_canon (fun _ _ h => readPlaces_canon (fun n _ k => hgo n _ k) h) hm

@[simp] theorem engineCommandEnter_canon (r : FRef) (hm : m.Canon) : (engineCommandEnter cf m r).Canon := by
  unfold engineCommandEnter
  split
  · simp [hm]
  · exact hm

@[simp] theorem Mach.releaseFibre_canon (f : Fibre) (hm : m.Canon) : (m.releaseFibre f).Canon := by
  unfold Mach.releaseFibre
  split
  · split
    · simp [hm]
    · simp [hm]
    · exact hm
  · exact hm

@[simp] theorem Mach.releaseHeld_canon (t : Nat) (hm : m.Canon) : (m.releaseHeld t).Canon := by
  simp +contextual [Mach.releaseHeld, hm]

@[simp] theorem Mach.applyDue_canon (o : Op) (hm : m.Canon) : (m.applyDue o).Canon := by
  unfold Mach.applyDue
  extract_lets m1 m2 m3 m4
  have h1 : m1.Canon := by simp [m1, hm]
  have h2 : m2.Canon := canon_foldl (fun m x h => by simp [h]) _ h1
  have h3 : m3.Canon := by
    unfold m3
    split <;> simp [h2]
  have h4 : m4.Canon := by
    unfold m4
    split <;> simp [h3]
  split <;> simp [h4]

@[simp] theorem retireFar_canon (o : Op) (hm : m.Canon) : AllCanon (retireFar cf m o) := by
  unfold retireFar
  dsimp only
  split
  · simp +contextual [hm]
  · simp [hm]

@[simp] theorem Mach.retireNow_canon (o : Op) (status sub : Nat) (addr : DWord) (hm : m.Canon) : (m.retireNow o status sub addr).Canon := by
  unfold Mach.retireNow
  dsimp only
  split
  · refine canon_foldl (fun m x h1 => ?_) _ ?_
    · simp [hm, h1]
    · split <;> simp [hm]
  · split <;> simp [hm]

@[simp] theorem engineRetire_canon (t : Nat) (k : EngCtx) (hm : m.Canon) : (engineRetire cf m t k).Canon := by
  unfold engineRetire
  split
  · exact hm
  · rename_i o _ _
    split
    · split
      · exact hm
      · dsimp only
        split
        · rename_i e
          exact canon_of_some e (by simp [hm])
        · have k1 : ((m.applyDue o).drain o.leaf (drainLevel k)).Canon := by simp [hm]
          split
          · split <;> simp [k1]
          · simp [k1]
        · split <;> simp [hm]
    · exact hm

@[simp] theorem Mach.work_canon (t : Nat) (k : EngCtx) {unit : Conf → Mach → OpCtx → Option Mach} (hu : ∀ m oc, m.Canon → AllCanon (unit cf m oc)) :
    ∀ (n : Nat) {m : Mach}, m.Canon → (Mach.work cf t k unit n m).Canon
  | 0, _, hm => hm
  | n + 1, m, hm => by
    unfold Mach.work
    split
    · exact hm
    · split
      · exact hm
      · split
        · dsimp only
          split
          · rename_i e
            exact Mach.work_canon t k hu n (hu _ _ (by simp [hm]) _ e)
          · exact hm
        · exact hm

@[simp] theorem engReadScr_canon (oc : OpCtx) (row k n : Nat) (hm : m.Canon) : (engReadScr m oc row k n).2.Canon := by
  unfold engReadScr
  dsimp only
  split
  · split
    · exact hm
    · simp [hm]
  · exact hm
  · exact hm

@[simp] theorem mmaUnit_canon (oc : OpCtx) (hm : m.Canon) : AllCanon (mmaUnit cf m oc) := by
  unfold mmaUnit
  dsimp only
  split
  · split
    · simp [hm]
    · split
      · split
        · rename_i e1
          have k1 := canon_of_snd e1 (by simp [hm])
          simp [hm, k1]
        · rename_i e1
          have k1 := canon_of_snd e1 (by simp [hm])
          simp [hm, k1]
        · rename_i e1
          have k1 := canon_of_snd e1 (by simp [hm])
          simp [hm, k1]
      · simp [hm]
  · simp [hm]

@[simp] theorem acczUnit_canon (oc : OpCtx) (hm : m.Canon) : AllCanon (acczUnit cf m oc) := by
  unfold acczUnit
  dsimp only
  split <;> simp [hm]

@[simp] theorem drainDone_canon (oc : OpCtx) (blk : DrainBlk) (fl : DrainFlags) (ws : List (Acc × List Byte)) (sc : List (Nat × List Byte)) : (drainDone m oc blk fl ws sc).Canon ↔ m.Canon := Mach.canon_congr rfl rfl rfl rfl

@[simp] theorem drainUnit_canon (oc : OpCtx) (hm : m.Canon) : AllCanon (drainUnit cf m oc) := by
  unfold drainUnit
  dsimp only
  split
  · split
    · simp [hm]
    · split
      · split
        · rename_i e1
          have k1 := canon_of_snd e1 (by simp [hm])
          simp [hm, k1]
        · rename_i e1
          have k1 := canon_of_snd e1 (by simp [hm])
          simp [hm, k1]
        · rename_i e1
          have k1 := canon_of_snd e1 (by simp [hm])
          simp [hm, k1]
      · split
        · split
          · rename_i e1
            have k1 := canon_of_snd e1 (by simp [hm])
            simp [hm, k1]
          · rename_i e1
            have k1 := canon_of_snd e1 (by simp [hm])
            simp [hm, k1]
          · rename_i e1
            have k1 := canon_of_snd e1 (by simp [hm])
            simp [hm, k1]
        · simp [hm]
        · simp [hm]
  · simp [hm]

@[simp] theorem tcopyEnter_canon (c : Ctx) (pack : Bool) (fl : CopyFlags) (a : Src) (blk recs : List Byte) (hm : m.Canon) : (tcopyEnter cf m c pack fl a blk recs).mach.Canon := by
  simp [tcopyEnter, hm]

@[simp] theorem packPages_canon (oc : OpCtx) (c : Tc) (hm : m.Canon) : (packPages cf m oc c).2.Canon := by
  unfold packPages
  refine canon_foldl_snd (fun r x h1 => ?_) _ ?_
  · split
    · split
      · exact h1
      · split
        · rename_i e2
          have k2 := canon_of_snd e2 (by simp [hm, h1])
          exact k2
        · rename_i e2
          have k2 := canon_of_snd e2 (by simp [hm, h1])
          exact k2
    · exact h1
  · exact hm

@[simp] theorem packAcc_canon (oc : OpCtx) (a : Nat) (b : List Byte) (hm : m.Canon) : (packAcc cf m oc a b).2.Canon := by
  unfold packAcc
  dsimp only
  split
  · exact hm
  · split
    · rename_i e1
      have k1 := canon_of_snd e1 (by simp [hm])
      exact k1
    · rename_i e1
      have k1 := canon_of_snd e1 (by simp [hm])
      split <;> exact k1

@[simp] theorem engTake_canon (oc : OpCtx) (a : Nat) (hm : m.Canon) : (engTake m oc a).2.Canon := by
  unfold engTake
  split
  · extract_lets m1 r
    have h1 : m1.Canon := by simp [m1, hm]
    have hr : r.2.Canon := by simp [r, h1]
    split
    · exact h1
    · split
      · simp [hr]
      · exact h1
  · exact hm
  · exact hm

@[simp] theorem tcUnlock_canon (oc : OpCtx) (c : Tc) (hm : m.Canon) : (tcUnlock cf m oc c).2.Canon := by
  unfold tcUnlock
  split
  · rename_i e1
    have k1 := canon_of_snd e1 (by simp [hm])
    exact k1
  · rename_i e1
    have k1 := canon_of_snd e1 (by simp [hm])
    exact k1
  · rename_i e1
    have k1 := canon_of_snd e1 (by simp [hm])
    simp [hm, k1]

@[simp] theorem tcFail_canon (oc : OpCtx) (c : Tc) (sub : Nat) (addr : DWord) (hm : m.Canon) : (tcFail cf m oc c sub addr).Canon := by
  unfold tcFail
  split
  · split
    · rename_i e1
      have k1 := canon_of_snd e1 (by simp [hm])
      exact k1
    · rename_i e1
      have k1 := canon_of_snd e1 (by simp [hm])
      simp [hm, k1]
  · simp [hm]

@[simp] theorem tcRead_canon (oc : OpCtx) (c : Tc) (s : Nat) (hm : m.Canon) : (tcRead cf m oc c s).2.Canon := by
  unfold tcRead
  split
  · exact hm
  · split <;> simp [hm]

@[simp] theorem tcWrite_canon (oc : OpCtx) (c : Tc) (s : Nat) (held : List Byte) (at_ : Nat) (hm : m.Canon) : (tcWrite cf m oc c s held at_).2.Canon := by
  unfold tcWrite
  split
  · simp [hm]
  · split
    · split
      · rename_i e1
        have k1 := canon_of_snd e1 (by simp [hm])
        simp [hm, k1]
      · rename_i e1
        have k1 := canon_of_snd e1 (by simp [hm])
        exact k1
      · rename_i e1
        have k1 := canon_of_snd e1 (by simp [hm])
        exact k1
    · split
      · rename_i e1
        have k1 := canon_of_snd e1 (by simp [hm])
        exact k1
      · rename_i e1
        have k1 := canon_of_snd e1 (by simp [hm])
        exact k1
      · rename_i e1
        have k1 := canon_of_snd e1 (by simp [hm])
        exact k1

@[simp] theorem packRow_canon (oc : OpCtx) (a : Nat) (row : List Byte) (hm : m.Canon) : (packRow cf m oc a row).2.Canon := by
  unfold packRow
  refine canon_foldl_snd (fun r x h1 => ?_) _ ?_
  · split
    · split
      · rename_i e2
        have k2 := canon_of_snd e2 (by simp [hm, h1])
        exact k2
      · simp [hm, h1]
    · exact h1
  · exact hm

@[simp] theorem tcAll_canon (oc : OpCtx) (c : Tc) (hm : m.Canon) : (tcAll cf m oc c).2.Canon := by
  unfold tcAll
  extract_lets d
  refine canon_foldl_snd (fun r q h => ?_) _ hm
  split
  · extract_lets row scl
    have k : ∀ n : Mach, n.Canon → (if c.pack then packRow cf n oc (d.rowAddr q) row
        else engResolve cf n oc (writePieces (d.rowAddr q) row ++ (if d.smem then [] else writePieces (d.sclAddr q) scl))).2.Canon := by
      intro n hn
      split <;> simp [hn]
    split
    · exact canon_of_snd ‹_› (k _ h)
    · exact k _ h
  · exact h

@[simp] theorem tcLook_canon (oc : OpCtx) (a : Nat) (hm : m.Canon) : (tcLook cf m oc a).2.Canon := by
  unfold tcLook
  dsimp only
  split
  · exact hm
  · split
    · rename_i e1
      have k1 := canon_of_snd e1 (by simp [hm])
      exact k1
    · rename_i e1
      have k1 := canon_of_snd e1 (by simp [hm])
      exact k1
    · rename_i e1
      have k1 := canon_of_snd e1 (by simp [hm])
      split
      · simp [hm, k1]
      · split
        · exact k1
        · simp [hm, k1]

@[simp] theorem tcRows_canon (oc : OpCtx) (c : Tc) (hm : m.Canon) : AllCanon (tcRows cf m oc c) := by
  unfold tcRows
  dsimp only
  split
  · split
    · split
      · split
        · simp [hm]
        · split
          · rename_i e1
            have k1 := canon_of_snd e1 (by simp [hm])
            simp [hm, k1]
          · rename_i e1
            have k1 := canon_of_snd e1 (by simp [hm])
            simp [hm, k1]
          · rename_i e1
            have k1 := canon_of_snd e1 (by simp [hm])
            simp [hm, k1]
      · split
        · simp [hm]
        · split
          · rename_i e1
            have k1 := canon_of_snd e1 (by simp [hm])
            simp [hm, k1]
          · rename_i e1
            have k1 := canon_of_snd e1 (by simp [hm])
            simp [hm, k1]
          · rename_i e1
            have k1 := canon_of_snd e1 (by simp [hm])
            simp [hm, k1]
    · simp [hm]
  · split
    · split
      · split
        · simp [hm]
        · split
          · rename_i e1
            have k1 := canon_of_snd e1 (by simp [hm])
            simp [hm, k1]
          · rename_i e1
            have k1 := canon_of_snd e1 (by simp [hm])
            simp [hm, k1]
          · rename_i e1
            have k1 := canon_of_snd e1 (by simp [hm])
            simp [hm, k1]
      · split
        · simp [hm]
        · split
          · rename_i e1
            have k1 := canon_of_snd e1 (by simp [hm])
            simp [hm, k1]
          · rename_i e1
            have k1 := canon_of_snd e1 (by simp [hm])
            simp [hm, k1]
          · rename_i e1
            have k1 := canon_of_snd e1 (by simp [hm])
            simp [hm, k1]
    · split
      · rename_i e1
        have k1 := canon_of_snd e1 (by simp [hm])
        simp [hm, k1]
      · rename_i e1
        have k1 := canon_of_snd e1 (by simp [hm])
        simp [hm, k1]
      · rename_i e1
        have k1 := canon_of_snd e1 (by simp [hm])
        simp [hm, k1]

@[simp] theorem tcAllDone_canon (oc : OpCtx) (c : Tc) (as : List (Acc × List Byte)) (hm : m.Canon) : (tcAllDone cf m oc c as).Canon := by
  unfold tcAllDone
  dsimp only
  split
  · split
    · rename_i e1
      have k1 := canon_of_snd e1 (by simp [hm])
      simp [hm, k1]
    · rename_i e1
      have k1 := canon_of_snd e1 (by simp [hm])
      exact k1
    · rename_i e1
      have k1 := canon_of_snd e1 (by simp [hm])
      simp [hm, k1]
  · simp [hm]

@[simp] theorem tcBuffered_canon (oc : OpCtx) (c : Tc) (hm : m.Canon) : (tcBuffered cf m oc c).Canon := by
  unfold tcBuffered
  dsimp only
  split
  · split
    · rename_i e1
      have k1 := canon_of_snd e1 (by simp [hm])
      simp [hm, k1]
    · rename_i e1
      have k1 := canon_of_snd e1 (by simp [hm])
      exact k1
    · rename_i e1
      have k1 := canon_of_snd e1 (by simp [hm])
      simp [hm, k1]
  · split
    · split
      · rename_i e1
        have k1 := canon_of_snd e1 (by simp [hm])
        simp [hm, k1]
      · rename_i e1
        have k1 := canon_of_snd e1 (by simp [hm])
        exact k1
      · rename_i e1
        have k1 := canon_of_snd e1 (by simp [hm])
        simp [hm, k1]
    · simp [hm]

@[simp] theorem tcStart_canon (oc : OpCtx) (c : Tc) (hm : m.Canon) : (tcStart cf m oc c).Canon := by
  unfold tcStart
  dsimp only
  split
  · simp [hm]
  · split
    · simp [hm]
    · split
      · split
        · rename_i e1
          have k1 := canon_of_snd e1 (by simp [hm])
          simp [hm, k1]
        · rename_i e1
          have k1 := canon_of_snd e1 (by simp [hm])
          simp [hm, k1]
        · rename_i e1
          have k1 := canon_of_snd e1 (by simp [hm])
          simp [hm, k1]
        · rename_i e1
          have k1 := canon_of_snd e1 (by simp [hm])
          exact k1
      · simp [hm]

@[simp] theorem tcopyUnit_canon (oc : OpCtx) (hm : m.Canon) : AllCanon (tcopyUnit cf m oc) := by
  unfold tcopyUnit
  dsimp only
  split
  · split
    · simp [hm]
    · split
      · simp [hm]
      · split
        · rename_i e1
          have k1 := canon_of_snd e1 (by simp [hm])
          simp [hm, k1]
        · rename_i e1
          have k1 := canon_of_snd e1 (by simp [hm])
          simp [hm, k1]
        · rename_i e1
          have k1 := canon_of_snd e1 (by simp [hm])
          simp [hm, k1]
    · split
      · rename_i e1
        have k1 := canon_of_snd e1 (by simp [hm])
        simp [hm, k1]
      · rename_i e1
        have k1 := canon_of_snd e1 (by simp [hm])
        simp [hm, k1]
      · rename_i e1
        have k1 := canon_of_snd e1 (by simp [hm])
        simp [hm, k1]
    · simp [hm]
    · split
      · rename_i e1
        have k1 := canon_of_snd e1 (by simp [hm])
        simp [hm, k1]
      · rename_i e1
        have k1 := canon_of_snd e1 (by simp [hm])
        simp [hm, k1]
      · rename_i e1
        have k1 := canon_of_snd e1 (by simp [hm])
        simp [hm, k1]
    · simp [hm]
    · split
      · split
        · rename_i e1
          have k1 := canon_of_snd e1 (by simp [hm])
          simp [hm, k1]
        · rename_i e1
          have k1 := canon_of_snd e1 (by simp [hm])
          simp [hm, k1]
        · rename_i e1
          have k1 := canon_of_snd e1 (by simp [hm])
          simp [hm, k1]
      · simp [hm]
  · simp [hm]

@[simp] theorem engineFeTimeout_canon (t : Nat) (hm : m.Canon) : (engineFeTimeout cf m t).Canon := by
  unfold engineFeTimeout
  dsimp only
  split
  · exact hm
  · split
    · split
      · split
        · simp [hm]
        · exact hm
      · exact hm
    · exact hm

@[simp] theorem prologUnit_canon (oc : OpCtx) (hm : m.Canon) : AllCanon (prologUnit cf m oc) := by
  unfold prologUnit
  dsimp only
  split
  · split
    · simp [hm]
    · split
      · rename_i e1
        have k1 := canon_of_snd e1 (by simp [hm])
        simp [hm, k1]
      · rename_i e1
        have k1 := canon_of_snd e1 (by simp [hm])
        simp [hm, k1]
      · rename_i e1
        have k1 := canon_of_snd e1 (by simp [hm])
        simp [hm, k1]
    · split
      · rename_i e1
        have k1 := canon_of_snd e1 (by simp [hm])
        simp [hm, k1]
      · rename_i e1
        have k1 := canon_of_snd e1 (by simp [hm])
        simp [hm, k1]
      · rename_i e1
        have k1 := canon_of_snd e1 (by simp [hm])
        simp [hm, k1]
    · split
      · rename_i e1
        have k1 := canon_of_snd e1 (by simp [hm])
        simp [hm, k1]
      · rename_i e1
        have k1 := canon_of_snd e1 (by simp [hm])
        simp [hm, k1]
      · rename_i e1
        have k1 := canon_of_snd e1 (by simp [hm])
        simp [hm, k1]
  · simp [hm]

@[simp] theorem Mach.failProlog_canon (l num k status : Nat) : (m.failProlog l num k status).Canon ↔ m.Canon := Mach.canon_congr rfl rfl rfl rfl

@[simp] theorem prologue_canon (t : Nat) (hm : m.Canon) : (prologue cf m t).Canon := by
  unfold prologue
  split
  · exact hm
  · split
    · split
      · exact hm
      · split
        · exact hm
        · split
          · split
            · exact Mach.work_canon t _ (fun m oc h => by simp [h]) 1 hm
            · extract_lets m0 m1 m2
              have h0 : m0.Canon := by simp [m0, hm]
              have h1 : m1.Canon := by simp [m1, h0]
              have h2 : m2.Canon := by
                unfold m2
                split <;> simp [h1]
              simp [h2]
            · simp [hm]
          · extract_lets m1
            have h1 : m1.Canon := by
              unfold m1
              split
              · exact canon_foldl (fun m x h => by simp [h]) _ hm
              · exact hm
            split <;> simp [h1]
    · exact hm

@[simp] theorem Mach.ringGranule_canon (tm : Team) (off : Nat) (hm : m.Canon) : (m.ringGranule tm off).2.Canon := by
  simp [Mach.ringGranule, hm]

@[simp] theorem ringUnit_canon (c : Nat) (tms : List Team) (bwd : Bool) (off len : Nat) (hm : m.Canon) : (ringUnit m c tms bwd off len).Canon := by
  unfold ringUnit
  extract_lets k rg rest m0 at_ i taken held m1
  split
  · rw [Mach.canon_mk, storesWf_iff_canon]
    refine canon_foldl (fun m x h => ?_) _ hm
    split <;> simp [h]
  · have h1 : m1.Canon := by
      unfold m1 taken
      split
      · exact canon_foldl_snd (fun r x h => by simp [h]) _ hm
      · exact hm
    split
    · rw [Mach.canon_mk, storesWf_iff_canon]
      simp [h1]
    · exact h1

theorem repeatN_canon {f : Mach → Mach} (hf : ∀ n, n.Canon → (f n).Canon) : ∀ (k : Nat) {m : Mach}, m.Canon → (repeatN f k m).Canon
  | 0, _, h => h
  | k + 1, m, h => repeatN_canon hf k (hf m h)

@[simp] theorem ringStep_canon (c : Nat) (tms : List Team) (scr work : Nat) (o : Op) (r : Bool × Nat × Nat) (hm : m.Canon) : (ringStep m c tms scr work o r).Canon := by
  unfold ringStep
  extract_lets k bad all gone cur m1
  split
  · exact canon_foldl (fun m x h => by simp [h]) _ hm
  · split
    · simp [hm]
    · split
      · exact hm
      · split
        · exact hm
        · have h1 : m1.Canon := canon_foldl (fun m x h => by simp [h]) _ hm
          exact repeatN_canon (fun n h => by split <;> simp [h]) _ h1

@[simp] theorem ringRotation_canon (c work : Nat) (hm : m.Canon) : (ringRotation m c work).Canon := by
  unfold ringRotation
  dsimp only
  split
  · exact hm
  · split
    · exact hm
    · split
      · exact hm
      · split
        · simp [hm]
        · exact hm

@[simp] theorem dcStop_canon (oc : OpCtx) (n rcode sub : Nat) (addr : DWord) (hm : m.Canon) : (dcStop cf m oc n rcode sub addr).Canon := by
  unfold dcStop
  split
  · rename_i e1
    have k1 := canon_of_snd e1 (by simp [hm])
    simp [hm, k1]
  · rename_i e1
    have k1 := canon_of_snd e1 (by simp [hm])
    exact k1
  · rename_i e1
    have k1 := canon_of_snd e1 (by simp [hm])
    simp [hm, k1]

@[simp] theorem dcPut_canon (oc : OpCtx) (cd : Card) (bs : List Byte) (hm : m.Canon) : (dcPut cf m oc cd bs).Canon := by
  unfold dcPut
  dsimp only
  split
  · simp [hm]
  · split
    · rename_i e1
      have k1 := canon_of_snd e1 (by simp [hm])
      simp [hm, k1]
    · rename_i e1
      have k1 := canon_of_snd e1 (by simp [hm])
      exact k1
    · rename_i e1
      have k1 := canon_of_snd e1 (by simp [hm])
      simp [hm, k1]

@[simp] theorem dcUnit_canon (oc : OpCtx) (hm : m.Canon) : AllCanon (dcUnit cf m oc) := by
  unfold dcUnit
  dsimp only
  split
  · split
    · simp [hm]
    · split
      · simp [hm]
      · split
        · simp [hm]
        · split
          · simp [hm]
          · simp [hm]
          · split
            · rename_i e1
              have k1 := canon_of_snd e1 (by simp [hm])
              simp [hm, k1]
            · rename_i e1
              have k1 := canon_of_snd e1 (by simp [hm])
              simp [hm, k1]
            · rename_i e1
              have k1 := canon_of_snd e1 (by simp [hm])
              simp [hm, k1]
  · simp [hm]

@[simp] theorem collEnter_canon (c : Ctx) (a : Src) (blk recs : List Byte) (hm : m.Canon) : (collEnter cf m c a blk recs).mach.Canon := by
  simp [collEnter, hm]

@[simp] theorem sendChunks_canon (tag n dev : Nat) (bytes : List Byte) (which : Nat → Bool) : (sendChunks m tag n dev bytes which).Canon ↔ m.Canon := Mach.canon_congr rfl rfl rfl rfl

@[simp] theorem collStart_canon (oc : OpCtx) (q : CollOp) (slots : Bool) (recs : List (Nat × List Byte)) (hm : m.Canon) : (collStart m oc q slots recs).Canon := by
  simp [collStart, hm]

@[simp] theorem collRanks_canon (oc : OpCtx) (q : CollOp) (hm : m.Canon) : (collRanks cf m oc q).Canon := by
  unfold collRanks
  dsimp only
  split
  · simp [hm]
  · split
    · rename_i e1
      have k1 := canon_of_snd e1 (by simp [hm])
      simp [hm, k1]
    · rename_i e1
      have k1 := canon_of_snd e1 (by simp [hm])
      exact k1
    · rename_i e1
      have k1 := canon_of_snd e1 (by simp [hm])
      simp [hm, k1]

@[simp] theorem collSource_canon (oc : OpCtx) (q : CollOp) (hm : m.Canon) : (collSource cf m oc q).Canon := by
  unfold collSource
  dsimp only
  split
  · split
    · exact hm
    · split
      · rename_i e1
        have k1 := canon_of_snd e1 (by simp [hm])
        simp [hm, k1]
      · rename_i e1
        have k1 := canon_of_snd e1 (by simp [hm])
        simp [hm, k1]
      · rename_i e1
        have k1 := canon_of_snd e1 (by simp [hm])
        exact k1
  · simp [hm]

@[simp] theorem collResend_canon (oc : OpCtx) (q : CollOp) (hm : m.Canon) : (collResend cf m oc q).Canon := by
  unfold collResend
  dsimp only
  split
  · split
    · exact hm
    · split
      · rename_i e1
        have k1 := canon_of_snd e1 (by simp [hm])
        simp [hm, k1]
      · rename_i e1
        have k1 := canon_of_snd e1 (by simp [hm])
        simp [hm, k1]
      · rename_i e1
        have k1 := canon_of_snd e1 (by simp [hm])
        exact k1
  · simp [hm]

@[simp] theorem collData_canon (oc : OpCtx) (q : CollOp) (inputs : List (List Byte)) (hm : m.Canon) : (collData m oc q inputs).Canon := by
  unfold collData
  dsimp only
  split <;> simp [hm]

@[simp] theorem collWrite_canon (oc : OpCtx) (q : CollOp) (hm : m.Canon) : (collWrite cf m oc q).Canon := by
  unfold collWrite
  dsimp only
  split
  · simp [hm]
  · split
    · exact hm
    · split
      · rename_i e1
        have k1 := canon_of_snd e1 (by simp [hm])
        simp [hm, k1]
      · rename_i e1
        have k1 := canon_of_snd e1 (by simp [hm])
        exact k1
      · rename_i e1
        have k1 := canon_of_snd e1 (by simp [hm])
        simp [hm, k1]

@[simp] theorem collGoOn_canon (w : CollMsg) (oc : OpCtx) (q : CollOp) (hm : m.Canon) : AllCanon (collGoOn w cf m oc q) := by
  unfold collGoOn
  dsimp only
  split
  · simp [hm]
  · simp [hm]
  · simp [hm]
  · split
    · simp [hm]
    · split <;> simp [hm]

@[simp] theorem collUnit_canon (w : CollMsg) (oc : OpCtx) (hm : m.Canon) : AllCanon (collUnit w cf m oc) := by
  unfold collUnit
  dsimp only
  split
  · split
    · simp [hm]
    · split
      · split
        · simp [hm]
        · split
          · simp [hm]
          · split <;> simp [hm]
      · simp [hm]
      · simp [hm]
      · simp [hm]
  · simp [hm]
  · simp [hm]

@[simp] theorem sortRead_canon (oc : OpCtx) (q : SortBlk) (n : Nat) (hm : m.Canon) : (sortRead cf m oc q n).Canon := by
  unfold sortRead
  dsimp only
  split
  · rename_i e1
    have k1 := canon_of_snd e1 (by simp [hm])
    simp [hm, k1]
  · rename_i e1
    have k1 := canon_of_snd e1 (by simp [hm])
    exact k1
  · rename_i e1
    have k1 := canon_of_snd e1 (by simp [hm])
    simp [hm, k1]

@[simp] theorem sortUnit_canon (oc : OpCtx) (hm : m.Canon) : AllCanon (sortUnit cf m oc) := by
  unfold sortUnit
  dsimp only
  split
  · split
    · simp [hm]
    · simp [hm]
    · split
      · simp [hm]
      · split
        · rename_i e1
          have k1 := canon_of_snd e1 (by simp [hm])
          simp [hm, k1]
        · rename_i e1
          have k1 := canon_of_snd e1 (by simp [hm])
          simp [hm, k1]
        · rename_i e1
          have k1 := canon_of_snd e1 (by simp [hm])
          simp [hm, k1]
    · split
      · simp [hm]
      · split
        · simp [hm]
        · split
          · rename_i e1
            have k1 := canon_of_snd e1 (by simp [hm])
            simp [hm, k1]
          · rename_i e1
            have k1 := canon_of_snd e1 (by simp [hm])
            simp [hm, k1]
          · rename_i e1
            have k1 := canon_of_snd e1 (by simp [hm])
            simp [hm, k1]
  · simp [hm]

@[simp] theorem Mach.dropLatchLanes_canon (r : FRef) (p : Word) : (m.dropLatchLanes r p).Canon ↔ m.Canon := Mach.canon_congr rfl rfl rfl rfl
@[simp] theorem Mach.splitOff_canon (f : Fibre) (lanes : Word) (pc : DWord) (base : Nat) (keep : Bool) (lpad : Option Nat) : (m.splitOff f lanes pc base keep lpad).Canon ↔ m.Canon := Mach.canon_congr rfl rfl rfl rfl
@[simp] theorem Mach.split_canon (c : Ctx) (lanes : Word) (pc : DWord) (lpad : Option Nat) : (m.split c lanes pc lpad).Canon ↔ m.Canon := Mach.canon_congr rfl rfl rfl rfl

@[simp] theorem Mach.merge_canon (ws : List Fibre) (hm : m.Canon) : (m.merge ws).Canon := by
  unfold Mach.merge
  dsimp only
  split
  · exact hm
  · simp [hm]

@[simp] theorem Mach.joinCheck_canon (t g : Nat) (hm : m.Canon) : (m.joinCheck t g).Canon := by
  unfold Mach.joinCheck
  refine canon_foldl (fun m x h1 => ?_) _ ?_
  · split
    · simp [hm, h1]
    · exact h1
  · exact hm

@[simp] theorem Mach.endFibre_canon (c : Ctx) (hm : m.Canon) : (m.endFibre cf c).Canon := by
  unfold Mach.endFibre
  extract_lets r m1 m2 m3 m4
  have h1 : m1.Canon := by simp [m1, hm]
  have h2 : m2.Canon := by simp [m2, h1]
  have h3 : m3.Canon := by simp [m3, h2]
  have h4 : m4.Canon := by simp [m4, h3]
  split <;> simp [h4]

@[simp] theorem laneTransfer_canon (c : Ctx) (a : Nat) (link : Option Nat) (tag : Option Nat) (hm : m.Canon) : (laneTransfer m c a link tag).mach.Canon := by
  unfold laneTransfer
  dsimp only
  split
  · exact hm
  · split
    · refine canon_foldl (fun m x h1 => ?_) _ ?_
      · simp [hm, h1]
      · split
        · simp [hm]
        · exact hm
    · split <;> simp [hm]

@[simp] theorem Mach.addInbound_canon (t : Option Nat) (d : Int) (hm : m.Canon) : (m.addInbound t d).Canon := by
  unfold Mach.addInbound
  dsimp only
  split
  · simp [hm]
  · exact hm

@[simp] theorem Mach.updReq_canon (order : Nat) (f : HReq → HReq) : (m.updReq order f).Canon ↔ m.Canon := Mach.canon_congr rfl rfl rfl rfl
@[simp] theorem Mach.addReq_canon (die : Nat) (r : XferReq) (team : Option Nat) (held : Bool) : (m.addReq die r team held).Canon ↔ m.Canon := Mach.canon_congr rfl rfl rfl rfl

@[simp] theorem tokenGrant_canon (die part : Nat) (hm : m.Canon) : (tokenGrant cf m die part).Canon := by
  unfold tokenGrant
  dsimp only
  split
  · exact hm
  · split
    · exact hm
    · simp [hm]

@[simp] theorem Mach.dropToken_canon (k : Token) (hm : m.Canon) : (m.dropToken k).Canon := by
  simp [Mach.dropToken, hm]

@[simp] theorem Mach.returnToken_canon (k : Token) (hm : m.Canon) : (m.returnToken k).Canon := by
  simp [Mach.returnToken, hm]

@[simp] theorem Mach.dropReq_canon (order : Nat) (hm : m.Canon) : (m.dropReq order).Canon := by
  simp +contextual [Mach.dropReq, hm]

@[simp] theorem Mach.tidyReqs_canon  : (m.tidyReqs).Canon ↔ m.Canon := Mach.canon_congr rfl rfl rfl rfl

@[simp] theorem Mach.tokenGot_canon (k : Token) (p : Packet) (hm : m.Canon) : (m.tokenGot k p).Canon := by
  simp [Mach.tokenGot, hm]

@[simp] theorem Mach.prefixGot_canon (p : Packet) (t : Option Nat) (hm : m.Canon) : (m.prefixGot p t).Canon := by
  unfold Mach.prefixGot
  dsimp only
  split
  · exact hm
  · split <;> simp [hm]

@[simp] theorem Mach.setIslandKey_canon (k : IslandKey) : (m.setIslandKey k).Canon ↔ m.Canon := Mach.canon_congr rfl rfl rfl rfl
@[simp] theorem Mach.showHold_canon  : (m.showHold).Canon ↔ m.Canon := Mach.canon_congr rfl rfl rfl rfl

@[simp] theorem Mach.startDrift_canon (s : DSend) (hm : m.Canon) : (m.startDrift s).Canon := by
  simp [Mach.startDrift, hm]

@[simp] theorem Mach.sendDrift_canon (rg : Region) (island : Nat) (d : Drift) (hm : m.Canon) : (m.sendDrift rg island d).Canon := by
  simp [Mach.sendDrift, hm]

@[simp] theorem Mach.dropDrift_canon (s : DSend) : (m.dropDrift s).Canon ↔ m.Canon := Mach.canon_congr rfl rfl rfl rfl

@[simp] theorem Mach.resendDrift_canon (s : DSend) (hm : m.Canon) : (m.resendDrift s).Canon := by
  simp [Mach.resendDrift, hm]

@[simp] theorem Mach.sendHeldDrift_canon (peer : Nat) (hm : m.Canon) : (m.sendHeldDrift peer).Canon := by
  simp +contextual [Mach.sendHeldDrift, hm]

@[simp] theorem Mach.grantDrift_canon (s : DSend) (g : Grant) : (m.grantDrift s g).Canon ↔ m.Canon := Mach.canon_congr rfl rfl rfl rfl

@[simp] theorem driftAck_canon (a : XferAck) (hm : m.Canon) : (driftAck m a).Canon := by
  unfold driftAck
  split
  · exact hm
  · split <;> simp [hm]

@[simp] theorem driftRevoked_canon (dev token : Nat) (hm : m.Canon) : (driftRevoked m dev token).Canon := by
  simp +contextual [driftRevoked, hm]

@[simp] theorem Mach.ackPacket_canon (p : Packet) (pos n : Nat) (st : Status) (sub : Nat) : (m.ackPacket p pos n st sub).Canon ↔ m.Canon := Mach.canon_congr rfl rfl rfl rfl

@[simp] theorem driftLand_canon (p : Packet) (h : HReq) (hm : m.Canon) : (driftLand cf m p h).2.Canon := by
  unfold driftLand
  split
  · split
    · split
      · simp [hm]
      · exact hm
    · exact hm
  · exact hm

@[simp] theorem driftPacket_canon (p : Packet) (k : Token) (h : HReq) (hm : m.Canon) : (driftPacket cf m p k h).Canon := by
  unfold driftPacket
  split
  · simp [hm]
  · rename_i e1
    have k1 := canon_of_snd e1 (by simp [hm])
    simp [hm, k1]

@[simp] theorem Mach.keepDrift_canon (h : HReq) (die tag island : Nat) (d : Drift) (hm : m.Canon) : (m.keepDrift h die tag island d).Canon := by
  unfold Mach.keepDrift
  split <;> simp [hm]

@[simp] theorem driftMessageArrival_canon (src xid : Nat) (hm : m.Canon) : (driftMessageArrival m src xid).Canon := by
  unfold driftMessageArrival
  dsimp only
  split
  · exact hm
  · split
    · exact hm
    · split <;> simp [hm]

@[simp] theorem Mach.atHome_canon (pt? : Option Part) (a : Acc) (va : Nat) (k : FabAcc) (sync : Bool) (hm : m.Canon) : (m.atHome pt? a va k sync).2.Canon := by
  unfold Mach.atHome
  dsimp only
  split
  · simp [hm]
  · simp [hm]
  · dsimp only
    split
    · simp [hm]
    · exact hm
  · simp [hm]

@[simp] theorem fabPlaces_canon (r : FabReq) (hm : m.Canon) : (fabPlaces cf m r).2.Canon := by
  simp +contextual [fabPlaces, hm]

@[simp] theorem performAt_canon (pt? : Option Part) (r : FabReq) (xs : List Placed1) (hm : m.Canon) : (performAt m pt? r xs).2.Canon := by
  unfold performAt
  dsimp only
  split
  · simp [hm]
  · split
    · exact hm
    · simp +contextual [hm]

@[simp] theorem fabThrough_canon (r : FabReq) (only : Bool) (hm : m.Canon) : (fabThrough cf m r only).2.Canon := by
  unfold fabThrough
  dsimp only
  split
  · exact hm
  · split
    · exact hm
    · split
      · simp [hm]
      · split <;> simp [hm]

@[simp] theorem Mach.keepVow_canon (v : Vow) (ns : List Nat) : (m.keepVow v ns).Canon ↔ m.Canon := Mach.canon_congr rfl rfl rfl rfl

@[simp] theorem fabPerform_canon (r : FabReq) (hm : m.Canon) : (fabPerform cf m r).2.Canon := by
  unfold fabPerform
  split
  · simp [hm]
  · simp [hm]
  · simp [hm]
  · split
    · simp [hm]
    · split
      · exact hm
      · split
        · rename_i e1
          have k1 := canon_of_snd e1 (by simp [hm])
          simp [hm, k1]
        · simp [hm]

@[simp] theorem fabricAccessArrival_canon (r : FabReq) (hm : m.Canon) : (fabricAccessArrival cf m r).Canon := by
  unfold fabricAccessArrival
  split
  · exact hm
  · split
    · rename_i e1
      have k1 := canon_of_snd e1 (by simp [hm])
      simp [hm, k1]
    · rename_i e1
      have k1 := canon_of_snd e1 (by simp [hm])
      simp [hm, k1]

theorem Mach.withUnits_canon {p : FabPend} {part : Nat} {go : Mach → Mach} (hgo : ∀ n, n.Canon → (go n).Canon) (hm : m.Canon) :
    (m.withUnits p part go).Canon := by
  simp [Mach.withUnits, hgo, hm]

@[simp] theorem Mach.uncopyPath_canon (leaf : Point) (sp : Space) (addr n : Nat) (hm : m.Canon) : (m.uncopyPath leaf sp addr n).Canon := by
  simp [Mach.uncopyPath, hm]

@[simp] theorem fabAtoms_canon (c : Ctx) (p : FabPend) (sc : Scope) (hm : m.Canon) : (fabAtoms m c p sc).2.Canon := by
  unfold fabAtoms
  refine canon_foldl_snd (fun r x h1 => ?_) _ ?_
  · dsimp only
    split
    · exact h1
    · simp [hm, h1]
    · exact h1
  · exact hm

@[simp] theorem fabComplete_canon (c : Ctx) (w : Wait) (p : FabPend) (hm : m.Canon) : (fabComplete cf m c w p).Canon := by
  unfold fabComplete
  dsimp only
  have hlanes : ∀ way n, n.Canon → (readLanes cf n way c.la.p p.asks).2.Canon := fun way n h => by simp [h]
  have hatoms : ∀ n sc, n.Canon → (fabAtoms n c p sc).2.Canon := fun n sc h => by simp [h]
  split
  · refine Mach.withUnits_canon (fun n h => ?_) (by simp [hm])
    exact Mach.completeWait_canon _ _ _ (Mach.after_canon _ _ _ (hlanes _ _ h))
  · exact Mach.completeWait_canon _ _ _ (Mach.after_canon _ _ _ (hatoms _ _ (by simp [hm])))
  · simp [hm]
  · simp [hm]
  · exact Mach.completeWait_canon _ _ _ (Mach.after_canon _ _ _ (hatoms _ _ hm))
  · exact Mach.withUnits_canon (fun n h => Mach.completeWait_canon _ _ _ (by simp [h])) hm
  · refine Mach.withUnits_canon (fun n h => Mach.resolve_canon _ ?_) hm
    split <;> simp [h]
  · exact Mach.withUnits_canon (fun n h => Mach.resolve_canon _ (by simp [h])) hm
  · exact Mach.withUnits_canon (fun n h => Mach.resolve_canon _ (by simp [h])) hm
  · exact hm

@[simp] theorem lanesRefused_canon (c : Ctx) (bad : List (Nat × DWord × Nat × Nat)) (hm : m.Canon) : (lanesRefused cf m c bad).Canon := by
  unfold lanesRefused
  split
  · exact hm
  · simp [hm]

@[simp] theorem loadAnswered_canon (p : FabPend) (hm : m.Canon) : (loadAnswered cf m p).Canon := by
  unfold loadAnswered
  split
  · exact hm
  · simp [hm]

@[simp] theorem atomsHere_canon (p : FabPend) (op : AtomOp) (sc : Scope) (dbl : Bool) (run : List (Nat × Req × Place)) (hm : m.Canon) : (atomsHere m p op sc dbl run).2.Canon := by
  unfold atomsHere
  refine canon_foldl_snd (fun r x h1 => ?_) _ ?_
  · dsimp only
    split
    · simp [hm, h1]
    · exact h1
  · simp [hm]

@[simp] theorem atomsRefused_canon (p : FabPend) (hm : m.Canon) : (atomsRefused cf m p).Canon := by
  unfold atomsRefused
  dsimp only
  split <;> simp [hm]

@[simp] theorem atomGo_canon (op : AtomOp) (sc : Scope) (dbl : Bool) : ∀ (k : Nat) (m : Mach) (p : FabPend), m.Canon → (atomGo cf op sc dbl k m p).Canon
  | 0, _, _, hm => hm
  | k + 1, m, p, hm => by
    unfold atomGo
    extract_lets part wait
    split
    · split
      · simp [hm]
      · exact hm
    · dsimp only
      split
      · split
        · simp [wait, hm]
        · split
          · simp [hm]
          · exact atomGo_canon op sc dbl k _ _ (by simp [hm])
      · split
        · have hf : ∀ r, (fabPerform cf m r).2.Canon := fun r => by simp [hm]
          split
          · have h := canon_of_snd ‹_› (hf _)
            split
            · simp [h]
            · exact atomGo_canon op sc dbl k _ _ h
          · have h := canon_of_snd ‹_› (hf _)
            simp [wait, h]
        · simp [wait, hm]

@[simp] theorem atomsAnswered_canon (p : FabPend) (op : AtomOp) (sc : Scope) (dbl : Bool) (hm : m.Canon) : (atomsAnswered cf m p op sc dbl).Canon := by
  unfold atomsAnswered
  split
  · exact atomGo_canon op sc dbl _ _ _ hm
  · simp [hm]

@[simp] theorem engineUnit_canon (cmd : Cmd) (oc : OpCtx) (hm : m.Canon) : AllCanon (engineUnit cmd cf m oc) := by
  cases cmd <;> simp [engineUnit, hm]

@[simp] theorem opAnswered_canon (p : FabPend) (t : Nat) (k : EngCtx) (n : Nat) (hm : m.Canon) : (opAnswered cf m p t k n).Canon := by
  unfold opAnswered
  split
  · exact hm
  · rename_i o _
    split
    · exact hm
    · split
      · exact hm
      · exact Mach.withUnits_canon (fun n h => Mach.work_canon t k (fun m oc h => engineUnit_canon o.cmd oc h) 1 h) hm
    · dsimp only
      split <;> simp [hm]

@[simp] theorem readsAnswered_canon (xid : Nat) (hm : m.Canon) : (readsAnswered cf m xid).Canon := by
  unfold readsAnswered
  dsimp only
  split
  · exact hm
  · split
    · split
      · exact hm
      · split <;> simp [hm]
    · split
      · exact hm
      · split <;> simp [hm]
    · simp [hm]

@[simp] theorem Mach.takeAnswer_canon (xid num : Nat) (res : FabRes) (hm : m.Canon) : (m.takeAnswer xid num res).Canon := by
  simp [Mach.takeAnswer, hm]

@[simp] theorem fabricAnswer_canon (a : FabAns) (hm : m.Canon) : (fabricAnswer cf m a).Canon := by
  have h1 : (a.res.foldl (fun m r => m.takeAnswer a.xid r.1 r.2) m).Canon := canon_foldl (fun m x h => by simp [h]) _ hm
  simp [fabricAnswer, h1]

@[simp] theorem ownArrival_canon (r : FabReq) (hm : m.Canon) : (ownArrival cf m r).Canon := by
  unfold ownArrival
  split
  · rename_i e1
    have k1 := canon_of_snd e1 (by simp [hm])
    simp [hm, k1]
  · simp [hm]

@[simp] theorem Mach.unpark_canon  (hm : m.Canon) : (Mach.unpark cf m).Canon := by
  simp +contextual [Mach.unpark, hm]

@[simp] theorem Mach.endGet_canon (o : Op) (xid status sub : Nat) (addr : DWord) (hm : m.Canon) : (m.endGet o xid status sub addr).Canon := by
  simp +contextual [Mach.endGet, hm]

@[simp] theorem winAll_canon (part off : Nat) (n : Nat) (cls : Cls) (hm : m.Canon) : (winAll cf m part off n cls).2.Canon := by
  unfold winAll
  refine canon_foldl_snd (fun r x h1 => ?_) _ ?_
  · split
    · exact h1
    · split
      · rename_i e2
        have k2 := canon_of_snd e2 (by simp [hm, h1])
        exact k2
      · rename_i e2
        have k2 := canon_of_snd e2 (by simp [hm, h1])
        exact k2
  · exact hm

@[simp] theorem putLanding_canon (p : Packet) (hm : m.Canon) : (putLanding cf m p).2.Canon := by
  unfold putLanding
  dsimp only
  split
  · rename_i e1
    have k1 := canon_of_snd e1 (by simp [hm])
    exact k1
  · rename_i e1
    have k1 := canon_of_snd e1 (by simp [hm])
    split
    · exact k1
    · split
      · rename_i e2
        have k2 := canon_of_snd e2 (by simp [hm, k1])
        exact k2
      · rename_i e2
        have k2 := canon_of_snd e2 (by simp [hm, k1])
        exact k2

@[simp] theorem getLanding_canon (p : Packet) (hm : m.Canon) : (getLanding cf m p).2.Canon := by
  unfold getLanding
  dsimp only
  split
  · exact hm
  · split
    · rename_i e1
      have k1 := canon_of_snd e1 (by simp [hm])
      exact k1
    · rename_i e1
      have k1 := canon_of_snd e1 (by simp [hm])
      exact k1
    · rename_i e1
      have k1 := canon_of_snd e1 (by simp [hm])
      split
      · exact k1
      · split
        · rename_i e2
          have k2 := canon_of_snd e2 (by simp [hm, k1])
          exact k2
        · rename_i e2
          have k2 := canon_of_snd e2 (by simp [hm, k1])
          exact k2
        · rename_i e2
          have k2 := canon_of_snd e2 (by simp [hm, k1])
          exact k2

@[simp] theorem landing_canon (p : Packet) (hm : m.Canon) : (landing cf m p).2.Canon := by
  unfold landing
  split <;> simp [hm]

@[simp] theorem Mach.landPacket_canon (ws : List (Acc × List Byte)) (ctr : Option Acc) (n : Nat) (hm : m.Canon) : (m.landPacket ws ctr n).Canon := by
  unfold Mach.landPacket
  extract_lets m1
  have h1 : m1.Canon := canon_foldl (fun m x h => by simp [h]) _ hm
  split <;> simp [h1]

@[simp] theorem Mach.setInbound_canon (i : Inbound) : (m.setInbound i).Canon ↔ m.Canon := Mach.canon_congr rfl rfl rfl rfl

@[simp] theorem Mach.passInbound_canon (p : Packet) (hm : m.Canon) : (m.passInbound p).Canon := by
  simp [Mach.passInbound, hm]

@[simp] theorem Mach.gotPacket_canon (p : Packet) (hm : m.Canon) : (m.gotPacket p).Canon := by
  unfold Mach.gotPacket
  dsimp only
  split
  · exact hm
  · split
    · simp [hm]
    · exact hm

@[simp] theorem Mach.refusePacket_canon (p : Packet) (l : Landing) (hm : m.Canon) : (m.refusePacket p l).Canon := by
  unfold Mach.refusePacket
  split
  · simp [hm]
  · split
    · simp [hm]
    · exact hm
  · exact hm

@[simp] theorem landNow_canon (p : Packet) (hm : m.Canon) : (landNow cf m p).Canon := by
  unfold landNow
  dsimp only
  split
  · rename_i e1
    have k1 := canon_of_snd e1 (by simp [hm])
    simp [hm, k1]
  · rename_i e1
    have k1 := canon_of_snd e1 (by simp [hm])
    simp [hm, k1]

@[simp] theorem landDue_canon (src xid : Nat) (get : Bool) (hm : m.Canon) : (landDue cf m src xid get).Canon := by
  simp +contextual [landDue, hm]

@[simp] theorem closeMsg_canon (src xid : Nat) (hm : m.Canon) : (closeMsg cf m src xid).Canon := by
  simp [closeMsg, hm]

theorem takePacket_canon {p : Packet} {account : Mach → Option Nat → Mach} (ha : ∀ n o, n.Canon → (account n o).Canon) (hm : m.Canon) :
    (takePacket cf m p account).Canon := by
  unfold takePacket
  split
  · exact hm
  · rename_i e
    have k := canon_of_snd e (by simp [hm])
    dsimp only
    split
    · exact hm
    · simp [ha, k]
  · rename_i e
    have k := canon_of_snd e (by simp [hm])
    simp [k]

@[simp] theorem packetArrival_canon (p : Packet) (hm : m.Canon) : (packetArrival cf m p).Canon := by
  unfold packetArrival
  split
  · split
    · simp [hm]
    · split
      · simp [hm]
      · refine takePacket_canon (fun n o h1 => ?_) ?_
        · simp [hm, h1]
        · exact hm
  · split
    · exact hm
    · refine takePacket_canon (fun n o h1 => ?_) ?_
      · simp [hm, h1]
      · exact hm

@[simp] theorem orphan_canon (h : HReq) (hm : m.Canon) : (orphan cf m h).Canon := by
  unfold orphan
  dsimp only
  split
  · split <;> simp [hm]
  · simp [hm]

@[simp] theorem tokenExpiry_canon (id : Nat) (hm : m.Canon) : (tokenExpiry cf m id).Canon := by
  unfold tokenExpiry
  dsimp only
  split
  · exact hm
  · split
    · exact hm
    · split <;> simp [hm]

@[simp] theorem Mach.tellReq_canon (r : XferReq) (st : Status) (sub : Nat) : (m.tellReq r st sub).Canon ↔ m.Canon := Mach.canon_congr rfl rfl rfl rfl

@[simp] theorem requestArrival_canon (r : XferReq) (hm : m.Canon) : (requestArrival cf m r).Canon := by
  unfold requestArrival
  split
  · simp [hm]
  · split
    · simp [hm]
    · split
      · rename_i e1
        have k1 := canon_of_snd e1 (by simp [hm])
        simp [hm, k1]
      · rename_i e1
        have k1 := canon_of_snd e1 (by simp [hm])
        simp [hm, k1]
      · simp [hm]
      · rename_i e1
        have k1 := canon_of_snd e1 (by simp [hm])
        simp [hm, k1]
      · rename_i e1
        have k1 := canon_of_snd e1 (by simp [hm])
        simp [hm, k1]

@[simp] theorem Mach.saveLate_canon (t : Nat) (hm : m.Canon) : (m.saveLate cf t).Canon := by
  simp +contextual [Mach.saveLate, hm]

@[simp] theorem Mach.setServe_canon (s s' : Serve) : (m.setServe s s').Canon ↔ m.Canon := Mach.canon_congr rfl rfl rfl rfl
@[simp] theorem Mach.endServe_canon (s : Serve) (pos : Nat) (st : Status) (sub : Nat) : (m.endServe s pos st sub).Canon ↔ m.Canon := Mach.canon_congr rfl rfl rfl rfl

@[simp] theorem serveStep_canon (dev xid : Nat) (hm : m.Canon) : (serveStep cf m dev xid).Canon := by
  unfold serveStep
  dsimp only
  split
  · exact hm
  · split
    · exact hm
    · split
      · rename_i e1
        have k1 := canon_of_snd e1 (by simp [hm])
        simp [hm, k1]
      · rename_i e1
        have k1 := canon_of_snd e1 (by simp [hm])
        simp [hm, k1]
      · simp [hm]
      · simp [hm]
      · rename_i e1
        have k1 := canon_of_snd e1 (by simp [hm])
        simp [hm, k1]

@[simp] theorem grantArrival_canon (dev : Nat) (get : Bool) (g : Grant) (hm : m.Canon) : (grantArrival m dev get g).Canon := by
  unfold grantArrival
  split
  · split <;> simp [hm]
  · split <;> simp [hm]

@[simp] theorem revokeArrival_canon (dev token : Nat) (hm : m.Canon) : (revokeArrival m dev token).Canon := by
  simp [revokeArrival, hm]

@[simp] theorem withdrawArrival_canon (dev xid : Nat) (hm : m.Canon) : (withdrawArrival cf m dev xid).Canon := by
  unfold withdrawArrival
  extract_lets m1 m2
  have h1 : m1.Canon := canon_foldl (fun m x h => by simp [h]) _ hm
  have h2 : m2.Canon := canon_foldl (fun m x h => by simp [h]) _ h1
  simp [h2]

@[simp] theorem Mach.endPut_canon (o : Op) (x : Xfer) (hm : m.Canon) : (m.endPut o x).Canon := by
  unfold Mach.endPut
  split
  · simp [hm]
  · exact hm

@[simp] theorem Mach.stopPut_canon (o : Op) (x : Xfer) (dst st sub : Nat) (addr : DWord) (hm : m.Canon) : (m.stopPut o x dst st sub addr).Canon := by
  simp [Mach.stopPut, hm]

@[simp] theorem putAck_canon (oc : OpCtx) (d : XDesc) (x : Xfer) (a : XferAck) (hm : m.Canon) : (putAck cf m oc d x a).Canon := by
  unfold putAck
  dsimp only
  split <;> simp [hm]

@[simp] theorem xferAck_canon (a : XferAck) (hm : m.Canon) : (xferAck cf m a).Canon := by
  unfold xferAck
  dsimp only
  split
  · exact hm
  · split
    · split
      · exact hm
      · exact hm
      · simp [hm]
      · simp [hm]
      · simp [hm]
    · simp [hm]
    · exact hm

@[simp] theorem putSend_canon (oc : OpCtx) (d : XDesc) (x : Xfer) (pos n : Nat) (token : Option Nat) (o' : Op) (hm : m.Canon) : AllCanon (putSend cf m oc d x pos n token o') := by
  unfold putSend
  dsimp only
  split
  · rename_i e1
    have k1 := canon_of_snd e1 (by simp [hm])
    simp [hm, k1]
  · rename_i e1
    have k1 := canon_of_snd e1 (by simp [hm])
    simp [hm, k1]
  · rename_i e1
    have k1 := canon_of_snd e1 (by simp [hm])
    simp [hm, k1]

@[simp] theorem putUnit_canon (oc : OpCtx) (d : XDesc) (hm : m.Canon) : AllCanon (putUnit cf m oc d) := by
  unfold putUnit
  dsimp only
  split
  · simp [hm]
  · split
    · split <;> simp [hm]
    · split
      · simp [hm]
      · split
        · simp [hm]
        · split <;> simp [hm]

@[simp] theorem xputUnit_canon (oc : OpCtx) (hm : m.Canon) : AllCanon (xputUnit cf m oc) := by
  unfold xputUnit
  split <;> simp [hm]

@[simp] theorem xgetUnit_canon (oc : OpCtx) (hm : m.Canon) : AllCanon (xgetUnit cf m oc) := by
  unfold xgetUnit
  dsimp only
  split
  · split
    · simp [hm]
    · split
      · simp [hm]
      · split
        · rename_i e1
          have k1 := canon_of_snd e1 (by simp [hm])
          simp [hm, k1]
        · rename_i e1
          have k1 := canon_of_snd e1 (by simp [hm])
          simp [hm, k1]
        · rename_i e1
          have k1 := canon_of_snd e1 (by simp [hm])
          simp [hm, k1]
  · simp [hm]
  · simp [hm]

@[simp] theorem triggeredSend_canon (t n : Nat) (hm : m.Canon) : (triggeredSend cf m t n).Canon := by
  unfold triggeredSend
  split
  · exact hm
  · split
    · simp [hm]
    · exact hm

@[simp] theorem handleTrap_canon (c : Ctx) (sub : Nat) (addr : DWord) : (handleTrap m c sub addr).mach.Canon ↔ m.Canon := Mach.canon_congr rfl rfl rfl rfl
@[simp] theorem Mach.newEntry_canon (c : Ctx) (idx : Nat) : (m.newEntry cf c idx).2.Canon ↔ m.Canon := Mach.canon_congr rfl rfl rfl rfl

@[simp] theorem resolveRinv_canon (pt : Part) (k : InvBlk) (inv : Invocation) (hm : m.Canon) : (resolveRinv cf m pt k inv).Canon := by
  unfold resolveRinv
  dsimp only
  split
  · simp [hm]
  · split
    · simp [hm]
    · split <;> simp [hm]

@[simp] theorem Mach.dropRead_canon (r : FRef) : (m.dropRead r).Canon ↔ m.Canon := Mach.canon_congr rfl rfl rfl rfl
@[simp] theorem Mach.keepRead_canon (r : FRef) (bs : List Byte) : (m.keepRead r bs).2.Canon ↔ m.Canon := Mach.canon_congr rfl rfl rfl rfl

@[simp] theorem rinvSend_canon (c : Ctx) (pt : Part) (d : Dst) (k : InvBlk) (parent : Option Handle) (bs : List Byte) (hm : m.Canon) : (rinvSend cf m c pt d k parent bs).mach.Canon := by
  unfold rinvSend
  split
  · simp [hm]
  · refine afterWrites_canon (fun n h => ?_) (by split <;> simp [hm])
    extract_lets x args inv m0 m1
    have hx : x.2.Canon := by simp [x, h]
    have h1 : m1.Canon := by
      unfold m1
      split <;> simp [m0, hx]
    simp [h1]

@[simp] theorem rinvGo_canon (c : Ctx) (d : Dst) (b : Option Nat) (bs : List Byte) (asked : Bool) (hm : m.Canon) : (rinvGo cf m c d b bs asked).mach.Canon := by
  unfold rinvGo
  split
  · exact hm
  · simp [hm]
  · split <;> simp [hm]

@[simp] theorem rinvBody_canon (c : Ctx) (d : Dst) (a : Src) (b : Option Nat) (hm : m.Canon) : (rinvBody cf m c d a b).mach.Canon := by
  unfold rinvBody
  dsimp only
  split
  · simp [hm]
  · split
    · exact hm
    · refine withPlaces_canon (fun ps n h1 => ?_) ?_
      · split
        · simp [hm, h1]
        · simp [hm, h1]
        · split
          · refine withPlaces_canon (fun ps n h2 => ?_) ?_
            · simp [hm, h1, h2]
            · simp [hm, h1]
          · simp [hm, h1]
      · exact hm

theorem hwaitState_canon {c : Ctx} {trap : Bool} {d : Dst} {a b : Nat} {st : HState} {wait : Mach → Res} (hw : ∀ n, n.Canon → (wait n).mach.Canon)
    (hm : m.Canon) : (hwaitState cf m c trap d a b st wait).mach.Canon := by
  unfold hwaitState
  dsimp only
  split
  · split <;> simp [hm]
  · split
    · simp [hm]
    · exact withPlaces_canon (fun ps n h => by simp [h]) hm
  · exact hw m hm

@[simp] theorem askHome_canon (c : Ctx) (h : Handle) (free : Bool) : (askHome m c h free).2.Canon ↔ m.Canon := Mach.canon_congr rfl rfl rfl rfl
@[simp] theorem hwaitAsk_canon (c : Ctx) (h : Handle) : (hwaitAsk m c h).mach.Canon ↔ m.Canon := Mach.canon_congr rfl rfl rfl rfl
@[simp] theorem holdAsk_canon (c : Ctx) (h : Handle) (free : Bool) : (holdAsk m c h free).mach.Canon ↔ m.Canon := Mach.canon_congr rfl rfl rfl rfl

@[simp] theorem hwaitBody_canon (c : Ctx) (trap : Bool) (d : Dst) (a b : Nat) (hm : m.Canon) : (hwaitBody cf m c trap d a b).mach.Canon := by
  unfold hwaitBody
  split
  · exact hm
  · split
    · simp [hm]
    · split
      · exact hm
      · refine hwaitState_canon (fun n h1 => ?_) ?_
        · exact h1
        · exact hm

@[simp] theorem Mach.hfree_canon (dev p : Nat) (e : HEnt) (hm : m.Canon) : (m.hfree dev p e).Canon := by
  simp [Mach.hfree, hm]

@[simp] theorem hwaitComplete_canon (r : FRef) (hm : m.Canon) : (hwaitComplete cf m r).Canon := by
  unfold hwaitComplete
  split
  · simp [hm]
  · exact hm

@[simp] theorem handleAnswer_canon (xid : Nat) (st : Option HState) (hm : m.Canon) : (handleAnswer cf m xid st).Canon := by
  unfold handleAnswer
  split
  · exact hm
  · split
    · exact hm
    · split
      · simp [hm]
      · split
        · simp [hm]
        · simp [hm]
        · simp [hm]
        · simp [hm]
        · simp [hm]
        · exact Mach.resolve_canon _ (hwaitState_canon (fun n h => by simp [h]) hm)
        · simp [hm]
        · simp [hm]
        · exact hm

@[simp] theorem handleQuery_canon (dev part xid : Nat) (h : Handle) (free : Bool) (hm : m.Canon) : (handleQuery cf m dev part xid h free).Canon := by
  unfold handleQuery
  dsimp only
  split <;> simp [hm]

@[simp] theorem takeInv_canon (c : Ctx) (d : Dst) (ps : List (Req × Place)) (q : InvQ) (hm : m.Canon) : (takeInv m c d ps q).mach.Canon := by
  unfold takeInv
  extract_lets m1 m2 buf m3
  have h1 : m1.Canon := by simp [m1, hm]
  have h2 : m2.Canon := by simp [m2, h1]
  have h3 : m3.Canon := by
    refine canon_foldl (fun m x h => ?_) _ h2
    split <;> simp [h]
  simp [h3]

@[simp] theorem iwaitBody_canon (c : Ctx) (d : Dst) (a b : Src) (hm : m.Canon) : (iwaitBody cf m c d a b).mach.Canon := by
  unfold iwaitBody
  dsimp only
  split
  · exact hm
  · split
    · exact hm
    · refine withPlaces_canon (fun ps n h1 => ?_) ?_
      · split
        · simp [hm, h1]
        · exact h1
      · exact hm

@[simp] theorem iwaitTake_canon (r : FRef) (hm : m.Canon) : (iwaitTake cf m r).Canon := by
  unfold iwaitTake
  split
  · simp [hm]
  · exact hm

@[simp] theorem invocationArrival_canon (i : Invocation) (hm : m.Canon) : (invocationArrival cf m i).Canon := by
  unfold invocationArrival
  dsimp only
  split
  · simp [hm]
  · split
    · simp [hm]
    · split
      · simp [hm]
      · split <;> simp [hm]

@[simp] theorem invocationPlace_canon (part idx : Nat) (hm : m.Canon) : (invocationPlace cf m part idx).Canon := by
  unfold invocationPlace
  split
  · split
    · exact hm
    · simp [hm]
  · exact hm

@[simp] theorem dropInv_canon (dev : Nat) (q : InvQ) (cause depth : Nat) (hm : m.Canon) : (dropInv m dev q cause depth).Canon := by
  unfold dropInv
  dsimp only
  split <;> simp [hm]

@[simp] theorem forwardHome_canon (qs : List InvQ) (q : InvQ) (p : Handle) (hm : m.Canon) : (forwardHome cf m qs q p).Canon := by
  unfold forwardHome
  dsimp only
  split
  · simp [hm]
  · split
    · simp [hm]
    · exact hm
    · exact hm
    · simp [hm]

@[simp] theorem forwardResult_canon (qs : List InvQ) (q : InvQ) (p : Handle) (r : Nat) (hm : m.Canon) : (forwardResult cf m qs q p r).Canon := by
  unfold forwardResult
  dsimp only
  split
  · simp [hm]
  · split
    · simp [hm]
    · split
      · simp [hm]
      · simp [hm]
      · exact hm

@[simp] theorem rinvhForward_canon (part idx : Nat) (hm : m.Canon) : (rinvhForward cf m part idx).Canon := by
  unfold rinvhForward
  dsimp only
  split
  · exact hm
  · split
    · simp [hm]
    · simp [hm]
    · exact hm

@[simp] theorem Mach.freeBytes_canon (n : Nat) : (m.freeBytes n).2.Canon ↔ m.Canon := Mach.canon_congr rfl rfl rfl rfl
@[simp] theorem Mach.reportPoison_canon (rg : Region) (who : DieAgent) (ppa : Nat) : (m.reportPoison rg who ppa).Canon ↔ m.Canon := Mach.canon_congr rfl rfl rfl rfl

@[simp] theorem dieRead_canon (rg : Region) (die : Nat) (g : DieAgent) (md : ReadMode) (a n : Nat) (hm : m.Canon) : (dieRead cf m rg die g md a n).2.Canon := by
  simp [dieRead, hm]

@[simp] theorem batRead_canon (rg : Region) (die : Nat) (md : ReadMode) (a n : Nat) (hm : m.Canon) : (batRead cf m rg die md a n).2.Canon := by
  unfold batRead
  dsimp only
  split
  · rename_i e1
    have k1 := canon_of_snd e1 (by simp [hm])
    exact k1
  · rename_i e1
    have k1 := canon_of_snd e1 (by simp [hm])
    exact k1
  · rename_i e1
    have k1 := canon_of_snd e1 (by simp [hm])
    simp [hm, k1]
  · rename_i e1
    have k1 := canon_of_snd e1 (by simp [hm])
    simp [hm, k1]

@[simp] theorem spinWord_canon (rg : Region) (die a n : Nat) (hm : m.Canon) : (spinWord cf m rg die a n).2.Canon := by
  unfold spinWord
  split
  · rename_i e1
    have k1 := canon_of_snd e1 (by simp [hm])
    exact k1
  · rename_i e1
    have k1 := canon_of_snd e1 (by simp [hm])
    simp [hm, k1]
  · rename_i e1
    have k1 := canon_of_snd e1 (by simp [hm])
    exact k1

@[simp] theorem strideStep_canon (rg : Region) (die : Nat) (reads : List (ReadMode × Nat × Nat)) (make : List Nat → List (Nat × List Byte)) (k : Stride) (hm : m.Canon) : (strideStep cf m rg die reads make k).2.Canon := by
  unfold strideStep
  dsimp only
  split
  · split
    · rename_i e1
      have k1 := canon_of_snd e1 (by simp [hm])
      exact k1
    · rename_i e1
      have k1 := canon_of_snd e1 (by simp [hm])
      exact k1
  · split
    · exact hm
    · split
      · rename_i e1
        have k1 := canon_of_snd e1 (by simp [hm])
        exact k1
      · rename_i e1
        have k1 := canon_of_snd e1 (by simp [hm])
        exact k1

@[simp] theorem spinRead_canon (rg : Region) (s : Spin) (hm : m.Canon) : (spinRead cf m rg s).2.Canon := by
  unfold spinRead
  dsimp only
  split
  · split
    · rename_i e1
      have k1 := canon_of_snd e1 (by simp [hm])
      exact k1
    · rename_i e1
      have k1 := canon_of_snd e1 (by simp [hm])
      exact k1
  · split
    · rename_i e1
      have k1 := canon_of_snd e1 (by simp [hm])
      exact k1
    · rename_i e1
      have k1 := canon_of_snd e1 (by simp [hm])
      exact k1

@[simp] theorem Mach.setSpin_canon (r die : Nat) (s : Option Spin) : (m.setSpin r die s).Canon ↔ m.Canon := Mach.canon_congr rfl rfl rfl rfl

@[simp] theorem spinSend_canon (rg : Region) (fr : Frag) (s : Spin) (hm : m.Canon) : (spinSend cf m rg fr s).Canon := by
  have k : ∀ f, (m.setFrag cf rg f).2.Canon := fun f => by simp [hm]
  unfold spinSend
  extract_lets round mb q dm
  split
  · exact k _
  · split
    · exact canon_of_snd ‹_› (k _)
    · have h := canon_of_snd ‹_› (k _)
      extract_lets m1
      have h1 : m1.Canon := by simp [m1, h]
      exact Mach.normCheck_canon _ (canon_foldl (fun m x h => by simp [h]) _ h1)

@[simp] theorem spinUnit_canon (rg : Region) (s : Spin) (hm : m.Canon) : (spinUnit cf m rg s).Canon := by
  unfold spinUnit
  dsimp only
  split
  · simp [hm]
  · split
    · simp [hm]
    · split
      · split
        · rename_i e1
          have k1 := canon_of_snd e1 (by simp [hm])
          exact k1
        · rename_i e1
          have k1 := canon_of_snd e1 (by simp [hm])
          simp [hm, k1]
      · simp [hm]

@[simp] theorem spinUnits_canon (r die : Nat) : ∀ (n : Nat) {m : Mach}, m.Canon → (spinUnits cf r die n m).Canon
  | 0, _, hm => hm
  | n + 1, m, hm => by
    unfold spinUnits
    split
    · exact hm
    · exact spinUnits_canon r die n (by simp [hm])

@[simp] theorem spindleSend_canon (r die n : Nat) (hm : m.Canon) : (spindleSend cf m r die n).Canon := by
  unfold spindleSend
  dsimp only
  split
  · exact hm
  · split
    · simp [hm]
    · exact hm
    · simp [hm]

@[simp] theorem Mach.setFold_canon (r : Nat) (fo : Fold) : (m.setFold r fo).Canon ↔ m.Canon := Mach.canon_congr rfl rfl rfl rfl
@[simp] theorem Mach.endRound_canon (r f round : Nat) : (m.endRound r f round).Canon ↔ m.Canon := Mach.canon_congr rfl rfl rfl rfl

@[simp] theorem endFold_canon (rg : Region) (fr : Frag) (poison : Bool) (hm : m.Canon) : (endFold cf m rg fr poison).Canon := by
  unfold endFold
  split
  · rename_i e1
    have k1 := canon_of_snd e1 (by simp [hm])
    exact k1
  · rename_i e1
    have k1 := canon_of_snd e1 (by simp [hm])
    simp [hm, k1]

@[simp] theorem battenFold_canon (r f : Nat) (hm : m.Canon) : (battenFold cf m r f).Canon := by
  unfold battenFold
  dsimp only
  split
  · exact hm
  · split
    · split
      · split
        · rename_i e1
          have k1 := canon_of_snd e1 (by simp [hm])
          exact k1
        · rename_i e1
          have k1 := canon_of_snd e1 (by simp [hm])
          simp [hm, k1]
      · split <;> simp [hm]
    · simp [hm]

@[simp] theorem Mach.flushAll_canon (sp : Space) (addr n : Nat) (hm : m.Canon) : (m.flushAll sp addr n).Canon := by
  simp +contextual [Mach.flushAll, hm]

@[simp] theorem flushRange_canon (rg : Region) (die a n : Nat) (hm : m.Canon) : (flushRange cf m rg die a n).2.Canon := by
  unfold flushRange
  split
  · rename_i e1
    have k1 := canon_of_snd e1 (by simp [hm])
    simp [hm, k1]
  · rename_i e1
    have k1 := canon_of_snd e1 (by simp [hm])
    exact k1
  · rename_i e1
    have k1 := canon_of_snd e1 (by simp [hm])
    exact k1

@[simp] theorem Mach.setPass_canon (r : Nat) (k : PassAt) : (m.setPass r k).Canon ↔ m.Canon := Mach.canon_congr rfl rfl rfl rfl

@[simp] theorem passStage_canon (rg : Region) (hm : m.Canon) : (passStage m rg).Canon := by
  unfold passStage
  dsimp only
  split
  · simp [hm]
  · simp [hm]
  · simp +contextual [hm]
  · simp [hm]

@[simp] theorem passFrag_canon (rg : Region) (f : Nat) (hm : m.Canon) : (passFrag cf m rg f).2.Canon := by
  unfold passFrag
  dsimp only
  split
  · split
    · split
      · rename_i e1
        have k1 := canon_of_snd e1 (by simp [hm])
        exact k1
      · rename_i e1
        have k1 := canon_of_snd e1 (by simp [hm])
        simp [hm, k1]
    · split
      · exact hm
      · split
        · rename_i e1
          have k1 := canon_of_snd e1 (by simp [hm])
          exact k1
        · rename_i e1
          have k1 := canon_of_snd e1 (by simp [hm])
          simp [hm, k1]
  · split
    · exact hm
    · simp [hm]
  · simp [hm]
  · simp [hm]

@[simp] theorem mergePass_canon (r : Nat) (hm : m.Canon) : (mergePass cf m r).Canon := by
  unfold mergePass
  dsimp only
  split
  · exact hm
  · split
    · exact hm
    · split
      · simp [hm]
      · split
        · rename_i e1
          have k1 := canon_of_snd e1 (by simp [hm])
          exact k1
        · rename_i e1
          have k1 := canon_of_snd e1 (by simp [hm])
          simp [hm, k1]

@[simp] theorem islandSilent_canon (r f island : Nat) (hm : m.Canon) : (islandSilent m r f island).Canon := by
  unfold islandSilent
  dsimp only
  split
  · exact hm
  · split
    · exact hm
    · simp [hm]

theorem planeBody_canon {c : Ctx} {k : Nat} {deliver : Bool} {go : Region → Res} (hgo : ∀ rg, (go rg).mach.Canon) (hm : m.Canon) :
    (planeBody m c k deliver go).mach.Canon := by
  unfold planeBody
  split
  · exact hm
  · split
    · rename_i e
      split at e
      · exact Mach.diverge_canon _ _ hm _ e
      · cases e
    · exact hgo _

@[simp] theorem Mach.setDepth_canon (r : FRef) (k d : Nat) : (m.setDepth r k d).Canon ↔ m.Canon := Mach.canon_congr rfl rfl rfl rfl
@[simp] theorem Mach.openWindow_canon (c : Ctx) (rg : Region) (k : Nat) : (m.openWindow c rg k).Canon ↔ m.Canon := Mach.canon_congr rfl rfl rfl rfl

@[simp] theorem wopenBody_canon (c : Ctx) (k : Nat) (hm : m.Canon) : (wopenBody m c k).mach.Canon := by
  unfold wopenBody
  refine planeBody_canon (fun rg => ?_) ?_
  · simp [hm]
  · exact hm

@[simp] theorem wcloseBody_canon (c : Ctx) (k : Nat) (hm : m.Canon) : (wcloseBody m c k).mach.Canon := by
  unfold wcloseBody
  refine planeBody_canon (fun rg => ?_) ?_
  · simp [hm]
  · exact hm

@[simp] theorem Mach.quiesce_canon (c : Ctx) (hm : m.Canon) : (m.quiesce c).Canon := by
  simp [Mach.quiesce, hm]

@[simp] theorem pmergeBody_canon (c : Ctx) (d : Dst) (k : Nat) (hm : m.Canon) : (pmergeBody m c d k).mach.Canon := by
  unfold pmergeBody
  refine planeBody_canon (fun rg => ?_) ?_
  · simp [hm]
  · exact hm

@[simp] theorem quadLate_canon (c : Ctx) (d : Dst) (w : Nat → Word) (hm : m.Canon) : (quadLate m c d w).mach.Canon := by
  unfold quadLate
  split
  · simp [hm]
  · exact hm

@[simp] theorem pstatBody_canon (c : Ctx) (d : Dst) (a : Src) (k : Nat) (hm : m.Canon) : (pstatBody cf m c d a k).mach.Canon := by
  unfold pstatBody
  refine planeBody_canon (fun rg => ?_) ?_
  · dsimp only
    split
    · simp [hm]
    · split
      · rename_i e2
        have k2 := canon_of_snd e2 (by simp [hm])
        simp [hm, k2]
      · rename_i e2
        have k2 := canon_of_snd e2 (by simp [hm])
        simp [hm, k2]
      · rename_i e2
        have k2 := canon_of_snd e2 (by simp [hm])
        exact k2
      · rename_i e2
        have k2 := canon_of_snd e2 (by simp [hm])
        exact k2
  · exact hm

@[simp] theorem ptrickBody_canon (c : Ctx) (d : Dst) (a : Src) (k : Nat) (hm : m.Canon) : (ptrickBody m c d a k).mach.Canon := by
  unfold ptrickBody
  refine planeBody_canon (fun rg => ?_) ?_
  · simp [hm]
  · exact hm

@[simp] theorem dchkBody_canon (c : Ctx) (d : Dst) (k : Nat) (hm : m.Canon) : (dchkBody m c d k).mach.Canon := by
  unfold dchkBody
  refine planeBody_canon (fun rg => ?_) ?_
  · simp [hm]
  · exact hm

@[simp] theorem wopenProceed_canon (r : FRef) (hm : m.Canon) : (wopenProceed cf m r).Canon := by
  unfold wopenProceed
  split
  · dsimp only
    split
    · split <;> simp [hm]
    · split <;> simp [hm]
    · split <;> simp [hm]
  · exact hm

@[simp] theorem readRec_canon (la : Launch) (hm : m.Canon) : (readRec cf m la).2.Canon := by
  unfold readRec
  split
  · exact hm
  · simp [hm]

@[simp] theorem Mach.enableQueue_canon (q : Nat) (hm : m.Canon) : (m.enableQueue q).Canon := by
  simp [Mach.enableQueue, hm]

@[simp] theorem Mach.disableQueue_canon (q : Nat) (hm : m.Canon) : (m.disableQueue q).Canon := by
  simp [Mach.disableQueue, hm]

@[simp] theorem Mach.queueWrite_canon (q off v : Nat) (hm : m.Canon) : (m.queueWrite q off v).Canon := by
  unfold Mach.queueWrite
  dsimp only
  split
  · exact hm
  · split
    · simp [hm]
    · simp [hm]
    · simp [hm]
    · simp [hm]
    · simp [hm]
    · exact hm

@[simp] theorem Mach.closeEntry_canon (q : Nat) (e : Entry) (st : Nat) (d1 d2 : DWord) (hm : m.Canon) : (m.closeEntry q e st d1 d2).Canon := by
  simp [Mach.closeEntry, hm]

@[simp] theorem Mach.completeEntry_canon (q : Nat) (e : Entry) (st : Nat) (d1 d2 : DWord) (hm : m.Canon) : (m.completeEntry q e st d1 d2).Canon := by
  simp [Mach.completeEntry, hm]

@[simp] theorem Mach.closeDrained_canon (q : Nat) (hm : m.Canon) : (m.closeDrained q).Canon := by
  unfold Mach.closeDrained
  refine canon_foldl (fun m x h1 => ?_) _ ?_
  · split
    · simp [hm, h1]
    · exact h1
  · exact hm

@[simp] theorem qHost_canon (a n : Nat) (hm : m.Canon) : (qHost m a n).2.Canon := by
  simp +contextual [qHost, hm]

@[simp] theorem Mach.qPoison_canon (q addr : Nat) : (m.qPoison q addr).Canon ↔ m.Canon := Mach.canon_congr rfl rfl rfl rfl

@[simp] theorem queueFetch_canon (q : Nat) (hm : m.Canon) : (queueFetch cf m q).Canon := by
  simp [queueFetch, hm]

@[simp] theorem Mach.setEntryOf_canon (q : Nat) (e : Entry) : (m.setEntryOf q e).Canon ↔ m.Canon := Mach.canon_congr rfl rfl rfl rfl

@[simp] theorem qReach_canon (q a : Nat) (cls : Cls) (hm : m.Canon) : (qReach cf m q a cls).2.Canon := by
  unfold qReach
  dsimp only
  split
  · exact hm
  · split
    · rename_i e1
      have k1 := canon_of_snd e1 (by simp [hm])
      split <;> simp [hm, k1]
    · simp [hm]

@[simp] theorem qWord_canon (q a : Nat) (cls : Cls) (hm : m.Canon) : (qWord cf m q a cls).2.Canon := by
  unfold qWord
  split
  · exact hm
  · simp [hm]

@[simp] theorem launchSubmit_canon (q : Nat) (hm : m.Canon) : (launchSubmit m q).Canon := by
  unfold launchSubmit
  dsimp only
  split
  · exact hm
  · simp [hm]

@[simp] theorem waitStart_canon (q : Nat) (hm : m.Canon) : (waitStart cf m q).Canon := by
  have k : ∀ w c, (qWord cf m q w c).2.Canon := fun w c => by simp [hm]
  unfold waitStart
  split
  · exact hm
  · split
    · simp [canon_of_snd ‹_› (k _ _)]
    · simp [canon_of_snd ‹_› (k _ _)]

@[simp] theorem queueWaitComplete_canon (q : Nat) (hm : m.Canon) : (queueWaitComplete cf m q).Canon := by
  have k : ∀ w c, (qWord cf m q w c).2.Canon := fun w c => by simp [hm]
  unfold queueWaitComplete
  split
  · exact hm
  · split
    · simp [canon_of_snd ‹_› (k _ _)]
    · simp [canon_of_snd ‹_› (k _ _)]
    · have h := canon_of_snd ‹_› (k _ _)
      split
      · simp [h]
      · dsimp only
        split <;> simp [h]

@[simp] theorem queueWaitTimeout_canon (q : Nat) (hm : m.Canon) : (queueWaitTimeout m q).Canon := by
  unfold queueWaitTimeout
  split
  · exact hm
  · simp [hm]

@[simp] theorem signalCmd_canon (q : Nat) (hm : m.Canon) : (signalCmd cf m q).Canon := by
  have k : ∀ w c, (qWord cf m q w c).2.Canon := fun w c => by simp [hm]
  unfold signalCmd
  split
  · exact hm
  · split
    · simp [canon_of_snd ‹_› (k _ _)]
    · simp [canon_of_snd ‹_› (k _ _)]
    · rename_i n' e
      have h := canon_of_snd e (k _ _)
      extract_lets go m1 ws
      have hgo : ∀ n, n.Canon → (go n).Canon := fun n h => by simp [go, h]
      have h1 : m1.Canon := by simp [m1, h]
      split
      · simp [h]
      · split
        · split
          · exact h
          · exact hgo _ h1
        · split
          · exact hgo _ h1
          · simp [h1]

@[simp] theorem copyStart_canon (q : Nat) (hm : m.Canon) : (copyStart cf m q).Canon := by
  unfold copyStart
  split
  · exact hm
  · dsimp only
    split <;> simp [hm]

@[simp] theorem copyPiece_canon (q s d n : Nat) (hm : m.Canon) : (copyPiece cf m q s d n).2.2.Canon := by
  unfold copyPiece
  dsimp only
  split
  · rename_i e1
    have k1 := canon_of_snd e1 (by simp [hm])
    exact k1
  · rename_i e1
    have k1 := canon_of_snd e1 (by simp [hm])
    exact k1
  · rename_i e1
    have k1 := canon_of_snd e1 (by simp [hm])
    split
    · rename_i e2
      have k2 := canon_of_snd e2 (by simp [hm, k1])
      exact k2
    · rename_i e2
      have k2 := canon_of_snd e2 (by simp [hm, k1])
      exact k2
    · rename_i e2
      have k2 := canon_of_snd e2 (by simp [hm, k1])
      split <;> simp [hm, k1, k2]

@[simp] theorem queueCopy_canon (q : Nat) : ∀ (n : Nat) {m : Mach}, m.Canon → (queueCopy cf q n m).Canon
  | 0, _, hm => hm
  | n + 1, m, hm => by
    unfold queueCopy
    split
    · exact hm
    · dsimp only
      split
      · exact hm
      · split
        · simp [hm]
        · split
          · rename_i e
            have k := canon_of_snd_snd e (by simp [hm])
            split
            · simp [k]
            · exact queueCopy_canon q n (by simp [k])
          · rename_i e
            have k := canon_of_snd_snd e (by simp [hm])
            simp [k]
          · rename_i e
            exact canon_of_snd_snd e (by simp [hm])

@[simp] theorem Mach.flushPart_canon (p : Nat) (hm : m.Canon) : (m.flushPart p).Canon := by
  simp +contextual [Mach.flushPart, hm]

@[simp] theorem Mach.dropXlate_canon (p x a n : Nat) : (m.dropXlate p x a n).Canon ↔ m.Canon := Mach.canon_congr rfl rfl rfl rfl

@[simp] theorem Mach.lookAgain_canon (p x : Nat) (hm : m.Canon) : (Mach.lookAgain cf m p x).Canon := by
  unfold Mach.lookAgain
  refine canon_foldl (fun m x h1 => ?_) _ ?_
  · split
    · split
      · split
        · simp [hm, h1]
        · exact h1
      · exact h1
    · exact h1
  · refine canon_foldl (fun m x h1 => ?_) _ ?_
    · split
      · simp [hm, h1]
      · exact h1
    · exact hm

@[simp] theorem xlinvCmd_canon (q : Nat) (hm : m.Canon) : (xlinvCmd cf m q).Canon := by
  unfold xlinvCmd
  split
  · exact hm
  · extract_lets w win all x p m1 m2
    have h1 : m1.Canon := by
      unfold m1
      split <;> simp [hm]
    have h2 : m2.Canon := by simp [m2, h1]
    split
    · simp [hm]
    · split <;> simp [h2]

@[simp] theorem Mach.extendLater_canon (k : Nat) (record : List Byte) : (m.extendLater k record).Canon ↔ m.Canon := Mach.canon_congr rfl rfl rfl rfl
@[simp] theorem Mach.keepLines_canon (pt : Part) : (m.keepLines cf pt).Canon ↔ m.Canon := Mach.canon_congr rfl rfl rfl rfl

@[simp] theorem ctxcfgCmd_canon (q : Nat) (hm : m.Canon) : (ctxcfgCmd cf m q).2.Canon := by
  unfold ctxcfgCmd
  split
  · exact hm
  · extract_lets r p x
    have hr : r.2.Canon := by simp [r, hm]
    split
    · simp [hr]
    · split <;> simp [hr]

@[simp] theorem completionPost_canon (q : Nat) (hm : m.Canon) : (completionPost m q).Canon := by
  unfold completionPost
  extract_lets m1 qu next a
  have h1 : m1.Canon := by simp [m1, hm]
  split
  · exact h1
  · extract_lets m2 m3
    have h2 : m2.Canon := canon_foldl (fun m x h => by simp [h]) _ h1
    have h3 : m3.Canon := by simp [m3, h2]
    split
    · exact h1
    · split
      · simp [h1]
      · split <;> simp [h3]

@[simp] theorem planeRead_canon (p x a n : Nat) (hm : m.Canon) : (planeRead cf m p x a n).2.Canon := by
  unfold planeRead
  split
  · rename_i e1
    have k1 := canon_of_snd e1 (by simp [hm])
    exact k1
  · rename_i e1
    have k1 := canon_of_snd e1 (by simp [hm])
    exact k1

@[simp] theorem readMembers_canon (p x a : Nat) (hm : m.Canon) : (readMembers cf m p x a).2.Canon := by
  unfold readMembers
  dsimp only
  split
  · rename_i e1
    have k1 := canon_of_snd e1 (by simp [hm])
    exact k1
  · rename_i e1
    have k1 := canon_of_snd e1 (by simp [hm])
    split
    · exact k1
    · split
      · rename_i e2
        have k2 := canon_of_snd e2 (by simp [hm, k1])
        exact k2
      · rename_i e2
        have k2 := canon_of_snd e2 (by simp [hm, k1])
        split <;> exact k2

/-- The machine a plane command's work answers with. -/
@[irreducible] def PlaneR.AllCanon : PlaneR → Prop
  | .begun _ m | .ok m | .wait m => m.Canon
  | .fault _ => True

@[simp] theorem PlaneR.allCanon_wait : (PlaneR.wait m).AllCanon ↔ m.Canon := by rw [AllCanon]
@[simp] theorem PlaneR.allCanon_fault (u : Option Nat) : (PlaneR.fault u).AllCanon := by rw [AllCanon]; trivial
@[simp] theorem PlaneR.allCanon_begun (r : Nat) : (PlaneR.begun r m).AllCanon ↔ m.Canon := by rw [AllCanon]
@[simp] theorem PlaneR.allCanon_ok : (PlaneR.ok m).AllCanon ↔ m.Canon := by rw [AllCanon]

@[simp] theorem planeCmd_canon (q pcop : Nat) {go : Nat → Nat → Nat → Entry → PlaneR} (hm : m.Canon) (hgo : ∀ p x a e, (go p x a e).AllCanon) :
    (planeCmd m q pcop go).Canon := by
  unfold planeCmd
  split
  · exact hm
  · extract_lets w bad
    split
    · exact hm
    · generalize hr : ite (bad = true) _ _ = r
      have k : r.AllCanon := by
        rw [← hr]
        split
        · exact PlaneR.allCanon_fault _
        · exact hgo _ _ _ _
      cases r with
      | wait n => simpa using k
      | fault u => cases u <;> simp [hm]
      | begun r n => simpa using k
      | ok n => exact Mach.completeEntry_canon _ _ _ _ _ (by simpa using k)

@[simp] theorem bindUnit_canon (q : Nat) (e : Entry) (hm : m.Canon) : (bindUnit cf m q e).Canon := by
  unfold bindUnit
  dsimp only
  split
  · exact hm
  · split
    · split
      · rename_i e1
        have k1 := canon_of_snd e1 (by simp [hm])
        exact k1
      · rename_i e1
        have k1 := canon_of_snd e1 (by simp [hm])
        simp [hm, k1]
    · simp [hm]

@[simp] theorem readPair_canon (p x : Nat) (desc : List Byte) (hm : m.Canon) : (readPair cf m p x desc).2.Canon := by
  have k : ∀ p x a n, (planeRead cf m p x a n).2.Canon := fun p x a n => by simp [hm]
  unfold readPair
  split
  · split
    · exact canon_of_snd ‹_› (k _ _ _ _)
    · exact k _ _ _ _
  · exact hm

@[simp] theorem Mach.addGroups_canon (rc : LRec) (t core : Nat) (hm : m.Canon) : (m.addGroups rc t core).Canon := by
  simp [Mach.addGroups, hm]

@[simp] theorem Mach.addTeam_canon (c l idx : Nat) (rc : LRec) (st : Seat) (hm : m.Canon) : (m.addTeam c l idx rc st).Canon := by
  unfold Mach.addTeam
  refine canon_foldl (fun m x h1 => ?_) _ ?_
  · simp [hm, h1]
  · simp +contextual [hm]

@[simp] theorem Mach.addCluster_canon (la : Launch) (rc : LRec) (num : Nat) (os : List Origin) (seats : List Seat) (hm : m.Canon) : (m.addCluster la rc num os seats).Canon := by
  simp +contextual [Mach.addCluster, hm]

@[simp] theorem Mach.writeWindows_canon (l : Nat) (hm : m.Canon) : (Mach.writeWindows cf m l).Canon := by
  unfold Mach.writeWindows
  dsimp only
  split
  · exact hm
  · split
    · simp +contextual [hm]
    · exact hm

@[simp] theorem Mach.endLaunch_canon (la : Launch) (st : Nat) (d1 d2 : DWord) (hm : m.Canon) : (m.endLaunch cf la st d1 d2).Canon := by
  unfold Mach.endLaunch
  refine canon_foldl (fun m x h1 => ?_) _ ?_
  · simp [hm, h1]
  · split <;> simp [hm]

@[simp] theorem Mach.launchCheck_canon (l : Nat) (hm : m.Canon) : (m.launchCheck cf l).Canon := by
  unfold Mach.launchCheck
  dsimp only
  split
  · exact hm
  · split
    · exact hm
    · simp [hm]

@[simp] theorem Mach.refuse_canon (la : Launch) (hm : m.Canon) : (m.refuse cf la).Canon := by
  simp [Mach.refuse, hm]

@[simp] theorem Mach.startClusters_canon (la : Launch) (rc : LRec) (places : List (List Origin)) (seats : List (List Seat)) (hm : m.Canon) : (m.startClusters la rc places seats).Canon := by
  simp +contextual [Mach.startClusters, hm]

@[simp] theorem Mach.admitAt_canon (la : Launch) (rc : LRec) (places : List (List Origin)) (seats : List (List Seat)) (hm : m.Canon) : (Mach.admitAt cf m la rc places seats).Canon := by
  unfold Mach.admitAt
  dsimp only
  split <;> simp [hm]

@[simp] theorem Mach.choose_canon (cs : List Nat) (deadline : Option Nat) (who : Option (Nat × Nat)) (hm : m.Canon) : (m.choose cs deadline who).Canon := by
  simp [Mach.choose, hm]

@[simp] theorem Mach.evict_canon (pt : Part) (la : Launch) (rc : LRec) (hm : m.Canon) : (Mach.evict cf m pt la rc).Canon := by
  unfold Mach.evict
  split
  · simp [hm]
  · exact hm

@[simp] theorem launchAdmit_canon (l : Nat) (place : List (List Origin)) (hm : m.Canon) : (launchAdmit cf m l place).Canon := by
  unfold launchAdmit
  dsimp only
  split
  · exact hm
  · split
    · simp [hm]
    · split
      · exact hm
      · split
        · rename_i e1
          have k1 := canon_of_snd e1 (by simp [hm])
          simp [hm, k1]
        · rename_i e1
          have k1 := canon_of_snd e1 (by simp [hm])
          simp [hm, k1]
        · rename_i e1
          have k1 := canon_of_snd e1 (by simp [hm])
          exact k1
        · rename_i e1
          have k1 := canon_of_snd e1 (by simp [hm])
          split
          · simp [hm, k1]
          · split
            · exact hm
            · split <;> simp [hm, k1]

@[simp] theorem recheckLaunches_canon (p : Nat) (hm : m.Canon) : (recheckLaunches cf m p).Canon := by
  refine canon_foldl (fun m la h => ?_) _ hm
  have k : (readRec cf m la).2.Canon := by simp [h]
  dsimp only
  split
  · exact h
  · split
    · have h1 := canon_of_snd ‹_› k
      split <;> simp [h, h1]
    · exact h

@[simp] theorem Mach.trimShared_canon (die p n : Nat) : (m.trimShared die p n).Canon ↔ m.Canon := Mach.canon_congr rfl rfl rfl rfl

@[simp] theorem partcfgCmd_canon (q : Nat) (hm : m.Canon) : (partcfgCmd cf m q).2.Canon := by
  unfold partcfgCmd
  split
  · exact hm
  · extract_lets r p pt m0 m1 m2
    have hr : r.2.Canon := by simp [r, hm]
    split
    · simp [hr]
    · split
      · have h1 : m1.Canon := by simp [m1, m0, hr]
        have h2 : m2.Canon := canon_foldl (fun m x h => by simp [h]) _ h1
        simp [h2]
      · simp [hr]

@[simp] theorem clusterStart_canon (l : Nat) (place : List Origin) (hm : m.Canon) : (clusterStart cf m l place).Canon := by
  unfold clusterStart
  split
  · exact hm
  · split
    · split
      · split
        · simp [hm]
        · exact hm
      · exact hm
    · exact hm

@[simp] theorem Mach.startGroup_canon (rc : LRec) (core t g : Nat) : (m.startGroup rc core t g).Canon ↔ m.Canon := Mach.canon_congr rfl rfl rfl rfl

@[simp] theorem groupStart_canon (c : Nat) (hm : m.Canon) : (groupStart m c).Canon := by
  unfold groupStart
  dsimp only
  split
  · exact hm
  · split
    · exact hm
    · split
      · exact hm
      · simp +contextual [hm]

@[simp] theorem Mach.flushCluster_canon (c : Nat) (hm : m.Canon) : (m.flushCluster c).Canon := by
  simp +contextual [Mach.flushCluster, hm]

@[simp] theorem Mach.dropTeam_canon (tm : Team) (pairmask : Nat) (hm : m.Canon) : (m.dropTeam tm pairmask).Canon :=
  Mach.canon_iff.mpr (dropTeam_canonical tm pairmask (Mach.canon_iff.mp hm))

@[simp] theorem Mach.dropCluster_canon (cl : Cluster) (pairmask : Nat) (hm : m.Canon) : (m.dropCluster cl pairmask).Canon := by
  unfold Mach.dropCluster
  refine canon_foldl (fun m x h1 => ?_) _ ?_
  · simp [hm, h1]
  · simp +contextual [hm]

@[simp] theorem Mach.preemptsDone_canon  (hm : m.Canon) : (m.preemptsDone).Canon := by
  unfold Mach.preemptsDone
  refine canon_foldl (fun m x h1 => ?_) _ ?_
  · split
    · exact h1
    · simp [hm, h1]
  · exact hm

@[simp] theorem allocationRelease_canon (c : Nat) (hm : m.Canon) : (allocationRelease cf m c).Canon := by
  unfold allocationRelease
  split
  · exact hm
  · split
    · exact hm
    · split
      · exact hm
      · split
        · have h1 : ∀ c k, (m.dropCluster c k).preemptsDone.Canon := fun c k => by simp [hm]
          simp [h1]
        · exact hm

@[simp] theorem Mach.setFport_canon (p : FPort) : (m.setFport p).Canon ↔ m.Canon := Mach.canon_congr rfl rfl rfl rfl
@[simp] theorem Mach.sendFlit_canon (p : FPort) (text : List Byte) : (Mach.sendFlit cf m p text).Canon ↔ m.Canon := Mach.canon_congr rfl rfl rfl rfl

@[simp] theorem Mach.holdFlit_canon (p : FPort) (text : List Byte) (hm : m.Canon) : (m.holdFlit p text).Canon := by
  simp [Mach.holdFlit, hm]

@[simp] theorem flitSend_canon (n : Nat) (text : List Byte) (hm : m.Canon) : (flitSend cf m n text).Canon := by
  unfold flitSend
  split
  · exact hm
  · simp [hm]

@[simp] theorem Mach.sendHeld_canon (n : Nat) (hm : m.Canon) : (Mach.sendHeld cf m n).Canon := by
  unfold Mach.sendHeld
  dsimp only
  split
  · exact hm
  · split
    · exact hm
    · refine canon_foldl (fun m x h1 => ?_) _ ?_
      · split
        · simp [hm, h1]
        · exact h1
      · simp [hm]

@[simp] theorem Mach.lockPort_canon (n : Nat) (hm : m.Canon) : (Mach.lockPort cf m n).Canon := by
  unfold Mach.lockPort
  split
  · exact hm
  · extract_lets ts d p m1 m2
    have h1 : m1.Canon := by simp [m1, hm]
    have h2 : m2.Canon := by
      unfold m2
      split
      · exact canon_foldl (fun m x h => by simp [h]) _ h1
      · simp [h1]
    simp [h2]

@[simp] theorem Mach.takeFlit_canon (n : Nat) (f : RFlit) (hm : m.Canon) : (Mach.takeFlit cf m n f).Canon := by
  unfold Mach.takeFlit
  dsimp only
  split
  · exact hm
  · split
    · exact hm
    · split
      · simp [hm]
      · split <;> simp [hm]

@[simp] theorem flitReceive_canon (n : Nat) (f : RFlit) (hm : m.Canon) : (flitReceive cf m n f).Canon := by
  unfold flitReceive
  dsimp only
  split
  · simp [hm]
  · simp +contextual [hm]

@[simp] theorem Mach.keyPort_canon (n : Nat) (f : FPort → FPort) (hm : m.Canon) : (Mach.keyPort cf m n f).Canon := by
  unfold Mach.keyPort
  dsimp only
  split
  · exact hm
  · simp [hm]

@[simp] theorem keyInstall_canon (use : KeyUse) (session : Option (List Byte)) (hm : m.Canon) : (keyInstall cf m use session).Canon := by
  unfold keyInstall
  dsimp only
  split
  · exact hm
  · split
    · exact hm
    · split <;> simp [hm]

@[simp] theorem flitAcked_canon (n counter : Nat) (hm : m.Canon) : (flitAcked m n counter).Canon := by
  unfold flitAcked
  dsimp only
  split
  · simp [hm]
  · exact hm

@[simp] theorem replayAsked_canon (n counter : Nat) (hm : m.Canon) : (replayAsked m n counter).Canon := by
  unfold replayAsked
  split
  · simp [hm]
  · exact hm

@[simp] theorem preemptCmd_canon (q : Nat) (hm : m.Canon) : (preemptCmd cf m q).Canon := by
  unfold preemptCmd
  dsimp only
  split
  · exact hm
  · split <;> simp [hm]

@[simp] theorem noticeExpiry_canon (c : Nat) (hm : m.Canon) : (noticeExpiry m c).Canon := by
  unfold noticeExpiry
  split
  · exact hm
  · split
    · simp [hm]
    · exact hm

@[simp] theorem Mach.drainTokens_canon (ts : List Nat) (hm : m.Canon) : (m.drainTokens ts).Canon := by
  unfold Mach.drainTokens
  refine canon_foldl (fun m x h1 => ?_) _ ?_
  · simp +contextual [hm, h1]
  · exact hm

@[simp] theorem Mach.holdReqs_canon (rs : List Nat) (hm : m.Canon) : (m.holdReqs rs).Canon := by
  unfold Mach.holdReqs
  extract_lets ks m1
  have h1 : m1.Canon := by
    refine canon_foldl (fun m x h => ?_) _ hm
    dsimp only
    split <;> simp [h]
  simp [h1]

@[simp] theorem Mach.saveTeam_canon (pairmask : Nat) (tm : Team) : (m.saveTeam pairmask tm).Canon ↔ m.Canon := Mach.canon_congr rfl rfl rfl rfl

@[simp] theorem Mach.writePool_canon (la : Launch) (hm : m.Canon) : (Mach.writePool cf m la).Canon := by
  unfold Mach.writePool
  dsimp only
  split
  · simp +contextual [hm]
  · exact hm

@[simp] theorem teamSave_canon (c : Nat) (hm : m.Canon) : (teamSave cf m c).Canon := by
  unfold teamSave
  split
  · exact hm
  · split
    · exact hm
    · split
      · exact hm
      · extract_lets cs tms ts m1 m2 m3 m4
        have h1 : m1.Canon := canon_foldl (fun m x h => by simp [h]) _ (by simp [hm])
        have h2 : m2.Canon := canon_foldl (fun m x h => by simp [h]) _ (by simp [h1])
        have h3 : m3.Canon := canon_foldl (fun m x h => by simp [h]) _ h2
        have h4 : m4.Canon := canon_foldl (fun m x h => by simp [h]) _ h3
        split
        · exact hm
        · have h5 : (tms.foldl (fun m tm => (List.range 4).foldl (fun m q => m.dropCounters tm.core q) m) m4).Canon :=
            canon_foldl (fun m x h => canon_foldl (fun m x h => by simp [h]) _ h) _ h4
          simp [h5]

@[simp] theorem Mach.rewriteWindows_canon (pt : Part) (moves : List (Team × Seat)) (hm : m.Canon) : (m.rewriteWindows pt moves).Canon := by
  refine canon_foldl (fun m i h => ?_) _ hm
  dsimp only
  split
  · exact h
  · split <;> simp [h]

@[simp] theorem Mach.restoreTeam_canon (tm : Team) (st : Seat) : (m.restoreTeam tm st).Canon ↔ m.Canon := Mach.canon_congr rfl rfl rfl rfl

@[simp] theorem Mach.seatGroups_canon (t core : Nat) (hm : m.Canon) : (m.seatGroups t core).Canon := by
  simp [Mach.seatGroups, hm]

@[simp] theorem Mach.fireArms_canon (ts : List Nat) (hm : m.Canon) : (Mach.fireArms cf m ts).Canon := by
  unfold Mach.fireArms
  refine canon_foldl (fun m x h1 => ?_) _ ?_
  · split
    · simp [hm, h1]
    · exact h1
  · exact hm

@[simp] theorem Mach.moveBars_canon (c : Nat) (olds : List (Nat × Nat)) (hm : m.Canon) : (m.moveBars c olds).Canon := by
  unfold Mach.moveBars
  dsimp only
  split
  · exact hm
  · simp [hm]

@[simp] theorem Mach.restoreCluster_canon (la : Launch) (rc : LRec) (c : Nat) (os : List Origin) (seats : List Seat) (hm : m.Canon) : (m.restoreCluster la rc c os seats).Canon := by
  unfold Mach.restoreCluster
  refine canon_foldl (fun m x h1 => ?_) _ ?_
  · simp [hm, h1]
  · simp [hm]

@[simp] theorem teamRestore_canon (c : Nat) (place : List (List Origin)) (hm : m.Canon) : (teamRestore cf m c place).Canon := by
  unfold teamRestore
  dsimp only
  split
  · exact hm
  · split
    · exact hm
    · split
      · split
        · exact hm
        · split
          · exact hm
          · refine canon_foldl (fun m x h1 => ?_) _ ?_
            · simp [hm, h1]
            · refine canon_foldl (fun m x h1 => ?_) _ ?_
              · split
                · simp [hm, h1]
                · exact h1
              · refine canon_foldl (fun m x h1 => ?_) _ ?_
                · simp [hm, h1]
                · simp +contextual [hm]
      · exact hm

@[simp] theorem Mach.erase_canon  (hm : m.Canon) : (m.erase).Canon := by
  simp [Mach.erase, hm]

@[simp] theorem alarm_canon (bits : BitVec 4) (hm : m.Canon) : (alarm cf m bits).2.Canon := by
  unfold alarm
  dsimp only
  split
  · exact hm
  · split <;> simp [hm]

@[simp] theorem alarmClear_canon (bits : BitVec 4) (hm : m.Canon) : (alarmClear m bits).Canon := by
  simp [alarmClear, hm]

@[simp] theorem Mach.setSpdm_canon (ch : Nat) (f : Spdm → Spdm) : (m.setSpdm ch f).Canon ↔ m.Canon := Mach.canon_congr rfl rfl rfl rfl
@[simp] theorem Mach.answer_canon (ch req code : Nat) (content : List Byte) : (m.answer ch req code content).Canon ↔ m.Canon := Mach.canon_congr rfl rfl rfl rfl
@[simp] theorem Mach.spdmError_canon (ch req err : Nat) : (m.spdmError ch req err).Canon ↔ m.Canon := Mach.canon_congr rfl rfl rfl rfl

@[simp] theorem Mach.agreed_canon (ch req : Nat) {go : Mach} (hm : m.Canon) (hgo : go.Canon) : (m.agreed ch req go).Canon := by
  unfold Mach.agreed
  split
  · exact hgo
  · simp [hm]

@[simp] theorem getVersion_canon (ch : Nat) : (getVersion m ch).Canon ↔ m.Canon := Mach.canon_congr rfl rfl rfl rfl

@[simp] theorem getCapabilities_canon (ch : Nat) (hm : m.Canon) : (getCapabilities m ch).Canon := by
  simp [getCapabilities, hm]

@[simp] theorem negotiateAlgorithms_canon (ch : Nat) (hm : m.Canon) : (negotiateAlgorithms m ch).Canon := by
  simp [negotiateAlgorithms, hm]

@[simp] theorem getDigests_canon (ch : Nat) (hm : m.Canon) : (getDigests m ch).Canon := by
  simp [getDigests, hm]

@[simp] theorem getCertificate_canon (ch slot : Nat) (hm : m.Canon) : (getCertificate m ch slot).Canon := by
  simp [getCertificate, hm]

@[simp] theorem challenge_canon (ch slot : Nat) (hm : m.Canon) : (challenge m ch slot).Canon := by
  simp [challenge, hm]

@[simp] theorem getMeasurements_canon (ch index : Nat) (signed : Bool) (hm : m.Canon) : (getMeasurements m ch index signed).Canon := by
  unfold getMeasurements
  dsimp only
  split <;> simp [hm]

@[simp] theorem keyExchange_canon (ch slot : Nat) (hm : m.Canon) : (keyExchange m ch slot).Canon := by
  simp [keyExchange, hm]

@[simp] theorem finish_canon (ch : Nat) (verified : Bool) (hm : m.Canon) : (finish m ch verified).Canon := by
  simp [finish, hm]

@[simp] theorem endSession_canon (ch : Nat) (hm : m.Canon) : (endSession m ch).Canon := by
  simp [endSession, hm]

@[simp] theorem measExtend_canon (ch k : Nat) (digest : List Byte) (hm : m.Canon) : (measExtend m ch k digest).Canon := by
  simp [measExtend, hm]

@[simp] theorem unsupportedRequest_canon (ch code : Nat) : (unsupportedRequest m ch code).Canon ↔ m.Canon := Mach.canon_congr rfl rfl rfl rfl

@[simp] theorem refreshEnd_canon (die : Nat) (hm : m.Canon) : (refreshEnd cf m die).Canon := by
  unfold refreshEnd
  extract_lets m1
  have h1 : m1.Canon := canon_foldl (fun m x h => by simp [h]) _ hm
  have h2 : ((m1.fabPend.map FabPend.xid).foldl (readsAnswered cf) m1).Canon := canon_foldl (fun m x h => by simp [h]) _ h1
  simp [h2]

@[simp] theorem Mach.setThr_canon (die : Nat) (t : Thr) : (m.setThr die t).Canon ↔ m.Canon := Mach.canon_congr rfl rfl rfl rfl
@[simp] theorem throttleCheck_canon (die : Nat) : (throttleCheck m die).Canon ↔ m.Canon := Mach.canon_congr rfl rfl rfl rfl
@[simp] theorem throttleCondition_canon (die : Nat) (thermal power : Bool) : (throttleCondition m die thermal power).Canon ↔ m.Canon := Mach.canon_congr rfl rfl rfl rfl

@[simp] theorem Mach.badError_canon (die : Nat) (hm : m.Canon) : (m.badError die).Canon := by
  simp [Mach.badError, hm]

@[simp] theorem softError_canon (e : SoftErr) (hm : m.Canon) : (softError cf m e).2.Canon := by
  unfold softError
  split
  · simp [hm]
  · simp [hm]
  · simp [hm]
  · simp [hm]
  · simp [hm]
  · simp [hm]
  · simp [hm]
  · dsimp only
    split <;> simp [hm]
  · simp [hm]

@[simp] theorem Mach.ctrWrite_canon (n : Nat) (word : Bool) (v : Nat) : (m.ctrWrite n word v).Canon ↔ m.Canon := Mach.canon_congr rfl rfl rfl rfl

@[simp] theorem Mach.msixWrite_canon (off v : Nat) (hm : m.Canon) : (m.msixWrite off v).Canon := by
  simp [Mach.msixWrite, hm]

@[simp] theorem registerWrite_canon (off v : Nat) (hm : m.Canon) : (registerWrite m off v).Canon := by
  simp [registerWrite, hm]

@[simp] theorem hostRead_canon (off : Nat) : (hostRead m off).Canon ↔ m.Canon := Mach.canon_congr rfl rfl rfl rfl
@[simp] theorem ubin_canon (d : Dst) (a b : Src) (f : Word → Word → Word) (c : Ctx) : (ubin d a b f cf m c).mach.Canon ↔ m.Canon := Mach.canon_congr rfl rfl rfl rfl
@[simp] theorem utri_canon (d : Dst) (a b : Src) (f : Word → Word → Word → Word) (c : Ctx) : (utri d a b f cf m c).mach.Canon ↔ m.Canon := Mach.canon_congr rfl rfl rfl rfl
@[simp] theorem uuna_canon (d : Dst) (a : Src) (f : Word → Word) (c : Ctx) : (uuna d a f cf m c).mach.Canon ↔ m.Canon := Mach.canon_congr rfl rfl rfl rfl

@[simp] theorem ucmpr_canon (d : Dst) (a b : Src) (f : Word → Word → Bool) (c : Ctx) (hm : m.Canon) : (ucmpr d a b f cf m c).mach.Canon := by
  simp [ucmpr, hm]

@[simp] theorem Mach.endStopped_canon (core quad : Nat) (hm : m.Canon) : (m.endStopped cf core quad).Canon := by
  simp +contextual [Mach.endStopped, hm]

@[simp] theorem Mach.takeAsync_canon (c : Ctx) (hm : m.Canon) : (m.takeAsync cf c).Canon := by
  unfold Mach.takeAsync
  dsimp only
  split
  · exact hm
  · simp [hm]

@[simp] theorem asyncTrap_canon (r : FRef) (hm : m.Canon) : (asyncTrap cf m r).Canon := by
  unfold asyncTrap
  dsimp only
  split
  · exact hm
  · simp [hm]

@[simp] theorem Mach.startRun_canon (core quad : Nat) (r : FRef) (hm : m.Canon) : (m.startRun cf core quad r).Canon := by
  unfold Mach.startRun
  dsimp only
  split
  · split
    · simp [hm]
    · exact hm
  · split <;> split <;> simp [hm]

@[simp] theorem portSchedule_canon (core quad pick : Nat) (hm : m.Canon) : (portSchedule cf m core quad pick).Canon := by
  unfold portSchedule
  dsimp only
  split
  · simp [hm]
  · split
    · simp [hm]
    · split
      · simp [hm]
      · split
        · simp [hm]
        · split <;> simp [hm]

@[simp] theorem Mach.pickedLast_canon (core quad : Nat) (hm : m.Canon) : (m.pickedLast core quad).Canon := by
  unfold Mach.pickedLast
  split
  · exact hm
  · simp [hm]

@[simp] theorem Mach.toActive_canon (g : Group) : (m.toActive g).Canon ↔ m.Canon := Mach.canon_congr rfl rfl rfl rfl

@[simp] theorem groupActivate_canon (core quad : Nat) (hm : m.Canon) : (groupActivate cf m core quad).Canon := by
  unfold groupActivate
  dsimp only
  split
  · simp +contextual [hm]
  · split
    · simp [hm]
    · split
      · simp [hm]
      · split
        · simp [hm]
        · split <;> simp [hm]

@[simp] theorem fetchDecode_canon (c : Ctx) (hm : m.Canon) : (fetchDecode cf m c).2.Canon := by
  unfold fetchDecode
  split
  · rename_i e1
    have k1 := canon_of_snd_snd e1 (by simp [hm])
    split <;> exact k1
  · rename_i e1
    have k1 := canon_of_snd_snd e1 (by simp [hm])
    split <;> exact k1
  · rename_i e1
    have k1 := canon_of_snd_snd e1 (by simp [hm])
    exact k1

@[simp] theorem illegalWord_canon (c : Ctx) (hm : m.Canon) : (illegalWord cf m c).Canon := by
  simp [illegalWord, hm]

@[simp] theorem probeMach_canon (code : List Byte) (hm : m.Canon) : (probeMach m code).Canon := by
  simp [probeMach, hm]

/-! ### The operations of the Drift plane -/

@[simp] theorem PlaneR.allCanon_ite {p : Prop} [Decidable p] {a b : PlaneR} : (if p then a else b).AllCanon ↔ (p → a.AllCanon) ∧ (¬p → b.AllCanon) := by
  by_cases h : p <;> simp [h]

/-- A read for an operation: the machine it answers with, and the one in the refusal if it refuses. -/
structure PlaneCanon {α : Type} (r : Except PlaneR α × Mach) : Prop where
  mach : r.2.Canon
  refusal : ∀ e, r.1 = .error e → e.AllCanon

theorem PlaneCanon.error {α : Type} {e : PlaneR} (he : e.AllCanon) (hm : m.Canon) : PlaneCanon ((.error e, m) : Except PlaneR α × Mach) where
  mach := hm
  refusal := fun _ h => by
    cases h
    exact he

theorem PlaneCanon.value {α : Type} {a : α} (hm : m.Canon) : PlaneCanon ((.ok a, m) : Except PlaneR α × Mach) where
  mach := hm
  refusal := fun _ h => by cases h

theorem PlaneCanon.of_error {α : Type} {r : Except PlaneR α × Mach} {e : PlaneR} (h : PlaneCanon r) (hr : r = (.error e, m)) : e.AllCanon ∧ m.Canon :=
  ⟨h.refusal e (by rw [hr]), canon_of_snd hr h.mach⟩

theorem planeRead_planeCanon (p x a k : Nat) (hm : m.Canon) : PlaneCanon (planeRead cf m p x a k) := by
  have hr : (agentRead cf m qLeaf qOwn p x .plain a k).2.Canon := by simp [hm]
  unfold planeRead
  split
  · exact .value (canon_of_snd ‹_› hr)
  · rename_i r n _ e
    have hn := canon_of_snd e hr
    refine .error ?_ hn
    cases r <;> simp [PlaneR.ofRead, hn]

theorem readMembers_planeCanon (p x a : Nat) (hm : m.Canon) : PlaneCanon (readMembers cf m p x a) := by
  have h1 := planeRead_planeCanon (cf := cf) p x a 64 hm
  unfold readMembers
  split
  · rename_i e
    obtain ⟨he, hn⟩ := h1.of_error e
    exact .error he hn
  · rename_i n e
    have hn := canon_of_snd e h1.mach
    extract_lets w c
    split
    · exact .error (PlaneR.allCanon_fault _) hn
    · have h2 := planeRead_planeCanon (cf := cf) p x (a + 64) (32 * c) hn
      split
      · rename_i e
        obtain ⟨he, hk⟩ := h2.of_error e
        exact .error he hk
      · rename_i e
        have hk := canon_of_snd e h2.mach
        dsimp only
        split
        · exact .value hk
        · exact .error (PlaneR.allCanon_fault _) hk

theorem readPair_planeCanon (p x : Nat) (desc : List Byte) (hm : m.Canon) : PlaneCanon (readPair cf m p x desc) := by
  unfold readPair
  split
  · have h1 := planeRead_planeCanon (cf := cf) p x (natAt desc 0x48 8) 536 hm
    split
    · rename_i e
      have hn := canon_of_snd e h1.mach
      split
      · exact .value hn
      · exact .error (PlaneR.allCanon_fault _) hn
    · exact h1
  · exact .value hm

theorem bindNew_allCanon (p x k : Nat) (desc : List Byte) (at_ : Nat) (inita : Bool) (hm : m.Canon) : (bindNew cf m p x k desc at_ inita).AllCanon := by
  unfold bindNew
  rw [PlaneR.allCanon_ite]
  refine ⟨fun _ => PlaneR.allCanon_fault _, fun _ => ?_⟩
  · have h1 := readMembers_planeCanon (cf := cf) p x (natAt desc 0x60 8) hm
    split
    · exact (h1.of_error ‹_›).1
    · rename_i e
      have hn := canon_of_snd e h1.mach
      have h2 := readPair_planeCanon (cf := cf) p x desc hn
      split
      · exact (h2.of_error ‹_›).1
      · rename_i e
        have hk := canon_of_snd e h2.mach
        dsimp only
        split
        · exact PlaneR.allCanon_fault _
        · simp [hk]

theorem bindOp_allCanon (p x k : Nat) (e : Entry) (hm : m.Canon) : (bindOp cf m p x k e).AllCanon := by
  have hr : (reach cf m qOwn p x (e.word 2) .read).2.Canon := by simp [hm]
  unfold bindOp
  extract_lets inita a
  split
  · exact PlaneR.allCanon_fault _
  · split
    · exact PlaneR.allCanon_fault _
    · simpa using canon_of_snd ‹_› hr
    · rename_i e
      have hn := canon_of_snd e hr
      split
      · split
        · exact PlaneR.allCanon_fault _
        · split <;> simp [hn]
      · have h1 := planeRead_planeCanon (cf := cf) p x a 128 hn
        split
        · rename_i e
          exact (h1.of_error e).1
        · rename_i e
          have hk := canon_of_snd e h1.mach
          exact bindNew_allCanon p x k _ _ _ hk

theorem unbindOp_allCanon (p x k : Nat) (hm : m.Canon) : (unbindOp m p x k).AllCanon := by
  unfold unbindOp
  split
  · exact PlaneR.allCanon_fault _
  · split
    · simp [hm]
    · split <;> simp [hm]

theorem memberOp_allCanon (p x k : Nat) (e : Entry) (hm : m.Canon) : (memberOp cf m p x k e).AllCanon := by
  have h1 := readMembers_planeCanon (cf := cf) p x (e.word 2) hm
  unfold memberOp
  extract_lets reff
  split
  · exact PlaneR.allCanon_fault _
  · split
    · exact (h1.of_error ‹_›).1
    · have hn := canon_of_snd ‹_› h1.mach
      split <;> simp [hn]

theorem pauseOp_allCanon (p x k : Nat) (on : Bool) (hm : m.Canon) : (pauseOp m p x k on).AllCanon := by
  unfold pauseOp
  split <;> simp [hm]

theorem setthrOp_allCanon (p x k : Nat) (e : Entry) (hm : m.Canon) : (setthrOp m p x k e).AllCanon := by
  unfold setthrOp
  split <;> simp [hm]

/-! ### The table -/

@[simp] theorem Mach.issue_canon {i : Instr} {body : Conf → Mach → Ctx → Res} (hb : ∀ n c, n.Canon → (body cf n c).mach.Canon) (hm : m.Canon) :
    (Mach.issue cf m i body).Canon := by
  unfold Mach.issue
  split
  · exact hm
  · split <;> simp [hb, hm]

theorem issue_keeps_canon {i : Instr} {body : Conf → Mach → Ctx → Res} (h : issue s i body = .next t) (hs : s.m.Canon)
    (hb : ∀ n c, n.Canon → (body s.cfg n c).mach.Canon) : t.m.Canon := by
  cases h
  exact Mach.issue_canon hb hs

theorem next_canon (h : (.next ⟨cf, m⟩ : Host.Outcome State Fault Refusal) = .next t) (hm : m.Canon) : t.m.Canon := by
  cases h
  exact hm

theorem coldReset_canon {failed : Nat} {alpol : Bool} {device : BitVec 13} {links : BitVec 2} {offs phases : List Nat} {boot firmware fuses : List Byte}
    (hs : s.m.Canon) : (coldReset s failed alpol device links offs phases boot firmware fuses).m.Canon := by
  obtain ⟨hmem, htags, -, -⟩ := storesWf_iff_canon.mpr hs
  exact storesWf_iff_canon.mp ⟨hmem, htags, rfl, rfl⟩

theorem exec_canon {i : Instr} (h : exec i s = .next t) (hs : s.m.Canon) : t.m.Canon := by
  cases i with
  | iadd | isub | imul | imulh | imad | imin | imax | isad | and | or | xor | andn | shl | shr | sar | rol | popc | clz | brev | bfx | bfi | icmp
    | icmpu | sel | iaddi | andi | ori | xori | shifti | iadd64 | fadd | fsub | fmul | ffma | ffms | fnma | fmin | fmax | fcmp | fsign | cvt | cvts
    | frnd | rcp | rsq | sqrt | ex2 | lg2 | sin | cos | tanh | fscale | fxtr | pack | unpk | cbq | cbx | dot2 | shfl | sredi | sredf | prmt
    | matchS | firstl | tmmrg | tmsred | ld | st | lds | sts | ldfe | ldfet | stfe | atom | atoms | br | brx | callx | retx | lpad | fend | jmset
    | limm | uadd | usub | umul | umulh | umad | umin | umax | uand | uor | uxor | ushl | ushr | usar | upopc | uclz | ucmp | ucmpu | usel | uaddi
    | uandi | uori | ushifti | uadd64 | ubr | ujmp | ucall | uret | udbnz | nop | yield | halt | trap | eret | barinit | barwait | cwait | cwaitt
    | fence | fwait | srd | swr | tmshp | iunpin | tstat | accz | rrot | prolog | xput | xget | xdisarm | rinv | rinvh | hwait | iwait | wopen
    | wclose | pmerge | pstat | ptrick | dchk | ulimm | reservedOpcode =>
    exact issue_keeps_canon h hs fun n c k => by simp [k]
  | mov | umov | vote | sscan | tment | tmacc =>
    refine issue_keeps_canon h hs fun n c k => ?_
    split <;> simp [k]
  | tmexit =>
    refine issue_keeps_canon h hs fun n c k => ?_
    split
    · exact k
    · dsimp only
      split <;> simp [k]
  | pref => exact issue_keeps_canon h hs fun n c k => canon_foldl (fun m x h => by simp [h]) _ k
  | join =>
    refine issue_keeps_canon h hs fun n c k => ?_
    dsimp only
    split
    · exact k
    · split
      · exact k
      · exact Mach.joinCheck_canon _ _ (by simp [k])
  | fork =>
    refine issue_keeps_canon h hs fun n c k => ?_
    dsimp only
    split
    · exact k
    · split
      · exact k
      · split
        · exact k
        · split
          · exact Mach.endFibre_canon c (by simp [k])
          · simp [k]
  | trl =>
    refine issue_keeps_canon h hs fun n c k => ?_
    exact Res.mach_done_canon _ _ |>.mpr (by rw [canon_ite]; simp [k])
  | bararr =>
    refine issue_keeps_canon h hs fun n c k => ?_
    have hr : ∀ b, ((n.drain c.leaf 1).arriveBar c.tm.t b).2.Canon := fun b => by simp [k]
    simp [hr]
  | bararw =>
    refine issue_keeps_canon h hs fun n c k => ?_
    have hr : ∀ b, ((n.drain c.leaf 1).arriveBar c.tm.t b).2.Canon := fun b => by simp [k]
    dsimp only
    split
    · exact hr _
    · split
      · simp [hr]
      · exact hr _
  | cinc =>
    refine issue_keeps_canon h hs fun n c k => withPlaces_canon (fun ps n k => afterWrites_canon (fun n k => ?_) k) k
    dsimp only
    split
    · have hr : ∀ ps sc a j f, ((n.before c.leaf c.la.p sc true true ps).atomHere c.leaf sc a j f).2.Canon := fun _ _ _ _ _ => by simp [k]
      simp [hr]
    · exact fabAsk_canon _ _ _ _ _ _ _ _ _ (by simp [k])
  | clubar =>
    refine issue_keeps_canon h hs fun n c k => ?_
    refine Mach.clubarLevel_canon _ _ (Mach.toPending_canon _ _ (Mach.waitAt_canon _ _ _ ?_))
    rw [canon_ite]
    simp [k]
  | cbld => exact issue_keeps_canon h hs fun n c k => blockBody_canon (fun n bs k => by simp [k]) k
  | tmtab =>
    refine issue_keeps_canon h hs fun n c k => ?_
    split
    · exact k
    · refine blockBody_canon (fun n bs k => ?_) k
      split <;> simp [k]
  | ipf => exact issue_keeps_canon h hs fun n c k => canon_foldl (fun m x h => by simp [h]) _ k
  | ipin =>
    refine issue_keeps_canon h hs fun n c k => ?_
    have hr : ∀ a b, ((namedLines n c a b).foldl (fun (r : Nat × Mach) l =>
        let x := fillLine s.cfg r.2 c l
        if x.1 then
          let y := pinLine x.2 c l
          (if y.1 then r.1 + 1 else r.1, y.2)
        else (r.1, x.2)) (0, n)).2.Canon := by
      intro a b
      refine canon_foldl_snd (fun r l h => ?_) _ k
      have hx : (fillLine s.cfg r.2 c l).2.Canon := by simp [h]
      dsimp only
      split <;> simp [hx]
    exact (laneWord_canon _ _ _).mpr (hr _ _)
  | cwb => exact issue_keeps_canon h hs fun n c k => canon_foldl (fun m x h => canon_foldl (fun m x h => by simp [h]) _ h) _ k
  | mma =>
    refine issue_keeps_canon h hs fun n c k => withBlock_canon (fun n bs k => ?_) k
    dsimp only
    split
    · simp [k]
    · split
      · exact k
      · split <;> simp [k]
  | drain | dcjob | xsort | xarm => exact issue_keeps_canon h hs fun n c k => withBlock_canon (fun n bs k => by simp [k]) k
  | tcopy | tcopyColl =>
    exact issue_keeps_canon h hs fun n c k => withBlock_canon (fun n bs k => withRecords_canon (fun n bs k => by simp [k]) k) k
  | hstat | hfree =>
    refine issue_keeps_canon h hs fun n c k => ?_
    split
    · simp [k]
    · split
      · simp [k]
      · split <;> simp [k]
  | idone =>
    refine issue_keeps_canon h hs fun n c k => ?_
    dsimp only
    split
    · simp [k]
    · split
      · simp [k]
      · split
        · simp [k]
        · split
          · exact k
          · refine withPlaces_canon (fun ps n k => afterWrites_canon (fun n k => ?_) k) k
            have hr : ∀ w p, (readLanes s.cfg (n.drain c.leaf 4) w p ps).2.Canon := fun _ _ => by simp [k]
            simp [hr]
  | propagate | refresh | missQueueEnter | pageWalk | longLatencyComplete | portSchedule | groupActivate | asyncTrap | fetimeout | fullEmptyTake
    | cwaitComplete | cwaittBound | fwaitComplete | wopenProceed | hwaitComplete | iwaitTake | engineCommandEnter | ringRotation | triggeredSend
    | engineRetire | prologue | groupStart | launchAdmit | clusterStart | allocationRelease | noticeExpiry | teamSave | teamRestore
    | fabricAccessArrival | fabricAnswer | requestArrival | packetArrival | tokenGrant | tokenExpiry | transferAck | spindleSend
    | driftMessageArrival | battenFold | mergePass | islandSilent | invocationArrival | invocationPlace | rinvhForward | refreshStart | refreshEnd
    | throttleCheck | scrub | flitSend | flitReceive | keyInstall | pcieLinkChange | getVersion | getCapabilities | negotiateAlgorithms
    | getDigests | getCertificate | challenge | getMeasurements | keyExchange | finish | endSession | measExtend | unsupportedRequest | queueEnable
    | queueDisable | tail | chead | alarmClear | registerWrite | queueFetch | launch | wait | queueWaitComplete | queueWaitTimeout | signal | copy
    | queueCopyComplete | xlinv | preempt | completionPost | throttleCondition | engineFeTimeout | partcfg | ctxcfg | keySlotLoad | alarmDetect
    | softError =>
    exact next_canon h (by simp [hs])
  | mmaOperation => exact next_canon h (Mach.work_canon _ _ (fun m oc k => by simp [k]) _ hs)
  | acczOperation => exact next_canon h (Mach.work_canon _ _ (fun m oc k => by simp [k]) _ hs)
  | drainOperation => exact next_canon h (Mach.work_canon _ _ (fun m oc k => by simp [k]) _ hs)
  | tcopyOperation => exact next_canon h (Mach.work_canon _ _ (fun m oc k => by simp [k]) _ hs)
  | packOperation => exact next_canon h (Mach.work_canon _ _ (fun m oc k => by
    split <;> simp [k]) _ hs)
  | prologOperation => exact next_canon h (Mach.work_canon _ _ (fun m oc k => by simp [k]) _ hs)
  | dcmpJob => exact next_canon h (Mach.work_canon _ _ (fun m oc k => by simp [k]) _ hs)
  | xputOperation => exact next_canon h (Mach.work_canon _ _ (fun m oc k => by simp [k]) _ hs)
  | xgetOperation => exact next_canon h (Mach.work_canon _ _ (fun m oc k => by simp [k]) _ hs)
  | xsortOperation => exact next_canon h (Mach.work_canon _ _ (fun m oc k => by simp [k]) _ hs)
  | collective =>
    exact next_canon h (Mach.work_canon _ _ (fun m oc k => by simp [k]) _ (Mach.work_canon _ _ (fun m oc k => by simp [k]) _ hs))
  | bind =>
    refine next_canon h ?_
    dsimp only
    split
    · simp [hs]
    · exact planeCmd_canon _ _ hs fun p x a e => bindOp_allCanon p x a e hs
  | unbind => exact next_canon h (planeCmd_canon _ _ hs fun p x a e => unbindOp_allCanon p x a hs)
  | member => exact next_canon h (planeCmd_canon _ _ hs fun p x a e => memberOp_allCanon p x a e hs)
  | pause | resume => exact next_canon h (planeCmd_canon _ _ hs fun p x a e => pauseOp_allCanon p x a _ hs)
  | setthr => exact next_canon h (planeCmd_canon _ _ hs fun p x a e => setthrOp_allCanon p x a e hs)
  | coldReset =>
    cases h
    exact coldReset_canon hs

/-! ### A step -/

@[simp] theorem agendaItem_canon (a : Agenda) (hm : m.Canon) : (agendaItem cf m a).Canon := by
  cases a with
  | hostWrite => exact canon_foldl (fun m x h => by simp [h]) _ hm
  | report =>
    rw [agendaItem]
    split <;> simp [hm]
  | ev | elapse | focus | evictLine | evictXlate | freed | granted | revoked | withdrawn | handleQuery | handleAnswer | serve | hostRead | bootOn |
    flitAcked | replayAsked | portLocked => simp [agendaItem, hm]

@[simp] theorem noWord_canon (c : Ctx) (r : Fetched) (hm : m.Canon) : (noWord cf m c r).Canon := by
  cases r <;> simp [noWord, hm]

theorem agendaStep_canon {a : Agenda} (h : agendaStep s a = .next t) (hs : s.m.Canon) : t.m.Canon := by
  unfold agendaStep at h
  split at h
  case isTrue => exact next_canon h hs
  case isFalse =>
    split at h
    case h_1 =>
      split at h
      case isTrue => exact exec_canon h hs
      case isFalse => exact next_canon h hs
    case h_2 => exact next_canon h (by simp [hs])
    case h_3 => exact next_canon h (by simp [hs])

theorem fibreStep_canon {c : Ctx} (h : fibreStep s c = .next t) (hs : s.m.Canon) : t.m.Canon := by
  have hf : (fetchDecode s.cfg s.m c).2.Canon := by simp [hs]
  unfold fibreStep at h
  split at h
  case h_1 hg => exact exec_canon h (canon_of_snd hg hf)
  case h_2 hg =>
    have hm := canon_of_snd hg hf
    split at h
    case isTrue => exact next_canon h (by simp [hm])
    case isFalse => exact exec_canon h hm
  case h_3 hg => exact next_canon h (by simp [canon_of_snd hg hf])
  case h_4 hg => exact next_canon h (by simp [canon_of_snd hg hf])

theorem portStep_canon (h : portStep s = .next t) (hs : s.m.Canon) : t.m.Canon := by
  unfold portStep at h
  split at h
  case h_1 => exact fibreStep_canon h hs
  case h_2 => split at h <;> exact next_canon h (by simp [hs])

theorem step_canon (h : step s = .next t) (hs : s.m.Canon) : t.m.Canon := by
  unfold step stepOf at h
  split at h
  case h_1 => exact agendaStep_canon h (by simp [hs])
  case h_2 =>
    split at h
    case isTrue => cases h
    case isFalse => exact next_canon h (by simp [hs])
  case h_3 =>
    split at h
    case isTrue => cases h
    case isFalse => exact portStep_canon h (by simp [hs])

end

/-- Settles O7: every function of the model that answers a machine keeps the four byte stores in canonical form, so every row of the table does and with
it every step. -/
theorem canonicalKept : Obligations.CanonicalKept := by
  intro s t hs h
  exact Mach.canon_iff.mp (step_canon h (Mach.canon_iff.mpr hs))

end Sys2Proof.Machine
end

section
/-! ## An agent's own writes and other bytes (O33)

A plain read is the scan of R73 over the agent's path. An agent's point holds no home, so a plain write is the youngest entry of the buffer there; it
takes its bytes, and no others, out of the copies of the point. -/
namespace Sys2Proof.Machine

section
variable {m : Mach} {leaf p : Point} {w : Write} {sp : Space} {a : Nat} {tag : Option KTag}

/-- The byte an agent sees is what the scan over its path finds. -/
theorem Mach.seen_eq_scan : m.seen leaf sp a tag = (m.scan sp a tag (m.path leaf sp)).1 := by
  simp [Mach.seen, Mach.readPlain, Mach.readOver]

/-- A scan of points that give no byte ends at the home. -/
theorem Mach.scan_of_none : ∀ {ps : List Point}, (∀ p ∈ ps, m.pointByte p sp a tag = none) → (m.scan sp a tag ps).1 = m.homeByte sp a tag
  | [], _ => rfl
  | p :: ps, h => by
    rw [Mach.scan, h p (List.mem_cons_self ..)]
    exact Mach.scan_of_none fun q hq => h q (List.mem_cons_of_mem _ hq)

/-- Machines whose points and home give one byte give one scan. -/
theorem Mach.scan_congr {n : Mach} (hp : ∀ p, n.pointByte p sp a tag = m.pointByte p sp a tag) (hh : n.homeByte sp a tag = m.homeByte sp a tag) :
    ∀ ps : List Point, n.scan sp a tag ps = m.scan sp a tag ps
  | [] => by rw [Mach.scan, Mach.scan, hh]
  | p :: ps => by rw [Mach.scan, Mach.scan, hp p, Mach.scan_congr hp hh ps]

/-- A write touches one byte exactly if it covers it. -/
theorem Write.hits_one : w.hits sp a 1 = w.covers sp a := by
  simp only [Write.hits, Write.covers, overlaps, Bool.and_assoc]
  congr 1
  simp only [← Bool.decide_and, decide_eq_decide]
  omega

theorem Write.hits_unit (h : w.hits sp a 1 = true) : w.hits sp (a / 64 * 64) 64 = true := by
  simp only [Write.hits, overlaps, Bool.and_eq_true, decide_eq_true_eq] at h ⊢
  exact ⟨h.1, by omega⟩

/-- A buffered byte read under the key of its write is the byte written. -/
theorem Mach.writeByte_sameTag (h : sameTag w.tag tag = true) : m.writeByte w a tag = w.bytes.getD (a - w.addr) 0 := by
  unfold Mach.writeByte
  refine if_pos ?_
  unfold sameTag at h
  split at h
  case h_1 x y hx => rw [hx]; simpa [plainly] using h
  case h_2 hx =>
    rw [hx]
    dsimp only
    split <;> rfl
  case h_3 => cases h

/-- An agent's own point holds no home. -/
theorem Mach.holds_leaf (hl : Point.level leaf = 0) : m.holds leaf sp = false := by
  cases leaf with
  | group | eng | die | host => cases sp <;> rfl
  | core | clu | dev | sys => cases hl

/-- The path of an agent begins at its own point. -/
theorem Mach.path_leaf (hl : Point.level leaf = 0) : ∃ ps, m.path leaf sp = leaf :: ps := by
  have hs : leaf ≠ .sys := fun h => by cases h; cases hl
  refine ⟨(Mach.chain.go m 3 (m.parent leaf)).takeWhile (fun p => !m.holds p sp), ?_⟩
  rw [Mach.path, Mach.chain, Mach.chain.go, if_neg hs, List.takeWhile_cons, Mach.holds_leaf hl]
  rfl

/-- Paths depend on the teams alone. -/
theorem Mach.path_congr {n : Mach} (h : n.teams = m.teams) : n.path leaf sp = m.path leaf sp := by
  have hp : n.parent = m.parent := by
    funext q
    cases q <;> simp [Mach.parent, Mach.team?, h]
  have hh : ∀ q, n.holds q sp = m.holds q sp := fun q => by
    cases sp <;> cases q <;> simp [Mach.holds, Mach.team?, h]
  have hg : ∀ k q, Mach.chain.go n k q = Mach.chain.go m k q := fun k => by
    induction k with
    | zero => exact fun _ => rfl
    | succ k ih => exact fun q => by rw [Mach.chain.go, Mach.chain.go, hp, ih]
  simp only [Mach.path, Mach.chain, hg, hh]

/-! ### A plain write -/

/-- A plain write is buffered at the agent's point, the youngest there, and its bytes leave the copies of the point. -/
theorem Mach.writePlain_leaf (hl : Point.level leaf = 0) : m.writePlain leaf w =
    { ({ m with fresh := m.fresh + 1 } : Mach).uncopy leaf w.sp w.addr w.bytes.length with bufs := m.bufs ++ [⟨leaf, { w with wid := m.fresh + 1 }, .rests⟩] } := by
  rw [Mach.writePlain, Mach.place, Mach.holds_leaf hl]
  exact if_neg Bool.false_ne_true

theorem Mach.writePlain_bufs (hl : Point.level leaf = 0) : (m.writePlain leaf w).bufs = m.bufs ++ [⟨leaf, { w with wid := m.fresh + 1 }, .rests⟩] := by
  rw [Mach.writePlain_leaf hl]

theorem Mach.writePlain_path (hl : Point.level leaf = 0) : (m.writePlain leaf w).path leaf sp = m.path leaf sp :=
  Mach.path_congr (by rw [Mach.writePlain_leaf hl]; rfl)

theorem Mach.writePlain_homeByte (hl : Point.level leaf = 0) : (m.writePlain leaf w).homeByte sp a tag = m.homeByte sp a tag := by
  rw [Mach.writePlain_leaf hl]
  cases sp <;> rfl

/-- What a copy gives for a byte. -/
def Copy.byte? (k : Copy) (p : Point) (sp : Space) (a : Nat) (tag : Option KTag) : Option Byte :=
  if k.pt == p && k.sp == sp && k.unit == a / 16 && sameTag k.tag tag then k.bytes.getD (a % 16) none else none

/-- Taking bytes out of copies leaves what they give for others. -/
theorem Mach.uncopy_byte? (q : Point) (hc : w.covers sp a = false) :
    (m.uncopy q w.sp w.addr w.bytes.length).copies.findSome? (Copy.byte? · p sp a tag) = m.copies.findSome? (Copy.byte? · p sp a tag) := by
  show (m.copies.map _).findSome? _ = _
  rw [List.findSome?_map]
  congr 1
  funext k
  simp only [Function.comp]
  split
  case isFalse => rfl
  case isTrue h =>
    obtain ⟨-, hsp, -⟩ := h
    by_cases hk : (k.pt == p && k.sp == sp && k.unit == a / 16 && sameTag k.tag tag) = true
    case neg => rw [Copy.byte?, Copy.byte?, if_neg hk, if_neg hk]
    case pos =>
      rw [Copy.byte?, Copy.byte?, if_pos hk, if_pos hk]
      simp only [Bool.and_eq_true, beq_iff_eq] at hk
      obtain ⟨⟨⟨-, hks⟩, hu⟩, -⟩ := hk
      have hout : ¬(w.addr ≤ k.unit * 16 + a % 16 ∧ k.unit * 16 + a % 16 < w.addr + w.bytes.length) := by
        have ha : k.unit * 16 + a % 16 = a := by omega
        rw [ha]
        simpa [Write.covers, ← hsp, hks] using hc
      cases hb : k.bytes[a % 16]? <;> simp [List.getD, List.getElem?_mapIdx, hb, hout]

/-- A point of the agent gives another byte as before. -/
theorem Mach.writePlain_pointByte (hl : Point.level leaf = 0) (hc : w.covers sp a = false) (hk : m.oneKey sp a tag) :
    (m.writePlain leaf w).pointByte p sp a tag = m.pointByte p sp a tag := by
  have hnew : (BufEnt.mk leaf { w with wid := m.fresh + 1 } .rests).w.hits sp a 1 = false := Write.hits_one.trans hc
  have hcop : (m.writePlain leaf w).copies = (m.uncopy leaf w.sp w.addr w.bytes.length).copies := by rw [Mach.writePlain_leaf hl]; rfl
  have hb : ∀ e ∈ m.bufs, e.w.hits sp a 1 = true → (m.writePlain leaf w).writeByte e.w a tag = m.writeByte e.w a tag := fun e he hh => by
    have ht := hk e he (Write.hits_unit hh)
    rw [Mach.writeByte_sameTag ht, Mach.writeByte_sameTag ht]
  rw [Mach.pointByte, Mach.pointByte, Mach.writePlain_bufs hl, List.reverse_append, List.reverse_singleton, List.singleton_append, List.find?_cons, hnew,
    Bool.and_false]
  dsimp only
  cases he : m.bufs.reverse.find? (fun e => e.pt == p && e.w.hits sp a 1) with
  | some e =>
    have hm := List.find?_some he
    rw [Bool.and_eq_true] at hm
    exact congrArg some (hb e (List.mem_reverse.mp (List.mem_of_find?_eq_some he)) hm.2)
  | none =>
    rw [hcop]
    exact Mach.uncopy_byte? leaf hc

theorem Mach.writePlain_seen_other (hl : Point.level leaf = 0) (hc : w.covers sp a = false) (hk : m.oneKey sp a tag) :
    (m.writePlain leaf w).seen leaf sp a tag = m.seen leaf sp a tag := by
  rw [Mach.seen_eq_scan, Mach.seen_eq_scan, Mach.writePlain_path hl]
  rw [Mach.scan_congr (fun p => Mach.writePlain_pointByte hl hc hk) (Mach.writePlain_homeByte hl)]

theorem Mach.writePlain_seen_own (hl : Point.level leaf = 0) (hc : w.covers sp a = true) (ht : sameTag w.tag tag = true) :
    (m.writePlain leaf w).seen leaf sp a tag = w.bytes.getD (a - w.addr) 0 := by
  obtain ⟨ps, hps⟩ := Mach.path_leaf (m := m) (sp := sp) hl
  have hp : (m.writePlain leaf w).pointByte leaf sp a tag = some (w.bytes.getD (a - w.addr) 0) := by
    have hnew : (BufEnt.mk leaf { w with wid := m.fresh + 1 } .rests).w.hits sp a 1 = true := Write.hits_one.trans hc
    rw [Mach.pointByte, Mach.writePlain_bufs hl, List.reverse_append, List.reverse_singleton, List.singleton_append, List.find?_cons, hnew,
      Bool.and_true, beq_self_eq_true]
    exact congrArg some (Mach.writeByte_sameTag ht)
  rw [Mach.seen_eq_scan, Mach.writePlain_path hl, hps, Mach.scan, hp]

end

/-- Settles O33: the agent's point is the first its scan meets and the write the youngest there; the rest of what the scan meets is as it was. -/
theorem plainAccessOrder : Obligations.PlainAccessOrder :=
  ⟨fun _ _ _ _ _ _ hl => ⟨fun hc ht => Mach.writePlain_seen_own hl hc ht, fun hc hk => Mach.writePlain_seen_other hl hc hk⟩,
    fun _ _ _ _ _ h => Mach.seen_eq_scan.trans (Mach.scan_of_none h)⟩

end Sys2Proof.Machine
end

section
/-! ## What a memory access leaves of fibres, groups and registers

The operations of the ordering machine are `Near`; translation changes the caches of translations beside. Neither touches what fibres, groups and
registers hold, so an entry that makes its accesses issues from the machine it has made. -/
namespace Sys2Proof.Machine

/-- The machine without what an access of memory may change. -/
def Mach.core (m : Mach) : Mach := { m.outside with tlb := [], parked := [] }

/-- n comes from m by accesses of memory. -/
def Mach.Keeps (m n : Mach) : Prop := n.core = m.core

section
variable {m n k : Mach} {cf : Conf}

theorem Mach.Keeps.refl (m : Mach) : m.Keeps m := rfl

theorem Mach.Keeps.eq (h : m.Keeps n) : n.core = m.core := h

theorem Mach.Keeps.trans (h : m.Keeps n) (l : n.Keeps k) : m.Keeps k := Eq.trans l h

theorem Mach.Near.keeps (h : m.Near n) : m.Keeps n := congrArg (fun x : Mach => ({ x with tlb := [], parked := [] } : Mach)) h.1

theorem Mach.Keeps.foldl {α : Type} {f : Mach → α → Mach} (h : ∀ m x, Mach.Keeps m (f m x)) : ∀ (l : List α) (m : Mach), m.Keeps (l.foldl f m)
  | [], m => .refl m
  | x :: l, m => (h m x).trans (Mach.Keeps.foldl h l (f m x))

theorem Mach.Keeps.foldl_snd {α β : Type} {f : β × Mach → α → β × Mach} (h : ∀ r x, Mach.Keeps r.2 (f r x).2) :
    ∀ (l : List α) (b : β) (m : Mach), m.Keeps (l.foldl f (b, m)).2
  | [], _, m => .refl m
  | x :: l, b, m => (h (b, m) x).trans (Mach.Keeps.foldl_snd h l (f (b, m) x).1 (f (b, m) x).2)

theorem Mach.Keeps.of_eq {α : Type} {p : α × Mach} {a : α} (e : p = (a, n)) (h : m.Keeps p.2) : m.Keeps n := by subst e; exact h

theorem Mach.keeps_ite {p : Prop} [Decidable p] (hn : m.Keeps n) (hk : m.Keeps k) : m.Keeps (if p then n else k) := by
  split
  · exact hn
  · exact hk

theorem Mach.Keeps.fibres (h : m.Keeps n) : n.fibres = m.fibres := (congrArg Mach.fibres h.eq :)
theorem Mach.Keeps.regs (h : m.Keeps n) : n.regs = m.regs := (congrArg Mach.regs h.eq :)
theorem Mach.Keeps.lats (h : m.Keeps n) : n.lats = m.lats := (congrArg Mach.lats h.eq :)
theorem Mach.Keeps.outst (h : m.Keeps n) : n.outst = m.outst := (congrArg Mach.outst h.eq :)
theorem Mach.Keeps.groups (h : m.Keeps n) : n.groups.map Group.plain = m.groups.map Group.plain := (congrArg Mach.groups h.eq :)

theorem Mach.Keeps.fibre? (h : m.Keeps n) (r : FRef) : n.fibre? r = m.fibre? r := by rw [Mach.fibre?, Mach.fibre?, h.fibres]

/-- A group is found as it was, but for the traps pending. -/
theorem Mach.Keeps.group? (h : m.Keeps n) (t g : Nat) : (n.group? t g).map Group.plain = (m.group? t g).map Group.plain := by
  have key : ∀ l : List Group, (l.find? (fun x => x.t == t && x.g == g)).map Group.plain = (l.map Group.plain).find? (fun x => x.t == t && x.g == g) :=
    fun l => by
      rw [List.find?_map]
      rfl
  rw [Mach.group?, Mach.group?, key, key, h.groups]

theorem Mach.Keeps.groupIn (h : m.Keeps n) {c : Ctx} (hg : (m.group? c.f.ref.t c.f.ref.g).isSome) : n.group? c.f.ref.t c.f.ref.g = some (c.groupIn n) := by
  have hs := congrArg Option.isSome (h.group? c.f.ref.t c.f.ref.g)
  rw [Option.isSome_map, Option.isSome_map, hg] at hs
  obtain ⟨x, hx⟩ := Option.isSome_iff_exists.mp hs
  rw [Ctx.groupIn, hx]
  rfl

/-! ### Translation -/

theorem Mach.count_keeps (m : Mach) (d k : Nat) (p : Option Nat) (j : Nat) : m.Keeps (m.count d k p j) := rfl

theorem Mach.tlbPutIn_keeps (m : Mach) (own : TlbOwner) (p x b : Nat) (l : Leaf) (size : Nat) : m.Keeps (m.tlbPutIn own p x b l size) := by
  unfold Mach.tlbPutIn
  exact Mach.keeps_ite (.refl m) rfl

theorem Mach.tlbPut_keeps (m : Mach) (own : TlbOwner) (p x b : Nat) (l : Leaf) : m.Keeps (m.tlbPut own p x b l) := m.tlbPutIn_keeps ..

theorem Mach.touchWalk_keeps (m : Mach) (p x va : Nat) : m.Keeps (m.touchWalk cf p x va) := by
  unfold Mach.touchWalk
  split
  · split
    · refine Mach.keeps_ite (.refl m) (.foldl (fun m a => ?_) _ m)
      split
      · exact (m.touch_near ..).keeps
      · exact .refl m
    · exact .refl m
  · exact .refl m

theorem Mach.setEntry_keeps (m : Mach) (p x a : Nat) (e : DWord) : m.Keeps (m.setEntry cf p x a e) := by
  unfold Mach.setEntry
  split
  · split
    · exact (m.deliver_near _).keeps
    · exact .refl m
  · exact .refl m

theorem walkSet_keeps (m : Mach) (p x va : Nat) (dirty : Bool) : m.Keeps (walkSet cf m p x va dirty).2 := by
  unfold walkSet
  dsimp only
  split
  · exact m.touchWalk_keeps ..
  · exact (m.touchWalk_keeps p x va).trans (Mach.keeps_ite (.refl _) (Mach.setEntry_keeps ..))

theorem walkAt_keeps (m : Mach) (die p x va : Nat) : m.Keeps (walkAt cf m die p x va).2 := by
  have hw := (m.count_keeps die 5 (some p) 1).trans (walkSet_keeps (cf := cf) _ p x va false)
  unfold walkAt
  split
  · rename_i e
    exact (hw.of_eq e).trans (Mach.tlbPutIn_keeps ..)
  · exact hw

theorem xlateNow_keeps (m : Mach) (own : TlbOwner) (p x va : Nat) : m.Keeps (xlateNow cf m own p x va).2 := by
  unfold xlateNow
  split
  · exact .refl m
  · extract_lets die m1
    have h1 : m.Keeps m1 := by
      unfold m1
      split
      · exact m.count_keeps ..
      · exact .refl m
    split
    · exact h1.trans (Mach.tlbPut_keeps ..)
    · have hw := h1.trans (walkAt_keeps (cf := cf) m1 die p x va)
      split
      · rename_i e
        exact (hw.of_eq e).trans (Mach.tlbPut_keeps ..)
      · exact hw

theorem leafNow_keeps (m : Mach) (own : TlbOwner) (p x va : Nat) (write : Bool) : m.Keeps (leafNow cf m own p x va write).2 := by
  have hx := xlateNow_keeps (cf := cf) m own p x va
  unfold leafNow
  split
  · rename_i e
    exact hx.of_eq e
  · rename_i e
    split
    · exact (hx.of_eq e).trans (Mach.touchWalk_keeps ..)
    · exact hx.of_eq e

theorem Mach.setLeafDirty_keeps (m : Mach) (own : TlbOwner) (p x va : Nat) (l : Leaf) : m.Keeps (m.setLeafDirty cf own p x va l) := by
  unfold Mach.setLeafDirty
  extract_lets l' m1
  have h1 : m.Keeps m1 := Mach.keeps_ite (.refl m) (Mach.setEntry_keeps ..)
  exact Mach.keeps_ite h1 (h1.trans (Mach.tlbPut_keeps ..))

theorem winVm_keeps (m : Mach) (p : Nat) (e : WinEnt) (va : Nat) (cls : Cls) : m.Keeps (winVm cf m p e va cls).2 := by
  unfold winVm
  dsimp only
  split
  · exact .refl m
  · split
    · exact .refl m
    · have hl := leafNow_keeps (cf := cf) m (.agent 0 .heddle) p e.ctx va cls.writes
      split
      · rename_i h
        exact hl.of_eq h
      · rename_i h
        have hn := hl.of_eq h
        split
        · exact hn
        · split
          · exact Mach.keeps_ite (hn.trans (Mach.setLeafDirty_keeps ..)) hn
          · exact hn
          · exact hn

theorem winAccess_keeps (m : Mach) (p off k : Nat) (cls : Cls) : m.Keeps (winAccess cf m p off k cls).2 := by
  unfold winAccess
  split
  · exact .refl m
  · split
    · exact .refl m
    · split
      · exact .refl m
      · split
        · exact .refl m
        · exact winVm_keeps ..

theorem ownPlace_keeps (m : Mach) (part k : Nat) (cls : Cls) (p : Place) : m.Keeps (ownPlace cf m part k cls p).2 := by
  unfold ownPlace
  split
  · rename_i d off
    split
    · have hw := winAccess_keeps (cf := cf) m part off k cls
      split <;> exact hw.of_eq ‹_›
    · exact .refl m
  · exact .refl m

theorem ownPlaces_keeps (m : Mach) (part : Nat) (cls : Cls) (ps : List (Req × Place)) : m.Keeps (ownPlaces cf m part cls ps).2 :=
  .foldl_snd (β := List (Req × Except (Nat × Nat) Place)) (fun r q => ownPlace_keeps r.2 part q.1.n cls q.2) ps [] m

theorem Mach.setDirty_keeps (m : Mach) (c : Ctx) (ps : List Place) : m.Keeps (m.setDirty cf c ps) := by
  refine .foldl (fun m p => ?_) ps m
  cases p with
  | fab => exact .refl m
  | here a va =>
    dsimp only
    split
    · refine Mach.keeps_ite (.refl m) (Mach.Keeps.trans (n := _) ?_ (Mach.tlbPut_keeps ..))
      exact Mach.Keeps.trans (Mach.keeps_ite (m.touchWalk_keeps ..) (.refl m)) (Mach.setEntry_keeps ..)
    · exact .refl m

/-- The machine an instruction's accesses are performed on keeps what fibres, groups and registers hold. -/
theorem Placed.keeps {s : State} {c : Ctx} {scr : Bool} {cls : Cls} {reads : Bool} {qs : List Req} {ps : List (Req × Place)} {m : Mach}
    (h : Placed s c scr cls reads qs ps m) : s.m.Keeps m := by
  have ho : s.m.Keeps (owned s c scr cls reads qs).2 := by
    unfold owned
    split
    · exact ownPlaces_keeps ..
    · exact .refl s.m
  rw [h.machine]
  exact Mach.keeps_ite (ho.trans (Mach.setDirty_keeps ..)) ho

/-! ### Reads -/

theorem readAcc_keeps (w : Way) (m : Mach) (pt? : Option Part) (a : Acc) (va k : Nat) : m.Keeps (readAcc w m pt? a va k).2 := by
  unfold readAcc
  split
  · exact (m.readSlot_near ..).keeps
  · exact (m.readBy_near ..).keeps

theorem readLanes_keeps (m : Mach) (w : Way) (p : Nat) (qs : List (Req × Place)) : m.Keeps (readLanes cf m w p qs).2 := by
  refine .foldl_snd (fun r q => ?_) qs [] m
  dsimp only
  split
  · exact readAcc_keeps ..
  · exact (Mach.readBy_near ..).keeps

theorem Mach.before_keeps (m : Mach) (leaf : Point) (part : Nat) (sc : Scope) (rd wr : Bool) (ps : List (Req × Place)) :
    m.Keeps (m.before leaf part sc rd wr ps) := by
  unfold Mach.before
  extract_lets m1
  have h1 : m.Keeps m1 := by
    refine Mach.keeps_ite (.foldl (fun m q => ?_) ps m) (.refl m)
    split <;> exact (Mach.promote_near ..).keeps
  exact Mach.keeps_ite (h1.trans (Mach.drain_near ..).keeps) h1

theorem Mach.after_keeps (m : Mach) (leaf : Point) (sc : Scope) (rd : Bool) : m.Keeps (m.after leaf sc rd) :=
  Mach.keeps_ite (m.invalidate_near ..).keeps (.refl m)

theorem Mach.acqPush_keeps (m : Mach) (w : Way) (part : Nat) (ps : List (Req × Place)) : m.Keeps (m.acqPush w part ps) := by
  unfold Mach.acqPush
  split
  · refine .foldl (fun m q => ?_) ps m
    split
    · exact (m.push_near ..).keeps
    · exact .refl m
  · exact .refl m

end

/-! ### Issuing from the machine an access has made -/

section
variable {s : State} {i : Instr} {c : Ctx} {m n : Mach}

theorem Mach.Keeps.issuer_fibre (h : s.m.Keeps m) (hc : s.m.issuer = some c) : m.fibre? c.f.ref = some c.f :=
  (h.fibre? _).trans (Mach.issuer_fibre hc)

theorem Mach.Keeps.issuer_group (h : s.m.Keeps m) (hc : s.m.issuer = some c) : m.group? c.f.ref.t c.f.ref.g = some (c.groupIn m) :=
  h.groupIn (by rw [Mach.issuer_group hc]; rfl)

/-- What waiting writes to a fibre's record. -/
theorem Mach.waitAt_eq (m : Mach) (r : FRef) (i : Instr) (why : Why) : ∃ (upd : Fibre → Fibre) (k : Nat), m.waitAt r i why = (m.updFibre r upd).leavePort r k ∧
    ∀ f, (upd f).ref = f.ref ∧ (upd f).wait.map (fun w => (w.i, w.why)) = some (i, why) ∧
      ((upd f).pc, (upd f).pred, (upd f).base, (upd f).run, (upd f).pos) = (f.pc, f.pred, f.base, f.run, f.pos) := by
  refine ⟨_, _, rfl, fun f => ?_⟩
  dsimp only
  split <;> exact ⟨rfl, rfl, rfl⟩

/-- A fibre that waits stands where it stood; stores, buffers, messages and registers stay. -/
theorem waits_of_waitAt (hf : m.fibre? c.f.ref = some c.f) (why : Why) (ht : n = (m.tick 1).waitAt c.f.ref i why) :
    Waits ⟨s.cfg, n⟩ c i why ∧ n.beyond = m.beyond ∧ n.regs = m.regs := by
  obtain ⟨upd, k, hw, hu⟩ := (m.tick 1).waitAt_eq c.f.ref i why
  obtain ⟨-, hwait, hplace⟩ := hu c.f
  rw [hw] at ht
  subst ht
  have hl := Mach.leavePort_ran ((m.tick 1).updFibre c.f.ref upd) c.f.ref k
  have hfx : (((m.tick 1).updFibre c.f.ref upd).leavePort c.f.ref k).fibre? c.f.ref = some (upd c.f) := by
    have h1 : ((m.tick 1).updFibre c.f.ref upd).fibre? c.f.ref = some (upd c.f) := by
      rw [Mach.fibre?_updFibre fun f => (hu f).1]
      exact congrArg (Option.map upd) hf
    rw [← h1, Mach.fibre?, hl.2]
    rfl
  exact ⟨⟨by rw [hfx, ← hwait]; rfl, by rw [hfx, ← hplace]; rfl⟩, hl.1.beyond, hl.1.regs⟩

end
end Sys2Proof.Machine
end

section
/-! ## Loads (O27)

A load's lanes read where their places are known. What stands between the checks and the reads, the writes an access waits for and the bytes of other
devices it asks for, is the same for every read of places (`Reads`). -/
namespace Sys2Proof.Machine

section
variable {m n k : Mach} {cf : Conf}

/-! ### A plain read changes no byte -/

theorem SameStores.refl (m : Mach) : SameStores m m := ⟨rfl, rfl, rfl, rfl, rfl⟩

theorem SameStores.trans (h : SameStores n m) (l : SameStores k n) : SameStores k m :=
  ⟨l.1.trans h.1, l.2.1.trans h.2.1, l.2.2.1.trans h.2.2.1, l.2.2.2.1.trans h.2.2.2.1, l.2.2.2.2.trans h.2.2.2.2⟩

theorem SameStores.foldl {α : Type} {f : Mach → α → Mach} (h : ∀ m x, SameStores (f m x) m) : ∀ (l : List α) (m : Mach), SameStores (l.foldl f m) m
  | [], m => .refl m
  | x :: l, m => (h m x).trans (SameStores.foldl h l (f m x))

theorem SameStores.foldl_snd {α β : Type} {f : β × Mach → α → β × Mach} (h : ∀ r x, SameStores (f r x).2 r.2) :
    ∀ (l : List α) (b : β) (m : Mach), SameStores (l.foldl f (b, m)).2 m
  | [], _, m => .refl m
  | x :: l, b, m => (h (b, m) x).trans (SameStores.foldl_snd h l (f (b, m) x).1 (f (b, m) x).2)

theorem sameStores_ite {p : Prop} [Decidable p] (hn : SameStores n m) (hk : SameStores k m) : SameStores (if p then n else k) m := by
  split
  · exact hn
  · exact hk

theorem Mach.touchLine_sameStores (m : Mach) (part line pol : Nat) (key : Key) : SameStores (m.touchLine part line pol key) m := by
  unfold Mach.touchLine
  refine sameStores_ite (sameStores_ite (.refl m) (.refl m)) ?_
  unfold Mach.fillLine
  exact sameStores_ite (.refl m) (.refl m)

theorem Mach.touch_sameStores (m : Mach) (sp : Space) (addr j : Nat) (tag : Option KTag) : SameStores (m.touch sp addr j tag) m := by
  unfold Mach.touch
  split
  · exact sameStores_ite (.foldl (fun m _ => m.touchLine_sameStores ..) _ m) (.refl m)
  · exact .refl m

theorem Mach.readOver_sameStores (m : Mach) (ps : List Point) (sp : Space) (addr j : Nat) (tag : Option KTag) (install : Bool) :
    SameStores (m.readOver ps sp addr j tag install).2 m := by
  unfold Mach.readOver
  extract_lets bytes k new m1
  have h1 : SameStores m1 m := sameStores_ite (.refl m) (.refl m)
  exact sameStores_ite (h1.trans (m1.touch_sameStores ..)) h1

theorem Mach.readSlotOver_sameStores (m : Mach) (ps : List Point) (tag : KTag) (slot : Nat) (q : SlotParts) (install : Bool) :
    SameStores (m.readSlotOver ps tag slot q install).2 m := by
  unfold Mach.readSlotOver
  extract_lets r new m1
  have h1 : SameStores m1 m := .refl m
  exact sameStores_ite (h1.trans (.foldl (fun m _ => m.touch_sameStores ..) _ m1)) h1

theorem readAcc_plain_sameStores (leaf : Point) (m : Mach) (pt? : Option Part) (a : Acc) (va j : Nat) : SameStores (readAcc (.plain leaf) m pt? a va j).2 m := by
  unfold readAcc
  split
  · exact m.readSlotOver_sameStores ..
  · exact m.readOver_sameStores ..

theorem readLanes_plain_sameStores (m : Mach) (leaf : Point) (p : Nat) (qs : List (Req × Place)) : SameStores (readLanes cf m (.plain leaf) p qs).2 m := by
  refine .foldl_snd (fun r q => ?_) qs [] m
  dsimp only
  split
  · exact readAcc_plain_sameStores ..
  · exact r.2.readOver_sameStores ..

end

/-! ### A read of places -/

section
variable {s : State} {i : Instr} {c : Ctx} {m n : Mach} {ps : List (Req × Place)}

/-- An instruction that fibre c issues, on a machine its accesses have made, ends as its entry says. -/
structure Settles (s : State) (c : Ctx) (i : Instr) (m : Mach) (r : Res) : Prop where
  issuer : s.m.issuer = some c
  keeps : s.m.Keeps m
  next : exec i s = .next ⟨s.cfg, Mach.settle s.cfg c i r⟩

theorem Settles.fibre {r : Res} (h : Settles s c i m r) : m.fibre? c.f.ref = some c.f := h.keeps.issuer_fibre h.issuer

/-- The entry's machine may be changed by further accesses. -/
theorem Settles.on {r : Res} (h : Settles s c i m r) (l : m.Keeps n) : Settles s c i n r := ⟨h.issuer, h.keeps.trans l, h.next⟩

theorem Settles.res {r q : Res} (h : Settles s c i m r) (e : r = q) : Settles s c i m q := e ▸ h

/-- What issues with all its accesses placed settles on the machine they are performed on. -/
theorem Placed.settles {scr : Bool} {cls : Cls} {reads : Bool} {qs : List Req} (hp : Placed s c scr cls reads qs ps m) (hi : Issues s i c)
    {body : Conf → Mach → Ctx → Res} {go : List (Req × Place) → Mach → Res} (he : exec i s = issue s i body)
    (hb : body s.cfg s.m c = withPlaces s.cfg s.m c scr cls reads qs go) : Settles s c i m (go ps m) where
  issuer := hi.1
  keeps := hp.keeps
  next := by rw [he, issue_pass hi, hb, withPlaces_placed hp]

/-- An entry that holds the fibre for a reason has it wait. -/
theorem Settles.waits {why : Why} (h : Settles s c i m (.hold m why)) :
    Completes (exec i s) fun t => Waits t c i why ∧ t.m.beyond = m.beyond ∧ t.m.regs = m.regs :=
  ⟨_, h.next, waits_of_waitAt h.fibre why rfl⟩

/-- An entry whose result is outstanding. -/
theorem Settles.late {ws : List (Nat × Nat × Word)} {lat : List (Nat × Word)} (h : Settles s c i m (.late (m.addOutst c ws lat) .seq)) (he : endsRun i = false) :
    Completes (exec i s) fun t => Late s t c i m ws lat := by
  have hl := settle_late (s := s) (i := i) h.fibre (h.keeps.issuer_group h.issuer) ws lat .seq
  simp only [Go.pc, Go.ends, he] at hl
  exact ⟨_, h.next, hl⟩

/-- What waits for its writes to other devices has them leave. -/
theorem Settles.drains {ws : List Nat} {go : Mach → Res} (h : Settles s c i m (afterWrites m c ws go)) (hw : ws ≠ []) : Drains s c i m ws := by
  have hr : afterWrites m c ws go = .hold (m.push (m.below c.leaf 4) (fun w => ws.contains w)) (.drain ws true) :=
    if_neg (by simpa using hw)
  obtain ⟨t, ht, hwait, hb, hregs⟩ := ((h.res hr).on (m.push_near ..).keeps).waits
  exact ⟨t, ht, (congrArg Mach.bufs hb :), hwait, hregs.trans (m.push_near ..).keeps.regs⟩

theorem afterWrites_nil (m : Mach) (c : Ctx) (go : Mach → Res) : afterWrites m c [] go = go m := rfl

/-- Asking other devices sends the requests, holds those to this device, and leaves the fibre waiting. -/
theorem fabAsk_hold {cf : Conf} {asked : Req × Place → Bool} {acc : Req → Nat → Nat × FabAcc} {inst : List Point} {blk : List Byte}
    {atom : Option (AtomOp × Scope × Bool)} {phase : FabPhase} {sync : Bool} (h : m.cutOff = false ∨ farAsks cf ps asked = []) :
    ∃ n, fabAsk cf m c ps asked acc inst blk atom phase sync = .hold n (.fabric m.fresh) ∧ m.Keeps n ∧
      n.net = m.net ++ ((fabReqs cf c m.fresh ps asked acc phase sync).filter (fun r => r.target != cf.device.toNat)).map .access ∧
      n.parked = m.parked ++ (fabReqs cf c m.fresh ps asked acc phase sync).filter (fun r => r.target == cf.device.toNat) := by
  have hcut : ¬(m.cutOff && !(farAsks cf ps asked).isEmpty) = true := by
    rcases h with hc | hf
    · simp [hc]
    · simp [hf]
  exact ⟨_, if_neg hcut, rfl, rfl, rfl⟩

/-- What asks other devices waits for their answers. -/
theorem Settles.asks {asked : Req × Place → Bool} {acc : Req → Nat → Nat × FabAcc} {inst : List Point} {blk : List Byte}
    {atom : Option (AtomOp × Scope × Bool)} {phase : FabPhase} {sync : Bool} (h : Settles s c i m (fabAsk s.cfg m c ps asked acc inst blk atom phase sync)) :
    Asks s c i m ps asked acc phase sync := by
  intro hfar
  obtain ⟨n, hr, hk, hnet, hparked⟩ := fabAsk_hold hfar
  obtain ⟨t, ht, hwait, hb, hregs⟩ := ((h.res hr).on hk).waits
  exact ⟨t, ht, (congrArg Mach.net hb :).trans hnet, (congrArg Mach.parked hb :).trans hparked, hwait, hregs.trans hk.regs⟩

theorem readPlaces_ask {cf : Conf} {w : Way} {blk : List Byte} {go : Mach → List (Nat × List Byte) → Res} (hw : m.fabBefore c.leaf c.la.p w.system ps = [])
    (ha : ps.any ((m.acqPush w c.la.p ps).mustAsk w c.la.p) = true) : readPlaces cf m c w blk ps go =
      fabAsk cf (m.acqPush w c.la.p ps) c ps (fun q => anyFab [q]) (fun _ off => (off / 16 * 16, .read 16)) ((m.acqPush w c.la.p ps).scanPath w (.fab 0 0)) blk
        none .whole false := by
  rw [readPlaces, hw, afterWrites_nil]
  exact if_pos ha

theorem readPlaces_read {cf : Conf} {w : Way} {blk : List Byte} {go : Mach → List (Nat × List Byte) → Res} (hw : m.fabBefore c.leaf c.la.p w.system ps = [])
    (ha : ps.any ((m.acqPush w c.la.p ps).mustAsk w c.la.p) = false) : readPlaces cf m c w blk ps go =
      go (readLanes cf (m.acqPush w c.la.p ps) w c.la.p ps).2 (readLanes cf (m.acqPush w c.la.p ps) w c.la.p ps).1 := by
  rw [readPlaces, hw, afterWrites_nil]
  exact if_neg (by rw [ha]; exact Bool.false_ne_true)

/-- A read of places goes on, waits or asks (`Reads`). -/
theorem Settles.reads {w : Way} {blk : List Byte} {go : Mach → List (Nat × List Byte) → Res} {done : List (Nat × List Byte) × Mach → Prop}
    (h : Settles s c i m (readPlaces s.cfg m c w blk ps go))
    (hd : ∀ r, m.Keeps r.2 → Settles s c i r.2 (go r.2 r.1) → r = readLanes s.cfg (m.acqPush w c.la.p ps) w c.la.p ps → done r) : Reads s c i w ps m done := by
  refine ⟨fun hw => h.drains hw, fun hw ha => ?_, fun hw ha => ?_⟩
  · exact ((h.res (readPlaces_ask hw ha)).on (m.acqPush_keeps ..)).asks
  · have h1 := h.res (readPlaces_read hw ha)
    have hk := (m.acqPush_keeps w c.la.p ps).trans (readLanes_keeps (cf := s.cfg) _ w c.la.p ps)
    exact hd _ hk (h1.on hk) rfl

/-! ### Loads -/

/-- A load of the places of its lanes. -/
theorem Placed.loads {scr : Bool} {sz : Size} {sc : Scope} {d : Nat} {qs : List Req} (hp : Placed s c scr .read true qs ps m) (hi : Issues s i c)
    {body : Conf → Mach → Ctx → Res} (he : exec i s = issue s i body) (hb : body s.cfg s.m c = loadBody s.cfg s.m c scr sz sc d qs)
    (hends : endsRun i = false) : Loads s c i sz sc d ps m := by
  have h := (hp.settles hi he hb).on (m.before_keeps c.leaf c.la.p sc true false ps)
  refine h.reads fun r _ hr hread => ?_
  obtain ⟨t, ht, hl⟩ := (hr.on (r.2.after_keeps c.leaf sc true)).late hends
  refine ⟨t, ht, hl, fun hsc => ?_⟩
  subst hsc
  have hb := hl.1.beyond
  have hs : SameStores r.2 m := hread ▸ readLanes_plain_sameStores m c.leaf c.la.p ps
  exact ⟨(congrArg Mach.mem hb :).trans hs.1, (congrArg Mach.tags hb :).trans hs.2.1, (congrArg Mach.scr hb :).trans hs.2.2.1,
    (congrArg Mach.gran hb :).trans hs.2.2.2.1, (congrArg Mach.bufs hb :).trans hs.2.2.2.2⟩

end

/-- Settles O27: both forms are `loadBody`, of the lanes' generic or scratch addresses. -/
theorem memoryLoads : Obligations.MemoryLoads :=
  fun _ _ => ⟨fun _ _ _ _ _ _ _ hi hp => hp.loads hi rfl rfl rfl, fun _ _ _ _ _ _ _ hi hp => hp.loads hi rfl rfl rfl⟩

end Sys2Proof.Machine
end

section
/-! ## Atomics (O30) -/
namespace Sys2Proof.Machine

section
variable {s : State} {i : Instr} {c : Ctx} {m : Mach} {ps : List (Req × Place)} {qs : List Req} {cls : Cls} {reads : Bool}

/-! ### Scratch places -/

/-- A place in an allocation of scratch memory. -/
def Place.inScr (p : Place) : Prop := ∃ t off, p = .here ⟨.scr t, off, none, 0, false, none⟩ 0

theorem decodeScr_cases (m : Mach) (tm : Team) (a n : Nat) (write : Bool) :
    (∃ k e, decodeScr m tm a n write = .bad k e) ∨ ∃ u off, decodeScr m tm a n write = .scr u off := by
  have key : ∀ {p : Prop} [Decidable p] (u off : Nat), (∃ k e, (if p then Target.scr u off else .bad 5 0x11) = .bad k e) ∨
      ∃ u' off', (if p then Target.scr u off else .bad 5 0x11) = .scr u' off' := by
    intro p _ u off
    split
    · exact .inr ⟨_, _, rfl⟩
    · exact .inl ⟨_, _, rfl⟩
  unfold decodeScr
  dsimp only
  split
  · split
    · exact .inl ⟨_, _, rfl⟩
    · split
      · exact key _ _
      · exact .inl ⟨_, _, rfl⟩
  · split
    · exact .inl ⟨_, _, rfl⟩
    · exact key _ _

/-- A scratch address that passes its checks names a place in an allocation. -/
theorem checkReq_scr {q : Req} {p : Place} {wr : Bool} (h : checkReq s.cfg s.m c cls (reqTarget s.m c.tm true wr q) = .ok p) : p.inScr := by
  have key : ∀ t : Target, (∃ k e, t = .bad k e) ∨ (∃ u off, t = .scr u off) → checkReq s.cfg s.m c cls t = .ok p → p.inScr := by
    rintro _ (⟨k, e, rfl⟩ | ⟨u, off, rfl⟩) ht
    · cases ht
    · cases ht
      exact ⟨u, off, rfl⟩
  refine key _ ?_ h
  unfold reqTarget
  split
  · exact .inl ⟨_, _, rfl⟩
  · rw [if_pos rfl]
    exact decodeScr_cases ..

/-- Places here are not looked for on another device. -/
theorem ownPlaces_here {cf : Conf} {part : Nat} : ∀ (ps : List (Req × Place)), (∀ p ∈ ps, p.2.inScr) →
    ∀ (rs : List (Req × Except (Nat × Nat) Place)),
      ps.foldl (fun r q => let x := ownPlace cf r.2 part q.1.n cls q.2; (r.1 ++ [(q.1, x.1)], x.2)) (rs, m) = (rs ++ ps.map (fun p => (p.1, .ok p.2)), m)
  | [], _, rs => by simp
  | p :: ps, h, rs => by
    obtain ⟨t, off, hp⟩ := h p (List.mem_cons_self ..)
    rw [List.foldl_cons, show ownPlace cf (rs, m).2 part p.1.n cls p.2 = (.ok p.2, m) by rw [hp]; rfl]
    dsimp only
    rw [ownPlaces_here ps (fun q hq => h q (List.mem_cons_of_mem _ hq))]
    simp

/-- The D bits of pages are no part of scratch places. -/
theorem Mach.setDirty_scr {cf : Conf} : ∀ (ps : List Place), (∀ p ∈ ps, p.inScr) → m.setDirty cf c ps = m
  | [], _ => rfl
  | p :: ps, h => by
    obtain ⟨t, off, rfl⟩ := h p (List.mem_cons_self ..)
    exact Mach.setDirty_scr ps fun q hq => h q (List.mem_cons_of_mem _ hq)

/-- Accesses by scratch addresses are placed in allocations, and what they are performed on is the machine itself. -/
theorem Placed.scr (hp : Placed s c true cls reads qs ps m) : (∀ p ∈ ps, p.2.inScr) ∧ m = s.m := by
  have hc : ∀ p ∈ passing (checked s c true cls qs), p.2.inScr := by
    intro p hm
    obtain ⟨x, hx, hxp⟩ := List.mem_filterMap.mp hm
    obtain ⟨q, -, rfl⟩ := List.mem_map.mp hx
    dsimp only at hxp
    split at hxp
    · rename_i pl e
      cases hxp
      exact checkReq_scr e
    · cases hxp
  have ho : owned s c true cls reads qs = ((passing (checked s c true cls qs)).map (fun p => (p.1, .ok p.2)), s.m) := by
    unfold owned
    split
    · exact ownPlaces_here _ hc []
    · rw [← passing_all hp.fine]
  have hps : ps = passing (checked s c true cls qs) := by
    have := hp.places
    rw [ho] at this
    have h2 := congrArg passing this
    rwa [passing_ok, passing_ok, eq_comm] at h2
  subst hps
  refine ⟨hc, ?_⟩
  rw [hp.machine, ho]
  dsimp only
  split
  · exact Mach.setDirty_scr _ fun p hm => by
      obtain ⟨q, hq, rfl⟩ := List.mem_map.mp hm
      exact hc q hq
  · rfl

theorem anyFab_scr (h : ∀ p ∈ ps, p.2.inScr) : anyFab ps = false := by
  refine List.any_eq_false.mpr fun p hp => ?_
  obtain ⟨t, off, hq⟩ := h p hp
  rw [hq]
  exact Bool.false_ne_true

/-! ### The lanes' atomics -/

theorem atomLane_keeps (leaf : Point) (op : AtomOp) (sc : Scope) (dbl : Bool) (o : DWord × DWord) (m : Mach) (q : Req) (a : Acc) :
    m.Keeps (atomLane leaf op sc dbl o m q a).2 :=
  (m.atomic_near ..).keeps.trans (Mach.markCore_near ..).keeps

theorem atomLanes_keeps (m0 : Mach) (c : Ctx) (op : AtomOp) (sc : Scope) (dbl : Bool) (d : Nat) (m : Mach) (ps : List (Req × Place)) :
    m.Keeps (atomLanes m0 c op sc dbl d m ps).2 := by
  refine .foldl_snd (fun r q => ?_) ps [] m
  split
  · exact atomLane_keeps ..
  · exact .refl r.2

/-- An atomic waits for its writes to other devices, is performed here, or asks. -/
theorem Placed.atomics {scr : Bool} {op : AtomOp} {sc : Scope} {dbl : Bool} {d : Nat} (hp : Placed s c scr .atomic true qs ps m) (hi : Issues s i c)
    {body : Conf → Mach → Ctx → Res} (he : exec i s = issue s i body) (hb : body s.cfg s.m c = atomBody s.cfg s.m c scr op sc dbl d qs)
    (hends : endsRun i = false) :
    let ws := m.drainWids c sc ++ m.fabBefore c.leaf c.la.p true ps
    let n := m.before c.leaf c.la.p sc true true ps
    let r := atomLanes s.m c op sc dbl d n ps
    (ws ≠ [] → Drains s c i m ws) ∧
      (ws = [] → anyFab ps = false → Completes (exec i s) fun t =>
        Late s t c i (r.2.after c.leaf sc true) (loadWrites (if dbl then .d else .w) d r.1) (lowWords r.1)) ∧
      (ws = [] → anyFab ps = true → Asks s c i n ps (fun q => anyFab [q])
        (fun q off => (off, .atom op dbl (atomOpnds s.m c op dbl d q.lane).1 (atomOpnds s.m c op dbl d q.lane).2))
        (if oneFar ps then .whole else .check) (sc == .core)) := by
  intro ws n r
  have h := hp.settles hi he hb
  have hn : m.Keeps n := m.before_keeps ..
  refine ⟨fun hw => h.drains hw, fun hw hf => ?_, fun hw hf => ?_⟩
  · have hr : n.Keeps (r.2.after c.leaf sc true) := (atomLanes_keeps ..).trans (r.2.after_keeps ..)
    refine ((h.res ?_).on (hn.trans hr)).late hends
    rw [show m.drainWids c sc ++ m.fabBefore c.leaf c.la.p true ps = [] from hw, afterWrites_nil]
    exact if_neg (by rw [hf]; exact Bool.false_ne_true)
  · have hr := h.res (q := fabAsk s.cfg n c ps (fun q => anyFab [q])
        (fun q off => (off, .atom op dbl (atomOpnds s.m c op dbl d q.lane).1 (atomOpnds s.m c op dbl d q.lane).2)) []
        (ps.flatMap fun q => opndBytes (atomOpnds s.m c op dbl d q.1.lane)) (some (op, sc, dbl)) (if oneFar ps then .whole else .check) (sc == .core)) (by
      rw [show m.drainWids c sc ++ m.fabBefore c.leaf c.la.p true ps = [] from hw, afterWrites_nil]
      exact if_pos hf)
    exact (hr.on hn).asks

end

/-- Settles O30: both forms are `atomBody`; a scratch address names no other device. -/
theorem memoryAtomics : Obligations.MemoryAtomics := by
  refine fun s c => ⟨fun op sc dbl d a ps m hi hp => hp.atomics hi rfl rfl rfl, fun op sc dbl d a ps m hi hp => ?_⟩
  obtain ⟨hd, hl, -⟩ := hp.atomics hi rfl rfl rfl
  exact ⟨hd, fun hw => hl hw (anyFab_scr hp.scr.1)⟩

end Sys2Proof.Machine
end

section
/-! ## Stores (O28)

Every store ends by settling the posted stores whose answers are all there (R34). Where the machine holds one that an engine's operation has posted and
another device has refused, and the operation has retired, that sets bit 63 of the counter of the engine's context, in the team's scratchpad: a byte no
lane has written. The statement speaks of every state, and this one holds such a posted store as the instruction issues. -/
namespace Sys2Proof.Machine
open Sys2Proof.Tests

/-- A store of operation 9 of team 1's copy context to device 5, which the device has refused; the operation has retired. -/
def refusedPost : FabPend where
  xid := 0
  ref := ⟨1, 0, 0⟩
  op := some (1, .copy, 9)
  store := true
  asks := [(⟨0, 0, 4, 0⟩, .fab 5 0)]
  answers := [(0, .refused 4 4)]
  inst := []
  blk := []
  atom := none
  phase := .whole
  awaits := []
  stale := false

/-- The lab, holding that store. -/
def postLab : State := labWith fun m => { m with fabPend := [refusedPost] }

/-- A plain store of a word to scratch memory, at 0x400. -/
def labStore : Instr := .sts .w .plain (.v 16) (.v 4) 0

/-- The top byte of the copy context's counter lies at 7; the store sets its bit 63. -/
theorem labStore_sets_counter : postLab.m.seen (cOf postLab).leaf (.scr 1) 7 none = 0x00 ∧
    (nextOf (exec labStore postLab)).m.seen (cOf postLab).leaf (.scr 1) 7 none = 0x80 := by decide +kernel

/-- Refutes O28: a plain STS to 0x400 of a scratchpad changes the byte the group sees at 7, where a refused store of a retired operation awaits its
report. -/
theorem not_memoryStores : ¬ Obligations.MemoryStores := by
  intro h
  obtain ⟨-, -, -, -, hsts, -⟩ := h postLab (cOf postLab)
  have hseen := hsts .w (.v 16) (.v 4) 0 _ _ (nextOf (exec labStore postLab)) (.scr 1) 7 none (issues_of (by decide +kernel)) (placed_of (by decide +kernel))
    (next_of (by decide +kernel)) (by decide +kernel)
  obtain ⟨hbefore, hafter⟩ := labStore_sets_counter
  rw [hbefore, hafter] at hseen
  exact absurd hseen (by decide)

end Sys2Proof.Machine
end

section
/-! ## Taking a trap (R171 to R173)

A trap is taken in four stages: the results outstanding settle or are dropped, an invocation held breaks, the frame is written and leaves the group's
point, and the group enters its handler. Each stage changes a part of the machine that the others do not look at. -/

namespace Sys2Proof.Machine

variable {m n : Mach} {s t : State} {c : Ctx} {cr : CtxRec} {x : Trap} {cf : Conf}

/-! ### The stages -/

/-- The fibre's results settle, where its run goes on, or are dropped. -/
def Mach.quit (m : Mach) (c : Ctx) : Mach := if c.f.run then (m.settleLatches c.f.ref).endYields c.f.ref.t else m.clearLatches c.f.ref c.f.pred

/-- The invocation the group holds breaks, but at a fault of a yield. -/
def Mach.unhold (m : Mach) (cf : Conf) (c : Ctx) (x : Trap) : Mach :=
  if x.cause != 0x13 then m.breakHeld cf c.f.ref.t c.f.ref.g x.cause else m

/-- The frame is written and leaves the group's point. -/
def Mach.framed (m : Mach) (c : Ctx) (cr : CtxRec) (x : Trap) : Mach :=
  (m.writeFrame c.leaf c.f.ref.t (frameOff cr c.g.g) (trapFrame m c x)).drain c.leaf 1

/-- The group in its handler. -/
def Group.handling (m : Mach) (c : Ctx) (x : Trap) (g : Group) : Group :=
  { g with handler := true, handlerKind := x.cause, trapCause := x.word, trapAddr := x.addr, feKept := none
           lpadKept := if x.cause = 9 then none else c.f.lpad, ready := m.cyc }

/-- A fibre of the trapping group: the one that traps starts the handler, the others stand still. -/
def Fibre.handling (c : Ctx) (cr : CtxRec) (f : Fibre) : Fibre :=
  if f.ref = c.f.ref then
    { f with pc := cr.tvec, run := false, pos := 0, wait := none, lpad := none, xl := [], trl := none, fe := none, drained := false, asked := false }
  else if f.ref.t = c.f.ref.t ∧ f.ref.g = c.f.ref.g then { f with susp := true } else f

/-- The group and its fibres enter the handler. -/
def Mach.handled (m : Mach) (c : Ctx) (cr : CtxRec) (x : Trap) : Mach :=
  { m.updGroup c.f.ref.t c.f.ref.g (Group.handling m c x) with fibres := m.fibres.map (Fibre.handling c cr) }

/-- The fibres of the group leave their ports. -/
def Mach.unported (m : Mach) (c : Ctx) : Mach :=
  ((((m.fibresOf c.f.ref.t c.f.ref.g).filter (fun f => f.ref != c.f.ref)).foldl (fun m f => m.leavePort f.ref 0) m).leavePort c.f.ref 1).clearLatches
    c.f.ref c.f.pred

/-- The machine after a synchronous trap of a fibre that can trap. -/
theorem TrapReady.takeTrap (h : TrapReady s c cr) (ha : x.async = false) (m : Mach) :
    m.takeTrap s.cfg c x = (((((m.quit c).unhold s.cfg c x).framed c cr x).handled c cr x).unported c) := by
  have hn : noTrap s.cfg c x.async = false := by
    simp only [noTrap, h.ctx, h.free, ha, Bool.or_eq_false_iff]
    refine ⟨⟨?_, ?_⟩, rfl⟩
    · simpa using h.tvec
    · simpa using h.fits
  rw [ha] at hn
  simp only [Mach.takeTrap, hn, h.ctx, ha]
  rfl

/-! ### Results, yields and the invocation held -/

/-- A fold keeps what each of its steps keeps. -/
theorem foldl_keeps {α β γ : Type} (p : β → γ) {f : β → α → β} (h : ∀ b a, p (f b a) = p b) : ∀ (l : List α) (b : β), p (l.foldl f b) = p b
  | [], _ => rfl
  | a :: l, b => (foldl_keeps p h l (f b a)).trans (h b a)

/-- A group without the time it is ready at and what it holds. -/
def Group.shed (g : Group) : Group := { g with ready := 0, held := none }

/-- A fibre without what it waits for. -/
def Fibre.going (f : Fibre) : Fibre := { f with wait := none }

/-- What of the machine neither results nor yields have a part in. -/
def Mach.resultless (m : Mach) : Mach :=
  { m with regs := [], lats := [], regErr := [], latErr := [], outst := [], groups := m.groups.map Group.timeless, fibres := m.fibres.map Fibre.going }

theorem Mach.settleLatches_resultless (m : Mach) (r : FRef) : (m.settleLatches r).resultless = m.resultless := by
  refine foldl_keeps Mach.resultless (fun m o => ?_) _ m
  split <;> rfl

theorem Mach.clearLatches_resultless (m : Mach) (r : FRef) (p : Word) : (m.clearLatches r p).resultless = m.resultless := rfl

/-- A record of a group changed in what `p` does not show shows the same. -/
theorem map_updGroup {α : Type} (p : Group → α) {f : Group → Group} (h : ∀ x, p (f x) = p x) (m : Mach) (t g : Nat) :
    (m.updGroup t g f).groups.map p = m.groups.map p := by
  simp only [Mach.updGroup, List.map_map]
  refine List.map_congr_left fun x _ => ?_
  simp only [Function.comp]
  split
  · exact h x
  · rfl

theorem Mach.woken_resultless (m m0 : Mach) (t g : Nat) : (m.woken m0 t g).resultless = m.resultless := by
  unfold Mach.woken
  split
  · exact congrArg (fun l => ({ m.resultless with groups := l } : Mach)) (map_updGroup Group.timeless (by intro; rfl) m t g)
  · rfl

theorem Mach.woken_stores (m m0 : Mach) (t g : Nat) : (m.woken m0 t g).regs = m.regs ∧ (m.woken m0 t g).lats = m.lats := by
  unfold Mach.woken
  split <;> exact ⟨rfl, rfl⟩

theorem Mach.endYields_resultless (m : Mach) (t : Nat) : (m.endYields t).resultless = m.resultless := by
  refine (foldl_keeps Mach.resultless (fun n g => n.woken_resultless m t g) _ _).trans ?_
  refine congrArg (fun l => ({ m.resultless with fibres := l } : Mach)) ?_
  rw [List.map_map]
  refine List.map_congr_left fun f _ => ?_
  simp only [Function.comp]
  split <;> rfl

theorem Mach.endYields_stores (m : Mach) (t : Nat) : (m.endYields t).regs = m.regs ∧ (m.endYields t).lats = m.lats :=
  ⟨foldl_keeps Mach.regs (fun n g => (n.woken_stores m t g).1) _ _, foldl_keeps Mach.lats (fun n g => (n.woken_stores m t g).2) _ _⟩

theorem Mach.quit_resultless (m : Mach) (c : Ctx) : (m.quit c).resultless = m.resultless := by
  unfold Mach.quit
  split
  · exact (Mach.endYields_resultless ..).trans (Mach.settleLatches_resultless ..)
  · exact Mach.clearLatches_resultless ..

theorem Mach.quit_lats (m : Mach) (c : Ctx) : (m.quit c).lats = (m.latched c).lats := by
  unfold Mach.quit Mach.latched
  split
  · exact (Mach.endYields_stores ..).2
  · rfl

theorem Mach.quit_regs (c : Ctx) (ho : m.outst = []) : (m.quit c).regs = m.regs := by
  have hs : m.settleLatches c.f.ref = m := by rw [Mach.settleLatches, ho]; rfl
  unfold Mach.quit
  split
  · exact (Mach.endYields_stores ..).1.trans (by rw [hs])
  · rfl

/-- What of the machine the end of an invocation has no part in. -/
def Mach.uninvoked (m : Mach) : Mach := { m with hents := [], hgens := [], invq := [], net := [] }

theorem Mach.freeHent_uninvoked (m : Mach) (p i : Nat) : (m.freeHent p i).uninvoked = m.uninvoked := by
  unfold Mach.freeHent
  split <;> rfl

theorem Mach.freeHome_uninvoked (m : Mach) (dev p : Nat) (e : HEnt) : (m.freeHome dev p e).uninvoked = m.uninvoked := by
  have hr : ∀ (n : Mach) r, (n.freeResult p r).uninvoked = n.uninvoked := fun n r => by
    unfold Mach.freeResult
    split
    · split
      · exact n.freeHent_uninvoked p r
      · rfl
    · rfl
  unfold Mach.freeHome
  dsimp only
  split
  · split
    · exact (hr ..).trans (Mach.freeHent_uninvoked ..)
    · exact Mach.freeHent_uninvoked m p e.idx
  · exact Mach.freeHent_uninvoked ..

theorem Mach.tellHome_uninvoked (m : Mach) (dev p : Nat) (h : Handle) (st : HState) : (m.tellHome dev p h st).uninvoked = m.uninvoked := by
  unfold Mach.tellHome Mach.homeState
  dsimp only
  split
  · split
    · rfl
    · split
      · split
        · exact (Mach.freeHome_uninvoked ..).trans rfl
        · rfl
      · rfl
  · rfl

theorem Mach.endInvocation_uninvoked (m : Mach) (dev p e : Nat) (st : HState) : (m.endInvocation dev p e st).uninvoked = m.uninvoked := by
  unfold Mach.endInvocation
  dsimp only
  split
  · rfl
  · split
    · exact (Mach.freeHent_uninvoked ..).trans ((Mach.tellHome_uninvoked ..).trans rfl)
    · exact (Mach.tellHome_uninvoked ..).trans rfl

/-- A group with another value for what it holds. -/
def Group.holding (h : Option Nat → Option Nat) (g : Group) : Group := { g with held := h g.held }

/-- Where an invocation breaks, the group holds it no longer. -/
theorem Mach.unhold_uninvoked (m : Mach) (cf : Conf) (c : Ctx) (x : Trap) : ∃ h : Option Nat → Option Nat,
    (m.unhold cf c x).uninvoked = (m.updGroup c.f.ref.t c.f.ref.g (Group.holding h)).uninvoked := by
  have hid : m.updGroup c.f.ref.t c.f.ref.g (Group.holding id) = m := by
    simp [Mach.updGroup, Group.holding]
  have hend : ∀ n : Mach, n.uninvoked = m.uninvoked → (n.updGroup c.f.ref.t c.f.ref.g (Group.holding fun _ => none)).uninvoked =
      (m.updGroup c.f.ref.t c.f.ref.g (Group.holding fun _ => none)).uninvoked := fun n hn => by
    have hg : n.groups = m.groups := (congrArg Mach.groups hn :)
    simp only [Mach.updGroup, hg]
    exact congrArg (fun k : Mach => ({ k with groups := _ } : Mach)) hn
  unfold Mach.unhold Mach.breakHeld
  split
  · split
    · split
      · exact ⟨fun _ => none, hend _ (Mach.endInvocation_uninvoked ..)⟩
      · exact ⟨id, congrArg Mach.uninvoked hid.symm⟩
    · exact ⟨id, congrArg Mach.uninvoked hid.symm⟩
  · exact ⟨id, congrArg Mach.uninvoked hid.symm⟩

/-- Where the group holds no invocation, none breaks. -/
theorem Mach.unhold_of_none {g : Group} (hg : m.group? c.f.ref.t c.f.ref.g = some g) (hh : g.held = none) : m.unhold cf c x = m := by
  unfold Mach.unhold Mach.breakHeld
  rw [hg]
  split
  · cases (m.team? c.f.ref.t).bind (fun tm => m.launch? tm.l) with
    | none => rfl
    | some la => simp [hh]
  · rfl

/-! ### The frame -/

/-- What of the machine the frame has no part in. -/
def Mach.still (m : Mach) : Mach :=
  { m with
    scr := [], gran := [], poison := [], bufs := [], copies := [], blocks := [], marks := [], hist := [], fabPend := [], fresh := 0
    ops := m.ops.map (fun o => { o with met := false }) }

/-- What a trap leaves of the rest is part of what its frame leaves. -/
theorem Mach.aside_of_still (h : n.still = m.still) : n.aside = m.aside := by
  have e : ∀ k : Mach, k.aside = { k.still.beyond with mem := [], tags := [], pcache := [], net := [] } := fun _ => rfl
  rw [e, e, h]

theorem Mach.fillGranules_still (m : Mach) (t a k : Nat) (w : WKind) : (m.fillGranules t a k w).still = m.still := by
  cases w with
  | plain => rfl
  | stfe => exact foldl_keeps Mach.still (f := fun m gr => m.setGranule t gr (true, 0xFFFF)) (fun _ _ => rfl) _ m
  | engine => exact foldl_keeps Mach.still (fun _ _ => by rfl) _ m

theorem Mach.armsMet_still (m : Mach) (sp : Space) (a k : Nat) : (m.armsMet sp a k).still = m.still := by
  have hl : (m.armsMet sp a k).ops.map (fun o => { o with met := false }) = m.ops.map (fun o => { o with met := false }) := by
    rw [Mach.armsMet, List.map_map]
    refine List.map_congr_left fun o _ => ?_
    simp only [Function.comp]
    split
    · split <;> rfl
    · rfl
  exact congrArg (fun l => ({ m.still with ops := l } : Mach)) hl

/-- A write delivered to a team's allocation changes bytes, granules and poison there, and tells those that watch it. -/
theorem Mach.deliver_still {w : Write} {u : Nat} (hw : w.sp = .scr u) (m : Mach) : (m.deliver w).still = m.still := by
  simp only [Mach.deliver, hw]
  refine (Mach.armsMet_still ..).trans ?_
  refine Eq.trans ?_ (Mach.fillGranules_still { m with scr := smSetRun 0 m.scr (scrKey u w.addr) w.bytes } u w.addr w.bytes.length w.kind)
  split <;> rfl

theorem Mach.fillGranules_bufs (m : Mach) (t a k : Nat) (w : WKind) : (m.fillGranules t a k w).bufs = m.bufs := by
  cases w with
  | plain => rfl
  | stfe => exact foldl_keeps Mach.bufs (f := fun m gr => m.setGranule t gr (true, 0xFFFF)) (fun _ _ => rfl) _ m
  | engine => exact foldl_keeps Mach.bufs (fun _ _ => by rfl) _ m

theorem Mach.deliver_bufs {w : Write} {u : Nat} (hw : w.sp = .scr u) (m : Mach) : (m.deliver w).bufs = m.bufs := by
  cases hs : w.sync <;> simp [Mach.deliver, hw, hs, Mach.armsMet, Mach.record, Mach.mark, Mach.clearPoison, Mach.fillGranules_bufs]

/-- Granules that are set one after another. -/
theorem Mach.foldl_setGranule_gran (t : Nat) (x : Bool × BitVec 16) : ∀ (l : List Nat) (m : Mach),
    (l.foldl (fun m q => m.setGranule t q x) m).gran = smSetAll (true, 0xFFFF) m.gran (l.map (fun q => (granKey t q, x)))
  | [], _ => rfl
  | q :: l, m => Mach.foldl_setGranule_gran t x l (m.setGranule t q x)

/-- A full/empty store fills the granules it meets. -/
theorem Mach.deliver_gran {w : Write} {u : Nat} (hw : w.sp = .scr u) (hk : w.kind = .stfe) (m : Mach) :
    (m.deliver w).gran = smSetAll (true, 0xFFFF) m.gran ((granulesOf w.addr w.bytes.length).map (fun q => (granKey u q, (true, 0xFFFF)))) := by
  cases hs : w.sync <;>
    simp [Mach.deliver, hw, hk, hs, Mach.armsMet, Mach.record, Mach.mark, Mach.clearPoison, Mach.fillGranules, Mach.foldl_setGranule_gran]

/-- A granule that shares no byte with a full/empty store keeps its state. -/
theorem Mach.deliver_granule {w : Write} {u : Nat} (hw : w.sp = .scr u) (hk : w.kind = .stfe) (hm : m.canonical = true) {t' gr : Nat}
    (hg : ∀ q ∈ granulesOf w.addr w.bytes.length, granKey u q ≠ granKey t' gr) : (m.deliver w).granule t' gr = m.granule t' gr := by
  rw [Mach.granule, Mach.deliver_gran hw hk]
  refine smGet_smSetAll_other _ _ ((canonical_iff m).mp hm).2.2.2 fun p hp => ?_
  obtain ⟨q, hq, rfl⟩ := List.mem_map.mp hp
  exact hg q hq

variable {tt gg : Nat}

/-- A write leaves a group's point: to its home where that is an allocation of the group's team, and to the core's point otherwise. -/
theorem Mach.moveUp_group (m : Mach) {e : BufEnt} (he : e.pt = .group tt gg) : m.moveUp e =
    let n := ({ m with bufs := m.bufs.erase e } : Mach).uncopy e.pt e.w.sp e.w.addr e.w.bytes.length
    if e.w.sp = .scr tt then n.deliver e.w else { n with bufs := n.bufs ++ [{ e with pt := .core tt }] } := by
  have hp : m.parent e.pt = .core tt := by rw [he]; rfl
  by_cases hs : e.w.sp = .scr tt
  · have hh : m.holds (.core tt) (.scr tt) = true := by simp [Mach.holds]
    simp only [Mach.moveUp, hp, hs, hh, if_true]
  · have hh : m.holds (.core tt) e.w.sp = false := by
      cases hsp : e.w.sp with
      | scr u => rw [hsp] at hs; simpa [Mach.holds] using fun h => hs (congrArg Space.scr h.symm)
      | pkg => rfl
      | host => rfl
      | fab => rfl
    simp only [Mach.moveUp, hp, hh, if_neg hs]

theorem Mach.moveUp_still (m : Mach) {e : BufEnt} (he : e.pt = .group tt gg) : (m.moveUp e).still = m.still := by
  rw [Mach.moveUp_group m he]
  dsimp only
  split
  · next h => exact (Mach.deliver_still h _).trans rfl
  · rfl

theorem Mach.moveUp_bufs (m : Mach) {e : BufEnt} (he : e.pt = .group tt gg) :
    (m.moveUp e).bufs = m.bufs.erase e ++ if e.w.sp = .scr tt then [] else [{ e with pt := .core tt }] := by
  rw [Mach.moveUp_group m he]
  dsimp only
  split
  · next h => exact (Mach.deliver_bufs h _).trans (List.append_nil _).symm
  · rfl

/-- Whether an entry stands at a group's point. -/
def BufEnt.at (p : Point) (e : BufEnt) : Bool := e.pt == p

/-- The drain to core scope moves what stands at the group's own point, oldest first. -/
theorem Mach.drain_group (m : Mach) : m.drain (.group tt gg) 1 = (m.bufs.filter (BufEnt.at (.group tt gg))).foldl Mach.moveUp m := by
  have hb : m.below (.group tt gg) 1 = [.group tt gg] := by
    simp [Mach.below, Mach.chain, Mach.chain.go, Mach.parent, Point.level]
  have hn : ∀ (sel : Nat → Bool) (l : List BufEnt), (∀ e ∈ l, sel e.w.wid = true) → needed sel l = l := fun sel l => by
    induction l with
    | nil => intro; rfl
    | cons e l ih =>
      intro h
      simp only [needed, ih fun e' he => h e' (List.mem_cons_of_mem _ he), h e List.mem_cons_self, Bool.true_or, if_true]
  rw [Mach.drain, hb, Mach.push, List.foldl_cons, List.foldl_nil]
  rw [hn _ _ fun e he => ?_]
  · rfl
  · obtain ⟨hm, hp⟩ := List.mem_filter.mp he
    rw [List.contains_iff_mem, Mach.widsAt]
    exact List.mem_map_of_mem (List.mem_filter.mpr ⟨hm, by simpa using hp⟩)

theorem filter_erase_of_pos {α : Type} [BEq α] [LawfulBEq α] {p : α → Bool} {a : α} (ha : p a = true) : ∀ l : List α,
    (l.erase a).filter p = (l.filter p).erase a
  | [] => rfl
  | b :: l => by
    by_cases hb : b = a
    · subst hb
      simp [ha]
    · rw [List.erase_cons_tail (by simpa using hb)]
      cases hp : p b with
      | true => rw [List.filter_cons_of_pos hp, List.filter_cons_of_pos hp, List.erase_cons_tail (by simpa using hb), filter_erase_of_pos ha l]
      | false => rw [List.filter_cons_of_neg (by simp [hp]), List.filter_cons_of_neg (by simp [hp]), filter_erase_of_pos ha l]

/-- After the drain nothing stands at the group's point. -/
theorem Mach.drain_group_at (m : Mach) : ∀ e ∈ (m.drain (.group tt gg) 1).bufs, e.pt ≠ .group tt gg := by
  have key : ∀ (l : List BufEnt) (m : Mach), m.bufs.filter (BufEnt.at (.group tt gg)) = l →
      (l.foldl Mach.moveUp m).bufs.filter (BufEnt.at (.group tt gg)) = [] := fun l => by
    induction l with
    | nil => intro m h; exact h
    | cons e l ih =>
      intro m h
      have hp : BufEnt.at (.group tt gg) e = true := (List.mem_filter.mp (h ▸ List.mem_cons_self : e ∈ m.bufs.filter _)).2
      refine ih _ ?_
      rw [Mach.moveUp_bufs m (by simpa [BufEnt.at] using hp), List.filter_append, filter_erase_of_pos hp, h, List.erase_cons_head]
      split <;> simp [BufEnt.at]
  intro e he hp
  rw [Mach.drain_group] at he
  have hf := key _ m rfl
  rw [List.filter_eq_nil_iff] at hf
  exact hf e he (by simpa [BufEnt.at] using hp)

/-- Moves from a group's point change only what the frame does. -/
theorem Mach.moves_still : ∀ (l : List BufEnt) (m : Mach), (∀ e ∈ l, e.pt = .group tt gg) → (l.foldl Mach.moveUp m).still = m.still
  | [], _, _ => rfl
  | e :: l, m, h => (Mach.moves_still l _ fun x hx => h x (List.mem_cons_of_mem _ hx)).trans (m.moveUp_still (h e List.mem_cons_self))

/-- The i-th sixteen bytes of a frame, as the fibre writes them. -/
def frameWrite (m : Mach) (u off : Nat) (bs : List Byte) (i : Nat) : Write :=
  ⟨m.fresh + 1 + i, .scr u, off + 16 * i, bytesAt bs (16 * i) 16, .stfe, none, false, 0, 0, 0⟩

/-- Those sixteen bytes, buffered at the group's point. -/
def frameEnt (m : Mach) (u gg off : Nat) (bs : List Byte) (i : Nat) : BufEnt := ⟨.group u gg, frameWrite m u off bs i, .rests⟩

/-- The writes of a frame: they stand at the group's point, the youngest there. -/
theorem Mach.writeFrame_spec (m : Mach) (u gg off : Nat) (bs : List Byte) (k : Nat) :
    let n := (List.range k).foldl (fun m i =>
      m.writePlain (.group u gg) ⟨0, .scr u, off + 16 * i, bytesAt bs (16 * i) 16, .stfe, none, false, 0, 0, 0⟩) m
    n.bufs = m.bufs ++ (List.range k).map (frameEnt m u gg off bs) ∧ n.fresh = m.fresh + k ∧ n.scr = m.scr ∧ n.gran = m.gran ∧ n.still = m.still := by
  induction k with
  | zero => exact ⟨(List.append_nil _).symm, rfl, rfl, rfl, rfl⟩
  | succ k ih =>
    obtain ⟨hb, hf, hs, hg, hq⟩ := ih
    simp only [List.range_succ, List.foldl_append, List.foldl_cons, List.foldl_nil, List.map_append, List.map_cons, List.map_nil]
    rw [Mach.writePlain_leaf rfl]
    refine ⟨?_, ?_, hs, hg, hq⟩
    · dsimp only
      rw [hb, hf, List.append_assoc]
      simp [frameEnt, frameWrite, Nat.add_right_comm]
    · exact (congrArg (· + 1) hf).trans (Nat.add_assoc ..)

/-- Frame writes that leave the group's point leave the other entries. -/
theorem Mach.moves_bufs {u : Nat} : ∀ (l : List BufEnt) (m : Mach) (b : List BufEnt), m.bufs = b ++ l → (∀ e ∈ b, e.pt ≠ .group u gg) →
    (∀ e ∈ l, e.pt = .group u gg ∧ e.w.sp = .scr u) → (l.foldl Mach.moveUp m).bufs = b
  | [], _, _, h, _, _ => h.trans (List.append_nil _)
  | e :: l, m, b, h, hb, hl => by
    obtain ⟨hp, hs⟩ := hl e List.mem_cons_self
    refine Mach.moves_bufs l _ b ?_ hb fun x hx => hl x (List.mem_cons_of_mem _ hx)
    rw [Mach.moveUp_bufs m hp, if_pos hs, List.append_nil, h, List.erase_append_right _ fun hm => hb e hm hp, List.erase_cons_head]

/-- Sixteen bytes meet the granules between the first byte's and the last's. -/
theorem mem_granulesOf_sixteen {a q : Nat} (h : q ∈ granulesOf a 16) : a / 16 ≤ q ∧ q ≤ (a + 15) / 16 := by
  obtain ⟨i, hi, rfl⟩ : ∃ i ≤ (a + 15) / 16 - a / 16, a / 16 + i = q := by simpa [granulesOf] using h
  omega

/-- What the writes of a frame, as they leave the point, make of the stores. -/
theorem Mach.moves_frame (m0 : Mach) (u off : Nat) (bs : List Byte) (k : Nat) (hm : m.canonical = true) :
    let n := ((List.range k).map (frameEnt m0 u gg off bs)).foldl Mach.moveUp m
    n.canonical = true ∧ (∀ i < 16 * k, n.homeByte (.scr u) (off + i) none = bs.getD i 0) ∧
    (∀ v a, (scrKey v a < scrKey u off ∨ scrKey u off + 16 * k ≤ scrKey v a) → n.homeByte (.scr v) a none = m.homeByte (.scr v) a none) ∧
    (∀ v gr, (∀ q, off / 16 ≤ q → q ≤ (off + 16 * k - 1) / 16 → granKey u q ≠ granKey v gr) → n.granule v gr = m.granule v gr) := by
  induction k with
  | zero => exact ⟨hm, fun i hi => absurd hi (by omega), fun _ _ _ => rfl, fun _ _ _ => rfl⟩
  | succ k ih =>
    obtain ⟨hc, hw, ho, hg⟩ := ih
    simp only [List.range_succ, List.map_append, List.foldl_append, List.map_cons, List.map_nil, List.foldl_cons, List.foldl_nil]
    generalize ((List.range k).map (frameEnt m0 u gg off bs)).foldl Mach.moveUp m = n at hc hw ho hg ⊢
    have hsp : (frameEnt m0 u gg off bs k).w.sp = .scr u := rfl
    have hlen : (frameWrite m0 u off bs k).bytes.length = 16 := by simp [frameWrite, bytesAt]
    rw [Mach.moveUp_group (tt := u) (gg := gg) n rfl]
    dsimp only
    rw [if_pos hsp]
    generalize hn' : ({ n with bufs := n.bufs.erase (frameEnt m0 u gg off bs k) } : Mach).uncopy _ _ _ _ = n'
    have hc' : n'.canonical = true := by subst hn'; exact hc
    have hb' : ∀ v a, n'.homeByte (.scr v) a none = n.homeByte (.scr v) a none := by subst hn'; intros; rfl
    have hg' : ∀ v gr, n'.granule v gr = n.granule v gr := by subst hn'; intros; rfl
    have hscr := n'.deliver_scr (frameEnt m0 u gg off bs k).w u rfl
    have hwf := ((canonical_iff n').mp hc').2.2.1
    refine ⟨(Mach.deliver_near ..).2 hc', fun i hi => ?_, fun v a hva => ?_, fun v gr hgr => ?_⟩
    · by_cases hk : i < 16 * k
      · rw [n'.homeByte_scr_outside _ u _ none rfl hc' (.inl ?_), hb', hw i hk]
        show off + i < off + 16 * k
        omega
      · obtain ⟨j, rfl⟩ : ∃ j, i = 16 * k + j := ⟨i - 16 * k, by omega⟩
        have hj : j < 16 := by omega
        have := n'.homeByte_scr_written (frameWrite m0 u off bs k) u j none rfl hc' (by omega)
        rw [← Nat.add_assoc]
        refine this.trans ?_
        simp [frameWrite, bytesAt]
    · rw [Mach.homeByte, hscr]
      refine (smGet_smSetRun_other _ _ _ hwf ?_).trans ((hb' v a).trans (ho v a ?_))
      · show scrKey v a < scrKey u (off + 16 * k) ∨ scrKey u (off + 16 * k) + (frameWrite m0 u off bs k).bytes.length ≤ scrKey v a
        rw [hlen]
        simp only [scrKey] at hva ⊢
        omega
      · omega
    · rw [Mach.deliver_granule rfl rfl hc' fun q hq => hgr q ?_ ?_, hg', hg v gr fun q h1 h2 => hgr q h1 (by omega)]
      all_goals
        have hq : q ∈ granulesOf (off + 16 * k) (frameWrite m0 u off bs k).bytes.length := hq
        rw [hlen] at hq
        have := mem_granulesOf_sixteen hq
        omega

theorem length_leBytes : ∀ k v, (leBytes k v).length = k
  | 0, _ => rfl
  | k + 1, v => congrArg (· + 1) (length_leBytes k (v / 256))

theorem trapFrame_length (m : Mach) (c : Ctx) (x : Trap) : (trapFrame m c x).length = 1280 := by
  simp only [trapFrame, List.length_append, List.length_flatMap, List.length_replicate, length_leBytes, List.map_const', List.sum_replicate, List.length_range]
  rfl

/-- A frame shows the latches and the time of the machine. -/
theorem trapFrame_congr (hl : n.lats = m.lats) (hc : n.cyc = m.cyc) (hd : n.dieOff = m.dieOff) : trapFrame n c x = trapFrame m c x := by
  simp only [trapFrame, Mach.dieCyc, hl, hc, hd]

/-- The machine with the frame's writes at the group's point. -/
def Mach.framing (m : Mach) (c : Ctx) (cr : CtxRec) (x : Trap) : Mach := m.writeFrame c.leaf c.f.ref.t (frameOff cr c.g.g) (trapFrame m c x)

theorem Mach.framed_eq (m : Mach) : m.framed c cr x = (m.framing c cr x).drain c.leaf 1 := rfl

theorem Mach.framing_spec (m : Mach) : let o := frameOff cr c.g.g
    let n := m.framing c cr x
    n.bufs = m.bufs ++ (List.range 80).map (frameEnt m c.f.ref.t c.f.ref.g o (trapFrame m c x)) ∧ n.scr = m.scr ∧ n.gran = m.gran ∧ n.still = m.still := by
  obtain ⟨hb, -, hs, hg, hq⟩ := m.writeFrame_spec c.f.ref.t c.f.ref.g (frameOff cr c.g.g) (trapFrame m c x) 80
  dsimp only
  rw [Mach.framing, Mach.writeFrame, trapFrame_length]
  exact ⟨hb, hs, hg, hq⟩

theorem Mach.framed_still (m : Mach) : (m.framed c cr x).still = m.still := by
  rw [Mach.framed_eq, Ctx.leaf, Mach.drain_group]
  refine (Mach.moves_still (tt := c.f.ref.t) (gg := c.f.ref.g) _ _ fun e he => ?_).trans m.framing_spec.2.2.2
  simpa [BufEnt.at] using (List.mem_filter.mp he).2

/-- The older writes at the group's point leave first, then those of the frame. -/
theorem Mach.framed_moves (m : Mach) : m.framed c cr x =
    ((List.range 80).map (frameEnt m c.f.ref.t c.f.ref.g (frameOff cr c.g.g) (trapFrame m c x))).foldl Mach.moveUp
      ((m.bufs.filter (BufEnt.at c.leaf)).foldl Mach.moveUp (m.framing c cr x)) := by
  have hf : ∀ l : List Nat, (l.map (frameEnt m c.f.ref.t c.f.ref.g (frameOff cr c.g.g) (trapFrame m c x))).filter (BufEnt.at (.group c.f.ref.t c.f.ref.g)) =
      l.map (frameEnt m c.f.ref.t c.f.ref.g (frameOff cr c.g.g) (trapFrame m c x)) := fun l => by
    rw [List.filter_eq_self]
    intro e he
    obtain ⟨i, -, rfl⟩ := List.mem_map.mp he
    simp [BufEnt.at, frameEnt]
  rw [Mach.framed_eq, Ctx.leaf, Mach.drain_group, m.framing_spec.1, List.filter_append, hf, List.foldl_append]

/-- The bytes of the frame stand at their home. -/
theorem Mach.framed_frame (hm : m.canonical = true) (i : Nat) (hi : i < 1280) :
    (m.framed c cr x).homeByte (.scr c.f.ref.t) (frameOff cr c.g.g + i) none = (trapFrame m c x).getD i 0 := by
  have hc : (m.framing c cr x).canonical = true := (Mach.Near.foldl _ (fun n _ => n.writePlain_near _ _) _ m).2 hm
  rw [Mach.framed_moves]
  exact (Mach.moves_frame (gg := c.f.ref.g) m c.f.ref.t (frameOff cr c.g.g) (trapFrame m c x) 80 ((Mach.Near.foldl _ Mach.moveUp_near _ _).2 hc)).2.1 i hi

/-- Where no write stands at the group's point, only the frame leaves it. -/
theorem Mach.framed_rest (hm : m.canonical = true) (hw : m.widsAt (m.below c.leaf 1) = []) (hlen : frameOff cr c.g.g + 1280 ≤ 2 ^ 20) :
    (m.framed c cr x).bufs = m.bufs ∧ ∀ u a, a < 2 ^ 20 → u ≠ c.f.ref.t ∨ a < frameOff cr c.g.g ∨ frameOff cr c.g.g + 1280 ≤ a →
      (m.framed c cr x).homeByte (.scr u) a none = m.homeByte (.scr u) a none ∧
      (u ≠ c.f.ref.t ∨ a / 16 < frameOff cr c.g.g / 16 ∨ (frameOff cr c.g.g + 1279) / 16 < a / 16 →
        (m.framed c cr x).granule u (a / 16) = m.granule u (a / 16)) := by
  have hb : ∀ e ∈ m.bufs, e.pt ≠ c.leaf := fun e he hp => by
    have hbelow : c.leaf ∈ m.below c.leaf 1 := by simp [Mach.below, Mach.chain, Mach.chain.go, Ctx.leaf, Point.level]
    have : e.w.wid ∈ m.widsAt (m.below c.leaf 1) :=
      List.mem_map_of_mem (List.mem_filter.mpr ⟨he, by rw [hp]; exact List.contains_iff_mem.mpr hbelow⟩)
    rw [hw] at this
    cases this
  have hf : m.bufs.filter (BufEnt.at c.leaf) = [] := List.filter_eq_nil_iff.mpr fun e he h => hb e he (by simpa [BufEnt.at] using h)
  obtain ⟨hbuf, hscr, hgran, -⟩ := m.framing_spec (c := c) (cr := cr) (x := x)
  have hc : (m.framing c cr x).canonical = true := (Mach.Near.foldl _ (fun n _ => n.writePlain_near _ _) _ m).2 hm
  have hmv := m.framed_moves (c := c) (cr := cr) (x := x)
  rw [hf, List.foldl_nil] at hmv
  obtain ⟨-, -, hbyte, hgr⟩ := Mach.moves_frame (gg := c.f.ref.g) m c.f.ref.t (frameOff cr c.g.g) (trapFrame m c x) 80 hc
  rw [← hmv] at hbyte hgr
  refine ⟨?_, fun u a ha hu => ⟨(hbyte u a ?_).trans ?_, fun hg => (hgr u (a / 16) fun q h1 h2 => ?_).trans ?_⟩⟩
  · rw [hmv]
    refine Mach.moves_bufs (u := c.f.ref.t) (gg := c.f.ref.g) _ _ _ hbuf hb fun e he => ?_
    obtain ⟨i, -, rfl⟩ := List.mem_map.mp he
    exact ⟨rfl, rfl⟩
  · simp only [scrKey]
    omega
  · rw [Mach.homeByte, hscr]
    rfl
  · simp only [granKey]
    omega
  · rw [Mach.granule, hgran]
    rfl

/-! ### The handler -/

/-- What of the machine the schedule of a group has no part in. -/
def Mach.unscheduled (m : Mach) : Mach :=
  { m with ports := [], lats := [], latErr := [], outst := [], groups := m.groups.map Group.timeless, dev := { m.dev with ctrs := [] } }

theorem Mach.leavePort_unscheduled (m : Mach) (r : FRef) (k : Nat) : (m.leavePort r k).unscheduled = m.unscheduled := by
  have hg : ∀ n : Mach, (n.updGroup r.t r.g (fun g => { g with ready := m.cyc })).unscheduled = n.unscheduled := fun n =>
    congrArg (fun l => ({ n.unscheduled with groups := l } : Mach)) (map_updGroup Group.timeless (by intro; rfl) n r.t r.g)
  have hc : ∀ (n : Mach) d i p j, (n.count d i p j).unscheduled = n.unscheduled := fun _ _ _ _ _ => rfl
  unfold Mach.leavePort
  dsimp only
  split
  · split
    · exact (hc ..).trans ((hg _).trans rfl)
    · rfl
  · rfl

theorem Mach.unported_unscheduled (m : Mach) (c : Ctx) : (m.unported c).unscheduled = m.unscheduled :=
  (Mach.leavePort_unscheduled ..).trans (foldl_keeps Mach.unscheduled (fun n (f : Fibre) => n.leavePort_unscheduled f.ref 0) _ m)

/-- Records that agree in what `p` shows are found alike. -/
theorem group?_congr {α : Type} (p : Group → α) (hp : ∀ x y, p x = p y → x.t = y.t ∧ x.g = y.g) {l k : List Group} (h : l.map p = k.map p) (t g : Nat) :
    (l.find? (fun x => x.t == t && x.g == g)).map p = (k.find? (fun x => x.t == t && x.g == g)).map p := by
  induction l generalizing k with
  | nil =>
    rw [List.map_nil, eq_comm, List.map_eq_nil_iff] at h
    rw [h]
  | cons x l ih =>
    cases k with
    | nil => cases h
    | cons y k =>
      obtain ⟨hxy, hl⟩ := List.cons.inj h
      obtain ⟨ht, hg⟩ := hp x y hxy
      rw [List.find?_cons, List.find?_cons, ht, hg]
      split
      · exact congrArg some hxy
      · exact ih hl

theorem group?_timeless (h : n.groups.map Group.timeless = m.groups.map Group.timeless) (t g : Nat) :
    (n.group? t g).map Group.timeless = (m.group? t g).map Group.timeless :=
  group?_congr Group.timeless (fun _ _ h => ⟨(congrArg Group.t h :), (congrArg Group.g h :)⟩) h t g

/-- The machine as the frame is written. -/
def Mach.halted (m : Mach) (cf : Conf) (c : Ctx) (x : Trap) : Mach := (m.quit c).unhold cf c x

section
variable (m cf c x)

/-- What the first two stages leave. -/
theorem Mach.halted_eq : ∃ h : Option Nat → Option Nat,
    (m.halted cf c x).uninvoked.resultless = (m.updGroup c.f.ref.t c.f.ref.g (Group.holding h)).uninvoked.resultless := by
  obtain ⟨h, hu⟩ := (m.quit c).unhold_uninvoked cf c x
  refine ⟨h, (congrArg Mach.resultless hu).trans ?_⟩
  have hq : (m.quit c).resultless = m.resultless := m.quit_resultless c
  have hg : (m.quit c).groups.map Group.timeless = m.groups.map Group.timeless := (congrArg Mach.groups hq :)
  have hl : ((m.quit c).updGroup c.f.ref.t c.f.ref.g (Group.holding h)).groups.map Group.timeless =
      (m.updGroup c.f.ref.t c.f.ref.g (Group.holding h)).groups.map Group.timeless := by
    have hc : ∀ k : List Group, (k.map (fun x => if x.t = c.f.ref.t ∧ x.g = c.f.ref.g then Group.holding h x else x)).map Group.timeless =
        (k.map Group.timeless).map (fun x => if x.t = c.f.ref.t ∧ x.g = c.f.ref.g then Group.holding h x else x) := fun k => by
      rw [List.map_map, List.map_map]
      exact List.map_congr_left fun x _ => apply_ite Group.timeless ..
    rw [Mach.updGroup, Mach.updGroup, hc, hc, hg]
  have := congrArg (fun k : Mach => ({ k.uninvoked with groups := (m.updGroup c.f.ref.t c.f.ref.g (Group.holding h)).groups.map Group.timeless } : Mach)) hq
  refine Eq.trans ?_ this
  exact congrArg (fun l => ({ (m.quit c).resultless.uninvoked with groups := l } : Mach)) hl

theorem Mach.halted_group :
    ((m.halted cf c x).group? c.f.ref.t c.f.ref.g).map Group.shed = (m.group? c.f.ref.t c.f.ref.g).map Group.shed := by
  obtain ⟨h, he⟩ := m.halted_eq c x cf
  have hl : (m.halted cf c x).groups.map Group.timeless = (m.updGroup c.f.ref.t c.f.ref.g (Group.holding h)).groups.map Group.timeless :=
    (congrArg Mach.groups he :)
  have hg := group?_timeless hl c.f.ref.t c.f.ref.g
  rw [Mach.group?_updGroup (f := Group.holding h) fun _ => ⟨rfl, rfl⟩] at hg
  have hs := congrArg (Option.map Group.shed) hg
  rw [Option.map_map, Option.map_map, Option.map_map] at hs
  exact hs

theorem Mach.halted_group_other {t' g' : Nat} (hne : (t', g') ≠ (c.f.ref.t, c.f.ref.g)) :
    ((m.halted cf c x).group? t' g').map Group.timeless = (m.group? t' g').map Group.timeless := by
  obtain ⟨h, he⟩ := m.halted_eq c x cf
  have hl : (m.halted cf c x).groups.map Group.timeless = (m.updGroup c.f.ref.t c.f.ref.g (Group.holding h)).groups.map Group.timeless :=
    (congrArg Mach.groups he :)
  have hg := group?_timeless hl t' g'
  rwa [Mach.group?_updGroup_other (f := Group.holding h) (fun _ => ⟨rfl, rfl⟩) hne] at hg

theorem Mach.halted_fibres : (m.halted cf c x).fibres.map Fibre.going = m.fibres.map Fibre.going := by
  obtain ⟨h, he⟩ := m.halted_eq c x cf
  exact (congrArg Mach.fibres he :)

theorem Mach.halted_lats : (m.halted cf c x).lats = (m.latched c).lats := by
  obtain ⟨h, hu⟩ := (m.quit c).unhold_uninvoked cf c x
  exact (congrArg Mach.lats hu :).trans (m.quit_lats c)

theorem Mach.halted_regs (ho : m.outst = []) : (m.halted cf c x).regs = m.regs := by
  obtain ⟨h, hu⟩ := (m.quit c).unhold_uninvoked cf c x
  exact (congrArg Mach.regs hu :).trans (Mach.quit_regs c ho)

theorem Mach.halted_trapFrame : trapFrame (m.halted cf c x) c x = trapFrame (m.latched c) c x := by
  obtain ⟨h, he⟩ := m.halted_eq c x cf
  have hl : (m.latched c).resultless = m.resultless := by
    unfold Mach.latched
    split
    · exact Mach.settleLatches_resultless ..
    · exact Mach.clearLatches_resultless ..
  exact trapFrame_congr (m.halted_lats c x cf) ((congrArg Mach.cyc he :).trans (congrArg Mach.cyc hl :).symm)
    ((congrArg Mach.dieOff he :).trans (congrArg Mach.dieOff hl :).symm)

/-- The byte stores and the writes on their way, as nothing before the frame changes them. -/
theorem Mach.halted_stores : SameStores (m.halted cf c x) m := by
  obtain ⟨h, he⟩ := m.halted_eq c x cf
  exact ⟨(congrArg Mach.mem he :), (congrArg Mach.tags he :), (congrArg Mach.scr he :), (congrArg Mach.gran he :), (congrArg Mach.bufs he :)⟩

theorem Mach.halted_canonical (hm : m.canonical = true) : (m.halted cf c x).canonical = true := by
  obtain ⟨h1, h2, h3, h4, -⟩ := m.halted_stores c x cf
  rwa [Mach.canonical, h1, h2, h3, h4]

end

/-- The entry into the handler, on the stage before it. -/
theorem TrapReady.takeTrap_halted (h : TrapReady s c cr) (ha : x.async = false) (m : Mach) :
    m.takeTrap s.cfg c x = (((m.halted s.cfg c x).framed c cr x).handled c cr x).unported c := h.takeTrap ha m

/-- The point of a group is all of its chain below the core's point. -/
theorem Mach.below_group (m : Mach) (c : Ctx) : m.below c.leaf 1 = [c.leaf] := by
  simp [Mach.below, Mach.chain, Mach.chain.go, Ctx.leaf, Mach.parent, Point.level]

/-- k comes from p by the entry into the handler. -/
def Mach.Enters (p k : Mach) (c : Ctx) (cr : CtxRec) (x : Trap) : Prop := k.unscheduled = (p.handled c cr x).unscheduled

section
variable {p k : Mach}

theorem Mach.Enters.eq (hu : p.Enters k c cr x) : k.unscheduled = (p.handled c cr x).unscheduled := hu

theorem Mach.Enters.groups (hu : p.Enters k c cr x) : k.groups.map Group.timeless = (p.handled c cr x).groups.map Group.timeless :=
  (congrArg Mach.groups hu.eq :)

theorem Mach.Enters.group (hu : p.Enters k c cr x) {g : Group} (hg : p.group? c.f.ref.t c.f.ref.g = some g) :
    ∃ g', k.group? c.f.ref.t c.f.ref.g = some g' ∧ g'.timeless = (Group.handling p c x g).timeless := by
  have h := group?_timeless hu.groups c.f.ref.t c.f.ref.g
  have he : (p.handled c cr x).group? c.f.ref.t c.f.ref.g = some (Group.handling p c x g) := by
    have := Mach.group?_updGroup (m := p) (t := c.f.ref.t) (g := c.f.ref.g) (f := Group.handling p c x) fun _ => ⟨rfl, rfl⟩
    rw [hg] at this
    exact this
  rw [he] at h
  exact Option.map_eq_some_iff.mp h

theorem Mach.Enters.group_other (hu : p.Enters k c cr x) {t' g' : Nat} (hne : (t', g') ≠ (c.f.ref.t, c.f.ref.g)) :
    (k.group? t' g').map Group.timeless = (p.group? t' g').map Group.timeless := by
  have he : (p.handled c cr x).group? t' g' = p.group? t' g' :=
    Mach.group?_updGroup_other (m := p) (f := Group.handling p c x) (fun _ => ⟨rfl, rfl⟩) hne
  rw [group?_timeless hu.groups, he]

theorem Mach.Enters.fibres (hu : p.Enters k c cr x) : k.fibres = p.fibres.map (Fibre.handling c cr) := (congrArg Mach.fibres hu.eq :)
theorem Mach.Enters.regs (hu : p.Enters k c cr x) : k.regs = p.regs := (congrArg Mach.regs hu.eq :)
theorem Mach.Enters.aside (hu : p.Enters k c cr x) : k.aside = p.aside := (congrArg Mach.aside hu.eq :)
theorem Mach.Enters.stores (hu : p.Enters k c cr x) : SameStores k p :=
  ⟨(congrArg Mach.mem hu.eq :), (congrArg Mach.tags hu.eq :), (congrArg Mach.scr hu.eq :), (congrArg Mach.gran hu.eq :), (congrArg Mach.bufs hu.eq :)⟩

/-- The other fibres of the group stand still. -/
theorem Mach.Enters.others (hu : p.Enters k c cr x) : ∀ f ∈ k.fibresOf c.f.ref.t c.f.ref.g, f.ref ≠ c.f.ref → f.susp = true := by
  intro f hf hne
  rw [Mach.fibresOf, hu.fibres] at hf
  obtain ⟨hm, hk⟩ := List.mem_filter.mp hf
  obtain ⟨f0, -, rfl⟩ := List.mem_map.mp hm
  simp only [Bool.and_eq_true, beq_iff_eq] at hk
  unfold Fibre.handling at hk hne ⊢
  split
  · next h => exact absurd (by rw [if_pos h]; exact h) hne
  · next h =>
    rw [if_neg h] at hk
    split
    · rfl
    · next h' =>
      rw [if_neg h'] at hk
      exact absurd hk h'

/-- The fibre that traps stands at the handler's first word. -/
theorem Mach.Enters.fibre (hu : p.Enters k c cr x) {f : Fibre} (hf : p.fibre? c.f.ref = some f) :
    k.fibre? c.f.ref = some (Fibre.handling c cr f) := by
  have hp : (fun f : Fibre => f.ref == c.f.ref) ∘ Fibre.handling c cr = fun f => f.ref == c.f.ref := by
    funext f
    simp only [Function.comp, Fibre.handling]
    split
    · rfl
    · split <;> rfl
  rw [Mach.fibre?, hu.fibres, List.find?_map, hp]
  exact congrArg (Option.map (Fibre.handling c cr)) hf

end

section
variable (hf : m.fibre? c.f.ref = some c.f) (hg : (m.group? c.f.ref.t c.f.ref.g).map Group.plain = some c.g.plain)

/-- A group's record in the handler, against the record the trap found. -/
theorem kept_handling {α : Type} (q : Group → α) {g2 g1 g0 : Group} (p : Mach) (h2 : g2.timeless = (Group.handling p c x g1).timeless)
    (h1 : g1.shed = g0.shed) (h0 : g0.plain = c.g.plain) (ht : ∀ g, q g.timeless = q g) (hh : ∀ g, q (Group.handling p c x g) = q g)
    (hs : ∀ g, q g.shed = q g) (hp : ∀ g, q g.plain = q g) : q g2 = q c.g :=
  calc q g2 = q (Group.handling p c x g1) := by rw [← ht, h2, ht]
    _ = q g0 := by rw [hh, ← hs g1, h1, hs]
    _ = q c.g := by rw [← hp g0, h0, hp]

include hf in
/-- The fibre that traps, as the stages before the frame leave it. -/
theorem Mach.halted_fibre (cf : Conf) : ∃ f, (m.halted cf c x).fibre? c.f.ref = some f ∧ f.going = c.f.going := by
  have hl : ∀ l : List Fibre, (l.find? (fun f => f.ref == c.f.ref)).map Fibre.going = (l.map Fibre.going).find? (fun f => f.ref == c.f.ref) := fun l => by
    rw [List.find?_map]
    rfl
  have h : ((m.halted cf c x).fibre? c.f.ref).map Fibre.going = some c.f.going := by
    rw [Mach.fibre?, hl, Mach.halted_fibres, ← hl]
    exact congrArg (Option.map Fibre.going) hf
  exact Option.map_eq_some_iff.mp h

include hg in
/-- Where the group holds no invocation, results alone settle. -/
theorem Mach.halted_of_none (cf : Conf) (hh : c.g.held = none) : m.halted cf c x = m.quit c := by
  obtain ⟨g0, hg0, h0⟩ := Option.map_eq_some_iff.mp hg
  have hq : (m.quit c).resultless = m.resultless := m.quit_resultless c
  have hl : (m.quit c).groups.map Group.timeless = m.groups.map Group.timeless := (congrArg Mach.groups hq :)
  have h := group?_timeless hl c.f.ref.t c.f.ref.g
  rw [hg0, Option.map_some] at h
  obtain ⟨g1, hg1, h1⟩ := Option.map_eq_some_iff.mp h
  refine Mach.unhold_of_none hg1 ?_
  exact (congrArg Group.held h1 :).trans ((congrArg Group.held h0 :).trans hh)

include hf hg in
/-- A synchronous trap of a fibre that can trap. -/
theorem TrapReady.trapped (h : TrapReady s c cr) (ho : s.m.outst = [] → m.outst = [] ∧ m.regs = s.m.regs) (ha : x.async = false)
    (ht : t = { s with m := m.takeTrap s.cfg c x }) : TrappedOn m s t c cr x := by
  obtain ⟨hmem, htags, hscr, hgran, hbufs⟩ := m.halted_stores c x s.cfg
  have hframe := m.halted_trapFrame c x s.cfg
  have hcan := m.halted_canonical c x s.cfg
  obtain ⟨g0, hg0, h0⟩ := Option.map_eq_some_iff.mp hg
  have h1 := m.halted_group c x s.cfg
  rw [hg0, Option.map_some] at h1
  obtain ⟨g1, hg1, hsh⟩ := Option.map_eq_some_iff.mp h1
  obtain ⟨f1, hf1, hfg⟩ := Mach.halted_fibre (x := x) hf s.cfg
  have hreg := m.halted_regs c x s.cfg
  have hother := fun t' g' => @Mach.halted_group_other m c x s.cfg t' g'
  have haside : c.g.held = none → (m.halted s.cfg c x).aside = m.aside := fun hh => by
    have hq : (m.quit c).resultless = m.resultless := m.quit_resultless c
    rw [Mach.halted_of_none hg s.cfg hh]
    exact (congrArg Mach.aside hq :)
  rw [h.takeTrap_halted ha] at ht
  generalize m.halted s.cfg c x = n at *
  have hq : (n.framed c cr x).still = n.still := n.framed_still
  have hu : (n.framed c cr x).Enters t.m c cr x := by
    rw [ht]
    exact Mach.unported_unscheduled ((n.framed c cr x).handled c cr x) c
  have hst := hu.stores
  have hgroups : (n.framed c cr x).groups = n.groups := (congrArg Mach.groups hq :)
  obtain ⟨g2, hg2, h2⟩ := hu.group (g := g1) (by rw [Mach.group?, hgroups]; exact hg1)
  have hfib := hu.fibre (f := f1) (by rw [Mach.fibre?, show (n.framed c cr x).fibres = n.fibres from (congrArg Mach.fibres hq :)]; exact hf1)
  have hbyte : ∀ u a, t.m.homeByte (.scr u) a none = (n.framed c cr x).homeByte (.scr u) a none := fun u a => by
    rw [Mach.homeByte, hst.2.2.1]
    rfl
  have hgr : ∀ u q, t.m.granule u q = (n.framed c cr x).granule u q := fun u q => by
    rw [Mach.granule, hst.2.2.2.1]
    rfl
  refine ⟨by rw [ht], ?_, ?_, ?_, hu.others, fun ho' => ?_, fun hm i hi => ?_, fun e he => ?_, fun hm hlen hw => ?_, fun t' g' hne => ?_, fun hh => ?_⟩
  · rw [hg2, Option.map_some, Option.some.injEq, Prod.mk.injEq, Prod.mk.injEq, Prod.mk.injEq]
    exact ⟨(congrArg Group.handler h2 :), (congrArg Group.handlerKind h2 :), (congrArg Group.trapCause h2 :), (congrArg Group.trapAddr h2 :)⟩
  · rw [hg2]
    exact congrArg some (kept_handling (fun g => (g.conds, g.sect, g.joins, g.fpstat)) _ h2 hsh h0 (fun _ => rfl) (fun _ => rfl) (fun _ => rfl) fun _ => rfl)
  · have hr : f1.ref = c.f.ref := (congrArg Fibre.ref hfg :)
    rw [hfib, Fibre.handling, if_pos hr, Option.map_some, Option.some.injEq]
    exact (congrArg (fun f : Fibre => (cr.tvec, f.pred, f.base, false, 0, none, f.toks)) hfg :)
  · obtain ⟨ho1, ho2⟩ := ho ho'
    exact hu.regs.trans ((congrArg Mach.regs hq :).trans ((hreg ho1).trans ho2))
  · rw [hbyte, ← hframe]
    exact Mach.framed_frame (hcan hm) i hi
  · rw [Mach.below_group, List.mem_singleton]
    rw [hst.2.2.2.2] at he
    exact Mach.drain_group_at _ e he
  · have hw' : n.widsAt (n.below c.leaf 1) = [] := by
      rw [Mach.below_group] at hw ⊢
      rwa [Mach.widsAt, hbufs]
    obtain ⟨hb, hr⟩ := Mach.framed_rest (x := x) (hcan hm) hw' (h.fits.trans hlen)
    refine ⟨hst.1.trans ((congrArg Mach.mem hq :).trans hmem), hst.2.1.trans ((congrArg Mach.tags hq :).trans htags), hst.2.2.2.2.trans (hb.trans hbufs),
      fun u a ha hu => ?_⟩
    obtain ⟨hr1, hr2⟩ := hr u a ha hu
    refine ⟨(hbyte u a).trans (hr1.trans ?_), fun hq => (hgr u _).trans ((hr2 hq).trans ?_)⟩
    · rw [Mach.homeByte, hscr]
      rfl
    · rw [Mach.granule, hgran]
      rfl
  · rw [hu.group_other hne, Mach.group?, hgroups]
    exact hother t' g' hne
  · exact hu.aside.trans ((Mach.aside_of_still hq).trans (haside hh))

end

/-! ### Memory instructions that fail -/

section
variable {q : Req} {k : Nat × Nat} {rest : List (Req × Nat × Nat)} {scr : Bool} {cls : Cls} {reads : Bool} {qs : List Req} {i : Instr}

/-- The trap of the failing lanes, the lowest first. -/
def laneTrap (q : Req) (k : Nat × Nat) (rest : List (Req × Nat × Nat)) : Trap :=
  ⟨k.1, k.2, BitVec.ofNat 64 q.rep, maskOf (((q, k) :: rest).map (fun x => x.1.lane)), false, true⟩

/-- A memory instruction whose entry answers a trap takes it. -/
theorem CanTrap.trapped (h : CanTrap s c cr) (hg : gate s.m c i = .pass) (hk : s.m.Keeps m) {body : Conf → Mach → Ctx → Res} {a b : Nat} {d : DWord} {e : Word}
    (hb : body s.cfg s.m c = .trap m a b d e) : Completes (issue s i body) (fun t => TrappedOn (m.tick 1) s t c cr ⟨a, b, d, e, false, true⟩) := by
  refine ⟨_, issue_pass ⟨h.issuer, hg⟩ body, ?_⟩
  rw [hb]
  refine h.ready.trapped (m := m.tick 1) (hk.issuer_fibre h.issuer) ?_ (fun ho => ⟨hk.outst.trans ho, hk.regs⟩) rfl rfl
  have := hk.group? c.f.ref.t c.f.ref.g
  rw [Mach.issuer_group h.issuer] at this
  exact this

/-- An access that fails its checks. -/
theorem CanTrap.bad (h : CanTrap s c cr) (hg : gate s.m c i = .pass) (hm : s.m.misses c (qs.map (reqTarget s.m c.tm scr cls.writes)) = [])
    (hb : badReqs s c scr cls qs = (q, k) :: rest) {body : Conf → Mach → Ctx → Res} {go : List (Req × Place) → Mach → Res}
    (he : body s.cfg s.m c = withPlaces s.cfg s.m c scr cls reads qs go) :
    Completes (issue s i body) (fun t => Trapped s t c cr (laneTrap q k rest)) :=
  h.trapped hg (.refl _) (he.trans (withPlaces_bad hm hb go))

/-- An access this device's own windows refuse. -/
theorem CanTrap.refused (h : CanTrap s c cr) (hg : gate s.m c i = .pass) (hm : s.m.misses c (qs.map (reqTarget s.m c.tm scr cls.writes)) = [])
    (hb : badReqs s c scr cls qs = []) (hf : failures (owned s c scr cls true qs).1 = (q, k) :: rest) {body : Conf → Mach → Ctx → Res}
    {go : List (Req × Place) → Mach → Res} (he : body s.cfg s.m c = withPlaces s.cfg s.m c scr cls true qs go) :
    Completes (issue s i body) (fun t => TrappedOn ((owned s c scr cls true qs).2.tick 1) s t c cr (laneTrap q k rest)) := by
  refine h.trapped hg (ownPlaces_keeps ..) (he.trans ?_)
  simp only [withPlaces, hm, List.isEmpty_nil, Bool.not_true, zip_map_map, if_true]
  rw [show qs.map (fun q => (q, checkReq s.cfg s.m c cls (reqTarget s.m c.tm scr cls.writes q))) = checked s c scr cls qs from rfl,
    show failures (checked s c scr cls qs) = [] from hb, show ownPlaces s.cfg s.m c.la.p cls (passing (checked s c scr cls qs)) = owned s c scr cls true qs from rfl,
    hf]
  rfl

end

/-- Settles O32: checks stand before every effect, and the trap's stages leave what they do not name. -/
theorem accessTraps : Obligations.AccessTraps := by
  intro s c cr h
  refine ⟨?_, ?_, ?_, ?_, ?_, ?_, ?_, ?_, ?_, ?_, ?_⟩
  · intro sz sc d a off q k rest hg hm hb
    exact h.bad hg hm hb rfl
  · intro sz sc e a off q k rest hg hm hb
    exact h.bad hg hm hb rfl
  · intro sz sc d b off q k rest hg hm hb
    exact h.bad hg hm hb rfl
  · intro sz sc e b off q k rest hg hm hb
    exact h.bad hg hm hb rfl
  · intro sz sc d b off q k rest hg hm hb
    exact h.bad hg hm hb rfl
  · intro sz sc d b off q k rest hg hm hb
    exact h.bad hg hm hb rfl
  · intro sz sc e b off q k rest hg hm hb
    exact h.bad hg hm hb rfl
  · intro op sc dbl d a q k rest hg hm hb
    exact h.bad hg hm hb rfl
  · intro op sc dbl d b q k rest hg hm hb
    exact h.bad hg hm hb rfl
  · intro sz sc d a off q k rest hg hm hb hf
    exact h.refused hg hm hb hf rfl
  · intro op sc dbl d a q k rest hg hm hb hf
    exact h.refused hg hm hb hf rfl

end Sys2Proof.Machine
end

section
/-! ## Steps of the ordering machine (O49)

Where no port of the device is left, a write to another device that leaves the device point is refused there and then (R364). The refusal is the answer
of its access, and where the operation of an engine that posted it has retired, the answer sets bit 63 of the counter of the engine's context, at its home
in the team's scratchpad. The statement has the byte stores stand as they were whenever such a write leaves the device point. -/
namespace Sys2Proof.Machine
open Sys2Proof.Tests

/-- A write to device 5 that operation 9 of team 1's copy context has posted, at the device point. -/
def postedWrite : BufEnt := ⟨.dev, ⟨70, .fab 5 0, 0x40, [1, 2, 3, 4], .plain, none, false, 77, 0, 0⟩, .rests⟩

/-- Its access, not answered yet; the operation has retired. -/
def unansweredPost : FabPend where
  xid := 77
  ref := ⟨1, 0, 0⟩
  op := some (1, .copy, 9)
  store := true
  asks := [(⟨0, 0x40, 4, 0⟩, .fab 5 0)]
  answers := []
  inst := []
  blk := []
  atom := none
  phase := .whole
  awaits := []
  stale := false

/-- The lab with that write, every port locked. -/
def cutLab : State := labWith fun m => { m with
  bufs := [postedWrite], fabPend := [unansweredPost], dev := { m.dev with ports := m.dev.ports.map (fun p => { p with locked := true }) } }

/-- The top byte of the copy context's counter lies at 7; the refusal sets its bit 63. -/
theorem propagate_sets_counter : cutLab.m.homeByte (.scr 1) 7 none = 0x00 ∧
    (nextOf (exec (.propagate 70) cutLab)).m.homeByte (.scr 1) 7 none = 0x80 := by decide +kernel

/-- Refutes O49: a PROPAGATE at a device cut off from the others changes a byte of a scratchpad. -/
theorem not_orderingSteps : ¬ Obligations.OrderingSteps := by
  intro h
  obtain ⟨hprop, -⟩ := h cutLab
  obtain ⟨t, ht, -, -, -, -, -, hfab⟩ := hprop 70 postedWrite (by decide +kernel) (by decide +kernel)
  obtain ⟨⟨-, -, hscr, -⟩, -⟩ := hfab 5 0 (by decide +kernel) rfl
  have hn : nextOf (exec (.propagate 70) cutLab) = t := by rw [ht]; rfl
  obtain ⟨hbefore, hafter⟩ := propagate_sets_counter
  rw [hn, Mach.homeByte, show t.m.scr = cutLab.m.scr from hscr] at hafter
  exact absurd (hbefore.symm.trans hafter) (by decide)

end Sys2Proof.Machine
end

section
/-! ## Steps of the queues (O56)

A completion record is written at its home in host memory, after the older writes to its bytes have left the queue agent's path. Those writes are named by
their numbers. Where a write to another device bears the number of one of them, it leaves too: for the other device, in a packet. The statement has a
completion without interrupt send nothing, from every state; this one holds two writes of one number. -/
namespace Sys2Proof.Machine
open Sys2Proof.Tests

/-- Writes at the device point under one number: of the ring's first bytes, and of bytes of device 5. -/
def sameNumber : List BufEnt :=
  [⟨.dev, ⟨70, .fab 5 0, 0x40, [1, 2, 3, 4], .plain, none, false, 77, 0, 0⟩, .rests⟩, ⟨.dev, ⟨70, .host, 0, [1, 2, 3, 4], .plain, none, false, 0, 0, 0⟩, .rests⟩]

/-- The completion that queue 3 holds: it is not to be signalled. -/
def quietCompl : Compl := ⟨1, 1, 0, 0, 0, 7, false, none⟩

/-- The lab with those writes and that completion, one port to the other devices open. -/
def heldLab : State := labWith fun m => { m with
  queues := [{ m.queue 3 with clog := 4, held := [quietCompl] }], bufs := sameNumber
  dev := { m.dev with ports := (m.dev.ports.map fun p => { p with locked := false }) } }

theorem completionPost_sends : heldLab.m.net.length = 0 ∧ (nextOf (exec (.completionPost 3) heldLab)).m.net.length = 1 := by decide +kernel

/-- Refutes O56: a COMPLETION_POST without an interrupt sends a packet, where a write to another device bears the number of a write to the ring. -/
theorem not_queueSteps : ¬ Obligations.QueueSteps := by
  intro h
  obtain ⟨-, -, -, -, -, -, -, -, -, -, -, -, -, -, -, -, hpost, -⟩ := h heldLab
  obtain ⟨t, ht, -, -, -, hnet⟩ := hpost 3 quietCompl [] (by decide +kernel) (by decide +kernel) (by decide +kernel) (.inl rfl)
  have hn : nextOf (exec (.completionPost 3) heldLab) = t := by rw [ht]; rfl
  obtain ⟨hbefore, hafter⟩ := completionPost_sends
  rw [hn, hnet rfl, hbefore] at hafter
  exact absurd hafter (by decide)

end Sys2Proof.Machine
end

section
/-! ## Events of the device (O59) -/
namespace Sys2Proof.Machine

variable {m n : Mach} {s t : State} {d k : Nat}

/-! ### Refresh -/

/-- A bank refreshes in the first 1,400 of its 3,500 phases (R57). -/
theorem Mach.refreshing_iff (b : Nat) : m.refreshing d = some b ↔ 3500 * b ≤ m.wsPhi d ∧ m.wsPhi d < 3500 * b + 1400 := by
  have h := Nat.div_add_mod (m.wsPhi d) 3500
  have hlt := Nat.mod_lt (m.wsPhi d) (show 0 < 3500 by omega)
  unfold Mach.refreshing
  split
  · rw [Option.some_inj]
    omega
  · simp only [reduceCtorEq, false_iff]
    omega

/-- Whether a fibre waits for a bank of a die that refreshes no longer. -/
def Mach.bankOver (m : Mach) (d : Nat) (f : Fibre) : Bool := f.wait.any (fun w => match w.why with
  | .bank e b => e == d && m.refreshing e != some b
  | _ => false)

/-- What of the machine the end of a wait has no part in. -/
def Mach.unwaited (m : Mach) : Mach := { m with fibres := [], groups := [] }

theorem Mach.endWait_unwaited (m : Mach) (r : FRef) : (m.endWait r).unwaited = m.unwaited := by
  unfold Mach.endWait Mach.woken
  split <;> rfl

theorem Mach.endWait_fibres (m : Mach) (r : FRef) : (m.endWait r).fibres = m.fibres.map (fun f => if f.ref = r then { f with wait := none } else f) := by
  unfold Mach.endWait Mach.woken
  split <;> rfl

theorem Mach.endWait_fibre? (m : Mach) (q r : FRef) :
    (m.endWait q).fibre? r = (m.fibre? r).map (fun f => if r = q then { f with wait := none } else f) := by
  have hu : (m.endWait q).fibre? r = (m.updFibre q (fun f => { f with wait := none })).fibre? r := by
    rw [Mach.fibre?, Mach.endWait_fibres]
    rfl
  rw [hu]
  by_cases h : r = q
  · subst h
    simp only [if_true]
    exact Mach.fibre?_updFibre fun _ => rfl
  · simp only [if_neg h]
    exact (Mach.fibre?_updFibre_other (f := fun f => { f with wait := none }) (fun _ => rfl) h).trans Option.map_id'.symm

/-- The waits of some fibres end. -/
theorem Mach.endWaits_fibre? (r : FRef) : ∀ (l : List Fibre) (m : Mach),
    (l.foldl (fun m f => m.endWait f.ref) m).fibre? r = (m.fibre? r).map (fun f => if r ∈ l.map Fibre.ref then { f with wait := none } else f)
  | [], m => by
    simp only [List.foldl_nil, List.map_nil, List.not_mem_nil, if_false]
    exact Option.map_id'.symm
  | f :: l, m => by
    rw [List.foldl_cons, Mach.endWaits_fibre? r l, Mach.endWait_fibre?, Option.map_map]
    congr 1
    funext x
    simp only [Function.comp, List.map_cons, List.mem_cons]
    by_cases h1 : r = f.ref <;> by_cases h2 : r ∈ l.map Fibre.ref <;> simp [h1, h2]

theorem Mach.waiting_fibre {r : FRef} {c : Ctx} {w : Wait} (h : m.waiting r = some (c, w)) : m.fibre? r = some c.f ∧ c.f.wait = some w := by
  unfold Mach.waiting at h
  split at h
  · cases h
  · next c' hc =>
    split at h
    · cases h
    · obtain ⟨w', hw, he⟩ := Option.map_eq_some_iff.mp h
      cases he
      exact ⟨(ctxOf_parts hc).1, hw⟩

/-- REFRESH_END, with no access in progress or held, ends waits alone. -/
theorem refreshEnd_quiet {cf : Conf} (hf : m.fabPend = []) (hp : m.parked = []) :
    refreshEnd cf m d = (m.fibres.filter (m.bankOver d)).foldl (fun m f => m.endWait f.ref) m := by
  have hu : ∀ l : List Fibre, (l.foldl (fun m f => m.endWait f.ref) m).unwaited = m.unwaited := fun l =>
    foldl_keeps Mach.unwaited (fun n (f : Fibre) => n.endWait_unwaited f.ref) l m
  have hl := hu (m.fibres.filter (m.bankOver d))
  generalize hn : (m.fibres.filter (m.bankOver d)).foldl (fun m f => m.endWait f.ref) m = n at hl
  have hf' : n.fabPend = [] := (congrArg Mach.fabPend hl :).trans hf
  have hp' : n.parked = [] := (congrArg Mach.parked hl :).trans hp
  have he : refreshEnd cf m d = ((n.fabPend.map FabPend.xid).foldl (readsAnswered cf) n).unpark cf := by
    rw [← hn]
    rfl
  rw [he, hf', List.map_nil, List.foldl_nil, Mach.unpark, hp', List.foldl_nil, ← hp']

/-- A fibre goes on whose bank refreshes no longer, and nothing else changes. -/
theorem refreshEnd_wakes {r : FRef} {c : Ctx} {i : Instr} {b j : Nat} (hw : s.m.waiting r = some (c, ⟨i, .bank d b, j⟩)) (hb : s.m.refreshing d ≠ some b)
    (hf : s.m.fabPend = []) (hp : s.m.parked = []) :
    (refreshEnd s.cfg s.m d).fibre? r = some { c.f with wait := none } ∧ (refreshEnd s.cfg s.m d).unwaited = s.m.unwaited := by
  obtain ⟨hfib, hwait⟩ := Mach.waiting_fibre hw
  have hover : s.m.bankOver d c.f = true := by
    simp only [Mach.bankOver, hwait, Option.any_some, beq_self_eq_true, Bool.true_and]
    exact bne_iff_ne.mpr hb
  have hmem : r ∈ (s.m.fibres.filter (s.m.bankOver d)).map Fibre.ref :=
    List.mem_map.mpr ⟨c.f, List.mem_filter.mpr ⟨List.mem_of_find?_eq_some hfib, hover⟩, Mach.fibre?_ref hfib⟩
  rw [refreshEnd_quiet hf hp]
  refine ⟨?_, foldl_keeps Mach.unwaited (fun n (f : Fibre) => n.endWait_unwaited f.ref) _ _⟩
  rw [Mach.endWaits_fibre?, hfib, Option.map_some, if_pos hmem]

/-! ### Throttling -/

/-- What of the machine throttling has no part in. -/
def Mach.unthrottled (m : Mach) : Mach := { m with dev := { m.dev with thr := [] } }

theorem Mach.setThr_unthrottled (m : Mach) (d : Nat) (x : Thr) : (m.setThr d x).unthrottled = m.unthrottled := rfl

theorem Mach.thrOf_setThr (hd : d < m.dev.thr.length) (x : Thr) : (m.setThr d x).thrOf d = x := by
  simp [Mach.thrOf, Mach.setThr, modAt, hd]

/-- A throttle set to what it is. -/
theorem Mach.setThr_thrOf (m : Mach) (d : Nat) : m.setThr d (m.thrOf d) = m := by
  have h : modAt m.dev.thr d (fun _ => m.thrOf d) = m.dev.thr := by
    refine List.ext_getElem (by simp [modAt]) fun i h1 h2 => ?_
    simp only [modAt, List.getElem_modify]
    split
    · next h => subst h; simp [Mach.thrOf, h2]
    · rfl
  rw [Mach.setThr, h]

theorem Mach.thrNow_due (h : 4096 * (m.thrOf d).next ≤ m.dieCyc d) : m.thrNow d = (m.thrOf d).check := if_neg (Nat.not_lt.mpr h)
theorem Mach.thrNow_early (h : m.dieCyc d < 4096 * (m.thrOf d).next) : m.thrNow d = m.thrOf d := if_pos h

theorem Thr.step_under {x : Thr} (h : x.thermal = true ∨ x.power = true) : x.step = max 4 (x.duty - 1) := if_pos (by simpa using h)
theorem Thr.step_free {x : Thr} (ht : x.thermal = false) (hp : x.power = false) : x.step = if x.seen then x.duty else min 8 (x.duty + 1) := by
  rw [Thr.step, ht, hp]
  rfl

/-! ### Errors, interrupts and alarms -/

/-- What of the machine an interrupt and a count have no part in. -/
def Mach.unraised (m : Mach) : Mach := { m with net := [], dev := { m.dev with ctrs := [], msixPend := [] } }

theorem Mach.raise_unraised (m : Mach) (v : Nat) : (m.raise v).unraised = m.unraised := by
  unfold Mach.raise
  split <;> rfl

/-- An interrupt only adds to the packets on their way. -/
theorem Mach.raise_net (m : Mach) (v : Nat) : ∀ x ∈ m.net, x ∈ (m.raise v).net := by
  intro x hx
  unfold Mach.raise
  split
  · exact hx
  · exact List.mem_append_left _ hx

theorem Mach.badError_unraised (m : Mach) (d : Nat) : (m.badError d).unraised = m.unraised := (Mach.raise_unraised ..).trans rfl

theorem SameStores.of_unraised (h : n.unraised = m.unraised) : SameStores n m :=
  ⟨(congrArg Mach.mem h :), (congrArg Mach.tags h :), (congrArg Mach.scr h :), (congrArg Mach.gran h :), (congrArg Mach.bufs h :)⟩

/-- An alarm under REPORT. -/
theorem alarm_report {cf : Conf} (b : BitVec 4) (he : m.dev.erased = false) (ha : m.dev.alpol = false) :
    (alarm cf m b).1 = cf ∧ (alarm cf m b).2.unraised = ({ m with dev := { m.dev with alarm := m.dev.alarm ||| b } } : Mach).unraised ∧
      (b ≠ 0 → .alarmed b ∈ (alarm cf m b).2.net) := by
  by_cases hb : b = 0
  · subst hb
    rw [show alarm cf m 0 = (cf, m) from by simp [alarm]]
    exact ⟨rfl, by simp, fun h => absurd rfl h⟩
  · simp only [alarm, hb, he, ha, decide_false, Bool.or_false, Bool.false_eq_true, if_false]
    refine ⟨trivial, (Mach.raise_unraised ..).trans rfl, fun _ => Mach.raise_net _ _ _ ?_⟩
    exact List.mem_append_right _ List.mem_cons_self

/-- An alarm under ERASE. -/
theorem alarm_erase {cf : Conf} {b : BitVec 4} (hb : b ≠ 0) (he : m.dev.erased = false) (ha : m.dev.alpol = true) :
    alarm cf m b = ({ cf with keys := [] }, m.erase) := by
  simp only [alarm, hb, he, ha, decide_false, Bool.or_false, Bool.false_eq_true, if_false, if_true]

theorem Mach.erase_unraised (m : Mach) : m.erase.unraised =
    ({ m with bufs := [], vows := [], dev := { m.dev.dropKeys with erased := true } } : Mach).unraised := Mach.raise_unraised ..

/-- No port has a key after the keys have gone. -/
theorem Dev.dropKeys_ports (e : Dev) : ∀ p ∈ e.dropKeys.ports, p.out.key0 = none ∧ p.out.key1 = none ∧ p.inn.key0 = none ∧ p.inn.key1 = none := by
  intro p hp
  obtain ⟨p0, -, rfl⟩ := List.mem_map.mp hp
  exact ⟨rfl, rfl, rfl, rfl⟩

/-- Where BAR0 is closed, what lies behind the device registers reads zero. -/
theorem barRead_closed (h : m.barOpen = false) {off : Nat} (ho : 0x18 < off) : barRead m off = 0 := by
  have h0 : off ≠ 0 ∧ off ≠ 8 ∧ off ≠ 0x10 ∧ off ≠ 0x18 := by omega
  obtain ⟨h1, h2, h3, h4⟩ := h0
  simp [barRead, h, h1, h2, h3, h4]

/-- An alarm under REPORT, as a step. -/
theorem alarm_reports {cf : Conf} (b : BitVec 4) (he : m.dev.erased = false) (ha : m.dev.alpol = false) :
    (alarm cf m b).1 = cf ∧ (alarm cf m b).2.regs = m.regs ∧ SameStores (alarm cf m b).2 m ∧ (alarm cf m b).2.dev.alarm = m.dev.alarm ||| b ∧
      (alarm cf m b).2.dev.erased = false ∧ (b ≠ 0 → .alarmed b ∈ (alarm cf m b).2.net) := by
  obtain ⟨hc, hu, hn⟩ := alarm_report (cf := cf) b he ha
  exact ⟨hc, (congrArg Mach.regs hu :), ⟨(congrArg Mach.mem hu :), (congrArg Mach.tags hu :), (congrArg Mach.scr hu :), (congrArg Mach.gran hu :), (congrArg Mach.bufs hu :)⟩,
    (congrArg (fun k : Mach => k.dev.alarm) hu :), (congrArg (fun k : Mach => k.dev.erased) hu :).trans he, hn⟩

/-- An alarm under ERASE halts the device without keys. -/
theorem alarm_erases {cf : Conf} {b : BitVec 4} (hb : b ≠ 0) (he : m.dev.erased = false) (ha : m.dev.alpol = true) :
    let r := alarm cf m b
    r.1.keys = [] ∧ r.2.dev.erased = true ∧ r.2.bufs = [] ∧ r.2.dev.islands = [] ∧
      (∀ p ∈ r.2.dev.ports, p.out.key0 = none ∧ p.out.key1 = none ∧ p.inn.key0 = none ∧ p.inn.key1 = none) ∧ r.2.mem = m.mem ∧
      (m.agenda = [] → step ⟨r.1, r.2⟩ = .fault .halted) ∧ ∀ off, 0x18 < off → barRead r.2 off = 0 := by
  dsimp only
  rw [alarm_erase hb he ha]
  have hu := m.erase_unraised
  have her : m.erase.dev.erased = true := (congrArg (fun k : Mach => k.dev.erased) hu :)
  have hports : m.erase.dev.ports = m.dev.dropKeys.ports := (congrArg (fun k : Mach => k.dev.ports) hu :)
  refine ⟨rfl, her, (congrArg Mach.bufs hu :), (congrArg (fun k : Mach => k.dev.islands) hu :), ?_, (congrArg Mach.mem hu :), fun hag => ?_, fun off ho => ?_⟩
  · rw [hports]
    exact m.dev.dropKeys_ports
  · have hag' : m.erase.agenda = [] := (congrArg Mach.agenda hu :).trans hag
    simp only [step, stepOf, hag', her]
    split <;> simp_all
  · exact barRead_closed (by rw [Mach.barOpen, her]; rfl) ho

/-! ### Soft errors -/

section
variable {cf : Conf} {e : SoftErr}

/-- An uncorrectable error on a machine that differs from m in marks alone. -/
theorem softError_marks (h : softError cf m e = (cf, n.badError d)) (hs : SameStores n m) (hr : n.regs = m.regs) :
    (softError cf m e).1 = cf ∧ (softError cf m e).2.regs = m.regs ∧ SameStores (softError cf m e).2 m := by
  have hu := n.badError_unraised d
  rw [h]
  exact ⟨rfl, (congrArg Mach.regs hu :).trans hr, hs.trans (SameStores.of_unraised hu)⟩

end

/-- The launch of a team whose store has failed stops. -/
theorem softError_owner {cf : Conf} {tm : Team} {la : Launch} (ht : m.team? k = some tm) (hl : m.launch? tm.l = some la) :
    ((softError cf m (.owner k)).2.launch? tm.l).map (fun la => la.stop.isSome) = some true := by
  have hsoft : (softError cf m (.owner k)).2.launches = (m.updLaunch tm.l (fun la => { la with stop := some (la.stop.getD ⟨0, 0, tm.core, ((m.cluster? tm.c).map Cluster.num).getD 0⟩) })).launches := by
    simp only [softError, ht]
    exact (congrArg Mach.launches (Mach.badError_unraised ..) :)
  rw [Mach.launch?, hsoft, Mach.updLaunch, List.find?_map]
  have hp : ((fun x : Launch => x.l == tm.l) ∘ fun x => if x.l = tm.l then { x with stop := some (x.stop.getD ⟨0, 0, tm.core, ((m.cluster? tm.c).map Cluster.num).getD 0⟩) } else x) =
      fun x => x.l == tm.l := by
    funext x
    simp only [Function.comp]
    split <;> rfl
  rw [hp, show m.launches.find? (fun x => x.l == tm.l) = some la from hl]
  have hk : la.l = tm.l := by simpa using List.find?_some hl
  simp [hk]

/-! ### Links, keys and boot -/

/-- LINKUP after the change of a link. -/
theorem linkup_change {k : Nat} (hk : k < 2) (up : Bool) (v : BitVec 2) :
    let w := if up then v ||| BitVec.ofNat 2 (2 ^ k) else v &&& ~~~(BitVec.ofNat 2 (2 ^ k))
    w.getLsbD k = up ∧ w.getLsbD (1 - k) = v.getLsbD (1 - k) := by
  have hk : k = 0 ∨ k = 1 := by omega
  obtain rfl | rfl := hk <;> cases up <;> revert v <;> decide

/-- A die's accesses go by its own link, or by the other where that alone is up. -/
theorem Mach.linkOf_up (m : Mach) (d : Nat) : (m.dev.linkup.getLsbD (d % 2) = true → m.linkOf d = d % 2) ∧
    (m.dev.linkup.getLsbD (d % 2) = false → m.dev.linkup.getLsbD (1 - d % 2) = true → m.linkOf d = 1 - d % 2) := by
  refine ⟨fun h => ?_, fun h1 h2 => ?_⟩
  · rw [Mach.linkOf, h]
    rfl
  · rw [Mach.linkOf, h1, h2]
    rfl

theorem keySlotLoad_free {cf : Conf} {p : Nat} {key : Key} (he : m.dev.erased = false) (hb : m.dev.bootstg ≠ 0xFF)
    (hx : ∀ x ∈ cf.parts, x.p ≠ p → nbit x.keys k = false) : keySlotLoad cf m k p key = { cf with keys := ⟨k, p, key⟩ :: cf.keys.filter (fun x => x.slot != k) } := by
  refine if_neg ?_
  have hany : cf.parts.any (fun x => x.p != p && nbit x.keys k) = false := by
    rw [List.any_eq_false]
    intro x hm
    by_cases hp : x.p = p
    · simp [hp]
    · simp [hx x hm hp]
  simp [he, hb, hany]

theorem keySlotLoad_refused {cf : Conf} {p : Nat} {key : Key} (h : m.dev.erased = true ∨ m.dev.bootstg = 0xFF) : keySlotLoad cf m k p key = cf := by
  refine if_pos ?_
  obtain h | h := h <;> simp [h]

/-- A boot fails at its first or second check, stands after its first or second stage, or ends. -/
theorem Dev.boot_cases (f : Nat) (al : Bool) (lk : BitVec 2) (bo fi fu : List Byte) :
    f = 1 ∨ f = 2 ∨ f = 3 ∨ f = 4 ∨ (f ≠ 1 ∧ f ≠ 2 ∧ f ≠ 3 ∧ f ≠ 4 ∧ Dev.boot f al lk bo fi fu = Dev.boot 0 al lk bo fi fu) := by
  by_cases h1 : f = 1
  · exact .inl h1
  by_cases h2 : f = 2
  · exact .inr (.inl h2)
  by_cases h3 : f = 3
  · exact .inr (.inr (.inl h3))
  by_cases h4 : f = 4
  · exact .inr (.inr (.inr (.inl h4)))
  have e1 : (f != 1) = true := bne_iff_ne.mpr h1
  have e2 : (f != 2) = true := bne_iff_ne.mpr h2
  refine .inr (.inr (.inr (.inr ⟨h1, h2, h3, h4, ?_⟩)))
  simp only [Dev.boot, e1, e2, if_neg h3, if_neg h4]
  rfl

theorem Dev.boot_bootstg (f : Nat) (al : Bool) (lk : BitVec 2) (bo fi fu : List Byte) :
    (Dev.boot f al lk bo fi fu).bootstg = if f = 1 ∨ f = 2 then 0xFF else if f = 3 then 1 else if f = 4 then 2 else 3 := by
  obtain rfl | rfl | rfl | rfl | ⟨h1, h2, h3, h4, h⟩ := Dev.boot_cases f al lk bo fi fu
  · rfl
  · rfl
  · rfl
  · rfl
  · rw [h, if_neg (not_or.mpr ⟨h1, h2⟩), if_neg h3, if_neg h4]
    rfl

theorem Dev.boot_fresh (f : Nat) (al : Bool) (lk : BitVec 2) (bo fi fu : List Byte) : let e := Dev.boot f al lk bo fi fu
    e.erased = false ∧ e.alarm = 0 ∧ e.alpol = al := by
  obtain rfl | rfl | rfl | rfl | ⟨-, -, -, -, h⟩ := Dev.boot_cases f al lk bo fi fu
  · exact ⟨rfl, rfl, rfl⟩
  · exact ⟨rfl, rfl, rfl⟩
  · exact ⟨rfl, rfl, rfl⟩
  · exact ⟨rfl, rfl, rfl⟩
  · rw [h]
    exact ⟨rfl, rfl, rfl⟩

theorem Dev.boot_whole (al : Bool) (lk : BitVec 2) (bo fi fu : List Byte) : let e := Dev.boot 0 al lk bo fi fu
    e.linkup = lk ∧ e.meas.take 3 = [bo, fi, fu ++ [if al then 1 else 0]].map (fun x => sha3 (List.replicate 48 0 ++ sha3 x)) := by
  exact ⟨rfl, rfl⟩

/-! ### The boot that goes on -/

/-- An item of the agenda that a device does is done first. -/
theorem step_bootOn {g : Bool} {lk : BitVec 2} {fi : List Byte} {rest : List Agenda} (ha : s.m.agenda = .bootOn g lk fi :: rest) (he : s.m.dev.erased = false)
    (hb : s.m.dev.bootstg ≠ 0xFF) : step s = .next (bootStep { s with m := { s.m with agenda := rest } } g lk fi) := by
  simp only [step, stepOf, ha]
  rw [agendaStep, if_neg (by simp [he, hb])]

section
variable {r : State} {lk : BitVec 2} {fi : List Byte}

theorem bootStep_good (hb : r.m.dev.bootstg = 1) : bootStep r true lk fi = { r with m := { r.m with
    dev := { (r.m.dev.extend 1 (sha3 fi)).extend 2 (sha3 (r.m.dev.fuseBytes r.m.dev.fuses)) with bootstg := 2, linkup := lk } } } := by
  simp [bootStep, Dev.bootFirmware, hb]

theorem bootStep_bad (hb : r.m.dev.bootstg = 1) : bootStep r false lk fi = { cfg := { r.cfg with keys := [] }, m := { r.m with
    dev := { r.m.dev.dropKeys with bootstg := 0xFF } } } := by
  simp [bootStep, Dev.bootFirmware, hb]

theorem bootStep_last (hb : r.m.dev.bootstg = 2) (g : Bool) : bootStep r g lk fi = { r with m := { r.m with dev := { r.m.dev with bootstg := 3 } } } := by
  simp [bootStep, Dev.bootQueues, hb]

end

/-! ### Reads of BAR0 -/

theorem barRead_registers (m : Mach) : barRead m 0 = m.dev.status ∧ barRead m 0x10 = m.dev.plim ∧ barRead m 0x18 = m.dev.amsix ∧
    ∀ off, off % 8 ≠ 0 → barRead m off = 0 := by
  refine ⟨rfl, rfl, rfl, fun off h => if_pos h⟩

theorem barRead_open (he : m.dev.erased = false) (hb : m.dev.bootstg ≠ 0xFF) : (∀ d, d < 4 → barRead m (0x100 + 8 * d) = m.dieCyc d % 2 ^ 64) ∧
    (∀ q, q < 1024 → barRead m (0x10000 + 64 * q + 0x20) = 0 ∧ barRead m (0x10000 + 64 * q + 0x28) = (m.queue q).head) ∧
    (∀ n, n < 64 → barRead m (0x1008 + 16 * n) = (m.ctrOf n).count) ∧ ∀ off, 0x120 ≤ off → off < 0x1000 → barRead m off = 0 := by
  have ho : m.barOpen = true := by simp [Mach.barOpen, he, hb]
  have hq : ∀ q r, q < 1024 → r < 64 → r % 8 = 0 → barRead m (0x10000 + 64 * q + r) = m.queueRead q r := fun q r h1 h2 h3 => by
    have e1 : (0x10000 + 64 * q + r - 0x10000) / 64 = q := by omega
    have e2 : (0x10000 + 64 * q + r) % 64 = r := by omega
    rw [barRead, if_neg (by omega), if_neg (by omega), if_neg (by omega), if_neg (by omega), if_neg (by omega), ho, if_neg (by decide), if_neg (by omega),
      if_neg (by omega), if_pos (by omega), e1, e2]
  refine ⟨fun d hd => ?_, fun q h => ⟨?_, ?_⟩, fun n hn => ?_, fun off h1 h2 => ?_⟩
  · have e : (0x100 + 8 * d - 0x100) / 8 = d := by omega
    rw [barRead, if_neg (by omega), if_neg (by omega), if_neg (by omega), if_neg (by omega), if_neg (by omega), ho, if_neg (by decide), if_pos (by omega), e]
  · rw [hq q 0x20 h (by omega) rfl]
    rfl
  · rw [hq q 0x28 h (by omega) rfl]
    rfl
  · have e : (0x1008 + 16 * n - 0x1000) / 16 = n := by omega
    have e2 : (0x1008 + 16 * n) % 16 = 8 := by omega
    rw [barRead, if_neg (by omega), if_neg (by omega), if_neg (by omega), if_neg (by omega), if_neg (by omega), ho, if_neg (by decide), if_neg (by omega),
      if_pos (by omega), e, e2]
    rfl
  · by_cases h8 : off % 8 = 0
    · rw [barRead, if_neg (by omega), if_neg (by omega), if_neg (by omega), if_neg (by omega), if_neg (by omega), ho, if_neg (by decide), if_neg (by omega),
        if_neg (by omega), if_neg (by omega), if_neg (by omega), if_neg (by omega)]
    · exact if_pos h8

/-- Settles O59: each event changes its own record of the device, and an interrupt only what reports it. -/
theorem deviceSteps : Obligations.DeviceSteps := by
  intro s
  refine ⟨fun d => ⟨⟨_, rfl, rfl⟩, fun b => Mach.refreshing_iff b⟩, fun u => ⟨_, rfl, rfl⟩, ?_, ?_, ?_, ?_, ?_, ?_, ?_, ?_, ?_, ?_, ?_, ?_, ?_, ?_, ?_, ?_, ?_, ?_, ?_, ?_,
    ?_, ?_, ?_, ?_, ?_⟩
  · intro d b n r c i hw hb hf hp
    obtain ⟨hr, hu⟩ := refreshEnd_wakes hw hb hf hp
    exact ⟨_, rfl, hr, rfl, (congrArg Mach.regs hu :), (congrArg Mach.mem hu :), (congrArg Mach.tags hu :), (congrArg Mach.scr hu :), (congrArg Mach.gran hu :), (congrArg Mach.bufs hu :)⟩
  · intro d hd hn
    have ht : (throttleCheck s.m d).thrOf d = (s.m.thrOf d).check := by rw [throttleCheck, Mach.thrOf_setThr hd, Mach.thrNow_due hn]
    refine ⟨_, rfl, rfl, rfl, .refl _, ?_⟩
    dsimp only
    rw [ht]
    refine ⟨rfl, rfl, fun h => ⟨Thr.step_under h, by simpa [Thr.check] using h⟩, fun h1 h2 => ⟨by simp [Thr.check, h1, h2], Thr.step_free h1 h2⟩⟩
  · intro d hn
    refine ⟨_, rfl, ?_⟩
    dsimp only
    rw [throttleCheck, Mach.thrNow_early hn, Mach.setThr_thrOf]
  · intro d a b hd
    exact ⟨_, rfl, rfl, rfl, .refl _, Mach.thrOf_setThr hd _⟩
  · intro d
    exact ⟨_, rfl, rfl, rfl, .refl _, rfl, rfl⟩
  · intro u
    obtain ⟨h1, h2, h3⟩ := softError_marks (m := s.m) (cf := s.cfg) (e := .poisonPkg u) rfl (.refl _) rfl
    exact ⟨_, rfl, h1, h2, h3, (congrArg Mach.poison (Mach.badError_unraised _ _) :)⟩
  · intro k u
    obtain ⟨h1, h2, h3⟩ := softError_marks (m := s.m) (cf := s.cfg) (e := .poisonScr k u) rfl (.refl _) rfl
    exact ⟨_, rfl, h1, h2, h3, (congrArg Mach.poison (Mach.badError_unraised _ _) :)⟩
  · intro k g r j
    obtain ⟨h1, h2, h3⟩ := softError_marks (m := s.m) (cf := s.cfg) (e := .register k g r j) rfl (.refl _) rfl
    exact ⟨_, rfl, h1, h2, h3, (congrArg Mach.regErr (Mach.badError_unraised _ _) :)⟩
  · intro k g p j
    obtain ⟨h1, h2, h3⟩ := softError_marks (m := s.m) (cf := s.cfg) (e := .latch k g p j) rfl (.refl _) rfl
    exact ⟨_, rfl, h1, h2, h3, (congrArg Mach.latErr (Mach.badError_unraised _ _) :)⟩
  · intro k g x y
    obtain ⟨h1, h2, h3⟩ := softError_marks (m := s.m) (cf := s.cfg) (e := .accumulator k g x y) rfl (.refl _) rfl
    exact ⟨_, rfl, h1, h2, h3, (congrArg Mach.accErr (Mach.badError_unraised _ _) :)⟩
  · intro k o
    obtain ⟨h1, h2, h3⟩ := softError_marks (m := s.m) (cf := s.cfg) (e := .scale k o) rfl (.refl _) rfl
    exact ⟨_, rfl, h1, h2, h3, (congrArg Mach.scaleErr (Mach.badError_unraised _ _) :)⟩
  · intro k tm la ht hl
    have he : softError s.cfg s.m (.owner k) = (s.cfg, (s.m.updLaunch tm.l (fun la => { la with stop := some (la.stop.getD ⟨0, 0, tm.core, ((s.m.cluster? tm.c).map Cluster.num).getD 0⟩) })).badError (s.m.teamDie k)) := by
      simp only [softError, ht]
    obtain ⟨h1, h2, h3⟩ := softError_marks he (.refl _) rfl
    exact ⟨_, rfl, h1, h2, h3, softError_owner (cf := s.cfg) ht hl⟩
  · intro he ha
    have hu := s.m.badError_unraised 0
    obtain ⟨h1, h2, h3, h4, -, -⟩ := alarm_reports (m := s.m.badError 0) (cf := s.cfg) 8 ((congrArg (fun k : Mach => k.dev.erased) hu :).trans he)
      ((congrArg (fun k : Mach => k.dev.alpol) hu :).trans ha)
    exact ⟨_, rfl, h1, h2.trans (congrArg Mach.regs hu :), (SameStores.of_unraised hu).trans h3, h4.trans (congrArg (fun k : Mach => k.dev.alarm ||| 8) hu :)⟩
  · intro he ha
    have hu := s.m.badError_unraised 0
    obtain ⟨h1, h2, -⟩ := alarm_erases (m := s.m.badError 0) (cf := s.cfg) (b := 8) (by decide) ((congrArg (fun k : Mach => k.dev.erased) hu :).trans he)
      ((congrArg (fun k : Mach => k.dev.alpol) hu :).trans ha)
    exact ⟨_, rfl, h1, h2⟩
  · intro k up hk
    obtain ⟨h1, h2⟩ := linkup_change hk up s.m.dev.linkup
    exact ⟨_, rfl, rfl, rfl, .refl _, h1, h2, fun d => Mach.linkOf_up _ d⟩
  · intro k p key he hb hx
    have h := keySlotLoad_free (key := key) he hb hx
    exact ⟨_, rfl, rfl, (congrArg Conf.keys h :), (congrArg Conf.parts h :), (congrArg Conf.ctxs h :)⟩
  · intro k p key h
    exact ⟨_, rfl, congrArg (fun c : Conf => (⟨c, s.m⟩ : State)) (keySlotLoad_refused h)⟩
  · intro b he ha
    exact ⟨_, rfl, alarm_reports b he ha⟩
  · intro b hb he ha
    exact ⟨_, rfl, alarm_erases hb he ha⟩
  · intro f al dv lk of ph bo fi fu
    obtain ⟨he, hal, hpol⟩ := Dev.boot_fresh f al lk bo fi fu
    have hstg := Dev.boot_bootstg f al lk bo fi fu
    refine ⟨_, rfl, rfl, rfl, rfl, rfl, rfl, rfl, he, hal, hpol, fun h => ?_, fun h off ho => barRead_closed ?_ ho, hstg, fun h => ?_, fun d => ?_, rfl, rfl⟩
    · subst h
      rfl
    · rw [if_pos h] at hstg
      exact (congrArg (fun b => !(Dev.boot f al lk bo fi fu).erased && b != 0xFF) hstg).trans (Bool.and_false _)
    · subst h
      exact (Dev.boot_whole al lk bo fi fu).2
    · show (0 + ((List.range 4).map (fun d => of.getD d 0 % 64)).getD d 0) % 2 ^ 64 < 64
      have hm : ((List.range 4).map (fun d => of.getD d 0 % 64)).getD d 0 < 64 := by
        rw [List.getD_eq_getElem?_getD, List.getElem?_map]
        cases (List.range 4)[d]? with
        | none => exact Nat.zero_lt_succ _
        | some x => exact Nat.mod_lt _ (by decide)
      omega
  · intro lk fi rest ha he hb
    refine ⟨_, (step_bootOn ha he (by omega)).trans (congrArg _ (bootStep_good (r := { s with m := { s.m with agenda := rest } }) hb)), rfl, rfl, rfl, rfl, rfl, rfl⟩
  · intro lk fi rest ha he hb
    refine ⟨_, (step_bootOn ha he (by omega)).trans (congrArg _ (bootStep_bad (r := { s with m := { s.m with agenda := rest } }) hb)), rfl, rfl, rfl, rfl, rfl, s.m.dev.dropKeys_ports, rfl⟩
  · intro g lk fi rest ha he hb
    refine ⟨_, (step_bootOn ha he (by omega)).trans (congrArg _ (bootStep_last (r := { s with m := { s.m with agenda := rest } }) hb g)), rfl, rfl, rfl, rfl⟩
  · exact barRead_registers s.m
  · intro he hb
    exact barRead_open he hb

end Sys2Proof.Machine
end

section
/-! ## Events of the fabric (O58) -/
namespace Sys2Proof.Machine

variable {m n : Mach} {s t : State} {cf : Conf} {r : FabReq}

/-! ### Accesses of other devices at their homes (R33, R34) -/

section
variable {j off va : Nat} {k : FabAcc} {a : Acc} {o : Option Nat} {pt? : Option Part}

theorem fabPlaces_one (ha : r.accs = [(j, off, k)]) : fabPlaces cf m r =
    ([(j, k, (winAccess cf m r.part off (accSize k) (accCls k)).1)], (winAccess cf m r.part off (accSize k) (accCls k)).2) := by
  simp only [fabPlaces, ha, List.foldl_cons, List.foldl_nil, List.nil_append]

/-- A write of a poisoned unit, and any access of another, is not refused where it lies. -/
theorem refusalOf_here (h : accCls k = .write ∨ poisonedAcc m pt? a va (accSize k) = false) (o : Option Nat) : refusalOf m pt? k (.here a va o) = none := by
  refine if_neg ?_
  obtain h | h := h <;> simp [h]

/-- What an access leaves behind, the delay of its request over. -/
def Mach.atHomeNow (m : Mach) (pt? : Option Part) (r : FabReq) (k : FabAcc) (a : Acc) (va : Nat) : List Byte × Mach :=
  (m.undelay (.agent 0 .heddle) (r.src * 2 ^ 64 + r.xid)).atHome pt? a va k r.sync

theorem Mach.atHome_keeps (m : Mach) (pt? : Option Part) (a : Acc) (va : Nat) (k : FabAcc) (sync : Bool) : m.Keeps (m.atHome pt? a va k sync).2 := by
  have hput : ∀ bs, m.Keeps (m.deliver ⟨0, a.sp, a.addr, bs, .plain, a.tag, sync, 0, 0, 0⟩) := fun bs => (m.deliver_near _).keeps
  cases k with
  | read _ => exact readAcc_keeps ..
  | write bs => exact hput bs
  | atom op dbl cmp b =>
    unfold Mach.atHome
    dsimp only
    split
    · exact hput _
    · exact .refl m
  | cinc inc => exact hput _

theorem Mach.atHomeNow_regs (m : Mach) (pt? : Option Part) (a : Acc) (va : Nat) (k : FabAcc) : (m.atHomeNow pt? r k a va).2.regs = m.regs :=
  (Mach.atHome_keeps ..).regs.trans rfl

theorem performAt_one (hb : m.bankBusy pt? a = false) (hp : accCls k = .write ∨ poisonedAcc m pt? a va (accSize k) = false) :
    performAt m pt? r [(j, k, a, va)] = (.done [(j, .ok (m.atHomeNow pt? r k a va).1)], (m.atHomeNow pt? r k a va).2) := by
  simp only [performAt, List.find?_cons, hb, List.find?_nil, List.any_cons, List.any_nil, refusalOf_here hp, Option.isSome_none, Bool.or_false,
    Bool.false_eq_true, if_false, List.foldl_cons, List.foldl_nil, List.nil_append]
  rfl

/-- A request of one access that lies here. -/
theorem fabThrough_here (ha : r.accs = [(j, off, k)]) (hw : winAccess cf m r.part off (accSize k) (accCls k) = (.here a va o, n))
    (hp : accCls k = .write ∨ poisonedAcc n (cf.part? r.part) a va (accSize k) = false) (only : Bool) :
    fabThrough cf m r only = if only then (.done [(j, .ok [])], { n with vows := n.vows ++ [⟨r.src, r.xid, r.part, [(j, k, a, va)]⟩] })
      else performAt n (cf.part? r.part) r [(j, k, a, va)] := by
  simp only [fabThrough, fabPlaces_one ha, hw, List.any_cons, List.any_nil, refusalOf_here hp, Option.isSome_none, Bool.or_false, Bool.false_eq_true, if_false,
    List.filterMap_cons, List.filterMap_nil, List.map_cons, List.map_nil]
  rfl

/-- A request of one access that is refused. -/
theorem fabThrough_refused {c sub : Nat} (ha : r.accs = [(j, off, k)]) (hw : winAccess cf m r.part off (accSize k) (accCls k) = (.refused c sub, n)) (only : Bool) :
    fabThrough cf m r only = (.done [(j, .refused c sub)], n) := by
  simp only [fabThrough, fabPlaces_one ha, hw, List.any_cons, List.any_nil, refusalOf, Option.isSome_some, Bool.or_false, Bool.false_eq_true, if_false, if_true,
    List.map_cons, List.map_nil, Option.getD_some]
  rfl

end

/-- A request whose accesses have been performed, checked or refused is answered. -/
theorem fabricAccessArrival_done {rs : List (Nat × FabRes)} (ht : r.target = cf.device.toNat) (h : fabPerform cf m r = (.done rs, n)) (hd : r.phase ≠ .drop) :
    fabricAccessArrival cf m r = { n with net := n.net ++ [.answer r.src ⟨r.xid, rs⟩] } := by
  simp only [fabricAccessArrival, ht, ne_eq, not_true_eq_false, if_false, h, if_neg hd]

/-- A request before its commit is one through the windows. -/
theorem fabPerform_through (h : r.phase = .whole ∨ r.phase = .check) : fabPerform cf m r = fabThrough cf m r (r.phase == .check) := by
  obtain h | h := h <;> simp only [fabPerform, h] <;> rfl

theorem ne_drop (h : r.phase = .whole ∨ r.phase = .check) : r.phase ≠ .drop := by
  obtain h | h := h <;> rw [h] <;> decide

/-- A request for a saved allocation is held. -/
theorem fabThrough_saved (hs : ∃ a ∈ (fabPlaces cf m r).1, ∃ k, a.2.2 = .saved k) (only : Bool) : fabThrough cf m r only = (.held, m) := by
  obtain ⟨a, ha, k, hk⟩ := hs
  refine if_pos ?_
  refine List.any_eq_true.mpr ⟨a, ha, ?_⟩
  rw [hk]

/-- A request of which an access is refused, and no location is saved or busy. -/
theorem fabThrough_refusal (hf : ∀ a ∈ (fabPlaces cf m r).1, (∀ k, a.2.2 ≠ .saved k) ∧ a.2.2 ≠ .busy)
    (hr : ∃ a ∈ (fabPlaces cf m r).1, (refusalOf (fabPlaces cf m r).2 (cf.part? r.part) a.2.1 a.2.2).isSome = true) (only : Bool) :
    fabThrough cf m r only = (.done ((fabPlaces cf m r).1.map (fun a => (a.1, (refusalOf (fabPlaces cf m r).2 (cf.part? r.part) a.2.1 a.2.2).getD (.ok [])))),
      (fabPlaces cf m r).2) := by
  obtain ⟨a, ha, har⟩ := hr
  refine (if_neg ?_).trans ((if_neg ?_).trans (if_pos ?_))
  · rw [List.any_eq_true]
    rintro ⟨x, hx, hxs⟩
    dsimp only at hxs
    split at hxs
    · next k hk => exact (hf x hx).1 k hk
    · cases hxs
  · rw [List.any_eq_true]
    rintro ⟨x, hx, hxs⟩
    exact (hf x hx).2 (by simpa using hxs)
  · exact List.any_eq_true.mpr ⟨a, ha, har⟩

/-! ### The clauses of an arrival -/

section
variable {j off va : Nat} {k : FabAcc} {a : Acc} {o : Option Nat}

theorem arrival_whole (ht : r.target = s.cfg.device.toNat) (hw : r.phase = .whole) (ha : r.accs = [(j, off, k)])
    (hx : winAccess s.cfg s.m r.part off (accSize k) (accCls k) = (.here a va o, m)) (hb : m.bankBusy (s.cfg.part? r.part) a = false)
    (hp : accCls k = .write ∨ poisonedAcc m (s.cfg.part? r.part) a va (accSize k) = false) :
    let x := m.atHomeNow (s.cfg.part? r.part) r k a va
    Completes (exec (.fabricAccessArrival r) s) (fun t => t.m.net = x.2.net ++ [.answer r.src ⟨r.xid, [(j, .ok x.1)]⟩] ∧ SameStores t.m x.2 ∧ t.m.regs = s.m.regs) := by
  have hk : s.m.Keeps m := Mach.Keeps.of_eq hx (winAccess_keeps ..)
  have h : fabPerform s.cfg s.m r = (.done [(j, .ok (m.atHomeNow (s.cfg.part? r.part) r k a va).1)], (m.atHomeNow (s.cfg.part? r.part) r k a va).2) := by
    rw [fabPerform_through (.inl hw), hw, fabThrough_here ha hx hp, if_neg (by decide), performAt_one hb hp]
  refine ⟨_, congrArg (fun k => Host.Outcome.next (⟨s.cfg, k⟩ : State)) (fabricAccessArrival_done ht h (ne_drop (.inl hw))), rfl, .refl _, ?_⟩
  exact (Mach.atHomeNow_regs ..).trans hk.regs

theorem arrival_check (ht : r.target = s.cfg.device.toNat) (hw : r.phase = .check) (ha : r.accs = [(j, off, k)])
    (hx : winAccess s.cfg s.m r.part off (accSize k) (accCls k) = (.here a va o, m))
    (hp : accCls k = .write ∨ poisonedAcc m (s.cfg.part? r.part) a va (accSize k) = false) :
    Completes (exec (.fabricAccessArrival r) s) (fun t => t.m.net = m.net ++ [.answer r.src ⟨r.xid, [(j, .ok [])]⟩] ∧
      t.m.vows = m.vows ++ [⟨r.src, r.xid, r.part, [(j, k, a, va)]⟩] ∧ SameStores t.m m ∧ t.m.regs = s.m.regs) := by
  have hk : s.m.Keeps m := Mach.Keeps.of_eq hx (winAccess_keeps ..)
  have h : fabPerform s.cfg s.m r = (.done [(j, .ok [])], { m with vows := m.vows ++ [⟨r.src, r.xid, r.part, [(j, k, a, va)]⟩] }) := by
    rw [fabPerform_through (.inr hw), hw, fabThrough_here ha hx hp, if_pos (by decide)]
  exact ⟨_, congrArg (fun k => Host.Outcome.next (⟨s.cfg, k⟩ : State)) (fabricAccessArrival_done ht h (ne_drop (.inr hw))), rfl, rfl, .refl _, hk.regs⟩

theorem arrival_commit {v : Vow} (ht : r.target = s.cfg.device.toNat) (hw : r.phase = .commit)
    (hv : s.m.vows.find? (fun v => v.src == r.src && v.xid == r.xid) = some v) (hd : v.due r = [(j, k, a, va)]) (hs : s.m.inSaved a.sp = false)
    (hb : s.m.bankBusy (s.cfg.part? r.part) a = false) (hp : accCls k = .write ∨ poisonedAcc s.m (s.cfg.part? r.part) a va (accSize k) = false) :
    let x := s.m.atHomeNow (s.cfg.part? r.part) r k a va
    Completes (exec (.fabricAccessArrival r) s) (fun t => t.m.net = x.2.net ++ [.answer r.src ⟨r.xid, [(j, .ok x.1)]⟩] ∧ SameStores t.m x.2 ∧
      t.m.regs = s.m.regs ∧ ∀ u ∈ t.m.vows, u.src = r.src → u.xid = r.xid → ∀ y ∈ u.accs, y.1 ≠ j) := by
  have hkey : v.src = r.src ∧ v.xid = r.xid := by simpa using List.find?_some hv
  have h : fabPerform s.cfg s.m r = (.done [(j, .ok (s.m.atHomeNow (s.cfg.part? r.part) r k a va).1)],
      (s.m.atHomeNow (s.cfg.part? r.part) r k a va).2.keepVow v [j]) := by
    simp only [fabPerform, hw, hv, hd, List.any_cons, List.any_nil, hs, Bool.or_false, Bool.false_eq_true, if_false, performAt_one hb hp]
    rfl
  refine ⟨_, congrArg (fun k => Host.Outcome.next (⟨s.cfg, k⟩ : State)) (fabricAccessArrival_done ht h (by rw [hw]; decide)), rfl, .refl _,
    Mach.atHomeNow_regs .., fun u hu h1 h2 y hy hj => ?_⟩
  obtain ⟨u0, -, hu0⟩ := List.mem_filterMap.mp hu
  split at hu0
  · dsimp only at hu0
    split at hu0
    · cases hu0
    · cases hu0
      have := (List.mem_filter.mp hy).2
      simp [hj] at this
  · next hne =>
    cases hu0
    exact hne ⟨h1.trans hkey.1.symm, h2.trans hkey.2.symm⟩

theorem arrival_drop (ht : r.target = s.cfg.device.toNat) (hw : r.phase = .drop) : Completes (exec (.fabricAccessArrival r) s) (fun t =>
    t.m.vows = s.m.vows.filter (fun v => !(v.src == r.src && v.xid == r.xid)) ∧ t.m.net = s.m.net ∧ t.m.regs = s.m.regs ∧ SameStores t.m s.m) := by
  have h : fabricAccessArrival s.cfg s.m r = s.m.forget r.src r.xid := by
    simp only [fabricAccessArrival, ht, ne_eq, not_true_eq_false, if_false, fabPerform, hw, if_true]
  exact ⟨_, congrArg (fun k => Host.Outcome.next (⟨s.cfg, k⟩ : State)) h, rfl, rfl, rfl, .refl _⟩

theorem arrival_refused {c sub : Nat} (ht : r.target = s.cfg.device.toNat) (hw : r.phase = .whole ∨ r.phase = .check) (ha : r.accs = [(j, off, k)])
    (hx : winAccess s.cfg s.m r.part off (accSize k) (accCls k) = (.refused c sub, m)) :
    Completes (exec (.fabricAccessArrival r) s) (fun t => t.m.vows = m.vows ∧ t.m.net = m.net ++ [.answer r.src ⟨r.xid, [(j, .refused c sub)]⟩] ∧ SameStores t.m m) := by
  have h : fabPerform s.cfg s.m r = (.done [(j, .refused c sub)], m) := by rw [fabPerform_through hw, fabThrough_refused ha hx]
  exact ⟨_, congrArg (fun k => Host.Outcome.next (⟨s.cfg, k⟩ : State)) (fabricAccessArrival_done ht h (ne_drop hw)), rfl, rfl, .refl _⟩

end

theorem arrival_saved (ht : r.target = s.cfg.device.toNat) (hw : r.phase = .whole ∨ r.phase = .check) (hs : ∃ a ∈ (fabPlaces s.cfg s.m r).1, ∃ k, a.2.2 = .saved k) :
    Completes (exec (.fabricAccessArrival r) s) (fun t => t.m.parked = s.m.parked ++ [r] ∧ t.m.net = s.m.net ∧ SameStores t.m s.m) := by
  have h : fabricAccessArrival s.cfg s.m r = { s.m with parked := s.m.parked ++ [r] } := by
    simp only [fabricAccessArrival, ht, ne_eq, not_true_eq_false, if_false, fabPerform_through hw, fabThrough_saved hs]
  exact ⟨_, congrArg (fun k => Host.Outcome.next (⟨s.cfg, k⟩ : State)) h, rfl, rfl, .refl _⟩

theorem arrival_refusal (ht : r.target = s.cfg.device.toNat) (hw : r.phase = .whole ∨ r.phase = .check)
    (hf : ∀ a ∈ (fabPlaces s.cfg s.m r).1, (∀ k, a.2.2 ≠ .saved k) ∧ a.2.2 ≠ .busy)
    (hr : ∃ a ∈ (fabPlaces s.cfg s.m r).1, (refusalOf (fabPlaces s.cfg s.m r).2 (s.cfg.part? r.part) a.2.1 a.2.2).isSome = true) :
    Completes (exec (.fabricAccessArrival r) s) (fun t => t.m.vows = (fabPlaces s.cfg s.m r).2.vows ∧ SameStores t.m (fabPlaces s.cfg s.m r).2) := by
  have h := (fabPerform_through (cf := s.cfg) (m := s.m) hw).trans (fabThrough_refusal hf hr _)
  exact ⟨_, congrArg (fun k => Host.Outcome.next (⟨s.cfg, k⟩ : State)) (fabricAccessArrival_done ht h (ne_drop hw)), rfl, .refl _⟩

end Sys2Proof.Machine
end

section
/-! ## Answers of other devices (O58, R34) -/
namespace Sys2Proof.Machine

variable {m n : Mach} {s t : State} {c : Ctx} {r : FRef}

/-! ### A fibre whose wait is over -/

/-- Teams are found as they were, but for their reports. -/
theorem Mach.Keeps.team? (h : m.Keeps n) (t : Nat) : (n.team? t).map Team.plain = (m.team? t).map Team.plain := by
  have key : ∀ l : List Team, (l.find? (fun x => x.t == t)).map Team.plain = (l.map Team.plain).find? (fun x => x.t == t) := fun l => by
    rw [List.find?_map]
    rfl
  have ht : n.teams.map Team.plain = m.teams.map Team.plain := (congrArg Mach.teams h.eq :)
  rw [Mach.team?, Mach.team?, key, key, ht]

/-- What a fibre's surroundings keep, but for pending traps and reports. -/
structure Ctx.Like (c d : Ctx) : Prop where
  fibre : d.f = c.f
  launch : d.la = c.la
  record : d.rc = c.rc
  team : d.tm.plain = c.tm.plain
  group : d.g.plain = c.g.plain

theorem Ctx.Like.refl (c : Ctx) : c.Like c := ⟨rfl, rfl, rfl, rfl, rfl⟩
theorem Ctx.Like.trans {d e : Ctx} (h : c.Like d) (k : d.Like e) : c.Like e :=
  ⟨k.fibre.trans h.fibre, k.launch.trans h.launch, k.record.trans h.record, k.team.trans h.team, k.group.trans h.group⟩

theorem Mach.Keeps.ctxOf (h : m.Keeps n) (hc : ctxOf m r = some c) : ∃ d, ctxOf n r = some d ∧ c.Like d := by
  obtain ⟨hf, hg, ht, hcl, hl, hrc, -⟩ := ctxOf_parts hc
  have hg' := h.group? r.t r.g
  rw [hg] at hg'
  obtain ⟨g, hng, hgp⟩ := Option.map_eq_some_iff.mp hg'
  have ht' := h.team? r.t
  rw [ht] at ht'
  obtain ⟨tm, hnt, htp⟩ := Option.map_eq_some_iff.mp ht'
  have hnf := (h.fibre? r).trans hf
  have hc1 : tm.c = c.tm.c := (congrArg Team.c htp :)
  have hl1 : tm.l = c.tm.l := (congrArg Team.l htp :)
  have hncl : n.cluster? tm.c = some c.cl := by rw [Mach.cluster?, hc1, show n.clusters = m.clusters from (congrArg Mach.clusters h.eq :)]; exact hcl
  have hnl : n.launch? tm.l = some c.la := by rw [Mach.launch?, hl1, show n.launches = m.launches from (congrArg Mach.launches h.eq :)]; exact hl
  refine ⟨⟨c.f, g, tm, c.cl, c.la, c.rc⟩, ?_, rfl, rfl, rfl, htp, hgp⟩
  simp only [Machine.ctxOf, hnf, hng, hnt, hncl, hnl, hrc]

/-- The registers that engines hold. -/
theorem Mach.Keeps.heldReg (h : m.Keeps n) {d : Ctx} (hd : c.Like d) (rs : List Nat) : n.heldReg d rs = m.heldReg c rs := by
  have ht : d.tm.t = c.tm.t := (congrArg Team.t hd.team :)
  have hg : d.g.g = c.g.g := (congrArg Group.g hd.group :)
  have ho : n.ops.map Op.plain = m.ops.map Op.plain := (congrArg Mach.ops h.eq :)
  have key : ∀ k : Mach, k.heldIn c.rc c.tm.t c.g.g rs = ({ k with ops := k.ops.map Op.plain } : Mach).heldIn c.rc c.tm.t c.g.g rs := fun k => by
    rw [Mach.heldIn, Mach.heldIn, List.any_map]
    rfl
  rw [Mach.heldReg, Mach.heldReg, hd.record, ht, hg, key n, key m]
  rw [Mach.heldIn, Mach.heldIn]
  dsimp only
  rw [ho]

theorem Mach.advance_stores (m : Mach) {f : Fibre} (hf : m.fibre? r = some f) (pc : DWord) (ends : Bool) : SameStores (m.advance r pc ends) m := by
  obtain ⟨-, -, hr⟩ := Mach.advance_spec hf pc ends
  exact ⟨(congrArg Mach.mem hr.beyond :), (congrArg Mach.tags hr.beyond :), (congrArg Mach.scr hr.beyond :), (congrArg Mach.gran hr.beyond :), (congrArg Mach.bufs hr.beyond :)⟩

theorem Mach.woken_keeps_stores (m m0 : Mach) (t g : Nat) : SameStores (m.woken m0 t g) m ∧ (m.woken m0 t g).fibres = m.fibres := by
  unfold Mach.woken
  split
  · exact ⟨.refl m, rfl⟩
  · exact ⟨.refl m, rfl⟩

/-- A wait that ends: the fibre goes on, and no byte changes. -/
theorem Mach.passWait_spec {f : Fibre} {w : Wait} (hf : m.fibre? r = some f) (hw : f.wait = some w) :
    (m.passWait r).fibre? r = some (f.moved (f.pc + BitVec.ofNat 64 (instrLen w.i)) (endsRun w.i)) ∧ (m.passWait r).regs = m.regs ∧ SameStores (m.passWait r) m := by
  obtain ⟨hfib, -, hran⟩ := Mach.advance_spec hf (f.pc + BitVec.ofNat 64 (instrLen w.i)) (endsRun w.i)
  obtain ⟨hst, hfs⟩ := (m.advance r (f.pc + BitVec.ofNat 64 (instrLen w.i)) (endsRun w.i)).woken_keeps_stores m r.t r.g
  have he : m.passWait r = (m.advance r (f.pc + BitVec.ofNat 64 (instrLen w.i)) (endsRun w.i)).woken m r.t r.g := by
    simp only [Mach.passWait, hf, hw]
  rw [he]
  refine ⟨?_, (Mach.woken_stores ..).1.trans hran.regs, (Mach.advance_stores m hf _ _).trans hst⟩
  rw [Mach.fibre?, hfs]
  exact hfib

/-- An instruction that waits completes with its registers. -/
theorem Mach.completeWait_spec {w : Wait} {ws : List (Nat × Nat × Word)} (lat : List (Nat × Word)) (hc : ctxOf m r = some c) (hw : c.f.wait = some w)
    (hh : m.heldReg c (c.phys (ws.map Prod.fst)) = false) :
    (m.completeWait r ws lat).fibre? r = some (c.f.moved (c.f.pc + BitVec.ofNat 64 (instrLen w.i)) (endsRun w.i)) ∧
      (m.completeWait r ws lat).regs = smSetAll 0 m.regs (ws.map (fun w => (regKey c.f.ref.t c.f.ref.g (c.f.base + w.1) w.2.1, w.2.2))) ∧
      SameStores (m.completeWait r ws lat) m := by
  have he : m.completeWait r ws lat = ((m.wrRegs c ws).setLatch r (c.f.pos % 8) c.f.pred lat).passWait r := by
    simp only [Mach.completeWait, hc, hw, hh, Bool.false_eq_true, if_false]
  have hf : ((m.wrRegs c ws).setLatch r (c.f.pos % 8) c.f.pred lat).fibre? r = some c.f := (ctxOf_parts hc).1
  obtain ⟨h1, h2, h3⟩ := Mach.passWait_spec hf hw
  rw [he]
  refine ⟨h1, h2.trans ?_, SameStores.trans (.refl m) h3⟩
  rw [smSetAll, List.foldl_map]
  rfl

/-! ### The last answer of a load -/

/-- The machine once answers have been noted. -/
def Mach.noted (m : Mach) (a : FabAns) : Mach := (a.res.foldl (fun m r => m.takeAnswer a.xid r.1 r.2) m).endDrains

/-- The access in progress taken from the machine. -/
def Mach.sans (m : Mach) (p : FabPend) : Mach := { m with fabPend := m.fabPend.filter (fun x => x.xid != p.xid) }

section
variable {p : FabPend} {a : FabAns} {sz : Size} {sc : Scope} {d b k : Nat} {off : Int} {cf : Conf}

/-- The machine whose bytes the lanes of a load read. -/
def Mach.answeredBy (m : Mach) (c : Ctx) (sc : Scope) (p : FabPend) : Mach :=
  { (m.sans p).before c.leaf c.la.p sc true false p.asks with away := p.units c.la.p }

/-- What the lanes of a load have read. -/
def loadRead (cf : Conf) (m : Mach) (c : Ctx) (sc : Scope) (p : FabPend) : List (Nat × List Byte) × Mach :=
  readLanes cf (m.answeredBy c sc p) (loadWay c.leaf sc) c.la.p p.asks

theorem Mach.answered_ctxOf (hc : ctxOf m p.ref = some c) :
    ∃ e, ctxOf ((loadRead cf m c sc p).2.after c.leaf sc true) p.ref = some e ∧ c.Like e ∧
      ∀ rs, ((loadRead cf m c sc p).2.after c.leaf sc true).heldReg e rs = m.heldReg c rs := by
  have k0 : (m.sans p).Keeps ((m.sans p).before c.leaf c.la.p sc true false p.asks) := Mach.before_keeps ..
  obtain ⟨c1, h1, l1⟩ := k0.ctxOf (show ctxOf (m.sans p) p.ref = some c from hc)
  have k1 : (m.answeredBy c sc p).Keeps ((loadRead cf m c sc p).2.after c.leaf sc true) := (readLanes_keeps ..).trans (Mach.after_keeps ..)
  obtain ⟨c2, h2, l2⟩ := k1.ctxOf (show ctxOf (m.answeredBy c sc p) p.ref = some c1 from h1)
  exact ⟨c2, h2, l1.trans l2, fun rs => (k1.heldReg l2 rs).trans (k0.heldReg l1 rs)⟩

theorem Mach.answered_regs : ((loadRead cf m c sc p).2.after c.leaf sc true).regs = m.regs := by
  have k0 : (m.sans p).Keeps ((m.sans p).before c.leaf c.la.p sc true false p.asks) := Mach.before_keeps ..
  have k1 : (m.answeredBy c sc p).Keeps ((loadRead cf m c sc p).2.after c.leaf sc true) := (readLanes_keeps ..).trans (Mach.after_keeps ..)
  exact k1.regs.trans k0.regs

/-- A load whose answers are all there and accepted. -/
theorem readsAnswered_load (hp : m.fabPend.find? (fun p => p.xid == a.xid && !p.store && p.answered) = some p) (ho : p.op = none) (ha : p.atom = none)
    (hph : p.phase = .whole) (hst : p.stale = false) (hr : p.refusals = []) (hb : m.refreshWait (cf.part? ((m.teamPart p.ref.t).getD 0)) (p.asks.map Prod.snd) = none)
    (hc : ctxOf m p.ref = some c) (hw : c.f.wait = some ⟨.ld sz sc d b off, .fabric p.xid, k⟩) (hs : readsPoison (m.sans p) (cf.part? c.la.p) p.asks = false) :
    readsAnswered cf m a.xid = fabComplete cf (m.sans p) c ⟨.ld sz sc d b off, .fabric p.xid, k⟩ p := by
  have hask : (m.sans p).askerOf p = some (c, ⟨.ld sz sc d b off, .fabric p.xid, k⟩) := by
    have hc' : ctxOf (m.sans p) p.ref = some c := hc
    simp only [Mach.askerOf, hc', Option.bind_some, hw, if_true]
  have hl : loadAnswered cf (m.sans p) p = fabComplete cf (m.sans p) c ⟨.ld sz sc d b off, .fabric p.xid, k⟩ p := by
    simp only [loadAnswered, hask, hr, List.isEmpty_nil, Bool.not_true, hs, hst, Bool.false_and, Bool.false_eq_true, if_false]
  refine Eq.trans ?_ hl
  simp only [readsAnswered, hp, hph, ha, hb, ho, Option.isSome_none, Bool.false_eq_true, if_false]
  rfl

/-- A load that completes, and the copies that may stay. -/
theorem fabComplete_load : ∃ l, fabComplete cf (m.sans p) c ⟨.ld sz sc d b off, .fabric p.xid, k⟩ p =
    { ((loadRead cf m c sc p).2.after c.leaf sc true).completeWait c.f.ref (loadWrites sz d (loadRead cf m c sc p).1) (lowWords (loadRead cf m c sc p).1) with
      away := [], copies := l } := ⟨_, rfl⟩

/-- The last answer of a load completes it. -/
theorem answer_load (hM : s.m.noted a = m) (hp : m.fabPend.find? (fun p => p.xid == a.xid && !p.store && p.answered) = some p) (ho : p.op = none)
    (ha : p.atom = none) (hph : p.phase = .whole) (hst : p.stale = false) (hr : p.refusals = [])
    (hb : m.refreshWait (s.cfg.part? ((m.teamPart p.ref.t).getD 0)) (p.asks.map Prod.snd) = none) (hc : ctxOf m p.ref = some c)
    (hw : c.f.wait = some ⟨.ld sz sc d b off, .fabric p.xid, k⟩) (hs : readsPoison (m.sans p) (s.cfg.part? c.la.p) p.asks = false)
    (hh : m.heldReg c (c.phys ((loadWrites sz d (loadRead s.cfg m c sc p).1).map Prod.fst)) = false) :
    Completes (exec (.fabricAnswer a) s) (fun t =>
      t.m.regs = smSetAll 0 m.regs ((loadWrites sz d (loadRead s.cfg m c sc p).1).map (fun w => (regKey c.f.ref.t c.f.ref.g (c.f.base + w.1) w.2.1, w.2.2))) ∧
        t.m.fibre? p.ref = some (c.next (.ld sz sc d b off)) ∧ SameStores t.m ((loadRead s.cfg m c sc p).2.after c.leaf sc true)) := by
  obtain ⟨e, hce, hlike, hheld⟩ := Mach.answered_ctxOf (cf := s.cfg) (sc := sc) hc
  have hregs := Mach.answered_regs (cf := s.cfg) (m := m) (c := c) (sc := sc) (p := p)
  have href : c.f.ref = p.ref := (ctxOf_parts hc).2.2.2.2.2.2
  have hphys : ∀ rs, e.phys rs = c.phys rs := fun rs => by rw [Ctx.phys, Ctx.phys, hlike.fibre]
  obtain ⟨h1, h2, h3⟩ := Mach.completeWait_spec (w := ⟨.ld sz sc d b off, .fabric p.xid, k⟩) (ws := loadWrites sz d (loadRead s.cfg m c sc p).1)
    (lowWords (loadRead s.cfg m c sc p).1) hce (by rw [hlike.fibre]; exact hw) (by rw [hheld, hphys]; exact hh)
  rw [hlike.fibre] at h1 h2
  obtain ⟨l, hl⟩ := fabComplete_load (cf := s.cfg) (m := m) (c := c) (sc := sc) (p := p) (sz := sz) (d := d) (b := b) (k := k) (off := off)
  rw [href] at hl
  generalize ((loadRead s.cfg m c sc p).2.after c.leaf sc true).completeWait p.ref _ _ = f at h1 h2 h3 hl
  have hexec : fabricAnswer s.cfg s.m a = { f with away := [], copies := l } := by
    rw [← hl, ← readsAnswered_load (a := a) hp ho ha hph hst hr hb hc hw hs, ← hM]
    rfl
  exact ⟨_, congrArg (fun k => Host.Outcome.next (⟨s.cfg, k⟩ : State)) hexec, h2.trans (by rw [hregs]), h1, h3⟩

end

/-! ### A refused store -/

/-- Where no fibre waits for a drain, none goes on. -/
theorem Mach.endDrains_of_none (h : ∀ f ∈ m.fibres, ∀ i ws again n, f.wait ≠ some ⟨i, .drain ws again, n⟩) : m.endDrains = m := by
  have key : ∀ (l : List Fibre) (k : Mach), (∀ f ∈ l, ∀ i ws again n, f.wait ≠ some ⟨i, .drain ws again, n⟩) →
      l.foldl (fun m f => match f.wait with
        | some ⟨i, .drain ws again, since⟩ =>
          if m.bufs.any (fun e => ws.contains e.w.wid) then m
          else if again then (m.endWait f.ref).updFibre f.ref (fun f => { f with
            drained := true, fe := if (Why.drain ws again).counts i then some (m.cyc - since) else f.fe })
          else m.completeWait f.ref [] []
        | _ => m) k = k := fun l => by
    induction l with
    | nil => intros; rfl
    | cons f l ih =>
      intro k hl
      rw [List.foldl_cons]
      split
      · next i ws again since hw => exact absurd hw (hl f List.mem_cons_self i ws again since)
      · exact ih k fun f' hf' => hl f' (List.mem_cons_of_mem _ hf')
  exact key _ _ h

section
variable {p : FabPend} {a : FabAns} {num i k sub : Nat} {res : FabRes} {va : DWord} {rest : List (Nat × DWord × Nat × Nat)} {g : Group}

/-- An access with one more answer. -/
def FabPend.plus (p : FabPend) (num : Nat) (res : FabRes) : FabPend := { p with answers := p.answers ++ [(num, res)] }

/-- The last answer of a posted store that is refused: the instruction's trap pends. -/
theorem Mach.takeAnswer_refused (hp : m.fabPend = [p]) (hx : p.xid = a.xid) (hs : p.store = true) (ho : p.op = none) (hb : ∀ e ∈ m.bufs, e.w.xid ≠ a.xid)
    (hn : ∀ x ∈ p.answers, x.1 ≠ num) (hlt : num < p.asks.length) (hlen : p.answers.length + 1 = p.asks.length)
    (hr : (p.plus num res).refusals = (i, va, k, sub) :: rest) : m.takeAnswer a.xid num res =
      { m.updGroup p.ref.t p.ref.g (fun g => { g with pend := g.pend ++ [⟨k, sub, va, some (maskOf (i :: rest.map Prod.fst)), false⟩] }) with fabPend := [] } := by
  have hany : m.bufs.any (fun e => e.go == .away && e.w.xid == a.xid && e.w.num == num) = false := by
    rw [List.any_eq_false]
    intro e he
    simp [hb e he]
  have hans : p.answers.any (fun x => x.1 == num) = false := by
    rw [List.any_eq_false]
    intro x h
    simpa using hn x h
  have hnote : m.noteAnswer a.xid num res = { m with fabPend := [p.plus num res] } := by
    simp only [Mach.noteAnswer, hp, List.map_cons, List.map_nil, ← hx, hlt, hans, Bool.not_false, and_self, if_true]
    rfl
  have hfull : ((p.plus num res).store && (p.plus num res).answers.length == (p.plus num res).asks.length) = true := by
    simp [FabPend.plus, hs, hlen]
  have hop : (p.plus num res).op = none := ho
  rw [Mach.takeAnswer, hany, if_neg Bool.false_ne_true, hnote]
  simp only [Mach.storesAnswered, List.filter_cons, List.filter_nil, hfull, if_true, List.foldl_cons, List.foldl_nil, hr, hop, Bool.not_true, Bool.false_eq_true, if_false,
    List.map_cons]
  rfl

theorem answer_refused (ha : a.res = [(num, res)]) (hp : s.m.fabPend = [p]) (hx : p.xid = a.xid) (hs : p.store = true) (ho : p.op = none)
    (hb : ∀ e ∈ s.m.bufs, e.w.xid ≠ a.xid) (hn : ∀ x ∈ p.answers, x.1 ≠ num) (hlt : num < p.asks.length) (hlen : p.answers.length + 1 = p.asks.length)
    (hr : (p.plus num res).refusals = (i, va, k, sub) :: rest) (hg : s.m.group? p.ref.t p.ref.g = some g)
    (hd : ∀ f ∈ s.m.fibres, ∀ i ws again n, f.wait ≠ some ⟨i, .drain ws again, n⟩) :
    Completes (exec (.fabricAnswer a) s) (fun t => t.m.group? p.ref.t p.ref.g =
        some { g with pend := g.pend ++ [⟨k, sub, va, some (maskOf (i :: rest.map Prod.fst)), false⟩] } ∧ t.m.regs = s.m.regs ∧ t.m.fabPend = [] ∧
      SameStores t.m s.m) := by
  have ht := Mach.takeAnswer_refused hp hx hs ho hb hn hlt hlen hr
  have hexec : fabricAnswer s.cfg s.m a = s.m.takeAnswer a.xid num res := by
    rw [fabricAnswer, ha, List.foldl_cons, List.foldl_nil, Mach.endDrains_of_none (by rw [ht]; exact hd), readsAnswered, ht]
    rfl
  refine ⟨_, congrArg (fun k => Host.Outcome.next (⟨s.cfg, k⟩ : State)) (hexec.trans ht), ?_, rfl, rfl, .refl _⟩
  have h := Mach.group?_updGroup (m := s.m) (t := p.ref.t) (g := p.ref.g)
    (f := fun g => { g with pend := g.pend ++ [⟨k, sub, va, some (maskOf (i :: rest.map Prod.fst)), false⟩] }) fun _ => ⟨rfl, rfl⟩
  rw [hg] at h
  exact h

end

end Sys2Proof.Machine
end

section
/-! ## Requests, packets and tokens (O58, R50, R92, R337, R338) -/
namespace Sys2Proof.Machine

variable {m n : Mach} {s t : State} {cf : Conf}

/-! ### Delivery -/

/-- What of the machine a delivered write has no part in. -/
def Mach.unlanded (m : Mach) : Mach :=
  { m with mem := [], tags := [], scr := [], gran := [], poison := [], pcache := [], marks := [], hist := [], fabPend := [], ops := [], dev := { m.dev with ctrs := [] } }

theorem Mach.writeFlats_unlanded (m : Mach) (f : Nat) (bs : List Byte) (tag : Option KTag) : (m.writeFlats f bs tag).unlanded = m.unlanded := by
  have key : ∀ (k : Nat) (m : Mach) (f : Nat) (bs : List Byte) (tag : Option KTag), (Mach.writeFlats.go k m f bs tag).unlanded = m.unlanded := fun k => by
    induction k with
    | zero => intros; rfl
    | succ k ih =>
      intro m f bs tag
      rw [Mach.writeFlats.go]
      split
      · rfl
      · exact (ih ..).trans rfl
  unfold Mach.writeFlats
  dsimp only
  split
  · rfl
  · exact (key ..).trans rfl

theorem Mach.touchLine_unlanded (m : Mach) (p l pol : Nat) (key : Key) : (m.touchLine p l pol key).unlanded = m.unlanded := by
  unfold Mach.touchLine
  split
  · split <;> rfl
  · unfold Mach.fillLine
    dsimp only
    split <;> rfl

theorem Mach.touch_unlanded (m : Mach) (sp : Space) (a k : Nat) (tag : Option KTag) : (m.touch sp a k tag).unlanded = m.unlanded := by
  unfold Mach.touch
  split
  · split
    · exact foldl_keeps Mach.unlanded (fun m _ => m.touchLine_unlanded _ _ _ _) _ m
    · rfl
  · rfl

theorem Mach.fillGranules_unlanded (m : Mach) (u a k : Nat) (w : WKind) : (m.fillGranules u a k w).unlanded = m.unlanded := by
  cases w with
  | plain => rfl
  | stfe => exact foldl_keeps Mach.unlanded (f := fun m gr => m.setGranule u gr (true, 0xFFFF)) (fun _ _ => rfl) _ m
  | engine => exact foldl_keeps Mach.unlanded (fun _ _ => by rfl) _ m

theorem Mach.record_unlanded (m : Mach) (w : Write) : (m.record w).unlanded = m.unlanded := rfl
theorem Mach.mark_unlanded (m : Mach) (u : Nat) (w : Write) : (m.mark u w).unlanded = m.unlanded := rfl
theorem Mach.armsMet_unlanded (m : Mach) (sp : Space) (a k : Nat) : (m.armsMet sp a k).unlanded = m.unlanded := rfl
theorem Mach.clearPoison_unlanded (m : Mach) (sp : Space) (a k : Nat) : (m.clearPoison sp a k).unlanded = m.unlanded := rfl
theorem Mach.outdate_unlanded (m : Mach) (sp : Space) (a k : Nat) : (m.outdate sp a k).unlanded = m.unlanded := rfl
theorem Mach.scr_unlanded (m : Mach) (l : SMap Byte) : ({ m with scr := l } : Mach).unlanded = m.unlanded := rfl

theorem Mach.deliver_unlanded (m : Mach) (w : Write) : (m.deliver w).unlanded = m.unlanded := by
  cases hsp : w.sp with
  | scr u =>
    cases hs : w.sync <;>
      simp only [Mach.deliver, hsp, hs, Bool.false_eq_true, if_false, if_true, Mach.armsMet_unlanded, Mach.record_unlanded, Mach.mark_unlanded,
        Mach.clearPoison_unlanded, Mach.fillGranules_unlanded, Mach.scr_unlanded]
  | pkg => simp only [Mach.deliver, hsp, Mach.armsMet_unlanded, Mach.record_unlanded, Mach.touch_unlanded, Mach.clearPoison_unlanded, Mach.writeFlats_unlanded]
  | host => simp only [Mach.deliver, hsp, Mach.armsMet_unlanded, Mach.record_unlanded, Mach.touch_unlanded, Mach.clearPoison_unlanded, Mach.writeFlats_unlanded]
  | fab e p => simp only [Mach.deliver, hsp, Mach.record_unlanded, Mach.outdate_unlanded]

theorem Mach.landPacket_unlanded (m : Mach) (ws : List (Acc × List Byte)) (ctr : Option Acc) (k : Nat) : (m.landPacket ws ctr k).unlanded = m.unlanded := by
  have hw : (ws.foldl (fun m w => m.deliver ⟨0, w.1.sp, w.1.addr, w.2, .engine, w.1.tag, false, 0, 0, 0⟩) m).unlanded = m.unlanded :=
    foldl_keeps Mach.unlanded (fun m (w : Acc × List Byte) => m.deliver_unlanded ⟨0, w.1.sp, w.1.addr, w.2, .engine, w.1.tag, false, 0, 0, 0⟩) ws m
  unfold Mach.landPacket
  dsimp only
  split
  · exact (Mach.deliver_unlanded ..).trans hw
  · exact hw

/-- A team's INBOUND changes its record and the word in its allocation. -/
theorem Mach.addInbound_eq (m : Mach) (u : Option Nat) (d : Int) : (m.addInbound u d).unlanded = { m.unlanded with teams := (m.addInbound u d).teams } ∧
    (m.addInbound u d).mem = m.mem := by
  unfold Mach.addInbound
  split
  · next tm _ =>
    refine ⟨?_, ?_⟩
    · have h := (m.updTeam tm.t (fun x => { x with inbound := ((tm.inbound : Int) + d).toNat })).deliver_unlanded
        ⟨0, .scr tm.t, 0x28, leBytes 8 ((tm.inbound : Int) + d).toNat, .plain, none, false, 0, 0, 0⟩
      have ht := (congrArg Mach.teams h :)
      dsimp only at ht ⊢
      rw [h]
      exact congrArg (fun l => ({ m.unlanded with teams := l } : Mach)) ht.symm
    · have h := (m.updTeam tm.t (fun x => { x with inbound := ((tm.inbound : Int) + d).toNat })).deliver_still
        (w := ⟨0, .scr tm.t, 0x28, leBytes 8 ((tm.inbound : Int) + d).toNat, .plain, none, false, 0, 0, 0⟩) rfl
      exact (congrArg Mach.mem h :)
  · exact ⟨rfl, rfl⟩

/-! ### Requests -/

theorem request_get {r : XferReq} (h : r.get = true) : Completes (exec (.requestArrival r) s) (fun t =>
    t.m.serves = s.m.serves ++ [⟨r, [], 0, []⟩] ∧ t.m.hreqs = s.m.hreqs ∧ SameStores t.m s.m) := by
  have he : requestArrival s.cfg s.m r = { s.m with serves := s.m.serves ++ [⟨r, [], 0, []⟩] } := if_pos h
  exact ⟨_, congrArg (fun k => Host.Outcome.next (⟨s.cfg, k⟩ : State)) he, rfl, rfl, .refl _⟩

theorem request_put {r : XferReq} {a : Acc} {va : Nat} {k : Option Nat} (h : r.get = false) (hd : r.drift = none)
    (hw : winAccess s.cfg s.m r.part r.off 1 .write = (.here a va k, m)) : Completes (exec (.requestArrival r) s) (fun t =>
      t.m.hreqs = m.hreqs ++ [⟨m.destDie a, r, r.sent, [], m.fresh, 0, k, none, false, [], none⟩] ∧ t.m.net = m.net) := by
  have he : requestArrival s.cfg s.m r = m.addReq (m.destDie a) r k false := by
    simp only [requestArrival, h, hd, hw, Bool.false_eq_true, if_false]
  exact ⟨_, congrArg (fun k => Host.Outcome.next (⟨s.cfg, k⟩ : State)) he, rfl, rfl⟩

/-! ### Packets -/

theorem winAll_keeps (m : Mach) (part off k : Nat) (cls : Cls) : m.Keeps (winAll cf m part off k cls).2 := by
  unfold winAll
  refine Mach.Keeps.foldl_snd (fun r pc => ?_) (pieces off k) _ m
  obtain ⟨e, m⟩ := r
  cases e with
  | error e => exact .refl m
  | ok as =>
    have hk := winAccess_keeps (cf := cf) m part pc.1 pc.2 cls
    dsimp only
    split
    · next h => exact Mach.Keeps.of_eq h hk
    · next h => exact Mach.Keeps.of_eq h hk

theorem landing_keeps {p : Packet} (hg : p.get = false) : m.Keeps (landing cf m p).2 := by
  have hl : landing cf m p = putLanding cf m p := if_neg (by rw [hg]; decide)
  rw [hl]
  have hk := winAll_keeps (cf := cf) m p.part (p.base + p.pos) p.data.length .write
  unfold putLanding
  split
  · next h => exact Mach.Keeps.of_eq h hk
  · next h =>
    have hk := Mach.Keeps.of_eq h hk
    dsimp only
    split
    · exact hk
    · split
      · next h' => exact hk.trans (Mach.Keeps.of_eq h' (winAccess_keeps ..))
      · next h' => exact hk.trans (Mach.Keeps.of_eq h' (winAccess_keeps ..))

theorem Mach.addInbound_regs (m : Mach) (u : Option Nat) (d : Int) : (m.addInbound u d).regs = m.regs := (congrArg Mach.regs (m.addInbound_eq u d).1 :)

theorem Mach.prefixGot_regs (m : Mach) (p : Packet) (u : Option Nat) : (m.prefixGot p u).regs = m.regs := by
  unfold Mach.prefixGot
  split
  · rfl
  · dsimp only
    split
    · exact Mach.addInbound_regs ..
    · split
      · exact Mach.addInbound_regs ..
      · exact Mach.addInbound_regs ..

/-- A packet without a token that has been accounted for and kept. -/
def Mach.takenIn (m : Mach) (p : Packet) (ws : List (Acc × List Byte)) : Mach :=
  { m.prefixGot p ((ws.head?).bind (fun w => w.1.team)) with late := (m.prefixGot p ((ws.head?).bind (fun w => w.1.team))).late ++ [p] }

section
variable {p : Packet} {ws ws2 : List (Acc × List Byte)} {ctr ctr2 : Option Acc} {m2 : Mach}

/-- A packet without a token that passes its checks. -/
theorem packetArrival_taken (ht : p.token = none) (hg : p.get = false) (hl : landing cf n p = (.ok ws ctr, m))
    (hb : ((m.takenIn p ws).landable p.src p.xid false).any (fun q => (landing cf (m.takenIn p ws) q).1 == .busy) = false) :
    packetArrival cf n p = landDue cf (m.takenIn p ws) p.src p.xid false := by
  simp only [packetArrival, ht, hg, Bool.false_eq_true, if_false, takePacket, hl]
  exact if_neg (ne_true_of_eq_false hb)

/-- A packet whose turn it is lands and is acknowledged. -/
theorem packet_lands (ht : p.token = none) (hg : p.get = false) (hl : landing s.cfg s.m p = (.ok ws ctr, m)) (hland : (m.takenIn p ws).landable p.src p.xid false = [p])
    (hb : (landing s.cfg (m.takenIn p ws) p).1 ≠ .busy)
    (hl2 : landing s.cfg (({ m.takenIn p ws with late := (m.takenIn p ws).late.erase p } : Mach).passInbound p) p = (.ok ws2 ctr2, m2)) :
    Completes (exec (.packetArrival p) s) (fun t => t.m.net = m2.net ++ [.ack p.src ⟨p.xid, true, p.pos, p.data.length, .ok, 0⟩] ∧ t.m.regs = s.m.regs ∧
      SameStores t.m (m2.landPacket ws2 ctr2 p.data.length)) := by
  have hexec : packetArrival s.cfg s.m p = ((m2.landPacket ws2 ctr2 p.data.length).ackPacket p p.pos p.data.length .ok 0).tidyReqs := by
    rw [packetArrival_taken ht hg hl (by rw [hland]; simpa using hb), landDue, hland, List.foldl_cons, List.foldl_nil, landNow]
    dsimp only
    rw [hl2]
    simp only [hg, Bool.false_eq_true, if_false]
  have hu := m2.landPacket_unlanded ws2 ctr2 p.data.length
  have hpass : ∀ k : Mach, (k.passInbound p).regs = k.regs := fun k => by
    unfold Mach.passInbound
    dsimp only
    split <;> rfl
  have hr : m2.regs = s.m.regs :=
    (Mach.Keeps.of_eq hl2 (landing_keeps hg)).regs.trans ((hpass _).trans ((m.prefixGot_regs p _).trans (Mach.Keeps.of_eq hl (landing_keeps hg)).regs))
  refine ⟨_, congrArg (fun k => Host.Outcome.next (⟨s.cfg, k⟩ : State)) hexec, ?_, (congrArg Mach.regs hu :).trans hr, .refl _⟩
  exact congrArg (· ++ _) (congrArg Mach.net hu :)

/-- A packet ahead of its turn is kept. -/
theorem packet_kept (ht : p.token = none) (hg : p.get = false) (hl : landing s.cfg s.m p = (.ok ws ctr, m)) (hland : (m.takenIn p ws).landable p.src p.xid false = []) :
    Completes (exec (.packetArrival p) s) (fun t => t.m.late = (m.takenIn p ws).late ∧ t.m.net = (m.takenIn p ws).net ∧ t.m.regs = s.m.regs ∧
      SameStores t.m (m.takenIn p ws)) := by
  have hexec : packetArrival s.cfg s.m p = (m.takenIn p ws).tidyReqs := by
    rw [packetArrival_taken ht hg hl (by rw [hland]; rfl), landDue, hland, List.foldl_nil]
  refine ⟨_, congrArg (fun k => Host.Outcome.next (⟨s.cfg, k⟩ : State)) hexec, rfl, rfl, ?_, .refl _⟩
  exact (m.prefixGot_regs p _).trans (Mach.Keeps.of_eq hl (landing_keeps hg)).regs

/-- A packet under a token that is gone is acknowledged alone. -/
theorem packet_tokenless {k : Nat} (ht : p.token = some k) (hk : ∀ x ∈ s.m.tokens, x.id ≠ k) (hg : p.get = false) :
    Completes (exec (.packetArrival p) s) (fun t => t.m.net = s.m.net ++ [.ack p.src (if p.sealed = none ∧ toSaved s.cfg s.m p = true
      then ⟨p.xid, true, p.pos, p.data.length, .revoked, 0⟩ else ⟨p.xid, true, p.pos, 0, .ok, 0⟩)] ∧ SameStores t.m s.m) := by
  have hfind : s.m.tokens.find? (fun x => x.id == k) = none := List.find?_eq_none.mpr fun x hx => by simpa using hk x hx
  have hnone : s.m.tokenOf p k = none := by simp only [Mach.tokenOf, hfind]
  by_cases hs : p.sealed = none ∧ toSaved s.cfg s.m p = true
  · have he : packetArrival s.cfg s.m p = s.m.ackPacket p p.pos p.data.length .revoked 0 := by
      simp only [packetArrival, ht, hnone, hg, hs.1, hs.2, Option.isNone_none, Bool.and_self, Bool.false_eq_true, if_false, if_true]
    exact ⟨_, congrArg (fun k => Host.Outcome.next (⟨s.cfg, k⟩ : State)) he, by rw [if_pos hs]; rfl, .refl _⟩
  · have hc : (p.sealed.isNone && toSaved s.cfg s.m p) = false := by
      rw [Bool.eq_false_iff]
      intro h
      exact hs (by simpa using h)
    have he : packetArrival s.cfg s.m p = s.m.ackPacket p p.pos 0 .ok 0 := by
      simp only [packetArrival, ht, hnone, hg, hc, Bool.false_eq_true, if_false]
    exact ⟨_, congrArg (fun k => Host.Outcome.next (⟨s.cfg, k⟩ : State)) he, by rw [if_neg hs]; rfl, .refl _⟩

end

/-! ### Tokens -/

theorem HReq.take_le (h : HReq) : h.take.1.2 ≤ 4096 := by
  simp only [HReq.take]
  omega

theorem Mach.deliver_teams (m : Mach) (w : Write) : (m.deliver w).teams = m.teams := (congrArg Mach.teams (m.deliver_unlanded w) :)

/-- The counters of a request and of its team that a token changes. -/
theorem Mach.addInbound_team {k : Nat} {tm : Team} (ht : m.team? k = some tm) (d : Int) :
    ((m.addInbound (some k) d).team? k).map Team.inbound = some ((tm.inbound : Int) + d).toNat := by
  have hk : tm.t = k := by simpa using List.find?_some ht
  have hteams : (m.addInbound (some k) d).teams = m.teams.map (fun x => if x.t = tm.t then { x with inbound := ((tm.inbound : Int) + d).toNat } else x) := by
    simp only [Mach.addInbound, Option.bind_some, ht]
    exact Mach.deliver_teams ..
  have hp : ((fun x : Team => x.t == k) ∘ fun x => if x.t = tm.t then { x with inbound := ((tm.inbound : Int) + d).toNat } else x) = fun x => x.t == k := by
    funext x
    simp only [Function.comp]
    split <;> rfl
  rw [Mach.team?, hteams, List.find?_map, hp, show m.teams.find? (fun x => x.t == k) = some tm from ht]
  simp

theorem token_granted {die part : Nat} {h : HReq} (hn : (s.m.tokens.filter (fun k => k.die == die && k.part == part)).length < poolSize s.cfg die part)
    (hr : s.m.hreqs.filter (fun h => h.die == die && h.r.part == part && s.m.eligible h) = [h]) :
    Completes (exec (.tokenGrant die part) s) (fun t => t.m.tokens = s.m.tokens ++ [⟨s.m.fresh, die, part, h.order, h.take.1.1, h.take.1.2, [], false, s.m.cyc, h.team⟩] ∧
      t.m.net = s.m.net ++ [.grant h.r.src h.r.get ⟨h.r.xid, s.m.fresh, h.take.1.1, h.take.1.2⟩] ∧ h.take.1.2 ≤ 4096 ∧
      ∀ k tm, h.team = some k → s.m.team? k = some tm → (t.m.team? k).map Team.inbound = some (tm.inbound + 4096)) := by
  have hfirst : s.m.firstReq die part = some h := by
    rw [Mach.firstReq, hr]
    rfl
  refine ⟨_, rfl, ?_⟩
  simp only [tokenGrant, if_neg (Nat.not_le.mpr hn), hfirst]
  generalize hm1 : s.m.updReq h.order _ = m1
  have hu := (m1.addInbound_eq h.team 4096).1
  have htok : (m1.addInbound h.team 4096).tokens = s.m.tokens := (congrArg Mach.tokens hu :).trans (by rw [← hm1]; rfl)
  have hfresh : (m1.addInbound h.team 4096).fresh = s.m.fresh := (congrArg Mach.fresh hu :).trans (by rw [← hm1]; rfl)
  have hcyc : (m1.addInbound h.team 4096).cyc = s.m.cyc := (congrArg Mach.cyc hu :).trans (by rw [← hm1]; rfl)
  have hnet : (m1.addInbound h.team 4096).net = s.m.net := (congrArg Mach.net hu :).trans (by rw [← hm1]; rfl)
  refine ⟨?_, ?_, h.take_le, fun k tm hk ht => ?_⟩
  · simp only [Mach.count, htok, hfresh, hcyc]
  · simp only [Mach.count, hnet, hfresh]
  · have ht1 : m1.team? k = some tm := by rw [← hm1]; exact ht
    rw [hk]
    exact Mach.addInbound_team ht1 4096

/-- A token that goes takes its bytes from INBOUND, and nothing of the requests. -/
theorem Mach.dropToken_spec (m : Mach) (k : Token) : (m.dropToken k).hreqs = m.hreqs ∧ (m.dropToken k).tokens = m.tokens.filter (fun x => x.id != k.id) ∧
    (m.dropToken k).mem = m.mem := by
  obtain ⟨hu, hmem⟩ := Mach.addInbound_eq { m with tokens := m.tokens.filter (fun x => x.id != k.id) } k.team
    (-((4096 - k.received - (if k.ended then 4096 - k.len else 0) : Nat) : Int))
  exact ⟨(congrArg Mach.hreqs hu :), (congrArg Mach.tokens hu :), hmem⟩

/-- A token that is given back, and counted as expired against its request. -/
theorem token_expired {i : Nat} {k : Token} {h : HReq} (hk : s.m.tokens.find? (fun k => k.id == i) = some k) (hc : k.at_ + 65536 ≤ s.m.cyc)
    (hh : s.m.hreqs.find? (fun h => h.order == k.req) = some h) (he : h.expiries < 3) :
    Completes (exec (.tokenExpiry i) s) (fun t =>
      t.m.hreqs = s.m.hreqs.map (fun h => if h.order = k.req then { h with regrant := h.regrant ++ k.missing, expiries := h.expiries + 1 } else h) ∧
        t.m.tokens = s.m.tokens.filter (fun x => x.id != i) ∧ t.m.mem = s.m.mem) := by
  have hid : k.id = i := by simpa using List.find?_some hk
  obtain ⟨h0, htok, hmem⟩ := s.m.dropToken_spec k
  have hreqs : (((s.m.returnToken k).updReq k.req (fun h => { h with expiries := h.expiries + 1 })).count k.die 0x0C (some k.part) 1).hreqs =
      s.m.hreqs.map (fun h => if h.order = k.req then { h with regrant := h.regrant ++ k.missing, expiries := h.expiries + 1 } else h) := by
    show ((s.m.dropToken k).hreqs.map _).map _ = _
    rw [h0, List.map_map]
    refine List.map_congr_left fun x _ => ?_
    by_cases hx : x.order = k.req
    · simp [hx]
    · simp [hx]
  have hfind : (((s.m.returnToken k).updReq k.req (fun h => { h with expiries := h.expiries + 1 })).count k.die 0x0C (some k.part) 1).hreqs.find?
      (fun h => h.order == k.req) = some { h with regrant := h.regrant ++ k.missing, expiries := h.expiries + 1 } := by
    have hp : ((fun h : HReq => h.order == k.req) ∘ fun h => if h.order = k.req then { h with regrant := h.regrant ++ k.missing, expiries := h.expiries + 1 } else h) =
        fun h => h.order == k.req := by
      funext x
      simp only [Function.comp]
      split <;> rfl
    have ho : h.order = k.req := by simpa using List.find?_some hh
    rw [hreqs, List.find?_map, hp, hh, Option.map_some, if_pos ho]
  have hexec : tokenExpiry s.cfg s.m i = ((s.m.returnToken k).updReq k.req (fun h => { h with expiries := h.expiries + 1 })).count k.die 0x0C (some k.part) 1 := by
    simp only [tokenExpiry, hk, if_neg (Nat.not_lt.mpr hc), hfind]
    exact if_neg (by omega)
  refine ⟨_, congrArg (fun k => Host.Outcome.next (⟨s.cfg, k⟩ : State)) hexec, hreqs, ?_, ?_⟩
  · simp only [Mach.returnToken, Mach.count_tokens, Mach.updReq_tokens, htok, hid]
  · simp only [Mach.returnToken, Mach.count_mem, Mach.updReq_mem, hmem]

end Sys2Proof.Machine
end

section
/-! ## Transfers and invocations (O58, R337, R350, R351) -/
namespace Sys2Proof.Machine

variable {m n : Mach} {s t : State} {cf : Conf}

/-! ### The end of a send -/

theorem opCtx_op {o : Op} {oc : OpCtx} (h : opCtx m o = some oc) : oc.o = o := by
  unfold opCtx at h
  split at h
  · cases h
  · split at h
    · obtain ⟨rc, -, rfl⟩ := Option.map_eq_some_iff.mp h
      rfl
    · cases h

/-- An operation whose record is replaced and that then ends. -/
theorem ops_ended {o o' : Op} (hm : o ∈ m.ops) (hk : o'.t = o.t ∧ o'.k = o.k ∧ o'.n = o.n) :
    (∃ x ∈ ((m.setOp o').finishOk o').ops, x.t = o.t ∧ x.k = o.k ∧ x.n = o.n) ∧
      ∀ x ∈ ((m.setOp o').finishOk o').ops, x.t = o.t → x.k = o.k → x.n = o.n → x.fin = some (0, 0, 0) := by
  obtain ⟨h1, h2, h3⟩ := hk
  have hops : ((m.setOp o').finishOk o').ops = (m.ops.map (fun x => if x.t = o'.t ∧ x.k = o'.k ∧ x.n = o'.n then o' else x)).map
      (fun x => if x.t = o'.t ∧ x.k = o'.k ∧ x.n = o'.n then { x with fin := some (0, 0, 0) } else x) := rfl
  rw [hops]
  refine ⟨⟨{ o' with fin := some (0, 0, 0) }, ?_, h1, h2, h3⟩, fun x hx e1 e2 e3 => ?_⟩
  · refine List.mem_map.mpr ⟨o', List.mem_map.mpr ⟨o, hm, if_pos ⟨h1.symm, h2.symm, h3.symm⟩⟩, if_pos ⟨rfl, rfl, rfl⟩⟩
  · obtain ⟨y, -, rfl⟩ := List.mem_map.mp hx
    split
    · rfl
    · next hne =>
      rw [if_neg hne] at e1 e2 e3
      exact absurd ⟨e1.trans h1.symm, e2.trans h2.symm, e3.trans h3.symm⟩ hne

theorem ack_ends {a : XferAck} {o : Op} {oc : OpCtx} {b : List Byte} {x : Xfer} (ho : s.m.xferOp a.xid = some o) (hc : opCtx s.m o = some oc) (hb : o.cmd = .xput b)
    (hx : o.xfer = some x) (hp : a.packet = true) (hs : a.status = .ok) (hbad : x.bad = none) (hl : (descOf b).len ≤ x.acked + a.bytes)
    (hd : ∀ d ∈ s.m.driftSent, d.xid ≠ a.xid) : Completes (exec (.transferAck a) s) (fun t => Ended t o 0 0 0 ∧ SameStores t.m s.m) := by
  have hdesc : xferDesc o = some (descOf b) := by rw [xferDesc, hb]
  have hack : xferAck s.cfg s.m a = putAck s.cfg s.m oc (descOf b) x a := by
    simp only [xferAck, ho, hc, hdesc, hx, hb]
  have hput : putAck s.cfg s.m oc (descOf b) x a =
      (s.m.setOp { o with xfer := some { x with outstanding := x.outstanding - 1, acked := x.acked + a.bytes } }).finishOk
        { o with xfer := some { x with outstanding := x.outstanding - 1, acked := x.acked + a.bytes } } := by
    simp only [putAck, hp, hs, opCtx_op hc, if_true, hbad, Option.isSome_none, Bool.false_eq_true, if_false, if_pos hl]
  have hdrift : (xferAck s.cfg s.m a).driftOf a.xid = none := by
    rw [hack, hput]
    exact List.find?_eq_none.mpr fun d hm => by simp [hd d hm]
  have hexec : driftAck (xferAck s.cfg s.m a) a = xferAck s.cfg s.m a := by simp only [driftAck, hdrift]
  refine ⟨_, congrArg (fun k => Host.Outcome.next (⟨s.cfg, k⟩ : State)) (hexec.trans (hack.trans hput)), ?_, .refl _⟩
  exact ops_ended (List.mem_of_find?_eq_some ho) ⟨rfl, rfl, rfl⟩

/-! ### Invocations -/

theorem Mach.tellHome_away {dev p : Nat} {h : Handle} (hh : h.home ≠ dev) (st : HState) : m.tellHome dev p h st = { m with net := m.net ++ [.handle h.home p h st] } :=
  if_neg hh

theorem invocation_queued {i : Invocation} (hp : (s.cfg.part? i.part).isSome = true) (hi : i.parent = none) :
    Completes (exec (.invocationArrival i) s) (fun t => t.m.invq = s.m.invq ++ [⟨i, none, false, false, 0, none⟩] ∧ t.m.hents = s.m.hents ∧ SameStores t.m s.m) := by
  have hn : (s.cfg.part? i.part).isNone = false := by simpa using hp
  have he : invocationArrival s.cfg s.m i = { s.m with invq := s.m.invq ++ [⟨i, none, false, false, 0, none⟩] } := by
    simp only [invocationArrival, hn, hi, Bool.false_eq_true, if_false]
  exact ⟨_, congrArg (fun k => Host.Outcome.next (⟨s.cfg, k⟩ : State)) he, rfl, rfl, .refl _⟩

theorem invocation_breaks {i : Invocation} (hp : s.cfg.part? i.part = none) (hh : i.handle.home ≠ s.cfg.device.toNat) :
    Completes (exec (.invocationArrival i) s) (fun t => t.m.net = s.m.net ++ [.handle i.handle.home i.part i.handle (.broken 4 0)] ∧ t.m.invq = s.m.invq) := by
  have he : invocationArrival s.cfg s.m i = { s.m with net := s.m.net ++ [.handle i.handle.home i.part i.handle (.broken 4 0)] } := by
    simp only [invocationArrival, hp, Option.isNone_none, if_true, Mach.tellHome_away hh]
  exact ⟨_, congrArg (fun k => Host.Outcome.next (⟨s.cfg, k⟩ : State)) he, rfl, rfl⟩

theorem invocation_placed {part k : Nat} {q : InvQ} {pt : Part}
    (hq : s.m.invq.find? (fun q => q.inv.part == part && q.entry.isNone && (q.inv.parent.isNone || q.parentEntry.isSome)) = some q) (hp : s.cfg.part? part = some pt)
    (ht : tableOk pt = true) (hk : k < 16384) (hf : s.m.hent? part k = none) (hh : q.inv.handle.home ≠ s.cfg.device.toNat) :
    Completes (exec (.invocationPlace part k) s) (fun t =>
      t.m.hents = s.m.hents ++ [⟨part, k, s.m.hgen part k, .pending, 0, 0, true, false, q.inv.handle, none, none⟩] ∧
        { q with entry := some k, queued := q.inv.parent.isNone, order := s.m.fresh } ∈ t.m.invq ∧
        t.m.net = s.m.net ++ [.handle q.inv.handle.home part q.inv.handle (.placed s.cfg.device.toNat k)]) := by
  refine ⟨_, rfl, ?_⟩
  simp only [invocationPlace, hq, hp, ht, hf, Nat.not_le.mpr hk, decide_false, Option.isSome_none, Bool.not_true, Bool.or_false, Bool.false_eq_true, if_false,
    Mach.tellHome_away hh, true_and, and_true]
  exact List.mem_map.mpr ⟨q, List.mem_of_find?_eq_some hq, if_pos rfl⟩

theorem invocation_forwarded {part j k e' : Nat} {q : InvQ} {p : Handle} {e : HEnt} {res : List Byte}
    (hq : (s.m.invq.filter (fun q => q.inv.part == part))[j]? = some q) (hp : q.inv.parent = some p) (hk : q.parentEntry = some k) (he : s.m.hent? part k = some e)
    (heh : e.handle = p) (hst : e.st = .done res) (hen : q.entry = some e') (hqu : q.queued = false)
    (hkin : earlierKin (s.m.invq.filter (fun q => q.inv.part == part)) q = false) :
    Completes (exec (.rinvhForward part j) s) (fun t => { q with queued := true, order := s.m.fresh, inv := { q.inv with input := res } } ∈ t.m.invq ∧
      t.m.hents = s.m.hents ∧ SameStores t.m s.m) := by
  have hmem := List.mem_filter.mp (List.mem_of_getElem? hq)
  have hpart : q.inv.part = part := by simpa using hmem.2
  have hexec : rinvhForward s.cfg s.m part j = { s.m with fresh := s.m.fresh + 1, invq := s.m.invq.map (fun x =>
      if x = q then { q with queued := true, order := s.m.fresh, inv := { q.inv with input := res } } else x) } := by
    simp only [rinvhForward, hq, hp, hk, forwardResult, hpart, he, heh, ne_eq, not_true_eq_false, if_false, hst, hen, hqu, hkin, Option.isNone_some, Bool.or_false,
      Bool.false_eq_true]
  refine ⟨_, congrArg (fun k => Host.Outcome.next (⟨s.cfg, k⟩ : State)) hexec, ?_, rfl, .refl _⟩
  exact List.mem_map.mpr ⟨q, hmem.1, if_pos rfl⟩

/-! ### The statement -/

/-- Settles O58: each event is evaluated on its path, and what it calls keeps what the event does not name. -/
theorem fabricSteps : Obligations.FabricSteps := by
  intro s
  refine ⟨?_, ?_, ?_, ?_, ?_, ?_, ?_, ?_, ?_, ?_, ?_, ?_, ?_, ?_, ?_, ?_, ?_, ?_, ?_, ?_, ?_⟩
  · intro r n off va k a o m ht hw ha hx hb hp
    exact arrival_whole ht hw ha hx hb hp
  · intro r n off va k a o m ht hw ha hx hp
    exact arrival_check ht hw ha hx hp
  · intro r n va k a v ht hw hv hd hs hb hp
    exact arrival_commit ht hw hv hd hs hb hp
  · intro r ht hw
    exact arrival_drop ht hw
  · intro r n off c sub k m ht hw ha hx
    exact arrival_refused ht hw ha hx
  · intro r ht hw hs
    exact arrival_saved ht hw hs
  · intro r ht hw hf hr
    exact arrival_refusal ht hw hf hr
  · intro a M p c n sz sc d b off hM hp ho ha hph hst hr hb hc hw hs x hh
    exact answer_load hM hp ho ha hph hst hr hb hc hw hs hh
  · intro a p num i res va k sub rest g ha hp hx hs ho hb hn hlt hlen hr hg hd
    exact answer_refused ha hp hx hs ho hb hn hlt hlen hr hg hd
  · intro r h
    exact request_get h
  · intro r a va k m h hd hw
    exact request_put h hd hw
  · intro p ws ws2 ctr ctr2 m M m2 ht hg hl hM hland hb hl2
    subst hM
    exact packet_lands ht hg hl hland hb hl2
  · intro p ws ctr m M ht hg hl hM hland
    subst hM
    exact packet_kept ht hg hl hland
  · intro p n ht hk hg
    exact packet_tokenless ht hk hg
  · intro die part h hn hr
    exact token_granted hn hr
  · intro n k h hk hc hh he
    exact token_expired hk hc hh he
  · intro a o oc b x ho hc hb hx hp hs hbad hl hd
    exact ack_ends ho hc hb hx hp hs hbad hl hd
  · intro i hp hi
    exact invocation_queued hp hi
  · intro i hp hh
    exact invocation_breaks hp hh
  · intro part k q pt hq hp ht hk hf hh
    exact invocation_placed hq hp ht hk hf hh
  · intro part n k j q p e res hq hp hk he heh hst hen hqu hkin
    exact invocation_forwarded hq hp hk he heh hst hen hqu hkin

end Sys2Proof.Machine
end

section
/-! ## Full/empty loads (O29)

A remote load promotes twice: before it looks at its granules, and as it takes them (R80, R101). A synchronising write that the first promote delivers is
noted at the core point of the granule's team, and the second promote then has the writes of that team's groups leave too: other bytes of the
scratchpad change between the two. The statement has the bytes stand as the first promote left them. -/
namespace Sys2Proof.Machine
open Sys2Proof.Tests

/-- A synchronising write of team 2's core point to 0x400 of team 1's scratchpad, and a plain write of team 1's own group to 0x800. -/
def markedWrites : List BufEnt :=
  [⟨.core 2, ⟨70, .scr 1, 0x400, [1, 2, 3, 4], .plain, none, true, 0, 0, 0⟩, .rests⟩, ⟨.group 1 0, ⟨71, .scr 1, 0x800, [5], .plain, none, false, 0, 0, 0⟩, .rests⟩]

/-- The lab with one lane and those writes, the first of them noted at team 2's core point. -/
def markedLab : State :=
  let s := labF fun f => { f with pred := 1 }
  { s with m := { s.m with bufs := markedWrites, marks := [⟨2, .scr 1, 0x400, 4⟩] } }

/-- A remote full/empty load of 16 bytes at 0x400. -/
def remoteTake : Instr := .ldfe .q .rmt 116 (.v 4) 0

/-- Its requests. -/
def remoteReqs : List Req := scrReqs markedLab.m (cOf markedLab) (.v 4) 0 (sizeBytes .q)

/-- The places of its lanes. -/
def remotePlaces : List (Req × Place) := placesOf markedLab true .read true remoteReqs

/-- The machine in which it looks at its granules. -/
def promotedOnce : Mach :=
  ((machOf markedLab true .read true remoteReqs).before (cOf markedLab).leaf (cOf markedLab).la.p .rmt true false remotePlaces).pushGranules
    (cOf markedLab).leaf (granules remotePlaces)

/-- The byte at 0x800 is the group's write only after the second promote. -/
theorem remoteTake_writes : smGet 0 promotedOnce.scr (scrKey 1 0x800) = 0 ∧ smGet 0 (nextOf (exec remoteTake markedLab)).m.scr (scrKey 1 0x800) = 5 := by
  decide +kernel

/-- Refutes O29: a remote LDFE of full granules at 0x400 of a scratchpad changes the byte at 0x800. -/
theorem not_fullEmptyLoads : ¬ Obligations.FullEmptyLoads := by
  intro h
  obtain ⟨hldfe, -⟩ := h markedLab (cOf markedLab)
  obtain ⟨hfull, -⟩ := hldfe .q .rmt 116 (.v 4) 0 remotePlaces _ (issues_of (by decide +kernel)) (placed_of (by decide +kernel))
  obtain ⟨t, ht, -, hscr, -⟩ := hfull (by decide +kernel)
  have hn : nextOf (exec remoteTake markedLab) = t := by rw [show exec remoteTake markedLab = .next t from ht]; rfl
  obtain ⟨hbefore, hafter⟩ := remoteTake_writes
  rw [hn, show t.m.scr = promotedOnce.scr from hscr, hbefore] at hafter
  exact absurd hafter (by decide)

end Sys2Proof.Machine
end

section
/-! ## Drains and invalidates (O34)

A drain pushes the writes it has chosen out of the points below the scope's, leaf first (R76, R79). A write that moves goes up the chain, so no point is
filled again once it has been pushed; what is left there of the chosen writes is those to other devices that have left the device point and await their
answer (R34). -/
namespace Sys2Proof.Machine

section
variable {m n : Mach} {e x : BufEnt} {w : Write} {p q leaf : Point} {sp : Space} {a k s : Nat} {tag : Option KTag}

/-! ### The chain of points -/

theorem Mach.Near.team? (h : m.Near n) (t : Nat) : (n.team? t).map Team.plain = (m.team? t).map Team.plain := by
  have key : ∀ l : List Team, (l.find? (fun x => x.t == t)).map Team.plain = (l.map Team.plain).find? (fun x => x.t == t) := fun l => by
    rw [List.find?_map]
    rfl
  have ht : n.teams.map Team.plain = m.teams.map Team.plain := (congrArg Mach.teams h.1 :)
  rw [Mach.team?, Mach.team?, key, key, ht]

/-- Operations of the ordering machine leave the tree of points. -/
theorem Mach.Near.parent (h : m.Near n) : n.parent = m.parent := by
  funext p
  cases p with
  | core t =>
    have ht := h.team? t
    cases hm : m.team? t <;> cases hn : n.team? t <;> rw [hm, hn] at ht
    · simp [Mach.parent, hm, hn]
    · cases ht
    · cases ht
    · have hc := Option.some.inj (congrArg (Option.map Team.c) ht)
      simp only [Mach.parent, hm, hn]
      exact congrArg Point.clu hc
  | group | eng | clu | die | host | dev | sys => rfl

theorem Mach.chain_congr (h : n.parent = m.parent) : n.chain leaf = m.chain leaf := by
  have hg : ∀ k p, Mach.chain.go n k p = Mach.chain.go m k p := fun k => by
    induction k with
    | zero => exact fun _ => rfl
    | succ k ih => exact fun p => by rw [Mach.chain.go, Mach.chain.go, h, ih]
  exact hg 4 leaf

theorem Mach.Near.below (h : m.Near n) : n.below leaf s = m.below leaf s := by rw [Mach.below, Mach.below, Mach.chain_congr h.parent]

/-- A parent stands higher, but for the system point's own. -/
theorem Mach.level_parent (m : Mach) (hp : p ≠ .sys) : Point.level p < Point.level (m.parent p) := by
  cases p with
  | core t =>
    rw [Mach.parent]
    cases m.team? t <;> simp [Point.level]
  | sys => exact absurd rfl hp
  | group | eng | clu | die | host | dev => simp [Mach.parent, Point.level]

theorem Mach.level_le_parent (m : Mach) (p : Point) : Point.level p ≤ Point.level (m.parent p) := by
  by_cases hp : p = .sys
  · subst hp
    exact le_rfl
  · exact (m.level_parent hp).le

/-- No later point of a chain has an earlier one as its parent. -/
def Mach.Rises (m : Mach) (ps : List Point) : Prop := ps.Pairwise (fun p q => m.parent q ≠ p)

theorem Mach.chain_rises (m : Mach) (leaf : Point) : m.Rises (m.chain leaf) := by
  have key : ∀ k p, (∀ q ∈ Mach.chain.go m k p, Point.level p ≤ Point.level q) ∧ m.Rises (Mach.chain.go m k p) := fun k => by
    induction k with
    | zero => simp [Mach.chain.go, Mach.Rises]
    | succ k ih =>
      intro p
      rw [Mach.chain.go]
      split
      · simp [Mach.Rises]
      · next hp =>
        obtain ⟨hle, hr⟩ := ih (m.parent p)
        have hlt := m.level_parent hp
        refine ⟨fun q hq => ?_, List.pairwise_cons.mpr ⟨fun q hq he => ?_, hr⟩⟩
        · rcases List.mem_cons.mp hq with rfl | hq
          · exact le_rfl
          · exact hlt.le.trans (hle q hq)
        · have h1 := hle q hq
          have h2 := m.level_le_parent q
          rw [he] at h2
          omega
  exact (key 4 leaf).2

theorem Mach.below_rises (m : Mach) (leaf : Point) (s : Nat) : m.Rises (m.below leaf s) := (m.chain_rises leaf).sublist (List.takeWhile_sublist _)

/-- Only the system point has another device's home above it. -/
theorem Mach.holds_fab (hf : isFab sp = true) : m.holds p sp = true ↔ p = .sys := by
  cases sp with
  | fab => simp [Mach.holds]
  | scr | pkg | host => cases hf

/-! ### What a delivery leaves of buffers and copies -/

/-- Where a copy stands, and of what. -/
def Copy.place (k : Copy) : Point × Space × Nat := (k.pt, k.sp, k.unit)

/-- The writes on their way, and the places of the copies. -/
def Mach.transit (m : Mach) : List BufEnt × List (Point × Space × Nat) := (m.bufs, m.copies.map Copy.place)

theorem Mach.fillGranules_transit (m : Mach) (t a k : Nat) (w : WKind) : (m.fillGranules t a k w).transit = m.transit := by
  cases w with
  | plain => rfl
  | stfe => exact foldl_keeps Mach.transit (f := fun m gr => m.setGranule t gr (true, 0xFFFF)) (fun _ _ => rfl) _ m
  | engine => exact foldl_keeps Mach.transit (fun _ _ => by rfl) _ m

theorem Mach.touch_transit (m : Mach) (sp : Space) (a k : Nat) (tag : Option KTag) : (m.touch sp a k tag).transit = m.transit := by
  have hline : ∀ (m : Mach) part line pol key, (m.touchLine part line pol key).transit = m.transit := fun m part line pol key => by
    unfold Mach.touchLine Mach.fillLine
    split
    · split <;> rfl
    · dsimp only
      split <;> rfl
  unfold Mach.touch
  split
  · split
    · exact foldl_keeps Mach.transit (fun _ _ => hline ..) _ m
    · rfl
  · rfl

theorem Mach.writeFlats_transit (m : Mach) (f : Nat) (bs : List Byte) (tag : Option KTag) : (m.writeFlats f bs tag).transit = m.transit := by
  have hgo : ∀ k (m : Mach) f bs tag, (Mach.writeFlats.go k m f bs tag).transit = m.transit := fun k => by
    induction k with
    | zero => exact fun _ _ _ _ => rfl
    | succ k ih =>
      intro m f bs tag
      unfold Mach.writeFlats.go
      split
      · rfl
      · exact ih ..
  unfold Mach.writeFlats
  split
  · rfl
  · exact hgo ..

theorem Mach.clearPoison_transit (m : Mach) (sp : Space) (a k : Nat) : (m.clearPoison sp a k).transit = m.transit := rfl
theorem Mach.record_transit (m : Mach) (w : Write) : (m.record w).transit = m.transit := rfl
theorem Mach.mark_transit (m : Mach) (t : Nat) (w : Write) : (m.mark t w).transit = m.transit := rfl
theorem Mach.armsMet_transit (m : Mach) (sp : Space) (a k : Nat) : (m.armsMet sp a k).transit = m.transit := rfl
theorem Mach.outdate_transit (m : Mach) (sp : Space) (a k : Nat) : (m.outdate sp a k).transit = m.transit := rfl

theorem Mach.deliver_transit (m : Mach) (w : Write) : (m.deliver w).transit = m.transit := by
  unfold Mach.deliver
  split
  · rw [Mach.armsMet_transit, Mach.record_transit, apply_ite Mach.transit, Mach.mark_transit, ite_self, Mach.clearPoison_transit, Mach.fillGranules_transit]
    rfl
  · rw [Mach.outdate_transit, Mach.record_transit]
  · rw [Mach.armsMet_transit, Mach.record_transit, Mach.touch_transit, Mach.clearPoison_transit, Mach.writeFlats_transit]

theorem Mach.uncopy_transit (m : Mach) (p : Point) (sp : Space) (a k : Nat) : (m.uncopy p sp a k).transit = m.transit := by
  refine congrArg (m.bufs, ·) ?_
  show (m.copies.map _).map _ = _
  rw [List.map_map]
  refine List.map_congr_left fun c _ => ?_
  simp only [Function.comp]
  split <;> rfl

theorem Mach.opRefused_transit (m : Mach) (t : Nat) (k : EngCtx) (j sub : Nat) (addr : DWord) : (m.opRefused t k j sub addr).transit = m.transit := by
  unfold Mach.opRefused
  dsimp only
  split
  · rfl
  · split
    · rfl
    · exact Mach.deliver_transit ..

theorem Mach.storesAnswered_transit (m : Mach) : m.storesAnswered.transit = m.transit := by
  unfold Mach.storesAnswered
  dsimp only
  change Mach.transit (List.foldl _ m _) = _
  refine foldl_keeps Mach.transit (fun m p => ?_) _ m
  split
  · rfl
  · rfl
  · exact Mach.opRefused_transit ..
  · rfl

/-! ### One move -/

/-- A write to another device that has left the device point and awaits its answer. -/
def BufEnt.left (par : Point → Point) (e : BufEnt) : Prop := isFab e.w.sp = true ∧ par e.pt = .sys ∧ e.go ≠ .rests

/-- An entry that goes by another way. -/
def BufEnt.going (e : BufEnt) (g : Going) (x : BufEnt) : BufEnt := if x = e then { x with go := g } else x

/-- What a write to another device makes of the buffers as it is sent: it stays as it is, goes, or is refused there and then. -/
theorem Mach.sendAway_transit (m : Mach) (hf : isFab e.w.sp = true) : (m.sendAway e).transit.2 = m.transit.2 ∧
    ((e.go ≠ .rests ∧ (m.sendAway e).bufs = m.bufs) ∨ (∃ g, g ≠ .rests ∧ (m.sendAway e).bufs = m.bufs.map (e.going g)) ∨ (m.sendAway e).bufs = m.bufs.erase e) := by
  have hcut := Mach.storesAnswered_transit (({ m with bufs := m.bufs.erase e } : Mach).noteAnswer e.w.xid e.w.num (.refused 4 4))
  unfold Mach.sendAway
  dsimp only
  split
  · next hgo => exact ⟨rfl, .inl ⟨by simp [hgo], rfl⟩⟩
  · split
    · exact ⟨rfl, .inr (.inl ⟨.leaves, by decide, rfl⟩)⟩
    · split
      · exact ⟨(congrArg Prod.snd hcut :), .inr (.inr (congrArg Prod.fst hcut :))⟩
      · exact ⟨rfl, .inr (.inl ⟨.away, by decide, rfl⟩)⟩
  · next hsp => exact absurd hf (by cases h : e.w.sp <;> simp_all [isFab])

/-- A write that moves leaves its point, for the parent where the home is not reached there; one to another device may stay, and has left then. -/
theorem Mach.moveUp_transit (m : Mach) (e : BufEnt) : (m.moveUp e).transit.2 = m.transit.2 ∧
    ((m.moveUp e).bufs = m.bufs.erase e ∨ (m.parent e.pt ≠ .sys ∧ (m.moveUp e).bufs = m.bufs.erase e ++ [{ e with pt := m.parent e.pt }]) ∨
      (isFab e.w.sp = true ∧ m.parent e.pt = .sys ∧
        ((e.go ≠ .rests ∧ (m.moveUp e).bufs = m.bufs) ∨ ∃ g, g ≠ .rests ∧ (m.moveUp e).bufs = m.bufs.map (e.going g)))) := by
  have hun := Mach.uncopy_transit { m with bufs := m.bufs.erase e } e.pt e.w.sp e.w.addr e.w.bytes.length
  unfold Mach.moveUp
  dsimp only
  split
  · next hh hsp =>
    have hf : isFab e.w.sp = true := by rw [hsp]; rfl
    rw [hsp] at hh
    obtain ⟨hc, hb⟩ := m.sendAway_transit hf
    refine ⟨hc, ?_⟩
    rcases hb with hb | hb | hb
    · exact .inr (.inr ⟨hf, (Mach.holds_fab rfl).mp hh, .inl hb⟩)
    · exact .inr (.inr ⟨hf, (Mach.holds_fab rfl).mp hh, .inr hb⟩)
    · exact .inl hb
  · have ht := (Mach.deliver_transit _ e.w).trans hun
    exact ⟨(congrArg Prod.snd ht :), .inl (congrArg Prod.fst ht :)⟩
  · next hh =>
    refine ⟨(congrArg Prod.snd hun :), .inr (.inl ⟨fun hs => ?_, rfl⟩)⟩
    rw [hs] at hh
    cases hsp : e.w.sp <;> simp [Mach.holds, hsp] at hh

/-! ### A point is pushed -/

/-- Of an entry at the point that has not left for another device, a move takes one away where it moves that one. -/
theorem Mach.moveUp_count (m : Mach) (hx : x.pt = e.pt) (hl : ¬x.left m.parent) : (m.moveUp e).bufs.count x ≤ (m.bufs.erase e).count x := by
  obtain ⟨-, hb | ⟨hs, hb⟩ | ⟨hf, hs, ⟨hgo, hb⟩ | ⟨g, hg, hb⟩⟩⟩ := m.moveUp_transit e
  · rw [hb]
  · have hne : (m.parent e.pt) ≠ e.pt := fun h => by
      have hlt := m.level_parent (p := e.pt) fun hp => hs (by rw [hp]; rfl)
      rw [h] at hlt
      exact absurd hlt (lt_irrefl _)
    have hx' : ({ e with pt := m.parent e.pt } : BufEnt) ≠ x := fun h => hne ((congrArg BufEnt.pt h).trans hx)
    rw [hb, List.count_append, List.count_singleton, if_neg (by simpa using hx'), Nat.add_zero]
  · have hne : x ≠ e := fun h => hl (h ▸ ⟨hf, hs, hgo⟩)
    rw [hb, List.count_erase_of_ne hne]
  · have hgoing : ∀ y, e.going g y = x → y = x ∧ y ≠ e := fun y hy => by
      unfold BufEnt.going at hy
      split at hy
      · next h =>
        subst h
        subst hy
        exact absurd ⟨hf, hs, hg⟩ hl
      · next h => exact ⟨hy, h⟩
    have hcount : (m.bufs.map (e.going g)).count x ≤ m.bufs.countP (fun y => y == x && y != e) := by
      rw [List.count, List.countP_map]
      refine List.countP_mono_left fun y _ hy => ?_
      simpa using hgoing y (by simpa using hy)
    rw [hb]
    refine hcount.trans ?_
    by_cases hxe : x = e
    · subst hxe
      have h0 : m.bufs.countP (fun y => y == x && y != x) = 0 := List.countP_eq_zero.mpr fun y _ => by simp
      omega
    · rw [List.count_erase_of_ne hxe, List.count]
      exact List.countP_mono_left fun y _ hy => (Bool.and_eq_true .. ▸ hy).1

/-- After the moves of some entries of a point, those of an entry that had not left are gone from it. -/
theorem Mach.moves_count : ∀ (l : List BufEnt) (m : Mach), (∀ e ∈ l, e.pt = x.pt) → ¬x.left m.parent →
    (l.foldl Mach.moveUp m).bufs.count x + l.count x ≤ max (m.bufs.count x) (l.count x)
  | [], m, _, _ => by simp
  | e :: l, m, hp, hl => by
    have hpar := (m.moveUp_near e).parent
    have ih := Mach.moves_count l (m.moveUp e) (fun y hy => hp y (List.mem_cons_of_mem _ hy)) (hpar.symm ▸ hl)
    have h1 := m.moveUp_count (hp e List.mem_cons_self).symm hl
    rw [List.count_erase] at h1
    rw [List.foldl_cons, List.count_cons]
    split at h1 <;> simp_all <;> omega

/-- Where an entry comes from as a point is pushed: one of the same write stood where it stands, or at the point pushed, whose parent it now is at. -/
def BufEnt.From (m : Mach) (p : Point) (x : BufEnt) : Prop :=
  ∃ y ∈ m.bufs, y.w = x.w ∧ ((y.pt = x.pt ∧ (y.left m.parent → x.left m.parent)) ∨ (y.pt = p ∧ x.pt = m.parent p))

/-- The moves of entries of a point bring no entry from elsewhere. -/
theorem Mach.moves_from : ∀ (l : List BufEnt) (n : Mach), n.parent = m.parent → (∀ e ∈ l, e ∈ m.bufs ∧ e.pt = p) → (∀ x ∈ n.bufs, x.From m p) →
    ∀ x ∈ (l.foldl Mach.moveUp n).bufs, x.From m p
  | [], _, _, _, hn => hn
  | e :: l, n, hpar, hl, hn => by
    obtain ⟨he, hep⟩ := hl e List.mem_cons_self
    refine Mach.moves_from l _ ((n.moveUp_near e).parent.trans hpar) (fun y hy => hl y (List.mem_cons_of_mem _ hy)) fun x hx => ?_
    obtain ⟨-, hb | ⟨-, hb⟩ | ⟨hf, hs, ⟨-, hb⟩ | ⟨g, hg, hb⟩⟩⟩ := n.moveUp_transit e
    · exact hn x (List.mem_of_mem_erase (hb ▸ hx))
    · rcases List.mem_append.mp (hb ▸ hx) with hx | hx
      · exact hn x (List.mem_of_mem_erase hx)
      · rw [List.mem_singleton] at hx
        subst hx
        exact ⟨e, he, rfl, .inr ⟨hep, by rw [hpar, hep]⟩⟩
    · exact hn x (hb ▸ hx)
    · obtain ⟨y, hy, rfl⟩ := List.mem_map.mp (hb ▸ hx)
      obtain ⟨z, hz, hw, hzp⟩ := hn y hy
      have hkeep : (e.going g y).w = y.w ∧ (e.going g y).pt = y.pt ∧ (y.left m.parent → (e.going g y).left m.parent) := by
        unfold BufEnt.going
        split
        · exact ⟨rfl, rfl, fun ⟨h1, h2, _⟩ => ⟨h1, h2, hg⟩⟩
        · exact ⟨rfl, rfl, id⟩
      obtain ⟨h1, h2, h3⟩ := hkeep
      refine ⟨z, hz, hw.trans h1.symm, ?_⟩
      rw [h2]
      exact hzp.imp (fun h => ⟨h.1, h3 ∘ h.2⟩) id

/-- What must leave is part of what stands at the point, and all that is chosen must. -/
theorem needed_sublist (sel : Nat → Bool) : ∀ l : List BufEnt, (needed sel l).Sublist l
  | [] => .refl _
  | e :: l => by
    rw [needed]
    split
    · exact (needed_sublist sel l).cons_cons e
    · exact (needed_sublist sel l).cons e

theorem count_needed {sel : Nat → Bool} (hx : sel x.w.wid = true) : ∀ l : List BufEnt, (needed sel l).count x = l.count x
  | [] => rfl
  | e :: l => by
    rw [needed]
    split
    · rw [List.count_cons, List.count_cons, count_needed hx l]
    · next h =>
      have hne : e ≠ x := fun he => h (by rw [he, hx]; rfl)
      rw [List.count_cons, count_needed hx l, if_neg (by simpa using hne), Nat.add_zero]

/-- The chosen writes leave one point. -/
def Mach.pushAt (m : Mach) (sel : Nat → Bool) (p : Point) : Mach := (needed sel (m.bufs.filter (fun e => e.pt == p))).foldl Mach.moveUp m

theorem Mach.push_cons (m : Mach) (ps : List Point) (sel : Nat → Bool) : m.push (p :: ps) sel = (m.pushAt sel p).push ps sel := rfl

theorem Mach.pushAt_near (m : Mach) (sel : Nat → Bool) (p : Point) : m.Near (m.pushAt sel p) := Mach.Near.foldl _ Mach.moveUp_near _ m

theorem Mach.pushAt_mem (m : Mach) (sel : Nat → Bool) : ∀ e ∈ needed sel (m.bufs.filter (fun e => e.pt == p)), e ∈ m.bufs ∧ e.pt = p := fun e he => by
  obtain ⟨h1, h2⟩ := List.mem_filter.mp ((needed_sublist sel _).subset he)
  exact ⟨h1, by simpa using h2⟩

theorem Mach.pushAt_from (m : Mach) (sel : Nat → Bool) (h : x ∈ (m.pushAt sel p).bufs) : x.From m p :=
  Mach.moves_from _ m rfl (m.pushAt_mem sel) (fun y hy => ⟨y, hy, rfl, .inl ⟨rfl, id⟩⟩) x h

/-- A chosen write that still stands at the point pushed has left for another device. -/
theorem Mach.pushAt_left (m : Mach) {sel : Nat → Bool} (h : x ∈ (m.pushAt sel p).bufs) (hp : x.pt = p) (hs : x ∈ m.bufs → sel x.w.wid = true) :
    x.left m.parent := by
  by_contra hl
  have hc := Mach.moves_count (needed sel (m.bufs.filter (fun e => e.pt == p))) m (fun e he => (m.pushAt_mem sel e he).2.trans hp.symm) hl
  have hpos : 0 < (m.pushAt sel p).bufs.count x := List.count_pos_iff.mpr h
  have hle := (needed_sublist sel (m.bufs.filter (fun e => e.pt == p))).count_le x
  have hf : (m.bufs.filter (fun e => e.pt == p)).count x = m.bufs.count x := List.count_filter (by simpa using hp)
  rw [hf] at hle
  rw [show (needed sel (m.bufs.filter (fun e => e.pt == p))).foldl Mach.moveUp m = m.pushAt sel p from rfl] at hc
  by_cases hm : x ∈ m.bufs
  · rw [count_needed (hs hm), hf] at hc
    omega
  · have h0 : m.bufs.count x = 0 := List.count_eq_zero.mpr hm
    omega

/-! ### A list of points is pushed -/

/-- Every write of a kind that stands at some points has left for another device. -/
def Mach.Cleared (m : Mach) (hit : Write → Prop) (ps : List Point) : Prop := ∀ x ∈ m.bufs, x.pt ∈ ps → hit x.w → x.left m.parent

/-- Pushing points of a chain, leaf first, clears them of the writes that were chosen. -/
theorem Mach.push_cleared {hit : Write → Prop} {sel : Nat → Bool} : ∀ (ps ds : List Point) (m : Mach), m.Rises (ds ++ ps) → m.Cleared hit ds →
    (∀ x ∈ m.bufs, x.pt ∈ ps → hit x.w → sel x.w.wid = true) → (m.push ps sel).Cleared hit (ds ++ ps)
  | [], ds, m, _, hd, _ => by rwa [List.append_nil]
  | p :: ps, ds, m, hr, hd, hs => by
    have hpar := (m.pushAt_near sel p).parent
    rw [Mach.push_cons, List.append_cons]
    refine Mach.push_cleared ps (ds ++ [p]) (m.pushAt sel p) ?_ ?_ ?_
    · rw [Mach.Rises, hpar, ← List.append_cons]
      exact hr
    · intro x hx hp hh
      rw [hpar]
      rcases List.mem_append.mp hp with hd' | hp
      · obtain ⟨y, hy, hw, ⟨hyp, hyl⟩ | ⟨-, hxp⟩⟩ := m.pushAt_from sel hx
        · exact hyl (hd y hy (hyp ▸ hd') (hw ▸ hh))
        · exact absurd hxp.symm ((List.pairwise_append.mp hr).2.2 x.pt hd' p List.mem_cons_self)
      · have hp := List.mem_singleton.mp hp
        exact m.pushAt_left hx hp fun hm => hs x hm (hp ▸ List.mem_cons_self) hh
    · intro x hx hp hh
      obtain ⟨y, hy, hw, ⟨hyp, -⟩ | ⟨hyp, -⟩⟩ := m.pushAt_from sel hx
      · exact hw ▸ hs y hy (hyp ▸ List.mem_cons_of_mem _ hp) (hw ▸ hh)
      · exact hw ▸ hs y hy (hyp ▸ List.mem_cons_self) (hw ▸ hh)

theorem Mach.push_transit (m : Mach) (ps : List Point) (sel : Nat → Bool) : (m.push ps sel).transit.2 = m.transit.2 :=
  foldl_keeps (fun m : Mach => m.transit.2) (fun m _ => foldl_keeps (fun m : Mach => m.transit.2) (fun m e => (m.moveUp_transit e).1) _ m) ps m

/-- Pushing the writes of a kind out of the points below a scope's clears those points of them. -/
theorem Mach.push_below {hit : Write → Prop} {sel : Nat → Bool} (h : ∀ x ∈ m.bufs, x.pt ∈ m.below leaf s → hit x.w → sel x.w.wid = true) :
    ∀ x ∈ (m.push (m.below leaf s) sel).bufs, x.pt ∈ m.below leaf s → hit x.w → x.left m.parent := by
  have hc := Mach.push_cleared (m.below leaf s) [] m (m.below_rises leaf s) (fun _ _ h => nomatch h) h
  rwa [Mach.Cleared, (m.push_near ..).parent] at hc

/-! ### The drain and the invalidate -/

theorem Mach.drain_clears : ∀ x ∈ (m.drain leaf s).bufs, x.pt ∈ m.below leaf s → x.left m.parent := fun x hx hp =>
  Mach.push_below (hit := fun _ => True) (fun y hy hyp _ => by
    rw [List.contains_iff_mem, Mach.widsAt]
    exact List.mem_map_of_mem (List.mem_filter.mpr ⟨hy, List.contains_iff_mem.mpr hyp⟩)) x hx hp trivial

theorem Mach.drainRange_clears : ∀ x ∈ (m.drainRange leaf s sp a k).bufs, x.pt ∈ m.below leaf s → x.w.hits sp a k = true → x.left m.parent :=
  Mach.push_below (hit := fun w => w.hits sp a k = true) fun y hy hyp hh => by
    rw [List.contains_iff_mem, Mach.widsTo]
    exact List.mem_map_of_mem (List.mem_filter.mpr ⟨hy, by rw [hh, Bool.and_true]; exact List.contains_iff_mem.mpr hyp⟩)

/-- A drain makes no copy. -/
theorem Mach.drain_copies : ∀ c ∈ (m.drain leaf s).copies, ∃ c' ∈ m.copies, c.place = c'.place := fun c hc => by
  have hp : (m.drain leaf s).copies.map Copy.place = m.copies.map Copy.place := m.push_transit ..
  obtain ⟨c', hc', he⟩ := List.mem_map.mp (hp ▸ List.mem_map_of_mem hc : c.place ∈ m.copies.map Copy.place)
  exact ⟨c', hc', he.symm⟩

theorem Mach.mem_invalidate_copies (c : Copy) : c ∈ (m.invalidate leaf s).copies ↔ c ∈ m.copies ∧ c.pt ∉ m.below leaf s := by
  show c ∈ m.copies.filter _ ↔ _
  simp

theorem Mach.mem_invalidate_blocks (b : Block) : b ∈ (m.invalidate leaf s).blocks ↔ b ∈ m.blocks ∧ b.pt ∉ m.below leaf s := by
  show b ∈ m.blocks.filter _ ↔ _
  simp

end

/-- Settles O34: a drain clears the points below the scope's one after another, and an invalidate is a filter of what stands there. -/
theorem releaseAndAcquire : Obligations.ReleaseAndAcquire := by
  intro m leaf s sent
  refine ⟨Mach.drain_clears, (m.drain_near ..).keeps.regs, Mach.drain_copies, Mach.mem_invalidate_copies, Mach.mem_invalidate_blocks, rfl, rfl, Mach.drain_clears, ?_,
    fun sp a n => ⟨Mach.drainRange_clears, ?_, ?_⟩⟩
  · intro c hc
    rw [← (m.drain_near leaf s).below]
    exact ((Mach.mem_invalidate_copies c).mp hc).2
  · intro c hc hp hsp
    have h := (List.mem_filter.mp hc).2
    simpa [hp, hsp] using h
  · intro b hb hp
    have h := (List.mem_filter.mp hb).2
    simpa [hp] using h

end Sys2Proof.Machine
end

section
/-! ## Special registers (O40)

SRD gives every lane one value read from the record of the fibre, its group, team, cluster and launch, or from the machine; SWR and TMSHP change one field
of the group, or the threshold of a region (R297, R298). A value SWR's register does not take has raised ILLEGAL at the gate. -/
namespace Sys2Proof.Machine

section
variable {s : State} {i : Instr} {c : Ctx} {b m : Mach} {g : Group}

/-! ### What completes at once on a changed machine -/

/-- A latch that is given no value takes zero in every lane, as one given zeros does (R221). -/
theorem Mach.setLatch_nil (m : Mach) (r : FRef) (k : Nat) (p : Word) (ls : List Nat) :
    m.setLatch r k p (ls.map (fun j => (j, noFlags j))) = m.setLatch r k p [] := by
  have zero : ∀ l : List Nat, ∀ i, (((l.map (fun j => (j, noFlags j))).find? (fun v => v.1 == i)).map Prod.snd).getD 0 = 0 := fun l i => by
    induction l with
    | nil => rfl
    | cons x xs ih => by_cases h : x = i <;> simp_all [noFlags]
  simp only [Mach.setLatch, zero, List.find?_nil, Option.map_none, Option.getD_none]

/-- An entry that answers `done` with no value for its latch has changed the machine and nothing of registers. -/
theorem settle_does (he : endsRun i = false) (hf : m.fibre? c.f.ref = some c.f) (hp : Mach.Put b m c g []) :
    Does s ⟨s.cfg, Mach.settle s.cfg c i (.done m [] .seq)⟩ c i b g := by
  have key : Mach.settle s.cfg c i (.done m [] .seq) = Mach.settle s.cfg c i (.done m (c.lanes.map (fun j => (j, noFlags j))) .seq) := by
    simp only [Mach.settle, Mach.setLatch_nil]
  have := settle_done (s := s) (i := i) hf hp noFlags .seq
  simp only [Go.pc, Go.ends, he] at this
  rw [key]
  exact this

/-- A machine with the records of fibres and groups of the one an instruction is issued on. -/
theorem Mach.put_of_records (h : m.issuer = some c) (hf : b.fibres = m.fibres) (hg : b.groups = m.groups) :
    b.fibre? c.f.ref = some c.f ∧ Mach.Put b b c c.g [] :=
  ⟨by rw [← Mach.issuer_fibre h]; simp [Mach.fibre?, hf], Mach.put_self (by rw [← Mach.issuer_group h]; simp [Mach.group?, hg])⟩

/-- An instruction that changes a machine's stores and tables, but no record of a fibre or a group. -/
theorem issue_does (h : s.m.issuer = some c) (he : endsRun i = false) (hf : b.fibres = s.m.fibres) (hg : b.groups = s.m.groups) :
    Does s ⟨s.cfg, Mach.settle s.cfg c i (.done b [] .seq)⟩ c i b c.g :=
  settle_does he (Mach.put_of_records h hf hg).1 (Mach.put_of_records h hf hg).2

/-- An instruction that changes its group's record, all but the cycle from which the group is ready. -/
theorem issue_doesGroup (h : s.m.issuer = some c) (he : endsRun i = false) (f : Group → Group) (hf : ∀ x, (f x).t = x.t ∧ (f x).g = x.g)
    (ht : ∀ x y : Group, x.timeless = y.timeless → (f x).timeless = (f y).timeless) :
    Does s ⟨s.cfg, Mach.settle s.cfg c i (.done (s.m.updGroup c.f.ref.t c.f.ref.g f) [] .seq)⟩ c i s.m (f c.g) :=
  settle_does he ((Mach.issuer_fibre h :)) ((Mach.put_none h).updGroup f hf ht)

/-- One word per lane on a machine whose records of fibres and groups are as they were. -/
theorem issue_nowWord (h : s.m.issuer = some c) (he : endsRun i = false) (hf : b.fibres = s.m.fibres) (hg : b.groups = s.m.groups) (d : Dst)
    (val : Nat → Word) : NowWord s ⟨s.cfg, Mach.settle s.cfg c i (laneWord b c d val)⟩ c i d b val := by
  obtain ⟨fib, put⟩ := Mach.put_of_records h hf hg
  have := settle_done (s := s) (i := i) (m := b.wrRegs c (dstWrites d (c.lanes.map (fun j => (j, val j))))) fib (put.wrRegs _) val .seq
  simp only [Go.pc, Go.ends, he] at this
  exact this

/-! ### SRD -/

/-- A special register with no effect on its read: every lane takes its value. -/
theorem srd_writes {d : Dst} {n k : Nat} {w : Word} (h : Issues s (.srd d n) c) (h0 : n ≠ 0) (h12 : n ≠ 0x12) (hk : readSpecial s.cfg s.m c n = (k, s.m))
    (hw : BitVec.ofNat 32 k = w) : Completes (exec (.srd d n) s) (fun t => WritesWord s t c (.srd d n) d (fun _ => w) noFlags) := by
  refine ⟨_, issue_pass h _, ?_⟩
  simp only [h0, h12, if_false, hk, hw]
  exact issue_laneWord h rfl d _

/-- A special register whose read changes the machine, but no record of a fibre or a group. -/
theorem srd_now {d : Dst} {n k : Nat} {b : Mach} (h : Issues s (.srd d n) c) (h0 : n ≠ 0) (h12 : n ≠ 0x12) (hk : readSpecial s.cfg s.m c n = (k, b))
    (hf : b.fibres = s.m.fibres) (hg : b.groups = s.m.groups) :
    Completes (exec (.srd d n) s) (fun t => NowWord s t c (.srd d n) d b (fun _ => BitVec.ofNat 32 k)) := by
  refine ⟨_, issue_pass h _, ?_⟩
  simp only [h0, h12, if_false, hk]
  exact issue_nowWord h.1 rfl hf hg d _

/-- LANEID. -/
theorem srd_laneId {d : Dst} (h : Issues s (.srd d 0) c) :
    Completes (exec (.srd d 0) s) (fun t => WritesWord s t c (.srd d 0) d (fun j => BitVec.ofNat 32 j) noFlags) :=
  ⟨_, issue_pass h _, issue_laneWord h rfl d _⟩

/-- TRAPADDR. -/
theorem srd_trapAddr {d : Dst} (h : Issues s (.srd d 0x12) c) :
    Completes (exec (.srd d 0x12) s) (fun t => WritesPair s t c (.srd d 0x12) d (fun _ => c.g.trapAddr)) :=
  ⟨_, issue_pass h _, issue_lanePair h rfl d _⟩

theorem readSpecial_region (cf : Conf) (m : Mach) (c : Ctx) {n : Nat} (hn : 0x80 ≤ n) :
    readSpecial cf m c n = m.readRegionReg c.la.p c.la.x ((n - 0x80) / 8) (n % 8) := by
  unfold readSpecial
  split
  iterate 17 (· omega)
  exact if_pos hn

/-- Reading a region's register takes a snapshot at most. -/
theorem Mach.readRegionReg_records (m : Mach) (p x j k : Nat) :
    (m.readRegionReg p x j k).2.fibres = m.fibres ∧ (m.readRegionReg p x j k).2.groups = m.groups := by
  unfold Mach.readRegionReg
  split
  · exact ⟨rfl, rfl⟩
  · split <;> exact ⟨rfl, rfl⟩

/-- The low word of the cycle counter is the counter cut to a word. -/
theorem ofNat_low_word (n : Nat) : BitVec.ofNat 32 (n % 2 ^ 32) = BitVec.ofNat 32 n := by
  apply BitVec.eq_of_toNat_eq
  simp

/-! ### SWR and TMSHP -/

theorem Mach.normCheck_records (m : Mach) (r : Nat) : (m.normCheck r).fibres = m.fibres ∧ (m.normCheck r).groups = m.groups := by
  unfold Mach.normCheck
  split
  · exact ⟨rfl, rfl⟩
  · split <;> exact ⟨rfl, rfl⟩

theorem Mach.writeThr_records (m : Mach) (p x k : Nat) (hi : Bool) (v : Nat) :
    (m.writeThr p x k hi v).fibres = m.fibres ∧ (m.writeThr p x k hi v).groups = m.groups := by
  unfold Mach.writeThr
  split
  · exact ⟨rfl, rfl⟩
  · cases hi
    · exact ⟨rfl, rfl⟩
    · exact Mach.normCheck_records _ _

theorem writeSpecial_threshold (m : Mach) (c : Ctx) {n : Nat} (v : Word) (h1 : 0x98 ≤ n) (h2 : n < 0xA8) :
    writeSpecial m c n v = m.writeThr c.la.p c.la.x (n % 8) (decide (0xA0 ≤ n)) v.toNat := by
  unfold writeSpecial
  split
  · omega
  · omega
  · omega
  · omega
  · by_cases hn : 0xA0 ≤ n
    · rw [if_neg (by omega), if_pos (by omega), decide_eq_true hn]
    · rw [if_pos (by omega), decide_eq_false hn]

/-- A field of the group's record that SWR writes. -/
theorem swr_group {n : Nat} {a : Src} (h : Issues s (.swr n a) c) (f : Group → Group)
    (hw : writeSpecial s.m c n (s.m.srcL c a) = s.m.updGroup c.f.ref.t c.f.ref.g f) (hf : ∀ x, (f x).t = x.t ∧ (f x).g = x.g)
    (ht : ∀ x y : Group, x.timeless = y.timeless → (f x).timeless = (f y).timeless) :
    Completes (exec (.swr n a) s) (fun t => Does s t c (.swr n a) s.m (f c.g)) := by
  refine ⟨_, issue_pass h _, ?_⟩
  simp only [hw]
  exact issue_doesGroup h.1 rfl f hf ht

theorem swr_threshold {n : Nat} {a : Src} (h : Issues s (.swr n a) c) (h1 : 0x98 ≤ n) (h2 : n < 0xA8) :
    Completes (exec (.swr n a) s) (fun t => Does s t c (.swr n a)
      (s.m.writeThr c.la.p c.la.x (n % 8) (decide (0xA0 ≤ n)) (s.m.srcL c a).toNat) c.g) := by
  refine ⟨_, issue_pass h _, ?_⟩
  simp only [writeSpecial_threshold _ _ _ h1 h2]
  exact issue_does h.1 rfl (Mach.writeThr_records ..).1 (Mach.writeThr_records ..).2

theorem tmshp_shape {k : Nat} (h : Issues s (.tmshp k) c) (hk : k < 256) :
    Completes (exec (.tmshp k) s) (fun t => Does s t c (.tmshp k) s.m { c.g with tmshape := k }) := by
  have code : (BitVec.ofNat 32 k).toNat = k := by rw [BitVec.toNat_ofNat]; omega
  refine ⟨_, issue_pass h _, ?_⟩
  simp only [writeSpecial, code]
  exact issue_doesGroup h.1 rfl (fun g => { g with tmshape := k }) (fun _ => ⟨rfl, rfl⟩)
    (fun x y e => by simp only [Group.timeless, Group.mk.injEq] at e ⊢; simp [e])

/-- The reserved bits of FPSTAT (R204), as a mask and as two fields. -/
theorem fpstat_reserved {v : Word} (h : v &&& 0xFFFFFEE0 ≠ 0) : 512 ≤ v.toNat ∨ nbits v.toNat 7 5 ≠ 0 := by
  have free : ∀ k < 32, BitVec.ofNat 32 k &&& 0xFFFFFEE0 = 0 ∧ BitVec.ofNat 32 (256 + k) &&& 0xFFFFFEE0 = 0 := by decide
  by_contra hc
  simp only [not_or, not_le, not_not, nbits] at hc
  obtain ⟨low, high⟩ := free (v.toNat % 32) (Nat.mod_lt _ (by decide))
  rcases (by omega : v.toNat = v.toNat % 32 ∨ v.toNat = 256 + v.toNat % 32) with hv | hv
  · rw [← hv, BitVec.ofNat_toNat, BitVec.setWidth_eq] at low
    exact h low
  · rw [← hv, BitVec.ofNat_toNat, BitVec.setWidth_eq] at high
    exact h high

/-- What SWR's register does not take (R154, R191, R204). -/
theorem swrBad_of_value {n : Nat} {a : Src} (h : (n = 8 ∧ (s.m.srcL c a = 0 ∨ 5 < (s.m.srcL c a).toNat)) ∨ (n = 0xB ∧ s.m.srcL c a &&& 0xFFFFFEE0 ≠ 0) ∨
    (n = 0xC ∧ 256 ≤ (s.m.srcL c a).toNat) ∨ (n = 0xD ∧ 8 ≤ (s.m.srcL c a).toNat)) : swrBad s.m c (.swr n a) = true := by
  rcases h with ⟨rfl, h | h⟩ | ⟨rfl, h⟩ | ⟨rfl, h⟩ | ⟨rfl, h⟩
  · simp [swrBad, h]
  · simp [swrBad]; omega
  · have := fpstat_reserved h
    simpa [swrBad] using this
  · simpa [swrBad] using h
  · simpa [swrBad] using h

/-- An instruction that passes what stands before SWR's check has the cause ILLEGAL, by that check if by no other. -/
theorem gate_illegal {i : Instr} (hl : c.f.lpad = none) (hw : (windowRegs i).any (fun r => decide (c.rc.regs ≤ c.f.base + r)) = false)
    (he : m.readsErr c (instrUse i).rd (instrUse i).lats = false) (hz : m.hazard c.f i = false)
    (hh : m.heldReg c (c.phys (instrUse i).wr) = false) (hb : swrBad m c i = true) : gate m c i = .trap 1 := by
  simp [gate, hl, hw, he, hz, hh, hb]

end

/-- Settles O40: each register's value is read off the record that holds it, and each write is one update of the group's record or of a region. -/
theorem specialRegisters : Obligations.SpecialRegisters := by
  unfold Obligations.SpecialRegisters
  refine ⟨fun s c => ⟨fun _ => srd_laneId, fun _ h => srd_writes h (by decide) (by decide) rfl rfl, fun _ h => srd_writes h (by decide) (by decide) rfl rfl,
    fun _ h => srd_writes h (by decide) (by decide) rfl rfl, fun _ h => srd_writes h (by decide) (by decide) rfl rfl,
    fun _ h => srd_writes h (by decide) (by decide) rfl rfl, fun _ h => srd_writes h (by decide) (by decide) rfl rfl,
    fun _ h => srd_writes h (by decide) (by decide) rfl rfl, fun _ h => srd_writes h (by decide) (by decide) rfl rfl,
    fun _ h => srd_writes h (by decide) (by decide) rfl (BitVec.ofNat_toNat ..), fun _ h => srd_writes h (by decide) (by decide) rfl (BitVec.ofNat_toNat ..),
    fun _ h => srd_writes h (by decide) (by decide) rfl rfl, fun _ h => srd_writes h (by decide) (by decide) rfl rfl,
    fun _ h => srd_writes h (by decide) (by decide) rfl rfl, fun _ h => srd_writes h (by decide) (by decide) rfl (BitVec.ofNat_toNat ..),
    fun _ h => srd_writes h (by decide) (by decide) rfl rfl, fun _ h => srd_writes h (by decide) (by decide) rfl rfl, fun d h => ?_,
    fun _ => srd_trapAddr, fun d n hn h => ?_⟩, fun s c => ⟨?_, ?_, ?_, ?_, fun n a h1 h2 h => swr_threshold h h1 h2, fun k hk h => tmshp_shape h hk, ?_⟩⟩
  · have := srd_now h (by decide) (by decide) rfl rfl rfl
    simpa only [ofNat_low_word] using this
  · exact srd_now h (by omega) (by omega) (readSpecial_region _ _ _ hn) (Mach.readRegionReg_records ..).1 (Mach.readRegionReg_records ..).2
  · exact fun a h => swr_group h (fun g => { g with sect := (s.m.srcL c a).toNat }) rfl (fun _ => ⟨rfl, rfl⟩)
      (fun x y e => by simp only [Group.timeless, Group.mk.injEq] at e ⊢; simp [e])
  · exact fun a h => swr_group h (fun g => { g with fpstat := s.m.srcL c a }) rfl (fun _ => ⟨rfl, rfl⟩)
      (fun x y e => by simp only [Group.timeless, Group.mk.injEq] at e ⊢; simp [e])
  · exact fun a h => swr_group h (fun g => { g with tmshape := (s.m.srcL c a).toNat }) rfl (fun _ => ⟨rfl, rfl⟩)
      (fun x y e => by simp only [Group.timeless, Group.mk.injEq] at e ⊢; simp [e])
  · exact fun a h => swr_group h (fun g => { g with tmpair := (s.m.srcL c a).toNat }) rfl (fun _ => ⟨rfl, rfl⟩)
      (fun x y e => by simp only [Group.timeless, Group.mk.injEq] at e ⊢; simp [e])
  · exact fun n a hl hw he hz hh hb => gate_illegal hl hw he hz hh (swrBad_of_value hb)

end Sys2Proof.Machine
end

section
/-! ## Cache write-back (O42)

CWB drains the writes to the bytes of its range, which it names by their numbers. Where a write to another device bears the number of one of them, it leaves
too; with no port left it is refused there and then (R364), and the refusal of a posted store is a pending trap of the group that issued it (R34). The
statement has the group's record stand as it was, from every state; this one holds two writes of one number. -/
namespace Sys2Proof.Machine
open Sys2Proof.Tests

/-- Writes under one number: of the group at its own point, to 0x400 of its team's scratchpad, and at the device point to bytes of device 5. -/
def twinWrites : List BufEnt :=
  [⟨.group 1 0, ⟨70, .scr 1, 0x400, [1, 2, 3, 4], .plain, none, false, 0, 0, 0⟩, .rests⟩, ⟨.dev, ⟨70, .fab 5 0, 0x40, [1, 2, 3, 4], .plain, none, false, 77, 0, 0⟩, .rests⟩]

/-- The access of the second, a posted store of the group that awaits its answer. -/
def postedStore : FabPend where
  xid := 77
  ref := ⟨1, 0, 0⟩
  op := none
  store := true
  asks := [(⟨0, 0x40, 4, 0⟩, .fab 5 0)]
  answers := []
  inst := []
  blk := []
  atom := none
  phase := .whole
  awaits := []
  stale := false

/-- The lab with them, every port to other devices locked. -/
def twinLab : State := labWith fun m => { m with
  bufs := twinWrites, fabPend := [postedStore], dev := { m.dev with ports := m.dev.ports.map (fun p => { p with locked := true }) } }

/-- A write-back to system scope of the 256 bytes from 0x400 of the scratchpad. -/
def writeBack : Instr := .cwb .wb .sys 14 (.v 24)

theorem writeBack_pends : (cOf twinLab).g.timeless.pend.length = 0 ∧
    (((nextOf (exec writeBack twinLab)).m.group? 1 0).map Group.timeless).map (fun g => g.pend.length) = some 1 := by decide +kernel

/-- Refutes O42: a CWB of scratchpad bytes gives its group a pending trap, where a refused write to another device bears the number of a write to them. -/
theorem not_cachesAndReports : ¬ Obligations.CachesAndReports := by
  intro h
  obtain ⟨-, -, -, hcwb, -⟩ := h twinLab (cOf twinLab)
  obtain ⟨t, ht, issued, -⟩ := hcwb .wb .sys 14 (.v 24) (issues_of (by decide +kernel))
  have hn : nextOf (exec writeBack twinLab) = t := by rw [show exec writeBack twinLab = .next t from ht]; rfl
  have hg : (t.m.group? 1 0).map Group.timeless = some (cOf twinLab).g.timeless := issued.group
  obtain ⟨hbefore, hafter⟩ := writeBack_pends
  rw [hn, hg, Option.map_some, hbefore] at hafter
  exact absurd hafter (by decide)

end Sys2Proof.Machine
end

section
/-! ## Scheduling (O51)

A port with one ready fibre refills its tenant's counter until it is above zero, so the tenant, the group and the fibre are chosen (R166, R167). An
asynchronous trap goes through the stages of a synchronous one, but breaks no invocation and keeps how long the fibre has waited (R46, R172). -/
namespace Sys2Proof.Machine

section
variable {s : State} {m n : Mach} {c : Ctx} {g : Group} {f : Fibre} {cf : Conf} {core quad pick x p : Nat} {po : Port} {w : Nat → Nat}

/-- A step of the machine to a machine that is known. -/
theorem onMach_completes {step : Conf → Mach → Mach} {P : State → Prop} (h : step s.cfg s.m = n) (hp : P { s with m := n }) :
    Completes (onMach s step) P := ⟨_, by rw [onMach, h], hp⟩

/-! ### A free port -/

/-- No group at the port belongs to a launch that has stopped. -/
def Mach.noneStopped (m : Mach) (core quad : Nat) : Prop :=
  ∀ g ∈ m.quadGroups core quad, ((m.team? g.t).bind (fun tm => m.launch? tm.l)).any (fun la => la.stop.isSome) = false

/-- A fold none of whose steps does anything. -/
theorem foldl_idle {α β : Type} {f : β → α → β} {b : β} : ∀ {l : List α}, (∀ a ∈ l, f b a = b) → l.foldl f b = b
  | [], _ => rfl
  | a :: l, h => by
    rw [List.foldl_cons, h a List.mem_cons_self]
    exact foldl_idle fun a ha => h a (List.mem_cons_of_mem _ ha)

theorem Mach.endStopped_idle (h : m.noneStopped core quad) : m.endStopped cf core quad = m := by
  refine foldl_idle fun g hg => ?_
  simp only [h g hg, Bool.false_and]
  rfl

/-- The port of a place bears its numbers. -/
theorem Mach.port_place (m : Mach) (core quad : Nat) : (m.port core quad).core = core ∧ (m.port core quad).quad = quad := by
  unfold Mach.port
  cases h : m.ports.find? (fun x => x.core == core && x.quad == quad) with
  | none => exact ⟨rfl, rfl⟩
  | some po => simpa using List.find?_some h

theorem Mach.port_setPort (m : Mach) (po : Port) : (m.setPort po).port po.core po.quad = po := by
  simp [Mach.port, Mach.setPort]

/-! ### Refilling the counters (R166) -/

theorem Port.deficit_setDeficit (po : Port) (x y : Nat) (v : Int) : (po.setDeficit y v).deficit x = if x = y then v else po.deficit x := by
  by_cases h : x = y
  · simp [Port.deficit, Port.setDeficit, h]
  · have hy : (y == x) = false := by simpa using fun e => h e.symm
    have hf : ∀ l : List (Nat × Int), (l.filter (fun p => p.1 != y)).find? (fun p => p.1 == x) = l.find? (fun p => p.1 == x) := fun l => by
      rw [List.find?_filter]
      congr 1
      funext p
      by_cases hp : p.1 = x
      · simp [hp, h]
      · simp [hp]
    simp [Port.deficit, Port.setDeficit, hy, hf, h]

/-- A refill of the one ready tenant ends with its counter above zero. -/
theorem refill_deficit_pos (hw : 1 ≤ w x) (hd : -2 ^ 60 < po.deficit x) (res : List Nat) : 0 < (refill po w [x] res).deficit x := by
  have hk : refills po w [x] = if 0 < po.deficit x then 0 else (-(po.deficit x)).toNat / w x + 1 := by
    unfold refills
    simp only [List.map_cons, List.map_nil, List.foldl_cons, List.foldl_nil]
    split
    · simp
    · have := Nat.div_le_self (-(po.deficit x)).toNat (w x)
      omega
  have keep : ∀ (l : List Nat), x ∉ l → ∀ po : Port,
      (l.foldl (fun po y => po.setDeficit y (min (po.deficit y) 0)) po).deficit x = po.deficit x := fun l => by
    induction l with
    | nil => intros; rfl
    | cons y l ih =>
      intro hx po
      rw [List.foldl_cons, ih (fun h => hx (List.mem_cons_of_mem _ h)), Port.deficit_setDeficit, if_neg fun e : x = y => hx (e ▸ List.mem_cons_self)]
  unfold refill
  simp only [hk, List.foldl_cons, List.foldl_nil]
  by_cases hp : 0 < po.deficit x
  · rwa [if_pos hp, if_pos rfl]
  · rw [if_neg hp, if_neg (Nat.succ_ne_zero _), keep _ (by simp), Port.deficit_setDeficit, if_pos rfl]
    have hdiv := Nat.lt_mul_of_div_lt (Nat.lt_succ_self ((-(po.deficit x)).toNat / w x)) hw
    have hi : ((-(po.deficit x)).toNat : Int) < (((-(po.deficit x)).toNat / w x + 1) * w x : Nat) := by exact_mod_cast hdiv
    omega

theorem refill_place (po : Port) (w : Nat → Nat) (e res : List Nat) : (refill po w e res).core = po.core ∧ (refill po w e res).quad = po.quad := by
  have keep : ∀ (v : Port → Nat → Int) (l : List Nat) (po : Port), (l.foldl (fun po y => po.setDeficit y (v po y)) po).core = po.core ∧
      (l.foldl (fun po y => po.setDeficit y (v po y)) po).quad = po.quad := fun v l => by
    induction l with
    | nil => exact fun _ => ⟨rfl, rfl⟩
    | cons y l ih => exact fun po => ih (po.setDeficit y (v po y))
  unfold refill
  dsimp only
  split
  · exact ⟨rfl, rfl⟩
  · obtain ⟨h1, h2⟩ := keep (fun q y => q.deficit y + (refills po w e * w y : Nat)) e po
    obtain ⟨h3, h4⟩ := keep (fun q y => min (q.deficit y) 0) (res.filter (fun x => !e.contains x))
      (e.foldl (fun q y => q.setDeficit y (q.deficit y + (refills po w e * w y : Nat))) po)
    exact ⟨h3.trans h1, h4.trans h2⟩

theorem chooseTenant_single (hx : x < 4) (hd : 0 < po.deficit x) : chooseTenant po [x] = some x := by
  unfold chooseTenant
  cases hf : ((List.range 4).map (fun i => (po.last + 1 + i) % 4)).find? (fun y => [x].contains y && decide (0 < po.deficit y)) with
  | some y =>
    have := List.find?_some hf
    simp only [List.contains_cons, List.contains_nil, Bool.or_false, Bool.and_eq_true, beq_iff_eq] at this
    rw [this.1]
  | none =>
    rw [List.find?_eq_none] at hf
    have hm : x ∈ (List.range 4).map (fun i => (po.last + 1 + i) % 4) :=
      List.mem_map.mpr ⟨(x + 3 - po.last % 4) % 4, List.mem_range.mpr (Nat.mod_lt _ (by decide)), by omega⟩
    exact absurd (by simp [hd]) (hf x hm)

/-! ### The run -/

/-- A fibre begins or resumes its run, where its group has no trap pending. -/
theorem Mach.startRun_calm {r : FRef} (hc : ctxOf m r = some c) (hp : c.g.pend = []) : m.startRun cf core quad r =
    let n := if c.f.run then m else (m.clearLatches r c.f.pred).updFibre r (fun f => { f with run := true, pos := 0, trl := none })
    n.setPort { (n.port core quad) with run := some ⟨r, 0⟩ } := by
  have ht : m.takeAsync cf c = m := by
    unfold Mach.takeAsync
    rw [hp]
    rfl
  obtain ⟨hf, -⟩ := ctxOf_parts hc
  unfold Mach.startRun
  simp only [hc, ht, ite_self, hf]

/-- A port with the counters of its tenants alone. -/
def Mach.tenanted (m : Mach) (core quad : Nat) : Port :=
  { m.port core quad with dc := (m.port core quad).dc.filter (fun d => (m.residents core quad).contains d.1) }

theorem Mach.tenanted_deficit (hx : x ∈ m.residents core quad) : (m.tenanted core quad).deficit x = (m.port core quad).deficit x := by
  simp only [Mach.tenanted, Port.deficit, List.find?_filter]
  congr 3
  funext d
  by_cases hd : d.1 = x
  · simp [hd, hx]
  · simp [hd]

/-- The port as a schedule of tenant x leaves it, but for the run. -/
def Mach.chosen (m : Mach) (cf : Conf) (core quad p x : Nat) : Port :=
  { refill (m.tenanted core quad) (weightOf cf p) [x] (m.residents core quad) with last := x }

theorem Mach.chosen_place : (m.chosen cf core quad p x).core = core ∧ (m.chosen cf core quad p x).quad = quad := by
  obtain ⟨h1, h2⟩ := refill_place (m.tenanted core quad) (weightOf cf p) [x] (m.residents core quad)
  exact ⟨h1.trans (m.port_place core quad).1, h2.trans (m.port_place core quad).2⟩

/-- A free port with one ready fibre, whose tenant's counter is not too far below zero, starts that fibre's run. -/
theorem portSchedule_run (hr : (m.port core quad).run = none) (hs : m.noneStopped core quad) (hg : m.readyGroups core quad = [g])
    (hfs : m.readyFibres g.t g.g = [f]) (hc : ctxOf m f.ref = some c) (hx : c.la.x < 4) (hd : -2 ^ 60 < (m.port core quad).deficit c.la.x) :
    portSchedule cf m core quad pick = (m.setPort (m.chosen cf core quad c.la.p c.la.x)).startRun cf core quad f.ref := by
  obtain ⟨-, -, hteam, -, hlaunch, -, -⟩ := ctxOf_parts hc
  have hf : f ∈ m.readyFibres g.t g.g := by rw [hfs]; exact List.mem_singleton.mpr rfl
  have hgt : f.ref.t = g.t := by
    have := (List.mem_filter.mp (List.mem_filter.mp hf).1).2
    simp only [Bool.and_eq_true, beq_iff_eq] at this
    exact this.1
  rw [hgt] at hteam
  have ht : m.teamCtx g.t = c.la.x := by simp [Mach.teamCtx, hteam, hlaunch]
  have hq : g ∈ m.quadGroups core quad := by
    have : g ∈ m.readyGroups core quad := by rw [hg]; exact List.mem_singleton.mpr rfl
    exact (List.mem_filter.mp this).1
  have hres : c.la.x ∈ m.residents core quad := by
    rw [Mach.residents, List.mem_eraseDups]
    exact List.mem_map.mpr ⟨g, hq, ht⟩
  have hpos := refill_deficit_pos (w := weightOf cf c.la.p) (Nat.le_max_left ..) (by rw [Mach.tenanted_deficit hres]; exact hd) (m.residents core quad)
  have htenant : chooseTenant (refill (m.tenanted core quad) (weightOf cf c.la.p) [c.la.x] (m.residents core quad)) [c.la.x] = some c.la.x :=
    chooseTenant_single hx hpos
  have hready : (m.setPort (m.chosen cf core quad c.la.p c.la.x)).readyFibres g.t g.g = [f] := hfs
  have hctx : (m.setPort (m.chosen cf core quad c.la.p c.la.x)).teamCtx g.t = c.la.x := ht
  have he : ([c.la.x] : List Nat).eraseDups = [c.la.x] := rfl
  have hfree : (m.port core quad).run.isSome = false := by rw [hr]; rfl
  rw [Mach.tenanted] at htenant
  rw [Mach.chosen, Mach.tenanted] at hready hctx
  unfold portSchedule
  simp only [Mach.endStopped_idle hs, hfree, hg, List.head?_cons, Option.bind_some, hteam, hlaunch, Option.map_some, List.map_cons,
    List.map_nil, ht, he, htenant, Bool.false_eq_true, if_false]
  simp only [hctx, beq_self_eq_true, List.filter_cons_of_pos, List.filter_nil, firstGroup, List.foldl_cons, List.foldl_nil, hready,
    List.length_singleton, Nat.mod_one, List.getElem?_cons_zero]
  rfl

/-- Latches cleared in every lane of a predicate, as one list of writes. -/
theorem Mach.clearLatches_lats (m : Mach) (r : FRef) (p : Word) :
    (m.clearLatches r p).lats = smSetAll 0 m.lats ((List.range 8).flatMap (fun k => (lanesOf p).map (fun j => (latKey r.t r.g k j, 0)))) := by
  have key : ∀ (ks : List Nat) (l : SMap Word), ks.foldl (fun l k => (lanesOf p).foldl (fun l i => smSet 0 l (latKey r.t r.g k i) 0) l) l =
      smSetAll 0 l (ks.flatMap (fun k => (lanesOf p).map (fun j => (latKey r.t r.g k j, 0)))) := fun ks => by
    induction ks with
    | nil => intro l; rfl
    | cons k ks ih =>
      intro l
      rw [List.foldl_cons, ih, List.flatMap_cons]
      simp only [smSetAll, List.foldl_append, List.foldl_map]
  exact key (List.range 8) m.lats

theorem portSchedule_starts (hr : (s.m.port core quad).run = none) (hs : s.m.noneStopped core quad) (hg : s.m.readyGroups core quad = [g])
    (hfs : s.m.readyFibres g.t g.g = [f]) (hc : ctxOf s.m f.ref = some c) (hcf : c.f = f) (hp : c.g.pend = []) (hx : c.la.x < 4)
    (hd : -2 ^ 60 < (s.m.port core quad).deficit c.la.x) : Completes (exec (.portSchedule core quad pick) s) (fun t =>
      (t.m.port core quad).run = some ⟨f.ref, 0⟩ ∧ t.m.fibre? f.ref = some (if f.run then f else { f with run := true, pos := 0, trl := none }) ∧
      t.m.regs = s.m.regs ∧ SameStores t.m s.m ∧ t.m.lats = if f.run then s.m.lats
        else smSetAll 0 s.m.lats ((List.range 8).flatMap (fun k => c.lanes.map (fun j => (latKey f.ref.t f.ref.g k j, 0))))) := by
  refine onMach_completes (step := fun cf m => portSchedule cf m core quad pick)
    ((portSchedule_run hr hs hg hfs hc hx hd).trans (Mach.startRun_calm (m := s.m.setPort _) hc hp)) ?_
  rw [hcf]
  obtain ⟨hfib, -⟩ := ctxOf_parts hc
  rw [hcf] at hfib
  have hlanes : c.lanes = lanesOf f.pred := by rw [← hcf]; rfl
  generalize s.m.chosen s.cfg core quad c.la.p c.la.x = po
  have hrun : ∀ n : Mach, ((n.setPort { (n.port core quad) with run := some ⟨f.ref, 0⟩ }).port core quad).run = some ⟨f.ref, 0⟩ := fun n => by
    have := n.port_setPort { (n.port core quad) with run := some ⟨f.ref, 0⟩ }
    rw [(n.port_place core quad).1, (n.port_place core quad).2] at this
    rw [this]
  by_cases hfr : f.run = true
  · simp only [hfr, if_true]
    exact ⟨hrun (s.m.setPort po), hfib, rfl, ⟨rfl, rfl, rfl, rfl, rfl⟩, rfl⟩
  · simp only [hfr]
    refine ⟨hrun (((s.m.setPort po).clearLatches f.ref f.pred).updFibre f.ref _), ?_, by simp, by simp [SameStores], ?_⟩
    · have := Mach.fibre?_updFibre (m := (s.m.setPort po).clearLatches f.ref f.pred) (r := f.ref)
        (f := fun f => { f with run := true, pos := 0, trl := none }) (fun _ => rfl)
      exact this.trans (congrArg (Option.map _) hfib)
    · rw [hlanes]
      exact (s.m.setPort po).clearLatches_lats f.ref f.pred

theorem portSchedule_waits (hr : (s.m.port core quad).run = none) (hs : s.m.noneStopped core quad) (hg : s.m.readyGroups core quad = []) :
    Completes (exec (.portSchedule core quad pick) s) (fun t => t.m.cyc = s.m.cyc + 1 ∧ t.m.fibres = s.m.fibres ∧ t.m.groups = s.m.groups ∧
      t.m.ports = s.m.ports ∧ t.m.regs = s.m.regs ∧ SameStores t.m s.m) := by
  have hfree : (s.m.port core quad).run.isSome = false := by rw [hr]; rfl
  have key : portSchedule s.cfg s.m core quad pick = s.m.tick 1 := by
    unfold portSchedule
    simp only [Mach.endStopped_idle hs, hfree, hg]
    rfl
  exact onMach_completes (step := fun cf m => portSchedule cf m core quad pick) key ⟨rfl, rfl, rfl, rfl, rfl, rfl, rfl, rfl, rfl, rfl⟩

/-! ### Active groups -/

/-- A group in the active set. -/
def Group.activated (g : Group) : Group := { g with active := true }

/-- A pending group joins the active set; an active one stays there. -/
def Mach.activate (m : Mach) (g : Group) : Mach := if g.active then m else m.updGroup g.t g.g Group.activated

theorem Mach.activate_group? (m : Mach) (g : Group) (t k : Nat) : (m.activate g).group? t k =
    if !g.active && g.t == t && g.g == k then (m.group? t k).map Group.activated else m.group? t k := by
  unfold Mach.activate
  cases ha : g.active
  · by_cases hk : g.t = t ∧ g.g = k
    · obtain ⟨rfl, rfl⟩ := hk
      simpa using Mach.group?_updGroup (m := m) (t := g.t) (g := g.g) (f := Group.activated) fun _ => ⟨rfl, rfl⟩
    · have hne : (t, k) ≠ (g.t, g.g) := fun e => hk ⟨(congrArg Prod.fst e).symm, (congrArg Prod.snd e).symm⟩
      have hif : (!false && g.t == t && g.g == k) = false := by simpa using fun h1 h2 => hk ⟨h1, h2⟩
      rw [hif]
      exact Mach.group?_updGroup_other (m := m) (f := Group.activated) (fun _ => ⟨rfl, rfl⟩) hne
  · rfl

/-- A group of the list is active in the end. -/
theorem Mach.activates_group? {t k : Nat} {x : Group} : ∀ (gs : List Group) (m : Mach), m.group? t k = some x →
    (gs.foldl Mach.activate m).group? t k = some (if gs.any (fun g => !g.active && g.t == t && g.g == k) then x.activated else x)
  | [], _, h => h
  | g :: gs, m, h => by
    have hg := m.activate_group? g t k
    rw [h] at hg
    rw [List.foldl_cons, List.any_cons]
    cases hc : (!g.active && g.t == t && g.g == k)
    · rw [hc] at hg
      rw [Mach.activates_group? gs _ hg, Bool.false_or]
    · rw [hc] at hg
      rw [Mach.activates_group? gs _ hg, Bool.true_or, if_pos rfl]
      exact congrArg some (ite_self (c := _ = true) x.activated)

theorem Mach.activates_records (gs : List Group) (m : Mach) : (gs.foldl Mach.activate m).regs = m.regs ∧ (gs.foldl Mach.activate m).fibres = m.fibres := by
  have hr : ∀ (m : Mach) (g : Group), (m.activate g).regs = m.regs ∧ (m.activate g).fibres = m.fibres := fun m g => by
    unfold Mach.activate
    split <;> exact ⟨rfl, rfl⟩
  exact ⟨foldl_keeps Mach.regs (fun m g => (hr m g).1) gs m, foldl_keeps Mach.fibres (fun m g => (hr m g).2) gs m⟩

theorem groupActivate_few (hs : s.m.noneStopped core quad) (hn : (s.m.quadGroups core quad).length ≤ 8) :
    Completes (exec (.groupActivate core quad) s) (fun t => t.m.regs = s.m.regs ∧ t.m.fibres = s.m.fibres ∧
      ∀ g ∈ s.m.quadGroups core quad, s.m.group? g.t g.g = some g → t.m.group? g.t g.g = some { g with active := true }) := by
  have key : groupActivate s.cfg s.m core quad = (s.m.quadGroups core quad).foldl Mach.activate s.m := by
    unfold groupActivate
    simp only [Mach.endStopped_idle hs, hn, if_true]
    rfl
  obtain ⟨hregs, hfib⟩ := Mach.activates_records (s.m.quadGroups core quad) s.m
  refine onMach_completes (step := fun cf m => groupActivate cf m core quad) key ⟨hregs, hfib, fun g hg hfound => ?_⟩
  refine (Mach.activates_group? _ _ hfound).trans (congrArg some ?_)
  cases ha : g.active
  · rw [List.any_eq_true.mpr ⟨g, hg, by simp [ha]⟩]
    rfl
  · have hself : g.activated = g := by
      unfold Group.activated
      rw [← ha]
    rw [show ({ g with active := true } : Group) = g.activated from rfl, hself]
    exact ite_self ..

theorem groupActivate_many (hs : s.m.noneStopped core quad) (hn : 8 < (s.m.quadGroups core quad).length)
    (ha : ((s.m.quadGroups core quad).filter Group.active).length < 8)
    (hp : (s.m.quadGroups core quad).filter (fun g => !g.active && !(s.m.readyFibres g.t g.g).isEmpty) = [g]) (hg : s.m.group? g.t g.g = some g) :
    Completes (exec (.groupActivate core quad) s) (fun t => t.m.group? g.t g.g = some { g with active := true, since := s.m.cyc + 2 } ∧
      t.m.regs = s.m.regs ∧ t.m.fibres = s.m.fibres) := by
  have key : groupActivate s.cfg s.m core quad = s.m.toActive g := by
    unfold groupActivate
    simp only [Mach.endStopped_idle hs, Nat.not_le.mpr hn, if_false, Mach.oldestPending, hp, List.foldl_cons, List.foldl_nil, ha, if_true]
  refine onMach_completes (step := fun cf m => groupActivate cf m core quad) key ⟨?_, rfl, rfl⟩
  have := Mach.group?_updGroup (m := s.m) (t := g.t) (g := g.g) (f := fun g => { g with active := true, since := s.m.cyc + 2 }) fun _ => ⟨rfl, rfl⟩
  rwa [hg] at this

/-! ### Asynchronous traps -/

/-- The pending trap of the lowest code is found, wherever it stands in the list. -/
theorem lowestTrap_eq {x : PendTrap} {l : List PendTrap} (hx : x ∈ l) (hl : ∀ y ∈ l, y = x ∨ x.cause < y.cause) : lowestTrap l = some x := by
  have key : ∀ (l : List PendTrap) (b : Option PendTrap), (∀ y ∈ l, y = x ∨ x.cause < y.cause) → (∀ y ∈ b, y = x ∨ x.cause < y.cause) →
      x ∈ l ∨ b = some x → l.foldl (fun b t => match b with
        | none => some t
        | some z => if z.cause ≤ t.cause then some z else some t) b = some x := fun l => by
    induction l with
    | nil => intro b _ _ h; simpa using h
    | cons t l ih =>
      intro b hl hb h
      rw [List.foldl_cons]
      have ht := hl t List.mem_cons_self
      refine ih _ (fun y hy => hl y (List.mem_cons_of_mem _ hy)) ?_ ?_
      · cases b with
        | none => intro y hy; cases hy; exact ht
        | some z =>
          intro y hy
          dsimp only at hy
          split at hy <;> cases hy
          · exact hb z rfl
          · exact ht
      · by_cases hin : x ∈ l
        · exact .inl hin
        · refine .inr ?_
          cases b with
          | none => simpa [hin, eq_comm] using h
          | some z =>
            dsimp only
            rcases hb z rfl with rfl | hz
            · rcases ht with rfl | ht
              · exact ite_self ..
              · exact if_pos (Nat.le_of_lt ht)
            · have hzx : x ≠ z := fun e => absurd hz (by simp [e])
              have : t = x := by simpa [hin, hzx, eq_comm] using h
              rw [this, if_neg (Nat.not_le.mpr hz)]
  exact key l none hl (fun _ h => nomatch h) (.inl hx)

/-- A change of a group's record that does not look at the time from which the group is ready commutes with a fibre's leaving its port. -/
theorem Mach.leavePort_updGroup {F : Group → Group} (hF : ∀ (x : Group) k, F { x with ready := k } = { F x with ready := k })
    (hid : ∀ x, (F x).t = x.t ∧ (F x).g = x.g) (m : Mach) (t k : Nat) (r : FRef) (j : Nat) :
    (m.updGroup t k F).leavePort r j = (m.leavePort r j).updGroup t k F := by
  have hcomm : ∀ n : Mach, (n.updGroup t k F).updGroup r.t r.g (fun g => { g with ready := m.cyc }) =
      (n.updGroup r.t r.g (fun g => { g with ready := m.cyc })).updGroup t k F := fun n => by
    simp only [Mach.updGroup, List.map_map]
    congr 1
    refine List.map_congr_left fun x _ => ?_
    simp only [Function.comp]
    have hF1 : (F x).t = r.t ∧ (F x).g = r.g ↔ x.t = r.t ∧ x.g = r.g := by rw [(hid x).1, (hid x).2]
    by_cases h1 : x.t = t ∧ x.g = k
    · by_cases h2 : x.t = r.t ∧ x.g = r.g
      · rw [if_pos h1, if_pos (hF1.mpr h2), if_pos h2, if_pos h1]
        exact (hF x m.cyc).symm
      · rw [if_pos h1, if_neg (mt hF1.mp h2), if_neg h2, if_pos h1]
    · by_cases h2 : x.t = r.t ∧ x.g = r.g
      · rw [if_neg h1, if_pos h2, if_neg h1]
      · rw [if_neg h1, if_neg h2, if_neg h1]
  have hrun : ((m.updGroup t k F).port ((m.updGroup t k F).seat r.t r.g).1 ((m.updGroup t k F).seat r.t r.g).2).run =
    (m.port (m.seat r.t r.g).1 (m.seat r.t r.g).2).run := rfl
  unfold Mach.leavePort
  dsimp only
  rw [hrun]
  split
  · split
    · exact congrArg (fun n : Mach => n.count _ 2 _ _) (hcomm (m.setPort _))
    · rfl
  · rfl

/-- How long a fibre has waited in LDFE or LDFET, kept for its return (R46). -/
def Ctx.waited (c : Ctx) (m : Mach) : Option Nat := c.f.wait.bind (fun w => if w.why = .granule then some (m.cyc - w.since) else none)

/-- A group that keeps it. -/
def Group.keeping (k : Option Nat) (g : Group) : Group := { g with feKept := k }

/-- The group of an asynchronous trap keeps what a synchronous one would not. -/
theorem Mach.unported_keeping (m : Mach) (k : Option Nat) : (m.updGroup c.f.ref.t c.f.ref.g (Group.keeping k)).unported c =
    (m.unported c).updGroup c.f.ref.t c.f.ref.g (Group.keeping k) := by
  have hleave := fun (m : Mach) (r : FRef) (j : Nat) =>
    Mach.leavePort_updGroup (F := Group.keeping k) (fun _ _ => rfl) (fun _ => ⟨rfl, rfl⟩) m c.f.ref.t c.f.ref.g r j
  have hfold := List.foldl_hom (f := fun m : Mach => m.updGroup c.f.ref.t c.f.ref.g (Group.keeping k)) (g₁ := fun m (f : Fibre) => m.leavePort f.ref 0)
    (g₂ := fun m (f : Fibre) => m.leavePort f.ref 0) (l := (m.fibresOf c.f.ref.t c.f.ref.g).filter (fun f => f.ref != c.f.ref)) (init := m)
    (fun m f => hleave m f.ref 0)
  unfold Mach.unported
  refine (congrArg (fun n : Mach => (n.leavePort c.f.ref 1).clearLatches c.f.ref c.f.pred) hfold).trans ?_
  exact congrArg (fun n : Mach => n.clearLatches c.f.ref c.f.pred) (hleave ..)

variable {cr : CtxRec} {y : Trap}

/-- The machine after an asynchronous trap of a fibre that can trap. -/
theorem TrapReady.takeTrap_async (h : TrapReady s c cr) (ha : y.async = true) (m : Mach) : m.takeTrap s.cfg c y =
    ((((m.quit c).framed c cr y).handled c cr y).unported c).updGroup c.f.ref.t c.f.ref.g (Group.keeping (c.waited ((m.quit c).framed c cr y))) := by
  have hn : noTrap s.cfg c y.async = false := by
    simp only [noTrap, h.ctx, h.free, Bool.or_eq_false_iff]
    exact ⟨⟨by simpa using h.tvec, by simpa using h.fits⟩, rfl⟩
  rw [← Mach.unported_keeping]
  rw [ha] at hn
  have hk : ((((m.quit c).framed c cr y).handled c cr y).updGroup c.f.ref.t c.f.ref.g (Group.keeping (c.waited ((m.quit c).framed c cr y)))).groups =
      (((m.quit c).framed c cr y).updGroup c.f.ref.t c.f.ref.g (fun g => { Group.handling ((m.quit c).framed c cr y) c y g with
        feKept := c.waited ((m.quit c).framed c cr y) })).groups := by
    simp only [Mach.handled, Mach.updGroup, List.map_map]
    refine List.map_congr_left fun x _ => ?_
    simp only [Function.comp]
    by_cases hx : x.t = c.f.ref.t ∧ x.g = c.f.ref.g
    · simp only [if_pos hx]
      exact if_pos hx
    · simp only [if_neg hx]
  simp only [Mach.takeTrap, hn, h.ctx, ha]
  exact congrArg (fun l => ({ ((m.quit c).framed c cr y).handled c cr y with groups := l } : Mach).unported c) hk.symm

/-- A group with other traps pending, by `l`. -/
def Group.dropping (l : List PendTrap → List PendTrap) (g : Group) : Group := { g with pend := l g.pend }

/-- What a fibre's latches await does not depend on the traps pending. -/
theorem Mach.latched_dropping (m : Mach) (c : Ctx) (l : List PendTrap → List PendTrap) :
    (m.updGroup c.f.ref.t c.f.ref.g (Group.dropping l)).latched c = (m.latched c).updGroup c.f.ref.t c.f.ref.g (Group.dropping l) := by
  unfold Mach.latched
  split
  · refine List.foldl_hom (fun m : Mach => m.updGroup c.f.ref.t c.f.ref.g (Group.dropping l)) fun n o => ?_
    rw [apply_ite (fun m : Mach => m.updGroup c.f.ref.t c.f.ref.g (Group.dropping l))]
    rfl
  · rfl

/-- The stages before the frame, of an asynchronous trap. -/
theorem Mach.quit_dropping_trapFrame (m : Mach) (c : Ctx) (l : List PendTrap → List PendTrap) :
    trapFrame ((m.updGroup c.f.ref.t c.f.ref.g (Group.dropping l)).quit c) c y = trapFrame (m.latched c) c y := by
  have hq : ((m.updGroup c.f.ref.t c.f.ref.g (Group.dropping l)).quit c).resultless = (m.updGroup c.f.ref.t c.f.ref.g (Group.dropping l)).resultless :=
    Mach.quit_resultless ..
  have hl : (m.latched c).resultless = m.resultless := by
    unfold Mach.latched
    split
    · exact Mach.settleLatches_resultless ..
    · exact Mach.clearLatches_resultless ..
  refine trapFrame_congr ?_ ((congrArg Mach.cyc hq :).trans (congrArg Mach.cyc hl :).symm) ((congrArg Mach.dieOff hq :).trans (congrArg Mach.dieOff hl :).symm)
  rw [Mach.quit_lats, Mach.latched_dropping]
  rfl

/-- An asynchronous trap of a fibre that can trap, which drops traps pending by `l`. -/
theorem TrapReady.interrupted (h : TrapReady s c cr) (ha : y.async = true) (hf : s.m.fibre? c.f.ref = some c.f)
    (hg : s.m.group? c.f.ref.t c.f.ref.g = some c.g) (l : List PendTrap → List PendTrap) {t : State}
    (ht : t = { s with m := (s.m.updGroup c.f.ref.t c.f.ref.g (Group.dropping l)).takeTrap s.cfg c y }) :
    TrappedOn s.m s t c cr y ∧ (t.m.group? c.f.ref.t c.f.ref.g).map Group.pend = some (l c.g.pend) := by
  have hframe := s.m.quit_dropping_trapFrame (y := y) c l
  have hq : ((s.m.updGroup c.f.ref.t c.f.ref.g (Group.dropping l)).quit c).resultless = (s.m.updGroup c.f.ref.t c.f.ref.g (Group.dropping l)).resultless :=
    Mach.quit_resultless ..
  have hreg : s.m.outst = [] → ((s.m.updGroup c.f.ref.t c.f.ref.g (Group.dropping l)).quit c).regs = s.m.regs := fun ho =>
    Mach.quit_regs (m := s.m.updGroup c.f.ref.t c.f.ref.g (Group.dropping l)) c ho
  rw [h.takeTrap_async ha] at ht
  generalize (s.m.updGroup c.f.ref.t c.f.ref.g (Group.dropping l)).quit c = n at *
  have hstores : SameStores n s.m :=
    ⟨(congrArg Mach.mem hq :), (congrArg Mach.tags hq :), (congrArg Mach.scr hq :), (congrArg Mach.gran hq :), (congrArg Mach.bufs hq :)⟩
  obtain ⟨hmem, htags, hscr, hgran, hbufs⟩ := hstores
  have hcan : s.m.canonical = true → n.canonical = true := fun hm => by rwa [Mach.canonical, hmem, htags, hscr, hgran]
  have hgroups : n.groups.map Group.timeless = (s.m.updGroup c.f.ref.t c.f.ref.g (Group.dropping l)).groups.map Group.timeless := (congrArg Mach.groups hq :)
  have hown := group?_timeless hgroups c.f.ref.t c.f.ref.g
  rw [Mach.group?_updGroup (f := Group.dropping l) fun _ => ⟨rfl, rfl⟩, hg, Option.map_some, Option.map_some] at hown
  obtain ⟨g1, hg1, h1⟩ := Option.map_eq_some_iff.mp hown
  have hgoing : (n.fibre? c.f.ref).map Fibre.going = some c.f.going := by
    have hl : ∀ l : List Fibre, (l.find? (fun f => f.ref == c.f.ref)).map Fibre.going = (l.map Fibre.going).find? (fun f => f.ref == c.f.ref) :=
      fun l => by rw [List.find?_map]; rfl
    rw [Mach.fibre?, hl, show n.fibres.map Fibre.going = s.m.fibres.map Fibre.going from (congrArg Mach.fibres hq :), ← hl]
    exact congrArg (Option.map Fibre.going) hf
  obtain ⟨f1, hf1, hfg⟩ := Option.map_eq_some_iff.mp hgoing
  have hst : (n.framed c cr y).still = n.still := n.framed_still
  have hu : (n.framed c cr y).Enters (((n.framed c cr y).handled c cr y).unported c) c cr y := Mach.unported_unscheduled _ c
  generalize hkeep : c.waited (n.framed c cr y) = fe at ht
  generalize ((n.framed c cr y).handled c cr y).unported c = k at ht hu
  have hfgroups : (n.framed c cr y).groups = n.groups := (congrArg Mach.groups hst :)
  obtain ⟨g2, hg2, h2⟩ := hu.group (g := g1) (by rw [Mach.group?, hfgroups]; exact hg1)
  have hgt : t.m.group? c.f.ref.t c.f.ref.g = some (Group.keeping fe g2) := by
    rw [ht]
    exact (Mach.group?_updGroup (f := Group.keeping fe) fun _ => ⟨rfl, rfl⟩).trans (congrArg (Option.map _) hg2)
  have hkept : ∀ {α : Type} (q : Group → α), (∀ g, q (Group.keeping fe g) = q g) → (∀ g, q g.timeless = q g) →
      (∀ g, q (Group.handling (n.framed c cr y) c y g) = q g) → (t.m.group? c.f.ref.t c.f.ref.g).map q = some (q (Group.dropping l c.g)) :=
    fun q hk htm hh => by
      rw [hgt, Option.map_some, hk, ← htm, h2, htm, hh, ← htm, h1, htm]
  have hstores : SameStores t.m (n.framed c cr y) := by
    rw [ht]
    exact hu.stores
  obtain ⟨smem, stags, sscr, sgran, sbufs⟩ := hstores
  have hbyte : ∀ u a, t.m.homeByte (.scr u) a none = (n.framed c cr y).homeByte (.scr u) a none := fun u a => by
    rw [Mach.homeByte, sscr]
    rfl
  have hgr : ∀ u q, t.m.granule u q = (n.framed c cr y).granule u q := fun u q => by
    rw [Mach.granule, sgran]
    rfl
  refine ⟨⟨by rw [ht], ?_, hkept (fun g => (g.conds, g.sect, g.joins, g.fpstat)) (fun _ => rfl) (fun _ => rfl) fun _ => rfl, ?_, ?_, fun ho => ?_,
    fun hm i hi => ?_, fun e he => ?_, fun hm hlen hw => ?_, fun t' g' hne => ?_, fun _ => ?_⟩, hkept Group.pend (fun _ => rfl) (fun _ => rfl) fun _ => rfl⟩
  · rw [hgt, Option.map_some, Option.some.injEq, Prod.mk.injEq, Prod.mk.injEq, Prod.mk.injEq]
    exact ⟨(congrArg Group.handler h2 :), (congrArg Group.handlerKind h2 :), (congrArg Group.trapCause h2 :), (congrArg Group.trapAddr h2 :)⟩
  · have hfib := hu.fibre (f := f1) (by rw [Mach.fibre?, show (n.framed c cr y).fibres = n.fibres from (congrArg Mach.fibres hst :)]; exact hf1)
    have hr : f1.ref = c.f.ref := (congrArg Fibre.ref hfg :)
    rw [ht, show (k.updGroup c.f.ref.t c.f.ref.g (Group.keeping fe)).fibre? c.f.ref = k.fibre? c.f.ref from rfl, hfib, Fibre.handling, if_pos hr,
      Option.map_some, Option.some.injEq]
    exact (congrArg (fun f : Fibre => (cr.tvec, f.pred, f.base, false, 0, none, f.toks)) hfg :)
  · rw [ht]
    exact hu.others
  · rw [ht]
    exact hu.regs.trans ((congrArg Mach.regs hst :).trans (hreg ho))
  · rw [hbyte, ← hframe]
    exact Mach.framed_frame (hcan hm) i hi
  · rw [Mach.below_group, List.mem_singleton]
    rw [sbufs] at he
    exact Mach.drain_group_at _ e he
  · have hw' : n.widsAt (n.below c.leaf 1) = [] := by
      rw [Mach.below_group] at hw ⊢
      rwa [Mach.widsAt, hbufs]
    obtain ⟨hb, hr⟩ := Mach.framed_rest (x := y) (hcan hm) hw' (h.fits.trans hlen)
    refine ⟨smem.trans ((congrArg Mach.mem hst :).trans hmem), stags.trans ((congrArg Mach.tags hst :).trans htags), sbufs.trans (hb.trans hbufs),
      fun u a ha hu => ?_⟩
    obtain ⟨hr1, hr2⟩ := hr u a ha hu
    refine ⟨(hbyte u a).trans (hr1.trans ?_), fun hq => (hgr u _).trans ((hr2 hq).trans ?_)⟩
    · rw [Mach.homeByte, hscr]
      rfl
    · rw [Mach.granule, hgran]
      rfl
  · have hother := group?_timeless hgroups t' g'
    rw [Mach.group?_updGroup_other (f := Group.dropping l) (fun _ => ⟨rfl, rfl⟩) hne] at hother
    rw [ht, show (k.updGroup c.f.ref.t c.f.ref.g (Group.keeping fe)).group? t' g' = k.group? t' g' from
      Mach.group?_updGroup_other (f := Group.keeping fe) (fun _ => ⟨rfl, rfl⟩) hne, hu.group_other hne, Mach.group?, hfgroups]
    exact hother
  · rw [ht]
    exact hu.aside.trans ((Mach.aside_of_still hst).trans (congrArg Mach.aside hq :))

theorem asyncTrap_takes {r : FRef} {x : PendTrap} (hc : ctxOf s.m r = some c) (h : TrapReady s c cr) (hs : c.f.susp = false) (he : c.g.ended = false)
    (hp : c.cl.pre ≠ .saved) (hw : s.m.onWalk r.t r.g = false) (hh : s.m.groupHeld r.t r.g = false) (hx : x ∈ c.g.pend)
    (hl : ∀ y ∈ c.g.pend, y = x ∨ x.cause < y.cause) (hat : (c.f.wait = none ∧ c.f.run = false) ∨ c.f.wait.map Wait.why = some .granule) :
    Completes (exec (.asyncTrap r) s) (fun t => TrappedOn s.m s t c cr ⟨x.cause, x.sub, x.addr, x.fail.getD c.f.pred, true, x.restart || c.f.wait.isSome⟩ ∧
      (t.m.group? r.t r.g).map Group.pend = some (c.g.pend.erase x)) := by
  obtain ⟨hf, hg, -, -, -, -, hr⟩ := ctxOf_parts hc
  rw [← hr] at hf hg hw hh ⊢
  have hwait : c.f.wait.any (fun w => w.why == .granule) = c.f.wait.isSome ∧
      (c.f.wait.isSome || (c.f.wait.isNone && !c.f.run)) = true := by
    rcases hat with ⟨h1, h2⟩ | h1
    · simp [h1, h2]
    · obtain ⟨w, hw, hy⟩ := Option.map_eq_some_iff.mp h1
      simp [hw, hy]
  have key : asyncTrap s.cfg s.m c.f.ref = (s.m.updGroup c.f.ref.t c.f.ref.g (Group.dropping (List.erase · x))).takeTrap s.cfg c
      ⟨x.cause, x.sub, x.addr, x.fail.getD c.f.pred, true, x.restart || c.f.wait.isSome⟩ := by
    have hsaved : (c.cl.pre != PreSt.saved) = true := by simpa using hp
    unfold asyncTrap
    rw [hr, hc, ← hr]
    simp only [h.free, hs, he, hsaved, hw, hh, hwait.2, Bool.not_false, Bool.and_true, if_true, Mach.takeAsync, lowestTrap_eq hx hl, hwait.1]
    rfl
  refine onMach_completes (step := fun cf m => asyncTrap cf m c.f.ref) key ?_
  exact h.interrupted rfl hf hg (List.erase · x) rfl

end

/-- Settles O51: the tenant's counter is refilled above zero, a group's record takes the active bit, and an asynchronous trap goes through the stages of a
synchronous one. -/
theorem schedulingSteps : Obligations.SchedulingSteps := by
  unfold Obligations.SchedulingSteps
  exact fun s => ⟨fun _ _ _ _ _ _ => portSchedule_starts, fun _ _ _ => portSchedule_waits, fun _ _ => groupActivate_few, fun _ _ _ => groupActivate_many,
    fun _ _ _ _ => asyncTrap_takes⟩

end Sys2Proof.Machine
end

section
/-! ## The matrix engine (O52)

One unit of a context's work is one call of its unit on the current operation (R94). What a unit checks, reads or writes is memory, so the operations of
the context stand under their names when it ends them; a tile is written whole, as one run of the accumulator's keys (R51). -/
namespace Sys2Proof.Machine

section
variable {s : State} {m n : Mach} {cf : Conf} {oc : OpCtx} {o : Op} {T : Nat} {k : EngCtx} {unit : Conf → Mach → OpCtx → Option Mach}

/-! ### Units of work -/

/-- One unit of work; none where there is nothing a context may work on. -/
def Mach.workOnce (cf : Conf) (T : Nat) (k : EngCtx) (unit : Conf → Mach → OpCtx → Option Mach) (m : Mach) : Option Mach :=
  (m.curOp T k).bind fun o => (opCtx m o).bind fun oc => if oc.mayWork then unit cf (m.beginOp o) { oc with o := { o with begun := true } } else none

theorem Mach.work_step (n : Nat) : Mach.work cf T k unit (n + 1) m = match Mach.workOnce cf T k unit m with
    | some m' => Mach.work cf T k unit n m'
    | none => m := by
  rw [Mach.work]
  unfold Mach.workOnce
  cases m.curOp T k with
  | none => rfl
  | some o =>
    cases hx : opCtx m o with
    | none => simp only [Option.bind_some, hx, Option.bind_none]
    | some oc =>
      simp only [Option.bind_some, hx]
      split
      · cases unit cf (m.beginOp o) { oc with o := { o with begun := true } } <;> rfl
      · rfl

/-- Work of n + 1 units is one unit, then n. -/
theorem Mach.work_succ (n : Nat) : Mach.work cf T k unit (n + 1) m = Mach.work cf T k unit n (Mach.work cf T k unit 1 m) := by
  rw [Mach.work_step, Mach.work_step (n := 0)]
  cases hu : Mach.workOnce cf T k unit m with
  | some m' => rfl
  | none =>
    cases n with
    | zero => rfl
    | succ n => simp only [Mach.work_step, hu]

/-- The same of the events of a context's work. -/
theorem onMach_work (s : State) (n T : Nat) (k : EngCtx) (unit : Conf → Mach → OpCtx → Option Mach) :
    Completes (onMach s (fun cf m => Mach.work cf T k unit 1 m))
      (fun u => onMach s (fun cf m => Mach.work cf T k unit (n + 1) m) = onMach u (fun cf m => Mach.work cf T k unit n m)) :=
  ⟨_, rfl, by simp only [onMach, ← Mach.work_succ]⟩

/-- A unit of work on an operation whose entry has begun. -/
theorem Working.work (h : Working s T k oc) (hu : unit s.cfg s.m oc = some n) : Mach.work s.cfg T k unit 1 s.m = n := by
  have hb : s.m.beginOp oc.o = s.m := by rw [Mach.beginOp, h.begun, if_pos rfl]
  have ho : ({ oc with o := { oc.o with begun := true } } : OpCtx) = oc := by
    have := h.begun
    obtain ⟨o, tm, la, rc, cl⟩ := oc
    dsimp only at this ⊢
    rw [← this]
  rw [Mach.work_step, Mach.workOnce, h.cur, Option.bind_some, h.ctx, Option.bind_some, if_pos h.may, hb, ho, hu]
  rfl

/-- The current operation of a context is one of the machine's. -/
theorem Mach.curOp_mem (h : m.curOp T k = some o) : o ∈ m.ops := by
  unfold Mach.curOp at h
  split at h
  · rename_i x hx
    split at h
    · cases h
      exact (List.mem_filter.mp (List.mem_of_find?_eq_some hx)).1
    · contradiction
  · contradiction

/-! ### Operations that end, or change -/

/-- An operation of the name of o is on the machine. -/
def Mach.hasOp (m : Mach) (o : Op) : Prop := ∃ x ∈ m.ops, x.t = o.t ∧ x.k = o.k ∧ x.n = o.n

theorem Working.hasOp (h : Working s T k oc) : s.m.hasOp oc.o := ⟨oc.o, Mach.curOp_mem h.cur, rfl, rfl, rfl⟩

/-- Accesses of memory leave every operation its name. -/
theorem Mach.Keeps.hasOp (h : m.Keeps n) (ho : m.hasOp o) : n.hasOp o := by
  obtain ⟨x, hx, hn⟩ := ho
  have hp : x.plain ∈ n.ops.map Op.plain := by
    rw [show n.ops.map Op.plain = m.ops.map Op.plain from (congrArg Mach.ops h.eq :)]
    exact List.mem_map_of_mem hx
  obtain ⟨y, hy, he⟩ := List.mem_map.mp hp
  exact ⟨y, hy, (congrArg Op.t he).trans hn.1, (congrArg Op.k he).trans hn.2.1, (congrArg Op.n he).trans hn.2.2⟩

theorem Mach.Keeps.acc (h : m.Keeps n) : n.acc = m.acc := (congrArg Mach.acc h.eq :)

/-- A changed operation is there under its name, and what stands under it is changed. -/
theorem Mach.updOp_named {f : Op → Op} (hf : ∀ x, (f x).t = x.t ∧ (f x).k = x.k ∧ (f x).n = x.n) (h : m.hasOp o) :
    (m.updOp o.t o.k o.n f).hasOp o ∧ ∀ x ∈ (m.updOp o.t o.k o.n f).ops, x.t = o.t → x.k = o.k → x.n = o.n → ∃ y, x = f y := by
  obtain ⟨y, hy, hn⟩ := h
  refine ⟨⟨f y, List.mem_map.mpr ⟨y, hy, if_pos hn⟩, ?_⟩, fun x hx ht hk hn' => ?_⟩
  · obtain ⟨h1, h2, h3⟩ := hf y
    exact ⟨h1.trans hn.1, h2.trans hn.2.1, h3.trans hn.2.2⟩
  · obtain ⟨z, -, rfl⟩ := List.mem_map.mp hx
    split
    · exact ⟨z, rfl⟩
    · next hz =>
      rw [if_neg hz] at ht hk hn'
      exact absurd ⟨ht, hk, hn'⟩ hz

theorem Mach.finish_ended (h : m.hasOp o) (st sub : Nat) (addr : DWord) (cf : Conf) : Ended ⟨cf, m.finish o st sub addr⟩ o st sub addr := by
  obtain ⟨hex, hall⟩ := Mach.updOp_named (f := fun x => { x with fin := some (st, sub, addr) }) (fun _ => ⟨rfl, rfl, rfl⟩) h
  refine ⟨hex, fun x hx ht hk hn => ?_⟩
  obtain ⟨y, rfl⟩ := hall x hx ht hk hn
  rfl

theorem Mach.setOp_became {o' : Op} (h : m.hasOp o) (hn : o'.t = o.t ∧ o'.k = o.k ∧ o'.n = o.n) (cf : Conf) : Became ⟨cf, m.setOp o'⟩ o o' := by
  obtain ⟨ht, hk, hn⟩ := hn
  obtain ⟨y, hy, hy1, hy2, hy3⟩ := h
  have hs : m.setOp o' = m.updOp o.t o.k o.n (fun _ => o') := by rw [Mach.setOp, ht, hk, hn]
  rw [hs]
  refine ⟨⟨o', List.mem_map.mpr ⟨y, hy, if_pos ⟨hy1, hy2, hy3⟩⟩, ht, hk, hn⟩, fun x hx h1 h2 h3 => ?_⟩
  obtain ⟨z, -, rfl⟩ := List.mem_map.mp hx
  split
  · rfl
  · next hz =>
    rw [if_neg hz] at h1 h2 h3
    exact absurd ⟨h1, h2, h3⟩ hz

/-- An operation that is changed and then ends. -/
theorem Mach.setOp_finish_became {o' : Op} (h : m.hasOp o) (hn : o'.t = o.t ∧ o'.k = o.k ∧ o'.n = o.n) (cf : Conf) (st sub : Nat) (addr : DWord) :
    Became ⟨cf, (m.setOp o').finish o st sub addr⟩ o { o' with fin := some (st, sub, addr) } := by
  obtain ⟨hex, hall⟩ := m.setOp_became h hn cf
  obtain ⟨hex', -⟩ := Mach.finish_ended (m := m.setOp o') hex st sub addr cf
  refine ⟨hex', fun x hx h1 h2 h3 => ?_⟩
  obtain ⟨z, hz, rfl⟩ := List.mem_map.mp hx
  split
  · next hzn => rw [hall z hz hzn.1 hzn.2.1 hzn.2.2]
  · next hzn =>
    rw [if_neg hzn] at h1 h2 h3
    exact absurd ⟨h1, h2, h3⟩ hzn

/-! ### Accesses of an engine -/

theorem accessNow_keeps (m : Mach) (own : TlbOwner) (p x va : Nat) (cls : Cls) : m.Keeps (accessNow cf m own p x va cls).2 := by
  have hl := leafNow_keeps (cf := cf) m own p x va cls.writes
  unfold accessNow
  split
  · exact hl.of_eq ‹_›
  · split
    · exact hl.of_eq ‹_›
    · exact (hl.of_eq ‹_›).trans (Mach.keeps_ite (Mach.setLeafDirty_keeps ..) (.refl _))

theorem engAccess_keeps (m : Mach) (tm : Team) (p x : Nat) (k : EngCtx) (a n : Nat) (cls : Cls) : m.Keeps (engAccess cf m tm p x k a n cls).2 := by
  unfold engAccess
  split
  · exact .refl m
  · exact .refl m
  · exact .refl m
  · exact accessNow_keeps ..

theorem engPlace_keeps (m : Mach) (oc : OpCtx) (a n : Nat) (cls : Cls) : m.Keeps (engPlace cf m oc a n cls).2 := by
  have ha := engAccess_keeps (cf := cf) m oc.tm oc.la.p oc.la.x oc.o.k a n cls
  have hw := fun (m : Mach) off => winAccess_keeps (cf := cf) m oc.la.p off n cls
  unfold engPlace
  extract_lets own waits
  split
  · exact .refl m
  · split
    · exact ha.of_eq ‹_›
    · split
      · split <;> exact (ha.of_eq ‹_›).trans ((hw _ _).of_eq ‹_›)
      · exact ha.of_eq ‹_›

theorem engPlaces_keeps (m : Mach) (oc : OpCtx) (pcs : List (Nat × Nat)) (cls : Cls) : m.Keeps (engPlaces cf m oc pcs cls).2 := by
  refine .foldl_snd (fun r pc => ?_) pcs _ m
  split
  · have hp := fun m : Mach => engPlace_keeps (cf := cf) m oc pc.1 pc.2 cls
    split <;> exact (hp _).of_eq ‹_›
  · exact .refl _

theorem engResolve_keeps (m : Mach) (oc : OpCtx) (ws : List (Nat × List Byte)) : m.Keeps (engResolve cf m oc ws).2 := by
  have hp := engPlaces_keeps (cf := cf) m oc (ws.map (fun w => (w.1, w.2.length))) .write
  unfold engResolve
  split <;> exact hp.of_eq ‹_›

theorem engWrite1_keeps (m : Mach) (oc : OpCtx) (a : Nat) (bs : List Byte) : m.Keeps (engWrite1 cf m oc a bs).2 := by
  have hp := engPlace_keeps (cf := cf) m oc a bs.length .write
  unfold engWrite1
  split
  · exact hp.of_eq ‹_›
  · exact hp.of_eq ‹_›
  · have hk := hp.of_eq ‹_›
    split
    · exact hk.trans ((show Mach.Keeps _ _ from rfl).trans (Mach.writePlain_near ..).keeps)
    · exact hk.trans (Mach.writePlain_near ..).keeps

/-! ### Tiles -/

section
variable {α : Type} {d : α}

/-- Keys below the one sought are passed over. -/
theorem smGet_append_below {key : Nat} (r : SMap α) : ∀ {l : SMap α}, (∀ p ∈ l, p.1 < key) → smGet d (l ++ r) key = smGet d r key
  | [], _ => rfl
  | (k', v) :: l, h => by
    have hk : k' < key := h _ List.mem_cons_self
    rw [List.cons_append, smGet, if_neg (by omega), if_neg (by omega)]
    exact smGet_append_below r fun p hp => h p (List.mem_cons_of_mem _ hp)

/-- A key that no entry has reads as the default. -/
theorem smGet_absent {key : Nat} : ∀ {l : SMap α}, (∀ p ∈ l, p.1 ≠ key) → smGet d l key = d
  | [], _ => rfl
  | (k', v) :: l, h => by
    rw [smGet, if_neg (h (k', v) List.mem_cons_self)]
    split
    · rfl
    · exact smGet_absent fun p hp => h p (List.mem_cons_of_mem _ hp)

/-- The keys of a run, each with its value where that is not the default: what one of them reads as, with keys beyond the run behind. -/
theorem smGet_run [DecidableEq α] {lo N y : Nat} {f : Nat → α} {r : SMap α} (hy : y < N) (hr : ∀ p ∈ r, lo + N ≤ p.1) :
    smGet d ((((List.range N).map (fun x => (lo + x, f x))).filter (fun p => p.2 != d)) ++ r) (lo + y) = f y := by
  obtain ⟨k, rfl⟩ : ∃ k, N = y + (1 + k) := ⟨N - y - 1, by omega⟩
  rw [List.range_add, List.range_add, List.map_append, List.map_append, List.map_append, List.filter_append, List.filter_append, List.append_assoc,
    smGet_append_below _ fun p hp => ?_]
  · have later : ∀ p ∈ ((((List.range k).map (1 + ·)).map (y + ·)).map (fun x => (lo + x, f x))).filter (fun p => p.2 != d) ++ r, lo + y < p.1 := by
      intro p hp
      rcases List.mem_append.mp hp with hp | hp
      · obtain ⟨x, hx, rfl⟩ := List.mem_map.mp (List.mem_filter.mp hp).1
        obtain ⟨z, hz, rfl⟩ := List.mem_map.mp hx
        obtain ⟨w, -, rfl⟩ := List.mem_map.mp hz
        dsimp only
        omega
      · have := hr p hp
        omega
    by_cases hd : f y = d
    · rw [hd, List.append_assoc]
      refine smGet_absent fun p hp => ?_
      rcases List.mem_append.mp hp with hp | hp
      · simp [hd] at hp
      · exact Nat.ne_of_gt (later p hp)
    · simp [hd, smGet]
  · simp only [List.mem_filter, List.mem_map, List.mem_range] at hp
    obtain ⟨⟨x, hx, rfl⟩, -⟩ := hp
    exact Nat.add_lt_add_left hx lo

end

variable {t tile i j : Nat} {f : Nat → Nat → Word}

/-- A tile that is written reads as it was written. -/
theorem Mach.accAt_setTile (m : Mach) (t tile : Nat) (f : Nat → Nat → Word) (hi : i < 128) (hj : j < 128) : (m.setTile t tile f).accAt t tile i j = f i j := by
  have hk : accKey t tile i j = accKey t tile 0 0 + (128 * i + j) := by simp only [accKey]; omega
  have hdiv : (128 * i + j) / 128 = i ∧ (128 * i + j) % 128 = j := by omega
  rw [Mach.accAt, hk, Mach.setTile]
  dsimp only
  rw [List.append_assoc, smGet_append_below _ fun p hp => ?_]
  · refine (smGet_run (f := fun x => f (x / 128) (x % 128)) (by omega) fun p hp => ?_).trans (by rw [hdiv.1, hdiv.2])
    simpa using (List.mem_filter.mp hp).2
  · have : p.1 < accKey t tile 0 0 := by simpa using (List.mem_filter.mp hp).2
    omega

/-- No element of a tile but zeros is listed. -/
def Mach.zeroTile (m : Mach) (t tile : Nat) : Prop := ∀ p ∈ m.acc, p.1 < accKey t tile 0 0 ∨ accKey t tile 0 0 + 128 * 128 ≤ p.1

theorem Mach.zeroTile.accAt (h : m.zeroTile t tile) (hi : i < 128) (hj : j < 128) : m.accAt t tile i j = 0 := by
  refine smGet_absent fun p hp => ?_
  have hk : accKey t tile i j = accKey t tile 0 0 + (128 * i + j) := by simp only [accKey]; omega
  rcases h p hp with h | h <;> omega

/-- Zeroing a tile lists nothing more. -/
theorem Mach.mem_setTile_zero {p : Nat × Word} (hp : p ∈ (m.setTile t tile (fun _ _ => 0)).acc) :
    p ∈ m.acc ∧ (p.1 < accKey t tile 0 0 ∨ accKey t tile 0 0 + 128 * 128 ≤ p.1) := by
  have : (((List.range (128 * 128)).map (fun x => (accKey t tile 0 0 + x, (0 : Word)))).filter (fun p => p.2 != 0)) = [] :=
    List.filter_eq_nil_iff.mpr fun p hp => by
      obtain ⟨x, -, rfl⟩ := List.mem_map.mp hp
      simp
  rw [Mach.setTile] at hp
  dsimp only at hp
  rw [this, List.append_nil, List.mem_append] at hp
  rcases hp with hp | hp
  · exact ⟨List.mem_of_mem_filter hp, .inl (by simpa using (List.mem_filter.mp hp).2)⟩
  · exact ⟨List.mem_of_mem_filter hp, .inr (by simpa using (List.mem_filter.mp hp).2)⟩

theorem Mach.zeroTiles {x : Nat} : ∀ (tiles : List Nat) (m : Mach), x ∈ tiles ∨ m.zeroTile t x →
    (tiles.foldl (fun m y => m.setTile t y (fun _ _ => 0)) m).zeroTile t x
  | [], m, h => h.resolve_left List.not_mem_nil
  | y :: tiles, m, h => by
    refine Mach.zeroTiles tiles _ ?_
    by_cases hx : x ∈ tiles
    · exact .inl hx
    · refine .inr fun p hp => ?_
      obtain ⟨hm, hp⟩ := Mach.mem_setTile_zero hp
      rcases h with h | h
      · rcases List.mem_cons.mp h with rfl | h
        · exact hp
        · exact absurd h hx
      · exact h p hm

theorem Mach.setTiles_rest (t : Nat) (tiles : List Nat) (m : Mach) : let n := tiles.foldl (fun m y => m.setTile t y (fun _ _ => 0)) m
    SameStores n m ∧ n.regs = m.regs ∧ n.ops = m.ops :=
  have key : ∀ {γ : Type} (p : Mach → γ), (∀ m y, p (m.setTile t y (fun _ _ => 0)) = p m) →
      p (tiles.foldl (fun m y => m.setTile t y (fun _ _ => 0)) m) = p m := fun p hp => foldl_keeps p hp tiles m
  ⟨⟨key Mach.mem fun _ _ => rfl, key Mach.tags fun _ _ => rfl, key Mach.scr fun _ _ => rfl, key Mach.gran fun _ _ => rfl, key Mach.bufs fun _ _ => rfl⟩,
    key Mach.regs fun _ _ => rfl, key Mach.ops fun _ _ => rfl⟩

/-! ### ACCZ and MMA -/

theorem acczOperation_zeroes {mask : Nat} (h : Working s T .matrix oc) (hc : oc.o.cmd = .accz mask) (hm : ∀ x ∈ bitsOf mask 4, nbit oc.rc.tmask x = true) :
    Completes (exec (.acczOperation T) s) (fun t => Ended t oc.o 0 0 0 ∧ SameStores t.m s.m ∧ t.m.regs = s.m.regs ∧
      ∀ x ∈ bitsOf mask 4, ∀ i j, i < 128 → j < 128 → t.m.accAt oc.tm.t x i j = 0) := by
  have hall : (bitsOf mask 4).any (fun t => !nbit oc.rc.tmask t) = false := List.any_eq_false.mpr fun x hx => by simp [hm x hx]
  have hu : acczUnit s.cfg s.m oc = some (((bitsOf mask 4).foldl (fun m t => m.setTile oc.tm.t t (fun _ _ => 0)) s.m).finishOk oc.o) := by
    simp only [acczUnit, hc, hall, Bool.false_eq_true, if_false]
  obtain ⟨hst, hregs, hops⟩ := Mach.setTiles_rest oc.tm.t (bitsOf mask 4) s.m
  have hop : ((bitsOf mask 4).foldl (fun m t => m.setTile oc.tm.t t (fun _ _ => 0)) s.m).hasOp oc.o := by
    rw [Mach.hasOp, hops]
    exact h.hasOp
  refine onMach_completes (step := fun cf m => Mach.work cf T .matrix acczUnit 1 m) (h.work hu) ⟨Mach.finish_ended hop 0 0 0 s.cfg, hst, hregs, fun x hx i j hi hj => ?_⟩
  exact (Mach.zeroTiles (bitsOf mask 4) s.m (.inl hx)).accAt hi hj

theorem acczOperation_fails {mask : Nat} (h : Working s T .matrix oc) (hc : oc.o.cmd = .accz mask) (hm : ∃ x ∈ bitsOf mask 4, nbit oc.rc.tmask x = false) :
    Completes (exec (.acczOperation T) s) (fun t => Ended t oc.o 1 0 oc.o.blkAddr ∧ t.m.acc = s.m.acc) := by
  obtain ⟨x, hx, hn⟩ := hm
  have hany : (bitsOf mask 4).any (fun t => !nbit oc.rc.tmask t) = true := List.any_eq_true.mpr ⟨x, hx, by rw [hn]; rfl⟩
  have hu : acczUnit s.cfg s.m oc = some (s.m.finishParam oc.o) := by simp only [acczUnit, hc, hany, if_true]
  exact onMach_completes (step := fun cf m => Mach.work cf T .matrix acczUnit 1 m) (h.work hu) ⟨Mach.finish_ended h.hasOp .., rfl⟩

section
variable {zs : Bool} {bs : List Byte} {b slot base : Nat} {cb : List (BitVec 16)}

theorem mmaOperation_fails (h : Working s T .matrix oc) (hc : oc.o.cmd = .mma zs bs b slot base cb) (hs : oc.o.stage = 0)
    (hb : mmaBad oc (mmaBlk bs) slot = true) : Completes (exec (.mmaOperation T 1) s) (fun t => Ended t oc.o 1 0 oc.o.blkAddr ∧ t.m.acc = s.m.acc) := by
  have hu : mmaUnit s.cfg s.m oc = some (s.m.finishParam oc.o) := by simp only [mmaUnit, hc, hs, hb, if_true]
  exact onMach_completes (step := fun cf m => Mach.work cf T .matrix mmaUnit 1 m) (h.work hu) ⟨Mach.finish_ended h.hasOp .., rfl⟩

theorem mmaOperation_accumulates (h : Working s T .matrix oc) (hc : oc.o.cmd = .mma zs bs b slot base cb) (hs : oc.o.stage = 1)
    (hr : 128 * ((mmaBlk bs).kb * fmtBits (oc.rc.slot slot) * 4) ≤ oc.o.buf.length) (he : s.m.accErr = [] ∧ s.m.regErr = [] ∧ s.m.scaleErr = []) :
    Completes (exec (.mmaOperation T 1) s) (fun t => Ended t oc.o 0 0 0 ∧ SameStores t.m s.m ∧ t.m.regs = s.m.regs ∧ ∀ i j, i < 128 → j < 128 →
      t.m.accAt oc.tm.t (mmaBlk bs).tile i j = accDot (s.m.accAt oc.tm.t (mmaBlk bs).tile i j)
        (mmaRow s.m oc (mmaBlk bs) slot cb ((mmaBlk bs).kb * fmtBits (oc.rc.slot slot) * 4) i) (mmaCol s.m oc (mmaBlk bs) cb b base j) (mmaBlk bs).kb) := by
  obtain ⟨ha, hg, hsc⟩ := he
  have herr : (s.m.tileErr oc.tm.t (mmaBlk bs).tile || mmaRegErr s.m oc (mmaBlk bs) b base || mmaScaleErr s.m oc (mmaBlk bs) slot) = false := by
    simp [Mach.tileErr, mmaRegErr, mmaScaleErr, Mach.scaleBad, ha, hg, hsc]
  have hstage : ¬ oc.o.stage = 0 := by omega
  obtain ⟨n, F, hn, hF, hst, hregs, hops⟩ : ∃ (n : Mach) (F : Nat → Nat → Word), mmaUnit s.cfg s.m oc =
      some ((n.setTile oc.tm.t (mmaBlk bs).tile F).finishOk { oc.o with buf := [] }) ∧
      (∀ i j, i < 128 → j < 128 → F i j = accDot (s.m.accAt oc.tm.t (mmaBlk bs).tile i j)
        (mmaRow s.m oc (mmaBlk bs) slot cb ((mmaBlk bs).kb * fmtBits (oc.rc.slot slot) * 4) i) (mmaCol s.m oc (mmaBlk bs) cb b base j) (mmaBlk bs).kb) ∧ SameStores n s.m ∧ n.regs = s.m.regs ∧ n.ops = s.m.ops := by
    simp only [mmaUnit, hc, hstage, Nat.not_lt.mpr hr, herr, if_false, Bool.false_eq_true]
    refine ⟨_, _, rfl, fun i j hi hj => ?_, ?_⟩
    · cases zs <;> simp [List.getD_eq_getElem?_getD, hi, hj, Mach.accAt, Mach.count]
    · cases zs <;> exact ⟨⟨rfl, rfl, rfl, rfl, rfl⟩, rfl, rfl⟩
  have hop : n.hasOp oc.o := by
    rw [Mach.hasOp, hops]
    exact h.hasOp
  refine onMach_completes (step := fun cf m => Mach.work cf T .matrix mmaUnit 1 m) (h.work hn)
    ⟨Mach.finish_ended (m := n.setTile ..) hop 0 0 0 s.cfg, hst, hregs, fun i j hi hj => ?_⟩
  exact (n.accAt_setTile oc.tm.t (mmaBlk bs).tile F hi hj).trans (hF i j hi hj)

end

/-! ### DRAIN -/

section
variable {col : Bool} {fl : DrainFlags} {bs : List Byte} {slot : Nat}

theorem drainOperation_fails (h : Working s T .matrix oc) (hc : oc.o.cmd = .drain col fl bs slot) (hs : oc.o.stage = 0)
    (hb : drainBad oc (drainBlk bs) col fl slot = true) :
    Completes (exec (.drainOperation T 1) s) (fun t => Ended t oc.o 1 0 oc.o.blkAddr ∧ SameStores t.m s.m) := by
  have hu : drainUnit s.cfg s.m oc = some (s.m.finishParam oc.o) := by simp only [drainUnit, hc, hs, hb, if_true]
  exact onMach_completes (step := fun cf m => Mach.work cf T .matrix drainUnit 1 m) (h.work hu) ⟨Mach.finish_ended h.hasOp .., rfl, rfl, rfl, rfl, rfl⟩

theorem drainOperation_writes {w : Nat × List Byte} (h : Working s T .matrix oc) (hc : oc.o.cmd = .drain col fl bs slot) (hs : oc.o.stage = 1)
    (ha : fl.all = false) (hw : (drainWrites s.m oc (drainBlk bs) col (oc.rc.slot slot) ++ (if scaleKind (oc.rc.slot slot) ≠ 0 ∧ fl.sm = false
      then drainScaleWrites s.m oc (drainBlk bs) col (oc.rc.slot slot) else []))[oc.o.prog]? = some w) (he : engWrite1 s.cfg s.m oc w.1 w.2 = (.ok (), m)) :
    Completes (exec (.drainOperation T 1) s) (fun t => Became t oc.o { oc.o with prog := oc.o.prog + 1 } ∧ SameStores t.m m ∧ t.m.acc = s.m.acc) := by
  have hk := (engWrite1_keeps (cf := s.cfg) s.m oc w.1 w.2).of_eq he
  have hif : (scaleKind (oc.rc.slot slot) != 0 && !fl.sm) = decide (scaleKind (oc.rc.slot slot) ≠ 0 ∧ fl.sm = false) := by
    rw [Bool.eq_iff_iff]
    simp
  have hu : drainUnit s.cfg s.m oc = some (m.setOp { oc.o with prog := oc.o.prog + 1 }) := by
    simp only [drainUnit, hc, hs, ha, hif, decide_eq_true_eq, hw, he, Bool.false_eq_true, if_false, Nat.one_ne_zero]
  exact onMach_completes (step := fun cf m => Mach.work cf T .matrix drainUnit 1 m) (h.work hu)
    ⟨Mach.setOp_became (o' := { oc.o with prog := oc.o.prog + 1 }) (hk.hasOp h.hasOp) ⟨rfl, rfl, rfl⟩ s.cfg, ⟨rfl, rfl, rfl, rfl, rfl⟩, hk.acc⟩

/-- Element writes alone are left where the destination has no scales. -/
theorem scaleKind_bne (h : scaleKind slot = 0) : (scaleKind slot != 0) = false := by rw [h]; rfl

/-- A DRAIN that is over has its due and its status. -/
theorem drainDone_became (h : m.hasOp oc.o) (blk : DrainBlk) (ws : List (Acc × List Byte)) (cf : Conf) :
    Became ⟨cf, drainDone m oc blk fl ws []⟩ oc.o { oc.o with
      due := ⟨ws, [], if fl.z then some blk.tile else none, none, none⟩, fin := some (0, 0, 0) } :=
  Mach.setOp_finish_became (o' := { oc.o with due := ⟨ws, [], if fl.z then some blk.tile else none, none, none⟩ }) h ⟨rfl, rfl, rfl⟩ cf 0 0 0

theorem drainOperation_ends (h : Working s T .matrix oc) (hc : oc.o.cmd = .drain col fl bs slot) (hs : oc.o.stage = 1) (ha : fl.all = false)
    (hk : scaleKind (oc.rc.slot slot) = 0) (hl : (drainWrites s.m oc (drainBlk bs) col (oc.rc.slot slot)).length ≤ oc.o.prog) :
    Completes (exec (.drainOperation T 1) s) (fun t => Became t oc.o { oc.o with
      due := ⟨[], [], if fl.z then some (drainBlk bs).tile else none, none, none⟩, fin := some (0, 0, 0) } ∧ SameStores t.m s.m ∧ t.m.acc = s.m.acc) := by
  have hu : drainUnit s.cfg s.m oc = some (drainDone s.m oc (drainBlk bs) fl [] []) := by
    simp only [drainUnit, hc, hs, ha, scaleKind_bne hk, Nat.one_ne_zero, if_false, Bool.false_and, Bool.false_eq_true, List.append_nil,
      List.getElem?_eq_none hl, List.getElem?_nil]
  exact onMach_completes (step := fun cf m => Mach.work cf T .matrix drainUnit 1 m) (h.work hu)
    ⟨drainDone_became h.hasOp (drainBlk bs) [] s.cfg, ⟨rfl, rfl, rfl, rfl, rfl⟩, rfl⟩

theorem drainOperation_all {as : List (Acc × List Byte)} (h : Working s T .matrix oc) (hc : oc.o.cmd = .drain col fl bs slot) (hs : oc.o.stage = 1)
    (ha : fl.all = true) (hk : scaleKind (oc.rc.slot slot) = 0)
    (hr : engResolve s.cfg s.m oc (drainWrites s.m oc (drainBlk bs) col (oc.rc.slot slot)) = (.ok as, m)) :
    Completes (exec (.drainOperation T 1) s) (fun t =>
      (oneHome as = true ∧ ((drainWrites s.m oc (drainBlk bs) col (oc.rc.slot slot)).map (fun w => w.2.length)).sum ≤ 65536 →
        Became t oc.o { oc.o with due := ⟨as, [], if fl.z then some (drainBlk bs).tile else none, none, none⟩, fin := some (0, 0, 0) }) ∧
      (oneHome as = false → Ended t oc.o 1 0 oc.o.blkAddr) ∧ SameStores t.m m ∧ t.m.acc = s.m.acc) := by
  have hkeep := (engResolve_keeps (cf := s.cfg) s.m oc (drainWrites s.m oc (drainBlk bs) col (oc.rc.slot slot))).of_eq hr
  have hu : drainUnit s.cfg s.m oc = if oneHome as && decide (((drainWrites s.m oc (drainBlk bs) col (oc.rc.slot slot)).map (fun w => w.2.length)).sum ≤ 65536)
      then some (drainDone m oc (drainBlk bs) fl as []) else some (m.finishParam oc.o) := by
    simp only [drainUnit, hc, hs, ha, scaleKind_bne hk, Nat.one_ne_zero, if_false, if_true, Bool.false_and, Bool.false_eq_true, List.append_nil, hr,
      List.length_nil, Nat.add_zero]
  by_cases hfit : (oneHome as && decide (((drainWrites s.m oc (drainBlk bs) col (oc.rc.slot slot)).map (fun w => w.2.length)).sum ≤ 65536)) = true
  · rw [if_pos hfit] at hu
    refine onMach_completes (step := fun cf m => Mach.work cf T .matrix drainUnit 1 m) (h.work hu)
      ⟨fun _ => drainDone_became (hkeep.hasOp h.hasOp) (drainBlk bs) as s.cfg, fun hno => ?_, ⟨rfl, rfl, rfl, rfl, rfl⟩, hkeep.acc⟩
    rw [hno] at hfit
    contradiction
  · rw [if_neg hfit] at hu
    refine onMach_completes (step := fun cf m => Mach.work cf T .matrix drainUnit 1 m) (h.work hu)
      ⟨fun hyes => ?_, fun _ => Mach.finish_ended (hkeep.hasOp h.hasOp) .., ⟨rfl, rfl, rfl, rfl, rfl⟩, hkeep.acc⟩
    rw [hyes.1, decide_eq_true hyes.2] at hfit
    contradiction

end

end

/-- Settles O52: a unit is one step of its context's work, and a tile is one run of the accumulator's keys. -/
theorem matrixSteps : Obligations.MatrixSteps := by
  unfold Obligations.MatrixSteps
  exact fun s => ⟨fun n T => onMach_work s n T .matrix mmaUnit, fun n T => onMach_work s n T .matrix drainUnit, fun _ _ _ => acczOperation_zeroes, fun _ _ _ => acczOperation_fails, fun _ _ _ _ _ _ _ _ => mmaOperation_fails,
    fun _ _ _ _ _ _ _ _ => mmaOperation_accumulates, fun _ _ _ _ _ _ => drainOperation_fails, fun _ _ _ _ _ _ _ _ => drainOperation_writes,
    fun _ _ _ _ _ _ => drainOperation_ends, fun _ _ _ _ _ _ _ _ => drainOperation_all⟩

end Sys2Proof.Machine
end

section
/-! ## Steps of launches (O55)

A launch that is refused completes its queue's entry, and a completion drains the queue agent's path to system scope (R157). A write to another device that
rests at the device point leaves with it; where no port is left it is refused there and then (R364), and where the operation of an engine that posted it has
retired, the refusal is the report of the engine's context (R34), in its team's record. The statement has the teams stand as they were, from every state. -/
namespace Sys2Proof.Machine
open Sys2Proof.Tests

/-- A launch of queue 3 that waits for admission; its record lies at 0x10400. -/
def waitingLaunch : Launch := ⟨2, 3, 7, 0, false, false, false, 0, 0, 0, none, 0x10400, false, 0, 0, none, none⟩

/-- The entry of queue 3 that it is of, begun. -/
def launchBegun : Entry := ⟨blkOf 64 [(0, 8, 1), (8, 8, 0x10400)], 7, true, false, 0, 0, 2, [], none⟩

/-- The lab cut off from the other devices, with a posted write at the device point, and that launch: the entry point of its record is not aligned. -/
def refusingLab : State := { cutLab with m :=
  { cutLab.m.writeFlats (pkgAt 0x400) (blkOf 256 [(0, 8, 0x10001)]) (some (tagOf 0 0x400 probeKey)) with
    queues := [{ cutLab.m.queue 3 with en := true, rlog := 4, clog := 4, cur := some launchBegun }]
    launches := waitingLaunch :: cutLab.m.launches } }

/-- The record as read, and the machine after the read. -/
def refusedRecord : AgentR × Mach := readRec refusingLab.cfg refusingLab.m waitingLaunch

theorem refusedRecord_read : readRec refusingLab.cfg refusingLab.m waitingLaunch = (.ok (agentOr [] refusedRecord.1), refusedRecord.2) :=
  agent_of (by decide +kernel)

/-- Which contexts of each team have a report. -/
def Mach.reported (m : Mach) : List (List Bool) := m.teams.map (fun tm => tm.reports.map Report.valid)

theorem refusal_reports : refusingLab.m.reported ≠ (nextOf (exec (.launchAdmit 2 []) refusingLab)).m.reported := by decide +kernel

/-- Refutes O55: a LAUNCH_ADMIT that refuses its launch at a device cut off from the others leaves a report in a team's record. -/
theorem not_launchSteps : ¬ Obligations.LaunchSteps := by
  intro h
  obtain ⟨-, hrefuse, -⟩ := h refusingLab
  obtain ⟨t, ht, -, -, hteams, -⟩ := hrefuse 2 [] waitingLaunch probePart _ _ (by decide +kernel) (by decide +kernel) (by decide +kernel) (by decide +kernel)
    refusedRecord_read (by decide +kernel)
  have hn : nextOf (exec (.launchAdmit 2 []) refusingLab) = t := by rw [ht]; rfl
  refine refusal_reports ?_
  rw [hn, Mach.reported, Mach.reported, hteams]

end Sys2Proof.Machine
end

section
/-! ## Atomics at their home (O31)

An integer atomic's new value is the word operation of the table of R275; where its path holds no buffered write, an atomic reads its home and delivers there
what its operation makes of the bytes read (R75). -/
namespace Sys2Proof.Machine

/-! ### The table of R275 -/

/-- The signed value of a word, as the atomics' comparison takes it. -/
theorem toInt_word (x : Word) : (if x.toNat < 2 ^ (32 - 1) then (x.toNat : Int) else (x.toNat : Int) - 2 ^ 32) = x.toInt := by
  rw [BitVec.toInt_eq_toNat_cond]
  split <;> split <;> omega

theorem map_ofNat_word {j : Nat} {y : Word} (h : j % 2 ^ 32 = y.toNat) : (some j).map (BitVec.ofNat 32) = some y :=
  congrArg some (BitVec.eq_of_toNat_eq ((BitVec.toNat_ofNat ..).trans h))

theorem map_toNat_word (y : Word) : (some y.toNat).map (BitVec.ofNat 32) = some y := map_ofNat_word (Nat.mod_eq_of_lt y.isLt)

/-- A choice of two words that leaves memory alone where it would write the old one. -/
theorem unlessSame_ite {p : Prop} [Decidable p] (x b : Word) (h : b = x → p) :
    ((if (if p then x.toNat else b.toNat) = x.toNat then none else some (if p then x.toNat else b.toNat)).map (BitVec.ofNat 32)) =
      if p then none else some b := by
  by_cases hp : p
  · simp [hp]
  · have hb : b.toNat ≠ x.toNat := fun e => hp (h (BitVec.eq_of_toNat_eq e))
    simp [hp, hb]

theorem atomNew_min (x b k : Word) : (atomNew .min 32 k.toNat b.toNat x.toNat).map (BitVec.ofNat 32) = if x.sle b then none else some b := by
  have h := unlessSame_ite (p := x.toInt ≤ b.toInt) x b fun e => e ▸ le_rfl
  simpa only [atomNew, toInt_word, BitVec.sle, decide_eq_true_eq] using h

theorem atomNew_max (x b k : Word) : (atomNew .max 32 k.toNat b.toNat x.toNat).map (BitVec.ofNat 32) = if b.sle x then none else some b := by
  have h := unlessSame_ite (p := b.toInt ≤ x.toInt) x b fun e => e ▸ le_rfl
  simpa only [atomNew, toInt_word, BitVec.sle, decide_eq_true_eq] using h

theorem atomNew_umin (x b k : Word) : (atomNew .umin 32 k.toNat b.toNat x.toNat).map (BitVec.ofNat 32) = if x.ule b then none else some b := by
  have h := unlessSame_ite (p := x.toNat ≤ b.toNat) x b fun e => e ▸ le_rfl
  simpa only [atomNew, min_def, BitVec.ule, decide_eq_true_eq] using h

theorem atomNew_umax (x b k : Word) : (atomNew .umax 32 k.toNat b.toNat x.toNat).map (BitVec.ofNat 32) = if b.ule x then none else some b := by
  have h := unlessSame_ite (p := b.toNat ≤ x.toNat) x b fun e => e ▸ le_rfl
  simpa only [atomNew, max_comm x.toNat, max_def, BitVec.ule, decide_eq_true_eq] using h

theorem atomNew_sub (x b k : Word) : (atomNew .sub 32 k.toNat b.toNat x.toNat).map (BitVec.ofNat 32) = some (x - b) := by
  have hb := b.isLt
  refine map_ofNat_word ?_
  rw [BitVec.toNat_sub, Nat.mod_mod]
  congr 1
  omega

theorem atomNew_cas (x b k : Word) : (atomNew .cas 32 k.toNat b.toNat x.toNat).map (BitVec.ofNat 32) = if x = k then some b else none := by
  by_cases h : x = k
  · simp [atomNew, h]
  · simp [atomNew, h, BitVec.toNat_inj]

theorem atomNew_inc (x b k : Word) : (atomNew .inc 32 k.toNat b.toNat x.toNat).map (BitVec.ofNat 32) = some (if b.ule x then 0 else x + 1) := by
  by_cases h : b.toNat ≤ x.toNat
  · simp [atomNew, BitVec.ule, h]
  · simp [atomNew, BitVec.ule, h, BitVec.ofNat_add]

theorem atomNew_dec (x b k : Word) : (atomNew .dec 32 k.toNat b.toNat x.toNat).map (BitVec.ofNat 32) = some (if x = 0 ∨ b.ult x then b else x - 1) := by
  have h0 : x.toNat = 0 ↔ x = 0 := by rw [← BitVec.toNat_inj]; rfl
  simp only [atomNew, BitVec.ult, h0, decide_eq_true_eq]
  split
  · simp
  · next h =>
    have hx : x.toNat ≠ 0 := fun e => h (.inl (h0.mp e))
    have h1 : (1 : Word).toNat = 1 := rfl
    have hlt := x.isLt
    refine map_ofNat_word ?_
    rw [BitVec.toNat_sub, h1]
    omega

/-! ### At the home -/

section
variable {m : Mach} {leaf : Point} {sp : Space} {tag : Option KTag} {f : List Byte → Option (List Byte)} {new : List Byte} {t a n : Nat} {sync : Bool}

theorem needed_none {sel : Nat → Bool} : ∀ {l : List BufEnt}, (∀ e ∈ l, sel e.w.wid = false) → needed sel l = []
  | [], _ => rfl
  | e :: l, h => by
    rw [needed, needed_none fun x hx => h x (List.mem_cons_of_mem _ hx), h e List.mem_cons_self]
    rfl

/-- Pushing changes nothing where no write is chosen. -/
theorem Mach.push_none {sel : Nat → Bool} : ∀ (ps : List Point), (∀ e ∈ m.bufs, sel e.w.wid = false) → m.push ps sel = m
  | [], _ => rfl
  | p :: ps, h => by
    have h1 : m.pushAt sel p = m := by
      rw [Mach.pushAt, needed_none fun e he => h e (List.mem_filter.mp he).1]
      rfl
    rw [Mach.push_cons, h1, Mach.push_none ps h]

theorem Mach.uncopies_sameStores (m : Mach) (ps : List Point) (sp : Space) (a n : Nat) : SameStores (ps.foldl (fun m p => m.uncopy p sp a n) m) m :=
  .foldl (f := fun m p => m.uncopy p sp a n) (fun _ _ => ⟨rfl, rfl, rfl, rfl, rfl⟩) ps m

/-- The write an atomic delivers. -/
def atomWrite (sp : Space) (a : Nat) (tag : Option KTag) (sync : Bool) (new : List Byte) : Write := ⟨0, sp, a, new, .plain, tag, sync, 0, 0, 0⟩

/-- With no buffered write an atomic answers the bytes of the home, and leaves the stores as the delivery of its write does. -/
theorem Mach.atomic_unbuffered (hb : m.bufs = []) (hf : f (m.homeBytes sp a n tag) = some new) :
    (m.atomic leaf sp a n tag sync f).1 = m.homeBytes sp a n tag ∧
      SameStores (m.atomic leaf sp a n tag sync f).2 (m.deliver (atomWrite sp a tag sync new)) := by
  have hp : ∀ ps sel, m.push ps sel = m := fun ps sel => Mach.push_none ps (by simp [hb])
  simp only [Mach.atomic, hp, hf]
  exact ⟨trivial, (Mach.uncopies_sameStores ..).trans (Mach.touch_sameStores ..)⟩

/-- The home's byte of an allocation is read from the bytes of allocations alone. -/
theorem Mach.homeByte_scr_congr {n : Mach} (h : n.scr = m.scr) : n.homeByte (.scr t) a tag = m.homeByte (.scr t) a tag := by
  rw [Mach.homeByte, Mach.homeByte, h]

/-- A byte outside a write to an allocation, of the same team or another, reads as before. -/
theorem Mach.deliver_homeByte_scr {w : Write} {u : Nat} (hw : w.sp = .scr t) (hm : m.canonical = true) (hend : w.addr + w.bytes.length ≤ 2 ^ 20) (ha : a < 2 ^ 20)
    (hout : u ≠ t ∨ a < w.addr ∨ w.addr + w.bytes.length ≤ a) : (m.deliver w).homeByte (.scr u) a tag = m.homeByte (.scr u) a tag := by
  rw [Mach.homeByte, Mach.homeByte, Mach.deliver_scr m w t hw]
  exact smGet_smSetRun_other _ _ _ ((canonical_iff m).mp hm).2.2.1 (by unfold scrKey; omega)

/-- The bytes of a write to an allocation read as written. -/
theorem Mach.deliver_homeBytes_scr {w : Write} (hw : w.sp = .scr t) (hm : m.canonical = true) :
    (m.deliver w).homeBytes (.scr t) w.addr w.bytes.length tag = w.bytes := by
  refine List.ext_getElem (by simp [Mach.homeBytes]) fun i _ hi => ?_
  simp only [Mach.homeBytes, List.getElem_map, List.getElem_range]
  exact m.homeByte_scr_written w t i tag hw hm hi

end

/-- Settles O31: each entry of the table is a word operation, and an atomic's write is delivered at its home. -/
theorem atomicValues : Obligations.AtomicValues := by
  refine ⟨fun x b k => ⟨map_ofNat_word (by simp), atomNew_sub x b k, map_toNat_word (x &&& b), map_toNat_word (x ||| b), map_toNat_word (x ^^^ b),
    map_toNat_word b, atomNew_cas x b k, atomNew_min x b k, atomNew_max x b k, atomNew_umin x b k, atomNew_umax x b k, atomNew_inc x b k,
    atomNew_dec x b k⟩, fun m leaf t a n sync f new hm hb hn hf hend => ?_⟩
  obtain ⟨hold, hmem, -, hscr, -⟩ := Mach.atomic_unbuffered (leaf := leaf) (sync := sync) hb hf
  have hw : (atomWrite (.scr t) a none sync new).sp = .scr t := rfl
  have hbyte : ∀ u b, (m.atomic leaf (.scr t) a n none sync f).2.homeByte (.scr u) b none =
      (m.deliver (atomWrite (.scr t) a none sync new)).homeByte (.scr u) b none := fun _ _ => Mach.homeByte_scr_congr hscr
  subst hn
  refine ⟨hold, ?_, hmem.trans (congrArg Mach.mem (m.deliver_still hw) :), fun u b hlt hout => (hbyte u b).trans ?_⟩
  · simp only [Mach.homeBytes, hbyte]
    exact m.deliver_homeBytes_scr hw hm
  · exact m.deliver_homeByte_scr hw hm hend hlt hout

end Sys2Proof.Machine
end

section
/-! ## P(s) on an agent's chain

The points below P(s) come first on the chain and P(s) next (R75). What a point has in its subtree its parent has (R68), so the path to a home ends below
P(s) where P(s) has the home in its subtree, and goes over P(s) where it has not. -/
namespace Sys2Proof.Machine

section
variable {m n : Mach} {p q leaf : Point} {w : Write} {sp : Space} {a s : Nat} {tag : Option KTag}

/-- q stands next above p. -/
def Mach.Up (m : Mach) (p q : Point) : Prop := p ≠ .sys ∧ m.parent p = q

theorem Mach.chain_go_up (m : Mach) : ∀ k p, (∃ l, Mach.chain.go m k p = p :: l) ∧ (Mach.chain.go m k p).IsChain m.Up ∧
    (4 ≤ k + Point.level p → .sys ∈ Mach.chain.go m k p)
  | 0, p => ⟨⟨[], rfl⟩, .singleton p, fun h => by cases p <;> simp_all [Mach.chain.go, Point.level]⟩
  | k + 1, p => by
    obtain ⟨⟨l, hl⟩, hup, hsys⟩ := m.chain_go_up k (m.parent p)
    rw [Mach.chain.go]
    split
    · next hp => exact ⟨⟨[], rfl⟩, .singleton p, fun _ => by simp [hp]⟩
    · next hp =>
      have hlt := m.level_parent hp
      rw [hl] at hup hsys ⊢
      exact ⟨⟨_, rfl⟩, List.isChain_cons_cons.mpr ⟨⟨hp, rfl⟩, hup⟩, fun h => List.mem_cons_of_mem _ (hsys (by omega))⟩

theorem Mach.chain_head (m : Mach) (leaf : Point) : (m.chain leaf).head? = some leaf := by
  obtain ⟨⟨l, hl⟩, -⟩ := m.chain_go_up 4 leaf
  rw [Mach.chain, hl]
  rfl

theorem Mach.chain_up (m : Mach) (leaf : Point) : (m.chain leaf).IsChain m.Up := (m.chain_go_up 4 leaf).2.1

/-- What a point has in its subtree, its parent has. -/
theorem Mach.holds_parent (h : m.holds p sp = true) : m.holds (m.parent p) sp = true := by
  cases p with
  | core t =>
    cases sp with
    | scr u =>
      have ht : t = u := by simpa [Mach.holds] using h
      subst ht
      cases hm : m.team? t <;> simp [Mach.parent, Mach.holds, hm]
    | pkg | host | fab => simp [Mach.holds] at h
  | group | eng | clu | die | host | dev | sys => cases sp <;> simp_all [Mach.holds, Mach.parent]

theorem Mach.chain_levels (m : Mach) (leaf : Point) : (m.chain leaf).Pairwise (fun p q => Point.level p < Point.level q) :=
  have : IsTrans Point (fun p q => Point.level p < Point.level q) := ⟨fun _ _ _ h k => h.trans k⟩
  ((m.chain_up leaf).imp fun _ _ ⟨hp, hq⟩ => hq ▸ m.level_parent hp).pairwise

theorem Mach.chain_holds (m : Mach) (leaf : Point) (sp : Space) : (m.chain leaf).Pairwise (fun p q => m.holds p sp = true → m.holds q sp = true) :=
  have : IsTrans Point (fun p q => m.holds p sp = true → m.holds q sp = true) := ⟨fun _ _ _ h k => k ∘ h⟩
  ((m.chain_up leaf).imp fun _ _ ⟨_, hq⟩ => hq ▸ Mach.holds_parent).pairwise

/-- P(s) of an agent stands on its chain right above the points below it (R75). -/
theorem Mach.chain_scope (hl : Point.level leaf = 0) (hs : s ≤ 4) :
    s ≤ Point.level (m.scopePoint leaf s) ∧ ∃ ps, m.chain leaf = m.below leaf s ++ m.scopePoint leaf s :: ps := by
  have hsys : .sys ∈ m.chain leaf := (m.chain_go_up 4 leaf).2.2 (by omega)
  have hfound : ((m.chain leaf).find? (fun p => decide (s ≤ Point.level p))).isSome = true := List.find?_isSome.mpr ⟨_, hsys, decide_eq_true hs⟩
  obtain ⟨p, hp⟩ := Option.isSome_iff_exists.mp hfound
  obtain ⟨hle, as, bs, hc, has⟩ := List.find?_eq_some_iff_append.mp hp
  have hle : s ≤ Point.level p := of_decide_eq_true hle
  have has : ∀ q ∈ as, decide (Point.level q < s) = true := fun q hq => by simpa using has q hq
  have hb : m.below leaf s = as := by
    rw [Mach.below, hc, List.takeWhile_append_of_pos has, List.takeWhile_cons_of_neg (by simpa using hle), List.append_nil]
  have hsc : m.scopePoint leaf s = p := by rw [Mach.scopePoint, hp]; rfl
  rw [hb, hsc]
  exact ⟨hle, bs, hc⟩

theorem Mach.level_below (h : p ∈ m.below leaf s) : Point.level p < s := of_decide_eq_true (List.mem_takeWhile_imp h :)

/-- Where P(s) has the home in its subtree, all points of the path are below it. -/
theorem Mach.path_of_holds (hl : Point.level leaf = 0) (hs : s ≤ 4) (hh : m.holds (m.scopePoint leaf s) sp = true) : ∀ p ∈ m.path leaf sp, p ∈ m.below leaf s := by
  obtain ⟨-, ps, hc⟩ := Mach.chain_scope (m := m) hl hs
  intro p hp
  have hmono := m.chain_holds leaf sp
  have hno : m.holds p sp = false := by simpa using (List.mem_takeWhile_imp hp :)
  have hmem := (List.takeWhile_sublist _).subset hp
  rw [hc] at hmem hmono
  rcases List.mem_append.mp hmem with h | h
  · exact h
  · rcases List.mem_cons.mp h with rfl | h
    · rw [hh] at hno; cases hno
    · have := (List.pairwise_cons.mp (List.pairwise_append.mp hmono).2.1).1 p h hh
      rw [hno] at this
      cases this

/-- Where it has not, the path goes over all points below P(s), and over P(s). -/
theorem Mach.path_of_not_holds (hl : Point.level leaf = 0) (hs : s ≤ 4) (hh : m.holds (m.scopePoint leaf s) sp = false) :
    ∃ ps, m.path leaf sp = m.below leaf s ++ m.scopePoint leaf s :: ps := by
  obtain ⟨-, ps, hc⟩ := Mach.chain_scope (m := m) hl hs
  have hmono := m.chain_holds leaf sp
  rw [hc] at hmono
  have hno : ∀ p ∈ m.below leaf s, (!m.holds p sp) = true := fun p hp => by
    by_contra h
    have := (List.pairwise_append.mp hmono).2.2 p hp _ List.mem_cons_self (by simpa using h)
    rw [hh] at this
    cases this
  refine ⟨ps.takeWhile (fun p => !m.holds p sp), ?_⟩
  rw [Mach.path, hc, List.takeWhile_append_of_pos hno, List.takeWhile_cons_of_pos (by simp [hh])]

theorem Mach.acqPath_of_holds (hl : Point.level leaf = 0) (hs : s ≤ 4) (hh : m.holds (m.scopePoint leaf s) sp = true) : m.acqPath leaf s sp = [] :=
  List.filter_eq_nil_iff.mpr fun p hp => by simpa using Mach.level_below (Mach.path_of_holds hl hs hh p hp)

theorem Mach.acqPath_of_not_holds (hl : Point.level leaf = 0) (hs : s ≤ 4) (hh : m.holds (m.scopePoint leaf s) sp = false) :
    ∃ ps, m.acqPath leaf s sp = m.scopePoint leaf s :: ps := by
  obtain ⟨hle, -⟩ := Mach.chain_scope (m := m) hl hs
  obtain ⟨ps, hp⟩ := Mach.path_of_not_holds hl hs hh
  have hb : (m.below leaf s).filter (fun p => decide (s ≤ Point.level p)) = [] := List.filter_eq_nil_iff.mpr fun p hp => by simpa using Mach.level_below hp
  refine ⟨ps.filter (fun p => decide (s ≤ Point.level p)), ?_⟩
  rw [Mach.acqPath, hp, List.filter_append, hb, List.filter_cons_of_pos (by simpa using hle), List.nil_append]

/-- Operations of the ordering machine leave what a point has in its subtree. -/
theorem Mach.Near.holds (h : m.Near n) : n.holds = m.holds := by
  funext p sp
  cases sp with
  | scr t =>
    cases p with
    | clu c =>
      have ht := congrArg (Option.map Team.c) (h.team? t)
      rw [Option.map_map, Option.map_map] at ht
      have hany : ∀ k : Mach, (k.team? t).any (fun tm => tm.c == c) = ((k.team? t).map (Team.c ∘ Team.plain)).any (fun i => i == c) := fun k => by
        cases k.team? t <;> rfl
      rw [Mach.holds, Mach.holds]
      rw [hany, hany, ht]
    | group | eng | core | die | host | dev | sys => rfl
  | pkg | host | fab => rfl

theorem Mach.Near.scopePoint (h : m.Near n) : n.scopePoint leaf s = m.scopePoint leaf s := by rw [Mach.scopePoint, Mach.scopePoint, Mach.chain_congr h.parent]

end
end Sys2Proof.Machine
end

section
/-! ## A delivered write at its home

A byte of a write delivered in place reads as written, under the write's key (R30, R31, R43). Another unit's bytes read as before where what the cipher gives
for the unit written is no longer than a unit. -/
namespace Sys2Proof.Machine

section
variable {m n : Mach} {w : Write} {sp : Space} {a f g : Nat} {bs : List Byte} {tag tag' : Option KTag}

theorem sameTag_refl (tag : Option KTag) : sameTag tag tag = true := by cases tag <;> simp [sameTag, sameKey]

/-- What an agent writes under a key, it meets under that key as it was written. -/
theorem plainly_sealAfter (h : Bool) (k : Sealed) (tag : Option KTag) : plainly h (sealAfter h k tag) tag = true := by
  cases tag with
  | some b => simp [sealAfter, plainly, sameKey]
  | none => cases h <;> cases k <;> rfl

/-- A byte of the byte map as a read under a tag meets it. -/
def Mach.flatByte (m : Mach) (f : Nat) (tag : Option KTag) : Byte :=
  if plainly (isHost f) (smGet .open_ m.tags (f / 64)) tag then smGet 0 m.mem f else (m.unitUnder (f / 64) tag).getD (f % 64) 0

/-- Whether a store is behind the byte map. -/
def isFlat : Space → Bool
  | .pkg => true
  | .host => true
  | _ => false

theorem Mach.homeByte_flat (h : isFlat sp = true) (a : Nat) : m.homeByte sp a tag = m.flatByte (flatOf sp a) tag := by
  cases sp with
  | pkg | host => rfl
  | scr | fab => cases h

/-- The stores on this device that a home's byte is read from. -/
def Mach.homes (m : Mach) : SMap Byte × SMap Sealed × SMap Byte := (m.mem, m.tags, m.scr)

theorem SameStores.bufs (h : SameStores n m) : n.bufs = m.bufs := h.2.2.2.2

theorem SameStores.homes (h : SameStores n m) : n.homes = m.homes := by
  obtain ⟨hmem, htags, hscr, -, -⟩ := h
  rw [Mach.homes, hmem, htags, hscr, Mach.homes]

theorem Mach.homeByte_congr (h : n.homes = m.homes) (hf : isFab sp = false) : n.homeByte sp a tag = m.homeByte sp a tag := by
  obtain ⟨hmem, htags, hscr⟩ : n.mem = m.mem ∧ n.tags = m.tags ∧ n.scr = m.scr := by simpa [Mach.homes] using h
  cases sp with
  | scr t => rw [Mach.homeByte, Mach.homeByte, hscr]
  | pkg | host => simp only [Mach.homeByte, Mach.unitUnder, hmem, htags]
  | fab => cases hf

theorem flatOf_mod (sp : Space) (a : Nat) : flatOf sp a % 64 = a % 64 := by
  cases sp with
  | host => simp only [flatOf, hostFlat]; omega
  | scr | pkg | fab => rfl

theorem flatOf_add (sp : Space) (a k : Nat) : flatOf sp (a + k) = flatOf sp a + k := by
  cases sp with
  | host => exact (Nat.add_assoc ..).symm
  | scr | pkg | fab => rfl

/-- A write to one unit of the byte map leaves the stores as writing the bytes there does. -/
theorem Mach.deliver_flat (hf : isFlat w.sp = true) (hu : w.addr % 64 + w.bytes.length ≤ 64) :
    SameStores (m.deliver w) (m.writeFlat (flatOf w.sp w.addr) w.bytes w.tag) := by
  have hd : SameStores (m.deliver w)
      (((m.writeFlat (flatOf w.sp w.addr) w.bytes w.tag).clearPoison w.sp w.addr w.bytes.length).touch w.sp w.addr w.bytes.length w.tag) := by
    have hw : m.writeFlats (flatOf w.sp w.addr) w.bytes w.tag = m.writeFlat (flatOf w.sp w.addr) w.bytes w.tag := if_pos (by rwa [flatOf_mod])
    rw [← hw]
    cases hsp : w.sp with
    | pkg | host => simp only [Mach.deliver, hsp]; exact ⟨rfl, rfl, rfl, rfl, rfl⟩
    | scr | fab => rw [hsp] at hf; cases hf
  have hp : SameStores ((m.writeFlat (flatOf w.sp w.addr) w.bytes w.tag).clearPoison w.sp w.addr w.bytes.length) (m.writeFlat (flatOf w.sp w.addr) w.bytes w.tag) :=
    ⟨rfl, rfl, rfl, rfl, rfl⟩
  exact hp.trans ((Mach.touch_sameStores ..).trans hd)

/-- The bytes a write to a unit is made over: those of the store, or of the unit as the write's key meets it. -/
def Mach.under (m : Mach) (f : Nat) (tag : Option KTag) : SMap Byte :=
  if plainly (isHost f) (smGet .open_ m.tags (f / 64)) tag then m.mem else smSetRun 0 m.mem (f / 64 * 64) (m.unitUnder (f / 64) tag)

theorem Mach.under_wf (hm : m.canonical = true) : smWf 0 (m.under f tag) = true := by
  have hw := ((canonical_iff m).mp hm).1
  unfold Mach.under
  split
  · exact hw
  · exact smSetRun_wf _ _ hw

theorem isHost_unit (h : g / 64 = f / 64) : isHost g = isHost f := by
  unfold isHost
  rw [decide_eq_decide]
  omega

/-- A byte written to a unit reads as written under the key of the write. -/
theorem Mach.writeFlat_own (hm : m.canonical = true) (hu : g / 64 = f / 64) (hg : f ≤ g) (hlt : g < f + bs.length) :
    (m.writeFlat f bs tag).flatByte g tag = bs.getD (g - f) 0 := by
  have htag : smGet .open_ (m.writeFlat f bs tag).tags (g / 64) = sealAfter (isHost f) (smGet .open_ m.tags (f / 64)) tag := by
    rw [hu]
    exact (smGet_smSet _ _ _ ((canonical_iff m).mp hm).2.1).trans (if_pos rfl)
  have hget := smGet_smSetRun (d := (0 : Byte)) (g - f) bs f (Mach.under_wf (f := f) (tag := tag) hm) (by omega)
  rw [Nat.add_sub_cancel' hg] at hget
  rw [Mach.flatByte, htag, isHost_unit hu, if_pos (plainly_sealAfter ..)]
  exact hget.trans (List.getD_eq_getElem bs 0 (by omega)).symm

/-- The ciphers keep the length of a unit, as those of R30 do. They are constants without a body (log entry 8), so this is not proved of them. -/
def UnitCiphers : Prop := ∀ (key : List Byte) (p unit : Nat) (raw : List Byte), raw.length = 64 →
  (Config.xtsEnc key p unit raw).length = 64 ∧ (Config.xtsDec key p unit raw).length = 64

theorem Mach.unitUnder_length (h : UnitCiphers) (m : Mach) (u : Nat) (tag : Option KTag) : (m.unitUnder u tag).length = 64 := by
  have hraw : (smGetRun 0 m.mem (u * 64) 64).length = 64 := by simp [smGetRun]
  unfold Mach.unitUnder recode
  split
  · split
    · exact hraw
    · exact (h _ _ _ _ (h _ _ _ _ hraw).1).2
  · split
    · exact (h _ _ _ _ hraw).1
    · exact hraw
  · exact (h _ _ _ _ hraw).2
  · exact hraw

/-- A write to a unit leaves the bytes of other units, where the bytes it is made over do. -/
theorem Mach.writeFlat_mem (hm : m.canonical = true) (hu : f % 64 + bs.length ≤ 64) (hg : g / 64 ≠ f / 64)
    (hk : plainly (isHost f) (smGet .open_ m.tags (f / 64)) tag = true ∨ (m.unitUnder (f / 64) tag).length ≤ 64) :
    smGet 0 (m.writeFlat f bs tag).mem g = smGet 0 m.mem g := by
  refine (smGet_smSetRun_other _ _ _ (Mach.under_wf (f := f) (tag := tag) hm) (by omega)).trans ?_
  unfold Mach.under
  split
  · rfl
  · next h => exact smGet_smSetRun_other _ _ _ ((canonical_iff m).mp hm).1 (by have := hk.resolve_left h; omega)

theorem Mach.writeFlat_tags (hm : m.canonical = true) {u : Nat} (hg : u ≠ f / 64) : smGet .open_ (m.writeFlat f bs tag).tags u = smGet .open_ m.tags u :=
  (smGet_smSet _ _ _ ((canonical_iff m).mp hm).2.1).trans (if_neg hg)

theorem Mach.writeFlat_other (hm : m.canonical = true) (hu : f % 64 + bs.length ≤ 64) (hg : g / 64 ≠ f / 64)
    (hk : plainly (isHost f) (smGet .open_ m.tags (f / 64)) tag = true ∨ (m.unitUnder (f / 64) tag).length ≤ 64) :
    (m.writeFlat f bs tag).flatByte g tag' = m.flatByte g tag' := by
  have hrun : smGetRun 0 (m.writeFlat f bs tag).mem (g / 64 * 64) 64 = smGetRun 0 m.mem (g / 64 * 64) 64 :=
    List.map_congr_left fun i hi => Mach.writeFlat_mem hm hu (by have := List.mem_range.mp hi; omega) hk
  rw [Mach.flatByte, Mach.flatByte, Mach.unitUnder, Mach.unitUnder, Mach.writeFlat_tags hm hg, Mach.writeFlat_mem hm hu hg hk, hrun]

/-! ### A write in place -/

/-- Every byte of a write is at its home what the write says. -/
def Mach.Home (m : Mach) (w : Write) : Prop := ∀ a, w.covers w.sp a = true → m.homeByte w.sp a w.tag = w.bytes.getD (a - w.addr) 0

theorem Write.covers_own : w.covers w.sp a = true ↔ w.addr ≤ a ∧ a < w.addr + w.bytes.length := by simp [Write.covers]

theorem Write.inPlace_flat (hf : isFlat w.sp = true) (h : w.inPlace) : w.addr % 64 + w.bytes.length ≤ 64 ∧ w.addr + w.bytes.length ≤ 2 ^ 60 := by
  rw [Write.inPlace] at h
  cases hsp : w.sp with
  | pkg | host => rw [hsp] at h; exact h
  | scr | fab => rw [hsp] at hf; cases hf

theorem Write.inPlace_scr {t : Nat} (hsp : w.sp = .scr t) (h : w.inPlace) : w.addr + w.bytes.length ≤ 2 ^ 20 := by
  rw [Write.inPlace, hsp] at h
  exact h

theorem Write.inPlace_not_fab (h : w.inPlace) : isFab w.sp = false := by
  unfold Write.inPlace at h
  cases hsp : w.sp with
  | fab => rw [hsp] at h; exact h.elim
  | scr | pkg | host => rfl

/-- Units of the byte map are units of one store. -/
theorem flatOf_unit {sp' : Space} {b : Nat} (hf : isFlat sp = true) (hf' : isFlat sp' = true) (ha : a < 2 ^ 60) (hb : b < 2 ^ 60)
    (h : flatOf sp a / 64 = flatOf sp' b / 64) : sp = sp' ∧ a / 64 = b / 64 := by
  cases sp with
  | scr | fab => cases hf
  | pkg =>
    cases sp' with
    | pkg => exact ⟨rfl, h⟩
    | host => simp only [flatOf, hostFlat] at h; omega
    | scr | fab => cases hf'
  | host =>
    cases sp' with
    | host => simp only [flatOf, hostFlat] at h; exact ⟨rfl, by omega⟩
    | pkg => simp only [flatOf, hostFlat] at h; omega
    | scr | fab => cases hf'

/-- A write in place is at its home once it is delivered. -/
theorem Mach.deliver_home (hw : w.inPlace) (hm : m.canonical = true) : (m.deliver w).Home w := by
  intro a hc
  obtain ⟨hlo, hhi⟩ := Write.covers_own.mp hc
  obtain ⟨i, rfl⟩ := Nat.exists_eq_add_of_le hlo
  have hflat (hf : isFlat w.sp = true) : (m.deliver w).homeByte w.sp (w.addr + i) w.tag = w.bytes.getD (w.addr + i - w.addr) 0 := by
    obtain ⟨hu, -⟩ := Write.inPlace_flat hf hw
    have hmod := flatOf_mod w.sp w.addr
    rw [Mach.homeByte_congr (Mach.deliver_flat hf hu).homes (Write.inPlace_not_fab hw), Mach.homeByte_flat hf, flatOf_add,
      Mach.writeFlat_own hm (by omega) (by omega) (by omega)]
    congr 1
    omega
  cases hsp : w.sp with
  | scr t =>
    have h := m.homeByte_scr_written w t i w.tag hsp hm (by omega)
    rw [h, Nat.add_sub_cancel_left]
    exact (List.getD_eq_getElem w.bytes 0 (by omega)).symm
  | pkg => rw [← hsp]; exact hflat (by rw [hsp]; rfl)
  | host => rw [← hsp]; exact hflat (by rw [hsp]; rfl)
  | fab => have h := Write.inPlace_not_fab hw; rw [hsp] at h; cases h

/-- A write delivered leaves a byte in place of a unit that it does not meet, where the ciphers keep to their units. -/
theorem Mach.deliver_apart {v : Write} (hx : UnitCiphers) (hw : w.inPlace) (hne : 0 < w.bytes.length) (hv : v.inPlace) (hm : m.canonical = true)
    (hc : v.covers v.sp a = true) (ha : w.hits v.sp (a / 64 * 64) 64 = false) : (m.deliver w).homeByte v.sp a tag = m.homeByte v.sp a tag := by
  obtain ⟨hlo, hhi⟩ := Write.covers_own.mp hc
  have hout : v.sp = w.sp → w.addr + w.bytes.length ≤ a / 64 * 64 ∨ a / 64 * 64 + 64 ≤ w.addr := fun he => by
    simp only [Write.hits, overlaps, he, beq_self_eq_true, Bool.true_and, Bool.and_eq_false_iff, decide_eq_false_iff_not] at ha
    omega
  have hflat (hf : isFlat w.sp = true) : (m.deliver w).homeByte v.sp a tag = m.homeByte v.sp a tag := by
    obtain ⟨hu, hlim⟩ := Write.inPlace_flat hf hw
    rw [Mach.homeByte_congr (Mach.deliver_flat hf hu).homes (Write.inPlace_not_fab hv)]
    cases hvf : isFlat v.sp with
    | true =>
      obtain ⟨hvu, hvlim⟩ := Write.inPlace_flat hvf hv
      rw [Mach.homeByte_flat hvf, Mach.homeByte_flat hvf]
      refine Mach.writeFlat_other hm (by rwa [flatOf_mod]) (fun he => ?_) (.inr (Mach.unitUnder_length hx ..).le)
      obtain ⟨hsp, hunit⟩ := flatOf_unit hvf hf (by omega) (by omega) he
      have := hout hsp
      omega
    | false =>
      cases hs : v.sp with
      | scr t => rfl
      | pkg | host => rw [hs] at hvf; cases hvf
      | fab => have h := Write.inPlace_not_fab hv; rw [hs] at h; cases h
  cases hsp : w.sp with
  | pkg | host => exact hflat (by rw [hsp]; rfl)
  | fab => have h := Write.inPlace_not_fab hw; rw [hsp] at h; cases h
  | scr t =>
    have hend := Write.inPlace_scr hsp hw
    cases hs : v.sp with
    | scr u =>
      have hend' := Write.inPlace_scr hs hv
      refine Mach.deliver_homeByte_scr hsp hm hend (by omega) ?_
      by_cases hut : u = t
      · have := hout (by rw [hs, hsp, hut])
        omega
      · exact .inl hut
    | pkg | host => 
      have hst := m.deliver_still hsp
      have hmem : (m.deliver w).mem = m.mem := (congrArg Mach.mem hst :)
      have htags : (m.deliver w).tags = m.tags := (congrArg Mach.tags hst :)
      simp only [Mach.homeByte, Mach.unitUnder, hmem, htags]
    | fab => have h := Write.inPlace_not_fab hv; rw [hs] at h; cases h

end
end Sys2Proof.Machine
end

section
/-! ## Message passing, where the ciphers keep to their units (what O35 rests on)

The drain brings the data to P(s), or to its home where P(s) has that in its subtree, and the release places the flag there after it (R76). The acquire's scan
begins at P(s), and after its invalidate nothing stands below that a plain read could meet (R77).

O35 itself is not settled: a write under another key than its unit's is made over the unit as its key meets it (R31), all bytes that `Config.xtsDec` or
`Config.xtsEnc` gives, and these are constants without a body (log entry 8). It holds if they keep the length of a unit, and fails if one gives more than two
units. -/
namespace Sys2Proof.Machine

section
variable {m n : Mach} {p q leaf : Point} {w d f : Write} {sp : Space} {a s : Nat} {tag : Option KTag} {sel : Nat → Bool}

/-! ### A write on its way up -/

/-- The entry a write has at a point: none where the point has its home in its subtree, for it is delivered there. -/
def Mach.rest (m : Mach) (p : Point) (w : Write) : List BufEnt := if m.holds p w.sp then [] else [⟨p, w, .rests⟩]

/-- The one write on its way has come to a point, or to its home where the point has that in its subtree. -/
def Mach.Reached (m : Mach) (p : Point) (w : Write) : Prop := m.bufs = m.rest p w ∧ (m.holds p w.sp = true → m.Home w)

theorem Mach.rest_of_holds (h : m.holds p w.sp = true) : m.rest p w = [] := if_pos h
theorem Mach.rest_of_not_holds (h : m.holds p w.sp = false) : m.rest p w = [⟨p, w, .rests⟩] := if_neg (by simp [h])

theorem Mach.mem_rest {e : BufEnt} (h : e ∈ m.rest p w) : e = ⟨p, w, .rests⟩ := by
  unfold Mach.rest at h
  split at h
  · cases h
  · exact List.mem_singleton.mp h

theorem Mach.moveUp_alone {g : Going} (hf : isFab w.sp = false) (hb : m.bufs = [⟨p, w, g⟩]) : m.moveUp ⟨p, w, g⟩ =
    let n := ({ m with bufs := [] } : Mach).uncopy p w.sp w.addr w.bytes.length
    if m.holds (m.parent p) w.sp then n.deliver w else { n with bufs := [⟨m.parent p, w, g⟩] } := by
  simp only [Mach.moveUp, hb, List.erase_cons_head]
  split
  · next h => rw [h] at hf; cases hf
  · next h _ => rw [if_pos h]
  · next h => rw [if_neg (by simp [h])]; rfl

theorem Mach.moveUp_reached (hw : w.inPlace) (hm : m.canonical = true) (hb : m.bufs = [⟨p, w, .rests⟩]) : (m.moveUp ⟨p, w, .rests⟩).Reached (m.parent p) w := by
  have hnear := m.moveUp_near ⟨p, w, .rests⟩
  rw [Mach.Reached, Mach.rest, hnear.holds, Mach.moveUp_alone (Write.inPlace_not_fab hw) hb]
  have hn : (({ m with bufs := [] } : Mach).uncopy p w.sp w.addr w.bytes.length).canonical = true := hm
  cases hup : m.holds (m.parent p) w.sp with
  | true => exact ⟨(congrArg Mach.bufs (Mach.deliver_unlanded ..) :), fun _ => Mach.deliver_home hw hn⟩
  | false => exact ⟨rfl, fun h => nomatch h⟩

theorem Mach.pushAt_reached (hw : w.inPlace) (hm : m.canonical = true) (hs : sel w.wid = true) (h : m.Reached p w) : (m.pushAt sel p).Reached (m.parent p) w := by
  obtain ⟨hb, hh⟩ := h
  cases hp : m.holds p w.sp with
  | true =>
    rw [Mach.rest_of_holds hp] at hb
    have hup := Mach.holds_parent hp
    have hk : m.pushAt sel p = m := by rw [Mach.pushAt, hb]; rfl
    rw [hk]
    exact ⟨hb.trans (Mach.rest_of_holds hup).symm, fun _ => hh hp⟩
  | false =>
    rw [Mach.rest_of_not_holds hp] at hb
    have hk : m.pushAt sel p = m.moveUp ⟨p, w, .rests⟩ := by simp [Mach.pushAt, hb, needed, hs]
    rw [hk]
    exact Mach.moveUp_reached hw hm hb

/-- Pushed along a chain, the write comes to the chain's end. -/
theorem Mach.push_reached (hw : w.inPlace) : ∀ (ps : List Point) (m : Mach) (p : Point), (ps ++ [q]).head? = some p → (ps ++ [q]).IsChain m.Up →
    m.canonical = true → (∀ r ∈ ps, sel w.wid = true) → m.Reached p w → (m.push ps sel).Reached q w
  | [], m, p, hp, _, _, _, h => by
    obtain rfl : q = p := Option.some.inj hp
    exact h
  | r :: ps, m, p, hp, hc, hm, hs, h => by
    obtain rfl : r = p := Option.some.inj hp
    have hnear := m.pushAt_near sel r
    have hup : (m.pushAt sel r).Up = m.Up := by
      funext x y
      rw [Mach.Up, Mach.Up, hnear.parent]
    have hhead : (ps ++ [q]).head? = some (m.parent r) := by
      cases hl : ps ++ [q] with
      | nil => simp at hl
      | cons y l =>
        rw [List.cons_append, hl, List.isChain_cons_cons] at hc
        exact congrArg some hc.1.2.symm
    rw [Mach.push_cons]
    exact Mach.push_reached hw ps _ _ hhead (hup ▸ hc.tail) (hnear.2 hm) (fun x hx => hs x (List.mem_cons_of_mem _ hx))
      (Mach.pushAt_reached hw hm (hs r List.mem_cons_self) h)

/-- A drain brings the one write of an agent to P(s) (R76). -/
theorem Mach.drain_reached (hw : w.inPlace) (hm : m.canonical = true) (hl : Point.level leaf = 0) (hs : s ≤ 4) (hb : m.bufs = [⟨leaf, w, .rests⟩]) :
    (m.drain leaf s).Reached (m.scopePoint leaf s) w := by
  obtain ⟨-, ps, hc⟩ := Mach.chain_scope (m := m) hl hs
  have hhead : (m.below leaf s ++ [m.scopePoint leaf s]).head? = some leaf := by
    rw [← m.chain_head leaf, hc]
    cases m.below leaf s <;> rfl
  have hchain : (m.below leaf s ++ [m.scopePoint leaf s]).IsChain m.Up := by
    have h := m.chain_up leaf
    rw [hc, List.append_cons] at h
    exact h.left_of_append
  refine Mach.push_reached hw _ m leaf hhead hchain hm (fun r hr => ?_) ⟨hb.trans (Mach.rest_of_not_holds (Mach.holds_leaf hl)).symm, fun h => ?_⟩
  · have hmem : leaf ∈ m.below leaf s := by
      cases hbl : m.below leaf s with
      | nil => rw [hbl] at hr; cases hr
      | cons x l => rw [hbl] at hhead; rw [Option.some.inj hhead]; exact List.mem_cons_self
    simp [Mach.widsAt, hb, hmem]
  · rw [Mach.holds_leaf hl] at h
    cases h

/-! ### Data and flag -/

/-- The writes on their way are the data and the flag, the flag younger, and both have come to a point, or to their homes. -/
structure Mach.Passed (m : Mach) (p : Point) (d f : Write) : Prop where
  bufs : m.bufs = m.rest p d ++ m.rest p f
  data : m.holds p d.sp = true → m.Home d
  flag : m.holds p f.sp = true → m.Home f

theorem Mach.Home.congr (h : m.Home w) (hf : isFab w.sp = false) (hs : n.homes = m.homes) : n.Home w := fun a hc => (Mach.homeByte_congr hs hf).trans (h a hc)

theorem Mach.Reached.congr (h : m.Reached p w) (hw : w.inPlace) (hn : m.Near n) (hs : SameStores n m) : n.Reached p w := by
  obtain ⟨hb, hh⟩ := h
  rw [Mach.Reached, Mach.rest, hn.holds]
  exact ⟨hs.bufs.trans hb, fun hp => (hh hp).congr (Write.inPlace_not_fab hw) hs.homes⟩

theorem Mach.Passed.congr (h : m.Passed p d f) (hd : d.inPlace) (hf : f.inPlace) (hn : m.Near n) (hs : SameStores n m) : n.Passed p d f where
  bufs := by rw [Mach.rest, Mach.rest, hn.holds]; exact hs.bufs.trans h.bufs
  data := fun hh => (h.data (hn.holds ▸ hh)).congr (Write.inPlace_not_fab hd) hs.homes
  flag := fun hh => (h.flag (hn.holds ▸ hh)).congr (Write.inPlace_not_fab hf) hs.homes

/-- A write is placed at a point: buffered there, or delivered where the point has the home in its subtree. -/
theorem Mach.place_eq (hf : isFab w.sp = false) : m.place p w = if m.holds p w.sp then m.deliver w else { m with bufs := m.bufs ++ [⟨p, w, .rests⟩] } := by
  unfold Mach.place
  split
  · split
    · next h => rw [h] at hf; cases hf
    · rfl
  · rfl

/-- The flag is placed where the data has come. -/
theorem Mach.place_passed (hd : d.inPlace) (hf : f.inPlace) (hm : m.canonical = true) (h : m.Reached p d)
    (hkeep : ∀ a, d.covers d.sp a = true → (m.deliver f).homeByte d.sp a d.tag = m.homeByte d.sp a d.tag) : (m.place p f).Passed p d f := by
  obtain ⟨hb, hh⟩ := h
  have hholds := (m.place_near p f).holds
  have hbufs : (m.deliver f).bufs = m.bufs := (congrArg Mach.bufs (m.deliver_unlanded f) :)
  refine ⟨?_, ?_, ?_⟩
  · rw [Mach.rest, Mach.rest, hholds, Mach.place_eq (Write.inPlace_not_fab hf)]
    cases hp : m.holds p f.sp with
    | true => exact hbufs.trans (hb.trans (List.append_nil _).symm)
    | false => exact congrArg (· ++ _) hb
  · rw [hholds, Mach.place_eq (Write.inPlace_not_fab hf)]
    intro hp
    split
    · exact fun a hc => (hkeep a hc).trans (hh hp a hc)
    · exact (hh hp).congr (Write.inPlace_not_fab hd) rfl
  · rw [hholds, Mach.place_eq (Write.inPlace_not_fab hf)]
    intro hp
    rw [if_pos hp]
    exact Mach.deliver_home hf hm

theorem SameStores.markCore (m : Mach) (leaf : Point) (s : Nat) (w : Write) : SameStores (m.markCore leaf s w) m := by
  unfold Mach.markCore
  split
  · split <;> exact ⟨rfl, rfl, rfl, rfl, rfl⟩
  · exact .refl m

/-- The machine on which a release write is placed: its bytes have left the copies of the points below (R76). -/
def Mach.toRelease (m : Mach) (leaf : Point) (s : Nat) (w : Write) : Mach :=
  let n := (m.below leaf s).foldl (fun m p => m.uncopy p w.sp w.addr w.bytes.length) m
  { n with fresh := n.fresh + 1 }

/-- A release write as it is placed. -/
def Mach.released (m : Mach) (leaf : Point) (s : Nat) (w : Write) : Write := { w with wid := (m.toRelease leaf s w).fresh, sync := decide (s = 1) }

theorem Mach.writeRel_eq (m : Mach) (leaf : Point) (s : Nat) (w : Write) : m.writeRel leaf s w =
    ((m.toRelease leaf s w).place ((m.toRelease leaf s w).scopePoint leaf s) (m.released leaf s w)).markCore leaf s (m.released leaf s w) := rfl

/-- A release write places the flag at P(s), where the drain has brought the data (R76). -/
theorem Mach.writeRel_passed (hx : UnitCiphers) (hd : d.inPlace) (hf : f.inPlace) (hne : 0 < f.bytes.length) (hm : m.canonical = true)
    (h : m.Reached (m.scopePoint leaf s) d) (hap : ∀ a, d.covers d.sp a = true → f.hits d.sp (a / 64 * 64) 64 = false) :
    (m.writeRel leaf s f).Passed (m.scopePoint leaf s) d (m.released leaf s f) := by
  have hnear : m.Near (m.toRelease leaf s f) := (Mach.uncopies_near ..).trans (Mach.fresh_near ..)
  have hstores : SameStores (m.toRelease leaf s f) m := Mach.uncopies_sameStores ..
  have hp : ((m.toRelease leaf s f).place (m.scopePoint leaf s) (m.released leaf s f)).Passed (m.scopePoint leaf s) d (m.released leaf s f) :=
    Mach.place_passed hd hf (hnear.2 hm) (h.congr hd hnear hstores) fun a hc => Mach.deliver_apart hx hf hne hd (hnear.2 hm) hc (hap a hc)
  rw [Mach.writeRel_eq, hnear.scopePoint]
  exact hp.congr hd hf (Mach.markCore_near ..) (.markCore ..)

/-! ### Reading -/

/-- The youngest entry of a point that has a byte is what the point gives for it, under the key it was written under. -/
theorem Mach.pointByte_youngest {l r : List BufEnt} {g : Going} (hb : m.bufs = l ++ [⟨p, w, g⟩] ++ r) (hr : ∀ e ∈ r, e.w.covers w.sp a = false)
    (hc : w.covers w.sp a = true) : m.pointByte p w.sp a w.tag = some (w.bytes.getD (a - w.addr) 0) := by
  have hfind : m.bufs.reverse.find? (fun e => e.pt == p && e.w.hits w.sp a 1) = some ⟨p, w, g⟩ := by
    have hnone : r.reverse.find? (fun e => e.pt == p && e.w.hits w.sp a 1) = none :=
      List.find?_eq_none.mpr fun e he => by simp [Write.hits_one, hr e (List.mem_reverse.mp he)]
    rw [hb, List.reverse_append, List.reverse_append, List.find?_append, hnone]
    simp [Write.hits_one, hc]
  rw [Mach.pointByte, hfind]
  exact congrArg some (Mach.writeByte_sameTag (sameTag_refl _))

/-- What the reads of an agent above a point meet of a write: its home, or the point's entry. -/
def Mach.Gives (m : Mach) (p : Point) (w : Write) : Prop := ∀ a, w.covers w.sp a = true →
  (if m.holds p w.sp then some (m.homeByte w.sp a w.tag) else m.pointByte p w.sp a w.tag) = some (w.bytes.getD (a - w.addr) 0)

theorem Mach.Passed.gives_flag (h : m.Passed p d f) : m.Gives p f := by
  intro a hc
  split
  · next hp => exact congrArg some (h.flag hp a hc)
  · next hp =>
    refine Mach.pointByte_youngest (l := m.rest p d) (r := []) (g := .rests) (h.bufs.trans ?_) (fun _ h => nomatch h) hc
    rw [m.rest_of_not_holds (w := f) (by simpa using hp), List.append_nil]

theorem Mach.Passed.gives_data (h : m.Passed p d f) (ha : ∀ a, d.covers d.sp a = true → f.covers d.sp a = false) : m.Gives p d := by
  intro a hc
  split
  · next hp => exact congrArg some (h.data hp a hc)
  · next hp =>
    have hrest := m.rest_of_not_holds (w := d) (p := p) (by simpa using hp)
    refine Mach.pointByte_youngest (l := []) (h.bufs.trans (congrArg (· ++ m.rest p f) hrest)) (fun e he => ?_) hc
    rw [Mach.mem_rest he]
    exact ha a hc

/-- Every entry stands at the point. -/
theorem Mach.Passed.at (h : m.Passed p d f) : ∀ e ∈ m.bufs, e.pt = p := by
  intro e he
  rw [h.bufs] at he
  rcases List.mem_append.mp he with he | he
  · rw [Mach.mem_rest he]
  · rw [Mach.mem_rest he]

/-- A scan of points that give no byte goes on over the next ones. -/
theorem Mach.scan_append : ∀ {ps qs : List Point}, (∀ p ∈ ps, m.pointByte p sp a tag = none) →
    (m.scan sp a tag (ps ++ qs)).1 = (m.scan sp a tag qs).1
  | [], _, _ => rfl
  | p :: ps, qs, h => by
    rw [List.cons_append, Mach.scan, h p List.mem_cons_self]
    exact Mach.scan_append fun q hq => h q (List.mem_cons_of_mem _ hq)

theorem Mach.scan_gives {ps : List Point} (hg : m.Gives p w) (hp : m.holds p w.sp = false) (hc : w.covers w.sp a = true) :
    (m.scan w.sp a w.tag (p :: ps)).1 = w.bytes.getD (a - w.addr) 0 := by
  have h := hg a hc
  rw [if_neg (by simp [hp])] at h
  rw [Mach.scan, h]

theorem Mach.home_gives (hg : m.Gives p w) (hp : m.holds p w.sp = true) (hc : w.covers w.sp a = true) :
    m.homeByte w.sp a w.tag = w.bytes.getD (a - w.addr) 0 := by
  have h := hg a hc
  rw [if_pos hp] at h
  exact Option.some.inj h

/-- An acquire's scan begins at P(s) (R77). -/
theorem Mach.acq_gives (hl : Point.level leaf = 0) (hs : s ≤ 4) (hg : m.Gives (m.scopePoint leaf s) w) (hc : w.covers w.sp a = true) :
    (m.scan w.sp a w.tag (m.acqPath leaf s w.sp)).1 = w.bytes.getD (a - w.addr) 0 := by
  cases hh : m.holds (m.scopePoint leaf s) w.sp with
  | true =>
    rw [Mach.acqPath_of_holds hl hs hh]
    exact Mach.home_gives hg hh hc
  | false =>
    obtain ⟨ps, hps⟩ := Mach.acqPath_of_not_holds hl hs hh
    rw [hps]
    exact Mach.scan_gives hg hh hc

/-- Where no copy and no write stands below P(s), a plain read meets what P(s) gives. -/
theorem Mach.seen_gives (hl : Point.level leaf = 0) (hs : s ≤ 4) (hg : m.Gives (m.scopePoint leaf s) w) (hb : ∀ e ∈ m.bufs, e.pt ∉ m.below leaf s)
    (hk : ∀ k ∈ m.copies, k.pt ∉ m.below leaf s) (hc : w.covers w.sp a = true) : m.seen leaf w.sp a w.tag = w.bytes.getD (a - w.addr) 0 := by
  have hnone : ∀ p ∈ m.below leaf s, m.pointByte p w.sp a w.tag = none := fun p hp => by
    have hfind : m.bufs.reverse.find? (fun e => e.pt == p && e.w.hits w.sp a 1) = none :=
      List.find?_eq_none.mpr fun e he => by
        have : e.pt ≠ p := fun h => hb e (List.mem_reverse.mp he) (h ▸ hp)
        simp [this]
    rw [Mach.pointByte, hfind]
    refine List.findSome?_eq_none_iff.mpr fun k hkm => if_neg ?_
    have : k.pt ≠ p := fun h => hk k hkm (h ▸ hp)
    simp [this]
  rw [Mach.seen_eq_scan]
  cases hh : m.holds (m.scopePoint leaf s) w.sp with
  | true =>
    rw [Mach.scan_of_none fun p hp => hnone p (Mach.path_of_holds hl hs hh p hp)]
    exact Mach.home_gives hg hh hc
  | false =>
    obtain ⟨ps, hps⟩ := Mach.path_of_not_holds hl hs hh
    rw [hps, Mach.scan_append hnone]
    exact Mach.scan_gives hg hh hc

/-- An acquire read of what is not buffered below P(s) pushes nothing. -/
theorem Mach.readAcq_unbuffered {k : Nat} (install : Bool) (h : m.widsTo (m.below leaf s) sp a k = []) :
    m.readAcq leaf s sp a k tag install = m.readOver (m.acqPath leaf s sp) sp a k tag install := by
  have hpush : m.push (m.below leaf s) (fun w => (m.widsTo (m.below leaf s) sp a k).contains w) = m := Mach.push_none _ fun e _ => by simp [h]
  rw [Mach.readAcq, hpush]

/-- A machine where data and flag have come to P(s) of an agent: an acquire reads the flag. -/
theorem Mach.readAcq_flag (hl : Point.level leaf = 0) (hs : s ≤ 4) (h : m.Passed (m.scopePoint leaf s) d f) :
    (m.readAcq leaf s f.sp f.addr f.bytes.length f.tag true).1 = f.bytes ∧ SameStores (m.readAcq leaf s f.sp f.addr f.bytes.length f.tag true).2 m := by
  obtain ⟨hle, -⟩ := Mach.chain_scope (m := m) hl hs
  have hnone : m.widsTo (m.below leaf s) f.sp f.addr f.bytes.length = [] := by
    rw [Mach.widsTo, List.filter_eq_nil_iff.mpr fun e he => ?_]
    · rfl
    · have hat : m.scopePoint leaf s ∉ m.below leaf s := fun hb => absurd (Mach.level_below hb) (by omega)
      simp [h.at e he, hat]
  have heq := Mach.readAcq_unbuffered (tag := f.tag) true hnone
  rw [heq]
  refine ⟨?_, Mach.readOver_sameStores ..⟩
  refine List.ext_getElem (by simp [Mach.readOver]) fun i hi hi' => ?_
  have hc : f.covers f.sp (f.addr + i) = true := Write.covers_own.mpr ⟨by omega, by omega⟩
  have hgive := Mach.acq_gives hl hs h.gives_flag hc
  rw [Nat.add_sub_cancel_left, List.getD_eq_getElem _ _ hi'] at hgive
  simpa [Mach.readOver] using hgive

theorem Mach.invalidate_sameStores (m : Mach) (leaf : Point) (s : Nat) : SameStores (m.invalidate leaf s) m := ⟨rfl, rfl, rfl, rfl, rfl⟩

/-- After the acquire's invalidate every byte of the data is seen (R77). -/
theorem Mach.seen_data (hl : Point.level leaf = 0) (hs : s ≤ 4) (hd : d.inPlace) (hf : f.inPlace) (h : m.Passed (m.scopePoint leaf s) d f)
    (ha : ∀ a, d.covers d.sp a = true → f.covers d.sp a = false) (hn : m.Near n) (hst : SameStores n m) (hc : d.covers d.sp a = true) :
    (n.invalidate leaf s).seen leaf d.sp a d.tag = d.bytes.getD (a - d.addr) 0 := by
  have hnear : m.Near (n.invalidate leaf s) := hn.trans (n.invalidate_near leaf s)
  have hp : (n.invalidate leaf s).Passed (m.scopePoint leaf s) d f := h.congr hd hf hnear (hst.trans (n.invalidate_sameStores leaf s))
  obtain ⟨hle, -⟩ := Mach.chain_scope (m := m) hl hs
  have hb := hp.at
  rw [← hnear.scopePoint] at hp hle hb
  refine Mach.seen_gives hl hs (hp.gives_data ha) (fun e he hbel => ?_) (fun k hk => ?_) hc
  · rw [hb e he] at hbel
    exact absurd (Mach.level_below hbel) (by omega)
  · rw [(n.invalidate_near leaf s).below]
    exact ((Mach.mem_invalidate_copies k).mp hk).2

/-- Data and flag that lie a unit apart meet no unit together. -/
theorem Write.apart (hd : d.inPlace) (hf : f.inPlace) (h : d.sp ≠ f.sp ∨ d.addr / 64 + 1 < f.addr / 64 ∨ f.addr / 64 + 1 < d.addr / 64)
    (hds : ∀ t, d.sp = .scr t → d.bytes.length ≤ 64) (hfs : ∀ t, f.sp = .scr t → f.bytes.length ≤ 64) (hc : d.covers d.sp a = true) :
    f.hits d.sp (a / 64 * 64) 64 = false := by
  have hlen : ∀ {w : Write}, w.inPlace → (∀ t, w.sp = .scr t → w.bytes.length ≤ 64) → w.bytes.length ≤ 64 := fun {w} hw hws => by
    cases hsp : w.sp with
    | scr t => exact hws t hsp
    | pkg | host => have := (Write.inPlace_flat (by rw [hsp]; rfl) hw).1; omega
    | fab => have h := Write.inPlace_not_fab hw; rw [hsp] at h; cases h
  obtain ⟨hlo, hhi⟩ := Write.covers_own.mp hc
  have hld := hlen hd hds
  have hlf := hlen hf hfs
  rcases h with h | h
  · simp [Write.hits, Ne.symm h]
  · simp only [Write.hits, overlaps, Bool.and_eq_false_iff, decide_eq_false_iff_not]
    omega

end

/-- What O35 says holds where the ciphers keep the length of a unit. This does not settle O35: of the model's ciphers nothing is given. -/
theorem messagePassing_of_unitCiphers (hx : UnitCiphers) : Obligations.MessagePassing := by
  intro m x y s d f hm hb hlx hly hs hsc hd hf hne hap hds hfs m1 r
  have hunit : ∀ a, d.covers d.sp a = true → f.hits d.sp (a / 64 * 64) 64 = false := fun a => Write.apart hd hf hap hds hfs
  have hbyte : ∀ a, d.covers d.sp a = true → f.covers d.sp a = false := fun a hc => by
    by_contra h
    have h1 := Write.hits_unit (w := f) (sp := d.sp) (a := a) (Write.hits_one.trans (by simpa using h))
    rw [hunit a hc] at h1
    cases h1
  have hd' : ({ d with wid := m.fresh + 1 } : Write).inPlace := hd
  have hplain := m.writePlain_near x d
  have hbufs : (m.writePlain x d).bufs = [⟨x, { d with wid := m.fresh + 1 }, .rests⟩] := by rw [Mach.writePlain_bufs hlx, hb, List.nil_append]
  have hdrain := hplain.trans (Mach.drain_near _ x s)
  have hreach := Mach.drain_reached hd' (hplain.2 hm) hlx hs hbufs
  rw [hplain.scopePoint, ← hdrain.scopePoint] at hreach
  have hg : (((m.writePlain x d).drain x s).released x s f).inPlace := hf
  have hpass := Mach.writeRel_passed hx hd' hf (List.length_pos_iff.mpr hne) (hdrain.2 hm) hreach hunit
  have hnear : m.Near m1 := hdrain.trans (Mach.writeRel_near _ x s f)
  rw [hdrain.scopePoint, hsc, ← hnear.scopePoint] at hpass
  obtain ⟨hflag, hst⟩ := Mach.readAcq_flag hly hs hpass
  refine ⟨hflag, fun a hc => ?_⟩
  have hseen := Mach.seen_data hly hs hd' hg hpass hbyte (Mach.readAcq_near ..) hst hc
  exact hseen

end Sys2Proof.Machine
end

section
/-! ## Message passing, where a cipher writes past its unit

The host writes data to the third unit of package memory and then a flag, under a key, to the first, which holds bytes written without one. -/
namespace Sys2Proof.Machine

section
variable {m : Mach} {key : List Byte} {p unit : Nat} {v b : Byte}

/-- A machine at reset, but that the first unit of package memory has been written without a key. -/
def bareUnit : Mach := { State.reset.m with tags := [(0, .bare)] }

/-- Data in the third unit, without a key. -/
def bareData (b : Byte) : Write := ⟨0, .pkg, 128, [b], .plain, none, false, 0, 0, 0⟩

/-- A flag in the first unit, under a key. -/
def keyedFlag (key : List Byte) (p unit : Nat) : Write := ⟨0, .pkg, 0, [0], .plain, some ⟨key, p, unit, 0⟩, false, 0, 0, 0⟩

/-- The flag is written over all that the cipher gives for its unit (R31), a byte of the third unit among it. -/
theorem flag_over_data (hv : (Config.xtsDec key p unit (List.replicate 64 0))[128]? = some v) (htags : m.tags = [(0, .bare)])
    (hmem : m.mem = smSet 0 [] 128 b) : (m.writeFlat 0 [0] (some ⟨key, p, unit, 0⟩)).flatByte 128 none = v := by
  have hraw : smGetRun 0 m.mem (0 * 64) 64 = List.replicate 64 0 := by
    refine List.eq_replicate_iff.mpr ⟨by simp [smGetRun], fun y hy => ?_⟩
    obtain ⟨i, hi, rfl⟩ := List.mem_map.mp hy
    have hne : 0 * 64 + i ≠ 128 := by have := List.mem_range.mp hi; omega
    rw [hmem, smGet_smSet _ _ _ rfl, if_neg hne]
    rfl
  have hunit : m.unitUnder 0 (some ⟨key, p, unit, 0⟩) = Config.xtsDec key p unit (List.replicate 64 0) := by
    rw [Mach.unitUnder, hraw, htags]
    rfl
  obtain ⟨hlt, hget⟩ := List.getElem?_eq_some_iff.mp hv
  have hwf : smWf (0 : Byte) m.mem = true := by rw [hmem]; exact smSet_wf _ _ rfl
  have hund : m.under 0 (some ⟨key, p, unit, 0⟩) = smSetRun 0 m.mem 0 (Config.xtsDec key p unit (List.replicate 64 0)) := by
    rw [← hunit, Mach.under, htags]
    rfl
  have hmem' : smGet 0 (m.writeFlat 0 [0] (some ⟨key, p, unit, 0⟩)).mem 128 = v := by
    refine (smGet_smSetRun_other 128 [0] 0 (m := m.under 0 (some ⟨key, p, unit, 0⟩)) ?_ (.inr (by decide))).trans ?_
    · rw [hund]; exact smSetRun_wf _ _ hwf
    · have h := smGet_smSetRun (d := (0 : Byte)) 128 (Config.xtsDec key p unit (List.replicate 64 0)) 0 hwf hlt
      rw [hund]
      exact h.trans hget
  have htags' : smGet .open_ (m.writeFlat 0 [0] (some ⟨key, p, unit, 0⟩)).tags (128 / 64) = .open_ := by
    show smGet .open_ (smSet .open_ m.tags _ _) _ = _
    rw [htags]
    rfl
  rw [Mach.flatByte, htags']
  exact hmem'

/-- The data, written by the host and drained to system scope. -/
def drainedData (b : Byte) : Mach := (bareUnit.writePlain .host (bareData b)).drain .host 4

theorem drainedData_stores (b : Byte) : (drainedData b).bufs = [] ∧ (drainedData b).tags = [(0, .bare)] ∧ (drainedData b).mem = smSet 0 [] 128 b := by
  let k := bareUnit.writePlain .host (bareData b)
  let d : Write := { bareData b with wid := bareUnit.fresh + 1 }
  have hb : k.bufs = [⟨.host, d, .rests⟩] := Mach.writePlain_bufs rfl
  have hdrain : drainedData b = k.moveUp ⟨.host, d, .rests⟩ := by
    have hbel : k.below .host 4 = [.host] := rfl
    show k.drain .host 4 = _
    simp [Mach.drain, hbel, Mach.push, needed, hb, Mach.widsAt]
  have hstores : SameStores (k.moveUp ⟨.host, d, .rests⟩) (({ k with bufs := [] } : Mach).writeFlat 128 [b] none) := by
    rw [Mach.moveUp_alone rfl hb]
    exact Mach.deliver_flat (w := d) rfl (by decide : 128 % 64 + 1 ≤ 64)
  obtain ⟨hmem, htags, -, -, hbufs⟩ := hstores
  rw [hdrain]
  exact ⟨hbufs, htags, hmem⟩

/-- What the host's reads meet of such data: its home alone. -/
theorem host_gives (h : m.homeByte .pkg 128 none = v) : m.Gives (m.scopePoint .host 4) (bareData v) := by
  intro a hc
  obtain ⟨hlo, hhi⟩ : 128 ≤ a ∧ a < 128 + 1 := Write.covers_own.mp hc
  obtain rfl : a = 128 := by omega
  have hh : m.holds (m.scopePoint .host 4) (bareData v).sp = true := rfl
  rw [if_pos hh]
  exact congrArg some h

/-- Then the flag, released by the host to system scope. -/
def flaggedData (key : List Byte) (p unit : Nat) (b : Byte) : Mach := (drainedData b).writeRel .host 4 (keyedFlag key p unit)

/-- Then the host's acquire of the flag. -/
def acquiredData (key : List Byte) (p unit : Nat) (b : Byte) : Mach :=
  ((flaggedData key p unit b).readAcq .host 4 .pkg 0 1 (some ⟨key, p, unit, 0⟩) true).2.invalidate .host 4

/-- After the flag's release the data's byte is what the cipher has put there. -/
theorem flaggedData_stores (hv : (Config.xtsDec key p unit (List.replicate 64 0))[128]? = some v) :
    (flaggedData key p unit b).bufs = [] ∧ (flaggedData key p unit b).homeByte .pkg 128 none = v := by
  obtain ⟨hb, htags, hmem⟩ := drainedData_stores b
  let k := (drainedData b).toRelease .host 4 (keyedFlag key p unit)
  let f := (drainedData b).released .host 4 (keyedFlag key p unit)
  obtain ⟨hkm, hkt, -, -, hkb⟩ : SameStores k (drainedData b) := Mach.uncopies_sameStores ..
  have hplace : k.place .sys f = k.deliver f := (Mach.place_eq rfl).trans (if_pos rfl)
  have hflat : SameStores (k.deliver f) (k.writeFlat 0 [0] (some ⟨key, p, unit, 0⟩)) := Mach.deliver_flat (w := f) rfl (by decide : 0 % 64 + 1 ≤ 64)
  have hstores : SameStores (flaggedData key p unit b) (k.writeFlat 0 [0] (some ⟨key, p, unit, 0⟩)) :=
    hflat.trans (hplace ▸ SameStores.markCore (k.place .sys f) .host 4 f)
  refine ⟨hstores.bufs.trans (hkb.trans hb), ?_⟩
  rw [Mach.homeByte_congr hstores.homes rfl]
  exact flag_over_data hv (hkt.trans htags) (hkm.trans hmem)

theorem acquiredData_stores (h : (flaggedData key p unit b).bufs = []) : SameStores (acquiredData key p unit b) (flaggedData key p unit b) := by
  have hwids : (flaggedData key p unit b).widsTo ((flaggedData key p unit b).below .host 4) .pkg 0 1 = [] := by rw [Mach.widsTo, h]; rfl
  refine SameStores.trans ?_ (Mach.invalidate_sameStores ..)
  rw [Mach.readAcq_unbuffered true hwids]
  exact Mach.readOver_sameStores ..

/-- The host then sees what the cipher has put there. -/
theorem acquiredData_seen (hv : (Config.xtsDec key p unit (List.replicate 64 0))[128]? = some v) : (acquiredData key p unit b).seen .host .pkg 128 none = v := by
  obtain ⟨hb, hbyte⟩ := flaggedData_stores (b := b) hv
  have hstores := acquiredData_stores hb
  have hgive := host_gives ((Mach.homeByte_congr hstores.homes rfl).trans hbyte)
  refine Mach.seen_gives (w := bareData v) rfl le_rfl hgive (fun e he => ?_) (fun c hc => ?_) rfl
  · rw [hstores.bufs, hb] at he
    cases he
  · rw [acquiredData, (Mach.invalidate_near ..).below]
    exact ((Mach.mem_invalidate_copies c).mp hc).2

/-- O35 has the host see the data. -/
theorem acquiredData_seen_of_messagePassing (h : Obligations.MessagePassing) : (acquiredData key p unit b).seen .host .pkg 128 none = b :=
  (h bareUnit .host .host 4 (bareData b) (keyedFlag key p unit) rfl rfl rfl rfl le_rfl rfl ⟨(by decide : 128 % 64 + 1 ≤ 64), (by decide : 128 + 1 ≤ 2 ^ 60)⟩
    ⟨(by decide : 0 % 64 + 1 ≤ 64), (by decide : 0 + 1 ≤ 2 ^ 60)⟩ (List.cons_ne_nil _ _) (.inr (.inr (by decide : 0 / 64 + 1 < 128 / 64)))
    (fun _ h => nomatch h) (fun _ h => nomatch h)).2 128 rfl

end

/-- What O35 says fails where a cipher gives a unit more than two units of bytes: with `messagePassing_of_unitCiphers`, nothing given of the ciphers decides O35. -/
theorem not_messagePassing_of_longCipher {key : List Byte} {p unit : Nat} {v : Byte} (hv : (Config.xtsDec key p unit (List.replicate 64 0))[128]? = some v) :
    ¬ Obligations.MessagePassing := by
  intro h
  have hsame : v = v + 1 := (acquiredData_seen hv).symm.trans (acquiredData_seen_of_messagePassing h)
  bv_omega

end Sys2Proof.Machine
end

section
/-! ## Named barriers (O36)

BARARW has its result when the phase is complete. Where the destination lies in registers that an MMA holds, the instruction keeps the result and waits for the
MMA (R312): it is past the barrier, but not past its wait, as the statement has every fibre that waited at the barrier. -/
namespace Sys2Proof.Machine
open Sys2Proof.Tests

/-- An MMA of 16 registers of quad 0, from register 16. -/
def holdingMma : Op := labOp .matrix (.mma true (blkOf 64 [(8, 4, 0x1001)]) 16 7 0 [])

/-- A fibre of group 1 that has arrived at barrier 1 with a BARARW to v16. -/
def arrivedFibre : Fibre := { firstFibre labRec 1 1 with pred := 3, wait := some ⟨.bararw (.v 16) 1, .barrier 1 false, 0⟩ }

/-- The lab with that fibre and that MMA; barrier 1 awaits the second of two arrivals. -/
def heldBarLab : State := labWith fun m => { m.updTeam 1 (fun tm => { tm with bars := modAt tm.bars 1 (fun _ => ⟨2, 1, false, none⟩) }) with
  groups := newGroup labRec 1 1 0 :: m.groups, fibres := arrivedFibre :: m.fibres, ops := [holdingMma] }

/-- The arrival that completes the phase leaves the fibre of group 1 waiting. -/
theorem heldBarLab_waits :
    ((nextOf (exec (.bararr (.v 100) 1) heldBarLab)).m.fibre? ⟨1, 1, 0⟩).map (fun f => f.wait) ≠ some none := by decide +kernel

/-- Refutes O36: the BARARR that completes a phase leaves a fibre waiting whose BARARW's destination an MMA holds. -/
theorem not_namedBarriers : ¬ Obligations.NamedBarriers := by
  intro h
  obtain ⟨-, hbararr, -⟩ := h heldBarLab (cOf heldBarLab)
  obtain ⟨-, -, hdepart, -⟩ := hbararr (.v 100) 1 (issues_of (by decide +kernel))
  obtain ⟨t, ht, hfree⟩ := hdepart (by decide +kernel)
  have hn : nextOf (exec (.bararr (.v 100) 1) heldBarLab) = t := by rw [ht]; rfl
  exact heldBarLab_waits (hn ▸ hfree ⟨1, 1, 0⟩ arrivedFibre (by decide +kernel) (by decide +kernel) (by decide +kernel))

end Sys2Proof.Machine
end

section
/-! ## Arms (O45, O50)

XARM begins as it enters its context: the model takes the operation of the command's number, the first one where there are two. The statements count a
context's numbers from the team's record, and speak of every state, also of one whose record lags behind the operations: there the arm's number is one that an
older operation has, and the model writes that operation over the arm as it begins. -/
namespace Sys2Proof.Machine
open Sys2Proof.Tests

/-- An XDISARM that is number 1 of the exchange context, while the team's record has counted no command there. -/
def olderCmd : Op := { labOp .exch (.xdisarm 1) with begun := false }

/-- The lab with it. -/
def lagLab : State := labOps [olderCmd]

/-- An XARM of the block at 0x400 in scratch memory. -/
def labArmInstr : Instr := .xarm (.v 4) 116

/-- The accesses of its block. -/
def armReqs : List Req := cmdReqs lagLab.m (cOf lagLab) (.v 4) 32

/-- The lab once the writes of the leader lane have left to core scope. -/
def drainedLag : State := { lagLab with m := lagLab.m.drain (cOf lagLab).leaf 1 }

/-- The last command of the exchange context of team 1. -/
def Mach.lastExch (m : Mach) : Option (Nat × Cmd) := ((m.opsOf 1 .exch).map (fun o => (o.n, o.cmd))).getLast?

/-- The arm that enters is not the context's last operation. -/
theorem lagLab_lastExch : (nextOf (exec labArmInstr lagLab)).m.lastExch = some (1, .xdisarm 1) := by decide +kernel

/-- Refutes O45: where an older operation has the arm's number, XARM is not the context's next operation. -/
theorem not_exchangeCommands : ¬ Obligations.ExchangeCommands := by
  intro h
  obtain ⟨-, -, -, hxarm, -⟩ := h lagLab (cOf lagLab)
  obtain ⟨henters, -⟩ := hxarm (.v 4) 116 (placesAt drainedLag (cOf lagLab) true .read true armReqs) (machAt drainedLag (cOf lagLab) true .read true armReqs)
    (issues_of (by decide +kernel)) ⟨by decide +kernel, placed_of (by decide +kernel)⟩
  obtain ⟨t, ht, -, hops⟩ := henters (by decide +kernel)
  have hn : nextOf (exec labArmInstr lagLab) = t := by rw [show exec labArmInstr lagLab = .next t from ht]; rfl
  have hlast := lagLab_lastExch
  simp only [hn, Mach.lastExch] at hlast
  rw [show t.m.opsOf 1 .exch = t.m.opsOf (cOf lagLab).tm.t .exch from rfl, hops, List.getLast?_concat] at hlast
  cases hlast

/-- The lab whose fibre waits for room with an arm. -/
def armWaitLab : State := { lagLab with m := lagLab.m.updFibre ⟨1, 0, 0⟩ fun f =>
  { f with wait := some ⟨labArmInstr, .engine .exch (.xarm (List.replicate 32 0) 0 0) 0x400, 0⟩ } }

/-- The fibre with its records. -/
def armWaitC : Ctx := (ctxOf armWaitLab.m ⟨1, 0, 0⟩).getD labC

/-- The arm that enters after its wait is not the context's last operation either. -/
theorem armWaitLab_lastExch : (nextOf (exec (.engineCommandEnter ⟨1, 0, 0⟩) armWaitLab)).m.lastExch = some (1, .xdisarm 1) := by
  decide +kernel

/-- Refutes O50: where an older operation has the arm's number, an XARM that waited for room is not the context's next operation. -/
theorem not_waitsThatEnd : ¬ Obligations.WaitsThatEnd := by
  intro h
  obtain ⟨-, -, -, hengine, -⟩ := h armWaitLab
  obtain ⟨t, ht, -, hops⟩ := hengine ⟨1, 0, 0⟩ armWaitC labArmInstr .exch (.xarm (List.replicate 32 0) 0 0) 0x400 0 (by decide +kernel) rfl (by decide +kernel)
  have hn : nextOf (exec (.engineCommandEnter ⟨1, 0, 0⟩) armWaitLab) = t := by rw [ht]; rfl
  have hlast := armWaitLab_lastExch
  simp only [hn, Mach.lastExch] at hlast
  rw [show t.m.opsOf 1 .exch = t.m.opsOf armWaitC.tm.t .exch from rfl, hops, List.getLast?_concat] at hlast
  cases hlast

end Sys2Proof.Machine
end

section
/-! ## Synchronising instructions (O37 to O39)

A waiting instruction that waits also gives up its group's place (R156, R169): what holds of a wait holds of it. -/
namespace Sys2Proof.Machine

section
variable {s t : State} {i : Instr} {c : Ctx} {m n : Mach}

/-! ### Waiting as a pending group -/

/-- A group's going to pending is a change of its record and of a counter. -/
theorem Mach.toPending_frame (m : Mach) (u g : Nat) :
    (m.toPending u g).beyond = m.beyond ∧ (m.toPending u g).regs = m.regs ∧ (m.toPending u g).fibres = m.fibres := by
  unfold Mach.toPending
  dsimp only
  split
  · exact ⟨rfl, rfl, rfl⟩
  · exact ⟨rfl, rfl, rfl⟩

/-- A waiting instruction that waits stands where it stood; stores, buffers, messages and registers stay. -/
theorem waits_of_pend (hf : m.fibre? c.f.ref = some c.f) (why : Why) (ht : n = Mach.settle s.cfg c i (.pend m why)) :
    Waits ⟨s.cfg, n⟩ c i why ∧ n.beyond = m.beyond ∧ n.regs = m.regs := by
  obtain ⟨⟨hwait, hplace⟩, hb, hr⟩ := waits_of_waitAt (s := s) (i := i) hf why rfl
  obtain ⟨pb, pr, pf⟩ := ((m.tick 1).waitAt c.f.ref i why).toPending_frame c.f.ref.t c.f.ref.g
  have hfib : n.fibre? c.f.ref = ((m.tick 1).waitAt c.f.ref i why).fibre? c.f.ref := by
    rw [ht, Mach.fibre?, Mach.fibre?]
    exact congrArg (List.find? _) pf
  exact ⟨⟨(congrArg _ hfib).trans hwait, (congrArg _ hfib).trans hplace⟩, ht ▸ pb.trans hb, ht ▸ pr.trans hr⟩

/-! ### Fences (O39) -/

/-- What is so of a machine in which the issuing fibre's record was changed is so of the machine without that change. -/
theorem Issued.of_updFibre {h : Fibre → Fibre} {f : Fibre} {g : Group} {ws : List (Nat × Nat × Word)} (hr : ∀ x, (h x).ref = x.ref) (hb : (h c.f).base = c.f.base)
    (hi : Issued s t { c with f := h c.f } (m.updFibre c.f.ref h) f g ws) : Issued s t c m f g ws := by
  obtain ⟨hcfg, hbeyond, hregs, hfibre, hfibres, hgroup, hgroups⟩ := hi
  simp only [hr, hb] at hregs hfibre hfibres hgroup hgroups
  exact ⟨hcfg, hbeyond, hregs, hfibre, fun r hne => (hfibres r hne).trans (Mach.fibre?_updFibre_other hr hne), hgroup, hgroups⟩

/-- A fibre whose tokens have changed. -/
def Fibre.withToks (toks : List Tok → List Tok) (f : Fibre) : Fibre := { f with toks := toks f.toks }

/-- An entry that answers `done` on a machine with the records of the one it issues on, the issuing fibre's tokens changed, has issued. -/
theorem settle_toks (h : s.m.issuer = some c) (he : endsRun i = false) (hf : m.fibres = s.m.fibres) (hg : m.groups = s.m.groups) (toks : List Tok → List Tok)
    (hl : m.lats = s.m.lats) (ho : m.outst = s.m.outst) :
    let u : State := ⟨s.cfg, Mach.settle s.cfg c i (.done (m.updFibre c.f.ref (Fibre.withToks toks)) [] .seq)⟩
    Issued s u c m { c.next i with toks := toks c.f.toks } c.g [] ∧ Latched u c s.m noFlags := by
  have hfib : (m.updFibre c.f.ref (Fibre.withToks toks)).fibre? c.f.ref = some (c.f.withToks toks) := by
    rw [Mach.fibre?_updFibre (f := Fibre.withToks toks) (fun _ => rfl), (Mach.put_of_records h hf hg).1]
    rfl
  have hput : Mach.Put (m.updFibre c.f.ref (Fibre.withToks toks)) (m.updFibre c.f.ref (Fibre.withToks toks))
      { c with f := c.f.withToks toks } c.g [] := by
    refine Mach.put_self ?_
    rw [← Mach.issuer_group h]
    simp [Mach.group?, hg, Fibre.withToks]
  obtain ⟨hissued, hlats, houtst⟩ := settle_does (s := s) (i := i) (c := { c with f := c.f.withToks toks }) he hfib hput
  refine ⟨Issued.of_updFibre (h := Fibre.withToks toks) (fun _ => rfl) rfl hissued, ?_, ?_⟩
  · rw [← hl]
    exact hlats
  · rw [← ho]
    exact houtst

/-- Every write of a token has left where none of those below its scope point is one of its writes. -/
theorem Mach.tokGone_iff (m : Mach) (leaf : Point) (x : Tok) :
    m.tokGone leaf x = true ↔ (m.widsAt (m.below leaf x.sc)).filter (fun w => x.wids.contains w) = [] := by
  simp [Mach.tokGone]

end

/-- Settles O39: FENCE changes the record of its fibre alone; FWAIT passes, takes the invalidate, or waits, as its token is. -/
theorem fences : Obligations.Fences := by
  intro s c
  refine ⟨fun sc k hi => ⟨_, issue_pass hi _, ?_⟩, fun k hi => ⟨fun hidle => ⟨_, issue_pass hi _, ?_⟩, fun hpend hgone => ⟨_, issue_pass hi _, ?_⟩,
    fun hpend hstay => ⟨_, issue_pass hi _, ?_⟩⟩⟩
  · exact settle_toks hi.1 rfl rfl rfl (fun l => modAt l k _) rfl rfl
  · simp only [hidle, Bool.not_false, if_true]
    exact issue_does hi.1 rfl rfl rfl
  · simp only [hpend, (Mach.tokGone_iff ..).mpr hgone, Bool.not_true, Bool.false_eq_true, if_false, if_true]
    exact settle_toks (m := s.m.invalidate c.leaf _) hi.1 rfl rfl rfl (fun l => modAt l k fun _ => ⟨false, [], 0⟩) rfl rfl
  · have hno : s.m.tokGone c.leaf (c.f.toks.getD k ⟨false, [], 0⟩) = false := by
      rw [Bool.eq_false_iff, ne_eq, Mach.tokGone_iff]
      exact hstay
    simp only [hpend, hno, Bool.not_true, Bool.false_eq_true, if_false]
    obtain ⟨hw, hb, hr⟩ := waits_of_pend (s := s) (i := .fwait k) (Mach.issuer_fibre hi.1) (.token k) rfl
    exact ⟨hw, hr, (congrArg Mach.bufs hb :)⟩

end Sys2Proof.Machine
end

section
/-! ## Cluster barriers (O37)

The last arrival sends every waiting fibre of the level on, the one that issues CLUBAR among them. What the release of one fibre leaves alone are the records that
the release of another one looks up. -/
namespace Sys2Proof.Machine

section
variable {m n : Mach} {c : Ctx} {r : FRef} {f : Fibre} {i : Instr} {why : Why}

/-! ### Records that a release leaves -/

/-- A group's place, and whether it has ended. -/
def Group.seat (g : Group) : Nat × Nat × Bool := (g.t, g.g, g.ended)

/-- The records that a fibre's context and a cluster barrier are looked up in. -/
def Mach.roster (m : Mach) : List (Nat × Nat × Bool) × List Team × List Launch × List Nat :=
  (m.groups.map Group.seat, m.teams.map Team.plain, m.launches, m.clusters.map Cluster.c)

theorem Mach.roster_updGroup {h : Group → Group} (hs : ∀ x, (h x).seat = x.seat) (t g : Nat) : (m.updGroup t g h).roster = m.roster :=
  Prod.ext (map_updGroup Group.seat hs m t g) rfl

theorem Mach.bumpPort_roster (m : Mach) (r : FRef) : (m.bumpPort r).roster = m.roster := by
  unfold Mach.bumpPort
  dsimp only
  split
  · split <;> rfl
  · rfl

theorem Mach.leavePort_roster (m : Mach) (r : FRef) (k : Nat) : (m.leavePort r k).roster = m.roster := by
  unfold Mach.leavePort
  dsimp only
  split
  · split
    · exact Mach.roster_updGroup (m := m.setPort _) (fun _ => by rfl) r.t r.g
    · rfl
  · rfl

theorem Mach.advance_roster (m : Mach) (r : FRef) (pc : DWord) (ends : Bool) : (m.advance r pc ends).roster = m.roster := by
  unfold Mach.advance
  split
  · rfl
  · split
    · exact (Mach.leavePort_roster ..).trans (Mach.bumpPort_roster ..)
    · exact Mach.bumpPort_roster ..

theorem Mach.woken_roster (m m0 : Mach) (t g : Nat) : (m.woken m0 t g).roster = m.roster := by
  unfold Mach.woken
  split
  · exact Mach.roster_updGroup (fun _ => by rfl) t g
  · rfl

theorem Mach.toPending_roster (m : Mach) (t g : Nat) : (m.toPending t g).roster = m.roster := by
  unfold Mach.toPending
  dsimp only
  split
  · exact Mach.roster_updGroup (fun _ => by rfl) t g
  · rfl

theorem Mach.waitAt_roster (m : Mach) (r : FRef) (i : Instr) (why : Why) : (m.waitAt r i why).roster = m.roster := Mach.leavePort_roster ..

theorem Mach.Keeps.roster (h : m.Keeps n) : n.roster = m.roster := by
  have hg := congrArg (List.map Group.seat) h.groups
  simp only [List.map_map] at hg
  exact Prod.ext hg (Prod.ext (congrArg Mach.teams h.eq :) (Prod.ext (congrArg Mach.launches h.eq :)
    (congrArg (fun x : Mach => x.clusters.map Cluster.c) h.eq :)))

/-- The groups of a level are those of the roster. -/
theorem Mach.clubarGroups_congr (h : n.roster = m.roster) (k : Nat) (lv : Option Nat) : n.clubarGroups k lv = m.clubarGroups k lv := by
  have key : ∀ m : Mach, m.clubarGroups k lv = (m.roster.2.1.filter (fun tm => tm.c == k)).flatMap (fun tm =>
      if lv.all (fun d => dieOfCore tm.core == d) then ((m.roster.1.filter (fun s => s.1 == tm.t)).filter (fun s => !s.2.2)).map (fun s => (s.1, s.2.1)) else []) := by
    intro m
    simp only [Mach.clubarGroups, Mach.teamsOf, Mach.groupsOf, Mach.roster, List.filter_map, List.flatMap_map, List.map_map]
    rfl
  rw [key, key, h]

/-- A record is found by its key where the keys are the same. -/
theorem find?_isSome_of_keys {α κ : Type} {l l' : List α} (key : α → κ) (p : κ → Bool) (h : l'.map key = l.map key) :
    (l'.find? (fun x => p (key x))).isSome = (l.find? (fun x => p (key x))).isSome := by
  have hk : ∀ l : List α, (l.find? (fun x => p (key x))).isSome = ((l.map key).find? p).isSome := fun l => by
    rw [List.find?_map, Option.isSome_map]
    rfl
  rw [hk, hk, h]

theorem teams_of_roster (h : n.roster = m.roster) (t : Nat) : (n.team? t).map Team.plain = (m.team? t).map Team.plain := by
  have key : ∀ l : List Team, (l.find? (fun x => x.t == t)).map Team.plain = (l.map Team.plain).find? (fun x => x.t == t) := fun l => by
    rw [List.find?_map]
    rfl
  have ht : n.teams.map Team.plain = m.teams.map Team.plain := congrArg (fun x => x.2.1) h
  rw [Mach.team?, Mach.team?, key, key, ht]

/-- A fibre that is found has a context where it had one. -/
theorem ctxOf_isSome_of_roster (h : n.roster = m.roster) (hf : (n.fibre? r).isSome) (hc : (ctxOf m r).isSome) : (ctxOf n r).isSome := by
  obtain ⟨c, hc⟩ := Option.isSome_iff_exists.mp hc
  obtain ⟨-, hg, ht, hcl, hl, hrc, -⟩ := ctxOf_parts hc
  obtain ⟨hgs, -, hls, hcs⟩ : n.groups.map Group.seat = m.groups.map Group.seat ∧ n.teams.map Team.plain = m.teams.map Team.plain ∧ n.launches = m.launches ∧
    n.clusters.map Cluster.c = m.clusters.map Cluster.c := by simpa [Mach.roster] using h
  have hng : (n.group? r.t r.g).isSome := (find?_isSome_of_keys Group.seat (fun s => s.1 == r.t && s.2.1 == r.g) hgs).trans (congrArg Option.isSome hg)
  have hnt := teams_of_roster h r.t
  rw [ht] at hnt
  obtain ⟨f, hf⟩ := Option.isSome_iff_exists.mp hf
  obtain ⟨g, hng⟩ := Option.isSome_iff_exists.mp hng
  obtain ⟨tm, hnt, hp⟩ := Option.map_eq_some_iff.mp hnt
  have hncl : (n.cluster? tm.c).isSome := by
    rw [show tm.c = c.tm.c from (congrArg Team.c hp :)]
    exact (find?_isSome_of_keys Cluster.c (fun k => k == c.tm.c) hcs).trans (congrArg Option.isSome hcl)
  obtain ⟨cl, hncl⟩ := Option.isSome_iff_exists.mp hncl
  have hnl : n.launch? tm.l = some c.la := by
    rw [Mach.launch?, hls, show tm.l = c.tm.l from (congrArg Team.l hp :)]
    exact hl
  simp only [ctxOf, hf, hng, hnt, hncl, hnl, hrc, Option.isSome_some]

/-! ### A fibre that waits, and goes on -/

/-- The record of a fibre that begins to wait. -/
def Fibre.stopped (i : Instr) (why : Why) (now : Nat) (f : Fibre) : Fibre :=
  let f := { f with asked := f.asked || (isCommand i && why != Why.yield) }
  if why.counts i then { f with wait := some ⟨i, why, now - f.fe.getD 0⟩, fe := none } else { f with wait := some ⟨i, why, now⟩ }

theorem Fibre.stopped_ref (now : Nat) (f : Fibre) : (f.stopped i why now).ref = f.ref := by
  unfold Fibre.stopped
  dsimp only
  split <;> rfl

theorem Fibre.stopped_wait (now : Nat) (f : Fibre) : ∃ w, (f.stopped i why now).wait = some w ∧ w.i = i ∧ w.why = why := by
  unfold Fibre.stopped
  dsimp only
  split <;> exact ⟨_, rfl, rfl, rfl⟩

theorem Fibre.stopped_place (now : Nat) (f : Fibre) : ((f.stopped i why now).pc, (f.stopped i why now).pred, (f.stopped i why now).base, (f.stopped i why now).run,
    (f.stopped i why now).pos) = (f.pc, f.pred, f.base, f.run, f.pos) := by
  unfold Fibre.stopped
  dsimp only
  split <;> rfl

theorem Fibre.stopped_pc (now : Nat) (f : Fibre) : (f.stopped i why now).pc = f.pc := congrArg Prod.fst (f.stopped_place now)

/-- A fibre goes on from its wait as it would have gone on without. -/
theorem Fibre.stopped_moved (now : Nat) (f : Fibre) (pc : DWord) (e : Bool) : (f.stopped i why now).moved pc e = f.moved pc e := by
  unfold Fibre.stopped
  dsimp only
  split <;> rfl

theorem Mach.waitAt_fibre (hf : m.fibre? r = some f) : (m.waitAt r i why).fibre? r = some (f.stopped i why m.cyc) := by
  have h1 := Mach.fibre?_updFibre (m := m) (r := r) (f := Fibre.stopped i why m.cyc) (Fibre.stopped_ref _)
  rw [hf] at h1
  rw [Mach.fibre?, Mach.waitAt, (Mach.leavePort_ran ..).2]
  exact h1

theorem Mach.passWait_frame (m : Mach) (r : FRef) : (m.passWait r).roster = m.roster ∧ (m.passWait r).clusters = m.clusters ∧ (m.passWait r).regs = m.regs ∧
    ∀ r', r' ≠ r → (m.passWait r).fibre? r' = m.fibre? r' := by
  unfold Mach.passWait
  split
  · exact ⟨rfl, rfl, rfl, fun _ _ => rfl⟩
  · next f hf =>
    split
    · exact ⟨rfl, rfl, rfl, fun _ _ => rfl⟩
    · next w _ =>
      obtain ⟨-, hothers, hran⟩ := Mach.advance_spec hf (f.pc + BitVec.ofNat 64 (instrLen w.i)) (endsRun w.i)
      refine ⟨(Mach.woken_roster ..).trans (Mach.advance_roster ..), Eq.trans ?_ (congrArg Mach.clusters hran.beyond :),
        (Mach.woken_stores ..).1.trans hran.regs, fun r' hne => Eq.trans ?_ (hothers r' hne)⟩
      · unfold Mach.woken
        split <;> rfl
      · rw [Mach.fibre?, Mach.fibre?, (Mach.woken_keeps_stores ..).2]

/-- A fibre waits no more, with no register to write. -/
theorem Mach.completeWait_nil (m : Mach) (r : FRef) (lat : List (Nat × Word)) : m.completeWait r [] lat =
    match ctxOf m r with
    | none => m
    | some c => if c.f.wait = none then m else ((m.wrRegs c []).setLatch r (c.f.pos % 8) c.f.pred lat).passWait r := by
  have hh : ∀ c : Ctx, m.heldReg c (c.phys []) = false := fun c => by
    rw [Mach.heldReg, Mach.heldIn, List.any_eq_false]
    intro o _
    cases o.cmd <;> simp [Ctx.phys]
  cases h : ctxOf m r with
  | none => simp only [Mach.completeWait, h]
  | some c => cases hw : c.f.wait <;> simp [Mach.completeWait, h, hw, hh]

theorem Mach.completeWait_nil_frame (m : Mach) (r : FRef) (lat : List (Nat × Word)) : (m.completeWait r [] lat).roster = m.roster ∧
    (m.completeWait r [] lat).clusters = m.clusters ∧ (m.completeWait r [] lat).regs = m.regs ∧ ∀ r', r' ≠ r → (m.completeWait r [] lat).fibre? r' = m.fibre? r' := by
  rw [Mach.completeWait_nil]
  split
  · exact ⟨rfl, rfl, rfl, fun _ _ => rfl⟩
  · split
    · exact ⟨rfl, rfl, rfl, fun _ _ => rfl⟩
    · exact Mach.passWait_frame ..

theorem Mach.completeWait_nil_idle (lat : List (Nat × Word)) (hf : m.fibre? r = some f) (hw : f.wait = none) : m.completeWait r [] lat = m := by
  rw [Mach.completeWait_nil]
  split
  · rfl
  · next c hc =>
    have : c.f = f := Option.some.inj ((ctxOf_parts hc).1.symm.trans hf)
    rw [if_pos (this ▸ hw)]

theorem Mach.completeWait_nil_fibre {w : Wait} (lat : List (Nat × Word)) (hf : m.fibre? r = some f) (hw : f.wait = some w) (hc : (ctxOf m r).isSome) :
    (m.completeWait r [] lat).fibre? r = some (f.moved (f.pc + BitVec.ofNat 64 (instrLen w.i)) (endsRun w.i)) := by
  obtain ⟨c, hc⟩ := Option.isSome_iff_exists.mp hc
  obtain rfl : c.f = f := Option.some.inj ((ctxOf_parts hc).1.symm.trans hf)
  rw [Mach.completeWait_nil, hc]
  simp only [hw, reduceCtorEq, if_false]
  exact (Mach.passWait_spec (m := (m.wrRegs c []).setLatch r (c.f.pos % 8) c.f.pred lat) hf hw).1

/-! ### The release of a level -/

/-- A waiter of a cluster barrier departs (R100). -/
def Mach.releaseClu (m : Mach) (f : Fibre) : Mach := (m.invalidate (.group f.ref.t f.ref.g) 2).completeWait f.ref [] []

theorem Mach.releaseClu_frame (m : Mach) (f : Fibre) : (m.releaseClu f).roster = m.roster ∧ (m.releaseClu f).clusters = m.clusters ∧
    (m.releaseClu f).regs = m.regs ∧ ∀ r', r' ≠ f.ref → (m.releaseClu f).fibre? r' = m.fibre? r' := Mach.completeWait_nil_frame (m.invalidate _ 2) f.ref []

/-- The release of a list of fibres leaves registers, records and a fibre that does not wait. -/
theorem Mach.releases_frame : ∀ (ws : List Fibre) (m : Mach), (ws.foldl Mach.releaseClu m).clusters = m.clusters ∧ (ws.foldl Mach.releaseClu m).regs = m.regs ∧
    ∀ r f, m.fibre? r = some f → f.wait = none → (ws.foldl Mach.releaseClu m).fibre? r = some f
  | [], _ => ⟨rfl, rfl, fun _ _ h _ => h⟩
  | x :: ws, m => by
    obtain ⟨-, hcl, hregs, hothers⟩ := m.releaseClu_frame x
    obtain ⟨ihcl, ihregs, ihfib⟩ := Mach.releases_frame ws (m.releaseClu x)
    refine ⟨ihcl.trans hcl, ihregs.trans hregs, fun r f hf hw => ihfib r f ?_ hw⟩
    by_cases hr : r = x.ref
    · subst hr
      rw [Mach.releaseClu, Mach.completeWait_nil_idle [] (show (m.invalidate _ 2).fibre? x.ref = some f from hf) hw]
      exact hf
    · exact (hothers r hr).trans hf

/-- A waiting fibre in the list goes on. -/
theorem Mach.releases_fibre {w : Wait} : ∀ (ws : List Fibre) (m : Mach), m.fibre? r = some f → f.wait = some w → (ctxOf m r).isSome → (∃ x ∈ ws, x.ref = r) →
    (ws.foldl Mach.releaseClu m).fibre? r = some (f.moved (f.pc + BitVec.ofNat 64 (instrLen w.i)) (endsRun w.i))
  | [], _, _, _, _, h => by simp at h
  | x :: ws, m, hf, hw, hc, hx => by
    by_cases hr : r = x.ref
    · subst hr
      exact (Mach.releases_frame ws (m.releaseClu x)).2.2 _ _ (Mach.completeWait_nil_fibre (m := m.invalidate _ 2) [] hf hw (ctxOf_isSome_of_roster rfl (by
        rw [show (m.invalidate (.group x.ref.t x.ref.g) 2).fibre? x.ref = some f from hf, Option.isSome_some]) hc)) rfl
    · obtain ⟨hros, -, -, hothers⟩ := m.releaseClu_frame x
      have hf' := (hothers r hr).trans hf
      refine Mach.releases_fibre ws _ hf' hw (ctxOf_isSome_of_roster hros (by rw [hf', Option.isSome_some]) hc) ?_
      simpa [Ne.symm hr] using hx

/-! ### A level's barrier -/

/-- The barrier of a level of a cluster. -/
def Cluster.bar (cl : Cluster) : Option Nat → CluBar
  | none => cl.barAll
  | some d => cl.barDie.getD d ⟨[], 0⟩

/-- A cluster with the barrier of a level changed. -/
def Cluster.withBar (cl : Cluster) (h : CluBar → CluBar) : Option Nat → Cluster
  | none => { cl with barAll := h cl.barAll }
  | some d => { cl with barDie := modAt cl.barDie d h }

theorem Cluster.withBar_bar (cl : Cluster) (h : CluBar → CluBar) (lv : Option Nat) (hlv : ∀ d, lv = some d → d < cl.barDie.length) :
    (cl.withBar h lv).bar lv = h (cl.bar lv) := by
  cases lv with
  | none => rfl
  | some d =>
    have := hlv d rfl
    simp [Cluster.bar, Cluster.withBar, modAt, List.getD_eq_getElem?_getD, this]

theorem Cluster.withBar_dies (cl : Cluster) (h : CluBar → CluBar) (lv : Option Nat) : (cl.withBar h lv).barDie.length = cl.barDie.length := by
  cases lv with
  | none => rfl
  | some d => exact List.length_modify ..

theorem Cluster.withBar_c (cl : Cluster) (h : CluBar → CluBar) (lv : Option Nat) : (cl.withBar h lv).c = cl.c := by cases lv <;> rfl

/-- The fibres that a level releases. -/
def Mach.cluWaiters (m : Mach) (k : Nat) (lv : Option Nat) (phase : Nat) : List Fibre :=
  m.fibres.filter (fun f => f.wait.any (fun w => w.why == .clubar lv.isNone phase) &&
    (m.team? f.ref.t).any (fun tm => tm.c == k && lv.all (fun d => dieOfCore tm.core == d)))

/-- A level as its check finds it. -/
theorem Mach.clubarLevel_eq {cl : Cluster} {k : Nat} (h : m.cluster? k = some cl) (lv : Option Nat) : m.clubarLevel k lv =
    if (cl.bar lv).arrived.isEmpty || (m.clubarGroups k lv).any (fun g => !(cl.bar lv).arrived.contains g) then m
    else (m.cluWaiters k lv (cl.bar lv).phase).foldl Mach.releaseClu
      (m.updCluster k (fun cl' => cl'.withBar (fun _ => ⟨[], (cl.bar lv).phase + 1⟩) lv)) := by
  cases lv <;> simp only [Mach.clubarLevel, h] <;> rfl

theorem Mach.updCluster_cluster? {cl : Cluster} {k : Nat} {h : Cluster → Cluster} (hc : ∀ x, (h x).c = x.c) (hk : m.cluster? k = some cl) :
    (m.updCluster k h).cluster? k = some (h cl) := by
  have := find?_map_upd (fun x : Cluster => x.c == k) (fun x => x.c = k) h m.clusters (fun x _ => by simp [hc]) (fun x hx => by simpa using hx)
  rw [Mach.cluster?] at hk
  rw [hk] at this
  exact this

theorem Mach.updCluster_roster {k : Nat} {h : Cluster → Cluster} (hc : ∀ x, (h x).c = x.c) : (m.updCluster k h).roster = m.roster := by
  refine Prod.ext rfl (Prod.ext rfl (Prod.ext rfl ?_))
  show (m.clusters.map _).map Cluster.c = _
  rw [List.map_map]
  refine List.map_congr_left fun x _ => ?_
  simp only [Function.comp]
  split
  · exact hc x
  · rfl

/-! ### CLUBAR -/

/-- A group's arrival at a barrier. -/
def CluBar.arrive (x : CluBar) (g : Nat × Nat) : CluBar := { x with arrived := g :: x.arrived }

/-- The machine once the issuing fibre's group has arrived at a level. -/
def Mach.cluArrived (m : Mach) (c : Ctx) (lv : Option Nat) : Mach :=
  if (c.cl.bar lv).arrived.contains (c.f.ref.t, c.f.ref.g) then m
  else (m.drain c.leaf 2).updCluster c.cl.c (fun cl => cl.withBar (CluBar.arrive · (c.f.ref.t, c.f.ref.g)) lv)

theorem Mach.cluArrived_frame (m : Mach) (c : Ctx) (lv : Option Nat) :
    (m.cluArrived c lv).fibres = m.fibres ∧ (m.cluArrived c lv).regs = m.regs ∧ (m.cluArrived c lv).roster = m.roster := by
  have hk := (m.drain_near c.leaf 2).keeps
  unfold Mach.cluArrived
  split
  · exact ⟨rfl, rfl, rfl⟩
  · exact ⟨hk.fibres, hk.regs, (Mach.updCluster_roster fun _ => Cluster.withBar_c ..).trans hk.roster⟩

/-- The level's barrier has that arrival, and is otherwise as it was. -/
theorem Mach.cluArrived_cluster (hc : m.cluster? c.cl.c = some c.cl) (lv : Option Nat) (hlv : ∀ d, lv = some d → d < c.cl.barDie.length) :
    ∃ cl, (m.cluArrived c lv).cluster? c.cl.c = some cl ∧ (∀ d, lv = some d → d < cl.barDie.length) ∧ (cl.bar lv).phase = (c.cl.bar lv).phase ∧
      ∀ g, (cl.bar lv).arrived.contains g = ((c.cl.bar lv).arrived.contains g || g == (c.f.ref.t, c.f.ref.g)) := by
  unfold Mach.cluArrived
  split
  · next hthere =>
    refine ⟨c.cl, hc, hlv, rfl, fun g => ?_⟩
    by_cases hg : g = (c.f.ref.t, c.f.ref.g)
    · rw [hg, hthere, Bool.true_or]
    · simp [hg]
  · have hdrained : (m.drain c.leaf 2).cluster? c.cl.c = some c.cl := by
      rw [Mach.cluster?, show (m.drain c.leaf 2).clusters = m.clusters from (congrArg Mach.clusters (m.drain_near c.leaf 2).keeps.eq :)]
      exact hc
    refine ⟨_, Mach.updCluster_cluster? (fun _ => Cluster.withBar_c ..) hdrained, fun d hd => by rw [Cluster.withBar_dies]; exact hlv d hd, ?_, fun g => ?_⟩
    · rw [Cluster.withBar_bar _ _ _ hlv]
      rfl
    · rw [Cluster.withBar_bar _ _ _ hlv, CluBar.arrive, List.contains_cons, Bool.or_comm]

theorem Mach.below_group_cluster (m : Mach) (t g : Nat) : m.below (.group t g) 2 = [.group t g, .core t] := by
  cases h : m.team? t <;> simp [Mach.below, Mach.chain, Mach.chain.go, Mach.parent, h, Point.level]

/-- A drain of a group's writes to cluster scope leaves none of them below: neither point there stands under the system's. -/
theorem Mach.drain_cluster_clears (m : Mach) (t g : Nat) : (m.drain (.group t g) 2).widsAt (m.below (.group t g) 2) = [] := by
  rw [Mach.widsAt, List.map_eq_nil_iff, List.filter_eq_nil_iff]
  intro x hx hp
  have hp := List.contains_iff_mem.mp hp
  obtain ⟨-, hpar, -⟩ := Mach.drain_clears x hx hp
  rw [Mach.below_group_cluster, List.mem_pair] at hp
  rcases hp with hp | hp
  · rw [hp] at hpar
    cases hpar
  · rw [hp, Mach.parent] at hpar
    cases h : m.team? t <;> rw [h] at hpar <;> cases hpar

/-- The machine on which a level is checked: the fibre waits there. -/
def Mach.cluWaiting (m : Mach) (c : Ctx) (i : Instr) (why : Why) (lv : Option Nat) : Mach :=
  ((m.cluArrived c lv).waitAt c.f.ref i why).toPending c.f.ref.t c.f.ref.g

theorem Mach.cluWaiting_frame (hf : m.fibre? c.f.ref = some c.f) (lv : Option Nat) : (m.cluWaiting c i why lv).regs = m.regs ∧
    (m.cluWaiting c i why lv).roster = m.roster ∧ (m.cluWaiting c i why lv).beyond = (m.cluArrived c lv).beyond ∧
    (m.cluWaiting c i why lv).fibre? c.f.ref = some (c.f.stopped i why (m.cluArrived c lv).cyc) := by
  obtain ⟨hfibs, hregs, hros⟩ := m.cluArrived_frame c lv
  have hran := (Mach.leavePort_ran ((m.cluArrived c lv).updFibre c.f.ref (Fibre.stopped i why (m.cluArrived c lv).cyc)) c.f.ref
    (if why.reissues || ((m.cluArrived c lv).fibre? c.f.ref).any (fun f => f.fe.isSome) then 0 else 1)).1
  obtain ⟨pb, pr, pf⟩ := ((m.cluArrived c lv).waitAt c.f.ref i why).toPending_frame c.f.ref.t c.f.ref.g
  refine ⟨pr.trans (hran.regs.trans hregs), ((Mach.toPending_roster ..).trans (Mach.waitAt_roster ..)).trans hros, pb.trans hran.beyond, ?_⟩
  rw [Mach.cluWaiting, Mach.fibre?, pf]
  refine Mach.waitAt_fibre ?_
  rw [Mach.fibre?, hfibs]
  exact hf

end

section
variable {s : State} {c : Ctx} {all : Bool}

/-- The level of a CLUBAR. -/
def clubarLv (c : Ctx) (all : Bool) : Option Nat := if all then none else some (dieOfCore c.tm.core)

/-- CLUBAR's wait. -/
def clubarWait (c : Ctx) (all : Bool) : Why := .clubar all (c.cl.bar (clubarLv c all)).phase

/-- The machine in which its fibre waits. -/
def Mach.atClubar (m : Mach) (c : Ctx) (all : Bool) : Mach := m.cluWaiting c (.clubar all) (clubarWait c all) (clubarLv c all)

/-- The groups that a level awaits, but for the issuing one. -/
def Mach.clubarDue (m : Mach) (c : Ctx) (lv : Option Nat) : List (Nat × Nat) :=
  (m.clubarGroups c.cl.c lv).filter (fun g => !(c.cl.bar lv).arrived.contains g && g != (c.f.ref.t, c.f.ref.g))

theorem exec_clubar (hi : Issues s (.clubar all) c) : exec (.clubar all) s =
    .next ⟨s.cfg, ((s.m.atClubar c all).clubarLevel c.cl.c (clubarLv c all)).tick 1⟩ := by
  refine (issue_pass hi _).trans ?_
  cases all <;> rfl

variable (hi : Issues s (.clubar all) c)
include hi

theorem atClubar_frame : (s.m.atClubar c all).regs = s.m.regs ∧ (s.m.atClubar c all).roster = s.m.roster ∧
    (s.m.atClubar c all).beyond = (s.m.cluArrived c (clubarLv c all)).beyond ∧
    (s.m.atClubar c all).fibre? c.f.ref = some (c.f.stopped (.clubar all) (clubarWait c all) (s.m.cluArrived c (clubarLv c all)).cyc) :=
  Mach.cluWaiting_frame (Mach.issuer_fibre hi.1) (clubarLv c all)

theorem atClubar_cl : c.cl.c = c.tm.c ∧ s.m.cluster? c.cl.c = some c.cl := by
  obtain ⟨-, -, ht, hcl, -⟩ := ctxOf_parts (Mach.issuer_parts hi.1)
  have hkey : c.cl.c = c.tm.c := by
    have := List.find?_some hcl
    simpa using this
  exact ⟨hkey, hkey ▸ hcl⟩

/-- CLUBAR's fibre is one that its level releases. -/
theorem clubar_waiter : ∃ x ∈ (s.m.atClubar c all).cluWaiters c.cl.c (clubarLv c all) (c.cl.bar (clubarLv c all)).phase, x.ref = c.f.ref := by
  obtain ⟨-, hros, -, hfib⟩ := atClubar_frame hi
  obtain ⟨w, hwait, -, hwhy⟩ := c.f.stopped_wait (i := .clubar all) (why := clubarWait c all) (s.m.cluArrived c (clubarLv c all)).cyc
  obtain ⟨-, -, ht, -⟩ := ctxOf_parts (Mach.issuer_parts hi.1)
  obtain ⟨tm, hteam, hplain⟩ : ∃ tm, (s.m.atClubar c all).team? c.f.ref.t = some tm ∧ tm.plain = c.tm.plain := by
    have key := teams_of_roster hros c.f.ref.t
    rw [ht] at key
    exact Option.map_eq_some_iff.mp key
  have hcore : tm.core = c.tm.core := (congrArg Team.core hplain :)
  have hc : tm.c = c.cl.c := (congrArg Team.c hplain :).trans (atClubar_cl hi).1.symm
  have hlv : (clubarLv c all).isNone = all := by cases all <;> rfl
  have hdie : (clubarLv c all).all (fun d => dieOfCore tm.core == d) = true := by cases all <;> simp [clubarLv, hcore]
  refine ⟨_, List.mem_filter.mpr ⟨List.mem_of_find?_eq_some hfib, ?_⟩, Fibre.stopped_ref ..⟩
  rw [Fibre.stopped_ref, hteam, hwait, Option.any_some, Option.any_some, hwhy, hlv, hc, hdie]
  simp [clubarWait]

variable (hdie : all = false → dieOfCore c.tm.core < c.cl.barDie.length)
include hdie

/-- What the check of a CLUBAR's level finds. -/
theorem clubar_checks : ∃ cl, (s.m.atClubar c all).cluster? c.cl.c = some cl ∧
    (∀ d, clubarLv c all = some d → d < cl.barDie.length) ∧ (cl.bar (clubarLv c all)).phase = (c.cl.bar (clubarLv c all)).phase ∧
    (cl.bar (clubarLv c all)).arrived.contains (c.f.ref.t, c.f.ref.g) = true ∧
    ((cl.bar (clubarLv c all)).arrived.isEmpty ||
      ((s.m.atClubar c all).clubarGroups c.cl.c (clubarLv c all)).any
        (fun g => !(cl.bar (clubarLv c all)).arrived.contains g)) =
      !(s.m.clubarDue c (clubarLv c all)).isEmpty := by
  have hlv : ∀ d, clubarLv c all = some d → d < c.cl.barDie.length := by
    intro d hd
    cases all with
    | true => cases hd
    | false =>
      obtain rfl : dieOfCore c.tm.core = d := Option.some.inj hd
      exact hdie rfl
  obtain ⟨cl, hfound, hdies, hphase, hin⟩ := Mach.cluArrived_cluster (atClubar_cl hi).2 (clubarLv c all) hlv
  obtain ⟨-, hros, hbeyond, -⟩ := atClubar_frame hi
  have hself : (cl.bar (clubarLv c all)).arrived.contains (c.f.ref.t, c.f.ref.g) = true := by rw [hin]; simp
  refine ⟨cl, ?_, hdies, hphase, hself, ?_⟩
  · exact (congrArg (fun m : Mach => m.cluster? c.cl.c) hbeyond :).trans hfound
  · rw [Mach.clubarGroups_congr hros]
    have hne : (cl.bar (clubarLv c all)).arrived.isEmpty = false := by
      cases h : (cl.bar (clubarLv c all)).arrived with
      | nil => rw [h] at hself; cases hself
      | cons => rfl
    rw [hne, Bool.false_or, Mach.clubarDue]
    simp only [hin]
    induction s.m.clubarGroups c.cl.c (clubarLv c all) with
    | nil => rfl
    | cons g gs ih =>
      rw [List.any_cons, List.filter_cons, ih]
      cases h1 : (c.cl.bar (clubarLv c all)).arrived.contains g <;> cases h2 : g == (c.f.ref.t, c.f.ref.g) <;> simp_all

/-- Where a group is awaited yet, CLUBAR waits. -/
theorem clubar_waits (hdue : s.m.clubarDue c (clubarLv c all) ≠ []) : (s.m.atClubar c all).clubarLevel c.cl.c (clubarLv c all) = s.m.atClubar c all := by
  obtain ⟨cl, hfound, -, -, -, hcheck⟩ := clubar_checks hi hdie
  rw [Mach.clubarLevel_eq hfound, if_pos]
  rw [hcheck]
  simpa using hdue

/-- Where none is, the level releases its waiters, CLUBAR's fibre among them. -/
theorem clubar_releases (hdue : s.m.clubarDue c (clubarLv c all) = []) :
    let n := (s.m.atClubar c all).clubarLevel c.cl.c (clubarLv c all)
    n.fibre? c.f.ref = some (c.next (.clubar all)) ∧ n.regs = s.m.regs ∧
      (n.cluster? c.cl.c).map (fun cl => cl.bar (clubarLv c all)) = some ⟨[], (c.cl.bar (clubarLv c all)).phase + 1⟩ := by
  obtain ⟨cl, hfound, hdies, hphase, -, hcheck⟩ := clubar_checks hi hdie
  obtain ⟨hregs, hros, -, hfib⟩ := atClubar_frame hi
  obtain ⟨w, hwait, hwi, -⟩ := c.f.stopped_wait (i := .clubar all) (why := clubarWait c all) (s.m.cluArrived c (clubarLv c all)).cyc
  have hmem := clubar_waiter hi
  have hkeeps : ∀ x : Cluster, (x.withBar (fun _ => ⟨[], (c.cl.bar (clubarLv c all)).phase + 1⟩) (clubarLv c all)).c = x.c := fun _ => Cluster.withBar_c ..
  rw [Mach.clubarLevel_eq hfound, hcheck, hdue, hphase]
  simp only [List.isEmpty_nil, Bool.not_true, Bool.false_eq_true, if_false]
  generalize Mach.cluWaiters _ _ _ _ = ws at hmem ⊢
  generalize hn : (s.m.atClubar c all).updCluster c.cl.c _ = n
  have hnf : n.fibre? c.f.ref = some (c.f.stopped (.clubar all) (clubarWait c all) (s.m.cluArrived c (clubarLv c all)).cyc) := by rw [← hn]; exact hfib
  obtain ⟨hcl, hr, -⟩ := Mach.releases_frame ws n
  refine ⟨?_, hr.trans ((by rw [← hn]; rfl : n.regs = (s.m.atClubar c all).regs).trans hregs), ?_⟩
  · have hctx : (ctxOf n c.f.ref).isSome := by
      refine ctxOf_isSome_of_roster (m := s.m) ?_ (by rw [hnf]; rfl) (by rw [Mach.issuer_parts hi.1]; rfl)
      rw [← hn]
      exact (Mach.updCluster_roster hkeeps).trans hros
    rw [Mach.releases_fibre ws n hnf hwait hctx hmem, Fibre.stopped_moved, Fibre.stopped_pc, hwi]
    rfl
  · rw [Mach.cluster?, hcl, ← Mach.cluster?, ← hn, Mach.updCluster_cluster? hkeeps hfound, Option.map_some, Cluster.withBar_bar _ _ _ hdies]

end

/-- CLUBAR, by its level. -/
theorem clubar_meets {s : State} {c : Ctx} {all : Bool} (hi : Issues s (.clubar all) c) (hdie : all = false → dieOfCore c.tm.core < c.cl.barDie.length) :
    (s.m.clubarDue c (clubarLv c all) ≠ [] → Completes (exec (.clubar all) s) (fun t => Waits t c (.clubar all) (clubarWait c all) ∧ t.m.regs = s.m.regs ∧
      ((t.m.cluster? c.cl.c).map (fun cl => cl.bar (clubarLv c all))).map (fun x => (x.phase, x.arrived.contains (c.f.ref.t, c.f.ref.g))) =
        some ((c.cl.bar (clubarLv c all)).phase, true) ∧
      ((c.cl.bar (clubarLv c all)).arrived.contains (c.f.ref.t, c.f.ref.g) = false → t.m.widsAt (s.m.below c.leaf 2) = []))) ∧
    (s.m.clubarDue c (clubarLv c all) = [] → Completes (exec (.clubar all) s) (fun t => t.m.fibre? c.f.ref = some (c.next (.clubar all)) ∧ t.m.regs = s.m.regs ∧
      (t.m.cluster? c.cl.c).map (fun cl => cl.bar (clubarLv c all)) = some ⟨[], (c.cl.bar (clubarLv c all)).phase + 1⟩)) := by
  refine ⟨fun hdue => ⟨_, exec_clubar hi, ?_⟩, fun hdue => ⟨_, exec_clubar hi, clubar_releases hi hdie hdue⟩⟩
  obtain ⟨cl, hfound, -, hphase, hself, -⟩ := clubar_checks hi hdie
  obtain ⟨hregs, -, hbeyond, hfib⟩ := atClubar_frame hi
  obtain ⟨w, hwait, hwi, hwhy⟩ := c.f.stopped_wait (i := .clubar all) (why := clubarWait c all) (s.m.cluArrived c (clubarLv c all)).cyc
  rw [clubar_waits hi hdie hdue]
  refine ⟨⟨?_, ?_⟩, hregs, ?_, fun hnew => ?_⟩
  · show ((s.m.atClubar c all).fibre? c.f.ref).map _ = _
    rw [hfib, Option.map_some, hwait, Option.map_some, hwi, hwhy]
  · show ((s.m.atClubar c all).fibre? c.f.ref).map _ = _
    rw [hfib, Option.map_some, Fibre.stopped_place]
  · show (((s.m.atClubar c all).cluster? c.cl.c).map _).map _ = _
    rw [hfound, Option.map_some, Option.map_some, hphase, hself]
  · have hbufs : (s.m.atClubar c all).bufs = (s.m.drain c.leaf 2).bufs := by
      refine (congrArg Mach.bufs hbeyond :).trans ?_
      rw [Mach.cluArrived, if_neg (by rw [hnew]; exact Bool.false_ne_true)]
      rfl
    show (s.m.atClubar c all).widsAt _ = _
    rw [Mach.widsAt, hbufs]
    exact Mach.drain_cluster_clears ..

/-- Settles O37: the fibre waits at its level, and the check of the level finds the groups that the statement calls due. -/
theorem clusterBarriers : Obligations.ClusterBarriers := by
  intro s c all hi hdie
  cases all with
  | true => exact clubar_meets hi hdie
  | false => exact clubar_meets hi hdie

end Sys2Proof.Machine
end

section
/-! ## Count words (O38)

A count wait is a waiting instruction: where it asks another device, or waits for writes to it, its group gives up its place too. -/
namespace Sys2Proof.Machine

section
variable {s : State} {i : Instr} {c : Ctx} {m n : Mach} {ps : List (Req × Place)}

/-! ### What a long-latency pair, or a waiting instruction, ends with -/

/-- An entry that has a waiting instruction wait. -/
theorem Settles.pends {why : Why} (h : Settles s c i m (.pend m why)) :
    Completes (exec i s) fun t => Waits t c i why ∧ t.m.beyond = m.beyond ∧ t.m.regs = m.regs :=
  ⟨_, h.next, waits_of_pend h.fibre why rfl⟩

/-- An entry with no result outstanding. -/
theorem Settles.done {lat : Nat → Word} (h : Settles s c i m (.done m (c.lanes.map (fun j => (j, lat j))) .seq)) (he : endsRun i = false) :
    Completes (exec i s) fun t => Issued s t c m (c.next i) (c.groupIn m) [] ∧ Latched t c m lat := by
  have hd := settle_done (s := s) (i := i) h.fibre (Mach.put_self (h.keeps.issuer_group h.issuer)) lat .seq
  simp only [Go.pc, Go.ends, he] at hd
  exact ⟨_, h.next, hd⟩

/-- An entry with a result of 64 bits, the same in every lane. -/
theorem Settles.pairLate {d : Dst} {v : DWord} (h : Settles s c i m (pairLate m c d (c.each v))) (he : endsRun i = false) :
    Completes (exec i s) fun t => LatePair s t c i d m v := by
  have hlat : (c.each v).map (fun x => (x.1, lo32 x.2)) = c.lanes.map (fun j => (j, lo32 v)) := by simp [Ctx.each]
  cases d with
  | v k => exact (h.res (congrArg (fun lat => Res.late (m.addOutst c (pairWrites (.v k) (c.each v)) lat) .seq) hlat)).late he
  | nw => exact (h.res (congrArg (fun lat => Res.done m lat .seq) hlat)).done he

/-! ### Asking for a count word -/

/-- A count wait on another device waits for the writes to its word, then asks. -/
theorem Settles.cwAsks {q : Req} {e o : Nat} (h : Settles s c i m (cwAsk s.cfg m c [(q, .fab e o)])) :
    let ws := m.fabBefore c.leaf c.la.p true [(q, .fab e o)]
    (ws ≠ [] → Drains s c i m ws) ∧
      (ws = [] → Asks s c i m [(q, .fab e o)] (fun q => anyFab [q]) (fun q off => (off, .read q.n)) .whole false) := by
  intro ws
  refine ⟨fun hw => ?_, fun hw hfar => ?_⟩
  · have hr : cwAsk s.cfg m c [(q, .fab e o)] = .pend (m.push (m.below c.leaf 4) (fun w => ws.contains w)) (.drain ws true) := by
      rw [cwAsk, afterWrites, if_neg (by simpa using hw)]
    obtain ⟨t, ht, hwait, hb, hregs⟩ := ((h.res hr).on (m.push_near ..).keeps).pends
    exact ⟨t, ht, (congrArg Mach.bufs hb :), hwait, hregs.trans (m.push_near ..).keeps.regs⟩
  · obtain ⟨n, hr, hk, hnet, hparked⟩ := fabAsk_hold (cf := s.cfg) (c := c) (acc := fun q off => (off, .read q.n)) (inst := []) (blk := []) (atom := none)
      (phase := .whole) (sync := false) hfar
    have hpend : cwAsk s.cfg m c [(q, .fab e o)] = .pend n (.fabric m.fresh) := by
      rw [cwAsk, show m.fabBefore c.leaf c.la.p true [(q, .fab e o)] = [] from hw, afterWrites_nil, hr]
    obtain ⟨t, ht, hwait, hb, hregs⟩ := ((h.res hpend).on hk).pends
    exact ⟨t, ht, (congrArg Mach.net hb :).trans hnet, (congrArg Mach.parked hb :).trans hparked, hwait, hregs.trans hk.regs⟩

/-! ### CWAIT and CWAITT -/

theorem cwRead_keeps (cf : Conf) (m : Mach) (c : Ctx) (a : Acc) (va : Nat) : m.Keeps (cwRead cf m c a va).2 := readAcc_keeps ..

theorem Mach.cwDone_keeps (m : Mach) (leaf : Point) (sc : Scope) (sp : Space) (a : Nat) : m.Keeps (m.cwDone leaf sc sp a) :=
  (m.push_near ..).keeps.trans (Mach.invalidate_near ..).keeps

/-- A count wait whose word lies here, as its entry has it. -/
def cwAtHome (cf : Conf) (c : Ctx) (q : CwArgs) (a : Acc) (va : Nat) (m : Mach) : Res :=
  let r := cwRead cf m c a va
  if q.target ≤ countField r.1 then pairLate (r.2.cwDone c.leaf q.sc a.sp a.addr) c q.d (c.each (BitVec.ofNat 64 r.1))
  else if q.bound.any (fun b => decide (b ≤ c.f.fe.getD 0)) then pairLate r.2 c q.d (c.each (BitVec.ofNat 64 r.1))
  else .pend r.2 (.count q.bound a.leaf)

/-- A count wait at the places of its word. -/
def cwPlaced (cf : Conf) (c : Ctx) (q : CwArgs) (ps : List (Req × Place)) (m : Mach) : Res :=
  match ps with
  | (_, .here a va) :: _ => cwAtHome cf c q a va m
  | ps => cwAsk cf m c ps

theorem cwBody_eq {cf : Conf} {q : CwArgs} (h : cwArgs m c i = some q) :
    cwBody cf m c i = withPlaces cf m c false .read true (countReq m c q.a) (cwPlaced cf c q) := by
  rw [cwBody, h]
  rfl

/-- A count wait whose word lies here ends with its value once the count is there, or its bound has passed; else it waits. -/
theorem Settles.cwHere {q : CwArgs} {a : Acc} {va : Nat} (he : endsRun i = false) (h : Settles s c i m (cwAtHome s.cfg c q a va m)) :
    let r := cwRead s.cfg m c a va
    (q.target ≤ r.1 % 2 ^ 63 → Completes (exec i s) (fun t => LatePair s t c i q.d (r.2.cwDone c.leaf q.sc a.sp a.addr) (BitVec.ofNat 64 r.1))) ∧
      (r.1 % 2 ^ 63 < q.target → (∃ b, q.bound = some b ∧ b ≤ c.f.fe.getD 0) → Completes (exec i s) (fun t => LatePair s t c i q.d r.2 (BitVec.ofNat 64 r.1))) ∧
      (r.1 % 2 ^ 63 < q.target → (∀ b, q.bound = some b → c.f.fe.getD 0 < b) →
        Completes (exec i s) (fun t => Waits t c i (.count q.bound a.leaf) ∧ t.m.regs = s.m.regs)) := by
  intro r
  have hk : m.Keeps r.2 := cwRead_keeps ..
  refine ⟨fun hc => ?_, fun hc hb => ?_, fun hc hb => ?_⟩
  · exact ((h.res (if_pos hc)).on (hk.trans (Mach.cwDone_keeps ..))).pairLate he
  · obtain ⟨b, hq, hle⟩ := hb
    exact ((h.res ((if_neg (Nat.not_le.mpr hc)).trans (if_pos (by simpa [hq] using hle)))).on hk).pairLate he
  · have hno : ¬(q.bound.any (fun b => decide (b ≤ c.f.fe.getD 0)) = true) := by
      cases hq : q.bound with
      | none => simp
      | some b => simpa using hb b hq
    obtain ⟨t, ht, hwait, -, hregs⟩ := ((h.res ((if_neg (Nat.not_le.mpr hc)).trans (if_neg hno))).on hk).pends
    exact ⟨t, ht, hwait, hregs.trans (h.keeps.trans hk).regs⟩

/-! ### CINC -/

theorem Mach.atomHere_keeps (m : Mach) (leaf : Point) (sc : Scope) (a : Acc) (k : Nat) (f : List Byte → Option (List Byte)) : m.Keeps (m.atomHere leaf sc a k f).2 :=
  (m.atomic_near ..).keeps.trans (Mach.markCore_near ..).keeps

/-- An increment of a count word (R87): modulo 2^63, bit 63 kept, and set by a carry. -/
theorem countAdd_spec (old inc : Nat) : countAdd old inc false % 2 ^ 63 = (old + inc) % 2 ^ 63 ∧
    (countAdd old inc false ≥ 2 ^ 63 ↔ (nbit old 63 = true ∨ 2 ^ 63 ≤ old % 2 ^ 63 + inc)) ∧ countAdd old inc false < 2 ^ 64 := by
  unfold countAdd
  dsimp only
  by_cases hb : (nbit old 63 || decide (2 ^ 63 ≤ old % 2 ^ 63 + inc) || false) = true
  · rw [if_pos hb]
    have hb' : nbit old 63 = true ∨ 2 ^ 63 ≤ old % 2 ^ 63 + inc := by simpa using hb
    refine ⟨by omega, ⟨fun _ => hb', fun _ => by omega⟩, by omega⟩
  · rw [if_neg hb]
    have hb' : ¬(nbit old 63 = true ∨ 2 ^ 63 ≤ old % 2 ^ 63 + inc) := by simpa using hb
    refine ⟨by omega, ⟨fun h => absurd h (by omega), fun h => absurd h hb'⟩, by omega⟩

end

/-- Settles O38: both waits are `cwBody`, whose entry at the word's home is one case for each clause; CINC is an atomic of one place. -/
theorem countWords : Obligations.CountWords := by
  intro s c
  refine ⟨fun sc d x b ps m hi hp => ?_, fun sc d x b ps m hi hp => ?_, fun sc d a b ps m hi hp => ?_, fun old inc => ?_⟩
  · have h := hp.settles hi (i := .cwait sc d x b) rfl (cwBody_eq (q := ⟨cwScope sc, d, x, targetOf s.m c b, none⟩) rfl)
    refine ⟨fun q a va hps => ?_, fun q e o hps => ?_⟩
    · subst hps
      obtain ⟨hthere, -, hwaits⟩ := h.cwHere (a := a) (va := va) rfl
      exact ⟨hthere, fun hc => hwaits hc (fun b hb => by cases hb)⟩
    · subst hps
      exact h.cwAsks
  · have h := hp.settles hi (i := .cwaitt sc d x b) rfl
      (cwBody_eq (q := ⟨cwScope sc, d, x, targetOf s.m c b, some (s.m.v c (b + 2) c.leader).toNat⟩) rfl)
    refine ⟨fun q a va hps => ?_, fun q e o hps => ?_⟩
    · subst hps
      obtain ⟨hthere, hbound, hwaits⟩ := h.cwHere (a := a) (va := va) rfl
      exact ⟨hthere, fun hc hb => hbound hc ⟨_, rfl, hb⟩, fun hc hb => hwaits hc (fun b' hb' => Option.some.inj hb' ▸ hb)⟩
    · subst hps
      exact h.cwAsks
  · have h := hp.settles hi (i := .cinc sc d a b) rfl rfl
    have hn : m.Keeps (m.before c.leaf c.la.p (ciScope sc) true true ps) := m.before_keeps ..
    refine ⟨fun q ac va hps => ?_, fun q e o hps => ⟨fun hw => h.drains hw, fun hw => ?_⟩⟩
    · subst hps
      exact (h.on (hn.trans ((Mach.atomHere_keeps ..).trans (Mach.after_keeps ..)))).pairLate rfl
    · subst hps
      dsimp only at h
      rw [hw, afterWrites_nil] at h
      exact (h.on hn).asks
  · have hbit : old.getLsbD 63 = nbit old.toNat 63 := by
      rw [BitVec.getLsbD, Nat.testBit_eq_decide_div_mod_eq, nbit, beq_eq_decide]
    rw [hbit]
    exact countAdd_spec ..

end Sys2Proof.Machine
end

section
/-! ## What accesses leave of groups, teams and operations

`Keeps` speaks of groups but for their pending traps, and of teams but for their reports: a posted store that another device answers may change those. An access that
sends nothing to another device leaves the records of groups and teams as they are, and a plain read those of operations too. -/
namespace Sys2Proof.Machine

section
variable {m n : Mach} {cf : Conf} {leaf : Point}

/-- The records of groups and teams. -/
def Mach.records (m : Mach) : List Group × List Team := (m.groups, m.teams)

theorem Mach.groups_of_records (h : n.records = m.records) : n.groups = m.groups := congrArg Prod.fst h
theorem Mach.teams_of_records (h : n.records = m.records) : n.teams = m.teams := congrArg Prod.snd h

theorem records_ite {p : Prop} [Decidable p] {a b : Mach} (ha : a.records = m.records) (hb : b.records = m.records) : (if p then a else b).records = m.records := by
  split
  · exact ha
  · exact hb

/-! ### A delivery, and a drain to core scope -/

theorem Mach.touch_records (m : Mach) (sp : Space) (a k : Nat) (tag : Option KTag) : (m.touch sp a k tag).records = m.records ∧ (m.touch sp a k tag).ops = m.ops := by
  have hline : ∀ (m : Mach) part line pol key, (m.touchLine part line pol key).records = m.records ∧ (m.touchLine part line pol key).ops = m.ops :=
    fun m part line pol key => by
      unfold Mach.touchLine Mach.fillLine
      split
      · split <;> exact ⟨rfl, rfl⟩
      · dsimp only
        split <;> exact ⟨rfl, rfl⟩
  unfold Mach.touch
  split
  · split
    · exact ⟨foldl_keeps Mach.records (fun m _ => (hline m ..).1) _ m, foldl_keeps Mach.ops (fun m _ => (hline m ..).2) _ m⟩
    · exact ⟨rfl, rfl⟩
  · exact ⟨rfl, rfl⟩

theorem Mach.fillGranules_records (m : Mach) (t a k : Nat) (w : WKind) : (m.fillGranules t a k w).records = m.records := by
  cases w with
  | plain => rfl
  | stfe => exact foldl_keeps Mach.records (f := fun m gr => m.setGranule t gr (true, 0xFFFF)) (fun _ _ => rfl) _ m
  | engine => exact foldl_keeps Mach.records (fun _ _ => by rfl) _ m

theorem Mach.writeFlats_records (m : Mach) (f : Nat) (bs : List Byte) (tag : Option KTag) : (m.writeFlats f bs tag).records = m.records := by
  have hgo : ∀ k (m : Mach) f bs tag, (Mach.writeFlats.go k m f bs tag).records = m.records := fun k => by
    induction k with
    | zero => exact fun _ _ _ _ => rfl
    | succ k ih =>
      intro m f bs tag
      unfold Mach.writeFlats.go
      split
      · rfl
      · exact ih ..
  unfold Mach.writeFlats
  split
  · rfl
  · exact hgo ..

theorem Mach.deliver_records (m : Mach) (w : Write) : (m.deliver w).records = m.records := by
  have harms : ∀ (m : Mach) sp a k, (m.armsMet sp a k).records = m.records := fun _ _ _ _ => rfl
  have hrec : ∀ (m : Mach), (m.record w).records = m.records := fun _ => rfl
  have hclear : ∀ (m : Mach) sp a k, (m.clearPoison sp a k).records = m.records := fun _ _ _ _ => rfl
  have hmark : ∀ (m : Mach) t, (m.mark t w).records = m.records := fun _ _ => rfl
  unfold Mach.deliver
  split
  · rw [harms, hrec, apply_ite Mach.records, hmark, ite_self, hclear, Mach.fillGranules_records]
    rfl
  · rfl
  · rw [harms, hrec, (Mach.touch_records ..).1, hclear, Mach.writeFlats_records]

/-- A write that leaves a point below a core's reaches no other device. -/
theorem Mach.moveUp_records {t : Nat} (m : Mach) {e : BufEnt} (hp : m.parent e.pt = .core t) : (m.moveUp e).records = m.records := by
  unfold Mach.moveUp
  rw [hp]
  cases hs : e.w.sp with
  | fab d off => rfl
  | scr u =>
    dsimp only
    split
    · contradiction
    · exact Mach.deliver_records ..
    · rfl
  | pkg => rfl
  | host => rfl

/-- The leaf point of a group, or of an engine context, of a team. -/
def leafOf (t : Nat) : Point → Bool
  | .group u _ | .eng u _ => u == t
  | _ => false

theorem Mach.parent_leafOf {t : Nat} (m : Mach) (h : leafOf t leaf = true) : m.parent leaf = .core t := by
  cases leaf <;> simp_all [leafOf, Mach.parent]

/-- Moves from a leaf point. -/
theorem Mach.moves_records {t : Nat} (hl : leafOf t leaf = true) : ∀ (l : List BufEnt) (m : Mach), (∀ e ∈ l, e.pt = leaf) → (l.foldl Mach.moveUp m).records = m.records
  | [], _, _ => rfl
  | e :: l, m, h =>
    have he : m.parent e.pt = .core t := by
      rw [h e List.mem_cons_self]
      exact m.parent_leafOf hl
    (Mach.moves_records hl l _ fun x hx => h x (List.mem_cons_of_mem _ hx)).trans (m.moveUp_records he)

/-- The drain to core scope. -/
theorem Mach.drain_records {t : Nat} (m : Mach) (hl : leafOf t leaf = true) : (m.drain leaf 1).records = m.records := by
  have hb : m.below leaf 1 = [leaf] := by
    cases leaf <;> simp_all [leafOf, Mach.below, Mach.chain, Mach.chain.go, Mach.parent, Point.level]
  rw [Mach.drain, hb, Mach.push, List.foldl_cons, List.foldl_nil]
  refine Mach.moves_records hl _ m fun e he => ?_
  simpa using (List.mem_filter.mp ((needed_sublist ..).subset he)).2

theorem Ctx.leaf_leafOf (c : Ctx) : leafOf c.f.ref.t c.leaf = true := by simp [Ctx.leaf, leafOf]

/-! ### Translation -/

theorem Mach.tlbPutIn_records (m : Mach) (own : TlbOwner) (p x b : Nat) (l : Leaf) (size : Nat) : (m.tlbPutIn own p x b l size).records = m.records := by
  unfold Mach.tlbPutIn
  split <;> rfl

theorem Mach.tlbPut_records (m : Mach) (own : TlbOwner) (p x b : Nat) (l : Leaf) : (m.tlbPut own p x b l).records = m.records := m.tlbPutIn_records ..

theorem Mach.touchWalk_records (m : Mach) (p x va : Nat) : (m.touchWalk cf p x va).records = m.records := by
  unfold Mach.touchWalk
  split
  · split
    · split
      · rfl
      · refine foldl_keeps Mach.records (fun m a => ?_) _ m
        split
        · exact (m.touch_records ..).1
        · rfl
    · rfl
  · rfl

theorem Mach.setEntry_records (m : Mach) (p x a : Nat) (e : DWord) : (m.setEntry cf p x a e).records = m.records := by
  unfold Mach.setEntry
  split
  · split
    · exact m.deliver_records _
    · rfl
  · rfl

theorem walkSet_records (m : Mach) (p x va : Nat) (dirty : Bool) : (walkSet cf m p x va dirty).2.records = m.records := by
  unfold walkSet
  dsimp only
  split
  · exact m.touchWalk_records ..
  · exact records_ite (m.touchWalk_records ..) ((Mach.setEntry_records ..).trans (m.touchWalk_records ..))

/-- The second part of a pair that is known. -/
theorem snd_of_eq {α β γ : Type} {q : β → γ} {x : α × β} {a : α} {b : β} {d : γ} (e : x = (a, b)) (h : q x.2 = d) : q b = d := by subst e; exact h

theorem walkAt_records (m : Mach) (die p x va : Nat) : (walkAt cf m die p x va).2.records = m.records := by
  have hw : (walkSet cf (m.count die 5 (some p) 1) p x va false).2.records = m.records := walkSet_records ..
  unfold walkAt
  split
  · rename_i e
    exact (Mach.tlbPutIn_records ..).trans (snd_of_eq e hw)
  · exact hw

theorem xlateNow_records (m : Mach) (own : TlbOwner) (p x va : Nat) : (xlateNow cf m own p x va).2.records = m.records := by
  unfold xlateNow
  split
  · rfl
  · extract_lets die m1
    have h1 : m1.records = m.records := by
      unfold m1
      split <;> rfl
    split
    · exact (Mach.tlbPut_records ..).trans h1
    · have hw := (walkAt_records (cf := cf) m1 die p x va).trans h1
      split
      · rename_i e
        exact (Mach.tlbPut_records ..).trans (snd_of_eq e hw)
      · exact hw

theorem leafNow_records (m : Mach) (own : TlbOwner) (p x va : Nat) (write : Bool) : (leafNow cf m own p x va write).2.records = m.records := by
  have hx := xlateNow_records (cf := cf) m own p x va
  unfold leafNow
  split
  · rename_i e
    exact snd_of_eq e hx
  · rename_i e
    split
    · exact (Mach.touchWalk_records ..).trans (snd_of_eq e hx)
    · exact snd_of_eq e hx

theorem Mach.setLeafDirty_records (m : Mach) (own : TlbOwner) (p x va : Nat) (l : Leaf) : (m.setLeafDirty cf own p x va l).records = m.records := by
  unfold Mach.setLeafDirty
  extract_lets l' m1
  have h1 : m1.records = m.records := by
    unfold m1
    split
    · rfl
    · exact Mach.setEntry_records ..
  split
  · exact h1
  · exact (Mach.tlbPut_records ..).trans h1

theorem winVm_records (m : Mach) (p : Nat) (e : WinEnt) (va : Nat) (cls : Cls) : (winVm cf m p e va cls).2.records = m.records := by
  unfold winVm
  dsimp only
  split
  · rfl
  · split
    · rfl
    · have hl := leafNow_records (cf := cf) m (.agent 0 .heddle) p e.ctx va cls.writes
      split
      · rename_i h
        exact snd_of_eq h hl
      · rename_i h
        have hn := snd_of_eq (q := Mach.records) h hl
        split
        · exact hn
        · split
          · dsimp only
            split
            · exact (Mach.setLeafDirty_records ..).trans hn
            · exact hn
          · exact hn
          · exact hn

theorem winAccess_records (m : Mach) (p off k : Nat) (cls : Cls) : (winAccess cf m p off k cls).2.records = m.records := by
  unfold winAccess
  split
  · rfl
  · split
    · rfl
    · split
      · rfl
      · split
        · rfl
        · exact winVm_records ..

theorem ownPlace_records (m : Mach) (part k : Nat) (cls : Cls) (p : Place) : (ownPlace cf m part k cls p).2.records = m.records := by
  unfold ownPlace
  split
  · rename_i d off
    split
    · have hw := winAccess_records (cf := cf) m part off k cls
      split <;> exact snd_of_eq ‹_› hw
    · rfl
  · rfl

/-- A fold that carries a value along keeps what each of its steps keeps. -/
theorem foldl_snd_keeps {α β γ δ : Type} (p : β → γ) {f : δ × β → α → δ × β} (h : ∀ r a, p (f r a).2 = p r.2) : ∀ (l : List α) (r : δ × β), p (l.foldl f r).2 = p r.2
  | [], _ => rfl
  | a :: l, r => (foldl_snd_keeps p h l (f r a)).trans (h r a)

theorem ownPlaces_records (m : Mach) (part : Nat) (cls : Cls) (ps : List (Req × Place)) : (ownPlaces cf m part cls ps).2.records = m.records :=
  foldl_snd_keeps (δ := List (Req × Except (Nat × Nat) Place)) Mach.records (fun r q => ownPlace_records r.2 part q.1.n cls q.2) ps ([], m)

/-- Reads that may be performed leave the records of groups and teams. -/
theorem Placed.records {s : State} {c : Ctx} {scr reads : Bool} {qs : List Req} {ps : List (Req × Place)} (h : Placed s c scr .read reads qs ps m) :
    m.records = s.m.records := by
  rw [h.machine]
  unfold owned
  simp only [Cls.writes, Bool.false_eq_true, if_false]
  split
  · exact ownPlaces_records ..
  · rfl

/-! ### Plain reads -/

theorem Mach.readOver_records (m : Mach) (ps : List Point) (sp : Space) (a j : Nat) (tag : Option KTag) (install : Bool) :
    (m.readOver ps sp a j tag install).2.records = m.records ∧ (m.readOver ps sp a j tag install).2.ops = m.ops := by
  unfold Mach.readOver
  extract_lets bytes k new m1
  have h1 : m1.records = m.records ∧ m1.ops = m.ops := by
    unfold m1
    split <;> exact ⟨rfl, rfl⟩
  split
  · obtain ⟨hr, ho⟩ := m1.touch_records sp a j tag
    exact ⟨hr.trans h1.1, ho.trans h1.2⟩
  · exact h1

theorem Mach.readSlotOver_records (m : Mach) (ps : List Point) (tag : KTag) (slot : Nat) (q : SlotParts) (install : Bool) :
    (m.readSlotOver ps tag slot q install).2.records = m.records ∧ (m.readSlotOver ps tag slot q install).2.ops = m.ops := by
  unfold Mach.readSlotOver
  extract_lets r new m1
  split
  · exact ⟨foldl_keeps Mach.records (fun m _ => (m.touch_records ..).1) _ m1, foldl_keeps Mach.ops (fun m _ => (m.touch_records ..).2) _ m1⟩
  · exact ⟨rfl, rfl⟩

theorem readAcc_plain_records (leaf : Point) (m : Mach) (pt? : Option Part) (a : Acc) (va j : Nat) :
    (readAcc (.plain leaf) m pt? a va j).2.records = m.records ∧ (readAcc (.plain leaf) m pt? a va j).2.ops = m.ops := by
  unfold readAcc
  split
  · exact m.readSlotOver_records ..
  · exact m.readOver_records ..

theorem readLanes_plain_records (m : Mach) (leaf : Point) (p : Nat) (qs : List (Req × Place)) :
    (readLanes cf m (.plain leaf) p qs).2.records = m.records ∧ (readLanes cf m (.plain leaf) p qs).2.ops = m.ops := by
  refine ⟨foldl_snd_keeps Mach.records (fun r q => ?_) qs ([], m), foldl_snd_keeps Mach.ops (fun r q => ?_) qs ([], m)⟩
  · dsimp only
    split
    · exact (readAcc_plain_records ..).1
    · exact (r.2.readOver_records ..).1
  · dsimp only
    split
    · exact (readAcc_plain_records ..).2
    · exact (r.2.readOver_records ..).2

end
end Sys2Proof.Machine
end

section
/-! ## Commands enter the matrix context (O43)

Every command's entry is the same: what its block says is read, then it is the next operation of its context, or waits for room. What is read leaves operations'
names, so the room and the number are those of the state the command issues in. -/
namespace Sys2Proof.Machine

section
variable {s : State} {i : Instr} {c : Ctx} {m n : Mach} {cf : Conf} {k : EngCtx} {cmd : Cmd} {t g : Nat} {blk : DWord}

/-! ### Operations by their names -/

/-- An operation's team, context, number and command. -/
def Op.label (o : Op) : Nat × EngCtx × Nat × Cmd := (o.t, o.k, o.n, o.cmd)

theorem Mach.Keeps.labels (h : m.Keeps n) : n.ops.map Op.label = m.ops.map Op.label := by
  have ho : n.ops.map Op.plain = m.ops.map Op.plain := (congrArg Mach.ops h.eq :)
  have := congrArg (List.map Op.label) ho
  rw [List.map_map, List.map_map] at this
  exact this

/-- The numbers and commands of a context, by the names. -/
theorem Mach.opsOf_labels (m : Mach) (t : Nat) (k : EngCtx) : (m.opsOf t k).map (fun o => (o.n, o.cmd)) =
    ((m.ops.map Op.label).filter (fun l => l.1 == t && l.2.1 == k)).map (fun l => l.2.2) := by
  rw [Mach.opsOf, List.filter_map, List.map_map]
  rfl

theorem Mach.room_labels (h : n.ops.map Op.label = m.ops.map Op.label) (t : Nat) (k : EngCtx) : n.room t k = m.room t k := by
  have hlen := congrArg List.length ((n.opsOf_labels t k).trans ((h ▸ rfl : _ = _).trans (m.opsOf_labels t k).symm))
  simp only [List.length_map] at hlen
  rw [Mach.room, Mach.room, hlen]

theorem Mach.updOp_labels {f : Op → Op} (hf : ∀ x, (f x).label = x.label) (m : Mach) (t : Nat) (k : EngCtx) (j : Nat) :
    (m.updOp t k j f).ops.map Op.label = m.ops.map Op.label := by
  show (m.ops.map _).map Op.label = _
  rw [List.map_map]
  refine List.map_congr_left fun x _ => ?_
  simp only [Function.comp]
  split
  · exact hf x
  · rfl

/-! ### The acceptance of a command -/

/-- A command whose acceptance begins nothing and ends nothing. -/
def Cmd.Calm (cmd : Cmd) : Prop := ∀ (cf : Conf) (m : Mach) (tm : Team) (j : Nat), (Mach.atAccept cf m tm j cmd).fibres = m.fibres ∧
  (Mach.atAccept cf m tm j cmd).groups = m.groups ∧ (Mach.atAccept cf m tm j cmd).ops.map Op.label = m.ops.map Op.label

theorem calm_mma (zs : Bool) (b : List Byte) (x slot base : Nat) (book : List (BitVec 16)) : (Cmd.mma zs b x slot base book).Calm := fun _ _ _ _ => ⟨rfl, rfl, rfl⟩
theorem calm_accz (mask : Nat) : (Cmd.accz mask).Calm := fun _ _ _ _ => ⟨rfl, rfl, rfl⟩
theorem calm_drain (col : Bool) (fl : DrainFlags) (b : List Byte) (slot : Nat) : (Cmd.drain col fl b slot).Calm := fun _ _ _ _ => ⟨rfl, rfl, rfl⟩
theorem calm_tcopy (pack : Bool) (fl : CopyFlags) (b x y : List Byte) : (Cmd.tcopy pack fl b x y).Calm := fun _ _ _ _ => ⟨rfl, rfl, rfl⟩
theorem calm_prolog (j : Nat) : (Cmd.prolog j).Calm := fun _ _ _ _ => ⟨rfl, rfl, rfl⟩
theorem calm_rrot (bwd : Bool) (off len : Word) : (Cmd.rrot bwd off len).Calm := fun _ _ _ _ => ⟨rfl, rfl, Mach.updOp_labels (by intro; rfl) ..⟩

/-- A calm command is the last of its context, with the next number. -/
theorem Mach.accept_calm {tm : Team} (hc : cmd.Calm) (ht : m.team? t = some tm) : (Mach.accept cf m t g k cmd blk).fibres = m.fibres ∧
    (Mach.accept cf m t g k cmd blk).groups = m.groups ∧
    (Mach.accept cf m t g k cmd blk).ops.map Op.label = m.ops.map Op.label ++ [(t, k, tm.nop k + 1, cmd)] := by
  simp only [Mach.accept, ht]
  obtain ⟨hf, hg, ho⟩ := hc cf { (m.updTeam t (fun x => { x with nops := modAt x.nops (ctxNum k) (fun _ => tm.nop k + 1) })) with
    ops := m.ops ++ [newOp t k (tm.nop k + 1) cmd blk g] } tm (tm.nop k + 1)
  exact ⟨hf, hg, ho.trans (List.map_append ..)⟩

/-! ### Entering a context -/

/-- A calm command enters its context, or waits for room, from a machine that its reads have made. -/
theorem Settles.enters (h : Settles s c i m (enterCmd s.cfg m c k cmd blk)) (he : endsRun i = false) (hg : m.groups = s.m.groups) (hc : cmd.Calm) :
    Enters s c i m k cmd blk := by
  have hl := h.keeps.labels
  refine ⟨fun hroom => ?_, fun hfull => ?_⟩
  · obtain ⟨-, -, ht, -⟩ := ctxOf_parts (Mach.issuer_parts h.issuer)
    have hkey : c.tm.t = c.f.ref.t := by simpa using List.find?_some ht
    obtain ⟨tm, hteam, hplain⟩ : ∃ tm, m.team? c.tm.t = some tm ∧ tm.plain = c.tm.plain := by
      have := h.keeps.team? c.tm.t
      rw [show s.m.team? c.tm.t = some c.tm from hkey ▸ ht] at this
      exact Option.map_eq_some_iff.mp this
    have hnop : tm.nop k = c.tm.nop k := (congrArg (fun x : Team => x.nop k) hplain :)
    obtain ⟨haf, hag, hal⟩ := Mach.accept_calm (cf := s.cfg) (g := c.g.g) (k := k) (blk := blk) hc hteam
    have hnext := (h.res (if_pos ((Mach.room_labels hl ..).trans hroom))).next
    refine ⟨_, hnext, issue_does h.issuer he (haf.trans h.keeps.fibres) (hag.trans hg), ?_⟩
    have hops : (Mach.settle s.cfg c i (.done (Mach.accept s.cfg m c.tm.t c.g.g k cmd blk) [] .seq)).ops = (Mach.accept s.cfg m c.tm.t c.g.g k cmd blk).ops :=
      (congrArg Mach.ops (issue_does h.issuer he (haf.trans h.keeps.fibres) (hag.trans hg)).1.beyond :)
    rw [Mach.opsOf_labels, Mach.opsOf_labels, hops, hal, hl, hnop, List.filter_append, List.map_append]
    simp
  · have hhold : ¬(m.room c.tm.t k = true) := by
      rw [Mach.room_labels hl, hfull]
      exact Bool.false_ne_true
    obtain ⟨u, hu, hwait, hb, hregs⟩ := (h.res (if_neg hhold)).waits
    exact ⟨u, hu, hwait, (congrArg Mach.ops hb :), hregs.trans h.keeps.regs⟩

/-- A command with no block: its issue release, then its entry. -/
theorem Issues.enters {body : Conf → Mach → Ctx → Res} (hi : Issues s i c) (hx : exec i s = issue s i body)
    (hb : body s.cfg s.m c = enterCmd s.cfg (s.m.drain c.leaf 1) c k cmd blk) (he : endsRun i = false) (hc : cmd.Calm) :
    Enters s c i (s.m.drain c.leaf 1) k cmd blk := by
  refine Settles.enters ⟨hi.1, (s.m.drain_near c.leaf 1).keeps, ?_⟩ he (Mach.groups_of_records (s.m.drain_records c.leaf_leafOf)) hc
  rw [hx, issue_pass hi, hb]

/-! ### Commands with a block -/

theorem Mach.Keeps.srcL (h : m.Keeps n) (c : Ctx) (a : Src) : n.srcL c a = m.srcL c a := by
  cases a with
  | v r => simp only [Mach.srcL, Mach.src, Mach.v, h.regs]
  | lat r => simp only [Mach.srcL, Mach.src, h.lats]

/-- A command whose block may be read goes on with its bytes. -/
theorem BlockAt.settles {a : Src} {j : Nat} {ps : List (Req × Place)} (hp : BlockAt s c a j ps m) (hi : Issues s i c) {body : Conf → Mach → Ctx → Res}
    {go : Mach → List Byte → Res} (hx : exec i s = issue s i body) (hb : body s.cfg s.m c = withBlock s.cfg s.m c a j go) :
    Settles s c i (leadRead s c m ps).2 (go (leadRead s c m ps).2 (leadRead s c m ps).1) ∧ (leadRead s c m ps).2.groups = s.m.groups ∧
      (leadRead s c m ps).2.ops = m.ops := by
  obtain ⟨hal, hp⟩ := hp
  have hd := (s.m.drain_near c.leaf 1).keeps
  have hreqs : cmdReqs (s.m.drain c.leaf 1) c a j = cmdReqs s.m c a j := by simp only [cmdReqs, hd.srcL]
  obtain ⟨hrec, hops⟩ := readLanes_plain_records (cf := s.cfg) m c.leaf c.la.p ps
  refine ⟨⟨hi.1, hd.trans (hp.keeps.trans (readLanes_keeps ..)), ?_⟩, ?_, hops⟩
  · rw [hx, issue_pass hi, hb]
    simp only [withBlock, hal, ne_eq, not_true_eq_false, if_false]
    rw [hreqs]
    exact congrArg (fun r => Host.Outcome.next (State.mk s.cfg (Mach.settle s.cfg c i r)))
      (withPlaces_placed (s := { s with m := s.m.drain c.leaf 1 }) hp (fun ps m => go (readLanes s.cfg m (.plain c.leaf) c.la.p ps).2
        ((readLanes s.cfg m (.plain c.leaf) c.la.p ps).1.flatMap Prod.snd)))
  · exact Mach.groups_of_records (hrec.trans (hp.records.trans (s.m.drain_records c.leaf_leafOf)))

/-- An entry that answers a trap takes it. -/
theorem Settles.traps {cr : CtxRec} {x y : Nat} {d : DWord} {e : Word} (h : Settles s c i m (.trap m x y d e)) (ht : CanTrap s c cr) :
    Completes (exec i s) fun t => TrappedOn (m.tick 1) s t c cr ⟨x, y, d, e, false, true⟩ := by
  refine ⟨_, h.next, ht.ready.trapped (m := m.tick 1) h.fibre ?_ (fun ho => ⟨h.keeps.outst.trans ho, h.keeps.regs⟩) rfl rfl⟩
  have := h.keeps.group? c.f.ref.t c.f.ref.g
  rw [Mach.issuer_group h.issuer] at this
  exact this

/-- A block that is not aligned is the trap ALIGN, after the issue release. -/
theorem blockTraps {a : Src} {j : Nat} {body : Conf → Mach → Ctx → Res} {go : Mach → List Byte → Res} (hx : exec i s = issue s i body)
    (hb : body s.cfg s.m c = withBlock s.cfg s.m c a j go) : BlockTraps s c i a j := by
  intro cr ht hgate hal
  rw [hx]
  refine ht.trapped hgate (s.m.drain_near c.leaf 1).keeps (hb.trans ?_)
  simp only [withBlock]
  exact if_pos hal

/-! ### MMA -/

/-- A register of B that MMA cannot name (R310). -/
def badReg (c : Ctx) (r : Nat) : Bool := decide (119 < r) || decide (c.rc.regs ≤ c.f.base + r)

/-- Whether a result is outstanding to one of some registers of MMA's quad. -/
def Mach.quadBusy (m : Mach) (c : Ctx) (quad : Nat) (rs : List Nat) : Bool := (List.range 4).any (fun q => m.regBusy c.tm.t (4 * quad + q) (c.phys rs))

/-- What MMA does with its block. -/
def mmaEntry (cf : Conf) (c : Ctx) (zs : Bool) (a : Src) (b slot : Nat) (m : Mach) (bs : List Byte) : Res :=
  let go := enterCmd cf m c .matrix (.mma zs bs b slot c.f.base c.g.codebook) ((m.srcL c a).setWidth 64)
  match mmaRegs c.rc (mmaBlk bs) b with
  | none => go
  | some rs =>
    if rs.any (badReg c) then .trap m 2 0 0 c.f.pred
    else if m.quadBusy c (mmaBlk bs).quad rs then .hold m .yield
    else go

section
variable {zs : Bool} {a : Src} {b slot : Nat} {bs : List Byte}

theorem mmaEntry_enters (hb : ((mmaRegs c.rc (mmaBlk bs) b).getD []).any (badReg c) = false)
    (hq : m.quadBusy c (mmaBlk bs).quad ((mmaRegs c.rc (mmaBlk bs) b).getD []) = false ∨ mmaRegs c.rc (mmaBlk bs) b = none) :
    mmaEntry cf c zs a b slot m bs = enterCmd cf m c .matrix (.mma zs bs b slot c.f.base c.g.codebook) ((m.srcL c a).setWidth 64) := by
  unfold mmaEntry
  cases h : mmaRegs c.rc (mmaBlk bs) b with
  | none => rfl
  | some rs =>
    simp only [h, Option.getD_some, reduceCtorEq, or_false] at hb hq
    simp [hb, hq]

theorem mmaEntry_yields (hb : ((mmaRegs c.rc (mmaBlk bs) b).getD []).any (badReg c) = false)
    (hq : m.quadBusy c (mmaBlk bs).quad ((mmaRegs c.rc (mmaBlk bs) b).getD []) = true) (hn : mmaRegs c.rc (mmaBlk bs) b ≠ none) :
    mmaEntry cf c zs a b slot m bs = .hold m .yield := by
  unfold mmaEntry
  cases h : mmaRegs c.rc (mmaBlk bs) b with
  | none => exact absurd h hn
  | some rs =>
    simp only [h, Option.getD_some] at hb hq
    simp [hb, hq]

theorem mmaEntry_traps (hb : ((mmaRegs c.rc (mmaBlk bs) b).getD []).any (badReg c) = true) : mmaEntry cf c zs a b slot m bs = .trap m 2 0 0 c.f.pred := by
  unfold mmaEntry
  cases h : mmaRegs c.rc (mmaBlk bs) b with
  | none => simp [h] at hb
  | some rs =>
    simp only [h, Option.getD_some] at hb
    simp [hb]

theorem Mach.Keeps.quadBusy (h : m.Keeps n) (quad : Nat) (rs : List Nat) : n.quadBusy c quad rs = m.quadBusy c quad rs := by
  simp only [Mach.quadBusy, Mach.regBusy, h.outst]

end
end

/-- Settles O43: each command's entry is `enterCmd` on the machine its block's read makes; MMA asks about the registers of B first. -/
theorem matrixCommands : Obligations.MatrixCommands := by
  intro s c
  refine ⟨fun zs a b k ps m hp => ?_, fun k hi => hi.enters rfl rfl rfl (calm_accz k), fun col fl a k ps m hi hp => ?_, fun zs a b k => blockTraps rfl rfl,
    fun col fl a k => blockTraps rfl rfl⟩
  · have hmma : ∀ hi : Issues s (.mma zs a b k) c, _ := fun hi => hp.settles (i := .mma zs a b k) (go := mmaEntry s.cfg c zs a b k) hi rfl rfl
    refine ⟨fun hbad hbusy hi => ?_, fun hbad hbusy hsome hi => ?_, fun cr hbad ht hgate => ?_⟩
    · obtain ⟨h, hg, -⟩ := hmma hi
      have hent := h.res (mmaEntry_enters hbad (by rw [h.keeps.quadBusy]; exact hbusy))
      rw [h.keeps.srcL] at hent
      exact hent.enters rfl hg (calm_mma zs _ b k _ _)
    · obtain ⟨h, -, hops⟩ := hmma hi
      obtain ⟨t, ht, hwait, hb, -⟩ := (h.res (mmaEntry_yields hbad (by rw [h.keeps.quadBusy]; exact hbusy) hsome)).waits
      exact ⟨t, ht, hwait, Eq.trans (congrArg Mach.ops hb :) hops⟩
    · obtain ⟨h, -, -⟩ := hmma ⟨ht.issuer, hgate⟩
      exact (h.res (mmaEntry_traps hbad)).traps ht
  · obtain ⟨h, hg, -⟩ := hp.settles (i := .drain col fl a k) hi rfl rfl
    rw [h.keeps.srcL] at h
    exact h.enters rfl hg (calm_drain col fl _ k)

end Sys2Proof.Machine
end

section
/-! ## Commands enter the copy context (O44) -/
namespace Sys2Proof.Machine

section
variable {s : State} {i : Instr} {c : Ctx} {m n : Mach} {ps qs : List (Req × Place)}

/-- A command whose block has been read goes on to its records, where they may be read: at once, or after asking for those on another device (R323). -/
theorem BlockAt.records {a : Src} {j : Nat} {reqs : List Byte → List Req} {body : Conf → Mach → Ctx → Res} {go : List Byte → Mach → List Byte → Res}
    {done : List (Nat × List Byte) × Mach → Prop} (hp : BlockAt s c a j ps m) (hi : Issues s i c) (hx : exec i s = issue s i body)
    (hb : body s.cfg s.m c = withBlock s.cfg s.m c a j (fun m blk => withRecords s.cfg m c blk (reqs blk) (go blk)))
    (hq : Placed { s with m := (leadRead s c m ps).2 } c false .read true (reqs (leadRead s c m ps).1) qs n)
    (hd : ∀ r, Settles s c i r.2 (go (leadRead s c m ps).1 r.2 (r.1.flatMap Prod.snd)) → r.2.groups = s.m.groups → done r) : Reads s c i (.plain c.leaf) qs n done := by
  obtain ⟨h, hg, -⟩ := hp.settles hi hx hb
  have hn : Settles s c i n (readPlaces s.cfg n c (.plain c.leaf) (leadRead s c m ps).1 qs (fun k vals => go (leadRead s c m ps).1 k (vals.flatMap Prod.snd))) :=
    (h.res (withPlaces_placed (s := { s with m := (leadRead s c m ps).2 }) hq _)).on hq.keeps
  refine hn.reads fun r _ hr hread => hd r hr ?_
  subst hread
  exact (Mach.groups_of_records ((readLanes_plain_records ..).1.trans hq.records)).trans hg

end

/-- Settles O44: PROLOG and RROT enter after their issue release, TCOPY once its block and its records have been read. -/
theorem copyCommands : Obligations.CopyCommands := by
  intro s c
  refine ⟨fun pack fl a ps qs m n hi hp => ?_, fun k hi => hi.enters rfl rfl rfl (calm_prolog k), fun bwd x y hi => ?_, fun pack fl a => blockTraps rfl rfl⟩
  · intro b hq
    refine hp.records (i := .tcopy pack fl a) (reqs := fun blk => recReqs c (natAt blk 0 8) 128 ++ recReqs c (natAt blk 8 8) 128)
      (go := fun blk m recs => tcopyEnter s.cfg m c pack fl a blk recs) hi rfl rfl hq fun x h hg => ⟨fun hs => ?_, fun cr hs ht => ?_⟩
    · have hent := h.res (if_pos hs)
      rw [h.keeps.srcL] at hent
      exact hent.enters rfl hg (calm_tcopy pack fl _ _ _)
    · exact (h.res (if_neg (by rw [Bool.not_eq_true]; exact hs))).traps ht
  · refine hi.enters rfl ?_ rfl (calm_rrot bwd _ _)
    rw [← (s.m.drain_near c.leaf 1).keeps.srcL, ← (s.m.drain_near c.leaf 1).keeps.srcL]

end Sys2Proof.Machine
end

section
/-! ## Units of a copy, a binding and a job (O53)

A unit's end is a change of the operation's own record on the machine its accesses have made. -/
namespace Sys2Proof.Machine

section
variable {s : State} {m n : Mach} {cf : Conf} {T : Nat} {k : EngCtx} {oc : OpCtx} {o o' : Op} {P : State → Prop}
  {unit : Conf → Mach → OpCtx → Option Mach}

/-! ### Records of operations -/

/-- What stands under the name of an operation that has been put is that operation. -/
theorem Mach.setOp_all (m : Mach) (o : Op) : ∀ x ∈ (m.setOp o).ops, x.t = o.t → x.k = o.k → x.n = o.n → x = o := by
  intro x hx ht hk hn
  obtain ⟨z, -, rfl⟩ := List.mem_map.mp hx
  split
  · rfl
  · next hz =>
    rw [if_neg hz] at ht hk hn
    exact absurd ⟨ht, hk, hn⟩ hz

theorem Mach.setOp_sameStores (m : Mach) (o : Op) : SameStores (m.setOp o) m := ⟨rfl, rfl, rfl, rfl, rfl⟩
theorem Mach.finish_sameStores (m : Mach) (o : Op) (st sub : Nat) (a : DWord) : SameStores (m.finish o st sub a) m := ⟨rfl, rfl, rfl, rfl, rfl⟩

/-- The names of operations, and the registers. -/
def Mach.duties (m : Mach) : List (Nat × EngCtx × Nat × Cmd) × SMap Word := (m.ops.map Op.label, m.regs)

theorem Mach.Keeps.duties (h : m.Keeps n) : n.duties = m.duties := Prod.ext h.labels h.regs

theorem Mach.hasOp_of_duties (h : n.duties = m.duties) (ho : m.hasOp o) : n.hasOp o := by
  have key : ∀ m : Mach, m.hasOp o ↔ ∃ l ∈ m.duties.1, l.1 = o.t ∧ l.2.1 = o.k ∧ l.2.2.1 = o.n := fun m => by
    simp [Mach.hasOp, Mach.duties, Op.label]
  rw [key, h, ← key]
  exact ho

theorem Mach.regs_of_duties (h : n.duties = m.duties) : n.regs = m.regs := congrArg Prod.snd h

/-- One unit of work that is known. -/
theorem Working.completes (h : Working s T k oc) (hu : unit s.cfg s.m oc = some n) (hp : P ⟨s.cfg, n⟩) :
    Completes (onMach s (fun cf m => Mach.work cf T k unit 1 m)) P :=
  onMach_completes (step := fun cf m => Mach.work cf T k unit 1 m) (h.work hu) hp

/-- A unit that ends its operation. -/
theorem Working.ends {st sub : Nat} {a : DWord} (h : Working s T k oc) (hu : unit s.cfg s.m oc = some (s.m.finish oc.o st sub a)) :
    Completes (onMach s (fun cf m => Mach.work cf T k unit 1 m)) (fun t => Ended t oc.o st sub a ∧ SameStores t.m s.m ∧ t.m.regs = s.m.regs ∧ t.m.groups = s.m.groups) :=
  h.completes hu ⟨Mach.finish_ended h.hasOp .., s.m.finish_sameStores .., rfl, rfl⟩

/-! ### An engine's reads -/

theorem Mach.delay_duties (m : Mach) (own : TlbOwner) (j : Nat) (pt? : Option Part) (a : Acc) : (m.delay own j pt? a).duties = m.duties := by
  unfold Mach.delay
  split
  · dsimp only
    split <;> rfl
  · rfl

/-- A plain read by an engine leaves operations their names. -/
theorem engReadAll_duties (m : Mach) (oc : OpCtx) (pcs : List (Nat × Nat)) : (engReadAll cf m oc pcs).2.duties = m.duties := by
  have hp := (engPlaces_keeps (cf := cf) m oc pcs .read).duties
  unfold engReadAll
  split
  · exact snd_of_eq ‹_› hp
  · exact snd_of_eq ‹_› hp
  · next xs m1 e =>
    have h1 : m1.duties = m.duties := snd_of_eq e hp
    extract_lets far ask m2 r
    have h2 : m2.duties = m.duties := h1
    split
    · exact (Mach.delay_duties ..).trans h1
    · split
      · exact h2
      · split
        · exact (foldl_snd_keeps Mach.duties (f := fun (r : List Byte × Mach) x => let y := readAcc (.plain oc.o.leaf) r.2 (cf.part? oc.la.p) x.2.1 x.2.2 x.1.n; (r.1 ++ y.1, y.2))
            (fun r x => (readAcc_keeps ..).duties) xs (([] : List Byte), m2)).trans h2
        · split
          · exact h2
          · unfold engAsk
            extract_lets nums devs id
            split
            · exact h2
            · split
              · exact h2
              · exact h2

/-! ### A copy -/

section
variable {fl : CopyFlags} {blk srec drec : List Byte} {pk : Bool}

/-- PACK_OPERATION's unit. -/
def packUnit (cf : Conf) (m : Mach) (oc : OpCtx) : Option Mach := match oc.o.cmd with
  | .tcopy true _ _ _ _ => tcopyUnit cf m oc
  | _ => none

theorem packUnit_eq (hc : oc.o.cmd = .tcopy true fl blk srec drec) : packUnit cf m oc = tcopyUnit cf m oc := by
  rw [packUnit, hc]

theorem tcopyUnit_start (hc : oc.o.cmd = .tcopy pk fl blk srec drec) (hs : oc.o.stage = 0) :
    tcopyUnit cf m oc = some (tcStart cf m oc ⟨pk, fl, blk, layOf srec, layOf drec⟩) := by
  simp only [tcopyUnit, hc, hs]

theorem tcopyUnit_rows (hc : oc.o.cmd = .tcopy pk fl blk srec drec) (hs : oc.o.stage = 3) :
    tcopyUnit cf m oc = tcRows cf m oc ⟨pk, fl, blk, layOf srec, layOf drec⟩ := by
  simp only [tcopyUnit, hc, hs]

theorem tcopyUnit_end (hc : oc.o.cmd = .tcopy pk fl blk srec drec) (hs : oc.o.stage = 6) (hv : fl.ver = false) :
    tcopyUnit cf m oc = some (m.finish oc.o 0 0 0) := by
  simp only [tcopyUnit, hc, hs, hv, Bool.false_eq_true, if_false]
  rfl

theorem tcopyUnit_bad (hc : oc.o.cmd = .tcopy pk fl blk srec drec) (hs : oc.o.stage = 0) (hb : tcBad oc ⟨pk, fl, blk, layOf srec, layOf drec⟩ = true) :
    tcopyUnit cf m oc = some (m.finish oc.o 1 0 oc.o.blkAddr) := by
  rw [tcopyUnit_start hc hs, tcStart, if_pos hb]
  rfl

/-- A copy whose records pass begins with its next part, or ends at a header that FE would empty. -/
theorem tcStart_eq {c : Tc} (hb : tcBad oc c = false) (hp : c.pack = false) : tcStart cf m oc c = match feHeader m oc c with
    | some a => m.finish oc.o 1 0x11 (BitVec.ofNat 64 a)
    | none => m.setOp { oc.o with stage := tcNext c 0 } := by
  rw [tcStart, if_neg (by rw [hb]; exact Bool.false_ne_true)]
  cases feHeader m oc c with
  | some a => rfl
  | none => exact if_neg (by rw [hp]; exact Bool.false_ne_true)

/-- The record after a piece has been written. -/
def tcAdvanced (c : Tc) (o : Op) (j : Nat) : Op :=
  let o := { o with pos := o.pos + j }
  let o := if o.pos % c.src.rowTotal = 0 then { o with buf := [] } else o
  if o.pos = c.total then { o with stage := tcNext c 3 } else o

theorem tcAdvanced_named (c : Tc) (o : Op) (j : Nat) : (tcAdvanced c o j).t = o.t ∧ (tcAdvanced c o j).k = o.k ∧ (tcAdvanced c o j).n = o.n ∧
    (tcAdvanced c o j).pos = o.pos + j := by
  unfold tcAdvanced
  dsimp only
  split <;> split <;> exact ⟨rfl, rfl, rfl, rfl⟩

/-- A row that is held leaves piece by piece. -/
theorem tcRows_writes {c : Tc} {j : Nat} (hb : c.buffered = false) (hl : c.src.rowTotal ≤ oc.o.buf.length)
    (hw : tcWrite cf m oc c oc.o.pos oc.o.buf (oc.o.pos % c.src.rowTotal) = (.ok j, n)) : tcRows cf m oc c = some (n.setOp (tcAdvanced c oc.o j)) := by
  unfold tcRows
  simp only [hb, Bool.false_eq_true, if_false, Nat.not_lt.mpr hl, hw]
  rfl

theorem tcWrite_plain {c : Tc} {a j : Nat} {held : List Byte} {at_ : Nat} (hp : c.pack = false) (hd : c.dst.loc j = .mem a)
    (hw : engWrite1 cf m oc a (bytesAt held at_ (c.dst.piece j)) = (.ok (), n)) : tcWrite cf m oc c j held at_ = (.ok (c.dst.piece j), n) := by
  simp only [tcWrite, hd, hp, hw, Bool.false_eq_true, if_false]

theorem tcWrite_packed {c : Tc} {a j : Nat} {held : List Byte} {at_ : Nat} {as : List (Acc × List Byte)} (hp : c.pack = true) (hd : c.dst.loc j = .mem a)
    (hw : packAcc cf m oc a (bytesAt held at_ 512) = (.ok as, n)) : tcWrite cf m oc c j held at_ = (.ok 512, n.deliverAll oc.o.leaf as) := by
  simp only [tcWrite, hd, hp, hw, if_true]

/-- What stands under the operation's name once a piece has left. -/
theorem tcAdvanced_pos (m : Mach) (c : Tc) (o : Op) (j : Nat) : ∀ x ∈ (m.setOp (tcAdvanced c o j)).ops, x.t = o.t → x.k = o.k → x.n = o.n → x.pos = o.pos + j := by
  intro x hx ht hk hn
  obtain ⟨h1, h2, h3, h4⟩ := tcAdvanced_named c o j
  rw [m.setOp_all _ x hx (ht.trans h1.symm) (hk.trans h2.symm) (hn.trans h3.symm), h4]

/-- A copy that fails with its version word not held. -/
theorem tcFail_unlocked {c : Tc} {sub : Nat} {a : DWord} (hv : c.fl.ver = false) : tcFail cf m oc c sub a = m.finishBad oc.o sub a := by
  rw [tcFail, tcLocked, hv, Bool.false_and]
  rfl

end

/-! ### A binding, and a job -/

theorem prologUnit_void {j : Nat} (hc : oc.o.cmd = .prolog j) (hk : (oc.rc.binds.getD j ⟨0, 0, 0, 0, false, 0⟩).kind = 0) :
    prologUnit cf m oc = some (m.finish oc.o 0 0 0) := by
  simp only [prologUnit, hc, hk]
  rfl

theorem prologUnit_book {j : Nat} {bs : List Byte} (hc : oc.o.cmd = .prolog j) (hk : (oc.rc.binds.getD j ⟨0, 0, 0, 0, false, 0⟩).kind = 2)
    (hr : engRead cf m oc (oc.rc.binds.getD j ⟨0, 0, 0, 0, false, 0⟩).addr.toNat 32 = (.ok bs, n)) :
    prologUnit cf m oc = some ((n.setOp { oc.o with due := ⟨[], [], none, none, some bs⟩ }).finish oc.o 0 0 0) := by
  simp only [prologUnit, hc, hk, hr]
  rfl

theorem dcUnit_refused {arr : Bool} {blk : List Byte} (hc : oc.o.cmd = .dcjob arr blk) (hb : (cardOf blk).reserved = true ∨ 2 ^ 31 < (cardOf blk).srclen) :
    dcUnit cf m oc = some (m.finish oc.o 1 0 oc.o.blkAddr) := by
  simp only [dcUnit, hc]
  exact if_pos (by simpa using hb)

theorem dcUnit_ends {arr : Bool} {blk : List Byte} (hc : oc.o.cmd = .dcjob arr blk) (hr : (cardOf blk).reserved = false) (hl : (cardOf blk).srclen ≤ 2 ^ 31)
    (hp : (cardOf blk).srclen ≤ oc.o.pos) (ho : oc.o.ins.getD 1 [] = [])
    (hw : engWrite1 cf m oc (genOfScr oc.o.blkAddr + 0x28) (leBytes 4 oc.o.prog ++ leBytes 4 0) = (.ok (), n)) : dcUnit cf m oc = some (n.finish oc.o 0 0 0) := by
  have hb : ((cardOf blk).reserved || decide (2 ^ 31 < (cardOf blk).srclen)) = false := by simpa [hr] using hl
  simp only [dcUnit, hc, hb, ho, hp, List.isEmpty_nil, Bool.not_true, Bool.false_eq_true, if_false, if_true, dcStop, hw]
  rfl

end
end Sys2Proof.Machine
end

section
/-! ## Rotations, and the prologue (O53)

A rotation begins on the current operations of its teams, which stay current as they begin; its moves are reads and writes at the homes, with nothing buffered
on their way. -/
namespace Sys2Proof.Machine

section
variable {s : State} {m n : Mach} {cf : Conf} {T K work : Nat} {k : EngCtx} {o p : Op} {cl : Cluster} {la : Launch} {rc : LRec} {tm x y : Team}
  {bwd : Bool} {off len : Word}

/-! ### Entries that begin -/

theorem Mach.beginOp_sameStores (m : Mach) (o : Op) : SameStores (m.beginOp o) m := by
  unfold Mach.beginOp
  split
  · exact .refl m
  · exact ⟨rfl, rfl, rfl, rfl, rfl⟩

theorem Mach.beginOp_regs (m : Mach) (o : Op) : (m.beginOp o).regs = m.regs ∧ (m.beginOp o).rings = m.rings := by
  unfold Mach.beginOp
  split <;> exact ⟨rfl, rfl⟩

theorem Mach.beginOp_hasOp (h : m.hasOp o) (p : Op) : (m.beginOp p).hasOp o := by
  unfold Mach.beginOp
  split
  · exact h
  · obtain ⟨x, hx, hn⟩ := h
    refine ⟨_, List.mem_map_of_mem hx, ?_⟩
    split
    · next he => exact ⟨he.1.symm.trans hn.1, he.2.1.symm.trans hn.2.1, he.2.2.symm.trans hn.2.2⟩
    · exact hn

/-- What is found in a list is found, changed, where it is changed and nothing before it comes to be sought. -/
theorem find?_map_found {α : Type} {P : α → Bool} {f : α → α} {a a' : α} (hf : f a = a') (ha : P a' = true) (hx : ∀ x, P x = false → P (f x) = true → f x = a') :
    ∀ {l : List α}, l.find? P = some a → (l.map f).find? P = some a'
  | [], h => by cases h
  | x :: l, h => by
    rw [List.find?_cons] at h
    rw [List.map_cons, List.find?_cons]
    cases hp : P x with
    | true =>
      rw [hp] at h
      cases h
      rw [hf, ha]
    | false =>
      rw [hp] at h
      cases hq : P (f x) with
      | true => rw [hx x hp hq]
      | false => exact find?_map_found hf ha hx h

/-- A current operation, taken apart. -/
theorem Mach.curOp_iff : m.curOp T k = some o ↔ (m.opsOf T k).find? (fun o => !o.isArm && (o.fin.isNone || o.owes)) = some o ∧ o.fin.isNone = true := by
  unfold Mach.curOp
  split
  · next x hx =>
    by_cases hn : x.fin.isNone = true
    · rw [if_pos hn, hx]
      exact ⟨fun e => ⟨e, Option.some.inj e ▸ hn⟩, fun ⟨e, _⟩ => e⟩
    · rw [if_neg hn, hx]
      exact ⟨fun e => (nomatch e), fun ⟨e, h⟩ => absurd (Option.some.inj e ▸ h) hn⟩
  · next hx =>
    rw [hx]
    exact ⟨fun e => (nomatch e), fun ⟨e, _⟩ => e⟩

theorem Mach.curOp_named (h : m.curOp T k = some o) : o.t = T ∧ o.k = k := by
  have := (List.mem_filter.mp (List.mem_of_find?_eq_some (Mach.curOp_iff.mp h).1)).2
  simpa using this

/-- The operations of a context where one operation is changed under its name. -/
theorem Mach.opsOf_setOp (m : Mach) (o : Op) : (m.setOp o).opsOf T k = (m.opsOf T k).map (fun x => if x.t = o.t ∧ x.k = o.k ∧ x.n = o.n then o else x) := by
  simp only [Mach.opsOf, Mach.setOp, Mach.updOp, List.filter_map]
  congr 1
  refine List.filter_congr fun x _ => ?_
  dsimp only [Function.comp]
  split
  · next h => rw [h.1, h.2.1]
  · rfl

/-- An operation that begins is current as it was. -/
theorem Mach.beginOp_curOp (h : m.curOp T k = some o) : (m.beginOp o).curOp T k = some { o with begun := true } := by
  unfold Mach.beginOp
  split
  · next hb => rw [h, ← hb]
  · obtain ⟨hf, hn⟩ := Mach.curOp_iff.mp h
    refine Mach.curOp_iff.mpr ⟨?_, hn⟩
    rw [Mach.opsOf_setOp]
    refine find?_map_found (P := fun o : Op => !o.isArm && (o.fin.isNone || o.owes)) (a := o) ?_ ?_ (fun x hx hy => ?_) hf
    · exact if_pos ⟨rfl, rfl, rfl⟩
    · exact (List.find?_some hf :)
    · by_cases h : x.t = o.t ∧ x.k = o.k ∧ x.n = o.n
      · exact if_pos h
      · rw [if_neg h, hx] at hy
        cases hy

/-- An operation of another team that begins changes no current operation. -/
theorem Mach.beginOp_curOp_other (ho : o.t ≠ T) : (m.beginOp o).curOp T k = m.curOp T k := by
  have hl : ((m.dropCopies [o.leaf]).setOp { o with begun := true }).opsOf T k = m.opsOf T k := by
    rw [Mach.opsOf_setOp]
    refine (List.map_congr_left (g := id) fun x hx => ?_).trans (List.map_id _)
    have ht : x.t = T := by simpa using (Bool.and_eq_true_iff.mp (List.mem_filter.mp hx).2).1
    exact if_neg fun h => ho (h.1.symm.trans ht)
  unfold Mach.beginOp
  split
  · rfl
  · rw [Mach.curOp, Mach.curOp, hl]

/-! ### Rotations -/

theorem rrotOf_rrot (hc : o.cmd = .rrot bwd off len) : rrotOf o = some (bwd, off.toNat, len.toNat) := by rw [rrotOf, hc]

theorem Mach.curRrot_eq (h : m.curOp T .copy = some o) (hc : o.cmd = .rrot bwd off len) : m.curRrot T = some o := by
  rw [Mach.curRrot, h, Option.bind_some, rrotOf_rrot hc]
  rfl

/-- The rotation that counts is one of the machine's operations. -/
theorem Mach.curRrot_mem (h : m.curRrot T = some o) : o ∈ m.ops := by
  unfold Mach.curRrot at h
  obtain ⟨z, hz, he⟩ := Option.bind_eq_some_iff.mp h
  split at he
  · cases he
    exact Mach.curOp_mem hz
  · cases he

/-- The rotations that teams of a cluster have reached, and the lowest-numbered of them. -/
def Mach.reached (m : Mach) (K : Nat) : List Op := (m.teamsOf K).filterMap (fun tm => m.curRrot tm.t)
def Mach.lowest (m : Mach) (K : Nat) : Option Op := (m.reached K).find? (fun p => (m.reached K).all (fun x => decide (p.prog ≤ x.prog)))

theorem Mach.lowest_hasOp (h : m.lowest K = some o) : m.hasOp o := by
  obtain ⟨tm, -, ht⟩ := List.mem_filterMap.mp (List.mem_of_find?_eq_some h)
  exact ⟨o, Mach.curRrot_mem ht, rfl, rfl, rfl⟩

/-- A cluster that runs, its launch's record, and the rotation that counts. -/
theorem ringRotation_eq (hK : m.cluster? K = some cl) (h1 : cl.pre ≠ .stopping) (h2 : cl.pre ≠ .saved) (hla : m.launch? cl.l = some la) (hrc : la.rec_ = some rc)
    (ho : m.lowest K = some o) (hc : o.cmd = .rrot bwd off len) : ringRotation m K work = ringStep m K (m.teamsOf K) rc.scr work o (bwd, off.toNat, len.toNat) := by
  have hp : (cl.pre == PreSt.stopping || cl.pre == PreSt.saved) = false := by simp [h1, h2]
  unfold Mach.lowest Mach.reached at ho
  simp only [ringRotation, hK, hla, hrc, Option.bind_some, Option.map_some, Option.getD_some, hp, ho, rrotOf_rrot hc, Bool.false_eq_true, if_false]

/-- A rotation with its teams' rotations of the number: whether a team has ended with fewer. -/
def Mach.endedShort (m : Mach) (tms : List Team) (j : Nat) : Bool :=
  tms.any (fun tm => (tm.rots[j]?).isNone && (m.groupsOf tm.t).all Group.ended && !(m.groupsOf tm.t).isEmpty)

theorem ringStep_fails {tms : List Team} {scr : Nat} {r : Bool × Nat × Nat}
    (h : ∃ tm ∈ tms, ∃ q, tm.rots[o.prog]? = some q ∧ (q ≠ r ∨ rrotBad scr q.2.1 q.2.2 = true)) :
    ringStep m K tms scr work o r = (m.rotsAt tms o.prog).foldl (fun m o => m.finishParam o) m := by
  obtain ⟨tm, ht, q, hq, hb⟩ := h
  refine if_pos (Bool.or_eq_true_iff.mpr (.inr (List.any_eq_true.mpr ⟨tm.rots[o.prog]?, List.mem_map.mpr ⟨tm, ht, rfl⟩, ?_⟩)))
  rw [hq]
  simpa using hb

/-- Rotations that agree, of teams none of which has ended with fewer. -/
theorem ringStep_agrees {tms : List Team} {scr : Nat} {r : Bool × Nat × Nat} (hb : rrotBad scr r.2.1 r.2.2 = false)
    (h : ∀ tm ∈ tms, tm.rots[o.prog]? = some r ∨ (tm.rots[o.prog]? = none ∧ ∃ g ∈ m.groupsOf tm.t, g.ended = false)) :
    (m.endedShort tms o.prog || (tms.map (fun tm => tm.rots[o.prog]?)).any (fun x => x.any (fun q => q != r || rrotBad scr q.2.1 q.2.2))) = false := by
  refine Bool.or_eq_false_iff.mpr ⟨List.any_eq_false.mpr fun tm ht hx => ?_, List.any_eq_false.mpr fun z hz hx => ?_⟩
  · rcases h tm ht with h | ⟨-, g, hg, he⟩
    · simp [h] at hx
    · simp only [Bool.and_eq_true, List.all_eq_true] at hx
      rw [hx.1.2 g hg] at he
      cases he
  · obtain ⟨tm, ht, rfl⟩ := List.mem_map.mp hz
    rcases h tm ht with h | ⟨h, -⟩
    · rw [h] at hx
      simp [hb] at hx
    · rw [h] at hx
      cases hx

/-- What is finished for a parameter has failed with FAULT, whatever else is finished so. -/
theorem finishParams_ended : ∀ (l : List Op) (m : Mach), (∃ p ∈ l, p.t = o.t ∧ p.k = o.k ∧ p.n = o.n) ∨ (∀ x ∈ m.ops, x.t = o.t → x.k = o.k → x.n = o.n → x.fin.map Prod.fst = some 1) →
    ∀ x ∈ (l.foldl (fun m p => m.finishParam p) m).ops, x.t = o.t → x.k = o.k → x.n = o.n → x.fin.map Prod.fst = some 1
  | [], _, h => h.resolve_left fun ⟨_, hp, _⟩ => List.not_mem_nil hp
  | p :: l, m, h => by
    refine finishParams_ended l _ ?_
    by_cases hl : ∃ q ∈ l, q.t = o.t ∧ q.k = o.k ∧ q.n = o.n
    · exact .inl hl
    · refine .inr fun x hx ht hk hn => ?_
      obtain ⟨z, hz, rfl⟩ := List.mem_map.mp hx
      split
      · rfl
      · next hne =>
        rw [if_neg hne] at ht hk hn
        rcases h with ⟨q, hq, hqn⟩ | h
        · rcases List.mem_cons.mp hq with rfl | hq
          · exact absurd ⟨ht.trans hqn.1.symm, hk.trans hqn.2.1.symm, hn.trans hqn.2.2.symm⟩ hne
          · exact absurd ⟨q, hq, hqn⟩ hl
        · exact h z hz ht hk hn

/-! ### A move -/

theorem SameStores.granule (h : SameStores n m) (t g : Nat) : n.granule t g = m.granule t g := by
  obtain ⟨-, -, -, hg, -⟩ := h
  rw [Mach.granule, Mach.granule, hg]

theorem SameStores.homeBytes_scr (h : SameStores n m) (t a j : Nat) (tag : Option KTag) : n.homeBytes (.scr t) a j tag = m.homeBytes (.scr t) a j tag := by
  obtain ⟨-, -, hs, -⟩ := h
  exact List.map_congr_left fun i _ => Mach.homeByte_scr_congr hs

theorem SameStores.canonical (h : SameStores n m) (hm : m.canonical = true) : n.canonical = true := by
  obtain ⟨h1, h2, h3, h4, -⟩ := h
  rw [canonical_iff] at hm ⊢
  rwa [h1, h2, h3, h4]

theorem SameStores.unbuffered (h : SameStores n m) (hm : m.bufs = []) : n.bufs = [] := h.2.2.2.2.trans hm

/-- With nothing buffered a read of an allocation at the home changes no store. -/
theorem Mach.readHome_unbuffered {leaf : Point} {t a j : Nat} {tag : Option KTag} (hb : m.bufs = []) :
    (m.readHome leaf (.scr t) a j tag).1 = m.homeBytes (.scr t) a j tag ∧ SameStores (m.readHome leaf (.scr t) a j tag).2 m := by
  have hp : ∀ ps sel, m.push ps sel = m := fun ps sel => Mach.push_none ps (by simp [hb])
  have hs := m.uncopies_sameStores (m.path leaf (.scr t)) (.scr t) a j
  simp only [Mach.readHome, hp]
  exact ⟨hs.homeBytes_scr .., hs.trans (Mach.touch_sameStores ..)⟩

/-- What a granule leaves with. -/
def Mach.granuleOf (m : Mach) (tm : Team) (a : Nat) : List Byte × Bool × BitVec 16 := (m.homeBytes (.scr tm.t) a 16 none, m.granule tm.t (a / 16))

theorem SameStores.granuleOf (h : SameStores n m) (tm : Team) (a : Nat) : n.granuleOf tm a = m.granuleOf tm a :=
  Prod.ext (h.homeBytes_scr ..) (h.granule ..)

theorem Mach.ringGranule_unbuffered {a : Nat} (hb : m.bufs = []) : (m.ringGranule tm a).1 = m.granuleOf tm a ∧ SameStores (m.ringGranule tm a).2 m := by
  obtain ⟨hv, hs⟩ := Mach.readHome_unbuffered (m := m) (leaf := .eng tm.t .copy) (t := tm.t) (a := a) (j := 16) (tag := none) hb
  exact ⟨Prod.ext hv (hs.granule ..), hs⟩

theorem Mach.ringGranule_keeps (m : Mach) (tm : Team) (a : Nat) : m.Keeps (m.ringGranule tm a).2 := (Mach.readHome_near ..).keeps

/-- A write to an allocation at the home, with nothing buffered. -/
theorem Mach.writeHome_unbuffered {leaf : Point} {w : Write} {t : Nat} (hw : w.sp = .scr t) (hb : m.bufs = []) (hm : m.canonical = true) :
    (m.writeHome leaf w).homeBytes (.scr t) w.addr w.bytes.length none = w.bytes := by
  have hp : ∀ ps sel, m.push ps sel = m := fun ps sel => Mach.push_none ps (by simp [hb])
  have hs := m.uncopies_sameStores (m.path leaf w.sp) w.sp w.addr w.bytes.length
  simp only [Mach.writeHome, hp]
  exact Mach.deliver_homeBytes_scr hw (hs.canonical hm)

theorem Mach.setGranule_granule (hm : m.canonical = true) (t g : Nat) (v : Bool × BitVec 16) : (m.setGranule t g v).granule t g = v := by
  have := ((canonical_iff m).mp hm).2.2.2
  rw [Mach.granule, Mach.setGranule]
  exact (smGet_smSet _ _ _ this).trans (if_pos rfl)

/-- What a move delivers at a team's offset. -/
def Mach.movedTo (m : Mach) (t a : Nat) (g : List Byte × Bool × BitVec 16) : Mach :=
  (m.writeHome (.eng t .copy) ⟨0, .scr t, a, g.1, .plain, none, false, 0, 0, 0⟩).setGranule t (a / 16) g.2

theorem Mach.movedTo_reads {t a : Nat} {g : List Byte × Bool × BitVec 16} (hb : m.bufs = []) (hm : m.canonical = true) (hg : g.1.length = 16) :
    (m.movedTo t a g).homeBytes (.scr t) a 16 none = g.1 ∧ (m.movedTo t a g).granule t (a / 16) = g.2 := by
  have hw := Mach.writeHome_unbuffered (leaf := .eng t .copy) (w := ⟨0, .scr t, a, g.1, .plain, none, false, 0, 0, 0⟩) rfl hb hm
  rw [show (⟨0, .scr t, a, g.1, .plain, none, false, 0, 0, 0⟩ : Write).bytes.length = 16 from hg] at hw
  exact ⟨hw, Mach.setGranule_granule ((Mach.writeHome_near m ..).2 hm) ..⟩

theorem Mach.movedTo_keeps (m : Mach) (t a : Nat) (g : List Byte × Bool × BitVec 16) : m.Keeps (m.movedTo t a g) :=
  ((Mach.writeHome_near m ..).trans (Mach.setGranule_near ..)).keeps

/-- The first move of two teams: each offset's granules are taken, and the first team's is delivered at the second's. -/
theorem ringUnit_first {j a : Nat} (hr : m.rings.find? (fun r => r.c == K) = none) (hj : 16 ≤ j) :
    ringUnit m K [x, y] bwd a j = { (((m.ringGranule x a).2.ringGranule y a).2.movedTo y.t a (m.ringGranule x a).1) with
      rings := ⟨K, 1, [(m.ringGranule x a).1, ((m.ringGranule x a).2.ringGranule y a).1]⟩ :: m.rings.filter (fun r => r.c != K) } := by
  have hd : ¬ j / 16 * 2 ≤ 0 := by omega
  have hi : (if bwd = true then (0 + 2 - 1) % 2 else (0 + 1) % 2) = 1 := by cases bwd <;> rfl
  unfold ringUnit
  simp only [hr, Option.getD_none, List.length_cons, List.length_nil, Nat.zero_add, Nat.reduceAdd, hd, if_false, Nat.zero_div, Nat.mul_zero, Nat.add_zero, Nat.zero_mod,
    if_true, List.foldl_cons, List.foldl_nil, List.nil_append, List.cons_append, ite_self, Nat.reduceSub, Nat.reduceMod, List.getElem?_cons_succ, List.getElem?_cons_zero]
  rfl

/-! ### The rotation that counts -/

/-- Two teams' current rotations, of one number. -/
structure Mach.Turning (m : Mach) (x y : Team) (o p : Op) (bwd : Bool) (off len : Word) : Prop where
  fst : m.curOp x.t .copy = some o ∧ o.cmd = .rrot bwd off len
  snd : m.curOp y.t .copy = some p ∧ p.cmd = .rrot bwd off len
  num : p.prog = o.prog
  apart : x.t ≠ y.t

theorem Mach.Turning.reached (h : m.Turning x y o p bwd off len) : [x, y].filterMap (fun tm => m.curRrot tm.t) = [o, p] := by
  obtain ⟨⟨hx, hxc⟩, ⟨hy, hyc⟩, -, -⟩ := h
  simp only [List.filterMap_cons, Mach.curRrot_eq hx hxc, Mach.curRrot_eq hy hyc, List.filterMap_nil]

/-- Both begin, and are current. -/
theorem Mach.Turning.begins (h : m.Turning x y o p bwd off len) :
    ((m.beginOp o).beginOp p).Turning x y { o with begun := true } { p with begun := true } bwd off len := by
  obtain ⟨⟨hx, hxc⟩, ⟨hy, hyc⟩, hn, ha⟩ := h
  have ho := (Mach.curOp_named hx).1
  have hp := (Mach.curOp_named hy).1
  refine ⟨⟨?_, hxc⟩, ⟨?_, hyc⟩, hn, ha⟩
  · rw [Mach.beginOp_curOp_other (by rw [hp]; exact ha.symm)]
    exact Mach.beginOp_curOp hx
  · exact Mach.beginOp_curOp ((Mach.beginOp_curOp_other (by rw [ho]; exact ha)).trans hy)

/-- The rotation moves by one unit once both have begun. -/
theorem ringStep_moves {scr : Nat} {r : Bool × Nat × Nat} (h : m.Turning x y o p bwd off len) (hx : x.rots[o.prog]? = some r) (hy : y.rots[o.prog]? = some r)
    (hb : rrotBad scr r.2.1 r.2.2 = false) (hl : r.2.2 ≠ 0) :
    ringStep m K [x, y] scr 1 o r = ringUnit ((m.beginOp o).beginOp p) K [x, y] r.1 r.2.1 r.2.2 := by
  have hag := ringStep_agrees (m := m) (tms := [x, y]) (o := o) hb (by simp [hx, hy])
  have h2 : ([x, y].filterMap (fun tm => (((m.beginOp o).beginOp p).curRrot tm.t).filter (fun q => q.prog == o.prog))).length = [x, y].length := by
    obtain ⟨⟨hx, hxc⟩, ⟨hy, hyc⟩, hn, -⟩ := h.begins
    have hn : p.prog = o.prog := hn
    simp [Mach.curRrot_eq hx hxc, Mach.curRrot_eq hy hyc, Option.filter, hn]
  refine (if_neg (ne_true_of_eq_false hag)).trans ?_
  simp only [Bool.false_eq_true, if_false, hl, List.length_cons, List.length_nil, h.reached, List.map_cons, List.map_nil, hx, hy, List.any_cons, List.any_nil,
    Option.isNone_some, Bool.or_self, Nat.reduceAdd, Nat.reduceEqDiff, or_self, Nat.lt_irrefl, h.num, bne_self_eq_false, List.foldl_cons, List.foldl_nil, repeatN]
  exact if_pos h2

theorem Mach.Turning.lowest (h : m.Turning x y o p bwd off len) (ht : m.teamsOf K = [x, y]) : m.lowest K = some o := by
  have hr : m.reached K = [o, p] := by rw [Mach.reached, ht, h.reached]
  rw [Mach.lowest, hr, List.find?_cons_of_pos]
  simp [h.num]

/-- Rotations under way are no store and no register. -/
theorem Mach.rings_keep (m : Mach) (rs : List Ring) : SameStores { m with rings := rs } m ∧ ({ m with rings := rs } : Mach).regs = m.regs :=
  ⟨⟨rfl, rfl, rfl, rfl, rfl⟩, rfl⟩

/-- The first move of a rotation of two teams. -/
theorem ringRotation_first {a j : Nat} (hr : ∀ r ∈ m.rings, r.c ≠ K) (hb : m.bufs = [])
    (hm : m.canonical = true) (hj : 16 ≤ j) :
    (ringUnit ((m.beginOp o).beginOp p) K [x, y] bwd a j).granuleOf y a = m.granuleOf x a ∧
      (ringUnit ((m.beginOp o).beginOp p) K [x, y] bwd a j).regs = m.regs := by
  have hs : SameStores ((m.beginOp o).beginOp p) m := (m.beginOp_sameStores o).trans (Mach.beginOp_sameStores ..)
  have hrg : ((m.beginOp o).beginOp p).rings.find? (fun r => r.c == K) = none := by
    rw [((m.beginOp o).beginOp_regs p).2, (m.beginOp_regs o).2]
    exact List.find?_eq_none.mpr fun r h => by simpa using hr r h
  have hregs : ((m.beginOp o).beginOp p).regs = m.regs := ((m.beginOp o).beginOp_regs p).1.trans (m.beginOp_regs o).1
  generalize (m.beginOp o).beginOp p = m1 at hs hrg hregs
  obtain ⟨hg, hs2⟩ := Mach.ringGranule_unbuffered (tm := x) (a := a) (hs.unbuffered hb)
  have hs2 := hs.trans hs2
  obtain ⟨-, hs3⟩ := Mach.ringGranule_unbuffered (tm := y) (a := a) (hs2.unbuffered hb)
  have hs3 := hs2.trans hs3
  obtain ⟨hv, hw⟩ := Mach.movedTo_reads (t := y.t) (a := a) (g := (m1.ringGranule x a).1) (hs3.unbuffered hb) (hs3.canonical hm)
    (by rw [hg]; simp [Mach.granuleOf, Mach.homeBytes])
  have hg : (m1.ringGranule x a).1 = m.granuleOf x a := hg.trans (hs.granuleOf ..)
  rw [ringUnit_first hrg hj]
  obtain ⟨hst, hrs⟩ := Mach.rings_keep (((m1.ringGranule x a).2.ringGranule y a).2.movedTo y.t a (m1.ringGranule x a).1)
    (⟨K, 1, [(m1.ringGranule x a).1, ((m1.ringGranule x a).2.ringGranule y a).1]⟩ :: m1.rings.filter (fun r => r.c != K))
  refine ⟨(hst.granuleOf y a).trans (Prod.ext (hv.trans (congrArg Prod.fst hg)) (hw.trans (congrArg Prod.snd hg))), hrs.trans ?_⟩
  exact (((m1.ringGranule_keeps x a).trans (Mach.ringGranule_keeps ..)).trans (Mach.movedTo_keeps ..)).regs.trans hregs

/-! ### The prologue -/

theorem Mach.team?_updTeam {f : Team → Team} (h : m.team? T = some tm) (hf : ∀ z, z.t = T → (f z).t = T) : (m.updTeam T f).team? T = some (f tm) := by
  unfold Mach.team? at h ⊢
  rw [Mach.updTeam_teams, find?_map_upd (fun x : Team => x.t == T) (fun x => x.t = T) f m.teams (fun z hz => by simp [hz, hf z hz]) fun z hz => by simpa using hz, h]
  rfl

/-- A prologue that may go on, with none of its operations in the context. -/
theorem prologue_idle (ht : m.team? T = some tm) (hc : m.cluster? tm.c = some cl) (hl : m.launch? tm.l = some la) (hr : la.rec_ = some rc) (hd : tm.prolDone = false)
    (hs : cl.started = false) (h5 : tm.prol ≠ 5) (h1 : cl.pre ≠ .saved) (h2 : cl.pre ≠ .stopping) (ho : ∀ o ∈ m.opsOf T .copy, o.n ≠ 0) :
    prologue cf m T =
      let m := if tm.prol = 0 then
          (writePieces 0x40 rc.args).foldl (fun m w => m.writePlain (.eng T .copy) ⟨0, .scr T, w.1, w.2, .engine, none, false, 0, 0, 0⟩) m
        else m
      if tm.prol < 4 then { m with ops := m.ops ++ [prologOp T tm.prol] }
      else (m.drain (.eng T .copy) 1).updTeam T (fun tm => { tm with prolDone := true }) := by
  have hnone : (m.opsOf T .copy).find? (fun o => o.n == 0) = none := List.find?_eq_none.mpr fun o h => by simpa using ho o h
  have hgo : (tm.prolDone || cl.started || tm.prol == 5 || cl.pre == PreSt.saved || cl.pre == PreSt.stopping) = false := by simp [hd, hs, h5, h1, h2]
  simp only [prologue, ht, hc, hl, hr, hgo, hnone, Bool.false_eq_true, if_false]

/-- The argument block is buffered: no operation and no team changes. -/
theorem writeArgs_keeps (ws : List (Nat × List Byte)) (m : Mach) :
    let n := ws.foldl (fun m w => m.writePlain (.eng T .copy) ⟨0, .scr T, w.1, w.2, .engine, none, false, 0, 0, 0⟩) m
    n.ops = m.ops ∧ n.teams = m.teams := by
  have h : ∀ (m : Mach) (w : Nat × List Byte), (m.writePlain (.eng T .copy) ⟨0, .scr T, w.1, w.2, .engine, none, false, 0, 0, 0⟩).ops = m.ops ∧
      (m.writePlain (.eng T .copy) ⟨0, .scr T, w.1, w.2, .engine, none, false, 0, 0, 0⟩).teams = m.teams := fun m w => by
    rw [Mach.writePlain_leaf rfl]
    exact ⟨rfl, rfl⟩
  exact ⟨foldl_keeps Mach.ops (fun m w => (h m w).1) ws m, foldl_keeps Mach.teams (fun m w => (h m w).2) ws m⟩

end
end Sys2Proof.Machine
end

section
/-! ## Steps of the copy engine (O53) -/
namespace Sys2Proof.Machine

section
variable {s : State} {n : Mach} {T : Nat} {oc : OpCtx} {fl : CopyFlags} {blk srec drec : List Byte}

/-- A copy whose records pass, and which packs nothing, takes its first step. -/
theorem tcopy_starts (h : Working s T .copy oc) (hc : oc.o.cmd = .tcopy false fl blk srec drec) (hs : oc.o.stage = 0)
    (hb : tcBad oc ⟨false, fl, blk, layOf srec, layOf drec⟩ = false) :
    Completes (exec (.tcopyOperation T 1) s) (fun t =>
      (feHeader s.m oc ⟨false, fl, blk, layOf srec, layOf drec⟩ = none → Became t oc.o { oc.o with stage := if fl.cr then 1 else if fl.ver then 2 else 3 }) ∧
      (∀ a, feHeader s.m oc ⟨false, fl, blk, layOf srec, layOf drec⟩ = some a → Ended t oc.o 1 0x11 (BitVec.ofNat 64 a)) ∧ SameStores t.m s.m) := by
  refine h.completes ((tcopyUnit_start hc hs).trans (congrArg some (tcStart_eq hb rfl))) ?_
  cases feHeader s.m oc ⟨false, fl, blk, layOf srec, layOf drec⟩ with
  | none =>
    exact ⟨fun _ => Mach.setOp_became (o' := { oc.o with stage := if fl.cr then 1 else if fl.ver then 2 else 3 }) h.hasOp ⟨rfl, rfl, rfl⟩ _, fun a e => (nomatch e),
      s.m.setOp_sameStores _⟩
  | some a =>
    refine ⟨fun e => (nomatch e), fun b e => ?_, s.m.finish_sameStores ..⟩
    cases e
    exact Mach.finish_ended h.hasOp ..

/-- A row that is held leaves by a write of one of its pieces. -/
theorem tcopy_writes {a : Nat} (h : Working s T .copy oc) (hc : oc.o.cmd = .tcopy false fl blk srec drec) (hs : oc.o.stage = 3) (hf : fl.all = false ∧ fl.cr = false)
    (hl : (layOf srec).rowTotal ≤ oc.o.buf.length) (hd : (layOf drec).loc oc.o.pos = .mem a)
    (hw : engWrite1 s.cfg s.m oc a (bytesAt oc.o.buf (oc.o.pos % (layOf srec).rowTotal) ((layOf drec).piece oc.o.pos)) = (.ok (), n)) :
    Completes (exec (.tcopyOperation T 1) s) (fun t => SameStores t.m n ∧ t.m.regs = s.m.regs ∧
      ∀ x ∈ t.m.ops, x.t = oc.o.t → x.k = oc.o.k → x.n = oc.o.n → x.pos = oc.o.pos + (layOf drec).piece oc.o.pos) := by
  let c : Tc := ⟨false, fl, blk, layOf srec, layOf drec⟩
  have hbuf : c.buffered = false := Bool.or_eq_false_iff.mpr hf
  have hu := (tcopyUnit_rows hc hs).trans (tcRows_writes hbuf hl (tcWrite_plain (c := c) rfl hd hw))
  exact h.completes hu ⟨n.setOp_sameStores _, ((engWrite1_keeps s.m oc a _).of_eq hw).regs, tcAdvanced_pos n c oc.o _⟩

/-- A row that is held leaves by the slot of one of its blocks. -/
theorem pack_writes {a : Nat} {as : List (Acc × List Byte)} (h : Working s T .copy oc) (hc : oc.o.cmd = .tcopy true fl blk srec drec) (hs : oc.o.stage = 3)
    (hf : fl.all = false ∧ fl.cr = false) (hl : (layOf srec).rowTotal ≤ oc.o.buf.length) (hd : (layOf drec).loc oc.o.pos = .mem a)
    (hw : packAcc s.cfg s.m oc a (bytesAt oc.o.buf (oc.o.pos % (layOf srec).rowTotal) 512) = (.ok as, n)) :
    Completes (exec (.packOperation T 1) s) (fun t => SameStores t.m (n.deliverAll oc.o.leaf as) ∧
      ∀ x ∈ t.m.ops, x.t = oc.o.t → x.k = oc.o.k → x.n = oc.o.n → x.pos = oc.o.pos + 512) := by
  let c : Tc := ⟨true, fl, blk, layOf srec, layOf drec⟩
  have hbuf : c.buffered = false := Bool.or_eq_false_iff.mpr hf
  have hu := ((packUnit_eq hc).trans (tcopyUnit_rows hc hs)).trans (tcRows_writes hbuf hl (tcWrite_packed (c := c) rfl hd hw))
  exact h.completes (unit := packUnit) hu ⟨Mach.setOp_sameStores .., tcAdvanced_pos _ c oc.o 512⟩

/-- A codebook that a binding names is left for its retirement. -/
theorem prolog_book {j : Nat} {bs : List Byte} (h : Working s T .copy oc) (hc : oc.o.cmd = .prolog j) (hk : (oc.rc.binds.getD j ⟨0, 0, 0, 0, false, 0⟩).kind = 2)
    (hr : engRead s.cfg s.m oc (oc.rc.binds.getD j ⟨0, 0, 0, 0, false, 0⟩).addr.toNat 32 = (.ok bs, n)) :
    Completes (exec (.prologOperation T 1) s) (fun t => Became t oc.o { oc.o with due := ⟨[], [], none, none, some bs⟩, fin := some (0, 0, 0) } ∧
      t.m.groups = n.groups ∧ SameStores t.m n) :=
  h.completes (prologUnit_book hc hk hr) ⟨Mach.setOp_finish_became (o' := { oc.o with due := ⟨[], [], none, none, some bs⟩ })
    (Mach.hasOp_of_duties (snd_of_eq hr (engReadAll_duties s.m oc _)) h.hasOp) ⟨rfl, rfl, rfl⟩ .., rfl, (n.setOp_sameStores _).trans (Mach.finish_sameStores ..)⟩

/-- A job that has read its source ends once its card is written. -/
theorem dcmp_ends {arr : Bool} (h : Working s T .dcmp oc) (hc : oc.o.cmd = .dcjob arr blk) (hr : (cardOf blk).reserved = false) (hl : (cardOf blk).srclen ≤ 2 ^ 31)
    (hp : (cardOf blk).srclen ≤ oc.o.pos) (ho : oc.o.ins.getD 1 [] = [])
    (hw : engWrite1 s.cfg s.m oc (genOfScr oc.o.blkAddr + 0x28) (leBytes 4 oc.o.prog ++ leBytes 4 0) = (.ok (), n)) :
    Completes (exec (.dcmpJob T 1) s) (fun t => Ended t oc.o 0 0 0 ∧ SameStores t.m n ∧ t.m.regs = s.m.regs) := by
  have hk := (engWrite1_keeps s.m oc (genOfScr oc.o.blkAddr + 0x28) _).of_eq hw
  exact h.completes (dcUnit_ends hc hr hl hp ho hw) ⟨Mach.finish_ended (hk.hasOp h.hasOp) .., n.finish_sameStores .., hk.regs⟩

/-- A wait for a granule that has lasted the limit ends its copy. -/
theorem feTimeout_ends {pk : Bool} {since a : Nat} (h : Working s T .copy oc) (hc : oc.o.cmd = .tcopy pk fl blk srec drec) (hs : oc.o.feSince = some since)
    (hlim : 2 ^ oc.rc.fek ≤ s.m.cyc - since) (hv : fl.ver = false)
    (ha : tcAwaits s.m oc ⟨pk, fl, blk, layOf srec, layOf drec⟩ ((if fl.all || fl.cr then 0 else oc.o.pos) + oc.o.buf.length) = some a) :
    Completes (exec (.engineFeTimeout T) s) (fun t => Ended t oc.o 1 0 (BitVec.ofNat 64 a) ∧ SameStores t.m s.m) := by
  have hgo : (oc.mayWork && decide (2 ^ oc.rc.fek ≤ s.m.cyc - since)) = true := Bool.and_eq_true_iff.mpr ⟨h.may, decide_eq_true hlim⟩
  have he : engineFeTimeout s.cfg s.m T = s.m.finish oc.o 1 0 (BitVec.ofNat 64 a) := by
    simp only [engineFeTimeout, h.cur, h.ctx, hs, hc, hgo, if_true]
    refine Eq.trans ?_ (tcFail_unlocked (c := ⟨pk, fl, blk, layOf srec, layOf drec⟩) (cf := s.cfg) (oc := oc) (sub := 0) hv)
    exact congrArg (fun r : Option Nat => match r with
      | some a => tcFail s.cfg s.m oc ⟨pk, fl, blk, layOf srec, layOf drec⟩ 0 (BitVec.ofNat 64 a)
      | none => s.m) ha
  exact onMach_completes (step := fun cf m => engineFeTimeout cf m T) he ⟨Mach.finish_ended h.hasOp .., s.m.finish_sameStores ..⟩

/-! ### Rotations -/

section
variable {K work : Nat} {cl : Cluster} {la : Launch} {rc : LRec} {o p : Op} {bwd : Bool} {off len : Word} {x y : Team}

theorem ringRotation_none (hK : s.m.cluster? K = some cl) (h1 : cl.pre ≠ .stopping) (h2 : cl.pre ≠ .saved) (hla : s.m.launch? cl.l = some la) (hrc : la.rec_ = some rc)
    (ho : s.m.lowest K = some o) (hc : o.cmd = .rrot bwd off 0) (hb : rrotBad rc.scr off.toNat 0 = false)
    (hr : ∀ tm ∈ s.m.teamsOf K, tm.rots[o.prog]? = some (bwd, off.toNat, 0) ∨ (tm.rots[o.prog]? = none ∧ ∃ g ∈ s.m.groupsOf tm.t, g.ended = false)) :
    Completes (exec (.ringRotation K work) s) (fun t => SameStores t.m s.m ∧ t.m.regs = s.m.regs ∧ Ended t o 0 0 0) := by
  have he : ringRotation s.m K work = (s.m.beginOp o).finishOk o := by
    rw [ringRotation_eq hK h1 h2 hla hrc ho hc]
    exact (if_neg (ne_true_of_eq_false (ringStep_agrees (r := (bwd, off.toNat, 0)) hb hr))).trans (if_pos (.inl rfl))
  exact onMach_completes (step := fun _ m => ringRotation m K work) he
    ⟨(s.m.beginOp_sameStores o).trans (Mach.finish_sameStores ..), (s.m.beginOp_regs o).1, Mach.finish_ended (Mach.beginOp_hasOp (Mach.lowest_hasOp ho) o) ..⟩

theorem ringRotation_fails (hK : s.m.cluster? K = some cl) (h1 : cl.pre ≠ .stopping) (h2 : cl.pre ≠ .saved) (hla : s.m.launch? cl.l = some la) (hrc : la.rec_ = some rc)
    (ho : s.m.lowest K = some o) (hc : o.cmd = .rrot bwd off len)
    (hr : ∃ tm ∈ s.m.teamsOf K, ∃ r, tm.rots[o.prog]? = some r ∧ (r ≠ (bwd, off.toNat, len.toNat) ∨ rrotBad rc.scr r.2.1 r.2.2 = true)) :
    Completes (exec (.ringRotation K work) s) (fun t => SameStores t.m s.m ∧ t.m.regs = s.m.regs ∧
      ∀ x ∈ t.m.ops, (∃ p ∈ s.m.rotsAt (s.m.teamsOf K) o.prog, x.t = p.t ∧ x.k = p.k ∧ x.n = p.n) → x.fin.map Prod.fst = some 1) := by
  have he : ringRotation s.m K work = (s.m.rotsAt (s.m.teamsOf K) o.prog).foldl (fun m o => m.finishParam o) s.m := by
    rw [ringRotation_eq hK h1 h2 hla hrc ho hc, ringStep_fails hr]
  refine onMach_completes (step := fun _ m => ringRotation m K work) he ⟨.foldl (fun m o => m.finish_sameStores ..) _ _, foldl_keeps Mach.regs (f := fun m o => m.finishParam o) (fun _ _ => rfl) _ _, ?_⟩
  rintro x hx ⟨p, hp, ht, hk, hn⟩
  exact finishParams_ended (o := p) _ s.m (.inl ⟨p, hp, rfl, rfl, rfl⟩) x hx ht hk hn

theorem ringRotation_moves (hK : s.m.cluster? K = some cl) (h1 : cl.pre ≠ .stopping) (h2 : cl.pre ≠ .saved) (hla : s.m.launch? cl.l = some la) (hrc : la.rec_ = some rc)
    (ht : s.m.teamsOf K = [x, y]) (h : s.m.Turning x y o p bwd off len) (hx : x.rots[o.prog]? = some (bwd, off.toNat, len.toNat))
    (hy : y.rots[o.prog]? = some (bwd, off.toNat, len.toNat)) (hl : len ≠ 0) (hb : rrotBad rc.scr off.toNat len.toNat = false)
    (hr : ∀ r ∈ s.m.rings, r.c ≠ K) (hbuf : s.m.bufs = []) (hm : s.m.canonical = true) :
    Completes (exec (.ringRotation K 1) s) (fun t => t.m.homeBytes (.scr y.t) off.toNat 16 none = s.m.homeBytes (.scr x.t) off.toNat 16 none ∧
      t.m.granule y.t (off.toNat / 16) = s.m.granule x.t (off.toNat / 16) ∧ t.m.regs = s.m.regs) := by
  have hn : len.toNat ≠ 0 := fun e => hl (BitVec.eq_of_toNat_eq e)
  have hj : 16 ≤ len.toNat := by
    simp only [rrotBad, Bool.or_eq_false_iff, bne_eq_false_iff_eq] at hb
    omega
  have he : ringRotation s.m K 1 = ringUnit ((s.m.beginOp o).beginOp p) K [x, y] bwd off.toNat len.toNat := by
    rw [ringRotation_eq hK h1 h2 hla hrc (h.lowest ht) h.fst.2, ht]
    exact ringStep_moves h hx hy hb hn
  obtain ⟨hg, hregs⟩ := ringRotation_first (o := o) (p := p) (y := y) (bwd := bwd) hr hbuf hm hj
  exact onMach_completes (step := fun _ m => ringRotation m K 1) he ⟨congrArg Prod.fst hg, congrArg Prod.snd hg, hregs⟩

end

/-! ### The prologue -/

section
variable {cl : Cluster} {la : Launch} {rc : LRec} {tm : Team}

theorem prologue_drains (ht : s.m.team? T = some tm) (hc : s.m.cluster? tm.c = some cl) (hl : s.m.launch? tm.l = some la) (hr : la.rec_ = some rc)
    (hd : tm.prolDone = false) (hs : cl.started = false) (h4 : tm.prol = 4) (h1 : cl.pre ≠ .saved) (h2 : cl.pre ≠ .stopping) (ho : ∀ o ∈ s.m.opsOf T .copy, o.n ≠ 0) :
    Completes (exec (.prologue T) s) (fun t => t.m.team? T = some { tm with prolDone := true } ∧ SameStores t.m (s.m.drain (.eng T .copy) 1) ∧
      t.m.ops = (s.m.drain (.eng T .copy) 1).ops) := by
  have he := (prologue_idle (cf := s.cfg) ht hc hl hr hd hs (by omega) h1 h2 ho).trans
    (show _ = (s.m.drain (.eng T .copy) 1).updTeam T (fun tm => { tm with prolDone := true }) by simp only [h4, Nat.reduceEqDiff, if_false, Nat.lt_irrefl])
  have hteams := Mach.teams_of_records (s.m.drain_records (leaf := .eng T .copy) (t := T) (by simp [leafOf]))
  refine onMach_completes (step := fun cf m => prologue cf m T) he ⟨Mach.team?_updTeam ?_ fun _ h => h, ⟨rfl, rfl, rfl, rfl, rfl⟩, rfl⟩
  rw [Mach.team?, hteams]
  exact ht

theorem prologue_begins (ht : s.m.team? T = some tm) (hc : s.m.cluster? tm.c = some cl) (hl : s.m.launch? tm.l = some la) (hr : la.rec_ = some rc)
    (hd : tm.prolDone = false) (hs : cl.started = false) (h4 : tm.prol < 4) (h1 : cl.pre ≠ .saved) (h2 : cl.pre ≠ .stopping) (ho : ∀ o ∈ s.m.opsOf T .copy, o.n ≠ 0) :
    Completes (exec (.prologue T) s) (fun t =>
      t.m.ops.map (fun o => (o.t, o.k, o.n, o.cmd)) = s.m.ops.map (fun o => (o.t, o.k, o.n, o.cmd)) ++ [(T, .copy, 0, .prolog tm.prol)] ∧
      t.m.teams = s.m.teams ∧ (tm.prol ≠ 0 → SameStores t.m s.m)) := by
  have he := prologue_idle (cf := s.cfg) ht hc hl hr hd hs (by omega) h1 h2 ho
  obtain ⟨hops, hteams⟩ := writeArgs_keeps (T := T) (writePieces 0x40 rc.args) s.m
  refine onMach_completes (step := fun cf m => prologue cf m T) (he.trans (if_pos h4)) ?_
  by_cases h0 : tm.prol = 0
  · simp only [h0, if_true, hops, hteams, List.map_append]
    exact ⟨rfl, trivial, fun h => absurd rfl h⟩
  · simp only [h0, if_false, List.map_append]
    exact ⟨rfl, trivial, fun _ => ⟨rfl, rfl, rfl, rfl, rfl⟩⟩

end
end

/-- Settles O53: a unit's outcome is read off the branch that the hypotheses choose; a rotation's move is a read and a write at the homes, with nothing buffered. -/
theorem copySteps : Obligations.CopySteps := by
  intro s
  refine ⟨fun n T => onMach_work s n T .copy tcopyUnit, fun n T => onMach_work s n T .copy packUnit, fun n T => onMach_work s n T .copy prologUnit,
    fun n T => onMach_work s n T .dcmp dcUnit, ?_, ?_, fun _ _ _ _ _ _ h hc hs hb => tcopy_starts h hc hs hb,
    fun _ _ _ _ _ _ _ _ h hc hs hf hl hd hw => tcopy_writes h hc hs hf hl hd hw, fun _ _ _ _ _ _ _ _ _ h hc hs hf hl hd hw => pack_writes h hc hs hf hl hd hw,
    ?_, ?_, ?_, fun _ _ _ _ _ h hc hk hr => prolog_book h hc hk hr, fun _ _ _ _ _ h hc hr hl hp ho hw => dcmp_ends h hc hr hl hp ho hw, ?_,
    fun _ _ _ _ _ _ _ _ hK h1 h2 hla hrc ho hc hb hr => ringRotation_none hK h1 h2 hla hrc ho hc hb hr,
    fun _ _ _ _ _ _ _ _ _ hK h1 h2 hla hrc ho hc hr => ringRotation_fails hK h1 h2 hla hrc ho hc hr,
    fun _ _ _ _ _ _ _ _ _ _ _ hK h1 h2 ht hx hy hn hla hrc ho hp hl hb hr hbuf hm ha => ringRotation_moves hK h1 h2 hla hrc ht ⟨ho, hp, hn, ha⟩ hx hy hl hb hr hbuf hm,
    fun _ _ _ _ _ ht hc hl hr hd hs h4 h1 h2 ho => prologue_drains ht hc hl hr hd hs h4 h1 h2 ho,
    fun _ _ _ _ _ ht hc hl hr hd hs h4 h1 h2 ho => prologue_begins ht hc hl hr hd hs h4 h1 h2 ho,
    fun _ _ _ _ _ _ _ _ _ h hc hs hlim hv ha => feTimeout_ends h hc hs hlim hv ha⟩
  · intro T oc fl blk srec drec h hc hs hb
    exact (h.ends (tcopyUnit_bad hc hs hb)).imp fun _ ⟨e, he, hss, _⟩ => ⟨e, he, hss⟩
  · intro T oc fl blk srec drec h hc hs hb
    exact (h.ends (unit := packUnit) ((packUnit_eq hc).trans (tcopyUnit_bad hc hs hb))).imp fun _ ⟨e, he, hss, _⟩ => ⟨e, he, hss⟩
  · intro T oc fl blk srec drec h hc hs hv
    exact (h.ends (tcopyUnit_end hc hs hv)).imp fun _ ⟨e, he, hss, hr, _⟩ => ⟨e, he, hss, hr⟩
  · intro T oc fl blk srec drec h hc hs hv
    exact (h.ends (unit := packUnit) ((packUnit_eq hc).trans (tcopyUnit_end hc hs hv))).imp fun _ ⟨e, he, hss, hr, _⟩ => ⟨e, he, hss, hr⟩
  · intro T oc k h hc hk
    exact (h.ends (prologUnit_void hc hk)).imp fun _ ⟨e, he, hss, _, hg⟩ => ⟨e, he, hss, hg⟩
  · intro T oc arr blk h hc hb
    exact (h.ends (dcUnit_refused hc hb)).imp fun _ ⟨e, he, hss, _⟩ => ⟨e, he, hss⟩

end Sys2Proof.Machine
end

section
/-! ## Transfers, collectives and sorts (O54)

A unit's outcome is the branch that the hypotheses choose; between it and the state before stand at most the accesses of one piece. -/
namespace Sys2Proof.Machine

section
variable {s : State} {m n : Mach} {cf : Conf} {T : Nat} {k : EngCtx} {oc : OpCtx} {o o' : Op}

/-- A unit that changes its operation's record and nothing else of the operations. -/
theorem Mach.setOp_changes (h : n.duties = m.duties) (hs : m.hasOp o) (hn : o'.t = o.t ∧ o'.k = o.k ∧ o'.n = o.n) (cf : Conf) :
    Became ⟨cf, n.setOp o'⟩ o o' ∧ SameStores (n.setOp o') n :=
  ⟨Mach.setOp_became (Mach.hasOp_of_duties h hs) hn cf, n.setOp_sameStores o'⟩

theorem engWord_duties (m : Mach) (oc : OpCtx) (a : Nat) (cls : Cls) : (engWord cf m oc a cls).2.duties = m.duties := by
  have hp := (engPlace_keeps (cf := cf) m oc a 8 cls).duties
  unfold engWord
  split
  · rfl
  · split
    · exact snd_of_eq ‹_› hp
    · exact snd_of_eq ‹_› hp
    · next m1 e =>
      have h1 : m1.duties = m.duties := snd_of_eq e hp
      split
      · exact (Mach.delay_duties ..).trans h1
      · split
        · exact h1
        · exact (readAcc_keeps ..).duties.trans h1

/-- A unit that ends its operation after accesses that leave operations their names. -/
theorem Working.endsFrom {unit : Conf → Mach → OpCtx → Option Mach} {st sub : Nat} {a : DWord} (h : Working s T k oc) (hd : n.duties = s.m.duties)
    (hu : unit s.cfg s.m oc = some (n.finish oc.o st sub a)) :
    Completes (onMach s (fun cf m => Mach.work cf T k unit 1 m)) (fun t => Ended t oc.o st sub a ∧ SameStores t.m n) :=
  h.completes hu ⟨Mach.finish_ended (Mach.hasOp_of_duties hd h.hasOp) .., n.finish_sameStores ..⟩

/-! ### Sends -/

section
variable {b : List Byte} {x : Xfer} {bs : List Byte}

/-- The access of a packet that a send is at. -/
def putFrom (oc : OpCtx) (b : List Byte) (x : Xfer) : Nat := ((descOf b).src + x.sent + oc.o.buf.length) % 2 ^ 64

/-- The length of the next packet that needs no grant. -/
def putLen (b : List Byte) (x : Xfer) : Nat := min 1024 ((descOf b).prefixLen - x.sent)

theorem xputUnit_first (hc : oc.o.cmd = .xput b) (hx : oc.o.xfer = none) : xputUnit cf m oc =
    if (descOf b).bad false then some (m.finishParam oc.o)
    else if (descOf b).len = 0 then some (m.finishOk oc.o)
    else some (({ m with fresh := m.fresh + 1 } : Mach).setOp { oc.o with xfer := some ⟨m.fresh, 0, 0, 0, none, []⟩ }) := by
  simp only [xputUnit, hc, putUnit, hx]

theorem xgetUnit_first (hc : oc.o.cmd = .xget b) (hx : oc.o.xfer = none) (h : (descOf b).bad true = true ∨ (descOf b).len = 0) : xgetUnit cf m oc =
    if (descOf b).bad true then some (m.finishParam oc.o) else some (m.finishOk oc.o) := by
  simp only [xgetUnit, hc, hx]
  split
  · rfl
  · next hb => rw [if_pos (h.resolve_left hb)]

/-- An operation that ends says nothing to the network. -/
theorem Working.endsQuietly {unit : Conf → Mach → OpCtx → Option Mach} {st sub : Nat} {a : DWord} (h : Working s T k oc)
    (hu : unit s.cfg s.m oc = some (s.m.finish oc.o st sub a)) :
    Completes (onMach s (fun cf m => Mach.work cf T k unit 1 m)) (fun t => Ended t oc.o st sub a ∧ SameStores t.m s.m ∧ t.m.net = s.m.net) :=
  h.completes hu ⟨Mach.finish_ended h.hasOp .., s.m.finish_sameStores .., rfl⟩

theorem xput_refused (h : Working s T .exch oc) (hc : oc.o.cmd = .xput b) (hx : oc.o.xfer = none) (hb : (descOf b).bad false = true) :
    Completes (exec (.xputOperation T) s) (fun t => Ended t oc.o 1 0 oc.o.blkAddr ∧ SameStores t.m s.m ∧ t.m.net = s.m.net) :=
  h.endsQuietly ((xputUnit_first hc hx).trans (if_pos hb))

theorem xput_empty (h : Working s T .exch oc) (hc : oc.o.cmd = .xput b) (hx : oc.o.xfer = none) (hb : (descOf b).bad false = false) (hl : (descOf b).len = 0) :
    Completes (exec (.xputOperation T) s) (fun t => Ended t oc.o 0 0 0 ∧ SameStores t.m s.m ∧ t.m.net = s.m.net) :=
  h.endsQuietly ((xputUnit_first hc hx).trans ((if_neg (ne_true_of_eq_false hb)).trans (if_pos hl)))

theorem xget_refused (h : Working s T .exch oc) (hc : oc.o.cmd = .xget b) (hx : oc.o.xfer = none) (hb : (descOf b).bad true = true) :
    Completes (exec (.xgetOperation T) s) (fun t => Ended t oc.o 1 0 oc.o.blkAddr ∧ SameStores t.m s.m ∧ t.m.net = s.m.net) :=
  h.endsQuietly ((xgetUnit_first hc hx (.inl hb)).trans (if_pos hb))

theorem xget_empty (h : Working s T .exch oc) (hc : oc.o.cmd = .xget b) (hx : oc.o.xfer = none) (hb : (descOf b).bad true = false) (hl : (descOf b).len = 0) :
    Completes (exec (.xgetOperation T) s) (fun t => Ended t oc.o 0 0 0 ∧ SameStores t.m s.m ∧ t.m.net = s.m.net) :=
  h.endsQuietly ((xgetUnit_first hc hx (.inr hl)).trans (if_neg (ne_true_of_eq_false hb)))

theorem xput_begins (h : Working s T .exch oc) (hc : oc.o.cmd = .xput b) (hx : oc.o.xfer = none) (hb : (descOf b).bad false = false) (hl : (descOf b).len ≠ 0) :
    Completes (exec (.xputOperation T) s) (fun t => Became t oc.o { oc.o with xfer := some ⟨s.m.fresh, 0, 0, 0, none, []⟩ } ∧
      t.m.fresh = s.m.fresh + 1 ∧ SameStores t.m s.m) := by
  obtain ⟨hbc, hst⟩ := Mach.setOp_changes (n := { s.m with fresh := s.m.fresh + 1 }) (o' := { oc.o with xfer := some ⟨s.m.fresh, 0, 0, 0, none, []⟩ }) rfl
    h.hasOp ⟨rfl, rfl, rfl⟩ s.cfg
  exact h.completes ((xputUnit_first hc hx).trans ((if_neg (ne_true_of_eq_false hb)).trans (if_neg hl))) ⟨hbc, rfl, hst⟩

/-- A packet that needs no grant, whole. -/
def putPacket (cf : Conf) (oc : OpCtx) (b : List Byte) (x : Xfer) (bytes : List Byte) : Packet :=
  ⟨cf.device.toNat, x.xid, oc.la.p, (descOf b).dst % 2 ^ 49, x.sent, (descOf b).len, bytes, if (descOf b).actr = 0 then none else some ((descOf b).actr % 2 ^ 49), none,
    (descOf b).prefixLen, decide ((descOf b).len ≤ x.sent + putLen b x), false, none⟩

/-- An access of a packet that needs no grant: the bytes are kept, or their packet leaves. -/
theorem xputUnit_ungranted (hc : oc.o.cmd = .xput b) (hx : oc.o.xfer = some x) (hbad : x.bad = none) (hcut : cutFrom cf m (nbits (descOf b).dst 61 49) = false)
    (hs : oc.o.stage = 0) (hl : x.sent < (descOf b).prefixLen) (hr : engRead1 cf m oc (putFrom oc b x) (pieceLen (putFrom oc b x) (putLen b x - oc.o.buf.length)) = (.ok bs, n)) :
    xputUnit cf m oc =
      if (oc.o.buf ++ bs).length < putLen b x then some (n.setOp { oc.o with buf := oc.o.buf ++ bs })
      else some (({ n with net := n.net ++ [.packet (nbits (descOf b).dst 61 49) (putPacket cf oc b x (oc.o.buf ++ bs))] } : Mach).setOp
        { oc.o with buf := [], xfer := some { x with sent := x.sent + putLen b x, outstanding := x.outstanding + 1 } }) := by
  unfold putFrom putLen at hr
  simp only [xputUnit, hc, putUnit, hx, hcut, hbad, hs, hl, Bool.false_eq_true, Option.isSome_none, if_false, if_true, putSend, hr]
  rfl

theorem xput_ungranted (h : Working s T .exch oc) (hc : oc.o.cmd = .xput b) (hx : oc.o.xfer = some x) (hbad : x.bad = none)
    (hcut : cutFrom s.cfg s.m (nbits (descOf b).dst 61 49) = false) (hs : oc.o.stage = 0) (hl : x.sent < (descOf b).prefixLen)
    (hr : engRead1 s.cfg s.m oc (putFrom oc b x) (pieceLen (putFrom oc b x) (putLen b x - oc.o.buf.length)) = (.ok bs, n)) :
    Completes (exec (.xputOperation T) s) (fun t =>
      (oc.o.buf.length + bs.length < putLen b x → Became t oc.o { oc.o with buf := oc.o.buf ++ bs } ∧ t.m.net = n.net) ∧
      (putLen b x ≤ oc.o.buf.length + bs.length →
        Became t oc.o { oc.o with buf := [], xfer := some { x with sent := x.sent + putLen b x, outstanding := x.outstanding + 1 } } ∧
        t.m.net = n.net ++ [.packet (nbits (descOf b).dst 61 49) (putPacket s.cfg oc b x (oc.o.buf ++ bs))]) ∧ SameStores t.m n) := by
  have hd : n.duties = s.m.duties := snd_of_eq hr (engReadAll_duties ..)
  have hu := xputUnit_ungranted hc hx hbad hcut hs hl hr
  rw [List.length_append] at hu
  by_cases hlt : oc.o.buf.length + bs.length < putLen b x
  · obtain ⟨hbc, hst⟩ := Mach.setOp_changes (o' := { oc.o with buf := oc.o.buf ++ bs }) hd h.hasOp ⟨rfl, rfl, rfl⟩ s.cfg
    exact h.completes (hu.trans (if_pos hlt)) ⟨fun _ => ⟨hbc, rfl⟩, fun hge => absurd hlt (Nat.not_lt.mpr hge), hst⟩
  · obtain ⟨hbc, -⟩ := Mach.setOp_changes (n := { n with net := n.net ++ [.packet (nbits (descOf b).dst 61 49) (putPacket s.cfg oc b x (oc.o.buf ++ bs))] })
      (o' := { oc.o with buf := [], xfer := some { x with sent := x.sent + putLen b x, outstanding := x.outstanding + 1 } }) hd h.hasOp ⟨rfl, rfl, rfl⟩ s.cfg
    exact h.completes (hu.trans (if_neg hlt)) ⟨fun h => absurd h hlt, fun _ => ⟨hbc, rfl⟩, rfl, rfl, rfl, rfl, rfl⟩

/-- What an XGET asks of its source. -/
def getReq (cf : Conf) (m : Mach) (oc : OpCtx) (b : List Byte) : XferReq :=
  ⟨cf.device.toNat, m.fresh, oc.la.p, (descOf b).src % 2 ^ 49, (descOf b).len, 0, (descOf b).len, (descOf b).prio, true, none⟩

/-- The machine that has asked. -/
def Mach.getAsked (m : Mach) (cf : Conf) (oc : OpCtx) (b : List Byte) (a : Acc) : Mach :=
  Mach.addReq { m with fresh := m.fresh + 1, net := m.net ++ [.request (nbits (descOf b).src 61 49) (getReq cf m oc b)] } (m.destDie a)
    { getReq cf m oc b with src := nbits (descOf b).src 61 49 } a.team false

theorem xgetUnit_asks {a : Acc} {va : Nat} (hc : oc.o.cmd = .xget b) (hx : oc.o.xfer = none) (hb : (descOf b).bad true = false) (hl : (descOf b).len ≠ 0)
    (hp : engPlace cf m oc (descOf b).dst 1 .write = (.ok (a, va), n)) (hcut : cutFrom cf n (nbits (descOf b).src 61 49) = false) :
    xgetUnit cf m oc = some ((n.getAsked cf oc b a).setOp { oc.o with xfer := some ⟨n.fresh, 0, 0, 0, none, []⟩ }) := by
  simp only [xgetUnit, hc, hx, hb, hl, hp, hcut, Bool.false_eq_true, if_false]
  rfl

theorem xget_asks {a : Acc} {va : Nat} (h : Working s T .exch oc) (hc : oc.o.cmd = .xget b) (hx : oc.o.xfer = none) (hb : (descOf b).bad true = false)
    (hl : (descOf b).len ≠ 0) (hp : engPlace s.cfg s.m oc (descOf b).dst 1 .write = (.ok (a, va), n)) (hcut : cutFrom s.cfg n (nbits (descOf b).src 61 49) = false) :
    Completes (exec (.xgetOperation T) s) (fun t => t.m.net = n.net ++ [.request (nbits (descOf b).src 61 49) (getReq s.cfg n oc b)] ∧
      Became t oc.o { oc.o with xfer := some ⟨n.fresh, 0, 0, 0, none, []⟩ } ∧ t.m.hreqs.length = n.hreqs.length + 1) := by
  have hd : n.duties = s.m.duties := ((engPlace_keeps ..).of_eq hp).duties
  obtain ⟨hbc, -⟩ := Mach.setOp_changes (n := n.getAsked s.cfg oc b a) (o' := { oc.o with xfer := some ⟨n.fresh, 0, 0, 0, none, []⟩ }) hd h.hasOp ⟨rfl, rfl, rfl⟩ s.cfg
  exact h.completes (xgetUnit_asks hc hx hb hl hp hcut) ⟨rfl, hbc, List.length_append⟩

end

/-! ### Collectives -/

/-- The split of a collective's work: a word of the network belongs to its first unit. -/
theorem collective_splits (s : State) (n T : Nat) (w : CollMsg) :
    Completes (exec (.collective T 1 w) s) (fun u => exec (.collective T (n + 1) w) s = exec (.collective T n .quiet) u) := by
  refine ⟨_, rfl, ?_⟩
  have hone : min (n + 1) 1 = 1 := by omega
  have key : ∀ m : Mach, Mach.work s.cfg T .exch (collUnit .quiet) n m =
      Mach.work s.cfg T .exch (collUnit .quiet) (n - 1) (Mach.work s.cfg T .exch (collUnit .quiet) (min n 1) m) := fun m => by
    cases n with
    | zero => rfl
    | succ j =>
      rw [show min (j + 1) 1 = 1 by omega]
      exact Mach.work_succ j
  simp only [exec, execCollective, onMach, hone, Nat.add_sub_cancel, ← key]
  rfl

section
variable {blk crec drec : List Byte} {w : CollMsg} {recs : List (Nat × List Byte)} {slots : Bool}

/-- The parts of a collective's operation, from its records. -/
def collParts (blk crec drec : List Byte) : CollOp := ⟨collOf crec, blk, crec, layOf (bytesAt crec 0 128), layOf drec, drec⟩

theorem collUnit_start (hc : oc.o.cmd = .coll blk crec drec) (hs : oc.o.stage = 0) : collUnit w cf m oc =
    if (collOf crec).bad then some (m.finishParam oc.o)
    else if (collOf crec).group.length = 1 then
      if collBad m oc (collOf crec) blk (layOf (bytesAt crec 0 128)) (layOf drec) then some (m.finishParam oc.o)
      else if layOf (bytesAt crec 0 128) = layOf drec then some (m.finishOk oc.o)
      else some (m.setOp { oc.o with cmd := .tcopy false ⟨false, false, false, false⟩ blk (bytesAt crec 0 128) drec })
    else match w with
      | .start slots recs => some (collStart m oc (collParts blk crec drec) slots recs)
      | _ => none := by
  have hcut : collCut cf m oc.o (collOf crec) = false := by rw [collCut, hs]; rfl
  simp only [collUnit, hc, hcut, hs, Bool.false_eq_true, if_false]
  rfl

/-- A collective of several ranks whose record passes starts with the records of the others. -/
theorem collUnit_starts (hc : oc.o.cmd = .coll blk crec drec) (hs : oc.o.stage = 0) (hb : (collOf crec).bad = false) (hg : (collOf crec).group.length ≠ 1) :
    collUnit (.start slots recs) cf m oc = some (collStart m oc (collParts blk crec drec) slots recs) := by
  rw [collUnit_start hc hs, if_neg (ne_true_of_eq_false hb), if_neg hg]

/-- The records of all other ranks are of this collective. -/
theorem collStart_eq (hl : recs.length = (collOf crec).peers.length) (hr : ∀ r ∈ recs, (collOf r.2).tag = (collOf crec).tag ∧ r.1 = oc.o.v1.toNat) :
    collStart m oc (collParts blk crec drec) slots recs =
      if recs.any (fun r => (collOf r.2).key (layOf (bytesAt r.2 0 128)).elems != (collOf crec).key (layOf (bytesAt crec 0 128)).elems) then m.finishParam oc.o
      else if collBad m oc (collOf crec) blk (layOf (bytesAt crec 0 128)) (layOf drec) then m.finishParam oc.o
      else
        let m : Mach := if !(collOf crec).nosw && (collOf crec).rop != 3 && (collOf crec).pos == 0 then
          { m with net := m.net ++ [.slotRequest (collOf crec).tag oc.o.v1.toNat] } else m
        if (collOf crec).swonly && !slots then m.finish oc.o 7 0 0 else m.setOp { oc.o with stage := 1, ins := [[]], buf := [] } := by
  have hmine : recs.any (fun r => (collOf r.2).tag != (collOf crec).tag || r.1 != oc.o.v1.toNat) = false := List.any_eq_false.mpr fun r h => by simp [hr r h]
  refine if_neg ?_
  rintro (h | h)
  · exact h hl
  · exact ne_true_of_eq_false hmine h

theorem coll_differs (h : Working s T .exch oc) (hc : oc.o.cmd = .coll blk crec drec) (hs : oc.o.stage = 0) (hb : (collOf crec).bad = false)
    (hg : (collOf crec).group.length ≠ 1) (hl : recs.length = (collOf crec).peers.length)
    (hr : ∀ r ∈ recs, (collOf r.2).tag = (collOf crec).tag ∧ r.1 = oc.o.v1.toNat)
    (hd : ∃ r ∈ recs, (collOf r.2).key (layOf (bytesAt r.2 0 128)).elems ≠ (collOf crec).key (layOf (bytesAt crec 0 128)).elems) :
    Completes (exec (.collective T 1 (.start slots recs)) s) (fun t => Ended t oc.o 1 0 oc.o.blkAddr ∧ SameStores t.m s.m) := by
  have hany : recs.any (fun r => (collOf r.2).key (layOf (bytesAt r.2 0 128)).elems != (collOf crec).key (layOf (bytesAt crec 0 128)).elems) = true := by
    obtain ⟨r, hm, hne⟩ := hd
    exact List.any_eq_true.mpr ⟨r, hm, bne_iff_ne.mpr hne⟩
  exact h.endsFrom rfl ((collUnit_starts hc hs hb hg).trans (congrArg some ((collStart_eq hl hr).trans (if_pos hany))))

theorem coll_agrees (hd : ∀ r ∈ recs, (collOf r.2).key (layOf (bytesAt r.2 0 128)).elems = (collOf crec).key (layOf (bytesAt crec 0 128)).elems) :
    recs.any (fun r => (collOf r.2).key (layOf (bytesAt r.2 0 128)).elems != (collOf crec).key (layOf (bytesAt crec 0 128)).elems) = false :=
  List.any_eq_false.mpr fun r h => by simp [hd r h]

theorem coll_refused (h : Working s T .exch oc) (hc : oc.o.cmd = .coll blk crec drec) (hs : oc.o.stage = 0) (hb : (collOf crec).bad = false)
    (hg : (collOf crec).group.length ≠ 1) (hl : recs.length = (collOf crec).peers.length)
    (hr : ∀ r ∈ recs, (collOf r.2).tag = (collOf crec).tag ∧ r.1 = oc.o.v1.toNat)
    (hbad : collBad s.m oc (collOf crec) blk (layOf (bytesAt crec 0 128)) (layOf drec) = true) :
    Completes (exec (.collective T 1 (.start slots recs)) s) (fun t => Ended t oc.o 1 0 oc.o.blkAddr ∧ SameStores t.m s.m) := by
  refine h.endsFrom rfl ((collUnit_starts hc hs hb hg).trans (congrArg some ((collStart_eq hl hr).trans ?_)))
  rw [if_pos hbad, ite_self]
  rfl

theorem coll_noslot (h : Working s T .exch oc) (hc : oc.o.cmd = .coll blk crec drec) (hs : oc.o.stage = 0) (hb : (collOf crec).bad = false)
    (hg : (collOf crec).group.length ≠ 1) (hl : recs.length = (collOf crec).peers.length)
    (hr : ∀ r ∈ recs, (collOf r.2).tag = (collOf crec).tag ∧ r.1 = oc.o.v1.toNat)
    (hd : ∀ r ∈ recs, (collOf r.2).key (layOf (bytesAt r.2 0 128)).elems = (collOf crec).key (layOf (bytesAt crec 0 128)).elems)
    (hbad : collBad s.m oc (collOf crec) blk (layOf (bytesAt crec 0 128)) (layOf drec) = false) (hw : (collOf crec).swonly = true) :
    Completes (exec (.collective T 1 (.start false recs)) s) (fun t => Ended t oc.o 7 0 0 ∧ SameStores t.m s.m) := by
  have hu := (collUnit_starts (cf := s.cfg) (m := s.m) (slots := false) (recs := recs) hc hs hb hg).trans (congrArg some ((collStart_eq hl hr).trans
    ((if_neg (ne_true_of_eq_false (coll_agrees hd))).trans (if_neg (ne_true_of_eq_false hbad)))))
  simp only [hw, Bool.not_false, Bool.and_self, if_true] at hu
  split at hu
  · exact h.endsFrom (n := { s.m with net := s.m.net ++ [.slotRequest (collOf crec).tag oc.o.v1.toNat] }) rfl hu
  · exact h.endsFrom rfl hu

end
end
end Sys2Proof.Machine
end

section
/-! ## Collectives that have read their source, sorts and arms (O54) -/
namespace Sys2Proof.Machine

section
variable {s : State} {m n : Mach} {cf : Conf} {T : Nat} {oc : OpCtx} {o : Op} {blk crec drec : List Byte} {w : CollMsg}

/-! ### Collectives that go on -/

theorem collUnit_goesOn (hc : oc.o.cmd = .coll blk crec drec) (hs : 3 ≤ oc.o.stage) (hcut : collCut cf m oc.o (collOf crec) = false) :
    collUnit w cf m oc = collGoOn w cf m oc (collParts blk crec drec) := by
  obtain ⟨j, hj⟩ := Nat.exists_eq_add_of_le' hs
  simp only [collUnit, hc, hcut, hj, Bool.false_eq_true, if_false]
  rfl

/-- The group's contributions, this rank's in its place. -/
def collAll (k : Coll) (own : List Byte) (ins : List (List Byte)) : List (List Byte) := ins.take k.pos ++ [own] ++ ins.drop k.pos

theorem collAll_length {k : Coll} {own : List Byte} {ins : List (List Byte)} (hl : ins.length = k.group.length - 1) (hp : k.pos < k.group.length) :
    (collAll k own ins).length = k.group.length := by
  simp only [collAll, List.length_append, List.length_take, List.length_drop, List.length_cons, List.length_nil]
  omega

theorem collData_eq {q : CollOp} {ins : List (List Byte)} {e : Nat} (he : q.k.destElems q.k.pos q.k.group.length q.src.elems = some e)
    (hl : (collAll q.k oc.o.buf ins).length = q.k.group.length)
    (hn : ∀ i, q.k.needs i = true → i < q.k.group.length → ((collAll q.k oc.o.buf ins).getD i []).length = q.k.givenLen q.src.elems) :
    collData m oc q ins = m.setOp { oc.o with
      stage := 4, pos := 0, buf := q.k.result (q.k.pair m oc.tm.core) q.k.pos q.src.elems (collAll q.k oc.o.buf ins) } := by
  unfold collAll at hl hn
  simp only [collData, he]
  refine if_pos ⟨hl, List.all_eq_true.mpr fun i hi => ?_⟩
  have hi := List.mem_range.mp hi
  rw [hl] at hi
  cases hni : q.k.needs i with
  | false => rfl
  | true => exact beq_iff_eq.mpr (hn i hni hi)

theorem coll_data {ins : List (List Byte)} {e : Nat} (h : Working s T .exch oc) (hc : oc.o.cmd = .coll blk crec drec) (hs : oc.o.stage = 3)
    (hcut : collCut s.cfg s.m oc.o (collOf crec) = false)
    (he : (collOf crec).destElems (collOf crec).pos (collOf crec).group.length (layOf (bytesAt crec 0 128)).elems = some e)
    (hl : ins.length = (collOf crec).group.length - 1) (hp : (collOf crec).pos < (collOf crec).group.length)
    (hn : ∀ i, (collOf crec).needs i = true → i < (collOf crec).group.length →
      ((collAll (collOf crec) oc.o.buf ins).getD i []).length = (collOf crec).givenLen (layOf (bytesAt crec 0 128)).elems) :
    Completes (exec (.collective T 1 (.data ins)) s) (fun t => Became t oc.o { oc.o with
      stage := 4, pos := 0
      buf := (collOf crec).result ((collOf crec).pair s.m oc.tm.core) (collOf crec).pos (layOf (bytesAt crec 0 128)).elems (collAll (collOf crec) oc.o.buf ins) } ∧
      SameStores t.m s.m) := by
  have hu : collUnit (.data ins) s.cfg s.m oc = some (collData s.m oc (collParts blk crec drec) ins) :=
    (collUnit_goesOn hc (Nat.le_of_eq hs.symm) hcut).trans (if_pos hs)
  rw [collData_eq (q := collParts blk crec drec) he (collAll_length hl hp) hn] at hu
  exact h.completes hu ⟨Mach.setOp_became (o' := { oc.o with
    stage := 4, pos := 0
    buf := (collOf crec).result ((collOf crec).pair s.m oc.tm.core) (collOf crec).pos (layOf (bytesAt crec 0 128)).elems (collAll (collOf crec) oc.o.buf ins) })
    h.hasOp ⟨rfl, rfl, rfl⟩ _, s.m.setOp_sameStores _⟩

/-- What acknowledges the contributions a rank has received. -/
def collAcks (k : Coll) (o : Op) : List NetMsg :=
  ((k.group.zip (List.range k.group.length)).filter (fun r => r.1 != k.rank && k.needs r.2)).map (fun r => .collAck (k.devOf (o.ins.getD 0 []) r.1) k.tag o.v1.toNat)

/-- Nothing is to be sent again. -/
theorem collGoOn_quiet {q : CollOp} (ha : oc.o.again = []) : collGoOn .quiet cf m oc q = match oc.o.stage with
    | 3 => if (q.k.destElems q.k.pos q.k.group.length q.src.elems).isNone then some (collData m oc q []) else none
    | 4 => some (collWrite cf m oc q)
    | _ => if q.k.receivers.isEmpty || !(oc.o.ins.getD 3 []).isEmpty then some (m.finishOk oc.o) else none := by
  simp only [collGoOn, ha, List.isEmpty_nil, Bool.not_true, Bool.false_eq_true, if_false] <;> rfl

theorem coll_written (h : Working s T .exch oc) (hc : oc.o.cmd = .coll blk crec drec) (hs : oc.o.stage = 4) (hcut : collCut s.cfg s.m oc.o (collOf crec) = false)
    (ha : oc.o.again = []) (hl : oc.o.buf.length ≤ oc.o.pos) :
    Completes (exec (.collective T 1 .quiet) s) (fun t => Became t oc.o { oc.o with stage := 5, buf := [] } ∧ SameStores t.m s.m ∧
      t.m.net = s.m.net ++ collAcks (collOf crec) oc.o) := by
  have hu : collUnit .quiet s.cfg s.m oc = some { s.m.setOp { oc.o with stage := 5, buf := [] } with net := s.m.net ++ collAcks (collOf crec) oc.o } := by
    rw [collUnit_goesOn hc (by omega) hcut, collGoOn_quiet ha, hs]
    exact congrArg some (if_pos hl)
  exact h.completes hu ⟨Mach.setOp_became (m := s.m) (o' := { oc.o with stage := 5, buf := [] }) h.hasOp ⟨rfl, rfl, rfl⟩ s.cfg, ⟨rfl, rfl, rfl, rfl, rfl⟩, rfl⟩

theorem coll_acked (h : Working s T .exch oc) (hc : oc.o.cmd = .coll blk crec drec) (hs : 5 ≤ oc.o.stage) (hcut : collCut s.cfg s.m oc.o (collOf crec) = false) :
    Completes (exec (.collective T 1 .acked) s) (fun t => Ended t oc.o 0 0 0 ∧ SameStores t.m s.m) :=
  h.endsFrom rfl ((collUnit_goesOn hc (by omega) hcut).trans (if_pos hs))

theorem coll_over (h : Working s T .exch oc) (hc : oc.o.cmd = .coll blk crec drec) (hs : 5 ≤ oc.o.stage) (hcut : collCut s.cfg s.m oc.o (collOf crec) = false)
    (ha : oc.o.again = []) (hr : (collOf crec).receivers = [] ∨ oc.o.ins.getD 3 [] ≠ []) :
    Completes (exec (.collective T 1 .quiet) s) (fun t => Ended t oc.o 0 0 0 ∧ SameStores t.m s.m) := by
  have ho : ((collOf crec).receivers.isEmpty || !(oc.o.ins.getD 3 []).isEmpty) = true := by
    rcases hr with hr | hr
    · rw [hr]
      rfl
    · exact Bool.or_eq_true_iff.mpr (.inr (by simpa using hr))
  obtain ⟨j, hj⟩ := Nat.exists_eq_add_of_le' hs
  refine h.endsFrom rfl ?_
  rw [collUnit_goesOn hc (by omega) hcut, collGoOn_quiet ha, hj]
  exact if_pos ho

theorem coll_again {dev chunk : Nat} (h : Working s T .exch oc) (hc : oc.o.cmd = .coll blk crec drec) (hs : 3 ≤ oc.o.stage)
    (hcut : collCut s.cfg s.m oc.o (collOf crec) = false) (hr : (collOf crec).receivers ≠ []) :
    Completes (exec (.collective T 1 (.again dev chunk)) s) (fun t => Became t oc.o (oc.o.putIns 1 (oc.o.again ++ leBytes 4 dev ++ leBytes 4 chunk)) ∧
      SameStores t.m s.m ∧ t.m.net = s.m.net) := by
  have he : (collOf crec).receivers.isEmpty = false := by simpa using hr
  have hu : collUnit (.again dev chunk) s.cfg s.m oc = some (s.m.setOp (oc.o.putIns 1 (oc.o.again ++ leBytes 4 dev ++ leBytes 4 chunk))) := by
    rw [collUnit_goesOn hc hs hcut, List.append_assoc]
    exact if_neg (ne_true_of_eq_false he)
  exact h.completes hu ⟨Mach.setOp_became (o' := oc.o.putIns 1 (oc.o.again ++ leBytes 4 dev ++ leBytes 4 chunk)) h.hasOp ⟨rfl, rfl, rfl⟩ _,
    s.m.setOp_sameStores _, rfl⟩

/-- The chunk that is asked for first, of the source as read again. -/
def Mach.resent (m : Mach) (oc : OpCtx) (crec : List Byte) : Mach :=
  sendChunks m (collOf crec).tag oc.o.v1.toNat (natAt oc.o.again 0 4)
    ((collOf crec).given ((collOf crec).pair m oc.tm.core) (layOf (bytesAt crec 0 128)).elems (oc.o.ins.getD 2 [])) (fun i => i == natAt oc.o.again 4 4)

theorem coll_resends (h : Working s T .exch oc) (hc : oc.o.cmd = .coll blk crec drec) (hs : 3 ≤ oc.o.stage) (hcut : collCut s.cfg s.m oc.o (collOf crec) = false)
    (ha : oc.o.again ≠ []) (hl : (layOf (bytesAt crec 0 128)).plain.nrows * (layOf (bytesAt crec 0 128)).plain.rowTotal ≤ (oc.o.ins.getD 2 []).length) :
    Completes (exec (.collective T 1 .quiet) s) (fun t => Became t oc.o ((oc.o.putIns 2 []).putIns 1 (oc.o.again.drop 8)) ∧ SameStores t.m s.m ∧
      t.m.net = (s.m.resent oc crec).net) := by
  have he : (!oc.o.again.isEmpty) = true := by simpa using ha
  have hu : collUnit .quiet s.cfg s.m oc = some ((s.m.resent oc crec).setOp ((oc.o.putIns 2 []).putIns 1 (oc.o.again.drop 8))) := by
    rw [collUnit_goesOn hc hs hcut]
    exact (if_pos he).trans (congrArg some (if_neg (Nat.not_lt.mpr hl)))
  exact h.completes hu ⟨Mach.setOp_became (m := s.m.resent oc crec) (o' := (oc.o.putIns 2 []).putIns 1 (oc.o.again.drop 8)) (h.hasOp :) ⟨rfl, rfl, rfl⟩ _, ⟨rfl, rfl, rfl, rfl, rfl⟩, rfl⟩

/-! ### Sorts -/

theorem xsort_refused (h : Working s T .exch oc) (hc : oc.o.cmd = .xsort blk) (hs : oc.o.stage = 0) (hb : (sortOf blk).bad = true) :
    Completes (exec (.xsortOperation T 1) s) (fun t => Ended t oc.o 1 0 oc.o.blkAddr ∧ SameStores t.m s.m) := by
  have hu : sortUnit s.cfg s.m oc = some (s.m.finishParam oc.o) := by simp only [sortUnit, hc, hs, hb, if_true]
  exact h.endsFrom rfl hu

theorem xsort_keys (h : Working s T .exch oc) (hc : oc.o.cmd = .xsort blk) (hs : oc.o.stage = 1) (hp : (sortOf blk).nrec ≤ oc.o.prog)
    (hk : ∃ n, n < (sortOf blk).nrec ∧ (sortOf blk).nseg ≤ keyAt oc.o.buf n) :
    Completes (exec (.xsortOperation T 1) s) (fun t => Ended t oc.o 1 0 oc.o.blkAddr ∧ SameStores t.m s.m) := by
  obtain ⟨j, hj, hge⟩ := hk
  have hany : (List.range (sortOf blk).nrec).any (fun n => decide ((sortOf blk).nseg ≤ keyAt oc.o.buf n)) = true :=
    List.any_eq_true.mpr ⟨j, List.mem_range.mpr hj, decide_eq_true hge⟩
  have hu : sortUnit s.cfg s.m oc = some (s.m.finishParam oc.o) := by simp only [sortUnit, hc, hs, Nat.not_lt.mpr hp, hany, if_false, if_true]
  exact h.endsFrom rfl hu

/-- The second pass of a sort. -/
theorem sortUnit_second (hc : oc.o.cmd = .xsort blk) (hs : 3 ≤ oc.o.stage) : sortUnit cf m oc =
    if (sortOf blk).nrec ≤ oc.o.pos then some (m.finishOk oc.o)
    else if (oc.o.ins.getD 0 []).length < 4 * (sortOf blk).rsz then some (sortRead cf m oc (sortOf blk) oc.o.pos)
    else
      let slot := keysWhere oc.o.buf (sortOf blk).nrec (fun x => decide (x < keyAt oc.o.buf oc.o.pos)) + keysWhere oc.o.buf oc.o.pos (fun x => x == keyAt oc.o.buf oc.o.pos)
      let a := ((sortOf blk).dst + 4 * (sortOf blk).rsz * slot + oc.o.tries) % 2 ^ 64
      let w := pieceLen a (4 * (sortOf blk).rsz - oc.o.tries)
      match engWrite1 cf m oc a (bytesAt (oc.o.ins.getD 0 []) oc.o.tries w) with
      | (.bad s e, m) => some (m.finishBad oc.o s e)
      | (.wait, m) => some m
      | (.ok _, m) => some (m.setOp (if 4 * (sortOf blk).rsz ≤ oc.o.tries + w then { oc.o with pos := oc.o.pos + 1, ins := [], tries := 0 }
        else { oc.o with tries := oc.o.tries + w })) := by
  obtain ⟨j, hj⟩ := Nat.exists_eq_add_of_le' hs
  simp only [sortUnit, hc, hj] <;> rfl

theorem xsort_ends (h : Working s T .exch oc) (hc : oc.o.cmd = .xsort blk) (hs : 3 ≤ oc.o.stage) (hp : (sortOf blk).nrec ≤ oc.o.pos) :
    Completes (exec (.xsortOperation T 1) s) (fun t => Ended t oc.o 0 0 0 ∧ SameStores t.m s.m) :=
  h.endsFrom rfl ((sortUnit_second hc hs).trans (if_pos hp))

theorem xsort_places {a w : Nat} {r : List Byte} (h : Working s T .exch oc) (hc : oc.o.cmd = .xsort blk) (hs : 3 ≤ oc.o.stage) (hp : oc.o.pos < (sortOf blk).nrec)
    (hr : oc.o.ins.getD 0 [] = r) (hl : 4 * (sortOf blk).rsz ≤ r.length)
    (ha : a = ((sortOf blk).dst + 4 * (sortOf blk).rsz * (keysWhere oc.o.buf (sortOf blk).nrec (fun x => decide (x < keyAt oc.o.buf oc.o.pos)) +
      keysWhere oc.o.buf oc.o.pos (fun x => x == keyAt oc.o.buf oc.o.pos)) + oc.o.tries) % 2 ^ 64)
    (hw : w = pieceLen a (4 * (sortOf blk).rsz - oc.o.tries)) (hwr : engWrite1 s.cfg s.m oc a (bytesAt r oc.o.tries w) = (.ok (), n)) :
    Completes (exec (.xsortOperation T 1) s) (fun t => Became t oc.o (if 4 * (sortOf blk).rsz ≤ oc.o.tries + w then
      { oc.o with pos := oc.o.pos + 1, ins := [], tries := 0 } else { oc.o with tries := oc.o.tries + w }) ∧ SameStores t.m n) := by
  have hu := (sortUnit_second (cf := s.cfg) (m := s.m) hc hs).trans ((if_neg (Nat.not_le.mpr hp)).trans (if_neg (by rw [hr]; exact Nat.not_lt.mpr hl)))
  simp only [hr, ← ha, ← hw, hwr] at hu
  have hd := ((engWrite1_keeps s.m oc a _).of_eq hwr).duties
  exact h.completes hu (Mach.setOp_changes hd h.hasOp (by split <;> exact ⟨rfl, rfl, rfl⟩) s.cfg)

/-! ### Arms -/

/-- An arm whose count is read. -/
theorem triggeredSend_reads {j v : Nat} {desc : List Byte} {cw thr : DWord} {a : Acc} (ho : (m.opsOf T .exch).find? (fun o => o.n == j) = some o)
    (hc : opCtx m o = some oc) (hcmd : o.cmd = .xarm desc cw thr) (hfin : o.fin = none) (h1 : oc.cl.pre ≠ .saved) (h2 : oc.cl.pre ≠ .stopping) (hf : o.fired = false)
    (hr : engWord cf m oc cw.toNat .read = (.ok (v, a), n)) :
    triggeredSend cf m T j = if o.met || decide (thr.toNat % 2 ^ 63 ≤ v % 2 ^ 63) then (n.invalidate o.leaf 3).setOp { o with fired := true, watch := none }
      else n.setOp { o with watch := some a } := by
  have hgo : (o.fin.isSome || oc.cl.pre == PreSt.saved || oc.cl.pre == PreSt.stopping) = false := by simp [hfin, h1, h2]
  simp only [triggeredSend, ho, hc, hcmd, hgo, hf, Bool.false_eq_true, if_false, armFire, hr, opCtx_op hc]

/-- An engine's point is below it. -/
theorem Mach.leaf_below (m : Mach) (o : Op) : o.leaf ∈ m.below o.leaf 3 := by
  have : m.chain o.leaf = o.leaf :: Mach.chain.go m 3 (m.parent o.leaf) := rfl
  rw [Mach.below, this]
  exact List.mem_cons_self

theorem Mach.invalidate_copies (m : Mach) (o : Op) : ∀ x ∈ (m.invalidate o.leaf 3).copies, x.pt ≠ o.leaf := fun x hx he =>
  ((Mach.mem_invalidate_copies x).mp hx).2 (he ▸ m.leaf_below o)

theorem triggered_reads {j v : Nat} {desc : List Byte} {cw thr : DWord} {a : Acc} (ho : (s.m.opsOf T .exch).find? (fun o => o.n == j) = some o)
    (hc : opCtx s.m o = some oc) (hcmd : o.cmd = .xarm desc cw thr) (hfin : o.fin = none) (h1 : oc.cl.pre ≠ .saved) (h2 : oc.cl.pre ≠ .stopping) (hf : o.fired = false)
    (hr : engWord s.cfg s.m oc cw.toNat .read = (.ok (v, a), n)) :
    Completes (exec (.triggeredSend T j) s) (fun t =>
      (o.met = true ∨ thr.toNat % 2 ^ 63 ≤ v % 2 ^ 63 → Became t o { o with fired := true, watch := none } ∧ ∀ x ∈ t.m.copies, x.pt ≠ o.leaf) ∧
      (o.met = false → v % 2 ^ 63 < thr.toNat % 2 ^ 63 → Became t o { o with watch := some a }) ∧ SameStores t.m n ∧ t.m.regs = s.m.regs) := by
  have hop : s.m.hasOp o := ⟨o, (List.mem_filter.mp (List.mem_of_find?_eq_some ho)).1, rfl, rfl, rfl⟩
  have hd : n.duties = s.m.duties := snd_of_eq hr (engWord_duties ..)
  have hu := triggeredSend_reads ho hc hcmd hfin h1 h2 hf hr
  by_cases hmet : o.met = true ∨ thr.toNat % 2 ^ 63 ≤ v % 2 ^ 63
  · obtain ⟨hbc, hst⟩ := Mach.setOp_changes (n := n.invalidate o.leaf 3) (o' := { o with fired := true, watch := none }) hd hop ⟨rfl, rfl, rfl⟩ s.cfg
    refine onMach_completes (step := fun cf m => triggeredSend cf m T j) (hu.trans (if_pos (by simpa using hmet)))
      ⟨fun _ => ⟨hbc, n.invalidate_copies o⟩, fun hm hv => ?_, hst, (Mach.regs_of_duties hd :)⟩
    rcases hmet with hmet | hmet
    · rw [hm] at hmet
      cases hmet
    · omega
  · obtain ⟨hbc, hst⟩ := Mach.setOp_changes (o' := { o with watch := some a }) hd hop ⟨rfl, rfl, rfl⟩ s.cfg
    exact onMach_completes (step := fun cf m => triggeredSend cf m T j) (hu.trans (if_neg (by simpa using hmet)))
      ⟨fun h => absurd h hmet, fun _ _ => hbc, hst, (Mach.regs_of_duties hd :)⟩

end
end Sys2Proof.Machine
end

section
/-! ## Retirement (O54)

With nothing buffered every write of a retirement is delivered at once, and its drain moves nothing. A delivery adds one record to what has been written and touches
of operations only whether an arm's count has been met. What sends fibres on afterwards touches neither stores nor operations. -/
namespace Sys2Proof.Machine

section
variable {s : State} {m n : Mach} {cf : Conf} {T : Nat} {k : EngCtx} {oc : OpCtx} {o : Op} {leaf : Point}

/-! ### What a retirement is read from -/

/-- An operation but for how far it is. -/
def Op.sig (o : Op) : Nat × EngCtx × Nat × Cmd × Option (Nat × Nat × DWord) := (o.t, o.k, o.n, o.cmd, o.fin)

def Mach.sigs (m : Mach) : List (Nat × EngCtx × Nat × Cmd × Option (Nat × Nat × DWord)) := m.ops.map Op.sig
def Mach.codebooks (m : Mach) : List (Nat × List (BitVec 16)) := m.groups.map (fun g => (g.t, g.codebook))
def Mach.reports (m : Mach) : List (Nat × List Report) := m.teams.map (fun x => (x.t, x.reports))

/-- The tiles, the codebooks, the reports, the operations and the buffered writes. -/
def Mach.page (m : Mach) : SMap Word × List (Nat × List (BitVec 16)) × List (Nat × List Report) × List (Nat × EngCtx × Nat × Cmd × Option (Nat × Nat × DWord)) × List BufEnt :=
  (m.acc, m.codebooks, m.reports, m.sigs, m.bufs)

/-- The page, the writes delivered and the bytes of allocations. -/
def Mach.ledger (m : Mach) := (m.page, m.hist, m.scr)

theorem page_iff : n.page = m.page ↔ n.acc = m.acc ∧ n.codebooks = m.codebooks ∧ n.reports = m.reports ∧ n.sigs = m.sigs ∧ n.bufs = m.bufs := by
  simp only [Mach.page, Prod.mk.injEq]

theorem Mach.codebooks_iff {b : List (BitVec 16)} : (∀ g ∈ m.groups, g.t = T → g.codebook = b) ↔ ∀ x ∈ m.codebooks, x.1 = T → x.2 = b := by
  simp [Mach.codebooks]

theorem Mach.team?_reports : (m.team? T).map Team.reports = (m.reports.find? (fun x => x.1 == T)).map Prod.snd := by
  rw [Mach.reports, List.find?_map, Option.map_map]
  rfl

/-! ### A delivery -/

theorem Mach.touch_page (m : Mach) (sp : Space) (a j : Nat) (tag : Option KTag) : (m.touch sp a j tag).page = m.page ∧ (m.touch sp a j tag).hist = m.hist := by
  have hline : ∀ (m : Mach) part line pol key, (m.touchLine part line pol key).page = m.page ∧ (m.touchLine part line pol key).hist = m.hist :=
    fun m part line pol key => by
      unfold Mach.touchLine Mach.fillLine
      split
      · split <;> exact ⟨rfl, rfl⟩
      · dsimp only
        split <;> exact ⟨rfl, rfl⟩
  unfold Mach.touch
  split
  · split
    · exact ⟨foldl_keeps Mach.page (fun m _ => (hline m ..).1) _ m, foldl_keeps Mach.hist (fun m _ => (hline m ..).2) _ m⟩
    · exact ⟨rfl, rfl⟩
  · exact ⟨rfl, rfl⟩

theorem Mach.fillGranules_page (m : Mach) (t a j : Nat) (w : WKind) : (m.fillGranules t a j w).page = m.page ∧ (m.fillGranules t a j w).hist = m.hist := by
  cases w with
  | plain => exact ⟨rfl, rfl⟩
  | stfe =>
    exact ⟨foldl_keeps Mach.page (f := fun m gr => m.setGranule t gr (true, 0xFFFF)) (fun _ _ => rfl) _ m,
      foldl_keeps Mach.hist (f := fun m gr => m.setGranule t gr (true, 0xFFFF)) (fun _ _ => rfl) _ m⟩
  | engine => exact ⟨foldl_keeps Mach.page (fun _ _ => by rfl) _ m, foldl_keeps Mach.hist (fun _ _ => by rfl) _ m⟩

theorem Mach.writeFlats_page (m : Mach) (f : Nat) (bs : List Byte) (tag : Option KTag) : (m.writeFlats f bs tag).page = m.page ∧ (m.writeFlats f bs tag).hist = m.hist := by
  have hgo : ∀ k (m : Mach) f bs tag, (Mach.writeFlats.go k m f bs tag).page = m.page ∧ (Mach.writeFlats.go k m f bs tag).hist = m.hist := fun k => by
    induction k with
    | zero => exact fun _ _ _ _ => ⟨rfl, rfl⟩
    | succ k ih =>
      intro m f bs tag
      unfold Mach.writeFlats.go
      split
      · exact ⟨rfl, rfl⟩
      · exact ih ..
  unfold Mach.writeFlats
  split
  · exact ⟨rfl, rfl⟩
  · exact hgo ..

/-- An arm whose count is met is the same operation. -/
theorem Mach.armsMet_page (m : Mach) (sp : Space) (a j : Nat) : (m.armsMet sp a j).page = m.page := by
  refine page_iff.mpr ⟨rfl, rfl, rfl, ?_, rfl⟩
  simp only [Mach.sigs, Mach.armsMet, List.map_map]
  refine List.map_congr_left fun o _ => ?_
  dsimp only [Function.comp]
  split
  · split <;> rfl
  · rfl

/-- A delivered write is recorded. -/
theorem Mach.deliver_page (m : Mach) (w : Write) : (m.deliver w).page = m.page ∧ (m.deliver w).hist = ⟨w.wid, w.sp, w.addr, w.bytes⟩ :: m.hist := by
  have hrec : ∀ (m : Mach), (m.record w).page = m.page := fun _ => rfl
  have hclear : ∀ (m : Mach) sp a k, (m.clearPoison sp a k).page = m.page := fun _ _ _ _ => rfl
  have hmark : ∀ (m : Mach) t, (m.mark t w).page = m.page := fun _ _ => rfl
  unfold Mach.deliver
  split
  · rw [Mach.armsMet_page, hrec, apply_ite Mach.page, hmark, ite_self, hclear, (Mach.fillGranules_page ..).1, Mach.armsMet_hist, Mach.record_hist,
      apply_ite Mach.hist, Mach.mark_hist, ite_self, Mach.clearPoison_hist, (Mach.fillGranules_page ..).2]
    exact ⟨rfl, rfl⟩
  · exact ⟨rfl, rfl⟩
  · rw [Mach.armsMet_page, hrec, (Mach.touch_page ..).1, hclear, (Mach.writeFlats_page ..).1, Mach.armsMet_hist, Mach.record_hist, (Mach.touch_page ..).2,
      Mach.clearPoison_hist, (Mach.writeFlats_page ..).2]
    exact ⟨rfl, rfl⟩

theorem Mach.uncopies_page (m : Mach) (ps : List Point) (sp : Space) (a j : Nat) : (ps.foldl (fun m p => m.uncopy p sp a j) m).page = m.page ∧
    (ps.foldl (fun m p => m.uncopy p sp a j) m).hist = m.hist :=
  ⟨foldl_keeps Mach.page (f := fun m p => m.uncopy p sp a j) (fun _ _ => rfl) ps m, foldl_keeps Mach.hist (f := fun m p => m.uncopy p sp a j) (fun _ _ => rfl) ps m⟩

/-! ### With nothing buffered -/

/-- The machine has the same page, and what had been written stays recorded. -/
def Mach.Stays (m n : Mach) : Prop := n.page = m.page ∧ ∀ d ∈ m.hist, d ∈ n.hist

theorem Mach.Stays.refl (m : Mach) : m.Stays m := ⟨rfl, fun _ h => h⟩
theorem Mach.Stays.trans {a b c : Mach} (h : a.Stays b) (l : b.Stays c) : a.Stays c := ⟨l.1.trans h.1, fun d hd => l.2 d (h.2 d hd)⟩
theorem Mach.Stays.bufs (h : m.Stays n) (hb : m.bufs = []) : n.bufs = [] := by
  obtain ⟨-, -, -, -, hbufs⟩ := page_iff.mp h.1
  exact hbufs.trans hb

theorem Mach.push_unbuffered (hb : m.bufs = []) (ps : List Point) (sel : Nat → Bool) : m.push ps sel = m := Mach.push_none ps (by simp [hb])

theorem Mach.drain_unbuffered (hb : m.bufs = []) (leaf : Point) (j : Nat) : m.drain leaf j = m := Mach.push_unbuffered hb ..

/-- A write at its home stands in what has been written. -/
def Mach.Wrote (m : Mach) (sp : Space) (a : Nat) (bs : List Byte) : Prop := ∃ d ∈ m.hist, d.sp = sp ∧ d.addr = a ∧ d.bytes = bs

theorem Mach.Wrote.stays {sp : Space} {a : Nat} {bs : List Byte} (h : m.Wrote sp a bs) (hs : m.Stays n) : n.Wrote sp a bs := by
  obtain ⟨d, hd, hw⟩ := h
  exact ⟨d, hs.2 d hd, hw⟩

theorem Mach.writeHome_stays (hb : m.bufs = []) (leaf : Point) (w : Write) : m.Stays (m.writeHome leaf w) ∧ (m.writeHome leaf w).Wrote w.sp w.addr w.bytes := by
  simp only [Mach.writeHome, Mach.push_unbuffered hb]
  obtain ⟨hu, hh⟩ := m.uncopies_page (m.path leaf w.sp) w.sp w.addr w.bytes.length
  generalize (m.path leaf w.sp).foldl (fun m p => m.uncopy p w.sp w.addr w.bytes.length) m = x at hu hh
  obtain ⟨hd, hdh⟩ := x.deliver_page w
  refine ⟨⟨hd.trans hu, fun d h => ?_⟩, ⟨w.wid, w.sp, w.addr, w.bytes⟩, ?_, rfl, rfl, rfl⟩
  · rw [hdh, hh]
    exact List.mem_cons_of_mem _ h
  · rw [hdh]
    exact List.mem_cons_self

theorem Mach.deliverAll_stays (leaf : Point) : ∀ (ws : List (Acc × List Byte)) (m : Mach), m.bufs = [] →
    m.Stays (m.deliverAll leaf ws) ∧ ∀ w ∈ ws, (m.deliverAll leaf ws).Wrote w.1.sp w.1.addr w.2
  | [], m, _ => ⟨.refl m, fun _ h => (List.not_mem_nil h).elim⟩
  | w :: ws, m, hb => by
    obtain ⟨h1, hw1⟩ := Mach.writeHome_stays hb leaf ⟨0, w.1.sp, w.1.addr, w.2, .engine, w.1.tag, false, 0, 0, 0⟩
    obtain ⟨h2, hw2⟩ := Mach.deliverAll_stays leaf ws _ (h1.bufs hb)
    refine ⟨h1.trans h2, fun x hx => ?_⟩
    rcases List.mem_cons.mp hx with rfl | hx
    · exact hw1.stays h2
    · exact hw2 x hx

/-- An atomic that writes. -/
theorem Mach.atomic_stays {sp : Space} {a j : Nat} {tag : Option KTag} {sync : Bool} {f : List Byte → Option (List Byte)} {new : List Byte} (hb : m.bufs = [])
    (hf : f (m.homeBytes sp a j tag) = some new) : m.Stays (m.atomic leaf sp a j tag sync f).2 := by
  simp only [Mach.atomic, Mach.push_unbuffered hb, hf]
  obtain ⟨hd, hdh⟩ := m.deliver_page ⟨0, sp, a, new, .plain, tag, sync, 0, 0, 0⟩
  generalize m.deliver ⟨0, sp, a, new, .plain, tag, sync, 0, 0, 0⟩ = x at hd hdh
  obtain ⟨hu, hh⟩ := x.uncopies_page (m.path leaf sp) sp a j
  generalize (m.path leaf sp).foldl (fun m p => m.uncopy p sp a j) x = y at hu hh
  obtain ⟨ht, hth⟩ := y.touch_page sp a j tag
  refine ⟨(ht.trans hu).trans hd, fun d h => ?_⟩
  rw [hth, hh, hdh]
  exact List.mem_cons_of_mem _ h

/-! ### What is owed -/

def Mach.dueScale (m : Mach) (o : Op) : Mach := o.due.scale.foldl (fun m w => m.setScale o.t w.1 w.2) m
def Mach.dueZero (m : Mach) (o : Op) : Mach := match o.due.zero with
  | some tile => m.setTile o.t tile (fun _ _ => 0)
  | none => m
def Mach.dueBook (m : Mach) (o : Op) : Mach := match o.due.book with
  | some bs => { m with groups := m.groups.map (fun (g : Group) => if g.t = o.t then { g with codebook := codebookOf bs } else g) }
  | none => m
def Mach.dueVer (m : Mach) (o : Op) : Mach := match o.due.ver with
  | some ac => (m.drain o.leaf 3).engAdd o.leaf ac 1
  | none => m

/-- What an operation owes, in order. -/
theorem Mach.applyDue_eq (m : Mach) (o : Op) :
    m.applyDue o = ((((m.deliverAll o.leaf (o.due.writes.filter (fun w => !isFab w.1.sp))).dueScale o).dueZero o).dueBook o).dueVer o := rfl

theorem Mach.dueScale_stays (m : Mach) (o : Op) : m.Stays (m.dueScale o) := by
  have hp := foldl_keeps Mach.page (f := fun m (w : Nat × List Byte) => m.setScale o.t w.1 w.2) (fun _ _ => rfl) o.due.scale m
  have hh := foldl_keeps Mach.hist (f := fun m (w : Nat × List Byte) => m.setScale o.t w.1 w.2) (fun _ _ => rfl) o.due.scale m
  exact ⟨hp, fun d hd => Eq.mpr (congrArg (d ∈ ·) hh) hd⟩

theorem Mach.dueVer_stays (hb : m.bufs = []) (o : Op) : m.Stays (m.dueVer o) := by
  unfold Mach.dueVer
  split
  · rw [Mach.drain_unbuffered hb]
    exact Mach.atomic_stays hb rfl
  · exact .refl m

theorem Mach.dueZero_keeps (m : Mach) (o : Op) : (m.dueZero o).codebooks = m.codebooks ∧ (m.dueZero o).reports = m.reports ∧ (m.dueZero o).sigs = m.sigs ∧
    (m.dueZero o).bufs = m.bufs ∧ (m.dueZero o).hist = m.hist ∧ ∀ i, o.due.zero = some i → (m.dueZero o).zeroTile o.t i := by
  unfold Mach.dueZero
  split
  · next tile hz =>
    refine ⟨rfl, rfl, rfl, rfl, rfl, fun i hi p hp => ?_⟩
    cases hz.symm.trans hi
    exact (Mach.mem_setTile_zero hp).2
  · next hz => exact ⟨rfl, rfl, rfl, rfl, rfl, fun i hi => nomatch hz.symm.trans hi⟩

theorem Mach.dueBook_keeps (m : Mach) (o : Op) : (m.dueBook o).acc = m.acc ∧ (m.dueBook o).reports = m.reports ∧ (m.dueBook o).sigs = m.sigs ∧
    (m.dueBook o).bufs = m.bufs ∧ (m.dueBook o).hist = m.hist ∧ ∀ bs, o.due.book = some bs → ∀ x ∈ (m.dueBook o).codebooks, x.1 = o.t → x.2 = codebookOf bs := by
  unfold Mach.dueBook
  split
  · next b hz =>
    refine ⟨rfl, rfl, rfl, rfl, rfl, fun bs hi => Mach.codebooks_iff.mp fun g hg ht => ?_⟩
    cases hz.symm.trans hi
    obtain ⟨y, -, rfl⟩ := List.mem_map.mp hg
    split
    · rfl
    · next hne =>
      rw [if_neg hne] at ht
      exact absurd ht hne
  · next hz => exact ⟨rfl, rfl, rfl, rfl, rfl, fun bs hi => nomatch hz.symm.trans hi⟩

/-- A retirement's writes stand, a tile it zeroes is zero, and a codebook it brings is every group's. -/
structure Mach.Paid (m : Mach) (o : Op) : Prop where
  writes : ∀ w ∈ o.due.writes, m.Wrote w.1.sp w.1.addr w.2
  zero : ∀ i, o.due.zero = some i → m.zeroTile o.t i
  book : ∀ bs, o.due.book = some bs → ∀ x ∈ m.codebooks, x.1 = o.t → x.2 = codebookOf bs

theorem Mach.Paid.of_eq (h : m.Paid o) (ha : n.acc = m.acc) (hc : n.codebooks = m.codebooks) (hh : ∀ d ∈ m.hist, d ∈ n.hist) : n.Paid o where
  writes w hw := by
    obtain ⟨d, hd, he⟩ := h.writes w hw
    exact ⟨d, hh d hd, he⟩
  zero i hi := by
    rw [Mach.zeroTile, ha]
    exact h.zero i hi
  book bs hb := by
    rw [hc]
    exact h.book bs hb

theorem Mach.Paid.stays (h : m.Paid o) (hs : m.Stays n) : n.Paid o := by
  obtain ⟨ha, hc, -⟩ := page_iff.mp hs.1
  exact h.of_eq ha hc hs.2

theorem Mach.applyDue_paid (hb : m.bufs = []) (hf : ∀ w ∈ o.due.writes, isFab w.1.sp = false) : (m.applyDue o).Paid o ∧ (m.applyDue o).bufs = [] := by
  have hws : o.due.writes.filter (fun w => !isFab w.1.sp) = o.due.writes := List.filter_eq_self.mpr fun w hw => by rw [hf w hw]; rfl
  rw [Mach.applyDue_eq, hws]
  obtain ⟨h1, hw1⟩ := Mach.deliverAll_stays o.leaf o.due.writes m hb
  have h2 := h1.trans (Mach.dueScale_stays _ o)
  have hw2 := fun w hw => (hw1 w hw).stays (Mach.dueScale_stays _ o)
  generalize (m.deliverAll o.leaf o.due.writes).dueScale o = m2 at h2 hw2
  obtain ⟨hc3, -, -, hb3, hh3, hz3⟩ := m2.dueZero_keeps o
  obtain ⟨ha4, -, -, hb4, hh4, hc4⟩ := (m2.dueZero o).dueBook_keeps o
  have hb5 : ((m2.dueZero o).dueBook o).bufs = [] := (hb4.trans hb3).trans (h2.bufs hb)
  have hp : ((m2.dueZero o).dueBook o).Paid o := by
    refine ⟨fun w hw => ?_, fun i hi => ?_, hc4⟩
    · rw [Mach.Wrote, hh4, hh3]
      exact hw2 w hw
    · rw [Mach.zeroTile, ha4]
      exact hz3 i hi
  exact ⟨hp.stays (Mach.dueVer_stays hb5 o), (Mach.dueVer_stays hb5 o).bufs hb5⟩

end
end Sys2Proof.Machine
end

section
/-! ## Retirement: the count, the report and what goes on (O54) -/
namespace Sys2Proof.Machine

section
variable {s : State} {m n : Mach} {cf : Conf} {T : Nat} {k : EngCtx} {oc : OpCtx} {o : Op} {st sub : Nat} {addr : DWord}

/-! ### Fibres that go on leave the ledger -/

theorem Mach.page_updGroup {h : Group → Group} (hs : ∀ x, ((h x).t, (h x).codebook) = (x.t, x.codebook)) (m : Mach) (t g : Nat) : (m.updGroup t g h).ledger = m.ledger := by
  have hp : (m.updGroup t g h).page = m.page := page_iff.mpr ⟨rfl, map_updGroup (fun g : Group => (g.t, g.codebook)) hs m t g, rfl, rfl, rfl⟩
  exact Prod.ext hp rfl

theorem Mach.bumpPort_ledger (m : Mach) (r : FRef) : (m.bumpPort r).ledger = m.ledger := by
  unfold Mach.bumpPort
  dsimp only
  split
  · split <;> rfl
  · rfl

theorem Mach.leavePort_ledger (m : Mach) (r : FRef) (j : Nat) : (m.leavePort r j).ledger = m.ledger := by
  unfold Mach.leavePort
  dsimp only
  split
  · split
    · exact Mach.page_updGroup (fun _ => by rfl) (m.setPort _) r.t r.g
    · rfl
  · rfl

theorem Mach.advance_ledger (m : Mach) (r : FRef) (pc : DWord) (ends : Bool) : (m.advance r pc ends).ledger = m.ledger := by
  unfold Mach.advance
  split
  · rfl
  · split
    · exact (Mach.leavePort_ledger ..).trans (Mach.bumpPort_ledger ..)
    · exact Mach.bumpPort_ledger ..

theorem Mach.woken_ledger (m m0 : Mach) (t g : Nat) : (m.woken m0 t g).ledger = m.ledger := by
  unfold Mach.woken
  split
  · exact Mach.page_updGroup (fun _ => by rfl) m t g
  · rfl

theorem Mach.passWait_ledger (m : Mach) (r : FRef) : (m.passWait r).ledger = m.ledger := by
  unfold Mach.passWait
  split
  · rfl
  · split
    · rfl
    · exact (Mach.woken_ledger ..).trans (Mach.advance_ledger ..)

theorem Mach.endWait_ledger (m : Mach) (r : FRef) : (m.endWait r).ledger = m.ledger := Mach.woken_ledger ..

theorem Mach.completeWait_ledger (m : Mach) (r : FRef) (ws : List (Nat × Nat × Word)) (lat : List (Nat × Word)) : (m.completeWait r ws lat).ledger = m.ledger := by
  unfold Mach.completeWait
  split
  · rfl
  · split
    · rfl
    · split
      · rfl
      · exact Mach.passWait_ledger ..

theorem Mach.releaseBar_ledger (m : Mach) (f : Fibre) : (m.releaseBar f).ledger = m.ledger := by
  unfold Mach.releaseBar
  dsimp only
  split <;> exact Mach.completeWait_ledger ..

theorem Mach.setBar_ledger (m : Mach) (t b : Nat) (x : Bar) : (m.setBar t b x).ledger = m.ledger := by
  have hr : (m.setBar t b x).reports = m.reports := by
    simp only [Mach.reports, Mach.setBar, Mach.updTeam, List.map_map]
    refine List.map_congr_left fun y _ => ?_
    dsimp only [Function.comp]
    split <;> rfl
  have hp : (m.setBar t b x).page = m.page := page_iff.mpr ⟨rfl, rfl, hr, rfl, rfl⟩
  exact Prod.ext hp rfl

theorem Mach.arriveBar_ledger (m : Mach) (t b : Nat) : (m.arriveBar t b).2.ledger = m.ledger := by
  unfold Mach.arriveBar
  split
  · rfl
  · dsimp only
    split
    · exact (foldl_keeps Mach.ledger Mach.releaseBar_ledger ..).trans (Mach.setBar_ledger ..)
    · exact Mach.setBar_ledger ..

theorem Mach.releaseFibre_ledger (m : Mach) (f : Fibre) : (m.releaseFibre f).ledger = m.ledger := by
  unfold Mach.releaseFibre
  split
  · split
    · split
      · rfl
      · exact Mach.endWait_ledger ..
    · exact Mach.completeWait_ledger ..
    · rfl
  · rfl

/-! ### The steps of a retirement -/

/-- The count at its counter. -/
def Mach.counted (m : Mach) (o : Op) (st : Nat) : Mach :=
  (m.atomic o.leaf (.scr o.t) (counterOff o.k) 8 none false (fun old => some (leBytes 8 (countAdd (leNat old) 1 (st != 0))))).2

/-- The report of a failure. -/
def Mach.failNoted (m : Mach) (o : Op) (st sub : Nat) (addr : DWord) : Mach :=
  if st = 0 then m else m.updTeam o.t (fun tm => { tm with reports := modAt tm.reports (ctxNum o.k) (fun _ => ⟨true, st, sub, o.n, addr⟩) })

/-- The operation is gone. -/
def Mach.gone (m : Mach) (o : Op) : Mach := { m with ops := m.ops.filter (fun x => !(x.t == o.t && x.k == o.k && x.n == o.n)) }

/-- Its arrival, and the runs that waited for an MMA's registers. -/
def Mach.departs (m : Mach) (o : Op) : Mach :=
  let m := match arrivesAt o.cmd with
    | some b => (m.arriveBar o.t b).2
    | none => m
  if o.k = .matrix then m.releaseHeld o.t else m

theorem Mach.retireNow_eq (m : Mach) (o : Op) (st sub : Nat) (addr : DWord) : m.retireNow o st sub addr = (((m.counted o st).failNoted o st sub addr).gone o).departs o := rfl

theorem Mach.departs_ledger (m : Mach) (o : Op) : (m.departs o).ledger = m.ledger := by
  have ha : (match arrivesAt o.cmd with
    | some b => (m.arriveBar o.t b).2
    | none => m).ledger = m.ledger := by
    split
    · exact Mach.arriveBar_ledger ..
    · rfl
  unfold Mach.departs
  dsimp only
  split
  · exact (foldl_keeps Mach.ledger Mach.releaseFibre_ledger ..).trans ha
  · exact ha

theorem Mach.counted_stays (hb : m.bufs = []) (o : Op) (st : Nat) : m.Stays (m.counted o st) := Mach.atomic_stays hb rfl

theorem Mach.failNoted_keeps (m : Mach) (o : Op) (st sub : Nat) (addr : DWord) : (m.failNoted o st sub addr).acc = m.acc ∧
    (m.failNoted o st sub addr).codebooks = m.codebooks ∧ (m.failNoted o st sub addr).ops = m.ops ∧ (m.failNoted o st sub addr).hist = m.hist ∧
    (m.failNoted o st sub addr).scr = m.scr := by
  unfold Mach.failNoted
  split <;> exact ⟨rfl, rfl, rfl, rfl, rfl⟩

/-- The names of operations that have not retired. -/
theorem Mach.gone_sigs (h : n.sigs = m.sigs) (o : Op) : (n.gone o).sigs = (m.ops.filter (fun x => !(x.t == o.t && x.k == o.k && x.n == o.n))).map Op.sig := by
  have key : ∀ m : Mach, (m.gone o).sigs = m.sigs.filter (fun x => !(x.1 == o.t && x.2.1 == o.k && x.2.2.1 == o.n)) := fun m => by
    rw [Mach.sigs, Mach.sigs, List.filter_map]
    rfl
  rw [key, h, ← key]
  rfl

theorem Mach.gone_none (m : Mach) (o : Op) : ∀ x ∈ (m.gone o).ops, ¬(x.t = o.t ∧ x.k = o.k ∧ x.n = o.n) := fun x hx h => by
  have := (List.mem_filter.mp hx).2
  simp [h] at this

/-- What a retirement leaves, read off the machine before the fibres go on. -/
structure Mach.Retired (m t : Mach) (o : Op) (st sub : Nat) (addr : DWord) : Prop where
  sigs : t.sigs = (m.ops.filter (fun x => !(x.t == o.t && x.k == o.k && x.n == o.n))).map Op.sig
  acc : t.acc = m.acc
  codebooks : t.codebooks = m.codebooks
  hist : ∀ d ∈ m.hist, d ∈ t.hist
  scr : t.scr = (m.counted o st).scr
  reports : t.reports = ((m.counted o st).failNoted o st sub addr).reports

theorem Mach.retireNow_retired (hb : m.bufs = []) (o : Op) (st sub : Nat) (addr : DWord) : m.Retired (m.retireNow o st sub addr) o st sub addr := by
  rw [Mach.retireNow_eq]
  obtain ⟨hp, hh⟩ := Mach.counted_stays hb o st
  obtain ⟨ha, hc, -, hs, -⟩ := page_iff.mp hp
  obtain ⟨ra, rc, ro, rh, rs⟩ := (m.counted o st).failNoted_keeps o st sub addr
  have hl := Mach.departs_ledger (((m.counted o st).failNoted o st sub addr).gone o) o
  simp only [Mach.ledger, Prod.mk.injEq] at hl
  obtain ⟨hlp, hlh, hls⟩ := hl
  obtain ⟨la, lc, lr, ls, -⟩ := page_iff.mp hlp
  have hsig : ((m.counted o st).failNoted o st sub addr).sigs = m.sigs := (congrArg (List.map Op.sig) ro).trans hs
  exact ⟨ls.trans (Mach.gone_sigs hsig o), la.trans (ra.trans ha), lc.trans (rc.trans hc), fun d hd => hlh ▸ (rh ▸ hh d hd : d ∈ ((m.counted o st).failNoted o st sub addr).hist),
    hls.trans rs, lr⟩

/-! ### The retirement of an operation -/

/-- Nothing is buffered, and nothing owed goes to another device: the operation retires in this step. -/
theorem engineRetire_now {rest : List Op} (ho : m.opsOf T k = o :: rest) (hf : o.fin = some (st, sub, addr)) (hc : opCtx m o = some oc) (hn : o.n ≠ 0)
    (hp : oc.cl.pre ≠ .saved) (ha : o.await = none) (hw : ∀ w ∈ o.due.writes, isFab w.1.sp = false) (hb : m.bufs = []) :
    engineRetire cf m T k = (m.applyDue o).retireNow o st sub addr := by
  have hfar : retireFar cf m o = none := by
    have : o.due.writes.filter (fun w => isFab w.1.sp) = [] := List.filter_eq_nil_iff.mpr fun w h => by simp [hw w h]
    rw [retireFar, this]
    rfl
  obtain ⟨-, hbd⟩ := Mach.applyDue_paid hb hw
  have hwids : (m.applyDue o).fabWids o.leaf = [] := by
    rw [Mach.fabWids, hbd]
    rfl
  have hgo : (decide (o.n = 0) || oc.cl.pre == PreSt.saved) = false := by simp [hn, hp]
  simp only [engineRetire, ho, hf, hc, hgo, Bool.false_eq_true, if_false, hfar, ha, Mach.drain_unbuffered hbd, hwids, ite_self, List.isEmpty_nil, if_true]

theorem Mach.opsOf_named {rest : List Op} (h : m.opsOf T k = o :: rest) : o.t = T ∧ o.k = k := by
  have : o ∈ m.opsOf T k := h ▸ List.mem_cons_self
  simpa using (List.mem_filter.mp this).2

theorem Mach.applyDue_none (hd : o.due = ⟨[], [], none, none, none⟩) : m.applyDue o = m := by
  unfold Mach.applyDue
  rw [hd]
  rfl

/-! ### The count -/

theorem leNat_leBytes : ∀ j v : Nat, leNat (leBytes j v) = v % 256 ^ j
  | 0, v => (Nat.mod_one v).symm
  | j + 1, v => by
    rw [leBytes, leNat, leNat_leBytes j, BitVec.toNat_ofNat]
    exact (Nat.mod_mul (x := v) (a := 256) (b := 256 ^ j)).symm.trans (by rw [Nat.pow_succ'])

theorem countAdd_lt (old inc : Nat) (b : Bool) : countAdd old inc b < 2 ^ 64 := by
  unfold countAdd
  dsimp only
  split <;> omega

theorem Mach.counted_counts (hb : m.bufs = []) (hm : m.canonical = true) (o : Op) (st : Nat) : leNat ((m.counted o st).homeBytes (.scr o.t) (counterOff o.k) 8 none) =
    countAdd (leNat (m.homeBytes (.scr o.t) (counterOff o.k) 8 none)) 1 (decide (st ≠ 0)) := by
  have hst : (st != 0) = decide (st ≠ 0) := Bool.eq_iff_iff.mpr (by simp)
  obtain ⟨-, hs⟩ := Mach.atomic_unbuffered (leaf := o.leaf) (sp := .scr o.t) (a := counterOff o.k) (n := 8) (tag := none) (sync := false) hb
    (f := fun old => some (leBytes 8 (countAdd (leNat old) 1 (st != 0)))) rfl
  have hr := Mach.deliver_homeBytes_scr (tag := none) (w := atomWrite (.scr o.t) (counterOff o.k) none false
    (leBytes 8 (countAdd (leNat (m.homeBytes (.scr o.t) (counterOff o.k) 8 none)) 1 (st != 0)))) rfl hm
  rw [Mach.counted, hs.homeBytes_scr]
  refine (congrArg leNat hr).trans ?_
  rw [atomWrite, leNat_leBytes, hst]
  exact Nat.mod_eq_of_lt (countAdd_lt ..)

/-! ### The report -/

/-- An operation's team. -/
theorem opCtx_team (h : opCtx m o = some oc) : m.team? o.t = some oc.tm := by
  unfold opCtx at h
  split at h
  · cases h
  · next ht =>
    split at h
    · obtain ⟨rc, -, rfl⟩ := Option.map_eq_some_iff.mp h
      exact ht
    · cases h

theorem Mach.failNoted_reads {tm : Team} {d : Report} (ht : m.team? o.t = some tm) (hl : ctxNum o.k < tm.reports.length) :
    ((m.failNoted o st sub addr).team? o.t).map (fun x => x.reports.getD (ctxNum o.k) d) =
      some (if st = 0 then tm.reports.getD (ctxNum o.k) d else ⟨true, st, sub, o.n, addr⟩) := by
  unfold Mach.failNoted
  split
  · rw [ht]
    rfl
  · rw [Mach.team?_updTeam (f := fun tm => { tm with reports := modAt tm.reports (ctxNum o.k) (fun _ => ⟨true, st, sub, o.n, addr⟩) }) ht fun _ h => h, Option.map_some]
    simp [modAt, List.getD, hl]

theorem Mach.report_of_reports {d : Report} {j : Nat} (h : n.reports = m.reports) : (n.team? T).map (fun x => x.reports.getD j d) = (m.team? T).map (fun x => x.reports.getD j d) := by
  have key : ∀ m : Mach, (m.team? T).map (fun x => x.reports.getD j d) = ((m.team? T).map Team.reports).map (fun r => r.getD j d) := fun m => by
    rw [Option.map_map]
    rfl
  rw [key, key, Mach.team?_reports, Mach.team?_reports, h]

end
end Sys2Proof.Machine
end

section
/-! ## Steps of the exchange engine (O54) -/
namespace Sys2Proof.Machine

section
variable {s : State} {T : Nat} {k : EngCtx} {oc : OpCtx} {o : Op} {rest : List Op} {st sub : Nat} {addr : DWord}

/-- An operation that owes nothing retires: its counter rises, its report tells a failure, and it is gone. -/
theorem engineRetire_counts (ho : s.m.opsOf T k = o :: rest) (hf : o.fin = some (st, sub, addr)) (hc : opCtx s.m o = some oc) (hn : o.n ≠ 0) (hp : oc.cl.pre ≠ .saved)
    (ha : o.await = none) (hd : o.due = ⟨[], [], none, none, none⟩) (hb : s.m.bufs = []) (hm : s.m.canonical = true) (hl : ctxNum k < oc.tm.reports.length) :
    Completes (exec (.engineRetire T k) s) (fun t =>
      t.m.ops.map (fun x => (x.t, x.k, x.n, x.cmd, x.fin)) =
        (s.m.ops.filter (fun x => !(x.t == T && x.k == k && x.n == o.n))).map (fun x => (x.t, x.k, x.n, x.cmd, x.fin)) ∧
      leNat (t.m.homeBytes (.scr T) (8 * ctxNum k) 8 none) = countAdd (leNat (s.m.homeBytes (.scr T) (8 * ctxNum k) 8 none)) 1 (decide (st ≠ 0)) ∧
      (t.m.team? T).map (fun x => x.reports.getD (ctxNum k) ⟨false, 0, 0, 0, 0⟩) =
        some (if st = 0 then oc.tm.reports.getD (ctxNum k) ⟨false, 0, 0, 0, 0⟩ else ⟨true, st, sub, o.n, addr⟩)) := by
  obtain ⟨rfl, rfl⟩ := Mach.opsOf_named ho
  have he := engineRetire_now (cf := s.cfg) ho hf hc hn hp ha (by simp [hd]) hb
  rw [Mach.applyDue_none hd] at he
  have h := Mach.retireNow_retired hb o st sub addr
  have hcount := Mach.counted_counts hb hm o st
  obtain ⟨tm, ht, hr⟩ : ∃ tm, (s.m.counted o st).team? o.t = some tm ∧ tm.reports = oc.tm.reports := by
    obtain ⟨-, -, hrep, -, -⟩ := page_iff.mp (Mach.counted_stays hb o st).1
    have := Mach.team?_reports (m := s.m.counted o st) (T := o.t)
    rw [hrep, ← Mach.team?_reports, (opCtx_team hc), Option.map_some] at this
    exact Option.map_eq_some_iff.mp this
  refine onMach_completes (step := fun cf m => engineRetire cf m o.t o.k) he ⟨h.sigs, ?_, ?_⟩
  · exact (congrArg leNat (List.map_congr_left fun i _ => Mach.homeByte_scr_congr h.scr)).trans hcount
  · rw [← hr]
    exact (Mach.report_of_reports h.reports).trans (Mach.failNoted_reads ht (by rw [hr]; exact hl))

/-- An operation that owes nothing to another device retires: what it owes is done, and it is gone. -/
theorem engineRetire_pays (ho : s.m.opsOf T k = o :: rest) (hf : o.fin = some (st, sub, addr)) (hc : opCtx s.m o = some oc) (hn : o.n ≠ 0) (hp : oc.cl.pre ≠ .saved)
    (ha : o.await = none) (hw : ∀ w ∈ o.due.writes, isFab w.1.sp = false) (hb : s.m.bufs = []) :
    Completes (exec (.engineRetire T k) s) (fun t => (∀ x ∈ t.m.ops, ¬(x.t = T ∧ x.k = k ∧ x.n = o.n)) ∧
      (∀ w ∈ o.due.writes, ∃ d ∈ t.m.hist, d.sp = w.1.sp ∧ d.addr = w.1.addr ∧ d.bytes = w.2) ∧
      (∀ i, o.due.zero = some i → ∀ x y, x < 128 → y < 128 → t.m.accAt T i x y = 0) ∧
      (∀ bs, o.due.book = some bs → ∀ g ∈ t.m.groups, g.t = T → g.codebook = codebookOf bs)) := by
  obtain ⟨rfl, rfl⟩ := Mach.opsOf_named ho
  obtain ⟨hpaid, hbd⟩ := Mach.applyDue_paid hb hw
  have h := Mach.retireNow_retired hbd o st sub addr
  have hend := hpaid.of_eq h.acc h.codebooks h.hist
  refine onMach_completes (step := fun cf m => engineRetire cf m o.t o.k) (engineRetire_now ho hf hc hn hp ha hw hb)
    ⟨fun x hx hx' => ?_, hend.writes, fun i hi x y hx hy => (hend.zero i hi).accAt hx hy, fun bs hbs => Mach.codebooks_iff.mpr (hend.book bs hbs)⟩
  have hmem : x.sig ∈ ((s.m.applyDue o).retireNow o st sub addr).sigs := List.mem_map_of_mem hx
  rw [h.sigs] at hmem
  obtain ⟨y, hy, he⟩ := List.mem_map.mp hmem
  simp only [Op.sig, Prod.mk.injEq] at he
  obtain ⟨h1, h2, h3, -⟩ := he
  exact Mach.gone_none (s.m.applyDue o) o y hy ⟨h1.trans hx'.1, h2.trans hx'.2.1, h3.trans hx'.2.2⟩

theorem coll_broken {blk crec drec : List Byte} {w : CollMsg} (h : Working s T .exch oc) (hc : oc.o.cmd = .coll blk crec drec) (hs : oc.o.stage = 0)
    (hb : (collOf crec).bad = true) : Completes (exec (.collective T 1 w) s) (fun t => Ended t oc.o 1 0 oc.o.blkAddr ∧ SameStores t.m s.m) :=
  h.endsFrom rfl ((collUnit_start hc hs).trans (if_pos hb))

end

/-- Settles O54: each unit's outcome is the branch that the hypotheses choose; a retirement with nothing buffered delivers, counts and reports in one step. -/
theorem exchangeSteps : Obligations.ExchangeSteps := by
  intro s
  exact ⟨fun n T w => collective_splits s n T w, fun n T => onMach_work s n T .exch sortUnit, fun _ _ _ h hc hx hb => xput_refused h hc hx hb,
    fun _ _ _ h hc hx hb => xget_refused h hc hx hb, fun _ _ _ h hc hx hb hl => xput_empty h hc hx hb hl, fun _ _ _ h hc hx hb hl => xget_empty h hc hx hb hl,
    fun _ _ _ h hc hx hb hl => xput_begins h hc hx hb hl, fun _ _ _ _ _ _ h hc hx hbad hcut hs hl hr => xput_ungranted h hc hx hbad hcut hs hl hr,
    fun _ _ _ _ _ _ h hc hx hb hl hp hcut => xget_asks h hc hx hb hl hp hcut, fun _ _ _ _ _ _ h hc hs hb => coll_broken h hc hs hb,
    fun _ _ _ _ _ _ _ h hc hs hb hg hl hr hd => coll_differs h hc hs hb hg hl hr hd, fun _ _ _ _ _ _ _ h hc hs hb hg hl hr hbad => coll_refused h hc hs hb hg hl hr hbad,
    fun _ _ _ _ _ _ h hc hs hb hg hl hr hd hbad hw => coll_noslot h hc hs hb hg hl hr hd hbad hw,
    fun _ _ _ _ _ _ _ h hc hs hcut he hl hp hn => coll_data h hc hs hcut he hl hp hn, fun _ _ _ _ _ h hc hs hcut ha hl => coll_written h hc hs hcut ha hl,
    fun _ _ _ _ _ h hc hs hcut => coll_acked h hc hs hcut, fun _ _ _ _ _ h hc hs hcut ha hr => coll_over h hc hs hcut ha hr,
    fun _ _ _ _ _ _ _ h hc hs hcut hr => coll_again h hc hs hcut hr, fun _ _ _ _ _ h hc hs hcut ha hl => coll_resends h hc hs hcut ha hl,
    fun _ _ _ h hc hs hb => xsort_refused h hc hs hb, fun _ _ _ h hc hs hp hk => xsort_keys h hc hs hp hk, fun _ _ _ h hc hs hp => xsort_ends h hc hs hp,
    fun _ _ _ _ _ _ _ h hc hs hp hr hl ha hw hwr => xsort_places h hc hs hp hr hl ha hw hwr,
    fun _ _ _ _ _ _ _ _ _ _ ho hc hcmd hfin h1 h2 hf hr => triggered_reads ho hc hcmd hfin h1 h2 hf hr,
    fun _ _ _ _ _ _ _ _ ho hf hc hn hp ha hd hb hm hl => engineRetire_counts ho hf hc hn hp ha hd hb hm hl,
    fun _ _ _ _ _ _ _ _ ho hf hc hn hp ha hw hb => engineRetire_pays ho hf hc hn hp ha hw hb⟩

end Sys2Proof.Machine
end
